-- ==== Sys2Proof/Word.lean ====
section
/-!
DEFINITION. Word and identifier types of the Cofijan model, and the plainest bit-field arithmetic on words.
A unit of the package is named by a bounded number: the global die (R8), the region 2g + r, the physical
cluster 10g + 5r + c (R473), and so on.
-/
namespace Sys2Proof

/-- One byte. -/
abbrev Byte := BitVec 8
/-- A 32-bit register word (R477). -/
abbrev W32 := BitVec 32
/-- A 64-bit word. -/
abbrev W64 := BitVec 64
/-- A 128-bit tile instruction word (R83). -/
abbrev W128 := BitVec 128

/-- Global physical die number, quadrant × 24 + die (R8). -/
abbrev Die := Fin 96
/-- Region of the package, 2g + r (R357, R473). -/
abbrev Rgn := Fin 192
/-- Physical cluster of the package, 10g + 5r + c (R473). -/
abbrev Clu := Fin 960
/-- Quadrant (R5). -/
abbrev Quad := Fin 4
/-- Job ID; 15 belongs to firmware (R9, R16). -/
abbrev Job := Fin 16
/-- Fabric port P0–P17 (R275). -/
abbrev Port := Fin 18
/-- A link with the training and code words of R280: ports 0–17, and 18 for the Attach Link (R317, R318). -/
abbrev Link := Fin 19
/-- HBM stack H00–H23 (R254). -/
abbrev Stack := Fin 24
/-- Firmware complex: 0 Signal Box, 1 standby, 2–5 block posts BP0–BP3 (R407, R430). -/
abbrev Complex := Fin 6
/-- RISC-V register number. -/
abbrev XReg := Fin 32
/-- Store of a cluster: 0 W, 1 A, 2 P (R19, R165). -/
abbrev Store := Fin 3

/-- Bits [lo + len − 1 : lo] of a word, as a number. -/
def bitsAt {w : Nat} (v : BitVec w) (lo len : Nat) : Nat := (v.toNat >>> lo) % 2 ^ len

/-- Bit `i` of a word. -/
def bitAt {w : Nat} (v : BitVec w) (i : Nat) : Bool := v.getLsbD i

/-- The word with bits [lo + len − 1 : lo] replaced by `x` (cut to `len` bits). -/
def putBits {w : Nat} (v : BitVec w) (lo len x : Nat) : BitVec w :=
  let m : BitVec w := BitVec.ofNat w ((2 ^ len - 1) <<< lo)
  (v &&& ~~~m) ||| (BitVec.ofNat w ((x % 2 ^ len) <<< lo) &&& m)

/-- Little-endian bytes of a number, `n` of them. -/
def leBytes : Nat → Nat → List Byte
  | 0, _ => []
  | n + 1, x => BitVec.ofNat 8 x :: leBytes n (x / 256)

/-- The number a little-endian byte list spells. -/
def leNat : List Byte → Nat
  | [] => 0
  | b :: bs => b.toNat + 256 * leNat bs

/-- Sign extension of the low `n` bits of `x` to an integer. -/
def toSigned (n x : Nat) : Int :=
  let y := x % 2 ^ n
  if y < 2 ^ (n - 1) then (y : Int) else (y : Int) - (2 ^ n : Nat)

/-- 32-bit saturating increment of a counter register. -/
def satInc32 (w : W32) (n : Nat := 1) : W32 :=
  BitVec.ofNat 32 (min (w.toNat + n) (2 ^ 32 - 1))

end Sys2Proof
end

