-- ==== Sys2Proof/Syntax.lean ====
section
/-!
DEFINITION. The commands of the Cofijan: one constructor of `Instr` per row of spec/opcode_table.json, in the
table's order, with the row's operands. The table gives no bits to any row, so the operands are typed data: the
unit the command acts at, the register numbers or fields of the instruction, and, where the command is an arrival
(a packet, a frame, a host message) or a physical event, what arrived or was measured.
-/
namespace Sys2Proof

/-- Which part of the device a tick-phase command runs: the package's own units, or one region's timetable unit
with its stores and clusters (R10, R11). -/
inductive TickPart where
  | package
  | region (rg : Rgn)
  deriving DecidableEq, Repr

/-- The two time pins of R453. -/
inductive TimePin where
  | tickOut
  | ppsOut
  deriving DecidableEq, Repr

/-- A lockstep pair of a cluster (R126). -/
inductive LsUnit where
  | v0
  | v1
  | score
  deriving DecidableEq, Repr

/-- A unit that can wait on a cluster sync counter (R88, R116, R121, R149). -/
inductive SyncWaiter where
  | m (i : Fin 2)
  | v (i : Fin 2)
  | score
  | array
  deriving DecidableEq, Repr

/-- Which M-core output rows reach the P-store together (R86). -/
inductive RowSrc where
  | one (m : Fin 2)
  | both
  deriving DecidableEq, Repr

/-- What the array's comparators or parity found (R161). -/
inductive ArrayFault where
  | lockstep
  | parity
  deriving DecidableEq, Repr

/-- Which copies of a config-store entry a select finds uncorrectable (R156). -/
inductive CfgRead where
  | clean
  | copy0
  | copy1
  | both
  deriving DecidableEq, Repr

/-- A select that completes: the array's cluster, and what its reads of the two copies found (R154, R156). -/
structure SelectDone where
  clu : Fin 960
  found : CfgRead
  deriving DecidableEq, Repr

/-- A local or die tablet of a die's tablet node (R229). -/
inductive NodeTablet where
  | loc (region : Fin 2) (i : Fin 64)
  | die (i : Fin 32)
  deriving DecidableEq, Repr

/-- A mainline packet (R208). `chunks` is the header's CHUNKS (for a READ, the chunks asked for); `payload` holds
the payload bytes. -/
structure Packet where
  type : BitVec 4 := 0
  vc : BitVec 2 := 0
  epoch : Bool := false
  phase : Bool := false
  flag : BitVec 2 := 0
  chunks : BitVec 6 := 0
  job : BitVec 4 := 0
  slot : BitVec 2 := 0
  srcRegion : Bool := false
  txn : BitVec 12 := 0
  srcDie : BitVec 7 := 0
  srcEp : BitVec 6 := 0
  dstDie : BitVec 7 := 0
  dstEp : BitVec 6 := 0
  dstRegion : BitVec 4 := 0
  dstGoff : BitVec 16 := 0
  addr : BitVec 64 := 0
  rplDie : BitVec 7 := 0
  rplEp : BitVec 6 := 0
  rplRegion : BitVec 4 := 0
  rplGoff : BitVec 16 := 0
  group : BitVec 6 := 0
  mask : BitVec 96 := 0
  cmask : BitVec 10 := 0
  poison : BitVec 64 := 0
  payload : List Byte := []
  /-- The MODEL's own mark: the packet carries an armed EPOCH_FLIP or was lost to a RETRY_KILL (R237, R489). -/
  inj : Bool := false
  deriving DecidableEq, Repr

/-- A refusal, retry or drop notice on SIG0 to a timetable unit (R217, R220, R246). -/
structure Notice where
  rgn : Rgn
  slot : Fin 4
  job : Job
  /-- Event code that becomes the cause of the slot's failure. -/
  cause : BitVec 16
  /-- The MODEL's own mark: the cause follows from an ERR_INJECT firing (R489). -/
  inj : Bool := false
  deriving DecidableEq, Repr

/-- What a failed flit belongs to (R219, R227, R234): a flit of a packet on an output of a die's routers, a tablet message of
a cluster's S-core by its operand of R122, the update that carries a root tablet's state to the other root (0–31
through tablets, 32–39 line tablets), or a link of a die's Signal router. -/
inductive FlitAt where
  | line (g : Die) (link : Fin 10) (pk : Packet) (flit : Fin 5)
  | tablet (c : Clu) (t : Fin 256)
  | root (i : Fin 40)
  | signal (g : Die)
  deriving DecidableEq, Repr

/-- A core-to-core message on SIG2 (R239, R244). Destination die physical, source die logical. -/
structure Message where
  dstDie : Die
  dstRegion : Fin 2
  dstSlot : Fin 4
  dstCh : Fin 32
  /-- Physical cluster of the sender, for a drop notice. -/
  srcClu : Clu
  srcCh : Fin 32
  job : Job
  srcSlot : Fin 4
  srcRegion : Fin 2
  srcDie : BitVec 7
  attempt : BitVec 4
  entry : BitVec 12
  otick : BitVec 16
  /-- 1 to 8 payload words. -/
  words : List W32
  deriving DecidableEq, Repr

/-- A fabric frame (R288). `resv` is true when a reserved field of it is not zero. -/
structure Frame where
  ftype : BitVec 6 := 0
  fvc : BitVec 2 := 0
  chunks : BitVec 6 := 0
  srcNode : BitVec 16 := 0
  dstNode : BitVec 16 := 0
  srcInc : Byte := 0
  dstInc : Byte := 0
  fgroup : BitVec 16 := 0
  sseq : BitVec 24 := 0
  txn : BitVec 12 := 0
  srst : Bool := false
  window : Byte := 0
  reason : Byte := 0
  offset : BitVec 48 := 0
  gen : W32 := 0
  len : W32 := 0
  f4 : W64 := 0
  f5 : W64 := 0
  count : W32 := 0
  step : W32 := 0
  resv : Bool := false
  payload : List Byte := []
  deriving DecidableEq, Repr

/-- The HELLO payload of R291. -/
structure HelloInfo where
  proto : Byte
  kind : Byte
  node : BitVec 16
  inc : Byte
  hport : Byte
  caps : Byte
  maxChunks : Byte
  /-- The header it came in (R288). -/
  frame : Frame := { chunks := 1 }
  deriving DecidableEq, Repr

/-- A frame that a port receives. -/
structure PortFrame where
  port : Fin 18
  frame : Frame := {}
  deriving DecidableEq, Repr

/-- Flit slot 0 of a training code word (R280), as received on physical lane `lane`. -/
structure TrainWord where
  lane : Fin 16
  phys : Byte
  logical : Byte
  maxGen : Byte
  minWidth : Byte
  node : BitVec 16
  tport : Byte
  step : Byte
  savedTag : W64
  ffe : W64
  deriving DecidableEq, Repr

/-- Flit slot 0 of an alignment code word (R277). -/
structure AlignWord where
  phys : Byte
  logical : Byte
  gen : Byte
  lseq : BitVec 12
  deriving DecidableEq, Repr

/-- How the decoder found a received code word (R277, R285). -/
inductive CwQuality where
  | clean
  | corrected
  | uncorrectable
  /-- The code word decodes and holds the first flit of a frame whose CRC fails. -/
  | frameCrc
  deriving DecidableEq, Repr

/-- A link control flit (R284). -/
structure ControlFlit where
  ack : BitVec 12
  nakValid : Bool
  nak : BitVec 12
  credit : List (BitVec 16)
  widthOp : Byte
  widthLanes : BitVec 16
  widthLseq : BitVec 12
  deriving DecidableEq, Repr

/-- A message of the Attach Link (R320). `resv` is true when a reserved field is not zero. -/
structure SalMsg where
  op : BitVec 6 := 0
  txn : BitVec 12 := 0
  space : Bool := false
  poison : BitVec 2 := 0
  status : BitVec 4 := 0
  addr : BitVec 48 := 0
  byteMask : W64 := 0
  data : List Byte := []
  resv : Bool := false
  deriving DecidableEq, Repr

/-- An error record (R489), 16 detail bytes as one little-endian number. -/
structure ErrRec where
  code : BitVec 16
  severity : Byte
  job : BitVec 4
  injected : Bool
  loss : Bool
  place : W32
  tick : W64
  detail : BitVec 128
  deriving DecidableEq, Repr

/-- A host completion on its way to the completion engine (R29, R335, R336). -/
structure HostCompl where
  job : Job
  tag : W32
  value : BitVec 20
  entry : BitVec 12
  circuit : BitVec 6
  region : Bool
  slot : BitVec 2
  die : BitVec 7
  tick : W64
  deriving DecidableEq, Repr

/-- What a time frame carries, and the local stamp of its arrival, in 1/16 ns of station time (R310). -/
structure TimeFrame where
  master : BitVec 16
  hops : BitVec 4
  /-- Station time the sender stamped (t1, t3 or t4). -/
  sent : Int
  /-- Local station time of arrival (t2 or t4). -/
  arrived : Int
  /-- The master's tick count. -/
  count : W64
  /-- The header it came in (R288). -/
  frame : Frame := {}
  deriving DecidableEq, Repr

/-- An endpoint a hang monitor names (R414). -/
inductive HangEndpoint where
  | diePosition (g : Die)
  | hbmController (h : Stack)
  | fabricPort (p : Port)
  | collectiveEngine (q : Quad)
  | attachLink
  | firmware (c : Complex)
  deriving DecidableEq, Repr

/-- The transport of an SPDM request (R466). -/
inductive SpdmTransport where
  | mctp
  | mailbox
  deriving DecidableEq, Repr

/-- An instruction of the JTAG port that needs an unlocked level (R463). -/
inductive LevelInstr where
  | debugRead (page : BitVec 24) (off : BitVec 12) (size : Fin 9)
  | debugWrite (page : BitVec 24) (off : BitVec 12) (size : Fin 9) (data : W64)
  | haltCore (c : Complex) (core : Fin 4)
  | stepCore (c : Complex) (core : Fin 4)
  | scan
  | burnOwner (hash : BitVec 256)
  deriving DecidableEq, Repr

/-- The training outcome of one pseudo-channel (R391): its margins under the normal and the fallback settings. -/
structure PcTrain where
  stack : Stack
  pc : Fin 32
  normalRd : Byte
  normalWr : Byte
  fallbackRd : Byte
  fallbackWr : Byte
  /-- The quick check of R397 found an error in either set. -/
  checkError : Bool
  deriving DecidableEq, Repr

/-- A phase of HBM training whose end is reported (R389, R397). -/
inductive HbmPhase where
  | idle
  | soak
  | loaded
  | quick
  deriving DecidableEq, Repr

/-- Results of an HBM test wave for one page or pseudo-channel (R400, R401). -/
structure WavePage where
  stack : Stack
  pc : Fin 32
  page : Fin 2048
  uncorrectable : Bool
  corrected : BitVec 16
  deriving DecidableEq, Repr

/-- A thermal sensor's reading in 0.25 °C (R451). Sensor `s` of 0–191 is sensor s mod 2 of die s div 2. -/
structure TempReading where
  sensor : Fin 192
  value : Int
  deriving DecidableEq, Repr

/-- An entry of a drill plan (R376). -/
structure DrillEntry where
  place : W32
  page : BitVec 16
  bit : Byte
  arg : Byte
  first : W64
  interval : W32
  count : BitVec 16
  flags : Byte
  /-- Bytes 23–31. -/
  tail : BitVec 72
  deriving DecidableEq, Repr

/-- Every command of the Cofijan, in the order of spec/opcode_table.json. -/
inductive Instr where
  -- The timetable (R10–R43)
  | departure (part : TickPart)
  | regionClockGate (rg : Rgn)
  | closeJudgement (part : TickPart)
  | closeEnd (part : TickPart)
  | commit (part : TickPart)
  | guardSignalSend (part : TickPart)
  | pointsSwap
  | throughRebind
  | guardClockStep
  | timePinFall (pin : TimePin)
  | ttLockstep (rg : Rgn)
  | circStart (rg : Rgn) (circ : Fin 64)
  | circStop (rg : Rgn) (circ : Fin 64)
  | circSuspend (rg : Rgn) (circ : Fin 64)
  | circResume (rg : Rgn) (circ : Fin 64)
  | circAbort (rg : Rgn) (circ : Fin 64)
  | entryWrite (rg : Rgn) (entry : Fin 4096) (words : List W64)
  | postArrive (rg : Rgn) (ctr : Fin 32) (value : BitVec 16)
  | remoteReleaseArrive (c : Clu) (st : Store) (reg : Fin 16) (granules : BitVec 20) (job : Job)
  | turnChange (ending : Job) (beginning : Job)
  -- The M-core (R78–R104)
  | mload (c : Clu) (m : Fin 2)
  | mloadComplete (c : Clu) (m : Fin 2)
  | mma (c : Clu) (m : Fin 2)
  | mmas (c : Clu) (m : Fin 2)
  | mdrain (c : Clu) (m : Fin 2)
  | msync (c : Clu) (m : Fin 2)
  | mchk (c : Clu) (m : Fin 2)
  | outputRowArrive (c : Clu) (src : RowSrc)
  | rowCheck (c : Clu) (m : Fin 2)
  | mcMarginClr (c : Clu) (m : Fin 2)
  | mcCapClr (c : Clu) (m : Fin 2)
  | mcCntClr (c : Clu) (m : Fin 2)
  | mcSgClear (c : Clu) (m : Fin 2)
  | arrayFlip (c : Clu) (m : Fin 2)
  | checkFlip (c : Clu) (m : Fin 2)
  -- V-cores and S-cores (R105–R130)
  | vop (c : Clu) (v : Fin 2)
  | vld (c : Clu) (v : Fin 2)
  | vst (c : Clu) (v : Fin 2)
  | vgath (c : Clu) (v : Fin 2)
  | vscat (c : Clu) (v : Fin 2)
  | vsync (c : Clu) (v : Fin 2)
  | lockstepMismatch (c : Clu) (u : LsUnit)
  | lsFlip (c : Clu) (u : LsUnit)
  | tstlo (c : Clu) (rs1 : XReg)
  | tsthi (c : Clu) (rs1 : XReg)
  | tfld (c : Clu) (rs1 : XReg) (pos : Fin 128) (lenM1 : Fin 32)
  | tissue (c : Clu) (unit : Fin 128)
  | ttry (c : Clu) (rd : XReg) (unit : Fin 128)
  | tqdepth (c : Clu) (rd : XReg) (unit : Fin 128)
  | queueRoomResume (c : Clu)
  | msend (c : Clu) (rs1 rs2 : XReg)
  | msendt (c : Clu) (rs1 rs2 : XReg)
  | msendnb (c : Clu) (rd rs1 rs2 : XReg)
  | msendtnb (c : Clu) (rd rs1 rs2 : XReg)
  | blockingSendResume (c : Clu)
  | tsig (c : Clu) (rs1 : XReg)
  | twaitc (c : Clu) (rs1 rs2 : XReg)
  | syncCounterResume (c : Clu) (w : SyncWaiter)
  | tend (c : Clu)
  | mret (c : Clu)
  | tbarrive (c : Clu) (rs1 : XReg)
  | throughArriveResume (c : Clu)
  | tbwait (c : Clu) (rd rs1 : XReg)
  | tbset (c : Clu) (rs1 rs2 : XReg)
  | tbread (c : Clu) (rd rs1 : XReg)
  | tabletTargetWrite (g : Die) (t : NodeTablet) (target : BitVec 16)
  | windowLoad (c : Clu) (rd rs1 : XReg) (imm : BitVec 12) (funct3 : BitVec 3)
  | windowStore (c : Clu) (rs1 rs2 : XReg) (imm : BitVec 12) (funct3 : BitVec 3)
  | fence (c : Clu)
  | csrRead (c : Clu) (rd : XReg) (csr : BitVec 12)
  | ecall (c : Clu)
  | ebreak (c : Clu)
  | illegalInstruction (c : Clu)
  -- The shunting array (R131–R164)
  | saload (c : Clu)
  | saloadComplete (c : Clu)
  | sasel (c : Clu)
  | configSelectDone (x : SelectDone)
  | sabind (c : Clu)
  | sarun (c : Clu)
  | sasync (c : Clu)
  | tileFire (c : Clu) (tile : Fin 64)
  | stepUnitResult (c : Clu) (tile : Fin 64)
  | passComplete (c : Clu)
  | saStall (c : Clu)
  | saLockstep (c : Clu) (tile : Fin 64) (what : ArrayFault)
  | bpClr (c : Clu)
  | stallClr (c : Clu)
  | saCapClr (c : Clu)
  | aluFlip (c : Clu) (tile : Fin 64)
  | parityFlip (c : Clu) (tile : Fin 64)
  -- The stores (R165–R191)
  | regionDescriptorWrite (c : Clu) (st : Store) (reg : Fin 16) (words : List W32)
  | fill (rg : Rgn) (slot : Fin 4) (desc : Fin 256)
  | copy (rg : Rgn) (slot : Fin 4) (desc : Fin 256)
  | copyAcc (rg : Rgn) (slot : Fin 4) (desc : Fin 256)
  | storeOpComplete (rg : Rgn) (slot : Fin 4) (desc : Fin 256)
  | scrubRead (c : Clu) (st : Store)
  | scrubCtrlWrite (c : Clu) (st : Store) (value : W32)
  | homeFlush (c : Clu) (st : Store) (reg : Fin 16)
  | xstCntClr (c : Clu) (st : Store)
  | xstCapClr (c : Clu) (st : Store)
  | bankClr (c : Clu) (st : Store)
  | stCeFlip (c : Clu) (st : Store) (bank : Fin 32)
  | stUeFlip (c : Clu) (st : Store) (bank : Fin 32)
  -- Up Line, Down Line, points tables (R205–R237)
  | read (pk : Packet)
  | write (pk : Packet)
  | readReply (pk : Packet)
  | completion (pk : Packet)
  | groupMcast (pk : Packet)
  | maskMcast (pk : Packet)
  | flitCrcError (f : FlitAt)
  | refusalNotice (n : Notice)
  | lnNoProgress (g : Die) (link : Fin 10)
  | bridgeLaneRepair (g : Die) (link : Fin 10)
  | lineClearArm (tick : W64)
  | lineClearHold
  | lineClearArrive (participant : Fin 100)
  | routeDrainArrive (participant : Fin 22)
  | lnCntClr (g : Die)
  | crcFlip (g : Die) (link : Fin 16)
  | retryKill (g : Die) (link : Fin 16)
  | epochFlip (g : Die) (link : Fin 16)
  -- Message channels (R238–R253)
  | messageArrive (m : Message)
  | heldMessagePlace (c : Clu)
  | dropNotice (n : Notice)
  | handlerDispatch (c : Clu)
  | msgStall (c : Clu)
  | channelWrite (c : Clu) (ch : Fin 32) (words : List W32)
  | msgCntClr (c : Clu)
  | fenceDrop (c : Clu)
  -- DMA and HBM (R254–R274)
  | move (rg : Rgn) (slot : Fin 4) (desc : Fin 256)
  | mcast (rg : Rgn) (slot : Fin 4) (desc : Fin 256)
  | dmaMaskMcast (rg : Rgn) (slot : Fin 4) (desc : Fin 256)
  | descriptorComplete (rg : Rgn) (slot : Fin 4) (desc : Fin 256)
  | patrolScrub (h : Stack) (pc : Fin 32)
  | hbRehomeGo (h : Stack) (value : W32)
  | rehomeSwap (h : Stack)
  | pcFault (h : Stack) (pc : Fin 32) (fallbackFails : Bool)
  | marginMeasure (h : Stack) (pc : Fin 32) (rdMargin wrMargin : Byte)
  | refresh (h : Stack)
  | cowBufferDrain (h : Stack) (pc : Fin 32)
  | cutComplete (job : Job)
  | hbCntClr (h : Stack)
  | hbCapClr (h : Stack)
  | hbCeFlip (h : Stack) (pc : Fin 32)
  | hbUeFlip (h : Stack) (pc : Fin 32)
  | fallback (h : Stack) (pc : Fin 32)
  -- The fabric (R275–R315)
  | trainingCodeWord (l : Link) (w : TrainWord)
  | trainingStepComplete (l : Link) (goodLanes : BitVec 16)
  | trainingLimit (l : Link)
  | redetect (p : Port) (present : Byte)
  | alignmentCodeWord (l : Link) (w : AlignWord)
  | codeWordReceive (l : Link) (lane : Fin 16) (lseq : BitVec 12) (quality : CwQuality)
  | linkControlFlit (l : Link) (f : ControlFlit)
  | laneDrop (l : Link) (lane : Fin 16)
  | laneRejoin (l : Link) (lane : Fin 16)
  | hello (p : Port) (h : HelloInfo)
  | helloAck (p : PortFrame)
  | helloTimer (p : Port)
  | helloTimeout (p : Port)
  | bye (p : PortFrame)
  | nak (p : Port) (f : Frame)
  | quarantineBackoffEnd (p : Port)
  | wr (p : Port) (f : Frame)
  | wrCpl (p : Port) (f : Frame)
  | rd (p : Port) (f : Frame)
  | rdRpl (p : Port) (f : Frame)
  | collData (p : Port) (f : Frame)
  | collDig (p : Port) (f : Frame)
  | collAck (p : Port) (f : Frame)
  | collTimeout (q : Quad) (entry : Fin 64)
  | stop (p : Port) (f : Frame)
  | stopAbort (fgroup : BitVec 16)
  | ltArrive (p : Port) (f : Frame)
  | ltDone (p : Port) (f : Frame)
  | timeSync (p : Port) (t : TimeFrame)
  | timeReq (p : Port) (t : TimeFrame)
  | timeRsp (p : Port) (t : TimeFrame)
  | timeReqTimer
  | timeMasterTimeout
  | takeoverAnn (p : Port) (f : Frame)
  | drainDone (p : Port) (f : Frame)
  | fbNodeWrite (value : W32)
  | retrain (p : Port)
  | unquarantine (p : Port)
  | fbCntClr (p : Port)
  | fbCwUe (p : Port)
  | laneKill (p : Port)
  | vsumFlip (p : Port)
  -- The Attach Link (R316–R330)
  | salRetry
  | rdShared (m : SalMsg)
  | rdOwn (m : SalMsg)
  | rdUncached (m : SalMsg)
  | wrFull (m : SalMsg)
  | wrPartial (m : SalMsg)
  | wb (m : SalMsg)
  | evict (m : SalMsg)
  | snpInv (m : SalMsg)
  | snpShare (m : SalMsg)
  | cmp (m : SalMsg)
  | grantS (m : SalMsg)
  | grantE (m : SalMsg)
  | snpI (m : SalMsg)
  | snpS (m : SalMsg)
  | line (m : SalMsg)
  | atSnpTimeout (txn : BitVec 12)
  | atCplTimeout (txn : BitVec 12)
  | emulatedWrite (page : Fin 4096) (off : BitVec 12) (size : Fin 65) (data : W64)
  | logApply
  | secMbxGo
  | shadowRefresh (page : Fin 4096)
  | doorbell (ring : Fin 16) (tail : BitVec 16)
  | commandFetch (ring : Fin 16) (words : List W64)
  -- Job commands (R339)
  | jobCreate (job : Job) (tag : W32) (seed : W64) (allowTurns : Bool)
  | jobLoad (job : Job) (tag : W32) (addr : W64) (len : W64) (image : List Byte)
  | jobStart (job : Job) (tag : W32)
  | jobSuspend (job : Job) (tag : W32)
  | jobResume (job : Job) (tag : W32)
  | jobStop (job : Job) (tag : W32)
  | jobAbort (job : Job) (tag : W32)
  | jobCheckpoint (job : Job) (tag : W32) (target : W64) (group : Bool)
  | jobRestore (job : Job) (tag : W32) (addr : W64)
  | jobDestroy (job : Job) (tag : W32)
  | alloc (job : Job) (tag : W32) (bytes : W64) (mode : BitVec 2) (set : BitVec 5)
  | free (job : Job) (tag : W32) (dpa : W64)
  -- Device commands (R341)
  | nop (tag : W32)
  | setNode (tag : W32) (node : BitVec 16) (inc : Byte)
  | takeover (tag : W32) (node : BitVec 16) (lostInc : Byte)
  | groupSet (tag : W32) (index : BitVec 64) (fgroup : BitVec 16) (job : Job) (rank : Byte)
      (members : List (BitVec 16 × Byte))
  | routeSet (tag : W32) (entries : List (BitVec 16 × BitVec 18))
  | windowSet (tag : W32) (window : W64) (w2 w3 w4 : W64)
  | attachSet (tag : W32) (window : W64) (dpa : W64) (bytes : W64)
  | stopGroup (tag : W32) (fgroup : BitVec 16)
  | diagRun (tag : W32) (place : W32) (testSet : W64)
  | powerStateRunning (tag : W32)
  | powerStateIdle (tag : W32)
  | powerStateLaidUp (tag : W32)
  | powerCap (tag : W32) (watts : W64)
  | resetComputeDomain (tag : W32)
  | resetDie (tag : W32) (die : W64)
  | resetFullRecovery (tag : W32)
  | trainRecord (tag : W32) (addr : W64)
  | fwExchange (tag : W32) (addr : W64) (len : W64) (image : List Byte)
  | drillSet (tag : W32) (count : BitVec 16) (reserved : BitVec 112) (entries : List DrillEntry)
  | hostCompletionRecord (h : HostCompl)
  | errorRecord (r : ErrRec)
  | forceTbusy
  | snpMute
  | atCwUe
  -- Relief, rotation, drills (R344–R380)
  | clusterRelief (c : Clu)
  | copierComplete (rg : Rgn)
  | dieRelief (g : Die)
  | rotationStart (rg : Rgn)
  | rotationPrepTimeout (rg : Rgn)
  | testSliceEnd (c : Clu) (passed : Bool) (where_ : Byte)
  | rotateNow (rg : Rgn) (cluster : Fin 8)
  | abortRot (rg : Rgn)
  | biCntClr (rg : Rgn)
  | biCapClr (rg : Rgn)
  | biMirrorWrite (rg : Rgn) (value : W32)
  | biFenceWrite (rg : Rgn) (value : W32)
  | pilotFlip (rg : Rgn)
  | sliceFlip (rg : Rgn)
  | drillInjection (entry : Fin 256)
  -- Bring-up and resets (R381–R406, R436–R439)
  | vauxRise
  | pgoodAssert (group : Fin 6)
  | pgoodTimeout (rail : Fin 18) (mV : BitVec 16)
  | pgoodDeassert (rail : Fin 18) (mV : BitVec 16)
  | analogSliceEnd (slice : Fin 30) (passed : Bool) (badObjects : List W32)
  | fwlGo
  | fwlVerifyDone (image : List Byte)
  | startupTestEnd (badUnits : List W32) (concourseFail : Bool)
  | hbmTrainingPhaseEnd (phase : HbmPhase) (throttled : Bool) (results : List PcTrain)
      (temps : List Int) (power : BitVec 32)
  | fabricTrainingEnd
  | hbmWaveEnd (q : Quad) (pages : List WavePage) (margins : List PcTrain)
  | waveTimeout (q : Quad)
  | quadrantJoin (q : Quad)
  | resetN (temps : List Int)
  | resetNHold
  -- Firmware (R407–R433)
  | fwCrash (c : Complex) (cause : Byte) (pc : W64)
  | heartbeatMiss (c : Complex)
  | fwRestart (c : Complex) (digestOk journalOk : Bool)
  | fwTakeover
  | exchangeSwitch
  | probationEnd
  | ttProgressCheck (rg : Rgn)
  | hangResponse (e : HangEndpoint)
  | heartbeatAdvance
  | dumpAccessTimeout (place : W32)
  | dumpLimitExpiry
  | dumpComplete
  | recoveryPhase
  | resetEscalate
  | recoveryTimeout
  | hbStop (c : Complex)
  -- Power and clocks (R434–R456)
  | powerCapLoop (power : BitVec 16)
  | thermalLoop (readings : List TempReading) (references : List Int)
  | thermtrip (sensor : Fin 192) (reading : Int)
  | pllUnlock (q : Quad)
  | regulatorFault (rg : Rgn)
  | wakeStepDone
  | wakeTimeout
  | pwCntClr
  | tempBias (sensor : Fin 256)
  -- Security (R457–R472)
  | trngHealthFail
  | bypass (tdi : Bool)
  | idcode
  | samplePreload (pins : BitVec 64)
  | extest (pins : BitVec 64)
  | dbgChal
  | dbgResp (resp : List Byte)
  | dbgLock
  | nonceLapse
  | getVersion (t : SpdmTransport)
  | getCapabilities (t : SpdmTransport) (version : Byte)
  | negotiateAlgorithms (t : SpdmTransport) (asym hash : W32)
  | getDigests (t : SpdmTransport)
  | getCertificate (t : SpdmTransport) (slot : Byte) (offset length : BitVec 16)
  | challenge (t : SpdmTransport) (slot : Byte) (nonce : BitVec 256)
  | getMeasurements (t : SpdmTransport) (signed : Bool) (index : Byte) (nonce : BitVec 256)
  -- Register pages (R473–R492)
  | errClr (page : BitVec 24)
  | firstClr (page : BitVec 24)
  | evtClr (page : BitVec 24)
  | memoryWindowWrite (page : BitVec 24) (off : BitVec 12) (size : Fin 65) (data : W64)
  | registerWrite (page : BitVec 24) (off : BitVec 12) (size : Fin 65) (data : W64)
  | rv64imcInstruction (c : Clu)
  | timeTickLoRead
  | vauxFall
  | resetNAssert
  | bringupStepLimit (step : Fin 10)
  | unlockedLevelInstruction (i : LevelInstr)
  deriving DecidableEq, Repr

end Sys2Proof
end

