-- ==== Sys2Proof/Decode.lean ====
section
/-!
DEFINITION. The words of the command table: no row of the table has bits, so no word spells a command (log entry 2).
-/
namespace Sys2Proof

/-- The command that a word of the table spells: none. -/
def decodeTableWord (_nbits _w : Nat) : Option Instr := none

end Sys2Proof
end

