-- ==== Sys2Proof/Config.lean ====
section
/-!
DEFINITION. What one part fixes for good: its grade, and the free values. A free value is a constant without a
body: the spec states no value there, and nothing proved of the model rests on one.
-/
namespace Sys2Proof

/-- Grade of the part (R1, R10). -/
inductive Grade where
  | x
  | s
  | e
  deriving DecidableEq, Repr

/-- Cycles per tick at the fused clock (R10). -/
def Grade.cycles : Grade → Nat
  | .x => 13000
  | .s => 11500
  | .e => 9500

/-- Fused Run budget (R10, R12): cycles per tick minus Departure, Close and Guard. -/
def Grade.budget (g : Grade) : Nat := g.cycles - 840

/-- An end of a booked transfer (R199): a logical slot 4·region + n, a logical group, or an endpoint of a concourse edge. -/
inductive BookEnd where
  | slot (ls : Nat)
  | group (g : Nat)
  | edge (die ep : Nat)
  deriving DecidableEq, Repr, Inhabited

/-- A booked transfer (R199). `read`: the destination reads it, so that its bytes come as replies on the Down Line; else its
source writes it on the Up Line (R209). -/
structure Booking where
  src : BookEnd
  dst : BookEnd
  bytes : Nat
  first : Nat
  last : Nat
  read : Bool
  deriving DecidableEq, Repr, Inhabited

namespace Config

/-- A fresh value the spec leaves open, drawn by the counter `Core.freeCtr` (log entry 3). -/
opaque freeValue : Nat → BitVec 64
/-- Where a sum of `len` terms that starts at term `start` splits in two: the shape of an addition tree the spec
calls fixed and does not draw (R60, R97), by the tree's number (log entry 4). -/
opaque treeSplit : Nat → Nat → Nat → Nat
/-- Sign and payload bits of the quiet NaN a unit produces in format `code` (log entry 4). -/
opaque nanBits : Nat → BitVec 32
/-- Choice of a V-core approximation among the results within the bound of R110, by the FN of R109 and the operand
(log entry 7). -/
opaque approx : Nat → BitVec 32 → BitVec 32
/-- Conversion to INT32 of a value outside INT32 or of a NaN: source format code and source bits (R65 names no
INT32 target; log entry 4). -/
opaque int32Corner : Nat → BitVec 32 → BitVec 32
/-- An element or block conversion the spec states no result for, by the call's tag and the operands
(log entry 7). -/
opaque convCorner : Nat → List (BitVec 32) → BitVec 32
/-- Code of one item of a pilot digest: the CRC-64 of its bytes, whose layout the spec does not give (R361;
log entry 4). -/
opaque digestItem : List Nat → BitVec 64
/-- Whether a COPY_ACC descriptor adds INT32 rather than FP32, by its words W0, SRC and DST: R180 names both and no field
chooses (log entry 14). -/
opaque accInt32 : BitVec 64 → BitVec 64 → BitVec 64 → Bool
/-- A booked transfer of a job image, from its 16 bytes (R199, R338 give them no layout; log entry 26). -/
opaque booking : List Byte → Booking
/-- Whether a turn moves a region or re-binds it: the choice that R40 records in the job image, by the place, index and data of
the region's section; R338 gives it no place (log entry 194). -/
opaque turnMoves : Nat → Nat → List Byte → Bool
/-- What section 10 of a job image declares (R338 gives no layout; log entry 26): logical groups with their root die and the
logical slots 4·region + n they deliver to. -/
opaque needGroups : List Byte → List (Nat × Nat × List Nat)
/-- Tablets that section 10 declares: logical die and offset in the tablet node page (log entry 26). -/
opaque needTablets : List Byte → List (Nat × Nat)
/-- Line tablets that section 10 declares: index and LOCAL_TARGET (R305; log entry 26). -/
opaque needLines : List Byte → List (Nat × Nat)
/-- VSUM of an ALL_GATHER chunk of a format with block scales, by the format and the chunk's bytes: R298 sums element values
and no rule places the scales in a chunk (log entry 3). -/
opaque blockVsum : Nat → List Byte → BitVec 64
/-- SHA-256 (log entry 5). -/
opaque sha256 : List Byte → BitVec 256
/-- HMAC-SHA-256 or key derivation over a key and a message (log entry 5). -/
opaque hmac256 : BitVec 256 → List Byte → BitVec 256
/-- SHA-256 of the four vendor keys in mask ROM, by key slot, and of the debug key at 4 (R461, R464; log entry 5). -/
opaque romKeyHash : Nat → BitVec 256
/-- SHA-256 of the Llynset root certificate (R466; log entry 5). -/
opaque rootHash : BitVec 256
/-- Whether the identity key that the fuse secret gives matches a device certificate (R457, R458; log entry 5). -/
opaque identityOk : List Byte → Bool
/-- ROM version (R467; log entry 4). -/
opaque romVersion : BitVec 32
/-- The fuse configuration record of R467, whose layout the spec does not give: grade code, fused MHz, watts, fused-bad
units, revocations, owner hash and minimum SVN (log entry 4). -/
opaque fuseRecord : Nat → Nat → Nat → List (BitVec 32) → Nat → Option (BitVec 256) → Nat → List Byte
/-- Journal records in use, divided by 16, at a tick: the journal's format belongs to the firmware version (R419; log
entry 30). -/
opaque journalUsed : BitVec 64 → BitVec 16
/-- The journal's and the log's bytes as a dump takes them, by complex and tick (R419, R430; log entry 30). -/
opaque journalBytes : Nat → BitVec 64 → List Byte
/-- Bytes that the firmware or a controller chooses and the spec does not give, by a number that names the place and a tick
(settings bytes of R393, a complex's log; log entry 30). -/
opaque openBytes : Nat → BitVec 64 → List Byte
/-- A byte of host memory that the device has not written, at a tick (the host's own; log entry 4). -/
opaque hostByte : Nat → BitVec 64 → BitVec 8
/-- Whether a signature over a message verifies under the key with the given number (log entry 5). -/
opaque sigOk : Nat → List Byte → List Byte → Bool
/-- Code of a JTAG instruction, by its number in `SecS.ir` (R463 names the instructions and gives no codes; log entry 4). -/
opaque jtagCode : Nat → BitVec 16
/-- IDCODE value of the part (R463; log entry 4). -/
opaque idcode : BitVec 32
/-- The signature the device's identity or firmware key makes over a message (log entry 5). -/
opaque sign : List Byte → List Byte

end Config
end Sys2Proof
end

