-- ==== Sys2Proof/Machine/Maps.lean ====
section
/-!
DEFINITION. Sparse maps: sorted association lists in one canonical form. Keys rise strictly and no entry equals what
its key reads as when it is not listed. Memories, register pages and every per-unit table of the state are such maps.
-/
namespace Sys2Proof.Machine

/-- A sparse map from numbers: entries with strictly rising keys. -/
abbrev KMap (α : Type) := List (Nat × α)

/-- The entry at `k`, or `d` where the map lists none. -/
def kget {α : Type} (m : KMap α) (d : α) (k : Nat) : α :=
  match m with
  | [] => d
  | (j, v) :: r => if j = k then v else kget r d k

/-- The map without its entry at `k`. -/
def kdel {α : Type} (m : KMap α) (k : Nat) : KMap α :=
  match m with
  | [] => []
  | (j, v) :: r => if j = k then kdel r k else (j, v) :: kdel r k

/-- The map with `v` listed at `k`. -/
def kins {α : Type} (m : KMap α) (k : Nat) (v : α) : KMap α :=
  match m with
  | [] => [(k, v)]
  | (j, w) :: r =>
    if k < j then (k, v) :: (j, w) :: r
    else if k = j then (k, v) :: r
    else (j, w) :: kins r k v

/-- The map after writing `v` at `k`, where an unlisted `k` reads as `d`: the canonical form is kept. -/
def kput {α : Type} [DecidableEq α] (m : KMap α) (d : α) (k : Nat) (v : α) : KMap α :=
  if v = d then kdel m k else kins m k v

/-- Keys rise strictly and lie above `lo`. -/
def kascFrom {α : Type} (lo : Nat) : KMap α → Bool
  | [] => true
  | (j, _) :: r => decide (lo ≤ j) && kascFrom (j + 1) r

/-- The canonical form: strictly rising keys and no entry that equals its default. -/
def kwf {α : Type} [DecidableEq α] (d : Nat → α) (m : KMap α) : Bool :=
  kascFrom 0 m && m.all (fun e => decide (e.2 ≠ d e.1))

/-- Apply `f 0 x`, then `f 1`, … , `n` times in rising order. -/
def iter {σ : Type} (n : Nat) (f : Nat → σ → σ) (x : σ) : σ :=
  match n with
  | 0 => x
  | k + 1 => f k (iter k f x)

/-- Write a run of values at `k`, `k + 1`, …, every unlisted key reading as `d`. -/
def kputs {α : Type} [DecidableEq α] (m : KMap α) (d : α) (k : Nat) : List α → KMap α
  | [] => m
  | v :: vs => kputs (kput m d k v) d (k + 1) vs

/-- Read `n` values from `k` on. -/
def kgets {α : Type} (m : KMap α) (d : α) (k : Nat) : Nat → List α
  | 0 => []
  | n + 1 => kget m d k :: kgets m d (k + 1) n

/-- Remove the entries with keys in [lo, lo + n). -/
def kclear {α : Type} (m : KMap α) (lo n : Nat) : KMap α :=
  m.filter (fun e => decide (e.1 < lo ∨ lo + n ≤ e.1))

/-- The map with the entries of [a, a + n) copied over those of [b, b + n), every unlisted key reading as `d`. -/
def kcopy {α : Type} [DecidableEq α] (m : KMap α) (d : α) (a b n : Nat) : KMap α :=
  (m.filter (fun e => decide (a ≤ e.1 ∧ e.1 < a + n))).foldl (fun q e => kput q d (b + (e.1 - a)) e.2) (kclear m b n)

/-- First element with the property, with the list without it. -/
def takeFirst {α : Type} (p : α → Bool) : List α → Option (α × List α)
  | [] => none
  | a :: r =>
    if p a then some (a, r)
    else match takeFirst p r with
      | none => none
      | some (b, t) => some (b, a :: t)

/-- The list without its first element that has the property. -/
def dropFirst {α : Type} (p : α → Bool) (l : List α) : List α :=
  match takeFirst p l with
  | none => l
  | some (_, t) => t

/-- Element `i` of a list, or `d`. -/
def nth {α : Type} (l : List α) (d : α) (i : Nat) : α := l.getD i d

end Sys2Proof.Machine
end

