-- ==== Sys2Proof/Machine/Formats.lean ====
section
/-!
DEFINITION. Number formats (R44–R70): exact values, element encodings, conversions, FP32 arithmetic with one rounding
to nearest even, the tile layouts and the stochastic-rounding generator.
-/
namespace Sys2Proof.Machine

/-- A value: NaN, an infinity, or ±m × 2^e exactly (m = 0 is a signed zero). -/
inductive FV where
  | nan
  | inf (neg : Bool)
  | fin (neg : Bool) (m : Nat) (e : Int)
  deriving DecidableEq, Repr

/-- +0. -/
def FV.zero : FV := .fin false 0 0

/-- An integer as a value. -/
def FV.ofInt (i : Int) : FV := .fin (decide (i < 0)) i.natAbs 0

/-- Value × 2^k. -/
def FV.scale (v : FV) (k : Int) : FV :=
  match v with
  | .fin s m e => .fin s m (e + k)
  | w => w

/-- Negation. -/
def FV.neg (v : FV) : FV :=
  match v with
  | .nan => .nan
  | .inf s => .inf (!s)
  | .fin s m e => .fin (!s) m e

/-- Magnitude. -/
def FV.abs (v : FV) : FV :=
  match v with
  | .nan => .nan
  | .inf _ => .inf false
  | .fin _ m e => .fin false m e

/-- Sign bit (false for NaN). -/
def FV.isNeg (v : FV) : Bool :=
  match v with
  | .nan => false
  | .inf s => s
  | .fin s _ _ => s

/-- Whether the value is NaN. -/
def FV.isNan : FV → Bool
  | .nan => true
  | _ => false

/-- Whether the value is finite. -/
def FV.isFin : FV → Bool
  | .fin _ _ _ => true
  | _ => false

/-- Signed integer s·m·2^(e − q) for q ≤ e. -/
def finInt (s : Bool) (m : Nat) (e q : Int) : Int :=
  let x : Int := (m * 2 ^ (e - q).toNat : Nat)
  if s then -x else x

/-- Exact sum (R62; a zero sum is +0 unless both terms are −0). -/
def FV.add (a b : FV) : FV :=
  match a, b with
  | .nan, _ => .nan
  | _, .nan => .nan
  | .inf s, .inf t => if s = t then .inf s else .nan
  | .inf s, _ => .inf s
  | _, .inf t => .inf t
  | .fin s m e, .fin t n f =>
    let q := min e f
    let x := finInt s m e q + finInt t n f q
    if x = 0 then .fin (s && t && decide (m = 0) && decide (n = 0)) 0 0
    else .fin (decide (x < 0)) x.natAbs q

/-- Exact product (R62: Inf × 0 is NaN). -/
def FV.mul (a b : FV) : FV :=
  match a, b with
  | .nan, _ => .nan
  | _, .nan => .nan
  | .inf s, .inf t => .inf (xor s t)
  | .inf s, .fin t n _ => if n = 0 then .nan else .inf (xor s t)
  | .fin s m _, .inf t => if m = 0 then .nan else .inf (xor s t)
  | .fin s m e, .fin t n f => .fin (xor s t) (m * n) (e + f)

/-- a < b on non-NaN values, −0 equal to +0. -/
def FV.lt (a b : FV) : Bool :=
  match a, b with
  | .nan, _ => false
  | _, .nan => false
  | .inf s, .inf t => s && !t
  | .inf s, _ => s
  | _, .inf t => !t
  | .fin s m e, .fin t n f =>
    let q := min e f
    decide (finInt s m e q < finInt t n f q)

/-- a = b on non-NaN values. -/
def FV.eqv (a b : FV) : Bool :=
  match a, b with
  | .nan, _ => false
  | _, .nan => false
  | .inf s, .inf t => s == t
  | .fin s m e, .fin t n f =>
    let q := min e f
    decide (finInt s m e q = finInt t n f q)
  | _, _ => false

/-- floor(log2 of m × 2^e) for m ≠ 0. -/
def flog (m : Nat) (e : Int) : Int := (Nat.log2 m : Int) + e

/-- m × 2^e as a multiple of 2^q, rounded to nearest, ties to even. -/
def rneMul (m : Nat) (e q : Int) : Nat :=
  if q ≤ e then m * 2 ^ (e - q).toNat
  else
    let s := (q - e).toNat
    let t := m / 2 ^ s
    let r := m % 2 ^ s
    let h := 2 ^ (s - 1)
    if h < r ∨ (r = h ∧ t % 2 = 1) then t + 1 else t

/-- m × 2^e as a multiple of 2^q under R68 with the generator value r: truncated, or one step up. -/
def srMul (m : Nat) (e q : Int) (r : Nat) : Nat :=
  if q ≤ e then m * 2 ^ (e - q).toNat
  else
    let s := (q - e).toNat
    let t := m / 2 ^ s
    let f16 := (65536 * (m % 2 ^ s)) / 2 ^ s
    if 65536 ≤ f16 + r then t + 1 else t

/-- A floating-point element encoding (R47). `ieee`: the top exponent is Inf and NaN; `nanTop`: only the all-ones
code is NaN. -/
structure FFmt where
  eb : Nat
  mb : Nat
  bias : Nat
  ieee : Bool
  nanTop : Bool
  deriving DecidableEq, Repr

/-- FP32. -/
def f32 : FFmt := ⟨8, 23, 127, true, false⟩
/-- BF16. -/
def fBf16 : FFmt := ⟨8, 7, 127, true, false⟩
/-- FP16. -/
def fFp16 : FFmt := ⟨5, 10, 15, true, false⟩
/-- E4M3. -/
def fE4m3 : FFmt := ⟨4, 3, 7, false, true⟩
/-- E5M2. -/
def fE5m2 : FFmt := ⟨5, 2, 15, true, false⟩
/-- E3M2. -/
def fE3m2 : FFmt := ⟨3, 2, 3, false, false⟩
/-- E2M3. -/
def fE2m3 : FFmt := ⟨2, 3, 1, false, false⟩
/-- E2M1. -/
def fE2m1 : FFmt := ⟨2, 1, 1, false, false⟩

/-- The element encoding of a format code of R44, where it is a floating-point one. -/
def ffmtOf (code : Nat) : Option FFmt :=
  match code with
  | 0 => some f32 | 1 => some fBf16 | 2 => some fFp16 | 3 => some fE4m3 | 4 => some fE5m2 | 7 => some fE2m1
  | 8 => some fE2m1 | 9 => some fE2m3 | 10 => some fE3m2 | 11 => some fE4m3 | 12 => some fE5m2 | 14 => some fE2m1
  | _ => none

/-- Element bits of a format code (R44). -/
def elemBits (code : Nat) : Nat :=
  match code with
  | 0 | 6 => 32 | 1 | 2 => 16 | 7 | 8 | 14 => 4 | 9 | 10 => 6 | 15 => 2 | _ => 8

/-- Whether a format carries E8M0 block scales (R49). -/
def isBlockFmt (code : Nat) : Bool := decide (8 ≤ code)

/-- Decode an element (R47, R48). -/
def FFmt.decode (f : FFmt) (bits : Nat) : FV :=
  let s := decide (bits / 2 ^ (f.eb + f.mb) % 2 = 1)
  let ex := bits / 2 ^ f.mb % 2 ^ f.eb
  let mant := bits % 2 ^ f.mb
  if f.ieee ∧ ex = 2 ^ f.eb - 1 then (if mant = 0 then .inf s else .nan)
  else if f.nanTop ∧ ex = 2 ^ f.eb - 1 ∧ mant = 2 ^ f.mb - 1 then .nan
  else if ex = 0 then .fin s mant (1 - (f.bias : Int) - f.mb)
  else .fin s (2 ^ f.mb + mant) ((ex : Int) - f.bias - f.mb)

/-- Largest finite magnitude: mantissa and exponent. -/
def FFmt.top (f : FFmt) : Nat × Int :=
  if f.ieee then (2 ^ (f.mb + 1) - 1, (2 ^ f.eb : Nat) - 2 - (f.bias : Int) - f.mb)
  else if f.nanTop then (2 ^ (f.mb + 1) - 2, (2 ^ f.eb : Nat) - 1 - (f.bias : Int) - f.mb)
  else (2 ^ (f.mb + 1) - 1, (2 ^ f.eb : Nat) - 1 - (f.bias : Int) - f.mb)

/-- The NaN code of a format that has one: quiet, with sign and payload free. -/
def FFmt.nanCode (f : FFmt) (code : Nat) : Nat :=
  let p := (Config.nanBits code).toNat
  let sgn := (p / 2 ^ 31) * 2 ^ (f.eb + f.mb)
  let ex := (2 ^ f.eb - 1) * 2 ^ f.mb
  if f.nanTop then sgn + ex + (2 ^ f.mb - 1)
  else sgn + ex + 2 ^ (f.mb - 1) + p % 2 ^ (f.mb - 1)

/-- A converted element, with what R73 counts. -/
structure Conv where
  bits : Nat
  sat : Bool := false
  nanLost : Bool := false
  deriving DecidableEq, Repr

/-- Encode sign and k × 2^q, where k is at most 2^(mb + 1) and q is at least the format's smallest quantum. -/
def FFmt.pack (f : FFmt) (s : Bool) (k : Nat) (q : Int) : Nat :=
  let sgn := if s then 2 ^ (f.eb + f.mb) else 0
  let k2 := if k = 2 ^ (f.mb + 1) then 2 ^ f.mb else k
  let q2 := if k = 2 ^ (f.mb + 1) then q + 1 else q
  if k2 < 2 ^ f.mb then sgn + k2
  else sgn + (q2 + f.mb + f.bias).toNat * 2 ^ f.mb + (k2 - 2 ^ f.mb)

/-- Conversion of R64, R65 and R68 to a floating-point element of format `code`: `sr` holds the generator value of a
stochastic rounding. -/
def FFmt.ofFV (f : FFmt) (code : Nat) (sr : Option Nat) (v : FV) : Conv :=
  let (tm, te) := f.top
  let satTop (s : Bool) : Nat := f.pack s tm te
  -- FP32, BF16 and FP16 overflow to Inf; every other target saturates
  let toInf : Bool := decide (code ≤ 2)
  let infCode (s : Bool) : Nat := (if s then 2 ^ (f.eb + f.mb) else 0) + (2 ^ f.eb - 1) * 2 ^ f.mb
  match v with
  | .nan => if f.ieee ∨ f.nanTop then ⟨f.nanCode code, false, false⟩ else ⟨0, false, true⟩
  | .inf s => if f.ieee then ⟨infCode s, false, false⟩ else ⟨satTop s, true, false⟩
  | .fin s m e =>
    if m = 0 then ⟨f.pack s 0 0, false, false⟩
    else
      let emin : Int := 1 - (f.bias : Int)
      let q := max (flog m e) emin - f.mb
      let k := match sr with
        | none => rneMul m e q
        | some r => srMul m e q r
      let exceeds := decide (finInt false tm te (min te q) < finInt false k q (min te q))
      if exceeds then (if toInf then ⟨infCode s, true, false⟩ else ⟨satTop s, true, false⟩)
      else ⟨f.pack s k q, false, false⟩

/-- FP32 code of a value, rounded once to nearest even. -/
def to32 (v : FV) : W32 := BitVec.ofNat 32 (f32.ofFV 0 none v).bits
/-- Whether the rounding to FP32 overflows. -/
def ovf32 (v : FV) : Bool := v.isFin && (f32.ofFV 0 none v).sat
/-- Value of an FP32 code. -/
def of32 (b : W32) : FV := f32.decode b.toNat
/-- FP32 addition. -/
def fadd (a b : W32) : W32 := to32 ((of32 a).add (of32 b))
/-- FP32 multiplication. -/
def fmul (a b : W32) : W32 := to32 ((of32 a).mul (of32 b))
/-- FP32 quotient of non-negative finite values, rounded to nearest even, with the results of IEEE 754 for a zero divisor. -/
def fdivPos (a b : W32) : W32 :=
  match of32 a, of32 b with
  | .fin _ m e, .fin _ n f =>
    if n = 0 then (if m = 0 then to32 .nan else 0x7F800000)
    else
      -- 64 quotient bits with a sticky bit decide the rounding
      let q := m * 2 ^ 64 / n
      let sticky := if m * 2 ^ 64 % n = 0 then 0 else 1
      to32 (.fin false (2 * q + sticky) (e - f - 65))
  | _, _ => 0

/-- One addition of sums that carry how many additions have overflowed (R62). -/
def faddC (a b : W32 × Nat) : W32 × Nat :=
  let s := (of32 a.1).add (of32 b.1)
  (to32 s, a.2 + b.2 + (if ovf32 s then 1 else 0))

/-- Sum of FP32 values by the addition tree number `tag`, whose shape the spec does not draw (R60, R97), with the
overflows of its additions. -/
def treeSumC (tag : Nat) : Nat → Nat → List W32 → W32 × Nat
  | 0, _, l => l.foldl (fun a x => faddC a (x, 0)) (0, 0)
  | fuel + 1, start, l =>
    match l with
    | [] => (0, 0)
    | [x] => (x, 0)
    | _ =>
      let n := l.length
      let k := 1 + Config.treeSplit tag start n % (n - 1)
      faddC (treeSumC tag fuel start (l.take k)) (treeSumC tag fuel (start + k) (l.drop k))
/-- The sum alone. -/
def treeSum (tag fuel start : Nat) (l : List W32) : W32 := (treeSumC tag fuel start l).1

/-- Conversion to INT8 (R64, R65). -/
def toInt8 (v : FV) : Conv :=
  match v with
  | .nan => ⟨0, false, true⟩
  | .inf s => ⟨if s then 0x80 else 0x7F, true, false⟩
  | .fin s m e =>
    let k := rneMul m e 0
    if s then (if 128 < k then ⟨0x80, true, false⟩ else ⟨(256 - k) % 256, false, false⟩)
    else (if 127 < k then ⟨0x7F, true, false⟩ else ⟨k, false, false⟩)

/-- Conversion to INT32, round to nearest even; out of range is a free value. -/
def toInt32 (code : Nat) (bits : W32) (v : FV) : Nat :=
  match v with
  | .fin s m e =>
    let k := rneMul m e 0
    if s then (if k ≤ 2 ^ 31 then (2 ^ 32 - k) % 2 ^ 32 else (Config.int32Corner code bits).toNat)
    else (if k < 2 ^ 31 then k else (Config.int32Corner code bits).toNat)
  | _ => (Config.int32Corner code bits).toNat

/-- Block scale byte (R49): none is NaN. -/
def e8m0 (b : Nat) : Option Int := if b = 0xFF then none else some ((b : Int) - 127)

/-- Value of a packed element code of a format, before any block scale (R47, R49, R56). -/
def elemValue (code bits : Nat) : FV :=
  match code with
  | 5 => .ofInt (toSigned 8 bits)
  | 6 => .ofInt (toSigned 32 bits)
  | 13 => (FV.ofInt (toSigned 8 bits)).scale (-6)
  | 15 => if bits % 4 = 1 then .fin false 1 0 else if bits % 4 = 2 then .fin true 1 0 else .zero
  | _ => match ffmtOf code with
    | some f => f.decode bits
    | none => .nan

/-- Apply a block scale byte. -/
def scaled (v : FV) (b : Nat) : FV :=
  match e8m0 b with
  | none => .nan
  | some x => v.scale x

/-- Element `i` of elements packed under R50 from byte 0 of a byte list. -/
def packedElem (code : Nat) (l : List Byte) (i : Nat) : Nat :=
  let b (j : Nat) : Nat := (l.getD j 0).toNat
  match elemBits code with
  | 4 => b (i / 2) / 2 ^ (4 * (i % 2)) % 16
  | 6 => (b (i / 4 * 3) + 256 * b (i / 4 * 3 + 1) + 65536 * b (i / 4 * 3 + 2)) / 2 ^ (6 * (i % 4)) % 64
  | 2 => b (i / 4) / 2 ^ (2 * (i % 4)) % 4
  | 16 => b (2 * i) + 256 * b (2 * i + 1)
  | 32 => b (4 * i) + 256 * b (4 * i + 1) + 65536 * b (4 * i + 2) + 2 ^ 24 * b (4 * i + 3)
  | _ => b i

/-- Pack element codes of `w` bits each into bytes, little-endian bit order (R50). -/
def packElems (w : Nat) (xs : List Nat) : List Byte :=
  let total := xs.foldr (fun x acc => x % 2 ^ w + 2 ^ w * acc) 0
  leBytes ((w * xs.length + 7) / 8) total

/-- Largest finite magnitude of a block as (m, e), (0, 0) where every finite element is zero (R66). -/
def amax (vs : List FV) : FV :=
  vs.foldl (fun a v => match v with
    | .fin _ _ _ => if a.lt v.abs then v.abs else a
    | _ => a) FV.zero

/-- Scale byte of a block with largest magnitude `a` for a target with emax `em` (R66). -/
def mxScale (a : FV) (em : Int) : Nat :=
  match a with
  | .fin _ m e => if m = 0 then 0 else (max (-127) (min 127 (flog m e - em)) + 127).toNat
  | _ => 0

/-- emax of R66 for a target format code. -/
def mxEmax (code : Nat) : Int :=
  match code with
  | 8 | 14 => 2 | 9 => 2 | 10 => 4 | 11 => 8 | 12 => 15 | _ => 0

/-- A converted MX block: scale byte, element codes, saturations and NaNs counted. -/
structure BlockConv where
  scale : Nat
  elems : List Nat
  sats : Nat
  nans : Nat
  deriving DecidableEq, Repr

/-- Conversion of an MXINT8 element at scale X = 2^x: q × 2^−6 × X (R49). -/
def mxInt8Elem (v : FV) (x : Int) : Conv := toInt8 (v.scale (6 - x))

/-- Conversion of a block to an MX format (R65, R66, R68); `srs` holds one generator value per element for
stochastic rounding, empty for none. Each NaN element of a block that becomes NaN as a whole is one NaN converted to a format
without NaN, which R73 counts (DESIGN CHOICE, log entry 298). -/
def toMxBlock (code : Nat) (srs : List Nat) (vs : List FV) : BlockConv :=
  let hasNan := vs.any FV.isNan
  let nanFmt : Bool := decide (code = 11 ∨ code = 12)
  let sc := mxScale (amax vs) (mxEmax code)
  let x : Int := (sc : Int) - 127
  let one (i : Nat) (v : FV) : Conv :=
    -- no rule gives the element code of a NaN in a block whose scale says NaN
    if v.isNan && !nanFmt then ⟨(Config.convCorner (256 + code) [BitVec.ofNat 32 i]).toNat % 2 ^ elemBits code, false, true⟩
    else if code = 13 then mxInt8Elem v x
    else match ffmtOf code with
      | some f => f.ofFV code (if srs = [] then none else some (srs.getD i 0)) (v.scale (-x))
      | none => ⟨0, false, false⟩
  let cs := vs.zipIdx.map (fun (p : FV × Nat) => one p.2 p.1)
  let wholeNan := hasNan && !nanFmt
  ⟨if wholeNan then 0xFF else sc, cs.map (fun c => c.bits), (cs.filter (fun c => c.sat)).length,
    if wholeNan then (vs.filter FV.isNan).length else 0⟩

/-- Insertion of the largest magnitude and its index (R67 step 1). -/
def argAmax (vs : List FV) : Nat :=
  (vs.zipIdx.foldl (fun (a : Option (FV × Nat)) (p : FV × Nat) =>
    match a with
    | none => if p.1.isNan then none else some (p.1.abs, p.2)
    | some (b, j) => if b.lt p.1.abs then some (p.1.abs, p.2) else some (b, j)) none).elim 0 (·.2)

/-- Conversion of 32 values to a GFP4 block (R67): scale byte, element codes and guard record. A NaN element or an
infinite guarded element has no stated result beyond R65's scale of 0xFF for NaN. -/
def toGfp4Block (vs : List FV) : Nat × List Nat × Nat :=
  let gi := argAmax vs
  let others := vs.zipIdx.filterMap (fun (p : FV × Nat) => if p.2 = gi then none else some p.1)
  let sc := mxScale (amax others) 2
  let x : Int := (sc : Int) - 127
  let codes := vs.map (fun v => (fE2m1.ofFV 8 none (v.scale (-x))).bits)
  let v := (vs.getD gi FV.zero).scale (-x)
  let c := fE2m1.decode (codes.getD gi 0)
  let g := (fE4m3.ofFV 11 none (v.add c.neg)).bits
  (if vs.any FV.isNan then 0xFF else sc, codes, gi * 2 ^ 11 + g * 8)

/-- The generator of R69: value for the n-th element converted in the attempt. -/
def srValue (seedU : Nat) (n : Nat) : Nat :=
  let m := 2 ^ 64
  let z0 := (seedU + n * 0x9E3779B97F4A7C15) % m
  let z1 := (Nat.xor z0 (z0 / 2 ^ 30)) * 0xBF58476D1CE4E5B9 % m
  let z2 := (Nat.xor z1 (z1 / 2 ^ 27)) * 0x94D049BB133111EB % m
  let z3 := Nat.xor z2 (z2 / 2 ^ 31)
  z3 / 2 ^ 48

/-- SEED_U of R69. -/
def srSeed (seed otick entry slot m : Nat) : Nat :=
  Nat.xor (Nat.xor (Nat.xor (Nat.xor seed (otick % 2 ^ 40 * 2 ^ 24)) (entry % 4096 * 4096)) (slot % 4 * 16)) m

/-- Image bytes of a weight tile (R58), without extension records. -/
def tileBytes (code : Nat) : Nat :=
  match code with
  | 7 => 32768 | 8 => 34816 | 14 => 38976 | 15 => 18496 | 9 | 10 => 51200
  | 3 | 4 | 5 => 65536 | 11 | 12 | 13 => 67584 | 1 | 2 => 131072 | _ => 0

/-- Element bytes of one activation row of K elements (R79). -/
def rowBytes (code k : Nat) : Nat := elemBits code * k / 8

/-- Whether R46 pairs weight format `w` with activation format `a`. -/
def pairOk (w a : Nat) : Bool :=
  let fp8s := [3, 4, 11, 12]
  match w with
  | 15 => [5, 13, 3, 4, 11, 12].elem a
  | 7 | 8 | 14 => [7, 8, 9, 10].elem a || fp8s.elem a
  | 3 | 4 | 11 | 12 | 9 | 10 => fp8s.elem a || [9, 10].elem a
  | 5 | 13 => [5, 13].elem a
  | 1 => decide (a = 1)
  | 2 => decide (a = 2)
  | _ => false

/-- Tolerance class of a pair (R98). -/
def tolClass (w a : Nat) : Nat :=
  match w with
  | 15 => 0
  | 7 | 8 | 14 => 1
  | 3 | 4 | 11 | 12 | 9 | 10 => 2
  | 5 => if a = 5 then 4 else 3
  | 13 => 3
  | 1 => 5
  | _ => 6

/-- CRC-32 of IEEE 802.3, reflected, over bytes (R146). -/
def crc32 (l : List Byte) : Nat :=
  let stepBit (c : Nat) : Nat := if c % 2 = 1 then Nat.xor (c / 2) 0xEDB88320 else c / 2
  let stepByte (c : Nat) (b : Byte) : Nat := iter 8 (fun _ x => stepBit x) (Nat.xor c b.toNat)
  Nat.xor (l.foldl stepByte 0xFFFFFFFF) 0xFFFFFFFF

end Sys2Proof.Machine
end

