-- ==== Sys2Proof/Machine/Pages.lean ====
section
/-!
DEFINITION. The register space (R473–R475): page numbers, page types, place codes (R5–R8), and the reset word and
the access masks of every register of every page, from the register tables of the chapters.
-/
namespace Sys2Proof.Machine

/-- The kinds of register page (R474, R475), with the unit each belongs to. -/
inductive PKind where
  | global
  /-- SBX page: 0 the Signal Box of Q0, 1 the standby of Q2. -/
  | sbx (i : Nat)
  | pw
  | pwRet
  | time
  | sec
  | biUp
  | hbSeg
  | tbRoot
  | fbPkg
  | att
  | hbWin (w : Nat)
  | hb (h : Nat)
  | fbPort (p : Nat)
  | fbColl (q : Nat)
  | tt (rg : Nat)
  | bi (rg : Nat)
  | mc (clu m : Nat)
  | vcore (clu v : Nat)
  | score (clu : Nat)
  | sa (clu : Nat)
  | store (clu st : Nat)
  | msg (clu : Nat)
  | ln (g : Nat)
  | pts (g : Nat)
  | tbNode (g : Nat)
  | sig (g : Nat)
  | dma (g : Nat)
  deriving DecidableEq, Repr

/-- First page of a die (R474). -/
def pageDie (g off : Nat) : Nat := 0x100000 + g * 0x200 + off
/-- Page of unit `u` of cluster 10g + 5r + c (R474). -/
def pageClu (clu u : Nat) : Nat := pageDie (clu / 10) ((clu / 5 % 2) * 0x80 + (clu % 5) * 0x10 + u)
/-- M-core page. -/
def pageMc (clu m : Nat) : Nat := pageClu clu m
/-- V-core page. -/
def pageV (clu v : Nat) : Nat := pageClu clu (2 + v)
/-- S-core page. -/
def pageS (clu : Nat) : Nat := pageClu clu 4
/-- Array page. -/
def pageSa (clu : Nat) : Nat := pageClu clu 5
/-- Store page, store 0 W, 1 A, 2 P. -/
def pageSt (clu st : Nat) : Nat := pageClu clu (6 + st)
/-- MSG page. -/
def pageMsg (clu : Nat) : Nat := pageClu clu 10
/-- TT page of a region. -/
def pageTT (rg : Nat) : Nat := pageDie (rg / 2) ((rg % 2) * 0x80 + 0x50)
/-- BI page of a region. -/
def pageBI (rg : Nat) : Nat := pageDie (rg / 2) ((rg % 2) * 0x80 + 0x51)
/-- LN page. -/
def pageLn (g : Nat) : Nat := pageDie g 0x100
/-- PTS page. -/
def pagePts (g : Nat) : Nat := pageDie g 0x101
/-- TB node page. -/
def pageTb (g : Nat) : Nat := pageDie g 0x102
/-- SIG page. -/
def pageSig (g : Nat) : Nat := pageDie g 0x103
/-- DMA page. -/
def pageDma (g : Nat) : Nat := pageDie g 0x104
/-- SBX page. -/
def pageSbx (i : Nat) : Nat := 1 + i
/-- PW page. -/
def pagePw : Nat := 3
/-- PW retention page. -/
def pagePwRet : Nat := 4
/-- TIME page. -/
def pageTime : Nat := 5
/-- SEC page. -/
def pageSec : Nat := 6
/-- BI bring-up page. -/
def pageBu : Nat := 7
/-- HB segment page. -/
def pageSeg : Nat := 8
/-- TB root page. -/
def pageRoot : Nat := 9
/-- FB package page. -/
def pageFbPkg : Nat := 10
/-- AT page, firmware side. -/
def pageAt : Nat := 11
/-- HB window page. -/
def pageWin (w : Nat) : Nat := 12 + w
/-- HB page. -/
def pageHb (h : Nat) : Nat := 0x10 + h
/-- FB port page. -/
def pageFb (p : Nat) : Nat := 0x30 + p
/-- FB collective page. -/
def pageColl (q : Nat) : Nat := 0x48 + q

/-- The kind of a space-0 page (R475). -/
def kind0 (p : Nat) : Option PKind :=
  match p with
  | 0 => some .global | 1 => some (.sbx 0) | 2 => some (.sbx 1) | 3 => some .pw | 4 => some .pwRet
  | 5 => some .time | 6 => some .sec | 7 => some .biUp | 8 => some .hbSeg | 9 => some .tbRoot
  | 10 => some .fbPkg | 11 => some .att
  | _ =>
    if p < 16 then some (.hbWin (p - 12))
    else if p < 0x28 then some (.hb (p - 0x10))
    else if 0x30 ≤ p ∧ p < 0x42 then some (.fbPort (p - 0x30))
    else if 0x48 ≤ p ∧ p < 0x4C then some (.fbColl (p - 0x48))
    else none

/-- The kind of the page at offset `o` of a die's pages (R474). -/
def kindDie (g o : Nat) : Option PKind :=
  if o < 0x100 then
    let r := o / 0x80
    let x := o % 0x80
    let rg := 2 * g + r
    if x = 0x50 then some (.tt rg)
    else if x = 0x51 then some (.bi rg)
    else if x < 0x50 then
      let clu := 5 * rg + x / 0x10
      match x % 0x10 with
      | 0 => some (.mc clu 0) | 1 => some (.mc clu 1) | 2 => some (.vcore clu 0) | 3 => some (.vcore clu 1)
      | 4 => some (.score clu) | 5 => some (.sa clu) | 6 => some (.store clu 0) | 7 => some (.store clu 1)
      | 8 => some (.store clu 2) | 10 => some (.msg clu) | _ => none
    else none
  else
    match o with
    | 0x100 => some (.ln g) | 0x101 => some (.pts g) | 0x102 => some (.tbNode g) | 0x103 => some (.sig g)
    | 0x104 => some (.dma g) | _ => none

/-- The kind of a page of the Signal network's register space; none where the number is reserved or names a memory
window (R473). -/
def pageKind (p : Nat) : Option PKind :=
  if p < 0x1000 then kind0 p
  else if 0x100000 ≤ p ∧ p < 0x10C000 then kindDie ((p - 0x100000) / 0x200) ((p - 0x100000) % 0x200)
  else none

/-- The three memory windows of R473, with the unit the page belongs to. -/
inductive WinKind where
  | entries (rg : Nat)
  | imem (clu : Nat)
  | dmem (clu : Nat)
  deriving DecidableEq, Repr

/-- The memory window a page belongs to (R473, R476). -/
def winKind (p : Nat) : Option WinKind :=
  if 0x200000 ≤ p ∧ p < 0x20C000 then some (.entries ((p - 0x200000) / 0x100))
  else if 0x300000 ≤ p ∧ p < 0x307800 then some (.imem ((p - 0x300000) / 0x20))
  else if 0x400000 ≤ p ∧ p < 0x40F000 then some (.dmem ((p - 0x400000) / 0x40))
  else none

/-- Signal-network byte address of a region's entry memory. -/
def entryBase (rg : Nat) : Nat := (0x200000 + rg * 0x100) * 4096
/-- Signal-network byte address of a cluster's instruction memory (128 KiB). -/
def imemBase (clu : Nat) : Nat := (0x300000 + clu * 0x20) * 4096
/-- Signal-network byte address of a cluster's local data memory (256 KiB). -/
def dmemBase (clu : Nat) : Nat := (0x400000 + clu * 0x40) * 4096

/-! Place codes (R5–R8). -/

/-- Place code of unit `u` of a cluster, with a sub-index. -/
def placeUnit (clu u sub : Nat) : Nat :=
  let g := clu / 10
  (g / 24) * 2 ^ 28 + (g % 24) * 2 ^ 23 + (clu / 5 % 2) * 2 ^ 22 + (clu % 5) * 2 ^ 19 + u * 2 ^ 15 + sub % 2 ^ 15
/-- Place code of a cluster. -/
def placeClu (clu : Nat) : Nat := 2 ^ 30 + placeUnit clu 0 0
/-- Place code of a region. -/
def placeRg (rg : Nat) : Nat :=
  2 ^ 31 + (rg / 48) * 2 ^ 28 + (rg / 2 % 24) * 2 ^ 23 + (rg % 2) * 2 ^ 22
/-- Place code of a region's timetable unit (unit 11). -/
def placeTT (rg : Nat) : Nat := placeUnit (5 * rg) 11 0
/-- Place code of a die position, router output `o` (R6). -/
def placeDie (g o : Nat) : Nat := 3 * 2 ^ 30 + (g / 24) * 2 ^ 28 + (g % 24) * 2 ^ 23 + o
/-- Place code of an edge block of quadrant `q` (R7). -/
def placeEdge (q ty i : Nat) : Nat := 3 * 2 ^ 30 + q * 2 ^ 28 + 24 * 2 ^ 23 + ty * 256 + i
/-- Quadrant of a fabric port (R275). -/
def portQuad (p : Nat) : Nat := if p < 4 then 0 else if p < 8 then 1 else if p < 13 then 2 else 3
/-- Place code of the Signal Box of Q0 or its standby of Q2. -/
def placeSbx (i : Nat) : Nat := placeEdge (2 * i) 4 0

/-- Whether edge block type `ty`, number `i`, exists on quadrant `q` (R7); a bridge joins neighbouring quadrants (R205). -/
def edgeOk (q ty i : Nat) : Bool :=
  match ty with
  | 0 => decide (i < 24 ∧ i / 6 = q)
  | 1 => decide (i < 18 ∧ portQuad i = q)
  | 7 => decide (i < 4 ∧ i ≠ q ∧ i + q ≠ 3)
  | 8 => decide (i = 0 ∧ (q = 0 ∨ q = 2))
  | 4 => decide (i = 0 ∧ (q = 0 ∨ q = 2))
  | 5 | 6 => decide (i = 0 ∧ q = 0)
  | 2 | 3 => decide (i = 0)
  | _ => false

/-- Whether a code names a location (R6). Router outputs are never accepted in a command. -/
def placeOk (p : Nat) : Bool :=
  let scope := p / 2 ^ 30
  let die := p / 2 ^ 23 % 32
  let region := p / 2 ^ 22 % 2
  let clu := p / 2 ^ 19 % 8
  let unit := p / 2 ^ 15 % 16
  let sub := p % 2 ^ 15
  let q := p / 2 ^ 28 % 4
  if scope = 3 then
    decide (region = 0 ∧ clu = 0 ∧ unit = 0) &&
      (decide (die < 24 ∧ sub = 0) ||
       (decide (die = 24) && edgeOk q (sub / 256) (sub % 256)))
  else
    decide (die < 24 ∧ clu < 5 ∧ unit < 12 ∧
      (scope = 0 ∨ (scope = 1 ∧ unit = 0 ∧ sub = 0) ∨ (scope = 2 ∧ clu = 0 ∧ unit = 0 ∧ sub = 0)))

/-- Global die of a place code of scopes 0–2, or of a die position. -/
def placeGDie (p : Nat) : Nat := (p / 2 ^ 28 % 4) * 24 + p / 2 ^ 23 % 32
/-- Region 2g + r of a place code of scopes 0–2. -/
def placeRegion (p : Nat) : Nat := 2 * placeGDie p + p / 2 ^ 22 % 2
/-- Cluster 10g + 5r + c of a place code of scopes 0 and 1. -/
def placeCluster (p : Nat) : Nat := 5 * placeRegion p + p / 2 ^ 19 % 8
/-- Instance of a place code of a concourse edge. -/
def placeInst (p : Nat) : Nat := p % 256
/-- Unit field of a place code. -/
def placeUnitNo (p : Nat) : Nat := p / 2 ^ 15 % 16
/-- Sub-index of a place code. -/
def placeSub (p : Nat) : Nat := p % 2 ^ 15

/-- Die position, within its quadrant, of the router an edge endpoint attaches to (R207). -/
def edgeRouter (q ep : Nat) : Nat :=
  if ep < 6 then (if q < 2 then ep else 18 + ep)
  else if 8 ≤ ep ∧ ep < 12 then (if q % 2 = 0 then 6 * (ep - 8) else 6 * (ep - 8) + 5)
  else if ep = 12 then (if q = 2 then 19 else 22)
  else if ep = 16 then (if q = 0 then 23 else if q = 1 then 18 else if q = 2 then 5 else 0)
  else if ep = 17 then (if q = 0 then 17 else if q = 1 then 12 else if q = 2 then 11 else 6)
  else if ep = 18 then (if q = 0 then 16 else 10)
  else 22

/-- Whether R207 gives quadrant q the edge endpoint. -/
def edgeEpOk (q ep : Nat) : Bool :=
  decide (ep < 6 ∨ (8 ≤ ep ∧ ep < 12) ∨ (ep = 12 ∧ 2 ≤ q) ∨ ep = 16 ∨ ep = 17 ∨ (ep = 18 ∧ q % 2 = 0) ∨
    (ep = 19 ∧ q = 0))

/-- An entry of PTS_EDGE_MAP: VALID and the global router die. -/
def edgeMapEntry (i : Nat) : Nat :=
  if edgeEpOk (i / 20) (i % 20) then 128 + 24 * (i / 20) + edgeRouter (i / 20) (i % 20) else 0

/-! The common header (R479, R480) and the reset words of the block fields. -/

/-- Event class, page type and place code of a page kind (R475, R480, R490). -/
def kindId : PKind → Nat × Nat × Nat
  | .global => (0x00, 0x0001, placeSbx 0)
  | .sbx i => (0x0E, 0x0002, placeSbx i)
  | .pw => (0x0C, 0x0003, placeSbx 0)
  | .pwRet => (0x0C, 0x0004, placeSbx 0)
  | .time => (0x0A, 0x0005, placeSbx 0)
  | .sec => (0x0D, 0x0006, placeSbx 0)
  | .biUp => (0x0F, 0x0007, placeSbx 0)
  | .hbSeg => (0x09, 0x0008, placeSbx 0)
  | .tbRoot => (0x07, 0x0009, placeEdge 0 8 0)
  | .fbPkg => (0x0A, 0x000A, placeSbx 0)
  | .att => (0x0B, 0x000B, placeEdge 0 5 0)
  | .hbWin _ => (0x09, 0x000C, placeSbx 0)
  | .hb h => (0x09, 0x0030, placeEdge (h / 6) 0 h)
  | .fbPort p => (0x0A, 0x0031, placeEdge (portQuad p) 1 p)
  | .fbColl q => (0x0A, 0x0032, placeEdge q 2 0)
  | .tt rg => (0x01, 0x0010, placeTT rg)
  | .bi rg => (0x0F, 0x0011, placeRg rg)
  | .mc c m => (0x02, 0x0012, placeUnit c m 0)
  | .vcore c v => (0x03, 0x0013, placeUnit c (2 + v) 0)
  | .score c => (0x03, 0x0014, placeUnit c 4 0)
  | .sa c => (0x04, 0x0015, placeUnit c 5 0)
  | .store c st => (0x05, 0x0016 + st, placeUnit c (6 + st) 0)
  | .msg c => (0x08, 0x0019, placeUnit c 10 0)
  | .ln g => (0x06, 0x0020, placeDie g 0)
  | .pts g => (0x06, 0x0021, placeDie g 0)
  | .tbNode g => (0x07, 0x0022, placeDie g 0)
  | .sig g => (0x06, 0x0023, placeDie g 0)
  | .dma g => (0x09, 0x0024, placeDie g 0)

/-- Writable bits of ERR_INJECT, 0 where the chapter defines none. -/
def injMask : PKind → Nat
  | .mc _ _ => 0x3
  | .vcore _ _ => 0x1
  | .score _ => 0x1
  | .sa _ => 0x3F03
  | .store _ _ => 0x1F03
  | .ln _ => 0xF07
  | .msg _ => 0x1
  | .hb _ => 0x1F07
  | .fbPort _ => 0x7
  | .att => 0x7
  | .bi _ => 0x3
  | .sbx _ => 0x701
  | .pw => 0xFF01
  | _ => 0

/-- Whether the block runs on VAUX (CAP.VAUX): the Signal Box and its standby (R434). -/
def kindVaux : PKind → Bool
  | .sbx _ => true
  | _ => false

/-- Reset word of a header offset (R479, R480). -/
def headerReset (k : PKind) (off : Nat) : Nat :=
  let (cls, ty, place) := kindId k
  if off = 0 then cls * 2 ^ 16 + ty
  else if off = 4 then place
  else if off = 8 then 0x10000
  else if off = 0xC then (if injMask k = 0 then 0 else 2 ^ 31) + 2 ^ 30 + (if kindVaux k then 2 ^ 29 else 0)
  else if off = 0x14 then 2 ^ 31
  else 0

/-- Reset word of a block field, from the register tables of the chapters; 0 where none is listed. -/
def blockReset (gr : Grade) (k : PKind) (off : Nat) : Nat :=
  match k with
  | .global =>
    if off = 0x40 then 96 * 2 ^ 24
    else if off = 0x48 then 30 * 2 ^ 5 + 15
    else if off = 0x4C then 2 ^ 24 + 7 * 2 ^ 20 + 64 * 2 ^ 13 + 256 * 2 ^ 4
    else 0
  | .sbx _ =>
    if off = 0x40 then 3 * 2 ^ 30 else if off = 0x44 then 3 else if off = 0x48 then 2000
    else if off = 0x4C then 2 ^ 31 + 500 else 0
  | .pw =>
    if off = 0x50 then gr.cycles * 2 ^ 16 + gr.cycles / 10
    else if off = 0x4C then gr.cycles / 10
    else if off = 0x54 then gr.cycles / 10
    else if off = 0x5C then 3 * 2 ^ 30
    else 0
  | .time => if off = 0x54 then 2 ^ 30 + 50 else if off = 0x58 then 31 else 0
  | .tbRoot => if off = 0x348 then 1024 else 0
  | .hb _ =>
    if off = 0x4C then 2 ^ 31 + 720 else if off = 0x50 then 8 else if off = 0x54 then 6 else 0
  | .fbPort _ =>
    if off = 0x40 then 2 ^ 31 + 3 * 2 ^ 29 + 2 * 2 ^ 27 + 0xFF * 2 ^ 19 + 2 ^ 18
    else if off = 0x5C then 4 else 0
  | .fbColl _ => if off = 0xC0 then 1000 else 0
  | .tt _ =>
    if off = 0x40 ∨ off = 0x44 then 4 * 2 ^ 18 + 3 * 2 ^ 12 + 2 * 2 ^ 9 + 1 * 2 ^ 6
    else if off = 0x48 ∨ off = 0x4C then gr.budget else 0
  | .bi _ =>
    if off = 0x40 then 4 * 2 ^ 26 else if off = 0x4C then 65536 else if off = 0x50 then 64
    else if off = 0x54 then 1024 else 0
  | .mc _ _ =>
    if 0x80 ≤ off ∧ off < 0xB8 then
      let c := (off - 0x80) / 8
      if c = 4 then 0
      else if off % 8 = 0 then 0x03800000
      else if c < 4 then 0xEC else 0xED
    else if off = 0x600 then 2 ^ 29 + 0xE8 * 2 ^ 17
    else 0
  | .sa _ => if off = 0x44 then 0x1000 else 0
  | .store _ _ =>
    if off = 0x40 then 2 ^ 30 else if off = 0x58 then 2 ^ 31 + 64 else if off = 0x5C then 16
    else if off = 0x308 then 16 else 0
  | .pts _ =>
    if 0x400 ≤ off ∧ off < 0x4A0 then
      edgeMapEntry ((off - 0x400) / 2) + edgeMapEntry ((off - 0x400) / 2 + 1) * 65536
    else 0
  | .msg _ => if off = 0x44 then 4096 else 0
  | .ln _ => if off = 0x44 then 16384 else 0
  | _ => 0

/-- Reset value of the register word with key page × 1,024 + offset / 4. -/
def resetWord (gr : Grade) (key : Nat) : W32 :=
  match pageKind (key / 1024) with
  | none => 0
  | some k =>
    let off := 4 * (key % 1024)
    BitVec.ofNat 32 (if off < 0x40 then headerReset k off else blockReset gr k off)

end Sys2Proof.Machine
end

