-- ==== Sys2Proof/Machine/State.lean ====
section
/-!
DEFINITION. The state of the Cofijan: every register page (as words of `Core.regs`), every memory, queue, buffer,
packet in flight, link, job, pin and firmware complex the spec names, as plain data. Sparse tables are `KMap`s in
canonical form. The grouping follows the spec's chapters; the fields of one group are written only by its operations.
-/
namespace Sys2Proof.Machine

/-- A byte with its poison mark (R183). -/
abbrev PB := Byte × Bool

/-! ## Registers, time and error records -/

/-- What every block shares: the station tick and the cycle within it (R10, R309), the fused grade, the register
words of every page of spaces 0 and 1 (R473–R475), the bytes of the memory windows of spaces 2–4 (R476), the error
records on SIG1 (R227, R489), which SBX page is in charge (R481), and the counter of free values. -/
structure Core where
  tick : W64
  cycle : Nat
  /-- Cycles per tick at the clock in force (R10, R12, R443). -/
  cpt : Nat
  grade : Grade
  /-- Register words: key = page × 1,024 + offset / 4; an unlisted key reads `resetWord`. -/
  regs : List (Nat × W32)
  /-- Bytes of the memory windows by Signal-network address; an unlisted byte is 0 (R119). -/
  win : List Host.Cell
  /-- Error records sent on SIG1 and not yet at their sinks. -/
  records : List ErrRec
  /-- True once the standby of Q2 has taken over (R417). -/
  standby : Bool
  /-- The MODEL's own field: how many free values have been drawn. -/
  freeCtr : Nat
  deriving DecidableEq, Repr

/-! ## The timetable -/

/-- Class of a failure cause (R32). -/
inductive CauseClass where
  | check
  | program
  | data
  deriving DecidableEq, Repr

/-- A failure cause recorded against a cluster for the tick (R27, R32). -/
structure FailCause where
  code : Nat
  cls : CauseClass
  /-- The unit still busy, for TT_OVERRUN (R14, R41). -/
  busy : Nat
  /-- The job faults without replay (R32, R100 and the like). -/
  fatal : Bool
  /-- Charged by a handler of another job: never the first of two failures (R128). -/
  lenient : Bool
  /-- Follows from an ERR_INJECT firing (R489). -/
  inj : Bool := false
  deriving DecidableEq, Repr

/-- A logical slot that runs, or is due to run, an entry (R18, R28, R33). -/
structure SlotRun where
  circ : Nat
  entry : Nat
  attempt : Nat
  /-- Physical cluster 10g + 5r + c of the present or last run. -/
  clu : Nat
  /-- The 32 words of the entry, as snapshot at Departure (R42). -/
  words : List W64
  /-- ORIG_TICK of R69. -/
  otick : W64
  /-- Due for replay: not departed in this tick. -/
  due : Bool
  /-- Causes of the failed attempt it replays; empty for a first attempt. -/
  first : List FailCause
  /-- Waits for the block post to move the slot to the relief cluster (R33, R346). -/
  relief : Bool
  /-- Aborted by ABORT, a stop or teardown: fails without release and without replay (R25). -/
  aborted : Bool
  /-- Both failed attempts met an injected fault: the relief that follows is a drill's (R364, R376). -/
  drill : Bool := false
  deriving DecidableEq, Repr

/-- A message on SIG0 to a timetable unit or a store (R29, R30, R178). -/
inductive Sig0 where
  | post (rg ctr value : Nat)
  | release (clu st reg granules job : Nat)
  deriving DecidableEq, Repr

/-- The timetable units (R10–R43). Keys: slot 4·rg + n; circuit 64·rg + n; region rg; cluster 10g + 5r + c. -/
structure TtS where
  runs : KMap (Option SlotRun)
  /-- Pilot runs on the relief cluster, by region (R359). -/
  pilots : KMap (Option SlotRun)
  fails : KMap (List FailCause)
  /-- Outcome fixed at the end of Close: slots that failed in this tick (R27). -/
  failed : KMap Bool
  /-- Round-robin pointer of R22. -/
  rr : KMap Nat
  /-- START given: RUNNING at the next Departure (R25). -/
  startPend : KMap Bool
  /-- SUSPEND given while a slot is in flight (R25). -/
  suspPend : KMap Bool
  /-- ABORT given: STOPPED at the next Guard (R25). -/
  abortPend : KMap Bool
  /-- Tick of the last TT_LOCKSTEP plus one, by region (R35). -/
  lockstep : KMap Nat
  /-- A second consecutive TT_LOCKSTEP: a die fault (R35). -/
  lockFault : KMap Bool
  /-- Messages sent on SIG0 and not yet arrived. -/
  sig0 : List Sig0
  /-- Posts and releases held for the next Guard offset 0 (R30, R178). -/
  held : List Sig0
  /-- Posts and releases made at commit and not yet sent, with the acting region (R11). -/
  sigOut : List (Nat × Sig0)
  /-- Run limit in force of a region plus one; 0 = none below the fused budget yet (R12). -/
  limit : KMap Nat
  /-- Host completions made at commit and not yet sent (R29). -/
  hostOut : List HostCompl
  /-- Jobs faulted by hardware, each with the event that faulted it, for firmware to stop (R15, R33, R178, R179). -/
  faulted : List (Nat × Nat)
  deriving DecidableEq, Repr

/-! ## M-cores -/

/-- A weight buffer of an M-core (R78, R80, R94): the decoded image bytes, one per T2 quarter 2h + v, otherwise one. -/
structure MBuf where
  valid : Bool
  fmt : Nat
  quads : Nat
  imgs : KMap (List Byte)
  /-- Images loaded with a poisoned byte, as a mask like `quads` (R102). -/
  poison : Nat
  deriving DecidableEq, Repr

/-- An output row on its way to the P-store (R86). -/
structure MRow where
  reg : Nat
  /-- Byte offset from the output origin. -/
  off : Nat
  init : Bool
  /-- INT32 outputs (R61). -/
  int : Bool
  vals : List W32
  poison : Bool
  /-- Columns replaced by a segment fill value (R91). -/
  masked : List Bool
  /-- A row check is due for it (R97: none for a poisoned row). -/
  chk : Bool
  deriving DecidableEq, Repr

/-- A row check whose result is due (R97, R99). -/
structure MChk where
  itag : Nat
  row : Nat
  cls : Nat
  skip : Bool
  fail : Bool
  y : W32
  d : W32
  tau : W32
  /-- |Y − D| / τ. -/
  ratio : W32
  /-- An injected flip reached it (R104, R489). -/
  inj : Bool := false
  deriving DecidableEq, Repr

/-- What MCHK reports of this tick (R89). -/
structure MRec where
  checked : Nat
  skipped : Nat
  failed : Nat
  ratio : W32
  firstTag : Nat
  firstRow : Nat
  deriving DecidableEq, Repr

/-- M-cores, key 2·clu + m (R78–R104). -/
structure McS where
  queue : KMap (List W128)
  /-- Weight buffers, key 2·(2·clu + m) + b. -/
  bufs : KMap MBuf
  /-- An MLOAD in progress: its word and the image read, with the buffer's poison. -/
  load : KMap (Option (W128 × List Byte × Bool))
  rows : KMap (List MRow)
  checks : KMap (List MChk)
  recs : KMap MRec
  /-- MSYNC at the head waits for its counter. -/
  waiting : KMap Bool
  /-- Shadow counts of R74: five counters and sixteen bins. -/
  shadow : KMap (List Nat)
  /-- A CLEAR that waits for the additions of the present Guard (R74). -/
  sgClear : KMap Bool
  /-- Elements converted with stochastic rounding in this attempt (R69). -/
  srn : KMap Nat
  /-- Tolerances in force this tick, sixteen words; empty = the reset values (R98). -/
  tol : KMap (List W32)
  deriving DecidableEq, Repr

/-! ## V-cores and S-cores -/

/-- V-cores, key 2·clu + v (R105–R117). -/
structure VcS where
  queue : KMap (List W128)
  /-- VX registers, key 32·(2·clu + v) + r. -/
  vx : KMap (BitVec 2048)
  /-- Poison of a VX register's bytes, same key. -/
  vxp : KMap (BitVec 256)
  /-- VP registers, key 8·(2·clu + v) + p. -/
  vp : KMap (BitVec 256)
  /-- Poison of a VP register's bits, same key (R117). -/
  vpp : KMap (BitVec 256)
  halted : KMap Bool
  waiting : KMap Bool
  deriving DecidableEq, Repr

/-- What an S-core's pair is stalled in (R121, R122, R232, R241). -/
inductive SWait where
  | none
  /-- TISSUE to a full queue. -/
  | queue (unit : Nat)
  /-- TWAITC. -/
  | counter (i value : Nat)
  /-- TBWAIT: destination register, tablet operand, generation waited on. -/
  | tablet (rd t gen : Nat)
  /-- A blocking send: channel and the words of the message. -/
  | send (ch : Nat) (words : List W32)
  /-- TBARRIVE on a through tablet whose generation still runs. -/
  | arrive (t : Nat)
  /-- A pilot's tablet operation waits for its match: kind, operand, destination register or value of a TBSET (R233). -/
  | pilotOp (kind t rd : Nat)
  deriving DecidableEq, Repr

/-- Mode of an S-core (VS_SSTATUS.MODE). -/
inductive SMode where
  | idle
  | program
  | handler
  | halted
  deriving DecidableEq, Repr

/-- An S-core (R118–R125): bank 0 runs the tile program, bank 1 the handler. -/
structure SCore where
  mode : SMode
  /-- Mode to return to at MRET: the program still runs. -/
  progOn : Bool
  pc0 : Nat
  pc1 : Nat
  stage : W128
  wait : SWait
  /-- The tile program has executed TEND, or none was started (R125). -/
  tend : Bool
  /-- Channel of the handler that runs. -/
  hch : Nat
  /-- Halted for the debug path after EBREAK (R128). -/
  dbgHalt : Bool
  /-- Last joined generations of up to four tablets of the tick: (operand, generation), latest first (R228). -/
  joined : List (Nat × Nat)
  /-- Last joined generation of every through tablet of the tick, by operand (R232). -/
  thruGen : List (Nat × Nat)
  /-- A tablet operation of a handler on a pilot's cluster that waits for its match, as `SWait.pilotOp` (R233). -/
  hop : Option (Nat × Nat × Nat)
  deriving DecidableEq, Repr

/-- S-cores, sync counters and lockstep injections, by cluster. -/
structure ScS where
  core : KMap SCore
  /-- Integer registers, key 64·clu + 32·bank + r; x0 is never listed. -/
  x : KMap W64
  /-- Poison of 32-byte words of local data memory, key 8,192·clu + word (R128). -/
  dpoi : KMap Bool
  /-- Sync counters, key 16·clu + i (R88). -/
  sync : KMap Nat
  deriving DecidableEq, Repr

/-! ## The shunting array -/

/-- A token: 32 bits and a poison bit (R131). -/
abbrev Token := W32 × Bool
/-- An entry of an input queue: a token and its parity bit (R131). -/
abbrev QEntry := Token × Bool

/-- A step-unit result on its way (R142). -/
structure StepRes where
  val : Token
  dst : Nat
  outs : Nat
  deriving DecidableEq, Repr

/-- A tile's state in a pass (R131, R136, R143). -/
structure Tile where
  qn : List QEntry
  qe : List QEntry
  qs : List QEntry
  qw : List QEntry
  on_ : Option Token
  oe : Option Token
  os : Option Token
  ow : Option Token
  g : KMap Token
  step : Nat
  rpt : Nat
  body : Nat
  fifo : List StepRes
  deriving DecidableEq, Repr

/-- A config-store entry in its two copies (R155, R156). -/
structure CfgEntry where
  words : List W64
  bad0 : Bool
  bad1 : Bool
  deriving DecidableEq, Repr

/-- A running pass (R151): the SARUN word, words delivered per input port and received per output port, and the bytes
of each output port's chunk that is not yet full, with their offsets (R153). -/
structure Pass where
  word : W128
  sent : KMap Nat
  got : KMap Nat
  obuf : KMap (List (Nat × PB))
  deriving DecidableEq, Repr

/-- The shunting array of a cluster (R131–R164). -/
structure Arr where
  queue : List W128
  active : Option Nat
  img : List W64
  /-- A select in progress and its entry. -/
  selecting : Option Nat
  /-- ITAG of the SASEL that began the select; 0 for the select at Departure (R152, R163). -/
  selTag : Nat
  /-- SALOADs on the config engine, in order. -/
  loads : List W128
  /-- Bindings, key 16·dir + port. -/
  binds : KMap (Option W128)
  pass : Option Pass
  tiles : KMap (Option Tile)
  halted : Bool
  waiting : Bool
  /-- Cycle of the last progress (R160). -/
  progress : Nat
  deriving DecidableEq, Repr

/-- Arrays by cluster; config store, key 16·clu + n. -/
structure SaS where
  arr : KMap (Option Arr)
  cfg : KMap (Option CfgEntry)
  /-- SA_WDOG in force this tick; 0 = the reset limit. -/
  wdog : KMap Nat
  deriving DecidableEq, Repr

/-! ## Stores -/

/-- The stores, key of a store 3·clu + st (R165–R191). -/
structure StS where
  /-- Bytes, key 2^24·(3·clu + st) + offset; an unlisted byte is 0 (log entry 6). -/
  mem : List Host.Cell
  /-- Poisoned 32-byte words, key 2^19·(3·clu + st) + word. -/
  poison : KMap Bool
  /-- Flipped bits of a word, same key: 1 correctable, 2 uncorrectable, 3 and 4 the same by injection (R182, R184, R191). -/
  errs : KMap Nat
  /-- Written-in-tick chunks, key 2^18·(3·clu + st) + chunk (R175). -/
  written : KMap Bool
  /-- Descriptor writes pending for the next Departure (R171). -/
  pend : List (Nat × Nat × Nat × List W32)
  /-- Next address of the scrub pass (R185). -/
  scrub : KMap Nat
  /-- Highest granule offset read in this tick plus one, key 16·(3·clu + st) + region (RCUR). -/
  rcur : KMap Nat
  /-- ST_BANK_WEAR recorded for the bank, key 32·(3·clu + st) + bank. -/
  wear : KMap Bool
  /-- Dirty granules of a read-only home-kept region, key 65,536·(3·clu + st) + granule (R188). -/
  dirty : KMap Bool
  /-- The flush has copied the whole of a full ring, so that FLUSH stands at REL and not at TAIL, key
  16·(3·clu + st) + region (R188). -/
  flushed : KMap Bool
  /-- ST_HOME_LAG recorded for this crossing, key 16·(3·clu + st) + region. -/
  lag : KMap Bool
  /-- Tick up to which the region's home copy is complete, 0 where none is; and the tick at which its descriptor took
  effect, same key (R189). -/
  homeTick : KMap Nat
  homeSince : KMap Nat
  /-- Digest of the tick's items, by cluster, formed where a pilot runs in the region (R361). -/
  dig : KMap W64
  deriving DecidableEq, Repr

/-! ## Message channels -/

/-- Message units and Porters, by cluster (R238–R253). -/
structure MsgS where
  /-- Outbound buffers, oldest first (R241). -/
  out : KMap (List Message)
  /-- Messages on SIG2. -/
  fly : List Message
  /-- Messages that wait at a Porter for ring space; the first is placed next (R245, R251). -/
  held : KMap (List Message)
  /-- Cycle at which the present hold began. -/
  heldAt : KMap Nat
  /-- Channel the Porter last served (R247). -/
  last : KMap Nat
  /-- MSG_STALL recorded for the present stall (R242). -/
  stallRec : KMap Bool
  /-- Refusal, retry and drop notices on SIG0 (R217, R220, R246). -/
  notices : List Notice
  deriving DecidableEq, Repr

/-! ## Tablets -/

/-- A completed tablet operation of a slot: kind of R236, operand, value returned (R233). -/
structure TabOp where
  kind : Nat
  operand : Nat
  result : Nat
  deriving DecidableEq, Repr

/-- What the tablets hold beside the tablet words of the TB pages (R228–R235, R305). -/
structure TabS where
  /-- Regions whose Departure report of this tick is in (R231). -/
  reports : KMap Bool
  /-- Tablet operations completed in this tick, by 2·(4·rg + n) for the program of a slot, and 1 more for the handlers on its
  cluster (R233). -/
  log : KMap (List TabOp)
  /-- Matched pilot operations in this tick, by 2·region for the program, and 1 more for the handlers. -/
  plog : KMap Nat
  /-- LT_ARRIVE already sent for the running generation of a line tablet. -/
  lineSent : KMap Bool
  /-- Members that have arrived, at the rank-0 member, by line tablet (R305). -/
  lineIn : KMap (List Nat)
  /-- LT_ARRIVE frames due, by line tablet. -/
  ltOut : List Nat
  /-- Binding of line tablets 0–5 for the next tick: line, job and LOCAL_TARGET (R305). -/
  linePend : List (Nat × Nat × Nat)
  /-- Job first in the round-robin of R235. -/
  rr : Nat
  /-- The active root is the Q2 root (R234). -/
  rootQ2 : Bool
  /-- How a root tablet's word at the other root differs from the active root's, by offset in the root page. -/
  mirror : KMap W64
  /-- A mismatch was found: the intact root becomes active at the next Guard. -/
  rootBad : Bool
  /-- Failed transmissions in a row of a tablet message, by 256·cluster + operand (R234). -/
  retry : KMap Nat
  deriving DecidableEq, Repr

/-- The clusters and their timetable units: everything an instruction of a cluster can reach. -/
structure Clus where
  core : Core
  tt : TtS
  mc : McS
  vc : VcS
  sc : ScS
  sa : SaS
  st : StS
  msg : MsgS
  tab : TabS
  deriving DecidableEq, Repr

/-! ## Lines, DMA and HBM -/

/-- Phase of a started descriptor (R262). -/
inductive RunPhase where
  | waiting
  | running
  | complete
  /-- Invalid, refused or abandoned: it never completes. -/
  | dead
  deriving DecidableEq, Repr

/-- A store operation or DMA descriptor that a slot has started (R180, R260–R262). -/
structure DmaRun where
  rg : Nat
  /-- Logical slot. -/
  slot : Nat
  /-- Index in the region's list. -/
  desc : Nat
  clu : Nat
  job : Nat
  /-- The eight words of the descriptor. -/
  words : List W64
  phase : RunPhase
  /-- DMA engine 0–7 of the die; 8 where it holds none. -/
  engine : Nat
  /-- Next piece to issue. -/
  next : Nat
  /-- Pieces whose read is not yet answered, and writes not yet completed. -/
  outst : List Nat
  wr : Nat
  /-- A pilot's run (R359). -/
  pilot : Bool
  deriving DecidableEq, Repr

/-- The lines, the points-table swap and the DMA engines (R205–R226, R254–R262). Links: 10·die + output, 0–4 Up Line
N, E, S, W, local and 5–9 Down Line. -/
structure NetS where
  /-- Packets on the lines. -/
  pkts : List Packet
  /-- VC1–VC3 packets that wait for a line clear to end (R224). -/
  waiting : List Packet
  /-- Descriptor lists, key 256·rg + i: eight words (R260). -/
  dlist : KMap (List W64)
  /-- The descriptor lists' owning jobs for group checks: package group → job (R261, R262). -/
  groups : KMap Nat
  runs : List DmaRun
  /-- Cause of a flagged reply or completion, key SRC_DIE·2^18 + SRC_EP·2^12 + TXN. -/
  why : KMap Nat
  /-- VC0 flit-cycles of the present tick, by link (R213). -/
  vc0 : KMap Nat
  /-- A flit that failed its CRC: its packet and number, and its failed transmissions, by link (R220). -/
  retry : KMap (Option (Packet × Nat × Nat))
  /-- Lost packets of job 15, which the block posts send again (R220). -/
  again : List Packet
  /-- Retries of a bridge link in its present window of 65,536 ticks, and the window's first tick (R221). -/
  bridge : KMap (Nat × Nat)
  /-- Spare lanes a bridge link has used; 3 = half width, at the latest from the next Guard (R221). -/
  spares : KMap Nat
  /-- Bridge links that run at half width (R221). -/
  half : KMap Bool
  /-- LN_BRIDGE_CRC recorded since the last clear, by link (R219). -/
  crcRec : KMap Bool
  /-- Every source has stopped injecting VC1–VC3 for a line clear (R224). -/
  hold : Bool
  /-- BI_MIRROR in force, by region: its word, 0 where EN is 0 (R348). -/
  mirror : KMap W32
  /-- Granules the mirror has written since the copier started, key 65,536·(3·clu + st) + granule (R350). -/
  mirrored : KMap Bool
  /-- Writes to host memory that have left for the attach cache: host address and bytes. -/
  toHost : List (Nat × List PB)
  deriving DecidableEq, Repr

/-- A re-homing in progress at a controller (R266). -/
structure Rehome where
  pc : Nat
  page : Nat
  /-- Every page of the pseudo-channel, which is then set spared. -/
  whole : Bool
  /-- Spare part and page taken for the copy. -/
  part : Nat
  spage : Nat
  deriving DecidableEq, Repr

/-- A granule of a checkpoint cut: the job and the granule's DPA (R372). -/
structure CutMark where
  job : Nat
  dpa : Nat
  deriving DecidableEq, Repr

/-- An allocation of a job (R338, R339). -/
structure Alloc where
  dpa : Nat
  bytes : Nat
  mode : Nat
  set : Nat
  deriving DecidableEq, Repr

/-- What a checkpoint holds (R371). Places are logical: region 2·die + r, slot 4·region + n. -/
structure Snap where
  /-- The tick of the cut. -/
  tick : Nat
  /-- Granules of allocations and home copies, by DPA. -/
  mem : List (Nat × List PB)
  allocs : List Alloc
  /-- Slot, store, region, descriptor words with the pointers. -/
  regs : List (Nat × Nat × Nat × List W32)
  /-- Region, circuit, CTRL and STATUS. -/
  circs : List (Nat × Nat × W32 × W32)
  /-- Region and its post counters. -/
  posts : List (Nat × List W32)
  /-- Die, offset in the tablet node page, and the tablet word. -/
  tabs : List (Nat × Nat × Nat)
  /-- Slot, channel, its words, and the bytes of its ring. -/
  chans : List (Nat × Nat × List W32 × List Byte)
  /-- Slot, config entry and its image. -/
  cfgs : List (Nat × Nat × List W64)
  /-- Engine entry 64·q + e, last generation seen plus one, and whether its run is marked for restart. -/
  colls : List (Nat × Nat × Bool)
  deriving DecidableEq, Repr

/-- A checkpoint cut in progress of a job (R371–R373). -/
structure Cut where
  tick : Nat
  /-- Target: DPA or host address. -/
  target : Nat
  tag : W32
  group : Bool
  /-- The cut has been taken. -/
  taken : Bool
  /-- What has been captured so far. -/
  snap : Snap
  deriving DecidableEq, Repr

/-- HBM stacks and their controllers (R254–R274, R372). A pseudo-channel p of stack h is 32·h + p; media bytes are
2^32·(32·h + p) + offset, blocks of 64 bytes 2^26·(32·h + p) + block, pages 2048·(32·h + p) + page. -/
structure HbmS where
  /-- Bytes; an unlisted byte is 0 (log entry 6). -/
  mem : List Host.Cell
  /-- Poisoned blocks (R264). -/
  poison : KMap Bool
  /-- Symbol errors of a block: 1 correctable, 2 uncorrectable, 3 and 4 the same by injection (R263, R274). -/
  errs : KMap Nat
  /-- Remap entries (R266), by logical page. -/
  remap : KMap Nat
  /-- Spare pages taken, key 2048·part + page. -/
  spare : KMap Bool
  /-- Corrections of a logical page (R265). -/
  pageCe : KMap Nat
  /-- Pages of a pseudo-channel corrected within the last 65,536 ticks, with the tick of each one's last correction (R267). -/
  worn : KMap (List (Nat × Nat))
  /-- Physical pages whose unlisted blocks are poisoned: lost with their pseudo-channel (R267). -/
  lost : KMap Bool
  /-- Re-homing in progress, by stack. -/
  rehome : KMap (Option Rehome)
  /-- Pages the block post still has to re-home, by stack (R264, R265, R267): pseudo-channel and page, 2,048 for the
  whole pseudo-channel. -/
  todo : KMap (List (Nat × Nat))
  /-- Next block of the patrol scrub, by pseudo-channel. -/
  patrol : KMap Nat
  /-- Steps left of a retrain plus one, by pseudo-channel; 1 = ended, its margin not yet measured (R269). -/
  retrain : KMap Nat
  /-- Segment table in force at the requesters, 256 words of the segment page (R257). -/
  seg : KMap W32
  /-- Window table in force at the ports, key 8·window + word (R271). -/
  win : KMap W32
  /-- Cut marks, by media granule (R372). -/
  marks : KMap (Option CutMark)
  /-- Copy-on-write buffers, by pseudo-channel: granules moved out of the way, with their bytes (R372). -/
  cow : KMap (List (CutMark × List PB))
  /-- Granules drained into checkpoint staging. -/
  staged : List (CutMark × List PB)
  /-- Cuts, by job. -/
  cuts : KMap (Option Cut)
  /-- HB_SPARE_LOW and HB_SPARE_OUT recorded. -/
  spareLow : Bool
  spareOut : Bool
  /-- Self-refresh (R445). -/
  selfRef : Bool
  deriving DecidableEq, Repr

/-! ## The fabric -/

/-- Training step of a link (R280). -/
inductive TrStep where
  | off
  | detect
  | exchange
  | map
  | switch
  | equalise
  | test
  | up
  deriving DecidableEq, Repr

/-- Training and link layer of a fabric port or of the Attach Link (R280–R287, R318, R319). -/
structure LinkS where
  step : TrStep
  /-- Highest generation this attempt may take. -/
  cap : Nat
  /-- Generation of the present step. -/
  gen : Nat
  /-- Physical lanes present. -/
  present : Nat
  /-- MAX_GEN, MIN_WIDTH, node, port, SAVED_TAG and FFE the peer sent. -/
  peerGen : Nat
  peerMinW : Nat
  peerNode : Nat
  peerPort : Nat
  peerTag : W64
  peerFfe : W64
  /-- Physical lanes of the lane set, by logical lane. -/
  lanes : List Nat
  /-- Best generation and width reached (R281). -/
  bestGen : Nat
  bestW : Nat
  /-- LSEQ of the next code word sent and of the oldest one not acknowledged (R284, R285). -/
  txNext : Nat
  txAck : Nat
  /-- LSEQ that failed last, and how often (R285). -/
  failSeq : Nat
  failCnt : Nat
  /-- Next LSEQ expected in order (R279, R285). -/
  rxNext : Nat
  /-- A code word was discarded, and those after it are until it comes again: its LSEQ is `nakDue` (R285). -/
  rxDrop : Bool
  nakDue : Option Nat
  /-- Correct code words that came before their turn, by LSEQ (R279). -/
  held : List Nat
  /-- Flits freed per virtual channel since the last link control flit sent, that flit, and the code words sent since it
  (R284). -/
  freed : List Nat
  /-- Flits of window requests whose credits the port withholds until a reset ends (R428). -/
  kept : List Nat
  ctlOut : Option ControlFlit
  sinceCtl : Nat
  /-- The last alignment word received and sent per physical lane, and the data code words sent since the latter (R277). -/
  alignIn : KMap (Option AlignWord)
  alignOut : KMap (Option AlignWord)
  alignTx : KMap Nat
  /-- Code words received per physical lane since its alignment code word: the scrambler's position (R277). -/
  scr : KMap Nat
  /-- Code words received and the recent failures per physical lane (R286). -/
  cw : KMap Nat
  cwFails : KMap (List Nat)
  /-- Credits of the four virtual channels or message classes (R287, R320). -/
  credit : List Nat
  /-- Width change asked for: lane mask and first LSEQ (R286). -/
  wreq : Option (Nat × Nat)
  /-- Lane set agreed on and the LSEQ received from which it holds (R286). -/
  wpend : Option (Nat × Nat)
  /-- Dropped lanes that retrain, and the tick of each lane's last retrain plus one (R286). -/
  dropped : List Nat
  lastRt : KMap Nat
  /-- The link tag in force; 0 = none (R283, R398). -/
  tag : W64
  /-- The Test step runs with the saved settings (R283). -/
  saved : Bool
  deriving DecidableEq, Repr

/-- A transaction of this device outstanding at a peer (R294, R295). -/
structure XTxn where
  port : Nat
  node : Nat
  fgroup : Nat
  fvc : Nat
  txn : Nat
  isRead : Bool
  /-- The descriptor and its piece. -/
  rg : Nat
  slot : Nat
  desc : Nat
  piece : Nat
  deriving DecidableEq, Repr

/-- A peer's window access that a port has passed into the mainline (R272, R295). -/
structure InTxn where
  /-- The request frame. -/
  frame : Frame
  isRead : Bool
  job : Nat
  /-- Mainline packets not yet answered. -/
  left : Nat
  /-- Bytes of a read, by piece. -/
  got : KMap (List PB)
  /-- Admitted under a window generation that has since changed (R271). -/
  old : Bool
  deriving DecidableEq, Repr

/-- A collective run (R297, R301). A STEP numbers a chunk of a ring step: step × chunks per share + chunk. -/
structure CollRun where
  gen : Nat
  /-- Next STEP expected. -/
  got : Nat
  /-- STEPs sent and not yet acknowledged, with how often each was sent. -/
  unacked : List (Nat × Nat)
  /-- Bytes of the chunk being received. -/
  rx : List PB
  /-- Chunks of the own first share that still wait for room in the staging buffer (R297). -/
  todo : List Nat
  /-- Staged chunks by STEP sent: the value of each chunk received or reduced. -/
  stage : KMap (List PB)
  /-- Every result is written; the releases of the next Guard are due (R297). -/
  done : Bool
  /-- The releases have been sent: the run only waits for acknowledgments. -/
  freed : Bool
  /-- Marked for restart by a checkpoint (R371). -/
  restart : Bool
  deriving DecidableEq, Repr

/-- A failed digest check: the STEP, the chunk of the share, and the two sums or CRCs, received and formed (R300). -/
structure DigFail where
  step : Nat
  chunk : Nat
  got : W64
  formed : W64
  deriving DecidableEq, Repr

/-- A stop signal in force for a group (R302). -/
structure StopS where
  origin : Nat
  reason : Nat
  ta : Nat
  deriving DecidableEq, Repr

/-- What a port offers as a time source (R310, R311). -/
structure TimeOffer where
  master : Nat
  hops : Nat
  /-- Tick at which the last TIME_SYNC arrived. -/
  tick : Nat
  /-- t2 − t1 of the last TIME_SYNC. -/
  d21 : Int
  /-- Station time t3 of the last TIME_REQ, if one is outstanding. -/
  t3 : Option Int
  deriving DecidableEq, Repr

/-- The Sywento Fabric (R275–R315). Links: ports 0–17, and 18 the Attach Link. Streams are keyed
2^18 × node + 4 × FGROUP + FVC. -/
structure FabS where
  link : KMap (Option LinkS)
  /-- Frames that wait for credit or retry-buffer room, by port. -/
  wait : KMap (List Frame)
  /-- Frames sent and not yet acknowledged, with their LSEQ, by port (R285). -/
  retry : KMap (List (Nat × Frame))
  /-- The last frame each port sent. -/
  lastTx : KMap (Option Frame)
  /-- Frames held back by a route drain, with their node (R307). -/
  heldTx : List (Nat × Frame)
  /-- A HELLO has arrived; our own was acknowledged (R291). -/
  helloIn : KMap Bool
  helloAck : KMap Bool
  /-- Node × 256 + incarnation of the previous peer plus one. -/
  prevPeer : KMap Nat
  absentRec : KMap Bool
  /-- Ticks of the violations of the last 65,536 ticks (R293). -/
  viol : KMap (List Nat)
  violRec : KMap Bool
  /-- Tick of the last quarantine plus one. -/
  lastQuar : KMap Nat
  txSeq : KMap Nat
  txRst : KMap Bool
  /-- Last SSEQ accepted plus one. -/
  rxSeq : KMap Nat
  out : List XTxn
  nextTxn : Nat
  /-- Inbound accesses, key 256 × port + index. -/
  inn : KMap (Option InTxn)
  /-- Route table, key 65,536 × bank + node (R306). -/
  route : KMap W32
  /-- Member list (R296). -/
  members : KMap W32
  stopSeq : Nat
  /-- Originator and sequence of every stop signal already seen (R302). -/
  stopSeen : List (Nat × Nat)
  /-- Stop signals not yet applied, by FGROUP. -/
  stops : KMap (Option StopS)
  /-- Collective entries, runs and last generations seen, key 64 × engine + entry (R296, R297). -/
  coll : KMap (List W64)
  runs : KMap (Option CollRun)
  lastGen : KMap Nat
  /-- The last failed digest check of each collective engine (R300; log entry 318). -/
  digFail : KMap (Option DigFail)
  /-- Time offers by port, the count of offsets within ±20 ns, and the phase correction applied (R310–R312). -/
  offers : KMap (Option TimeOffer)
  lockCnt : Nat
  /-- Accumulated slew of the arithmetic clock against the reference, 1/16 ns. -/
  slew : Int
  countRec : Bool
  /-- TAKEOVER_ANN due once the ports are up (R308). -/
  annDue : Bool
  /-- Members that have answered DRAIN_DONE. -/
  drainDone : List Nat
  /-- Announcements that DRAIN_DONE answers after the swap: node and FGROUP (R308). -/
  annIn : List (Nat × Nat)
  /-- Arrivals of a route drain on through tablet 31 (R307), and the participants that its last deferral did not see. -/
  drained : List Nat
  undrained : List Nat
  /-- Ranges of windows' earlier generations that accesses still use, by window: first DPA and bytes (R271). -/
  oldWin : KMap (List (Nat × Nat))
  /-- Attach Link lanes that slice A29 removed (R383). -/
  salBad : Nat
  /-- Ticks of the window NAKs of reasons generation and peer, by node (R470). -/
  probes : KMap (List Nat)
  deriving DecidableEq, Repr

/-! ## The Attach Link, the host's view and jobs -/

/-- A line of the attach cache (R324): 1 shared, 2 exclusive, 3 modified. -/
structure CLine where
  st : Nat
  data : List PB
  deriving DecidableEq, Repr

/-- A device request to the host (R324). -/
structure AtReq where
  txn : Nat
  op : Nat
  /-- Host line number: host address / 64. -/
  line : Nat
  /-- 0, or the grant received: 1 shared, 2 exclusive. -/
  grant : Nat
  deriving DecidableEq, Repr

/-- A mainline access at the attach cache that waits for host answers. -/
structure AtXfer where
  pk : Packet
  waits : List Nat
  deriving DecidableEq, Repr

/-- A device access to an attached window that waits for a snoop of the host (R323). -/
structure Snoop where
  txn : Nat
  /-- Line number: DPA / 64. -/
  line : Nat
  inv : Bool
  /-- The access that waits; none where a directory victim is invalidated for a host request. -/
  pk : Option Packet
  /-- Its answer met an armed SNP_MUTE (R343, R489). -/
  muted : Bool := false
  deriving DecidableEq, Repr

/-- An access that waits at the directory behind one of its line (R323): a request of the host, or a packet of the device with
the line it waits for. -/
inductive AtWait where
  | host (m : SalMsg)
  | dev (line : Nat) (p : Packet)
  deriving DecidableEq, Repr

/-- A logged host write (R326). -/
structure LogEnt where
  page : Nat
  off : Nat
  size : Nat
  data : W64
  deriving DecidableEq, Repr

/-- A command ring (R331, R333): what its page does not hold. -/
structure RingS where
  tail : Nat
  /-- Completion write index and phase. -/
  cqw : Nat
  phase : Bool
  deriving DecidableEq, Repr

/-- A completion record (R335), but for the PHASE it gets when it is written. -/
structure CplRec where
  kind : Nat
  status : Nat
  job : Nat
  tag : W32
  tick : W64
  result : W64
  entry : Nat
  circuit : Nat
  slot : Nat
  die : Nat
  deriving DecidableEq, Repr

/-- A driver command that has begun and not completed (R333). -/
structure RunCmd where
  ring : Nat
  opc : Nat
  job : Nat
  tag : W32
  deriving DecidableEq, Repr

/-- The Attach Link, its directory and cache, the control window and the rings (R316–R337). -/
structure AttS where
  /-- Directory, by line: 0 I, 1 S, 2 O (R322). -/
  dir : KMap Nat
  /-- Attached windows: base and bytes. -/
  wins : KMap (Option (Nat × Nat))
  snoops : List Snoop
  /-- Accesses that wait for a snoop or for an earlier access of their line, oldest first (R323). -/
  waitq : List AtWait
  cache : KMap (Option CLine)
  reqs : List AtReq
  xfers : List AtXfer
  nextTxn : Nat
  /-- Messages sent and not yet acknowledged, with their LSEQ, and messages that wait for credit. -/
  retry : List (Nat × SalMsg)
  wait : List SalMsg
  /-- Words of the control window, key page × 1,024 + offset / 4; an unlisted word reads its reset
  value (R325). -/
  cw : KMap W32
  log : List LogEnt
  /-- AT_TBUSY recorded in the present full period (R326). -/
  tbusyRec : Bool
  ring : KMap RingS
  cmds : List RunCmd
  /-- Completion records that wait for room in their ring, by ring; at most 512 host completions (R336). -/
  staged : KMap (List CplRec)
  /-- Host completions on their way to the completion engine. -/
  cplFly : List HostCompl
  /-- Writes made to host memory by the completion engine, firmware and the copier, oldest first. -/
  hostWr : List (Nat × List Byte)
  deriving DecidableEq, Repr

/-- A section of a job image (R338). -/
structure Section where
  kind : Nat
  place : Nat
  index : Nat
  data : List Byte
  deriving DecidableEq, Repr

/-- A region moved out by a turn (R40): cluster, store, region, descriptor words, and where in the firmware area of HBM its
granules lie, by their offsets in the region. -/
structure Spill where
  clu : Nat
  st : Nat
  reg : Nat
  words : List W32
  dpa : Nat
  grans : List Nat
  deriving DecidableEq, Repr

/-- A job beyond its state code (R338–R340). -/
structure JobS where
  seed : W64
  allowTurns : Bool
  image : List Section
  allocs : List Alloc
  /-- Package group of each of the job's logical groups, plus one. -/
  grps : KMap Nat
  /-- The host-suspend mark (R340). -/
  susp : Bool
  /-- The job has turns; it holds its turn now (R39). -/
  turns : Bool
  turn : Bool
  /-- Tick at which its turn began. -/
  since : Nat
  /-- Order of its admission among the jobs admitted; it was given turns for a lower VC0 allowance (R214). -/
  seq : Nat
  forced : Bool
  /-- The image has been written into its placement. -/
  placed : Bool
  /-- Its circuits have been started. -/
  started : Bool
  /-- Its turn is due once this job's circuits are suspended. -/
  due : Option Nat
  /-- Regions a turn has moved out. -/
  spill : List Spill
  /-- Content to write at the next start, from a restore (R374). -/
  restored : Option Snap
  deriving DecidableEq, Repr

/-! ## Relief, rotation, the fence map and drills -/

/-- A cluster relief or a rotation in progress in a region (R352, R358). -/
structure Move where
  /-- A relief after a fault, not a rotation. -/
  relief : Bool
  slot : Nat
  /-- Outgoing and incoming physical cluster, 0–4. -/
  src : Nat
  dst : Nat
  /-- BI_STATUS.MODE: 2 PREPARE, 3 PILOT, 4 relief copy, 5 handover pending. -/
  mode : Nat
  /-- The copier is complete. -/
  copied : Bool
  /-- Tick at which the present phase began. -/
  since : Nat
  /-- First failure and its cause, for the records of R379. -/
  first : Nat
  cause : Nat
  deriving DecidableEq, Repr

/-- An out-of-service cluster that runs the test set (R363). -/
structure TestRun where
  /-- Slices still to run, the present one first. -/
  left : List Nat
  ran : Nat
  failed : Nat
  /-- The cluster was fenced by relief and returns when every slice passes (R365). -/
  back : Bool
  /-- An armed SLICE_FLIP made the slice fail (R380). -/
  drill : Bool
  deriving DecidableEq, Repr

/-- An entry of the fence map (R364). -/
structure FenceEnt where
  place : Nat
  cause : Nat
  drill : Bool
  field : Bool
  test : Bool
  fuse : Bool
  count : Nat
  /-- Tick of the last fence that a drill did not cause, plus one (R365). -/
  last : Nat
  /-- Fenced for the second time within 2^24 ticks: stays fenced until the next cold start (R365). -/
  stay : Bool
  deriving DecidableEq, Repr

/-- A DIAG_RUN in progress (R375). -/
structure DiagRun where
  tag : W32
  place : Nat
  /-- Clusters still to test. -/
  left : List Nat
  ran : Nat
  failed : Nat
  /-- Waits for the rotation that takes the cluster out of service. -/
  wait : Bool
  slices : List Nat
  deriving DecidableEq, Repr

/-- What the BI units, the block posts and the Signal Box hold for relief, rotation and drills (R344–R380). -/
structure BiS where
  moves : KMap (Option Move)
  /-- Test sets in progress, by cluster 10g + 5r + c. -/
  tests : KMap (Option TestRun)
  /-- Ticks of the TT_REPLAY records with a CHECK cause, by cluster (R347). -/
  checks : KMap (List Nat)
  /-- Ticks at which a pilot ended with another outcome, by cluster (R360). -/
  pilotEnds : KMap (List Nat)
  /-- Pilot mismatches in consecutive rotations, by slot 4·rg + n, and the job passed over plus one (R362). -/
  mism : KMap Nat
  skip : KMap Nat
  /-- Ticks of ST_ECC_UE records by bank 32·(3·clu + st) + b, and of SA_CFG_LOST records by cluster (R352). -/
  eccUe : KMap (List Nat)
  cfgLost : KMap (List Nat)
  /-- Regions whose pilot ended at this tick's Close: 1 mismatch, 2 another outcome. -/
  ended : KMap Nat
  fence : List FenceEnt
  diags : List DiagRun
  drills : List DrillEntry
  /-- Injections made of each drill entry. -/
  fired : KMap Nat
  /-- Tick of the last drill injection plus one, in the package and by region (R378). -/
  lastDrill : Nat
  lastDrillRg : KMap Nat
  /-- Tick of the last DEGRADED record plus one, by quadrant (R378). -/
  degraded : KMap Nat
  /-- Die reliefs in progress: the failed die's writes go to this die too, plus one (R355). -/
  dieMirror : KMap Nat
  /-- Relief dies in use. -/
  dieUsed : KMap Bool
  /-- Clusters whose rings the copier could not read: an access of the debug path there was abandoned (R251, R424). -/
  ringDead : KMap Bool
  deriving DecidableEq, Repr

/-! ## Power, clocks and pins -/

/-- Supplies, clocks, throttling, the wake and the pins (R434–R456): what the PW page does not hold. -/
structure PwS where
  vaux : Bool
  /-- PWR_EN outputs float (R439, R441). -/
  float : Bool
  /-- Rail group whose PGOOD the ROM waits for (R436). -/
  seq : Option Nat
  /-- RESET_N is low; it has been low for 100 ms and the rails are off (R439). -/
  resetN : Bool
  held : Bool
  /-- FAULT_N and THERMTRIP_N asserted. -/
  faultN : Bool
  thermtripN : Bool
  /-- The time pins are driven: the first join has been made (R453). -/
  pinsOn : Bool
  tickOut : Bool
  ppsOut : Bool
  /-- Ticks at whose boundary the pins last rose. -/
  tickRise : Nat
  ppsRise : Nat
  /-- POWER_CAP; 0 = none (R450). -/
  cap : Nat
  /-- Consecutive POWER_CAP_LOOP runs with PW_POWER below 0.95 of the cap (R450). -/
  below : Nat
  /-- A cap episode is open; the tick at which the clock and the limit reached the ceiling plus one. -/
  capEp : Bool
  capTop : Nat
  /-- Thermal ceiling in MHz; 0 = the fused clock (R451). -/
  therm : Nat
  /-- Tick of the ceiling's last step plus one, and the tick since which every sensor has read 100 °C or less plus one. -/
  thermAt : Nat
  coolAt : Nat
  /-- A clock rise that waits for its voltage: MHz and the first tick at whose Guard it may step (R443). -/
  rise : Option (Nat × Nat)
  /-- Excluded sensors, and ticks of disagreement in a row (R451). -/
  badSensor : KMap Bool
  disagree : KMap Nat
  /-- End of TEMP_BIAS plus one, by sensor (R456). -/
  bias : KMap Nat
  /-- Region regulators that have switched themselves off (R438). -/
  regOff : KMap Bool
  /-- Device state to return to from Idle or Laid-up, and the clock in force before it (R448). -/
  backTo : Nat
  backClock : Nat
  /-- Step of a wake, 0–3 (R448). -/
  wake : Option Nat
  /-- Command that the wake completes, and the domain of a RESET that waits for it (R449). -/
  wakeCmd : Option RunCmd
  wakeReset : Option Nat
  /-- Descriptors of job 15's W-store regions over retained banks, as the journal holds them in Laid-up (R448), key
  16·clu + region. -/
  kept : KMap (List W32)
  deriving DecidableEq, Repr

/-! ## Bring-up -/

/-- The fuses and the one-time memory but for the grade (R382, R384, R393, R435, R450, R458, R461, R462). -/
structure FuseS where
  uid : W64
  /-- Units the factory found bad: place codes (R384). -/
  bad : List W32
  /-- Budgets of the analogue slices in ms; 50 where the list ends (R382). -/
  budgets : List Nat
  /-- Fused power limit in W. -/
  watts : Nat
  /-- Minimum SVN, a count of burnt fuses (R462). -/
  minSvn : Nat
  /-- Revoked key slots, a mask of 4 bits (R461). -/
  revoked : Nat
  /-- OWNER_HASH where OWNER_VALID is fused. -/
  owner : Option (BitVec 256)
  /-- Device certificate and product CA certificate (R458). -/
  devCert : List Byte
  caCert : List Byte
  deriving DecidableEq, Repr

/-- What training has found for a pseudo-channel (R391, R393): both sets of settings (48 bytes), the margins and the
outcome 0 passed, 1 fallback, 2 failed. -/
structure PcRec where
  set : List Byte
  rd : Nat
  wr : Nat
  out : Nat
  deriving DecidableEq, Repr

/-- A port or the Attach Link in the training record (R393): tag, generation, width code, and its remaining bytes (lane map,
FFE settings and margins). -/
structure PortRec where
  tag : W64
  gen : Nat
  width : Nat
  rest : List Byte
  deriving DecidableEq, Repr

/-- A training record, or the settings of the last full training (R393, R394). -/
structure TRec where
  /-- Soak-end temperature of each quadrant, loaded-pass power and POWER_CAP. -/
  temps : List Int
  power : List Nat
  caps : List Nat
  pcs : KMap (Option PcRec)
  ports : KMap (Option PortRec)
  sal : Option PortRec
  /-- Field-found fences, 8 bytes each. -/
  fences : List W64
  /-- Retired pages. -/
  pages : List W32
  deriving DecidableEq, Repr

/-- What VAUX-domain SRAM keeps for the warm fast path (R405). -/
structure Warm where
  fence : List FenceEnt
  remap : KMap Nat
  spare : KMap Bool
  train : TRec
  tags : KMap W64
  salTag : W64
  deriving DecidableEq, Repr

/-- Bring-up: what the BI bring-up page does not hold (R381–R405). -/
structure BuS where
  fuse : FuseS
  /-- Next analogue slice to end (R382). -/
  slice : Nat
  /-- Places marked test-bad by the analogue slices (R383). -/
  testBad : List W32
  /-- The driver's record, accepted (R396); its quadrants whose conditions match show in QUAD_MATCH. -/
  given : Option TRec
  /-- Settings, margins and conditions of the last full training (R394). -/
  own : TRec
  /-- Synthetic load in percent, 0 = none; the one restart at 80 % has been made (R390). -/
  load : Nat
  restarted : Bool
  /-- Pseudo-channels to retrain under load after the quick check. -/
  retrain : List Nat
  /-- Waves passed, whose quadrants wait for the next Guard (R403). -/
  passed : KMap Bool
  /-- The warm marker and what is kept with it (R405). -/
  warm : Option Warm
  /-- A DEVICE event has been recorded since the last start (R405). -/
  devEvent : Bool
  deriving DecidableEq, Repr

/-! ## Firmware, dumps and resets -/

/-- A firmware exchange in progress (R420). -/
structure Exch where
  tag : W32
  /-- The new image. -/
  image : List Byte
  /-- 2 following, 3 armed, 4 probation. -/
  state : Nat
  /-- Switch tick, and how often it has been deferred. -/
  at_ : Nat
  defers : Nat
  deriving DecidableEq, Repr

/-- A record of a dump (R425): place, kind, page or byte offset, and its data. -/
structure DumpRec where
  place : Nat
  kind : Nat
  flags : Nat
  off : Nat
  data : List Byte
  deriving DecidableEq, Repr

/-- A dump in progress (R422). -/
structure Dump where
  scope : Nat
  trigger : Nat
  place : Nat
  /-- Job of a job-fault dump. -/
  job : Option Nat
  start : Nat
  /-- Units that have not answered, with the abandoned accesses of each in a row (R424). -/
  dead : KMap Nat
  /-- DUMP_LIMIT has passed: what is not yet taken is TRUNCATED. -/
  cut : Bool
  deriving DecidableEq, Repr

/-- A reset in progress (R427, R428). -/
structure ResetS where
  /-- 0 compute domain, 1 die, 2 full recovery. -/
  domain : Nat
  die : Nat
  /-- The command that asked for it. -/
  cmd : Option RunCmd
  start : Nat
  /-- Phase reached: 0 announced, then the steps of R428. -/
  phase : Nat
  /-- T_a of the stop signals (R302). -/
  ta : Nat
  backTo : Nat
  deriving DecidableEq, Repr

/-- The firmware complexes 0 Signal Box, 1 standby, 2–5 BP0–BP3 (R407–R433): what the SBX pages do not hold. -/
structure FwS where
  /-- Image memory, key 2 · complex + bank; empty = cleared (R408). -/
  banks : KMap (List Byte)
  /-- Bank in use, by complex. -/
  bank : KMap Nat
  /-- Serving complexes; a complex that is halted after a crash (R415). -/
  up : KMap Bool
  halted : KMap Bool
  /-- A complex whose heartbeat HB_STOP has stopped (R433). -/
  hbStop : KMap Bool
  exch : Option Exch
  /-- Guards completed by each timetable unit: tick of the last one plus one (R413). -/
  guards : KMap Nat
  dump : Option Dump
  /-- The dump store: the four newest dumps, oldest first (R426). -/
  dumps : List (List Byte)
  /-- Tick of the last job-fault dump of a job plus one (R422). -/
  jobDump : KMap Nat
  reset : Option ResetS
  /-- Device state that the ROM's takeover of R418 left, to return to. -/
  prevState : Option Nat
  /-- Record buffers of the sinks: 0–3 the block posts, 4 the Signal Box; and whether a record was lost (R489). -/
  sinks : KMap (List ErrRec)
  lost : KMap Bool
  deriving DecidableEq, Repr

/-! ## Security -/

/-- An SPDM answer (R466–R468): its code, the two parameters of its header (of an ERROR, 0x7F, the error code and its data),
whether it is signed, and what it carries. -/
structure SpdmRsp where
  transport : SpdmTransport
  code : Nat
  param1 : Nat
  param2 : Nat
  signed : Bool
  data : List Byte
  deriving DecidableEq, Repr

/-- The security engine and the JTAG port (R457–R471): what the SEC page does not hold. -/
structure SecS where
  /-- The identity key d is in the key store; the fuse-secret path is blocked (R457, R465). -/
  key : Bool
  blocked : Bool
  /-- The nonce of the open challenge, with its tick (R464). -/
  nonce : Option (BitVec 256 × Nat)
  /-- Highest level granted since cold start (R467). -/
  highest : Nat
  /-- SPDM version in use by transport, 0 MCTP and 1 mailbox; 0 = not negotiated. -/
  version : KMap Nat
  /-- SPDM answers sent. -/
  answers : List SpdmRsp
  /-- JTAG: the instruction in force, bytes last shifted out, and the boundary register. -/
  ir : Nat
  tdo : List Byte
  pins : W64
  extest : Bool
  /-- Firmware cores halted for debug, key 4 · complex + core. -/
  coreHalt : KMap Bool
  deriving DecidableEq, Repr

/-- Everything but the command queue. -/
structure Pkg where
  cl : Clus
  net : NetS
  hbm : HbmS
  fab : FabS
  att : AttS
  jobs : KMap (Option JobS)
  /-- Checkpoints written, by target address (R372; log entry 25). -/
  ckpts : KMap (Option Snap)
  bi : BiS
  pw : PwS
  bu : BuS
  fw : FwS
  sec : SecS
  deriving DecidableEq, Repr

/-! ## The whole state -/

/-- The state of the device, and the commands that wait, first in, first out. -/
structure State where
  pk : Pkg
  pending : List Instr
  deriving DecidableEq, Repr

/-- Why a command stops without a next state. -/
inductive Fault where
  /-- Raised by no command: every command of the table has a next state or a refusal. Safe. -/
  | never
  deriving DecidableEq, Repr

/-- Why a command is refused. -/
inductive Refusal where
  /-- The command has no meaning yet, by its mnemonic. Safe. -/
  | notModelled (mnemonic : String)
  deriving DecidableEq, Repr

/-- Apply a change to the clusters' part. -/
def Pkg.onClus (s : Pkg) (f : Clus → Clus) : Pkg := { s with cl := f s.cl }

/-- Apply a change to clusters, lines and memory. -/
def State.onPkg (s : State) (f : Pkg → Pkg) : State := { s with pk := f s.pk }

/-- Apply a change to the clusters' part. -/
def State.onClus (s : State) (f : Clus → Clus) : State := s.onPkg (·.onClus f)

/-- What a command answers. -/
abbrev Out := Host.Outcome State Fault Refusal

/-! ## Reset (log entries 28, 29) -/

/-- Nothing known of training. -/
def TRec.blank : TRec := ⟨[], [], [], [], [], none, [], []⟩

/-- The shared part at a cold start: every register at its reset word, every window byte 0. -/
def Core.cold (g : Grade) : Core :=
  { tick := 0, cycle := 0, cpt := g.cycles, grade := g, regs := [], win := [], records := [], standby := false, freeCtr := 0 }

/-- The clusters and their timetable units at a cold start. -/
def Clus.cold (g : Grade) : Clus :=
  { core := Core.cold g
    tt := ⟨[], [], [], [], [], [], [], [], [], [], [], [], [], [], [], []⟩
    mc := ⟨[], [], [], [], [], [], [], [], [], [], []⟩
    vc := ⟨[], [], [], [], [], [], []⟩
    sc := ⟨[], [], [], []⟩
    sa := ⟨[], [], []⟩
    st := ⟨[], [], [], [], [], [], [], [], [], [], [], [], [], []⟩
    msg := ⟨[], [], [], [], [], [], []⟩
    tab := ⟨[], [], [], [], [], [], [], 0, false, [], false, []⟩ }

/-- The lines and the DMA engines at a cold start. -/
def NetS.cold : NetS := ⟨[], [], [], [], [], [], [], [], [], [], [], [], [], false, [], [], []⟩

/-- The HBM stacks and their controllers at a cold start. -/
def HbmS.cold : HbmS :=
  ⟨[], [], [], [], [], [], [], [], [], [], [], [], [], [], [], [], [], [], false, false, false⟩

/-- The fabric at a cold start. -/
def FabS.cold : FabS :=
  { link := [], wait := [], retry := [], lastTx := [], heldTx := [], helloIn := [], helloAck := [], prevPeer := [], absentRec := [], viol := [],
    violRec := [], lastQuar := [], txSeq := [], txRst := [], rxSeq := [], out := [], nextTxn := 0, inn := [], route := [],
    members := [], stopSeq := 0, stopSeen := [], stops := [], coll := [], runs := [], lastGen := [], digFail := [], offers := [],
    lockCnt := 0, slew := 0, countRec := false, annDue := false, drainDone := [], annIn := [], drained := [], undrained := [],
    oldWin := [], salBad := 0, probes := [] }

/-- The Attach Link and the host's view at a cold start. -/
def AttS.cold : AttS :=
  { dir := [], wins := [], snoops := [], waitq := [], cache := [], reqs := [], xfers := [], nextTxn := 0, retry := [],
    wait := [], cw := [], log := [], tbusyRec := false, ring := [], cmds := [], staged := [], cplFly := [], hostWr := [] }

/-- Relief, rotation and drills at a cold start. -/
def BiS.cold : BiS :=
  { moves := [], tests := [], checks := [], pilotEnds := [], mism := [], skip := [], eccUe := [], cfgLost := [], ended := [],
    fence := [], diags := [], drills := [], fired := [], lastDrill := 0, lastDrillRg := [], degraded := [], dieMirror := [],
    dieUsed := [], ringDead := [] }

/-- Supplies and pins before VAUX rises: PWR_EN floats (R434, R439). -/
def PwS.cold : PwS :=
  { vaux := false, float := true, seq := none, resetN := false, held := false, faultN := false, thermtripN := false,
    pinsOn := false, tickOut := false, ppsOut := false, tickRise := 0, ppsRise := 0, cap := 0, below := 0, capEp := false,
    capTop := 0, therm := 0, thermAt := 0, coolAt := 0, rise := none, badSensor := [], disagree := [], bias := [],
    regOff := [], backTo := 0, backClock := 0, wake := none, wakeCmd := none, wakeReset := none, kept := [] }

/-- Bring-up at a cold start. -/
def BuS.cold (f : FuseS) : BuS :=
  { fuse := f, slice := 0, testBad := [], given := none, own := TRec.blank, load := 0, restarted := false, retrain := [],
    passed := [], warm := none, devEvent := false }

/-- The firmware complexes at a cold start. -/
def FwS.cold : FwS :=
  { banks := [], bank := [], up := [], halted := [], hbStop := [], exch := none, guards := [], dump := none, dumps := [],
    jobDump := [], reset := none, prevState := none, sinks := [], lost := [] }

/-- The security engine at a cold start. -/
def SecS.cold : SecS :=
  { key := false, blocked := false, nonce := none, highest := 0, version := [], answers := [], ir := 0, tdo := [], pins := 0,
    extest := false, coreHalt := [] }

/-- Everything but the queue when VAUX has been applied and nothing has run, for a part with grade `g` and fuses `f`. -/
def Pkg.cold (g : Grade) (f : FuseS) : Pkg :=
  { cl := Clus.cold g, net := NetS.cold, hbm := HbmS.cold, fab := FabS.cold, att := AttS.cold, jobs := [], ckpts := [],
    bi := BiS.cold, pw := PwS.cold, bu := BuS.cold f, fw := FwS.cold, sec := SecS.cold }

/-- Fuses of the part that the model runs from reset: the spec gives a part's fuses no value (log entry 28). -/
def FuseS.blank : FuseS :=
  { uid := 0, bad := [], budgets := [], watts := 14000, minSvn := 0, revoked := 0, owner := none, devCert := [], caCert := [] }

/-- The device before its first cold start, and no command waits: grade X, TDP 14.0 kW (R1; log entry 28). -/
def State.reset : State := { pk := Pkg.cold .x FuseS.blank, pending := [] }

end Sys2Proof.Machine
end

