-- ==== Sys2Proof/Machine/Ops.lean ====
section
/-!
DEFINITION. Shared operations: register words and fields, the events of R481–R483 and R489, place of the phases in the
tick (R10, R11), slot maps, running slots and their failure causes (R27, R32), and fields of an entry (R16, R17).
-/
namespace Sys2Proof.Machine

/-! ## Register words -/

/-- A flag as a bit. -/
def b2n (b : Bool) : Nat := if b then 1 else 0

/-- Key of a register word. -/
def regKey (page off : Nat) : Nat := page * 1024 + off / 4

/-- Word of a register page. -/
def Core.rd (c : Core) (page off : Nat) : W32 := kget c.regs (resetWord c.grade (regKey page off)) (regKey page off)

/-- Set a word of a register page. -/
def Core.wr (c : Core) (page off : Nat) (v : W32) : Core :=
  { c with regs := kput c.regs (resetWord c.grade (regKey page off)) (regKey page off) v }

/-- Field [lo + len − 1 : lo] of a register word. -/
def Core.fld (c : Core) (page off lo len : Nat) : Nat := bitsAt (c.rd page off) lo len

/-- Set a field of a register word. -/
def Core.setFld (c : Core) (page off lo len x : Nat) : Core := c.wr page off (putBits (c.rd page off) lo len x)

/-- 64-bit register, low word first. -/
def Core.rd8 (c : Core) (page off : Nat) : Nat := (c.rd page off).toNat + 2 ^ 32 * (c.rd page (off + 4)).toNat

/-- Set a 64-bit register. -/
def Core.wr8 (c : Core) (page off v : Nat) : Core :=
  (c.wr page off (BitVec.ofNat 32 v)).wr page (off + 4) (BitVec.ofNat 32 (v / 2 ^ 32))

/-- Saturating count. -/
def Core.incSat (c : Core) (page off n : Nat) : Core := c.wr page off (satInc32 (c.rd page off) n)

/-- Wrapping count. -/
def Core.incWrap (c : Core) (page off n : Nat) : Core := c.wr page off (c.rd page off + BitVec.ofNat 32 n)

/-- Return the words [off, off + 4n) of a page to zero. -/
def Core.zero (c : Core) (page off n : Nat) : Core := iter n (fun i x => x.wr page (off + 4 * i) 0) c

/-- Write words from `off` on. -/
def Core.wrs (c : Core) (page off : Nat) : List W32 → Core
  | [] => c
  | v :: vs => (c.wr page off v).wrs page (off + 4) vs

/-- Return a page's words from 0x040 on, or all of it, to their reset values (R484). -/
def Core.resetPage (c : Core) (page fromOff : Nat) : Core :=
  { c with regs := kclear c.regs (regKey page fromOff) (1024 - fromOff / 4) }

/-- Byte of a memory window. -/
def Core.winRd (c : Core) (a : Nat) : Byte := kget c.win 0 a
/-- Bytes of a memory window. -/
def Core.winRds (c : Core) (a n : Nat) : List Byte := kgets c.win 0 a n
/-- Write bytes of a memory window. -/
def Core.winWr (c : Core) (a : Nat) (l : List Byte) : Core := { c with win := kputs c.win 0 a l }

/-- Draw a free value (log entry 3). -/
def Core.draw (c : Core) : BitVec 64 × Core := (Config.freeValue c.freeCtr, { c with freeCtr := c.freeCtr + 1 })

/-! ## Phases of the tick (R10, R11) -/

/-- First cycle of Guard. -/
def Core.guard0 (c : Core) : Nat := c.cpt - 264
/-- First cycle of Close. -/
def Core.close0 (c : Core) : Nat := c.cpt - 744
/-- Guard offsets 32–255: a remote post or release applies on arrival (R30, R178). -/
def Core.applyNow (c : Core) : Bool := decide (c.guard0 + 32 ≤ c.cycle ∧ c.cycle < c.guard0 + 256)
/-- Guard phase. -/
def Core.inGuard (c : Core) : Bool := decide (c.guard0 ≤ c.cycle)

/-! ## Events (R481, R483, R489) -/

/-- Severities of R489; 5 marks an event recorded only as a cause. -/
def sevInfo : Nat := 0
/-- CORRECTED. -/
def sevCorr : Nat := 1
/-- CONTAINED. -/
def sevCont : Nat := 2
/-- DEGRADED. -/
def sevDegr : Nat := 3
/-- DEVICE. -/
def sevDev : Nat := 4
/-- Recorded only as a cause. -/
def sevCause : Nat := 5

/-- Event class of a page (R480, R490). -/
def pageClass (page : Nat) : Nat :=
  match pageKind page with
  | some k => (kindId k).1
  | none => 0

/-- ERR_STATUS bit of event number n (R481). -/
def eventBit (n : Nat) : Nat := if n < 64 then n else n - 32

/-- Set bit b of ERR_STATUS of a page. -/
def Core.setErr (c : Core) (page b : Nat) : Core :=
  let off := 0x18 + 4 * (b / 32)
  c.wr page off (c.rd page off ||| BitVec.ofNat 32 (2 ^ (b % 32)))

/-- ACC_DROPPED (R477, R481). -/
def Core.dropped (c : Core) (page : Nat) : Core := c.setErr page 0

/-- An event detected by the block of `page`: ERR_STATUS for an event of the block's own class, EVT_COUNT, and
ERR_FIRST where it is empty (R481, R483). -/
def Core.note (c : Core) (page code sev job detail : Nat) : Core :=
  let c := if pageClass page = code / 256 then c.setErr page (eventBit (code % 256)) else c
  let c := c.incSat page 0x2C 1
  if bitAt (c.rd page 0x30) 31 then c
  else
    c.wrs page 0x30
      [BitVec.ofNat 32 (2 ^ 31 + job % 16 * 2 ^ 27 + sev % 8 * 2 ^ 24 + code % 65536),
       BitVec.ofNat 32 c.tick.toNat,
       BitVec.ofNat 32 (c.cycle % 65536 * 65536 + detail % 65536), 0]

/-- An event with a record of its own: noted on the block's page and sent on SIG1 (R227, R489). -/
def Core.record (c : Core) (page code sev job place detail : Nat) (inj : Bool := false) : Core :=
  let c := c.note page code sev job detail
  { c with records := c.records ++ [
    { code := BitVec.ofNat 16 code, severity := BitVec.ofNat 8 sev, job := BitVec.ofNat 4 job, injected := inj,
      loss := false, place := BitVec.ofNat 32 place, tick := c.tick, detail := BitVec.ofNat 128 detail }] }

/-- SBX page of the Signal Box in charge (R481). -/
def Core.sbx (c : Core) : Nat := if c.standby then 2 else 1
/-- Place code of the Signal Box in charge. -/
def Core.sbxPlace (c : Core) : Nat := placeSbx (if c.standby then 1 else 0)

/-- A firmware event (class 0x0E), or one of another class that the Signal Box records (R481). -/
def Core.fwEvent (c : Core) (code sev job place detail : Nat) : Core := c.record c.sbx code sev job place detail

/-- Detail bytes of R41: cause, circuit, slot, entry, attempt, busy unit, TAG and the last four bytes. -/
def detail41 (cause circ slot entry attempt busy tag last4 : Nat) : Nat :=
  cause % 2 ^ 16 + circ % 256 * 2 ^ 16 + slot % 256 * 2 ^ 24 + entry % 2 ^ 16 * 2 ^ 32 + attempt % 256 * 2 ^ 48
    + busy % 256 * 2 ^ 56 + tag % 2 ^ 32 * 2 ^ 64 + last4 % 2 ^ 32 * 2 ^ 96

/-! ## Fields of an entry (R16, R17) -/

/-- Word i of a 32-word entry. -/
def entW (ws : List W64) (i : Nat) : W64 := ws.getD i 0
/-- JOB. -/
def entJob (ws : List W64) : Nat := bitsAt (entW ws 0) 56 4
/-- SLOTS. -/
def entSlots (ws : List W64) : Nat := bitsAt (entW ws 0) 52 4
/-- Whether logical slot n is used. -/
def entUses (ws : List W64) (n : Nat) : Bool := bitAt (entW ws 0) (52 + n)
/-- HALT_AFTER. -/
def entHalt (ws : List W64) : Bool := bitAt (entW ws 0) 51
/-- RUN_CYCLES. -/
def entRun (ws : List W64) : Nat := bitsAt (entW ws 0) 32 16
/-- NEXT. -/
def entNext (ws : List W64) : Nat := bitsAt (entW ws 0) 20 12
/-- HOLD_LIMIT. -/
def entHold (ws : List W64) : Nat := bitsAt (entW ws 0) 0 14
/-- TAG. -/
def entTag (ws : List W64) : Nat := bitsAt (entW ws 1) 32 32
/-- THROUGH. -/
def entThrough (ws : List W64) : Nat := bitsAt (entW ws 2) 0 32
/-- Word +k of slot n. -/
def slotW (ws : List W64) (n k : Nat) : W64 := entW ws (4 + 7 * n + k)
/-- PROG, as a byte address of instruction memory. -/
def slotProg (ws : List W64) (n : Nat) : Nat := 2 * bitsAt (slotW ws n 0) 48 16
/-- Condition i of slot n. -/
def slotCond (ws : List W64) (n i : Nat) : Nat := bitsAt (slotW ws n (2 + i / 2)) (32 * (i % 2)) 32
/-- Release action i of slot n. -/
def slotAct (ws : List W64) (n i : Nat) : Nat := bitsAt (slotW ws n (4 + i / 2)) (32 * (i % 2)) 32
/-- WRITE_MASK of slot n. -/
def slotMask (ws : List W64) (n : Nat) : Nat := bitsAt (slotW ws n 6) 0 48

/-- Entry e of a region's entry memory as 32 little-endian words. -/
def Core.entry (c : Core) (rg e : Nat) : List W64 :=
  (List.range 32).map (fun i => BitVec.ofNat 64 (leNat (c.winRds (entryBase rg + 256 * e + 8 * i) 8)))

/-! ## Slot maps, running slots and failure causes -/

/-- Physical cluster 0–4 that a slot map word binds to logical slot n (R23). -/
def mapPhys (w : W32) (n : Nat) : Nat := bitsAt w (3 + 3 * n) 3
/-- RELIEF of a slot map word. -/
def mapRelief (w : W32) : Nat := bitsAt w 18 3
/-- PILOT_EN of a slot map word. -/
def mapPilotEn (w : W32) : Bool := bitAt w 21
/-- PILOT_OF of a slot map word. -/
def mapPilotOf (w : W32) : Nat := bitsAt w 22 2

/-- Whether a slot map word keeps R23: four distinct clusters 0–4, and RELIEF the one left over. -/
def mapOk (w : W32) : Bool :=
  let l := [mapPhys w 0, mapPhys w 1, mapPhys w 2, mapPhys w 3, mapRelief w]
  l.all (fun x => decide (x < 5)) && decide l.Nodup

/-- Slot map in force of a region. -/
def Core.slotMap (c : Core) (rg : Nat) : W32 := c.rd (pageTT rg) 0x40
/-- Cluster 10g + 5r + c that logical slot n of a region runs on. -/
def Core.cluOf (c : Core) (rg n : Nat) : Nat := 5 * rg + mapPhys (c.slotMap rg) n
/-- Relief cluster of a region. -/
def Core.reliefOf (c : Core) (rg : Nat) : Nat := 5 * rg + mapRelief (c.slotMap rg)
/-- Logical slot mapped to a cluster, if any. -/
def Core.slotOfClu (c : Core) (clu : Nat) : Option Nat :=
  (List.range 4).find? (fun n => decide (mapPhys (c.slotMap (clu / 5)) n = clu % 5))
/-- BI_FENCE bit of a cluster. -/
def Core.fenced (c : Core) (clu : Nat) : Bool := bitAt (c.rd (pageBI (clu / 5)) 0x48) (clu % 5)

/-- The run of logical slot n of a region. -/
def Clus.run (m : Clus) (rg n : Nat) : Option SlotRun := kget m.tt.runs none (4 * rg + n)
/-- Set the run of a slot. -/
def Clus.setRun (m : Clus) (rg n : Nat) (r : Option SlotRun) : Clus :=
  { m with tt := { m.tt with runs := kput m.tt.runs none (4 * rg + n) r } }
/-- The pilot run of a region. -/
def Clus.pilot (m : Clus) (rg : Nat) : Option SlotRun := kget m.tt.pilots none rg

/-- The logical slot departed on a cluster in this tick, with its run (R20). -/
def Clus.runOn (m : Clus) (clu : Nat) : Option (Nat × SlotRun) :=
  (List.range 4).findSome? (fun n =>
    match m.run (clu / 5) n with
    | some r => if r.clu = clu ∧ r.due = false then some (n, r) else none
    | none => none)

/-- The slot running on a cluster, or the slot its pilot duplicates (R359). -/
def Clus.runOrPilot (m : Clus) (clu : Nat) : Option (Nat × SlotRun) :=
  match m.runOn clu with
  | some x => some x
  | none => match m.pilot (clu / 5) with
    | some r => if r.clu = clu then some (mapPilotOf (m.core.slotMap (clu / 5)), r) else none
    | none => none

/-- Whether a cluster is the relief cluster of a region with PILOT_EN: what runs there is the pilot's, its handlers too, and
in a tick in which the pilot does not depart as well (R239, R358, R359). -/
def Core.pilots (c : Core) (clu : Nat) : Bool := mapPilotEn (c.slotMap (clu / 5)) && decide (c.reliefOf (clu / 5) = clu)
/-- Whether what runs on a cluster is a pilot's (R239, R359). -/
def Clus.isPilot (m : Clus) (clu : Nat) : Bool :=
  (m.runOn clu).isNone && ((m.runOrPilot clu).isSome || m.core.pilots clu)

/-- Job of the slot that runs on a cluster; 15 where there is none (R483). -/
def Clus.jobOn (m : Clus) (clu : Nat) : Nat :=
  match m.runOrPilot clu with
  | some (_, r) => entJob r.words
  | none => 15

/-- Detail bytes of R41 for an event of a cluster. -/
def Clus.detail (m : Clus) (clu cause busy last4 : Nat) : Nat :=
  match m.runOrPilot clu with
  | some (n, r) => detail41 cause r.circ n r.entry r.attempt busy (entTag r.words) last4
  | none => detail41 cause 0xFF 0xFF 0 0 busy 0 last4

/-- Failure causes recorded against a cluster in this tick (R27). -/
def Clus.causes (m : Clus) (clu : Nat) : List FailCause := kget m.tt.fails [] clu

/-- Record a failure cause against a cluster (R27, R32); each code once. -/
def Clus.fail (m : Clus) (clu : Nat) (f : FailCause) : Clus :=
  let l := m.causes clu
  if l.any (fun g => g.code == f.code && g.fatal == f.fatal) then m
  else { m with tt := { m.tt with fails := kput m.tt.fails [] clu (l ++ [f]) } }

/-- A CHECK cause. -/
def checkCause (code : Nat) (inj : Bool := false) : FailCause := ⟨code, .check, 0, false, false, inj⟩
/-- A PROGRAM cause with replay. -/
def progCause (code : Nat) : FailCause := ⟨code, .program, 0, false, false, false⟩
/-- A PROGRAM cause that faults the job without replay. -/
def fatalCause (code : Nat) : FailCause := ⟨code, .program, 0, true, false, false⟩
/-- A DATA cause: the job faults without replay, where no underrun is recorded (R32). -/
def dataCause (code : Nat) : FailCause := ⟨code, .data, 0, true, false, false⟩

/-- Note a job faulted by hardware (R15, R33, R178). -/
def Clus.faultJob (m : Clus) (job : Nat) (code : Nat := 0x0109) : Clus :=
  if m.tt.faulted.any (fun e => e.1 == job) then m
  else { m with tt := { m.tt with faulted := m.tt.faulted ++ [(job, code)] } }

/-- Apply a change to the shared part. -/
def Clus.onCore (m : Clus) (f : Core → Core) : Clus := { m with core := f m.core }

/-- An event of a cluster's unit recorded only as a cause: noted on the unit's page, and the slot fails. -/
def Clus.causeEvent (m : Clus) (clu page : Nat) (f : FailCause) (last4 : Nat) : Clus :=
  (m.onCore (·.note page f.code sevCause (m.jobOn clu) (m.detail clu f.code f.busy last4))).fail clu f

/-- An event of a cluster's unit with a record, which fails the slot and faults its job without replay. -/
def Clus.fatalEvent (m : Clus) (clu page code place last4 : Nat) : Clus :=
  (m.onCore (·.record page code sevCont (m.jobOn clu) place (m.detail clu code 0 last4))).fail clu (fatalCause code)

/-- Word +4 of the captures: entry index, slot, attempt and ITAG. -/
def Clus.capWord (m : Clus) (clu itag : Nat) : W32 :=
  match m.runOrPilot clu with
  | some (n, r) => BitVec.ofNat 32 (r.entry * 2 ^ 20 + n * 2 ^ 18 + min 3 r.attempt * 2 ^ 16 + itag % 65536)
  | none => BitVec.ofNat 32 (itag % 65536)

/-- A tick number as a capture word. -/
def Core.tickLo (c : Core) : W32 := BitVec.ofNat 32 c.tick.toNat

/-! ## The control window and the device state (R325, R340) -/

/-- Apply a change to the Attach Link. -/
def Pkg.onAtt (k : Pkg) (f : AttS → AttS) : Pkg := { k with att := f k.att }
/-- Apply a change to the power part. -/
def Pkg.onPw (k : Pkg) (f : PwS → PwS) : Pkg := { k with pw := f k.pw }
/-- Reset word of the control window by page × 1,024 + offset / 4: AT_CPL_TIMEOUT is 1,000, every other word 0 (R331, R337). -/
def cwReset (key : Nat) : W32 := if key = 32 * 1024 + 0x50 / 4 then 1000 else 0
/-- Word of the control window. -/
def Pkg.cwRd (k : Pkg) (page off : Nat) : W32 :=
  kget k.att.cw (cwReset (page * 1024 + off / 4)) (page * 1024 + off / 4)
/-- Set a word of the control window. -/
def Pkg.cwWr (k : Pkg) (page off : Nat) (v : W32) : Pkg :=
  k.onAtt (fun a => { a with cw := kput a.cw (cwReset (page * 1024 + off / 4)) (page * 1024 + off / 4) v })
/-- Device state: 0 ROM_WAIT, 1 BRINGUP, 2 REDUCED, 3 FULL, 4 IDLE, 5 LAID_UP, 6 RECOVERY, 7 FAILED. -/
def Pkg.devState (k : Pkg) : Nat := bitsAt (k.cwRd 0 0x44) 28 4
/-- Set it. -/
def Pkg.setDevState (k : Pkg) (x : Nat) : Pkg := k.cwWr 0 0x44 (putBits (k.cwRd 0 0x44) 28 4 x)

/-! ## Owners of decisions (R4, R407, R409) -/

/-- A complex that serves. -/
def Pkg.upC (k : Pkg) (x : Nat) : Bool := kget k.fw.up false x
/-- The Signal Box in charge: 0, or 1 once the standby has taken over. -/
def Pkg.sb (k : Pkg) : Nat := if k.cl.core.standby then 1 else 0
/-- Whether the Signal Box in charge serves: it alone takes the decisions R4 gives it, and they wait while it is down (R409;
log entry 288). -/
def Pkg.sbUp (k : Pkg) : Bool := k.upC k.sb
/-- Whether the block post of a region's quadrant serves (R4, R409; log entry 288). -/
def Pkg.bpUp (k : Pkg) (rg : Nat) : Bool := k.upC (2 + rg / 48)

/-! ## Fences -/

/-- Whether a fence-map entry fences now. -/
def FenceEnt.on_ (e : FenceEnt) : Bool := e.field || e.test || e.fuse
/-- Whether a place is fenced. -/
def Pkg.fencedAt (k : Pkg) (place : Nat) : Bool := k.bi.fence.any (fun e => e.on_ && decide (e.place = place))
/-- Whether a store has itself been fenced (R186): only then do the lines not reach it. -/
def Pkg.storeFenced (k : Pkg) (clu st : Nat) : Bool :=
  k.bi.fence.any (fun e => e.on_ && decide (e.place / 2 ^ 15 = placeUnit clu (6 + st) 0 / 2 ^ 15))

end Sys2Proof.Machine
end

