-- ==== Sys2Proof/Machine/Stores.lean ====
section
/-!
DEFINITION. The W-, A- and P-stores of a cluster (R165–R191): region descriptors and pointer arithmetic, the access
checks, poison and ECC, ACCUMULATE, FILL and COPY, remote releases, scrub, and the commands of the store pages.
-/
namespace Sys2Proof.Machine

/-- Bytes of a store (R165). -/
def storeSize (st : Nat) : Nat := if st = 0 then 2 ^ 24 else if st = 1 then 2 ^ 23 else 2 ^ 22
/-- Bank of a byte address (R165). -/
def storeBank (st a : Nat) : Nat := if st = 0 then a / 64 % 32 else if st = 1 then a / 64 % 16 else a / 256 % 16
/-- Banks of a store. -/
def storeBanks (st : Nat) : Nat := if st = 0 then 32 else 16

/-- A region descriptor's fields (R171). -/
structure RegionD where
  valid : Bool
  mode : Nat
  homeEn : Bool
  homeSrc : Bool
  job : Nat
  base : Nat
  size : Nat
  rel : Nat
  tail : Nat
  wrap : Bool
  hext : Nat
  homeBase : Nat
  flush : Nat
  deriving DecidableEq, Repr

/-- Descriptor fields of eight words. -/
def regionOfWords (w : List W32) : RegionD :=
  let g (i : Nat) : W32 := w.getD i 0
  { valid := bitAt (g 0) 31, mode := bitsAt (g 0) 29 2, homeEn := bitAt (g 0) 28, homeSrc := bitAt (g 0) 27,
    job := bitsAt (g 0) 23 4, base := bitsAt (g 0) 0 16, size := bitsAt (g 1) 0 17, rel := bitsAt (g 2) 0 16,
    tail := bitsAt (g 3) 0 16, wrap := bitAt (g 3) 31, hext := bitsAt (g 4) 0 17, homeBase := (g 6).toNat,
    flush := bitsAt (g 7) 0 16 }

/-- Offset of region r's descriptor in a store page. -/
def regionOff (r : Nat) : Nat := 0x100 + 32 * r

/-- The eight words of a descriptor in force. -/
def Core.regionWords (c : Core) (clu st r : Nat) : List W32 :=
  (List.range 8).map (fun i => c.rd (pageSt clu st) (regionOff r + 4 * i))
/-- A descriptor in force. -/
def Core.region (c : Core) (clu st r : Nat) : RegionD := regionOfWords (c.regionWords clu st r)

/-- Released, unconsumed granules U (R172). -/
def RegionD.used (d : RegionD) : Nat :=
  if d.size = 0 then 0
  else if d.rel = d.tail then (if d.wrap then d.size else 0)
  else (d.rel + d.size - d.tail) % d.size
/-- Free granules F (R172). -/
def RegionD.free (d : RegionD) : Nat := d.size - d.used

/-- Set REL, TAIL, WRAP and HEXT of a descriptor. -/
def Core.setPtrs (c : Core) (clu st r rel tail : Nat) (wrap : Bool) (hext : Nat) : Core :=
  let p := pageSt clu st
  let o := regionOff r
  (((c.setFld p (o + 8) 0 16 rel).setFld p (o + 12) 0 16 tail).setFld p (o + 12) 31 1 (if wrap then 1 else 0)).setFld
    p (o + 16) 0 17 hext

/-- Advance REL by n (R172). -/
def Core.advRel (c : Core) (clu st r n : Nat) (hext : Nat) : Core :=
  let d := c.region clu st r
  c.setPtrs clu st r ((d.rel + n) % d.size) d.tail (if d.size ≤ d.rel + n then !d.wrap else d.wrap) hext
/-- Granules from TAIL on that the flush has copied (R188): FLUSH at TAIL means none, or, where `full` tells so, the whole
of a full ring; a FLUSH outside TAIL to REL counts as none (log entry 281). -/
def RegionD.flushed (d : RegionD) (full : Bool) : Nat :=
  let f := if d.size = 0 then 0 else (d.flush + d.size - d.tail) % d.size
  if f = 0 then (if full then d.used else 0) else if f ≤ d.used then f else 0

/-- Advance TAIL by n (R172); FLUSH follows a TAIL that passes it (R188). `full`: as for `RegionD.flushed`. -/
def Core.advTail (c : Core) (clu st r n : Nat) (full : Bool) : Core :=
  let d := c.region clu st r
  let t := (d.tail + n) % d.size
  let c1 := c.setPtrs clu st r d.rel t (if d.size ≤ d.tail + n then !d.wrap else d.wrap) d.hext
  if d.flushed full < n then c1.setFld (pageSt clu st) (regionOff r + 28) 0 16 t else c1

/-- Who accesses a store. Own: a unit of the cluster or its slot's DMA. Source: the cluster's slot reads its own store for a
multicast, under the remote column of R174. Remote: on the line port from elsewhere, with the region and logical slot that
started the transfer, where a slot did. -/
inductive Who where
  | own (job : Nat)
  | source (job : Nat)
  | remote (job : Nat) (src : Option (Nat × Nat) := none)
  deriving DecidableEq, Repr

/-- Job of an access. -/
def Who.job : Who → Nat
  | .own j | .source j => j
  | .remote j _ => j
/-- Whether the access is own. -/
def Who.isOwn : Who → Bool
  | .own _ => true
  | .source _ | .remote _ _ => false
/-- Whether the access is the cluster's own slot's. -/
def Who.isLocal : Who → Bool
  | .own _ | .source _ => true
  | .remote _ _ => false
/-- Region and logical slot that started a remote access. -/
def Who.src : Who → Option (Nat × Nat)
  | .own _ | .source _ => none
  | .remote _ s => s

/-- Accessing-unit codes of R190 beyond the place-code units. -/
def unitLine : Nat := 0xF0
/-- Operation engine. -/
def unitOp : Nat := 0xF1
/-- Scrub. -/
def unitScrub : Nat := 0xF2

/-- Key of a 32-byte word of a store. -/
def wordKey (clu st a : Nat) : Nat := 2 ^ 19 * (3 * clu + st) + a / 32
/-- Key of a 64-byte chunk of a store. -/
def chunkKey (clu st a : Nat) : Nat := 2 ^ 18 * (3 * clu + st) + a / 64
/-- Key of a byte of a store. -/
def byteKey (clu st a : Nat) : Nat := 2 ^ 24 * (3 * clu + st) + a

/-- Whether the chunk at a byte address was written in this tick. -/
def Clus.chunkWritten (m : Clus) (clu st a : Nat) : Bool := kget m.st.written false (chunkKey clu st a)
/-- Whether the 32-byte word at a byte address is poisoned. -/
def Clus.poisoned (m : Clus) (clu st a : Nat) : Bool := kget m.st.poison false (wordKey clu st a)

/-- Bytes of a store with their poison. -/
def Clus.stRaw (m : Clus) (clu st a : Nat) : Nat → List PB
  | 0 => []
  | n + 1 => (kget m.st.mem 0 (byteKey clu st a), m.poisoned clu st a) :: m.stRaw clu st (a + 1) n

/-- Capture of the first error of a store (xST_FIRST_ERR). -/
def Clus.stCapture (m : Clus) (clu st code a reg unit : Nat) : Clus :=
  let p := pageSt clu st
  if bitAt (m.core.rd p 0x7C) 31 then m
  else m.onCore (fun c => c.wrs p 0x60
    [c.tickLo, m.capWord clu 0,
     BitVec.ofNat 32 (code + storeBank st a * 2 ^ 16 + (if reg < 16 then reg * 2 ^ 21 else 2 ^ 25)),
     BitVec.ofNat 32 (a / 256 % 65536 + unit % 256 * 65536), BitVec.ofNat 32 (c.cycle * 65536), 0, 0,
     BitVec.ofNat 32 (2 ^ 31)])

/-- Last four detail bytes of a store event (R190). -/
def stLast4 (a reg unit : Nat) : Nat := a / 256 % 65536 + (if reg < 16 then reg else 0xFF) * 65536 + unit % 256 * 2 ^ 24

/-- One correctable error met by a read that names region `reg`, 0xFF where it names none (R182, R190). -/
def Clus.stCe (m : Clus) (clu st a unit reg : Nat) (inj : Bool := false) : Clus :=
  let p := pageSt clu st
  let b := storeBank st a
  let old := m.core.fld p (0x80 + 4 * b) 0 16
  let m := m.onCore (fun c => (c.incSat p 0x48 1).setFld p (0x80 + 4 * b) 0 16 (min 65535 (old + 1)))
  let m := { m with st := { m.st with errs := kput m.st.errs 0 (wordKey clu st a) 0 } }
  let place := placeUnit clu (6 + st) b
  let m := if old = 0 then
      (m.onCore (·.record p 0x0505 sevCorr (m.jobOn clu) place (m.detail clu 0x0505 0 (stLast4 a reg unit)) inj)).stCapture
        clu st 0x0505 a reg unit
    else m
  let wk := 32 * (3 * clu + st) + b
  if m.core.fld p 0x5C 0 16 ≤ old + 1 ∧ kget m.st.wear false wk = false ∧ 0 < m.core.fld p 0x5C 0 16 then
    { m with
      st := { m.st with wear := kput m.st.wear false wk true }
      core := m.core.record p 0x0509 sevInfo (m.jobOn clu) place (m.detail clu 0x0509 0 (stLast4 a reg unit)) inj }
  else m

/-- One uncorrectable error met by a read (R184): the word turns to poison. -/
def Clus.stUe (m : Clus) (clu st a unit reg : Nat) (inj : Bool := false) : Clus :=
  let p := pageSt clu st
  let place := placeUnit clu (6 + st) (storeBank st a)
  let m := { m with st := { m.st with errs := kput m.st.errs 0 (wordKey clu st a) 0,
                                      poison := kput m.st.poison false (wordKey clu st a) true } }
  (m.onCore (fun c => (c.incSat p 0x4C 1).record p 0x0506 sevInfo (m.jobOn clu) place
    (m.detail clu 0x0506 0 (stLast4 a reg unit)) inj)).stCapture clu st 0x0506 a reg unit

/-- ECC at a read of n bytes that names region `reg`, 0xFF where it names none: corrections and poisoning of the words with
flipped bits (R182, R184). -/
def Clus.stTouch (m : Clus) (clu st a n unit reg : Nat) : Clus :=
  let lo := wordKey clu st a
  let hi := wordKey clu st (a + n - 1)
  let hit := m.st.errs.filter (fun e => decide (lo ≤ e.1 ∧ e.1 ≤ hi ∧ 0 < n))
  hit.foldl (fun x e =>
    let wa := (e.1 % 2 ^ 19) * 32
    if e.2 = 1 ∨ e.2 = 3 then x.stCe clu st wa unit reg (decide (e.2 = 3))
    else x.stUe clu st wa unit reg (decide (e.2 = 4))) m

/-- Consume an armed CE_FLIP or UE_FLIP at a write of the word at `a` (R191). -/
def Clus.stInject (m : Clus) (clu st a : Nat) : Clus :=
  let p := pageSt clu st
  let inj := m.core.rd p 0x28
  if bitsAt inj 0 2 = 0 ∨ bitsAt inj 8 5 ≠ storeBank st a then m
  else
    let e := if bitAt inj 1 then 4 else 3
    let m := { m with st := { m.st with errs := kput m.st.errs 0 (wordKey clu st a) e } }
    m.onCore (·.setFld p 0x28 0 2 0)

/-- Write one 32-byte word's share of a store access: bytes, poison under R183, ECC refreshed by a full write. `full`:
the rest of the word is written too (R175). -/
def Clus.stPutWord (m : Clus) (clu st a : Nat) (l : List PB) (full : Bool) : Clus :=
  let k := wordKey clu st a
  let newP := l.any (·.2)
  let oldP := kget m.st.poison false k
  let whole := full || decide (l.length = 32)
  let m := { m with st := { m.st with
    mem := kputs m.st.mem 0 (byteKey clu st a) (l.map (fun (e : PB) => e.1)),
    poison := kput m.st.poison false k (if whole then newP else (newP || oldP)),
    errs := if whole then kput m.st.errs 0 k 0 else m.st.errs } }
  m.stInject clu st a

/-- Write a run of bytes inside one chunk. An own write sets the chunk's written bit and zero-fills the rest of a
chunk it is the first to touch in the tick (R175). -/
def Clus.stPutChunk (m : Clus) (clu st a : Nat) (l : List PB) (own : Bool) : Clus :=
  let ck := chunkKey clu st a
  let first := own && !kget m.st.written false ck
  let base := a / 64 * 64
  let m := if first then
      { m with st := { m.st with
          mem := kputs m.st.mem 0 (byteKey clu st base) (List.replicate 64 0),
          poison := kput (kput m.st.poison false (wordKey clu st base) false) false (wordKey clu st (base + 32)) false,
          errs := kput (kput m.st.errs 0 (wordKey clu st base) 0) 0 (wordKey clu st (base + 32)) 0 } }
    else m
  let m := if own then { m with st := { m.st with written := kput m.st.written false ck true } } else m
  let n0 := min l.length (32 - a % 32)
  let m := if n0 = 0 then m else m.stPutWord clu st a (l.take n0) first
  let r := l.drop n0
  if r = [] then m else m.stPutWord clu st (a + n0) (r.take 32) first

/-- Bytes of an access split at 64-byte boundaries of the region offset: (offset, bytes), `fuel` pieces at most. -/
def chunks64 {α : Type} (fuel b : Nat) (l : List α) : List (Nat × List α) :=
  match fuel with
  | 0 => []
  | f + 1 =>
    if l.isEmpty then []
    else
      let n := 64 - b % 64
      (b, l.take n) :: chunks64 f (b + n) (l.drop n)

/-- Origin of a read (R81). -/
def RegionD.readOrigin (d : RegionD) : Nat := if d.mode = 1 ∨ d.mode = 2 then d.tail else 0
/-- Origin of a write (R81). -/
def RegionD.writeOrigin (d : RegionD) : Nat := if d.mode = 1 ∨ d.mode = 2 then d.rel else 0
/-- Store address of byte b from an origin, modulo the region size (R81). -/
def RegionD.addr (d : RegionD) (origin b : Nat) : Nat :=
  if d.size = 0 then d.base * 256 + b % 256
  else (d.base + (origin + b / 256) % d.size) * 256 + b % 256

/-- The fit rule of R81: VALID, and offset plus extent (granules) within the size. -/
def Core.fits (c : Core) (clu st r off ext : Nat) : Bool :=
  let d := c.region clu st r
  d.valid && decide (off + ext ≤ d.size)

/-- Whether the store serves the access: its job's region, any for job 15, and a read-only region of job 15 for every job on
the same cluster (R179). -/
def RegionD.serves (d : RegionD) (w : Who) : Bool :=
  decide (d.job = w.job ∨ w.job = 15) || (decide (d.mode = 3) && decide (d.job = 15) && w.isLocal)

/-- Cause of a read of n bytes at b from the origin, 0 where it is served (R174, R179). -/
def Clus.readCause (m : Clus) (clu st r b n : Nat) (w : Who) : Nat :=
  let d := m.core.region clu st r
  let gs := (List.range ((b + n + 63) / 64 - b / 64)).map (fun i => b / 64 + i)
  let wr (ci : Nat) : Bool := m.chunkWritten clu st (d.addr d.readOrigin (64 * ci))
  if d.valid = false then 0x0501
  else if d.serves w = false then 0x0507
  else match d.mode, w.isOwn with
    | 0, true => if gs.all wr then 0 else 0x0504
    | 0, false => 0x0501
    | 1, true => if gs.all (fun ci => decide (ci / 4 < d.used) || wr ci) then 0 else 0x0501
    | 1, false => if gs.all (fun ci => decide (ci / 4 < d.used)) then 0 else 0x0501
    | 2, _ => if gs.all (fun ci => decide (ci / 4 < d.used)) then 0 else 0x0501
    | _, _ => 0

/-- WRITE_MASK bit of a region for the slot on the cluster (R17, R31). -/
def Clus.maskBit (m : Clus) (clu st r : Nat) : Bool :=
  match m.runOrPilot clu with
  | some (n, run) => decide (slotMask run.words n / 2 ^ (16 * st + r) % 2 = 1)
  | none => false

/-- Cause of a write or ACCUMULATE of n bytes at b from the origin, 0 where it is served (R174, R179). -/
def Clus.writeCause (m : Clus) (clu st r b n : Nat) (w : Who) (acc : Bool) : Nat :=
  let d := m.core.region clu st r
  let gs := (List.range ((b + n + 63) / 64 - b / 64)).map (fun i => b / 64 + i)
  let wr (ci : Nat) : Bool := m.chunkWritten clu st (d.addr d.writeOrigin (64 * ci))
  if d.valid = false then 0x0103
  else if d.serves w = false then 0x0507
  else if w.isOwn && !m.maskBit clu st r then 0x0103
  else match d.mode, w.isOwn with
    | 0, true => if acc && !gs.all wr then 0x0504 else 0
    | 0, false => 0x0103
    | 1, true =>
      if gs.all (fun ci => decide (ci / 4 < d.free)) = false then 0x0502
      else if acc && !gs.all wr then 0x0504 else 0
    | 1, false => 0x0103
    | 2, true => 0x0103
    | 2, false => if gs.all (fun ci => decide (ci / 4 < d.free)) then 0 else 0x0502
    | _, true => 0x0103
    | _, false => if w.job = 15 then 0 else 0x0103

/-- Detail bytes of R41 for the slot that started a remote access; where no slot did, the fields of a slot are 0xFF and 0. -/
def Clus.srcDetail (m : Clus) (src : Option (Nat × Nat)) (code last4 : Nat) : Nat :=
  match src with
  | none => detail41 code 0xFF 0xFF 0 0 0 0 last4
  | some (rg, n) =>
    match m.run rg n with
    | some r => detail41 code r.circ n r.entry r.attempt 0 (entTag r.words) last4
    | none => detail41 code 0xFF n 0 0 0 0 last4

/-- A store access that failed its check: the cause against the cluster's slot for an access of its own, the event on the
store's page, and MARK for an overrun (R176, R177, R179, R31). -/
def Clus.storeFault (m : Clus) (clu st r b code unit : Nat) (w : Who) (write : Bool) : Clus :=
  let p := pageSt clu st
  let d := m.core.region clu st r
  let a := d.addr (if write then d.writeOrigin else d.readOrigin) b
  let l4 := stLast4 a r unit
  let m := if code = 0x0502 then m.onCore (·.setFld p (regionOff r + 20) 31 1 1) else m
  let m := m.stCapture clu st code a r unit
  if code = 0x0507 then
    let place := placeUnit clu (6 + st) (storeBank st a)
    if w.isLocal then m.fatalEvent clu p code place l4
    else m.onCore (·.record p code sevCont w.job place (m.srcDetail w.src code l4))
  else if w.isLocal then m.causeEvent clu p (progCause code) l4
  else m.onCore (·.note p code sevCause w.job (m.srcDetail w.src code l4))

/-- Raise RCUR of a ring region for a read that ends in granule g (R171). -/
def Clus.noteRead (m : Clus) (clu st r g : Nat) : Clus :=
  let k := 16 * (3 * clu + st) + r
  { m with st := { m.st with rcur := kput m.st.rcur 0 k (max (kget m.st.rcur 0 k) (g + 1)) } }

/-- Read n bytes at byte b from the region's origin: the bytes and the cause, 0 where served. A refused read returns
its bytes as poison (R176, R177, R179). -/
def Clus.readOp (m : Clus) (clu st r b n : Nat) (w : Who) (unit : Nat) : List PB × Nat × Clus :=
  let d := m.core.region clu st r
  let code := m.readCause clu st r b n w
  let addrs := (List.range n).map (fun i => d.addr d.readOrigin (b + i))
  let rawAt (x : Clus) (a : Nat) : PB := (kget x.st.mem 0 (byteKey clu st a), x.poisoned clu st a)
  if code = 0 then
    let m := (chunks64 (n / 64 + 2) b addrs).foldl
      (fun x e => x.stTouch clu st (e.2.headD 0) e.2.length unit r) m
    let m := if d.mode = 1 ∨ d.mode = 2 then m.noteRead clu st r ((b + n - 1) / 256) else m
    (addrs.map (rawAt m), 0, m)
  else (addrs.map (fun a => ((rawAt m a).1, true)), code, m.storeFault clu st r b code unit w false)

/-- Raise HEXT after a ring write that ends in granule g (R174). -/
def Core.raiseHext (c : Core) (clu st r gEnd : Nat) : Core :=
  let d := c.region clu st r
  if d.mode = 1 ∨ d.mode = 2 then c.setFld (pageSt clu st) (regionOff r + 16) 0 17 (max d.hext gEnd) else c

/-- Add an item to the cluster's pilot digest while a pilot runs in the region (R361). -/
def Clus.addDig (m : Clus) (clu : Nat) (item : List Nat) : Clus :=
  if mapPilotEn (m.core.slotMap (clu / 5)) then
    { m with st := { m.st with dig := kput m.st.dig 0 clu (kget m.st.dig 0 clu + Config.digestItem item) } }
  else m

/-- Mark the granules of n bytes at b of a home-kept read-only region for the flush (R188). -/
def Clus.markHome (m : Clus) (clu st r b n : Nat) : Clus :=
  let d := m.core.region clu st r
  if decide (d.mode = 3) && d.homeEn && !d.homeSrc && decide (0 < d.size) then
    iter ((b + n - 1) / 256 + 1 - b / 256) (fun i x => { x with st := { x.st with
      dirty := kput x.st.dirty false (65536 * (3 * clu + st) + d.base + (b / 256 + i) % d.size) true } }) m
  else m

/-- Write bytes at byte b from the region's origin (R174–R177, R183): the cause, 0 where served. -/
def Clus.writeOp (m : Clus) (clu st r b : Nat) (l : List PB) (w : Who) (unit : Nat) : Nat × Clus :=
  let d := m.core.region clu st r
  let n := l.length
  if n = 0 then (0, m)
  else
    let code := m.writeCause clu st r b n w false
    if code = 0 then
      let m := (chunks64 (n / 64 + 2) b l).foldl
        (fun x e => x.stPutChunk clu st (d.addr d.writeOrigin e.1) e.2 w.isOwn) m
      let m := m.onCore (·.raiseHext clu st r ((b + n + 255) / 256))
      let m := if w.isOwn then m.addDig clu ([1, st, r, b] ++ l.map (fun (e : PB) => e.1.toNat)) else m
      (0, m.markHome clu st r b n)
    else (code, m.storeFault clu st r b code unit w true)

/-- Four bytes as a word. -/
def word4 (l : List Byte) : W32 := BitVec.ofNat 32 (leNat l)
/-- A word as four bytes. -/
def bytes4 (w : W32) : List Byte := leBytes 4 w.toNat

/-- INT32 addition that saturates, with a mark where it does (R61). -/
def satAdd (a b : W32) : W32 × Bool :=
  let s := a.toInt + b.toInt
  if s < -(2 ^ 31) then (0x80000000, true)
  else if 2 ^ 31 ≤ s then (0x7FFFFFFF, true)
  else (BitVec.ofInt 32 s, false)

/-- ACCUMULATE of one word: FP32 addition under R60 or saturating INT32 under R61; the mark counts in
MC_SAT_COUNT. -/
def accWord (int : Bool) (old new : W32) : W32 × Bool :=
  if int then satAdd old new
  else
    let v := (of32 old).add (of32 new)
    (to32 v, ovf32 v)

/-- A segment's fill value accumulated onto a stored word (R91): +0 leaves the word as it is, −∞ leaves −∞. INT32 has no −∞: its
fill is the bit pattern of FP32's, added as an integer (DESIGN CHOICE, log entry 300). -/
def fillWord (int : Bool) (old new : W32) : W32 × Bool :=
  if new = 0 then (old, false) else if int then satAdd old new else (new, false)

/-- ACCUMULATE words at byte b from the region's origin (R38, R170, R174, R183): cause, saturations, next state. The words that
`mask` marks are fill values (R91). A saturation onto a poisoned word is not counted (DESIGN CHOICE, log entry 299). -/
def Clus.accOp (m : Clus) (clu st r b : Nat) (vals : List (W32 × Bool)) (int : Bool) (w : Who) (unit : Nat)
    (mask : List Bool := []) : Nat × Nat × Clus :=
  let d := m.core.region clu st r
  let n := 4 * vals.length
  if n = 0 then (0, 0, m)
  else
    let code := m.writeCause clu st r b n w true
    if code = 0 then
      let (m, sats) := vals.zipIdx.foldl (fun (x : Clus × Nat) (v : (W32 × Bool) × Nat) =>
        let a := d.addr d.writeOrigin (b + 4 * v.2)
        let m := x.1.stTouch clu st a 4 unit r
        let old := word4 ((m.stRaw clu st a 4).map (·.1))
        let oldP := m.poisoned clu st a
        let (s, sat) := if mask.getD v.2 false then fillWord int old v.1.1 else accWord int old v.1.1
        let p := v.1.2 || oldP
        (m.stPutChunk clu st a ((bytes4 s).map (fun y => (y, p))) true, x.2 + (if sat && !p then 1 else 0)))
        (m, 0)
      let m := m.addDig clu ([2, st, r, b] ++ (m.stRaw clu st (d.addr d.writeOrigin b) n).map (fun (e : PB) => e.1.toNat))
      (0, sats, m.onCore (·.raiseHext clu st r ((b + n + 255) / 256)))
    else (code, 0, m.storeFault clu st r b code unit w true)

/-! ## Remote releases (R178) -/


/-- Apply a REMOTE_RELEASE to an inbound ring, or record ST_REL_EXCESS (R178). -/
def Clus.applyRelease (m : Clus) (clu st r n job : Nat) : Clus :=
  let d := m.core.region clu st r
  let p := pageSt clu st
  let place := placeUnit clu (6 + st) 0
  let bad (j : Nat) : Clus :=
    ((m.onCore (·.record p 0x050C sevCont j place
      (detail41 0x050C 0xFF 0xFF 0 0 0 0 (stLast4 0 r 0xFF)))).stCapture clu st 0x050C (d.base * 256) r 0xFF).faultJob j 0x050C
  if d.valid = false ∨ d.mode ≠ 2 then bad job
  else if d.free < n then bad d.job
  else m.onCore (·.advRel clu st r n (d.hext - n))

/-- Apply a POST to a counter (R29, R30). -/
def Clus.applyPost (m : Clus) (rg ctr value : Nat) : Clus :=
  m.onCore (fun c => c.setFld (pageTT rg) (0x80 + 4 * ctr) 0 16 (c.fld (pageTT rg) (0x80 + 4 * ctr) 0 16 + value))

/-- Apply a SIG0 message at its target (R30, R178). -/
def Clus.applySig0 (m : Clus) (x : Sig0) : Clus :=
  match x with
  | .post rg ctr v => m.applyPost rg ctr v
  | .release clu st r n job => m.applyRelease clu st r n job

/-! ## Region descriptors (R171) -/

/-- Whether two granule ranges meet. -/
def rangesMeet (a n b k : Nat) : Bool := decide (a < b + k ∧ b < a + n ∧ 0 < n ∧ 0 < k)

/-- Whether R171 drops a descriptor write. -/
def Clus.descBad (m : Clus) (clu st r : Nat) (d : RegionD) : Bool :=
  let others := (List.range 16).filter (fun i => decide (i ≠ r))
  let pendOf (i : Nat) : RegionD :=
    match (m.st.pend.filter (fun e => e.1 == clu && e.2.1 == st && e.2.2.1 == i)).getLast? with
    | some e => regionOfWords e.2.2.2
    | none => m.core.region clu st i
  let overlap := d.valid && others.any (fun i =>
    let o := pendOf i
    o.valid && rangesMeet d.base d.size o.base o.size)
  let busy := (List.range 4).any (fun n =>
    match m.run (clu / 5) n with
    | some run => decide (run.clu = clu) && (decide (entJob run.words = d.job) ||
        ((m.core.region clu st r).valid && decide (entJob run.words = (m.core.region clu st r).job)))
    | none => false)
  decide (storeSize st / 256 < d.base + d.size) || overlap || (d.homeEn && decide (d.mode = 0)) ||
    (d.valid && decide (d.size = 0)) || (d.homeSrc && decide (d.mode ≠ 3)) ||
    decide (d.size ≤ d.rel) || decide (d.size ≤ d.tail) || busy

/-- REGION_DESCRIPTOR_WRITE: pending until the next Departure, or dropped with ST_DESC_REJ (R171). -/
def Clus.descWrite (m : Clus) (clu st r : Nat) (ws : List W32) : Clus :=
  let d := regionOfWords ws
  if m.descBad clu st r d then
    m.onCore (fun c => (c.record (pageSt clu st) 0x050B sevInfo d.job (placeUnit clu (6 + st) 0)
      (detail41 0x050B 0xFF 0xFF 0 0 0 0 (stLast4 (d.base * 256) r 0xFF))).setErr (pageSt clu st) 0)
  else { m with st := { m.st with pend := m.st.pend ++ [(clu, st, r, ws)] } }

/-- Put a written descriptor in force: reserved bits stay zero, HEXT, RCUR and FLUSH are read-only, and MARK clears
where its bit is written 1 (R171, R477). -/
def Core.putDesc (c : Core) (clu st r : Nat) (ws : List W32) : Core :=
  let p := pageSt clu st
  let o := regionOff r
  let g (i mask : Nat) : W32 := ws.getD i 0 &&& BitVec.ofNat 32 mask
  let w5 := c.rd p (o + 20)
  let c := ((((c.wr p o (g 0 0xFF80FFFF)).wr p (o + 4) (g 1 0x1FFFF)).wr p (o + 8) (g 2 0xFFFF)).wr
    p (o + 12) (g 3 0x8000FFFF)).wr p (o + 24) (g 6 0xFFFFFFFF)
  let c := if bitAt (ws.getD 5 0) 31 then c.wr p (o + 20) (putBits w5 31 1 0) else c
  c.setFld p 0x40 r 1 (bitsAt (ws.getD 0 0) 31 1)

/-- Key of a region in the tables of the home copies. -/
def homeKey (clu st r : Nat) : Nat := 16 * (3 * clu + st) + r

/-- A home-kept region: a ring, or a read-only region that is not HOME_SRC. -/
def RegionD.homeKept (d : RegionD) : Bool := d.valid && d.homeEn && !d.homeSrc && decide (d.mode ≠ 0)

/-- xST_HOME_TICK: the least home tick of the store's home-kept regions (R189). -/
def Clus.homeTickUpdate (m : Clus) (clu st : Nat) : Clus :=
  let l := (List.range 16).filterMap (fun r =>
    if (m.core.region clu st r).homeKept then some (kget m.st.homeTick 0 (homeKey clu st r)) else none)
  match l with
  | [] => m
  | t :: ts => m.onCore (·.wr8 (pageSt clu st) 0x300 (ts.foldl min t))

/-- One written descriptor takes effect (R171). One that only clears MARK leaves the home copy as it is; with any other, no
tick of the region is complete in HBM yet, FLUSH starts at TAIL, and the lag counts from this tick (log entry 281). -/
def Clus.openDesc (m : Clus) (clu st r : Nat) (ws : List W32) : Clus :=
  let old := m.core.region clu st r
  let m := m.onCore (·.putDesc clu st r ws)
  let d := m.core.region clu st r
  if { d with flush := old.flush, hext := old.hext } = old then m
  else
    let m := m.onCore (·.setFld (pageSt clu st) (regionOff r + 28) 0 16 d.tail)
    let key := homeKey clu st r
    let m := { m with st := { m.st with
      homeTick := kput m.st.homeTick 0 key 0, homeSince := kput m.st.homeSince 0 key m.core.tick.toNat,
      flushed := kput m.st.flushed false key false, lag := kput m.st.lag false key false } }
    m.homeTickUpdate clu st

/-- The pending descriptors of a region's clusters take effect at Departure (R171). -/
def Clus.applyDescs (m : Clus) (rg : Nat) : Clus :=
  let (mine, rest) := m.st.pend.partition (fun e => decide (e.1 / 5 = rg))
  let m := { m with st := { m.st with pend := rest } }
  mine.foldl (fun x e => x.openDesc e.1 e.2.1 e.2.2.1 e.2.2.2) m

/-- Departure offset 0 at the stores of a region: descriptors, written-in-tick bits and RCUR (R171, R175). -/
def Clus.storesDepart (m : Clus) (rg : Nat) : Clus :=
  let m := m.applyDescs rg
  let m := { m with st := { m.st with written := kclear m.st.written (2 ^ 18 * (15 * rg)) (2 ^ 18 * 15) } }
  let m := iter 240 (fun i x =>
    let k := 240 * rg + i
    x.onCore (·.setFld (pageSt (k / 48) (k / 16 % 3)) (regionOff (k % 16) + 20) 0 17 (kget x.st.rcur 0 k))) m
  { m with st := { m.st with rcur := kclear m.st.rcur (240 * rg) 240 } }

/-- HEXT of every local ring of a region's clusters := 0 after the release actions (R173). -/
def Clus.hextClear (m : Clus) (rg : Nat) : Clus :=
  iter 240 (fun i x =>
    let k := 240 * rg + i
    let d := x.core.region (k / 48) (k / 16 % 3) (k % 16)
    if d.mode = 1 ∧ d.hext ≠ 0 then
      x.onCore (·.setFld (pageSt (k / 48) (k / 16 % 3)) (regionOff (k % 16) + 16) 0 17 0)
    else x) m

/-! ## Operations at the memory (R180, R181) -/

/-- FILL of one granule with a 32-bit pattern. -/
def Clus.fillGranule (m : Clus) (clu st r g : Nat) (pat : W32) (job : Nat) : Nat × Clus :=
  m.writeOp clu st r (256 * g) ((List.replicate 64 (bytes4 pat)).flatten.map (fun b => (b, false))) (.own job) unitOp

/-- COPY of one granule, with poison. -/
def Clus.copyGranule (m : Clus) (clu sst sr sg dst dr dg job : Nat) : Nat × Clus :=
  let (l, code, m) := m.readOp clu sst sr (256 * sg) 256 (.own job) unitOp
  if code ≠ 0 then (code, m) else m.writeOp clu dst dr (256 * dg) l (.own job) unitOp

/-- Words of a byte list with poison. -/
def wordsPB (fuel : Nat) (l : List PB) : List (W32 × Bool) :=
  match fuel with
  | 0 => []
  | f + 1 => if l.isEmpty then [] else
    (word4 ((l.take 4).map (·.1)), (l.take 4).any (·.2)) :: wordsPB f (l.drop 4)

/-- COPY_ACC of one granule: each source value is added to the destination (R180). -/
def Clus.copyAccGranule (m : Clus) (clu sst sr sg dr dg : Nat) (int : Bool) (job : Nat) : Nat × Clus :=
  let (l, code, m) := m.readOp clu sst sr (256 * sg) 256 (.own job) unitOp
  if code ≠ 0 then (code, m)
  else
    let (code, _, m) := m.accOp clu 2 dr (256 * dg) (wordsPB 65 l) int (.own job) unitOp
    (code, m)

/-- Run n granule operations in rising order, ending at the first that fails (R181). -/
def granuleLoop (f : Nat → Clus → Nat × Clus) : Nat → Nat → Clus → Nat × Clus
  | 0, _, m => (0, m)
  | n + 1, i, m =>
    let (code, m) := f i m
    if code ≠ 0 then (code, m) else granuleLoop f n (i + 1) m

/-! ## Commands of the store pages -/

/-- SCRUB_READ: the pass reads its next word (R185). -/
def Clus.scrubRead (m : Clus) (clu st : Nat) : Clus :=
  if bitAt (m.core.rd (pageSt clu st) 0x58) 31 then
    let a := kget m.st.scrub 0 (3 * clu + st)
    let m := m.stTouch clu st a 32 unitScrub 0xFF
    { m with st := { m.st with scrub := kput m.st.scrub 0 (3 * clu + st) ((a + 32) % storeSize st) } }
  else m

/-- SCRUB_CTRL_WRITE: EN 0 ends the pass, and the next one starts at address 0 (R185). -/
def Clus.scrubCtrl (m : Clus) (clu st : Nat) (v : W32) : Clus :=
  let p := pageSt clu st
  let m := m.onCore (fun c => (c.wr p 0x58 (v &&& 0x8000FFFF)).setFld p 0x40 30 1 (bitsAt v 31 1))
  if bitAt v 31 then m else { m with st := { m.st with scrub := kput m.st.scrub 0 (3 * clu + st) 0 } }

/-- XST_CNT_CLR: zero the counters at 0x048–0x054 (R190). -/
def Clus.xstCntClr (m : Clus) (clu st : Nat) : Clus := m.onCore (·.zero (pageSt clu st) 0x48 4)
/-- XST_CAP_CLR: empty xST_FIRST_ERR. -/
def Clus.xstCapClr (m : Clus) (clu st : Nat) : Clus := m.onCore (·.zero (pageSt clu st) 0x60 8)
/-- BANK_CLR: zero every xST_BANK_CE and re-arm ST_ECC_CE and ST_BANK_WEAR (R185). -/
def Clus.bankClr (m : Clus) (clu st : Nat) : Clus :=
  let m := m.onCore (·.zero (pageSt clu st) 0x80 32)
  { m with st := { m.st with wear := kclear m.st.wear (32 * (3 * clu + st)) 32 } }
/-- ST_CE_FLIP and ST_UE_FLIP: arm the error of the next word written to a bank (R191). -/
def Clus.stFlip (m : Clus) (clu st bank bit : Nat) : Clus :=
  if bank < storeBanks st then
    m.onCore (fun c => (c.setFld (pageSt clu st) 0x28 8 5 bank).setFld (pageSt clu st) 0x28 bit 1 1)
  else m

end Sys2Proof.Machine
end

