-- ==== Sys2Proof/Machine/Circuits.lean ====
section
/-!
DEFINITION. Circuits of a timetable unit (R25): their registers and the commands START, STOP, SUSPEND, RESUME and
ABORT.
-/
namespace Sys2Proof.Machine

/-- Offset of a circuit's registers. -/
def circOff (n : Nat) : Nat := 0x100 + 16 * n
/-- STATE of a circuit: 0 STOPPED, 1 RUNNING, 2 SUSPENDED, 3 STOPPING, 4 FAULTED. -/
def Core.circState (c : Core) (rg n : Nat) : Nat := c.fld (pageTT rg) (circOff n + 4) 29 3
/-- Set STATE. -/
def Core.setCircState (c : Core) (rg n x : Nat) : Core := c.setFld (pageTT rg) (circOff n + 4) 29 3 x
/-- Set ENTRY_STATE: 0 READY, 1 HELD, 2 DEPARTED, 3 REPLAY, 4 FAULTED. -/
def Core.setEntryState (c : Core) (rg n x : Nat) : Core := c.setFld (pageTT rg) (circOff n + 4) 26 3 x
/-- JOB of a circuit. -/
def Core.circJob (c : Core) (rg n : Nat) : Nat := c.fld (pageTT rg) (circOff n) 25 4
/-- PRIO of a circuit. -/
def Core.circPrio (c : Core) (rg n : Nat) : Nat := c.fld (pageTT rg) (circOff n) 22 3
/-- FIRST of a circuit. -/
def Core.circFirst (c : Core) (rg n : Nat) : Nat := c.fld (pageTT rg) (circOff n) 0 12
/-- CURRENT of a circuit. -/
def Core.circCur (c : Core) (rg n : Nat) : Nat := c.fld (pageTT rg) (circOff n + 4) 0 12
/-- Set CURRENT. -/
def Core.setCircCur (c : Core) (rg n e : Nat) : Core := c.setFld (pageTT rg) (circOff n + 4) 0 12 e

/-- Whether a circuit has a slot departed or due for replay. -/
def Clus.inFlight (m : Clus) (rg n : Nat) : Bool :=
  (List.range 4).any (fun i => match m.run rg i with
    | some r => r.circ == n
    | none => false)

/-- A pending flag of a circuit. -/
def circKey (rg n : Nat) : Nat := 64 * rg + n

/-- TT_CMD_REJ: a command that the present state does not take (R25). -/
def Clus.circReject (m : Clus) (rg n : Nat) : Clus :=
  m.onCore (fun c => c.record (pageTT rg) 0x010A sevInfo (c.circJob rg n) (placeTT rg)
    (detail41 0x010A n 0xFF (c.circCur rg n) 0 0 0 0))

/-- START (R25). -/
def Clus.circStart (m : Clus) (rg n : Nat) : Clus :=
  if m.core.circState rg n = 0 then
    { m with tt := { m.tt with startPend := kput m.tt.startPend false (circKey rg n) true } }
  else m.circReject rg n

/-- STOP (R25). -/
def Clus.circStop (m : Clus) (rg n : Nat) : Clus :=
  match m.core.circState rg n with
  | 1 => if m.inFlight rg n then m.onCore (·.setCircState rg n 3) else m.onCore (·.setCircState rg n 0)
  | 2 => m.onCore (·.setCircState rg n 0)
  | _ => m.circReject rg n

/-- SUSPEND (R25): SUSPENDED once no slot is departed or due for replay. -/
def Clus.circSuspend (m : Clus) (rg n : Nat) : Clus :=
  if m.core.circState rg n = 1 then
    if m.inFlight rg n then
      { m with tt := { m.tt with suspPend := kput m.tt.suspPend false (circKey rg n) true } }
    else m.onCore (·.setCircState rg n 2)
  else m.circReject rg n

/-- RESUME (R25). -/
def Clus.circResume (m : Clus) (rg n : Nat) : Clus :=
  if m.core.circState rg n = 2 then m.onCore (·.setCircState rg n 1) else m.circReject rg n

/-- ABORT (R25): slots in flight fail without release and without replay; STOPPED at the next Guard. -/
def Clus.circAbort (m : Clus) (rg n : Nat) : Clus :=
  match m.core.circState rg n with
  | 0 => m.circReject rg n
  | 1 | 3 =>
    let m := { m with tt := { m.tt with abortPend := kput m.tt.abortPend false (circKey rg n) true } }
    iter 4 (fun i x => match x.run rg i with
      | some r => if r.circ = n then x.setRun rg i (some { r with aborted := true }) else x
      | none => x) m
  | _ => m.onCore (·.setCircState rg n 0)

/-- ABORT to every circuit of a job that is not STOPPED, in every region (R25, R302, R414). -/
def Clus.abortJob (m : Clus) (job : Nat) : Clus :=
  iter 192 (fun rg x => iter 64 (fun n y =>
    if y.core.circState rg n ≠ 0 ∧ y.core.circJob rg n = job then y.circAbort rg n else y) x) m

/-- CIRC_START (R25). -/
def execCircStart (rg : Rgn) (n : Fin 64) (s : State) : Out := .next (s.onClus (·.circStart rg.val n.val))
/-- CIRC_STOP (R25). -/
def execCircStop (rg : Rgn) (n : Fin 64) (s : State) : Out := .next (s.onClus (·.circStop rg.val n.val))
/-- CIRC_SUSPEND (R25). -/
def execCircSuspend (rg : Rgn) (n : Fin 64) (s : State) : Out := .next (s.onClus (·.circSuspend rg.val n.val))
/-- CIRC_RESUME (R25). -/
def execCircResume (rg : Rgn) (n : Fin 64) (s : State) : Out := .next (s.onClus (·.circResume rg.val n.val))
/-- CIRC_ABORT (R25). -/
def execCircAbort (rg : Rgn) (n : Fin 64) (s : State) : Out := .next (s.onClus (·.circAbort rg.val n.val))

end Sys2Proof.Machine
end

