-- ==== Sys2Proof/Machine/Approx.lean ====
section
/-!
DEFINITION. The approximations of the V-core (R110): each result is a free choice among the FP32 values within the bound
that R110 gives around the exact result. The exact result is enclosed by fixed-point arithmetic of 160 fraction bits;
the enclosure's width widens the bound by less than 2⁻⁶⁰ ulp (log entry 7).
-/
namespace Sys2Proof.Machine

/-- Fraction bits of the fixed-point arithmetic. -/
def fixP : Nat := 160
/-- 1 in fixed point. -/
def fixOne : Nat := 2 ^ fixP
/-- ln 2 in fixed point, rounded down. -/
def fixLn2 : Nat := 0xb17217f7d1cf79abc9e3b39803f2f6af40f34326
/-- log2 e in fixed point, rounded down. -/
def fixLog2e : Nat := 0x171547652b82fe1777d0ffda0d23a7d11d6aef551
/-- Units of the last fixed-point place that bound every error of the series below. -/
def fixErr : Nat := 2 ^ 12

/-- Square root, rounded down, of a number below 2^402. -/
def isqrt (n : Nat) : Nat := iter 202 (fun i r => if (r + 2 ^ (201 - i)) * (r + 2 ^ (201 - i)) ≤ n then r + 2 ^ (201 - i) else r) 0

/-- Magnitude of an FP32 code without its sign, as an exact value; the code of infinity stands for 2^128. -/
def magValue (j : Nat) : FV := if j < 2 ^ 23 then .fin false j (-149) else .fin false (2 ^ 23 + j % 2 ^ 23) ((j / 2 ^ 23 : Nat) - 150)

/-- FP32 code of a magnitude m × 2^e below 2^128, rounded down. -/
def magFloor (m : Nat) (e : Int) : Nat :=
  if m = 0 then 0
  else
    let q := max (flog m e) (-126) - 23
    let k := if q ≤ e then m * 2 ^ (e - q).toNat else m / 2 ^ (q - e).toNat
    if k < 2 ^ 23 then k else (q + 150).toNat * 2 ^ 23 + (k - 2 ^ 23)

/-- A choice among the FP32 values within n ulp of a magnitude that lies between lo × 2^e and hi × 2^e (R110); one that
reaches 2^128 is infinite. -/
def ulpPick (n lo hi : Nat) (e : Int) (neg : Bool) (pick : Nat) : W32 :=
  let sgn := if neg then 2 ^ 31 else 0
  if 128 ≤ flog hi e then BitVec.ofNat 32 (sgn + 0x7F800000)
  else
    let base := magFloor lo e
    -- n units of the last place at the exact result
    let tol : FV := .fin false n (max (flog (max lo 1) e) (-126) - 23)
    let low := (FV.fin false lo e).add tol.neg
    let high := (FV.fin false hi e).add tol
    let ok (j : Nat) : Bool := !(magValue j).lt low && !high.lt (magValue j)
    let js := ((List.range (3 * n + 5)).map (fun i => base + i - (2 * n + 2))).filter (fun j => ok j && decide (j ≤ 0x7F800000))
    BitVec.ofNat 32 (sgn + (match js.eraseDups with
      | [] => base
      | l => l.getD (pick % l.length) base))

/-- e^t in fixed point for t below 1. -/
def fixExp (t : Nat) : Nat :=
  (iter 64 (fun i (s : Nat × Nat) =>
    let x := s.2 * t / fixOne / (i + 1)
    (s.1 + x, x)) (fixOne, fixOne)).1

/-- 2^y for y in fixed point: a number of fraction bits fixP and its exponent. -/
def fixExp2 (y : Int) : Nat × Int :=
  let n := y / (fixOne : Int)
  let f := (y % (fixOne : Int)).toNat
  (fixExp (f * fixLn2 / fixOne), n - fixP)

/-- log2 of m × 2^e in fixed point, for m of at most 24 bits. -/
def fixLog2 (m : Nat) (e : Int) : Int :=
  let g := m * 2 ^ (fixP - Nat.log2 m)
  let z := (g - fixOne) * fixOne / (g + fixOne)
  let z2 := z * z / fixOne
  let ln := 2 * (iter 64 (fun i (s : Nat × Nat) => (s.1 + s.2 / (2 * i + 1), s.2 * z2 / fixOne)) (0, z)).1
  flog m e * (fixOne : Int) + (ln * fixOne / fixLn2 : Nat)

/-- A signed fixed-point result with its error bound, as a choice within n ulp. -/
def fixPick (n : Nat) (y : Int) (pick : Nat) : W32 :=
  ulpPick n (y.natAbs - fixErr) (y.natAbs + fixErr) (-(fixP : Int)) (decide (y < 0)) pick

/-- 2^x (FN 0x18) or e^x (0x1C) of a finite value. -/
def approxExp (fn : Nat) (s : Bool) (m : Nat) (e : Int) (pick : Nat) : W32 :=
  let n := if fn = 0x18 then 2 else 3
  if m = 0 then ulpPick n 1 1 0 false pick
  else if 8 ≤ flog m e then (if s then ulpPick n 0 1 (-200) false pick else 0x7F800000)
  else
    let x := finInt s m (e + fixP) 0
    let y := if fn = 0x18 then x else x * fixLog2e / fixOne
    let (v, q) := fixExp2 y
    if (v, q) = (fixOne, q) ∧ fn = 0x18 then ulpPick n 1 1 (q + fixP) false pick
    else ulpPick n (v - fixErr) (v + fixErr) q false pick

/-- A choice within n ulp of an exact result of 0: the FP32 values of at most n units of 2⁻¹⁴⁹ on either side (R110). -/
def zeroPick (n pick : Nat) : W32 :=
  let j := pick % (2 * n + 1)
  BitVec.ofNat 32 (if j ≤ n then j else 2 ^ 31 + (j - n))

/-- log2 x (FN 0x19) or ln x (0x1D) of a positive finite value. -/
def approxLog (fn m : Nat) (e : Int) (pick : Nat) : W32 :=
  let n := if fn = 0x19 then 2 else 3
  let y := fixLog2 m e
  if y = 0 then zeroPick n pick
  else if fn = 0x19 ∧ m = 2 ^ Nat.log2 m then ulpPick n y.natAbs y.natAbs (-(fixP : Int)) (decide (y < 0)) pick
  else if fn = 0x19 then fixPick n y pick
  else fixPick n (y * fixLn2 / fixOne) pick

/-- 1/x of a finite value other than zero. -/
def approxRcp (s : Bool) (m : Nat) (e : Int) (pick : Nat) : W32 :=
  let v := 2 ^ 200 / m
  ulpPick 1 v (if v * m = 2 ^ 200 then v else v + 1) (-e - 200) s pick

/-- 1/√x of a positive finite value. -/
def approxRsqrt (m : Nat) (e : Int) (pick : Nat) : W32 :=
  let odd := decide (e % 2 = 1)
  let m := if odd then 2 * m else m
  let e := if odd then e - 1 else e
  let v := isqrt (2 ^ 400 / m)
  ulpPick 1 v (if v * v * m = 2 ^ 400 then v else v + 1) (-(e / 2) - 200) false pick

/-- The approximations of R110 on a finite value that is no special case. -/
def approxOf (fn : Nat) (x : W32) : W32 :=
  let pick := (Config.approx fn x).toNat
  match of32 x with
  | .fin s m e =>
    if fn = 0x18 ∨ fn = 0x1C then approxExp fn s m e pick
    else if fn = 0x1A then approxRcp s m e pick
    else if fn = 0x1B then approxRsqrt m e pick
    else approxLog fn m e pick
  | _ => 0

end Sys2Proof.Machine
end

