-- ==== Sys2Proof/Machine/MCore.lean ====
section
/-!
DEFINITION. The M-core (R78–R104) with its arithmetic and safeguards (R51–R76): tile instructions at the head of the
tile queue, weight buffers, output rows, the checksum, and the drain.
-/
namespace Sys2Proof.Machine

/-- Key of an M-core. -/
def mKey (clu mm : Nat) : Nat := 2 * clu + mm

/-- Tile queue of an M-core. -/
def Clus.mQueue (m : Clus) (clu mm : Nat) : List W128 := kget m.mc.queue [] (mKey clu mm)
/-- Set a tile queue. -/
def Clus.setMQueue (m : Clus) (clu mm : Nat) (q : List W128) : Clus :=
  { m with mc := { m.mc with queue := kput m.mc.queue [] (mKey clu mm) q } }
/-- Set a tile queue whose head is another instruction than before: no MSYNC waits there yet (R88). -/
def Clus.newMHead (m : Clus) (clu mm : Nat) (q : List W128) : Clus :=
  let m := m.setMQueue clu mm q
  { m with mc := { m.mc with waiting := kput m.mc.waiting false (mKey clu mm) false } }
/-- Remove the head of a tile queue. -/
def Clus.popM (m : Clus) (clu mm : Nat) : Clus := m.newMHead clu mm (m.mQueue clu mm).tail

/-- An empty weight buffer. -/
def emptyBuf : MBuf := ⟨false, 0, 0, [], 0⟩
/-- Weight buffer b. -/
def Clus.mBuf (m : Clus) (clu mm b : Nat) : MBuf := kget m.mc.bufs emptyBuf (2 * mKey clu mm + b)
/-- Set weight buffer b. -/
def Clus.setMBuf (m : Clus) (clu mm b : Nat) (x : MBuf) : Clus :=
  { m with mc := { m.mc with bufs := kput m.mc.bufs emptyBuf (2 * mKey clu mm + b) x } }
/-- Load in progress. -/
def Clus.mLoad (m : Clus) (clu mm : Nat) : Option (W128 × List Byte × Bool) := kget m.mc.load none (mKey clu mm)
/-- Set the load in progress. -/
def Clus.setMLoad (m : Clus) (clu mm : Nat) (x : Option (W128 × List Byte × Bool)) : Clus :=
  { m with mc := { m.mc with load := kput m.mc.load none (mKey clu mm) x } }
/-- Output rows in flight. -/
def Clus.mRows (m : Clus) (clu mm : Nat) : List MRow := kget m.mc.rows [] (mKey clu mm)
/-- Set the output rows in flight. -/
def Clus.setMRows (m : Clus) (clu mm : Nat) (x : List MRow) : Clus :=
  { m with mc := { m.mc with rows := kput m.mc.rows [] (mKey clu mm) x } }
/-- Row checks due. -/
def Clus.mChecks (m : Clus) (clu mm : Nat) : List MChk := kget m.mc.checks [] (mKey clu mm)
/-- Set the row checks due. -/
def Clus.setMChecks (m : Clus) (clu mm : Nat) (x : List MChk) : Clus :=
  { m with mc := { m.mc with checks := kput m.mc.checks [] (mKey clu mm) x } }
/-- What MCHK reports before any row. -/
def emptyRec : MRec := ⟨0, 0, 0, 0, 0, 0xFFFF⟩
/-- Check record of the tick. -/
def Clus.mRec (m : Clus) (clu mm : Nat) : MRec := kget m.mc.recs emptyRec (mKey clu mm)
/-- Set the check record of the tick. -/
def Clus.setMRec (m : Clus) (clu mm : Nat) (x : MRec) : Clus :=
  { m with mc := { m.mc with recs := kput m.mc.recs emptyRec (mKey clu mm) x } }

/-- Shadow counts: SAT, GUARD_OVF, WIDENED, NAN, T2_RSVD, then the sixteen bins (R73–R75). -/
def zeroShadow : List Nat := List.replicate 21 0
/-- Add a list of counts to the shadow (R74). -/
def Clus.addShadow (m : Clus) (clu mm : Nat) (l : List Nat) : Clus :=
  let k := mKey clu mm
  let new := (kget m.mc.shadow zeroShadow k).zipWith (· + ·) l
  { m with mc := { m.mc with shadow := kput m.mc.shadow zeroShadow k new } }
/-- A shadow list with n at counter i. -/
def shadowOne (i n : Nat) : List Nat := zeroShadow.set i n

/-- Sync counter of a cluster (R88). -/
def Clus.sync (m : Clus) (clu i : Nat) : Nat := kget m.sc.sync 0 (16 * clu + i)
/-- Add 1 to a sync counter of 16 bits. -/
def Clus.signal (m : Clus) (clu i : Nat) : Clus :=
  { m with sc := { m.sc with sync := kput m.sc.sync 0 (16 * clu + i) ((m.sync clu i + 1) % 65536) } }

/-- Field of a tile word. -/
def tf (w : W128) (lo len : Nat) : Nat := bitsAt w lo len
/-- ITAG. -/
def itagOf (w : W128) : Nat := tf w 0 16
/-- OPC. -/
def opcOf (w : W128) : Nat := tf w 124 4

/-- MC_BAD_INSTR: the instruction and the rest of the queue are discarded (R100). -/
def Clus.mBad (m : Clus) (clu mm : Nat) (w : W128) : Clus :=
  (m.newMHead clu mm []).fatalEvent clu (pageMc clu mm) 0x0202 (placeUnit clu mm 0) (itagOf w + 0xFFFF * 65536)

/-- Run `f` on the head of the tile queue if it has opcode `opc`; a reserved opcode is rejected (R83, R100). -/
def Clus.mHead (m : Clus) (clu mm opc : Nat) (f : W128 → Clus) : Clus :=
  match m.mQueue clu mm with
  | [] => m
  | w :: _ =>
    if opcOf w = 0 ∨ 7 ≤ opcOf w then m.mBad clu mm w
    else if opcOf w = opc then f w
    else m

/-- Record MC_POISON_IN, class DATA, unless the store has recorded ST_UNDERRUN (R102). -/
def Clus.mPoison (m : Clus) (clu mm : Nat) (w : W128) (row : Nat) : Clus :=
  if (m.causes clu).any (fun f => f.code == 0x0501) then m
  else m.causeEvent clu (pageMc clu mm) (dataCause 0x0204) (itagOf w + row % 65536 * 65536)

/-! ## Weight tile images (R51–R59) -/

/-- Bytes of the fixed part of a tile image (R58). -/
def imgByte (l : List Byte) (i : Nat) : Nat := (l.getD i 0).toNat
/-- EXT_COUNT of a header. -/
def hdrExt (l : List Byte) : Nat := leNat (l.take 8) / 256 % 2048
/-- ROWSCALE of a header. -/
def hdrRow (l : List Byte) : Bool := decide (leNat (l.take 8) / 64 % 2 = 1)
/-- GUARD_POLICY of a header. -/
def hdrPolicy (l : List Byte) : Nat := leNat (l.take 8) / 16 % 4

/-- Whether a header breaks R59 for the format of the MLOAD. A field that R59 says is zero for the format (ROWSCALE of a GFP4
header, EXT_COUNT and GUARD_POLICY of a T2 header) counts as reserved there (DESIGN CHOICE, log entry 294). -/
def hdrBad (fmt : Nat) (l : List Byte) : Bool :=
  let w := leNat (l.take 8)
  decide (w % 16 ≠ fmt ∨ w / 128 % 2 ≠ 0 ∨ w / 2 ^ 19 ≠ 0 ∨ leNat ((l.take 64).drop 8) ≠ 0) ||
  (if fmt = 14 then decide (hdrRow l = true ∨ hdrPolicy l = 3 ∨ 1024 < hdrExt l)
   else decide (hdrExt l ≠ 0 ∨ hdrPolicy l ≠ 0))

/-- Extension record i of a GFP4 image (R53). -/
def extRec (l : List Byte) (i : Nat) : Nat := leNat ((l.drop (38976 + 4 * i)).take 4)

/-- Base guard record of block n × 8 + b (R51). -/
def baseRec (l : List Byte) (blk : Nat) : Nat := leNat ((l.drop (64 + 32768 + 2048 + 2 * blk)).take 2)

/-- Whether records of a GFP4 image are malformed, skipping poisoned ones (R59). -/
def gfpBad (l : List PB) (ext : Nat) : Bool :=
  let bs := l.map (·.1)
  let pois (a n : Nat) : Bool := ((l.drop a).take n).any (·.2)
  let basesBad := (List.range 2048).any (fun i =>
    !pois (64 + 32768 + 2048 + 2 * i) 2 && decide (baseRec bs i % 8 ≠ 0))
  let good := (List.range ext).filter (fun i => !pois (38976 + 4 * i) 4)
  let extBad := good.any (fun i => decide (extRec bs i % 256 ≠ 0))
  let blks := good.map (fun i => extRec bs i / 2 ^ 21)
  let orderBad := (blks.zip blks.tail).any (fun p => decide (p.2 < p.1))
  basesBad || extBad || orderBad

/-- Extension records of a block, as (index, value), in image order (R53). -/
def extOfBlock (l : List Byte) (ext blk : Nat) : List (Nat × Nat) :=
  (List.range ext).filterMap (fun i =>
    let r := extRec l i
    if r / 2 ^ 21 = blk then some (r / 2 ^ 16 % 32, r / 256 % 256) else none)

/-- A block of 32 weights: its values before the block scale, the scale byte, and counted saturations of WIDEN. -/
structure WBlock where
  vals : List FV
  scale : Option Int
  /-- Zero codes of T2 that never meet their operand (R63). -/
  zeros : List Bool
  sats : Nat
  deriving DecidableEq, Repr

/-- Scale exponent of a block scale byte; some 0 for a format without scales. -/
def blockScale (fmt byte : Nat) : Option Int := if isBlockFmt fmt then e8m0 byte else some 0

/-- Block b of column n of a tile image (R50–R58). -/
def wBlock (fmt : Nat) (l : List Byte) (n b : Nat) : WBlock :=
  let hdr := if fmt = 14 ∨ fmt = 15 then 64 else 0
  let bits := elemBits fmt
  let plane := 65536 * bits / 8
  let body := (l.drop (hdr + (n * 256 + 32 * b) * bits / 8)).take (4 * bits)
  let codes := (List.range 32).map (packedElem fmt body)
  let blk := n * 8 + b
  let sc := blockScale fmt (imgByte l (hdr + plane + blk))
  let base := codes.map (elemValue fmt)
  if fmt = 14 then
    let r := baseRec l blk
    let exts := extOfBlock l (hdrExt l) blk
    let many := decide (2 ≤ exts.length)
    let widen := many && decide (hdrPolicy l = 1)
    let applied := (r / 2 ^ 11, r / 8 % 256) :: (if many && decide (hdrPolicy l = 0) then exts.take 1 else exts)
    let vals := base.zipIdx.map (fun (p : FV × Nat) =>
      applied.foldl (fun acc g =>
        if g.1 = p.2 ∧ g.2 % 128 ≠ 0 then acc.add (fE4m3.decode g.2) else acc) p.1)
    if widen then
      let cs := vals.map (fun v => fE4m3.ofFV 11 none v)
      ⟨cs.map (fun c => fE4m3.decode c.bits), sc, [], (cs.filter (fun c => c.sat)).length⟩
    else ⟨vals, sc, [], 0⟩
  else if fmt = 15 then ⟨base, sc, codes.map (fun c => decide (c % 4 = 0 ∨ c % 4 = 3)), 0⟩
  else ⟨base, sc, [], 0⟩

/-- Counts an MLOAD of this image adds: blocks over two records, widened blocks with their saturations, reserved T2
codes (R54, R56, R73). A poisoned extension record, which is not checked, still counts as a record of its block (DESIGN CHOICE,
log entry 295). -/
def imageCounts (fmt : Nat) (l : List Byte) : List Nat :=
  if fmt = 14 then
    let ext := hdrExt l
    let blks := ((List.range ext).map (fun i => extRec l i / 2 ^ 21)).eraseDups
    let crowded := blks.filter (fun b => decide (2 ≤ (extOfBlock l ext b).length))
    if hdrPolicy l = 1 then
      ((zeroShadow.set 2 crowded.length).set 0
        ((crowded.map (fun b => (wBlock fmt l (b / 8) (b % 8)).sats)).foldl (· + ·) 0))
    else zeroShadow.set 1 crowded.length
  else if fmt = 15 then
    shadowOne 4 (((List.range 65536).filter (fun i => decide (packedElem 15 (l.drop 64) i = 3))).length)
  else zeroShadow

/-- Image bytes with ROWSCALE and extension records, where the header is trusted (R58, R59). -/
def imageBytes (fmt : Nat) (ext : Nat) (row : Bool) : Nat :=
  tileBytes fmt + (if fmt = 14 then 4 * ext else 0) + (if fmt = 15 ∧ row then 512 else 0)

/-! ## MLOAD -/

/-- MLOAD at the head of the queue: checks, then the transfer of the image (R84, R59, R54, R94). -/
def Clus.mload (m : Clus) (clu mm : Nat) : Clus :=
  m.mHead clu mm 1 (fun w =>
    let fmt := tf w 116 4
    let r := tf w 112 4
    let off := tf w 96 16
    let job := m.jobOn clu
    let granules (n : Nat) : Nat := (n + 255) / 256
    -- the load engine or the shared W-store port is busy
    if (m.mLoad clu 0).isSome ∨ (m.mLoad clu 1).isSome then m
    else if tf w 120 1 ≠ 0 ∨ tf w 16 80 ≠ 0 ∨ fmt = 0 ∨ fmt = 6 ∨ (fmt ≠ 15 ∧ tf w 121 2 ≠ 0) then m.mBad clu mm w
    else if m.core.fits clu 0 r off (granules (tileBytes fmt)) = false then m.mBad clu mm w
    else
      let hasHdr : Bool := decide (fmt = 14 ∨ fmt = 15)
      let (h, _, m1) := if hasHdr then m.readOp clu 0 r (256 * off) 64 (.own job) mm else ([], 0, m)
      let hp := h.any (·.2)
      let hb := h.map (·.1)
      let h2 := tf w 122 1
      let ext := if fmt = 14 ∧ hp = false then hdrExt hb else 0
      let row := decide (fmt = 15) && !hp && hdrRow hb
      let fatal (x : Clus) (code : Nat) : Clus :=
        (x.popM clu mm).fatalEvent clu (pageMc clu mm) code (placeUnit clu mm 0)
          (((x.core.region clu 0 r).addr (x.core.region clu 0 r).readOrigin (256 * off)) % 2 ^ 32)
      if hasHdr && !hp && hdrBad fmt hb then fatal m1 0x0222
      else if m1.core.fits clu 0 r off (granules (imageBytes fmt ext row)) = false then m1.mBad clu mm w
      else
        -- the row-scale plane of a quarter with h = 1 is not read (R80)
        let (l, _, m2) := m1.readOp clu 0 r (256 * off) (imageBytes fmt ext (row && decide (h2 = 0))) (.own job) mm
        let bs := l.map (·.1)
        let pois := l.any (·.2)
        -- a poisoned header loads the planes as for EXT_COUNT 0 and ROWSCALE 0; it is kept as zeros, whose FMT names no header
        let bs := if hasHdr ∧ hp = true then List.replicate 64 0 ++ bs.drop 64 else bs
        if decide (fmt = 14) && gfpBad l ext then fatal m2 0x0222
        else if decide (fmt = 14) && decide (hdrPolicy bs = 2) &&
            (List.range 2048).any (fun b => decide (2 ≤ (extOfBlock bs ext b).length)) then fatal m2 0x0221
        else
          let bi := if tf w 123 1 = 1 then 1 else 0
          let v := tf w 121 1
          let old := m2.mBuf clu mm bi
          let other := kget old.imgs [] (2 * (1 - h2) + v)
          let clash := decide (fmt = 15 ∧ old.fmt = 15) && bitAt (BitVec.ofNat 4 old.quads) (2 * (1 - h2) + v) &&
            !hp && decide (imgByte other 0 % 16 = 15 ∧ hdrRow other ≠ hdrRow bs)
          if clash then fatal m2 0x0222
          else
            let m3 := if pois then m2.mPoison clu mm w 0xFFFF else m2
            let m4 := m3.addShadow clu mm (imageCounts fmt bs)
            -- the buffer is not usable while the load runs
            let m5 := m4.setMBuf clu mm bi
              (if fmt = 15 ∧ old.fmt = 15 then { old with quads := old.quads &&& (15 - 2 ^ (2 * h2 + v)) }
               else { emptyBuf with fmt := fmt })
            (m5.setMLoad clu mm (some (w, bs, pois))).popM clu mm)

/-- MLOAD_COMPLETE: the buffer holds the image (R94, R96). -/
def Clus.mloadComplete (m : Clus) (clu mm : Nat) : Clus :=
  match m.mLoad clu mm with
  | none => m
  | some (w, bs, pois) =>
    let fmt := tf w 116 4
    let bi := tf w 123 1
    let q := if fmt = 15 then 2 * tf w 122 1 + tf w 121 1 else 0
    let old := m.mBuf clu mm bi
    let new : MBuf := if fmt = 15 ∧ old.fmt = 15 then
        { valid := true, fmt := 15, quads := old.quads ||| 2 ^ q, imgs := kput old.imgs [] q bs,
          poison := (old.poison &&& (15 - 2 ^ q)) ||| (if pois then 2 ^ q else 0) }
      else { valid := true, fmt := fmt, quads := if fmt = 15 then 2 ^ q else 0, imgs := kput [] [] q bs, poison := if pois then 2 ^ q else 0 }
    (m.setMBuf clu mm bi new).setMLoad clu mm none

/-! ## MMA and MMAS -/

/-- A decoded activation row: element values, block scale exponents, poison. -/
structure ARow where
  vals : List FV
  scales : List (Option Int)
  poison : Bool
  deriving DecidableEq, Repr

/-- Exact sum of products of a block; T2 zeros contribute +0 (R60, R62, R63). -/
def blockDot (wb : WBlock) (as : List FV) : FV :=
  ((wb.vals.zip as).zipIdx.foldl (fun (acc : Option FV) (p : (FV × FV) × Nat) =>
    let t := if wb.zeros.getD p.2 false then FV.zero else p.1.1.mul p.1.2
    match acc with
    | none => some t
    | some x => some (x.add t)) none).getD FV.zero

/-- Sum of a BF16 or FP16 block: exact products, summed by the fixed tree of FP32 additions, with its overflows (R60, R62). A
BF16 product outside FP32's range enters the tree rounded to FP32, which no rule counts (DESIGN CHOICE, log entry 296). -/
def blockTree (fmt : Nat) (wb : WBlock) (as : List FV) : W32 × Nat :=
  treeSumC fmt 32 0 ((wb.vals.zip as).map (fun p => to32 (p.1.mul p.2)))

/-- One output of an MMA: the blocks of its column in ascending k, with the overflows of its additions (R60, R62). A block of T2
zeros whose activation scale is NaN gives NaN: the scaling of R62 meets the sum +0 of R63 (DESIGN CHOICE, log entry 297). -/
def mmaOut (wfmt : Nat) (ws : List WBlock) (a : ARow) : W32 × Nat :=
  ws.zipIdx.foldl (fun (acc : W32 × Nat) (p : WBlock × Nat) =>
    let as := (a.vals.drop (32 * p.2)).take 32
    let term : W32 × Nat :=
      if wfmt = 1 ∨ wfmt = 2 then blockTree wfmt p.1 as
      else match p.1.scale, a.scales.getD p.2 (some 0) with
        | some x, some y => (to32 ((blockDot p.1 as).scale (x + y)), 0)
        | _, _ => (to32 .nan, 0)
    faddC acc term) (0, 0)

/-- INT8 × INT8: exact INT32 sum (R61). -/
def mmaInt (ws : List WBlock) (as : List FV) : Int :=
  let iv (v : FV) : Int := match v with
    | .fin s m _ => if s then -(m : Int) else (m : Int)
    | _ => 0
  ws.zipIdx.foldl (fun acc p =>
    ((p.1.vals.zip ((as.drop (32 * p.2)).take 32)).foldl (fun x q => x + iv q.1 * iv q.2) acc)) 0

/-- A segment descriptor (R90). -/
structure SegDesc where
  nseg : Nat
  fillInf : Bool
  causal : Bool
  rowBase : Nat
  colBase : Nat
  starts : List Nat
  deriving DecidableEq, Repr

/-- Decode and check a segment descriptor of 128 bytes: none where it breaks R90. -/
def segDesc (l : List Byte) : Option SegDesc :=
  let w (i : Nat) : Nat := leNat ((l.drop (4 * i)).take 4)
  let ns := w 0 % 32
  let starts := (List.range 16).map (fun j => w (4 + j))
  let used := starts.take ns
  let ok := decide (w 0 / 128 = 0 ∧ 1 ≤ ns ∧ ns ≤ 16 ∧ w 1 < 2 ^ 24 ∧ w 2 < 2 ^ 24 ∧ w 3 = 0) &&
    starts.all (fun x => decide (x < 2 ^ 24)) && (starts.drop ns).all (· == 0) &&
    (used.zip used.tail).all (fun p => decide (p.1 < p.2)) &&
    (l.drop 80).all (· == 0)
  if ok then some ⟨ns, decide (w 0 / 32 % 2 = 1), decide (w 0 / 64 % 2 = 1), w 1, w 2, used⟩ else none

/-- Segment of a position; none below START[0] (R91). -/
def SegDesc.seg (d : SegDesc) (p : Nat) : Option Nat :=
  let n := (d.starts.filter (fun s => decide (s ≤ p))).length
  if n = 0 then none else some (n - 1)

/-- Whether output (i, n) is kept (R91). -/
def SegDesc.keep (d : SegDesc) (i n : Nat) : Bool :=
  match d.seg (d.rowBase + i), d.seg (d.colBase + n) with
  | some a, some b => decide (a = b) && (!d.causal || decide (d.colBase + n ≤ d.rowBase + i))
  | _, _ => false

/-- Histogram bin of an output (R75). -/
def histBin (hb : Int) (int : Bool) (v : W32) : Nat :=
  let go (m : Nat) (e : Int) : Nat :=
    let x := flog m e
    if x < hb then 1 else if hb + 48 ≤ x then 14 else 2 + ((x - hb) / 4).toNat
  if int then (if v = 0 then 0 else go v.toInt.natAbs 0)
  else match of32 v with
    | .fin _ m e => if m = 0 ∨ bitsAt v 23 8 = 0 then 0 else go m e
    | _ => 15

/-- Column blocks of a buffer: for output column n, its blocks in ascending k; T2 joins two quarters (R80). -/
def bufColumn (b : MBuf) (n : Nat) : List WBlock :=
  let img (q : Nat) : List Byte := kget b.imgs [] q
  if b.fmt = 15 then
    ((List.range 8).map (fun j => wBlock 15 (img (n / 256)) (n % 256) j)) ++
    ((List.range 8).map (fun j => wBlock 15 (img (2 + n / 256)) (n % 256) j))
  else (List.range 8).map (fun j => wBlock b.fmt (img 0) n j)

/-- Row scale S_n of a T2 column, from the quarter with h = 0 (R57, R80). -/
def bufRowScale (b : MBuf) (n : Nat) : Option FV :=
  let l := kget b.imgs [] (n / 256)
  if b.fmt = 15 ∧ hdrRow l = true then
    some (fFp16.decode (leNat ((l.drop (18496 + 2 * (n % 256))).take 2)))
  else none

/-- Decoded weights w_kn × S_n of a column as the checker sees them (R97). -/
def checkWeights (ws : List WBlock) (s : Option FV) : List W32 :=
  (ws.map (fun b => b.vals.map (fun v =>
    let x := match b.scale with
      | some e => v.scale e
      | none => FV.nan
    to32 (match s with
      | some f => x.mul f
      | none => x)))).flatten

/-- One activation row of K elements from its element and scale bytes (R82). -/
def aRow (fmt k : Nat) (el sc : List PB) : ARow :=
  { vals := (List.range k).map (fun i => elemValue fmt (packedElem fmt (el.map (·.1)) i)),
    scales := (List.range (k / 32)).map (fun j => blockScale fmt ((sc.getD j (0, false)).1.toNat)),
    poison := el.any (·.2) || sc.any (·.2) }

/-- Value of an activation element with its block scale. -/
def ARow.at (a : ARow) (k : Nat) : FV :=
  match a.scales.getD (k / 32) (some 0) with
  | some e => (a.vals.getD k FV.zero).scale e
  | none => .nan

/-- Σ over the groups of 16 columns of the checker's FP32 values c_k^g or a_k^g, which it forms of each group first (R97). `cols`
holds the columns of the groups not gated. -/
def groupSum (cols : List Nat) (cw : List (List W32)) (f : W32 → W32) (k : Nat) : W32 :=
  let groups := (cols.map (fun n => n / 16)).eraseDups
  treeSum 105 600 0 (groups.map (fun g =>
    treeSum 102 600 0 ((List.range 16).map (fun j => f ((cw.getD (16 * g + j) []).getD k 0)))))

/-- Ratio of a row's difference to its tolerance: infinite where the difference overflows FP32 (R89). -/
def checkRatio (diff tau : W32) : W32 :=
  if diff &&& 0x7FFFFFFF = 0x7F800000 ∧ (of32 tau).isFin = true then 0x7F800000 else fdivPos diff tau

/-- A row check (R97, R98): Y, D, M and the verdict. `cols` holds the columns of the groups not gated. -/
def rowCheckOf (cls itag row : Nat) (tolRel : Int) (tolAbs : W32) (flipD : Bool) (a : ARow) (ys : List W32)
    (cols : List Nat) (cw : List (List W32)) (k : Nat) : MChk :=
  let y := treeSum 101 600 0 (cols.map (fun n => ys.getD n 0))
  let av := (List.range k).map (fun i => to32 (a.at i))
  let colSum (f : W32 → W32) (i : Nat) : W32 := groupSum cols cw f i
  let absW (x : W32) : W32 := x &&& 0x7FFFFFFF
  let d0 := treeSum 103 600 0 (av.zipIdx.map (fun p => fmul p.1 (colSum id p.2)))
  let d := if flipD then d0 ^^^ 0x1000 else d0
  let mm := treeSum 104 600 0 (av.zipIdx.map (fun p => fmul (absW p.1) (colSum absW p.2)))
  let tau := fadd (to32 ((of32 mm).scale tolRel)) tolAbs
  let diff := (of32 (to32 ((of32 y).add (of32 d).neg))).abs
  let bad := !(of32 y).isFin || !(of32 d).isFin || !(of32 mm).isFin || av.any (fun x => !(of32 x).isFin)
  { itag := itag, row := row, cls := cls, skip := bad, fail := !bad && (of32 tau).lt diff, y := y, d := d, tau := tau,
    ratio := if bad then 0 else checkRatio (to32 diff) tau }

/-- A row check of INT8 × INT8: exact 64-bit sums (R97). -/
def rowCheckInt (itag row : Nat) (flipD : Bool) (a : ARow) (ys : List Int) (cols : List Nat) (ws : List (List WBlock)) :
    MChk :=
  let y := (cols.map (fun n => ys.getD n 0)).foldl (· + ·) 0
  let d0 := (cols.map (fun n => mmaInt (ws.getD n []) a.vals)).foldl (· + ·) 0
  let d := if flipD then (BitVec.ofInt 64 d0 ^^^ 0x1000).toInt else d0
  { itag := itag, row := row, cls := 4, skip := false, fail := decide (y ≠ d), y := BitVec.ofInt 32 y,
    d := BitVec.ofInt 32 d, tau := 0, ratio := 0 }

/-- Tolerance registers in force of a class (R98). -/
def Clus.tol (m : Clus) (clu mm cls : Nat) : Int × W32 :=
  let l := kget m.mc.tol [] (mKey clu mm)
  let w (i : Nat) : W32 := if l = [] then resetWord m.core.grade (regKey (pageMc clu mm) (0x80 + 4 * i)) else l.getD i 0
  (toSigned 8 (bitsAt (w (2 * cls + 1)) 0 8), w (2 * cls))

/-- An instruction's rows: one read of the element row and of its scales, the outputs and the check (R79, R86, R97). A row that an
injection flips fails its check unless it is skipped (R104). -/
def Clus.mmaRow (m : Clus) (clu mm : Nat) (w : W128) (b : MBuf) (seg : Option SegDesc) (segPoison : Bool)
    (cols : List (List WBlock)) (i : Nat) : Clus :=
  let af := tf w 116 4
  let k := if b.fmt = 15 then 512 else 256
  let nOut := k
  let rb := rowBytes af k
  let job := m.jobOn clu
  let (el, _, m) := m.readOp clu 1 (tf w 100 4) (256 * tf w 84 16 + i * rb) rb (.own job) mm
  let (sc, _, m) := if isBlockFmt af then
      m.readOp clu 1 (tf w 80 4) (256 * tf w 64 16 + i * (k / 32)) (k / 32) (.own job) mm
    else ([], 0, m)
  let a := aRow af k el sc
  let pois := a.poison || decide (b.poison ≠ 0) || segPoison
  let m := if pois then m.mPoison clu mm w i else m
  let int : Bool := decide (b.fmt = 5 ∧ af = 5)
  let inj := m.core.rd (pageMc clu mm) 0x28
  let flipA := decide (i = 0) && bitAt inj 0
  let flipD := decide (i = 0) && bitAt inj 1
  let m := if i = 0 then m.onCore (·.setFld (pageMc clu mm) 0x28 0 2 0) else m
  let intOuts : List Int := if int then cols.map (fun c => mmaInt c a.vals) else []
  let outs0 : List (W32 × Nat) :=
    if int then intOuts.map (fun x => (BitVec.ofInt 32 x, 0))
    else cols.zipIdx.map (fun (p : List WBlock × Nat) =>
      let (v, o) := mmaOut b.fmt p.1 a
      match bufRowScale b p.2 with
      | some s => (to32 ((of32 v).mul s), o)
      | none => (v, o))
  let outs := if flipA then outs0.modifyHead (fun p => (p.1 ^^^ 0x1000, p.2)) else outs0
  let masked : List Bool := match seg with
    | some d => (List.range nOut).map (fun n => !d.keep i n)
    | none => []
  -- groups of 16 columns all of whose outputs of the 16-row block are masked are gated (R92, R97)
  let mrows := tf w 104 12 + 1
  let kept : List Nat := match seg with
    | some d => (List.range nOut).filter (fun n =>
        (List.range 16).any (fun r => decide (16 * (i / 16) + r < mrows) &&
          (List.range 16).any (fun c => d.keep (16 * (i / 16) + r) (16 * (n / 16) + c))))
    | none => List.range nOut
  let fillW : W32 := match seg with
    | some d => if d.fillInf then 0xFF800000 else 0
    | none => 0
  let vals := outs.zipIdx.map (fun (p : (W32 × Nat) × Nat) => if masked.getD p.2 false then fillW else p.1.1)
  let row : MRow := { reg := tf w 60 4, off := 256 * tf w 44 16 + i * 4 * nOut, init := decide (tf w 122 1 = 1),
                      int := int, vals := vals, poison := pois, masked := masked, chk := !pois }
  let cls := tolClass b.fmt af
  let (rel, ab) := m.tol clu mm cls
  let chk := if int then
      let ys := if flipA then intOuts.modifyHead (fun x => (BitVec.ofInt 32 x ^^^ 0x1000).toInt) else intOuts
      rowCheckInt (itagOf w) i flipD a ys kept cols
    else rowCheckOf cls (itagOf w) i rel ab flipD a (outs.map (·.1)) kept
      (cols.zipIdx.map (fun (p : List WBlock × Nat) => checkWeights p.1 (bufRowScale b p.2))) k
  let hb := toSigned 8 (m.core.fld (pageMc clu mm) 0x600 17 8)
  let live := outs.zipIdx.filter (fun (p : (W32 × Nat) × Nat) => !masked.getD p.2 false)
  let counts := live.foldl (fun (c : List Nat) (p : (W32 × Nat) × Nat) =>
      let c := c.modify (5 + histBin hb int p.1.1) (· + 1)
      let c := c.modify 0 (· + p.1.2)
      if !int && (of32 p.1.1).isNan then c.modify 3 (· + 1) else c) zeroShadow
  let m := if pois then m else m.addShadow clu mm counts
  let m := m.setMRows clu mm (m.mRows clu mm ++ [row])
  let inj := flipA || flipD
  if pois then m else m.setMChecks clu mm (m.mChecks clu mm ++ [{ chk with inj := inj, fail := chk.fail || (inj && !chk.skip) }])

/-- Reserved fields, formats, buffer and fit rule of an MMA or MMAS (R100). -/
def Clus.mmaBad (m : Clus) (clu mm : Nat) (w : W128) (isS : Bool) : Bool :=
  let b := m.mBuf clu mm (tf w 123 1)
  let af := tf w 116 4
  let rows := tf w 104 12 + 1
  let k := if b.fmt = 15 then 512 else 256
  let gr (n : Nat) : Nat := (n + 255) / 256
  decide (tf w 120 2 ≠ 0 ∨ tf w 16 8 ≠ 0) ||
  (!isS && decide (tf w 40 4 ≠ 0 ∨ tf w 24 16 ≠ 0)) ||
  (!isBlockFmt af && decide (tf w 80 4 ≠ 0 ∨ tf w 64 16 ≠ 0)) ||
  !b.valid || (decide (b.fmt = 15) && (decide (b.quads ≠ 15) || isS)) ||
  !pairOk b.fmt af ||
  !m.core.fits clu 1 (tf w 100 4) (tf w 84 16) (gr (rows * rowBytes af k)) ||
  (isBlockFmt af && !m.core.fits clu 1 (tf w 80 4) (tf w 64 16) (gr (rows * (k / 32)))) ||
  !m.core.fits clu 2 (tf w 60 4) (tf w 44 16) (gr (rows * 4 * k)) ||
  (isS && !m.core.fits clu 1 (tf w 40 4) (tf w 24 16) 1)

/-- MMA and MMAS at the head of the queue (R85, R86, R92, R93). -/
def Clus.mmaGo (m : Clus) (clu mm opc : Nat) : Clus :=
  m.mHead clu mm opc (fun w =>
    let isS := decide (opc = 3)
    let loading := match m.mLoad clu mm with
      | some (l, _, _) => decide (tf l 123 1 = tf w 123 1)
      | none => false
    if loading then m
    else if m.mmaBad clu mm w isS then m.mBad clu mm w
    else
      let b := m.mBuf clu mm (tf w 123 1)
      let job := m.jobOn clu
      let (sb, _, m) := if isS then m.readOp clu 1 (tf w 40 4) (256 * tf w 24 16) 128 (.own job) mm else ([], 0, m)
      let sp := sb.any (·.2)
      let seg := if isS then segDesc (sb.map (·.1)) else none
      if isS && !sp && seg.isNone then
        (m.newMHead clu mm []).fatalEvent clu (pageMc clu mm) 0x0203 (placeUnit clu mm 0)
          (itagOf w + 0xFFFF * 65536)
      else
        let nOut := if b.fmt = 15 then 512 else 256
        let cols := (List.range nOut).map (bufColumn b)
        let m := iter (tf w 104 12 + 1) (fun i x => x.mmaRow clu mm w b (if sp then none else seg) sp cols i) m
        m.popM clu mm)

/-- MMA. -/
def Clus.mma (m : Clus) (clu mm : Nat) : Clus := m.mmaGo clu mm 2
/-- MMAS. -/
def Clus.mmas (m : Clus) (clu mm : Nat) : Clus := m.mmaGo clu mm 3

/-! ## Output rows and checks -/

/-- The front output row of an M-core reaches the P-store (R86): a plain write or an ACCUMULATE. -/
def Clus.putRow (m : Clus) (clu mm : Nat) (row : MRow) : Clus :=
  let job := m.jobOn clu
  if row.init then
    (m.writeOp clu 2 row.reg row.off ((row.vals.map bytes4).flatten.map (fun b => (b, row.poison))) (.own job) mm).2
  else
    let (_, sats, m) := m.accOp clu 2 row.reg row.off (row.vals.map (fun v => (v, row.poison))) row.int (.own job) mm row.masked
    if sats = 0 then m else m.addShadow clu mm (shadowOne 0 sats)

/-- P-store granules an output row covers. -/
def Clus.rowGranules (m : Clus) (clu : Nat) (row : MRow) : List Nat :=
  let d := m.core.region clu 2 row.reg
  (List.range (row.vals.length / 64)).map (fun i => d.addr d.writeOrigin (row.off + 256 * i) / 256)

/-- OUTPUT_ROW_ARRIVE (R86, R168): one M-core's front row, or both M-cores' front rows in the same cycle. Rows for
exactly the same granules, both ACCUMULATE, merge; other rows that meet in a bank are a conflict, charged to M1's
access, and both are performed. -/
def Clus.outputRow (m : Clus) (clu : Nat) (src : RowSrc) : Clus :=
  match src with
  | .one i =>
    match m.mRows clu i.val with
    | [] => m
    | r :: rest => (m.putRow clu i.val r).setMRows clu i.val rest
  | .both =>
    match m.mRows clu 0, m.mRows clu 1 with
    | a :: ra, b :: rb =>
      let ga := m.rowGranules clu a
      let gb := m.rowGranules clu b
      let merge := decide (ga = gb) && !a.init && !b.init
      let clash := !merge && ga.any (fun x => gb.any (fun y => decide (x % 16 = y % 16)))
      let m := (m.putRow clu 0 a).setMRows clu 0 ra
      let m := (m.putRow clu 1 b).setMRows clu 1 rb
      if clash then
        let at_ := 256 * (gb.find? (fun y => ga.any (fun x => decide (x % 16 = y % 16)))).getD 0
        let m := m.onCore (·.incSat (pageSt clu 2) 0x50 1)
        let m := m.stCapture clu 2 0x0503 at_ b.reg 1
        m.causeEvent clu (pageSt clu 2) (progCause 0x0503) (stLast4 at_ b.reg 1)
      else m
    | _, _ => m

/-- FP32 maximum of two non-negative finite values. -/
def maxW (a b : W32) : W32 := if (of32 a).lt (of32 b) then b else a

/-- ROW_CHECK: the oldest check whose output has left (R97, R99). -/
def Clus.rowCheck (m : Clus) (clu mm : Nat) : Clus :=
  match m.mChecks clu mm with
  | [] => m
  | k :: rest =>
    if rest.length + 1 ≤ ((m.mRows clu mm).filter (fun r => r.chk)).length then m
    else
      let p := pageMc clu mm
      let m := m.setMChecks clu mm rest
      let r := m.mRec clu mm
      if k.skip then
        (m.onCore (·.incSat p 0xC8 1)).setMRec clu mm { r with skipped := r.skipped + 1 }
      else
        let m := m.onCore (fun c => c.wr8 p 0xC0 (c.rd8 p 0xC0 + 1))
        if k.fail then
          let m := m.setMRec clu mm { r with
            checked := r.checked + 1, failed := r.failed + 1, ratio := maxW r.ratio k.ratio,
            firstTag := if r.failed = 0 then k.itag else r.firstTag,
            firstRow := if r.failed = 0 then k.row else r.firstRow }
          let m := if bitAt (m.core.rd p 0x11C) 31 then m
            else m.onCore (·.wrs p 0x100 [m.core.tickLo, m.capWord clu k.itag, BitVec.ofNat 32 k.row, k.y, k.d, k.tau,
              BitVec.ofNat 32 k.cls, BitVec.ofNat 32 (2 ^ 31)])
          (m.onCore (·.incSat p 0xCC 1)).causeEvent clu p (checkCause 0x0201 k.inj) (k.itag + k.row % 65536 * 65536)
        else
          let m := m.setMRec clu mm { r with checked := r.checked + 1, ratio := maxW r.ratio k.ratio }
          m.onCore (fun c => c.wr p 0xD0 (maxW (c.rd p 0xD0) k.ratio))

/-! ## MDRAIN -/

/-- A drained row: element bytes and scale bytes with poison, saturations, NaNs lost, elements drawn from the
generator (R64–R69, R87). -/
def drainRow (ofmt : Nat) (srci sr : Bool) (seedU n0 : Nat) (src : List PB) : List PB × List PB × Nat × Nat :=
  let vals := (List.range 256).map (fun i => word4 (((src.drop (4 * i)).take 4).map (·.1)))
  let gp (i : Nat) : Bool := ((src.drop (256 * (i / 64))).take 256).any (·.2)
  let bits := elemBits ofmt
  let rnd (i : Nat) : Option Nat := if sr then some (srValue seedU (n0 + i)) else none
  if ofmt = 8 ∨ ofmt = 11 ∨ ofmt = 12 then
    let blocks := (List.range 8).map (fun b =>
      toMxBlock ofmt (if sr then (List.range 32).map (fun j => srValue seedU (n0 + 32 * b + j)) else [])
        ((List.range 32).map (fun j => of32 (vals.getD (32 * b + j) 0))))
    let el := (blocks.map (fun b => packElems bits b.elems)).flatten
    (el.zipIdx.map (fun (p : Byte × Nat) => (p.1, gp (p.2 * 8 / bits))),
     blocks.zipIdx.map (fun (p : BlockConv × Nat) => (BitVec.ofNat 8 p.1.scale, gp (32 * p.2))),
     (blocks.map (·.sats)).foldl (· + ·) 0, (blocks.map (·.nans)).foldl (· + ·) 0)
  else
    let cs := vals.zipIdx.map (fun (p : W32 × Nat) =>
      if srci then (if ofmt = 6 then (⟨p.1.toNat, false, false⟩ : Conv) else toInt8 (.ofInt p.1.toInt))
      else match ffmtOf ofmt with
        | some f => if ofmt = 0 then ⟨p.1.toNat, false, false⟩ else f.ofFV ofmt (rnd p.2) (of32 p.1)
        | none => ⟨0, false, false⟩)
    let el := packElems bits (cs.map (·.bits))
    (el.zipIdx.map (fun (p : Byte × Nat) => (p.1, gp (p.2 * 8 / bits))), [],
     (cs.filter (·.sat)).length, (cs.filter (·.nanLost)).length)

/-- Whether MDRAIN names a legal conversion (R45, R87). -/
def drainOk (ofmt : Nat) (srci sr : Bool) : Bool :=
  (if srci then decide (ofmt = 6 ∨ ofmt = 5) else [0, 1, 2, 3, 4, 11, 12, 8].elem ofmt) &&
  (!sr || (!srci && [1, 2, 3, 4, 11, 12, 8].elem ofmt))

/-- SEED_U of the running entry (R69, R70). -/
def Clus.seedU (m : Clus) (clu mm : Nat) : Nat :=
  match m.runOrPilot clu with
  | some (n, r) => srSeed (m.core.rd8 (pageMc clu mm) (0x700 + 8 * entJob r.words)) r.otick.toNat r.entry n mm
  | none => 0

/-- MDRAIN at the head of the queue (R87, R93). -/
def Clus.mdrain (m : Clus) (clu mm : Nat) : Clus :=
  m.mHead clu mm 4 (fun w =>
    let ofmt := tf w 116 4
    let srci := decide (tf w 121 1 = 1)
    let sr := decide (tf w 122 1 = 1)
    let dst := if tf w 123 1 = 1 then 0 else 1
    let rows := tf w 104 12 + 1
    let gr (n : Nat) : Nat := (n + 255) / 256
    let mx := isBlockFmt ofmt
    let rb := rowBytes ofmt 256
    if (m.mRows clu mm) ≠ [] then m
    else if tf w 120 1 ≠ 0 ∨ tf w 16 28 ≠ 0 ∨ drainOk ofmt srci sr = false ∨
        (mx = false ∧ (tf w 60 4 ≠ 0 ∨ tf w 44 16 ≠ 0)) ∨
        m.core.fits clu 2 (tf w 100 4) (tf w 84 16) (gr (rows * 1024)) = false ∨
        m.core.fits clu dst (tf w 80 4) (tf w 64 16) (gr (rows * rb)) = false ∨
        (mx = true ∧ m.core.fits clu dst (tf w 60 4) (tf w 44 16) (gr (rows * 8)) = false) then m.mBad clu mm w
    else
      let job := m.jobOn clu
      let seed := m.seedU clu mm
      let m := iter rows (fun i x =>
        let (src, _, x) := x.readOp clu 2 (tf w 100 4) (256 * tf w 84 16 + 1024 * i) 1024 (.own job) mm
        let n0 := kget x.mc.srn 0 (mKey clu mm)
        let (el, sc, sats, nans) := drainRow ofmt srci sr seed n0 src
        let x := if sr then { x with mc := { x.mc with srn := kput x.mc.srn 0 (mKey clu mm) (n0 + 256) } } else x
        let x := (x.writeOp clu dst (tf w 80 4) (256 * tf w 64 16 + rb * i) el (.own job) mm).2
        let x := if mx then (x.writeOp clu dst (tf w 60 4) (256 * tf w 44 16 + 8 * i) sc (.own job) mm).2 else x
        if sats = 0 ∧ nans = 0 then x else x.addShadow clu mm ((zeroShadow.set 0 sats).set 3 nans)) m
      m.popM clu mm)

/-! ## MSYNC and MCHK -/

/-- Whether the engines that WAIT_ENG names have finished (R88): bit 0 load, 1 compute, 2 drain. -/
def Clus.mIdle (m : Clus) (clu mm eng : Nat) : Bool :=
  (decide (eng % 2 = 0) || (m.mLoad clu mm).isNone) &&
  (decide (eng / 2 % 2 = 0) || decide (m.mRows clu mm = [] ∧ m.mChecks clu mm = []))

/-- MSYNC at the head of the queue (R88). -/
def Clus.msync (m : Clus) (clu mm : Nat) : Clus :=
  m.mHead clu mm 5 (fun w =>
    let op := tf w 114 2
    if tf w 120 1 ≠ 0 ∨ tf w 16 82 ≠ 0 ∨ op = 3 then m.mBad clu mm w
    else if m.mIdle clu mm (tf w 121 3) = false then m
    else if op = 1 then (m.signal clu (tf w 116 4)).popM clu mm
    else if op = 2 ∧ m.sync clu (tf w 116 4) < tf w 98 16 then
      { m with mc := { m.mc with waiting := kput m.mc.waiting false (mKey clu mm) true } }
    else m.popM clu mm)

/-- An M-core's MSYNC WAIT whose counter has reached its value completes (R88). -/
def Clus.mResume (m : Clus) (clu mm : Nat) : Clus :=
  match m.mQueue clu mm with
  | w :: _ =>
    if kget m.mc.waiting false (mKey clu mm) ∧ opcOf w = 5 ∧ tf w 98 16 ≤ m.sync clu (tf w 116 4) then
      m.popM clu mm
    else m
  | [] => m

/-- MCHK at the head of the queue (R89). -/
def Clus.mchk (m : Clus) (clu mm : Nat) : Clus :=
  m.mHead clu mm 6 (fun w =>
    if tf w 109 15 ≠ 0 ∨ tf w 16 80 ≠ 0 then m.mBad clu mm w
    else if m.mIdle clu mm 3 = false then m
    else
      let r := m.mRec clu mm
      let bs := leBytes 4 r.checked ++ leBytes 4 r.skipped ++ leBytes 4 r.failed ++ leBytes 4 r.ratio.toNat ++
        leBytes 2 r.firstTag ++ leBytes 2 r.firstRow ++ List.replicate 12 0
      let m := m.onCore (·.winWr (dmemBase clu + 32 * tf w 96 13) bs)
      let m := { m with sc := { m.sc with dpoi := kput m.sc.dpoi false (8192 * clu + tf w 96 13) false } }
      m.popM clu mm)

/-! ## Departure, commit and the clears -/

/-- Departure at an M-core: buffers invalid, queue and work empty, records and shadow cleared, tolerances taken
(R94, R98). -/
def Clus.mDepart (m : Clus) (clu mm : Nat) : Clus :=
  let k := mKey clu mm
  { m with mc := { m.mc with
    queue := kput m.mc.queue [] k [], bufs := kclear m.mc.bufs (2 * k) 2, load := kput m.mc.load none k none,
    rows := kput m.mc.rows [] k [], checks := kput m.mc.checks [] k [], recs := kput m.mc.recs emptyRec k emptyRec,
    waiting := kput m.mc.waiting false k false, shadow := kput m.mc.shadow zeroShadow k zeroShadow,
    srn := kput m.mc.srn 0 k 0,
    tol := kput m.mc.tol [] k ((List.range 16).map (fun i => m.core.rd (pageMc clu mm) (0x80 + 4 * i))) } }

/-- Register offset of safeguard counter c (R73). -/
def sgOff (c : Nat) : Nat := 0x608 + 4 * c

/-- Zero the safeguard counters, bins and CROSSED (R74). -/
def Clus.sgZero (m : Clus) (clu mm : Nat) : Clus :=
  m.onCore (fun c => (c.zero (pageMc clu mm) 0x604 6).zero (pageMc clu mm) 0x640 32)

/-- Addition of a passing slot's shadow to the safeguard counters of an M-core, where the filter matches and FREEZE is 0, with
MC_SAFEGUARD at a crossing (R74, R76). -/
def Clus.sgAdd (m : Clus) (clu mm : Nat) (pass : Bool) (job tag : Nat) : Clus :=
  let k := mKey clu mm
  let p := pageMc clu mm
  let sh := kget m.mc.shadow zeroShadow k
  let ctl := m.core.rd p 0x600
  let m1 := { m with mc := { m.mc with shadow := kput m.mc.shadow zeroShadow k zeroShadow } }
  if pass && !bitAt ctl 31 && (bitAt ctl 29 || decide (bitsAt ctl 25 4 = job)) then
    let m2 := iter 5 (fun c x =>
      let old := (x.core.rd p (sgOff c)).toNat
      let x := x.onCore (·.incSat p (sgOff c) (sh.getD c 0))
      let new := (x.core.rd p (sgOff c)).toNat
      let th := (x.core.rd p (0x620 + 4 * c)).toNat
      if 0 < th ∧ old < th ∧ th ≤ new then
        x.onCore (fun y => (y.setFld p 0x604 c 1 1).record p 0x0220 sevInfo job (placeUnit clu mm 0)
          (c + job * 256 + new * 2 ^ 32 + tag * 2 ^ 64))
      else x) m1
    iter 16 (fun b x => x.onCore (fun y =>
      y.wr8 p (0x640 + 8 * b) (min (2 ^ 48 - 1) (y.rd8 p (0x640 + 8 * b) + sh.getD (5 + b) 0)))) m2
  else m1

/-- Commit of a slot at an M-core: its counts, and then a CLEAR that has waited for them (R74). -/
def Clus.mCommit (m : Clus) (clu mm : Nat) (pass : Bool) (job tag : Nat) : Clus :=
  let m := m.sgAdd clu mm pass job tag
  if kget m.mc.sgClear false (mKey clu mm) then
    ({ m with mc := { m.mc with sgClear := kput m.mc.sgClear false (mKey clu mm) false } }).sgZero clu mm
  else m

/-- MC_MARGIN_CLR: MC_CHK_MARGIN := 0. -/
def Clus.mcMarginClr (m : Clus) (clu mm : Nat) : Clus := m.onCore (·.wr (pageMc clu mm) 0xD0 0)
/-- MC_CAP_CLR: empty MC_FAIL_CAP. -/
def Clus.mcCapClr (m : Clus) (clu mm : Nat) : Clus := m.onCore (·.zero (pageMc clu mm) 0x100 8)
/-- MC_CNT_CLR: zero MC_CHK_ROWS, MC_CHK_SKIPPED and MC_CHK_FAILS. -/
def Clus.mcCntClr (m : Clus) (clu mm : Nat) : Clus := m.onCore (·.zero (pageMc clu mm) 0xC0 4)
/-- MC_SG_CLEAR: zero the safeguard counters, bins and CROSSED; in a Guard, after that Guard's additions (R74). -/
def Clus.mcSgClear (m : Clus) (clu mm : Nat) : Clus :=
  if m.core.inGuard && (match m.runOrPilot clu with
      | some (_, r) => !r.due
      | none => false) then
    { m with mc := { m.mc with sgClear := kput m.mc.sgClear false (mKey clu mm) true } }
  else m.sgZero clu mm
/-- ARRAY_FLIP, CHECK_FLIP: arm the injection (R104). -/
def Clus.mcFlip (m : Clus) (clu mm bit : Nat) : Clus := m.onCore (·.setFld (pageMc clu mm) 0x28 bit 1 1)

/-! ## The commands -/

/-- MLOAD (R84). -/
def execMload (c : Clu) (i : Fin 2) (s : State) : Out := .next (s.onClus (·.mload c.val i.val))
/-- MLOAD_COMPLETE (R96). -/
def execMloadComplete (c : Clu) (i : Fin 2) (s : State) : Out := .next (s.onClus (·.mloadComplete c.val i.val))
/-- MMA (R86). -/
def execMma (c : Clu) (i : Fin 2) (s : State) : Out := .next (s.onClus (·.mma c.val i.val))
/-- MMAS (R92). -/
def execMmas (c : Clu) (i : Fin 2) (s : State) : Out := .next (s.onClus (·.mmas c.val i.val))
/-- MDRAIN (R87). -/
def execMdrain (c : Clu) (i : Fin 2) (s : State) : Out := .next (s.onClus (·.mdrain c.val i.val))
/-- MSYNC (R88). -/
def execMsync (c : Clu) (i : Fin 2) (s : State) : Out := .next (s.onClus (·.msync c.val i.val))
/-- MCHK (R89). -/
def execMchk (c : Clu) (i : Fin 2) (s : State) : Out := .next (s.onClus (·.mchk c.val i.val))
/-- OUTPUT_ROW_ARRIVE (R86). -/
def execOutputRowArrive (c : Clu) (src : RowSrc) (s : State) : Out := .next (s.onClus (·.outputRow c.val src))
/-- ROW_CHECK (R97). -/
def execRowCheck (c : Clu) (i : Fin 2) (s : State) : Out := .next (s.onClus (·.rowCheck c.val i.val))
/-- MC_MARGIN_CLR. -/
def execMcMarginClr (c : Clu) (i : Fin 2) (s : State) : Out := .next (s.onClus (·.mcMarginClr c.val i.val))
/-- MC_CAP_CLR. -/
def execMcCapClr (c : Clu) (i : Fin 2) (s : State) : Out := .next (s.onClus (·.mcCapClr c.val i.val))
/-- MC_CNT_CLR. -/
def execMcCntClr (c : Clu) (i : Fin 2) (s : State) : Out := .next (s.onClus (·.mcCntClr c.val i.val))
/-- MC_SG_CLEAR (R74). -/
def execMcSgClear (c : Clu) (i : Fin 2) (s : State) : Out := .next (s.onClus (·.mcSgClear c.val i.val))
/-- ARRAY_FLIP (R104). -/
def execArrayFlip (c : Clu) (i : Fin 2) (s : State) : Out := .next (s.onClus (·.mcFlip c.val i.val 0))
/-- CHECK_FLIP (R104). -/
def execCheckFlip (c : Clu) (i : Fin 2) (s : State) : Out := .next (s.onClus (·.mcFlip c.val i.val 1))
/-- SCRUB_READ (R185). -/
def execScrubRead (c : Clu) (st : Store) (s : State) : Out := .next (s.onClus (·.scrubRead c.val st.val))
/-- SCRUB_CTRL_WRITE (R185). -/
def execScrubCtrlWrite (c : Clu) (st : Store) (v : W32) (s : State) : Out :=
  .next (s.onClus (·.scrubCtrl c.val st.val v))
/-- XST_CNT_CLR (R190). -/
def execXstCntClr (c : Clu) (st : Store) (s : State) : Out := .next (s.onClus (·.xstCntClr c.val st.val))
/-- XST_CAP_CLR (R190). -/
def execXstCapClr (c : Clu) (st : Store) (s : State) : Out := .next (s.onClus (·.xstCapClr c.val st.val))
/-- BANK_CLR (R185). -/
def execBankClr (c : Clu) (st : Store) (s : State) : Out := .next (s.onClus (·.bankClr c.val st.val))
/-- ST_CE_FLIP (R191). -/
def execStCeFlip (c : Clu) (st : Store) (b : Fin 32) (s : State) : Out :=
  .next (s.onClus (·.stFlip c.val st.val b.val 0))
/-- ST_UE_FLIP (R191). -/
def execStUeFlip (c : Clu) (st : Store) (b : Fin 32) (s : State) : Out :=
  .next (s.onClus (·.stFlip c.val st.val b.val 1))
/-- REGION_DESCRIPTOR_WRITE (R171). -/
def execRegionDescriptorWrite (c : Clu) (st : Store) (r : Fin 16) (ws : List W32) (s : State) : Out :=
  .next (s.onClus (·.descWrite c.val st.val r.val ws))
end Sys2Proof.Machine
end

