-- ==== Sys2Proof/Machine/VCore.lean ====
section
/-!
DEFINITION. The V-core (R105–R117): vector arithmetic, conversion, loads and stores, gather and scatter, VSYNC, and the
lockstep of V-cores (R126).
-/
namespace Sys2Proof.Machine

/-- Key of a V-core. -/
def vKey (clu v : Nat) : Nat := 2 * clu + v
/-- Tile queue of a V-core. -/
def Clus.vQueue (m : Clus) (clu v : Nat) : List W128 := kget m.vc.queue [] (vKey clu v)
/-- Set a tile queue. -/
def Clus.setVQueue (m : Clus) (clu v : Nat) (q : List W128) : Clus :=
  { m with vc := { m.vc with queue := kput m.vc.queue [] (vKey clu v) q } }
/-- Set a tile queue whose head is another instruction than before: no VSYNC waits there yet (R88, R116). -/
def Clus.newVHead (m : Clus) (clu v : Nat) (q : List W128) : Clus :=
  let m := m.setVQueue clu v q
  { m with vc := { m.vc with waiting := kput m.vc.waiting false (vKey clu v) false } }
/-- Remove the head of a tile queue. -/
def Clus.popV (m : Clus) (clu v : Nat) : Clus := m.newVHead clu v (m.vQueue clu v).tail
/-- Whether the pair is halted. -/
def Clus.vHalted (m : Clus) (clu v : Nat) : Bool := kget m.vc.halted false (vKey clu v)

/-- VX register. -/
def Clus.vx (m : Clus) (clu v r : Nat) : BitVec 2048 := kget m.vc.vx 0 (32 * vKey clu v + r % 32)
/-- Byte poison of a VX register. -/
def Clus.vxp (m : Clus) (clu v r : Nat) : BitVec 256 := kget m.vc.vxp 0 (32 * vKey clu v + r % 32)
/-- Set a VX register and its poison. -/
def Clus.setVx (m : Clus) (clu v r : Nat) (x : BitVec 2048) (p : BitVec 256) : Clus :=
  { m with vc := { m.vc with vx := kput m.vc.vx 0 (32 * vKey clu v + r % 32) x,
                             vxp := kput m.vc.vxp 0 (32 * vKey clu v + r % 32) p } }
/-- VP register; VP0 reads as all ones (R105). -/
def Clus.vp (m : Clus) (clu v p : Nat) : BitVec 256 :=
  if p % 8 = 0 then BitVec.allOnes 256 else kget m.vc.vp 0 (8 * vKey clu v + p % 8)
/-- Poison of a VP register's bits; VP0 has none (R117). -/
def Clus.vpp (m : Clus) (clu v p : Nat) : BitVec 256 :=
  if p % 8 = 0 then 0 else kget m.vc.vpp 0 (8 * vKey clu v + p % 8)
/-- Set a VP register and its poison; VP0 ignores writes (R105). -/
def Clus.setVp (m : Clus) (clu v p : Nat) (x q : BitVec 256) : Clus :=
  if p % 8 = 0 then m
  else { m with vc := { m.vc with vp := kput m.vc.vp 0 (8 * vKey clu v + p % 8) x,
                                  vpp := kput m.vc.vpp 0 (8 * vKey clu v + p % 8) q } }

/-- Elements of w bits of a register, ascending. -/
def vElems (x : BitVec 2048) (w : Nat) : List Nat :=
  (List.range (2048 / w)).map (fun i => x.toNat / 2 ^ (w * i) % 2 ^ w)
/-- Register of elements of w bits. -/
def vPack (w : Nat) (xs : List Nat) : BitVec 2048 :=
  BitVec.ofNat 2048 (xs.foldr (fun x acc => x % 2 ^ w + 2 ^ w * acc) 0)
/-- Bytes of a register. -/
def vBytes (x : BitVec 2048) : List Byte := leBytes 256 x.toNat
/-- Register of bytes. -/
def vOfBytes (l : List Byte) : BitVec 2048 := BitVec.ofNat 2048 (leNat l)
/-- Whether byte i of a mask is set. -/
def mbit (x : BitVec 256) (i : Nat) : Bool := x.getLsbD i
/-- Mask of a list of byte marks. -/
def maskOf (l : List Bool) : BitVec 256 := BitVec.ofNat 256 (l.foldr (fun b acc => (if b then 1 else 0) + 2 * acc) 0)
/-- Whether any byte of element i of w bits is marked. -/
def elemMark (x : BitVec 256) (w i : Nat) : Bool :=
  (List.range ((w + 7) / 8)).any (fun j => mbit x (w * i / 8 + j))

/-! ## Faults -/

/-- Capture of the first fault of a V-core (VS_VFAULT_CAP). -/
def Clus.vCapture (m : Clus) (clu v code itag lane : Nat) : Clus :=
  let p := pageV clu v
  if bitAt (m.core.rd p 0x8C) 31 then m
  else m.onCore (·.wrs p 0x80 [m.core.tickLo, m.capWord clu itag,
    BitVec.ofNat 32 (code + lane % 256 * 2 ^ 17), BitVec.ofNat 32 (2 ^ 31)])

/-- Halt a V-core pair and discard its queue (R126, R128). -/
def Clus.vHalt (m : Clus) (clu v : Nat) : Clus :=
  let m := m.newVHead clu v []
  { m with vc := { m.vc with halted := kput m.vc.halted false (vKey clu v) true } }

/-- A V-core rejection that faults the job: the pair halts (R128); an offset out of range only discards the queue (R115). -/
def Clus.vFatal (m : Clus) (clu v code : Nat) (w : W128) (lane : Nat) : Clus :=
  ((if code = 0x0307 then m.newVHead clu v [] else m.vHalt clu v).vCapture clu v code (itagOf w) (if lane = 0xFFFF then 0 else lane)).fatalEvent clu (pageV clu v) code
    (placeUnit clu (2 + v) 0) (itagOf w + lane % 65536 * 65536)

/-- A lockstep mismatch of a V-core pair, with the program tag of its instruction (R126, R129). -/
def Clus.vLockstep (m : Clus) (clu v itag : Nat) (inj : Bool := false) : Clus :=
  let m := (m.vHalt clu v).onCore (·.incSat (pageV clu v) 0x44 1)
  (m.vCapture clu v 0x0301 itag 0).causeEvent clu (pageV clu v) (checkCause 0x0301 inj) (itag + 0xFFFF * 65536)

/-- VS_POISON_IN, class DATA, unless ST_UNDERRUN is recorded (R117). -/
def Clus.vPoison (m : Clus) (clu v : Nat) (w : W128) : Clus :=
  if (m.causes clu).any (fun f => f.code == 0x0501) then m
  else (m.vCapture clu v 0x0308 (itagOf w) 0).causeEvent clu (pageV clu v) (dataCause 0x0308)
    (itagOf w + 0xFFFF * 65536)

/-- The register write of instruction `w` of a V-core: an armed LS_FLIP makes the pair mismatch instead, and nothing leaves
it (R126, R130). -/
def Clus.vWrite (m : Clus) (clu v : Nat) (w : W128) (f : Clus → Clus) : Clus :=
  if bitAt (m.core.rd (pageV clu v) 0x28) 0 then
    (m.onCore (·.setFld (pageV clu v) 0x28 0 1 0)).vLockstep clu v (itagOf w) true
  else f m

/-- Run `f` on the head of the queue if it has opcode `opc`; an opcode outside 0x8–0xD is rejected (R107, R128). -/
def Clus.vHead (m : Clus) (clu v opc : Nat) (f : W128 → Clus) : Clus :=
  match m.vQueue clu v with
  | [] => m
  | w :: _ =>
    if m.vHalted clu v then m
    else if opcOf w < 8 ∨ 14 ≤ opcOf w then m.vFatal clu v 0x0306 w 0xFFFF
    else if opcOf w = opc then f w
    else m

/-! ## VOP -/

/-- Formats of the arithmetic lanes (R45): FP32, BF16, FP8, INT32, INT8. -/
def vType (t : Nat) : Bool := [0, 1, 3, 4, 5, 6].elem t

/-- TYPEs an operation takes (R109): none of the reserved FNs has one. -/
def fnTypeOk (fn t : Nat) : Bool :=
  if fn ≤ 0x07 then vType t
  else if fn ≤ 0x0A then decide (t = 6 ∨ t = 5)
  else if fn ≤ 0x0D then decide (t = 6)
  else if 0x10 ≤ fn ∧ fn ≤ 0x14 then vType t
  else if 0x18 ≤ fn ∧ fn ≤ 0x1D then decide (t = 0 ∨ t = 1)
  else if 0x20 ≤ fn ∧ fn ≤ 0x22 then vType t
  else if fn = 0x23 ∨ fn = 0x30 then decide (t = 0)
  else decide (fn = 0x28)

/-- Whether the decoder rejects a VOP (R108, R109, R128). -/
def vopBad (w : W128) : Bool :=
  let fn := tf w 118 6
  decide (tf w 70 17 ≠ 0 ∨ tf w 16 16 ≠ 0) || !fnTypeOk fn (tf w 114 4) ||
  (if fn = 0x28 then decide (tf w 110 4 = 15) else decide (tf w 110 4 ≠ 0)) ||
  (decide (fn ≠ 0x30) && decide (tf w 64 6 ≠ 0)) || (decide (fn ≠ 0x14) && decide (tf w 32 32 ≠ 0)) ||
  (decide (fn = 0x30) && decide (tf w 105 5 % 2 = 1)) ||
  (decide (0x10 ≤ fn ∧ fn ≤ 0x12) && decide (tf w 105 5 = 0 ∨ 8 ≤ tf w 105 5))

/-- Element width of an arithmetic TYPE. -/
def vWidth (t : Nat) : Nat := if t = 0 ∨ t = 6 then 32 else if t = 1 then 16 else 8

/-- Whether a format is an integer one. -/
def isIntFmt (t : Nat) : Bool := decide (t = 5 ∨ t = 6)

/-- Value of an element as a signed integer. -/
def vInt (t x : Nat) : Int := toSigned (vWidth t) x

/-- An integer result: INT32 wraps; INT8 saturates where `sat`, and is free outside its range otherwise (R109). -/
def vIntRes (t : Nat) (sat : Bool) (tag : Nat) (args : List Nat) (r : Int) : Nat :=
  if t = 6 then (BitVec.ofInt 32 r).toNat
  else if -128 ≤ r ∧ r ≤ 127 then (BitVec.ofInt 8 r).toNat
  else if sat then (if r < 0 then 0x80 else 0x7F)
  else (Config.convCorner tag (args.map (BitVec.ofNat 32))).toNat % 256

/-- A floating-point result in TYPE t, rounded once (R64, R65). -/
def vFpRes (t : Nat) (v : FV) : Nat :=
  match ffmtOf t with
  | some f => (f.ofFV t none v).bits
  | none => 0

/-- Value of a floating-point element. -/
def vFp (t x : Nat) : FV := elemValue t x

/-- Order used by VMAX and VMIN: −0 below +0 (R110). -/
def fvLess (a b : FV) : Bool :=
  a.lt b || (a.eqv b && a.isNeg && !b.isNeg)

/-- VMAX (`mx`) or VMIN of two elements (R110). -/
def vMaxMin (t : Nat) (mx : Bool) (a b : Nat) : Nat :=
  if isIntFmt t then
    (if mx then (if vInt t a < vInt t b then b else a) else (if vInt t b < vInt t a then b else a))
  else
    let x := vFp t a
    let y := vFp t b
    if x.isNan || y.isNan then vFpRes t .nan
    else if mx then (if fvLess x y then b else a) else (if fvLess y x then b else a)

/-- The element-wise operations of R109 on one element. -/
def vElemOp (fn t a b c : Nat) : Nat :=
  let w := vWidth t
  match fn with
  | 0x00 => if isIntFmt t then vIntRes t true fn [a, b] (vInt t a + vInt t b) else vFpRes t ((vFp t a).add (vFp t b))
  | 0x01 => if isIntFmt t then vIntRes t true fn [a, b] (vInt t a - vInt t b)
            else vFpRes t ((vFp t a).add (vFp t b).neg)
  | 0x02 => if isIntFmt t then vIntRes t true fn [a, b] (vInt t a * vInt t b) else vFpRes t ((vFp t a).mul (vFp t b))
  | 0x03 => if isIntFmt t then vIntRes t false fn [a, b, c] (vInt t a * vInt t b + vInt t c)
            else vFpRes t (((vFp t a).mul (vFp t b)).add (vFp t c))
  | 0x04 => vMaxMin t true a b
  | 0x05 => vMaxMin t false a b
  | 0x06 => if isIntFmt t then vIntRes t false fn [a] (vInt t a).natAbs else a % 2 ^ (w - 1)
  | 0x07 => if isIntFmt t then vIntRes t false fn [a] (-(vInt t a)) else Nat.xor a (2 ^ (w - 1))
  | 0x08 => Nat.land a b
  | 0x09 => Nat.lor a b
  | 0x0A => Nat.xor a b
  | 0x0B => a * 2 ^ (b % 32) % 2 ^ 32
  | 0x0C => ((BitVec.ofNat 32 a).sshiftRight (b % 32)).toNat
  | 0x0D => a / 2 ^ (b % 32)
  | _ => a

/-- The comparisons of R109 (NaN compares false). -/
def vCmp (fn t a b : Nat) : Bool :=
  if isIntFmt t then
    (if fn = 0x10 then decide (vInt t a = vInt t b) else if fn = 0x11 then decide (vInt t a < vInt t b)
     else decide (vInt t a ≤ vInt t b))
  else
    let x := vFp t a
    let y := vFp t b
    if fn = 0x10 then x.eqv y else if fn = 0x11 then x.lt y else x.lt y || x.eqv y

/-- The functions of R110 in FP32: special values by IEEE 754-2019, otherwise an approximation within its bound. -/
def vApprox (fn : Nat) (x : W32) : W32 :=
  let v := of32 x
  let free := approxOf fn x
  match v with
  | .nan => to32 .nan
  | .inf s =>
    if fn = 0x18 ∨ fn = 0x1C then (if s then 0 else to32 (.inf false))
    else if fn = 0x1A then to32 (.fin s 0 0)
    else if s then to32 .nan
    else if fn = 0x1B then 0 else to32 (.inf false)
  | .fin s m _ =>
    if fn = 0x18 ∨ fn = 0x1C then free
    else if fn = 0x1A then (if m = 0 then to32 (.inf s) else free)
    else if fn = 0x1B then (if m = 0 then to32 (.inf s) else if s then to32 .nan else free)
    else if m = 0 then to32 (.inf true) else if s then to32 .nan else free

/-- Pairwise reduction of R111: element j with element j + N/2, and so on. -/
def pairTree {α : Type} (op : α → α → α) : Nat → List α → List α
  | 0, l => l
  | fuel + 1, l =>
    if l.length ≤ 1 then l
    else pairTree op fuel ((l.take (l.length / 2)).zipWith op (l.drop (l.length / 2)))

/-- Reduction of R111: FP32 or INT32 result. -/
def vReduce (fn t : Nat) (xs : List Nat) : Nat :=
  if isIntFmt t then
    let op (a b : Nat) : Nat :=
      if fn = 0x20 then (a + b) % 2 ^ 32 else vMaxMin 6 (decide (fn = 0x21)) a b
    (pairTree op 9 (xs.map (fun x => (BitVec.ofInt 32 (vInt t x)).toNat))).headD 0
  else
    let op (a b : Nat) : Nat :=
      if fn = 0x20 then (fadd (BitVec.ofNat 32 a) (BitVec.ofNat 32 b)).toNat else vMaxMin 0 (decide (fn = 0x21)) a b
    (pairTree op 9 (xs.map (fun x => (to32 (vFp t x)).toNat))).headD 0

/-- Whether FP32 entry (a, i) ranks above (b, j) in VTOPK: larger value first, NaN below −∞, lower index on a tie
(R112). -/
def topAbove (a b : Nat × Nat) : Bool :=
  let x := vFp 0 a.1
  let y := vFp 0 b.1
  let idx := decide (toSigned 32 a.2 < toSigned 32 b.2)
  if x.isNan && y.isNan then idx
  else if x.isNan then false
  else if y.isNan then true
  else if x.eqv y then idx
  else y.lt x

/-- Insert an entry into a descending list. -/
def topInsert (e : Nat × Nat) : List (Nat × Nat) → List (Nat × Nat)
  | [] => [e]
  | x :: r => if topAbove e x then e :: x :: r else x :: topInsert e r

/-- Keep old elements where the predicate bit is 0 (R108). -/
def vMerge (pm : BitVec 256) (w : Nat) (new old : List Nat) : List Nat :=
  (new.zip old).zipIdx.map (fun (p : (Nat × Nat) × Nat) => if mbit pm (w * p.2 / 8) then p.1.1 else p.1.2)

/-- Poison of a result: the element's poison where the predicate is set, the old byte poison elsewhere; an element whose
predicate is poisoned is poisoned either way (R117). -/
def vMergeP (pm pmP : BitVec 256) (w : Nat) (new : Nat → Bool) (old : BitVec 256) : BitVec 256 :=
  maskOf ((List.range 256).map (fun j =>
    let i := 8 * j / w
    mbit pmP (w * i / 8) || (if mbit pm (w * i / 8) then new i else mbit old j)))

/-- Block scales of a block-format operand from byte 0 of the register one higher, GFP4 records from byte 32 (R113). -/
def vcvtValues (t n : Nat) (data aux : List Byte) : List FV :=
  (List.range n).map (fun i =>
    let v := elemValue t (packedElem t data i)
    if isBlockFmt t then
      let b := i / 32
      let v2 := if t = 14 then
          let r := leNat ((aux.drop (32 + 2 * b)).take 2)
          if r / 2 ^ 11 = i % 32 ∧ r / 8 % 128 ≠ 0 then v.add (fE4m3.decode (r / 8 % 256)) else v
        else v
      scaled v2 ((aux.getD b 0).toNat)
    else v)

/-- VCVT: data and auxiliary bytes of the result, with poison by element and by block (R113, R64–R67). -/
def vcvt (t o n : Nat) (data aux : List Byte) (pois : Nat → Bool) : List PB × List PB :=
  let vals := vcvtValues t n data aux
  let bits := elemBits o
  if isBlockFmt o then
    let blocks := (List.range (n / 32)).map (fun b => ((vals.drop (32 * b)).take 32, b))
    let bp (b : Nat) : Bool := (List.range 32).any (fun j => pois (32 * b + j))
    if o = 14 then
      let rs := blocks.map (fun p => (toGfp4Block p.1, p.2))
      ((rs.map (fun p => (packElems 4 p.1.2.1).map (fun x => (x, bp p.2)))).flatten,
       rs.map (fun p => (BitVec.ofNat 8 p.1.1, bp p.2)) ++
       List.replicate (32 - n / 32) (0, false) ++
       (rs.map (fun p => (leBytes 2 p.1.2.2).map (fun x => (x, bp p.2)))).flatten)
    else
      let rs := blocks.map (fun p => (toMxBlock o [] p.1, p.2))
      ((rs.map (fun p => (packElems bits p.1.elems).map (fun x => (x, bp p.2)))).flatten,
       rs.map (fun p => (BitVec.ofNat 8 p.1.scale, bp p.2)))
  else
    let codes := vals.zipIdx.map (fun (p : FV × Nat) =>
      let src : W32 := BitVec.ofNat 32 (packedElem t data p.2)
      if o = 5 then (if t = 6 then (toInt8 (.ofInt (toSigned 32 (packedElem t data p.2)))).bits else (toInt8 p.1).bits)
      else if o = 6 then toInt32 t src p.1
      else if o = t then packedElem t data p.2
      else match ffmtOf o with
        | some f => (f.ofFV o none p.1).bits
        | none => 0)
    let bytes := packElems bits codes
    (bytes.zipIdx.map (fun (p : Byte × Nat) => (p.1, pois (8 * p.2 / bits) || (bits < 8 && pois (8 * p.2 / bits + 1)))),
     [])

/-- Bytes of a register with poison. -/
def Clus.vxPB (m : Clus) (clu v r : Nat) : List PB :=
  (vBytes (m.vx clu v r)).zipIdx.map (fun (p : Byte × Nat) => (p.1, mbit (m.vxp clu v r) p.2))

/-- Write leading bytes of a register where the byte predicate is set; the rest keeps its old value. -/
def Clus.vxPutBytes (m : Clus) (clu v r : Nat) (l : List PB) (pm : BitVec 256) : Clus :=
  let old := m.vxPB clu v r
  let new := old.zipIdx.map (fun (p : PB × Nat) =>
    match l[p.2]? with
    | some x => if mbit pm p.2 then x else p.1
    | none => p.1)
  m.setVx clu v r (vOfBytes (new.map (·.1))) (maskOf (new.map (·.2)))

/-- Data bytes of a VCVT merged with the old ones: the predicate governs an element through the bit of its lowest byte
(R105, R108). -/
def vcvtMerge (o n : Nat) (new old : List PB) (pm pmP : BitVec 256) : List PB :=
  let w := elemBits o
  let sel (i : Nat) : Bool := mbit pm (w * i / 8)
  let codes := (List.range n).map (fun i => packedElem o ((if sel i then new else old).map (·.1)) i)
  (packElems w codes).zipIdx.map (fun (p : Byte × Nat) =>
    let a := 8 * p.2 / w
    let b := (8 * p.2 + 7) / w
    (p.1, (List.range (b - a + 1)).any (fun j =>
      mbit pmP (w * (a + j) / 8) || ((if sel (a + j) then new else old).getD p.2 (0, false)).2)))

/-- Whether source element i of a VCVT is poisoned: by its own bytes, or by its block's scale or record (R113, R117). -/
def vcvtMark (t : Nat) (pA pAux : BitVec 256) (i : Nat) : Bool :=
  let bits := elemBits t
  (List.range ((bits + 7) / 8)).any (fun j => mbit pA (bits * i / 8 + j)) ||
  (isBlockFmt t && (mbit pAux (i / 32) || (decide (t = 14) && (mbit pAux (32 + 2 * (i / 32)) || mbit pAux (33 + 2 * (i / 32))))))

/-- VOP at the head of the queue (R108–R113, R117). -/
def Clus.vop (m : Clus) (clu v : Nat) : Clus :=
  m.vHead clu v 8 (fun w =>
    if vopBad w then m.vFatal clu v 0x0306 w 0xFFFF
    else
      let fn := tf w 118 6
      let t := tf w 114 4
      let vd := tf w 105 5
      let va := tf w 100 5
      let vb := tf w 95 5
      let vcr := tf w 90 5
      let pm := m.vp clu v (tf w 87 3)
      let pmP := m.vpp clu v (tf w 87 3)
      let wd := vWidth t
      let A := m.vx clu v va
      let B := m.vx clu v vb
      let C := m.vx clu v vcr
      let pA := m.vxp clu v va
      let pB := m.vxp clu v vb
      let pC := m.vxp clu v vcr
      let m := m.popV clu v
      let useB := decide (fn ≤ 0x05 ∨ (0x08 ≤ fn ∧ fn ≤ 0x0D) ∨ (0x10 ≤ fn ∧ fn ≤ 0x13))
      let useC := decide (fn = 0x03)
      let useA := decide (fn ≠ 0x14)
      let ep (i : Nat) : Bool :=
        (useA && elemMark pA wd i) || (useB && elemMark pB wd i) || (useC && elemMark pC wd i)
      let selP := if fn = 0x13 then m.vpp clu v (vcr % 8) else 0
      let any := (List.range (2048 / wd)).any (fun i =>
        mbit pmP (wd * i / 8) || (mbit pm (wd * i / 8) && (ep i || mbit selP (wd * i / 8))))
      if fn = 0x28 then
        let o := tf w 110 4
        let wide := max 8 (max (elemBits t) (elemBits o))
        let n := 2048 / wide
        let data := vBytes A
        let aux := vBytes (m.vx clu v (va + 1))
        let pAux := m.vxp clu v (va + 1)
        let pois := vcvtMark t pA pAux
        let (d, x) := vcvt t o n data aux pois
        let m := if (List.range n).any (fun i => pois i || mbit pmP (elemBits o * i / 8)) then m.vPoison clu v w else m
        m.vWrite clu v w (fun m =>
          let m := m.vxPutBytes clu v vd (vcvtMerge o n d (m.vxPB clu v vd) pm pmP) (BitVec.allOnes 256)
          if isBlockFmt o then m.vxPutBytes clu v (vd + 1) x (BitVec.allOnes 256) else m)
      else if 0x20 ≤ fn ∧ fn ≤ 0x23 then
        let xs := vElems A wd
        let anyP := (List.range (2048 / wd)).any (fun i => elemMark pA wd i) || decide (pmP ≠ 0)
        let m := if anyP then m.vPoison clu v w else m
        let r := vReduce (if fn = 0x23 then 0x21 else fn) t xs
        let lane := (xs.zipIdx.find? (fun (p : Nat × Nat) =>
          if (vFp 0 r).isNan then (vFp 0 p.1).isNan else decide (p.1 = r))).elim 0 (·.2)
        let new := (r :: (if fn = 0x23 then [lane] else [])) ++ List.replicate 63 0
        let old := vElems (m.vx clu v vd) 32
        m.vWrite clu v w (fun m => m.setVx clu v vd (vPack 32 (vMerge pm 32 (new.take 64) old))
          (vMergeP pm pmP 32 (fun _ => anyP) (m.vxp clu v vd)))
      else if fn = 0x30 then
        let k := tf w 64 6 + 1
        let anyP := pA ≠ 0 ∨ pB ≠ 0 ∨ m.vxp clu v vd ≠ 0 ∨ m.vxp clu v (vd + 1) ≠ 0 ∨ pmP ≠ 0
        let m := if anyP then m.vPoison clu v w else m
        let run := ((vElems (m.vx clu v vd) 32).zip (vElems (m.vx clu v (vd + 1)) 32)).take k
        let merged := ((vElems A 32).zip (vElems B 32)).foldl (fun l e => topInsert e l) run
        let top := merged.take k
        let pad := List.replicate (64 - k) 0
        m.vWrite clu v w (fun m =>
          let ov := vElems (m.vx clu v vd) 32
          let oi := vElems (m.vx clu v (vd + 1)) 32
          let m := m.setVx clu v vd (vPack 32 (vMerge pm 32 (top.map (·.1) ++ pad) ov))
            (vMergeP pm pmP 32 (fun _ => decide anyP) (m.vxp clu v vd))
          m.setVx clu v (vd + 1) (vPack 32 (vMerge pm 32 (top.map (·.2) ++ pad) oi))
            (vMergeP pm pmP 32 (fun _ => decide anyP) (m.vxp clu v (vd + 1))))
      else
        let m := if any then m.vPoison clu v w else m
        let as := vElems A wd
        let bs := vElems B wd
        let cs := vElems C wd
        if 0x10 ≤ fn ∧ fn ≤ 0x12 then
          let bits := (as.zip bs).map (fun p => vCmp fn t p.1 p.2)
          let old := m.vp clu v vd
          m.vWrite clu v w (fun m => m.setVp clu v vd (maskOf ((List.range 256).map (fun j =>
            let i := 8 * j / wd
            if mbit pm (wd * i / 8) then bits.getD i false else mbit old j)))
            (vMergeP pm pmP wd ep (m.vpp clu v vd)))
        else
          let sel := m.vp clu v (vcr % 8)
          let new := (as.zip (bs.zip cs)).zipIdx.map (fun (p : (Nat × (Nat × Nat)) × Nat) =>
            if fn = 0x13 then (if mbit sel (wd * p.2 / 8) then p.1.1 else p.1.2.1)
            else if fn = 0x14 then tf w 32 32 % 2 ^ wd
            else if 0x18 ≤ fn ∧ fn ≤ 0x1D then
              (if t = 1 then (vFpRes 1 (of32 (vApprox fn (BitVec.ofNat 32 (p.1.1 * 65536))))) else
                (vApprox fn (BitVec.ofNat 32 p.1.1)).toNat)
            else vElemOp fn t p.1.1 p.1.2.1 p.1.2.2)
          let pnew (i : Nat) : Bool :=
            if fn = 0x13 then
              mbit selP (wd * i / 8) || (if mbit sel (wd * i / 8) then elemMark pA wd i else elemMark pB wd i)
            else ep i
          let old := vElems (m.vx clu v vd) wd
          m.vWrite clu v w (fun m => m.setVx clu v vd (vPack wd (vMerge pm wd new old))
            (vMergeP pm pmP wd pnew (m.vxp clu v vd))))

/-! ## Loads and stores -/

/-- VLD at the head of the queue (R114, R117). -/
def Clus.vld (m : Clus) (clu v : Nat) : Clus :=
  m.vHead clu v 9 (fun w =>
    let st := tf w 122 2
    let r := tf w 118 4
    let g := tf w 102 16
    let ch := tf w 100 2
    let n := 64 * (tf w 98 2 + 1)
    if st = 3 ∨ tf w 90 3 ≠ 0 ∨ tf w 16 74 ≠ 0 ∨
        m.core.fits clu st r g ((64 * ch + n + 255) / 256) = false then m.vFatal clu v 0x0306 w 0xFFFF
    else
      let (l, _, m) := m.readOp clu st r (256 * g + 64 * ch) n (.own (m.jobOn clu)) (2 + v)
      let m := m.popV clu v
      m.vWrite clu v w (fun m => m.vxPutBytes clu v (tf w 93 5) l (BitVec.allOnes 256)))

/-- Runs of selected bytes: (offset, bytes). -/
def byteRuns (sel : Nat → Bool) (l : List PB) : List (Nat × List PB) :=
  (l.zipIdx.foldr (fun (p : PB × Nat) (acc : List (Nat × List PB)) =>
    if sel p.2 then
      match acc with
      | (o, r) :: t => if o = p.2 + 1 then (p.2, p.1 :: r) :: t else (p.2, [p.1]) :: (o, r) :: t
      | [] => [(p.2, [p.1])]
    else acc) [])

/-- Bytes with those whose predicate is poisoned marked (R117). -/
def markPred (pmP : BitVec 256) (l : List PB) : List PB := l.zipIdx.map (fun p => (p.1.1, p.1.2 || mbit pmP p.2))

/-- VST at the head of the queue: a plain write under its predicate; a byte whose predicate is poisoned is written as poison
(R114, R117). -/
def Clus.vst (m : Clus) (clu v : Nat) : Clus :=
  m.vHead clu v 0xA (fun w =>
    let st := tf w 122 2
    let r := tf w 118 4
    let g := tf w 102 16
    let ch := tf w 100 2
    let n := 64 * (tf w 98 2 + 1)
    if st = 3 ∨ tf w 16 74 ≠ 0 ∨
        m.core.fits clu st r g ((64 * ch + n + 255) / 256) = false then m.vFatal clu v 0x0306 w 0xFFFF
    else
      let pm := m.vp clu v (tf w 90 3)
      let pmP := m.vpp clu v (tf w 90 3)
      let job := m.jobOn clu
      let runs := byteRuns (fun i => mbit pm i || mbit pmP i) (markPred pmP ((m.vxPB clu v (tf w 93 5)).take n))
      let m := m.popV clu v
      runs.foldl (fun x p => (x.writeOp clu st r (256 * g + 64 * ch + p.1) p.2 (.own job) (2 + v)).2) m)

/-- Bytes of a gather or scatter TYPE; 0 where reserved (R115). -/
def gatherWidth (t : Nat) : Nat :=
  if t = 0 ∨ t = 6 then 4 else if t = 1 ∨ t = 2 then 2 else if t = 3 ∨ t = 4 ∨ t = 5 then 1 else 0

/-- Whether the offset of a gather or scatter lane is aligned and puts the element inside the region (R115). -/
def laneOk (wd g size o : Nat) : Bool := decide (o % wd = 0 ∧ 256 * g + o + wd ≤ 256 * size)

/-- Shared decoding of VGATH and VSCAT: rejection, then the first offending lane (R115). A lane whose predicate is poisoned
moves, as poison, where its offset lets it (R117). -/
def Clus.gatherGo (m : Clus) (clu v opc : Nat) (f : W128 → Nat → List Nat → Clus) : Clus :=
  m.vHead clu v opc (fun w =>
    let st := tf w 122 2
    let r := tf w 118 4
    let g := tf w 102 16
    let wd := gatherWidth (tf w 84 4)
    let acc := tf w 88 1
    let d := m.core.region clu st r
    if st = 3 ∨ tf w 16 68 ≠ 0 ∨ wd = 0 ∨ m.core.fits clu st r g 0 = false ∨
        (acc = 1 ∧ (opc = 0xB ∨ st ≠ 2 ∨ tf w 84 4 ≠ 0)) then m.vFatal clu v 0x0306 w 0xFFFF
    else
      let pm := m.vp clu v (tf w 89 3)
      let pmP := m.vpp clu v (tf w 89 3)
      let offs := vElems (m.vx clu v (tf w 92 5)) 32
      let ok (j : Nat) : Bool := laneOk wd g d.size (offs.getD j 0)
      let lanes := (List.range 64).filter (fun j => mbit pm (wd * j) || (mbit pmP (wd * j) && ok j))
      match (List.range 64).find? (fun j => mbit pm (wd * j) && !ok j) with
      | some j => m.vFatal clu v 0x0307 w j
      | none => f w wd lanes)

/-- VGATH at the head of the queue (R115, R117). -/
def Clus.vgath (m : Clus) (clu v : Nat) : Clus :=
  m.gatherGo clu v 0xB (fun w wd lanes =>
    let st := tf w 122 2
    let r := tf w 118 4
    let g := tf w 102 16
    let job := m.jobOn clu
    let offs := vElems (m.vx clu v (tf w 92 5)) 32
    let pIdx := m.vxp clu v (tf w 92 5)
    let pmP := m.vpp clu v (tf w 89 3)
    let vt := tf w 97 5
    let (l, m) := lanes.foldl (fun (acc : List (Nat × List PB) × Clus) j =>
      let (x, _, m) := acc.2.readOp clu st r (256 * g + offs.getD j 0) wd (.own job) (2 + v)
      let x := if elemMark pIdx 32 j || mbit pmP (wd * j) then x.map (fun b => (b.1, true)) else x
      (acc.1 ++ [(j, x)], m)) ([], m)
    let m := m.popV clu v
    m.vWrite clu v w (fun m =>
      l.foldl (fun x p =>
        let bytes := List.replicate (wd * p.1) (0, false) ++ p.2
        let mask := maskOf ((List.range 256).map (fun i => decide (wd * p.1 ≤ i ∧ i < wd * p.1 + wd)))
        x.vxPutBytes clu v vt bytes mask) m))

/-- VSCAT at the head of the queue: lanes in ascending order, or ACCUMULATEs into the P-store (R115). -/
def Clus.vscat (m : Clus) (clu v : Nat) : Clus :=
  m.gatherGo clu v 0xC (fun w wd lanes =>
    let st := tf w 122 2
    let r := tf w 118 4
    let g := tf w 102 16
    let job := m.jobOn clu
    let offs := vElems (m.vx clu v (tf w 92 5)) 32
    let pIdx := m.vxp clu v (tf w 92 5)
    let pmP := m.vpp clu v (tf w 89 3)
    let src := m.vxPB clu v (tf w 97 5)
    let m := m.popV clu v
    lanes.foldl (fun x j =>
      let bytes := ((src.drop (wd * j)).take wd).map (fun b => (b.1, b.2 || elemMark pIdx 32 j || mbit pmP (wd * j)))
      let b := 256 * g + offs.getD j 0
      if tf w 88 1 = 1 then
        (x.accOp clu st r b [(word4 (bytes.map (·.1)), bytes.any (·.2))] false (.own job) (2 + v)).2.2
      else (x.writeOp clu st r b bytes (.own job) (2 + v)).2) m)

/-- VSYNC at the head of the queue (R116, R88). -/
def Clus.vsync (m : Clus) (clu v : Nat) : Clus :=
  m.vHead clu v 0xD (fun w =>
    let op := tf w 114 2
    if tf w 120 1 ≠ 0 ∨ tf w 16 82 ≠ 0 ∨ op = 3 then m.vFatal clu v 0x0306 w 0xFFFF
    else if op = 1 then (m.signal clu (tf w 116 4)).popV clu v
    else if op = 2 ∧ m.sync clu (tf w 116 4) < tf w 98 16 then
      { m with vc := { m.vc with waiting := kput m.vc.waiting false (vKey clu v) true } }
    else m.popV clu v)

/-- A V-core's VSYNC WAIT whose counter has reached its value completes. -/
def Clus.vResume (m : Clus) (clu v : Nat) : Clus :=
  match m.vQueue clu v with
  | w :: _ =>
    if kget m.vc.waiting false (vKey clu v) ∧ opcOf w = 0xD ∧ tf w 98 16 ≤ m.sync clu (tf w 116 4) then m.popV clu v
    else m
  | [] => m

/-- Departure at a V-core: the queue is empty, and a halted pair restarts (R128). -/
def Clus.vDepart (m : Clus) (clu v : Nat) : Clus :=
  let m := m.newVHead clu v []
  { m with vc := { m.vc with halted := kput m.vc.halted false (vKey clu v) false } }

/-! ## The commands -/

/-- VOP (R109). -/
def execVop (c : Clu) (v : Fin 2) (s : State) : Out := .next (s.onClus (·.vop c.val v.val))
/-- VLD (R114). -/
def execVld (c : Clu) (v : Fin 2) (s : State) : Out := .next (s.onClus (·.vld c.val v.val))
/-- VST (R114). -/
def execVst (c : Clu) (v : Fin 2) (s : State) : Out := .next (s.onClus (·.vst c.val v.val))
/-- VGATH (R115). -/
def execVgath (c : Clu) (v : Fin 2) (s : State) : Out := .next (s.onClus (·.vgath c.val v.val))
/-- VSCAT (R115). -/
def execVscat (c : Clu) (v : Fin 2) (s : State) : Out := .next (s.onClus (·.vscat c.val v.val))
/-- VSYNC (R116). -/
def execVsync (c : Clu) (v : Fin 2) (s : State) : Out := .next (s.onClus (·.vsync c.val v.val))

end Sys2Proof.Machine
end

