-- ==== Sys2Proof/Machine/Messages.lean ====
section
/-!
DEFINITION. Message channels, platform rings and the Porter (R238–R253): channel descriptors, sending, arrival and
placement, dispatch, stalls and the drop notices.
-/
namespace Sys2Proof.Machine

/-! ## S-cores: plain accessors -/

/-- An S-core with nothing to run. -/
def idleCore : SCore := ⟨.idle, false, 0, 0, 0, .none, true, 0, false, [], [], none⟩
/-- The S-core of a cluster. -/
def Clus.score (m : Clus) (clu : Nat) : SCore := kget m.sc.core idleCore clu
/-- Set the S-core of a cluster. -/
def Clus.setScore (m : Clus) (clu : Nat) (x : SCore) : Clus :=
  { m with sc := { m.sc with core := kput m.sc.core idleCore clu x } }
/-- Integer register r of a bank; x0 reads 0. -/
def Clus.xReg (m : Clus) (clu bank r : Nat) : W64 :=
  if r = 0 then 0 else kget m.sc.x 0 (64 * clu + 32 * bank + r)
/-- Set integer register r of a bank; x0 ignores writes. -/
def Clus.setXReg (m : Clus) (clu bank r : Nat) (v : W64) : Clus :=
  if r = 0 then m else { m with sc := { m.sc with x := kput m.sc.x 0 (64 * clu + 32 * bank + r) v } }

/-! ## Channels -/

/-- Physical die that a die position's DIE_MAP in force gives a logical die (R211, R223). -/
def Core.dieMap (c : Core) (g l : Nat) : Option Nat :=
  let bank := c.fld (pagePts g) 0x40 31 1
  let b := bitsAt (c.rd (pagePts g) (0x100 + 0x80 * bank + l / 4 * 4)) (8 * (l % 4)) 8
  if l < 96 ∧ 128 ≤ b then some (b % 128) else none

/-- Logical die of a physical die in the DIE_MAP in force there; 127 where none maps to it. -/
def Core.logicalDie (c : Core) (g : Nat) : Nat :=
  ((List.range 96).find? (fun l => c.dieMap g l == some g)).getD 127

/-- Offset of a channel's descriptor. -/
def chanOff (n : Nat) : Nat := 0x100 + 32 * n
/-- OPEN. -/
def Core.chOpen (c : Core) (clu n : Nat) : Bool := bitAt (c.rd (pageMsg clu) (chanOff n)) 31
/-- DIR: true for a receive channel. -/
def Core.chRecv (c : Core) (clu n : Nat) : Bool := bitAt (c.rd (pageMsg clu) (chanOff n)) 30
/-- JOB of a channel. -/
def Core.chJob (c : Core) (clu n : Nat) : Nat := c.fld (pageMsg clu) (chanOff n) 26 4
/-- Ring base, bytes of local data memory. -/
def Core.chBase (c : Core) (clu n : Nat) : Nat := 64 * c.fld (pageMsg clu) (chanOff n + 8) 16 12
/-- Ring size, bytes. -/
def Core.chSize (c : Core) (clu n : Nat) : Nat := 64 * c.fld (pageMsg clu) (chanOff n + 8) 0 11
/-- WR. -/
def Core.chWr (c : Core) (clu n : Nat) : Nat := c.fld (pageMsg clu) (chanOff n + 20) 0 16
/-- RD. -/
def Core.chRd (c : Core) (clu n : Nat) : Nat := c.fld (pageMsg clu) (chanOff n + 24) 0 16
/-- WRAP. -/
def Core.chWrap (c : Core) (clu n : Nat) : Bool := bitAt (c.rd (pageMsg clu) (chanOff n + 20)) 31
/-- Set WR, RD and WRAP. -/
def Core.setRing (c : Core) (clu n wr rd : Nat) (wrap : Bool) : Core :=
  (c.wr (pageMsg clu) (chanOff n + 20) (BitVec.ofNat 32 (wr % 65536 + (if wrap then 2 ^ 31 else 0)))).wr
    (pageMsg clu) (chanOff n + 24) (BitVec.ofNat 32 (rd % 65536))
/-- Occupied bytes U of a ring (R245). -/
def Core.chUsed (c : Core) (clu n : Nat) : Nat :=
  let wr := c.chWr clu n
  let rd := c.chRd clu n
  let sz := c.chSize clu n
  if sz = 0 then 0 else if wr = rd then (if c.chWrap clu n then sz else 0) else (wr + sz - rd) % sz
/-- Offset of a channel's counts. -/
def cntOff (n : Nat) : Nat := 0x500 + 16 * n

/-- Last four detail bytes of a message event (R252). -/
def msgLast4 (ch die region slot : Nat) : Nat := ch % 256 + die % 256 * 256 + (region * 4 + slot) % 8 * 65536

/-- Whether a slot of a job, or the pilot of one, is departed on a cluster or due for replay there (R238, R359). -/
def Clus.jobThere (m : Clus) (clu job : Nat) : Bool :=
  let on (r : Option SlotRun) : Bool := match r with
    | some r => decide (r.clu = clu ∧ entJob r.words = job)
    | none => false
  (List.range 4).any (fun i => on (m.run (clu / 5) i)) || on (m.pilot (clu / 5))

/-- CHANNEL_WRITE: the block post opens, closes or changes a channel, or the write is dropped (R238). -/
def Clus.channelWrite (m : Clus) (clu n : Nat) (ws : List W32) : Clus :=
  let c := m.core
  let g (i mask : Nat) : W32 := ws.getD i 0 &&& BitVec.ofNat 32 mask
  let w0 := g 0 0xFC000000
  let w2 := g 2 0x0FFF07FF
  let openN := bitAt w0 31
  let recvN := bitAt w0 30
  let base := 64 * bitsAt w2 16 12
  let size := 64 * bitsAt w2 0 11
  let busy := m.jobThere clu (c.chJob clu n) || m.jobThere clu (bitsAt w0 26 4)
  let overlap := openN && recvN && (List.range 32).any (fun k =>
    decide (k ≠ n) && c.chOpen clu k && c.chRecv clu k && rangesMeet base size (c.chBase clu k) (c.chSize clu k))
  let outside := openN && recvN && decide (2 ^ 18 < base + size ∨ size = 0 ∨ 65536 < size)
  let changes := c.chOpen clu n && openN &&
    decide (c.chRecv clu n ≠ recvN ∨ c.chBase clu n ≠ base ∨ c.chSize clu n ≠ size)
  if busy || overlap || outside || changes then
    m.onCore (fun c => (c.record (pageMsg clu) 0x0808 sevInfo (bitsAt w0 26 4) (placeUnit clu 10 0)
      (detail41 0x0808 0xFF 0xFF 0 0 0 0 (msgLast4 n 0 0 0))).setErr (pageMsg clu) 0)
  else
    let opening := openN && recvN && !c.chOpen clu n
    let closing := c.chOpen clu n && !openN
    m.onCore (fun c =>
      let p := pageMsg clu
      let o := chanOff n
      let c := ((((c.wr p o w0).wr p (o + 4) (g 1 0xFFFE0000)).wr p (o + 8) w2).wr p (o + 12) (g 3 0x1FFFF)).wr
        p (o + 16) (g 4 0xFFFFFFFF)
      if opening then c.setRing clu n 0 0 false
      else if closing then c.setRing clu n (c.chWr clu n) (c.chWr clu n) false
      else c)

/-- Close a channel and discard its records (R128, R250). -/
def Clus.closeChannel (m : Clus) (clu n : Nat) : Clus :=
  m.onCore (fun c => (c.setFld (pageMsg clu) (chanOff n) 31 1 0).setRing clu n (c.chWr clu n) (c.chWr clu n) false)

/-- Close every channel of a job on a cluster (R128). -/
def Clus.closeJob (m : Clus) (clu job : Nat) : Clus :=
  iter 32 (fun n x => if x.core.chOpen clu n && decide (x.core.chJob clu n = job) then x.closeChannel clu n else x) m

/-! ## Faults of a program or handler (R128) -/

/-- Job that executes on the S-core: the channel's in handler mode, else the slot's. -/
def Clus.sJob (m : Clus) (clu : Nat) : Nat :=
  if (m.score clu).mode = .handler then m.core.chJob clu (m.score clu).hch else m.jobOn clu

/-- An event that faults the job executing on the S-core. A handler's fault is charged to its channel's job: a
running slot of another job fails with a CHECK cause that is never the first of two, and the block post closes the
job's channels on the cluster (R128). -/
def Clus.sCharge (m : Clus) (clu page code place last4 : Nat) : Clus :=
  if (m.score clu).mode = .handler then
    let j := m.core.chJob clu (m.score clu).hch
    let m := m.onCore (·.record page code sevCont j place (m.detail clu code 0 last4))
    match m.runOrPilot clu with
    | some (_, r) =>
      if entJob r.words = j then m.fail clu (fatalCause code)
      else ((m.fail clu ⟨code, .check, 0, false, true, false⟩).faultJob j code).closeJob clu j
    | none => (m.faultJob j code).closeJob clu j
  else m.fatalEvent clu page code place last4

/-! ## Sending (R239–R241) -/

/-- Destination of a send channel: physical die, region, logical slot, channel (R239). -/
def Core.chDest (c : Core) (clu n : Nat) : Option (Nat × Nat × Nat × Nat) :=
  let w := c.rd (pageMsg clu) (chanOff n + 4)
  match c.dieMap (clu / 10) (bitsAt w 25 7) with
  | some d => some (d, bitsAt w 24 1, bitsAt w 22 2, bitsAt w 17 5)
  | none => none

/-- Whether a send may use the channel (R240). -/
def Clus.sendOk (m : Clus) (clu n : Nat) : Bool :=
  m.core.chOpen clu n && !m.core.chRecv clu n && decide (m.core.chJob clu n = m.sJob clu) &&
    (m.core.chDest clu n).isSome

/-- The message a send makes (R239, R244). -/
def Clus.mkMessage (m : Clus) (clu n : Nat) (ws : List W32) : Message :=
  let (d, r, sl, ch) := (m.core.chDest clu n).getD (0, 0, 0, 0)
  let run := m.runOn clu
  { dstDie := ⟨d % 96, Nat.mod_lt _ (by decide)⟩, dstRegion := ⟨r % 2, Nat.mod_lt _ (by decide)⟩,
    dstSlot := ⟨sl % 4, Nat.mod_lt _ (by decide)⟩, dstCh := ⟨ch % 32, Nat.mod_lt _ (by decide)⟩,
    srcClu := ⟨clu % 960, Nat.mod_lt _ (by decide)⟩, srcCh := ⟨n % 32, Nat.mod_lt _ (by decide)⟩,
    job := ⟨m.core.chJob clu n % 16, Nat.mod_lt _ (by decide)⟩,
    srcSlot := ⟨(run.elim 0 (·.1)) % 4, Nat.mod_lt _ (by decide)⟩,
    srcRegion := if run.isSome then ⟨clu / 5 % 2, Nat.mod_lt _ (by decide)⟩ else 0,
    srcDie := BitVec.ofNat 7 (m.core.logicalDie (clu / 10)),
    attempt := BitVec.ofNat 4 (run.elim 0 (fun x => min 15 x.2.attempt)),
    entry := BitVec.ofNat 12 (run.elim 0 (fun x => x.2.entry)),
    otick := BitVec.ofNat 16 (run.elim 0 (fun x => x.2.otick.toNat)), words := ws }

/-- Cluster a message reaches through the slot map in force (R239). -/
def Core.msgDest (c : Core) (x : Message) : Nat := c.cluOf (2 * x.dstDie.val + x.dstRegion.val) x.dstSlot.val

/-- Outbound buffer of a cluster. -/
def Clus.outBuf (m : Clus) (clu : Nat) : List Message := kget m.msg.out [] clu
/-- Set an outbound buffer. -/
def Clus.setOut (m : Clus) (clu : Nat) (l : List Message) : Clus :=
  { m with msg := { m.msg with out := kput m.msg.out [] clu l } }

/-- Whether a Porter holds SIG2 back: it holds a message and its cluster is not fenced, which would release the credits (R241,
R246). -/
def Clus.sig2Held (m : Clus) (clu : Nat) : Bool := decide (kget m.msg.held [] clu ≠ []) && !m.core.fenced clu

/-- Messages leave the outbound buffer in order while their Porters hold none (R241; log entry 12). -/
def Clus.drainOut (m : Clus) (clu : Nat) : Nat → Clus
  | 0 => m
  | f + 1 =>
    match m.outBuf clu with
    | [] => m
    | x :: r =>
      if m.sig2Held (m.core.msgDest x) = false then
        let m := m.setOut clu r
        ({ m with msg := { m.msg with fly := m.msg.fly ++ [x] } }).drainOut clu f
      else m

/-- Put a message into the outbound buffer (R241). A pilot's send is compared and not sent (R239). -/
def Clus.sendMsg (m : Clus) (clu n : Nat) (ws : List W32) : Clus :=
  let x := m.mkMessage clu n ws
  let m := m.addDig clu ([3, n] ++ ws.map (·.toNat))
  if m.isPilot clu then m
  else
    let m := m.onCore (·.incWrap (pageMsg clu) (cntOff n) 1)
    (m.setOut clu (m.outBuf clu ++ [x])).drainOut clu 4

/-- Whether the outbound buffer is full (R241). -/
def Clus.outFull (m : Clus) (clu : Nat) : Bool := !m.isPilot clu && decide (4 ≤ (m.outBuf clu).length)

/-! ## Arrival (R244–R246) -/

/-- Bytes of a record (R244). -/
def recBytes (x : Message) : List Byte :=
  let n := x.words.length
  let w0 := 2 ^ 28 + (n - 1) % 8 * 2 ^ 25 + x.srcCh.val * 2 ^ 20 + x.job.val * 2 ^ 16 + x.srcSlot.val * 2 ^ 14 +
    x.srcRegion.val * 2 ^ 13 + x.srcDie.toNat * 2 ^ 6
  let w1 := x.attempt.toNat * 2 ^ 28 + x.entry.toNat * 2 ^ 16 + x.otick.toNat
  let body := (x.words.map bytes4).flatten
  leBytes 4 w0 ++ leBytes 4 w1 ++ body ++ (if n % 2 = 1 then List.replicate 4 0 else [])

/-- Place a record in a ring: none where it must be held (R245). -/
def Clus.ringPlace (m : Clus) (clu n : Nat) (bs : List Byte) : Option Clus :=
  let c := if m.core.chUsed clu n = 0 then m.core.setRing clu n 0 0 false else m.core
  let sz := c.chSize clu n
  let wr := c.chWr clu n
  let rd := c.chRd clu n
  let u := c.chUsed clu n
  let wrap := c.chWrap clu n
  let r := bs.length
  let base := dmemBase clu + c.chBase clu n
  let put (c : Core) (at_ : Nat) (wp : Bool) : Core :=
    let c := c.winWr (base + at_) bs
    if sz ≤ at_ + r then c.setRing clu n 0 rd (!wp) else c.setRing clu n (at_ + r) rd wp
  let done (c : Core) : Clus :=
    let c := c.incWrap (pageMsg clu) (cntOff n) 1
    let m := { m with core := c }
    { m with sc := { m.sc with dpoi := kclear m.sc.dpoi (8192 * clu + (c.chBase clu n + wr) / 32) (r / 32 + 1) } }
  if sz = 0 then none
  else if rd < wr ∨ u = 0 then
    if r ≤ sz - wr then some (done (put c wr wrap))
    else if r ≤ rd then
      let c := c.winWr (base + wr) (leBytes 4 (2 ^ 29) ++ List.replicate 4 0)
      let c := c.incSat (pageMsg clu) (cntOff n + 8) 1
      some (done (put c 0 (!wrap)))
    else none
  else if u < sz ∧ r ≤ rd - wr then some (done (put c wr wrap))
  else none

/-- Messages held at a Porter. -/
def Clus.heldAt (m : Clus) (clu : Nat) : List Message := kget m.msg.held [] clu
/-- Set the messages held at a Porter. -/
def Clus.setHeld (m : Clus) (clu : Nat) (l : List Message) : Clus :=
  { m with msg := { m.msg with held := kput m.msg.held [] clu l } }

/-- Send a notice on SIG0 to the timetable unit of a message's sender (R246). -/
def Clus.dropMsg (m : Clus) (x : Message) (cause : Nat) (inj : Bool := false) : Clus :=
  { m with msg := { m.msg with notices := m.msg.notices ++
    [{ rgn := ⟨x.srcClu.val / 5 % 192, Nat.mod_lt _ (by decide)⟩, slot := x.srcSlot, job := x.job,
       cause := BitVec.ofNat 16 cause, inj := inj }] } }

/-- Whether the receiving channel takes a message (R246). -/
def Core.chTakes (c : Core) (clu : Nat) (x : Message) : Bool :=
  c.chOpen clu x.dstCh.val && c.chRecv clu x.dstCh.val && decide (c.chJob clu x.dstCh.val = x.job.val)

/-- A message is held at a Porter that held none, from this cycle on (R245). -/
def Clus.holdMsg (m : Clus) (clu : Nat) (x : Message) : Clus :=
  let m := m.setHeld clu [x]
  { m with msg := { m.msg with heldAt := kput m.msg.heldAt 0 clu m.core.cycle } }

/-- A dropped message counts in REFUSED of its channel (R239, R246). -/
def Clus.countRefused (m : Clus) (clu : Nat) (x : Message) : Clus :=
  m.onCore (·.incSat (pageMsg clu) (cntOff x.dstCh.val + 12) 1)

/-- The pilot's copy of a message (R239): placed if it fits, discarded and counted where the channel refuses it. -/
def Clus.pilotCopy (m : Clus) (rg slot : Nat) (x : Message) : Clus :=
  let map := m.core.slotMap rg
  if mapPilotEn map && decide (mapPilotOf map = slot) then
    let rc := m.core.reliefOf rg
    if m.core.chTakes rc x then
      if m.heldAt rc ≠ [] then m.setHeld rc (m.heldAt rc ++ [x])
      else (m.ringPlace rc x.dstCh.val (recBytes x)).getD (m.holdMsg rc x)
    else m.countRefused rc x
  else m

/-- Whether a message is the oldest in flight between its two message units, which deliver in send order (R241). -/
def Clus.msgNext (m : Clus) (x : Message) : Bool :=
  match m.msg.fly.find? (fun y => decide (y.srcClu = x.srcClu) && decide (m.core.msgDest y = m.core.msgDest x)) with
  | some y => decide (y = x)
  | none => false

/-- MSG_FOREIGN: the message is discarded, counted and its sender noticed (R246). -/
def Clus.refuseMsg (m : Clus) (clu : Nat) (x : Message) : Clus :=
  ((m.onCore (·.record (pageMsg clu) 0x0804 sevCont x.job.val (placeUnit clu 10 0)
    (detail41 0x0804 0xFF 0xFF 0 0 0 0 (msgLast4 x.dstCh.val x.srcDie.toNat x.srcRegion.val x.srcSlot.val)))).countRefused
      clu x).dropMsg x 0x0804

/-- MSG_FENCED_DROP: the message is discarded at a fenced cluster, counted and its sender noticed (R246, R253). -/
def Clus.fencedDrop (m : Clus) (clu : Nat) (x : Message) (inj : Bool) : Clus :=
  ((m.onCore (fun c => (c.setFld (pageMsg clu) 0x28 0 1 0).note (pageMsg clu) 0x0805 sevCause x.job.val
    (detail41 0x0805 0xFF 0xFF 0 0 0 0 (msgLast4 x.dstCh.val x.srcDie.toNat x.srcRegion.val x.srcSlot.val)))).countRefused
      clu x).dropMsg x 0x0805 inj

/-- MESSAGE_ARRIVE: a message of SIG2 reaches the receiving message unit (R239, R241, R245, R246, R253). At a fenced cluster
every message is dropped; behind a held one it waits on SIG2, whatever its channel. -/
def Clus.messageArrive (m : Clus) (x : Message) : Clus :=
  if m.msgNext x = false then m
  else
    let clu := m.core.msgDest x
    let m1 := { m with msg := { m.msg with fly := dropFirst (· == x) m.msg.fly } }
    let inj := bitAt (m.core.rd (pageMsg clu) 0x28) 0
    if m.core.fenced clu then m1.fencedDrop clu x inj
    else if m.sig2Held clu then m
    else if inj then m1.fencedDrop clu x true
    else if m.core.chTakes clu x = false then m1.refuseMsg clu x
    else
      let m2 := m1.pilotCopy (clu / 5) x.dstSlot.val x
      (m2.ringPlace clu x.dstCh.val (recBytes x)).getD (m2.holdMsg clu x)

/-- Every outbound buffer drains as its destination's Porter frees (R241). -/
def Clus.drainAll (m : Clus) : Clus := (m.msg.out.map (·.1)).foldl (fun x clu => x.drainOut clu 4) m

/-- HELD_MESSAGE_PLACE: the Porter repeats the test for its held message (R245). On a fenced cluster it stays in the message
unit (R246); a pilot's copy that its channel no longer takes is only counted (R239). -/
def Clus.heldPlace (m : Clus) (clu : Nat) : Clus :=
  match m.heldAt clu with
  | [] => m
  | x :: r =>
    if m.core.fenced clu then m
    else if m.core.chTakes clu x then
      match m.ringPlace clu x.dstCh.val (recBytes x) with
      | some m1 =>
        let m1 := m1.onCore (·.incSat (pageMsg clu) (cntOff x.dstCh.val + 4)
          (m.core.cycle - kget m.msg.heldAt 0 clu))
        (m1.setHeld clu r).drainAll
      | none => m
    else ((if m.core.pilots clu then m.countRefused clu x else m.refuseMsg clu x).setHeld clu r).drainAll

/-- DROP_NOTICE: the notice reaches the sender's timetable unit (R246). -/
def Clus.dropNotice (m : Clus) (n : Notice) : Clus :=
  let m := { m with msg := { m.msg with notices := dropFirst (· == n) m.msg.notices } }
  let gone : Clus := if n.cause = 0x0804 then m.faultJob n.job.val 0x0804 else m
  match m.run n.rgn.val n.slot.val with
  | some r =>
    if r.due = false ∧ entJob r.words = n.job.val then
      m.fail r.clu (if n.cause = 0x0804 then fatalCause 0x0804 else checkCause n.cause.toNat n.inj)
    else gone
  | none => gone

/-! ## The Porter (R247–R250) -/

/-- Bytes of the record at RD, and its header's KIND and LEN. -/
def Core.ringHead (c : Core) (clu n : Nat) : Nat × Nat × Nat :=
  let a := dmemBase clu + c.chBase clu n + c.chRd clu n
  let w := leNat (c.winRds a 4)
  let len := w / 2 ^ 25 % 8
  (w / 2 ^ 28, len, 8 + 8 * ((len + 2) / 2))

/-- Advance RD by k bytes, flipping WRAP on passing the end. -/
def Core.ringPop (c : Core) (clu n k : Nat) : Core :=
  let rd := c.chRd clu n
  if c.chSize clu n ≤ rd + k then c.setRing clu n (c.chWr clu n) 0 (!c.chWrap clu n)
  else c.setRing clu n (c.chWr clu n) (rd + k) (c.chWrap clu n)

/-- Next channel with unread records after the one last served (R247). -/
def Clus.nextChannel (m : Clus) (clu : Nat) : Option Nat :=
  let l := kget m.msg.last 31 clu
  ((List.range 32).map (fun i => (l + 1 + i) % 32)).find? (fun n =>
    m.core.chOpen clu n && m.core.chRecv clu n && decide (0 < m.core.chUsed clu n))

/-- MSG_RING_CORRUPT (R250). -/
def Clus.ringCorrupt (m : Clus) (clu n : Nat) : Clus :=
  let j := m.core.chJob clu n
  let m := m.onCore (·.record (pageMsg clu) 0x0806 sevCont j (placeUnit clu 10 0)
    (m.detail clu 0x0806 0 (msgLast4 n 0 0 0)))
  let m := match m.runOrPilot clu with
    | some (_, r) => m.fail clu (if entJob r.words = j then fatalCause 0x0806 else progCause 0x0806)
    | none => m
  (m.closeChannel clu n).faultJob j

/-- Enter handler mode for the record at RD of channel n (R248). -/
def Clus.enterHandler (m : Clus) (clu n : Nat) : Clus :=
  let c := m.core
  let a0 := 0x100000 + c.chBase clu n + c.chRd clu n + 8
  let (_, len, _) := c.ringHead clu n
  let first := leNat (c.winRds (dmemBase clu + c.chBase clu n + c.chRd clu n + 8) 4)
  let s := m.score clu
  let m := m.setScore clu { s with mode := .handler, progOn := decide (s.mode = .program),
                                   pc1 := c.fld (pageMsg clu) (chanOff n + 12) 0 17, hch := n }
  let m := { m with msg := { m.msg with last := kput m.msg.last 31 clu n } }
  (((m.setXReg clu 1 2 (BitVec.ofNat 64 (c.rd (pageMsg clu) (chanOff n + 16)).toNat)).setXReg clu 1 10
    (BitVec.ofNat 64 a0)).setXReg clu 1 11 (BitVec.ofNat 64 (n + 32 * len))).setXReg clu 1 12 (BitVec.ofNat 64 first)

/-- HANDLER_DISPATCH: the Porter takes the next record (R247, R248, R250). -/
def Clus.dispatch (m : Clus) (clu : Nat) : Clus :=
  let s := m.score clu
  let sending := match s.wait with
    | .send _ _ => true
    | _ => false
  if s.mode = .handler ∨ s.mode = .halted ∨ sending = true ∨ m.core.fenced clu = true ∨ m.core.cycle < 64 ∨
      m.core.close0 ≤ m.core.cycle then m
  else match m.nextChannel clu with
  | none => m
  | some n =>
    let (kind, _, len) := m.core.ringHead clu n
    let rd := m.core.chRd clu n
    if kind = 2 ∧ rd ≠ 0 then
      let m := m.onCore (fun c => c.setRing clu n (c.chWr clu n) 0 (!c.chWrap clu n))
      if m.core.chUsed clu n = 0 then m
      else
        let (k2, _, l2) := m.core.ringHead clu n
        if k2 = 1 ∧ l2 ≤ m.core.chSize clu n then m.enterHandler clu n else m.ringCorrupt clu n
    else if kind = 1 ∧ rd + len ≤ m.core.chSize clu n then m.enterHandler clu n
    else m.ringCorrupt clu n

/-! ## Stalls (R242) -/

/-- Whether a cluster's program is stalled in a blocking send. -/
def Clus.sendStalled (m : Clus) (clu : Nat) : Bool :=
  match (m.score clu).wait with
  | .send _ _ => true
  | _ => false

/-- Physical destination of the stall that MSG_STALL_NOW shows. -/
def Clus.stallDest (m : Clus) (clu : Nat) : Nat := placeCluster (m.core.rd (pageMsg clu) 0x54).toNat

/-- The clusters on the chain of stalls from `clu`, ending where one repeats or is not stalled; the flag tells a
cycle, whose clusters are those from its first occurrence on (R242). -/
def Clus.stallChain (m : Clus) : Nat → Nat → List Nat → List Nat × Bool
  | 0, _, seen => (seen, false)
  | f + 1, clu, seen =>
    if seen.elem clu then (seen.dropWhile (fun x => x != clu), true)
    else if m.sendStalled clu then m.stallChain f (m.stallDest clu) (seen ++ [clu])
    else (seen, false)

/-- Last four detail bytes of a stalled cluster: the channel of its stall and that channel's peer (R252). -/
def Clus.stallLast4 (m : Clus) (clu : Nat) : Nat :=
  let ch := m.core.fld (pageMsg clu) 0x50 26 5
  let w := m.core.rd (pageMsg clu) (chanOff ch + 4)
  msgLast4 ch (bitsAt w 25 7) (bitsAt w 24 1) (bitsAt w 22 2)

/-- MSG_DEADLOCK for one job of a cycle of stalled clusters: its departed slot's fields, by the first of its clusters on the
cycle (R242, R252). -/
def Clus.deadlock (m : Clus) (l : List Nat) (j : Nat) : Clus :=
  match l.find? (fun c => decide (m.jobOn c = j)) with
  | none => m
  | some c => (m.onCore (·.record (pageMsg c) 0x0802 sevCont j (placeUnit c 10 0)
      (m.detail c 0x0802 0 (m.stallLast4 c)))).faultJob j 0x0802

/-- MSG_STALL: recorded once per stall; the block post follows the chain of stalls and breaks a cycle (R242). -/
def Clus.msgStall (m : Clus) (clu : Nat) : Clus :=
  let began := m.core.fld (pageMsg clu) 0x5C 16 16
  let lim := max 256 (m.core.rd (pageMsg clu) 0x44).toNat
  if m.sendStalled clu = false ∨ kget m.msg.stallRec false clu = true ∨ m.core.cycle < began + lim then m
  else
    let m := { m with msg := { m.msg with stallRec := kput m.msg.stallRec false clu true } }
    let m := m.onCore (·.record (pageMsg clu) 0x0801 sevInfo (m.jobOn clu) (placeUnit clu 10 0)
      (m.detail clu 0x0801 0 (m.stallLast4 clu)))
    let (l, cyc) := m.stallChain 961 clu []
    if cyc then
      let jobs := (l.map m.jobOn).eraseDups
      let m := l.foldl (fun x k => match x.runOn k with
        | some (_, r) => x.circAbort (k / 5) r.circ
        | none => x) m
      jobs.foldl (fun x j => x.deadlock l j) m
    else m

/-- MSG_CNT_CLR: zero every MSG_CNT. -/
def Clus.msgCntClr (m : Clus) (clu : Nat) : Clus := m.onCore (·.zero (pageMsg clu) 0x500 128)
/-- FENCE_DROP: arm the injection (R253). -/
def Clus.fenceDropArm (m : Clus) (clu : Nat) : Clus := m.onCore (·.setFld (pageMsg clu) 0x28 0 1 1)

/-! ## The commands -/

/-- CHANNEL_WRITE (R238). -/
def execChannelWrite (c : Clu) (n : Fin 32) (ws : List W32) (s : State) : Out :=
  .next (s.onClus (·.channelWrite c.val n.val ws))
/-- MESSAGE_ARRIVE (R245). -/
def execMessageArrive (x : Message) (s : State) : Out := .next (s.onClus (·.messageArrive x))
/-- HELD_MESSAGE_PLACE (R245). -/
def execHeldMessagePlace (c : Clu) (s : State) : Out := .next (s.onClus (·.heldPlace c.val))
/-- DROP_NOTICE (R246). -/
def execDropNotice (n : Notice) (s : State) : Out := .next (s.onClus (·.dropNotice n))
/-- HANDLER_DISPATCH (R247). -/
def execHandlerDispatch (c : Clu) (s : State) : Out := .next (s.onClus (·.dispatch c.val))
/-- MSG_STALL (R242). -/
def execMsgStall (c : Clu) (s : State) : Out := .next (s.onClus (·.msgStall c.val))
/-- MSG_CNT_CLR (R252). -/
def execMsgCntClr (c : Clu) (s : State) : Out := .next (s.onClus (·.msgCntClr c.val))
/-- FENCE_DROP (R253). -/
def execFenceDrop (c : Clu) (s : State) : Out := .next (s.onClus (·.fenceDropArm c.val))

end Sys2Proof.Machine
end

