-- ==== Sys2Proof/Machine/Tablets.lean ====
section
/-!
DEFINITION. Tablets (R228–R235, R305): tablet words, ARRIVE, SET, READ and WAIT on the four pools, through-tablet
registration, withdrawal and re-binding, and a pilot's matched operations (R233).
-/
namespace Sys2Proof.Machine

/-- COUNT of a tablet word at (page, offset). -/
def Core.tbCount (c : Core) (page off : Nat) : Nat := c.fld page (off + 4) 0 16
/-- GEN. -/
def Core.tbGen (c : Core) (page off : Nat) : Nat := c.fld page (off + 4) 16 16
/-- TARGET. -/
def Core.tbTarget (c : Core) (page off : Nat) : Nat := c.fld page off 16 16
/-- JOB. -/
def Core.tbJob (c : Core) (page off : Nat) : Nat := c.fld page off 12 4
/-- VALID. -/
def Core.tbValid (c : Core) (page off : Nat) : Bool := bitAt (c.rd page off) 11
/-- Set COUNT and GEN. -/
def Core.setTb (c : Core) (page off count gen : Nat) : Core :=
  c.wr page (off + 4) (BitVec.ofNat 32 (count % 65536 + gen % 65536 * 65536))
/-- SET (R228): TARGET written, COUNT zero, GEN unchanged. -/
def Core.tbSet (c : Core) (page off target : Nat) : Core :=
  (c.setTb page off 0 (c.tbGen page off)).setFld page off 16 16 target

/-- Offset of a die tablet node's local tablet. -/
def localTbOff (region i : Nat) : Nat := (if region = 0 then 0x100 else 0x300) + 8 * i
/-- Offset of a die tablet. -/
def dieTbOff (i : Nat) : Nat := 0x500 + 8 * i
/-- Offset of a through tablet in the root page. -/
def thruOff (i : Nat) : Nat := 0x100 + 8 * i
/-- Offset of a line tablet in the root page. -/
def lineOff (i : Nat) : Nat := 0x300 + 8 * i

/-- Physical through tablet bound to a job's logical index for the tick (R231). -/
def Core.boundThru (c : Core) (job idx : Nat) : Option Nat :=
  (List.range 30).find? (fun i =>
    let w := c.rd pageRoot (0x200 + 4 * i)
    bitAt w 31 && decide (bitsAt w 27 4 = job ∧ bitsAt w 22 5 = idx))

/-- Where a tablet operand of R122 leads for a job's operation at the S-core of a cluster: (page, offset), or the event that
suppresses the operation (R229, R232). -/
def Clus.tabLocFor (m : Clus) (clu job t : Nat) : Except Nat (Nat × Nat) :=
  let g := clu / 10
  let i := t % 64
  match t / 64 % 4 with
  | 0 =>
    let o := localTbOff (clu / 5 % 2) i
    if m.core.tbValid (pageTb g) o && decide (m.core.tbJob (pageTb g) o = job) then .ok (pageTb g, o) else .error 0x0701
  | 1 =>
    let o := dieTbOff i
    if decide (i < 32) && m.core.tbValid (pageTb g) o && decide (m.core.tbJob (pageTb g) o = job) then
      .ok (pageTb g, o) else .error 0x0701
  | 2 =>
    let named := match m.runOrPilot clu with
      | some (_, r) => decide (i < 32) && decide (entThrough r.words / 2 ^ i % 2 = 1) && decide (entJob r.words = job)
      | none => false
    if named then
      match m.core.boundThru job i with
      | some p => .ok (pageRoot, thruOff p)
      | none => .error 0x0703
    else .error 0x0703
  | _ =>
    let o := lineOff i
    if decide (i < 6) && m.core.tbValid pageRoot o && decide (m.core.tbJob pageRoot o = job) then .ok (pageRoot, o)
    else .error 0x0703

/-- Where an operand leads for the mode in use: the program's job, or the running handler's. -/
def Clus.tabLoc (m : Clus) (clu t : Nat) : Except Nat (Nat × Nat) := m.tabLocFor clu (m.sJob clu) t
/-- Whether an operand of a cluster's program is the tablet at (page, off), a handler running or not. -/
def Clus.progTab (m : Clus) (clu t page off : Nat) : Bool :=
  match m.tabLocFor clu (m.jobOn clu) t with
  | .ok loc => decide (loc = (page, off))
  | .error _ => false

/-- Whether (page, offset) is a through tablet. -/
def isThru (page off : Nat) : Bool := decide (page = pageRoot ∧ 0x100 ≤ off ∧ off < 0x200)
/-- Whether (page, offset) is a line tablet. -/
def isLine (page off : Nat) : Bool := decide (page = pageRoot ∧ 0x300 ≤ off ∧ off < 0x340)

/-- Event of a suppressed tablet operation (R229, R232, R236). -/
def Clus.tabFault (m : Clus) (clu t code op : Nat) : Clus :=
  let root : Bool := decide (2 ≤ t / 64 % 4)
  let page := if root then pageRoot else pageTb (clu / 10)
  let place := if root then placeEdge 0 8 0 else placeDie (clu / 10) 0
  m.sCharge clu page code place (clu / 10 + (clu % 10) * 256 + t % 256 * 65536 + op * 2 ^ 24)

/-- Move an S-core's program PC on by one instruction of 4 bytes. -/
def Clus.pc0Next (m : Clus) (clu : Nat) : Clus :=
  let s := m.score clu
  m.setScore clu { s with pc0 := s.pc0 + 4 }

/-- Keep a joined generation: at most four tablets per tick (R228). -/
def keepJoined (l : List (Nat × Nat)) (t gen : Nat) : List (Nat × Nat) :=
  ((t, gen) :: l.filter (fun e => e.1 != t)).take 4

/-! ## S-core: register writes and halts (R126, R128, R130)

A tablet operation that completes at a stalled S-core writes a register there. An armed LS_FLIP makes that write mismatch,
which halts the pair; the halt withdraws its slot from through tablets, which may complete further operations. The
operations below therefore take what a mismatch does as an argument, and `Clus.sTrip` ties the knot: every mismatch of
the chain clears one armed bit, so 960 steps are enough. -/

/-- PC of the mode in use. -/
def Clus.sPc (m : Clus) (clu : Nat) : Nat :=
  if (m.score clu).mode = .handler then (m.score clu).pc1 else (m.score clu).pc0

/-- Capture of the first fault of an S-core (VS_SFAULT_CAP). -/
def Clus.sCapture (m : Clus) (clu code addr : Nat) : Clus :=
  let p := pageS clu
  if bitAt (m.core.rd p 0x8C) 31 then m
  else m.onCore (·.wrs p 0x80 [m.core.tickLo, m.capWord clu 0,
    BitVec.ofNat 32 (code + (if (m.score clu).mode = .handler then 65536 else 0)),
    BitVec.ofNat 32 (2 ^ 31 + m.sPc clu % 2 ^ 17), BitVec.ofNat 32 addr, 0])

/-- What a lockstep mismatch of a cluster's S-core does. -/
abbrev Trip := Clus → Nat → Clus

/-- A register write of an S-core, after which `f` follows: an armed LS_FLIP makes the pair mismatch instead (R126, R130). -/
def Clus.regWrite (m : Clus) (trip : Trip) (clu bank rd : Nat) (v : W64) (f : Clus → Clus) : Clus :=
  if rd ≠ 0 ∧ bitAt (m.core.rd (pageS clu) 0x28) 0 = true then trip (m.onCore (·.setFld (pageS clu) 0x28 0 1 0)) clu
  else f (m.setXReg clu bank rd v)

/-- Digest item of a tablet operation: its kind, its operand and the value of a TBSET (R361). -/
def tabItem (kind t x : Nat) : List Nat := [4, kind, t] ++ (if kind = 2 then [x] else [])

/-- A pilot's tablet operation completes with its match's result; `h` tells a handler's, and `x` is the destination register
or the value of a TBSET (R233). -/
def Clus.pilotDone (m : Clus) (trip : Trip) (clu : Nat) (h : Bool) (kind t x result : Nat) : Clus :=
  let key := 2 * (clu / 5) + b2n h
  let m := { m with tab := { m.tab with plog := kput m.tab.plog 0 key (kget m.tab.plog 0 key + 1) } }
  let m := m.addDig clu (tabItem kind t x)
  m.regWrite trip clu (b2n h) (if kind = 1 ∨ kind = 3 then x else 0) (BitVec.ofNat 64 result) (fun m =>
    let s := m.score clu
    let s := { s with joined := if kind = 0 then keepJoined s.joined t result else s.joined }
    m.setScore clu (if h then { s with hop := none, pc1 := s.pc1 + 4 } else { s with wait := .none, pc0 := s.pc0 + 4 }))

/-- The pilot's tablet operation that waits at a cluster: the handler's, or the program's. -/
def SCore.pilotWait (s : SCore) (h : Bool) : Option (Nat × Nat × Nat) :=
  if h then s.hop
  else match s.wait with
    | .pilotOp kind t x => some (kind, t, x)
    | _ => none

/-- Log a completed tablet operation of a slot's program, or of a handler on its cluster (`h`), which completes the pilot's
matching one if it waits. Programs and handlers are matched apart, each by its own ordinals (R233; log entry 301). -/
def Clus.tabLogBy (m : Clus) (trip : Trip) (clu : Nat) (h : Bool) (op : TabOp) (x : Nat) : Clus :=
  let m := m.addDig clu (tabItem op.kind op.operand x)
  let map := m.core.slotMap (clu / 5)
  match m.core.slotOfClu clu with
  | none => m
  | some n =>
    let key := 2 * (4 * (clu / 5) + n) + b2n h
    let l := kget m.tab.log [] key ++ [op]
    let m := { m with tab := { m.tab with log := kput m.tab.log [] key l } }
    let pc := m.core.reliefOf (clu / 5)
    if mapPilotEn map && decide (mapPilotOf map = n) then
      match (m.score pc).pilotWait h, l[kget m.tab.plog 0 (2 * (clu / 5) + b2n h)]? with
      | some (kind, t, y), some o =>
        if o.kind = kind ∧ o.operand = t then m.pilotDone trip pc h kind t y o.result else m
      | _, _ => m
    else m

/-- Release every program that waits on generation `gen` of the tablet at (page, off) (R228). -/
def Clus.tabReleaseBy (m : Clus) (trip : Trip) (page off gen : Nat) : Clus :=
  let waiting := m.sc.core.filterMap (fun (e : Nat × SCore) =>
    match e.2.wait with
    | .tablet rd t g => if g = gen ∧ m.progTab e.1 t page off = true then some (e.1, rd, t) else none
    | _ => none)
  waiting.foldl (fun x e =>
    if (x.score e.1).wait = .tablet e.2.1 e.2.2 gen then
      x.regWrite trip e.1 0 e.2.1 (BitVec.ofNat 64 gen) (fun x =>
        let s := x.score e.1
        (x.setScore e.1 { s with wait := .none, pc0 := s.pc0 + 4 }).tabLogBy trip e.1 false ⟨1, e.2.2, gen⟩ 0)
    else x) m

/-- A generation of the tablet at (page, off) completes (R228); at the root the two roots are compared (R234). -/
def Clus.tabCompleteBy (m : Clus) (trip : Trip) (page off : Nat) : Clus :=
  let gen := m.core.tbGen page off
  let m := m.onCore (·.setTb page off 0 (gen + 1))
  let m := m.tabReleaseBy trip page off gen
  if page = pageRoot ∧ kget m.tab.mirror 0 off ≠ 0 then
    let m := { m with tab := { m.tab with mirror := kput m.tab.mirror 0 off 0, rootBad := true } }
    let operand := (if isThru page off then 128 + (off - 0x100) / 8 else 192 + (off - 0x300) / 8)
    m.onCore (·.record pageRoot 0x0704 sevDegr 15 (placeEdge 2 8 0)
      (detail41 0x0704 0xFF 0xFF 0 0 0 0 (0xFFFF + operand * 65536 + 0xFF * 2 ^ 24)))
  else m

/-- Whether every region's Departure report of this tick is in (R231). -/
def Clus.allReports (m : Clus) : Bool := decide (192 ≤ m.tab.reports.length)

/-- Complete the running generation of (page, off) where its count allows: ARRIVE and withdrawal (R228, R231). A line
tablet sends LT_ARRIVE at its LOCAL_TARGET instead (R305). -/
def Clus.tabTryBy (m : Clus) (trip : Trip) (page off : Nat) : Clus :=
  let n := m.core.tbCount page off
  let tgt := m.core.tbTarget page off
  if n = 0 ∨ n < tgt then m
  else if isThru page off then (if m.allReports then m.tabCompleteBy trip page off else m)
  else if isLine page off then
    let i := (off - 0x300) / 8
    if kget m.tab.lineSent false i then m
    else { m with tab := { m.tab with lineSent := kput m.tab.lineSent false i true, ltOut := m.tab.ltOut ++ [i] } }
  else m.tabCompleteBy trip page off

/-- Withdrawal of a slot from its through tablets (R231). -/
def Clus.thruWithdrawBy (m : Clus) (trip : Trip) (r : SlotRun) : Clus :=
  iter 32 (fun k x =>
    if entThrough r.words / 2 ^ k % 2 = 1 then
      match x.core.boundThru (entJob r.words) k with
      | some i =>
        let x := x.onCore (fun c => c.setFld pageRoot (thruOff i) 16 16 (c.tbTarget pageRoot (thruOff i) - 1))
        x.tabTryBy trip pageRoot (thruOff i)
      | none => x
    else x) m

/-- The slot of a cluster that is still registered on its through tablets: neither ended nor halted; a pilot is not
registered (R231). -/
def Clus.registered (m : Clus) (clu : Nat) : Option SlotRun :=
  match m.runOn clu with
  | some (_, r) => if (m.score clu).tend ∨ (m.score clu).mode = .halted then none else some r
  | none => none

/-- Stop an S-core pair for the rest of the tick (R14, R126, R128). -/
def Clus.sStop (m : Clus) (clu : Nat) : Clus :=
  let s := m.score clu
  (m.setScore clu { s with mode := .halted, wait := .none, tend := true, hop := none }).onCore
    (·.setFld (pageMsg clu) 0x50 31 1 0)

/-- Halt an S-core pair for the rest of the tick; its slot withdraws from its through tablets (R126, R128, R231). -/
def Clus.sHaltBy (m : Clus) (trip : Trip) (clu : Nat) : Clus :=
  match m.registered clu with
  | some r => (m.sStop clu).thruWithdrawBy trip r
  | none => m.sStop clu

/-- A lockstep mismatch of the S-core pair (R126). -/
def Clus.sLockstepBy (m : Clus) (trip : Trip) (clu : Nat) (inj : Bool) : Clus :=
  let m := m.onCore (·.incSat (pageS clu) 0x44 1)
  ((m.sCapture clu 0x0301 0).causeEvent clu (pageS clu) (checkCause 0x0301 inj) (m.sPc clu % 2 ^ 17)).sHaltBy trip clu

/-- The mismatch that an armed LS_FLIP causes, with what its halt brings about up to `f` mismatches on. -/
def Clus.sTrip : Nat → Trip
  | 0, m, clu => m.sStop clu
  | f + 1, m, clu => m.sLockstepBy (Clus.sTrip f) clu true

/-- The mismatch that an armed LS_FLIP causes at an S-core (R130). -/
def Clus.trip : Trip := Clus.sTrip 960

/-- `tabLogBy` with the mismatch of R130. -/
def Clus.tabLog (m : Clus) (clu : Nat) (h : Bool) (op : TabOp) (x : Nat) : Clus := m.tabLogBy Clus.trip clu h op x
/-- Release every program that waits on a generation of a tablet (R228). -/
def Clus.tabRelease (m : Clus) (page off gen : Nat) : Clus := m.tabReleaseBy Clus.trip page off gen
/-- A generation of a tablet completes (R228). -/
def Clus.tabComplete (m : Clus) (page off : Nat) : Clus := m.tabCompleteBy Clus.trip page off
/-- Complete the running generation of a tablet where its count allows (R228, R231). -/
def Clus.tabTry (m : Clus) (page off : Nat) : Clus := m.tabTryBy Clus.trip page off
/-- Withdrawal of a slot from its through tablets (R231). -/
def Clus.thruWithdraw (m : Clus) (r : SlotRun) : Clus := m.thruWithdrawBy Clus.trip r
/-- Halt an S-core pair for the rest of the tick (R126, R128, R231). -/
def Clus.sHalt (m : Clus) (clu : Nat) : Clus := m.sHaltBy Clus.trip clu
/-- A lockstep mismatch of the S-core pair (R126). -/
def Clus.sLockstep (m : Clus) (clu : Nat) (inj : Bool := false) : Clus := m.sLockstepBy Clus.trip clu inj

/-- Withdraw the slot on a cluster whose program ends. -/
def Clus.withdrawOn (m : Clus) (clu : Nat) : Clus :=
  match m.registered clu with
  | some r => m.thruWithdraw r
  | none => m

/-- ARRIVE on the tablet at (page, off); the generation joined is the result (R228). -/
def Clus.tabArrive (m : Clus) (page off : Nat) : Nat × Clus :=
  let gen := m.core.tbGen page off
  let m := m.onCore (·.setTb page off (m.core.tbCount page off + 1) gen)
  (gen, m.tabTry page off)

/-- Registration of a departed slot on its entry's through tablets (R231). -/
def Clus.thruRegister (m : Clus) (r : SlotRun) : Clus :=
  iter 32 (fun k x =>
    if entThrough r.words / 2 ^ k % 2 = 1 then
      match x.core.boundThru (entJob r.words) k with
      | some i => x.onCore (fun c => c.setFld pageRoot (thruOff i) 16 16 (c.tbTarget pageRoot (thruOff i) + 1))
      | none => x
    else x) m


/-- A region's Departure report is in; the last one lets waiting generations complete (R231). -/
def Clus.reportIn (m : Clus) (rg : Nat) : Clus :=
  let m := { m with tab := { m.tab with reports := kput m.tab.reports false rg true } }
  if m.allReports then iter 30 (fun i x => x.tabTry pageRoot (thruOff i)) m else m

/-- At the Guard after a mismatch of the roots the Signal Box makes the root whose lockstep is intact the active one (R234).
The spec says of neither root when its lockstep breaks, so which one that is stays a free value (log entry 117). -/
def Clus.rootPick (m : Clus) : Clus :=
  if m.tab.rootBad then
    let (v, c) := m.core.draw
    { m with core := c, tab := { m.tab with rootQ2 := v.getLsbD 0 } }
  else m

/-- THROUGH_REBIND: the pending binding takes effect for the next tick, through and line tablets clear and line
tablets 0–5 take their group's job and LOCAL_TARGET (R231, R232, R305), and the Signal Box writes the next pending binding, round-robin by job (R235). -/
def Clus.thruRebind (m : Clus) : Clus :=
  let m := m.rootPick
  let m := m.onCore (fun c =>
    let c := iter 30 (fun i x => x.wr pageRoot (0x200 + 4 * i) (x.rd pageRoot (0x280 + 4 * i))) c
    let c := iter 30 (fun i x => x.wr8 pageRoot (thruOff i)
      (let w := x.rd pageRoot (0x200 + 4 * i)
       if bitAt w 31 then bitsAt w 27 4 * 4096 + 2048 else 0)) c
    let c := (c.wr8 pageRoot (thruOff 30) 0).wr8 pageRoot (thruOff 31) 0
    iter 6 (fun i x => x.wr8 pageRoot (lineOff i)
      (match m.tab.linePend.find? (fun e => e.1 == i) with
       | some e => e.2.2 % 65536 * 65536 + e.2.1 * 4096 + 2048
       | none => 0)) c)
  { m with tab := { m.tab with reports := [], lineSent := [], lineIn := [], log := [], plog := [],
                               linePend := [], mirror := [], rootBad := false, retry := [] } }

/-! ## Operations of a program or handler (R122) -/

/-- Whether the previous generation this program joined on a through tablet still runs, be it its fifth of the tick (R232). -/
def Clus.arriveBlocked (m : Clus) (clu t page off : Nat) : Bool :=
  isThru page off && (match (m.score clu).thruGen.find? (fun e => e.1 == t) with
    | some e => decide (e.2 = m.core.tbGen page off)
    | none => false)

/-- TABLET_TARGET_WRITE: a block-post write of TARGET acts as SET (R228). -/
def Clus.tabletTargetWrite (m : Clus) (g : Nat) (t : NodeTablet) (target : Nat) : Clus :=
  let off := match t with
    | .loc r i => localTbOff r.val i.val
    | .die i => dieTbOff i.val
  m.onCore (·.tbSet (pageTb g) off target)

/-- A failed transmission of a tablet message: the third in a row fails every slot that waits on the generation or
arrives on it, with the cause LN_RETRY_EXH (R219, R234). -/
def Clus.tabletFlit (m : Clus) (clu t : Nat) : Clus :=
  let key := 256 * clu + t
  let n := kget m.tab.retry 0 key + 1
  let put (x : Clus) (v : Nat) : Clus := { x with tab := { x.tab with retry := kput x.tab.retry 0 key v } }
  if n < 3 then put m n
  else match m.tabLoc clu t with
    | .error _ => put m 0
    | .ok loc =>
      let on (x : Nat) (u : Nat) : Bool := m.progTab x u loc.1 loc.2
      let hit := (m.sc.core.filter (fun (e : Nat × SCore) => match e.2.wait with
        | .tablet _ u g => on e.1 u && decide (g = m.core.tbGen loc.1 loc.2)
        | .arrive u => on e.1 u
        | _ => false)).map (·.1)
      (clu :: hit.filter (fun x => x != clu)).foldl (fun x c =>
        x.causeEvent c loc.1 (checkCause 0x0602) 0) (put m 0)

/-- The update of a root tablet is lost on its way to the other root; the next completion there differs (R234). -/
def Clus.rootFlit (m : Clus) (i : Nat) : Clus :=
  let off := if i < 32 then thruOff i else lineOff (i - 32)
  { m with tab := { m.tab with mirror := kput m.tab.mirror 0 off 1 } }

/-- TABLET_TARGET_WRITE (R228). -/
def execTabletTargetWrite (g : Die) (t : NodeTablet) (target : BitVec 16) (s : State) : Out :=
  .next (s.onClus (·.tabletTargetWrite g.val t target.toNat))


end Sys2Proof.Machine
end

