-- ==== Sys2Proof/Machine/SCore.lean ====
section
/-!
DEFINITION. The S-core (R118–R130): registers, exceptions, memory accesses, CSRs, and the Xsyw instructions that build
tile words, send messages, operate tablets and end programs.
-/
namespace Sys2Proof.Machine

/-- Bank in use: 1 in handler mode (R118). -/
def Clus.sBank (m : Clus) (clu : Nat) : Nat := if (m.score clu).mode = .handler then 1 else 0
/-- Integer register of the bank in use. -/
def Clus.xr (m : Clus) (clu r : Nat) : W64 := m.xReg clu (m.sBank clu) r

/-- Set the PC of the mode in use. -/
def Clus.setPc (m : Clus) (clu pc : Nat) : Clus :=
  let s := m.score clu
  m.setScore clu (if s.mode = .handler then { s with pc1 := pc } else { s with pc0 := pc })
/-- Whether the S-core executes an instruction now: a running handler, or a program, that is not stalled. -/
def Clus.sRuns (m : Clus) (clu : Nat) : Bool :=
  match (m.score clu).mode with
  | .handler => (m.score clu).hop.isNone
  | .program => decide ((m.score clu).wait = .none)
  | _ => false


/-- An S-core exception (R128): the pair halts and the job that executes faults. -/
def Clus.sTrap (m : Clus) (clu code addr : Nat) : Clus :=
  ((m.sCapture clu code addr).sCharge clu (pageS clu) code (placeUnit clu 4 0) (m.sPc clu % 2 ^ 17)).sHalt clu

/-- VS_POISON_IN at an S-core: class DATA, unless ST_UNDERRUN is recorded (R128). -/
def Clus.sPoison (m : Clus) (clu addr : Nat) : Clus :=
  let m := m.sCapture clu 0x0308 addr
  let j := m.sJob clu
  let m := if (m.score clu).mode = .handler ∧ j ≠ m.jobOn clu then
      ((m.causeEvent clu (pageS clu) ⟨0x0308, .check, 0, false, true, false⟩ (m.sPc clu % 2 ^ 17)).faultJob j 0x0308).closeJob clu j
    else if (m.causes clu).any (fun f => f.code == 0x0501) then m
    else m.causeEvent clu (pageS clu) (dataCause 0x0308) (m.sPc clu % 2 ^ 17)
  m.sHalt clu

/-- A register write in the bank in use: an armed LS_FLIP makes the pair mismatch instead (R126, R130). -/
def Clus.sWrite (m : Clus) (clu rd : Nat) (v : W64) (f : Clus → Clus) : Clus :=
  m.regWrite Clus.trip clu (m.sBank clu) rd v f

/-- Advance the PC by the instruction's length. -/
def Clus.adv (m : Clus) (clu len : Nat) : Clus := m.setPc clu (m.sPc clu + len)

/-- Execute f where the S-core runs. -/
def Clus.sDo (m : Clus) (clu : Nat) (f : Clus → Clus) : Clus := if m.sRuns clu then f m else m

/-- Execute an instruction that writes rd and goes on. -/
def Clus.sSet (m : Clus) (clu rd : Nat) (v : W64) (len : Nat) : Clus := m.sWrite clu rd v (·.adv clu len)

/-! ## Staging register and tile queues (R121–R123) -/

/-- Queue of a unit 0–3 or 5. -/
def Clus.unitQueue (m : Clus) (clu u : Nat) : List W128 :=
  if u < 2 then m.mQueue clu u else if u < 4 then m.vQueue clu (u - 2)
  else match kget m.sa.arr none clu with
    | some a => a.queue
    | none => []

/-- An array with nothing in it. -/
def emptyArr : Arr := ⟨[], none, [], none, 0, [], [], none, [], false, false, 0⟩
/-- The array of a cluster. -/
def Clus.arr (m : Clus) (clu : Nat) : Arr := (kget m.sa.arr none clu).getD emptyArr
/-- Set the array of a cluster. -/
def Clus.setArr (m : Clus) (clu : Nat) (a : Arr) : Clus :=
  { m with sa := { m.sa with arr := kput m.sa.arr none clu (if a = emptyArr then none else some a) } }

/-- Put a word into the queue of a unit. -/
def Clus.pushUnit (m : Clus) (clu u : Nat) (w : W128) : Clus :=
  if u < 2 then m.setMQueue clu u (m.mQueue clu u ++ [w])
  else if u < 4 then m.setVQueue clu (u - 2) (m.vQueue clu (u - 2) ++ [w])
  else m.setArr clu { m.arr clu with queue := (m.arr clu).queue ++ [w] }

/-- Whether a unit number is one of R121. -/
def unitOk (u : Nat) : Bool := decide (u < 4 ∨ u = 5)

/-- TSTLO. -/
def Clus.tstlo (m : Clus) (clu rs1 : Nat) : Clus :=
  m.sDo clu (fun m =>
    let s := m.score clu
    (m.setScore clu { s with stage := putBits s.stage 0 64 (m.xr clu rs1).toNat }).adv clu 4)
/-- TSTHI. -/
def Clus.tsthi (m : Clus) (clu rs1 : Nat) : Clus :=
  m.sDo clu (fun m =>
    let s := m.score clu
    (m.setScore clu { s with stage := putBits s.stage 64 64 (m.xr clu rs1).toNat }).adv clu 4)
/-- TFLD; pos + len above 128 is illegal (R122). -/
def Clus.tfld (m : Clus) (clu rs1 pos lenM1 : Nat) : Clus :=
  m.sDo clu (fun m =>
    if 128 < pos + lenM1 + 1 then m.sTrap clu 0x0302 0
    else
      let s := m.score clu
      (m.setScore clu { s with stage := putBits s.stage pos (lenM1 + 1) (m.xr clu rs1).toNat }).adv clu 4)

/-- TISSUE: stall while the queue is full; a handler traps (R121, R124). -/
def Clus.tissue (m : Clus) (clu u : Nat) : Clus :=
  m.sDo clu (fun m =>
    let s := m.score clu
    if unitOk u = false then m.sTrap clu 0x0302 0
    else if s.mode = .handler then m.sTrap clu 0x0305 0
    else if (m.unitQueue clu u).length < 32 then (m.pushUnit clu u s.stage).adv clu 4
    else m.setScore clu { s with wait := .queue u })

/-- TTRY: rd := 0 issued, 1 full. -/
def Clus.ttry (m : Clus) (clu rd u : Nat) : Clus :=
  m.sDo clu (fun m =>
    if unitOk u = false then m.sTrap clu 0x0302 0
    else if (m.unitQueue clu u).length < 32 then
      m.sWrite clu rd 0 (fun m => (m.pushUnit clu u (m.score clu).stage).adv clu 4)
    else m.sSet clu rd 1 4)

/-- TQDEPTH. -/
def Clus.tqdepth (m : Clus) (clu rd u : Nat) : Clus :=
  m.sDo clu (fun m =>
    if unitOk u = false then m.sTrap clu 0x0302 0
    else m.sSet clu rd (BitVec.ofNat 64 (m.unitQueue clu u).length) 4)

/-- QUEUE_ROOM_RESUME: a TISSUE stalled on a full queue issues once there is room (R121). -/
def Clus.queueRoom (m : Clus) (clu : Nat) : Clus :=
  let s := m.score clu
  match s.wait, s.mode with
  | .queue u, .program =>
    if (m.unitQueue clu u).length < 32 then
      (m.pushUnit clu u s.stage).setScore clu { s with wait := .none, pc0 := s.pc0 + 4 }
    else m
  | _, _ => m

/-! ## Local data memory and the store windows (R119) -/

/-- Little-endian value of bytes. -/
def bytesVal (l : List Byte) : Nat := leNat l

/-- Whether an address lies in local data memory for n bytes. -/
def inDmem (a n : Nat) : Bool := decide (0x100000 ≤ a ∧ a + n ≤ 0x140000)

/-- A window address: store, region, offset (R119). -/
def winAddr (a : Nat) : Option (Nat × Nat × Nat) :=
  if 0x10000000 ≤ a ∧ a < 0x40000000 then some (a / 2 ^ 28 - 1, a / 2 ^ 24 % 16, a % 2 ^ 24) else none

/-- Whether a window access of n bytes is mapped: natural alignment, VALID, inside the region (R119). -/
def Core.winOk (c : Core) (clu a n : Nat) : Bool :=
  match winAddr a with
  | some (st, r, o) =>
    let d := c.region clu st r
    decide (a % n = 0) && d.valid && decide (o + n ≤ 256 * d.size)
  | none => false

/-- Poison of a range of local data memory (R128). -/
def Clus.dPoisoned (m : Clus) (clu off n : Nat) : Bool :=
  (List.range (n / 32 + 2)).any (fun i =>
    decide (off / 32 + i ≤ (off + n - 1) / 32) && kget m.sc.dpoi false (8192 * clu + off / 32 + i))

/-- Load n bytes; the continuation gets the value (R119, R128). -/
def Clus.sLoad (m : Clus) (clu a n : Nat) (f : Clus → Nat → Clus) : Clus :=
  if inDmem a n then
    let off := a - 0x100000
    if m.dPoisoned clu off n then m.sPoison clu a
    else f m (bytesVal (m.core.winRds (dmemBase clu + off) n))
  else if m.core.winOk clu a n then
    match winAddr a with
    | some (st, r, o) =>
      let (l, _, m) := m.readOp clu st r o n (.own (m.sJob clu)) 4
      if l.any (·.2) then m.sPoison clu a else f m (bytesVal (l.map (·.1)))
    | none => m
  else m.sTrap clu 0x0303 a

/-- Store n bytes (R119). -/
def Clus.sStore (m : Clus) (clu a n v : Nat) (f : Clus → Clus) : Clus :=
  if inDmem a n then
    let off := a - 0x100000
    f (m.onCore (·.winWr (dmemBase clu + off) (leBytes n v)))
  else if m.core.winOk clu a n then
    match winAddr a with
    | some (st, r, o) => f (m.writeOp clu st r o ((leBytes n v).map (fun b => (b, false))) (.own (m.sJob clu)) 4).2
    | none => m
  else m.sTrap clu 0x0303 a

/-- Address x[rs1] + sign-extended immediate. -/
def Clus.effAddr (m : Clus) (clu rs1 : Nat) (imm : BitVec 12) : Nat := (m.xr clu rs1 + imm.signExtend 64).toNat

/-- Loaded value of a funct3: LB, LH, LW, LD, LBU, LHU, LWU. -/
def loadExt (f3 v : Nat) : W64 :=
  if f3 < 4 then BitVec.ofInt 64 (toSigned (8 * 2 ^ f3) v) else BitVec.ofNat 64 v

/-- A load (WINDOW_LOAD and the loads of R118): funct3 7 is illegal. -/
def Clus.loadInstr (m : Clus) (clu rd rs1 : Nat) (imm : BitVec 12) (f3 len : Nat) : Clus :=
  m.sDo clu (fun m =>
    if f3 = 7 then m.sTrap clu 0x0302 0
    else m.sLoad clu (m.effAddr clu rs1 imm) (2 ^ (f3 % 4)) (fun m v => m.sSet clu rd (loadExt f3 v) len))

/-- A store (WINDOW_STORE and the stores of R118): funct3 above 3 is illegal. -/
def Clus.storeInstr (m : Clus) (clu rs1 rs2 : Nat) (imm : BitVec 12) (f3 len : Nat) : Clus :=
  m.sDo clu (fun m =>
    if 3 < f3 then m.sTrap clu 0x0302 0
    else m.sStore clu (m.effAddr clu rs1 imm) (2 ^ f3) (m.xr clu rs2).toNat (·.adv clu len))

/-- FENCE: every window store has completed when it is issued here, so the S-core goes on (R119). -/
def Clus.sFence (m : Clus) (clu len : Nat) : Clus := m.sDo clu (·.adv clu len)

/-! ## CSRs and exceptions (R120, R128) -/

/-- Value of a CSR, none where it is unknown (R120). -/
def Clus.csr (m : Clus) (clu n : Nat) : Option W64 :=
  let run := m.runOrPilot clu
  if n = 0xCC0 then some (if run.isSome then m.core.tick else 0)
  else if n = 0xCC1 then some (run.elim 0 (fun x => x.2.otick))
  else if n = 0xCC2 then some (BitVec.ofNat 64 m.core.cycle)
  else if n = 0xCC3 then some (BitVec.ofNat 64 (placeClu clu))
  else none

/-- CSR_READ: an unknown CSR is illegal (R118, R120). -/
def Clus.csrRead (m : Clus) (clu rd n len : Nat) : Clus :=
  m.sDo clu (fun m => match m.csr clu n with
    | some v => m.sSet clu rd v len
    | none => m.sTrap clu 0x0302 0)

/-- ECALL (R128). -/
def Clus.ecall (m : Clus) (clu : Nat) : Clus := m.sDo clu (fun m => m.sTrap clu 0x0304 0)
/-- Debug level in force (SEC_STATUS.LEVEL, R463). -/
def Core.dbgLevel (c : Core) : Nat := c.fld pageSec 0x40 29 3
/-- EBREAK: VS_ECALL, or a halt for the debug path with debug unlocked, at level 2 or above (R128, R463). -/
def Clus.ebreak (m : Clus) (clu : Nat) : Clus :=
  m.sDo clu (fun m =>
    if m.core.dbgLevel < 2 then m.sTrap clu 0x0304 0
    else
      let m := m.withdrawOn clu
      m.setScore clu { m.score clu with mode := .halted, dbgHalt := true })
/-- ILLEGAL_INSTRUCTION (R128). -/
def Clus.illegal (m : Clus) (clu : Nat) : Clus := m.sDo clu (fun m => m.sTrap clu 0x0302 0)

/-! ## Messages (R121, R240–R242) -/

/-- The payload of MSENDT, n words at local address `a`, goes to `f`: VS_ACCESS outside R240, VS_POISON_IN on a poisoned word
(R128). -/
def Clus.tupleWords (m : Clus) (clu a n : Nat) (f : List W32 → Clus) : Clus :=
  if a % 4 = 0 ∧ inDmem a (4 * n) = true then
    if m.dPoisoned clu (a - 0x100000) (4 * n) then m.sPoison clu a
    else f ((List.range n).map (fun i => word4 (m.core.winRds (dmemBase clu + (a - 0x100000) + 4 * i) 4)))
  else m.sTrap clu 0x0303 a

/-- MSG_BAD_CHANNEL: the pair halts and the job faults (R240). -/
def Clus.badChannel (m : Clus) (clu ch : Nat) : Clus :=
  let w := m.core.rd (pageMsg clu) (chanOff ch + 4)
  (m.fatalEvent clu (pageMsg clu) 0x0803 (placeUnit clu 10 0)
    (msgLast4 ch (bitsAt w 25 7) (bitsAt w 24 1) (bitsAt w 22 2))).sHalt clu

/-- A blocking send of given words (R121, R124, R240, R241). -/
def Clus.sendBlocking (m : Clus) (clu ch : Nat) (ws : List W32) : Clus :=
  if (m.score clu).mode = .handler then m.sTrap clu 0x0305 0
  else if m.sendOk clu ch = false then m.badChannel clu ch
  else if m.outFull clu then
    let s := m.score clu
    let m := m.setScore clu { s with wait := .send ch ws }
    let dest := match m.core.chDest clu ch with
      | some (d, r, sl, _) => placeClu (m.core.cluOf (2 * d + r) sl)
      | none => 0
    let m := { m with msg := { m.msg with stallRec := kput m.msg.stallRec false clu false } }
    m.onCore (·.wrs (pageMsg clu) 0x50 [BitVec.ofNat 32 (2 ^ 31 + ch * 2 ^ 26), BitVec.ofNat 32 dest, m.core.tickLo,
      BitVec.ofNat 32 (m.core.cycle % 65536 * 65536)])
  else (m.sendMsg clu ch ws).adv clu 4

/-- A non-blocking send of given words: 0 sent, 1 full, 2 channel not open. -/
def Clus.sendNb (m : Clus) (clu rd ch : Nat) (ws : List W32) : Clus :=
  if m.sendOk clu ch = false then m.sSet clu rd 2 4
  else if m.outFull clu then m.onCore (·.incSat (pageMsg clu) (cntOff ch + 12) 1) |>.sSet clu rd 1 4
  else m.sWrite clu rd 0 (fun m => (m.sendMsg clu ch ws).adv clu 4)

/-- Channel operand of a send. -/
def Clus.chanArg (m : Clus) (clu rs1 : Nat) : Nat := bitsAt (m.xr clu rs1) 0 5
/-- Words of an MSENDT. -/
def Clus.lenArg (m : Clus) (clu rs1 : Nat) : Nat := bitsAt (m.xr clu rs1) 8 3 + 1
/-- Low word of a register. -/
def Clus.wordArg (m : Clus) (clu rs2 : Nat) : W32 := BitVec.ofNat 32 (m.xr clu rs2).toNat

/-- MSEND. -/
def Clus.msend (m : Clus) (clu rs1 rs2 : Nat) : Clus :=
  m.sDo clu (fun m => m.sendBlocking clu (m.chanArg clu rs1) [m.wordArg clu rs2])
/-- MSENDT. -/
def Clus.msendt (m : Clus) (clu rs1 rs2 : Nat) : Clus :=
  m.sDo clu (fun m =>
    if (m.score clu).mode = .handler then m.sTrap clu 0x0305 0
    else m.tupleWords clu (m.xr clu rs2).toNat (m.lenArg clu rs1) (m.sendBlocking clu (m.chanArg clu rs1)))
/-- MSENDNB. -/
def Clus.msendnb (m : Clus) (clu rd rs1 rs2 : Nat) : Clus :=
  m.sDo clu (fun m => m.sendNb clu rd (m.chanArg clu rs1) [m.wordArg clu rs2])
/-- MSENDTNB. -/
def Clus.msendtnb (m : Clus) (clu rd rs1 rs2 : Nat) : Clus :=
  m.sDo clu (fun m =>
    m.tupleWords clu (m.xr clu rs2).toNat (m.lenArg clu rs1) (m.sendNb clu rd (m.chanArg clu rs1)))

/-- BLOCKING_SEND_RESUME: the stalled send completes once the buffer has room (R241). -/
def Clus.sendResume (m : Clus) (clu : Nat) : Clus :=
  let s := m.score clu
  match s.wait, s.mode with
  | .send ch ws, .program =>
    if m.outFull clu then m
    else
      let m := m.setScore clu { s with wait := .none, pc0 := s.pc0 + 4 }
      let m := m.sendMsg clu ch ws
      let start := m.core.fld (pageMsg clu) 0x5C 16 16
      (m.onCore (fun c => (c.setFld (pageMsg clu) 0x50 31 1 0).incSat (pageMsg clu) (cntOff ch + 4) (c.cycle - start)))
  | _, _ => m

/-! ## Sync counters, TEND and MRET -/

/-- TSIG. -/
def Clus.tsig (m : Clus) (clu rs1 : Nat) : Clus :=
  m.sDo clu (fun m => (m.signal clu (bitsAt (m.xr clu rs1) 0 4)).adv clu 4)
/-- TWAITC: a handler traps (R124). -/
def Clus.twaitc (m : Clus) (clu rs1 rs2 : Nat) : Clus :=
  m.sDo clu (fun m =>
    let i := bitsAt (m.xr clu rs1) 0 4
    let v := bitsAt (m.xr clu rs2) 0 16
    if (m.score clu).mode = .handler then m.sTrap clu 0x0305 0
    else if v ≤ m.sync clu i then m.adv clu 4
    else m.setScore clu { m.score clu with wait := .counter i v })
/-- A TWAITC whose counter has reached its value goes on. -/
def Clus.twaitcResume (m : Clus) (clu : Nat) : Clus :=
  let s := m.score clu
  match s.wait, s.mode with
  | .counter i v, .program =>
    if v ≤ m.sync clu i then m.setScore clu { s with wait := .none, pc0 := s.pc0 + 4 } else m
  | _, _ => m

/-- TEND: the tile program ends and the slot withdraws from its through tablets (R125, R231). -/
def Clus.tend (m : Clus) (clu : Nat) : Clus :=
  m.sDo clu (fun m =>
    if (m.score clu).mode = .handler then m.sTrap clu 0x0302 0
    else
      let m := m.withdrawOn clu
      m.setScore clu { m.score clu with mode := .idle, progOn := false, tend := true, pc0 := (m.score clu).pc0 + 4 })

/-- MRET: back to the program, and RD moves past the record (R248). -/
def Clus.mret (m : Clus) (clu : Nat) : Clus :=
  m.sDo clu (fun m =>
    let s := m.score clu
    if s.mode ≠ .handler then m.sTrap clu 0x0302 0
    else
      let m := m.setScore clu { s with mode := if s.progOn then .program else .idle, progOn := false }
      if m.core.chOpen clu s.hch then
        m.onCore (·.ringPop clu s.hch (m.core.ringHead clu s.hch).2.2)
      else m)

/-! ## Tablet operations (R122, R124, R228–R233) -/

/-- A pilot's tablet operation waits for its match, in the mode in use. -/
def Clus.pilotHold (m : Clus) (clu kind t x : Nat) : Clus :=
  let s := m.score clu
  m.setScore clu (if s.mode = .handler then { s with hop := some (kind, t, x) } else { s with wait := .pilotOp kind t x })

/-- A pilot's tablet operation, its program's or a handler's: completed from the piloted slot's log, or waiting for it; `x` is
the destination register or the value of a TBSET (R233). One that differs from its match waits for good, as kind 99. -/
def Clus.pilotTab (m : Clus) (clu kind t x : Nat) : Clus :=
  let rg := clu / 5
  let h := decide ((m.score clu).mode = .handler)
  let k := 2 * (4 * rg + mapPilotOf (m.core.slotMap rg)) + b2n h
  match (kget m.tab.log [] k)[kget m.tab.plog 0 (2 * rg + b2n h)]? with
  | some o =>
    if o.kind = kind ∧ o.operand = t then m.pilotDone Clus.trip clu h kind t x o.result else m.pilotHold clu 99 t x
  | none => m.pilotHold clu kind t x

/-- Tablet operand of a register. -/
def Clus.tabArg (m : Clus) (clu rs1 : Nat) : Nat := bitsAt (m.xr clu rs1) 0 8

/-- Whether the S-core is in handler mode. -/
def Clus.inHandler (m : Clus) (clu : Nat) : Bool := decide ((m.score clu).mode = .handler)

/-- Perform an ARRIVE of the S-core: joined generation kept (R228, R232). -/
def Clus.doArrive (m : Clus) (clu t page off : Nat) : Clus :=
  let s := m.score clu
  let gen := m.core.tbGen page off
  let m := m.setScore clu { s with
    joined := keepJoined s.joined t gen
    thruGen := if isThru page off then (t, gen) :: s.thruGen.filter (fun e => e.1 != t) else s.thruGen }
  let m := m.tabLog clu (m.inHandler clu) ⟨0, t, gen⟩ 0
  (m.tabArrive page off).2

/-- TBARRIVE. -/
def Clus.tbarrive (m : Clus) (clu rs1 : Nat) : Clus :=
  m.sDo clu (fun m =>
    let t := m.tabArg clu rs1
    let s := m.score clu
    if s.mode = .handler ∧ t / 64 = 2 then m.sTrap clu 0x0305 0
    else if m.isPilot clu then m.pilotTab clu 0 t 0
    else match m.tabLoc clu t with
      | .error e => (m.tabFault clu t e 0).adv clu 4
      | .ok (page, off) =>
        if m.arriveBlocked clu t page off then m.setScore clu { s with wait := .arrive t }
        else (m.adv clu 4).doArrive clu t page off)

/-- THROUGH_ARRIVE_RESUME: the stalled TBARRIVE counts once its previous generation has completed (R232). -/
def Clus.arriveResume (m : Clus) (clu : Nat) : Clus :=
  let s := m.score clu
  match s.wait, s.mode with
  | .arrive t, .program =>
    match m.tabLoc clu t with
    | .ok (page, off) =>
      if m.arriveBlocked clu t page off then m
      else (m.setScore clu { s with wait := .none, pc0 := s.pc0 + 4 }).doArrive clu t page off
    | .error e => (m.setScore clu { s with wait := .none, pc0 := s.pc0 + 4 }).tabFault clu t e 0
  | _, _ => m

/-- TBWAIT: rd := the generation waited on, once it has completed (R122, R228); a handler traps (R124). The value a
suppressed operation returns is free. -/
def Clus.tbwait (m : Clus) (clu rd rs1 : Nat) : Clus :=
  m.sDo clu (fun m =>
    let t := m.tabArg clu rs1
    let s := m.score clu
    if s.mode = .handler then m.sTrap clu 0x0305 0
    else if m.isPilot clu then m.pilotTab clu 1 t rd
    else match m.tabLoc clu t with
      | .error e =>
        let (v, c) := m.core.draw
        (({ m with core := c }).tabFault clu t e 1).sSet clu rd v 4
      | .ok (page, off) =>
        let now := m.core.tbGen page off
        let gen := match s.joined.find? (fun x => x.1 == t) with
          | some x => x.2
          | none => now
        if gen = now then m.setScore clu { s with wait := .tablet rd t gen }
        else m.sWrite clu rd (BitVec.ofNat 64 gen) (fun m => (m.tabLog clu false ⟨1, t, gen⟩ 0).adv clu 4))

/-- TBSET (R122, R228, R232). -/
def Clus.tbset (m : Clus) (clu rs1 rs2 : Nat) : Clus :=
  m.sDo clu (fun m =>
    let t := m.tabArg clu rs1
    let v := bitsAt (m.xr clu rs2) 0 16
    if m.isPilot clu then m.pilotTab clu 2 t v
    else if 2 ≤ t / 64 then (m.tabFault clu t 0x0702 2).adv clu 4
    else match m.tabLoc clu t with
      | .error e => (m.tabFault clu t e 2).adv clu 4
      | .ok (page, off) =>
        ((m.tabLog clu (m.inHandler clu) ⟨2, t, 0⟩ v).onCore (·.tbSet page off v)).adv clu 4)

/-- TBREAD (R122, R228). The value a suppressed operation returns is free. -/
def Clus.tbread (m : Clus) (clu rd rs1 : Nat) : Clus :=
  m.sDo clu (fun m =>
    let t := m.tabArg clu rs1
    if m.isPilot clu then m.pilotTab clu 3 t rd
    else match m.tabLoc clu t with
      | .error e =>
        let (v, c) := m.core.draw
        (({ m with core := c }).tabFault clu t e 3).sSet clu rd v 4
      | .ok (page, off) =>
        let v := m.core.tbCount page off + m.core.tbTarget page off * 2 ^ 16 + m.core.tbGen page off * 2 ^ 32
        m.sWrite clu rd (BitVec.ofNat 64 v) (fun m => (m.tabLog clu (m.inHandler clu) ⟨3, t, v⟩ 0).adv clu 4))

/-! ## Lockstep and Departure -/

/-- A mismatch of a V-core pair whose command does not name the instruction: its program tag is a free value (R126, R129; log
entry 302). -/
def Clus.vMismatch (m : Clus) (clu v : Nat) : Clus :=
  let (x, c) := m.core.draw
  { m with core := c }.vLockstep clu v (x.toNat % 65536)

/-- LOCKSTEP_MISMATCH of a pair (R126). -/
def Clus.lockstepMismatch (m : Clus) (clu : Nat) (u : LsUnit) : Clus :=
  match u with
  | .v0 => m.vMismatch clu 0
  | .v1 => m.vMismatch clu 1
  | .score => m.sLockstep clu
/-- LS_FLIP: arm the injection (R130). -/
def Clus.lsFlip (m : Clus) (clu : Nat) (u : LsUnit) : Clus :=
  match u with
  | .v0 => m.onCore (·.setFld (pageV clu 0) 0x28 0 1 1)
  | .v1 => m.onCore (·.setFld (pageV clu 1) 0x28 0 1 1)
  | .score => m.onCore (·.setFld (pageS clu) 0x28 0 1 1)

/-- Departure at the S-core of a cluster without a slot: a halted pair restarts, idle (R128). -/
def Clus.sDepart (m : Clus) (clu : Nat) : Clus :=
  let s := m.score clu
  if s.dbgHalt then m
  else m.setScore clu { s with mode := .idle, progOn := false, wait := .none, tend := true, joined := [], thruGen := [],
                               hop := none }

/-- Start of a slot on a cluster: PC, a0, a1, staging register and sync counters (R18, R88, R123). A pair halted for the
debug path stays halted (R128). -/
def Clus.sStart (m : Clus) (clu n : Nat) (r : SlotRun) : Clus :=
  let s := m.score clu
  let m := m.setScore clu { s with mode := if s.dbgHalt then .halted else .program, progOn := false,
                                   pc0 := slotProg r.words n, stage := 0, wait := .none, tend := false, joined := [],
                                   thruGen := [], hop := none }
  let m := m.setXReg clu 0 10 (slotW r.words n 1)
  let m := m.setXReg clu 0 11 (BitVec.ofNat 64 (r.entry + r.attempt % 16 * 2 ^ 12 + n * 2 ^ 16))
  { m with sc := { m.sc with sync := kclear m.sc.sync (16 * clu) 16 } }

/-! ## The commands -/

/-- TSTLO (R121). -/
def execTstlo (c : Clu) (rs1 : XReg) (s : State) : Out := .next (s.onClus (·.tstlo c.val rs1.val))
/-- TSTHI (R121). -/
def execTsthi (c : Clu) (rs1 : XReg) (s : State) : Out := .next (s.onClus (·.tsthi c.val rs1.val))
/-- TFLD (R122). -/
def execTfld (c : Clu) (rs1 : XReg) (pos : Fin 128) (l : Fin 32) (s : State) : Out :=
  .next (s.onClus (·.tfld c.val rs1.val pos.val l.val))
/-- TISSUE (R121). -/
def execTissue (c : Clu) (u : Fin 128) (s : State) : Out := .next (s.onClus (·.tissue c.val u.val))
/-- TTRY (R121). -/
def execTtry (c : Clu) (rd : XReg) (u : Fin 128) (s : State) : Out := .next (s.onClus (·.ttry c.val rd.val u.val))
/-- TQDEPTH (R121). -/
def execTqdepth (c : Clu) (rd : XReg) (u : Fin 128) (s : State) : Out :=
  .next (s.onClus (·.tqdepth c.val rd.val u.val))
/-- QUEUE_ROOM_RESUME (R121). -/
def execQueueRoomResume (c : Clu) (s : State) : Out := .next (s.onClus (·.queueRoom c.val))
/-- MSEND (R121). -/
def execMsend (c : Clu) (a b : XReg) (s : State) : Out := .next (s.onClus (·.msend c.val a.val b.val))
/-- MSENDT (R121). -/
def execMsendt (c : Clu) (a b : XReg) (s : State) : Out := .next (s.onClus (·.msendt c.val a.val b.val))
/-- MSENDNB (R121). -/
def execMsendnb (c : Clu) (rd a b : XReg) (s : State) : Out :=
  .next (s.onClus (·.msendnb c.val rd.val a.val b.val))
/-- MSENDTNB (R121). -/
def execMsendtnb (c : Clu) (rd a b : XReg) (s : State) : Out :=
  .next (s.onClus (·.msendtnb c.val rd.val a.val b.val))
/-- BLOCKING_SEND_RESUME (R241). -/
def execBlockingSendResume (c : Clu) (s : State) : Out := .next (s.onClus (·.sendResume c.val))
/-- TSIG (R121). -/
def execTsig (c : Clu) (a : XReg) (s : State) : Out := .next (s.onClus (·.tsig c.val a.val))
/-- TWAITC (R121). -/
def execTwaitc (c : Clu) (a b : XReg) (s : State) : Out := .next (s.onClus (·.twaitc c.val a.val b.val))
/-- TEND (R125). -/
def execTend (c : Clu) (s : State) : Out := .next (s.onClus (·.tend c.val))
/-- MRET (R248). -/
def execMret (c : Clu) (s : State) : Out := .next (s.onClus (·.mret c.val))
/-- THROUGH_ARRIVE_RESUME (R232). -/
def execThroughArriveResume (c : Clu) (s : State) : Out := .next (s.onClus (·.arriveResume c.val))
/-- TBWAIT (R122). -/
def execTbwait (c : Clu) (rd a : XReg) (s : State) : Out := .next (s.onClus (·.tbwait c.val rd.val a.val))
/-- TBSET (R122). -/
def execTbset (c : Clu) (a b : XReg) (s : State) : Out := .next (s.onClus (·.tbset c.val a.val b.val))
/-- TBREAD (R122). -/
def execTbread (c : Clu) (rd a : XReg) (s : State) : Out := .next (s.onClus (·.tbread c.val rd.val a.val))
/-- WINDOW_LOAD (R119). -/
def execWindowLoad (c : Clu) (rd a : XReg) (imm : BitVec 12) (f3 : BitVec 3) (s : State) : Out :=
  .next (s.onClus (·.loadInstr c.val rd.val a.val imm f3.toNat 4))
/-- WINDOW_STORE (R119). -/
def execWindowStore (c : Clu) (a b : XReg) (imm : BitVec 12) (f3 : BitVec 3) (s : State) : Out :=
  .next (s.onClus (·.storeInstr c.val a.val b.val imm f3.toNat 4))
/-- FENCE (R119). -/
def execFence (c : Clu) (s : State) : Out := .next (s.onClus (·.sFence c.val 4))
/-- CSR_READ (R120). -/
def execCsrRead (c : Clu) (rd : XReg) (n : BitVec 12) (s : State) : Out :=
  .next (s.onClus (·.csrRead c.val rd.val n.toNat 4))
/-- ECALL (R128). -/
def execEcall (c : Clu) (s : State) : Out := .next (s.onClus (·.ecall c.val))
/-- EBREAK (R128). -/
def execEbreak (c : Clu) (s : State) : Out := .next (s.onClus (·.ebreak c.val))
/-- ILLEGAL_INSTRUCTION (R128). -/
def execIllegalInstruction (c : Clu) (s : State) : Out := .next (s.onClus (·.illegal c.val))
/-- LOCKSTEP_MISMATCH (R126). -/
def execLockstepMismatch (c : Clu) (u : LsUnit) (s : State) : Out := .next (s.onClus (·.lockstepMismatch c.val u))
/-- LS_FLIP (R130). -/
def execLsFlip (c : Clu) (u : LsUnit) (s : State) : Out := .next (s.onClus (·.lsFlip c.val u))

end Sys2Proof.Machine
end

