-- ==== Sys2Proof/Machine/Rv64.lean ====
section
/-!
DEFINITION. The instruction set of the S-core (R118): RV64I, M, C and the read half of Zicsr, decoded from instruction
memory at the PC, with the Xsyw instructions of R121 and R122 handed to their own operations.
-/
namespace Sys2Proof.Machine

/-- Bits [lo + n − 1 : lo] of an instruction. -/
def fb (w lo n : Nat) : Nat := w / 2 ^ lo % 2 ^ n

/-- Sign extension of n bits to 64. -/
def sx (n x : Nat) : W64 := BitVec.ofInt 64 (toSigned n x)

/-- Immediate of a J-type instruction. -/
def immJ (w : Nat) : W64 := sx 21 (fb w 31 1 * 2 ^ 20 + fb w 12 8 * 2 ^ 12 + fb w 20 1 * 2 ^ 11 + fb w 21 10 * 2)
/-- Immediate of a branch. -/
def immB (w : Nat) : W64 := sx 13 (fb w 31 1 * 2 ^ 12 + fb w 7 1 * 2 ^ 11 + fb w 25 6 * 2 ^ 5 + fb w 8 4 * 2)
/-- Immediate of an I-type instruction. -/
def immI (w : Nat) : BitVec 12 := BitVec.ofNat 12 (fb w 20 12)
/-- Immediate of a store. -/
def immS (w : Nat) : BitVec 12 := BitVec.ofNat 12 (fb w 25 7 * 32 + fb w 7 5)
/-- Immediate of LUI and AUIPC. -/
def immU (w : Nat) : W64 := sx 32 (fb w 12 20 * 4096)

/-! ## Arithmetic -/

/-- Quotient of DIV: all ones by zero; the overflow case gives the dividend. -/
def rvDiv {n : Nat} (a b : BitVec n) : BitVec n := if b = 0 then BitVec.allOnes n else a.sdiv b
/-- Quotient of DIVU. -/
def rvDivu {n : Nat} (a b : BitVec n) : BitVec n := if b = 0 then BitVec.allOnes n else a.udiv b
/-- Remainder of REM: the dividend by zero. -/
def rvRem {n : Nat} (a b : BitVec n) : BitVec n := if b = 0 then a else a.srem b
/-- Remainder of REMU. -/
def rvRemu {n : Nat} (a b : BitVec n) : BitVec n := if b = 0 then a else a.umod b

/-- Register-register operation of OP, none where the encoding is reserved. -/
def aluOp (f7 f3 : Nat) (a b : W64) : Option W64 :=
  let sh := b.toNat % 64
  match f7, f3 with
  | 0, 0 => some (a + b)
  | 32, 0 => some (a - b)
  | 0, 1 => some (a <<< sh)
  | 0, 2 => some (if a.toInt < b.toInt then 1 else 0)
  | 0, 3 => some (if a.toNat < b.toNat then 1 else 0)
  | 0, 4 => some (a ^^^ b)
  | 0, 5 => some (a >>> sh)
  | 32, 5 => some (a.sshiftRight sh)
  | 0, 6 => some (a ||| b)
  | 0, 7 => some (a &&& b)
  | 1, 0 => some (a * b)
  | 1, 1 => some (BitVec.ofInt 64 (a.toInt * b.toInt / 2 ^ 64))
  | 1, 2 => some (BitVec.ofInt 64 (a.toInt * (b.toNat : Int) / 2 ^ 64))
  | 1, 3 => some (BitVec.ofNat 64 (a.toNat * b.toNat / 2 ^ 64))
  | 1, 4 => some (rvDiv a b)
  | 1, 5 => some (rvDivu a b)
  | 1, 6 => some (rvRem a b)
  | 1, 7 => some (rvRemu a b)
  | _, _ => none

/-- Operation of OP-32 on the low words, before sign extension. -/
def aluOp32 (f7 f3 : Nat) (a b : W32) : Option W32 :=
  let sh := b.toNat % 32
  match f7, f3 with
  | 0, 0 => some (a + b)
  | 32, 0 => some (a - b)
  | 0, 1 => some (a <<< sh)
  | 0, 5 => some (a >>> sh)
  | 32, 5 => some (a.sshiftRight sh)
  | 1, 0 => some (a * b)
  | 1, 4 => some (rvDiv a b)
  | 1, 5 => some (rvDivu a b)
  | 1, 6 => some (rvRem a b)
  | 1, 7 => some (rvRemu a b)
  | _, _ => none

/-- Operation of OP-IMM with the 12-bit immediate field. -/
def aluImm (f3 imm : Nat) (a : W64) : Option W64 :=
  let b := sx 12 imm
  let sh := imm % 64
  match f3 with
  | 0 => aluOp 0 0 a b
  | 1 => if imm / 64 = 0 then some (a <<< sh) else none
  | 5 => if imm / 64 = 0 then some (a >>> sh) else if imm / 64 = 16 then some (a.sshiftRight sh) else none
  | n => aluOp 0 n a b

/-- Operation of OP-IMM-32. -/
def aluImm32 (f3 imm : Nat) (a : W32) : Option W32 :=
  let sh := imm % 32
  match f3 with
  | 0 => some (a + (sx 12 imm).setWidth 32)
  | 1 => if imm / 32 = 0 then some (a <<< sh) else none
  | 5 => if imm / 32 = 0 then some (a >>> sh) else if imm / 32 = 32 then some (a.sshiftRight sh) else none
  | _ => none

/-- Whether a branch is taken; none where funct3 is reserved. -/
def branchTaken (f3 : Nat) (a b : W64) : Option Bool :=
  match f3 with
  | 0 => some (decide (a = b))
  | 1 => some (decide (a ≠ b))
  | 4 => some (decide (a.toInt < b.toInt))
  | 5 => some (decide (b.toInt ≤ a.toInt))
  | 6 => some (decide (a.toNat < b.toNat))
  | 7 => some (decide (b.toNat ≤ a.toNat))
  | _ => none

/-! ## Compressed instructions, as the 32-bit instructions they stand for -/

/-- R-type word. -/
def encR (f7 rs2 rs1 f3 rd op : Nat) : Nat :=
  f7 * 2 ^ 25 + rs2 * 2 ^ 20 + rs1 * 2 ^ 15 + f3 * 2 ^ 12 + rd * 2 ^ 7 + op
/-- I-type word. -/
def encI (imm rs1 f3 rd op : Nat) : Nat := imm % 4096 * 2 ^ 20 + rs1 * 2 ^ 15 + f3 * 2 ^ 12 + rd * 2 ^ 7 + op
/-- S-type word. -/
def encS (imm rs2 rs1 f3 : Nat) : Nat := encR (imm / 32 % 128) rs2 rs1 f3 (imm % 32) 0x23
/-- B-type word of a 13-bit offset. -/
def encB (imm rs2 rs1 f3 : Nat) : Nat :=
  encR (fb imm 12 1 * 64 + fb imm 5 6) rs2 rs1 f3 (fb imm 1 4 * 2 + fb imm 11 1) 0x63
/-- J-type word of a 21-bit offset. -/
def encJ (imm rd : Nat) : Nat :=
  fb imm 20 1 * 2 ^ 31 + fb imm 1 10 * 2 ^ 21 + fb imm 11 1 * 2 ^ 20 + fb imm 12 8 * 2 ^ 12 + rd * 2 ^ 7 + 0x6F

/-- Sign extension of n bits to m, as a number. -/
def sxN (n m x : Nat) : Nat := if x % 2 ^ n < 2 ^ (n - 1) then x % 2 ^ n else x % 2 ^ n + 2 ^ m - 2 ^ n

/-- Quadrant 0. -/
def expand0 (h : Nat) : Option Nat :=
  let rd := fb h 2 3 + 8
  let rs := fb h 7 3 + 8
  let w4 := fb h 10 3 * 8 + fb h 6 1 * 4 + fb h 5 1 * 64
  let w8 := fb h 10 3 * 8 + fb h 5 2 * 64
  match fb h 13 3 with
  | 0 =>
    let imm := fb h 11 2 * 16 + fb h 7 4 * 64 + fb h 6 1 * 4 + fb h 5 1 * 8
    if imm = 0 then none else some (encI imm 2 0 rd 0x13)
  | 2 => some (encI w4 rs 2 rd 0x03)
  | 3 => some (encI w8 rs 3 rd 0x03)
  | 6 => some (encS w4 rd rs 2)
  | 7 => some (encS w8 rd rs 3)
  | _ => none

/-- Quadrant 1. -/
def expand1 (h : Nat) : Option Nat :=
  let rd := fb h 7 5
  let i6 := fb h 12 1 * 32 + fb h 2 5
  let imm := sxN 6 12 i6
  let r1 := fb h 7 3 + 8
  let r2 := fb h 2 3 + 8
  match fb h 13 3 with
  | 0 => some (encI imm rd 0 rd 0x13)
  | 1 => if rd = 0 then none else some (encI imm rd 0 rd 0x1B)
  | 2 => some (encI imm 0 0 rd 0x13)
  | 3 =>
    if i6 = 0 then none
    else if rd = 2 then
      some (encI (sxN 10 12 (fb h 12 1 * 512 + fb h 6 1 * 16 + fb h 5 1 * 64 + fb h 3 2 * 128 + fb h 2 1 * 32)) 2 0 2 0x13)
    else some (sxN 6 20 i6 * 4096 + rd * 128 + 0x37)
  | 4 =>
    match fb h 10 2 with
    | 0 => some (encI i6 r1 5 r1 0x13)
    | 1 => some (encI (1024 + i6) r1 5 r1 0x13)
    | 2 => some (encI imm r1 7 r1 0x13)
    | _ =>
      match fb h 12 1, fb h 5 2 with
      | 0, 0 => some (encR 32 r2 r1 0 r1 0x33)
      | 0, 1 => some (encR 0 r2 r1 4 r1 0x33)
      | 0, 2 => some (encR 0 r2 r1 6 r1 0x33)
      | 0, _ => some (encR 0 r2 r1 7 r1 0x33)
      | 1, 0 => some (encR 32 r2 r1 0 r1 0x3B)
      | 1, 1 => some (encR 0 r2 r1 0 r1 0x3B)
      | _, _ => none
  | 5 =>
    some (encJ (sxN 12 21 (fb h 12 1 * 2048 + fb h 11 1 * 16 + fb h 9 2 * 256 + fb h 8 1 * 1024 + fb h 7 1 * 64
      + fb h 6 1 * 128 + fb h 3 3 * 2 + fb h 2 1 * 32)) 0)
  | n =>
    let off := sxN 9 13 (fb h 12 1 * 256 + fb h 10 2 * 8 + fb h 5 2 * 64 + fb h 3 2 * 2 + fb h 2 1 * 32)
    some (encB off 0 r1 (n - 6))

/-- Quadrant 2. -/
def expand2 (h : Nat) : Option Nat :=
  let rd := fb h 7 5
  let r2 := fb h 2 5
  match fb h 13 3 with
  | 0 => some (encI (fb h 12 1 * 32 + r2) rd 1 rd 0x13)
  | 2 => if rd = 0 then none else some (encI (fb h 12 1 * 32 + fb h 4 3 * 4 + fb h 2 2 * 64) 2 2 rd 0x03)
  | 3 => if rd = 0 then none else some (encI (fb h 12 1 * 32 + fb h 5 2 * 8 + fb h 2 3 * 64) 2 3 rd 0x03)
  | 4 =>
    if fb h 12 1 = 0 then
      if r2 = 0 then (if rd = 0 then none else some (encI 0 rd 0 0 0x67)) else some (encR 0 r2 0 0 rd 0x33)
    else if r2 = 0 then (if rd = 0 then some 0x00100073 else some (encI 0 rd 0 1 0x67))
    else some (encR 0 r2 rd 0 rd 0x33)
  | 6 => some (encS (fb h 9 4 * 4 + fb h 7 2 * 64) r2 2 2)
  | 7 => some (encS (fb h 10 3 * 8 + fb h 7 3 * 64) r2 2 3)
  | _ => none

/-- The 32-bit instruction that a 16-bit parcel stands for; the parcel 0x0000 is illegal (R119). -/
def expandC (h : Nat) : Option Nat :=
  match h % 4 with
  | 0 => expand0 h
  | 1 => expand1 h
  | 2 => expand2 h
  | _ => none

/-! ## Execution -/

/-- Zicsr: reads of the read-only CSRs; any write is illegal (R118, R120). -/
def Clus.rvCsr (m : Clus) (clu w len : Nat) : Clus :=
  let f3 := fb w 12 3
  if (f3 = 2 ∨ f3 = 3 ∨ f3 = 6 ∨ f3 = 7) ∧ fb w 15 5 = 0 then m.csrRead clu (fb w 7 5) (fb w 20 12) len
  else m.illegal clu

/-- Custom-0 (R121): a field the row does not use must be zero. -/
def Clus.rvCustom0 (m : Clus) (clu w : Nat) : Clus :=
  let f7 := fb w 25 7
  let rs2 := fb w 20 5
  let rs1 := fb w 15 5
  let rd := fb w 7 5
  let bad := m.illegal clu
  match fb w 12 3 with
  | 0 =>
    if rs2 ≠ 0 ∨ rd ≠ 0 then bad else if f7 = 0 then m.tstlo clu rs1 else if f7 = 1 then m.tsthi clu rs1 else bad
  | 1 => if rs2 ≠ 0 ∨ rs1 ≠ 0 ∨ rd ≠ 0 then bad else m.tissue clu f7
  | 2 => if rs2 ≠ 0 ∨ rs1 ≠ 0 then bad else m.ttry clu rd f7
  | 3 => if rs2 ≠ 0 ∨ rs1 ≠ 0 then bad else m.tqdepth clu rd f7
  | 4 => if rd ≠ 0 then bad else if f7 = 0 then m.msend clu rs1 rs2 else if f7 = 1 then m.msendt clu rs1 rs2 else bad
  | 5 => if f7 = 0 then m.msendnb clu rd rs1 rs2 else if f7 = 1 then m.msendtnb clu rd rs1 rs2 else bad
  | 6 =>
    if rd ≠ 0 then bad
    else if f7 = 0 then (if rs2 ≠ 0 then bad else m.tsig clu rs1)
    else if f7 = 1 then m.twaitc clu rs1 rs2 else bad
  | _ =>
    if rs2 ≠ 0 ∨ rs1 ≠ 0 ∨ rd ≠ 0 then bad else if f7 = 0 then m.tend clu else if f7 = 1 then m.mret clu else bad

/-- Custom-1 (R122). -/
def Clus.rvCustom1 (m : Clus) (clu w : Nat) : Clus :=
  let f7 := fb w 25 7
  let rs2 := fb w 20 5
  let rs1 := fb w 15 5
  let rd := fb w 7 5
  let bad := m.illegal clu
  match fb w 12 3 with
  | 0 => if f7 ≠ 0 ∨ rs2 ≠ 0 ∨ rd ≠ 0 then bad else m.tbarrive clu rs1
  | 1 => if f7 ≠ 0 ∨ rs2 ≠ 0 then bad else m.tbwait clu rd rs1
  | 2 => if f7 ≠ 0 ∨ rd ≠ 0 then bad else m.tbset clu rs1 rs2
  | 3 => if f7 ≠ 0 ∨ rs2 ≠ 0 then bad else m.tbread clu rd rs1
  | 4 => if rd ≠ 0 then bad else m.tfld clu rs1 f7 rs2
  | _ => bad

/-- Write rd with a result, or an illegal instruction. -/
def Clus.rvPut (m : Clus) (clu rd len : Nat) (v : Option W64) : Clus :=
  match v with
  | some x => m.sSet clu rd x len
  | none => m.illegal clu

/-- Jump: the link register, then the target. -/
def Clus.rvJump (m : Clus) (clu rd len : Nat) (target : W64) : Clus :=
  m.sWrite clu rd (BitVec.ofNat 64 (m.sPc clu + len)) (·.setPc clu target.toNat)

/-- Execute a 32-bit instruction word on the S-core of a cluster; len is 2 for a compressed one. -/
def Clus.rvExec (m : Clus) (clu w len : Nat) : Clus :=
  let rd := fb w 7 5
  let rs1 := fb w 15 5
  let rs2 := fb w 20 5
  let f3 := fb w 12 3
  let a := m.xr clu rs1
  let b := m.xr clu rs2
  let pc : W64 := BitVec.ofNat 64 (m.sPc clu)
  match fb w 0 7 with
  | 0x37 => m.sSet clu rd (immU w) len
  | 0x17 => m.sSet clu rd (pc + immU w) len
  | 0x6F => m.rvJump clu rd len (pc + immJ w)
  | 0x67 => if f3 = 0 then m.rvJump clu rd len ((a + (immI w).signExtend 64) &&& ~~~(1 : W64)) else m.illegal clu
  | 0x63 =>
    match branchTaken f3 a b with
    | some t => m.setPc clu (if t then (pc + immB w).toNat else m.sPc clu + len)
    | none => m.illegal clu
  | 0x03 => m.loadInstr clu rd rs1 (immI w) f3 len
  | 0x23 => m.storeInstr clu rs1 rs2 (immS w) f3 len
  | 0x13 => m.rvPut clu rd len (aluImm f3 (fb w 20 12) a)
  | 0x33 => m.rvPut clu rd len (aluOp (fb w 25 7) f3 a b)
  | 0x1B => m.rvPut clu rd len ((aluImm32 f3 (fb w 20 12) (a.setWidth 32)).map (·.signExtend 64))
  | 0x3B => m.rvPut clu rd len ((aluOp32 (fb w 25 7) f3 (a.setWidth 32) (b.setWidth 32)).map (·.signExtend 64))
  | 0x0F => if f3 = 0 then m.sFence clu len else m.illegal clu
  | 0x73 =>
    if w = 0x73 then m.ecall clu
    else if w = 0x00100073 then m.ebreak clu
    else m.rvCsr clu w len
  | 0x0B => m.rvCustom0 clu w
  | 0x2B => m.rvCustom1 clu w
  | _ => m.illegal clu

/-- Fetch at the PC and execute (R118, R119): outside instruction memory it is VS_ACCESS with the address (R128). -/
def Clus.rvStep (m : Clus) (clu : Nat) : Clus :=
  m.sDo clu (fun m =>
    let pc := m.sPc clu
    if 0x20000 < pc + 2 then m.sTrap clu 0x0303 pc
    else
      let h := leNat (m.core.winRds (imemBase clu + pc) 2)
      if h % 4 ≠ 3 then
        match expandC h with
        | some w => m.rvExec clu w 2
        | none => m.illegal clu
      else if 0x20000 < pc + 4 then m.sTrap clu 0x0303 (pc + 2)
      else m.rvExec clu (h + 65536 * leNat (m.core.winRds (imemBase clu + pc + 2) 2)) 4)

end Sys2Proof.Machine
end

