-- ==== Sys2Proof/Machine/Array.lean ====
section
/-!
DEFINITION. The shunting array (R131–R164): configuration images, the config store, streams, tiles, routes and passes.
Directions are 0 N, 1 E, 2 S, 3 W. A token moves along routes as soon as every target has room; the cycles of R135 are
not counted (log entry 13).
-/
namespace Sys2Proof.Machine

/-! ## Fields of an image (R145–R147) -/

/-- Word i of an image. -/
def imgW (img : List W64) (i : Nat) : W64 := img.getD i 0
/-- CFG_ID. -/
def imgId (img : List W64) : Nat := bitsAt (imgW img 0) 32 32
/-- IN_USED. -/
def imgIn (img : List W64) : Nat := bitsAt (imgW img 0) 16 16
/-- OUT_USED. -/
def imgOut (img : List W64) : Nat := bitsAt (imgW img 0) 0 16
/-- Control word of tile t. -/
def tileCtl (img : List W64) (t : Nat) : W64 := imgW img (64 + 11 * t)
/-- Step i of tile t. -/
def tileStep (img : List W64) (t i : Nat) : W64 := imgW img (65 + 11 * t + i)
/-- Initial value of G0–G7. -/
def tileG (img : List W64) (t i : Nat) : W32 := BitVec.ofNat 32 (bitsAt (imgW img (71 + 11 * t + i / 2)) (32 * (i % 2)) 32)
/-- MODE. -/
def ctlMode (w : W64) : Nat := bitsAt w 62 2
/-- Number of steps. -/
def ctlSteps (w : W64) : Nat := bitsAt w 59 3 + 1
/-- BODY. -/
def ctlBody (w : W64) : Nat := bitsAt w 56 3
/-- Repetitions of the body. -/
def ctlBodyRpt (w : W64) : Nat := bitsAt w 44 12 + 1
/-- STEER of direction d: bit 4 the queue, bits 3–0 ON, OE, OS, OW. -/
def ctlSteer (w : W64) (d : Nat) : Nat := bitsAt w (39 - 5 * d) 5
/-- Whether STEER of direction d names output o. -/
def steerOut (w : W64) (d o : Nat) : Bool := decide (ctlSteer w d / 2 ^ (3 - o) % 2 = 1)
/-- Whether STEER of direction d names the queue. -/
def steerQ (w : W64) (d : Nat) : Bool := decide (ctlSteer w d / 16 = 1)
/-- Whether RES_OUT names output o. -/
def resOut (w : W64) (o : Nat) : Bool := bitAt w (23 - o)
/-- OP of a step. -/
def stOp (w : W64) : Nat := bitsAt w 58 6
/-- TYPE. -/
def stType (w : W64) : Nat := bitsAt w 56 2
/-- SRCA, SRCB, SRCC. -/
def stSrc (w : W64) (i : Nat) : Nat := bitsAt w (51 - 5 * i) 5
/-- DST. -/
def stDst (w : W64) : Nat := bitsAt w 36 5
/-- OUT. -/
def stOut (w : W64) : Nat := bitsAt w 32 4
/-- OUT_LAST. -/
def stOutLast (w : W64) : Bool := bitAt w 31
/-- Firings of the step. -/
def stRpt (w : W64) : Nat := bitsAt w 19 12 + 1

/-- Sources an operation reads: a, or a and b, or all three (R137–R139). -/
def opReads (op : Nat) : Nat :=
  if op = 0x04 ∨ op = 0x0C then 3
  else if (1 ≤ op ∧ op ≤ 3) ∨ op = 5 ∨ op = 6 ∨ (9 ≤ op ∧ op ≤ 0xB) ∨ (0xD ≤ op ∧ op ≤ 0x12) then 2
  else 1
/-- Whether an OP takes a TYPE (R139); a reserved OP takes none. -/
def opTypeOk (op ty : Nat) : Bool :=
  if op = 0 ∨ op = 0x0C ∨ (1 ≤ op ∧ op ≤ 3) ∨ (5 ≤ op ∧ op ≤ 0xB) then decide (ty ≤ 2)
  else if op = 4 ∨ op = 0x20 ∨ op = 0x21 then decide (ty ≤ 1)
  else if (0xD ≤ op ∧ op ≤ 0x12) ∨ op = 0x14 then decide (ty = 2)
  else decide ((op = 0x13 ∨ op = 0x15) ∧ ty = 0)

/-- Whether a step of a COMPUTE tile is malformed (R137–R139, R148). -/
def stepBad (ctl w : W64) : Bool :=
  let n := opReads (stOp w)
  !opTypeOk (stOp w) (stType w) || decide (bitsAt w 0 19 ≠ 0 ∨ 16 < stDst w) ||
  (List.range 3).any (fun i => if i < n then decide (22 ≤ stSrc w i) else decide (stSrc w i ≠ 0)) ||
  (List.range 4).any (fun o => decide (stOut w / 2 ^ (3 - o) % 2 = 1) && !resOut ctl o) ||
  (List.range 4).any (fun d =>
    (List.range n).any (fun i => decide (stSrc w i = 16 + d)) && !steerQ ctl d)

/-- Whether an OP is one of R139. -/
def opKnown (op : Nat) : Bool := decide (op ≤ 0x15 ∨ op = 0x20 ∨ op = 0x21)

/-- Whether a step that never fires has a reserved field or encoding: one beyond NSTEP, or in a tile that is OFF (R137, R138,
R148). -/
def stepReserved (w : W64) : Bool :=
  decide (bitsAt w 0 19 ≠ 0 ∨ 16 < stDst w ∨ stType w = 3) || !opKnown (stOp w) ||
  (List.range 3).any (fun i => decide (22 ≤ stSrc w i))

/-- Whether tile t's record is malformed (R133, R134, R144, R147, R148). -/
def tileBad (img : List W64) (t : Nat) : Bool :=
  let c := tileCtl img t
  let x := t % 8
  let y := t / 8
  let drives (o : Nat) : Nat :=
    (if resOut c o then 1 else 0) + ((List.range 4).filter (fun d => steerOut c d o)).length
  let steps := (List.range (ctlSteps c)).map (tileStep img t)
  let unused := (List.range 6).filter (fun i => ctlMode c = 0 || decide (ctlSteps c ≤ i))
  let inPort (p d : Nat) : Bool := decide (ctlSteer c d ≠ 0 ∧ imgIn img / 2 ^ p % 2 = 0)
  let outPort (p o : Nat) : Bool := decide (drives o ≠ 0 ∧ imgOut img / 2 ^ p % 2 = 0)
  decide (ctlMode c = 3 ∨ 6 < ctlSteps c ∨ ctlSteps c < ctlBody c ∨ bitsAt c 0 20 ≠ 0) ||
  decide (ctlBody c = 0 ∧ ctlBodyRpt c ≠ 1) || unused.any (fun i => stepReserved (tileStep img t i)) ||
  (List.range 4).any (fun d => steerOut c d d || decide (1 < drives d)) ||
  decide (y = 0 ∧ drives 0 ≠ 0) || decide (x = 0 ∧ drives 3 ≠ 0) ||
  decide (x = 7 ∧ ctlSteer c 1 ≠ 0) || decide (y = 7 ∧ ctlSteer c 2 ≠ 0) ||
  (decide (x = 0) && inPort y 3) || (decide (y = 0) && inPort (8 + x) 0) ||
  (decide (x = 7) && outPort y 1) || (decide (y = 7) && outPort (8 + x) 2) ||
  (match ctlMode c with
   | 0 => (List.range 4).any (steerQ c)
   | 1 => steps.any (stepBad c) ||
      (List.range 4).any (fun d => steerQ c d && !steps.any (fun w =>
        (List.range (opReads (stOp w))).any (fun i => decide (stSrc w i = 16 + d))))
   | 2 =>
      let s0 := tileStep img t 0
      decide (stSrc s0 0 < 16 ∨ 19 < stSrc s0 0) || decide (putBits s0 51 5 0 ≠ 0) ||
      (List.range 5).any (fun i => decide (tileStep img t (i + 1) ≠ 0)) || !steerQ c (stSrc s0 0 - 16)
   | _ => true)

/-- Bytes of an image. -/
def imgBytes (img : List W64) : List Byte := (img.map (fun w => leBytes 8 w.toNat)).flatten

/-- First reason an image is malformed: none, or the tile, 0xFF for the header (R148). -/
def imgBad (img : List W64) (poison : Bool) : Option Nat :=
  let h1 := imgW img 1
  if poison ∨ bitsAt h1 60 4 ≠ 1 ∨ bitsAt h1 32 28 ≠ 0 ∨ ((img.take 64).drop 2).any (fun w => w ≠ 0) = true ∨
      crc32 (imgBytes (img.drop 64)) ≠ bitsAt h1 0 32 then some 0xFF
  else (List.range 64).find? (tileBad img)

/-! ## Events of the array -/

/-- Last four bytes of R163. -/
def saLast4 (itag tile entry : Nat) : Nat := itag % 65536 + tile % 256 * 65536 + entry % 256 * 2 ^ 24

/-- SA_FAULT_CAP: the first fault. -/
def Clus.saCapture (m : Clus) (clu code itag tile entry cfgId cyc : Nat) : Clus :=
  let p := pageSa clu
  if bitAt (m.core.rd p 0x11C) 31 then m
  else
    let step := match kget (m.arr clu).tiles none tile with
      | some t => t.step
      | none => 0
    m.onCore (·.wrs p 0x100 [m.core.tickLo, m.capWord clu itag,
      BitVec.ofNat 32 (code % 65536 + tile % 256 * 65536 + step % 8 * 2 ^ 24 + entry % 16 * 2 ^ 27),
      BitVec.ofNat 32 cfgId, BitVec.ofNat 32 (cyc % 65536), 0, 0, 0x80000000])

/-- ITAG of the running pass. -/
def Arr.itag (a : Arr) : Nat :=
  match a.pass with
  | some p => itagOf p.word
  | none => 0
/-- Active entry, 0xFF where there is none. -/
def Arr.entryNo (a : Arr) : Nat := a.active.getD 0xFF

/-- A job-fault event of the array (R148, R152, R156, R157, R160). -/
def Clus.saFatal (m : Clus) (clu code itag tile entry cfgId cyc : Nat) : Clus :=
  (m.saCapture clu code itag tile entry cfgId cyc).fatalEvent clu (pageSa clu) code
    (placeUnit clu 5 (if code = 0x0406 ∧ tile < 64 then tile else if entry < 16 then 64 + entry else 0))
    (saLast4 itag tile entry)

/-- The array with a queue whose head is another instruction than before: no SASYNC waits there yet (R88, R149). -/
def Arr.newHead (a : Arr) (q : List W128) : Arr := { a with queue := q, waiting := false }

/-- SA_BAD_INSTR: the instruction and the rest of the queue are discarded (R152). -/
def Clus.saBad (m : Clus) (clu itag : Nat) : Clus :=
  (m.setArr clu ((m.arr clu).newHead [])).saFatal clu 0x0404 itag 0xFF 0xFF 0 0

/-- A mismatch or parity error in a tile: the array halts (R161). -/
def Clus.saFault (m : Clus) (clu tile code : Nat) (inj : Bool := false) : Clus :=
  let a := m.arr clu
  let m := m.saCapture clu code a.itag tile a.entryNo (imgId a.img) 0
  let m := m.setArr clu { a with halted := true }
  let m := m.onCore (·.incSat (pageSa clu) 0x48 1)
  m.causeEvent clu (pageSa clu) (checkCause code inj) (saLast4 a.itag tile a.entryNo)

/-- Run f on the head of the array's queue if it has opcode `opc`: not while halted or during a select (R154). -/
def Clus.saHead (m : Clus) (clu opc : Nat) (f : W128 → Clus) : Clus :=
  let a := m.arr clu
  match a.queue with
  | [] => m
  | w :: _ =>
    if a.halted ∨ a.selecting.isSome = true then m
    else if opcOf w = 0 ∨ 5 < opcOf w then m.saBad clu (itagOf w)
    else if opcOf w = opc then f w
    else m

/-- Remove the head of the array's queue. -/
def Clus.popA (m : Clus) (clu : Nat) : Clus :=
  let a := m.arr clu
  m.setArr clu (a.newHead a.queue.tail)

/-! ## The config store (R148, R151, R154–R156) -/

/-- Config-store entry n of a cluster. -/
def Clus.cfgEntry (m : Clus) (clu n : Nat) : Option CfgEntry := kget m.sa.cfg none (16 * clu + n)
/-- Set a config-store entry; its SA_CFG_TAG follows. -/
def Clus.setCfg (m : Clus) (clu n : Nat) (e : Option CfgEntry) : Clus :=
  let m := { m with sa := { m.sa with cfg := kput m.sa.cfg none (16 * clu + n) e } }
  m.onCore (·.wrs (pageSa clu) (0x80 + 8 * n) (match e with
    | some x => [BitVec.ofNat 32 (imgId x.words), 0x80000000]
    | none => [0, 0]))

/-- SALOAD at the head of the queue: to the config engine (R149, R151). -/
def Clus.saload (m : Clus) (clu : Nat) : Clus :=
  m.saHead clu 1 (fun w =>
    let r := tf w 116 4
    if tf w 16 84 ≠ 0 ∨ (m.core.region clu 0 r).mode ≠ 3 ∨ m.core.fits clu 0 r (tf w 100 16) 24 = false then
      m.saBad clu (itagOf w)
    else
      let a := m.arr clu
      m.setArr clu { a.newHead a.queue.tail with loads := a.loads ++ [w] })

/-- SALOAD_COMPLETE: the config engine validates the image and writes both copies (R148, R155). -/
def Clus.saloadComplete (m : Clus) (clu : Nat) : Clus :=
  let a := m.arr clu
  match a.loads with
  | [] => m
  | w :: rest =>
    let n := tf w 120 4
    let (l, _, m) := m.readOp clu 0 (tf w 116 4) (256 * tf w 100 16) 6144 (.own (m.jobOn clu)) 5
    let img := (List.range 768).map (fun i => BitVec.ofNat 64 (leNat (((l.drop (8 * i)).take 8).map (·.1))))
    let m := m.setArr clu { m.arr clu with loads := rest }
    match imgBad img (l.any (·.2)) with
    | some t => (m.setCfg clu n none).saFatal clu 0x0405 (itagOf w) t n (imgId img) 0
    | none => m.setCfg clu n (some ⟨img, false, false⟩)

/-- Start of a select, by SASEL or at Departure; an invalid entry is SA_BAD_INSTR (R152, R154). -/
def Clus.saSelect (m : Clus) (clu n itag : Nat) : Clus :=
  match m.cfgEntry clu n with
  | none => m.saBad clu itag
  | some _ => m.setArr clu { m.arr clu with selecting := some n, selTag := itag }

/-- SASEL: waits for earlier SALOADs and SARUNs (R151). -/
def Clus.sasel (m : Clus) (clu : Nat) : Clus :=
  m.saHead clu 2 (fun w =>
    if tf w 16 104 ≠ 0 then m.saBad clu (itagOf w)
    else if (m.arr clu).loads ≠ [] ∨ (m.arr clu).pass.isSome = true then m
    else match m.cfgEntry clu (tf w 120 4) with
      | none => m.saBad clu (itagOf w)
      | some _ => (m.popA clu).saSelect clu (tf w 120 4) (itagOf w))

/-- CONFIG_SELECT_DONE: both copies are read, and the command tells which of them the code finds uncorrectable; the
configuration becomes active from the other, or the entry is lost (R154, R156). -/
def Clus.selectDone (m : Clus) (clu : Nat) (found : CfgRead) : Clus :=
  let a := m.arr clu
  match a.selecting with
  | none => m
  | some n =>
    let m := m.setArr clu { a with selecting := none }
    match m.cfgEntry clu n with
    | none => m
    | some e =>
      let bad0 := e.bad0 || decide (found = .copy0 ∨ found = .both)
      let bad1 := e.bad1 || decide (found = .copy1 ∨ found = .both)
      if bad0 && bad1 then
        (m.setCfg clu n none).saFatal clu 0x0409 a.selTag 0xFF n (imgId e.words) 0
      else
        let m := m.setArr clu { m.arr clu with active := some n, img := e.words }
        if bad0 || bad1 then
          (m.setCfg clu n (some { e with bad0 := false, bad1 := false })).onCore (·.record (pageSa clu) 0x0408 sevCorr
            (m.jobOn clu) (placeUnit clu 5 (64 + n)) (m.detail clu 0x0408 0 (saLast4 a.selTag 0xFF n)))
        else m

/-! ## Bindings and streams (R150, R152, R153) -/

/-- Bytes of a stream element. -/
def fmtSize (f : Nat) : Nat := if f = 0 ∨ f = 2 then 4 else if f = 1 then 2 else 1
/-- SEGLEN of a binding word. -/
def bSeg (w : W128) : Nat := tf w 82 12 + 1
/-- SEGS. -/
def bSegs (w : W128) : Nat := tf w 70 12 + 1
/-- REPEAT. -/
def bRep (w : W128) : Nat := tf w 46 4 + 1
/-- Words a stream carries. -/
def bCount (w : W128) : Nat := bSeg w * bSegs w * bRep w
/-- Byte offset from the region's origin of word k of a stream. -/
def bOff (w : W128) (k : Nat) : Nat :=
  256 * tf w 97 16 + tf w 50 20 * (k / (bSeg w * bRep w)) + k % bSeg w * fmtSize (tf w 94 3)

/-- Binding of a port. -/
def Arr.bind (a : Arr) (dir port : Nat) : Option W128 := kget a.binds none (16 * dir + port)

/-- SABIND (R150–R152). -/
def Clus.sabind (m : Clus) (clu : Nat) : Clus :=
  m.saHead clu 3 (fun w =>
    let a := m.arr clu
    let dir := tf w 123 1
    let port := tf w 119 4
    let bytes := tf w 50 20 * (bSegs w - 1) + bSeg w * fmtSize (tf w 94 3)
    if tf w 16 30 ≠ 0 ∨ tf w 117 2 = 3 ∨ 6 ≤ tf w 94 3 ∨ (dir = 1 ∧ tf w 46 4 ≠ 0) ∨
        m.core.fits clu (tf w 117 2) (tf w 113 4) (tf w 97 16) ((bytes + 255) / 256) = false then m.saBad clu (itagOf w)
    else
      let inUse := match a.pass with
        | some p => decide (tf p.word (if dir = 0 then 108 else 92) 16 / 2 ^ port % 2 = 1)
        | none => false
      if inUse then m
      else m.setArr clu { a.newHead a.queue.tail with binds := kput a.binds none (16 * dir + port) (some w) })

/-- An element of an input stream as a 32-bit word (R153). -/
def streamIn (fmt : Nat) (l : List Byte) : W32 :=
  let x := leNat l
  match fmt with
  | 1 => BitVec.ofNat 32 (x * 65536)
  | 3 => to32 (fE4m3.decode x)
  | 4 => to32 (fE5m2.decode x)
  | 5 => BitVec.ofInt 32 (toSigned 8 x)
  | _ => BitVec.ofNat 32 x

/-- A word of an output stream as its element (R64, R65, R153). -/
def streamOut (fmt : Nat) (v : W32) : List Byte :=
  match fmt with
  | 1 => leBytes 2 (fBf16.ofFV 1 none (of32 v)).bits
  | 3 => leBytes 1 (fE4m3.ofFV 3 none (of32 v)).bits
  | 4 => leBytes 1 (fE5m2.ofFV 4 none (of32 v)).bits
  | 5 => leBytes 1 (toInt8 (.ofInt v.toInt)).bits
  | _ => leBytes 4 v.toNat

/-- Runs of consecutive offsets. -/
def offRuns : List (Nat × PB) → List (Nat × List PB)
  | [] => []
  | (o, b) :: r =>
    match offRuns r with
    | (p, l) :: t => if p = o + 1 then (o, b :: l) :: t else (o, [b]) :: (p, l) :: t
    | [] => [(o, [b])]

/-- Write a port's chunk to its store (R153). -/
def Clus.flushOut (m : Clus) (clu port : Nat) (w : W128) : Clus :=
  let a := m.arr clu
  match a.pass with
  | none => m
  | some p =>
    let l := kget p.obuf [] port
    let m := m.setArr clu { a with pass := some { p with obuf := kput p.obuf [] port [] } }
    (offRuns l).foldl
      (fun x e => (x.writeOp clu (tf w 117 2) (tf w 113 4) e.1 e.2 (.own (x.jobOn clu)) 5).2) m

/-- One more byte for a port's chunk; a byte of another chunk sends the present one. -/
def Clus.outByte (m : Clus) (clu port : Nat) (w : W128) (o : Nat) (b : PB) : Clus :=
  let buf (x : Clus) : List (Nat × PB) := match (x.arr clu).pass with
    | some p => kget p.obuf [] port
    | none => []
  let other := (buf m).any (fun e => decide (e.1 / 64 ≠ o / 64))
  let m := if other then m.flushOut clu port w else m
  let a := m.arr clu
  match a.pass with
  | none => m
  | some p =>
    let m := m.setArr clu { a with pass := some { p with obuf := kput p.obuf [] port (buf m ++ [(o, b)]) } }
    if 64 ≤ (buf m).length then m.flushOut clu port w else m

/-- Whether an output port's stream takes another token: it carries `bCount` words and no more, and a surplus token stays in
its output register (R150, R157). -/
def Clus.portTakes (m : Clus) (clu port : Nat) : Bool :=
  let a := m.arr clu
  match a.pass, a.bind 1 port with
  | some p, some w => decide (kget p.got 0 port < bCount w)
  | _, _ => false

/-- A token at output port `port` (R153): converted, and written when its chunk is full or the stream ends. -/
def Clus.portOut (m : Clus) (clu port : Nat) (v : Token) : Clus :=
  let a := m.arr clu
  match a.pass, a.bind 1 port with
  | some p, some w =>
    let k := kget p.got 0 port
    let bs := (streamOut (tf w 94 3) v.1).map (fun b => (b, v.2))
    let m := m.setArr clu { a with pass := some { p with got := kput p.got 0 port (k + 1) } }
    let m := bs.zipIdx.foldl (fun x e => x.outByte clu port w (bOff w k + e.2) e.1) m
    if k + 1 = bCount w then m.flushOut clu port w else m
  | _, _ => m

/-! ## Tokens on their routes (R133–R135, R144) -/

/-- Parity of a token, over its 32 bits and its poison bit (log entry 303). -/
def tokenParity (v : Token) : Bool := (List.range 32).foldl (fun b i => b ^^ v.1.getLsbD i) v.2
/-- Queue of a direction. -/
def Tile.q (t : Tile) (d : Nat) : List QEntry := if d = 0 then t.qn else if d = 1 then t.qe else if d = 2 then t.qs else t.qw
/-- Set a queue. -/
def Tile.setQ (t : Tile) (d : Nat) (l : List QEntry) : Tile :=
  if d = 0 then { t with qn := l } else if d = 1 then { t with qe := l } else if d = 2 then { t with qs := l }
  else { t with qw := l }
/-- Output register of a direction. -/
def Tile.o (t : Tile) (d : Nat) : Option Token := if d = 0 then t.on_ else if d = 1 then t.oe else if d = 2 then t.os else t.ow
/-- Set an output register. -/
def Tile.setO (t : Tile) (d : Nat) (v : Option Token) : Tile :=
  if d = 0 then { t with on_ := v } else if d = 1 then { t with oe := v } else if d = 2 then { t with os := v }
  else { t with ow := v }

/-- A tile at the start of a pass, without its registers. -/
def emptyTile : Tile := ⟨[], [], [], [], none, none, none, none, [], 0, 0, 0, []⟩
/-- Tile t of an array. -/
def Arr.tile (a : Arr) (t : Nat) : Tile := (kget a.tiles none t).getD emptyTile
/-- Set tile t. -/
def Arr.setTile (a : Arr) (t : Nat) (x : Tile) : Arr := { a with tiles := kput a.tiles none t (some x) }

/-- Whether a token that arrives at tile t from direction d has room in every target (R134, R135). -/
def Arr.room (a : Arr) (t d : Nat) : Bool :=
  let c := tileCtl a.img t
  let x := a.tile t
  (!steerQ c d || decide ((x.q d).length < (if ctlMode c = 2 ∧ stSrc (tileStep a.img t 0) 0 = 16 + d then 20 else 4))) &&
  (List.range 4).all (fun o => !steerOut c d o || (x.o o).isNone)

/-- A token enters every target of its direction; an armed PARITY_FLIP inverts the parity bit of its queue entry, which the
parity check then finds (R134, R161, R164). -/
def Clus.enter (m : Clus) (clu t d : Nat) (v : Token) : Clus :=
  let a := m.arr clu
  let c := tileCtl a.img t
  let x := a.tile t
  let inj := m.core.rd (pageSa clu) 0x28
  let flip := steerQ c d && bitAt inj 1 && decide (bitsAt inj 8 6 = t)
  let x := if steerQ c d then x.setQ d (x.q d ++ [(v, tokenParity v ^^ flip)]) else x
  let x := (List.range 4).foldl (fun y o => if steerOut c d o then y.setO o (some v) else y) x
  let m := m.setArr clu { a.setTile t x with progress := m.core.cycle }
  if flip then
    (m.onCore (·.setFld (pageSa clu) 0x28 1 1 0)).saFault clu t 0x0403 true
  else m

/-- Where output d of tile t leads: (tile, direction of arrival) or an output port. -/
def outTarget (t d : Nat) : Option (Nat × Nat) :=
  if d = 0 then (if t < 8 then none else some (t - 8, 2))
  else if d = 1 then (if t % 8 = 7 then none else some (t + 1, 3))
  else if d = 2 then (if 56 ≤ t then none else some (t + 8, 0))
  else (if t % 8 = 0 then none else some (t - 1, 1))
/-- Output port that output d of tile t drains to. -/
def outPort (t d : Nat) : Option Nat :=
  if d = 1 ∧ t % 8 = 7 then some (t / 8) else if d = 2 ∧ 56 ≤ t then some (8 + t % 8) else none

/-- Try to move the token of output register d of tile t. -/
def Clus.moveOut (m : Clus) (clu t d : Nat) : Clus × Bool :=
  let a := m.arr clu
  if a.halted then (m, false)
  else match (a.tile t).o d with
    | none => (m, false)
    | some v =>
      let m1 := m.setArr clu { a.setTile t ((a.tile t).setO d none) with progress := m.core.cycle }
      match outTarget t d, outPort t d with
      | some (u, e), _ => if a.room u e then (m1.enter clu u e v, true) else (m, false)
      | none, some p => if m.portTakes clu p then (m1.portOut clu p v, true) else (m, false)
      | none, none => (m, false)

/-- Try to emit the front token of a DELAY tile (R144). -/
def Clus.moveDelay (m : Clus) (clu t : Nat) : Clus × Bool :=
  let a := m.arr clu
  let c := tileCtl a.img t
  if ctlMode c ≠ 2 ∨ a.halted then (m, false)
  else
    let d := stSrc (tileStep a.img t 0) 0 - 16
    let x := a.tile t
    match x.q d with
    | [] => (m, false)
    | v :: r =>
      if (List.range 4).all (fun o => !resOut c o || (x.o o).isNone) then
        let y := (List.range 4).foldl (fun y o => if resOut c o then y.setO o (some v.1) else y) (x.setQ d r)
        (m.setArr clu { a.setTile t y with progress := m.core.cycle }, true)
      else (m, false)

/-- Try to deliver the next word of input port p (R153). -/
def Clus.portIn (m : Clus) (clu p : Nat) : Clus × Bool :=
  let a := m.arr clu
  if a.halted then (m, false)
  else match a.pass, a.bind 0 p with
    | some ps, some w =>
      let k := kget ps.sent 0 p
      let t := if p < 8 then 8 * p else p - 8
      let d := if p < 8 then 3 else 0
      if tf ps.word 108 16 / 2 ^ p % 2 = 1 ∧ k < bCount w ∧ a.room t d = true then
        let f := tf w 94 3
        let (l, _, m) := m.readOp clu (tf w 117 2) (tf w 113 4) (bOff w k) (fmtSize f) (.own (m.jobOn clu)) 5
        let m := m.setArr clu { m.arr clu with pass := some { ps with sent := kput ps.sent 0 p (k + 1) } }
        (m.enter clu t d (streamIn f (l.map (·.1)), l.any (·.2)), true)
      else (m, false)
    | _, _ => (m, false)

/-- One round of moves over every output register, DELAY tile and input port. -/
def Clus.sweep (m : Clus) (clu : Nat) : Clus × Bool :=
  let r := iter 64 (fun t (x : Clus × Bool) =>
    let x := iter 4 (fun d (x : Clus × Bool) => let y := x.1.moveOut clu t d; (y.1, x.2 || y.2)) x
    let y := x.1.moveDelay clu t
    (y.1, x.2 || y.2)) (m, false)
  iter 16 (fun p (x : Clus × Bool) => let y := x.1.portIn clu p; (y.1, x.2 || y.2)) r

/-- Moves until nothing moves. -/
def Clus.settleN (clu : Nat) : Nat → Clus → Clus
  | 0, m => m
  | fuel + 1, m => if (m.sweep clu).2 then Clus.settleN clu fuel (m.sweep clu).1 else m

/-- Bound on the moves of a pass: every word of every input stream crosses each register and queue at most once. -/
def Arr.moveBound (a : Arr) : Nat :=
  512 * (1 + ((List.range 16).map (fun p => match a.bind 0 p with
    | some w => bCount w
    | none => 0)).sum) + 512

/-- Let every token that can move, move. -/
def Clus.settle (m : Clus) (clu : Nat) : Clus :=
  if (m.arr clu).pass.isSome then Clus.settleN clu (m.arr clu).moveBound m else m

/-! ## Passes -/

/-- SARUN: the pass starts with every tile at S0 (R143, R151, R152). -/
def Clus.sarun (m : Clus) (clu : Nat) : Clus :=
  m.saHead clu 4 (fun w =>
    let a := m.arr clu
    let inM := tf w 108 16
    let outM := tf w 92 16
    let unbound := (List.range 16).any (fun p =>
      (decide (inM / 2 ^ p % 2 = 1) && (a.bind 0 p).isNone) || (decide (outM / 2 ^ p % 2 = 1) && (a.bind 1 p).isNone))
    if tf w 16 76 ≠ 0 ∨ a.active = none ∨ inM ≠ imgIn a.img ∨ outM ≠ imgOut a.img ∨ unbound = true then
      m.saBad clu (itagOf w)
    else if a.pass.isSome then m
    else
      let tiles : KMap (Option Tile) := (List.range 64).map (fun t =>
        (t, some { emptyTile with
          g := (List.range 8).foldl (fun g i => kput g (0, false) i (tileG a.img t i, false)) [] }))
      (m.setArr clu { a.newHead a.queue.tail with pass := some ⟨w, [], [], []⟩, tiles := tiles,
                                                  progress := m.core.cycle }).settle clu)

/-- SASYNC (R149, as MSYNC in R88). -/
def Clus.sasync (m : Clus) (clu : Nat) : Clus :=
  m.saHead clu 5 (fun w =>
    let a := m.arr clu
    let op := tf w 114 2
    let eng := tf w 121 3
    if tf w 120 1 ≠ 0 ∨ tf w 16 82 ≠ 0 ∨ op = 3 ∨ 4 ≤ eng then m.saBad clu (itagOf w)
    else if (eng % 2 = 1 ∧ a.loads ≠ []) ∨ (2 ≤ eng ∧ a.pass.isSome = true) then m
    else if op = 1 then (m.signal clu (tf w 116 4)).popA clu
    else if op = 2 ∧ m.sync clu (tf w 116 4) < tf w 98 16 then m.setArr clu { a with waiting := true }
    else m.popA clu)

/-- An SASYNC WAIT whose counter has reached its value completes. -/
def Clus.saResume (m : Clus) (clu : Nat) : Clus :=
  let a := m.arr clu
  match a.queue with
  | w :: r =>
    if a.waiting ∧ opcOf w = 5 ∧ tf w 98 16 ≤ m.sync clu (tf w 116 4) then
      m.setArr clu { a with waiting := false, queue := r }
    else m
  | [] => m

/-! ## Firing (R136–R142, R159, R162) -/

/-- BF16 operand of a word. -/
def bfIn (x : W32) : W32 := x &&& 0xFFFF0000
/-- A BF16 result: formed in FP32, then rounded. -/
def bfOut (x : W32) : W32 := BitVec.ofNat 32 ((fBf16.ofFV 1 none (of32 x)).bits * 65536)

/-- Operations on FP32 words. -/
def saFp (op : Nat) (a b c : W32) : W32 :=
  match op with
  | 0x01 => fadd a b
  | 0x02 => to32 ((of32 a).add (of32 b).neg)
  | 0x03 => fmul a b
  | 0x04 => to32 (((of32 a).mul (of32 b)).add (of32 c))
  | 0x05 => BitVec.ofNat 32 (vMaxMin 0 true a.toNat b.toNat)
  | 0x06 => BitVec.ofNat 32 (vMaxMin 0 false a.toNat b.toNat)
  | 0x07 => a &&& 0x7FFFFFFF
  | 0x08 => a ^^^ 0x80000000
  | 0x20 => vApprox 0x18 a
  | 0x21 => vApprox 0x1A a
  | _ => a

/-- Operations on INT32 words. -/
def saInt (op : Nat) (a b : W32) : W32 :=
  match op with
  | 0x01 => a + b
  | 0x02 => a - b
  | 0x03 => a * b
  | 0x05 => if a.toInt < b.toInt then b else a
  | 0x06 => if b.toInt < a.toInt then b else a
  | 0x07 => if a.toInt < 0 then 0 - a else a
  | 0x08 => 0 - a
  | 0x0D => a &&& b
  | 0x0E => a ||| b
  | 0x0F => a ^^^ b
  | 0x10 => a <<< (b.toNat % 32)
  | 0x11 => a.sshiftRight (b.toNat % 32)
  | 0x12 => a >>> (b.toNat % 32)
  | _ => a

/-- Comparison 0x09–0x0B as INT32 (R139). -/
def saCmp (op ty : Nat) (a b : W32) : W32 :=
  let fn := if op = 0x09 then 0x11 else if op = 0x0A then 0x12 else 0x10
  let x := if ty = 1 then bfIn a else a
  let y := if ty = 1 then bfIn b else b
  if vCmp fn (if ty = 2 then 6 else 0) x.toNat y.toNat then 1 else 0

/-- CVTFI: to nearest even, saturating; a NaN's result is not stated and is free. -/
def saCvtFi (a : W32) : W32 :=
  match of32 a with
  | .nan => Config.int32Corner 0x13 a
  | .inf s => if s then 0x80000000 else 0x7FFFFFFF
  | .fin s mm e =>
    let k := rneMul mm e 0
    if s then (if 2 ^ 31 < k then 0x80000000 else BitVec.ofInt 32 (-(k : Int)))
    else (if 2 ^ 31 ≤ k then 0x7FFFFFFF else BitVec.ofNat 32 k)

/-- Result of a firing (R139, R140). -/
def saAlu (op ty : Nat) (a b c : W32) : W32 :=
  if op = 0x0C then
    let r := if c ≠ 0 then a else b
    if ty = 1 then bfIn r else r
  else if op = 0 then (if ty = 1 then bfIn a else a)
  else if 9 ≤ op ∧ op ≤ 0xB then saCmp op ty a b
  else if op = 0x13 then saCvtFi a
  else if op = 0x14 then to32 (.ofInt a.toInt)
  else if op = 0x15 then bfOut a
  else if ty = 2 then saInt op a b
  else if ty = 1 then
    (if op = 0x07 ∨ op = 0x08 then saFp op (bfIn a) 0 0 else bfOut (saFp op (bfIn a) (bfIn b) (bfIn c)))
  else saFp op a b c

/-- Value of a source of the present firing (R138). -/
def Tile.src (t : Tile) (s : Nat) : Token :=
  if s < 16 then kget t.g (0, false) s
  else if s < 20 then ((t.q (s - 16)).headD ((0, false), false)).1
  else if s = 21 then (BitVec.ofNat 32 t.rpt, false)
  else (0, false)

/-- Next place in the round after a firing of step word w (R136). -/
def Tile.advance (t : Tile) (ctl w : W64) : Tile :=
  if t.rpt + 1 < stRpt w then { t with rpt := t.rpt + 1 }
  else
    let s := t.step + 1
    let bdone := t.body + 1
    if 0 < ctlBody ctl ∧ s = ctlBody ctl ∧ bdone < ctlBodyRpt ctl then { t with rpt := 0, step := 0, body := bdone }
    else if s = ctlSteps ctl then { t with rpt := 0, step := 0, body := 0 }
    else { t with rpt := 0, step := s }

/-- Count a cycle of back-pressure, and capture the first (R159). -/
def Clus.backPressure (m : Clus) (clu t step blocked : Nat) : Clus :=
  let p := pageSa clu
  let m := m.onCore (·.incSat p 0x50 1)
  if bitAt (m.core.rd p 0x6C) 31 then m
  else m.onCore (·.wrs p 0x60 [m.core.tickLo,
    BitVec.ofNat 32 (m.core.cycle % 65536 * 65536 + t * 256 + step % 8 * 32 + blocked % 16),
    BitVec.ofNat 32 ((m.arr clu).entryNo % 16), 0x80000000])

/-- TILE_FIRE: the tile fires its present step where R141 lets it. -/
def Clus.tileFire (m : Clus) (clu t : Nat) : Clus :=
  let a := m.arr clu
  let c := tileCtl a.img t
  if a.pass.isNone ∨ a.halted ∨ ctlMode c ≠ 1 then m
  else
    let x := a.tile t
    let w := tileStep a.img t x.step
    let op := stOp w
    let srcs := (List.range (opReads op)).map (stSrc w)
    let ready := srcs.all (fun s =>
      (!decide (16 ≤ s ∧ s < 20) || !(x.q (s - 16)).isEmpty) &&
        !(x.fifo.any (fun r => decide (r.dst = s ∧ s < 16))))
    let emits := decide (stOut w ≠ 0) && (!stOutLast w || decide (x.rpt + 1 = stRpt w))
    let isStep := decide (op = 0x20 ∨ op = 0x21)
    let blocked := if emits && !isStep then
        ((List.range 4).map (fun o => if stOut w / 2 ^ (3 - o) % 2 = 1 ∧ (x.o o).isSome = true then 2 ^ (3 - o) else 0)).sum
      else 0
    if ready = false ∨ (isStep = true ∧ 8 ≤ x.fifo.length) then m
    else if blocked ≠ 0 then m.backPressure clu t x.step blocked
    else
      let va := x.src (stSrc w 0)
      let vb := if 2 ≤ opReads op then x.src (stSrc w 1) else (0, false)
      let vc := if 3 ≤ opReads op then x.src (stSrc w 2) else (0, false)
      let pois := va.2 || vb.2 || vc.2
      let inj := m.core.rd (pageSa clu) 0x28
      if bitAt inj 0 && decide (bitsAt inj 8 6 = t) then
        (m.onCore (·.setFld (pageSa clu) 0x28 0 1 0)).saFault clu t 0x0402 true
      else
        let v : Token := (saAlu op (stType w) va.1 vb.1 vc.1, pois)
        let x := (List.range 4).foldl (fun y d => if srcs.elem (16 + d) then y.setQ d (y.q d).tail else y) x
        let x := if isStep then { x with fifo := x.fifo ++ [⟨v, stDst w, if emits then stOut w else 0⟩] }
          else
            let x := if stDst w < 16 then { x with g := kput x.g (0, false) (stDst w) v } else x
            (List.range 4).foldl (fun y o => if emits && decide (stOut w / 2 ^ (3 - o) % 2 = 1) then y.setO o (some v) else y) x
        let m := m.setArr clu { a.setTile t (x.advance c w) with progress := m.core.cycle }
        let m := if pois && decide (op ≠ 0) && !(m.causes clu).any (fun f => f.code == 0x0501) then
            m.causeEvent clu (pageSa clu) (dataCause 0x0407) (saLast4 a.itag t a.entryNo)
          else m
        m.settle clu

/-- STEP_UNIT_RESULT: the oldest result leaves to DST and to its outputs, where they are free (R142). -/
def Clus.stepResult (m : Clus) (clu t : Nat) : Clus :=
  let a := m.arr clu
  let x := a.tile t
  if a.halted then m
  else match x.fifo with
    | [] => m
    | r :: rest =>
      if (List.range 4).any (fun o => decide (r.outs / 2 ^ (3 - o) % 2 = 1) && (x.o o).isSome) then m
      else
        let x := { x with fifo := rest }
        let x := if r.dst < 16 then { x with g := kput x.g (0, false) r.dst r.val } else x
        let x := (List.range 4).foldl (fun y o => if r.outs / 2 ^ (3 - o) % 2 = 1 then y.setO o (some r.val) else y) x
        (m.setArr clu { a.setTile t x with progress := m.core.cycle }).settle clu

/-! ## The end of a pass (R151, R157, R160) -/

/-- Whether a tile holds a token or is in mid-round. -/
def Tile.residue (t : Tile) : Bool :=
  !(t.qn.isEmpty && t.qe.isEmpty && t.qs.isEmpty && t.qw.isEmpty && t.on_.isNone && t.oe.isNone && t.os.isNone &&
    t.ow.isNone && t.fifo.isEmpty) || decide (t.step ≠ 0 ∨ t.rpt ≠ 0 ∨ t.body ≠ 0)

/-- Whether every stream of a direction has carried its count. -/
def Arr.streamsDone (a : Arr) (p : Pass) (dir : Nat) : Bool :=
  (List.range 16).all (fun i =>
    !decide (tf p.word (if dir = 0 then 108 else 92) 16 / 2 ^ i % 2 = 1) ||
    (match a.bind dir i with
     | some w => decide (kget (if dir = 0 then p.sent else p.got) 0 i = bCount w)
     | none => true))

/-- The array without its pass; the bindings of the pass are consumed (R151). -/
def Arr.endPass (a : Arr) (p : Pass) : Arr :=
  { a with
    pass := none, tiles := [],
    binds := (List.range 16).foldl (fun b i =>
      let b := if tf p.word 108 16 / 2 ^ i % 2 = 1 then kput b none i none else b
      if tf p.word 92 16 / 2 ^ i % 2 = 1 then kput b none (16 + i) none else b) a.binds }

/-- PASS_COMPLETE: judged when every output stream has written its last byte; a token left or a tile in mid-round is
SA_RESIDUE (R157). -/
def Clus.passComplete (m : Clus) (clu : Nat) : Clus :=
  let a := m.arr clu
  match a.pass with
  | none => m
  | some p =>
    let left := (List.range 64).find? (fun t => (a.tile t).residue)
    let inDone := a.streamsDone p 0
    if a.halted ∨ a.streamsDone p 1 = false then m
    else if tf p.word 92 16 = 0 ∧ (inDone = false ∨ left.isSome = true) then m
    else if inDone = true ∧ left = none then
      (m.setArr clu (a.endPass p)).onCore (·.incWrap (pageSa clu) 0x4C 1)
    else
      let t := left.getD 0xFF
      (m.saFatal clu 0x0406 a.itag t a.entryNo (imgId a.img) 0).setArr clu (a.endPass p)

/-- SA_STALL: the watchdog, once the cycles without progress reach the limit (R160). -/
def Clus.saStall (m : Clus) (clu : Nat) : Clus :=
  let a := m.arr clu
  let lim := kget m.sa.wdog 0x1000 clu
  match a.pass with
  | none => m
  | some p =>
    if a.halted ∨ m.core.cycle < a.progress + max 256 lim then m
    else
      (m.saFatal clu 0x0401 a.itag 0xFF a.entryNo (imgId a.img) a.progress).setArr clu ((a.endPass p).newHead [])

/-- Departure at the array: everything but the config store clears, and SA_WDOG takes effect (R155). -/
def Clus.saDepart (m : Clus) (clu : Nat) : Clus :=
  let m := m.setArr clu emptyArr
  { m with sa := { m.sa with wdog := kput m.sa.wdog 0x1000 clu (m.core.fld (pageSa clu) 0x44 0 16) } }

/-- SYNC_COUNTER_RESUME: a unit that waits on a sync counter goes on (R88, R116, R121, R149). -/
def Clus.syncResume (m : Clus) (clu : Nat) (w : SyncWaiter) : Clus :=
  match w with
  | .m i => m.mResume clu i.val
  | .v i => m.vResume clu i.val
  | .score => m.twaitcResume clu
  | .array => m.saResume clu

/-! ## The commands -/

/-- SALOAD (R149). -/
def execSaload (c : Clu) (s : State) : Out := .next (s.onClus (·.saload c.val))
/-- SALOAD_COMPLETE (R148). -/
def execSaloadComplete (c : Clu) (s : State) : Out := .next (s.onClus (·.saloadComplete c.val))
/-- SASEL (R149). -/
def execSasel (c : Clu) (s : State) : Out := .next (s.onClus (·.sasel c.val))
/-- CONFIG_SELECT_DONE (R154). -/
def execConfigSelectDone (x : SelectDone) (s : State) : Out := .next (s.onClus (·.selectDone x.clu.val x.found))
/-- SABIND (R150). -/
def execSabind (c : Clu) (s : State) : Out := .next (s.onClus (·.sabind c.val))
/-- SARUN (R151). -/
def execSarun (c : Clu) (s : State) : Out := .next (s.onClus (·.sarun c.val))
/-- SASYNC (R149). -/
def execSasync (c : Clu) (s : State) : Out := .next (s.onClus (·.sasync c.val))
/-- TILE_FIRE (R141). -/
def execTileFire (c : Clu) (t : Fin 64) (s : State) : Out := .next (s.onClus (·.tileFire c.val t.val))
/-- STEP_UNIT_RESULT (R142). -/
def execStepUnitResult (c : Clu) (t : Fin 64) (s : State) : Out := .next (s.onClus (·.stepResult c.val t.val))
/-- PASS_COMPLETE (R151). -/
def execPassComplete (c : Clu) (s : State) : Out := .next (s.onClus (·.passComplete c.val))
/-- SA_STALL (R160). -/
def execSaStall (c : Clu) (s : State) : Out := .next (s.onClus (·.saStall c.val))
/-- SA_LOCKSTEP (R161). -/
def execSaLockstep (c : Clu) (t : Fin 64) (f : ArrayFault) (s : State) : Out :=
  .next (s.onClus (·.saFault c.val t.val (match f with | .lockstep => 0x0402 | .parity => 0x0403)))
/-- BP_CLR. -/
def execBpClr (c : Clu) (s : State) : Out := .next (s.onClus (·.onCore (·.zero (pageSa c.val) 0x50 1)))
/-- STALL_CLR. -/
def execStallClr (c : Clu) (s : State) : Out := .next (s.onClus (·.onCore (·.zero (pageSa c.val) 0x60 4)))
/-- SA_CAP_CLR. -/
def execSaCapClr (c : Clu) (s : State) : Out := .next (s.onClus (·.onCore (·.zero (pageSa c.val) 0x100 8)))
/-- ALU_FLIP (R164). -/
def execAluFlip (c : Clu) (t : Fin 64) (s : State) : Out :=
  .next (s.onClus (·.onCore (fun k => (k.setFld (pageSa c.val) 0x28 8 6 t.val).setFld (pageSa c.val) 0x28 0 1 1)))
/-- PARITY_FLIP (R164). -/
def execParityFlip (c : Clu) (t : Fin 64) (s : State) : Out :=
  .next (s.onClus (·.onCore (fun k => (k.setFld (pageSa c.val) 0x28 8 6 t.val).setFld (pageSa c.val) 0x28 1 1 1)))
/-- SYNC_COUNTER_RESUME (R88). -/
def execSyncCounterResume (c : Clu) (w : SyncWaiter) (s : State) : Out := .next (s.onClus (·.syncResume c.val w))

end Sys2Proof.Machine
end

