-- ==== Sys2Proof/Machine/Hbm.lean ====
section
/-!
DEFINITION. HBM stacks (R254–R274): interleave segments and the address map, block reads and writes with correction and
poison, copy-on-write of a checkpoint cut (R372), patrol scrub, re-homing, fallback, and the page's commands.
-/
namespace Sys2Proof.Machine

/-! ## The address map (R254–R258) -/

/-- User and firmware area bounds (R255). -/
def dpaFw : Nat := 0x040000000000
/-- First address above the firmware area. -/
def dpaFwEnd : Nat := 0x040800000000
/-- First address of host memory. -/
def dpaHost : Nat := 0x800000000000

/-- Whether pseudo-channel p of stack h is reserved (R254). -/
def pcReserved (h p : Nat) : Bool := decide (p = 31 ∧ h % 6 < 4)
/-- Key of a pseudo-channel. -/
def pcKey (h p : Nat) : Nat := 32 * h + p

/-- Word i of segment entry e in force. -/
def Pkg.segW (k : Pkg) (e i : Nat) : W32 := kget k.hbm.seg 0 (4 * e + i)
/-- VALID of a segment. -/
def Pkg.segValid (k : Pkg) (e : Nat) : Bool := bitAt (k.segW e 3) 31
/-- MODE. -/
def Pkg.segMode (k : Pkg) (e : Nat) : Nat := bitsAt (k.segW e 3) 29 2
/-- SET. -/
def Pkg.segSet (k : Pkg) (e : Nat) : Nat := bitsAt (k.segW e 3) 24 5
/-- JOB. -/
def Pkg.segJob (k : Pkg) (e : Nat) : Nat := bitsAt (k.segW e 3) 20 4
/-- SHARED. -/
def Pkg.segShared (k : Pkg) (e : Nat) : Bool := bitAt (k.segW e 3) 19
/-- ROW_BASE. -/
def Pkg.segRow (k : Pkg) (e : Nat) : Nat := bitsAt (k.segW e 3) 8 11
/-- ROWS plus 1. -/
def Pkg.segRows (k : Pkg) (e : Nat) : Nat := bitsAt (k.segW e 3) 0 8 * 8 + bitsAt (k.segW e 2) 29 3 + 1
/-- DPA_BASE. -/
def Pkg.segBase (k : Pkg) (e : Nat) : Nat := bitsAt (k.segW e 0) 21 11 * 2 ^ 21 + bitsAt (k.segW e 1) 0 16 * 2 ^ 32

/-- Length of a set list. -/
def setLen (mode set : Nat) : Nat := if mode = 0 then 752 else if mode = 1 then 188 else if set % 6 < 4 then 31 else 32
/-- Entry j of a set list: stack and pseudo-channel (R257). -/
def setAt (mode set j : Nat) : Nat × Nat :=
  if mode = 0 then (if j < 744 then (j % 24, j / 24) else ((j - 744) / 2 * 6 + 4 + j % 2, 31))
  else if mode = 1 then (if j < 186 then (6 * set + j % 6, j / 6) else (6 * set + 4 + (j - 186), 31))
  else (set, j)
/-- Bytes a segment spans. -/
def Pkg.segSpan (k : Pkg) (e : Nat) : Nat := k.segRows e * setLen (k.segMode e) (k.segSet e) * 2 ^ 21

/-- Segment that holds a DPA of user memory; above it no segment backs anything (R255). -/
def Pkg.segOf (k : Pkg) (dpa : Nat) : Option Nat :=
  if dpaFw ≤ dpa then none
  else (List.range 64).find? (fun e => k.segValid e && decide (k.segBase e ≤ dpa ∧ dpa < k.segBase e + k.segSpan e))

/-- Logical media address of a DPA: stack, pseudo-channel, byte offset (R255, R258). -/
def Pkg.media (k : Pkg) (dpa : Nat) : Option (Nat × Nat × Nat) :=
  if dpaFw ≤ dpa ∧ dpa < dpaFwEnd then
    let i := (dpa - dpaFw) / 2 ^ 32
    some (6 * (i / 2) + i % 2, 31, (dpa - dpaFw) % 2 ^ 32)
  else match k.segOf dpa with
    | none => none
    | some e =>
      let o := dpa - k.segBase e
      let g := o / 256
      let n := setLen (k.segMode e) (k.segSet e)
      let sp := setAt (k.segMode e) (k.segSet e) (g % n)
      some (sp.1, sp.2, k.segRow e * 2 ^ 21 + g / n * 256 + o % 256)

/-- Reason a job may not reach a DPA range, 0 where it may (R256): 1 unbacked, 2 firmware area, 3 foreign segment. -/
def Pkg.dpaFault (k : Pkg) (job dpa : Nat) : Nat :=
  if dpaHost ≤ dpa then 0
  else if dpaFw ≤ dpa ∧ dpa < dpaFwEnd then (if job = 15 then 0 else 2)
  else match k.segOf dpa with
    | none => 1
    | some e => if k.segJob e ≠ job ∧ k.segShared e = false ∧ job ≠ 15 then 3 else 0

/-- DPA of a logical media address, 0 where there is none. -/
def Pkg.dpaOf (k : Pkg) (h p off : Nat) : Nat :=
  if pcReserved h p then (if h % 6 < 2 then dpaFw + (2 * (h / 6) + h % 6) * 2 ^ 32 + off else 0)
  else
    let hit := (List.range 64).findSome? (fun e =>
      let n := setLen (k.segMode e) (k.segSet e)
      if k.segValid e ∧ k.segRow e * 2 ^ 21 ≤ off ∧ off < (k.segRow e + k.segRows e) * 2 ^ 21 then
        ((List.range n).find? (fun j => decide (setAt (k.segMode e) (k.segSet e) j = (h, p)))).map (fun j =>
          k.segBase e + ((off - k.segRow e * 2 ^ 21) / 256 * n + j) * 256 + off % 256)
      else none)
    (hit.filter (fun a => decide (a < dpaFw))).getD 0

/-! ## Physical blocks (R263, R264, R266) -/

/-- Remap entry of a logical page. -/
def Pkg.remap (k : Pkg) (h p page : Nat) : Nat := kget k.hbm.remap 0 (2048 * pcKey h p + page)
/-- Stack of spare part i (R254). -/
def spareStack (i : Nat) : Nat := 6 * (i / 2) + 2 + i % 2
/-- Physical page key of a logical page. -/
def Pkg.physPage (k : Pkg) (h p page : Nat) : Nat :=
  let e := k.remap h p page
  if e / 2 ^ 15 = 1 then 2048 * pcKey (spareStack (e / 2 ^ 11 % 8)) 31 + e % 2048 else 2048 * pcKey h p + page
/-- Physical byte of a logical media address. -/
def Pkg.physAddr (k : Pkg) (h p off : Nat) : Nat := k.physPage h p (off / 2 ^ 21) * 2 ^ 21 + off % 2 ^ 21

/-- Poison of a physical block: lost pages are poisoned where nothing is listed. -/
def HbmS.blockPoison (b : HbmS) (blk : Nat) : Bool :=
  kget b.poison (kget b.lost false (blk / 32768)) blk
/-- Set the poison of a physical block. -/
def HbmS.setPoison (b : HbmS) (blk : Nat) (v : Bool) : HbmS :=
  if kget b.lost false (blk / 32768) then { b with poison := if v then kdel b.poison blk else kins b.poison blk false }
  else { b with poison := kput b.poison false blk v }

/-- Set the symbol errors of a physical block. -/
def HbmS.setErrs (b : HbmS) (blk n : Nat) : HbmS := { b with errs := kput b.errs 0 blk n }
/-- Apply a change to the stacks. -/
def Pkg.onHbm (k : Pkg) (f : HbmS → HbmS) : Pkg := { k with hbm := f k.hbm }

/-- Detail bytes of a controller's event (R273). -/
def detailHb (dpa pc part lp pp win reason : Nat) : Nat :=
  dpa % 2 ^ 48 + pc % 256 * 2 ^ 48 + part % 256 * 2 ^ 56 + lp % 65536 * 2 ^ 64 + pp % 65536 * 2 ^ 80 +
    win % 256 * 2 ^ 96 + reason % 256 * 2 ^ 104

/-- The eight words of an error record (R489). -/
def recWords (r : ErrRec) : List W32 :=
  [BitVec.ofNat 32 (r.code.toNat + r.severity.toNat * 65536 +
      (r.job.toNat + (if r.injected then 16 else 0) + (if r.loss then 32 else 0)) * 2 ^ 24),
   r.place, BitVec.ofNat 32 r.tick.toNat, BitVec.ofNat 32 (r.tick.toNat / 2 ^ 32)] ++
  (List.range 4).map (fun i => BitVec.ofNat 32 (r.detail.toNat / 2 ^ (32 * i)))

/-- Record an event and keep it in a capture of 32 bytes where that is empty. -/
def Core.recordCap (c : Core) (page cap code sev job place detail : Nat) (inj : Bool := false) : Core :=
  let c1 := c.record page code sev job place detail inj
  if c1.rd page cap = 0 then
    match c1.records.getLast? with
    | some r => c1.wrs page cap (recWords r)
    | none => c1
  else c1

/-- An event of controller h (R273). -/
def Pkg.hbEvent (k : Pkg) (h code sev : Nat) (detail : Nat) (inj : Bool := false) : Pkg :=
  k.onClus (·.onCore (·.recordCap (pageHb h) 0x200 code sev 15 (placeEdge (h / 6) 0 h) detail inj))

/-- Whether a pseudo-channel is part of the spare pool, which has no remap table (R254, R266). -/
def pcSpare (h p : Nat) : Bool := decide (p = 31 ∧ 2 ≤ h % 6 ∧ h % 6 < 4)

/-- Ask the block post to re-home a page; 2,048 names the whole pseudo-channel. -/
def Pkg.wantRehome (k : Pkg) (h p page : Nat) : Pkg :=
  let l := kget k.hbm.todo [] h
  if l.elem (p, page) || pcSpare h p then k
  else { k with hbm := { k.hbm with todo := kput k.hbm.todo [] h (l ++ [(p, page)]) } }

/-- Detail bytes of an event at a logical block, with the spare part and the page it lives in (R273). -/
def Pkg.detailBlock (k : Pkg) (h p off : Nat) (win : Nat := 0xFF) (reason : Nat := 0) : Nat :=
  let page := off / 2 ^ 21
  let e := k.remap h p page
  detailHb (k.dpaOf h p off) p (if e / 2 ^ 15 = 1 then e / 2 ^ 11 % 8 else 0xFF) page (k.physPage h p page % 2048) win reason

/-- Pages of a pseudo-channel corrected within the last 65,536 ticks, this one included, each with the tick of its last
correction (R267). -/
def Pkg.wornPages (k : Pkg) (h p page : Nat) : List (Nat × Nat) :=
  let t := k.cl.core.tick.toNat
  (kget k.hbm.worn [] (pcKey h p)).filter (fun e => decide (e.1 ≠ page ∧ t < e.2 + 65536)) ++ [(page, t)]

/-! ### Sparing and faults (R266–R268) -/

/-- Free spare pages of the package. -/
def Pkg.spareFree (k : Pkg) : Nat := 16384 - k.hbm.spare.length

/-- First free spare page for quadrant q: its own parts first (R266). -/
def Pkg.findSpare (k : Pkg) (q : Nat) : Option (Nat × Nat) :=
  ([2 * q, 2 * q + 1] ++ (List.range 8).filter (fun i => decide (i / 2 ≠ q))).findSome? (fun part =>
    ((List.range 2048).find? (fun pg => !kget k.hbm.spare false (2048 * part + pg))).map (fun pg => (part, pg)))

/-- Next page of a pseudo-channel that still lives there. -/
def Pkg.nextPage (k : Pkg) (h p lo : Nat) : Option Nat :=
  ((List.range (2048 - lo)).map (· + lo)).find? (fun pg => decide (k.remap h p pg / 2 ^ 15 = 0))

/-- HB_SPARE_LOW when fewer than 2,048 spare pages remain and HB_SPARE_OUT when none does, each once (R268). -/
def Pkg.spareCheck (k : Pkg) (h : Nat) : Pkg :=
  let n := k.spareFree
  let ev (x : Pkg) (code : Nat) : Pkg := x.onClus (·.onCore (fun c =>
    c.fwEvent code sevDegr 15 (placeEdge (h / 6) 0 h) (detailHb 0 0 0xFF 0 0 0xFF 0)))
  let k := if n < 2048 ∧ k.hbm.spareLow = false then ev (k.onHbm (fun b => { b with spareLow := true })) 0x0908 else k
  if n = 0 ∧ k.hbm.spareOut = false then ev (k.onHbm (fun b => { b with spareOut := true })) 0x0909 else k

/-- Start copying one page: a spare page is taken and the entry is MIGRATING; with none left, or in the spare pool itself,
the command ends (R266, R268). -/
def Pkg.startPage (k : Pkg) (h p page : Nat) (whole : Bool) : Pkg :=
  match (if pcSpare h p then none else k.findSpare (h / 6)) with
  | some (part, pg) =>
    let key := 2048 * pcKey h p + page
    (k.onHbm (fun b => { b with
      spare := kput b.spare false (2048 * part + pg) true,
      remap := kput b.remap 0 key (k.remap h p page % 2 ^ 14 + k.remap h p page / 2 ^ 15 * 2 ^ 15 + 2 ^ 14),
      rehome := kput b.rehome none h (some ⟨p, page, whole, part, pg⟩) })).spareCheck h
  | none => (if pcSpare h p then k else k.spareCheck h).onClus (·.onCore (·.setFld (pageHb h) 0x5C 31 1 0))

/-- HB_REHOME_GO: a write of HB_REHOME_CMD (R266). -/
def Pkg.rehomeGo (k : Pkg) (h : Nat) (v : W32) : Pkg :=
  let pg := pageHb h
  if bitAt (k.cl.core.rd pg 0x5C) 31 && bitAt v 31 then k.onClus (·.onCore (·.dropped pg))
  else
    let busy := bitAt (k.cl.core.rd pg 0x5C) 31
    let k := k.onClus (·.onCore (·.wr pg 0x5C ((v &&& 0xFE0007FF) ||| (if busy then 0x80000000 else 0))))
    if bitAt v 31 = false then k
    else
      let p := bitsAt v 25 5
      if bitAt v 30 then
        match k.nextPage h p 0 with
        | some page => k.startPage h p page true
        | none => k.onClus (·.onCore (·.setFld pg 0x5C 31 1 0))
      else k.startPage h p (bitsAt v 0 11) false

/-- The block post, where it serves, starts the next re-homing it owes at a controller that has none running (R4, R266). -/
def Pkg.rehomeNext (k : Pkg) (h : Nat) : Pkg :=
  if bitAt (k.cl.core.rd (pageHb h) 0x5C) 31 || !k.upC (2 + h / 6) then k
  else match kget k.hbm.todo [] h with
    | [] => k
    | (p, page) :: r =>
      let k := { k with hbm := { k.hbm with todo := kput k.hbm.todo [] h r } }
      k.rehomeGo h (BitVec.ofNat 32 (2 ^ 31 + (if page = 2048 then 2 ^ 30 else 0) + p * 2 ^ 25 + page % 2048))

/-- PC_FAULT: fallback settings, and re-homing of every page; where they fail too, every unlisted block is lost
(R267). -/
def Pkg.pcFault (k : Pkg) (h p : Nat) (fails : Bool) (inj : Bool := false) : Pkg :=
  let k := k.onClus (·.onCore (fun c => (c.setFld (pageHb h) 0x40 p 1 1).recordCap (pageHb h) 0x200 0x0905 sevDegr 15
    (placeEdge (h / 6) 0 h) (detailHb 0 p 0xFF 0 0 0xFF 0) inj))
  let k := if fails then
      let k := iter 2048 (fun pg x =>
        let ph := x.physPage h p pg
        if ph / 2048 = pcKey h p then
          { x with hbm := { x.hbm with lost := kput x.hbm.lost false ph true,
                                       poison := kclear x.hbm.poison (ph * 32768) 32768 } }
        else x) k
      k.hbEvent h 0x0907 sevDegr (detailHb 0 p 0xFF 0 0 0xFF 0)
    else k
  (k.wantRehome h p 2048).rehomeNext h

/-! ### Reads and writes (R263–R265) -/

/-- Check one logical block as it is read: correct, or poison (R263–R265); corrections on more than 64 distinct pages within
65,536 ticks are the fault of R267. -/
def Pkg.hbTouch (k : Pkg) (h p off : Nat) : Pkg :=
  let blk := k.physAddr h p off / 64
  let page := off / 2 ^ 21
  let e := kget k.hbm.errs 0 blk
  let inj : Bool := decide (3 ≤ e)
  let d := k.detailBlock h p off
  match (if inj then e - 2 else e) with
  | 0 => k
  | 1 =>
    let pg := pageHb h
    let first := decide (k.cl.core.rd pg (0x80 + 4 * p) = 0)
    let k := k.onHbm (·.setErrs blk 0)
    let k := k.onClus (·.onCore (·.incSat pg (0x80 + 4 * p) 1))
    let k := if first then k.hbEvent h 0x0901 sevCorr d inj else k
    let n := kget k.hbm.pageCe 0 (2048 * pcKey h p + page) + 1
    let pages := k.wornPages h p page
    let k := k.onHbm (fun b => { b with pageCe := kput b.pageCe 0 (2048 * pcKey h p + page) n,
                                        worn := kput b.worn [] (pcKey h p) pages })
    let k := if n = k.cl.core.fld pg 0x50 0 8 then (k.hbEvent h 0x0903 sevInfo d inj).wantRehome h p page else k
    if 64 < pages.length ∧ bitAt (k.cl.core.rd pg 0x40) p = false then k.pcFault h p false inj else k
  | _ =>
    let k := k.onHbm (fun b => (b.setPoison blk true).setErrs blk 0)
    let k := k.onClus (·.onCore (·.incSat (pageHb h) (0x100 + 4 * p) 1))
    (k.hbEvent h 0x0902 sevInfo d inj).wantRehome h p page

/-- Read n bytes of a logical media range that stays in one granule. -/
def Pkg.hbRead (k : Pkg) (h p off n : Nat) : List PB × Pkg :=
  let k := iter ((off + n + 63) / 64 - off / 64) (fun i x => x.hbTouch h p (off / 64 * 64 + 64 * i)) k
  let a := k.physAddr h p off
  ((List.range n).map (fun i => (kget k.hbm.mem 0 (a + i), k.hbm.blockPoison ((a + i) / 64))), k)

/-- Move a marked granule's old bytes into the copy-on-write buffer, draining one entry first where it is full (R372). -/
def Pkg.cowSave (k : Pkg) (h p off : Nat) : Pkg :=
  let g := 2 ^ 24 * pcKey h p + off / 256
  match kget k.hbm.marks none g with
  | none => k
  | some cm =>
    let (l, k) := k.hbRead h p (off / 256 * 256) 256
    let buf := kget k.hbm.cow [] (pcKey h p)
    let (out, buf) := if 64 ≤ buf.length then (buf.take 1, buf.drop 1) else ([], buf)
    { k with hbm := { k.hbm with
      marks := kput k.hbm.marks none g none, staged := k.hbm.staged ++ out,
      cow := kput k.hbm.cow [] (pcKey h p) (buf ++ [(cm, l)]) } }

/-- Consume an armed CE_FLIP or UE_FLIP at a block write (R274). -/
def Pkg.hbInject (k : Pkg) (h p blk : Nat) : Pkg :=
  let pg := pageHb h
  let inj := k.cl.core.rd pg 0x28
  if bitsAt inj 0 2 = 0 ∨ bitsAt inj 8 5 ≠ p then k
  else
    let k := k.onHbm (·.setErrs blk (if bitAt inj 1 then 4 else 3))
    k.onClus (·.onCore (·.setFld pg 0x28 0 2 0))

/-- Write bytes inside one 64-byte block: poison marks the whole block, a full clean write clears it (R264). -/
def Pkg.hbBlock (k : Pkg) (h p off : Nat) (l : List PB) : Pkg :=
  let a := k.physAddr h p off
  let full := decide (l.length = 64)
  let bad := l.any (·.2)
  let b := { k.hbm with mem := kputs k.hbm.mem 0 a (l.map (·.1)) }
  let b := if bad then b.setPoison (a / 64) true else if full then b.setPoison (a / 64) false else b
  let b := if full then { b with errs := kput b.errs 0 (a / 64) 0 } else b
  ({ k with hbm := b }).hbInject h p (a / 64)

/-- Write bytes at a logical media range that stays in one granule. -/
def Pkg.hbWrite (k : Pkg) (h p off : Nat) (l : List PB) : Pkg :=
  if l = [] then k
  else (chunks64 (l.length / 64 + 2) off l).foldl (fun x e => x.hbBlock h p e.1 e.2) (k.cowSave h p off)

/-- Bytes split at 256-byte boundaries. -/
def chunks256 {α : Type} (fuel b : Nat) (l : List α) : List (Nat × List α) :=
  match fuel with
  | 0 => []
  | f + 1 =>
    if l.isEmpty then []
    else
      let n := 256 - b % 256
      (b, l.take n) :: chunks256 f (b + n) (l.drop n)

/-- Read device memory by DPA; unbacked bytes read as poison. -/
def Pkg.dpaRead (k : Pkg) (dpa n : Nat) : List PB × Pkg :=
  (chunks256 (n / 256 + 2) dpa (List.replicate n ())).foldl (fun (x : List PB × Pkg) e =>
    match x.2.media e.1 with
    | some (h, p, off) => let r := x.2.hbRead h p off e.2.length; (x.1 ++ r.1, r.2)
    | none => (x.1 ++ List.replicate e.2.length (0, true), x.2)) ([], k)

/-- Write device memory by DPA; nothing is written where it is unbacked. -/
def Pkg.dpaWrite (k : Pkg) (dpa : Nat) (l : List PB) : Pkg :=
  (chunks256 (l.length / 256 + 2) dpa l).foldl (fun x e =>
    match x.media e.1 with
    | some (h, p, off) => x.hbWrite h p off e.2
    | none => x) k

/-! ## Copies, scrub and maintenance (R265–R269) -/

/-- Copy a physical page with its poison; an uncorrectable block is found by the copy (R264, R266). -/
def Pkg.copyPage (k : Pkg) (h p page dst : Nat) : Pkg :=
  let k := iter 32768 (fun i x => if kget x.hbm.errs 0 (x.physPage h p page * 32768 + i) = 0 then x
    else x.hbTouch h p (page * 2 ^ 21 + 64 * i)) k
  let src := k.physPage h p page
  let b := k.hbm
  let bytes := b.mem.filter (fun e => decide (e.1 / 2 ^ 21 = src))
  let pois := b.poison.filter (fun e => decide (e.1 / 32768 = src))
  let b := { b with mem := kclear b.mem (dst * 2 ^ 21) (2 ^ 21), poison := kclear b.poison (dst * 32768) 32768,
                    errs := kclear b.errs (dst * 32768) 32768,
                    lost := kput b.lost false dst (kget b.lost false src) }
  let b := { b with mem := bytes.foldl (fun l e => kins l (dst * 2 ^ 21 + e.1 % 2 ^ 21) e.2) b.mem,
                    poison := pois.foldl (fun l e => kins l (dst * 32768 + e.1 % 32768) e.2) b.poison }
  { k with hbm := b }

/-- REHOME_SWAP: the copy completes and the entry is swapped (R266–R268). -/
def Pkg.rehomeSwap (k : Pkg) (h : Nat) : Pkg :=
  match kget k.hbm.rehome none h with
  | none => k
  | some r =>
    let dst := 2048 * pcKey (spareStack r.part) 31 + r.spage
    let k := k.copyPage h r.pc r.page dst
    let key := 2048 * pcKey h r.pc + r.page
    let k := { k with hbm := { k.hbm with
      remap := kput k.hbm.remap 0 key (2 ^ 15 + r.part * 2 ^ 11 + r.spage),
      rehome := kput k.hbm.rehome none h none } }
    let k := k.hbEvent h 0x0904 sevInfo
      (detailHb (k.dpaOf h r.pc (r.page * 2 ^ 21)) r.pc r.part r.page r.spage 0xFF 0)
    let done (x : Pkg) : Pkg := (x.onClus (·.onCore (·.setFld (pageHb h) 0x5C 31 1 0))).rehomeNext h
    if r.whole then
      match k.nextPage h r.pc (r.page + 1) with
      | some page => k.startPage h r.pc page true
      | none =>
        let k := k.onClus (·.onCore (·.setFld (pageHb h) 0x44 r.pc 1 1))
        done (k.hbEvent h 0x0906 sevDegr (detailHb 0 r.pc 0xFF 0 0 0xFF 0))
    else done k

/-- PATROL_SCRUB: the next block of a pseudo-channel (R265). -/
def Pkg.patrolScrub (k : Pkg) (h p : Nat) : Pkg :=
  if bitAt (k.cl.core.rd (pageHb h) 0x4C) 31 then
    let b := kget k.hbm.patrol 0 (pcKey h p)
    let k := k.hbTouch h p (64 * b)
    let k := { k with hbm := { k.hbm with patrol := kput k.hbm.patrol 0 (pcKey h p) ((b + 1) % 2 ^ 26) } }
    k.rehomeNext h
  else k

/-- MARGIN_MEASURE (R269): below HB_MARGIN_MIN a retrain starts; after a retrain it is a fault. -/
def Pkg.marginMeasure (k : Pkg) (h p rd wr : Nat) : Pkg :=
  let pg := pageHb h
  let k := k.onClus (·.onCore (·.wr pg (0x180 + 4 * p) (BitVec.ofNat 32 (wr * 256 + rd))))
  let low := decide (min rd wr < k.cl.core.fld pg 0x54 0 8)
  let key := pcKey h p
  let steps := kget k.hbm.retrain 0 key
  if steps = 1 then
    let k := { k with hbm := { k.hbm with retrain := kput k.hbm.retrain 0 key 0 } }
    let set := (Config.openBytes (2048 + key) k.cl.core.tick).take 48
    let k := { k with bu := { k.bu with own := { k.bu.own with
      pcs := kput k.bu.own.pcs none key (some ⟨set, rd, wr, if low then 1 else 0⟩) } } }
    if low then k.pcFault h p false else k
  else if low ∧ steps = 0 then
    { k with hbm := { k.hbm with retrain := kput k.hbm.retrain 0 key 257 } }.hbEvent h 0x090A sevInfo
      (detailHb 0 p 0xFF 0 0 0xFF 0)
  else k

/-- Guard maintenance: retrain steps, at most 8 pseudo-channels of a stack (R269). -/
def Pkg.hbMaintain (k : Pkg) : Pkg :=
  iter 24 (fun h x =>
    (((List.range 32).filter (fun p => decide (1 < kget x.hbm.retrain 0 (pcKey h p)))).take 8).foldl (fun y p =>
      { y with hbm := { y.hbm with
        retrain := kput y.hbm.retrain 0 (pcKey h p) (kget y.hbm.retrain 0 (pcKey h p) - 1) } }) x) k

/-- COW_BUFFER_DRAIN: the oldest buffered granule goes to checkpoint staging (R372). -/
def Pkg.cowDrain (k : Pkg) (h p : Nat) : Pkg :=
  match kget k.hbm.cow [] (pcKey h p) with
  | [] => k
  | e :: r => { k with hbm := { k.hbm with staged := k.hbm.staged ++ [e], cow := kput k.hbm.cow [] (pcKey h p) r } }

/-- FALLBACK: the forced fault of R274, which fires at once. -/
def Pkg.fallback (k : Pkg) (h p : Nat) : Pkg :=
  (k.onClus (·.onCore (·.setFld (pageHb h) 0x28 8 5 p))).pcFault h p false true

/-! ## The commands -/

/-- PATROL_SCRUB (R265). -/
def execPatrolScrub (h : Stack) (p : Fin 32) (s : State) : Out := .next (s.onPkg (·.patrolScrub h.val p.val))
/-- HB_REHOME_GO (R266). -/
def execHbRehomeGo (h : Stack) (v : W32) (s : State) : Out :=
  .next (s.onPkg (·.rehomeGo h.val v))
/-- REHOME_SWAP (R266). -/
def execRehomeSwap (h : Stack) (s : State) : Out := .next (s.onPkg (·.rehomeSwap h.val))
/-- PC_FAULT (R267). -/
def execPcFault (h : Stack) (p : Fin 32) (f : Bool) (s : State) : Out := .next (s.onPkg (·.pcFault h.val p.val f))
/-- MARGIN_MEASURE (R269). -/
def execMarginMeasure (h : Stack) (p : Fin 32) (rd wr : Byte) (s : State) : Out :=
  .next (s.onPkg (·.marginMeasure h.val p.val rd.toNat wr.toNat))
/-- REFRESH: within the bound of R259, it changes nothing a program can see (R269). -/
def execRefresh (_ : Stack) (s : State) : Out := .next s
/-- COW_BUFFER_DRAIN (R372). -/
def execCowBufferDrain (h : Stack) (p : Fin 32) (s : State) : Out := .next (s.onPkg (·.cowDrain h.val p.val))
/-- HB_CNT_CLR: the counters, and HB_CE is armed again (R263). -/
def execHbCntClr (h : Stack) (s : State) : Out := .next (s.onClus (·.onCore (·.zero (pageHb h.val) 0x80 64)))
/-- HB_CAP_CLR: HB_FIRST_ERR. -/
def execHbCapClr (h : Stack) (s : State) : Out := .next (s.onClus (·.onCore (·.zero (pageHb h.val) 0x200 8)))
/-- HB_CE_FLIP (R274). -/
def execHbCeFlip (h : Stack) (p : Fin 32) (s : State) : Out :=
  .next (s.onClus (·.onCore (fun c => (c.setFld (pageHb h.val) 0x28 8 5 p.val).setFld (pageHb h.val) 0x28 0 1 1)))
/-- HB_UE_FLIP (R274). -/
def execHbUeFlip (h : Stack) (p : Fin 32) (s : State) : Out :=
  .next (s.onClus (·.onCore (fun c => (c.setFld (pageHb h.val) 0x28 8 5 p.val).setFld (pageHb h.val) 0x28 1 1 1)))
/-- FALLBACK (R274). -/
def execFallback (h : Stack) (p : Fin 32) (s : State) : Out := .next (s.onPkg (·.fallback h.val p.val))

end Sys2Proof.Machine
end

