-- ==== Sys2Proof/Machine/Lines.lean ====
section
/-!
DEFINITION. The Up Line and the Down Line (R205–R226): routes, injection, the packets' arrival at store line ports, HBM
controllers, DMA engines and edges, multicast, retries and bridges, and the line clear of a points-table swap.
-/
namespace Sys2Proof.Machine

/-! ## Routes (R205, R207, R211) -/

/-- Column of a die position in the package mesh. -/
def dieX (g : Nat) : Nat := g / 24 % 2 * 6 + g % 6
/-- Row of a die position. -/
def dieY (g : Nat) : Nat := g / 48 * 4 + g % 24 / 6
/-- Die position at a column and row. -/
def dieAt (x y : Nat) : Nat := (y / 4 * 2 + x / 6) * 24 + y % 4 * 6 + x % 6

/-- Router of an endpoint. -/
def routerOf (die ep : Nat) : Nat := if die < 96 then die else (die - 96) * 24 + edgeRouter (die - 96) ep

/-- Links from router a to router b, the local output included: X first on the Up Line, Y first on the Down Line. -/
def route (up : Bool) : Nat → Nat → Nat → List (Nat × Nat)
  | 0, _, _ => []
  | f + 1, a, b =>
    let base := if up then 0 else 5
    let dx : Bool := decide (dieX a ≠ dieX b)
    let dy : Bool := decide (dieY a ≠ dieY b)
    if (up && dx) || (!up && !dy && dx) then
      if dieX a < dieX b then (a, base + 1) :: route up f (dieAt (dieX a + 1) (dieY a)) b
      else (a, base + 3) :: route up f (dieAt (dieX a - 1) (dieY a)) b
    else if dy then
      if dieY a < dieY b then (a, base + 2) :: route up f (dieAt (dieX a) (dieY a + 1)) b
      else (a, base) :: route up f (dieAt (dieX a) (dieY a - 1)) b
    else [(a, base + 4)]

/-- Neighbour of a die position over a mesh output 0 N, 1 E, 2 S, 3 W. -/
def neighbour (g o : Nat) : Option Nat :=
  if o = 0 then (if dieY g = 0 then none else some (dieAt (dieX g) (dieY g - 1)))
  else if o = 1 then (if dieX g = 11 then none else some (dieAt (dieX g + 1) (dieY g)))
  else if o = 2 then (if dieY g = 7 then none else some (dieAt (dieX g) (dieY g + 1)))
  else if dieX g = 0 then none else some (dieAt (dieX g - 1) (dieY g))
/-- Whether a link crosses a quadrant boundary (R205). -/
def isBridge (g o : Nat) : Bool :=
  match neighbour g (o % 5) with
  | some n => decide (o % 5 < 4 ∧ n / 24 ≠ g / 24)
  | none => false
/-- Key of a link. -/
def linkKey (g o : Nat) : Nat := 10 * g + o
/-- Place code of a line event: the die and output, or the bridge of the concourse edge (R236). -/
def linkPlace (g o : Nat) : Nat :=
  match neighbour g (o % 5) with
  | some n => if isBridge g o then placeEdge (g / 24) 7 (n / 24) else placeDie g (o % 5)
  | none => placeDie g (o % 5)

/-- Flit-cycles of a packet (R206). -/
def flits (pk : Packet) : Nat := (64 + 64 * pk.chunks.toNat + 511) / 512
/-- EPOCH of a router. -/
def Core.epoch (c : Core) (g : Nat) : Bool := bitAt (c.rd (pagePts g) 0x40) 30
/-- Points-table bank in force at a router. -/
def Core.ptsBank (c : Core) (g : Nat) : Nat := c.fld (pagePts g) 0x40 31 1
/-- Region 2g + r of the slot that started a packet's transfer. -/
def pkRg (pk : Packet) : Nat := 2 * pk.srcDie.toNat + (if pk.srcRegion then 1 else 0)
/-- Last four detail bytes of a line event (R236). -/
def lnLast4 (pk : Packet) : Nat := pk.srcDie.toNat + pk.srcEp.toNat * 256 + pk.txn.toNat * 65536

/-- Name a packet's source to its timetable unit (R217, R220). -/
def Clus.noticeSource (m : Clus) (pk : Packet) (cause : Nat) : Clus :=
  if h : pkRg pk < 192 then
    { m with msg := { m.msg with notices := m.msg.notices ++
      [{ rgn := ⟨pkRg pk, h⟩, slot := ⟨pk.slot.toNat, pk.slot.isLt⟩, job := ⟨pk.job.toNat, pk.job.isLt⟩,
         cause := BitVec.ofNat 16 cause, inj := pk.inj }] } }
  else m

/-- Apply a change to the lines. -/
def Pkg.onNet (k : Pkg) (f : NetS → NetS) : Pkg := { k with net := f k.net }

/-- A packet that the lines drop, with its code, on output `o` of a router (R220, R226): its source is named. A packet of job 15
is only reported to the block post, with the place of the output, and the block post sends it again (log entry 291). -/
def Pkg.dropPacket (k : Pkg) (g o : Nat) (pk : Packet) (code : Nat) : Pkg :=
  let d := detail41 code 0xFF pk.slot.toNat 0 0 0 0 (lnLast4 pk)
  if pk.job = 15 then
    (k.onClus (·.onCore (·.record (pageLn g) code sevCorr 15 (linkPlace g o) d pk.inj))).onNet (fun n =>
      { n with again := n.again ++ [pk] })
  else k.onClus (fun m => (m.onCore (·.note (pageLn g) code sevCause pk.job.toNat d)).noticeSource pk code)

/-- LN_RETRY_EXH: the packet is dropped on output `o` of a router and its source named (R220). -/
def Pkg.exhaust (k : Pkg) (g o : Nat) (pk : Packet) : Pkg := k.dropPacket g o pk 0x0602

/-- Count one retry on a link; the first on a bridge since the last clear records LN_BRIDGE_CRC (R219). -/
def Pkg.countRetry (k : Pkg) (g o : Nat) (pk : Packet) (inj : Bool) : Pkg :=
  let k := k.onClus (·.onCore (·.incSat (pageLn g) (0xA8 + 4 * o) 1))
  if isBridge g o then
    let t := k.cl.core.tick.toNat
    let (n, t0) := kget k.net.bridge (0, 0) (linkKey g o)
    let nw := if t < t0 + 65536 then (n + 1, t0) else (1, t)
    let k := k.onNet (fun x => { x with bridge := kput x.bridge (0, 0) (linkKey g o) nw })
    if kget k.net.crcRec false (linkKey g o) then k
    else
      (k.onNet (fun x => { x with crcRec := kput x.crcRec false (linkKey g o) true })).onClus (·.onCore
        (·.record (pageLn g) 0x0603 sevCorr pk.job.toNat (linkPlace g o)
          (detail41 0x0603 0xFF 0xFF 0 0 0 0 (lnLast4 pk)) inj))
  else k

/-- What a packet does to a link it crosses: VC0 flits, an armed CRC_FLIP and an armed RETRY_KILL (R213, R237). The
mark tells that the packet was lost. -/
def Pkg.cross (pk : Packet) (k : Pkg × Bool) (l : Nat × Nat) : Pkg × Bool :=
  if k.2 then k
  else
    let (g, o) := l
    let x := if pk.vc = 0 then
        k.1.onNet (fun n => { n with vc0 := kput n.vc0 0 (linkKey g o) (kget n.vc0 0 (linkKey g o) + flits pk) })
      else k.1
    let inj := x.cl.core.rd (pageLn g) 0x28
    if bitsAt inj 8 4 ≠ o then (x, false)
    else
      let x := if bitAt inj 0 then
          (x.onClus (·.onCore (·.setFld (pageLn g) 0x28 0 1 0))).countRetry g o pk true
        else x
      if bitAt inj 1 then
        ((((x.onClus (·.onCore (·.setFld (pageLn g) 0x28 1 1 0))).countRetry g o pk true).countRetry g o pk true).exhaust g o
          { pk with inj := true }, true)
      else (x, false)

/-- LN_BAD_PACKET: a MASK_MCAST of a user job is dropped at its source router (R216). -/
def Pkg.badPacket (k : Pkg) (pk : Packet) : Pkg :=
  let g := routerOf pk.srcDie.toNat pk.srcEp.toNat
  k.onClus (fun m =>
    let m := m.onCore (·.record (pageLn g) 0x060A sevCont pk.job.toNat (placeDie g 4)
      (detail41 0x060A 0xFF pk.slot.toNat 0 0 0 0 (lnLast4 pk)))
    match m.run (pkRg pk) pk.slot.toNat with
    | some r => if entJob r.words = pk.job.toNat then m.fail r.clu (fatalCause 0x060A) else m.faultJob pk.job.toNat 0x060A
    | none => m.faultJob pk.job.toNat 0x060A)

/-- Whether a line clear is armed for the present tick. -/
def Core.lcArmed (c : Core) : Bool := decide (c.rd8 pageRoot 0x340 ≠ 0 ∧ c.rd8 pageRoot 0x340 = c.tick.toNat)

/-- Whether a line clear keeps a packet at its source: VC1–VC3 from the hold on, and everything from Close offset 0 of the armed
tick. What answers a packet already on the lines still goes, so that the lines can empty (R224). -/
def Pkg.heldBack (k : Pkg) (pk : Packet) : Bool :=
  decide (pk.type ≠ 3 ∧ pk.type ≠ 4) &&
    ((k.net.hold && decide (pk.vc ≠ 0)) || (k.cl.core.lcArmed && decide (k.cl.core.close0 ≤ k.cl.core.cycle)))

/-- Inject a packet at a router: the present EPOCH, an armed EPOCH_FLIP, and the links of its route (R208, R237). A MASK_MCAST
of a user job goes no further (R216), and a packet that a line clear holds back waits (R224). -/
def Pkg.injectAt (k : Pkg) (up : Bool) (g : Nat) (pk : Packet) : Pkg :=
  if pk.type = 6 ∧ pk.job ≠ 15 then k.badPacket pk
  else if k.heldBack pk then k.onNet (fun n => { n with waiting := n.waiting ++ [pk] })
  else
    let inj := k.cl.core.rd (pageLn g) 0x28
    let flip := bitAt inj 2 && decide (bitsAt inj 8 4 < 10) && (decide (bitsAt inj 8 4 < 5) == up)
    let k := if flip then k.onClus (·.onCore (·.setFld (pageLn g) 0x28 2 1 0)) else k
    let pk := { pk with epoch := (k.cl.core.epoch g) != flip, inj := flip }
    let (k, lost) := (route up 32 g (routerOf pk.dstDie.toNat pk.dstEp.toNat)).foldl (Pkg.cross pk) (k, false)
    if lost then k else k.onNet (fun n => { n with pkts := n.pkts ++ [pk] })

/-- Router at which an endpoint injects. -/
def Pkg.inject (k : Pkg) (up : Bool) (die ep : Nat) (pk : Packet) : Pkg := k.injectAt up (routerOf die ep) pk

/-! ## Stores at the lines (R174–R179, R217, R348) -/

/-- Cluster of store endpoint `ep` of die g. -/
def epClu (g ep : Nat) : Nat := 10 * g + ep / 3
/-- Payload with the poison of H6. -/
def pkBytes (pk : Packet) : List PB := pk.payload.zipIdx.map (fun (e : Byte × Nat) => (e.1, bitAt pk.poison (e.2 / 32)))
/-- Poison bits of a payload. -/
def poisonBits (l : List PB) : W64 :=
  BitVec.ofNat 64 ((List.range 64).foldl (fun a i => if ((l.drop (32 * i)).take 32).any (·.2) then a + 2 ^ i else a) 0)

/-- The transfer run that a packet belongs to, if it is one of this tick (R260). -/
def Pkg.runOf (k : Pkg) (pk : Packet) : Option DmaRun :=
  k.net.runs.find? (fun r => decide (r.rg = pkRg pk ∧ r.slot = pk.slot.toNat ∧ r.desc = pk.txn.toNat % 256 ∧
    r.pilot = false ∧ 30 ≤ pk.srcEp.toNat ∧ pk.srcEp.toNat < 38))

/-- A remote source of a packet; DMA engines and line ports send for the slot that started the transfer. -/
def remoteOf (pk : Packet) : Who :=
  .remote pk.job.toNat (if pk.srcEp.toNat < 38 ∧ pkRg pk < 192 then some (pkRg pk, pk.slot.toNat) else none)

/-- Who a packet acts as at a store of a cluster: its own slot's DMA, or a remote source (R174). -/
def Pkg.whoOf (k : Pkg) (pk : Packet) (clu : Nat) : Who :=
  match k.runOf pk with
  | some r => if r.clu = clu then .own pk.job.toNat else remoteOf pk
  | none => remoteOf pk

/-- Cluster that mirrors the stores of `clu`, where BI_MIRROR is in force from it (R348). -/
def Pkg.mirrorOf (k : Pkg) (clu : Nat) : Option Nat :=
  let w := kget k.net.mirror 0 (clu / 5)
  if bitAt w 31 ∧ bitsAt w 28 3 = clu % 5 then some (clu / 5 * 5 + bitsAt w 25 3) else none

/-- Every cluster that takes a copy of what arrives for `clu`: its mirror, and its cluster at the relief die during a die
relief (R348, R355). -/
def Pkg.mirrorsOf (k : Pkg) (clu : Nat) : List Nat :=
  (k.mirrorOf clu).toList ++
    (let d := kget k.bi.dieMirror 0 (clu / 10)
     if d = 0 then [] else [10 * (d - 1) + clu % 10])

/-- Note the granules of a range that the mirror has written (R350). -/
def Pkg.noteMirror (k : Pkg) (clu st r b n : Nat) : Pkg :=
  let d := k.cl.core.region clu st r
  iter (n / 256 + 2) (fun i x =>
    if b / 256 + i ≤ (b + n - 1) / 256 then
      x.onNet (fun y => { y with
        mirrored := kput y.mirrored false (65536 * (3 * clu + st) + d.addr d.writeOrigin (256 * (b / 256 + i)) / 256) true })
    else x) k

/-- Read from a line out of a store: the bytes and the cause, 0 where served. A store that is itself fenced answers poison
and takes no write (R186; log entry 289). -/
def Pkg.lineRead (k : Pkg) (clu st r b n : Nat) (w : Who) : List PB × Nat × Pkg :=
  if k.storeFenced clu st then (List.replicate n (0, true), 0x0501, k)
  else
    let (l, code, m) := k.cl.readOp clu st r b n w unitLine
    (l, code, { k with cl := m })

/-- Write from a line into a store, and into its mirror; the cause, 0 where served. -/
def Pkg.lineWrite (k : Pkg) (clu st r b : Nat) (l : List PB) (w : Who) : Nat × Pkg :=
  let (code, k) : Nat × Pkg := if k.storeFenced clu st then (0x0502, k)
    else
      let (code, m) := k.cl.writeOp clu st r b l w unitLine
      (code, { k with cl := m })
  (code, (k.mirrorsOf clu).foldl (fun x c2 =>
    if x.storeFenced c2 st = false ∧ x.cl.writeCause c2 st r b l.length (.remote w.job) false = 0 then
      let x := x.noteMirror c2 st r b l.length
      { x with cl := (x.cl.writeOp c2 st r b l (.remote w.job) unitLine).2 }
    else x) k)

/-- FLAG of a store cause (R208). -/
def flagOf (code : Nat) : BitVec 2 := if code = 0 then 0 else if code = 0x0501 then 1 else if code = 0x0502 then 2 else 3

/-- Failure cause that an event code is to the slot that issued the access (R32, R176, R177, R179). -/
def causeOf (code : Nat) (inj : Bool := false) : FailCause :=
  if code = 0x0501 ∨ code = 0x0502 ∨ code = 0x0504 ∨ code = 0x0103 then progCause code
  else if code = 0x0601 ∨ code = 0x0602 ∨ code = 0x0805 ∨ code / 256 = 0x0A then checkCause code inj
  else fatalCause code

/-- Keep the cause of a flagged answer (the answer itself carries only FLAG). -/
def whyKey (pk : Packet) : Nat := pk.srcDie.toNat * 2 ^ 18 + pk.srcEp.toNat * 2 ^ 12 + pk.txn.toNat
/-- Keep or clear it. -/
def Pkg.setWhy (k : Pkg) (pk : Packet) (code : Nat) : Pkg :=
  if code = 0 then k else k.onNet (fun n => { n with why := kput n.why 0 (whyKey pk) code })

/-- Take an arriving packet off the lines; one with a stale EPOCH is dropped and its source named (R226). -/
def Pkg.arrive (k : Pkg) (pk : Packet) (g : Nat) (f : Pkg → Pkg) : Pkg :=
  if k.net.pkts.elem pk = false then k
  else
    let k := k.onNet (fun n => { n with pkts := dropFirst (· == pk) n.pkts })
    if pk.epoch ≠ k.cl.core.epoch g then k.dropPacket g 4 pk 0x0601 else f k

/-- HBM stack of an edge endpoint. -/
def epStack (die ep : Nat) : Nat := (die - 96) * 6 + ep

/-- The answer to a READ, sent to RPL. The requester's die, endpoint and tag stay in the header. -/
def replyOf (pk : Packet) (l : List PB) (flag : BitVec 2) : Packet :=
  { pk with type := 3, phase := false, flag := flag, dstDie := pk.rplDie, dstEp := pk.rplEp, dstRegion := pk.rplRegion,
            dstGoff := pk.rplGoff, rplDie := 0, rplEp := 0, rplRegion := 0, rplGoff := 0, addr := 0,
            poison := poisonBits l, payload := l.map (·.1), chunks := BitVec.ofNat 6 ((l.length + 63) / 64) }
/-- The answer to a WRITE, sent to its source. -/
def completionOf (pk : Packet) (flag : BitVec 2) : Packet :=
  { pk with type := 4, phase := false, flag := flag, dstDie := pk.srcDie, dstEp := pk.srcEp, dstRegion := 0, dstGoff := 0,
            addr := 0, chunks := 0, poison := 0, payload := [] }

/-- READ at a store line port or an HBM controller (R209). -/
def Pkg.readAt (k : Pkg) (pk : Packet) : Pkg :=
  let die := pk.dstDie.toNat
  let ep := pk.dstEp.toNat
  let n := 64 * pk.chunks.toNat
  if die < 96 ∧ ep < 30 then
    let clu := epClu die ep
    let (l, code, k) := k.lineRead clu (ep % 3) pk.dstRegion.toNat (256 * pk.dstGoff.toNat) n (k.whoOf pk clu)
    (k.setWhy pk code).inject false die ep (replyOf pk l (flagOf code))
  else if 96 ≤ die ∧ die < 100 ∧ ep < 6 then
    let (l, k) := k.dpaRead pk.addr.toNat n
    k.inject false die ep (replyOf pk l 0)
  else k

/-- WRITE at a store line port, an HBM controller or the attach cache (R209). -/
def Pkg.writeAt (k : Pkg) (pk : Packet) : Pkg :=
  let die := pk.dstDie.toNat
  let ep := pk.dstEp.toNat
  if die < 96 ∧ ep < 30 then
    let clu := epClu die ep
    let (code, k) := k.lineWrite clu (ep % 3) pk.dstRegion.toNat (256 * pk.dstGoff.toNat) (pkBytes pk) (k.whoOf pk clu)
    (k.setWhy pk code).inject false die ep (completionOf pk (flagOf code))
  else if 96 ≤ die ∧ die < 100 ∧ ep < 6 then
    (k.dpaWrite pk.addr.toNat (pkBytes pk)).inject false die ep (completionOf pk 0)
  else k

/-! ## Multicast (R215–R217) -/

/-- Group entry in force at a router. -/
def Core.groupEntry (c : Core) (g n : Nat) : W32 := c.rd (pagePts g) (0x200 + 0x100 * c.ptsBank g + 4 * n)

/-- Routers of a group's tree from a router on (R215). -/
def Core.treeDies (c : Core) (n : Nat) : Nat → Nat → List Nat
  | 0, _ => []
  | f + 1, g =>
    let w := c.groupEntry g n
    g :: ((List.range 4).filter (fun o => bitAt w (23 - o))).flatMap (fun o =>
      match neighbour g o with
      | some x => c.treeDies n f x
      | none => [])

/-- Deliver a multicast write to the same store of a cluster; a refusing member sends a notice (R217). -/
def Pkg.deliver (k : Pkg) (pk : Packet) (clu : Nat) (quiet : Bool) : Pkg :=
  let st := pk.dstEp.toNat % 3
  let b := 256 * pk.dstGoff.toNat
  let (code, k) := if quiet then
      let (code, m) := k.cl.writeOp clu st pk.dstRegion.toNat b (pkBytes pk) (remoteOf pk) unitLine
      (code, { k with cl := m })
    else k.lineWrite clu st pk.dstRegion.toNat b (pkBytes pk) (remoteOf pk)
  if code = 0 ∨ quiet then k else k.onClus (·.noticeSource pk code)

/-- Deliver a group multicast at one router: its LOCAL slots, and a pilot of a delivered slot (R215). -/
def Pkg.deliverLocal (k : Pkg) (pk : Packet) (g : Nat) : Pkg :=
  let w := k.cl.core.groupEntry g pk.group.toNat
  iter 2 (fun r x =>
    let map := x.cl.core.slotMap (2 * g + r)
    iter 4 (fun n y =>
      if bitAt w (12 + 4 * r + n) then
        let y := y.deliver pk (y.cl.core.cluOf (2 * g + r) n) false
        if mapPilotEn map && decide (mapPilotOf map = n) && (y.mirrorOf (y.cl.core.cluOf (2 * g + r) n)).isNone then
          y.deliver pk (y.cl.core.reliefOf (2 * g + r)) true
        else y
      else y) x) k

/-- Paths of a group's tree from a router on: to each router with a local delivery, the links from the root, the local output
last (R215). -/
def Core.treePaths (c : Core) (n : Nat) : Nat → Nat → List (Nat × Nat) → List (List (Nat × Nat))
  | 0, _, _ => []
  | f + 1, g, before =>
    let w := c.groupEntry g n
    (if bitsAt w 12 8 = 0 then [] else [before ++ [(g, 9)]]) ++
      ((List.range 4).filter (fun o => bitAt w (23 - o))).flatMap (fun o =>
        match neighbour g o with
        | some x => c.treePaths n f x (before ++ [(g, 5 + o)])
        | none => [before ++ [(g, 5 + o)]])

/-- What a multicast has crossed: the device, the links that took a copy on and the links that lost it. -/
structure TreeWalk where
  k : Pkg
  done : List (Nat × Nat)
  lost : List (Nat × Nat)

/-- A packet's copy goes along one path of its tree up to the first link that loses it; a link that has taken its copy already
is not crossed again (R215, R220). -/
def TreeWalk.along (pk : Packet) (w : TreeWalk) : List (Nat × Nat) → TreeWalk
  | [] => w
  | l :: r =>
    if w.lost.elem l then w
    else if w.done.elem l then TreeWalk.along pk w r
    else
      let (k, gone) := Pkg.cross pk (w.k, false) l
      if gone then { w with k := k, lost := w.lost ++ [l] }
      else TreeWalk.along pk { w with k := k, done := w.done ++ [l] } r

/-- A multicast crosses every link of its tree; the device after it, and the routers whose local output it has reached: all but
those behind a link that lost it (R213, R220, R237). -/
def Pkg.walkTree (k : Pkg) (pk : Packet) (paths : List (List (Nat × Nat))) : Pkg × List Nat :=
  let w := paths.foldl (TreeWalk.along pk) ⟨k, [], []⟩
  (w.k, paths.filterMap (fun p => match p.getLast? with
    | some l => if l.2 = 9 ∧ w.done.elem l then some l.1 else none
    | none => none))

/-- GROUP_MCAST at its root: along the tree (R215). -/
def Pkg.groupMcast (k : Pkg) (pk : Packet) : Pkg :=
  let (k, dies) := k.walkTree pk (k.cl.core.treePaths pk.group.toNat 24 pk.dstDie.toNat [])
  dies.foldl (fun x g => x.deliverLocal pk g) k

/-- MASK_MCAST at its root, of job 15: along the Down Line routes from the root to every die of the mask (R216). -/
def Pkg.maskMcast (k : Pkg) (pk : Packet) : Pkg :=
  let (k, dies) := k.walkTree pk (((List.range 96).filter (fun g => pk.mask.getLsbD g)).map (route false 24 pk.dstDie.toNat))
  dies.foldl (fun x g => iter 10 (fun c y => if pk.cmask.getLsbD c then y.deliver pk (10 * g + c) false else y) x) k

/-! ## Notices, retries and bridges -/

/-- REFUSAL_NOTICE: the named slot fails if it is departed in this tick with the packet's job (R217, R220). -/
def Clus.refusalNotice (m : Clus) (n : Notice) : Clus :=
  let m := { m with msg := { m.msg with notices := dropFirst (· == n) m.msg.notices } }
  match m.run n.rgn.val n.slot.val with
  | some r => if r.due = false ∧ entJob r.words = n.job.val then m.fail r.clu (causeOf n.cause.toNat n.inj) else m
  | none => m

/-- FLIT_CRC_ERROR: one failed transmission of a flit; its third exhausts the retries (R219, R220). -/
def Pkg.flitCrc (k : Pkg) (g o : Nat) (pk : Packet) (flit : Nat) : Pkg :=
  if k.net.pkts.elem pk = false ∨ flits pk ≤ flit then k
  else
    let key := linkKey g o
    let n := match kget k.net.retry none key with
      | some (q, i, c) => if q = pk ∧ i = flit then c + 1 else 1
      | none => 1
    if 3 ≤ n then
      let k := k.onNet (fun x => { x with retry := kput x.retry none key none, pkts := dropFirst (· == pk) x.pkts })
      k.exhaust g o pk
    else (k.onNet (fun x => { x with retry := kput x.retry none key (some (pk, flit, n)) })).countRetry g o pk false

/-- A failed flit on a link of a die's Signal router: it is retried (R227). -/
def Core.sigRetry (c : Core) (g : Nat) : Core := c.incSat (pageSig g) 0x44 1

/-- Links that a packet on the lines goes through: the route from its source, or from its root a multicast's tree. -/
def Core.pktLinks (c : Core) (pk : Packet) : List (Nat × Nat) :=
  let a := routerOf pk.srcDie.toNat pk.srcEp.toNat
  let b := routerOf pk.dstDie.toNat pk.dstEp.toNat
  if pk.type = 5 then route true 24 a b ++ (c.treePaths pk.group.toNat 24 b []).flatten
  else if pk.type = 6 then
    route true 24 a b ++ (((List.range 96).filter (fun g => pk.mask.getLsbD g)).map (route false 24 b)).flatten
  else route (decide (pk.type ≠ 3 ∧ pk.type ≠ 4)) 24 a b

/-- LN_NO_PROGRESS: an output with a packet on its way through it has granted nothing for LN_PROG_LIMIT cycles (R236; log entry
292). -/
def Clus.lnNoProgress (m : Clus) (pkts : List Packet) (g o : Nat) : Clus :=
  match pkts.find? (fun pk => (m.core.pktLinks pk).elem (g, o)) with
  | none => m
  | some pk => m.onCore (·.record (pageLn g) 0x060B sevDegr 15 (linkPlace g o) (detail41 0x060B 0xFF 0xFF 0 0 0 0 (lnLast4 pk)))

/-- BRIDGE_LANE_REPAIR: after 64 retries in 65,536 ticks the block post, in a Guard phase, maps a lane onto a spare; with both
spares used, the link goes to half width (R221). -/
def Pkg.bridgeRepair (k : Pkg) (g o : Nat) : Pkg :=
  let key := linkKey g o
  let n := kget k.net.spares 0 key
  if isBridge g o = false ∨ (kget k.net.bridge (0, 0) key).1 < 64 ∨ k.bpUp (2 * g) = false ∨ k.cl.core.inGuard = false ∨ 3 ≤ n
  then k
  else
    let k := k.onNet (fun x => { x with bridge := kput x.bridge (0, 0) key (0, 0), spares := kput x.spares 0 key (n + 1) })
    let ev (code sev : Nat) : Pkg := k.onClus (·.onCore (·.record (pageLn g) code sev 15 (linkPlace g o)
      (detail41 code 0xFF 0xFF 0 0 0 0 0)))
    if n < 2 then ev 0x0604 sevCorr else ev 0x0605 sevDegr

/-- Whether a bridge link that runs at half width has failed again: it cannot run narrower, which is a concourse fault (R221). -/
def Pkg.bridgeLost (k : Pkg) (g o : Nat) : Bool :=
  isBridge g o && decide (64 ≤ (kget k.net.bridge (0, 0) (linkKey g o)).1) && decide (kget k.net.spares 0 (linkKey g o) = 3)

/-- Guard: the bridge links without a spare left run at half width from here on (R221). -/
def Pkg.halfWidths (k : Pkg) : Pkg :=
  k.onNet (fun n => { n with half := n.spares.foldl (fun m e => if e.2 = 3 then kput m false e.1 true else m) n.half })

/-- VC0 allowance of a link at a Run budget, in flit-cycles per tick (R213, R214). -/
def Pkg.allowance (k : Pkg) (budget link : Nat) : Nat :=
  6 * budget / 10 / (if kget k.net.half false link then 2 else 1)

/-! ## The line clear (R224, R225) -/

/-- LINE_CLEAR_ARM: TB_LC_ARM; the deferrals and arrivals of an earlier line clear are gone from TB_LC_STATUS. -/
def Core.lcArm (c : Core) (t : Nat) : Core := (c.wr8 pageRoot 0x340 t).zero pageRoot 0x34C 5
/-- LINE_CLEAR_HOLD: LC_HOLD cycles before Close offset 0 of the armed tick, VC1–VC3 injection stops. -/
def Pkg.lcHold (k : Pkg) : Pkg :=
  if k.cl.core.lcArmed ∧ k.cl.core.close0 ≤ k.cl.core.cycle + k.cl.core.fld pageRoot 0x348 0 16 then
    k.onNet (fun n => { n with hold := true })
  else k

/-- Transactions of a descriptor that its engine counts as outstanding: its reads and writes without the ones that a line clear
still keeps from the lines (R224). -/
def Pkg.inFlight (k : Pkg) (r : DmaRun) : Nat :=
  r.outst.length + r.wr - (k.net.waiting.filter (fun pk =>
    decide ((pk.type = 1 ∨ pk.type = 2) ∧ pkRg pk = r.rg ∧ pk.slot.toNat = r.slot ∧ pk.txn.toNat % 256 = r.desc ∧
      pk.srcEp.toNat = 30 + r.engine))).length

/-- Whether a participant's routers, requesters and endpoints are empty: 0–95 the die positions, 96–99 the edges. -/
def Pkg.lcEmpty (k : Pkg) (i : Nat) : Bool :=
  let at_ (pk : Packet) : Bool := if i < 96 then
      decide (routerOf pk.dstDie.toNat pk.dstEp.toNat = i) || decide (pk.srcDie.toNat = i)
    else decide (pk.dstDie.toNat = i ∨ pk.srcDie.toNat = i)
  !k.net.pkts.any at_ &&
    !k.net.runs.any (fun r => decide (r.phase = .running ∧ r.engine < 8 ∧ r.rg / 2 = i ∧ 0 < k.inFlight r))

/-- LINE_CLEAR_ARRIVE: a participant arrives on through tablet 30 (R224). -/
def Pkg.lcArrive (k : Pkg) (i : Nat) : Pkg :=
  if k.cl.core.lcArmed ∧ k.cl.core.close0 ≤ k.cl.core.cycle ∧ k.lcEmpty i = true then
    k.onClus (·.onCore (fun c =>
      let off := 0x350 + 4 * (i / 32)
      if c.fld pageRoot off (i % 32) 1 = 1 then c
      else
        let c := c.setFld pageRoot off (i % 32) 1 1
        let n := c.tbCount pageRoot (thruOff 30) + 1
        if 100 ≤ n then c.setTb pageRoot (thruOff 30) 0 (c.tbGen pageRoot (thruOff 30) + 1)
        else c.setTb pageRoot (thruOff 30) n (c.tbGen pageRoot (thruOff 30))))
  else k

/-- Whether every participant has arrived. -/
def Core.lcDone (c : Core) : Bool :=
  decide (c.rd pageRoot 0x350 = 0xFFFFFFFF ∧ c.rd pageRoot 0x354 = 0xFFFFFFFF ∧ c.rd pageRoot 0x358 = 0xFFFFFFFF ∧
    c.fld pageRoot 0x35C 0 4 = 15)

/-- CRC-32 of the inactive bank of a points table: its DIE_MAP bytes, then its GROUP bytes (PTS_SHADOW_CRC). -/
def Core.shadowCrc (c : Core) (g : Nat) : Nat :=
  let b := 1 - c.ptsBank g
  let bytes (off n : Nat) : List Byte := (List.range n).flatMap (fun i => bytes4 (c.rd (pagePts g) (off + 4 * i)))
  crc32 (bytes (0x100 + 0x80 * b) 24 ++ bytes (0x200 + 0x100 * b) 64)

/-- POINTS_SWAP at Guard offset 64 for the points tables: the swap, or a deferral, failing after 16 (R224, R225). -/
def Pkg.pointsSwap (k : Pkg) : Pkg :=
  if k.cl.core.lcArmed = false then k
  else
    let next (c : Core) : Core := c.setTb pageRoot (thruOff 30) 0 (c.tbGen pageRoot (thruOff 30) + 1)
    let clear (c : Core) : Core := (c.zero pageRoot 0x350 4).setTb pageRoot (thruOff 30) 0 (c.tbGen pageRoot (thruOff 30))
    if k.cl.core.lcDone then
      k.onClus (·.onCore (fun c =>
        let c := iter 96 (fun g x =>
          let b := x.ptsBank g
          let e := x.epoch g
          (x.setFld (pagePts g) 0x40 31 1 (1 - b)).setFld (pagePts g) 0x40 30 1 (if e then 0 else 1)) c
        ((clear c).wr8 pageRoot 0x340 0).setFld pageRoot 0x34C 0 8 0))
    else
      let n := k.cl.core.fld pageRoot 0x34C 0 8 + 1
      let d (code : Nat) : Nat := detail41 code 0xFF 0xFF 0 0 0 0 0
      k.onClus (·.onCore (fun c =>
        let c := (next (c.record pageRoot 0x0606 sevInfo 15 (placeEdge 0 8 0) (d 0x0606))).setFld pageRoot 0x34C 0 8 n
        if 16 ≤ n then (c.record pageRoot 0x0607 sevDegr 15 (placeEdge 0 8 0) (d 0x0607)).wr8 pageRoot 0x340 0
        else (c.zero pageRoot 0x350 4).wr8 pageRoot 0x340 (c.tick.toNat + 1)))

/-- Departure offset 0: injection resumes after a line clear (R224), and the block posts that serve send the lost packets of job
15 again (R220). -/
def Pkg.linesResume (k : Pkg) : Pkg :=
  let mine (pk : Packet) : Bool := k.bpUp (2 * routerOf pk.srcDie.toNat pk.srcEp.toNat)
  let l := k.net.waiting ++ k.net.again.filter mine
  (l.foldl (fun x pk => x.inject (decide (pk.type ≠ 3 ∧ pk.type ≠ 4)) pk.srcDie.toNat pk.srcEp.toNat pk)
    (k.onNet (fun n => { n with hold := false, waiting := [], again := n.again.filter (fun pk => !mine pk) })))

/-- LN_LATE: VC0 packets still in a line at the last cycle of Close are discarded, and their jobs fault (R218). -/
def Pkg.lnLate (k : Pkg) : Pkg :=
  let late := k.net.pkts.filter (fun pk => decide (pk.vc = 0))
  let k := k.onNet (fun n => { n with pkts := n.pkts.filter (fun pk => decide (pk.vc ≠ 0)) })
  late.foldl (fun x pk =>
    let g := routerOf pk.dstDie.toNat pk.dstEp.toNat
    x.onClus (fun m => (m.onCore (·.record (pageLn g) 0x0609 sevCont pk.job.toNat (placeDie g 4)
      (detail41 0x0609 0xFF pk.slot.toNat 0 0 0 0 (lnLast4 pk)))).faultJob pk.job.toNat 0x0609)) k

/-- The VC0 counts of the tick: LN_VC0_FLITS, and LN_VC0_EXCESS once per link above its allowance (R213, R214). -/
def Pkg.vc0Close (k : Pkg) (budget : Nat) : Pkg :=
  let counts := k.net.vc0
  let k := iter 96 (fun g x => iter 10 (fun o y =>
    let n := kget counts 0 (linkKey g o)
    if n = 0 ∧ y.cl.core.rd (pageLn g) (0x80 + 4 * o) = 0 then y
    else
      let y := y.onClus (·.onCore (·.wr (pageLn g) (0x80 + 4 * o) (BitVec.ofNat 32 n)))
      if y.allowance budget (linkKey g o) < n then
        y.onClus (·.onCore (·.record (pageLn g) 0x0608 sevInfo 15 (linkPlace g o) (detail41 0x0608 0xFF 0xFF 0 0 0 0 0)))
      else y) x) k
  k.onNet (fun n => { n with vc0 := [] })

/-- Arm an injection of the LN page; LINK 10–15 names no link, and the bit clears itself (R237). -/
def Core.lnArm (c : Core) (g link bit : Nat) : Core :=
  if link < 10 then (c.setFld (pageLn g) 0x28 8 4 link).setFld (pageLn g) 0x28 bit 1 1
  else c.setFld (pageLn g) 0x28 8 4 link

/-! ## The commands -/

/-- GROUP_MCAST (R215). -/
def execGroupMcast (pk : Packet) (s : State) : Out := .next (s.onPkg (·.arrive pk pk.dstDie.toNat (·.groupMcast pk)))
/-- MASK_MCAST (R216). -/
def execMaskMcast (pk : Packet) (s : State) : Out :=
  .next (s.onPkg (fun k => if pk.job = 15 then k.arrive pk pk.dstDie.toNat (·.maskMcast pk) else k.badPacket pk))
/-- FLIT_CRC_ERROR (R219). -/
def execFlitCrcError (f : FlitAt) (s : State) : Out :=
  match f with
  | .line g o pk f => .next (s.onPkg (·.flitCrc g.val o.val pk f.val))
  | .tablet c t => .next (s.onClus (·.tabletFlit c.val t.val))
  | .root i => .next (s.onClus (·.rootFlit i.val))
  | .signal g => .next (s.onClus (·.onCore (·.sigRetry g.val)))
/-- REFUSAL_NOTICE (R217). -/
def execRefusalNotice (n : Notice) (s : State) : Out := .next (s.onClus (·.refusalNotice n))
/-- LN_NO_PROGRESS (R236). -/
def execLnNoProgress (g : Die) (o : Fin 10) (s : State) : Out :=
  .next (s.onClus (·.lnNoProgress s.pk.net.pkts g.val o.val))
/-- LINE_CLEAR_ARM (R224). -/
def execLineClearArm (t : W64) (s : State) : Out := .next (s.onClus (·.onCore (·.lcArm t.toNat)))
/-- LINE_CLEAR_HOLD (R224). -/
def execLineClearHold (s : State) : Out := .next (s.onPkg (·.lcHold))
/-- LINE_CLEAR_ARRIVE (R224). -/
def execLineClearArrive (i : Fin 100) (s : State) : Out := .next (s.onPkg (·.lcArrive i.val))
/-- LN_CNT_CLR: the counters at 0x080–0x0CF. -/
def execLnCntClr (g : Die) (s : State) : Out :=
  .next (s.onPkg (fun k => (k.onClus (·.onCore (·.zero (pageLn g.val) 0x80 20))).onNet (fun n =>
    { n with crcRec := kclear n.crcRec (10 * g.val) 10 })))
/-- CRC_FLIP (R237). -/
def execCrcFlip (g : Die) (l : Fin 16) (s : State) : Out := .next (s.onClus (·.onCore (·.lnArm g.val l.val 0)))
/-- RETRY_KILL (R237). -/
def execRetryKill (g : Die) (l : Fin 16) (s : State) : Out := .next (s.onClus (·.onCore (·.lnArm g.val l.val 1)))
/-- EPOCH_FLIP (R237). -/
def execEpochFlip (g : Die) (l : Fin 16) (s : State) : Out := .next (s.onClus (·.onCore (·.lnArm g.val l.val 2)))

end Sys2Proof.Machine
end

