-- ==== Sys2Proof/Machine/Links.lean ====
section
/-!
DEFINITION. Training and link layer of the 18 fabric ports and of the Attach Link (R275–R287, R315, R317–R319): the
steps of R280, widths and lane maps, go-back-N retry, credits, and lanes dropped and rejoined.
-/
namespace Sys2Proof.Machine

/-- The Attach Link's number among the links. -/
def salLink : Nat := 18

/-- A link whose lanes are in electrical idle. -/
def idleLink : LinkS :=
  { step := .off, cap := 0, gen := 0, present := 0, peerGen := 0, peerMinW := 0, peerNode := 0, peerPort := 0,
    peerTag := 0, peerFfe := 0, lanes := [], bestGen := 0, bestW := 0, txNext := 0, txAck := 0, failSeq := 0,
    failCnt := 0, rxNext := 0, rxDrop := false, nakDue := none, held := [], freed := [0, 0, 0, 0], kept := [0, 0, 0, 0],
    ctlOut := none, sinceCtl := 0, alignIn := [], alignOut := [], alignTx := [], scr := [], cw := [], cwFails := [],
    credit := [0, 0, 0, 0], wreq := none, wpend := none, dropped := [], lastRt := [], tag := 0, saved := false }

/-- A link. -/
def Pkg.link (k : Pkg) (l : Nat) : LinkS := (kget k.fab.link none l).getD idleLink
/-- Set a link. -/
def Pkg.setLink (k : Pkg) (l : Nat) (x : LinkS) : Pkg := { k with fab := { k.fab with link := kput k.fab.link none l (some x) } }
/-- Apply a change to the fabric. -/
def Pkg.onFab (k : Pkg) (f : FabS → FabS) : Pkg := { k with fab := f k.fab }
/-- Apply a change to the shared part. -/
def Pkg.onCore (k : Pkg) (f : Core → Core) : Pkg := k.onClus (·.onCore f)

/-- Register page of a link. -/
def linkPage (l : Nat) : Nat := if l = salLink then pageAt else pageFb l
/-- Place code of a link. -/
def linkLoc (l : Nat) : Nat := if l = salLink then placeEdge 0 5 0 else placeEdge (portQuad l) 1 l

/-- STATE of FB_PORT_STATUS. -/
def Pkg.portState (k : Pkg) (p : Nat) : Nat := k.cl.core.fld (pageFb p) 0x44 29 3
/-- Set STATE of a port; the Attach Link has none. -/
def Pkg.setPortState (k : Pkg) (l x : Nat) : Pkg :=
  if l = salLink then k else k.onCore (·.setFld (pageFb l) 0x44 29 3 x)
/-- Code of a width: 0 x1, 1 x2, 2 x4, 3 x8; for the Attach Link 0 x4, 1 x8, 2 x16. -/
def widthCode (l w : Nat) : Nat := if l = salLink then Nat.log2 w - 2 else Nat.log2 w
/-- Width of a code of a port. -/
def widthOf (code : Nat) : Nat := 2 ^ code
/-- Lanes of a mask, ascending. -/
def maskLanes (n m : Nat) : List Nat := (List.range n).filter (fun i => decide (m / 2 ^ i % 2 = 1))
/-- Mask of lanes. -/
def lanesMask (l : List Nat) : Nat := l.foldl (fun a i => if a / 2 ^ i % 2 = 1 then a else a + 2 ^ i) 0
/-- Lanes of a link. -/
def laneCount (l : Nat) : Nat := if l = salLink then 16 else 8
/-- Lanes that may train: LANE_EN, or every Attach Link lane but those slice A29 removed (R383). -/
def Pkg.laneEn (k : Pkg) (l : Nat) : Nat :=
  if l = salLink then lanesMask ((maskLanes 16 0xFFFF).filter (fun i => decide (k.fab.salBad / 2 ^ i % 2 = 0))) else k.cl.core.fld (pageFb l) 0x40 19 8
/-- Widths a link may take, largest first (R280, R318). -/
def widths (l : Nat) : List Nat := if l = salLink then [16, 8, 4] else [8, 4, 2, 1]
/-- The largest width not above n lanes, 0 where there is none. -/
def fitWidth (l n : Nat) : Nat := ((widths l).find? (fun w => decide (w ≤ n))).getD 0
/-- MIN_WIDTH in lanes. -/
def Pkg.minWidth (k : Pkg) (l : Nat) : Nat := if l = salLink then 4 else widthOf (k.cl.core.fld (pageFb l) 0x40 27 2)
/-- MAX_GEN. -/
def Pkg.maxGen (k : Pkg) (l : Nat) : Nat := if l = salLink then 3 else k.cl.core.fld (pageFb l) 0x40 29 2
/-- Lowest generation: Detect, Exchange and Map run at it. -/
def baseGen (l : Nat) : Nat := if l = salLink then 2 else 1

/-- Detail bytes of a fabric event (R314). -/
def detailFb (node port reason genw fgroup w : Nat) : Nat :=
  node % 65536 + port % 256 * 2 ^ 16 + reason % 256 * 2 ^ 24 + genw % 256 * 2 ^ 32 + fgroup % 65536 * 2 ^ 40 +
    w % 2 ^ 32 * 2 ^ 64
/-- Detail bytes of an Attach Link event (R342). -/
def detailAt (addr op status ring state tag : Nat) : Nat :=
  addr % 2 ^ 48 + op % 256 * 2 ^ 48 + status % 256 * 2 ^ 56 + ring % 256 * 2 ^ 64 + state % 256 * 2 ^ 72 +
    tag % 2 ^ 32 * 2 ^ 80

/-- Node and incarnation of a port's peer. -/
def Pkg.peerNode (k : Pkg) (p : Nat) : Nat := k.cl.core.fld (pageFb p) 0x50 16 16
/-- Incarnation of a port's peer. -/
def Pkg.peerInc (k : Pkg) (p : Nat) : Nat := k.cl.core.fld (pageFb p) 0x50 8 8

/-- An event of a port or of the Attach Link; a port keeps its first record in FB_FIRST_ERR (R314, R342). -/
def Pkg.linkEvent (k : Pkg) (l code sev reason genw : Nat) (inj : Bool := false) : Pkg :=
  if l = salLink then
    k.onCore (·.record pageAt code sev 15 (linkLoc l) (detailAt 0 0 reason 0xFF 0 0) inj)
  else
    k.onCore (·.recordCap (pageFb l) 0xC0 code sev 15 (linkLoc l) (detailFb (k.peerNode l) l reason genw 0 0) inj)

/-- Generation and width of a link as its events show them, 0 while it is not up (R314). -/
def LinkS.genw (x : LinkS) (l : Nat) : Nat := if x.step = .up then x.gen * 4 + widthCode l x.lanes.length else 0

/-- GEN, WIDTH and GOOD of FB_PORT_STATUS with the lane map, or AT_LINK of the control window. -/
def Pkg.showLanes (k : Pkg) (l : Nat) : Pkg :=
  let x := k.link l
  let up := decide (x.step = .up)
  let gen := if up then x.gen else 0
  let w := x.lanes.length
  if l = salLink then
    let v : W32 := BitVec.ofNat 32 (if up then gen * 2 ^ 30 + widthCode l w * 2 ^ 28 else 0)
    k.onAtt (fun a => { a with cw := kput a.cw 0 (0x4C / 4) v })
  else
    k.onCore (fun c =>
      let c := c.setFld (pageFb l) 0x44 27 2 gen
      let c := c.setFld (pageFb l) 0x44 25 2 (if up then widthCode l w else 0)
      let c := c.setFld (pageFb l) 0x44 17 8 (if up then lanesMask x.lanes else 0)
      let c := c.setFld (pageFb l) 0x44 16 1 (if x.dropped = [] then 0 else 1)
      c.wr (pageFb l) 0x48 (BitVec.ofNat 32
        ((x.lanes.zipIdx).foldl (fun a (e : Nat × Nat) => a + (8 + e.1 % 8) * 16 ^ e.2) 0)))

/-! ## Progress of bring-up (R381, R406) -/

/-- STEP of BI_BU_STATE. -/
def Core.buStep (c : Core) : Nat := c.fld pageBu 0x40 28 4
/-- Set STEP. -/
def Core.setStep (c : Core) (n : Nat) : Core := c.setFld pageBu 0x40 28 4 n
/-- Detail bytes of a bring-up event (R406). -/
def detailBu (step slice reason quad count mask : Nat) : Nat :=
  step % 256 + slice % 256 * 2 ^ 8 + reason % 256 * 2 ^ 16 + quad % 256 * 2 ^ 24 + count % 2 ^ 32 * 2 ^ 32 +
    mask % 256 * 2 ^ 64
/-- A bring-up event. -/
def Core.buEvent (c : Core) (code sev place detail : Nat) : Core := c.record pageBu code sev 15 place detail
/-- Step n of 3–8 ends: its tick, BI_STEP, and the next step is in progress (R381). -/
def Core.stepEnd (c : Core) (n : Nat) : Core :=
  ((c.wr8 pageBu (0x50 + 8 * (n - 3)) c.tick.toNat).buEvent 0x0F01 sevInfo (placeSbx 0) (detailBu n 0xFF 0 0xFF 0 0)).setStep
    (n + 1)

/-! ## Transactions lost with a path (R294) -/

/-- Key of a stream. -/
def streamKey (node fgroup fvc : Nat) : Nat := 2 ^ 18 * node + 4 * fgroup + fvc

/-- The run of a descriptor. -/
def Pkg.findRun (k : Pkg) (rg slot desc : Nat) : Option DmaRun :=
  k.net.runs.find? (fun r => decide (r.rg = rg ∧ r.slot = slot ∧ r.desc = desc ∧ r.pilot = false))

/-- Put a run back in its place. -/
def Pkg.setDma (k : Pkg) (r : DmaRun) : Pkg :=
  k.onNet (fun n => { n with runs := n.runs.map (fun x =>
    if x.rg = r.rg ∧ x.slot = r.slot ∧ x.desc = r.desc ∧ x.pilot = r.pilot then r else x) })

/-- A descriptor ends without completing: its engine is free and its slot fails with a cause. -/
def Pkg.killRun (k : Pkg) (r : DmaRun) (f : FailCause) : Pkg :=
  let k := if r.engine < 8 then k.onCore (·.wr (pageDma (r.rg / 2)) (0x40 + 8 * r.engine) 0) else k
  (k.setDma { r with phase := .dead, outst := [], engine := 8 }).onClus (·.fail r.clu f)

/-- Last four detail bytes of FB_XPORT_LOST and FB_WIN_NAK (R314). -/
def xportLast4 (t : XTxn) (reason : Nat) : Nat := t.node + reason % 256 * 2 ^ 16 + t.port % 256 * 2 ^ 24

/-- One outstanding transaction fails with FB_XPORT_LOST; the next frame of its stream carries SRST (R294). -/
def Pkg.loseTxn (k : Pkg) (t : XTxn) (reason : Nat) : Pkg :=
  let k := k.onFab (fun f => { f with
    out := dropFirst (· == t) f.out, txRst := kput f.txRst false (streamKey t.node t.fgroup t.fvc) true })
  match k.findRun t.rg t.slot t.desc with
  | some r =>
    if r.phase = .running then
      (k.onClus (fun m => m.onCore (·.note (pageFb t.port) 0x0A0A sevCause r.job
        (m.detail r.clu 0x0A0A 0 (xportLast4 t reason))))).killRun r (checkCause 0x0A0A)
    else k
  | none => k

/-- Every transaction outstanding on a port fails, and each of its streams starts a new base (R294). -/
def Pkg.losePort (k : Pkg) (p reason : Nat) : Pkg :=
  let l := k.fab.out.filter (fun t => decide (t.port = p))
  let k := l.foldl (fun x t => x.loseTxn t reason) k
  k.onFab (fun f => { f with
    txRst := (kget f.wait [] p).foldl (fun m q =>
        kput m false (streamKey q.dstNode.toNat q.fgroup.toNat q.fvc.toNat) true)
      ((kget f.retry [] p).foldl (fun m q =>
        kput m false (streamKey q.2.dstNode.toNat q.2.fgroup.toNat q.2.fvc.toNat) true) f.txRst),
    wait := kput f.wait [] p [], retry := kput f.retry [] p [],
    inn := kclear f.inn (256 * p) 256 })

/-! ## Code words sent (R277, R279, R284) -/

/-- One data code word leaves: it is dealt to the logical lane LSEQ mod W, and a lane's 16,384th since its last alignment word
is followed by the next, which names the lane's next data code word (R277, R279). -/
def LinkS.deal (x : LinkS) : LinkS :=
  let w := x.lanes.length
  let i := x.txNext % max 1 w
  let lane := x.lanes.getD i 0
  let n := kget x.alignTx 0 lane + 1
  let x := { x with sinceCtl := x.sinceCtl + 1, txNext := (x.txNext + 1) % 4096 }
  if n < 16384 then { x with alignTx := kput x.alignTx 0 lane n }
  else { x with
    alignTx := kput x.alignTx 0 lane 0,
    alignOut := kput x.alignOut none lane (some
      { phys := BitVec.ofNat 8 lane, logical := BitVec.ofNat 8 i, gen := BitVec.ofNat 8 x.gen,
        lseq := BitVec.ofNat 12 ((x.txNext + 4095 + w) % 4096) }) }

/-- A link control flit leaves (R284): the last LSEQ taken in order, a NAK, the flits freed since the last one, and a width
operation. -/
def LinkS.sendCtl (x : LinkS) (nak : Option Nat := none) (op mask lseq : Nat := 0) : LinkS :=
  { x with
    ctlOut := some { ack := BitVec.ofNat 12 (x.rxNext + 4095), nakValid := nak.isSome, nak := BitVec.ofNat 12 (nak.getD 0),
                     credit := x.freed.map (BitVec.ofNat 16), widthOp := BitVec.ofNat 8 op,
                     widthLanes := BitVec.ofNat 16 mask, widthLseq := BitVec.ofNat 12 lseq },
    freed := [0, 0, 0, 0], sinceCtl := 0 }

/-- n data code words leave, with a link control flit once 64 have passed without one (R284). -/
def LinkS.sendWords (x : LinkS) (n : Nat) : LinkS :=
  let x := iter n (fun _ y => y.deal) x
  if 64 ≤ x.sinceCtl then x.sendCtl else x

/-- Flits of a virtual channel or class are free again; the next link control flit says so (R284, R287). -/
def LinkS.free (x : LinkS) (v n : Nat) : LinkS :=
  { x with freed := (List.range 4).map (fun i => nth x.freed 0 i + (if i = v then n else 0)) }

/-- Flits of a virtual channel are free, and their credits are withheld while a reset runs (R428). -/
def LinkS.withhold (x : LinkS) (v n : Nat) : LinkS :=
  { x with kept := (List.range 4).map (fun i => nth x.kept 0 i + (if i = v then n else 0)) }

/-- The reset has ended: the next link control flit carries the withheld credits (R428). -/
def LinkS.restore (x : LinkS) : LinkS :=
  { x with freed := (List.range 4).map (fun i => nth x.freed 0 i + nth x.kept 0 i), kept := [0, 0, 0, 0] }

/-! ## Training (R280–R283, R318) -/

/-- The receive buffers of R287, or those of the message classes of R320: the credit that a side advertises in its first link
control flit. -/
def fullCredit (l : Nat) : List Nat := if l = salLink then [256, 64, 256, 512] else [128, 1024, 1024, 512]

/-- PGOOD of rail i (R434, PW_RAIL). -/
def Core.railOk (c : Core) (i : Nat) : Bool := bitAt (c.rd pagePw (0x80 + 8 * i)) 31

/-- Whether the Attach Link may train (R318), or an enabled port may leave electrical idle (R290): its lane rail is good. -/
def Pkg.mayTrain (k : Pkg) (l : Nat) : Bool :=
  if l = salLink then k.cl.core.railOk 13
  else k.cl.core.railOk (14 + portQuad l) && bitAt (k.cl.core.rd (pageFb l) 0x40) 31 && bitAt (k.cl.core.rd pageFbPkg 0x40) 0

/-- Start Detect, or stay idle where the port may not train. -/
def Pkg.startDetect (k : Pkg) (l : Nat) : Pkg :=
  let old := k.link l
  let x : LinkS := { idleLink with lastRt := old.lastRt, tag := old.tag }
  let k := k.onFab (fun f => { f with helloIn := kput f.helloIn false l false, helloAck := kput f.helloAck false l false })
  if k.mayTrain l then
    ((k.setLink l { x with step := .detect, cap := k.maxGen l, gen := baseGen l }).setPortState l 1).showLanes l
  else ((k.setLink l x).setPortState l 0).showLanes l

/-- A port goes down: its transactions fail, and it starts again from Detect (R285, R291, R294). -/
def Pkg.portDown (k : Pkg) (l : Nat) : Pkg :=
  let k := if l = salLink then k.onAtt (fun a => { a with retry := [], wait := [] }) else k.losePort l 0
  k.startDetect l

/-- A link that cannot train holds its lanes in electrical idle (R281, R318). -/
def Pkg.linkIdle (k : Pkg) (l : Nat) : Pkg :=
  let x := k.link l
  let k := if l = salLink then k else k.losePort l 0
  let k := k.linkEvent l (if l = salLink then 0x0B02 else 0x0A01) (if l = salLink then sevDev else sevDegr) 0
    (x.bestGen * 4 + (if x.bestW = 0 then 0 else widthCode l x.bestW))
  ((k.setLink l { idleLink with bestGen := x.bestGen, bestW := x.bestW, lastRt := x.lastRt, tag := x.tag }).setPortState l 0).showLanes l

/-- The generation that Switch moves to: the highest not above the attempt's and the peer's MAX_GEN (R280). -/
def LinkS.target (x : LinkS) (l : Nat) : Nat := max (baseGen l) (min x.cap (if x.peerGen = 0 then x.cap else x.peerGen))

/-- The attempt at a generation fails: again from Switch one generation lower, or idle at the lowest (R280, R281). At Switch
the generation that fails is the one it moves to. -/
def Pkg.lowerGen (k : Pkg) (l : Nat) : Pkg :=
  let x := k.link l
  let g := if x.step = .switch then x.target l else x.gen
  if g ≤ baseGen l ∨ x.step = .detect ∨ x.step = .exchange ∨ x.step = .map then k.linkIdle l
  else k.setLink l { x with step := .switch, cap := g - 1 }

/-- STEP of the training code words a side sends; Detect has none in R280's list and shows 0. -/
def TrStep.code : TrStep → Nat
  | .exchange => 1
  | .map => 2
  | .switch => 3
  | .equalise => 4
  | .test => 5
  | _ => 0

/-- Flit slot 0 of the training code words that the device sends on a physical lane while a link trains (R280). The FFE bytes
of Equalise are open (log entry 314); NODE and PORT are zero on the Attach Link (R318). -/
def Pkg.trainOut (k : Pkg) (l : Nat) (lane : Fin 16) : Option TrainWord :=
  let x := k.link l
  if x.step = .off ∨ x.step = .up ∨ k.laneEn l / 2 ^ lane.val % 2 = 0 then none
  else some
    { lane := lane, phys := BitVec.ofNat 8 lane.val,
      logical := BitVec.ofNat 8 (if x.lanes = [] then 0xFF else x.lanes.idxOf lane.val),
      maxGen := BitVec.ofNat 8 (k.maxGen l), minWidth := BitVec.ofNat 8 (k.minWidth l),
      node := if l = salLink then 0 else BitVec.ofNat 16 (k.cl.core.fld pageFbPkg 0x40 16 16),
      tport := if l = salLink then 0 else BitVec.ofNat 8 l, step := BitVec.ofNat 8 x.step.code,
      savedTag := if l = salLink ∨ bitAt (k.cl.core.rd (pageFb l) 0x40) 18 then x.tag else 0,
      ffe := if x.step = .equalise then BitVec.ofNat 64 (leNat ((Config.openBytes (8192 + 32 * l + lane.val) k.cl.core.tick).take 8))
             else 0 }

/-- SAVED_TAG that this side proposes (R283): the tag in force, where SAVED_EN is 1. -/
def Pkg.proposed (k : Pkg) (l : Nat) : W64 :=
  if l = salLink ∨ bitAt (k.cl.core.rd (pageFb l) 0x40) 18 then (k.link l).tag else 0

/-- The tag of a full Equalise and Test: a fresh value of the side with the lower NODE, of this device where they are equal
and on the Attach Link; zero where the generator is refused (R398, R459). -/
def Pkg.makeTag (k : Pkg) (l : Nat) : Pkg :=
  let x := k.link l
  if x.saved then k
  else if l = salLink ∨ k.cl.core.fld pageFbPkg 0x40 16 16 ≤ x.peerNode then
    if bitAt (k.cl.core.rd pageSec 0x40) 26 then
      let (v, c) := k.cl.core.draw
      (k.onCore (fun _ => c)).setLink l { x with tag := v }
    else k.setLink l { x with tag := 0 }
  else k.setLink l { x with tag := x.peerTag }

/-- The link layer starts: nothing is outstanding in either direction, and the first link control flit advertises the receive
buffers (R280, R284, R287). -/
def LinkS.start (x : LinkS) (buffers : List Nat) : LinkS :=
  { x with txNext := 0, txAck := 0, failSeq := 0, failCnt := 0, rxNext := 0, rxDrop := false, nakDue := none, held := [],
           credit := [0, 0, 0, 0], wreq := none, wpend := none, alignTx := [], freed := buffers, kept := [0, 0, 0, 0] }.sendCtl

/-- The Width step: the link comes up, or starts again lower (R280, R281, R318). -/
def Pkg.widthStep (k : Pkg) (l good : Nat) : Pkg :=
  let x := k.link l
  let lanes := x.lanes.filter (fun i => decide (good / 2 ^ i % 2 = 1))
  let w := fitWidth l lanes.length
  let x := { x with bestGen := max x.bestGen x.gen, bestW := if x.bestGen ≤ x.gen then max x.bestW w else x.bestW }
  if w = 0 ∨ w < k.minWidth l then (k.setLink l x).lowerGen l
  else
    let k := k.setLink l ({ x with step := .up, lanes := lanes.take w }.start (fullCredit l))
    let k := ((k.setPortState l 3).showLanes l).makeTag l
    let genw := x.gen * 4 + widthCode l w
    let k := if l = salLink ∧ k.cl.core.buStep = 4 then k.onCore (·.stepEnd 4) else k
    if w < laneCount l ∨ x.gen < k.maxGen l then
      k.linkEvent l (if l = salLink then 0x0B01 else 0x0A03) sevDegr 0 genw
    else k

/-- TRAINING_STEP_COMPLETE (R280): the step in progress has passed on the given lanes. -/
def Pkg.stepDone (k : Pkg) (l good : Nat) : Pkg :=
  let x := k.link l
  let en := good &&& k.laneEn l
  match x.step with
  | .detect =>
    if en = 0 then k else (k.setLink l { x with step := .exchange, present := en }).setPortState l 2
  | .exchange => k.setLink l { x with step := .map }
  | .map => (k.setLink l { x with step := .switch, lanes := maskLanes (laneCount l) x.present }).showLanes l
  | .switch =>
    let same := decide (k.proposed l ≠ 0 ∧ k.proposed l = x.peerTag)
    k.setLink l { x with step := if same then .test else .equalise, saved := same, gen := x.target l }
  | .equalise => k.setLink l { x with step := .test }
  | .test =>
    let lanes := x.lanes.filter (fun i => decide (good / 2 ^ i % 2 = 1))
    if x.saved ∧ lanes.length < x.lanes.length then k.setLink l { x with step := .equalise, saved := false }
    else k.widthStep l good
  | .off => k
  | .up => k

/-- TRAINING_LIMIT (R280, R281): the step in progress passes its limit. -/
def Pkg.stepLimit (k : Pkg) (l : Nat) : Pkg :=
  let x := k.link l
  match x.step with
  | .off => k
  | .up => k
  | .detect =>
    if l = salLink then k.linkIdle l
    else
      let k := if kget k.fab.absentRec false l then k
        else (k.linkEvent l 0x0A02 sevInfo 0 0).onFab (fun f => { f with absentRec := kput f.absentRec false l true })
      ((k.setLink l { idleLink with lastRt := x.lastRt, tag := x.tag }).setPortState l 6).showLanes l
  | .test => if x.saved then k.setLink l { x with step := .equalise, saved := false } else k.lowerGen l
  | _ => k.lowerGen l

/-- REDETECT (R281): an absent, enabled port repeats Detect; lanes now present go on to Exchange. -/
def Pkg.redetect (k : Pkg) (p present : Nat) : Pkg :=
  if k.portState p ≠ 6 ∨ k.mayTrain p = false then k
  else
    let k := k.startDetect p
    let en := present &&& k.laneEn p
    if en = 0 then k.stepLimit p else k.stepDone p en

/-- TRAINING_CODE_WORD (R280): the fields of a received training code word. -/
def Pkg.trainWord (k : Pkg) (l : Nat) (w : TrainWord) : Pkg :=
  let x := k.link l
  if x.step = .off ∨ x.step = .up then k
  else
    let seen := if x.step = .detect ∧ (k.laneEn l) / 2 ^ w.lane.val % 2 = 1 then x.present ||| 2 ^ w.lane.val else x.present
    k.setLink l { x with present := seen, peerGen := w.maxGen.toNat, peerMinW := w.minWidth.toNat, peerNode := w.node.toNat,
                         peerPort := w.tport.toNat, peerTag := w.savedTag, peerFfe := w.ffe }

/-- RETRAIN, UNQUARANTINE and the end of a back-off start Detect; a port that is up goes down first. -/
def Pkg.retrain (k : Pkg) (p : Nat) : Pkg := k.portDown p

/-- SAL_RETRY: an idle Attach Link trains again (R318). -/
def Pkg.salRetry (k : Pkg) : Pkg := if k.pw.vaux ∧ (k.link salLink).step = .off ∧ k.mayTrain salLink then k.startDetect salLink else k

/-! ## Code words, retry and lanes (R277, R284–R286) -/

/-- ALIGNMENT_CODE_WORD: the scrambler of the lane starts again, and what the word says of the lane is kept (R277). -/
def Pkg.alignWord (k : Pkg) (l : Nat) (w : AlignWord) : Pkg :=
  let x := k.link l
  k.setLink l { x with scr := kput x.scr 0 w.phys.toNat 0, alignIn := kput x.alignIn none w.phys.toNat (some w) }

/-- Note a failed code word of a lane, within its last 65,536 (R286). -/
def LinkS.laneFail (x : LinkS) (lane : Nat) : LinkS :=
  let n := kget x.cw 0 lane
  { x with cwFails := kput x.cwFails [] lane (n :: (kget x.cwFails [] lane).filter (fun t => decide (n < t + 65536))) }

/-- Whether LSEQ a is at or before b, modulo 4,096. -/
def lseqLe (a b : Nat) : Bool := decide ((b + 4096 - a) % 4096 < 2048)

/-- Eight failures of one LSEQ take the link down (R285, R319). -/
def Pkg.linkLost (k : Pkg) (l : Nat) : Pkg :=
  let x := k.link l
  (k.linkEvent l (if l = salLink then 0x0B03 else 0x0A04) sevDegr 0
    (x.gen * 4 + (if x.lanes = [] then 0 else widthCode l x.lanes.length))).portDown l

/-- Take a new lane set. -/
def Pkg.setLanes (k : Pkg) (l mask : Nat) : Pkg :=
  let x := k.link l
  let kept := x.lanes.filter (fun i => decide (mask / 2 ^ i % 2 = 1))
  let new := (maskLanes (laneCount l) mask).filter (fun i => !x.lanes.elem i)
  (k.setLink l { x with lanes := kept ++ new, wreq := none, wpend := none }).showLanes l

/-- The lane set agreed on takes effect once WIDTH_LSEQ is the next code word expected, or has passed (R284, R286). -/
def Pkg.widthApply (k : Pkg) (l : Nat) : Pkg :=
  match (k.link l).wpend with
  | some (mask, n) => if lseqLe n (k.link l).rxNext then k.setLanes l mask else k
  | none => k

/-- LANE_DROP (R286): a smaller lane set is asked for and the lane retrains, at most once in 10 s; below MIN_WIDTH the
link goes down and starts again under R281, its handshake undone. -/
def Pkg.laneDrop (k : Pkg) (l lane : Nat) (inj : Bool := false) : Pkg :=
  let x := k.link l
  if x.step ≠ .up ∨ x.lanes.elem lane = false then k
  else
    let left := x.lanes.filter (fun i => decide (i ≠ lane))
    let w := fitWidth l left.length
    let t := k.cl.core.tick.toNat
    let last := kget x.lastRt 0 lane
    let again := decide (last = 0 ∨ last + 1000000 ≤ t + 1)
    let k := k.linkEvent l 0x0A05 sevCorr 0 (x.gen * 4 + (if w = 0 then 0 else widthCode l w)) inj
    let k := if l = salLink then k else k.onCore (·.incSat (pageFb l) 0x8C 1)
    let x := { x with cwFails := kput x.cwFails [] lane [] }
    if w = 0 ∨ w < k.minWidth l then
      let k := if l = salLink then k else k.losePort l 0
      let k := k.onFab (fun f => { f with helloIn := kput f.helloIn false l false, helloAck := kput f.helloAck false l false })
      ((k.setLink l x).setPortState l 2).lowerGen l
    else
      let mask := lanesMask (left.take w)
      let x := { x with wreq := some (mask, x.txNext),
                        dropped := if again then x.dropped ++ [lane] else x.dropped,
                        lastRt := if again then kput x.lastRt 0 lane (t + 1) else x.lastRt }
      (k.setLink l (x.sendCtl none 1 mask x.txNext)).showLanes l

/-- A correct code word is taken: in order with those held behind it, held while an earlier one is missing, or dropped as one
already taken (R279). -/
def LinkS.take (x : LinkS) (lseq : Nat) : LinkS :=
  if lseq = x.rxNext then
    iter x.held.length (fun _ y => if y.held.elem y.rxNext then
        { y with rxNext := (y.rxNext + 1) % 4096, held := y.held.filter (fun n => decide (n ≠ y.rxNext)) }
      else y) { x with rxNext := (lseq + 1) % 4096 }
  else if lseqLe x.rxNext lseq && !x.held.elem lseq then { x with held := x.held ++ [lseq] }
  else x

/-- A correct code word: taken, unless it follows one that was discarded and has not come again (R285). -/
def LinkS.goodWord (x : LinkS) (lseq : Nat) : LinkS :=
  match x.nakDue with
  | some b =>
    if lseq = b then { x with rxDrop := false, nakDue := none }.take lseq
    else if lseqLe b lseq then x
    else x.take lseq
  | none => x.take lseq

/-- A code word that fails is discarded with every one after it, and a NAK of its LSEQ leaves; one that was taken already, or
is discarded with an earlier one, changes nothing (R285). -/
def LinkS.badWord (x : LinkS) (lseq : Nat) : LinkS :=
  let behind : Bool := match x.nakDue with
    | some b => lseqLe b lseq && decide (lseq ≠ b)
    | none => false
  if behind || !lseqLe x.rxNext lseq then x
  else { x with rxDrop := true, nakDue := some lseq, held := x.held.filter (fun n => !lseqLe lseq n) }.sendCtl (some lseq)

/-- CODE_WORD_RECEIVE (R284–R286): in order and correct, or discarded with a NAK; a lane whose fourth code word of its last
65,536 fails is dropped. -/
def Pkg.codeWord (k : Pkg) (l lane lseq : Nat) (q : CwQuality) : Pkg :=
  let x := k.link l
  if x.step ≠ .up then k
  else
    let x := { x with cw := kput x.cw 0 lane (kget x.cw 0 lane + 1), scr := kput x.scr 0 lane (kget x.scr 0 lane + 1) }
    let count (y : Pkg) (i : Nat) : Pkg := if l = salLink then y else y.onCore (·.incSat (pageFb l) (0x80 + 4 * i) 1)
    match q with
    | .clean => (k.setLink l (x.goodWord lseq)).widthApply l
    | .corrected => ((count k 0).setLink l (x.goodWord lseq)).widthApply l
    | .frameCrc => k.setLink l (x.badWord lseq)
    | .uncorrectable =>
      let x := x.laneFail lane
      let k := (count k 1).setLink l (x.badWord lseq)
      if 4 ≤ (kget x.cwFails [] lane).length then k.laneDrop l lane else k

/-- LANE_REJOIN (R286): the lane has passed Equalise and Test, and rejoins by the same exchange. -/
def Pkg.laneRejoin (k : Pkg) (l lane : Nat) : Pkg :=
  let x := k.link l
  if x.step ≠ .up ∨ x.dropped.elem lane = false then k
  else
    let all := x.lanes ++ [lane]
    let mask := lanesMask (all.take (fitWidth l all.length))
    let x := { x with dropped := x.dropped.filter (fun i => decide (i ≠ lane)), wreq := some (mask, x.txNext) }
    ((k.setLink l (x.sendCtl none 1 mask x.txNext)).linkEvent l 0x0A06 sevInfo 0 (x.gen * 4 + widthCode l x.lanes.length)).showLanes l

/-- Add credits (R284, R287). -/
def addCredit (a b : List Nat) : List Nat := (List.range 4).map (fun i => nth a 0 i + nth b 0 i)

/-! ## The commands of this part -/

/-- TRAINING_CODE_WORD (R280). -/
def execTrainingCodeWord (l : Link) (w : TrainWord) (s : State) : Out := .next (s.onPkg (·.trainWord l.val w))
/-- TRAINING_STEP_COMPLETE (R280). -/
def execTrainingStepComplete (l : Link) (g : BitVec 16) (s : State) : Out := .next (s.onPkg (·.stepDone l.val g.toNat))
/-- TRAINING_LIMIT (R280, R281). -/
def execTrainingLimit (l : Link) (s : State) : Out := .next (s.onPkg (·.stepLimit l.val))
/-- REDETECT (R281). -/
def execRedetect (p : Port) (m : Byte) (s : State) : Out := .next (s.onPkg (·.redetect p.val m.toNat))
/-- ALIGNMENT_CODE_WORD (R277). -/
def execAlignmentCodeWord (l : Link) (w : AlignWord) (s : State) : Out := .next (s.onPkg (·.alignWord l.val w))
/-- CODE_WORD_RECEIVE (R285). -/
def execCodeWordReceive (l : Link) (lane : Fin 16) (q : BitVec 12) (c : CwQuality) (s : State) : Out :=
  .next (s.onPkg (·.codeWord l.val lane.val q.toNat c))
/-- LANE_DROP (R286). -/
def execLaneDrop (l : Link) (lane : Fin 16) (s : State) : Out := .next (s.onPkg (·.laneDrop l.val lane.val))
/-- LANE_REJOIN (R286). -/
def execLaneRejoin (l : Link) (lane : Fin 16) (s : State) : Out := .next (s.onPkg (·.laneRejoin l.val lane.val))
/-- RETRAIN (R281). -/
def execRetrain (p : Port) (s : State) : Out := .next (s.onPkg (·.retrain p.val))
/-- SAL_RETRY (R318). -/
def execSalRetry (s : State) : Out := .next (s.onPkg (·.salRetry))

end Sys2Proof.Machine
end

