-- ==== Sys2Proof/Machine/Fabric.lean ====
section
/-!
DEFINITION. Frames, peers and windows of the fabric (R288–R295, R302–R308): sending and refusing frames, hello, streams,
quarantine, window accesses, the stop signal, line tablets, routes and takeover.
-/
namespace Sys2Proof.Machine

/-! ## Identity, groups and routes (R290, R296, R306) -/

/-- This device's node ID. -/
def Pkg.node (k : Pkg) : Nat := k.cl.core.fld pageFbPkg 0x40 16 16
/-- This device's incarnation. -/
def Pkg.inc (k : Pkg) : Nat := k.cl.core.fld pageFbPkg 0x40 8 8
/-- Word w of group table entry i. -/
def Pkg.grpW (k : Pkg) (i w : Nat) : W32 := k.cl.core.rd pageFbPkg (0x100 + 32 * i + 4 * w)
/-- VALID of a group. -/
def Pkg.grpValid (k : Pkg) (i : Nat) : Bool := bitAt (k.grpW i 0) 31
/-- JOB of a group. -/
def Pkg.grpJob (k : Pkg) (i : Nat) : Nat := bitsAt (k.grpW i 0) 16 4
/-- FGROUP of a group. -/
def Pkg.grpId (k : Pkg) (i : Nat) : Nat := bitsAt (k.grpW i 0) 0 16
/-- This device's rank. -/
def Pkg.grpRank (k : Pkg) (i : Nat) : Nat := bitsAt (k.grpW i 1) 16 8
/-- Member count N. -/
def Pkg.grpN (k : Pkg) (i : Nat) : Nat := bitsAt (k.grpW i 1) 0 9
/-- Member list word of rank r. -/
def Pkg.grpMember (k : Pkg) (i r : Nat) : W32 := kget k.fab.members 0 ((bitsAt (k.grpW i 2) 0 12 + r) % 4096)
/-- Node of rank r. -/
def Pkg.memberNode (k : Pkg) (i r : Nat) : Nat := bitsAt (k.grpMember i r) 16 16
/-- Incarnation of rank r. -/
def Pkg.memberInc (k : Pkg) (i r : Nat) : Nat := bitsAt (k.grpMember i r) 8 8
/-- Group table entry of an FGROUP. -/
def Pkg.grpOf (k : Pkg) (fgroup : Nat) : Option Nat :=
  (List.range 16).find? (fun i => k.grpValid i && decide (k.grpId i = fgroup))
/-- Group table entry of a job. -/
def Pkg.grpOfJob (k : Pkg) (job : Nat) : Option Nat :=
  (List.range 16).find? (fun i => k.grpValid i && decide (k.grpJob i = job))
/-- Rank of a node in a group. -/
def Pkg.rankOf (k : Pkg) (i node : Nat) : Option Nat :=
  (List.range (k.grpN i)).find? (fun r => decide (k.memberNode i r = node))

/-- Bank of the route table in force. -/
def Pkg.routeBank (k : Pkg) : Nat := k.cl.core.fld pageFbPkg 0x4C 31 1
/-- The port a stream uses (R306). -/
def Pkg.routePort (k : Pkg) (node fgroup : Nat) : Option Nat :=
  let w := kget k.fab.route 0 (65536 * k.routeBank + node)
  let l := maskLanes 18 (bitsAt w 0 18)
  if bitAt w 31 = false ∨ l = [] then none else l[(node + fgroup) % l.length]?

/-- Incarnation of a node as this device knows it: of the attached peer, or of a group's member list. -/
def Pkg.knownInc (k : Pkg) (p node : Nat) : Nat :=
  if k.peerNode p = node then k.peerInc p
  else ((List.range 16).findSome? (fun i =>
    if k.grpValid i then (k.rankOf i node).map (k.memberInc i) else none)).getD 0

/-! ## Sending (R284, R287, R288, R294) -/

/-- Put a frame on the wire, or let it wait for credit or retry-buffer room (R285, R287). -/
def Pkg.emit (k : Pkg) (p : Nat) (f : Frame) : Pkg :=
  let x := k.link p
  let n := 1 + f.chunks.toNat
  let cr := nth x.credit 0 f.fvc.toNat
  let words := (n + 9) / 10
  if cr < n ∨ 2048 < (x.txNext + 4096 - x.txAck) % 4096 + words ∨
      (kget k.fab.wait [] p).any (fun g => decide (g.fvc = f.fvc)) = true then
    k.onFab (fun y => { y with wait := kput y.wait [] p (kget y.wait [] p ++ [f]) })
  else
    let seq := (x.txNext + words - 1) % 4096
    let credit := (List.range 4).map (fun i => if i = f.fvc.toNat then cr - n else nth x.credit 0 i)
    let k := k.setLink p ({ x with credit := credit }.sendWords words)
    let k := k.onFab (fun y => { y with retry := kput y.retry [] p (kget y.retry [] p ++ [(seq, f)]),
                                        lastTx := kput y.lastTx none p (some f) })
    k.onCore (·.setFld (pageFb p) 0x28 0 1 0)

/-- Send every waiting frame that has credit, FVC0 first (R287). -/
def Pkg.drainWait (k : Pkg) (p : Nat) : Pkg :=
  let l := kget k.fab.wait [] p
  let sorted := (List.range 4).flatMap (fun v => l.filter (fun f => decide (f.fvc.toNat = v)))
  sorted.foldl (fun x f => x.emit p f) (k.onFab (fun y => { y with wait := kput y.wait [] p [] }))

/-- A frame for the attached peer, outside every stream: hello, BYE, NAK and time frames. -/
def Pkg.sendPeer (k : Pkg) (p : Nat) (f : Frame) : Pkg :=
  k.emit p { f with srcNode := BitVec.ofNat 16 k.node, srcInc := BitVec.ofNat 8 k.inc, dstNode := 0xFFFF,
                    dstInc := BitVec.ofNat 8 (k.peerInc p) }

/-- Whether a route drain is armed for the present tick. -/
def Core.drainArmed (c : Core) : Bool := decide (c.rd8 pageFbPkg 0x50 ≠ 0 ∧ c.rd8 pageFbPkg 0x50 = c.tick.toNat)

/-- Nodes whose entry the inactive bank changes. -/
def Pkg.routeChanged (k : Pkg) (node : Nat) : Bool :=
  kget k.fab.route 0 node != kget k.fab.route 0 (65536 + node)

/-- Whether frames for a node are held back: from Close offset 0 of the armed tick a route drain lets none leave for a node whose
entry changes (R224, R307). -/
def Pkg.routeHeld (k : Pkg) (node : Nat) : Bool :=
  k.cl.core.drainArmed && decide (k.cl.core.close0 ≤ k.cl.core.cycle) && k.routeChanged node

/-- Send a frame of a stream to a node by a port: its SSEQ, and SRST on a stream's first frame and where the stream was lost
(R294). A STOP keeps its originator and is in no stream (R302; log entry 139). -/
def Pkg.sendBy (k : Pkg) (p node : Nat) (f : Frame) : Pkg :=
  let f := { f with dstNode := BitVec.ofNat 16 node, dstInc := BitVec.ofNat 8 (k.knownInc p node) }
  if f.ftype = 0x18 then k.emit p f
  else
    let key := streamKey node f.fgroup.toNat f.fvc.toNat
    let seq := kget k.fab.txSeq 0 key
    let f := { f with srcNode := BitVec.ofNat 16 k.node, srcInc := BitVec.ofNat 8 k.inc, sseq := BitVec.ofNat 24 seq,
                      srst := kget k.fab.txRst false key || decide (seq = 0) }
    let k := k.onFab (fun y => { y with txSeq := kput y.txSeq 0 key ((seq + 1) % 2 ^ 24),
                                        txRst := kput y.txRst false key false })
    k.emit p f

/-- Send a frame to a node on the port its stream uses, or hold it back while a route drain runs (R306, R307). The port, or none
where the frame cannot be sent. -/
def Pkg.sendTo (k : Pkg) (node : Nat) (f : Frame) : Option Nat × Pkg :=
  match k.routePort node f.fgroup.toNat with
  | none => (none, k)
  | some p =>
    if k.portState p ≠ 4 then (none, k)
    else if k.routeHeld node then (some p, k.onFab (fun y => { y with heldTx := y.heldTx ++ [(node, f)] }))
    else (some p, k.sendBy p node f)

/-- The frames a route drain held back leave by the table in force; a window transaction follows its frame to its port, and one
whose frame cannot be sent is lost (R294, R306, R307). -/
def Pkg.heldSend (k : Pkg) : Pkg :=
  let l := k.fab.heldTx
  l.foldl (fun x (e : Nat × Frame) =>
    let mine (t : XTxn) : Bool := decide (t.node = e.1 ∧ t.txn = e.2.txn.toNat ∧ t.fgroup = e.2.fgroup.toNat ∧
      (e.2.ftype = 0x08 ∨ e.2.ftype = 0x0A))
    match x.sendTo e.1 e.2 with
    | (some p, y) => y.onFab (fun z => { z with out := z.out.map (fun t => if mine t then { t with port := p } else t) })
    | (none, y) => (y.fab.out.filter mine).foldl (fun z t => z.loseTxn t 0) y)
    (k.onFab (fun y => { y with heldTx := [] }))

/-- Send a frame to every other member of a group. -/
def Pkg.sendGroup (k : Pkg) (i : Nat) (f : Frame) : Pkg :=
  (List.range (k.grpN i)).foldl (fun x r =>
    if r = k.grpRank i then x else (x.sendTo (x.memberNode i r) { f with fgroup := BitVec.ofNat 16 (x.grpId i) }).2) k

/-! ## Payload sizes (R291, R292) -/

/-- Payload in frames of up to n bytes: (offset, bytes). -/
def framesOf (n fuel off : Nat) (l : List PB) : List (Nat × List PB) :=
  match fuel with
  | 0 => []
  | f + 1 => if l.isEmpty then [] else (off, l.take n) :: framesOf n f (off + n) (l.drop n)

/-- Largest payload of a frame on a port, bytes: the peer's MAX_CHUNKS (R291, R292). -/
def Pkg.frameMax (k : Pkg) (p : Nat) : Nat :=
  let n := k.cl.core.fld (pageFb p) 0x54 8 8
  if n = 0 ∨ 32 < n then 2048 else 64 * n

/-- Largest payload of a frame to a node in a group. -/
def Pkg.portMax (k : Pkg) (node fgroup : Nat) : Nat :=
  match k.routePort node fgroup with
  | some p => k.frameMax p
  | none => 2048

/-! ## Refusals, violations and quarantine (R292, R293) -/

/-- Take a port into quarantine (R293). -/
def Pkg.quarantine (k : Pkg) (p : Nat) : Pkg :=
  let t := k.cl.core.tick.toNat
  let last := kget k.fab.lastQuar 0 p
  let old := k.cl.core.fld (pageFb p) 0x60 0 16
  let back := if last = 0 ∨ last + 60000000 ≤ t + 1 ∨ old = 0 then 1 else min 64 (2 * old)
  let k := (k.sendPeer p { ftype := 0x04, reason := 0x20 }).onCore (·.incSat (pageFb p) 0x94 1)
  let k := k.losePort p 0x20
  let k := k.linkEvent p 0x0A09 sevDegr 0x20 ((k.link p).genw p)
  let k := k.onFab (fun f => { f with lastQuar := kput f.lastQuar 0 p (t + 1), viol := kput f.viol [] p [] })
  let k := k.onCore (·.setFld (pageFb p) 0x60 0 16 back)
  ((k.setLink p { idleLink with lastRt := (k.link p).lastRt, tag := (k.link p).tag }).setPortState p 5).showLanes p

/-- The back-off of a port is 1 s again after 600 s without a quarantine (R293). -/
def Pkg.backoffEnd (k : Pkg) : Pkg :=
  iter 18 (fun p x =>
    let last := kget x.fab.lastQuar 0 p
    if last ≠ 0 ∧ last + 60000000 ≤ x.cl.core.tick.toNat + 1 ∧ 1 < x.cl.core.fld (pageFb p) 0x60 0 16 then
      x.onCore (·.setFld (pageFb p) 0x60 0 16 1)
    else x) k

/-- Refuse a frame: drop, count, NAK; a violation counts toward quarantine (R292, R293). A NAK is never answered. -/
def Pkg.refuse (k : Pkg) (p : Nat) (f : Frame) (reason : Nat) : Pkg :=
  let k := if f.ftype = 0x04 then k
    else
      let nak : Frame := { ftype := 0x04, fgroup := f.fgroup, sseq := f.sseq, txn := f.txn, srst := f.srst,
                           window := f.window, offset := f.offset, gen := f.gen, reason := BitVec.ofNat 8 reason }
      (k.sendPeer p nak).onCore (·.incSat (pageFb p) 0x94 1)
  if reason = 0 ∨ 7 < reason then k
  else
    let t := k.cl.core.tick.toNat
    let l := (kget k.fab.viol [] p).filter (fun u => decide (t < u + 65536)) ++ [t]
    let k := k.onCore (·.incSat (pageFb p) 0x90 1)
    let k := if kget k.fab.violRec false p then k
      else (k.linkEvent p 0x0A08 sevInfo reason ((k.link p).genw p)).onFab (fun y => { y with violRec := kput y.violRec false p true })
    let k := k.onFab (fun y => { y with viol := kput y.viol [] p l })
    if 16 ≤ l.length then k.quarantine p else k

/-- FVC and CHUNKS of a frame type (R289): least FVC, most FVC, least and most CHUNKS. -/
def frameShape (ft : Nat) : Option (Nat × Nat × Nat × Nat) :=
  match ft with
  | 0x01 | 0x02 => some (0, 0, 1, 1)
  | 0x03 | 0x04 | 0x18 | 0x19 | 0x1A | 0x20 | 0x21 | 0x22 | 0x28 | 0x29 => some (0, 0, 0, 0)
  | 0x08 | 0x0B => some (2, 3, 1, 32)
  | 0x09 | 0x0A => some (2, 3, 0, 0)
  | 0x10 => some (1, 1, 1, 32)
  | 0x11 | 0x12 => some (1, 1, 0, 0)
  | _ => none

/-- Frame types a port accepts before the handshake (R291). -/
def earlyType (ft : Nat) : Bool := [0x01, 0x02, 0x03, 0x04, 0x20, 0x21, 0x22].elem ft
/-- FVC of a frame type where R289 makes it the job's: 3 for job 15 and 2 for every other. A window request acts as its
window's JOB, an answer as the job of the descriptor it answers; with neither known both are taken (log entry 315). -/
def Pkg.jobFvc (k : Pkg) (p : Nat) (f : Frame) : Option Nat :=
  let job : Option Nat :=
    if f.ftype = 0x08 ∨ f.ftype = 0x0A then
      let w := kget k.hbm.win 0 (8 * f.window.toNat)
      if bitAt w 31 then some (bitsAt w 25 4) else none
    else
      ((k.fab.out.find? (fun t => decide (t.port = p ∧ t.txn = f.txn.toNat ∧ t.fgroup = f.fgroup.toNat))).bind (fun t =>
        k.findRun t.rg t.slot t.desc)).map (·.job)
  job.map (fun j => if j = 15 then 3 else 2)
/-- Frame types whose SSEQ is checked: those of streams whose SRC_NODE is the sender. -/
def streamType (ft : Nat) : Bool := [0x08, 0x09, 0x0A, 0x0B, 0x10, 0x11, 0x12, 0x19, 0x1A, 0x28, 0x29].elem ft

/-- Whether a member's SRC_INC does not match: its incarnation of the member list, or, in a TAKEOVER_ANN, the one after it too
(R292, R308). -/
def incBad (f : Frame) (inc : Nat) : Bool :=
  decide (f.srcInc.toNat ≠ inc) && !(decide (f.ftype = 0x28) && decide (f.srcInc.toNat = (inc + 1) % 256))

/-- Why a port refuses a frame, 0 where it does not (R292); 0x100 is a duplicate, dropped silently (R294). -/
def Pkg.frameBad (k : Pkg) (p : Nat) (f : Frame) : Nat :=
  let ft := f.ftype.toNat
  match frameShape ft with
  | none => 0x01
  | some (v0, v1, c0, c1) =>
    if f.fvc.toNat < v0 ∨ v1 < f.fvc.toNat ∨ (v0 ≠ v1 ∧ (k.jobFvc p f).getD f.fvc.toNat ≠ f.fvc.toNat) then 0x01
    else if f.resv ∨ f.chunks.toNat < c0 ∨ c1 < f.chunks.toNat then 0x02
    else if k.portState p ≠ 4 ∧ earlyType ft = false then 0x03
    else if f.dstNode ≠ 0xFFFF ∧ f.dstNode.toNat ≠ k.node then 0x04
    else if nth (fullCredit p) 0 f.fvc.toNat < 1 + f.chunks.toNat then 0x05
    else if earlyType ft then 0
    else if f.dstNode ≠ 0xFFFF ∧ f.dstInc.toNat ≠ k.inc then 0x08
    else
      let src := f.srcNode.toNat
      match (k.grpOf f.fgroup.toNat).bind (fun i => (k.rankOf i src).map (k.memberInc i)) with
      | none => 0x07
      | some inc =>
        if incBad f inc then 0x08
        else if streamType ft then
          let last := kget k.fab.rxSeq 0 (streamKey src f.fgroup.toNat f.fvc.toNat)
          let n := f.sseq.toNat
          if f.srst ∨ n = last % 2 ^ 24 then 0
          else if 0 < last ∧ (last + 2 ^ 24 - 1 - n) % 2 ^ 24 < 2 ^ 23 then 0x100
          else 0x06
        else 0

/-- The flits of a frame free their buffer; the credits of a window request are withheld in RECOVERY (R287, R428; log
entry 329). -/
def Pkg.freeFrame (k : Pkg) (p : Nat) (f : Frame) : Pkg :=
  let n := 1 + f.chunks.toNat
  if k.devState = 6 ∧ (f.ftype = 0x08 ∨ f.ftype = 0x0A) then k.setLink p ((k.link p).withhold f.fvc.toNat n)
  else k.setLink p ((k.link p).free f.fvc.toNat n)

/-- Take a frame, whose flits free their buffer at once: refuse it, drop it, or accept it into its stream and act on it. -/
def Pkg.takeFrame (k : Pkg) (p : Nat) (f : Frame) (act : Pkg → Pkg) : Pkg :=
  let st := k.portState p
  if st ≠ 3 ∧ st ≠ 4 then k
  else
    let r := k.frameBad p f
    let k := k.freeFrame p f
    if r = 0x100 then k
    else if r ≠ 0 then k.refuse p f r
    else
      let k := if streamType f.ftype.toNat then
          let key := streamKey f.srcNode.toNat f.fgroup.toNat f.fvc.toNat
          k.onFab (fun y => { y with rxSeq := kput y.rxSeq 0 key (f.sseq.toNat + 1) })
        else k
      act k

/-! ## Hello, BYE and NAK (R291–R295) -/

/-- Our HELLO payload. -/
def Pkg.helloBytes (k : Pkg) (p : Nat) : List Byte :=
  [1, 0] ++ leBytes 2 k.node ++ [BitVec.ofNat 8 k.inc, BitVec.ofNat 8 p,
    BitVec.ofNat 8 (7 + (if bitAt (k.cl.core.rd pageTime 0x54) 31 then 8 else 0)), 32] ++ List.replicate 56 0

/-- HELLO is done on both sides: the port is up (R291). -/
def Pkg.helloCheck (k : Pkg) (p : Nat) : Pkg :=
  if kget k.fab.helloIn false p && kget k.fab.helloAck false p && decide (k.portState p = 3) then
    k.setPortState p 4
  else k

/-- TAKEOVER_ANN to every member of every group, once every enabled port that trains is up (R308). -/
def Pkg.announce (k : Pkg) : Pkg :=
  if k.fab.annDue && !(List.range 18).any (fun p => decide (1 ≤ k.portState p ∧ k.portState p ≤ 3)) &&
      (List.range 18).any (fun p => decide (k.portState p = 4)) then
    ((List.range 16).filter k.grpValid).foldl (fun x i => x.sendGroup i { ftype := 0x28 })
      (k.onFab (fun y => { y with annDue := false }))
  else k

/-- HELLO (R291): the peer is known, and the hello is acknowledged. A changed peer loses the port's transactions. -/
def Pkg.hello (k : Pkg) (p : Nat) (h : HelloInfo) : Pkg :=
  if k.portState p ≠ 3 ∧ k.portState p ≠ 4 then k
  else
    let id := h.node.toNat * 256 + h.inc.toNat + 1
    let prev := kget k.fab.prevPeer 0 p
    let k := k.onCore (fun c =>
      (c.wr (pageFb p) 0x50 (BitVec.ofNat 32 (h.node.toNat * 65536 + h.inc.toNat * 256 + h.kind.toNat))).wr (pageFb p) 0x54
        (BitVec.ofNat 32 (h.maxChunks.toNat * 256 + h.caps.toNat)))
    let k := if prev ≠ 0 ∧ prev ≠ id then (k.linkEvent p 0x0A07 sevInfo 0 ((k.link p).genw p)).losePort p 0 else k
    let k := k.onFab (fun y => { y with prevPeer := kput y.prevPeer 0 p id, helloIn := kput y.helloIn false p true })
    let k := k.sendPeer p { ftype := 0x02, chunks := 1, payload := k.helloBytes p }
    (k.helloCheck p).announce

/-- HELLO_ACK (R291). -/
def Pkg.helloAcked (k : Pkg) (p : Nat) : Pkg :=
  if k.portState p ≠ 3 then k
  else ((k.onFab (fun y => { y with helloAck := kput y.helloAck false p true })).helloCheck p).announce

/-- HELLO_TIMER: HELLO every 100 µs until the handshake is done (R291). -/
def Pkg.helloTimer (k : Pkg) (p : Nat) : Pkg :=
  if k.portState p = 3 then k.sendPeer p { ftype := 0x01, chunks := 1, payload := k.helloBytes p } else k

/-- HELLO_TIMEOUT: the port goes down and retrains (R291). -/
def Pkg.helloTimeout (k : Pkg) (p : Nat) : Pkg := if k.portState p = 3 then k.portDown p else k

/-- BYE: the peer leaves in order (R289). -/
def Pkg.bye (k : Pkg) (p : Nat) : Pkg := if k.portState p = 3 ∨ k.portState p = 4 then k.portDown p else k

/-- NAK (R292, R294, R295): a window refusal fails the slot and faults the job; any other refusal loses the
transaction, and SEQ or STALE_INC every transaction of its stream. -/
def Pkg.nak (k : Pkg) (p : Nat) (f : Frame) : Pkg :=
  let k := k.onCore (·.incSat (pageFb p) 0x98 1)
  let r := f.reason.toNat
  match k.fab.out.find? (fun t => decide (t.port = p ∧ t.txn = f.txn.toNat ∧ t.fgroup = f.fgroup.toNat)) with
  | none =>
    -- a NAK shows no FVC: every stream to its sender in the group starts a new base (log entry 316)
    if r = 0x06 ∨ r = 0x08 then
      k.onFab (fun y => { y with txRst := (List.range 4).foldl (fun m v =>
        kput m false (streamKey f.srcNode.toNat f.fgroup.toNat v) true) y.txRst })
    else k
  | some t =>
    if 0x11 ≤ r ∧ r ≤ 0x15 then
      let k := k.onFab (fun y => { y with out := dropFirst (· == t) y.out })
      match k.findRun t.rg t.slot t.desc with
      | some run =>
        if run.phase = .running then
          (k.onClus (fun m => m.onCore (·.record (pageFb t.port) 0x0A0B sevCont run.job (placeRg run.rg)
            (m.detail run.clu 0x0A0B 0 (xportLast4 t r))))).killRun run (fatalCause 0x0A0B)
        else k
      | none => k
    else if r = 0x06 ∨ r = 0x08 then
      (k.fab.out.filter (fun u => decide (u.port = p ∧ u.node = t.node ∧ u.fgroup = t.fgroup ∧ u.fvc = t.fvc))).foldl
        (fun x u => x.loseTxn u r) k
    else k.loseTxn t r

/-- End of a quarantine's back-off, or UNQUARANTINE (R293). -/
def Pkg.unquarantine (k : Pkg) (p : Nat) : Pkg := if k.portState p = 5 then k.startDetect p else k

/-! ## Windows (R270–R272, R295) -/

/-- Word i of window w in force. -/
def Pkg.winW (k : Pkg) (w i : Nat) : W32 := kget k.hbm.win 0 (8 * w + i)

/-- Reason a window refuses n bytes at an offset to a node, 0 where it admits them (R272). -/
def Pkg.winBad (k : Pkg) (w node off n gen : Nat) (write : Bool) : Nat :=
  let w0 := k.winW w 0
  let pid := bitsAt (k.winW w 2) 16 16
  let mask := bitsAt (k.winW w 2) 0 16
  let base := bitsAt (k.winW w 4) 0 30 * 4096
  let job := bitsAt w0 25 4
  if bitAt w0 31 = false then 1
  else if (k.winW w 1).toNat ≠ gen then 2
  else if (bitsAt (k.winW w 5) 0 30 + 1) * 4096 < off + n then 3
  else if bitAt w0 (if write then 29 else 30) = false then 4
  else if (node &&& mask) ≠ (pid &&& mask) then 5
  else if (chunks256 (n / 256 + 2) (base + off) (List.replicate n ())).any (fun e => decide (k.dpaFault job e.1 = 1)) then 3
  else if (chunks256 (n / 256 + 2) (base + off) (List.replicate n ())).any (fun e => decide (k.dpaFault job e.1 ≠ 0)) then 4
  else 0

/-- A window NAK of reason generation or peer: SEC_WIN_PROBE where it is the peer's 64th within 65,536 ticks (R470). -/
def Pkg.probe (k : Pkg) (node : Nat) : Pkg :=
  let t := k.cl.core.tick.toNat
  let l := (kget k.fab.probes [] node).filter (fun u => decide (t < u + 65536))
  let k := k.onFab (fun y => { y with probes := kput y.probes [] node (t :: l) })
  if l.length = 63 then k.onCore (·.record pageSec 0x0D0A sevInfo 15 (placeSbx 0) (node % 2 ^ 16 * 2 ^ 16)) else k

/-- HB_WIN_DENIED, at the controller of the address where it has one, and the NAK of R292 (R272, R273). -/
def Pkg.winDeny (k : Pkg) (p : Nat) (f : Frame) (r : Nat) : Pkg :=
  let k := if r = 2 ∨ r = 5 then k.probe f.srcNode.toNat else k
  let dpa := bitsAt (k.winW f.window.toNat 4) 0 30 * 4096 + f.offset.toNat
  let k := match k.media dpa with
    | some (h, c, off) => k.hbEvent h 0x090D sevInfo (k.detailBlock h c off f.window.toNat r)
    | none => k.onCore (·.record (pageFb p) 0x090D sevInfo 15 (linkLoc p) (detailHb dpa 0 0xFF 0 0 f.window.toNat r))
  k.refuse p f (0x10 + r)

/-- Endpoint of a port at the mainline (R207, R275). -/
def portEp (p : Nat) : Nat :=
  8 + (if p < 4 then p else if p < 8 then p - 4 else if p < 13 then p - 8 else p - 13)
/-- Port of a mainline endpoint. -/
def epPort (q ep : Nat) : Nat := (if q = 0 then 0 else if q = 1 then 4 else if q = 2 then 8 else 13) + (ep - 8)

/-- First free inbound index of a port. -/
def Pkg.inFree (k : Pkg) (p : Nat) : Option Nat :=
  (List.range 256).find? (fun i => (kget k.fab.inn none (256 * p + i)).isNone)

/-- Packet that carries piece e of a window access to its controller (R256, R258). -/
def Pkg.winPacket (k : Pkg) (p id piece job dpa : Nat) (read : Bool) (l : List PB) : Packet :=
  let h := match k.media dpa with
    | some (h, _, _) => h
    | none => 0
  let die := BitVec.ofNat 7 (96 + portQuad p)
  let ep := BitVec.ofNat 6 (portEp p)
  let base : Packet :=
    { type := if read then 1 else 2, vc := 1, job := BitVec.ofNat 4 job, txn := BitVec.ofNat 12 (16 * id + piece),
      chunks := BitVec.ofNat 6 ((l.length + 63) / 64), srcDie := die, srcEp := ep,
      dstDie := BitVec.ofNat 7 (96 + h / 6), dstEp := BitVec.ofNat 6 (h % 6), addr := BitVec.ofNat 64 dpa }
  if read then { base with rplDie := die, rplEp := ep }
  else { base with payload := l.map (·.1), poison := poisonBits l }

/-- WR or RD: admitted under R272, then passed into the mainline on VC1 (R295). -/
def Pkg.window (k : Pkg) (p : Nat) (f : Frame) (read : Bool) : Pkg :=
  let w := f.window.toNat
  let n := if read then f.len.toNat else f.payload.length
  if n = 0 ∨ 2048 < n then k.refuse p f 0x02
  else
    let r := k.winBad w f.srcNode.toNat f.offset.toNat n f.gen.toNat (!read)
    if r ≠ 0 then k.winDeny p f r
    else match k.inFree p with
      | none => k
      | some id =>
        let job := bitsAt (k.winW w 0) 25 4
        let dpa := bitsAt (k.winW w 4) 0 30 * 4096 + f.offset.toNat
        let bytes : List PB := if read then List.replicate n (0, false)
          else f.payload.zipIdx.map (fun (e : Byte × Nat) => (e.1, bitAt f.f4 (e.2 / 32)))
        let pieces := (chunks256 (n / 256 + 2) dpa bytes).zipIdx
        let f0 : Frame := { f with payload := [] }
        let t : InTxn := { frame := f0, isRead := read, job := job, left := pieces.length, got := [], old := false }
        let k := k.onFab (fun y => { y with inn := kput y.inn none (256 * p + id) (some t) })
        pieces.foldl (fun x e => x.inject true (96 + portQuad p) (portEp p)
          (x.winPacket p id e.2 job e.1.1 read e.1.2)) k

/-- A COMPLETION or READ_REPLY reaches a fabric port: the last one sends WR_CPL or RD_RPL (R295). -/
def Pkg.windowDone (k : Pkg) (p : Nat) (pk : Packet) : Pkg :=
  let key := 256 * p + pk.txn.toNat / 16
  match kget k.fab.inn none key with
  | none => k
  | some t =>
    let t := { t with left := t.left - 1, got := if t.isRead then kput t.got [] (pk.txn.toNat % 16) (pkBytes pk) else t.got }
    if 0 < t.left then k.onFab (fun y => { y with inn := kput y.inn none key (some t) })
    else
      let k := k.onFab (fun y => { y with inn := kput y.inn none key none })
      let lens := (chunks256 16 t.frame.offset.toNat (List.replicate t.frame.len.toNat ())).map (·.2.length)
      let l := lens.zipIdx.flatMap (fun (e : Nat × Nat) => (kget t.got [] e.2).take e.1)
      let node := t.frame.srcNode.toNat
      let base : Frame := { ftype := if t.isRead then 0x0B else 0x09, fvc := t.frame.fvc, fgroup := t.frame.fgroup,
                            txn := t.frame.txn, window := t.frame.window, offset := t.frame.offset, gen := t.frame.gen }
      if t.isRead then
        (framesOf (k.portMax node t.frame.fgroup.toNat) (l.length / 64 + 1) 0 l).foldl (fun x c => (x.sendTo node { base with
          offset := BitVec.ofNat 48 (t.frame.offset.toNat + c.1), chunks := BitVec.ofNat 6 ((c.2.length + 63) / 64),
          f4 := poisonBits c.2, payload := c.2.map (·.1) }).2) k
      else (k.sendTo node base).2

/-- Guard offset 0: written window entries take effect at every port and GEN advances; accesses of the generation before
stay under the old entry and hold OLD_BUSY (R271). -/
def Pkg.windowsApply (k : Pkg) : Pkg :=
  iter 256 (fun w x =>
    let pg := pageWin (w / 64)
    let off := 0x100 + 32 * (w % 64)
    let c := x.cl.core
    let same := [0, 2, 4, 5].all (fun i =>
      decide (c.rd pg (off + 4 * i) &&& (if i = 0 then 0xFE000000 else 0xFFFFFFFF) = x.winW w i))
    let x := if same then x
      else
        let g := c.rd pg (off + 4) + 1
        let x := x.onCore (·.wr pg (off + 4) g)
        let win := [0, 2, 4, 5].foldl (fun m i =>
          kput m 0 (8 * w + i) (c.rd pg (off + 4 * i) &&& (if i = 0 then 0xFE000000 else 0xFFFFFFFF))) x.hbm.win
        let used := x.fab.inn.any (fun e => match e.2 with
          | some t => decide (t.frame.window.toNat = w)
          | none => false)
        let old := (bitsAt (x.winW w 4) 0 30 * 4096, (bitsAt (x.winW w 5) 0 30 + 1) * 4096)
        let x := if used then x.onFab (fun y => { y with oldWin := kput y.oldWin [] w (kget y.oldWin [] w ++ [old]) }) else x
        let x := x.onHbm (fun b => { b with win := kput win 0 (8 * w + 1) g })
        x.onFab (fun y => { y with inn := y.inn.map (fun e =>
          (e.1, e.2.map (fun t => if t.frame.window.toNat = w then { t with old := true } else t))) })
    let busy := x.fab.inn.any (fun e => match e.2 with
      | some t => t.old && decide (t.frame.window.toNat = w)
      | none => false)
    let x := if busy then x else x.onFab (fun y => { y with oldWin := kput y.oldWin [] w [] })
    if bitAt (x.cl.core.rd pg off) 24 = busy then x
    else x.onCore (·.setFld pg off 24 1 (if busy then 1 else 0))) k

/-! ## The stop signal (R302, R303) -/

/-- End the collective runs whose key answers true: they leave FB_COLL_BUSY (R303, R414). -/
def Pkg.dropRuns (k : Pkg) (p : Nat → Bool) : Pkg :=
  let gone := k.fab.runs.filter (fun e => p e.1)
  (k.onFab (fun y => { y with runs := y.runs.filter (fun e => !p e.1) })).onCore (fun c =>
    gone.foldl (fun x e => x.setFld (pageColl (e.1 / 64)) (0xC8 + e.1 % 64 / 32 * 4) (e.1 % 32) 1 0) c)

/-- End every collective run of a job. -/
def Pkg.endRuns (k : Pkg) (job : Nat) : Pkg :=
  k.dropRuns (fun e => decide (k.grpJob (bitsAt (nth (kget k.fab.coll [] e) 0 0) 52 4) = job))

/-- Apply a stop signal: ABORT to the group's job, its collective runs end, FB_STOP (R303). -/
def Pkg.stopApply (k : Pkg) (fgroup : Nat) (late : Bool) : Pkg :=
  match kget k.fab.stops none fgroup, k.grpOf fgroup with
  | some s, some i =>
    let job := k.grpJob i
    let d := detailFb s.origin 0xFF s.reason 0 fgroup s.ta
    let k := k.onCore (·.record (pageColl 0) 0x0A10 sevCont job (placeEdge 0 2 0) d)
    let k := if late then k.onCore (·.record (pageColl 0) 0x0A11 sevInfo job (placeEdge 0 2 0) d) else k
    let k := k.onCore (fun c => c.wrs pageFbPkg 0x60
      [BitVec.ofNat 32 fgroup, BitVec.ofNat 32 s.origin, BitVec.ofNat 32 s.reason, 0,
       BitVec.ofNat 32 s.ta, BitVec.ofNat 32 (s.ta / 2 ^ 32), 0, 0])
    let k := k.onFab (fun y => { y with stops := kput y.stops none fgroup none })
    (k.endRuns job).onClus (fun m => (m.abortJob job).faultJob job 0x0A10)
  | _, _ => k

/-- Whether Departure of tick T_a − 1 has passed. -/
def Core.stopLate (c : Core) (ta : Nat) : Bool := decide (ta < c.tick.toNat + 1 ∨ (ta = c.tick.toNat + 1 ∧ 96 ≤ c.cycle))

/-- Note a stop signal; the earliest T_a rules (R302). -/
def Pkg.stopNote (k : Pkg) (fgroup origin reason ta : Nat) : Pkg :=
  let s : StopS := { origin := origin, reason := reason, ta := ta }
  let best : StopS := match kget k.fab.stops none fgroup with
    | some o => if o.ta ≤ ta then o else s
    | none => s
  let k := k.onFab (fun y => { y with stops := kput y.stops none fgroup (some best) })
  if k.cl.core.stopLate ta then k.stopApply fgroup true else k

/-- Emit a stop signal for a group: T_a is four ticks on (R302). -/
def Pkg.stopEmit (k : Pkg) (i reason : Nat) : Pkg :=
  let ta := k.cl.core.tick.toNat + 4
  let seq := (k.fab.stopSeq + 1) % 2 ^ 32
  let k := k.onFab (fun y => { y with stopSeq := seq, stopSeen := y.stopSeen ++ [(k.node, seq)] })
  let k := k.sendGroup i { ftype := 0x18, srcNode := BitVec.ofNat 16 k.node, srcInc := BitVec.ofNat 8 k.inc, reason := BitVec.ofNat 8 reason,
                           f5 := BitVec.ofNat 64 ta, step := BitVec.ofNat 32 seq }
  k.stopNote (k.grpId i) k.node reason ta

/-- STOP: sent on once, to every member (R302). -/
def Pkg.stopFrame (k : Pkg) (f : Frame) : Pkg :=
  let id := (f.srcNode.toNat, f.step.toNat)
  if k.fab.stopSeen.elem id then k
  else match k.grpOf f.fgroup.toNat with
    | none => k
    | some i =>
      let k := k.onFab (fun y => { y with stopSeen := y.stopSeen ++ [id] })
      let k := k.sendGroup i { ftype := 0x18, srcNode := f.srcNode, srcInc := f.srcInc, reason := f.reason, f5 := f.f5, step := f.step }
      k.stopNote f.fgroup.toNat f.srcNode.toNat f.reason.toNat f.f5.toNat

/-- STOP_ABORT at Departure offset 95 of tick T_a − 1 (R303). -/
def Pkg.stopAbort (k : Pkg) (fgroup : Nat) : Pkg :=
  match kget k.fab.stops none fgroup with
  | some s => if s.ta ≤ k.cl.core.tick.toNat + 1 then k.stopApply fgroup false else k
  | none => k

/-! ## Line tablets (R305) -/

/-- Group of a bound line tablet: that of its job. -/
def Pkg.lineGroup (k : Pkg) (i : Nat) : Option Nat := k.grpOfJob (k.cl.core.tbJob pageRoot (lineOff i))

/-- A line tablet's generation completes here: its waiters are released (R228, R305). -/
def Pkg.lineDone (k : Pkg) (i : Nat) : Pkg :=
  k.onClus (fun m =>
    let m := { m with tab := { m.tab with lineSent := kput m.tab.lineSent false i false, lineIn := kput m.tab.lineIn [] i [] } }
    m.tabComplete pageRoot (lineOff i))

/-- A member's arrival at rank 0; the last one completes the generation and sends LT_DONE (R305). -/
def Pkg.lineArrive (k : Pkg) (g i rank : Nat) : Pkg :=
  let l := kget k.cl.tab.lineIn [] i
  let l := if l.elem rank then l else l ++ [rank]
  let k := k.onClus (fun m => { m with tab := { m.tab with lineIn := kput m.tab.lineIn [] i l } })
  if l.length < k.grpN g then k
  else (k.sendGroup g { ftype := 0x1A, txn := BitVec.ofNat 12 i }).lineDone i

/-- The Tablet root sends the LT_ARRIVEs that are due, or counts its own at rank 0 (R305). -/
def Pkg.lineFlush (k : Pkg) : Pkg :=
  let l := k.cl.tab.ltOut
  l.foldl (fun x i =>
    match x.lineGroup i with
    | none => x
    | some g =>
      if x.grpRank g = 0 then x.lineArrive g i 0
      else (x.sendTo (x.memberNode g 0) { ftype := 0x19, fgroup := BitVec.ofNat 16 (x.grpId g), txn := BitVec.ofNat 12 i }).2)
    (k.onClus (fun m => { m with tab := { m.tab with ltOut := [] } }))

/-- LT_ARRIVE at the rank-0 member (R305). -/
def Pkg.ltArrive (k : Pkg) (f : Frame) : Pkg :=
  match k.grpOf f.fgroup.toNat with
  | none => k
  | some g => match k.rankOf g f.srcNode.toNat with
    | none => k
    | some r => if k.grpRank g = 0 ∧ f.txn.toNat < 8 then k.lineArrive g f.txn.toNat r else k

/-- LT_DONE (R305). -/
def Pkg.ltDone (k : Pkg) (f : Frame) : Pkg := if f.txn.toNat < 8 then k.lineDone f.txn.toNat else k

/-! ## Route drains and takeover (R307, R308) -/

/-- Rank + 1 of a collective run: the node its chunks go to. -/
def Pkg.runNext (k : Pkg) (key : Nat) : Nat :=
  let i := bitsAt (nth (kget k.fab.coll [] key) 0 0) 52 4
  k.memberNode i ((k.grpRank i + 1) % max 1 (k.grpN i))

/-- ROUTE_DRAIN_ARRIVE: participants 0–17 are the ports and 18–21 the collective engines; one arrives once it holds no
frame and has no transaction for a node whose entry changes (R307). -/
def Pkg.drainArrive (k : Pkg) (i : Nat) : Pkg :=
  let held := (kget k.fab.wait [] i).any (fun f => k.routeChanged f.dstNode.toNat) ||
    (kget k.fab.retry [] i).any (fun f => k.routeChanged f.2.dstNode.toNat) ||
    k.fab.out.any (fun t => decide (t.port = i) && k.routeChanged t.node)
  let busy := decide (18 ≤ i) && (k.fab.runs.any (fun e => decide (e.1 / 64 = i - 18) && k.routeChanged (k.runNext e.1) &&
    (match e.2 with
     | some r => decide (r.unacked ≠ [])
     | none => false)))
  if k.cl.core.drainArmed = false ∨ k.cl.core.cycle < k.cl.core.close0 ∨ k.fab.drained.elem i ∨ (decide (i < 18) && held) ∨ busy then k
  else
    let k := k.onFab (fun y => { y with drained := y.drained ++ [i] })
    let n := k.fab.drained.length
    k.onCore (fun c =>
      if 22 ≤ n then c.setTb pageRoot (thruOff 31) 0 (c.tbGen pageRoot (thruOff 31) + 1)
      else c.setTb pageRoot (thruOff 31) n (c.tbGen pageRoot (thruOff 31)))

/-- The route swap at Guard offset 64, or a deferral that fails after 16; what is held back leaves at the next Departure
(R224, R225, R307). -/
def Pkg.routeSwap (k : Pkg) : Pkg :=
  if k.cl.core.drainArmed = false then k
  else
    let late := (List.range 22).filter (fun i => !k.fab.drained.elem i)
    let k := k.onFab (fun y => { y with drained := [], undrained := late })
    if late = [] then
      let k := k.onCore (fun c =>
        (((c.setTb pageRoot (thruOff 31) 0 (c.tbGen pageRoot (thruOff 31))).wr8 pageFbPkg 0x50 0).setFld pageFbPkg 0x4C 31 1
          (1 - k.routeBank)).setFld pageFbPkg 0x4C 0 8 0)
      let l := k.fab.annIn
      (l.foldl (fun x (e : Nat × Nat) => (x.sendTo e.1 { ftype := 0x29, fgroup := BitVec.ofNat 16 e.2 }).2)
        (k.onFab (fun y => { y with annIn := [] })))
    else
      let d := k.cl.core.fld pageFbPkg 0x4C 0 8 + 1
      let ev (c : Core) (code sev : Nat) : Core := c.record pageFbPkg code sev 15 (placeEdge 0 2 0) (detailFb 0 0xFF 0 0 0 0)
      k.onCore (fun c =>
        let c := c.setTb pageRoot (thruOff 31) 0 (c.tbGen pageRoot (thruOff 31) + 1)
        let c := (ev c 0x0A12 sevInfo).setFld pageFbPkg 0x4C 0 8 d
        if 16 ≤ d then (ev c 0x0A13 sevDegr).wr8 pageFbPkg 0x50 0
        else c.wr8 pageFbPkg 0x50 (c.tick.toNat + 1))

/-- The route table with a copy of the bank in force in the other bank, which a swap that is already armed keeps (R306). -/
def Pkg.routeCopy (k : Pkg) : KMap W32 :=
  if k.cl.core.rd8 pageFbPkg 0x50 ≠ 0 then k.fab.route
  else
    let a := 65536 * k.routeBank
    let b := 65536 * (1 - k.routeBank)
    let keep := (kclear k.fab.route b 65536).filter (fun e => decide (a ≤ e.1 ∧ e.1 < a + 65536))
    keep.foldl (fun (m : KMap W32) (e : Nat × W32) => kput m 0 (e.1 - a + b) e.2) (kclear k.fab.route b 65536)

/-- TAKEOVER_ANN at a member: the new incarnation enters the member lists, its streams start again, the route entry names the
port it came by and a swap is armed, after which DRAIN_DONE answers (R308). -/
def Pkg.takeoverAnn (k : Pkg) (p : Nat) (f : Frame) : Pkg :=
  let node := f.srcNode.toNat
  let w : W32 := BitVec.ofNat 32 (node * 65536 + f.srcInc.toNat * 256)
  let mem := k.fab.members.map (fun e => if bitsAt e.2 16 16 = node then (e.1, w) else e)
  let k := k.onFab (fun y => { y with
    members := mem, txSeq := y.txSeq.filter (fun e => decide (e.1 / 2 ^ 18 ≠ node)),
    annIn := y.annIn ++ [(node, f.fgroup.toNat)],
    route := kput k.routeCopy 0 (65536 * (1 - k.routeBank) + node) (BitVec.ofNat 32 (2 ^ 31 + 2 ^ p)) })
  if k.cl.core.rd8 pageFbPkg 0x50 ≠ 0 then k
  else k.onCore (fun c => (c.setFld pageFbPkg 0x4C 0 8 0).wr8 pageFbPkg 0x50 (c.tick.toNat + 1))

/-- DRAIN_DONE at the relief device (R308). -/
def Pkg.drainDoneFrame (k : Pkg) (f : Frame) : Pkg :=
  let n := f.srcNode.toNat
  if k.fab.drainDone.elem n then k else k.onFab (fun y => { y with drainDone := y.drainDone ++ [n] })

/-- Every port idle or absent (R290). -/
def Pkg.portsIdle (k : Pkg) : Bool := (List.range 18).all (fun p => decide (k.portState p = 0 ∨ k.portState p = 6))

/-- FB_NODE is written: enabled ports enter Detect once it is valid (R290); dropped while a port is busy. -/
def Pkg.nodeWrite (k : Pkg) (v : W32) : Pkg :=
  if k.portsIdle = false then k.onCore (·.dropped pageFbPkg)
  else
    let was := bitAt (k.cl.core.rd pageFbPkg 0x40) 0
    let k := k.onCore (·.wr pageFbPkg 0x40 (v &&& 0xFFFFFF01))
    if bitAt v 0 && !was then (List.range 18).foldl (fun x p => x.startDetect p) k
    else if bitAt v 0 = false then (List.range 18).foldl (fun x p => (x.setLink p { idleLink with tag := (x.link p).tag }).setPortState p 0) k
    else k

/-- LINK_CONTROL_FLIT (R284–R287): ACK, NAK, credits and width operations. A request for a lane set is acknowledged at once; the
set holds from WIDTH_LSEQ on. -/
def Pkg.control (k : Pkg) (l : Nat) (f : ControlFlit) : Pkg :=
  let x := k.link l
  if x.step ≠ .up then k
  else
    let ack := f.ack.toNat
    let fails := if x.failCnt ≠ 0 ∧ lseqLe x.failSeq ack then 0 else x.failCnt
    let x := { x with txAck := (ack + 1) % 4096, credit := addCredit x.credit (f.credit.map (·.toNat)), failCnt := fails }
    let k := k.setLink l x
    let k := if l = salLink then k.onAtt (fun a => { a with retry := a.retry.filter (fun e => !lseqLe e.1 ack) })
      else k.onFab (fun y => { y with retry := kput y.retry [] l ((kget y.retry [] l).filter (fun e => !lseqLe e.1 ack)) })
    let x := k.link l
    let k : Pkg := match f.widthOp.toNat with
      | 1 =>
        let m := f.widthLanes.toNat
        (k.setLink l ({ x with wpend := some (m, f.widthLseq.toNat) }.sendCtl none 2 m x.txNext)).widthApply l
      | 2 => match x.wreq with
        | some (m, _) => (k.setLink l { x with wpend := some (m, f.widthLseq.toNat), wreq := none }).widthApply l
        | none => k
      | _ => k
    if f.nakValid then
      let x := k.link l
      let n := f.nak.toNat
      let c : Nat := if x.failCnt ≠ 0 ∧ x.failSeq = n then x.failCnt + 1 else 1
      let k := k.setLink l { x with failSeq := n, failCnt := c }
      let k := if l = salLink then k else k.onCore (·.incSat (pageFb l) 0x88 1)
      if 8 ≤ c then k.linkLost l else k
    else if l = salLink then k else k.drainWait l

/-! ## The commands of this part -/

/-- HELLO (R291). -/
def execHello (p : Port) (h : HelloInfo) (s : State) : Out :=
  .next (s.onPkg (·.takeFrame p.val { h.frame with ftype := 0x01 } (·.hello p.val h)))
/-- HELLO_ACK (R291). -/
def execHelloAck (a : PortFrame) (s : State) : Out :=
  .next (s.onPkg (·.takeFrame a.port.val { a.frame with ftype := 0x02 } (·.helloAcked a.port.val)))
/-- HELLO_TIMER (R291). -/
def execHelloTimer (p : Port) (s : State) : Out := .next (s.onPkg (·.helloTimer p.val))
/-- HELLO_TIMEOUT (R291). -/
def execHelloTimeout (p : Port) (s : State) : Out := .next (s.onPkg (·.helloTimeout p.val))
/-- BYE (R289). -/
def execBye (a : PortFrame) (s : State) : Out :=
  .next (s.onPkg (·.takeFrame a.port.val { a.frame with ftype := 0x03 } (·.bye a.port.val)))
/-- NAK (R292). -/
def execNak (p : Port) (f : Frame) (s : State) : Out :=
  .next (s.onPkg (·.takeFrame p.val { f with ftype := 0x04 } (·.nak p.val f)))
/-- QUARANTINE_BACKOFF_END (R293). -/
def execQuarantineBackoffEnd (p : Port) (s : State) : Out := .next (s.onPkg (·.unquarantine p.val))
/-- WR (R295). -/
def execWr (p : Port) (f : Frame) (s : State) : Out :=
  .next (s.onPkg (·.takeFrame p.val { f with ftype := 0x08 } (·.window p.val { f with ftype := 0x08 } false)))
/-- RD (R295). -/
def execRd (p : Port) (f : Frame) (s : State) : Out :=
  .next (s.onPkg (·.takeFrame p.val { f with ftype := 0x0A } (·.window p.val { f with ftype := 0x0A } true)))
/-- STOP (R302). -/
def execStop (p : Port) (f : Frame) (s : State) : Out :=
  .next (s.onPkg (·.takeFrame p.val { f with ftype := 0x18 } (·.stopFrame f)))
/-- STOP_ABORT (R303). -/
def execStopAbort (g : BitVec 16) (s : State) : Out := .next (s.onPkg (·.stopAbort g.toNat))
/-- LT_ARRIVE (R305). -/
def execLtArrive (p : Port) (f : Frame) (s : State) : Out :=
  .next (s.onPkg (·.takeFrame p.val { f with ftype := 0x19 } (·.ltArrive f)))
/-- LT_DONE (R305). -/
def execLtDone (p : Port) (f : Frame) (s : State) : Out :=
  .next (s.onPkg (·.takeFrame p.val { f with ftype := 0x1A } (·.ltDone f)))
/-- ROUTE_DRAIN_ARRIVE (R307). -/
def execRouteDrainArrive (i : Fin 22) (s : State) : Out := .next (s.onPkg (·.drainArrive i.val))
/-- TAKEOVER_ANN (R308). -/
def execTakeoverAnn (p : Port) (f : Frame) (s : State) : Out :=
  .next (s.onPkg (·.takeFrame p.val { f with ftype := 0x28 } (·.takeoverAnn p.val f)))
/-- DRAIN_DONE (R308). -/
def execDrainDone (p : Port) (f : Frame) (s : State) : Out :=
  .next (s.onPkg (·.takeFrame p.val { f with ftype := 0x29 } (·.drainDoneFrame f)))
/-- FB_NODE_WRITE (R290). -/
def execFbNodeWrite (v : W32) (s : State) : Out := .next (s.onPkg (·.nodeWrite v))
/-- UNQUARANTINE (R293). -/
def execUnquarantine (p : Port) (s : State) : Out := .next (s.onPkg (·.unquarantine p.val))
/-- FB_CNT_CLR: the counters and FB_FIRST_ERR; FB_VIOLATION is armed again (R292). -/
def execFbCntClr (p : Port) (s : State) : Out :=
  .next (s.onPkg (fun k => (k.onCore (fun c => (c.zero (pageFb p.val) 0x80 8).zero (pageFb p.val) 0xC0 8)).onFab
    (fun y => { y with violRec := kput y.violRec false p.val false })))
/-- FB_CW_UE (R315). -/
def execFbCwUe (p : Port) (s : State) : Out := .next (s.onPkg (·.onCore (·.setFld (pageFb p.val) 0x28 0 1 1)))
/-- LANE_KILL (R315): logical lane 0 fails at once where the port is up; otherwise the bit stays armed. -/
def execLaneKill (p : Port) (s : State) : Out :=
  .next (s.onPkg (fun k =>
    match (k.link p.val).step, (k.link p.val).lanes with
    | .up, lane :: _ => k.laneDrop p.val lane true
    | _, _ => k.onCore (·.setFld (pageFb p.val) 0x28 1 1 1)))
/-- VSUM_FLIP (R315). -/
def execVsumFlip (p : Port) (s : State) : Out := .next (s.onPkg (·.onCore (·.setFld (pageFb p.val) 0x28 2 1 1)))
/-- TBARRIVE (R122): an arrival that completes this device's part of a line tablet leaves for rank 0 (R305). -/
def execTbarrive (c : Clu) (a : XReg) (s : State) : Out := .next (s.onPkg (fun k => (k.onClus (·.tbarrive c.val a.val)).lineFlush))
/-- RV64IMC_INSTRUCTION (R118): the instruction may be a TBARRIVE. -/
def execRv64imcInstruction (c : Clu) (s : State) : Out := .next (s.onPkg (fun k => (k.onClus (·.rvStep c.val)).lineFlush))

end Sys2Proof.Machine
end

