-- ==== Sys2Proof/Machine/Attach.lean ====
section
/-!
DEFINITION. The Attach Link (R316–R325): SAL messages and credits, the host's accesses and the directory, the attach cache,
and the hardware pages of the control window.
-/
namespace Sys2Proof.Machine

/-! ## Messages (R319–R321) -/

/-- Class of an operation: 0 REQ, 1 SNP, 2 RSP, 3 DATA. -/
def salClass (op : Nat) : Nat := if op < 0x10 then 0 else if op < 0x20 then 1 else if op < 0x30 then 2 else 3

/-- Send a message while the link is up; one without credit or retry-buffer room waits, and none is sent while the link is
down (R319, R320). -/
def Pkg.salSend (k : Pkg) (m : SalMsg) : Pkg :=
  let x := k.link salLink
  if x.step ≠ .up then k
  else
    let cls := salClass m.op.toNat
    let n := if m.data = [] then 1 else 2
    let cr := nth x.credit 0 cls
    if cr < n ∨ 2048 ≤ (x.txNext + 4096 - x.txAck) % 4096 then k.onAtt (fun a => { a with wait := a.wait ++ [m] })
    else
      let credit := (List.range 4).map (fun i => if i = cls then cr - n else nth x.credit 0 i)
      let k := k.setLink salLink ({ x with credit := credit }.sendWords 1)
      let k := k.onAtt (fun a => { a with retry := a.retry ++ [(x.txNext, m)] })
      k.onCore (·.setFld pageAt 0x28 0 1 0)

/-- Send what waits for credit. -/
def Pkg.salDrain (k : Pkg) : Pkg :=
  let l := k.att.wait
  l.foldl (fun x m => x.salSend m) (k.onAtt (fun a => { a with wait := [] }))

/-- POISON bits of a line: bit h = half h. -/
def linePoison (l : List PB) : BitVec 2 :=
  BitVec.ofNat 2 ((if (l.take 32).any (·.2) then 1 else 0) + (if (l.drop 32).any (·.2) then 2 else 0))
/-- Data bytes of a message with their poison, 64 of them. -/
def msgBytes (m : SalMsg) : List PB :=
  (List.range 64).map (fun i => (m.data.getD i 0, bitAt m.poison (i / 32)))
/-- A LINE message. -/
def lineMsg (txn : BitVec 12) (l : List PB) : SalMsg := { op := 0x30, txn := txn, poison := linePoison l, data := l.map (·.1) }

/-- AT_PROTOCOL, with the ERR answer; a read is also answered by a poisoned line (R321). -/
def Pkg.salErr (k : Pkg) (m : SalMsg) (read : Bool) : Pkg :=
  let k := k.onCore (·.record pageAt 0x0B04 sevInfo 15 (linkLoc salLink) (detailAt m.addr.toNat m.op.toNat 2 0xFF 0 m.txn.toNat))
  let k := k.salSend { op := 0x20, txn := m.txn, status := 2 }
  if read then k.salSend { op := 0x30, txn := m.txn, poison := 3, data := List.replicate 64 0 } else k

/-! ## The directory (R322, R323) -/

/-- Directory state of a line: 0 I, 1 S, 2 O. -/
def Pkg.dirOf (k : Pkg) (line : Nat) : Nat := kget k.att.dir 0 line
/-- Set it. -/
def Pkg.setDir (k : Pkg) (line x : Nat) : Pkg := k.onAtt (fun a => { a with dir := kput a.dir 0 line x })
/-- Whether a DPA lies in an attached window. -/
def Pkg.attached (k : Pkg) (dpa : Nat) : Bool :=
  k.att.wins.any (fun e => match e.2 with
    | some (b, n) => decide (b ≤ dpa ∧ dpa < b + n)
    | none => false)
/-- Whether the host may name a DPA: backed user memory (R255, R321). -/
def Pkg.hostDpa (k : Pkg) (dpa : Nat) : Bool := decide (dpa < dpaFw) && (k.segOf dpa).isSome

/-- Next transaction tag of the device. -/
def Pkg.newTxn (k : Pkg) : Nat × Pkg :=
  (k.att.nextTxn, k.onAtt (fun a => { a with nextTxn := (a.nextTxn + 1) % 4096 }))

/-- Start a snoop of the host for a line (R323). -/
def Pkg.snoop (k : Pkg) (line : Nat) (inv : Bool) (pk : Option Packet) : Pkg :=
  let (t, k) := k.newTxn
  let k := k.onAtt (fun a => { a with snoops := a.snoops ++ [{ txn := t, line := line, inv := inv, pk := pk }] })
  k.salSend { op := if inv then 0x10 else 0x11, txn := BitVec.ofNat 12 t, addr := BitVec.ofNat 48 (64 * line) }

/-- Whether a snoop of a line is outstanding. -/
def Pkg.snooping (k : Pkg) (line : Nat) : Bool := k.att.snoops.any (fun s => decide (s.line = line))

/-- The line an access that waits at the directory waits for. -/
def AtWait.line : AtWait → Nat
  | .host m => m.addr.toNat / 64
  | .dev l _ => l

/-- Whether an access of a line must wait: a snoop of it is outstanding, or an earlier access of it waits (R323). -/
def Pkg.lineBusy (k : Pkg) (line : Nat) : Bool := k.snooping line || k.att.waitq.any (fun w => decide (w.line = line))

/-- An access waits at the directory (R323). -/
def Pkg.lineWait (k : Pkg) (w : AtWait) : Pkg := k.onAtt (fun a => { a with waitq := a.waitq ++ [w] })

/-- Lines of an access of n bytes. -/
def lineSpan (a n : Nat) : List Nat := (List.range ((a + n + 63) / 64 - a / 64)).map (· + a / 64)

/-- First line of a device access to an attached window whose copy at the host must be snooped (R323). -/
def Pkg.snoopLine (k : Pkg) (dpa n : Nat) (write : Bool) : Option Nat :=
  (lineSpan dpa n).find? (fun l => k.attached (64 * l) &&
    decide (k.dirOf l = 2 ∨ (write = true ∧ k.dirOf l = 1) ∨ k.lineBusy l = true))

/-- The entry set of a line: 262,144 sets of 16. -/
def dirSet (line : Nat) : Nat := line % 262144
/-- Victim of a full set, where a new entry is needed: its lowest line. -/
def Pkg.dirVictim (k : Pkg) (line : Nat) : Option Nat :=
  if k.dirOf line ≠ 0 then none
  else
    let l := k.att.dir.filter (fun e => decide (dirSet e.1 = dirSet line))
    if 16 ≤ l.length then l.head?.map (·.1) else none

/-- RD_SHARED or RD_OWN of the host (R322, R323). -/
def Pkg.hostRead (k : Pkg) (m : SalMsg) (own : Bool) : Pkg :=
  let a := m.addr.toNat
  let line := a / 64
  if m.resv ∨ m.space ∨ a % 64 ≠ 0 ∨ k.hostDpa a = false ∨ k.attached a = false then k.salErr m true
  else if k.lineBusy line then k.lineWait (.host m)
  else if k.dirOf line = 2 then k.salErr m true
  else match k.dirVictim line with
    | some v => (if k.snooping v then k else k.snoop v true none).lineWait (.host m)
    | none =>
      let (l, k) := k.dpaRead a 64
      let k := k.setDir line (if own then 2 else 1)
      (k.salSend { op := if own then 0x22 else 0x21, txn := m.txn }).salSend (lineMsg m.txn l)

/-- WB: an exclusive line comes back with its data; behind a snoop of its line it waits its turn (R323; log entry 326). -/
def Pkg.hostWb (k : Pkg) (m : SalMsg) : Pkg :=
  let a := m.addr.toNat
  if m.resv ∨ m.space ∨ a % 64 ≠ 0 ∨ k.hostDpa a = false then k.salErr m false
  else if k.lineBusy (a / 64) then k.lineWait (.host m)
  else if k.dirOf (a / 64) ≠ 2 then k.salErr m false
  else (((k.dpaWrite a (msgBytes m)).setDir (a / 64) 0).salSend { op := 0x20, txn := m.txn })

/-- EVICT: a clean copy is dropped; behind a snoop of its line it waits its turn (R323; log entry 326). -/
def Pkg.hostEvict (k : Pkg) (m : SalMsg) : Pkg :=
  let a := m.addr.toNat
  if m.resv ∨ m.space ∨ a % 64 ≠ 0 ∨ k.hostDpa a = false then k.salErr m false
  else if k.lineBusy (a / 64) then k.lineWait (.host m)
  else if k.dirOf (a / 64) = 0 then k.salErr m false
  else (k.setDir (a / 64) 0).salSend { op := 0x20, txn := m.txn }

/-! ## The control window's hardware pages (R325, R329) -/

/-- Grade code of AT_DEV_ID and of the fuse digest (R329, R467). -/
def gradeCode : Grade → Nat
  | .x => 1
  | .s => 2
  | .e => 3
/-- AT_DEV_ID: part 0xC100, the grade, stepping 0 (R329; log entry 28). -/
def Core.devId (c : Core) : Nat := 0xC100 * 65536 + gradeCode c.grade * 256

/-- Fraction within the tick, 1/16 ns (R309). -/
def Core.frac (c : Core) : Nat := if c.cpt = 0 then 0 else c.cycle * 160000 / c.cpt

/-- A read of a word of the control window; a read of the time mirror's low tick latches the rest (R325). -/
def Pkg.cwRead (k : Pkg) (page off : Nat) : W32 × Pkg :=
  let c := k.cl.core
  if page = 2 then
    if off = 0x40 then
      (c.tickLo, (k.cwWr 2 0x44 (BitVec.ofNat 32 (c.tick.toNat / 2 ^ 32))).cwWr 2 0x48 (BitVec.ofNat 32 c.frac))
    else if off = 0x44 ∨ off = 0x48 then (k.cwRd 2 off, k)
    else if 0x4C ≤ off ∧ off < 0x5C then (c.rd pageTime off, k)
    else (k.cwRd 2 off, k)
  else if page = 1 ∧ 0x40 ≤ off ∧ off < 0x80 then (0, k)
  else if page = 0 ∧ off = 0x40 then (BitVec.ofNat 32 c.devId, k)
  else if page = 3 ∧ off = 0x50 then (BitVec.ofNat 32 (4096 - k.att.log.length), k)
  else (k.cwRd page off, k)

/-- Size and alignment of a control-window access (R325). -/
def cwAligned (off size : Nat) : Bool := decide ((size = 4 ∨ size = 8) ∧ off % size = 0)

/-- Offset and number of the bytes a mask names in a line, where they are contiguous. -/
def maskRun (mask : W64) : Option (Nat × Nat) :=
  match (List.range 64).find? (fun i => mask.getLsbD i) with
  | none => none
  | some lo =>
    let n := ((List.range 64).filter (fun i => mask.getLsbD i)).length
    if (List.range n).all (fun i => mask.getLsbD (lo + i)) then some (lo, n) else none

/-- RD_UNCACHED of the host: device memory, where one inside an attached window waits behind a snoop of its line (R323), or the
control window (R321, R325). -/
def Pkg.hostRdUncached (k : Pkg) (m : SalMsg) : Pkg :=
  let a := m.addr.toNat / 64 * 64
  match maskRun m.byteMask with
  | none => k.salErr m true
  | some (lo, n) =>
    if m.resv ∨ n < 4 then k.salErr m true
    else if m.space then
      let off := a % 4096 + lo
      if 2 ^ 24 ≤ a ∨ cwAligned off n = false then k.salErr m true
      else
        let (w0, k) := k.cwRead (a / 4096) off
        let (w1, k) := if n = 8 then k.cwRead (a / 4096) (off + 4) else (0, k)
        let bytes := List.replicate lo 0 ++ bytes4 w0 ++ (if n = 8 then bytes4 w1 else [])
        let bytes := bytes ++ List.replicate (64 - bytes.length) 0
        (k.salSend { op := 0x20, txn := m.txn }).salSend { op := 0x30, txn := m.txn, data := bytes }
    else if k.hostDpa a = false then k.salErr m true
    else if k.attached a && k.lineBusy (a / 64) then k.lineWait (.host m)
    else
      let (l, k) := k.dpaRead a 64
      (k.salSend { op := 0x20, txn := m.txn }).salSend (lineMsg m.txn l)

/-! ## The attach cache (R324) -/

/-- A line of the attach cache. -/
def Pkg.cline (k : Pkg) (line : Nat) : Option CLine := kget k.att.cache none line

/-- Issue a request to the host for a line, unless the same read of the line is outstanding; its tag. -/
def Pkg.atRequest (k : Pkg) (op line : Nat) (data : List Byte) (poison : BitVec 2) : Nat × Pkg :=
  match k.att.reqs.find? (fun r => decide (r.line = line ∧ r.op = op ∧ (op = 0x01 ∨ op = 0x02))) with
  | some r => (r.txn, k)
  | none =>
    let (t, k) := k.newTxn
    let k := k.onAtt (fun a => { a with reqs := a.reqs ++ [{ txn := t, op := op, line := line, grant := 0 }] })
    (t, k.salSend { op := BitVec.ofNat 6 op, txn := BitVec.ofNat 12 t, addr := BitVec.ofNat 48 (64 * line),
                    poison := poison, data := data })

/-- Set of a line in the attach cache: 65,536 sets of 16 lines. -/
def cacheSet (line : Nat) : Nat := line % 65536

/-- Place a line in the attach cache; a full set evicts its lowest line, which is written back where it is modified. -/
def Pkg.cachePut (k : Pkg) (line : Nat) (c : CLine) : Pkg :=
  let others := k.att.cache.filter (fun e => decide (cacheSet e.1 = cacheSet line ∧ e.1 ≠ line))
  let k := if 16 ≤ others.length then
      match others.head? with
      | some (v, some old) =>
        let k := if old.st = 3 then (k.atRequest 0x06 v (old.data.map (·.1)) (linePoison old.data)).2 else k
        k.onAtt (fun a => { a with cache := kput a.cache none v none })
      | _ => k
    else k
  k.onAtt (fun a => { a with cache := kput a.cache none line (some c) })

/-- Host address of a packet at the attach cache. -/
def hostAddr (pk : Packet) : Nat := pk.addr.toNat - dpaHost

/-- Pieces of a write that cover part of a line. -/
def partialPieces (pk : Packet) : List (Nat × List PB) :=
  (chunks64 40 (hostAddr pk) (pkBytes pk)).filter (fun e => decide (e.2.length ≠ 64))

/-- Lines a transfer still needs, with the request that gets each. -/
def Pkg.xferNeeds (k : Pkg) (pk : Packet) : List (Nat × Nat) :=
  if pk.type = 1 then
    ((lineSpan (hostAddr pk) (64 * pk.chunks.toNat)).filter (fun l => (k.cline l).isNone)).map (fun l => (0x01, l))
  else
    (((partialPieces pk).map (·.1 / 64)).filter (fun l => match k.cline l with
      | some c => decide (c.st < 2)
      | none => true)).map (fun l => (0x02, l))

/-- Finish a transfer: the read's reply, or the partial writes into modified lines and the completion. -/
def Pkg.xferFinish (k : Pkg) (pk : Packet) : Pkg :=
  if pk.type = 1 then
    let n := 64 * pk.chunks.toNat
    let l := (List.range n).map (fun i =>
      match k.cline ((hostAddr pk + i) / 64) with
      | some c => c.data.getD ((hostAddr pk + i) % 64) (0, true)
      | none => (0, true))
    k.inject false 96 19 (replyOf pk l 0)
  else
    let k := (partialPieces pk).foldl (fun x e =>
      match x.cline (e.1 / 64) with
      | some c => x.cachePut (e.1 / 64)
          { st := 3, data := c.data.take (e.1 % 64) ++ e.2 ++ c.data.drop (e.1 % 64 + e.2.length) }
      | none => x) k
    k.inject false 96 19 (completionOf pk 0)

/-- Move a transfer on: ask for what it still needs, or finish it. -/
def Pkg.xferTry (k : Pkg) (x : AtXfer) : Pkg :=
  if x.waits ≠ [] then k.onAtt (fun a => { a with xfers := a.xfers ++ [x] })
  else
    let needs := k.xferNeeds x.pk
    if needs = [] then k.xferFinish x.pk
    else
      let (ts, k) := needs.foldl (fun (y : List Nat × Pkg) e =>
        let r := y.2.atRequest e.1 e.2 [] 0
        (y.1 ++ [r.1], r.2)) ([], k)
      k.onAtt (fun a => { a with xfers := a.xfers ++ [{ x with waits := ts }] })

/-- READ or WRITE at the attach cache (R324): whole lines go straight to the host and invalidate any copy. -/
def Pkg.hostXfer (k : Pkg) (pk : Packet) : Pkg :=
  if pk.type = 1 then k.xferTry { pk := pk, waits := [] }
  else
    let full := (chunks64 40 (hostAddr pk) (pkBytes pk)).filter (fun e => decide (e.2.length = 64))
    let (ts, k) := full.foldl (fun (y : List Nat × Pkg) e =>
      let k := y.2.onAtt (fun a => { a with cache := kput a.cache none (e.1 / 64) none })
      let r := k.atRequest 0x04 (e.1 / 64) (e.2.map (·.1)) (linePoison e.2)
      (y.1 ++ [r.1], r.2)) ([], k)
    k.xferTry { pk := pk, waits := ts }

/-- A request is answered: every transfer that waited for it moves on. -/
def Pkg.reqDone (k : Pkg) (txn : Nat) : Pkg :=
  let (mine, rest) := k.att.xfers.partition (fun x => x.waits.elem txn)
  let k := k.onAtt (fun a => { a with reqs := a.reqs.filter (fun r => decide (r.txn ≠ txn)), xfers := rest })
  mine.foldl (fun x e => x.xferTry { e with waits := e.waits.filter (fun t => decide (t ≠ txn)) }) k

/-- CMP of a device request; an ERR to a read leaves its poisoned line to come (R321). -/
def Pkg.cmp (k : Pkg) (m : SalMsg) : Pkg :=
  match k.att.reqs.find? (fun r => decide (r.txn = m.txn.toNat)) with
  | none => k
  | some r =>
    if m.status = 2 ∧ r.op ≤ 2 then
      k.onAtt (fun a => { a with reqs := a.reqs.map (fun q => if q.txn = r.txn then { q with grant := r.op } else q) })
    else k.reqDone r.txn

/-- GRANT_S or GRANT_E: the line follows (R321). -/
def Pkg.grant (k : Pkg) (m : SalMsg) (g : Nat) : Pkg :=
  k.onAtt (fun a => { a with reqs := a.reqs.map (fun q =>
    if q.txn = m.txn.toNat ∧ (q.op = 1 ∨ q.op = 2) then { q with grant := g } else q) })

/-- LINE: the data of a granted line; a late one is dropped (R324). -/
def Pkg.lineData (k : Pkg) (m : SalMsg) : Pkg :=
  match k.att.reqs.find? (fun r => decide (r.txn = m.txn.toNat ∧ r.grant ≠ 0)) with
  | none => k
  | some r => (k.cachePut r.line { st := r.grant, data := msgBytes m }).reqDone r.txn

/-- SNP_INV or SNP_SHARE of the host to the attach cache (R321, R324). -/
def Pkg.snooped (k : Pkg) (m : SalMsg) (inv : Bool) : Pkg :=
  let line := m.addr.toNat / 64
  let old := k.cline line
  let dirty := match old with
    | some c => decide (c.st = 3)
    | none => false
  let new : Option CLine := if inv then none else old.map (fun c => { c with st := 1 })
  let k := k.onAtt (fun a => { a with cache := kput a.cache none line new })
  let k := k.salSend { op := if inv ∨ new.isNone then 0x23 else 0x24, txn := m.txn }
  match old with
  | some c => if dirty then k.salSend (lineMsg m.txn c.data) else k
  | none => k

/-- A device request is abandoned after AT_CPL_TIMEOUT; its transfer never completes (R324). -/
def Pkg.cplTimeout (k : Pkg) (txn : Nat) : Pkg :=
  match k.att.reqs.find? (fun r => decide (r.txn = txn)) with
  | none => k
  | some r =>
    let k := k.onAtt (fun a => { a with reqs := a.reqs.filter (fun q => decide (q.txn ≠ txn)),
                                        xfers := a.xfers.filter (fun x => !x.waits.elem txn) })
    k.onCore (·.record pageAt 0x0B06 sevInfo 15 (linkLoc salLink) (detailAt (64 * r.line) r.op 0 0xFF 0 txn))

/-! ## Packets at controllers and the attach cache -/

/-- READ at its endpoint (R209): a device read of a line the host may hold is snooped first (R323). -/
def Pkg.readPacket (k : Pkg) (pk : Packet) : Pkg :=
  let die := pk.dstDie.toNat
  let ep := pk.dstEp.toNat
  if die = 96 ∧ ep = 19 then k.hostXfer pk
  else if 96 ≤ die ∧ die < 100 ∧ ep < 6 then
    match k.snoopLine pk.addr.toNat (64 * pk.chunks.toNat) false with
    | some l => if k.lineBusy l then k.lineWait (.dev l pk) else k.snoop l false (some pk)
    | none => k.readAt pk
  else k.readAt pk

/-- WRITE at its endpoint (R209), with the snoops of R323. -/
def Pkg.writePacket (k : Pkg) (pk : Packet) : Pkg :=
  let die := pk.dstDie.toNat
  let ep := pk.dstEp.toNat
  if die = 96 ∧ ep = 19 then k.hostXfer pk
  else if 96 ≤ die ∧ die < 100 ∧ ep < 6 then
    match k.snoopLine pk.addr.toNat pk.payload.length true with
    | some l => if k.lineBusy l then k.lineWait (.dev l pk) else k.snoop l true (some pk)
    | none => k.writeAt pk
  else k.writeAt pk

/-- WR_FULL or WR_PARTIAL of the host to device memory; inside an attached window it waits while a snoop of its line is
outstanding (R321–R323). -/
def Pkg.hostWrMem (k : Pkg) (m : SalMsg) : Pkg :=
  let a := m.addr.toNat / 64 * 64
  let full := decide (m.op = 4)
  if m.resv ∨ k.hostDpa a = false ∨ (full = true ∧ m.addr.toNat % 64 ≠ 0) then k.salErr m false
  else if k.attached a && k.lineBusy (a / 64) then k.lineWait (.host m)
  else
    let l := msgBytes m
    let k := if full then k.dpaWrite a l
      else (List.range 64).foldl (fun x i => if m.byteMask.getLsbD i then x.dpaWrite (a + i) [l.getD i (0, false)] else x) k
    k.salSend { op := 0x20, txn := m.txn }

/-- A packet of the device acts at its endpoint. -/
def Pkg.devAccess (k : Pkg) (pk : Packet) : Pkg := if pk.type = 1 then k.readPacket pk else k.writePacket pk

/-- An access that waited at the directory is tried again. -/
def Pkg.waitTry (k : Pkg) : AtWait → Pkg
  | .dev _ pk => k.devAccess pk
  | .host m =>
    if m.op = 3 then k.hostRdUncached m
    else if m.op = 4 ∨ m.op = 5 then k.hostWrMem m
    else if m.op = 6 then k.hostWb m
    else if m.op = 7 then k.hostEvict m
    else k.hostRead m (decide (m.op = 2))

/-- A snoop has ended: the access it was for, where there is one, goes on first, and then those that waited, in order of
arrival (R323). -/
def Pkg.lineResume (k : Pkg) (first : Option Packet) : Pkg :=
  let l := k.att.waitq
  let k := k.onAtt (fun a => { a with waitq := [] })
  let k := match first with
    | some pk => k.devAccess pk
    | none => k
  l.foldl Pkg.waitTry k

/-- SNP_I or SNP_S of the host: returned data is written back, then the access that waited goes on (R323). The message
carries its DATA. -/
def Pkg.snoopAnswer (k : Pkg) (m : SalMsg) (inv : Bool) : Pkg :=
  if bitAt (k.cl.core.rd pageAt 0x28) 2 then
    (k.onCore (·.setFld pageAt 0x28 2 1 0)).onAtt (fun a => { a with
      snoops := a.snoops.map (fun s => if s.txn = m.txn.toNat then { s with muted := true } else s) })
  else match k.att.snoops.find? (fun s => decide (s.txn = m.txn.toNat)) with
    | none => k
    | some s =>
      let k := k.onAtt (fun a => { a with snoops := a.snoops.filter (fun q => decide (q.txn ≠ s.txn)) })
      let k := if m.data = [] then k else k.dpaWrite (64 * s.line) (msgBytes m)
      (k.setDir s.line (if inv ∨ s.inv then 0 else 1)).lineResume s.pk

/-- The host does not answer a snoop in 100 µs: poison for a read, no write, and ST_UNDERRUN to the slot (R323). -/
def Pkg.snpTimeout (k : Pkg) (txn : Nat) : Pkg :=
  match k.att.snoops.find? (fun s => decide (s.txn = txn)) with
  | none => k
  | some s =>
    let k := k.onAtt (fun a => { a with snoops := a.snoops.filter (fun q => decide (q.txn ≠ txn)) })
    let k := k.onCore (·.record pageAt 0x0B05 sevDegr 15 (linkLoc salLink) (detailAt (64 * s.line) (if s.inv then 0x10 else 0x11) 0 0xFF 0 txn) s.muted)
    let k := match s.pk with
      | some pk =>
        let k := k.setWhy pk 0x0501
        if pk.type = 1 then
          k.inject false pk.dstDie.toNat pk.dstEp.toNat (replyOf pk (List.replicate (64 * pk.chunks.toNat) (0, true)) 1)
        else k.inject false pk.dstDie.toNat pk.dstEp.toNat (completionOf pk 1)
      | none => k
    k.lineResume none

/-! ## The commands of this part -/

/-- LINK_CONTROL_FLIT (R284, R319). -/
def execLinkControlFlit (l : Link) (f : ControlFlit) (s : State) : Out :=
  .next (s.onPkg (fun k => if l.val = salLink then (k.control l.val f).salDrain else k.control l.val f))
/-- RD_SHARED (R323). -/
def execRdShared (m : SalMsg) (s : State) : Out := .next (s.onPkg (·.hostRead { m with op := 1 } false))
/-- RD_OWN (R323). -/
def execRdOwn (m : SalMsg) (s : State) : Out := .next (s.onPkg (·.hostRead { m with op := 2 } true))
/-- RD_UNCACHED (R321, R325). -/
def execRdUncached (m : SalMsg) (s : State) : Out := .next (s.onPkg (·.hostRdUncached { m with op := 3 }))
/-- WB (R323). -/
def execWb (m : SalMsg) (s : State) : Out := .next (s.onPkg (·.hostWb { m with op := 6 }))
/-- EVICT (R323). -/
def execEvict (m : SalMsg) (s : State) : Out := .next (s.onPkg (·.hostEvict { m with op := 7 }))
/-- SNP_INV (R324). -/
def execSnpInv (m : SalMsg) (s : State) : Out := .next (s.onPkg (·.snooped m true))
/-- SNP_SHARE (R324). -/
def execSnpShare (m : SalMsg) (s : State) : Out := .next (s.onPkg (·.snooped m false))
/-- CMP (R324). -/
def execCmp (m : SalMsg) (s : State) : Out := .next (s.onPkg (·.cmp m))
/-- GRANT_S (R324). -/
def execGrantS (m : SalMsg) (s : State) : Out := .next (s.onPkg (·.grant m 1))
/-- GRANT_E (R324). -/
def execGrantE (m : SalMsg) (s : State) : Out := .next (s.onPkg (·.grant m 2))
/-- SNP_I (R323). -/
def execSnpI (m : SalMsg) (s : State) : Out := .next (s.onPkg (·.snoopAnswer m true))
/-- SNP_S (R323). -/
def execSnpS (m : SalMsg) (s : State) : Out := .next (s.onPkg (·.snoopAnswer m false))
/-- LINE (R321). -/
def execLine (m : SalMsg) (s : State) : Out := .next (s.onPkg (·.lineData m))
/-- AT_SNP_TIMEOUT (R323). -/
def execAtSnpTimeout (t : BitVec 12) (s : State) : Out := .next (s.onPkg (·.snpTimeout t.toNat))
/-- AT_CPL_TIMEOUT (R324). -/
def execAtCplTimeout (t : BitVec 12) (s : State) : Out := .next (s.onPkg (·.cplTimeout t.toNat))
/-- FORCE_TBUSY (R343). -/
def execForceTbusy (s : State) : Out := .next (s.onPkg (·.onCore (·.setFld pageAt 0x28 1 1 1)))
/-- SNP_MUTE (R343). -/
def execSnpMute (s : State) : Out := .next (s.onPkg (·.onCore (·.setFld pageAt 0x28 2 1 1)))
/-- AT_CW_UE (R343). -/
def execAtCwUe (s : State) : Out := .next (s.onPkg (·.onCore (·.setFld pageAt 0x28 0 1 1)))

end Sys2Proof.Machine
end

