-- ==== Sys2Proof/Machine/Dma.lean ====
section
/-!
DEFINITION. Descriptors (R260–R262): their checks at a slot's start, transfers on the die's DMA engines, store operations
(R180, R181), the answers that come back, completion, and home-copy flushes (R187–R189).
-/
namespace Sys2Proof.Machine

/-! ## Fields of a descriptor (R260, R261) -/

/-- Word i of a descriptor. -/
def dW (ws : List W64) (i : Nat) : W64 := ws.getD i 0
/-- OP. -/
def dOp (ws : List W64) : Nat := bitsAt (dW ws 0) 60 4
/-- VC. -/
def dVc (ws : List W64) : Nat := bitsAt (dW ws 0) 58 2
/-- Granules per row. -/
def dLen (ws : List W64) : Nat := bitsAt (dW ws 5) 48 16 + 1
/-- Rows. -/
def dRows (ws : List W64) : Nat := bitsAt (dW ws 5) 36 12 + 1
/-- Granules of the transfer. -/
def dTotal (ws : List W64) : Nat := dLen ws * dRows ws

/-- One end of a transfer (R261). -/
structure DEnd where
  kind : Nat
  store : Nat
  region : Nat
  goff : Nat
  die : Nat
  lrg : Nat
  lslot : Nat
  peer : Nat
  window : Nat
  gen : Nat
  group : Nat
  addr : Nat
  pitch : Nat
  deriving DecidableEq, Repr

/-- An end from its word, address word and pitch. -/
def dEnd (w a : W64) (pitch : Nat) : DEnd :=
  { kind := bitsAt w 60 4, store := bitsAt w 58 2, region := bitsAt w 54 4, goff := bitsAt w 38 16, die := bitsAt w 31 7,
    lrg := bitsAt w 30 1, lslot := bitsAt w 28 2, peer := bitsAt w 44 16, window := bitsAt w 36 8, gen := bitsAt w 0 32,
    group := bitsAt w 32 6, addr := bitsAt a 0 48, pitch := pitch }
/-- Source end. In a MASK_MCAST W6 holds the die mask, and the rows of a memory source follow one another (R260; log entry
282). -/
def dSrc (ws : List W64) : DEnd :=
  dEnd (dW ws 1) (dW ws 2) (if dOp ws = 6 then 256 * dLen ws else bitsAt (dW ws 6) 32 32)
/-- Destination end. -/
def dDst (ws : List W64) : DEnd := dEnd (dW ws 3) (dW ws 4) (bitsAt (dW ws 6) 0 32)
/-- Whether an end is a memory end. -/
def DEnd.isMem (e : DEnd) : Bool := decide (3 ≤ e.kind ∧ e.kind ≤ 5)
/-- Byte address at a memory end of granule i. -/
def memAt (ws : List W64) (e : DEnd) (i : Nat) : Nat := e.addr + i / dLen ws * e.pitch + i % dLen ws * 256

/-- Reserved bits of an end word that are set, or a reserved KIND or STORE (R261). -/
def endReserved (w : W64) : Bool :=
  let k := bitsAt w 60 4
  if k = 0 ∨ k = 3 ∨ k = 4 then decide (bitsAt w 0 60 ≠ 0)
  else if k = 1 then decide (bitsAt w 0 38 ≠ 0 ∨ bitsAt w 58 2 = 3)
  else if k = 2 then decide (bitsAt w 0 28 ≠ 0 ∨ bitsAt w 58 2 = 3)
  else if k = 5 then decide (bitsAt w 32 4 ≠ 0)
  else if k = 6 then decide (bitsAt w 0 32 ≠ 0 ∨ bitsAt w 58 2 = 3)
  else true

/-- Reason 1: a reserved field or value, or a field that OP and the ends give no use; an address or pitch of a memory end
is a multiple of 256. -/
def descReserved (ws : List W64) : Bool :=
  let op := dOp ws
  let s := dSrc ws
  let d := dDst ws
  let mask := decide (op = 6)
  decide (op = 0 ∨ 6 < op) || decide (bitsAt (dW ws 0) 0 16 ≠ 0) || endReserved (dW ws 1) || endReserved (dW ws 3) ||
    decide (bitsAt (dW ws 2) 48 16 ≠ 0) || decide (bitsAt (dW ws 4) 48 16 ≠ 0) || decide (bitsAt (dW ws 5) 0 36 ≠ 0) ||
    decide (bitsAt (dW ws 7) 10 22 ≠ 0) ||
    (if s.isMem then decide (s.addr % 256 ≠ 0) || (!mask && decide (s.pitch % 256 ≠ 0))
     else (if op = 3 then decide (s.addr / 2 ^ 32 ≠ 0) else decide (s.addr ≠ 0)) ||
       (!mask && decide (s.pitch ≠ 0))) ||
    (if d.isMem then decide (d.addr % 256 ≠ 0) || (!mask && decide (d.pitch % 256 ≠ 0))
     else decide (d.addr ≠ 0) || (!mask && decide (d.pitch ≠ 0))) ||
    (!mask && decide (bitsAt (dW ws 7) 0 10 ≠ 0))

/-- Reason 2: OP and the ends do not match (R261). -/
def descMismatch (ws : List W64) : Bool :=
  let s := (dSrc ws).kind
  let d := (dDst ws).kind
  let data (k : Nat) : Bool := decide (1 ≤ k ∧ k ≤ 5)
  match dOp ws with
  | 1 => !(data s && data d) || decide (s = 1 ∧ d = 1)
  | 2 | 6 => !(data s) || decide (d ≠ 6)
  | 3 => decide (s ≠ 0 ∨ d ≠ 1)
  | _ => decide (s ≠ 1 ∨ d ≠ 1)

/-- Physical cluster of a store end of a slot on cluster `clu`, as the points table and slot map in force give it; none where
DIE_MAP marks its die invalid. -/
def Core.storeEnd (c : Core) (clu : Nat) (e : DEnd) : Option Nat :=
  if e.kind = 1 then some clu
  else (c.dieMap (clu / 10) e.die).map (fun g => c.cluOf (2 * g + e.lrg) e.lslot)

/-- Whether a store end of n granules keeps the fit rule of R81; an end on an invalid die is judged by its die alone. -/
def Core.endFits (c : Core) (clu n : Nat) (e : DEnd) : Bool :=
  if e.kind = 1 ∨ e.kind = 2 then
    match c.storeEnd clu e with
    | some x => c.fits x e.store e.region e.goff n
    | none => true
  else true

/-- Why a descriptor is invalid, 0 where it is valid (R262, R273). -/
def Pkg.descBad (k : Pkg) (clu job : Nat) (ws : List W64) : Nat :=
  let s := dSrc ws
  let d := dDst ws
  let fit (e : DEnd) : Bool := k.cl.core.endFits clu (dTotal ws) e
  let die (e : DEnd) : Bool := e.kind != 2 || (k.cl.core.dieMap (clu / 10) e.die).isSome
  if descReserved ws then 1
  else if descMismatch ws then 2
  else if job ≠ 15 ∧ (dVc ws ≠ 0 ∨ dOp ws = 6) then 3
  else if fit s = false ∨ fit d = false then 4
  else if die s = false ∨ die d = false then 5
  else if d.kind = 6 ∧ dOp ws = 2 ∧ kget k.net.groups 0 d.group ≠ job + 1 then 6
  else 0

/-- Descriptor i of a region's list. -/
def Pkg.desc (k : Pkg) (rg i : Nat) : List W64 := kget k.net.dlist [] (256 * rg + i % 256)

/-- An event of a slot's descriptor, with the descriptor's TAG; a MASK_MCAST has none and shows the entry's (R260, R273). -/
def Pkg.descEvent (k : Pkg) (rg clu desc code reason : Nat) (ws : List W64) : Pkg :=
  let l4 := desc % 256 + reason * 256
  k.onClus (fun m => m.onCore (·.record (pageDma (rg / 2)) code sevCont (m.jobOn clu) (placeRg rg)
    (match m.runOrPilot clu with
      | some (n, r) => detail41 code r.circ n r.entry r.attempt 0
          (if dOp ws = 6 then entTag r.words else bitsAt (dW ws 7) 32 32) l4
      | none => detail41 code 0xFF 0xFF 0 0 0 (if dOp ws = 6 then 0 else bitsAt (dW ws 7) 32 32) l4)))

/-- Start the descriptors of a slot at Departure offsets 64–95 (R262). A pilot starts only those inside its cluster; the
others complete with the piloted slot's (R359). -/
def Pkg.dmaStart (k : Pkg) (rg n clu job : Nat) (ws : List W64) (pilot : Bool) : Pkg :=
  let base := bitsAt (slotW ws n 0) 24 8
  let cnt := bitsAt (slotW ws n 0) 20 4
  iter cnt (fun i x =>
    let di := (base + i) % 256
    let dw := x.desc rg di
    let r := x.descBad clu job dw
    let run (ph : RunPhase) : DmaRun :=
      { rg := rg, slot := n, desc := di, clu := clu, job := job, words := dw, phase := ph, engine := 8, next := 0,
        outst := [], wr := 0, pilot := pilot }
    if r = 0 then x.onNet (fun y => { y with runs := y.runs ++ [run .waiting] })
    else if pilot then x.onNet (fun y => { y with runs := y.runs ++ [run .dead] })
    else
      ((x.descEvent rg clu di 0x090C r dw).onClus (·.fail clu (fatalCause 0x090C))).onNet (fun y =>
        { y with runs := y.runs ++ [run .dead] })) k

/-! ## Transfers -/

/-- Whether a run may start: its cycle is reached and its gate met (R260, R262). -/
def Pkg.dmaReady (k : Pkg) (r : DmaRun) : Bool :=
  let w := dW r.words 0
  decide (r.phase = .waiting) && decide (bitsAt w 16 16 ≤ k.cl.core.cycle) &&
    (!bitAt w 52 || decide (bitsAt w 32 16 ≤ k.cl.sync r.clu (bitsAt w 48 4)))

/-- Lowest-numbered free DMA engine of a die. -/
def Pkg.freeEngine (k : Pkg) (g : Nat) : Option Nat :=
  (List.range 8).find? (fun e =>
    !k.net.runs.any (fun r => decide (r.phase = .running ∧ r.engine = e ∧ r.rg / 2 = g)))

/-- Free DMA engines of a die. -/
def Pkg.freeEngines (k : Pkg) (g : Nat) : Nat :=
  ((List.range 8).filter (fun e =>
    !k.net.runs.any (fun r => decide (r.phase = .running ∧ r.engine = e ∧ r.rg / 2 = g)))).length

/-- Transfers of the die that stand earlier in the list and could start now: they start first (R262; the list is in the order
in which Departure started them, log entry 123). -/
def Pkg.readyBefore (k : Pkg) (r : DmaRun) : Nat :=
  ((k.net.runs.takeWhile (fun q => decide (q ≠ r))).filter (fun q =>
    decide (q.rg / 2 = r.rg / 2 ∧ q.pilot = false ∧ (dOp q.words < 3 ∨ dOp q.words = 6)) && k.dmaReady q)).length

/-- Reason no job access to a memory end is possible, with the DPA; 0 where every granule is reachable (R256). -/
def Pkg.memFault (k : Pkg) (ws : List W64) (e : DEnd) (job : Nat) : Nat :=
  if e.kind ≠ 3 then 0
  else (((List.range (dTotal ws)).map (fun i => k.dpaFault job (memAt ws e i))).find? (fun r => decide (r ≠ 0))).getD 0

/-- Granules of a piece: one where either end is a memory end, else eight. -/
def pieceSize (ws : List W64) : Nat := if (dSrc ws).isMem || (dDst ws).isMem then 1 else 8
/-- Pieces of a transfer. -/
def pieces (ws : List W64) : Nat := (dTotal ws + pieceSize ws - 1) / pieceSize ws
/-- Pieces that fit the 64 KiB staging buffer of an engine (R209). -/
def stageLen (ws : List W64) : Nat := 256 / pieceSize ws
/-- Granules of piece p. -/
def pieceLen (ws : List W64) (p : Nat) : Nat := min (pieceSize ws) (dTotal ws - p * pieceSize ws)

/-- Physical cluster of a store end of a run. -/
def Pkg.endClu (k : Pkg) (r : DmaRun) (e : DEnd) : Nat := (k.cl.core.storeEnd r.clu e).getD r.clu

/-- Store endpoint of a cluster: die and endpoint. -/
def storeEp (clu st : Nat) : Nat × Nat := (clu / 10, clu % 10 * 3 + st)

/-- Tag of a run's packets. -/
def runTxn (r : DmaRun) : Nat := r.desc + 256 * r.slot + 1024 * (r.rg % 2)

/-- Header that every packet of a run carries. -/
def runPacket (r : DmaRun) (type : BitVec 4) : Packet :=
  { type := type, vc := BitVec.ofNat 2 (if r.job = 15 then dVc r.words else 0), job := BitVec.ofNat 4 r.job,
    slot := BitVec.ofNat 2 r.slot, srcRegion := decide (r.rg % 2 = 1), txn := BitVec.ofNat 12 (runTxn r),
    srcDie := BitVec.ofNat 7 (r.rg / 2), srcEp := BitVec.ofNat 6 (30 + r.engine) }

/-- Address an end's packet to its endpoint, at granule i of the transfer. -/
def Pkg.aim (k : Pkg) (r : DmaRun) (e : DEnd) (i : Nat) (pk : Packet) : Packet :=
  if e.kind = 1 ∨ e.kind = 2 then
    let d := storeEp (k.endClu r e) e.store
    { pk with dstDie := BitVec.ofNat 7 d.1, dstEp := BitVec.ofNat 6 d.2, dstRegion := BitVec.ofNat 4 e.region,
              dstGoff := BitVec.ofNat 16 (e.goff + i) }
  else if e.kind = 3 then
    let a := memAt r.words e i
    let h := match k.media a with
      | some (h, _, _) => h
      | none => 0
    if dpaHost ≤ a then { pk with dstDie := 96, dstEp := 19, addr := BitVec.ofNat 64 a }
    else { pk with dstDie := BitVec.ofNat 7 (96 + h / 6), dstEp := BitVec.ofNat 6 (h % 6), addr := BitVec.ofNat 64 a }
  else
    { pk with dstDie := 96, dstEp := 19, addr := BitVec.ofNat 64 (dpaHost + memAt r.words e i) }

/-- Fabric group a job's window traffic to a node belongs to, 0 where it has none. -/
def Pkg.jobGroup (k : Pkg) (job node : Nat) : Nat :=
  ((List.range 16).find? (fun i => k.grpValid i && decide (k.grpJob i = job) && (k.rankOf i node).isSome)).elim 0 k.grpId

/-- Send a window frame of a piece, from byte `off` of it; a node without a route or with its port down loses the transaction
(R294, R295). -/
def Pkg.winFrame (k : Pkg) (r : DmaRun) (e : DEnd) (p : Nat) (read : Bool) (off : Nat) (l : List PB) : Pkg :=
  let fg := k.jobGroup r.job e.peer
  let t := k.fab.nextTxn
  let f : Frame := { ftype := if read then 0x0A else 0x08, fvc := if r.job = 15 then 3 else 2, fgroup := BitVec.ofNat 16 fg,
                     txn := BitVec.ofNat 12 t, window := BitVec.ofNat 8 e.window, gen := BitVec.ofNat 32 e.gen,
                     offset := BitVec.ofNat 48 (memAt r.words e p + off), len := if read then 256 else 0,
                     chunks := if read then 0 else BitVec.ofNat 6 ((l.length + 63) / 64),
                     f4 := if read then 0 else poisonBits l, payload := l.map (·.1) }
  let (port, k) := k.sendTo e.peer f
  let x : XTxn := { port := port.getD 0xFF, node := e.peer, fgroup := fg, fvc := f.fvc.toNat, txn := t, isRead := read,
                    rg := r.rg, slot := r.slot, desc := r.desc, piece := p }
  let k := k.onFab (fun y => { y with nextTxn := (t + 1) % 4096 })
  match port with
  | some _ => k.onFab (fun y => { y with out := y.out ++ [x] })
  | none => k.loseTxn x 0

/-- Send a piece as window frames: one RD, or the WRs that the peer's MAX_CHUNKS allows (R291, R295). -/
def Pkg.sendWindow (k : Pkg) (r : DmaRun) (e : DEnd) (p : Nat) (read : Bool) (l : List PB) : Pkg :=
  if read then k.winFrame r e p true 0 []
  else (framesOf (k.portMax e.peer (k.jobGroup r.job e.peer)) 5 0 l).foldl (fun x c => x.winFrame r e p false c.1 c.2) k

/-- Count a piece's granules on the engine's DMA_ENG register (R474). -/
def Pkg.countMoved (k : Pkg) (r : DmaRun) (n : Nat) : Pkg :=
  if r.engine < 8 then k.onCore (·.incWrap (pageDma (r.rg / 2)) (0x44 + 8 * r.engine) n) else k

/-- Pass the bytes of piece p on to the destination. A multicast needs no answer (R209). -/
def Pkg.pushData (k : Pkg) (r : DmaRun) (p : Nat) (l : List PB) : Pkg :=
  let d := dDst r.words
  let i := p * pieceSize r.words
  let k := k.countMoved r (pieceLen r.words p)
  let body (pk : Packet) : Packet :=
    { pk with chunks := BitVec.ofNat 6 ((l.length + 63) / 64), payload := l.map (·.1), poison := poisonBits l }
  if d.kind = 6 then
    let g := r.rg / 2
    -- the store line port sends the bytes of the slot's own store, the DMA engine all others (R209)
    let s := dSrc r.words
    let ep := if s.kind = 1 then (storeEp r.clu s.store).2 else 30 + r.engine
    let aimed (pk : Packet) (root : Nat) : Packet :=
      { pk with srcEp := BitVec.ofNat 6 ep, dstDie := BitVec.ofNat 7 root, dstEp := BitVec.ofNat 6 d.store,
                dstRegion := BitVec.ofNat 4 d.region, dstGoff := BitVec.ofNat 16 (d.goff + i) }
    if dOp r.words = 6 then
      k.inject true g ep (body { aimed (runPacket r 6) (k.cl.core.fld (pagePts g) 0x48 0 7) with
        mask := BitVec.ofNat 96 ((dW r.words 6).toNat + bitsAt (dW r.words 7) 32 32 * 2 ^ 64),
        cmask := BitVec.ofNat 10 (bitsAt (dW r.words 7) 0 10) })
    else
      k.inject true g ep (body { aimed (runPacket r 5) (bitsAt (k.cl.core.groupEntry g d.group) 24 7) with
        group := BitVec.ofNat 6 d.group })
  else
    let k := k.setDma { r with wr := r.wr + 1 }
    if d.kind = 5 then k.sendWindow { r with wr := r.wr + 1 } d p false l
    else k.inject true (r.rg / 2) (30 + r.engine) (body (k.aim r d i (runPacket r 2)))

/-- Whether a transfer's replies go straight to the destination store: both ends remote stores (R209). -/
def direct (ws : List W64) : Bool := decide (dOp ws = 1 ∧ (dSrc ws).kind = 2 ∧ (dDst ws).kind = 2)

/-- The pilot's copy of a descriptor. -/
def Pkg.pilotRun (k : Pkg) (rg slot desc : Nat) : Option DmaRun :=
  k.net.runs.find? (fun r => decide (r.rg = rg ∧ r.slot = slot ∧ r.desc = desc ∧ r.pilot = true))

/-- The packets of a multicast from the slot's own store in both digests of a piloted slot: the pilot's would carry its own
store's bytes. Every other packet of the slot carries the same bytes in both (R361). -/
def Pkg.digPacket (k : Pkg) (r : DmaRun) (i n : Nat) (l : List PB) : Pkg :=
  let s := dSrc r.words
  let item (x : List PB) : List Nat := [6, r.desc, i] ++ x.map (fun (e : PB) => e.1.toNat)
  let k := k.onClus (·.addDig r.clu (item l))
  match k.pilotRun r.rg r.slot r.desc with
  | some q =>
    let (x, _, _) := k.cl.readOp q.clu s.store s.region (256 * (s.goff + i)) (256 * n) (.source r.job) unitLine
    k.onClus (·.addDig q.clu (item x))
  | none => k

/-- Issue piece p of a run. -/
def Pkg.issue (k : Pkg) (r : DmaRun) (p : Nat) : Pkg :=
  let s := dSrc r.words
  let d := dDst r.words
  let i := p * pieceSize r.words
  let n := pieceLen r.words p
  if s.kind = 1 ∧ (dOp r.words = 2 ∨ dOp r.words = 6) then
    -- a multicast of the slot's own store is read at its line port: released bytes only (R26, R174)
    let (l, code, m) := k.cl.readOp r.clu s.store s.region (256 * (s.goff + i)) (256 * n) (.source r.job) unitLine
    let k := { k with cl := m }.digPacket r i n l
    if code ≠ 0 then k.killRun r (causeOf code) else (k.setDma { r with next := p + 1 }).pushData { r with next := p + 1 } p l
  else if direct r.words then
    let e := storeEp (k.endClu r d) d.store
    let k := k.setDma { r with next := p + 1 }
    (k.inject true (r.rg / 2) (30 + r.engine) { k.aim r s i (runPacket r 1) with
      chunks := BitVec.ofNat 6 (4 * n), rplDie := BitVec.ofNat 7 e.1, rplEp := BitVec.ofNat 6 e.2,
      rplRegion := BitVec.ofNat 4 d.region, rplGoff := BitVec.ofNat 16 (d.goff + i) }).countMoved r n
  else
    let r := { r with next := p + 1, outst := r.outst ++ [p] }
    let k := k.setDma r
    if s.kind = 5 then k.sendWindow r s p true []
    else
      k.inject true (r.rg / 2) (30 + r.engine) { k.aim r s i (runPacket r 1) with
        chunks := BitVec.ofNat 6 (4 * n), rplDie := BitVec.ofNat 7 (r.rg / 2), rplEp := BitVec.ofNat 6 (30 + r.engine),
        rplGoff := BitVec.ofNat 16 (p % stageLen r.words * pieceSize r.words) }

/-- Issue every piece the staging buffer has room for. -/
def Pkg.pump (k : Pkg) (rg slot desc : Nat) : Pkg :=
  let go (x : Pkg) (_ : Nat) : Pkg :=
    match x.findRun rg slot desc with
    | some r =>
      if r.phase = .running ∧ r.next < pieces r.words ∧ r.outst.length + r.wr < stageLen r.words then x.issue r r.next else x
    | none => x
  match k.findRun rg slot desc with
  | some r => (List.range (min (pieces r.words) (if direct r.words ∨ (dDst r.words).kind = 6 then pieces r.words else stageLen r.words))).foldl go k
  | none => k

/-- MOVE, MCAST or DMA_MASK_MCAST: a waiting descriptor starts on a free engine (R256, R262). -/
def Pkg.transfer (k : Pkg) (rg slot desc op : Nat) : Pkg :=
  match k.findRun rg slot desc with
  | none => k
  | some r =>
    if dOp r.words ≠ op ∨ k.dmaReady r = false ∨ k.freeEngines (rg / 2) ≤ k.readyBefore r then k
    else match k.freeEngine (rg / 2) with
      | none => k
      | some e =>
        let bad := if k.memFault r.words (dSrc r.words) r.job ≠ 0 then k.memFault r.words (dSrc r.words) r.job
          else k.memFault r.words (dDst r.words) r.job
        if bad ≠ 0 then (k.descEvent rg r.clu desc 0x090B bad r.words).killRun r (fatalCause 0x090B)
        else
          let r := { r with phase := .running, engine := e }
          let k := k.onCore (fun c => c.wrs (pageDma (rg / 2)) (0x40 + 8 * e)
            [BitVec.ofNat 32 (2 ^ 31 + r.job * 2 ^ 27 + rg % 2 * 2 ^ 26 + slot * 2 ^ 24 + desc), 0])
          (k.setDma r).pump rg slot desc

/-- The cause a flagged answer stands for (R208). -/
def Pkg.takeWhy (k : Pkg) (pk : Packet) : Nat × Pkg :=
  let c := kget k.net.why 0 (whyKey pk)
  let c := if c ≠ 0 then c else if pk.flag = 1 then 0x0501 else if pk.flag = 2 then 0x0502 else 0x0507
  (c, k.onNet (fun n => { n with why := kput n.why 0 (whyKey pk) 0 }))

/-- The running descriptor that an answer at a DMA engine belongs to. -/
def Pkg.runAt (k : Pkg) (g ep txn : Nat) : Option DmaRun :=
  k.net.runs.find? (fun r => decide (r.phase = .running ∧ r.rg / 2 = g ∧ 30 + r.engine = ep ∧ runTxn r = txn ∧ r.pilot = false))

/-- READ_REPLY at a DMA engine: its piece goes on to the destination; a flagged one fails the slot (R176, R179). -/
def Pkg.replyAtEngine (k : Pkg) (pk : Packet) : Pkg :=
  match k.runAt pk.dstDie.toNat pk.dstEp.toNat pk.txn.toNat with
  | none => k
  | some r =>
    if pk.flag ≠ 0 then
      let (c, k) := k.takeWhy pk
      k.killRun r (causeOf c)
    else match r.outst.find? (fun p => decide (p % stageLen r.words * pieceSize r.words = pk.dstGoff.toNat)) with
      | none => k
      | some p =>
        let r := { r with outst := r.outst.filter (fun q => decide (q ≠ p)) }
        ((k.setDma r).pushData r p (pkBytes pk)).pump r.rg r.slot r.desc

/-- COMPLETION at a DMA engine. -/
def Pkg.completionAtEngine (k : Pkg) (pk : Packet) : Pkg :=
  match k.runAt pk.dstDie.toNat pk.dstEp.toNat pk.txn.toNat with
  | none => k
  | some r =>
    if pk.flag ≠ 0 then
      let (c, k) := k.takeWhy pk
      k.killRun r (causeOf c)
    else (k.setDma { r with wr := r.wr - 1 }).pump r.rg r.slot r.desc

/-- READ_REPLY at its endpoint (R209): a store line port, a DMA engine or a fabric port. A refused or flagged reply at a
store names its source (R208). -/
def Pkg.replyPacket (k : Pkg) (pk : Packet) : Pkg :=
  let die := pk.dstDie.toNat
  let ep := pk.dstEp.toNat
  if die < 96 ∧ ep < 30 then
    if pk.flag ≠ 0 then
      let (c, k) := k.takeWhy pk
      k.onClus (·.noticeSource pk c)
    else
      let clu := epClu die ep
      let (code, k) := k.lineWrite clu (ep % 3) pk.dstRegion.toNat (256 * pk.dstGoff.toNat) (pkBytes pk) (k.whoOf pk clu)
      if code = 0 then k else k.onClus (·.noticeSource pk code)
  else if die < 96 then k.replyAtEngine pk
  else if die < 100 ∧ 8 ≤ ep ∧ ep < 13 then k.windowDone (epPort (die - 96) ep) pk
  else k

/-- COMPLETION at its endpoint (R209). -/
def Pkg.completionPacket (k : Pkg) (pk : Packet) : Pkg :=
  let die := pk.dstDie.toNat
  let ep := pk.dstEp.toNat
  if die < 96 ∧ 30 ≤ ep ∧ ep < 38 then k.completionAtEngine pk
  else if 96 ≤ die ∧ die < 100 ∧ 8 ≤ ep ∧ ep < 13 then k.windowDone (epPort (die - 96) ep) pk
  else k

/-- WR_CPL or RD_RPL: a window transaction of a descriptor is answered (R295). -/
def Pkg.windowAnswer (k : Pkg) (f : Frame) (read : Bool) : Pkg :=
  match k.fab.out.find? (fun t => decide (t.node = f.srcNode.toNat ∧ t.txn = f.txn.toNat ∧ t.isRead = read ∧
      t.fgroup = f.fgroup.toNat)) with
  | none => k
  | some t =>
    let k := k.onFab (fun y => { y with out := dropFirst (· == t) y.out })
    match k.findRun t.rg t.slot t.desc with
    | none => k
    | some r =>
      if r.phase ≠ .running then k
      else if read then
        let r := { r with outst := r.outst.filter (fun q => decide (q ≠ t.piece)) }
        let l : List PB := f.payload.zipIdx.map (fun (e : Byte × Nat) => (e.1, bitAt f.f4 (e.2 / 32)))
        ((k.setDma r).pushData r t.piece (l.take 256)).pump r.rg r.slot r.desc
      else if k.fab.out.any (fun u => decide (u.rg = t.rg ∧ u.slot = t.slot ∧ u.desc = t.desc ∧ u.piece = t.piece ∧ u.isRead = false))
      then k
      else (k.setDma { r with wr := r.wr - 1 }).pump r.rg r.slot r.desc

/-! ## Completion (R181, R262, R359) -/

/-- Whether every part of a running descriptor is done. -/
def DmaRun.finished (r : DmaRun) : Bool :=
  decide (r.phase = .running ∧ r.next = pieces r.words ∧ r.outst = [] ∧ r.wr = 0)

/-- A run completes: its counter, and its engine is free. -/
def Pkg.finishRun (k : Pkg) (r : DmaRun) : Pkg :=
  let w := dW r.words 0
  let k := if r.engine < 8 then k.onCore (·.wr (pageDma (r.rg / 2)) (0x40 + 8 * r.engine) 0) else k
  let k := k.setDma { r with phase := .complete, engine := 8 }
  if bitAt w 57 then k.onClus (·.signal r.clu (bitsAt w 53 4)) else k

/-- DESCRIPTOR_COMPLETE: also for the copy that a pilot did not start (R359). -/
def Pkg.descComplete (k : Pkg) (rg slot desc : Nat) : Pkg :=
  match k.findRun rg slot desc with
  | none => k
  | some r =>
    if r.finished = false ∨ r.engine = 8 then k
    else
      let k := k.finishRun r
      match k.pilotRun rg slot desc with
      | some q => if q.phase = .waiting then k.finishRun q else k
      | none => k

/-! ## Store operations (R180, R181) -/

/-- Granules of a region range from an origin, as store granules. -/
def rangeGranules (d : RegionD) (origin off n : Nat) : List Nat :=
  (List.range n).map (fun i => d.addr origin (256 * (off + i)) / 256)

/-- Whether R181 refuses a store operation: source and destination overlap, or COPY_ACC outside the P-store. -/
def Pkg.opBad (k : Pkg) (r : DmaRun) : Bool :=
  let s := dSrc r.words
  let d := dDst r.words
  let n := dTotal r.words
  let sd := k.cl.core.region r.clu s.store s.region
  let dd := k.cl.core.region r.clu d.store d.region
  let gs := rangeGranules sd sd.readOrigin s.goff n
  (dOp r.words = 5 && d.store != 2) ||
    (dOp r.words != 3 && s.store == d.store && (rangeGranules dd dd.writeOrigin d.goff n).any (fun g => gs.elem g))

/-- One granule of a store operation. -/
def opGranule (r : DmaRun) (i : Nat) (m : Clus) : Nat × Clus :=
  let s := dSrc r.words
  let d := dDst r.words
  match dOp r.words with
  | 3 => m.fillGranule r.clu d.store d.region (d.goff + i) (BitVec.ofNat 32 s.addr) r.job
  | 4 => m.copyGranule r.clu s.store s.region (s.goff + i) d.store d.region (d.goff + i) r.job
  | _ => m.copyAccGranule r.clu s.store s.region (s.goff + i) d.region (d.goff + i)
      (Config.accInt32 (dW r.words 0) (dW r.words 1) (dW r.words 3)) r.job

/-- Run one store operation: ST_OP_BAD, or granule by granule to its end or its first failure (R181). -/
def Pkg.runOp (k : Pkg) (r : DmaRun) : Pkg :=
  let d := dDst r.words
  if k.opBad r then
    let a := (k.cl.core.region r.clu d.store d.region).base * 256
    let p := pageSt r.clu d.store
    let k := k.onClus (fun m => (m.fatalEvent r.clu p 0x0508 (placeUnit r.clu (6 + d.store) (storeBank d.store a))
      (stLast4 a d.region unitOp)).stCapture r.clu d.store 0x0508 a d.region unitOp)
    k.setDma { r with phase := .dead }
  else
    let (code, m) := granuleLoop (opGranule r) (dTotal r.words) 0 k.cl
    ({ k with cl := m }).setDma (if code = 0 then { r with phase := .running, next := pieces r.words } else { r with phase := .dead })

/-- FILL, COPY or COPY_ACC of a slot and of the pilot that duplicates it (R180, R359). -/
def Pkg.storeOp (k : Pkg) (rg slot desc op : Nat) : Pkg :=
  let one (k : Pkg) (r : Option DmaRun) : Pkg :=
    match r with
    | some r => if dOp r.words = op ∧ k.dmaReady r = true then k.runOp r else k
    | none => k
  let k := one k (k.findRun rg slot desc)
  one k (k.pilotRun rg slot desc)

/-- STORE_OP_COMPLETE (R181). -/
def Pkg.opComplete (k : Pkg) (rg slot desc : Nat) : Pkg :=
  let one (k : Pkg) (r : Option DmaRun) : Pkg :=
    match r with
    | some r => if r.finished ∧ r.engine = 8 then k.finishRun r else k
    | none => k
  let k := one k (k.findRun rg slot desc)
  one k (k.pilotRun rg slot desc)

/-! ## Home copies (R187–R189) -/

/-- Write device memory without moving marked granules out of the way (R372). -/
def Pkg.dpaWriteThrough (k : Pkg) (dpa : Nat) (l : List PB) : Pkg :=
  (chunks256 (l.length / 256 + 2) dpa l).foldl (fun x e =>
    match x.media e.1 with
    | some (h, p, off) => (chunks64 (e.2.length / 64 + 2) off e.2).foldl (fun y c => y.hbBlock h p c.1 c.2) x
    | none => x) k

/-- Latest tick that region rg's timetable unit has committed: the present one once its commit has run. -/
def Pkg.committed (k : Pkg) (rg : Nat) : Nat :=
  let t := k.cl.core.tick.toNat
  if kget k.fw.guards 0 rg = t + 1 then t else t - 1

/-- Pointer record of R187. -/
def pointerRecord (t : Nat) (d : RegionD) : List PB :=
  ((leBytes 8 t ++ leBytes 2 d.rel ++ leBytes 2 d.tail ++ [if d.wrap then 1 else 0] ++ List.replicate 243 0).map
    (fun b => (b, false)))

/-- Write a region's home copy: through a checkpoint's marks while the copy is still behind the cut (R372). -/
def Pkg.homeWrite (k : Pkg) (clu st r : Nat) (off : Nat) (l : List PB) : Pkg :=
  let d := k.cl.core.region clu st r
  let behind := match kget k.hbm.cuts none d.job with
    | some c => decide (kget k.cl.st.homeTick 0 (homeKey clu st r) < c.tick)
    | none => false
  let a := d.homeBase * 4096 + off
  if behind then k.dpaWriteThrough a l else k.dpaWrite a l

/-- The copy has reached a committed tick: its pointer record, and the lag of R189 ends. -/
def Pkg.homeRecord (k : Pkg) (clu st r : Nat) : Pkg :=
  let d := k.cl.core.region clu st r
  let t := k.committed (clu / 5)
  let k := k.homeWrite clu st r (d.size * 256) (pointerRecord t d)
  let key := homeKey clu st r
  k.onClus (fun m => ({ m with st := { m.st with
    homeTick := kput m.st.homeTick 0 key t, lag := kput m.st.lag false key false } }).homeTickUpdate clu st)

/-- Granule that the flush copies next, as an offset in the region: the lowest dirty one of a read-only region, or the first
released one of a ring that is not yet copied (R188). -/
def Clus.flushNext (m : Clus) (clu st r : Nat) : Option Nat :=
  let d := m.core.region clu st r
  if d.mode = 3 then
    (List.range d.size).find? (fun g => kget m.st.dirty false (65536 * (3 * clu + st) + d.base + g))
  else
    let f := d.flushed (kget m.st.flushed false (homeKey clu st r))
    if f < d.used then some ((d.tail + f) % d.size) else none

/-- The flush has copied granule g: its dirty bit clears, or FLUSH passes it (R188). -/
def Clus.flushPast (m : Clus) (clu st r g : Nat) : Clus :=
  let d := m.core.region clu st r
  if d.mode = 3 then
    { m with st := { m.st with dirty := kput m.st.dirty false (65536 * (3 * clu + st) + d.base + g) false } }
  else
    let f := (g + 1) % d.size
    { m with
      core := m.core.setFld (pageSt clu st) (regionOff r + 28) 0 16 f
      st := { m.st with flushed := kput m.st.flushed false (homeKey clu st r) (decide (f = d.rel)) } }

/-- HOME_FLUSH: the next granule of a home-kept region, or its pointer record (R188). A flush is VC2 traffic: a line clear
that stops VC1–VC3 holds it (R203, R224; log entry 134). -/
def Pkg.homeFlush (k : Pkg) (clu st r : Nat) : Pkg :=
  let d := k.cl.core.region clu st r
  if d.homeKept = false ∨ k.net.hold = true then k
  else
    match k.cl.flushNext clu st r with
    | none => k.homeRecord clu st r
    | some g =>
      let m := k.cl.stTouch clu st ((d.base + g) * 256) 256 unitLine r
      let k := ({ k with cl := m }).homeWrite clu st r (256 * g) (m.stRaw clu st ((d.base + g) * 256) 256)
      let k := k.onClus (·.flushPast clu st r g)
      if d.mode ≠ 3 ∧ (g + 1) % d.size = d.rel then k.homeRecord clu st r else k

/-- ST_HOME_LAG, once per crossing, for the home-kept regions of a region's stores (R189). -/
def Clus.homeLag (m : Clus) (rg : Nat) : Clus :=
  iter 240 (fun i x =>
    let j := 240 * rg + i
    let clu := j / 48
    let st := j / 16 % 3
    let d := x.core.region clu st (j % 16)
    if d.homeKept ∧ kget x.st.lag false j = false ∧
        x.core.fld (pageSt clu st) 0x308 0 16 < x.core.tick.toNat - max (kget x.st.homeTick 0 j) (kget x.st.homeSince 0 j) then
      { x with
        st := { x.st with lag := kput x.st.lag false j true }
        core := x.core.record (pageSt clu st) 0x050A sevInfo d.job (placeUnit clu (6 + st) 0)
          (detail41 0x050A 0xFF 0xFF 0 0 0 0 (stLast4 (d.base * 256) (j % 16) 0xFF)) }
    else x) m

/-! ## The commands of this part -/

/-- READ (R209). -/
def execRead (pk : Packet) (s : State) : Out :=
  let pk := { pk with type := 1 }
  .next (s.onPkg (·.arrive pk (routerOf pk.dstDie.toNat pk.dstEp.toNat) (·.readPacket pk)))
/-- WRITE (R209). -/
def execWrite (pk : Packet) (s : State) : Out :=
  let pk := { pk with type := 2 }
  .next (s.onPkg (·.arrive pk (routerOf pk.dstDie.toNat pk.dstEp.toNat) (·.writePacket pk)))
/-- READ_REPLY (R209). -/
def execReadReply (pk : Packet) (s : State) : Out :=
  let pk := { pk with type := 3 }
  .next (s.onPkg (·.arrive pk (routerOf pk.dstDie.toNat pk.dstEp.toNat) (·.replyPacket pk)))
/-- COMPLETION (R209). -/
def execCompletion (pk : Packet) (s : State) : Out :=
  let pk := { pk with type := 4 }
  .next (s.onPkg (·.arrive pk (routerOf pk.dstDie.toNat pk.dstEp.toNat) (·.completionPacket pk)))
/-- FILL (R180). -/
def execFill (rg : Rgn) (n : Fin 4) (d : Fin 256) (s : State) : Out := .next (s.onPkg (·.storeOp rg.val n.val d.val 3))
/-- COPY (R180). -/
def execCopy (rg : Rgn) (n : Fin 4) (d : Fin 256) (s : State) : Out := .next (s.onPkg (·.storeOp rg.val n.val d.val 4))
/-- COPY_ACC (R180). -/
def execCopyAcc (rg : Rgn) (n : Fin 4) (d : Fin 256) (s : State) : Out := .next (s.onPkg (·.storeOp rg.val n.val d.val 5))
/-- STORE_OP_COMPLETE (R181). -/
def execStoreOpComplete (rg : Rgn) (n : Fin 4) (d : Fin 256) (s : State) : Out :=
  .next (s.onPkg (·.opComplete rg.val n.val d.val))
/-- MOVE (R262). -/
def execMove (rg : Rgn) (n : Fin 4) (d : Fin 256) (s : State) : Out := .next (s.onPkg (·.transfer rg.val n.val d.val 1))
/-- MCAST (R209, R262). -/
def execMcast (rg : Rgn) (n : Fin 4) (d : Fin 256) (s : State) : Out := .next (s.onPkg (·.transfer rg.val n.val d.val 2))
/-- DMA_MASK_MCAST (R197, R262). -/
def execDmaMaskMcast (rg : Rgn) (n : Fin 4) (d : Fin 256) (s : State) : Out :=
  .next (s.onPkg (·.transfer rg.val n.val d.val 6))
/-- DESCRIPTOR_COMPLETE (R260, R262). -/
def execDescriptorComplete (rg : Rgn) (n : Fin 4) (d : Fin 256) (s : State) : Out :=
  .next (s.onPkg (·.descComplete rg.val n.val d.val))
/-- HOME_FLUSH (R188). -/
def execHomeFlush (c : Clu) (st : Store) (r : Fin 16) (s : State) : Out := .next (s.onPkg (·.homeFlush c.val st.val r.val))
/-- WR_CPL (R295). -/
def execWrCpl (p : Port) (f : Frame) (s : State) : Out :=
  .next (s.onPkg (·.takeFrame p.val { f with ftype := 0x09 } (·.windowAnswer f false)))
/-- RD_RPL (R295). -/
def execRdRpl (p : Port) (f : Frame) (s : State) : Out :=
  .next (s.onPkg (·.takeFrame p.val { f with ftype := 0x0B } (·.windowAnswer f true)))

end Sys2Proof.Machine
end

