-- ==== Sys2Proof/Machine/Timetable.lean ====
section
/-!
DEFINITION. The timetable units (R10–R43): Departure with its slot map, validation, conditions, selection and start;
the judgement and the end of Close; release actions, replay and fault at commit; entry writes and TT_LOCKSTEP.
-/
namespace Sys2Proof.Machine

/-! ## Slot map and mirror at Departure offset 0 (R23, R348, R351) -/

/-- An event of the timetable unit with the detail bytes of R41. -/
def Clus.ttEvent (m : Clus) (rg code sev circ : Nat) (slot entry attempt cause busy tag job : Nat)
    (inj : Bool := false) : Clus :=
  m.onCore (·.record (pageTT rg) code sev job (placeTT rg) (detail41 cause circ slot entry attempt busy tag 0) inj)

/-- Copy the pointer fields of every region from cluster a to cluster b: REL, TAIL, WRAP, MARK, and HEXT of inbound
rings (R351). -/
def Clus.copyPtrs (m : Clus) (a b : Nat) : Clus :=
  iter 48 (fun i x =>
    let st := i / 16
    let r := i % 16
    let d := x.core.region a st r
    let h := if d.mode = 2 then d.hext else (x.core.region b st r).hext
    x.onCore (fun c => (c.setPtrs b st r d.rel d.tail d.wrap h).setFld (pageSt b st) (regionOff r + 20) 31 1
      (c.fld (pageSt a st) (regionOff r + 20) 31 1))) m

/-- Copy every region descriptor from cluster a to cluster b: the static fields the copier takes over the debug path, with
the pointers as they stand (R349). -/
def Clus.copyDescs (m : Clus) (a b : Nat) : Clus :=
  let m := iter 48 (fun i x =>
    let st := i / 16
    let r := i % 16
    x.onCore (fun c => (c.wrs (pageSt b st) (regionOff r) (c.regionWords a st r)).setFld (pageSt b st) 0x40 r 1
      (bitsAt (c.rd (pageSt a st) (regionOff r)) 31 1))) m
  let s := m.st
  { m with st := { s with dirty := kcopy s.dirty false (196608 * a) (196608 * b) 196608,
                          flushed := kcopy s.flushed false (48 * a) (48 * b) 48,
                          homeTick := kcopy s.homeTick 0 (48 * a) (48 * b) 48,
                          homeSince := kcopy s.homeSince 0 (48 * a) (48 * b) 48 } }

/-- BI_MIRROR takes effect (R348). A mirror of a relief or rotation in progress finds the regions open on the incoming
cluster, and no granule written by the mirror yet. -/
def Pkg.mirrorApply (k : Pkg) (rg : Nat) : Pkg :=
  let w := k.cl.core.rd (pageBI rg) 0x44
  let v := if bitAt w 31 then w else 0
  if v = kget k.net.mirror 0 rg then k
  else
    let k := k.onNet (fun n => { n with mirror := kput n.mirror 0 rg v,
                                        mirrored := kclear n.mirrored (65536 * 15 * rg) (65536 * 15) })
    let a := bitsAt w 28 3
    let b := bitsAt w 25 3
    match kget k.bi.moves none rg with
    | some mv => if v ≠ 0 ∧ mv.src = a ∧ mv.dst = b then k.onClus (·.copyDescs (5 * rg + a) (5 * rg + b)) else k
    | none => k

/-- The pending slot map takes effect or is rejected. Where it moves a slot along a running mirror, the pointers are
copied, the mirror ends and PILOT_EN clears (R351); where it starts a pilot, the pointers are copied (R358). A rejected
value leaves the register (log entry 20). -/
def Pkg.slotMapApply (k : Pkg) (rg : Nat) : Pkg :=
  let p := pageTT rg
  let old := k.cl.core.rd p 0x40
  let new := k.cl.core.rd p 0x44
  let mir := kget k.net.mirror 0 rg
  let a := bitsAt mir 28 3
  let b := bitsAt mir 25 3
  if new = old then k
  else if mapOk new = false then
    (k.onClus (·.ttEvent rg 0x010B sevInfo 0xFF 0xFF 0 0 0x010B 0 0 15)).onCore (·.wr p 0x44 old)
  else
    let moved : Bool := bitAt mir 31 && (List.range 4).any (fun n => decide (mapPhys old n = a ∧ mapPhys new n = b))
    let k := k.onCore (·.wr p 0x40 new)
    if moved then
      let k := k.onClus (·.copyPtrs (5 * rg + a) (5 * rg + b))
      let k := k.onCore (fun c => (c.setFld p 0x40 21 1 0).setFld p 0x44 21 1 0)
      (k.onCore (·.setFld (pageBI rg) 0x44 31 1 0)).onNet (fun n => { n with mirror := kput n.mirror 0 rg 0 })
    else if mapPilotEn new && !mapPilotEn old then
      k.onClus (·.copyPtrs (5 * rg + mapPhys new (mapPilotOf new)) (5 * rg + mapRelief new))
    else k

/-! ## Validation (R15) -/

/-- KIND, OBJ and VALUE of a condition or action word. -/
def wKind (w : Nat) : Nat := w / 2 ^ 28
/-- OBJ. -/
def wObj (w : Nat) : Nat := w / 2 ^ 20 % 256
/-- VALUE. -/
def wVal (w : Nat) : Nat := w % 2 ^ 20

/-- A condition word with a reserved bit or encoding (R19). -/
def condBad (w : Nat) : Bool :=
  let o := wObj w
  let v := wVal w
  match wKind w with
  | 0 => decide (o ≠ 0 ∨ v ≠ 0)
  | 1 | 2 => decide (o / 16 % 4 = 3)
  | 3 => decide (o / 32 ≠ 0 ∨ v / 2 ^ 16 ≠ 0)
  | 4 => decide (o / 64 ≠ 0 ∨ v / 2 ^ 16 ≠ 0)
  | 5 => decide (o / 32 ≠ 0 ∨ v / 2 ^ 16 ≠ 0)
  | 6 => decide (o ≠ 0)
  | _ => true

/-- Words of post target i: PLACE and the low word. -/
def Core.postPlace (c : Core) (rg i : Nat) : Nat := (c.rd (pageTT rg) (0x500 + 8 * i + 4)).toNat
/-- Low word of post target i. -/
def Core.postLow (c : Core) (rg i : Nat) : W32 := c.rd (pageTT rg) (0x500 + 8 * i)
/-- KIND of post target i: 0 COUNTER, 1 REGION, 2 GROUP. -/
def Core.postKind (c : Core) (rg i : Nat) : Nat := bitsAt (c.postLow rg i) 30 2

/-- A release action of slot n that makes its entry invalid (R15, R29). -/
def Core.actBad (c : Core) (rg n job w : Nat) : Bool :=
  let o := wObj w
  let v := wVal w
  match wKind w with
  | 0 => decide (o ≠ 0 ∨ v ≠ 0)
  | 1 => decide (o / 16 % 4 = 3 ∨ o / 64 ≠ n)
  | 2 => decide (o / 16 % 4 = 3)
  | 3 => decide (o / 64 ≠ 0 ∨ v / 2 ^ 16 ≠ 0 ∨ c.postKind rg o ≠ 0)
  | 4 => decide (o / 64 ≠ 0 ∨ (c.postKind rg o ≠ 1 ∧ c.postKind rg o ≠ 2))
  | 5 => decide (o / 64 % 2 ≠ 0 ∨ v ≠ 0 ∨ (o / 128 = 1 ∧ 31 < o % 64))
  | 6 => decide (o ≠ 0)
  | 7 => decide (o / 64 ≠ 0 ∨ v ≠ 0 ∨ c.circJob rg o ≠ job)
  | _ => true

/-- Whether the words of slot n break R15 or R17. -/
def Core.slotBad (c : Core) (rg n : Nat) (ws : List W64) : Bool :=
  if entUses ws n then
    decide (bitsAt (slotW ws n 0) 32 11 ≠ 0 ∨ bitsAt (slotW ws n 0) 0 20 ≠ 0 ∨ bitsAt (slotW ws n 6) 48 16 ≠ 0) ||
      (List.range 4).any (fun i => condBad (slotCond ws n i) || c.actBad rg n (entJob ws) (slotAct ws n i))
  else (List.range 7).any (fun i => decide (slotW ws n i ≠ 0))

/-- TT_FUSED_BUDGET of a region (R12). -/
def Core.fusedBudget (c : Core) (rg : Nat) : Nat := c.fld (pageTT rg) 0x4C 0 16

/-- Whether the current entry of a circuit of a job is invalid (R15). -/
def Core.entryBad (c : Core) (rg job : Nat) (ws : List W64) : Bool :=
  let w0 := entW ws 0
  !bitAt w0 63 || decide (bitsAt w0 60 3 ≠ 1 ∨ entJob ws ≠ job ∨ entSlots ws = 0 ∨ bitsAt w0 48 3 ≠ 0 ∨ bitsAt w0 14 6 ≠ 0) ||
    decide (bitsAt (entW ws 1) 0 32 ≠ 0 ∨ bitsAt (entW ws 2) 32 32 ≠ 0 ∨ entW ws 3 ≠ 0) ||
    decide (entRun ws = 0 ∨ c.fusedBudget rg < entRun ws) ||
    (List.range 4).any (fun n => c.slotBad rg n ws)

/-! ## Departure conditions and selection (R19–R22) -/

/-- (a − b) mod 65,536 below 32,768. -/
def seqAtLeast (a b : Nat) : Bool := decide ((a + 65536 - b % 65536) % 65536 < 32768)

/-- Whether a departure condition is met (R19). -/
def Core.condMet (c : Core) (rg w : Nat) : Bool :=
  let o := wObj w
  let v := wVal w
  let reg : RegionD := c.region (c.cluOf rg (o / 64)) (o / 16 % 4) (o % 16)
  match wKind w with
  | 0 => true
  | 1 => decide (v ≤ (if reg.valid then reg.used else 0))
  | 2 => decide (v ≤ (if reg.valid then reg.free else 0))
  | 3 => seqAtLeast (c.fld (pageTT rg) (0x80 + 4 * (o % 32)) 0 16) (v % 65536)
  | 4 => seqAtLeast (c.tbGen (pageTb (rg / 2)) (localTbOff (rg % 2) (o % 64))) (v % 65536)
  | 5 => seqAtLeast (c.tbGen (pageTb (rg / 2)) (dieTbOff (o % 32))) (v % 65536)
  | 6 => decide (c.tick.toNat % 2 ^ (v / 2 ^ 16) = v % 2 ^ 16 % 2 ^ (v / 2 ^ 16))
  | _ => false

/-- Effective Run budget of a region: the fused budget, or the limit in force (R12). -/
def Clus.effBudget (m : Clus) (rg : Nat) : Nat :=
  let l := kget m.tt.limit 0 rg
  if l = 0 then m.core.fusedBudget rg else min (m.core.fusedBudget rg) (l - 1)

/-- HOLD_REASON, HOLD_SLOT and HOLD_COND of the first unmet reason of an entry; reason 0 where it departs (R20, R21). -/
def Clus.holdReason (m : Clus) (rg : Nat) (ws : List W64) : Nat × Nat × Nat :=
  let used := (List.range 4).filter (fun n => entUses ws n)
  if used.any (fun n => m.core.fenced (m.core.cluOf rg n)) then (4, 0, 0)
  else if m.effBudget rg < entRun ws then (3, 0, 0)
  else if used.any (fun n => (m.run rg n).isSome) then (2, 0, 0)
  else if (List.range 32).any (fun i => decide (entThrough ws / 2 ^ i % 2 = 1) &&
      (m.core.boundThru (entJob ws) i).isNone) then (5, 0, 0)
  else
    match (used.flatMap (fun n => (List.range 4).map (fun i => (n, i)))).find?
        (fun e => !m.core.condMet rg (slotCond ws e.1 e.2)) with
    | some (n, i) => (1, n, i)
    | none => (0, 0, 0)

/-- Set HOLD_REASON, HOLD_SLOT and HOLD_COND. -/
def Core.setHold (c : Core) (rg n reason slot cond : Nat) : Core :=
  ((c.setFld (pageTT rg) (circOff n + 4) 22 4 reason).setFld (pageTT rg) (circOff n + 4) 20 2 slot).setFld
    (pageTT rg) (circOff n + 4) 18 2 cond

/-- A circuit's entry or replay departs: ENTRY_STATE, ATTEMPT, HOLDS and DEPARTS. -/
def Core.circDepart (c : Core) (rg n attempt : Nat) (first : Bool) : Core :=
  let c := (c.setEntryState rg n 2).setHold rg n 0 0 0
  let c := (c.setFld (pageTT rg) (circOff n + 4) 16 2 (min 3 attempt)).incWrap (pageTT rg) (circOff n + 12) 1
  if first then c.wr (pageTT rg) (circOff n + 8) 0 else c

/-- START takes effect: RUNNING with FIRST as the current entry (R25). -/
def Clus.startPending (m : Clus) (rg : Nat) : Clus :=
  iter 64 (fun n x =>
    if kget x.tt.startPend false (circKey rg n) then
      { x with
        tt := { x.tt with startPend := kput x.tt.startPend false (circKey rg n) false }
        core := (((x.core.setCircState rg n 1).setCircCur rg n (x.core.circFirst rg n)).setEntryState rg n 0).wr
          (pageTT rg) (circOff n + 8) 0 }
    else x) m

/-- Slots due for replay run again on the same logical slot; one whose cluster is fenced waits (R22, R33, R346), and one that
ABORT has failed does not run again: its circuit stops at the next Guard (R25). -/
def Clus.departReplays (m : Clus) (rg : Nat) : Clus :=
  iter 4 (fun n x => match x.run rg n with
    | none => x
    | some r =>
      if r.due = false ∨ r.aborted then x
      else
        let clu := x.core.cluOf rg n
        if x.core.fenced clu then x.onCore (fun c => (c.setEntryState rg r.circ 3).setHold rg r.circ 4 0 0)
        else
          let at_ := if r.relief then 2 else r.attempt + 1
          let x := x.setRun rg n (some { r with due := false, attempt := at_, clu := clu, relief := false })
          x.onCore (fun c => (c.circDepart rg r.circ at_ false).incWrap (pageTT rg) 0x50 1)) m

/-- A held entry-tick (R20, R21). HOLDS counts the ticks in which the entry was examined and held; R21 does not say what a
SUSPEND and a RESUME in between do to the count, and the model's choice is that they leave it (log entry 283). -/
def Clus.holdEntry (m : Clus) (rg n : Nat) (ws : List W64) (reason slot cond : Nat) : Clus :=
  let c := m.core
  let h := c.rd (pageTT rg) (circOff n + 8)
  let m := m.onCore (fun c => (((c.setEntryState rg n 1).setHold rg n reason slot cond).incSat (pageTT rg) (circOff n + 8) 1).incWrap
    (pageTT rg) 0x54 1)
  if entHold ws ≠ 0 ∧ h.toNat + 1 = entHold ws then
    m.ttEvent rg 0x0105 sevInfo n slot (c.circCur rg n) 0 0x0105 0 (entTag ws) (entJob ws)
  else m

/-- Examine the current entry of a RUNNING circuit: invalid, held or departed (R15, R20, R22). -/
def Clus.examine (m : Clus) (rg n : Nat) : Clus :=
  let c := m.core
  if c.circState rg n ≠ 1 ∨ m.inFlight rg n ∨ kget m.tt.suspPend false (circKey rg n) ∨
      kget m.tt.abortPend false (circKey rg n) then m
  else
    let e := c.circCur rg n
    let ws := c.entry rg e
    let job := c.circJob rg n
    if c.entryBad rg job ws then
      let m := m.ttEvent rg 0x0102 sevCont n 0xFF e 0 0x0102 0 (entTag ws) job
      (m.onCore (fun c => (c.setCircState rg n 4).setEntryState rg n 4)).faultJob job 0x0102
    else
      let (reason, slot, cond) := m.holdReason rg ws
      if reason ≠ 0 then m.holdEntry rg n ws reason slot cond
      else
        let m := iter 4 (fun i x =>
          if entUses ws i then
            x.setRun rg i (some { circ := n, entry := e, attempt := 0, clu := x.core.cluOf rg i, words := ws,
                                  otick := x.core.tick, due := false, first := [], relief := false, aborted := false })
          else x) m
        m.onCore (·.circDepart rg n 0 true)

/-- Circuits in the order of R22: highest PRIO first, from the round-robin pointer within one PRIO. -/
def Clus.circOrder (m : Clus) (rg : Nat) : List Nat :=
  let rr := kget m.tt.rr 0 rg
  let l := (List.range 64).map (fun j => (rr + j) % 64)
  (List.range 8).flatMap (fun q => l.filter (fun n => decide (m.core.circPrio rg n = 7 - q)))

/-- The pilot of a region departs beside the slot it duplicates (R359). -/
def Clus.departPilot (m : Clus) (rg : Nat) : Clus :=
  let map := m.core.slotMap rg
  let r := match m.run rg (mapPilotOf map) with
    | some r => if mapPilotEn map && !r.due && !m.core.fenced (m.core.reliefOf rg)
        then some { r with clu := m.core.reliefOf rg } else none
    | none => none
  { m with tt := { m.tt with pilots := kput m.tt.pilots none rg r } }

/-- Departure offsets 16–63: replays, then the running circuits, and the pilot (R22). -/
def Clus.select (m : Clus) (rg : Nat) : Clus :=
  let m := m.departReplays rg
  let m := (m.circOrder rg).foldl (fun x n => x.examine rg n) m
  let m := m.departPilot rg
  { m with tt := { m.tt with rr := kput m.tt.rr 0 rg ((kget m.tt.rr 0 rg + 1) % 64) } }

/-- Start of one run: the S-core, the descriptors, the configuration select and the through tablets (R11, R18). -/
def Pkg.startRun (k : Pkg) (rg n : Nat) (r : SlotRun) (pilot : Bool) : Pkg :=
  let w := slotW r.words n 0
  let k := k.onClus (·.sStart r.clu n r)
  let k := k.dmaStart rg n r.clu (entJob r.words) r.words pilot
  let k := if bitAt w 43 then k.onClus (·.saSelect r.clu (bitsAt w 44 4) 0) else k
  -- a slot whose pair stays halted for the debug path would be withdrawn at once (R231)
  if pilot || (k.cl.score r.clu).dbgHalt then k else k.onClus (·.thruRegister r)

/-- Departure offsets 64–95 (R11). -/
def Pkg.startRuns (k : Pkg) (rg : Nat) : Pkg :=
  let k := iter 4 (fun n x => match x.cl.run rg n with
    | some r => if r.due then x else x.startRun rg n r false
    | none => x) k
  match k.cl.pilot rg with
  | some r => k.startRun rg (mapPilotOf (k.cl.core.slotMap rg)) r true
  | none => k

/-- Departure at the units of a region's clusters: queues, buffers and written bits clear, halted pairs restart. -/
def Clus.unitsDepart (m : Clus) (rg : Nat) : Clus :=
  iter 5 (fun i x =>
    let clu := 5 * rg + i
    let x := ((x.mDepart clu 0).mDepart clu 1).vDepart clu 0
    ((x.vDepart clu 1).sDepart clu).saDepart clu) m

/-- Departure of one region (R11, R20–R23). -/
def Pkg.departRegion (k : Pkg) (rg : Nat) : Pkg :=
  let k := k.mirrorApply rg
  let k := k.onClus (·.storesDepart rg)
  let k := k.slotMapApply rg
  let k := k.onClus (fun m =>
    let m := { m with
      tt := { m.tt with fails := kclear m.tt.fails (5 * rg) 5, failed := kclear m.tt.failed (4 * rg) 4 }
      st := { m.st with dig := kclear m.st.dig (5 * rg) 5 } }
    ((m.unitsDepart rg).startPending rg).select rg)
  (k.startRuns rg).onClus (·.reportIn rg)

/-! ## Close (R14, R27, R359–R362) -/

/-- First unit of a slot's cluster that is still busy, in unit order (R14, R125; a halted pair or array counts as finished,
R126, R161); the line port stands for a transfer, the operation
engine for a store operation (log entry 21). -/
def Pkg.busyUnit (k : Pkg) (rg n clu : Nat) (pilot : Bool) : Option Nat :=
  let m := k.cl
  let a := m.arr clu
  if m.mQueue clu 0 ≠ [] then some 0
  else if m.mQueue clu 1 ≠ [] then some 1
  else if m.vQueue clu 0 ≠ [] ∧ m.vHalted clu 0 = false then some 2
  else if m.vQueue clu 1 ≠ [] ∧ m.vHalted clu 1 = false then some 3
  else if (m.score clu).tend = false ∨ (m.score clu).mode = .handler then some 4
  else if a.halted = false ∧ (a.queue ≠ [] ∨ a.pass.isSome ∨ a.selecting.isSome ∨ a.loads ≠ []) then some 5
  else
    match k.net.runs.find? (fun r => decide (r.rg = rg ∧ r.slot = n ∧ r.pilot = pilot ∧ r.phase ≠ .complete)) with
    | some r => if 3 ≤ dOp r.words ∧ dOp r.words ≤ 5 then some unitOp else some unitLine
    | none => none

/-- Stop the units of a cluster and discard their queues (R14). -/
def Clus.stopUnits (m : Clus) (clu : Nat) : Clus :=
  let stopM (mm : Nat) (x : Clus) : Clus := (x.newMHead clu mm []).setMLoad clu mm none
  let m := stopM 1 (stopM 0 m)
  let m := (m.vHalt clu 0).vHalt clu 1
  let m := if (m.score clu).tend ∧ (m.score clu).mode ≠ .handler then m else m.sStop clu
  let a := m.arr clu
  let a := match a.pass with
    | some p => a.endPass p
    | none => a
  m.setArr clu { a.newHead [] with loads := [], selecting := none, halted := true }

/-- Stop a slot's units and abandon its descriptors. -/
def Pkg.stopSlot (k : Pkg) (rg n clu : Nat) (pilot : Bool) : Pkg :=
  let k := k.onClus (·.stopUnits clu)
  k.onNet (fun x => { x with runs := x.runs.map (fun r =>
    if r.rg = rg ∧ r.slot = n ∧ r.pilot = pilot ∧ r.phase ≠ .complete then { r with phase := .dead, engine := 8 } else r) })

/-- Judge one departed slot at Close offset 0 (R14). An aborted slot records nothing (R25); a pilot's overrun stays its
own check (R360). -/
def Pkg.judge (k : Pkg) (rg n : Nat) (r : SlotRun) (pilot : Bool) : Pkg :=
  match k.busyUnit rg n r.clu pilot with
  | none => k
  | some u =>
    let f : FailCause := ⟨0x0101, .program, u, false, false, false⟩
    let k := k.onClus (fun m =>
      if r.aborted then m
      else if pilot then m.fail r.clu f
      else m.causeEvent r.clu (pageTT rg) f 0)
    k.stopSlot rg n r.clu pilot

/-- A handler still running is stopped, on a cluster without a slot too; its record stays unread (R249). -/
def Clus.handlersStop (m : Clus) (rg : Nat) : Clus :=
  iter 5 (fun i x => if x.inHandler (5 * rg + i) then x.sStop (5 * rg + i) else x) m

/-- Close offset 0 of one region. -/
def Pkg.closeRegion (k : Pkg) (rg : Nat) : Pkg :=
  let k := iter 4 (fun n x => match x.cl.run rg n with
    | some r => if r.due then x else x.judge rg n r false
    | none => x) k
  let k := match k.cl.pilot rg with
    | some r => k.judge rg (mapPilotOf (k.cl.core.slotMap rg)) r true
    | none => k
  k.onClus (·.handlersStop rg)

/-- Detail bytes of R379. -/
def detailBi (job slot src dst cause num flags tick : Nat) : Nat :=
  job % 256 + slot % 256 * 2 ^ 8 + src % 256 * 2 ^ 16 + dst % 256 * 2 ^ 24 + cause % 2 ^ 16 * 2 ^ 32 +
    num % 2 ^ 16 * 2 ^ 48 + flags % 16 * 2 ^ 64 + tick % 2 ^ 32 * 2 ^ 96

/-- An event of a region's BI unit (R379), kept in BI_FIRST_FAIL where it is the first. -/
def Core.biEvent (c : Core) (rg code sev job detail : Nat) (inj : Bool := false) : Core :=
  c.recordCap (pageBI rg) 0xC0 code sev job (placeRg rg) detail inj

/-- The pilot comparison at Close offset 479 (R360–R362), PILOT_FLIP included (R380). -/
def Pkg.comparePilot (k : Pkg) (rg : Nat) : Pkg :=
  let n := mapPilotOf (k.cl.core.slotMap rg)
  match k.cl.pilot rg, k.cl.run rg n with
  | some pr, some r =>
    if r.due then k
    else
      let pb : Bool := k.cl.causes pr.clu != []
      let ob : Bool := k.cl.causes r.clu != []
      let job := entJob r.words
      let d (code : Nat) : Nat := detailBi job n (r.clu % 5) (pr.clu % 5) code 0 0 k.cl.core.tick.toNat
      if pb != ob then
        { k.onCore (·.biEvent rg 0x0F43 sevInfo job (d 0x0F43)) with
          bi := { k.bi with ended := kput k.bi.ended 0 rg 2 } }
      else if ob then k
      else
        let flip := bitAt (k.cl.core.rd (pageBI rg) 0x28) 0
        let dp := kget k.cl.st.dig 0 pr.clu ^^^ (if flip then 1 else 0)
        let dr := kget k.cl.st.dig 0 r.clu
        let k := k.onCore (fun c => ((c.setFld (pageBI rg) 0x28 0 1 0).wr8 (pageBI rg) 0xE0 dp.toNat).wr8
          (pageBI rg) 0xE8 dr.toNat)
        if dp = dr then k
        else
          let k := k.onCore (fun c => (c.note (pageBI rg) 0x0F42 sevCause job (d 0x0F42)).incSat (pageBI rg) 0x60 1)
          let k := k.onClus (·.fail r.clu (checkCause 0x0F42 flip))
          { k with bi := { k.bi with ended := kput k.bi.ended 0 rg 1, mism := kput k.bi.mism 0 (4 * rg + n)
                                      (kget k.bi.mism 0 (4 * rg + n) + 1) } }
  | _, _ => k

/-- The last cycle of Close: the outcome of every departed slot is fixed (R27). -/
def Pkg.closeEndRegion (k : Pkg) (rg : Nat) : Pkg :=
  let k := k.comparePilot rg
  k.onClus (fun m => iter 4 (fun n x => match x.run rg n with
    | some r =>
      let bad : Bool := !r.due && (r.aborted || (x.causes r.clu != []))
      { x with tt := { x.tt with failed := kput x.tt.failed false (4 * rg + n) bad } }
    | none => x) m)

/-! ## Release actions (R29–R31) -/

/-- TT_RELEASE_MISMATCH as a cause (R29). -/
def Clus.mismatch (m : Clus) (rg clu : Nat) : Clus :=
  m.causeEvent clu (pageTT rg) (progCause 0x0104) 0

/-- RELEASE of a cluster's local ring, with VALUE; none where it does not match (R29). -/
def Clus.doRelease (m : Clus) (clu st r v : Nat) : Option Clus :=
  let d := m.core.region clu st r
  if d.valid = false ∨ d.mode ≠ 1 ∨ (v ≠ 0 ∧ d.hext ≠ v) then none
  else some (m.onCore (·.advRel clu st r d.hext 0))

/-- CONSUME of a cluster's ring (R29). -/
def Clus.doConsume (m : Clus) (clu st r v : Nat) : Option Clus :=
  let d := m.core.region clu st r
  if d.valid = false ∨ (d.mode ≠ 1 ∧ d.mode ≠ 2) ∨ d.used < v then none
  else
    let key := homeKey clu st r
    let full := kget m.st.flushed false key
    some { m with
      core := m.core.advTail clu st r v full
      st := { m.st with flushed := if v = 0 then m.st.flushed else kput m.st.flushed false key false } }

/-- A signal made at commit: sent at Guard offsets 32–63 (R11). -/
def Clus.stageSig (m : Clus) (rg : Nat) (x : Sig0) : Clus := { m with tt := { m.tt with sigOut := m.tt.sigOut ++ [(rg, x)] } }

/-- Regions and logical slots of a multicast group's members (R43). -/
def Core.groupSlots (c : Core) (grp : Nat) : List (Nat × Nat) :=
  (List.range 96).flatMap (fun g => (List.range 8).filterMap (fun i =>
    if bitAt (c.groupEntry g grp) (12 + i) then some (2 * g + i / 4, i % 4) else none))

/-- Whether a code names a region (scope 0b10). -/
def isRegionPlace (p : Nat) : Bool := placeOk p && decide (p / 2 ^ 30 = 2)

/-- POST through post target i (R29, R30). The spec gives no effect to a target whose PLACE is no region; the model's choice
is that the action then does nothing (log entry 284). -/
def Clus.doPost (m : Clus) (rg i v : Nat) : Clus :=
  let p := m.core.postPlace rg i
  let ctr := bitsAt (m.core.postLow rg i) 17 5
  if isRegionPlace p = false then m
  else if placeRegion p = rg then m.applyPost rg ctr v
  else m.stageSig rg (.post (placeRegion p) ctr v)

/-- REMOTE_RELEASE through post target i (R29, R43). A target whose PLACE is no region or whose STORE is 3 does nothing, as
for `doPost` (log entry 284). The logical slot is resolved to its physical cluster here, at the commit: where the release is
then held over a Departure that moves the slot, it reaches the outgoing cluster and, through the mirror, the incoming one; the
spec does not say when the slot is resolved, and this is the model's choice (log entry 285). -/
def Clus.doRemoteRelease (m : Clus) (rg i v job : Nat) : Clus :=
  let p := m.core.postPlace rg i
  let w := m.core.postLow rg i
  let st := bitsAt w 26 2
  let go (x : Clus) (e : Nat × Nat) : Clus := x.stageSig rg (.release (x.core.cluOf e.1 e.2) st (bitsAt w 22 4) v job)
  if st = 3 then m
  else if bitsAt w 30 2 = 2 then (m.core.groupSlots (bitsAt w 11 6)).foldl go m
  else if isRegionPlace p then go m (placeRegion p, bitsAt w 28 2)
  else m

/-- TABLET_ARRIVE at commit; none where the tablet does not serve the job (R229). -/
def Clus.doTabArrive (m : Clus) (rg job o : Nat) : Option Clus :=
  let page := pageTb (rg / 2)
  let off := if o / 128 = 1 then dieTbOff (o % 32) else localTbOff (rg % 2) (o % 64)
  if m.core.tbValid page off && decide (m.core.tbJob page off = job) then some (m.tabArrive page off).2 else none

/-- HOST_COMPLETE (R29, R335). -/
def Clus.doHostComplete (m : Clus) (rg n v : Nat) (r : SlotRun) : Clus :=
  let h : HostCompl := {
    job := Fin.ofNat 16 (entJob r.words), tag := BitVec.ofNat 32 (entTag r.words), value := BitVec.ofNat 20 v,
    entry := BitVec.ofNat 12 r.entry, circuit := BitVec.ofNat 6 r.circ, region := decide (rg % 2 = 1),
    slot := BitVec.ofNat 2 n, die := BitVec.ofNat 7 (m.core.logicalDie (rg / 2)), tick := m.core.tick }
  { m with tt := { m.tt with hostOut := m.tt.hostOut ++ [h] } }

/-- CONSUME on a slot's regions, also on the mirror's copy where another slot acts (R348). -/
def Pkg.consumeAct (k : Pkg) (rg n o v : Nat) : Option Pkg :=
  let clu := k.cl.core.cluOf rg (o / 64)
  match k.cl.doConsume clu (o / 16 % 4) (o % 16) v with
  | none => none
  | some m =>
    let k := { k with cl := m }
    if o / 64 = n then some k
    else some ((k.mirrorsOf clu).foldl (fun x c2 => match x.cl.doConsume c2 (o / 16 % 4) (o % 16) v with
      | some m2 => { x with cl := m2 }
      | none => x) k)

/-- One release action of a passing slot: whether the later ones follow (R29). -/
def Pkg.act (k : Pkg) (rg n : Nat) (r : SlotRun) (w : Nat) : Bool × Pkg :=
  let o := wObj w
  let v := wVal w
  let job := entJob r.words
  let bad : Bool × Pkg := (false, k.onClus (·.mismatch rg r.clu))
  let k := k.onClus (fun m => if wKind w = 0 then m else m.addDig r.clu [5, w])
  match wKind w with
  | 1 => match k.cl.doRelease r.clu (o / 16 % 4) (o % 16) v with
    | some m => (true, { k with cl := m })
    | none => bad
  | 2 => match k.consumeAct rg n o v with
    | some k => (true, k)
    | none => bad
  | 3 => (true, k.onClus (·.doPost rg (o % 64) (v % 2 ^ 16)))
  | 4 => (true, k.onClus (·.doRemoteRelease rg (o % 64) v job))
  | 5 => match k.cl.doTabArrive rg job o with
    | some m => (true, { k with cl := m })
    | none =>
      let l4 := rg / 2 + (r.clu % 10) * 256 + (o / 128 * 64 + o % 64) % 256 * 65536 + 4 * 2 ^ 24
      (false, k.onClus (·.fatalEvent r.clu (pageTb (rg / 2)) 0x0701 (placeDie (rg / 2) 0) l4))
  | 6 => (true, k.onClus (·.doHostComplete rg n v r))
  | 7 => if k.cl.core.circJob rg (o % 64) = job then (true, k.onClus (·.circStart rg (o % 64))) else bad
  | _ => (true, k)

/-- The release actions of one passing slot, ACT0 to ACT3 (R28, R29). -/
def Pkg.acts (k : Pkg) (rg n : Nat) (r : SlotRun) : Bool × Pkg :=
  (List.range 4).foldl (fun e i => if e.1 then e.2.act rg n r (slotAct r.words n i) else e) (true, k)

/-- RELEASE and CONSUME of a pilot, on its own copies of the slot's regions (R359). -/
def Clus.pilotActs (m : Clus) (n : Nat) (r : SlotRun) : Clus :=
  (List.range 4).foldl (fun x i =>
    let w := slotAct r.words n i
    let o := wObj w
    if o / 64 ≠ n then x
    else if wKind w = 1 then (x.doRelease r.clu (o / 16 % 4) (o % 16) (wVal w)).getD x
    else if wKind w = 2 then (x.doConsume r.clu (o / 16 % 4) (o % 16) (wVal w)).getD x
    else x) m

/-! ## Replay and fault at commit (R28, R32, R33) -/

/-- The causes that count: a DATA cause gives way to ST_UNDERRUN (R32). -/
def effCauses (l : List FailCause) : List FailCause :=
  if l.any (fun f => f.code == 0x0501) then l.filter (fun f => f.cls != .data) else l

/-- TT_JOB_FAULT: the circuit is FAULTED and its slots due for replay are dropped (log entry 22). -/
def Clus.ttJobFault (m : Clus) (rg n : Nat) (r : SlotRun) (f : FailCause) : Clus :=
  let job := entJob r.words
  let m := m.ttEvent rg 0x0109 sevCont r.circ n r.entry r.attempt f.code f.busy (entTag r.words) job f.inj
  let m := iter 4 (fun i x => match x.run rg i with
    | some q => if q.circ = r.circ ∧ (q.due ∨ i = n) then x.setRun rg i none else x
    | none => x) m
  (m.onCore (fun c => (c.setCircState rg r.circ 4).setEntryState rg r.circ 4)).faultJob job

/-- Set the BI_FENCE bit of a cluster (R346). -/
def Core.setFence (c : Core) (clu : Nat) : Core :=
  let c := c.setFld (pageBI (clu / 5)) 0x48 (clu % 5) 1 1
  c.setFld (pageBI (clu / 5)) 0x40 21 5 (c.fld (pageBI (clu / 5)) 0x48 0 5)

/-- TT_REPLAY_FAIL, with the causes of both attempts: one record for each attempt, with its number and its first cause (R33,
R41; log entry 42). -/
def Clus.replayFail (m : Clus) (rg n : Nat) (r : SlotRun) (f : FailCause) (inj : Bool) : Clus :=
  let job := entJob r.words
  let tag := entTag r.words
  let g : FailCause := r.first.headD f
  let m := m.ttEvent rg 0x0108 sevCorr r.circ n r.entry (r.attempt - 1) g.code g.busy tag job (r.first.any (·.inj))
  m.ttEvent rg 0x0108 sevCorr r.circ n r.entry r.attempt f.code f.busy tag job inj

/-- A failing slot at commit: due for replay, or replay failed, or the job faults (R32, R33, R35, R128). In a first attempt
one cause without replay decides, whatever other causes stand beside it: R32 does not say which comes first, and this is the
model's choice (log entry 286). A replay that fails takes R33 whatever its causes; so does one that fails by a first
TT_LOCKSTEP, which R35 does not take apart from a slot's first attempt (log entry 287). -/
def Clus.failSlot (m : Clus) (rg n : Nat) (r : SlotRun) : Clus :=
  let cs := effCauses (m.causes r.clu)
  let f0 : FailCause := cs.headD (progCause 0x0101)
  let real := cs.filter (fun f => !f.lenient)
  let job := entJob r.words
  let tag := entTag r.words
  let fatal := cs.find? (fun f => f.fatal)
  let wait (m : Clus) : Clus :=
    (m.setRun rg n (some { r with due := true, relief := true, drill := r.first.any (·.inj) && real.any (·.inj) })).onCore
      (·.setEntryState rg r.circ 3)
  if r.first = [] ∧ fatal.isSome then m.ttJobFault rg n r (fatal.getD f0)
  else if (real = [] ∧ fatal = none) ∨ r.first = [] then
    let m := m.ttEvent rg 0x0107 sevCorr r.circ n r.entry r.attempt f0.code f0.busy tag job (cs.any (·.inj))
    (m.setRun rg n (some { r with due := true, first := if real = [] then r.first else real })).onCore
      (·.setEntryState rg r.circ 3)
  else
    let f1 : FailCause := real.headD f0
    let m := m.replayFail rg n r f1 (real.any (·.inj))
    if kget m.tt.lockFault false rg then wait m
    else if real.any (fun f => f.cls == .check) then wait (m.onCore (·.setFence r.clu))
    else m.ttJobFault rg n r (fatal.getD f1)

/-- Commit of one slot (R28). -/
def Pkg.commitSlot (k : Pkg) (rg n : Nat) (r : SlotRun) : Pkg :=
  let job := entJob r.words
  let tag := entTag r.words
  let done (k : Pkg) (pass : Bool) : Pkg := k.onClus (fun m => (m.mCommit r.clu 0 pass job tag).mCommit r.clu 1 pass job tag)
  if r.aborted then done (k.onClus (·.setRun rg n none)) false
  else
    let (ok, k) := if kget k.cl.tt.failed false (4 * rg + n) then (false, k) else k.acts rg n r
    let k := done k ok
    if ok then k.onClus (·.setRun rg n none)
    else
      let k := k.onClus (fun m => { m with tt := { m.tt with failed := kput m.tt.failed false (4 * rg + n) true } })
      k.onClus (·.failSlot rg n r)

/-- Circuits after the slots' commits: ABORT, advance, HALT_AFTER, STOPPING and SUSPEND (R25). `dep` lists the circuits
that had a slot departed, with their entry. -/
def Clus.circSettle (m : Clus) (rg n : Nat) (dep : List (Nat × List W64)) : Clus :=
  let key := circKey rg n
  let drop (x : Clus) : Clus := iter 4 (fun i y => match y.run rg i with
    | some q => if q.circ = n then y.setRun rg i none else y
    | none => y) x
  if kget m.tt.abortPend false key then
    let m := drop { m with tt := { m.tt with abortPend := kput m.tt.abortPend false key false,
                                             suspPend := kput m.tt.suspPend false key false } }
    m.onCore (fun c => ((c.setCircState rg n 0).setEntryState rg n 0).setHold rg n 0 0 0)
  else if m.core.circState rg n = 4 then m
  else if m.inFlight rg n then m
  else
    let m := match dep.find? (fun e => decide (e.1 = n)) with
      | some (_, ws) => m.onCore (fun c =>
          let c := (c.setCircCur rg n (entNext ws)).setEntryState rg n 0
          if entHalt ws then c.setCircState rg n 0 else c)
      | none => m
    let susp := kget m.tt.suspPend false key
    let m := if susp then { m with tt := { m.tt with suspPend := kput m.tt.suspPend false key false } } else m
    match m.core.circState rg n with
    | 3 => m.onCore (·.setCircState rg n 0)
    | 1 => if susp then m.onCore (·.setCircState rg n 2) else m
    | _ => m

/-- Apply what is held for a region's timetable unit or stores (R30, R178), on a mirror's copy too (R348). -/
def Pkg.sig0Apply (k : Pkg) (x : Sig0) : Pkg :=
  let k := k.onClus (·.applySig0 x)
  match x with
  | .post _ _ _ => k
  | .release clu st r n job => (k.mirrorsOf clu).foldl (fun y c2 =>
      let d := y.cl.core.region c2 st r
      if d.valid && decide (d.mode = 2 ∧ n ≤ d.free) then y.onClus (·.applyRelease c2 st r n job) else y) k

/-- Region a SIG0 message is for. -/
def Sig0.region : Sig0 → Nat
  | .post rg _ _ => rg
  | .release clu _ _ _ _ => clu / 5

/-- Guard offset 0 of a region: everything held for it applies, before the local release actions. -/
def Pkg.heldApply (k : Pkg) (rg : Nat) : Pkg :=
  let l := k.cl.tt.held.filter (fun x => decide (x.region = rg))
  let k := k.onClus (fun m => { m with tt := { m.tt with held := m.tt.held.filter (fun x => decide (x.region ≠ rg)) } })
  l.foldl (fun x e => x.sig0Apply e) k

/-- A SIG0 message arrives: applied at once at Guard offsets 32–255, otherwise held (R30, R178). -/
def Pkg.sig0Arrive (k : Pkg) (x : Sig0) : Pkg :=
  let k := k.onClus (fun m => { m with tt := { m.tt with sig0 := dropFirst (· == x) m.tt.sig0 } })
  if k.cl.core.applyNow then k.sig0Apply x
  else k.onClus (fun m => { m with tt := { m.tt with held := m.tt.held ++ [x] } })

/-- The pilot's own commit, where both it and the piloted slot pass; its safeguard counts are discarded (R74, R359). -/
def Pkg.commitPilot (k : Pkg) (rg : Nat) : Pkg :=
  match k.cl.pilot rg with
  | none => k
  | some r =>
    let n := mapPilotOf (k.cl.core.slotMap rg)
    let ok : Bool := (k.cl.causes r.clu == []) && !kget k.cl.tt.failed false (4 * rg + n)
    k.onClus (fun m =>
      let m := if ok then m.pilotActs n r else m
      let m := (m.mCommit r.clu 0 false 0 0).mCommit r.clu 1 false 0 0
      { m with tt := { m.tt with pilots := kput m.tt.pilots none rg none } })

/-- Commit of one region at Guard offsets 0–31 (R28). -/
def Pkg.commitRegion (k : Pkg) (rg : Nat) : Pkg :=
  let k := k.heldApply rg
  let runs : List (Nat × SlotRun) := (List.range 4).filterMap (fun n => match k.cl.run rg n with
    | some r => if r.due then none else some (n, r)
    | none => none)
  let k := runs.foldl (fun x e => x.commitSlot rg e.1 e.2) k
  let k := k.commitPilot rg
  let dep := runs.map (fun e => (e.2.circ, e.2.words))
  let k := k.onClus (fun m => (((List.range 64).foldl (fun x n => x.circSettle rg n dep) m).hextClear rg).homeLag rg)
  k.onNet (fun n => { n with runs := n.runs.filter (fun r => decide (r.rg ≠ rg)) })

/-! ## Entry writes and TT_LOCKSTEP -/

/-- ENTRY_WRITE: dropped with TT_ENTRY_BUSY where a slot of the entry is departed or due for replay (R42). -/
def Clus.entryWrite (m : Clus) (rg e : Nat) (ws : List W64) : Clus :=
  match (List.range 4).findSome? (fun n => match m.run rg n with
      | some r => if r.entry = e then some (n, r) else none
      | none => none) with
  | some (n, r) =>
    (m.ttEvent rg 0x0106 sevInfo r.circ n r.entry r.attempt 0x0106 0 (entTag r.words) (entJob r.words)).onCore
      (·.dropped (pageTT rg))
  | none =>
    m.onCore (fun c => c.winWr (entryBase rg + 256 * e)
      ((List.range 32).flatMap (fun i => leBytes 8 (ws.getD i 0).toNat)))

/-- TT_LOCKSTEP: every departed slot of the region fails; a second consecutive one is a die fault (R35). -/
def Clus.ttLockstep (m : Clus) (rg : Nat) : Clus :=
  let t := m.core.tick.toNat
  let second : Bool := decide (kget m.tt.lockstep 0 rg = t ∧ t ≠ 0)
  let m := m.ttEvent rg 0x010C sevCorr 0xFF 0xFF 0 0 0x010C 0 0 15
  let m := { m with tt := { m.tt with lockstep := kput m.tt.lockstep 0 rg (t + 1),
                                      lockFault := kput m.tt.lockFault false rg (second || kget m.tt.lockFault false rg) } }
  iter 4 (fun n x => match x.run rg n with
    | some r => if r.due then x else x.fail r.clu (checkCause 0x010C)
    | none => x) m

/-! ## The commands of this part -/

/-- ENTRY_WRITE (R42). -/
def execEntryWrite (rg : Rgn) (e : Fin 4096) (ws : List W64) (s : State) : Out :=
  .next (s.onClus (·.entryWrite rg.val e.val ws))
/-- TT_LOCKSTEP (R35). -/
def execTtLockstep (rg : Rgn) (s : State) : Out := .next (s.onClus (·.ttLockstep rg.val))
/-- POST_ARRIVE (R30). -/
def execPostArrive (rg : Rgn) (ctr : Fin 32) (v : BitVec 16) (s : State) : Out :=
  .next (s.onPkg (·.sig0Arrive (.post rg.val ctr.val v.toNat)))
/-- REMOTE_RELEASE_ARRIVE (R178). -/
def execRemoteReleaseArrive (c : Clu) (st : Store) (r : Fin 16) (n : BitVec 20) (j : Job) (s : State) : Out :=
  .next (s.onPkg (·.sig0Arrive (.release c.val st.val r.val n.toNat j.val)))

end Sys2Proof.Machine
end

