-- ==== Sys2Proof/Machine/Collectives.lean ====
section
/-!
DEFINITION. The collective engines (R296–R301): entries and their trigger, the ring of reduce-scatter and all-gather
steps, chunk digests and their checks, acknowledgments, resends, and the release of a finished run.
-/
namespace Sys2Proof.Machine

/-! ## Entries (R296) -/

/-- OP of an entry: 1 ALL_REDUCE, 2 REDUCE_SCATTER, 3 ALL_GATHER. -/
def ceOp (ws : List W64) : Nat := bitsAt (dW ws 0) 60 3
/-- FMT. -/
def ceFmt (ws : List W64) : Nat := bitsAt (dW ws 0) 56 4
/-- GRP. -/
def ceGrp (ws : List W64) : Nat := bitsAt (dW ws 0) 52 4
/-- Granules per chunk. -/
def ceChunk (ws : List W64) : Nat := bitsAt (dW ws 0) 42 10 + 1
/-- Granules per share. -/
def ceShare (ws : List W64) : Nat := bitsAt (dW ws 0) 0 32
/-- Chunks per share. -/
def cePer (ws : List W64) : Nat := ceShare ws / ceChunk ws
/-- Source end. -/
def ceSrc (ws : List W64) : DEnd := dEnd (dW ws 1) (dW ws 2) 0
/-- Destination end. -/
def ceDst (ws : List W64) : DEnd := dEnd (dW ws 3) (dW ws 4) 0
/-- TRIG_DIE and TRIG_TAB. -/
def ceTrig (ws : List W64) : Nat × Nat := (bitsAt (dW ws 5) 57 7, bitsAt (dW ws 5) 52 5)
/-- DONE_DIE and DONE_TAB. -/
def ceDone (ws : List W64) : Nat × Nat := (bitsAt (dW ws 5) 45 7, bitsAt (dW ws 5) 40 5)

/-- Whether an entry breaks R296. -/
def Pkg.ceBad (k : Pkg) (ws : List W64) : Bool :=
  let s := ceSrc ws
  let d := ceDst ws
  let fmtOk : Bool := if ceOp ws = 3 then true else decide (ceFmt ws = 0 ∨ ceFmt ws = 1 ∨ ceFmt ws = 2 ∨ ceFmt ws = 6)
  decide (ceOp ws = 0 ∨ 3 < ceOp ws) || !fmtOk || !k.grpValid (ceGrp ws) || decide (k.grpN (ceGrp ws) < 2) ||
    decide (ceShare ws = 0 ∨ ceShare ws % ceChunk ws ≠ 0) || decide (bitsAt (dW ws 0) 32 10 ≠ 0) ||
    endReserved (dW ws 1) || endReserved (dW ws 3) || decide (bitsAt (dW ws 2) 48 16 ≠ 0 ∨ bitsAt (dW ws 4) 48 16 ≠ 0) ||
    decide (s.kind ≠ 2 ∧ s.kind ≠ 3) || decide (d.kind ≠ 2 ∧ d.kind ≠ 3 ∧ d.kind ≠ 6) ||
    (s.isMem && decide (s.addr % 256 ≠ 0)) || (d.isMem && decide (d.addr % 256 ≠ 0)) ||
    decide (bitsAt (dW ws 5) 0 40 ≠ 0 ∨ dW ws 6 ≠ 0 ∨ bitsAt (dW ws 7) 0 32 ≠ 0)

/-- Entry e of engine q; unlisted words are zero. -/
def Pkg.collEntry (k : Pkg) (q e : Nat) : List W64 := kget k.fab.coll [] (64 * q + e)

/-- Cluster of a KIND 2 end. -/
def Pkg.collClu (k : Pkg) (e : DEnd) : Option Nat :=
  (k.cl.core.dieMap 0 e.die).map (fun g => k.cl.core.cluOf (2 * g + e.lrg) e.lslot)

/-- Read n granules of an end at granule i; what cannot be read is poison (R176, R297). -/
def Pkg.collRead (k : Pkg) (job : Nat) (e : DEnd) (i n : Nat) : List PB × Pkg :=
  if e.kind = 3 then
    if k.dpaFault job (e.addr + 256 * i) = 0 then k.dpaRead (e.addr + 256 * i) (256 * n)
    else (List.replicate (256 * n) (0, true), k)
  else match k.collClu e with
    | some clu =>
      let (l, _, k) := k.lineRead clu e.store e.region (256 * (e.goff + i)) (256 * n) (.remote job)
      (l, k)
    | none => (List.replicate (256 * n) (0, true), k)

/-- First DPA of n granules of an end that a job may not reach, with the reason (R256). -/
def Pkg.collFault (k : Pkg) (job : Nat) (e : DEnd) (i n : Nat) : Option (Nat × Nat) :=
  if e.kind ≠ 3 then none
  else (List.range n).findSome? (fun g =>
    let a := e.addr + 256 * (i + g)
    let r := k.dpaFault job a
    if r = 0 then none else some (a, r))

/-- Clusters of a KIND 6 end. -/
def Core.groupClus (c : Core) (grp : Nat) : List Nat := (c.groupSlots grp).map (fun e => c.cluOf e.1 e.2)

/-- Write granules at an end beyond release (R297). -/
def Pkg.collWrite (k : Pkg) (job : Nat) (e : DEnd) (i : Nat) (l : List PB) : Pkg :=
  if e.kind = 3 then
    if k.dpaFault job (e.addr + 256 * i) = 0 then k.dpaWrite (e.addr + 256 * i) l else k
  else
    let clus := if e.kind = 6 then k.cl.core.groupClus e.group else (k.collClu e).toList
    clus.foldl (fun x clu => (x.lineWrite clu e.store e.region (256 * (e.goff + i)) l (.remote job)).2) k

/-! ## Values and digests (R298, R299) -/

/-- FP64. -/
def f64 : FFmt := ⟨11, 52, 1023, true, false⟩
/-- Rounded to FP64. -/
def round64 (v : FV) : FV := f64.decode (f64.ofFV 15 none v).bits
/-- FP64 code. -/
def to64 (v : FV) : W64 := BitVec.ofNat 64 (f64.ofFV 15 none v).bits

/-- Bytes per element of a reduction format. -/
def redBytes (fmt : Nat) : Nat := if fmt = 1 ∨ fmt = 2 then 2 else 4
/-- Element codes of a chunk, with their poison. -/
def redElems (fuel fmt : Nat) (l : List PB) : List (Nat × Bool) :=
  match fuel with
  | 0 => []
  | f + 1 => if l.isEmpty then [] else
    let n := redBytes fmt
    (leNat ((l.take n).map (·.1)), (l.take n).any (·.2)) :: redElems f fmt (l.drop n)
/-- Value of an element code of FP32, BF16 or FP16. -/
def redVal (fmt x : Nat) : FV := (if fmt = 1 then fBf16 else if fmt = 2 then fFp16 else f32).decode x

/-- Sum of two elements: INT32 with wrap-around, else FP32 rounded to FMT (R297). -/
def redAdd (fmt a b : Nat) : Nat :=
  if fmt = 6 then (a + b) % 2 ^ 32
  else
    let s := to32 ((redVal fmt a).add (redVal fmt b))
    if fmt = 0 then s.toNat
    else ((if fmt = 1 then fBf16 else fFp16).ofFV fmt none (of32 s)).bits

/-- CRC-64 with the ECMA-182 polynomial: most significant bit first, initial value and final inversion all ones (R298). -/
def crc64 (l : List Byte) : Nat :=
  let step (c b : Nat) : Nat :=
    (List.range 8).foldl (fun x _ =>
      if x / 2 ^ 63 = 1 then ((x * 2) % 2 ^ 64) ^^^ 0x42F0E1EBA9EA3693 else x * 2) (c ^^^ (b * 2 ^ 56))
  (l.foldl (fun c b => step c b.toNat) (2 ^ 64 - 1)) ^^^ (2 ^ 64 - 1)

/-- Bytes of 32 elements of a format (R44). -/
def bytesOf32 (fmt : Nat) : Nat :=
  4 * elemBits fmt + (if fmt = 14 then 3 else if isBlockFmt fmt then 1 else 0)
/-- Elements of n bytes of a format (COUNT). -/
def redCount (fmt n : Nat) : Nat := 32 * n / bytesOf32 fmt

/-- VSUM of elements in order: FP64 with a rounding at each addition, or INT64 (R298). -/
def vsum (fmt : Nat) (xs : List Nat) : FV :=
  if fmt = 6 then FV.ofInt (xs.foldl (fun a x => a + toSigned 32 x) 0)
  else xs.foldl (fun a x => round64 (a.add (redVal fmt x))) FV.zero
/-- VSUM as the digest carries it. -/
def vsumBits (fmt : Nat) (xs : List Nat) : W64 :=
  if fmt = 6 then BitVec.ofInt 64 (xs.foldl (fun a x => a + toSigned 32 x) 0) else to64 (vsum fmt xs)

/-- The bound B of R299 for `n` elements of a format with magnitude sum A. -/
def sumBound (fmt n : Nat) (a : FV) : FV :=
  let p : Int := if fmt = 1 then 8 else if fmt = 2 then 11 else 24
  ((((a.scale (-24)).add (a.scale (-p))).add (a.scale (-32))).add ((FV.ofInt n).scale (-149)))

/-- Whether a reduced chunk passes the sum check of R299: received elements and their VSUM, own and output elements. -/
def sumOk (fmt : Nat) (sIn : W64) (rx own out : List Nat) : Bool :=
  if fmt = 6 then
    decide ((vsumBits fmt out).toNat % 2 ^ 32 = (sIn.toNat + (vsumBits fmt own).toNat) % 2 ^ 32)
  else
    let a := (rx ++ own).foldl (fun x y => round64 (x.add (redVal fmt y).abs)) FV.zero
    let d := (vsum fmt out).add (((f64.decode sIn.toNat).add (vsum fmt own)).neg)
    !((sumBound fmt out.length a).lt d.abs)

/-- Whether a chunk is left out of the sum check: an Inf, a NaN or poison in it (R299). -/
def sumSkip (fmt : Nat) (xs : List (Nat × Bool)) : Bool :=
  xs.any (fun e => e.2 || (decide (fmt ≠ 6) && !(redVal fmt e.1).isFin))

/-! ## The ring (R297) -/

/-- A run of engine q, entry e. -/
def Pkg.collRun (k : Pkg) (q e : Nat) : Option CollRun := kget k.fab.runs none (64 * q + e)
/-- Set it, with FB_COLL_BUSY. -/
def Pkg.setCollRun (k : Pkg) (q e : Nat) (r : Option CollRun) : Pkg :=
  let k := k.onFab (fun y => { y with runs := kput y.runs none (64 * q + e) r })
  let busy := match r with
    | some x => if x.freed then 0 else 1
    | none => 0
  k.onCore (·.setFld (pageColl q) (0xC8 + e / 32 * 4) (e % 32) 1 busy)

/-- Ring steps of an entry in a group of n: reduce-scatter steps, then all-gather steps. -/
def ringSteps (op n : Nat) : Nat × Nat := if op = 1 then (n - 1, n - 1) else if op = 2 then (n - 1, 0) else (0, n - 1)

/-- STEPs of the whole run: a STEP numbers a chunk of a ring step (log entry 24). -/
def totalSteps (ws : List W64) (n : Nat) : Nat := ((ringSteps (ceOp ws) n).1 + (ringSteps (ceOp ws) n).2) * cePer ws

/-- Share that rank r of n sends in ring step s, and the one it receives. -/
def ringShares (op n r s : Nat) : Nat × Nat :=
  let rs := (ringSteps op n).1
  if s < rs then ((r + 2 * n - 1 - s) % n, (r + 2 * n - 2 - s) % n)
  else ((r + 2 * n - (s - rs)) % n, (r + 2 * n - 1 - (s - rs)) % n)

/-- First granule, at the source, of chunk c of a share; ALL_GATHER's source is the own share alone. -/
def srcGranule (ws : List W64) (share c : Nat) : Nat := (if ceOp ws = 3 then 0 else share * ceShare ws) + c * ceChunk ws
/-- First granule, at the destination, of chunk c of a share; REDUCE_SCATTER's destination is the own share alone. -/
def dstGranule (ws : List W64) (share c : Nat) : Nat := (if ceOp ws = 2 then 0 else share * ceShare ws) + c * ceChunk ws

/-- The neighbour in the ring that an event of a run is about: rank + 1, which did not acknowledge, for FB_COLL_TIMEOUT, and
rank − 1, whose chunk failed, for the others (R314). -/
def Pkg.collPeer (k : Pkg) (i code : Nat) : Nat :=
  let n := max 1 (k.grpN i)
  k.memberNode i ((k.grpRank i + (if code = 0x0A0E then 1 else n - 1)) % n)

/-- Events of a collective run (R300, R301). -/
def Pkg.collEvent (k : Pkg) (q : Nat) (ws : List W64) (code : Nat) : Pkg :=
  let i := ceGrp ws
  k.onCore (·.record (pageColl q) code sevCont (k.grpJob i) (placeEdge q 2 0)
    (detailFb (k.collPeer i code) 0xFF 0 0 (k.grpId i) (bitsAt (dW ws 7) 32 32)))

/-- HB_ACCESS_FAULT of a collective entry: the run sends nothing more and its job faults (R256, R273). -/
def Pkg.collDeny (k : Pkg) (q e reason : Nat) : Pkg :=
  let ws := k.collEntry q e
  let job := k.grpJob (ceGrp ws)
  (((k.setCollRun q e none).onCore (·.record (pageColl q) 0x090B sevCont job (placeEdge q 2 0)
    (detail41 0x090B 0xFF 0xFF 0 0 0 (bitsAt (dW ws 7) 32 32) (e + reason * 256)))).onClus (·.faultJob job 0x090B))

/-- VSUM of a chunk that is copied and not reduced: its element values in element order (R50, R298). -/
def copyVsum (fmt : Nat) (l : List Byte) : W64 :=
  let nib : List Nat := l.flatMap (fun b => [b.toNat % 16, b.toNat / 16])
  let sum (f : Nat → FV) (xs : List Nat) : W64 := to64 (xs.foldl (fun a x => round64 (a.add (f x))) FV.zero)
  match fmt with
  | 3 => sum fE4m3.decode (l.map (·.toNat))
  | 4 => sum fE5m2.decode (l.map (·.toNat))
  | 5 => sum (fun x => FV.ofInt (toSigned 8 x)) (l.map (·.toNat))
  | 7 => sum fE2m1.decode nib
  | _ => if 8 ≤ fmt then Config.blockVsum fmt l
    else vsumBits fmt ((redElems (l.length + 1) fmt (l.map (fun b => (b, false)))).map (·.1))

/-- Send the chunk staged for a STEP to rank + 1: its data, then its digest (R297, R298). VSUM_FLIP acts on the port the
digest leaves by (R315). -/
def Pkg.sendChunk (k : Pkg) (q e st : Nat) : Pkg :=
  match k.collRun q e with
  | none => k
  | some run =>
    let ws := k.collEntry q e
    let i := ceGrp ws
    let l := kget run.stage [] st
    let node := k.memberNode i ((k.grpRank i + 1) % max 1 (k.grpN i))
    let base : Frame := { fvc := 1, fgroup := BitVec.ofNat 16 (k.grpId i), txn := BitVec.ofNat 12 (e + 64 * q),
                          step := BitVec.ofNat 32 st }
    let max_ := match k.routePort node (k.grpId i) with
      | some p => k.frameMax p
      | none => 2048
    let k := (framesOf max_ (l.length / 64 + 1) 0 l).foldl (fun x c =>
      (x.sendTo node { base with ftype := 0x10, chunks := BitVec.ofNat 6 ((c.2.length + 63) / 64),
                                 offset := BitVec.ofNat 48 c.1, f4 := poisonBits c.2, payload := c.2.map (·.1) }).2) k
    let fmt := ceFmt ws
    let sum := if ceOp ws = 3 then copyVsum fmt (l.map (·.1)) else vsumBits fmt ((redElems (l.length + 1) fmt l).map (·.1))
    let (flip, k) := match k.routePort node (k.grpId i) with
      | some p => if bitAt (k.cl.core.rd (pageFb p) 0x28) 2 then (true, k.onCore (·.setFld (pageFb p) 0x28 2 1 0)) else (false, k)
      | none => (false, k)
    (k.sendTo node { base with ftype := 0x11, f4 := BitVec.ofNat 64 (crc64 (l.map (·.1))),
                               f5 := if flip then sum ^^^ BitVec.ofNat 64 (2 ^ 52) else sum,
                               count := BitVec.ofNat 32 (redCount fmt l.length) }).2

/-- Stage a chunk for a STEP and send it. -/
def Pkg.stageChunk (k : Pkg) (q e st : Nat) (l : List PB) : Pkg :=
  match k.collRun q e with
  | none => k
  | some run =>
    let k := k.setCollRun q e (some { run with stage := kput run.stage [] st l, unacked := run.unacked ++ [(st, 0)] })
    k.sendChunk q e st

/-- Bytes in an engine's staging buffer (R297). -/
def Pkg.stagedBytes (k : Pkg) (q : Nat) : Nat :=
  ((k.fab.runs.filter (fun e => decide (e.1 / 64 = q))).map (fun e => match e.2 with
    | some r => r.stage.length * (256 * ceChunk (k.collEntry q (e.1 % 64)))
    | none => 0)).sum

/-- The first chunk that waits leaves: one of the own first share once the 4 MiB staging buffer has room for it, where it is read;
ALL_GATHER copies the own share. A received one that queued behind them is staged already (R297; log entry 317). -/
def Pkg.collNext (k : Pkg) (q e : Nat) : Pkg :=
  match k.collRun q e with
  | none => k
  | some run =>
    match run.todo with
    | [] => k
    | st :: rest =>
      let ws := k.collEntry q e
      let i := ceGrp ws
      let job := k.grpJob i
      let go (x : Pkg) : Pkg := x.setCollRun q e (some { run with todo := rest })
      if cePer ws ≤ st then (go k).stageChunk q e st (kget run.stage [] st)
      else if 2 ^ 22 < k.stagedBytes q + 256 * ceChunk ws then k
      else
        let share := (ringShares (ceOp ws) (k.grpN i) (k.grpRank i) 0).1
        let (l, k) := k.collRead job (ceSrc ws) (srcGranule ws share st) (ceChunk ws)
        let k := if ceOp ws = 3 then k.collWrite job (ceDst ws) (dstGranule ws share st) l else k
        (go k).stageChunk q e st l

/-- Every chunk that waits and may leave does, in order of STEP. -/
def Pkg.collPump (k : Pkg) (q e : Nat) : Pkg :=
  match k.collRun q e with
  | none => k
  | some run => iter run.todo.length (fun _ x => x.collNext q e) k

/-- A chunk received or reduced goes on, behind those that still wait. -/
def Pkg.passChunk (k : Pkg) (q e st : Nat) (l : List PB) : Pkg :=
  match k.collRun q e with
  | none => k
  | some run =>
    if run.todo = [] then k.stageChunk q e st l
    else k.setCollRun q e (some { run with stage := kput run.stage [] st l, todo := run.todo ++ [st] })

/-- Granules of the source and of the destination of a run (R296). -/
def srcGranules (ws : List W64) (n : Nat) : Nat := if ceOp ws = 3 then ceShare ws else n * ceShare ws
/-- Granules of the destination of a run. -/
def dstGranules (ws : List W64) (n : Nat) : Nat := if ceOp ws = 2 then ceShare ws else n * ceShare ws

/-- Start a run: its addresses are decoded, and the chunks of the first ring step leave (R256, R297). -/
def Pkg.collStart (k : Pkg) (q e gen : Nat) : Pkg :=
  let ws := k.collEntry q e
  let i := ceGrp ws
  let job := k.grpJob i
  let n := k.grpN i
  match (k.collFault job (ceSrc ws) 0 (srcGranules ws n)).or (k.collFault job (ceDst ws) 0 (dstGranules ws n)) with
  | some (_, r) => k.collDeny q e r
  | none =>
    (k.setCollRun q e (some { gen := gen, got := 0, unacked := [], rx := [], todo := List.range (cePer ws), stage := [],
                              done := false, freed := false, restart := false })).collPump q e

/-- Departure offset 16: every trigger tablet that has completed a generation since the entry's last run starts one run,
once the last one's chunks are all acknowledged (R297, R301); a run triggered in a group cut's tick waits one tick (R373). -/
def Pkg.collTrigger (k : Pkg) (defer : Nat → Bool) : Pkg :=
  k.fab.coll.foldl (fun x en =>
    let q := en.1 / 64
    let e := en.1 % 64
    let ws := en.2
    if bitAt (dW ws 0) 63 = false then x
    else match x.cl.core.dieMap 0 (ceTrig ws).1 with
      | none => x
      | some g =>
        let gen := x.cl.core.tbGen (pageTb g) (dieTbOff (ceTrig ws).2)
        let busy := (x.collRun q e).isSome
        let job := x.grpJob (ceGrp ws)
        if gen = kget x.fab.lastGen 0 en.1 ∨ busy ∨ defer job then x
        else
          let x := x.onFab (fun y => { y with lastGen := kput y.lastGen 0 en.1 gen })
          if x.ceBad ws then (x.collEvent q ws 0x0A0F).onClus (·.faultJob job 0x0A0F)
          else x.collStart q e gen) k

/-- Keep what failed in a digest check: the step, the chunk and both sums (R300). R314's detail bytes have no place for them (log
entry 318). -/
def Pkg.digNote (k : Pkg) (q st per : Nat) (got formed : W64) : Pkg :=
  k.onFab (fun y => { y with digFail := kput y.digFail none q (some
    { step := st / max 1 per, chunk := st % max 1 per, got := got, formed := formed }) })

/-- S_in + S_own of a reduced chunk, as its output's VSUM is to be (R299). -/
def sumDue (fmt : Nat) (sIn : W64) (own : List Nat) : W64 :=
  if fmt = 6 then sIn + vsumBits fmt own else to64 ((f64.decode sIn.toNat).add (vsum fmt own))

/-- End a run with the stop signal (R300, R301). -/
def Pkg.collFail (k : Pkg) (q e code reason : Nat) : Pkg :=
  let ws := k.collEntry q e
  ((k.collEvent q ws code).setCollRun q e none).stopEmit (ceGrp ws) reason

/-- COLL_DATA: bytes of the chunk expected next; a chunk already accepted is dropped (R301). -/
def Pkg.collData (k : Pkg) (f : Frame) : Pkg :=
  let q := f.txn.toNat / 64 % 4
  let e := f.txn.toNat % 64
  match k.collRun q e with
  | none => k
  | some run =>
    if f.step.toNat ≠ run.got ∨ run.freed then k
    else
      let l : List PB := f.payload.zipIdx.map (fun (b : Byte × Nat) => (b.1, bitAt f.f4 (b.2 / 32)))
      let rx := if f.offset.toNat = 0 then l else if f.offset.toNat = run.rx.length then run.rx ++ l else run.rx
      k.setCollRun q e (some { run with rx := rx })

/-- Acknowledge a chunk. -/
def Pkg.collAckSend (k : Pkg) (f : Frame) : Pkg :=
  (k.sendTo f.srcNode.toNat { ftype := 0x12, fvc := 1, fgroup := f.fgroup, txn := f.txn, step := f.step, count := f.count }).2

/-- A checked chunk of a STEP is taken: reduced with the own chunk or copied, written where it is a result, and sent on
(R297). `l` is the chunk to go on with. -/
def Pkg.collTake (k : Pkg) (q e : Nat) (run : CollRun) (l : List PB) : Pkg :=
  let ws := k.collEntry q e
  let i := ceGrp ws
  let n := k.grpN i
  let job := k.grpJob i
  let per := cePer ws
  let st := run.got
  let s := st / per
  let c := st % per
  let rs := (ringSteps (ceOp ws) n).1
  let share := (ringShares (ceOp ws) n (k.grpRank i) s).2
  let total := totalSteps ws n
  match (if rs ≤ s + 1 then k.collFault job (ceDst ws) (dstGranule ws share c) (ceChunk ws) else none) with
  | some (_, r) => k.collDeny q e r
  | none =>
    let k := k.setCollRun q e (some { run with got := st + 1, rx := [], done := decide (st + 1 = total) })
    let k := if rs ≤ s + 1 then k.collWrite job (ceDst ws) (dstGranule ws share c) l else k
    if st + per < total then k.passChunk q e (st + per) l else k

/-- A chunk whose CRC64 and COUNT hold, in a reduce-scatter step: it is added to the own one and the sum is checked (R297,
R299). -/
def Pkg.collReduce (k : Pkg) (f : Frame) (q e : Nat) (run : CollRun) : Pkg :=
  let ws := k.collEntry q e
  let i := ceGrp ws
  let job := k.grpJob i
  let fmt := ceFmt ws
  let per := cePer ws
  let st := run.got
  let rx := run.rx
  let share := (ringShares (ceOp ws) (k.grpN i) (k.grpRank i) (st / per)).2
  let at_ := srcGranule ws share (st % per)
  match k.collFault job (ceSrc ws) at_ (ceChunk ws) with
  | some (_, r) => k.collDeny q e r
  | none =>
    let (own, k) := k.collRead job (ceSrc ws) at_ (ceChunk ws)
    let a := redElems (rx.length + 1) fmt rx
    let b := redElems (own.length + 1) fmt own
    let o := List.zipWith (fun x y => (redAdd fmt x.1 y.1, x.2 || y.2)) a b
    let skip := sumSkip fmt a || sumSkip fmt b || sumSkip fmt o
    if !skip && !sumOk fmt f.f5 (a.map (·.1)) (b.map (·.1)) (o.map (·.1)) then
      (k.digNote q st per (sumDue fmt f.f5 (b.map (·.1))) (vsumBits fmt (o.map (·.1)))).collFail q e 0x0A0D 1
    else
      let k := if skip then match k.routePort f.srcNode.toNat f.fgroup.toNat with
          | some p => k.onCore (·.incSat (pageFb p) 0x9C 1)
          | none => k
        else k
      let l : List PB := o.flatMap (fun x => (leBytes (redBytes fmt) x.1).map (fun y => (y, x.2)))
      (k.collAckSend f).collTake q e run l

/-- COLL_DIG: the checks of R299, then the chunk is taken and acknowledged, or the run stops (R300). -/
def Pkg.collDig (k : Pkg) (f : Frame) : Pkg :=
  let q := f.txn.toNat / 64 % 4
  let e := f.txn.toNat % 64
  match k.collRun q e with
  | none => k
  | some run =>
    let st := f.step.toNat
    if st < run.got then k.collAckSend f
    else if run.got < st ∨ run.freed then k
    else
      let ws := k.collEntry q e
      let per := cePer ws
      let rx := run.rx
      let crc := crc64 (rx.map (·.1))
      if rx.length ≠ 256 * ceChunk ws ∨ crc ≠ f.f4.toNat ∨ f.count.toNat ≠ redCount (ceFmt ws) rx.length then
        (k.digNote q st per f.f4 (BitVec.ofNat 64 crc)).collFail q e 0x0A0C 1
      else if st / per < (ringSteps (ceOp ws) (k.grpN (ceGrp ws))).1 then k.collReduce f q e run
      else (k.collAckSend f).collTake q e run rx

/-- COLL_ACK: the chunk needs no resend and leaves the staging buffer, and one that waited for room may leave (R297, R301). -/
def Pkg.collAck (k : Pkg) (f : Frame) : Pkg :=
  let q := f.txn.toNat / 64 % 4
  let e := f.txn.toNat % 64
  match k.collRun q e with
  | none => k
  | some run =>
    let st := f.step.toNat
    let run := { run with unacked := run.unacked.filter (fun u => decide (u.1 ≠ st)),
                          stage := if run.unacked.any (fun u => u.1 == st) then kdel run.stage st else run.stage }
    if run.freed ∧ run.unacked = [] ∧ run.todo = [] then k.setCollRun q e none
    else (k.setCollRun q e (some run)).collPump q e

/-- COLL_TIMEOUT: the oldest unacknowledged chunk is sent again, up to three times; then the stop signal (R301). -/
def Pkg.collTimeout (k : Pkg) (q e : Nat) : Pkg :=
  match k.collRun q e with
  | none => k
  | some run =>
    match run.unacked with
    | [] => k
    | (st, n) :: rest =>
      if 3 ≤ n then k.collFail q e 0x0A0E 2
      else (k.setCollRun q e (some { run with unacked := (st, n + 1) :: rest })).sendChunk q e st

/-- The first Guard after a run's last write: REMOTE_RELEASE of the destination, and the ARRIVE on DONE_TAB (R297). -/
def Pkg.collGuard (k : Pkg) : Pkg :=
  k.fab.runs.foldl (fun x en => match en.2 with
    | none => x
    | some run =>
      if run.done = false ∨ run.freed then x
      else
        let q := en.1 / 64
        let e := en.1 % 64
        let ws := x.collEntry q e
        let i := ceGrp ws
        let d := ceDst ws
        let g := dstGranules ws (x.grpN i)
        let clus := if d.kind = 6 then x.cl.core.groupClus d.group else if d.kind = 2 then (x.collClu d).toList else []
        let x := x.onClus (fun m => { m with tt := { m.tt with
          sig0 := m.tt.sig0 ++ clus.map (fun clu => Sig0.release clu d.store d.region g (x.grpJob i)) } })
        let x := match x.cl.core.dieMap 0 (ceDone ws).1 with
          | some gd => x.onClus (fun m => (m.tabArrive (pageTb gd) (dieTbOff (ceDone ws).2)).2)
          | none => x
        x.setCollRun q e (if run.unacked = [] ∧ run.todo = [] then none else some { run with freed := true })) k

/-! ## The commands of this part -/

/-- COLL_DATA (R297). -/
def execCollData (p : Port) (f : Frame) (s : State) : Out :=
  let f := { f with ftype := 0x10 }
  .next (s.onPkg (fun k => k.takeFrame p.val f (·.collData f)))
/-- COLL_DIG (R299). -/
def execCollDig (p : Port) (f : Frame) (s : State) : Out :=
  let f := { f with ftype := 0x11 }
  .next (s.onPkg (fun k => k.takeFrame p.val f (·.collDig f)))
/-- COLL_ACK (R301). -/
def execCollAck (p : Port) (f : Frame) (s : State) : Out :=
  let f := { f with ftype := 0x12 }
  .next (s.onPkg (fun k => k.takeFrame p.val f (·.collAck f)))
/-- COLL_TIMEOUT (R301). -/
def execCollTimeout (q : Quad) (e : Fin 64) (s : State) : Out := .next (s.onPkg (·.collTimeout q.val e.val))

end Sys2Proof.Machine
end

