-- ==== Sys2Proof/Machine/Jobs.lean ====
section
/-!
DEFINITION. What the driver sees (R326–R341): the write log, doorbells, completion rings with their staging, host
completions, the job and device states, and how a command is accepted, rejected and completed.
-/
namespace Sys2Proof.Machine

/-! ## Job and device states (R338, R340) -/

/-- State of a job: 0 FREE, 1 CREATED, 2 READY, 3 RUNNING, 4 SUSPENDED, 5 STOPPING, 6 FAULTED. -/
def Pkg.jobState (k : Pkg) (j : Nat) : Nat := bitsAt (k.cwRd 3 (0x40 + 4 * (j / 8))) (4 * (j % 8)) 4
/-- Set it in the status mirror. -/
def Pkg.setJobState (k : Pkg) (j x : Nat) : Pkg :=
  k.cwWr 3 (0x40 + 4 * (j / 8)) (putBits (k.cwRd 3 (0x40 + 4 * (j / 8))) (4 * (j % 8)) 4 x)
/-- Whether quadrant q is in service. -/
def Pkg.quadIn (k : Pkg) (q : Nat) : Bool := bitAt (k.cwRd 0 0x44) (24 + q)

/-- A job beyond its state code. -/
def Pkg.job (k : Pkg) (j : Nat) : Option JobS := kget k.jobs none j
/-- Set it. -/
def Pkg.setJob (k : Pkg) (j : Nat) (x : Option JobS) : Pkg := { k with jobs := kput k.jobs none j x }
/-- Change a job that exists. -/
def Pkg.onJob (k : Pkg) (j : Nat) (f : JobS → JobS) : Pkg :=
  match k.job j with
  | some x => k.setJob j (some (f x))
  | none => k

/-! ## Completion rings (R331, R335, R336) -/

/-- Control page of ring j. -/
def ringPage (j : Nat) : Nat := 16 + j
/-- ENABLE of ring j. -/
def Pkg.ringOn (k : Pkg) (j : Nat) : Bool := bitAt (k.cwRd (ringPage j) 0x40) 31
/-- Commands of the submission ring. -/
def Pkg.sqSize (k : Pkg) (j : Nat) : Nat := 2 ^ (bitsAt (k.cwRd (ringPage j) 0x40) 0 4 + 4)
/-- Records of the completion ring. -/
def Pkg.cqSize (k : Pkg) (j : Nat) : Nat := 2 ^ (bitsAt (k.cwRd (ringPage j) 0x40) 8 4 + 4)
/-- A 64-bit word of the control window. -/
def Pkg.cwRd8 (k : Pkg) (page off : Nat) : Nat := (k.cwRd page off).toNat + 2 ^ 32 * (k.cwRd page (off + 4)).toNat
/-- What a ring's page does not hold. -/
def Pkg.ringS (k : Pkg) (j : Nat) : RingS := kget k.att.ring ⟨0, 0, true⟩ j
/-- Set it. -/
def Pkg.setRingS (k : Pkg) (j : Nat) (r : RingS) : Pkg := k.onAtt (fun a => { a with ring := kput a.ring ⟨0, 0, true⟩ j r })

/-- Bytes written to host memory. -/
def Pkg.hostWrite (k : Pkg) (a : Nat) (l : List Byte) : Pkg := k.onAtt (fun x => { x with hostWr := x.hostWr ++ [(a, l)] })

/-- The 32 bytes of a completion record (R335). -/
def CplRec.bytes (r : CplRec) (phase : Bool) : List Byte :=
  [BitVec.ofNat 8 r.kind, BitVec.ofNat 8 r.status, if phase then 1 else 0, BitVec.ofNat 8 r.job] ++
    leBytes 4 r.tag.toNat ++ leBytes 8 r.tick.toNat ++ leBytes 8 r.result.toNat ++ leBytes 2 (r.entry % 4096) ++
    [BitVec.ofNat 8 r.circuit, BitVec.ofNat 8 r.slot, BitVec.ofNat 8 (r.die % 128), 0, 0, 0]

/-- Whether ring j takes a record now: enabled, not full, and the Attach Link up (R319, R336). -/
def Pkg.cqRoom (k : Pkg) (j : Nat) : Bool :=
  k.ringOn j && decide ((k.link salLink).step = .up) &&
    decide (((k.ringS j).cqw + 1) % k.cqSize j ≠ bitsAt (k.cwRd (ringPage j) 0x58) 0 16)

/-- Write one record to ring j; PHASE flips at each wrap. -/
def Pkg.cqWrite (k : Pkg) (j : Nat) (r : CplRec) : Pkg :=
  let x := k.ringS j
  let k := k.hostWrite (k.cwRd8 (ringPage j) 0x50 + 32 * x.cqw) (r.bytes x.phase)
  let w := (x.cqw + 1) % k.cqSize j
  k.setRingS j { x with cqw := w, phase := if w = 0 then !x.phase else x.phase }

/-- Records of ring j that wait. -/
def Pkg.stagedOf (k : Pkg) (j : Nat) : List CplRec := kget k.att.staged [] j
/-- Set them. -/
def Pkg.setStaged (k : Pkg) (j : Nat) (l : List CplRec) : Pkg :=
  k.onAtt (fun a => { a with staged := kput a.staged [] j l })

/-- Write waiting records of ring j while it has room; `n` bounds how many. -/
def Pkg.cqDrain (k : Pkg) (j : Nat) : Nat → Pkg
  | 0 => k
  | n + 1 =>
    match k.stagedOf j with
    | [] => k
    | r :: rest => if k.cqRoom j then Pkg.cqDrain ((k.setStaged j rest).cqWrite j r) j n else k

/-- Send a record to ring j: written at once, or behind the records that wait. -/
def Pkg.complete (k : Pkg) (j : Nat) (r : CplRec) : Pkg :=
  let k := k.setStaged j (k.stagedOf j ++ [r])
  k.cqDrain j (k.stagedOf j).length

/-- A record of KIND 1 or 3 formed now. -/
def Pkg.mkRec (k : Pkg) (kind status job : Nat) (tag : W32) (result : Nat) : CplRec :=
  ⟨kind, status, job, tag, k.cl.core.tick, BitVec.ofNat 64 result, 0, 0, 0, 0⟩

/-! ## Commands (R333–R335) -/

/-- STATUS codes of R335. -/
def stOk : Nat := 0
/-- INVALID. -/
def stInvalid : Nat := 1
/-- STATE_CONFLICT. -/
def stConflict : Nat := 2
/-- NO_RESOURCE. -/
def stNoRes : Nat := 3
/-- DENIED. -/
def stDenied : Nat := 4
/-- PREEMPTED. -/
def stPreempted : Nat := 5
/-- FAILED. -/
def stFailed : Nat := 6

/-- A command of a ring ends: its record is sent, and it no longer runs. -/
def Pkg.cmdEnd (k : Pkg) (ring opc job : Nat) (tag : W32) (status result : Nat) : Pkg :=
  let k := k.onAtt (fun a => { a with cmds := a.cmds.filter (fun c => decide (c.ring ≠ ring ∨ c.opc ≠ opc ∨ c.tag ≠ tag)) })
  k.complete ring (k.mkRec 1 status job tag result)

/-- A command goes on running: its record comes later. -/
def Pkg.cmdRun (k : Pkg) (ring opc job : Nat) (tag : W32) : Pkg :=
  if k.att.cmds.any (fun c => decide (c.ring = ring ∧ c.opc = opc ∧ c.tag = tag)) then k
  else k.onAtt (fun a => { a with cmds := a.cmds ++ [⟨ring, opc, job, tag⟩] })

/-- AT_CMD_REJ with the OPC and the state: a command, or an entry or section it brings, is rejected (R6, R334). -/
def Core.rejectNote (c : Core) (ring opc : Nat) (tag : W32) (status state : Nat) : Core :=
  c.record pageAt 0x0B0A sevInfo (if ring = 15 then 15 else ring) (linkLoc salLink)
    (detailAt 0 opc status ring state tag.toNat)

/-- INVALID or STATE_CONFLICT: no side effect, and AT_CMD_REJ (R334). A command waits while no Signal Box serves (R409). -/
def Pkg.cmdReject (k : Pkg) (ring opc job : Nat) (tag : W32) (status state : Nat) : Pkg :=
  if k.sbUp then (k.onCore (·.rejectNote ring opc tag status state)).cmdEnd ring opc job tag status 0 else k

/-- A job command: checked against the device and job states in one step with its first change (R333, R334, R339). The
Signal Box carries it out, so nothing happens while none serves (R4, R409). -/
def Pkg.jobCmd (k : Pkg) (job opc : Nat) (tag : W32) (dev states : List Nat) (f : Pkg → Pkg) : Pkg :=
  if k.sbUp = false then k
  else if job = 15 then k.cmdReject 15 opc job tag stInvalid k.devState
  else if k.devState ∉ dev ∨ k.jobState job ∉ states then k.cmdReject job opc job tag stConflict (k.jobState job)
  else f k

/-- A device command (R341), which the Signal Box carries out too. -/
def Pkg.devCmd (k : Pkg) (opc : Nat) (tag : W32) (dev : List Nat) (ok : Bool) (f : Pkg → Pkg) : Pkg :=
  if k.sbUp = false then k
  else if k.devState ∉ dev ∨ ok = false then k.cmdReject 15 opc 15 tag stConflict k.devState else f k

/-- End the running commands of a ring as PREEMPTED (R335). -/
def Pkg.preempt (k : Pkg) (ring : Nat) : Pkg :=
  (k.att.cmds.filter (fun c => decide (c.ring = ring))).foldl (fun x c => x.cmdEnd c.ring c.opc c.job c.tag stPreempted 0) k

/-- A change of job state that no command made: a KIND 3 record with its reason (R340). -/
def Pkg.jobMoves (k : Pkg) (j state reason : Nat) : Pkg :=
  let k := k.setJobState j state
  k.complete j (k.mkRec 3 0 j 0 (state + reason % 65536 * 65536))

/-- Give up a checkpoint in progress: its marks clear and what was captured is dropped (R372). -/
def Pkg.dropCut (k : Pkg) (j : Nat) : Pkg :=
  k.onHbm (fun b => { b with
    cuts := kput b.cuts none j none
    marks := b.marks.filter (fun e => match e.2 with
      | some c => decide (c.job ≠ j)
      | none => true)
    staged := b.staged.filter (fun e => decide (e.1.job ≠ j))
    cow := (b.cow.map (fun e => (e.1, e.2.filter (fun x => decide (x.1.job ≠ j))))).filter (fun e => decide (e.2 ≠ [])) })

/-- A job that is RUNNING, SUSPENDED or STOPPING moves to FAULTED: its circuits are aborted, its running command is
PREEMPTED, and the reason goes to its ring (R335, R338, R340). -/
def Pkg.jobFault (k : Pkg) (j reason : Nat) : Pkg :=
  if j < 15 ∧ 3 ≤ k.jobState j ∧ k.jobState j ≤ 5 then
    let k := (k.onClus (·.abortJob j)).preempt j
    (k.dropCut j).jobMoves j 6 reason
  else k

/-- Every running command but one ends PREEMPTED, and every job that runs, is suspended or is stopping faults with reason
RESET: a reset or a device fault (R341). -/
def Pkg.endAll (k : Pkg) (but : Option RunCmd) : Pkg :=
  let k := (k.att.cmds.filter (fun c => decide (some c ≠ but))).foldl (fun x c =>
    x.cmdEnd c.ring c.opc c.job c.tag stPreempted 0) k
  iter 15 (fun j x => x.jobFault j 0x0E0C) k

/-- Firmware stops every job that hardware has faulted (R15, R33, R128, R178). -/
def Pkg.stopFaulted (k : Pkg) : Pkg :=
  let l := k.cl.tt.faulted
  let k := k.onClus (fun m => { m with tt := { m.tt with faulted := [] } })
  l.foldl (fun x e => x.jobFault e.1 e.2) k

/-! ## Host completions (R29, R336) -/

/-- The record of a host completion. -/
def ofHostCompl (h : HostCompl) : CplRec :=
  { kind := 2, status := 0, job := h.job.val, tag := h.tag, tick := h.tick, result := BitVec.ofNat 64 h.value.toNat,
    entry := h.entry.toNat, circuit := h.circuit.toNat, slot := (if h.region then 16 else 0) + h.slot.toNat,
    die := h.die.toNat }

/-- HOST_COMPLETION_RECORD: written to the job's ring or staged; with 512 staged it is dropped, and the job faults with
AT_CPL_LOST (R336). -/
def Pkg.hostCompletion (k : Pkg) (h : HostCompl) : Pkg :=
  if !k.att.cplFly.elem h then k
  else
    let k := k.onAtt (fun a => { a with cplFly := dropFirst (· == h) a.cplFly })
    let j := h.job.val
    if j = 15 then k
    else if !k.cqRoom j ∧ 512 ≤ ((k.stagedOf j).filter (fun r => decide (r.kind = 2))).length then
      (k.onCore (·.record pageAt 0x0B0B sevCont j (linkLoc salLink)
        (detailAt 0 0 0 j (k.jobState j) h.tag.toNat))).jobFault j 0x0B0B
    else k.complete j (ofHostCompl h)

/-! ## The write log and the doorbells (R325–R330) -/

/-- Whether a page of the control window is emulated. -/
def emulated (page : Nat) : Bool := decide ((16 ≤ page ∧ page < 33) ∨ (256 ≤ page ∧ page < 4096))

/-- A host write to an emulated page: logged, or TBUSY; the STATUS of its answer (R326). -/
def Pkg.emuWrite (k : Pkg) (page off size : Nat) (data : W64) : Nat × Pkg :=
  if cwAligned off size = false then (2, k)
  else
    let force := bitAt (k.cl.core.rd pageAt 0x28) 1
    if force ∨ 4096 ≤ k.att.log.length then
      let k := if force then k.onCore (·.setFld pageAt 0x28 1 1 0) else k
      let k := k.cwWr 3 0x54 (satInc32 (k.cwRd 3 0x54))
      let k := if k.att.tbusyRec then k
        else (k.onAtt (fun a => { a with tbusyRec := true })).onCore (·.record pageAt 0x0B07 sevInfo 15 (linkLoc salLink)
          (detailAt (page * 4096 + off) 0 1 0xFF 0 (k.cwRd 3 0x48).toNat) force)
      (1, k)
    else
      let k := k.cwWr 3 0x48 (k.cwRd 3 0x48 + 1)
      (0, k.onAtt (fun a => { a with log := a.log ++ [⟨page, off, size, data⟩] }))

/-- A doorbell: the ring's tail, or AT_DOORBELL_BAD (R330). -/
def Pkg.doorbell (k : Pkg) (j tail : Nat) : Pkg :=
  if k.ringOn j = false ∨ k.sqSize j ≤ tail then
    k.onCore (·.record pageAt 0x0B09 sevInfo 15 (linkLoc salLink) (detailAt (0x1040 + 4 * j) 0 0 j 0 tail))
  else k.setRingS j { k.ringS j with tail := tail }

/-- FWL_GO: the ROM starts reading; dropped outside ROM_WAIT and while a load runs (R410, R411). -/
def Pkg.fwlGo (k : Pkg) : Pkg :=
  let w := k.cwRd 0 0x8C
  if k.devState ≠ 0 ∨ bitsAt w 28 3 = 1 ∨ bitsAt w 28 3 = 2 ∨ (k.link salLink).step ≠ .up then k
  else k.cwWr 0 0x8C (BitVec.ofNat 32 (2 ^ 28 + min 65535 (bitsAt w 0 16 + 1)))

/-- A host write of word `off` of AT_FWL_ADDR, AT_FWL_LEN or AT_FWL_CTRL: taken in ROM_WAIT alone (R410). -/
def Pkg.fwlWrite (k : Pkg) (off : Nat) (v : W32) : Pkg :=
  if k.devState ≠ 0 then k
  else if off = 0x80 ∨ off = 0x84 then k.cwWr 0 off v
  else if off = 0x88 then k.cwWr 0 off (v &&& 0x01FFFFFF)
  else if off = 0x8C ∧ bitAt v 31 then k.fwlGo
  else k

/-- A host write to the control window; the STATUS of its answer. Writes to the other hardware pages and to reserved pages
are dropped (R325). -/
def Pkg.cwWrite (k : Pkg) (page off size : Nat) (data : W64) : Nat × Pkg :=
  if cwAligned off size = false then (2, k)
  else if emulated page then k.emuWrite page off size data
  else if page = 1 ∧ 0x40 ≤ off ∧ off < 0x80 then
    let j := (off - 0x40) / 4
    let k := k.doorbell j (bitsAt data 0 16)
    (0, if size = 8 then k.doorbell (j + 1) (bitsAt data 32 16) else k)
  else if page = 0 then
    let k := k.fwlWrite off (BitVec.ofNat 32 (bitsAt data 0 32))
    (0, if size = 8 then k.fwlWrite (off + 4) (BitVec.ofNat 32 (bitsAt data 32 32)) else k)
  else (0, k)

/-- WR_FULL or WR_PARTIAL of the host (R321, R325). -/
def Pkg.hostWr (k : Pkg) (m : SalMsg) : Pkg :=
  if m.space then
    let a := m.addr.toNat / 64 * 64
    let run : Option (Nat × Nat) := if m.op = 4 then some (0, 64) else maskRun m.byteMask
    match run with
    | none => k.salErr m false
    | some (lo, n) =>
      let off := a % 4096 + lo
      if m.resv ∨ 2 ^ 24 ≤ a then k.salErr m false
      else
        let (st, k) := k.cwWrite (a / 4096) off n (BitVec.ofNat 64 (leNat ((m.data.drop lo).take n)))
        k.salSend { op := 0x20, txn := m.txn, status := BitVec.ofNat 4 st }
  else k.hostWrMem m

/-! ## The commands of this part -/

/-- WR_FULL (R321, R325). -/
def execWrFull (m : SalMsg) (s : State) : Out := .next (s.onPkg (·.hostWr { m with op := 4 }))
/-- WR_PARTIAL (R321, R325). -/
def execWrPartial (m : SalMsg) (s : State) : Out := .next (s.onPkg (·.hostWr { m with op := 5 }))
/-- EMULATED_WRITE (R326). -/
def execEmulatedWrite (page : Fin 4096) (off : BitVec 12) (size : Fin 65) (data : W64) (s : State) : Out :=
  .next (s.onPkg (fun k => if emulated page.val then (k.emuWrite page.val off.toNat size.val data).2 else k))
/-- DOORBELL (R330). -/
def execDoorbell (j : Fin 16) (tail : BitVec 16) (s : State) : Out := .next (s.onPkg (·.doorbell j.val tail.toNat))
/-- HOST_COMPLETION_RECORD (R336). -/
def execHostCompletionRecord (h : HostCompl) (s : State) : Out := .next (s.onPkg (·.hostCompletion h))

end Sys2Proof.Machine
end

