-- ==== Sys2Proof/Machine/Relief.lean ====
section
/-!
DEFINITION. Relief, rotation, test slices, the fence map and drills (R344–R380): the mirror and the copier, cluster and
die relief, the phases of a rotation, the out-of-service test set, and drill injections.
-/
namespace Sys2Proof.Machine

/-- Apply a change to the relief part. -/
def Pkg.onBi (k : Pkg) (f : BiS → BiS) : Pkg := { k with bi := f k.bi }
/-- The relief or rotation in progress of a region. -/
def Pkg.move (k : Pkg) (rg : Nat) : Option Move := kget k.bi.moves none rg
/-- Set it. -/
def Pkg.setMove (k : Pkg) (rg : Nat) (x : Option Move) : Pkg := k.onBi (fun b => { b with moves := kput b.moves none rg x })
/-- The test set a cluster runs. -/
def Pkg.testOf (k : Pkg) (clu : Nat) : Option TestRun := kget k.bi.tests none clu
/-- Set it. -/
def Pkg.setTest (k : Pkg) (clu : Nat) (x : Option TestRun) : Pkg :=
  k.onBi (fun b => { b with tests := kput b.tests none clu x })

/-- Show MODE, RELIEF, FENCED and SLICE of a region in BI_STATUS. -/
def Pkg.biShow (k : Pkg) (rg : Nat) : Pkg :=
  let p := pageBI rg
  let test := (List.range 5).findSome? (fun i => k.testOf (5 * rg + i))
  let mode := match k.move rg with
    | some mv => mv.mode
    | none => if test.isSome then 1 else 0
  k.onCore (fun c =>
    let c := (c.setFld p 0x40 29 3 mode).setFld p 0x40 26 3 (mapRelief (c.slotMap rg))
    let c := c.setFld p 0x40 21 5 (c.fld p 0x48 0 5)
    match test with
    | some t => c.setFld p 0x40 14 7 (t.left.headD 0)
    | none => c)

/-! ## The fence map (R364, R365) -/

/-- FUSE, TEST, FIELD and DRILL of an entry as a number, bits [15:12] of the entry. -/
def FenceEnt.flags (e : FenceEnt) : Nat :=
  (if e.fuse then 1 else 0) + (if e.test then 2 else 0) + (if e.field then 4 else 0) + (if e.drill then 8 else 0)

/-- Entry of a place in the fence map. -/
def Pkg.fenceOf (k : Pkg) (place : Nat) : Option FenceEnt := k.bi.fence.find? (fun e => e.place == place)

/-- Insert an entry in ascending PLACE order; the map holds 2,048 (R364, R366). -/
def fenceIns (e : FenceEnt) : List FenceEnt → List FenceEnt
  | [] => [e]
  | x :: l => if e.place < x.place then e :: x :: l else if e.place = x.place then e :: l else x :: fenceIns e l

/-- Change an entry of the fence map and record FW_FENCE or FW_UNFENCE (R364). -/
def Pkg.fencePut (k : Pkg) (e : FenceEnt) (code : Nat) : Pkg :=
  let d := detailBi 0xFF 0xFF 0xFF 0xFF e.cause 0 e.flags k.cl.core.tick.toNat
  let full : Bool := decide (2048 ≤ k.bi.fence.length) && (k.fenceOf e.place).isNone
  let k := if full then k else k.onBi (fun b => { b with fence := fenceIns e b.fence })
  k.onCore (·.fwEvent code sevInfo 15 e.place d)

/-- Fence a unit, cluster or die in service, field-found (R363, R364). -/
def Pkg.fenceField (k : Pkg) (place cause : Nat) (drill : Bool) : Pkg :=
  let t := k.cl.core.tick.toNat
  let e : FenceEnt := match k.fenceOf place with
    | some e => { e with cause := cause, drill := drill, field := true, count := min 4095 (e.count + 1),
                         last := if drill then e.last else t + 1,
                         stay := e.stay || (!drill && decide (e.last ≠ 0 ∧ t < e.last - 1 + 2 ^ 24)) }
    | none => { place := place, cause := cause, drill := drill, field := true, test := false, fuse := false, count := 1,
                last := if drill then 0 else t + 1, stay := false }
  k.fencePut e 0x0E42

/-- Whether a place stays fenced until the next cold start (R365). -/
def Pkg.stays (k : Pkg) (place : Nat) : Bool := ((k.fenceOf place).map (fun e => e.stay)).getD false

/-- Return a fenced place to service: FIELD clears (R365). -/
def Pkg.unfence (k : Pkg) (place : Nat) : Pkg :=
  match k.fenceOf place with
  | some e => k.fencePut { e with field := false, drill := false } 0x0E43
  | none => k

/-! ## The test set (R363) -/

/-- Slices of the whole set. -/
def allSlices : List Nat := List.range 119

/-- Start the test set, or the slices asked for, on an out-of-service cluster. -/
def Pkg.startTest (k : Pkg) (clu : Nat) (slices : List Nat) (back : Bool) : Pkg :=
  (k.setTest clu (some { left := slices, ran := 0, failed := 0, back := back, drill := false })).biShow (clu / 5)

/-- End a running slice; its result is discarded (R363). -/
def Pkg.stopTest (k : Pkg) (clu : Nat) : Pkg := (k.setTest clu none).biShow (clu / 5)

/-- A tested cluster of a DIAG_RUN adds to its result, which completes when every cluster is tested (R375); the
completion itself is sent by the caller. -/
def DiagRun.add (d : DiagRun) (clu ran failed : Nat) : DiagRun :=
  if d.left.elem clu && !d.wait then { d with left := d.left.filter (· != clu), ran := d.ran + ran, failed := d.failed + failed } else d

/-- The set of a cluster ends: what it ran goes to the DIAG_RUN that asked for it. -/
def Pkg.endTest (k : Pkg) (clu : Nat) (t : TestRun) : Pkg :=
  (k.onBi (fun b => { b with tests := kput b.tests none clu none,
                             diags := b.diags.map (fun d => d.add clu t.ran t.failed) })).biShow (clu / 5)

/-- Whether a cluster of a region can serve as relief: out of service and not fenced. -/
def Core.reliefOk (c : Core) (rg : Nat) : Bool := !c.fenced (c.reliefOf rg)

/-- Whether an entry stands until the next cold start: fenced by fuse, by the start-up test or by the training record, or for
the second time in service (R365, R386). -/
def FenceEnt.lasting (e : FenceEnt) : Bool :=
  e.fuse || e.test || e.stay || (e.field && !e.drill && decide (e.last = 0))

/-- Whether an entry's place takes a cluster out of service: its die, itself or its unit, or a unit of its region (R387). -/
def FenceEnt.covers (e : FenceEnt) (clu : Nat) : Bool :=
  if e.place / 2 ^ 30 = 3 then decide (e.place / 2 ^ 23 % 32 < 24 ∧ placeGDie e.place = clu / 10)
  else if e.place / 2 ^ 30 = 0 ∧ 11 ≤ placeUnitNo e.place then decide (placeRegion e.place = clu / 5)
  else decide (placeCluster e.place = clu)

/-- Whether a cluster that passes its test set may return (R365). -/
def Pkg.mayReturn (k : Pkg) (clu : Nat) : Bool := !k.bi.fence.any (fun e => e.lasting && e.covers clu)

/-- A die fenced by relief returns as its quadrant's relief die once all its clusters have passed the full set (R365). -/
def Pkg.dieBack (k : Pkg) (g : Nat) : Pkg :=
  let held : Bool := match k.fenceOf (placeDie g 0) with
    | some e => e.field && !e.lasting
    | none => false
  if held && decide (k.cl.core.logicalDie g = 127) &&
      (List.range 10).all (fun i => (k.testOf (10 * g + i)).isNone && !k.cl.core.fenced (10 * g + i)) then
    k.unfence (placeDie g 0)
  else k

/-- The block post fences a cluster in service: its BI_FENCE bit, its entry in the fence map and its count of BI_CLUSTER (R352,
R363, R364). -/
def Pkg.fenceClu (k : Pkg) (clu cause : Nat) (drill : Bool) : Pkg :=
  let p := pageBI (clu / 5)
  ((k.onCore (·.setFence clu)).fenceField (placeClu clu) cause drill).onCore (fun c =>
    c.setFld p (0x80 + 8 * (clu % 5)) 16 8 (min 255 (c.fld p (0x80 + 8 * (clu % 5)) 16 8 + 1)))

/-- The block post fences a cluster out of service; where its region has no healthy relief cluster then, FW_RELIEF_EXHAUSTED is
recorded (R360, R363). -/
def Pkg.fenceSpare (k : Pkg) (clu cause slice : Nat) (drill : Bool) : Pkg :=
  let rg := clu / 5
  let k := k.fenceClu clu cause drill
  if k.cl.core.reliefOk rg then k
  else k.onCore (fun c => c.fwEvent 0x0E44 sevDegr 15 (placeRg rg)
    (detailBi 0xFF 0xFF (clu % 5) 0xFF cause slice 0 c.tick.toNat))

/-- TEST_SLICE_END (R363, R365). -/
def Pkg.sliceEnd (k : Pkg) (clu : Nat) (passed : Bool) (where_ : Nat) : Pkg :=
  match k.testOf clu with
  | none => k
  | some t =>
    match t.left with
    | [] => k
    | s :: rest =>
      let rg := clu / 5
      if k.bpUp rg = false then k else
      let p := pageBI rg
      let tick := k.cl.core.tick.toNat
      let flip := bitAt (k.cl.core.rd p 0x28) 1
      let k := k.onCore (·.setFld p 0x28 1 1 0)
      let t := { t with ran := t.ran + 1, left := rest }
      if passed && !flip then
        if rest ≠ [] then (k.setTest clu (some t)).biShow rg
        else
          let k := k.onCore (fun c => if t.ran < 119 then c else c.wr p (0x80 + 8 * (clu % 5) + 4) c.tickLo)
          let k := if t.back && k.mayReturn clu then
              (k.onCore (·.setFld p 0x48 (clu % 5) 1 0)).unfence (placeClu clu)
            else k
          let k := k.endTest clu t
          if t.back then k.dieBack (clu / 10) else k
      else
        let k := k.onCore (·.biEvent rg 0x0F45 sevInfo 15 (detailBi 0xFF 0xFF (clu % 5) where_ 0x0F45 s 0 tick) flip)
        (k.fenceSpare clu 0x0F45 s flip).endTest clu { t with failed := t.failed + 1 }

/-! ## Ending a rotation -/

/-- Enable or end BI_MIRROR, at the next Departure (R348). -/
def Core.mirrorSet (c : Core) (rg : Nat) (en : Bool) (a b : Nat) : Core :=
  c.wr (pageBI rg) 0x44 (BitVec.ofNat 32 ((if en then 2 ^ 31 else 0) + a % 8 * 2 ^ 28 + b % 8 * 2 ^ 25))

/-- Clear PILOT_EN in the pending slot map. -/
def Core.pilotOff (c : Core) (rg : Nat) : Core := c.setFld (pageTT rg) 0x44 21 1 0

/-- Abandon the rotation of a region with BI_ROT_ABORT (R358, R362, R368); a relief goes on. -/
def Pkg.abandon (k : Pkg) (rg : Nat) (cause : Nat) (record : Bool) : Pkg :=
  match k.move rg with
  | some mv =>
    if mv.relief then k
    else
      let d := detailBi 0xFF mv.slot mv.src mv.dst cause 0 0 k.cl.core.tick.toNat
      let k := k.onCore (fun c =>
        let c := (c.mirrorSet rg false mv.src mv.dst).pilotOff rg
        if record then c.biEvent rg 0x0F41 sevInfo 15 d else c)
      (k.setMove rg none).biShow rg
  | none => k

/-! ## The copier (R349, R350, R353) -/

/-- Whether the copier takes granule g (a region offset) of a region from its home copy. -/
def fromHome (d : RegionD) (g : Nat) : Bool :=
  d.homeEn && (d.homeSrc || (decide (d.mode = 1 ∨ d.mode = 2) &&
    decide ((g + d.size - d.tail) % d.size < (d.flush + d.size - d.tail) % d.size)))

/-- Region offsets of the granules the copier takes: all of a read-only region, TAIL to the head of a ring (R349). -/
def copyGranules (d : RegionD) : List Nat :=
  if d.valid = false ∨ d.size = 0 then []
  else if d.mode = 3 then List.range d.size
  else if d.mode = 1 ∨ d.mode = 2 then (List.range (min d.size (d.used + d.hext))).map (fun i => (d.tail + i) % d.size)
  else []

/-- Whether the home copy of a read-only region covers granule g: the flush has no write of it still to copy (R188, R349). -/
def Pkg.homeCovers (k : Pkg) (a st : Nat) (d : RegionD) (g : Nat) : Bool :=
  d.homeEn && decide (d.mode = 3) && !kget k.cl.st.dirty false (65536 * (3 * a + st) + d.base + g)

/-- Bytes of granule g of a region of cluster a: home copy or store; where the store does not answer, the home copy if it
covers the granule, else poison (R349). -/
def Pkg.copySource (k : Pkg) (a st : Nat) (d : RegionD) (g : Nat) : List PB :=
  if fromHome d g ∨ (k.storeFenced a st = true ∧ k.homeCovers a st d g = true) then
    (k.dpaRead (d.homeBase * 4096 + 256 * g) 256).1
  else if k.storeFenced a st then List.replicate 256 (0, true)
  else k.cl.stRaw a st ((d.base + g) * 256) 256

/-- The copier's reads of a region's granules in the store pass the correction stage, as every read does (R182, R184). -/
def Clus.copyTouch (m : Clus) (a st r : Nat) (d : RegionD) : Clus :=
  (copyGranules d).foldl (fun x g => if fromHome d g then x else x.stTouch a st ((d.base + g) * 256) 256 unitLine r) m

/-- Whether a granule can be read from no source: every byte is poison in the store, and in the home copy if there is
one (log entry 23). -/
def Pkg.unreadable (k : Pkg) (a st : Nat) (d : RegionD) (g : Nat) : Bool :=
  (k.storeFenced a st || (k.cl.stRaw a st ((d.base + g) * 256) 256).all (fun (b : PB) => b.2)) &&
    (!d.homeEn || (k.dpaRead (d.homeBase * 4096 + 256 * g) 256).1.all (fun (b : PB) => b.2))

/-- Write a granule's bytes and poison into a store as they are. -/
def Clus.putRaw (m : Clus) (clu st a : Nat) (l : List PB) : Clus :=
  (chunks64 (l.length / 64 + 2) a l).foldl (fun x e => x.stPutChunk clu st e.1 e.2 false) m

/-- Copy one region from cluster a to cluster b; a granule that the mirror has written stays (R350). A region with no
readable granule opens empty, with FW_STATE_LOST, and its job faults (R353). -/
def Pkg.copyRegion (k : Pkg) (a b st r : Nat) : Pkg :=
  let d := k.cl.core.region a st r
  let gs := copyGranules d
  let k := if k.storeFenced a st then k else k.onClus (·.copyTouch a st r d)
  if gs ≠ [] ∧ gs.all (fun g => k.unreadable a st d g) then
    let k := k.onCore (fun c => (c.setPtrs a st r 0 0 false 0).fwEvent 0x0E46 sevCont d.job (placeClu b)
      (detailBi d.job 0xFF (a % 5) (b % 5) 0x0E46 0 0 c.tick.toNat))
    k.onClus (·.faultJob d.job 0x0E46)
  else
    gs.foldl (fun x g =>
      if kget x.net.mirrored false (65536 * (3 * b + st) + d.base + g) then x
      else x.onClus (·.putRaw b st ((d.base + g) * 256) (x.copySource a st d g))) k

/-- Copy the valid config-store entries, with their CFG_ID, to the incoming cluster (R155). -/
def Clus.copyCfgs (m : Clus) (a b : Nat) : Clus :=
  iter 16 (fun n x => if (x.cfgEntry a n).isSome then x.setCfg b n (x.cfgEntry a n) else x) m

/-- Copy one open channel's descriptor with its pointers, and a receive ring's bytes and poison (R251). -/
def Clus.copyChannel (m : Clus) (a b n : Nat) : Clus :=
  let m := m.onCore (fun c =>
    let c := c.wrs (pageMsg b) (chanOff n) ((List.range 8).map (fun i => c.rd (pageMsg a) (chanOff n + 4 * i)))
    if c.chRecv a n then c.winWr (dmemBase b + c.chBase a n) (c.winRds (dmemBase a + c.chBase a n) (c.chSize a n)) else c)
  let w := m.core.chBase a n / 32
  let poi := (List.range (m.core.chSize a n / 32 + 1)).foldl
    (fun q i => kput q false (8192 * b + w + i) (kget q false (8192 * a + w + i))) m.sc.dpoi
  { m with sc := { m.sc with dpoi := poi } }

/-- A receive ring that could not be read in full: the channel opens empty on the relief cluster, MSG_RING_LOST is recorded and
the channel's job faults (R251, R252). -/
def Clus.ringLost (m : Clus) (a b n : Nat) : Clus :=
  let j := m.core.chJob a n
  let m := m.onCore (fun c =>
    let c := c.wrs (pageMsg b) (chanOff n) ((List.range 8).map (fun i => c.rd (pageMsg a) (chanOff n + 4 * i)))
    (c.setRing b n 0 0 false).record (pageMsg b) 0x0807 sevCont j (placeUnit b 10 0)
      (detail41 0x0807 0xFF 0xFF 0 0 0 0 (msgLast4 n 0 0 0)))
  m.faultJob j 0x0807

/-- Copy what goes over the debug path: config-store entries and open channels with their unread records; `dead` tells that
the outgoing cluster did not answer for its rings. Messages held at the Porter of a fenced outgoing cluster move too (R155,
R251, R349). -/
def Clus.copyDebug (m : Clus) (a b : Nat) (dead : Bool) : Clus :=
  let m := iter 32 (fun n x =>
    if x.core.chOpen a n = false then x
    else if dead && x.core.chRecv a n then x.ringLost a b n
    else x.copyChannel a b n) (m.copyCfgs a b)
  if m.core.fenced a then (m.setHeld b (m.heldAt a ++ m.heldAt b)).setHeld a [] else m

/-- Set whether a cluster's rings could not be read. -/
def Pkg.setRingDead (k : Pkg) (clu : Nat) (b : Bool) : Pkg :=
  k.onBi (fun x => { x with ringDead := kput x.ringDead false clu b })

/-- The whole copy of a slot's state from cluster a to cluster b (R349). -/
def Pkg.copyCluster (k : Pkg) (a b : Nat) : Pkg :=
  ((iter 48 (fun i x => x.copyRegion a b (i / 16) (i % 16)) k).onClus
    (·.copyDebug a b (kget k.bi.ringDead false a))).setRingDead a false

/-- Whether the copier has still to copy a cluster's state: the outgoing cluster of a relief or rotation (R349). -/
def Pkg.copying (k : Pkg) (clu : Nat) : Bool :=
  match k.move (clu / 5) with
  | some mv => decide (5 * (clu / 5) + mv.src = clu ∧ (mv.mode = 2 ∨ mv.mode = 4)) && !mv.copied
  | none => false

/-- An access of the debug path to the message unit or the local data memory of a cluster whose copy runs is abandoned: its
rings cannot be read in full (R251, R424; log entry 304). -/
def Pkg.copyTimeout (k : Pkg) (place : Nat) : Pkg :=
  let clu := placeCluster place
  if place / 2 ^ 30 = 0 ∧ (placeUnitNo place = 9 ∨ placeUnitNo place = 10) ∧ k.copying clu = true then k.setRingDead clu true
  else k

/-! ## Phases (R352, R358) -/

/-- Whether a slot of the region has failed in this tick (R24). -/
def Pkg.anyFailed (k : Pkg) (rg : Nat) : Bool := (List.range 4).any (fun n => kget k.cl.tt.failed false (4 * rg + n))

/-- Write the handover into the pending slot map: the slot on the incoming cluster, RELIEF the outgoing one (R351,
R352). -/
def Core.handover (c : Core) (rg slot src dst : Nat) : Core :=
  let w := c.slotMap rg
  c.wr (pageTT rg) 0x44 (putBits (putBits (putBits w (3 + 3 * slot) 3 dst) 18 3 src) 21 1 0)

/-- The Guard of a region's relief or rotation: PREPARE to PILOT, PILOT to HANDOVER, or a relief's slot map, deferred by
a failed slot (R24, R352, R358); a pilot that ended at Close abandons its rotation (R360, R362). -/
def Pkg.moveGuard (k : Pkg) (rg : Nat) : Pkg :=
  if k.bpUp rg = false then k else
  let t := k.cl.core.tick.toNat
  match k.move rg with
  | none => k
  | some mv =>
    let n := mv.slot
    let relief := 5 * rg + mv.dst
    let end_ := kget k.bi.ended 0 rg
    if end_ = 1 ∧ mv.relief = false then
      let k := (k.onBi (fun b => { b with ended := kput b.ended 0 rg 0 })).abandon rg 0x0F42 true
      let k := k.startTest relief allSlices false
      let job := k.cl.core.circJob rg ((k.cl.run rg n).map (fun r => r.circ) |>.getD 0)
      if 2 ≤ kget k.bi.mism 0 (4 * rg + n) then
        (k.onCore (·.biEvent rg 0x0F44 sevInfo job (detailBi job n mv.src mv.dst 0x0F42 0 0 t))).onBi (fun b =>
          { b with skip := kput b.skip 0 (4 * rg + n) (job + 1), mism := kput b.mism 0 (4 * rg + n) 0 })
      else k
    else if end_ = 2 ∧ mv.relief = false then
      let k := (k.onBi (fun b => { b with ended := kput b.ended 0 rg 0 })).abandon rg 0x0F43 false
      let per := (k.cl.core.rd (pageBI rg) 0x4C).toNat
      let l := t :: (kget k.bi.pilotEnds [] relief).filter (fun x => decide (t < x + per))
      let k := k.onBi (fun b => { b with pilotEnds := kput b.pilotEnds [] relief l })
      if 2 ≤ l.length then (k.fenceSpare relief 0x0F43 0 false).biShow rg else k
    else if k.anyFailed rg then k
    else match mv.mode with
      | 2 =>
        if mv.copied then
          let k := k.onCore (fun c =>
            c.wr (pageTT rg) 0x44 (putBits (putBits (c.slotMap rg) 21 1 1) 22 2 n))
          (k.setMove rg (some { mv with mode := 3, since := t + 1 })).biShow rg
        else k
      | 3 =>
        if mv.since + k.cl.core.fld (pageBI rg) 0x50 0 16 ≤ t + 1 then
          ((k.onCore (·.handover rg n mv.src mv.dst)).setMove rg (some { mv with mode := 5, since := t + 1 })).biShow rg
        else k
      | 4 =>
        if mv.copied then
          ((k.onCore (·.handover rg n mv.src mv.dst)).setMove rg (some { mv with mode := 5, since := t + 1 })).biShow rg
        else k
      | _ => k

/-- The Departure at which a handover took effect: its record, and the test set of the cluster that left service
(R352, R358, R363). -/
def Pkg.moveDone (k : Pkg) (rg : Nat) : Pkg :=
  let t := k.cl.core.tick.toNat
  match k.move rg with
  | some mv =>
    if k.bpUp rg = true ∧ mv.mode = 5 ∧ mapPhys (k.cl.core.slotMap rg) mv.slot = mv.dst then
      let clu := 5 * rg + mv.src
      let job := k.cl.jobOn (5 * rg + mv.dst)
      let k := k.setMove rg none
      let k := if mv.relief then
          k.onCore (·.fwEvent 0x0E40 sevCorr job (placeClu clu)
            (detailBi job mv.slot mv.src mv.dst mv.cause (t - mv.first) 0 mv.first))
        else
          (k.onCore (fun c => (c.biEvent rg 0x0F40 sevInfo job (detailBi job mv.slot mv.src mv.dst 0x0F40 0 0 t)).incWrap
            (pageBI rg) 0x5C 1)).onBi (fun b => { b with mism := kput b.mism 0 (4 * rg + mv.slot) 0 })
      k.startTest clu allSlices mv.relief
    else k
  | none => k

/-! ## Cluster relief (R352–R354) -/

/-- Whether two of the listed ticks lie within the window before tick t. -/
def twiceWithin (l : List Nat) (t w : Nat) : Bool := decide (2 ≤ (l.filter (fun x => decide (t < x + w))).length)

/-- Whether a cluster is due for relief (R352). -/
def Pkg.reliefDue (k : Pkg) (clu : Nat) : Bool :=
  let t := k.cl.core.tick.toNat
  k.cl.core.fenced clu || twiceWithin (kget k.bi.cfgLost [] clu) t 65536 ||
    (List.range 96).any (fun i => twiceWithin (kget k.bi.eccUe [] (96 * clu + i)) t 65536)

/-- Event code and drill mark of a relief's fence: of the failed attempt that set BI_FENCE, TT_REPLAY_FAIL where its slot has gone,
else of the store or config-store errors that made the relief due (R352, R364; log entry 327). -/
def Pkg.reliefCause (k : Pkg) (clu n : Nat) : Nat × Bool :=
  if k.cl.core.fenced clu then
    match k.cl.run (clu / 5) n with
    | some r => ((r.first.head?.map (·.code)).getD 0x0108, r.drill)
    | none => (0x0108, false)
  else if twiceWithin (kget k.bi.cfgLost [] clu) k.cl.core.tick.toNat 65536 then (0x0409, false)
  else (0x0506, false)

/-- Whether the relief of a cluster is already in progress. -/
def Pkg.relieving (k : Pkg) (clu : Nat) : Bool :=
  match k.move (clu / 5) with
  | some mv => mv.relief && decide (mv.src = clu % 5)
  | none => false

/-- CLUSTER_RELIEF: the fenced cluster stops, the relief cluster's slice and pilot end, and the mirror is enabled; the
region then waits for the copier (R352, R368). Where the relief cluster cannot serve, die relief is due (R354). A cluster that
relief has fenced before is not counted again. -/
def Pkg.clusterRelief (k : Pkg) (clu : Nat) : Pkg :=
  let rg := clu / 5
  let t := k.cl.core.tick.toNat
  match k.cl.core.slotOfClu clu with
  | none => k
  | some n =>
    if k.bpUp rg = false ∨ k.reliefDue clu = false ∨ k.relieving clu = true then k
    else
      let (cause, drill) := k.reliefCause clu n
      let relief := k.cl.core.reliefOf rg
      let k := if k.fencedAt (placeClu clu) then k.onCore (·.setFence clu) else k.fenceClu clu cause drill
      let k := k.onClus (·.stopUnits clu)
      let busy : Bool := match k.move rg with
        | some mv => mv.relief
        | none => false
      if k.cl.core.fenced relief ∨ busy then (k.biShow rg)
      else
        let keep : Bool := match k.move rg with
          | some mv => decide (mv.src = clu % 5) && mv.copied
          | none => false
        let same : Bool := match k.move rg with
          | some mv => decide (mv.src = clu % 5)
          | none => false
        let k := if same then k.onCore (·.pilotOff rg) else k.abandon rg cause true
        let k := k.stopTest relief
        let k := k.onCore (·.mirrorSet rg true (clu % 5) (relief % 5))
        (k.setMove rg (some { relief := true, slot := n, src := clu % 5, dst := relief % 5, mode := 4, copied := keep,
                              since := t, first := t, cause := cause })).biShow rg

/-- COPIER_COMPLETE: the copy of the region's relief or rotation; a relief in Guard writes the slot map at once where no
slot has failed (R349, R352, R353). -/
def Pkg.copierComplete (k : Pkg) (rg : Nat) : Pkg :=
  match k.move rg with
  | some mv =>
    if mv.copied ∨ (mv.mode ≠ 2 ∧ mv.mode ≠ 4) then k
    else
      let k := k.copyCluster (5 * rg + mv.src) (5 * rg + mv.dst)
      let k := k.setMove rg (some { mv with copied := true })
      if k.cl.core.inGuard ∧ mv.relief then k.moveGuard rg else k
  | none => k

/-! ## Die relief (R355, R356) -/

/-- Whether a region has four clusters that are not fenced (R387). -/
def Core.usableRg (c : Core) (rg : Nat) : Bool :=
  decide (4 ≤ ((List.range 5).filter (fun i => !c.fenced (5 * rg + i))).length)
/-- A die that is usable for service: both its regions are (R387). -/
def Core.usableDie (c : Core) (g : Nat) : Bool := c.usableRg (2 * g) && c.usableRg (2 * g + 1)

/-- The unused relief die of a quadrant: a die no logical die maps to, not fenced and not in use. -/
def Pkg.reliefDie (k : Pkg) (q : Nat) : Option Nat :=
  (List.range 24).findSome? (fun i =>
    let g := 24 * q + i
    let fenced : Bool := match k.fenceOf (placeDie g 0) with
      | some e => e.field || e.test || e.fuse
      | none => false
    if k.cl.core.logicalDie g = 127 ∧ fenced = false ∧ kget k.bi.dieUsed false g = false ∧ k.cl.core.usableDie g
    then some g else none)

/-- Move an entry of a sparse table from key a to key b. -/
def kmove {α : Type} [DecidableEq α] (m : KMap α) (d : α) (a b : Nat) : KMap α := kput (kput m d b (kget m d a)) d a d

/-- Copy the control state of a region's timetable unit to another region (R355 step 2): its page, its entries, its
descriptor list; slots in flight or due for replay go due with it. -/
def Pkg.copyTT (k : Pkg) (a b : Nat) : Pkg :=
  let k := k.onCore (fun c =>
    let c := iter 432 (fun i x => x.wr (pageTT b) (0x40 + 4 * i) (x.rd (pageTT a) (0x40 + 4 * i))) c
    iter 4096 (fun e x => x.winWr (entryBase b + 256 * e) (x.winRds (entryBase a + 256 * e) 256)) c)
  let k := k.onNet (fun n => { n with dlist := (List.range 256).foldl (fun l i =>
    kput l [] (256 * b + i) (kget l [] (256 * a + i))) n.dlist })
  k.onClus (fun m =>
    let m := iter 4 (fun n x => match x.run a n with
      | some r =>
        let r2 := { r with due := true, relief := true, clu := 5 * b + r.clu % 5,
                           first := if r.first = [] then [checkCause 0x010C] else r.first }
        (x.setRun b n (some r2)).setRun a n none
      | none => x) m
    { m with tt := { m.tt with rr := kmove m.tt.rr 0 a b } })

/-- Copy a die's local and die tablets to another position's node (R355 step 2). -/
def Core.copyTablets (c : Core) (a b : Nat) : Core :=
  iter 320 (fun i x => x.wr (pageTb b) (0x100 + 4 * i) (x.rd (pageTb a) (0x100 + 4 * i))) c

/-- Group entry word of die g for a tree from `root` to the dies with a LOCAL byte (R215). -/
def treeEntry (root : Nat) (loc : Nat → Nat) (g : Nat) : W32 :=
  let members := (List.range 96).filter (fun d => decide (loc d ≠ 0))
  let links := members.flatMap (fun d => route false 24 root d)
  let tree := (List.range 4).foldl (fun a o => if links.elem (g, 5 + o) then a + 2 ^ (23 - o) else a) 0
  BitVec.ofNat 32 (2 ^ 31 + root * 2 ^ 24 + tree + loc g % 256 * 2 ^ 12)

/-- Copy the bank in force of a router's points tables into the other (R223). -/
def Core.bankCopy (c : Core) (p : Nat) : Core :=
  let b := c.ptsBank p
  let c := iter 24 (fun i y => y.wr (pagePts p) (0x100 + 0x80 * (1 - b) + 4 * i) (y.rd (pagePts p) (0x100 + 0x80 * b + 4 * i))) c
  iter 64 (fun i y => y.wr (pagePts p) (0x200 + 0x100 * (1 - b) + 4 * i) (y.rd (pagePts p) (0x200 + 0x100 * b + 4 * i))) c

/-- Prepare the inactive points-table banks: the tables in force, or what an armed line clear already waits to put in force, with
logical die l on position h, and every group tree rebuilt with position g's members at h (R196, R224, R355). -/
def Core.swapTables (c : Core) (l g h : Nat) : Core :=
  let old := c
  let fresh : Bool := decide (c.rd8 pageRoot 0x340 = 0)
  let trees : List (Nat × (Nat → W32)) := (List.range 64).filterMap (fun n =>
    let w := old.groupEntry g n
    if bitsAt w 12 8 = 0 then none
    else
      let root := bitsAt w 24 7
      let loc (d : Nat) : Nat := if d = g then 0 else if d = h then bitsAt w 12 8 else bitsAt (old.groupEntry d n) 12 8
      some (n, treeEntry (if root = g then h else root) loc))
  iter 96 (fun p x =>
    let b := x.ptsBank p
    let x := if fresh then x.bankCopy p else x
    let x := x.setFld (pagePts p) (0x100 + 0x80 * (1 - b) + l / 4 * 4) (8 * (l % 4)) 8 (128 + h)
    trees.foldl (fun y e => y.wr (pagePts p) (0x200 + 0x100 * (1 - b) + 4 * e.1) (e.2 p)) x) c

/-- Jobs with a circuit or a departed slot in a region. -/
def Clus.jobsIn (m : Clus) (rg : Nat) : List Nat :=
  (List.range 16).filter (fun j => (List.range 64).any (fun n =>
    decide (m.core.circState rg n ≠ 0 ∧ m.core.circJob rg n = j)))

/-- DIE_RELIEF: hold, control state, mirror and copy; the swap of DIE_MAP is armed for the next tick (R355). With no
relief die, FW_RELIEF_EXHAUSTED and FW_SLOT_LOST, and the die's jobs fault (R356). A DIAG_RUN takes the same steps without
a fault: nothing enters the fence map (R375). -/
def Pkg.dieRelief (k : Pkg) (g : Nat) (cause : Nat := 0x010C) (fault : Bool := true) : Pkg :=
  let t := k.cl.core.tick.toNat
  let l := k.cl.core.logicalDie g
  if k.sbUp = false ∨ l = 127 ∨ kget k.bi.dieMirror 0 g ≠ 0 then k
  else
    let k := iter 10 (fun i x =>
      (((x.setTest (10 * g + i) none).onCore (·.setFence (10 * g + i))).onClus (·.stopUnits (10 * g + i)))) k
    let k := (k.setMove (2 * g) none).setMove (2 * g + 1) none
    let k := if fault then k.fenceField (placeDie g 0) cause false else k
    match k.reliefDie (g / 24) with
    | none =>
      let d := detailBi 0xFF 0xFF g 0xFF 0x0E44 0 0 t
      let k := k.onCore (fun c => (c.fwEvent 0x0E44 sevDegr 15 (placeDie g 0) d).fwEvent 0x0E45 sevDegr 15 (placeDie g 0) d)
      let js := k.cl.jobsIn (2 * g) ++ k.cl.jobsIn (2 * g + 1)
      ((js.foldl (fun x j => x.onClus (·.faultJob j 0x0E45)) k).biShow (2 * g)).biShow (2 * g + 1)
    | some h =>
      let k := iter 10 (fun i x => x.stopTest (10 * h + i)) k
      let k := (k.copyTT (2 * g) (2 * h)).copyTT (2 * g + 1) (2 * h + 1)
      let k := k.onCore (·.copyTablets g h)
      let k := iter 10 (fun i x => (x.onClus (·.copyDescs (10 * g + i) (10 * h + i)))) k
      let k := iter 10 (fun i x =>
        if (x.cl.core.slotOfClu (10 * g + i)).isSome then x.copyCluster (10 * g + i) (10 * h + i) else x) k
      let k := k.onBi (fun b => { b with dieMirror := kput b.dieMirror 0 g (h + 1), dieUsed := kput b.dieUsed false h true })
      let k := k.onCore (fun c => (c.swapTables l g h).lcArm (t + 1))
      (k.biShow (2 * g)).biShow (2 * g + 1)

/-- Whether a region belongs to a relief die whose die relief has not yet swapped: nothing departs there. -/
def Pkg.dieWaits (k : Pkg) (rg : Nat) : Bool :=
  k.bi.dieMirror.any (fun e => decide (e.2 = rg / 2 + 1)) && decide (k.cl.core.logicalDie (rg / 2) = 127)

/-- The full test set starts on every cluster of a fenced die, whose regulators are on for it (R355, R365, R438; log
entry 330). -/
def Pkg.dieTest (k : Pkg) (g : Nat) : Pkg :=
  let k := k.onPw (fun p => { p with regOff := kput (kput p.regOff false (2 * g) false) false (2 * g + 1) false })
  iter 10 (fun i x => x.startTest (10 * g + i) allSlices true) k

/-- Departure of a region whose die relief has swapped: pointers are copied, the mirror ends, FW_DIE_RELIEF is recorded
and the fenced die's clusters start their test set (R355). -/
def Pkg.dieDone (k : Pkg) (rg : Nat) : Pkg :=
  match k.bi.dieMirror.find? (fun e => decide (e.2 = rg / 2 + 1)) with
  | none => k
  | some (g, _) =>
    let h := rg / 2
    if k.cl.core.logicalDie h = 127 then k
    else
      let k := iter 10 (fun i x => x.onClus (·.copyPtrs (10 * g + i) (10 * h + i))) k
      let k := k.onBi (fun b => { b with dieMirror := kput b.dieMirror 0 g 0, dieUsed := kput b.dieUsed false h false })
      let t := k.cl.core.tick.toNat
      let k := k.onCore (·.fwEvent 0x0E41 sevCorr 15 (placeDie g 0) (detailBi 0xFF 0xFF g h 0x0E41 0 0 t))
      if k.bi.diags.any (fun d => d.wait && decide (d.place = placeDie g 0)) then k
      else k.dieTest g

/-! ## Rotation (R347, R357, R358) -/

/-- Start a rotation that takes physical cluster c of a region out of service. -/
def Pkg.rotate (k : Pkg) (rg c : Nat) : Pkg :=
  let t := k.cl.core.tick.toNat
  let r := k.cl.core.reliefOf rg
  match k.cl.core.slotOfClu (5 * rg + c) with
  | some n =>
    if k.bpUp rg = false ∨ k.cl.core.fenced r ∨ k.cl.core.fenced (5 * rg + c) ∨ (k.move rg).isSome then k
    else
      let k := k.stopTest r
      let k := k.onCore (·.mirrorSet rg true c (r % 5))
      (k.setMove rg (some { relief := false, slot := n, src := c, dst := r % 5, mode := 2, copied := false, since := t,
                            first := t, cause := 0 })).biShow rg
  | none => k

/-- Whether a slot is passed over in rotation for its job (R362). -/
def Pkg.skipped (k : Pkg) (rg c : Nat) : Bool :=
  match k.cl.core.slotOfClu (5 * rg + c) with
  | some n =>
    let j := kget k.bi.skip 0 (4 * rg + n)
    decide (j ≠ 0) && (List.range 64).any (fun i => decide (k.cl.core.circState rg i ≠ 0 ∧ k.cl.core.circJob rg i + 1 = j))
  | none => false

/-- ROTATION_START at the region's rotation tick: cluster (R + 1) mod 5, or the next one not passed over (R357,
R362). -/
def Pkg.rotationStart (k : Pkg) (rg : Nat) : Pkg :=
  let per := (k.cl.core.rd (pageBI rg) 0x4C).toNat
  let t := k.cl.core.tick.toNat
  if per = 0 ∨ t % per ≠ 341 * rg % per then k
  else
    let r := mapRelief (k.cl.core.slotMap rg)
    match ((List.range 4).map (fun i => (r + 1 + i) % 5)).find? (fun c => !k.skipped rg c) with
    | some c => k.rotate rg c
    | none => k

/-- ROTATION_PREP_TIMEOUT: a rotation still in PREPARE after BI_PREP_LIMIT ticks is abandoned (R358). -/
def Pkg.prepTimeout (k : Pkg) (rg : Nat) : Pkg :=
  match k.move rg with
  | some mv =>
    if k.bpUp rg = true ∧ mv.mode = 2 ∧ mv.since + k.cl.core.fld (pageBI rg) 0x54 0 16 ≤ k.cl.core.tick.toNat then k.abandon rg 0x0F41 true else k
  | none => k

/-- ROTATE_NOW: dropped while MODE is 2–5 (BI_CTRL); a cluster above 4 names none. -/
def Pkg.rotateNow (k : Pkg) (rg c : Nat) : Pkg :=
  if k.bpUp rg = false then k
  else if (k.move rg).isSome then k.onCore (·.dropped (pageBI rg))
  else if c < 5 then k.rotate rg c
  else k

/-! ## Fence and mirror writes -/

/-- BI_FENCE_WRITE: the block post sets and clears bits (R346). -/
def Pkg.fenceWrite (k : Pkg) (rg : Nat) (v : W32) : Pkg :=
  if k.bpUp rg then (k.onCore (·.wr (pageBI rg) 0x48 (v &&& 0x1F))).biShow rg else k

/-- BI_MIRROR_WRITE: in force at the next Departure (R348). -/
def Pkg.mirrorWrite (k : Pkg) (rg : Nat) (v : W32) : Pkg :=
  if k.bpUp rg then k.onCore (·.wr (pageBI rg) 0x44 (v &&& 0xFE000000)) else k

/-- ABORT_ROT of BI_CTRL: the block post abandons the rotation (R358). -/
def Pkg.abortRot (k : Pkg) (rg : Nat) : Pkg := if k.bpUp rg then k.abandon rg 0x0F41 true else k

/-! ## Drills (R376–R378) -/

/-- Page that a drill's PLACE and PAGE_ID name. -/
def drillPage (place ty : Nat) : Option Nat :=
  let clu := placeCluster place
  let q := place / 2 ^ 28 % 4
  let i := place % 256
  let p : Nat := match ty with
    | 0x12 | 0x13 | 0x14 | 0x15 | 0x16 | 0x17 | 0x18 | 0x19 => pageClu clu (placeUnitNo place)
    | 0x20 => pageLn (placeGDie place)
    | 0x30 => pageHb i
    | 0x31 => pageFb i
    | 0x0B => pageAt
    | 0x11 => pageBI (placeRegion place)
    | _ => 0
  match pageKind p with
  | some kd => if (kindId kd).2.1 = ty ∧ (kindId kd).2.2 = place ∧ q < 4 then some p else none
  | none => none

/-- Whether R377 allows a bit on a page. -/
def drillAllowed (ty bit : Nat) : Bool :=
  match ty with
  | 0x12 | 0x15 | 0x11 => decide (bit < 2)
  | 0x13 | 0x14 | 0x19 | 0x30 => decide (bit = 0)
  | 0x16 | 0x17 | 0x18 => decide (bit < 2)
  | 0x20 => decide (bit < 3)
  | 0x31 => decide (bit < 2)
  | 0x0B => decide (bit < 2)
  | _ => false

/-- Width of a page's selector field in ERR_INJECT, at bit 8; 0 where it has none. -/
def selectorBits (ty : Nat) : Nat :=
  match ty with
  | 0x15 => 6 | 0x16 | 0x17 | 0x18 | 0x30 => 5 | 0x20 => 4 | _ => 0

/-- Whether an entry keeps R376 and R377. -/
def drillOk (e : DrillEntry) : Bool :=
  let ty := e.page.toNat
  placeOk e.place.toNat && (drillPage e.place.toNat ty).isSome && drillAllowed ty e.bit.toNat &&
    decide (e.arg.toNat < 2 ^ selectorBits ty) && decide (2 ^ 20 ≤ e.interval.toNat) && decide (e.flags.toNat < 2) &&
    decide (e.tail = 0)

/-- Die of a place code, 96 for the concourse edge; the quadrant decides there. -/
def placeDieOf (p : Nat) : Nat := if p / 2 ^ 30 = 3 ∧ p / 2 ^ 23 % 32 = 24 then 96 else placeGDie p

/-- Whether firmware skips an injection now (R378); the second of a RELIEF pair is not skipped for the first. -/
def Pkg.drillSkip (k : Pkg) (e : DrillEntry) (pair : Bool) : Bool :=
  let t := k.cl.core.tick.toNat
  let p := e.place.toNat
  let g := placeDieOf p
  let rg := placeRegion p
  let q := p / 2 ^ 28 % 4
  let near (last w : Nat) : Bool := decide (last ≠ 0 ∧ t < last - 1 + w)
  (!pair && (near k.bi.lastDrill 4096 || (decide (g < 96) && near (kget k.bi.lastDrillRg 0 rg) (2 ^ 20)))) ||
    near (kget k.bi.degraded 0 q) 65536 ||
    (decide (g < 96) && ((k.move (2 * g)).isSome || (k.move (2 * g + 1)).isSome || decide (kget k.bi.dieMirror 0 g ≠ 0) ||
      k.bi.diags.any (fun d => decide (placeDieOf d.place = g)))) ||
    decide (k.cl.core.rd8 pageRoot 0x340 ≠ 0 ∨ k.cl.core.rd8 pageFbPkg 0x50 ≠ 0) ||
    -- UE_FLIP only on a relief cluster (R377)
    (decide (0x16 ≤ e.page.toNat ∧ e.page.toNat ≤ 0x18 ∧ e.bit.toNat = 1) &&
      decide (placeCluster p ≠ k.cl.core.reliefOf rg))

/-- DRILL_INJECTION: at the entry's due tick firmware records FW_DRILL and arms the injection, or skips it (R378). -/
def Pkg.drillInject (k : Pkg) (i : Nat) : Pkg :=
  let t := k.cl.core.tick.toNat
  match k.bi.drills[i]? with
  | none => k
  | some e =>
    let f := e.first.toNat
    let iv := e.interval.toNat
    let pair : Bool := decide (e.flags.toNat = 1 ∧ f < t ∧ (t - 1 - f) % iv = 0) && decide (k.bi.lastDrill = t)
    let due : Bool := decide (f ≤ t ∧ (t - f) % iv = 0 ∧ (e.count.toNat = 0 ∨ (t - f) / iv < e.count.toNat))
    if (due || pair) = false then k
    else
      let p := e.place.toNat
      let k := k.onCore (·.fwEvent 0x0E4A sevInfo 15 p (detailBi 0xFF 0xFF 0xFF 0xFF 0x0E4A i 0 t))
      match drillPage p e.page.toNat with
      | none => k
      | some page =>
        if k.drillSkip e pair then k
        else
          let k := k.onBi (fun b => { b with
            lastDrill := t + 1, lastDrillRg := kput b.lastDrillRg 0 (placeRegion p) (t + 1),
            fired := kput b.fired 0 i (kget b.fired 0 i + 1) })
          k.onCore (fun c =>
            let n := selectorBits e.page.toNat
            let c := if n = 0 then c else c.setFld page 0x28 8 n e.arg.toNat
            c.setFld page 0x28 e.bit.toNat 1 1)

/-! ## The commands of this part -/

/-- CLUSTER_RELIEF (R352). -/
def execClusterRelief (c : Clu) (s : State) : Out := .next (s.onPkg (·.clusterRelief c.val))
/-- COPIER_COMPLETE (R349). -/
def execCopierComplete (rg : Rgn) (s : State) : Out := .next (s.onPkg (·.copierComplete rg.val))
/-- DIE_RELIEF (R355). -/
def execDieRelief (g : Die) (s : State) : Out := .next (s.onPkg (·.dieRelief g.val))
/-- ROTATION_PREP_TIMEOUT (R358). -/
def execRotationPrepTimeout (rg : Rgn) (s : State) : Out := .next (s.onPkg (·.prepTimeout rg.val))
/-- ROTATE_NOW (R347). -/
def execRotateNow (rg : Rgn) (c : Fin 8) (s : State) : Out := .next (s.onPkg (·.rotateNow rg.val c.val))
/-- ABORT_ROT (R358). -/
def execAbortRot (rg : Rgn) (s : State) : Out := .next (s.onPkg (·.abortRot rg.val))
/-- BI_CNT_CLR: zero BI_ROTATIONS, BI_MISMATCHES and the BI_CLUSTER counts (BI_CTRL). -/
def execBiCntClr (rg : Rgn) (s : State) : Out :=
  .next (s.onPkg (fun k => (k.onCore (fun c =>
    iter 5 (fun i x => x.setFld (pageBI rg.val) (0x80 + 8 * i) 16 16 0) (c.zero (pageBI rg.val) 0x5C 2))).onBi (fun b =>
      { b with checks := kclear b.checks (5 * rg.val) 5 })))
/-- BI_CAP_CLR: empty BI_FIRST_FAIL (BI_CTRL). -/
def execBiCapClr (rg : Rgn) (s : State) : Out := .next (s.onClus (·.onCore (·.zero (pageBI rg.val) 0xC0 8)))
/-- BI_MIRROR_WRITE (R348). -/
def execBiMirrorWrite (rg : Rgn) (v : W32) (s : State) : Out := .next (s.onPkg (·.mirrorWrite rg.val v))
/-- BI_FENCE_WRITE (R346). -/
def execBiFenceWrite (rg : Rgn) (v : W32) (s : State) : Out := .next (s.onPkg (·.fenceWrite rg.val v))
/-- PILOT_FLIP (R380). -/
def execPilotFlip (rg : Rgn) (s : State) : Out := .next (s.onClus (·.onCore (·.setFld (pageBI rg.val) 0x28 0 1 1)))
/-- SLICE_FLIP (R380). -/
def execSliceFlip (rg : Rgn) (s : State) : Out := .next (s.onClus (·.onCore (·.setFld (pageBI rg.val) 0x28 1 1 1)))

end Sys2Proof.Machine
end

