-- ==== Sys2Proof/Machine/JobCmds.lean ====
section
/-!
DEFINITION. Job commands and the firmware behind them (R196, R200, R235, R257, R338–R340, R371–R374, R39, R40): the job
image and its checks, admission and placement, turns, memory allocations, checkpoint cuts and restores.
-/
namespace Sys2Proof.Machine

/-! ## The job image (R338) -/

/-- Number spelled by n bytes at an offset. -/
def leAt (l : List Byte) (off n : Nat) : Nat := leNat ((l.drop off).take n)
/-- 64-bit words of bytes. -/
def words64 (l : List Byte) : List W64 := (List.range (l.length / 8)).map (fun i => BitVec.ofNat 64 (leAt l (8 * i) 8))
/-- 32-bit words of bytes. -/
def words32 (l : List Byte) : List W32 := (List.range (l.length / 4)).map (fun i => BitVec.ofNat 32 (leAt l (4 * i) 4))
/-- Pieces of n bytes, numbered. -/
def piecesOf (l : List Byte) (n : Nat) : List (Nat × List Byte) :=
  (List.range (l.length / n)).map (fun i => (i, (l.drop (n * i)).take n))

/-- Sections of an image with their offsets; none after the first that is cut short, whose offset is the second part. -/
def parseImage : Nat → Nat → List Byte → List (Nat × Section) × Option Nat
  | 0, off, _ => ([], some off)
  | f + 1, off, l =>
    if l.isEmpty then ([], none)
    else
      let n := leAt l 12 4
      let pad := (n + 15) / 16 * 16
      if l.length < 16 + pad ∨ leAt l 2 2 ≠ 0 then ([], some off)
      else
        let s : Section := { kind := leAt l 0 2, place := leAt l 4 4, index := leAt l 8 4, data := (l.drop 16).take n }
        let r := parseImage f (off + 16 + pad) (l.drop (16 + pad))
        ((off, s) :: r.1, r.2)

/-- Logical region 2·die + r of a section. -/
def Section.lrg (s : Section) : Nat := placeRegion s.place
/-- Logical slot of a section. -/
def Section.lslot (s : Section) : Nat := s.place / 2 ^ 19 % 8
/-- Sections of a kind. -/
def ofKind (l : List Section) (kd : Nat) : List Section := l.filter (fun s => decide (s.kind = kd))

/-- Logical groups that section 10 declares. -/
def declared (l : List Section) : List (Nat × Nat × List Nat) := (ofKind l 10).flatMap (fun s => Config.needGroups s.data)

/-- Entries of a section: index and words. -/
def Section.entries (s : Section) : List (Nat × List W64) :=
  (piecesOf s.data 256).map (fun e => (s.index + e.1, words64 e.2))

/-- The core with an image's circuits and post targets in its logical regions: what the checks of its entries see. -/
def scratch (c : Core) (job : Nat) (l : List Section) : Core :=
  l.foldl (fun x s =>
    if s.kind = 2 then (words32 s.data).zipIdx.foldl (fun y e =>
      y.wr (pageTT s.lrg) (circOff ((s.index + e.2) % 64)) (putBits e.1 25 4 job)) x
    else if s.kind = 7 then (piecesOf s.data 8).foldl (fun y e =>
      y.wrs (pageTT s.lrg) (0x500 + 8 * ((s.index + e.1) % 64)) (words32 e.2)) x
    else x) c

/-- Whether a section breaks the rules of its target (R338, R261). -/
def Pkg.sectionBad (k : Pkg) (job : Nat) (allocs : List Alloc) (img : List Section) (s : Section) : Bool :=
  let c := scratch k.cl.core job img
  let n := s.data.length
  let scope := s.place / 2 ^ 30
  let slotScope : Bool := decide (s.kind = 3 ∨ s.kind = 4 ∨ s.kind = 6)
  let place := placeOk s.place && (if slotScope then decide (scope = 1 ∧ s.lslot < 4) else decide (scope = 2 ∨ scope = 1))
  !place ||
    (match s.kind with
     | 1 => decide (n % 256 ≠ 0 ∨ 4096 < s.index + n / 256) || s.entries.any (fun e => c.entryBad s.lrg job e.2)
     | 2 => decide (n % 4 ≠ 0 ∨ 64 < s.index + n / 4) ||
         (words32 s.data).any (fun w => decide (bitsAt w 25 7 ≠ 0 ∨ bitsAt w 12 10 ≠ 0))
     | 3 => decide (131072 < s.index + n)
     | 4 =>
         let d := regionOfWords (words32 (s.data.take 32))
         decide (48 ≤ s.index ∨ n < 32) || !d.valid || decide (d.job ≠ job) ||
           k.cl.descBad (5 * s.lrg) (s.index / 16) 16 { d with valid := false } || decide (d.size = 0) ||
           decide (d.size * 256 + 32 < n)
     | 5 => decide (n % 64 ≠ 0 ∨ 256 < s.index + n / 64) || (piecesOf s.data 64).any (fun e =>
         let ws := words64 e.2
         descReserved ws || descMismatch ws || decide (dVc ws ≠ 0 ∨ dOp ws = 6) ||
           ((dDst ws).kind == 6 && !((declared img).any (fun g => decide (g.1 = (dDst ws).group)))))
     | 6 => decide (n % 32 ≠ 0 ∨ 32 < s.index + n / 32) || (piecesOf s.data 32).any (fun e =>
         let w := words32 e.2
         let w2 := w.getD 2 0
         let size := 64 * bitsAt w2 0 11
         decide (bitsAt (w.getD 0 0) 26 4 ≠ job) ||
           (bitAt (w.getD 0 0) 31 && bitAt (w.getD 0 0) 30 &&
             decide (2 ^ 18 < 64 * bitsAt w2 16 12 + size ∨ size = 0 ∨ 65536 < size)))
     | 7 => decide (n % 8 ≠ 0 ∨ 64 < s.index + n / 8) || (piecesOf s.data 8).any (fun e =>
         let lo := BitVec.ofNat 32 (leAt e.2 0 4)
         decide (bitsAt lo 30 2 = 3 ∨ bitsAt lo 0 11 ≠ 0) || !isRegionPlace (leAt e.2 4 4) ||
           (decide (bitsAt lo 30 2 = 2) && !((declared img).any (fun g => decide (g.1 = bitsAt lo 11 6)))))
     | 8 => decide (n % 16 ≠ 0 ∨ s.index ≠ 0)
     | 9 => decide (n % 64 ≠ 0 ∨ 64 < s.index + n / 64) || (piecesOf s.data 64).any (fun e =>
         let w := dW (words64 e.2) 3
         k.ceBad (words64 e.2) || (decide (bitsAt w 60 4 = 6) && !((declared img).any (fun g => decide (g.1 = bitsAt w 32 6)))))
     | 10 => decide (s.index ≠ 0)
     | 11 => match allocs[s.index]? with
         | some a => decide (a.bytes < n)
         | none => true
     | _ => true)

/-- JOB_LOAD: every section is checked and the image becomes resident, or FAILED with the section's offset (R338). -/
def Pkg.jobLoad (k : Pkg) (j : Nat) (tag : W32) (addr len : Nat) (image : List Byte) : Pkg :=
  k.jobCmd j 2 tag [2, 3, 4] [1, 2] (fun k =>
    match k.job j with
    | none => k.cmdReject j 2 j tag stConflict (k.jobState j)
    | some x =>
      let (bytes, k) := if addr < dpaHost then k.dpaRead addr len else (image.map (fun b => (b, false)), k)
      if bytes.any (·.2) ∨ bytes.length ≠ len then k.cmdEnd j 2 j tag stFailed 0
      else
        let (secs, cut) := parseImage (len / 16 + 1) 0 (bytes.map (·.1))
        let img := secs.map (·.2)
        match secs.find? (fun e => k.sectionBad j x.allocs img e.2) with
        | some e =>
          -- a place code that names no location is a rejection that is logged (R6)
          let k := if placeOk e.2.place then k else k.onCore (·.rejectNote j 2 tag stFailed (k.jobState j))
          k.cmdEnd j 2 j tag stFailed e.1
        | none => match cut with
          | some off => k.cmdEnd j 2 j tag stFailed off
          | none =>
            let k := (ofKind img 11).foldl (fun y s => match x.allocs[s.index]? with
              | some a => y.dpaWrite a.dpa (s.data.map (fun b => (b, false)))
              | none => y) k
            ((k.setJob j (some { x with image := img, restored := none })).setJobState j 2).cmdEnd j 2 j tag stOk 0)

/-! ## Placement (R200, R211, R338) -/

/-- Physical region of a logical region: DIE_MAP in force (R211). -/
def Core.physRg (c : Core) (lrg : Nat) : Option Nat := (c.dieMap 0 (lrg / 2)).map (fun g => 2 * g + lrg % 2)
/-- Logical region of a physical region. -/
def Core.logRg (c : Core) (rg : Nat) : Nat := 2 * c.logicalDie (rg / 2) + rg % 2
/-- Physical cluster of a logical slot 4·region + n. -/
def Core.physSlot (c : Core) (ls : Nat) : Option Nat := (c.physRg (ls / 4)).map (fun rg => c.cluOf rg (ls % 4))

/-- Circuits of a job's image in their placement: region and circuit. -/
def Pkg.jobCircs (k : Pkg) (j : Nat) : List (Nat × Nat) :=
  match k.job j with
  | none => []
  | some x => (ofKind x.image 2).flatMap (fun s => match k.cl.core.physRg s.lrg with
    | some rg => (List.range (s.data.length / 4)).map (fun i => (rg, s.index + i))
    | none => [])

/-- Logical slots 4·region + n that an image uses. -/
def imageSlots (img : List Section) : List Nat :=
  (img.flatMap (fun s =>
    if s.kind = 3 ∨ s.kind = 4 ∨ s.kind = 6 then [4 * s.lrg + s.lslot]
    else if s.kind = 1 then s.entries.flatMap (fun e =>
      ((List.range 4).filter (fun n => entUses e.2 n)).map (fun n => 4 * s.lrg + n))
    else [])).eraseDups

/-- THROUGH of all entries of an image. -/
def imageThrough (img : List Section) : Nat :=
  (ofKind img 1).foldl (fun a s => s.entries.foldl (fun b e => b ||| entThrough e.2) a) 0

/-- Line tablets 0–5 that an image declares, with their LOCAL_TARGET (R305). -/
def imageLines (img : List Section) : List (Nat × Nat) :=
  ((ofKind img 10).flatMap (fun s => Config.needLines s.data)).filter (fun e => decide (e.1 < 6 ∧ 0 < e.2))

/-- Indices declared in a THROUGH word. -/
def throughs (w : Nat) : List Nat := (List.range 32).filter (fun i => decide (w / 2 ^ i % 2 = 1))

/-- Jobs admitted: RUNNING, SUSPENDED or STOPPING. -/
def Pkg.admitted (k : Pkg) : List Nat := (List.range 15).filter (fun j => decide (3 ≤ k.jobState j ∧ k.jobState j ≤ 5))

/-! ## VC0 bookings (R199, R200, R213, R214) -/

/-- Die positions at which a physical die's traffic may stand: its own, or its quadrant's relief die (R200). -/
def Pkg.dieSpots (k : Pkg) (g : Nat) : List Nat := g :: (k.reliefDie (g / 24)).toList

/-- Routers of a booked end. The five clusters of a region share their die's router. -/
def Pkg.endSpots (k : Pkg) : BookEnd → List Nat
  | .slot ls => match k.cl.core.physRg (ls / 4) with
    | some rg => k.dieSpots (rg / 2)
    | none => []
  | .edge die ep => [routerOf die ep]
  | .group _ => []

/-- Links of a route without the local output at its end, by key. -/
def meshLinks (up : Bool) (a b : Nat) : List Nat :=
  ((route up 32 a b).filter (fun l => decide (l.2 % 5 < 4))).map (fun l => linkKey l.1 l.2)

/-- Links that a transfer of a job may take in any of its placements: each carries its flits in the worst one (R200). -/
def Pkg.bookLinks (k : Pkg) (x : JobS) (b : Booking) : List Nat :=
  let pairs (up : Bool) (l m : List Nat) : List Nat := l.flatMap (fun p => m.flatMap (meshLinks up p))
  (match b.dst with
    | .group g => ((declared x.image).filter (fun (e : Nat × Nat × List Nat) => decide (e.1 = g))).flatMap (fun (e : Nat × Nat × List Nat) =>
        let roots := (k.cl.core.dieMap 0 e.2.1).toList.flatMap k.dieSpots
        pairs true (k.endSpots b.src) roots ++ e.2.2.flatMap (fun ls => pairs false roots (k.endSpots (.slot ls))))
    | d => pairs (!b.read) (k.endSpots b.src) (k.endSpots d)).eraseDups

/-- Flit-cycles that B bytes book on every link of their path (R213). -/
def bookFlits (b : Nat) : Nat := 5 * ((b + 2047) / 2048)

/-- Transfers that a job books: section 8 of its image (R199, R338). -/
def bookings (x : JobS) : List Booking :=
  (ofKind x.image 8).flatMap (fun s => (piecesOf s.data 16).map (fun e => Config.booking e.2))

/-- Flit-cycles per tick that a list of jobs books on each link. -/
def Pkg.linkLoads (k : Pkg) (l : List JobS) : KMap Nat :=
  l.foldl (fun m x => (bookings x).foldl (fun m b => (k.bookLinks x b).foldl (fun m i =>
    kput m 0 i (kget m 0 i + bookFlits b.bytes)) m) m) []

/-- Links on which the bookings of the jobs together exceed the VC0 allowance at a Run budget (R200, R213, R214). -/
def Pkg.overLinks (k : Pkg) (budget : Nat) (l : List JobS) : List Nat :=
  ((k.linkLoads l).filter (fun e => decide (k.allowance budget e.1 < e.2))).map (·.1)

/-- Whether the bookings of the jobs fit. -/
def Pkg.bookFits (k : Pkg) (budget : Nat) (l : List JobS) : Bool := (k.overLinks budget l).isEmpty

/-- Run budget of the lines: the least of the regions' effective Run budgets (R214; log entry 290). -/
def Clus.lineBudget (m : Clus) : Nat := (List.range 191).foldl (fun a rg => min a (m.effBudget (rg + 1))) (m.effBudget 0)

/-- Admitted jobs other than j. -/
def Pkg.rivalsOf (k : Pkg) (j : Nat) : List (Nat × JobS) :=
  (k.admitted.filter (fun i => decide (i ≠ j))).filterMap (fun i => (k.job i).map (fun x => (i, x)))

/-- The sets of jobs that may run at once with j: the jobs without turns beside it, alone and with each job that has turns, and
all that run now (R39). -/
def Pkg.bookSets (k : Pkg) (j : Nat) (x : JobS) : List (List JobS) :=
  let l := (k.rivalsOf j).map (·.2)
  let fixed := l.filter (fun y => !y.turns)
  (x :: fixed) :: (x :: l.filter (fun y => !y.turns || y.turn)) ::
    (l.filter (fun y => y.turns)).map (fun y => x :: y :: fixed)

/-- Why a job cannot be admitted beside the admitted jobs: 1 VC0 bookings, 2 through tablets, 3 multicast groups, 4 store
space, 5 slots; 0 where it can (R200, R339). -/
def Pkg.admission (k : Pkg) (j : Nat) (x : JobS) : Nat :=
  let others := (k.admitted.filter (fun i => decide (i ≠ j))).filterMap (fun i => k.job i)
  let c := k.cl.core
  let regions := (ofKind x.image 4).map (fun s => (4 * s.lrg + s.lslot, s.index, regionOfWords (words32 (s.data.take 32))))
  let tight := regions.any (fun e => match c.physSlot e.1 with
    | some clu => (List.range 16).any (fun r =>
        let o := c.region clu (e.2.1 / 16) r
        o.valid && decide (o.job ≠ j) && (decide (r = e.2.1 % 16) || rangesMeet o.base o.size e.2.2.base e.2.2.size))
    | none => false)
  let slots := imageSlots x.image
  let used := others.flatMap (fun y => imageSlots y.image)
  if (bookings x).isEmpty = false ∧ (k.bookSets j x).any (fun l => !k.bookFits k.cl.lineBudget l) then 1
  else if 30 < (throughs (imageThrough x.image)).length then 2
  else if x.placed = false ∧ 64 < (declared x.image).length + k.net.groups.length then 3
  else if tight then 4
  else if slots.any (fun s => (c.physSlot s).isNone || used.elem s) then 5
  else 0

/-- Admitted jobs that share with job j what its admission lacks: an overfull link, multicast groups, a store region or a slot
(R39, R200). -/
def Pkg.sharers (k : Pkg) (j : Nat) (x : JobS) (why : Nat) : List Nat :=
  let c := k.cl.core
  let hot := (k.bookSets j x).flatMap (k.overLinks k.cl.lineBudget)
  let mine := (ofKind x.image 4).map (fun s => (4 * s.lrg + s.lslot, s.index, regionOfWords (words32 (s.data.take 32))))
  ((k.rivalsOf j).filter (fun e =>
    if why = 1 then (bookings e.2).any (fun b => (k.bookLinks e.2 b).any (fun i => hot.elem i))
    else if why = 3 then decide (e.2.grps ≠ [])
    else if why = 4 then mine.any (fun m => match c.physSlot m.1 with
      | some clu => (List.range 16).any (fun r =>
          let o := c.region clu (m.2.1 / 16) r
          o.valid && decide (o.job = e.1) && (decide (r = m.2.1 % 16) || rangesMeet o.base o.size m.2.2.base m.2.2.size))
      | none => false)
    else (imageSlots e.2.image).any (fun s => (imageSlots x.image).elem s))).map (·.1)

/-- The jobs of a list get turns; each that runs holds its first turn from now on (R39). -/
def Pkg.giveTurns (k : Pkg) (l : List Nat) (forced : Bool) : Pkg :=
  let t := k.cl.core.tick.toNat
  l.foldl (fun x j => x.onJob j (fun y =>
    if y.turns then y else { y with turns := true, turn := true, since := t, forced := forced })) k

/-- Package groups still free, lowest first. -/
def Pkg.freeGroups (k : Pkg) : List Nat := (List.range 64).filter (fun g => decide (kget k.net.groups 0 g = 0))

/-- Assign package groups to a job's logical groups, write their trees into the inactive banks of the points tables and
arm the line clear that puts them in force (R196, R215, R224). -/
def Pkg.assignGroups (k : Pkg) (j : Nat) (img : List Section) : KMap Nat × Pkg :=
  let want := declared img
  if want = [] then ([], k)
  else
    let pairs := want.zip k.freeGroups
    let map : KMap Nat := pairs.foldl (fun m e => kput m 0 e.1.1 (e.2 + 1)) []
    let k := k.onNet (fun n => { n with groups := pairs.foldl (fun m e => kput m 0 e.2 (j + 1)) n.groups })
    let fresh : Bool := decide (k.cl.core.rd8 pageRoot 0x340 = 0)
    let k := k.onCore (fun c =>
      let old := c
      let trees : List (Nat × Nat × (Nat → Nat)) := pairs.map (fun e =>
        let root := (old.dieMap 0 e.1.2.1).getD 0
        let slots := e.1.2.2.filterMap (fun ls => (old.physRg (ls / 4)).map (fun rg => (rg, ls % 4)))
        (e.2, root, fun d => (slots.filter (fun s => decide (s.1 / 2 = d))).foldl
          (fun a s => a ||| 2 ^ (s.2 + 4 * (s.1 % 2))) 0))
      let c := iter 96 (fun p x =>
        let b := x.ptsBank p
        let x := if fresh then x.bankCopy p else x
        trees.foldl (fun y t => y.wr (pagePts p) (0x200 + 0x100 * (1 - b) + 4 * t.1) (treeEntry t.2.1 t.2.2 p)) x) c
      if fresh then c.lcArm (c.tick.toNat + 1) else c)
    (map, k)

/-- Whether the package groups that a job still needs are free (R196). -/
def Pkg.groupsFit (k : Pkg) (x : JobS) : Bool := x.placed || decide ((declared x.image).length ≤ k.freeGroups.length)

/-- An end word with its logical group replaced by the package group (R261). A section names declared groups only
(`Pkg.sectionBad`), and a job is placed only once all its groups are assigned (`Pkg.groupsFit`). -/
def mapEnd (grps : KMap Nat) (w : W64) : W64 :=
  if bitsAt w 60 4 = 6 then putBits w 32 6 (kget grps 0 (bitsAt w 32 6) - 1) else w

/-- Lowest 4 KiB page of the firmware area above every home copy in use (R187). -/
def Core.homeFree (c : Core) : Nat :=
  iter 46080 (fun i a =>
    let d := c.region (i / 48) (i / 16 % 3) (i % 16)
    let b := d.homeBase
    if d.valid && d.homeEn && !d.homeSrc && decide (dpaFw / 4096 ≤ b) then max a (b + (d.size * 256 + 256 + 4095) / 4096) else a)
    (dpaFw / 4096)

/-- Write one section into its placement (R338). -/
def Pkg.placeSection (k : Pkg) (j : Nat) (grps : KMap Nat) (s : Section) : Pkg :=
  match k.cl.core.physRg s.lrg with
  | none => k
  | some rg =>
    let clu := k.cl.core.cluOf rg (s.lslot % 4)
    match s.kind with
    | 1 => k.onClus (fun m => s.entries.foldl (fun x e => x.entryWrite rg e.1 e.2) m)
    | 2 => k.onCore (fun c => (words32 s.data).zipIdx.foldl (fun x e =>
        x.wr (pageTT rg) (circOff (s.index + e.2)) (putBits e.1 25 4 j)) c)
    | 3 => k.onCore (·.winWr (imemBase clu + s.index) s.data)
    | 4 =>
      let st := s.index / 16
      let r := s.index % 16
      let ws := words32 (s.data.take 32)
      let d := regionOfWords ws
      let ws := if d.homeEn && !d.homeSrc then ws.set 6 (BitVec.ofNat 32 k.cl.core.homeFree) else ws
      let k := k.onClus (fun m => (m.descWrite clu st r ws).putRaw clu st (d.base * 256)
        ((s.data.drop 32).map (fun b => (b, false))))
      let hot := if d.mode = 3 then List.range d.size else (List.range d.used).map (fun i => (d.tail + i) % d.size)
      if d.homeEn && !d.homeSrc then
        k.onClus (fun m => { m with st := { m.st with
          dirty := hot.foldl (fun q g => kput q false (65536 * (3 * clu + st) + d.base + g) true) m.st.dirty } })
      else k
    | 5 => k.onNet (fun n => { n with dlist := (piecesOf s.data 64).foldl (fun l e =>
        kput l [] (256 * rg + s.index + e.1) ((words64 e.2).set 3 (mapEnd grps (dW (words64 e.2) 3)))) n.dlist })
    | 6 => k.onClus (fun m => (piecesOf s.data 32).foldl (fun x e => x.channelWrite clu (s.index + e.1) (words32 e.2)) m)
    | 7 => k.onCore (fun c => (piecesOf s.data 8).foldl (fun x e =>
        let lo := BitVec.ofNat 32 (leAt e.2 0 4)
        let lo := if bitsAt lo 30 2 = 2 then putBits lo 11 6 (kget grps 0 (bitsAt lo 11 6) - 1) else lo
        let dst := match x.physRg (placeRegion (leAt e.2 4 4)) with
          | some t => placeRg t
          | none => leAt e.2 4 4
        x.wrs (pageTT rg) (0x500 + 8 * (s.index + e.1)) [lo, BitVec.ofNat 32 dst]) c)
    | 9 => k.onFab (fun y => { y with coll := (piecesOf s.data 64).foldl (fun l e =>
        kput l [] (64 * (rg / 48) + s.index + e.1) ((words64 e.2).set 3 (mapEnd grps (dW (words64 e.2) 3)))) y.coll })
    | 10 => k.onCore (fun c => (Config.needTablets s.data).foldl (fun x e => match x.dieMap 0 e.1 with
        | some g =>
          if 0x100 ≤ e.2 ∧ e.2 < 0x600 then
            let off := e.2 / 8 * 8
            x.wr (pageTb g) off (BitVec.ofNat 32 (j * 4096 + 2048))
          else x
        | none => x) c)
    | _ => k

/-- A job gives up its placement: its descriptors, channels, tablets, descriptor lists, collective entries and groups
(R338: READY holds no slots, stores or tablets). -/
def Pkg.unplace (k : Pkg) (j : Nat) : Pkg :=
  let k := k.onClus (fun m =>
    let m := iter 46080 (fun i x =>
      let d := x.core.region (i / 48) (i / 16 % 3) (i % 16)
      if d.valid && decide (d.job = j) then
        x.descWrite (i / 48) (i / 16 % 3) (i % 16)
          ((x.core.regionWords (i / 48) (i / 16 % 3) (i % 16)).set 0
            (putBits (x.core.rd (pageSt (i / 48) (i / 16 % 3)) (regionOff (i % 16))) 31 1 0))
      else x) m
    iter 960 (fun clu x => x.closeJob clu j) m)
  let k := k.onCore (fun c => iter 96 (fun g x => iter 160 (fun i y =>
    let off := 0x100 + 8 * i
    if y.tbValid (pageTb g) off && decide (y.tbJob (pageTb g) off = j) then y.wr (pageTb g) off 0 else y) x) c)
  let k := k.onNet (fun n => { n with groups := n.groups.filter (fun e => decide (e.2 ≠ j + 1)) })
  let k := k.onFab (fun y => { y with coll := y.coll.filter (fun e =>
    decide (k.grpJob (ceGrp e.2) ≠ j)) })
  k.onJob j (fun x => { x with grps := [], placed := false, started := false, turn := false, turns := false, susp := false,
                               due := none, spill := [] })

/-! ## Restored content (R374) -/

/-- Write what a restore read into the job's placement: regions with their contents and pointers, post counters, tablets,
channels and config entries; the circuits start at their current entries. -/
def Pkg.placeSnap (k : Pkg) (sn : Snap) : Pkg :=
  let k := sn.regs.foldl (fun x e => match x.cl.core.physSlot e.1 with
    | none => x
    | some clu =>
      let (_, st, r, ws) := e
      let d := regionOfWords ws
      let ws2 := ws.set 5 0
      let bytes : List PB := (List.range d.size).flatMap (fun g =>
        match sn.mem.find? (fun q => decide (q.1 = d.homeBase * 4096 + 256 * g)) with
        | some q => q.2
        | none => List.replicate 256 (0, false))
      x.onClus (fun m => (m.descWrite clu st r ws2).putRaw clu st (d.base * 256) bytes)) k
  let k := sn.posts.foldl (fun x e => match x.cl.core.physRg e.1 with
    | some rg => x.onCore (·.wrs (pageTT rg) 0x80 e.2)
    | none => x) k
  let k := sn.tabs.foldl (fun x e => match x.cl.core.dieMap 0 e.1 with
    | some g => x.onCore (·.wr8 (pageTb g) e.2.1 e.2.2)
    | none => x) k
  let k := sn.circs.foldl (fun x e => match x.cl.core.physRg e.1 with
    | some rg => x.onCore (fun c => c.wr (pageTT rg) (circOff e.2.1) (putBits e.2.2.1 0 12 (bitsAt e.2.2.2 0 12)))
    | none => x) k
  let k := sn.chans.foldl (fun x e => match x.cl.core.physSlot e.1 with
    | some clu =>
      let (_, n, ws, ring) := e
      x.onCore (fun c => ((c.wrs (pageMsg clu) (chanOff n) ws).winWr
        (dmemBase clu + 64 * bitsAt (ws.getD 2 0) 16 12) ring))
    | none => x) k
  let k := sn.cfgs.foldl (fun x e => match x.cl.core.physSlot e.1 with
    | some clu => x.onClus (·.setCfg clu e.2.1 (some ⟨e.2.2, false, false⟩))
    | none => x) k
  k.onFab (fun y => { y with lastGen := sn.colls.foldl (fun l e =>
    kput l 0 e.1 (if e.2.2 then e.2.1 - 1 else e.2.1)) y.lastGen })

/-- Whether a circuit starts with its job: every circuit, or after a restore those that were not STOPPED (R374). -/
def Pkg.startsWith (k : Pkg) (x : JobS) (e : Nat × Nat) : Bool :=
  match x.restored with
  | none => true
  | some sn => sn.circs.any (fun q => decide (k.cl.core.physRg q.1 = some e.1 ∧ q.2.1 = e.2 ∧ bitsAt q.2.2.2 29 3 ≠ 0))

/-- Write a job's image, and what a restore read, into its placement. -/
def Pkg.placeJob (k : Pkg) (j : Nat) : Pkg :=
  match k.job j with
  | none => k
  | some x =>
    let (grps, k) := k.assignGroups j x.image
    let k := k.onCore (fun c => iter 1920 (fun i y => y.wr8 (pageMc (i / 2) (i % 2)) (0x700 + 8 * j) x.seed.toNat) c)
    let k := x.image.foldl (fun y s => y.placeSection j grps s) k
    let k := match x.restored with
      | some sn => k.placeSnap sn
      | none => k
    k.onJob j (fun y => { y with grps := grps, placed := true })

/-- START to the job's circuits (R25, R338). -/
def Pkg.startCircs (k : Pkg) (j : Nat) : Pkg :=
  match k.job j with
  | none => k
  | some x =>
    let k := ((k.jobCircs j).filter (fun e => k.startsWith x e)).foldl (fun y e => y.onClus (·.circStart e.1 e.2)) k
    k.onJob j (fun y => { y with started := true })

/-- Apply f to the job's circuits in a state. -/
def Pkg.eachCirc (k : Pkg) (j : Nat) (states : List Nat) (f : Nat → Nat → Clus → Clus) : Pkg :=
  (k.jobCircs j).foldl (fun y e => if states.elem (y.cl.core.circState e.1 e.2) then y.onClus (f e.1 e.2) else y) k

/-- Whether a circuit of the job is in one of the states, or about to start. -/
def Pkg.anyCirc (k : Pkg) (j : Nat) (states : List Nat) : Bool :=
  (k.jobCircs j).any (fun e => states.elem (k.cl.core.circState e.1 e.2) ||
    kget k.cl.tt.startPend false (circKey e.1 e.2))

/-! ## Turns (R39, R40) -/

/-- Regions of a job's image that a turn moves, in their placement: cluster, store, region. The rest are re-bound: they
stay (R40). The image records the choice, and R338 says nowhere where (log entry 194). -/
def Pkg.turnMoves (k : Pkg) (x : JobS) : List (Nat × Nat × Nat) :=
  ((ofKind x.image 4).filter (fun s => Config.turnMoves s.place s.index s.data)).filterMap (fun s =>
    (k.cl.core.physSlot (4 * s.lrg + s.lslot)).map (fun clu => (clu, s.index / 16, s.index % 16)))

/-- Granules of a region that go with its job: all of a read-only region, the released ones of a ring (R39). -/
def turnGranules (d : RegionD) : List Nat :=
  if d.mode = 3 then List.range d.size
  else if d.mode = 1 ∨ d.mode = 2 then (List.range d.used).map (fun i => (d.tail + i) % d.size)
  else []

/-- First free 4 KiB page of the firmware area: above every home copy and every region that a turn has moved out. -/
def Pkg.spillFree (k : Pkg) : Nat :=
  (k.jobs.flatMap (fun e => match e.2 with
    | some x => x.spill
    | none => [])).foldl (fun a s => max a ((s.dpa + 256 * s.grans.length + 4095) / 4096)) k.cl.core.homeFree

/-- Move one region of job e out to HBM, with its pointers; its descriptor is no longer VALID (R39, R40). -/
def Pkg.spillOne (k : Pkg) (e clu st r : Nat) : Pkg :=
  let o := k.cl.core.region clu st r
  match k.job e with
  | none => k
  | some je =>
    if o.valid = false ∨ o.job ≠ e then k
    else
      let gs := turnGranules o
      let dpa := k.spillFree * 4096
      let ws := k.cl.core.regionWords clu st r
      let k := gs.zipIdx.foldl (fun y g =>
        let y := y.onClus (·.stTouch clu st ((o.base + g.1) * 256) 256 unitLine r)
        y.dpaWrite (dpa + 256 * g.2) (y.cl.stRaw clu st ((o.base + g.1) * 256) 256)) k
      let k := k.onClus (·.descWrite clu st r (ws.set 0 (putBits (ws.getD 0 0) 31 1 0)))
      k.setJob e (some { je with spill := je.spill ++ [⟨clu, st, r, ws, dpa, gs⟩] })

/-- Fill one region back from HBM, with its pointers. -/
def Pkg.fillOne (k : Pkg) (s : Spill) : Pkg :=
  let ws := s.words.set 5 0
  let d := regionOfWords ws
  let k := k.onClus (·.descWrite s.clu s.st s.reg ws)
  s.grans.zipIdx.foldl (fun y g =>
    let (l, y) := y.dpaRead (s.dpa + 256 * g.2) 256
    y.onClus (·.putRaw s.clu s.st ((d.base + g.1) * 256) l)) k

/-- A job whose turn comes runs: what it had moved out comes back, and its circuits go on or start (R39, R40). -/
def Pkg.turnIn (k : Pkg) (b : Nat) : Pkg :=
  match k.job b with
  | some x =>
    let k := if x.placed then x.spill.foldl Pkg.fillOne k else k.placeJob b
    let k := k.onJob b (fun y => { y with turn := true, due := none, spill := [], since := k.cl.core.tick.toNat })
    if x.started then k.eachCirc b [2] (fun rg n m => m.circResume rg n) else k.startCircs b
  | none => k

/-- The turn of job b begins after job e's: what job e moves goes out, and what job b moved out comes back (R39, R40,
R340). -/
def Pkg.turnBegin (k : Pkg) (e b : Nat) : Pkg :=
  match k.job e with
  | some xe => ((k.turnMoves xe).foldl (fun y r => y.spillOne e r.1 r.2.1 r.2.2) k).turnIn b
  | none => k

/-- Whether the bookings fit once job b runs in place of job e (R39, R200). -/
def Pkg.turnFits (k : Pkg) (e b : Nat) (xb : JobS) : Bool :=
  k.bookFits k.cl.lineBudget (xb :: ((k.rivalsOf b).filter (fun y =>
    decide (y.1 ≠ e) && (!y.2.turns || y.2.turn))).map (·.2))

/-- TURN_CHANGE: after at least TURN_MIN ticks the ending job's circuits are suspended; the beginning job's turn starts once
none of them runs and no line clear holds VC2, on which the moves travel (R204). A job with the host-suspend mark is passed
over (R39, R340), and one whose bookings would overfill a link beside the jobs that go on has no turn yet (R200). -/
def Pkg.turnChange (k : Pkg) (e b : Nat) : Pkg :=
  match k.job e, k.job b with
  | some xe, some xb =>
    if k.sbUp = false ∨ e = b ∨ k.jobState e < 3 ∨ 5 < k.jobState e ∨ k.jobState b ≠ 3 ∨ xb.susp ∨ xe.turns = false ∨
        xb.turns = false ∨ xb.turn ∨ k.cl.core.tick.toNat < xe.since + 1024 ∨ k.turnFits e b xb = false ∨
        k.groupsFit xb = false then k
    else
      let k := (k.setJob e (some { xe with turn := false })).setJob b (some { xb with due := some e })
      let k := k.eachCirc e [1] (fun rg n m => m.circSuspend rg n)
      if k.anyCirc e [1, 3] ∨ k.net.hold = true then k else k.turnBegin e b
  | _, _ => k

/-- Whether a job that waits for its turn has no other job with turns to wait for, and can be admitted now (R39). -/
def Pkg.turnAlone (k : Pkg) (b : Nat) (x : JobS) : Bool :=
  x.turns && !x.turn && x.due.isNone && !x.susp && decide (k.jobState b = 3) && !k.net.hold &&
    !((k.rivalsOf b).any (fun y => y.2.turns)) && decide (k.admission b x = 0)

/-! ## Bookings at a lower or higher Run budget (R213, R214) -/

/-- Admitted jobs, latest admitted first. -/
def Pkg.byAdmission (k : Pkg) : List (Nat × JobS) :=
  let l := k.admitted.filterMap (fun i => (k.job i).map (fun x => (i, x)))
  l.foldl (fun a e => a.takeWhile (fun y => decide (e.2.seq < y.2.seq)) ++ e ::
    a.dropWhile (fun y => decide (e.2.seq < y.2.seq))) []

/-- Links that the jobs without turns overfill, alone or with one of the jobs that have turns. -/
def Pkg.overNow (k : Pkg) (budget : Nat) : List Nat :=
  let l := k.byAdmission.map (·.2)
  let fixed := l.filter (fun y => !y.turns)
  k.overLinks budget fixed ++ (l.filter (fun y => y.turns)).flatMap (fun y => k.overLinks budget (y :: fixed))

/-- Give turns to the jobs that book an overfull link, the latest admitted first, until every sum fits; then, of those that hold
their turn, the latest admitted end theirs until the jobs that run fit (R214). -/
def Pkg.forceTurns (k : Pkg) (budget : Nat) : Pkg :=
  let k := k.byAdmission.foldl (fun x e =>
    let hot := x.overNow budget
    if !e.2.turns && (bookings e.2).any (fun b => (x.bookLinks e.2 b).any (fun i => hot.elem i)) then x.giveTurns [e.1] true
    else x) k
  k.byAdmission.foldl (fun x e =>
    let run := (x.byAdmission.map (·.2)).filter (fun y => !y.turns || y.turn)
    if e.2.turns && e.2.turn && !x.bookFits budget run then
      (x.onJob e.1 (fun y => { y with turn := false })).eachCirc e.1 [1] (fun rg n m => m.circSuspend rg n)
    else x) k

/-- End the turns that a lower budget made, the earliest admitted first, where every sum fits without them (R214). -/
def Pkg.releaseTurns (k : Pkg) (budget : Nat) : Pkg :=
  k.byAdmission.reverse.foldl (fun x e =>
    if e.2.forced && (x.bookSets e.1 { e.2 with turns := false }).all (x.bookFits budget) then
      let x := if e.2.turn || e.2.susp || x.net.hold then x else x.turnIn e.1
      x.onJob e.1 (fun y => if y.turn || y.susp then { y with turns := false, turn := false, forced := false } else y)
    else x) k

/-- Least Run budget in force or written for any region. -/
def Clus.nextBudget (m : Clus) : Nat :=
  (List.range 192).foldl (fun a rg => min a (m.core.fld (pageTT rg) 0x48 0 16)) m.lineBudget

/-- The Signal Box checks the bookings again at the Run budget that is in force or written, and gives or ends turns (R213,
R214, R221). -/
def Pkg.rebook (k : Pkg) : Pkg :=
  if k.sbUp = false ∨ k.jobs = [] then k
  else
    let b := k.cl.nextBudget
    (k.forceTurns b).releaseTurns b

/-! ## What firmware looks at in every Guard -/

/-- Running commands and turns whose condition now holds (R25, R39, R339, R340). -/
def Pkg.poll (k : Pkg) : Pkg :=
  if k.sbUp = false then k
  else
  let k := (List.range 15).foldl (fun x j => match x.job j with
    | some y =>
      let x := match y.due with
        | some e => if x.anyCirc e [1, 3] ∨ x.net.hold = true then x else x.turnBegin e j
        | none => if x.turnAlone j y then x.turnIn j else x
      if x.jobState j = 3 ∧ y.placed ∧ !y.started ∧ !y.turns ∧ x.cl.core.rd8 pageRoot 0x340 = 0 then
        (x.startCircs j)
      else x
    | none => x) k
  k.att.cmds.foldl (fun x c =>
    match c.opc with
    | 0x03 => match x.job c.job with
      | some y => if y.started || y.turns then x.cmdEnd c.ring c.opc c.job c.tag stOk 0 else x
      | none => x
    | 0x04 => if x.anyCirc c.job [1, 3] then x.eachCirc c.job [1] (fun rg n m =>
          if kget m.tt.suspPend false (circKey rg n) then m else m.circSuspend rg n)
        else (x.setJobState c.job 4).cmdEnd c.ring c.opc c.job c.tag stOk 0
    | 0x06 => if x.anyCirc c.job [1, 2, 3] then x.eachCirc c.job [1, 2] (fun rg n m => m.circStop rg n)
        else ((x.unplace c.job).setJobState c.job 2).cmdEnd c.ring c.opc c.job c.tag stOk 0
    | 0x07 => if x.anyCirc c.job [1, 2, 3, 4] then x.onClus (·.abortJob c.job)
        else ((x.unplace c.job).setJobState c.job 2).cmdEnd c.ring c.opc c.job c.tag stOk 0
    -- ROUTE_SET ends with the swap, or with FB_DRAIN_FAIL after 16 deferrals (R307)
    | 0x24 => if x.cl.core.rd8 pageFbPkg 0x50 ≠ 0 then x
        else x.cmdEnd c.ring c.opc c.job c.tag (if 16 ≤ x.cl.core.fld pageFbPkg 0x4C 0 8 then stFailed else stOk) 0
    | _ => x) k

/-! ## The job commands (R339, R340) -/

/-- A new job. -/
def newJob (seed : W64) (turns : Bool) : JobS :=
  { seed := seed, allowTurns := turns, image := [], allocs := [], grps := [], susp := false, turns := false, turn := false,
    since := 0, seq := 0, forced := false, placed := false, started := false, due := none, spill := [], restored := none }

/-- JOB_CREATE: the seed goes into every M-core (R70, R339). -/
def Pkg.jobCreate (k : Pkg) (j : Nat) (tag : W32) (seed : W64) (turns : Bool) : Pkg :=
  k.jobCmd j 1 tag [2, 3, 4] [0] (fun k =>
    let k := k.onCore (fun c => iter 1920 (fun i y => y.wr8 (pageMc (i / 2) (i % 2)) (0x700 + 8 * j) seed.toNat) c)
    ((k.setJob j (some (newJob seed turns))).setJobState j 1).cmdEnd j 1 j tag stOk 0)

/-- JOB_START: admission, placement and START; NO_RESOURCE with the reason, or turns (R200, R339). -/
def Pkg.jobStart (k : Pkg) (j : Nat) (tag : W32) : Pkg :=
  k.jobCmd j 3 tag [2, 3] [2] (fun k =>
    match k.job j with
    | none => k.cmdReject j 3 j tag stConflict (k.jobState j)
    | some x =>
      let why := k.admission j x
      let seq := 1 + (k.rivalsOf j).foldl (fun a e => max a e.2.seq) 0
      if why ≠ 0 ∧ !x.allowTurns then k.cmdEnd j 3 j tag stNoRes why
      else if why ≠ 0 then
        -- turns, with the jobs that share what it lacks
        let k := k.giveTurns (k.sharers j x why) false
        (((k.setJob j (some { x with turns := true, seq := seq })).setJobState j 3).cmdRun j 3 j tag).poll
      else ((((k.setJob j (some { x with seq := seq })).placeJob j).setJobState j 3).cmdRun j 3 j tag).poll)

/-- JOB_SUSPEND (R340). -/
def Pkg.jobSuspend (k : Pkg) (j : Nat) (tag : W32) : Pkg :=
  k.jobCmd j 4 tag [2, 3] [3] (fun k =>
    let k := (k.onJob j (fun x => { x with susp := true })).eachCirc j [1] (fun rg n m => m.circSuspend rg n)
    (k.cmdRun j 4 j tag).poll)

/-- JOB_RESUME (R340). -/
def Pkg.jobResume (k : Pkg) (j : Nat) (tag : W32) : Pkg :=
  k.jobCmd j 5 tag [2, 3] [4] (fun k =>
    let k := k.onJob j (fun x => { x with susp := false })
    let go : Bool := match k.job j with
      | some x => x.turn || !x.turns
      | none => false
    let k := if go then k.eachCirc j [2] (fun rg n m => m.circResume rg n) else k
    (k.setJobState j 3).cmdEnd j 5 j tag stOk 0)

/-- JOB_STOP: STOPPING until every circuit has finished, then READY (R339). -/
def Pkg.jobStop (k : Pkg) (j : Nat) (tag : W32) : Pkg :=
  k.jobCmd j 6 tag [2, 3] [3, 4] (fun k =>
    let k := if k.jobState j = 3 then k.setJobState j 5 else k
    let k := k.eachCirc j [1, 2] (fun rg n m => m.circStop rg n)
    (k.cmdRun j 6 j tag).poll)

/-- JOB_ABORT: ABORT to every circuit; READY once all are STOPPED (R339). -/
def Pkg.jobAbort (k : Pkg) (j : Nat) (tag : W32) : Pkg :=
  k.jobCmd j 7 tag [2, 3] [3, 4, 5] (fun k => ((k.onClus (·.abortJob j)).cmdRun j 7 j tag).poll)

/-- Segments that a job owns leave the table (R257). -/
def Pkg.dropSegs (k : Pkg) (keep : Nat → Bool) : Pkg :=
  k.onCore (fun c => iter 64 (fun e x => if keep e then x else x.setFld pageSeg (0x100 + 16 * e + 12) 31 1 0) c)

/-- The segment table as written, which takes effect at the next Departure (R257). -/
def Pkg.segApply (k : Pkg) : Pkg :=
  k.onHbm (fun b => { b with seg := (List.range 256).foldl (fun m i => kput m 0 i (k.cl.core.rd pageSeg (0x100 + 4 * i))) b.seg })

/-- JOB_DESTROY: the job, its allocations and its placement go (R339). -/
def Pkg.jobDestroy (k : Pkg) (j : Nat) (tag : W32) : Pkg :=
  k.jobCmd j 10 tag [2, 3, 4] [1, 2, 6] (fun k =>
    let w := k.segApply
    let k := (k.unplace j).dropSegs (fun e => !(w.segValid e && decide (w.segJob e = j)))
    ((k.setJob j none).setJobState j 0).cmdEnd j 10 j tag stOk 0)

/-! ## Memory (R257, R402) -/

/-- Whether a mode and set are well formed. -/
def setOk (mode set : Nat) : Bool :=
  if mode = 0 then decide (set = 0) else if mode = 1 then decide (set < 4) else if mode = 2 then decide (set < 24) else false
/-- Whether every quadrant of a set is in service (R402). -/
def Pkg.setIn (k : Pkg) (mode set : Nat) : Bool :=
  if mode = 0 then (List.range 4).all (fun q => k.quadIn q) else if mode = 1 then k.quadIn set else k.quadIn (set / 6)
/-- Whether two sets share a pseudo-channel. -/
def setsMeet (m1 s1 m2 s2 : Nat) : Bool :=
  if m1 = 0 ∨ m2 = 0 then true
  else if m1 = 1 ∧ m2 = 1 then decide (s1 = s2)
  else if m1 = 1 then decide (s1 = s2 / 6)
  else if m2 = 1 then decide (s2 = s1 / 6)
  else decide (s1 = s2)

/-- Lowest start, from the candidates 0 and the ends of the taken ranges, of a free range of n below a limit. -/
def firstFit (taken : List (Nat × Nat)) (n limit : Nat) : Option Nat :=
  let cands := 0 :: taken.map (fun e => e.1 + e.2)
  let ok := cands.filter (fun a => decide (a + n ≤ limit) && !(taken.any (fun e => rangesMeet a n e.1 e.2)))
  match ok with
  | [] => none
  | x :: xs => some (xs.foldl min x)

/-- Units of 2 MiB, as first unit and count, of the ranges that accesses under an earlier generation of a window still use, above a
base: while OLD_BUSY is 1 they are not reused (R271). -/
def Pkg.oldUnits (k : Pkg) (base : Nat) : List (Nat × Nat) :=
  (k.fab.oldWin.flatMap (·.2)).map (fun o =>
    let a := (o.1 - base) / 2 ^ 21
    (a, (o.1 + o.2 - base + 2 ^ 21 - 1) / 2 ^ 21 - a))

/-- DPA of the first free place for an allocation in a segment the job already has for the mode and set. -/
def Pkg.allocInSeg (k : Pkg) (j bytes mode set : Nat) : Option Nat :=
  let w := k.segApply
  let units := (bytes + 2 ^ 21 - 1) / 2 ^ 21
  let allocs := ((List.range 15).filterMap (fun i => k.job i)).flatMap (fun x => x.allocs)
  (List.range 64).findSome? (fun e =>
    if w.segValid e && decide (w.segMode e = mode ∧ w.segSet e = set ∧ w.segJob e = j ∧ w.segShared e = false) then
      let b := w.segBase e
      (firstFit ((allocs.filter (fun a => decide (b ≤ a.dpa ∧ a.dpa < b + w.segSpan e))).map
        (fun a => ((a.dpa - b) / 2 ^ 21, (a.bytes + 2 ^ 21 - 1) / 2 ^ 21)) ++ k.oldUnits b) units (w.segSpan e / 2 ^ 21)).map
        (fun u => b + u * 2 ^ 21)
    else none)

/-- A free segment entry, its first row and its first unit of the address space, for a new segment of `rows` rows. -/
def Pkg.allocPlace (k : Pkg) (rows mode set : Nat) : Option (Nat × Nat × Nat) :=
  let w := k.segApply
  let segs := (List.range 64).filter (fun e => w.segValid e)
  let rowsTaken := (segs.filter (fun e => setsMeet mode set (w.segMode e) (w.segSet e))).map
    (fun e => (w.segRow e, w.segRows e))
  let dpas := segs.map (fun e => (w.segBase e / 2 ^ 21, w.segSpan e / 2 ^ 21)) ++ k.oldUnits 0
  match (List.range 64).find? (fun e => !w.segValid e), firstFit rowsTaken rows 2048,
        firstFit dpas (rows * setLen mode set) (dpaFw / 2 ^ 21) with
  | some e, some row, some u => some (e, row, u)
  | _, _, _ => none

/-- Write a new segment entry: `rows` rows from `row` of the mode and set, unit `u` of the address space, for job j (R257). -/
def Pkg.segNew (k : Pkg) (j mode set rows e row u : Nat) : Pkg :=
  let w3 := 2 ^ 31 + mode * 2 ^ 29 + set * 2 ^ 24 + j * 2 ^ 20 + row * 2 ^ 8 + (rows - 1) / 8
  let w2 := (rows - 1) % 8 * 2 ^ 29
  let dpa := u * 2 ^ 21
  k.onCore (·.wrs pageSeg (0x100 + 16 * e)
    [BitVec.ofNat 32 dpa, BitVec.ofNat 32 (dpa / 2 ^ 32), BitVec.ofNat 32 w2, BitVec.ofNat 32 w3])

/-- Rows of a segment for a number of bytes over a set. -/
def segRowsFor (bytes mode set : Nat) : Nat := ((bytes + 2 ^ 21 - 1) / 2 ^ 21 + setLen mode set - 1) / setLen mode set

/-- Place an allocation: in a segment of the job, mode and set with room, or in a new segment (R257). -/
def Pkg.allocate (k : Pkg) (j bytes mode set : Nat) : Option (Nat × Pkg) :=
  match k.allocInSeg j bytes mode set with
  | some dpa => some (dpa, k)
  | none =>
    match k.allocPlace (segRowsFor bytes mode set) mode set with
    | some (e, row, u) => some (u * 2 ^ 21, k.segNew j mode set (segRowsFor bytes mode set) e row u)
    | none => none

/-- ALLOC (R257, R339, R402). -/
def Pkg.alloc (k : Pkg) (j : Nat) (tag : W32) (bytes mode set : Nat) : Pkg :=
  if j ≠ 15 ∧ (setOk mode set = false ∨ bytes = 0) then k.cmdReject j 11 j tag stInvalid (k.jobState j)
  else k.jobCmd j 11 tag [2, 3, 4] [1, 2, 3, 4] (fun k =>
    if k.setIn mode set = false then k.cmdEnd j 11 j tag stNoRes 0
    else match k.allocate j bytes mode set with
      | none => k.cmdEnd j 11 j tag stNoRes 0
      | some (dpa, k) =>
        (k.onJob j (fun x => { x with allocs := x.allocs ++ [⟨dpa, bytes, mode, set⟩] })).cmdEnd j 11 j tag stOk dpa)

/-- FREE: the allocation at a DPA; a segment with none left leaves the table (R339). -/
def Pkg.free (k : Pkg) (j : Nat) (tag : W32) (dpa : Nat) : Pkg :=
  let own : List Alloc := match k.job j with
    | some x => x.allocs
    | none => []
  k.jobCmd j 12 tag [2, 3, 4] [1, 2, 6] (fun k =>
    if !own.any (fun a => decide (a.dpa = dpa)) then k.cmdReject j 12 j tag stInvalid (k.jobState j)
    else
      let left := own.filter (fun a => decide (a.dpa ≠ dpa))
      let k := k.onJob j (fun x => { x with allocs := left })
      let w := k.segApply
      let k := k.dropSegs (fun e => !(w.segValid e && decide (w.segJob e = j) && decide (w.segBase e ≤ dpa) &&
        decide (dpa < w.segBase e + w.segSpan e) &&
        !(left.any (fun a => decide (w.segBase e ≤ a.dpa ∧ a.dpa < w.segBase e + w.segSpan e)))))
      k.cmdEnd j 12 j tag stOk 0)

/-! ## Checkpoints (R371–R374) -/

/-- Regions of a job: cluster, store, region. -/
def Core.regionsOf (c : Core) (j : Nat) : List (Nat × Nat × Nat) :=
  (List.range 46080).filterMap (fun i =>
    let d := c.region (i / 48) (i / 16 % 3) (i % 16)
    if d.valid && decide (d.job = j) then some (i / 48, i / 16 % 3, i % 16) else none)

/-- An empty capture. -/
def emptySnap (t : Nat) : Snap :=
  { tick := t, mem := [], allocs := [], regs := [], circs := [], posts := [], tabs := [], chans := [], cfgs := [],
    colls := [] }

/-- FW_CUT and FW_CUT_FAIL (R379). -/
def Pkg.cutEvent (k : Pkg) (j code t : Nat) : Pkg :=
  k.onCore (fun c => c.fwEvent code sevInfo j c.sbxPlace (detailBi j 0xFF 0xFF 0xFF code 0 0 t))

/-- JOB_CHECKPOINT: the cut tick is chosen; a non-tick-local region without a home copy makes it FAILED (R371, R373). -/
def Pkg.jobCheckpoint (k : Pkg) (j : Nat) (tag : W32) (target : Nat) (group : Bool) : Pkg :=
  k.jobCmd j 8 tag [2, 3] [2, 3, 4] (fun k =>
    let c := k.cl.core
    match (c.regionsOf j).find? (fun e => decide ((c.region e.1 e.2.1 e.2.2).mode ≠ 0) && !(c.region e.1 e.2.1 e.2.2).homeEn) with
    | some e => k.cmdEnd j 8 j tag stFailed (e.2.1 * 16 + e.2.2)
    | none =>
      if group ∧ (k.grpOfJob j).isNone then k.cmdReject j 8 j tag stInvalid (k.jobState j)
      else
        let t := c.tick.toNat
        let at_ := if group then (t + 16 + 255) / 256 * 256 else if c.inGuard then t + 1 else t
        let cut : Cut := { tick := at_, target := target, tag := tag, group := group, taken := false, snap := emptySnap at_ }
        (k.onHbm (fun b => { b with cuts := kput b.cuts none j (some cut) })).cmdRun j 8 j tag)

/-- Cuts that are due in the present tick, by job. -/
def Pkg.cutsAt (k : Pkg) (t : Nat) : List (Nat × Cut) :=
  k.hbm.cuts.filterMap (fun e => match e.2 with
    | some c => if c.tick = t then some (e.1, c) else none
    | none => none)

/-- THROUGH_REBIND for group cuts: line tablet 6 is bound for the next tick with LOCAL_TARGET 1 (R373). -/
def Pkg.cutBind (k : Pkg) : Pkg :=
  if k.sbUp = false then k
  else
  let l := (k.cutsAt (k.cl.core.tick.toNat + 1)).filter (fun e => e.2.group)
  k.onCore (fun c => match l with
    | e :: _ => (c.wr pageRoot (lineOff 6) (BitVec.ofNat 32 (65536 + e.1 * 4096 + 2048))).setTb pageRoot (lineOff 6) 0 0
    | [] => (c.wr pageRoot (lineOff 6) 0).setTb pageRoot (lineOff 6) 0 0)

/-- Departure offset 95 of a group cut's tick: this member arrives where the job is RUNNING or SUSPENDED and no collective
run of it is in progress (R373). -/
def Pkg.cutArrive (k : Pkg) : Pkg :=
  let l := (k.cutsAt k.cl.core.tick.toNat).filter (fun e => e.2.group)
  l.foldl (fun x e =>
    let busy := x.fab.runs.any (fun r => r.2.isSome && decide (x.grpJob (ceGrp (kget x.fab.coll [] r.1)) = e.1))
    if (x.jobState e.1 = 3 ∨ x.jobState e.1 = 4) ∧ !busy then
      (x.onClus (fun m => (m.tabArrive pageRoot (lineOff 6)).2)).lineFlush
    else x) k

/-- Close offset 0 of a group cut's tick: a member whose generation has not completed takes no cut (R373). -/
def Pkg.cutClose (k : Pkg) : Pkg :=
  let l := (k.cutsAt k.cl.core.tick.toNat).filter (fun e => e.2.group)
  l.foldl (fun x e =>
    if x.cl.core.tbGen pageRoot (lineOff 6) = 0 then
      ((x.dropCut e.1).cutEvent e.1 0x0E49 e.2.tick).cmdEnd e.1 8 e.1 e.2.tag stFailed 0
    else x) k

/-- Granules of a DPA range: their DPAs. -/
def granulesOf (dpa bytes : Nat) : List Nat := (List.range ((bytes + 255) / 256)).map (fun i => dpa + 256 * i)

/-- Guard offset 0 of C: every granule of the job's allocations and home copies is marked; config entries and collective
entries are captured (R371, R372). -/
def Pkg.cutTake (k : Pkg) : Pkg :=
  (k.cutsAt k.cl.core.tick.toNat).foldl (fun x e =>
    let (j, cut) := e
    let c := x.cl.core
    let own : List Alloc := match x.job j with
      | some y => y.allocs
      | none => []
    let regs := c.regionsOf j
    let homes := regs.flatMap (fun r =>
      let d := c.region r.1 r.2.1 r.2.2
      if d.homeEn then granulesOf (d.homeBase * 4096) (d.size * 256 + 256) else [])
    let spills := match x.job j with
      | some y => y.spill.flatMap (fun s => granulesOf s.dpa (256 * s.grans.length))
      | none => []
    let dpas := own.flatMap (fun a => granulesOf a.dpa a.bytes) ++ homes ++ spills
    let marks := dpas.foldl (fun m a => match x.media a with
      | some (h, p, off) => kput m none (2 ^ 24 * pcKey h p + off / 256) (some ⟨j, a⟩)
      | none => m) x.hbm.marks
    let slots := (regs.map (fun r => r.1)).eraseDups
    let cfgs := slots.flatMap (fun clu => (List.range 16).filterMap (fun n => match x.cl.cfgEntry clu n, c.slotOfClu clu with
      | some ce, some s => some (4 * c.logRg (clu / 5) + s, n, ce.words)
      | _, _ => none))
    let colls : List (Nat × Nat × Bool) := x.fab.coll.filterMap (fun q =>
      if x.grpJob (ceGrp q.2) = j then some (q.1, kget x.fab.lastGen 0 q.1, (kget x.fab.runs none q.1).isSome) else none)
    let runs := x.fab.runs.map (fun r =>
      (r.1, if colls.any (fun q => decide (q.1 = r.1)) then r.2.map (fun y => { y with restart := true }) else r.2))
    let snap := { cut.snap with allocs := own, cfgs := cfgs, colls := colls }
    (x.onFab (fun y => { y with runs := runs })).onHbm (fun b => { b with
      marks := marks, cuts := kput b.cuts none j (some { cut with taken := true, snap := snap }) })) k

/-- Change the capture of every cut of tick t. -/
def Pkg.onCuts (k : Pkg) (t : Nat) (f : Nat → Snap → Snap) : Pkg :=
  (k.cutsAt t).foldl (fun x e => x.onHbm (fun b => { b with
    cuts := kput b.cuts none e.1 (some { e.2 with snap := f e.1 e.2.snap }) })) k

/-- Guard offset 0 of C + 1 at a region, after the held releases: pointers, circuits, post counters and tablets are latched
(R371). Die tablets are latched with region A. -/
def Pkg.cutLatch (k : Pkg) (rg : Nat) : Pkg :=
  if k.cl.core.tick.toNat = 0 then k
  else
    let c := k.cl.core
    let lr := c.logRg rg
    k.onCuts (c.tick.toNat - 1) (fun j sn =>
      let mine := (c.regionsOf j).filter (fun r => decide (r.1 / 5 = rg))
      let regs := mine.filterMap (fun r => (c.slotOfClu r.1).map (fun s =>
        (4 * lr + s, r.2.1, r.2.2, c.regionWords r.1 r.2.1 r.2.2)))
      let circs := ((List.range 64).filter (fun n => decide (c.circJob rg n = j ∧ (k.jobCircs j).elem (rg, n)))).map
        (fun n => (lr, n, c.rd (pageTT rg) (circOff n), c.rd (pageTT rg) (circOff n + 4)))
      let posts := if circs.isEmpty then [] else [(lr, (List.range 32).map (fun i => c.rd (pageTT rg) (0x80 + 4 * i)))]
      let offs := (List.range 64).map (fun i => localTbOff (rg % 2) i) ++
        (if rg % 2 = 0 then (List.range 32).map dieTbOff else [])
      let tabs := (offs.filter (fun o => c.tbValid (pageTb (rg / 2)) o && decide (c.tbJob (pageTb (rg / 2)) o = j))).map
        (fun o => (lr / 2, o, c.rd8 (pageTb (rg / 2)) o))
      { sn with regs := sn.regs ++ regs, circs := sn.circs ++ circs, posts := sn.posts ++ posts, tabs := sn.tabs ++ tabs })

/-- Departure offset 64 of C + 1 at a region: the job's open channels and their rings (R371). -/
def Pkg.cutChannels (k : Pkg) (rg : Nat) : Pkg :=
  if k.cl.core.tick.toNat = 0 then k
  else
    let c := k.cl.core
    k.onCuts (c.tick.toNat - 1) (fun j sn =>
      { sn with chans := sn.chans ++ (List.range 4).flatMap (fun s =>
          let clu := c.cluOf rg s
          ((List.range 32).filter (fun n => c.chOpen clu n && decide (c.chJob clu n = j))).map (fun n =>
            (4 * c.logRg rg + s, n, (List.range 8).map (fun i => c.rd (pageMsg clu) (chanOff n + 4 * i)),
             if c.chRecv clu n then c.winRds (dmemBase clu + c.chBase clu n) (c.chSize clu n) else []))) })

/-- Whether every store that holds a home copy of the job has reached the tick of the cut (R371). -/
def Pkg.homesReach (k : Pkg) (j t : Nat) : Bool :=
  (k.cl.core.regionsOf j).all (fun r =>
    !(k.cl.core.region r.1 r.2.1 r.2.2).homeKept || decide (t ≤ k.cl.core.rd8 (pageSt r.1 r.2.1) 0x300))

/-- CUT_COMPLETE: the background copy takes every granule still marked, buffered or staged; with the latches done and the
home copies at C, the checkpoint is complete with FW_CUT (R371, R372). -/
def Pkg.cutComplete (k : Pkg) (j : Nat) : Pkg :=
  match kget k.hbm.cuts none j with
  | none => k
  | some cut =>
    let c := k.cl.core
    let latched : Bool := decide (cut.tick + 1 < c.tick.toNat ∨ (cut.tick + 1 = c.tick.toNat ∧ c.guard0 + 32 ≤ c.cycle))
    if !cut.taken ∨ !latched ∨ !k.homesReach j cut.tick then k
    else
      let mine := k.hbm.marks.filterMap (fun e => match e.2 with
        | some m => if m.job = j then some m.dpa else none
        | none => none)
      let (mem, k) := mine.foldl (fun (a : List (Nat × List PB) × Pkg) dpa =>
        let r := a.2.dpaRead dpa 256
        (a.1 ++ [(dpa, r.1)], r.2)) ([], k)
      let old := (k.hbm.cow.flatMap (·.2) ++ k.hbm.staged).filter (fun e => decide (e.1.job = j))
      let mem := mem ++ old.map (fun e => (e.1.dpa, e.2))
      let poison := mem.any (fun e => e.2.any (·.2))
      let snap := { cut.snap with mem := mem }
      let k := { k with ckpts := kput k.ckpts none cut.target (some snap) }
      ((k.dropCut j).cutEvent j 0x0E48 cut.tick).cmdEnd j 8 j cut.tag stOk (cut.tick % 2 ^ 63 + (if poison then 2 ^ 63 else 0))

/-- JOB_RESTORE: the allocations are written back, and the rest at the next JOB_START (R374). -/
def Pkg.jobRestore (k : Pkg) (j : Nat) (tag : W32) (addr : Nat) : Pkg :=
  k.jobCmd j 9 tag [2, 3] [2, 6] (fun k =>
    match k.job j, kget k.ckpts none addr with
    | some x, some sn =>
      if x.allocs.map (fun a => (a.bytes, a.mode, a.set)) ≠ sn.allocs.map (fun a => (a.bytes, a.mode, a.set)) then
        k.cmdEnd j 9 j tag stFailed 0
      else
        let k := (sn.allocs.zip x.allocs).foldl (fun y e =>
          (sn.mem.filter (fun g => decide (e.1.dpa ≤ g.1 ∧ g.1 < e.1.dpa + e.1.bytes))).foldl
            (fun z g => z.dpaWrite (e.2.dpa + (g.1 - e.1.dpa)) (g.2.take (e.1.dpa + e.1.bytes - g.1))) y) k
        let k := if k.jobState j = 6 then k.unplace j else k
        ((k.onJob j (fun y => { y with restored := some sn })).setJobState j 2).cmdEnd j 9 j tag stOk 0
    | _, _ => k.cmdEnd j 9 j tag stFailed 0)

/-! ## Through-tablet leases (R231, R235) -/

/-- Running jobs whose image answers true, round-robin from the job whose turn it is (R235). -/
def Pkg.bindOrder (k : Pkg) (p : List Section → Bool) : List Nat :=
  let js := (List.range 15).filter (fun j => decide (k.jobState j = 3) && (match k.job j with
    | some x => p x.image
    | none => false))
  js.filter (fun j => decide (k.cl.tab.rr ≤ j)) ++ js.filter (fun j => decide (j < k.cl.tab.rr))

/-- Logical through tablets to bind for the next tick: each job's whole declared set while the 30 tablets suffice (R235). -/
def Pkg.thruSets (k : Pkg) (order : List Nat) : List (Nat × Nat) :=
  order.foldl (fun (a : List (Nat × Nat)) j => match k.job j with
    | some x =>
      let t := throughs (imageThrough x.image)
      if a.length + t.length ≤ 30 then a ++ t.map (fun i => (j, i)) else a
    | none => a) []

/-- Line tablets to bind for the next tick, with their job and LOCAL_TARGET: each job's whole declared set, where the job has a
fabric group and none of its lines is bound to an earlier job (R235, R305). -/
def Pkg.lineSets (k : Pkg) (order : List Nat) : List (Nat × Nat × Nat) :=
  order.foldl (fun (a : List (Nat × Nat × Nat)) j => match k.job j with
    | some x =>
      let l := imageLines x.image
      if (k.grpOfJob j).isNone || l.any (fun e => a.any (fun b => b.1 == e.1)) then a else a ++ l.map (fun e => (e.1, j, e.2))
    | none => a) []

/-- The Signal Box writes the binding of the next tick, of through and line tablets, round-robin by job (R235, R305). -/
def Pkg.bindNext (k : Pkg) : Pkg :=
  if k.sbUp = false ∨ k.jobs = [] then k
  else
    let order := k.bindOrder (fun l => decide (imageThrough l ≠ 0))
    let lorder := k.bindOrder (fun l => decide (imageLines l ≠ []))
    let sets := k.thruSets order
    let lines := k.lineSets lorder
    let k := k.onCore (fun c => iter 30 (fun i x => x.wr pageRoot (0x280 + 4 * i)
      (match sets[i]? with
       | some e => BitVec.ofNat 32 (2 ^ 31 + e.1 * 2 ^ 27 + e.2 * 2 ^ 22)
       | none => 0)) c)
    k.onClus (fun m => { m with tab := { m.tab with linePend := lines, rr := match order ++ lorder with
      | j :: _ => j + 1
      | [] => 0 } })

/-! ## The commands of this part -/

/-- JOB_CREATE (R339). -/
def execJobCreate (j : Job) (tag : W32) (seed : W64) (t : Bool) (s : State) : Out :=
  .next (s.onPkg (·.jobCreate j.val tag seed t))
/-- JOB_LOAD (R338, R339). -/
def execJobLoad (j : Job) (tag : W32) (addr len : W64) (image : List Byte) (s : State) : Out :=
  .next (s.onPkg (·.jobLoad j.val tag addr.toNat len.toNat image))
/-- JOB_START (R339). -/
def execJobStart (j : Job) (tag : W32) (s : State) : Out := .next (s.onPkg (·.jobStart j.val tag))
/-- JOB_SUSPEND (R339, R340). -/
def execJobSuspend (j : Job) (tag : W32) (s : State) : Out := .next (s.onPkg (·.jobSuspend j.val tag))
/-- JOB_RESUME (R339, R340). -/
def execJobResume (j : Job) (tag : W32) (s : State) : Out := .next (s.onPkg (·.jobResume j.val tag))
/-- JOB_STOP (R339). -/
def execJobStop (j : Job) (tag : W32) (s : State) : Out := .next (s.onPkg (·.jobStop j.val tag))
/-- JOB_ABORT (R339). -/
def execJobAbort (j : Job) (tag : W32) (s : State) : Out := .next (s.onPkg (·.jobAbort j.val tag))
/-- JOB_CHECKPOINT (R339, R371). -/
def execJobCheckpoint (j : Job) (tag : W32) (target : W64) (g : Bool) (s : State) : Out :=
  .next (s.onPkg (·.jobCheckpoint j.val tag target.toNat g))
/-- JOB_RESTORE (R339, R374). -/
def execJobRestore (j : Job) (tag : W32) (addr : W64) (s : State) : Out := .next (s.onPkg (·.jobRestore j.val tag addr.toNat))
/-- JOB_DESTROY (R339). -/
def execJobDestroy (j : Job) (tag : W32) (s : State) : Out := .next (s.onPkg (·.jobDestroy j.val tag))
/-- ALLOC (R257, R339). -/
def execAlloc (j : Job) (tag : W32) (bytes : W64) (mode : BitVec 2) (set : BitVec 5) (s : State) : Out :=
  .next (s.onPkg (·.alloc j.val tag bytes.toNat mode.toNat set.toNat))
/-- FREE (R339). -/
def execFree (j : Job) (tag : W32) (dpa : W64) (s : State) : Out := .next (s.onPkg (·.free j.val tag dpa.toNat))
/-- TURN_CHANGE (R39). -/
def execTurnChange (e b : Job) (s : State) : Out := .next (s.onPkg (·.turnChange e.val b.val))
/-- CUT_COMPLETE (R372). -/
def execCutComplete (j : Job) (s : State) : Out := .next (s.onPkg (·.cutComplete j.val))
/-- THROUGH_REBIND (R231): the lease of the next tick, line tablet 6 for a group cut, and the binding after it (R235). -/
def execThroughRebind (s : State) : Out := 
  .next (s.onPkg (fun k =>
    (((k.onCore (fun c => { c with cycle := c.guard0 + 192 })).onClus (·.thruRebind)).cutBind).bindNext))

end Sys2Proof.Machine
end

