-- ==== Sys2Proof/Machine/Time.lean ====
section
/-!
DEFINITION. Time over the fabric (R309–R313): time frames, the choice of master and parent, the offset and its
correction, and the states of TIME_STATE.
-/
namespace Sys2Proof.Machine

/-- Station time in 1/16 ns (R309). -/
def Core.stationTime (c : Core) : Int := (c.tick.toNat : Int) * 160000 + (c.frac : Int)

/-- STATE of TIME_STATE: 0 free, 1 acquiring, 2 locked, 3 holdover. -/
def Core.timeState (c : Core) : Nat := c.fld pageTime 0x4C 29 3
/-- Set it. -/
def Core.setTimeState (c : Core) (x : Nat) : Core := c.setFld pageTime 0x4C 29 3 x

/-- An event of the time machinery: it names the port it is about, and the Signal Box where it is about none (R314; log
entry 319). -/
def Pkg.timeEvent (k : Pkg) (code sev node port w : Nat) : Pkg :=
  let (place, genw) := if port < 18 then (linkLoc port, (k.link port).genw port) else (placeSbx 0, 0)
  k.onCore (·.record pageTime code sev 15 place (detailFb node port 0 genw 0 w))

/-- Offers heard within the last 16 ticks, by port (R311). -/
def Pkg.liveOffers (k : Pkg) : List (Nat × TimeOffer) :=
  (List.range 18).filterMap (fun p => match kget k.fab.offers none p with
    | some o => if k.cl.core.tick.toNat ≤ o.tick + 16 then some (p, o) else none
    | none => none)

/-- The master to take: its node and the parent port, 31 for this device itself; none where no master is heard (R311). -/
def Pkg.bestMaster (k : Pkg) : Option (Nat × Nat × Nat) :=
  let l := k.liveOffers
  let own : Option Nat := if bitAt (k.cl.core.rd pageTime 0x54) 31 ∧ bitAt (k.cl.core.rd pageFbPkg 0x40) 0 then some k.node else none
  let heard : Option Nat := l.foldl (fun b e => match b with
    | none => some e.2.master
    | some m => some (min m e.2.master)) none
  let fromPort (m : Nat) : Option (Nat × Nat × Nat) :=
    l.foldl (fun b e => if e.2.master ≠ m then b else match b with
      | none => some (m, e.1, e.2.hops + 1)
      | some (x, p, h) => if e.2.hops + 1 < h then some (m, e.1, e.2.hops + 1) else some (x, p, h)) none
  match own, heard with
  | some o, some m => if o ≤ m then some (o, 31, 0) else fromPort m
  | some o, none => some (o, 31, 0)
  | none, some m => fromPort m
  | none, none => none

/-- Take the best master and parent; FB_TIME_MASTER at each change of master, and HOLDOVER where a locked device loses
every master (R311, R313). -/
def Pkg.chooseMaster (k : Pkg) : Pkg :=
  let c := k.cl.core
  let old := if bitAt (c.rd pageTime 0x4C) 28 ∨ c.fld pageTime 0x58 0 5 ≠ 31 ∧ c.timeState ≠ 0 then some (c.fld pageTime 0x4C 0 16) else none
  match k.bestMaster with
  | none =>
    if old.isNone ∨ c.timeState = 3 then k
    else
      let k := k.onFab (fun y => { y with lockCnt := 0 })
      let k := k.onCore (fun c => (c.setFld pageTime 0x4C 28 1 0).setFld pageTime 0x58 0 5 31)
      if c.timeState = 2 then
        (k.timeEvent 0x0A18 sevDegr (c.fld pageTime 0x4C 0 16) (if c.fld pageTime 0x58 0 5 = 31 then 0xFF else c.fld pageTime 0x58 0 5)
          0).onCore (·.setTimeState 3)
      else k.onCore (·.setTimeState 0)
  | some (m, p, h) =>
    let same : Bool := decide (old = some m) && decide (c.fld pageTime 0x58 0 5 = p)
    if same then k.onCore (·.setFld pageTime 0x4C 24 4 h)
    else
      let k := k.onFab (fun y => { y with lockCnt := if old = some m then y.lockCnt else 0 })
      let k := k.onCore (fun c =>
        (((c.setFld pageTime 0x4C 0 16 m).setFld pageTime 0x4C 24 4 h).setFld pageTime 0x58 0 5 p).setFld pageTime 0x4C 28 1
          (if p = 31 then 1 else 0))
      if old = some m then k
      else (k.onCore (·.setTimeState (if p = 31 then 0 else 1))).timeEvent 0x0A15 sevInfo m (if p = 31 then 0xFF else p) 0

/-- Whether the device may step its phase: no circuit RUNNING, SUSPENDED or STOPPING, and STEP_EN is 1 (R312). -/
def Pkg.maySt (k : Pkg) : Bool :=
  bitAt (k.cl.core.rd pageTime 0x54) 30 &&
    !(List.range 192).any (fun rg => (List.range 64).any (fun n =>
      decide (k.cl.core.circState rg n = 1 ∨ k.cl.core.circState rg n = 2 ∨ k.cl.core.circState rg n = 3)))

/-- The master's tick count against this device's: adopted where it may step, else FB_TIME_COUNT once (R312). -/
def Pkg.adoptCount (k : Pkg) (p : Nat) (count : W64) : Pkg :=
  if count = k.cl.core.tick then k.onFab (fun y => { y with countRec := false })
  else if k.maySt then k.onCore (fun c => { c with tick := count })
  else if k.fab.countRec then k
  else (k.onFab (fun y => { y with countRec := true })).timeEvent 0x0A17 sevDegr (k.cl.core.fld pageTime 0x4C 0 16) p 0

/-- TIME_SYNC: the offer of the port, and the tick count of the parent (R310–R312). -/
def Pkg.timeSync (k : Pkg) (p : Nat) (t : TimeFrame) : Pkg :=
  if k.portState p < 3 then k
  else
    let t3 := (kget k.fab.offers none p).bind (fun o => o.t3)
    let k := k.onFab (fun y => { y with offers := kput y.offers none p (some
      { master := t.master.toNat, hops := t.hops.toNat, tick := k.cl.core.tick.toNat, d21 := t.arrived - t.sent, t3 := t3 }) })
    let k := k.chooseMaster
    if k.cl.core.fld pageTime 0x58 0 5 = p then k.adoptCount p t.count else k

/-- TIME_REQ: answered with t4, its arrival time (R310). -/
def Pkg.timeReq (k : Pkg) (p : Nat) (t : TimeFrame) : Pkg :=
  if k.portState p < 3 then k
  else k.sendPeer p { ftype := 0x22, f5 := BitVec.ofInt 64 t.arrived }

/-- TIME_REQ_TIMER: every 64 ticks a follower sends TIME_REQ to its parent, stamped t3 (R310). -/
def Pkg.timeReqTimer (k : Pkg) : Pkg :=
  let p := k.cl.core.fld pageTime 0x58 0 5
  match (if p < 18 then kget k.fab.offers none p else none) with
  | none => k
  | some o =>
    let t3 := k.cl.core.stationTime
    let k := k.onFab (fun y => { y with offers := kput y.offers none p (some { o with t3 := some t3 }) })
    k.sendPeer p { ftype := 0x21, f5 := BitVec.ofInt 64 t3 }

/-- Slew of 64 ticks at most: SLEW_PPM of 64 × 160,000 units (R312). -/
def Core.slewMax (c : Core) : Int := ((c.fld pageTime 0x54 0 16 * 64 * 160000 / 1000000 : Nat) : Int)

/-- A step of the phase: station time becomes t, and the tick, the cycle and the fraction follow; a time before tick 0 does not
exist (R309, R312). -/
def Core.stepTime (c : Core) (t : Int) : Core :=
  let n := t.toNat
  { c with tick := BitVec.ofNat 64 (n / 160000), cycle := n % 160000 * c.cpt / 160000 }

/-- TIME_RSP: the offset of R310, its correction and the lock (R312, R313). A device that may step takes the whole offset at once,
and its clock stands there; any other slews, which moves no count and no cycle of its own. -/
def Pkg.timeRsp (k : Pkg) (p : Nat) (t : TimeFrame) : Pkg :=
  if k.cl.core.fld pageTime 0x58 0 5 ≠ p then k
  else match kget k.fab.offers none p with
    | none => k
    | some o => match o.t3 with
      | none => k
      | some t3 =>
        let asym := (k.cl.core.rd (pageFb p) 0x58).toInt
        let off : Int := (o.d21 - (t.sent - t3)) / 2 - asym
        let near : Bool := decide (-320 ≤ off ∧ off ≤ 320)
        let max_ := k.cl.core.slewMax
        let step := k.maySt
        let corr : Int := if step then off else max (-max_) (min max_ off)
        let cnt := if near then min 16 (k.fab.lockCnt + 1) else 0
        let k := k.onFab (fun y => { y with offers := kput y.offers none p (some { o with t3 := none }),
                                            lockCnt := cnt, slew := y.slew - corr })
        let k := k.onCore (fun c => (if step then c.stepTime (c.stationTime - off) else c).wr pageTime 0x50 (BitVec.ofInt 32 off))
        let node := k.cl.core.fld pageTime 0x4C 0 16
        let w := (BitVec.ofInt 32 off).toNat
        if k.cl.core.timeState = 2 then
          if near then k else (k.onCore (·.setTimeState 3)).timeEvent 0x0A18 sevDegr node p w
        else if cnt = 16 then (k.onCore (·.setTimeState 2)).timeEvent 0x0A16 sevInfo node p w
        else k

/-- TIME_MASTER_TIMEOUT: a master not heard for 16 ticks is dropped and the next best taken (R311). -/
def Pkg.masterTimeout (k : Pkg) : Pkg :=
  let now := k.cl.core.tick.toNat
  let k := k.onFab (fun y => { y with offers := y.offers.filter (fun e => match e.2 with
    | some o => decide (now ≤ o.tick + 16)
    | none => false) })
  k.chooseMaster

/-- The advertisement of the present master with this device's hops, on every port, once per tick (R310, R311). -/
def Pkg.advertise (k : Pkg) : Pkg :=
  let c := k.cl.core
  if bitAt (c.rd pageTime 0x4C) 28 = false ∧ c.fld pageTime 0x58 0 5 = 31 then k
  else (List.range 18).foldl (fun x p =>
    if x.portState p < 3 ∨ x.portState p = 5 ∨ x.portState p = 6 then x
    else x.sendPeer p { ftype := 0x20, count := BitVec.ofNat 32 (c.fld pageTime 0x4C 0 16),
                        step := BitVec.ofNat 32 (c.fld pageTime 0x4C 24 4), f5 := BitVec.ofInt 64 c.stationTime,
                        f4 := c.tick }) k

/-! ## The commands of this part -/

/-- TIME_SYNC (R310). -/
def execTimeSync (p : Port) (t : TimeFrame) (s : State) : Out :=
  .next (s.onPkg (·.takeFrame p.val { t.frame with ftype := 0x20 } (·.timeSync p.val t)))
/-- TIME_REQ (R310). -/
def execTimeReq (p : Port) (t : TimeFrame) (s : State) : Out :=
  .next (s.onPkg (·.takeFrame p.val { t.frame with ftype := 0x21 } (·.timeReq p.val t)))
/-- TIME_RSP (R310). -/
def execTimeRsp (p : Port) (t : TimeFrame) (s : State) : Out :=
  .next (s.onPkg (·.takeFrame p.val { t.frame with ftype := 0x22 } (·.timeRsp p.val t)))
/-- TIME_REQ_TIMER (R310). -/
def execTimeReqTimer (s : State) : Out := .next (s.onPkg (·.timeReqTimer))
/-- TIME_MASTER_TIMEOUT (R311). -/
def execTimeMasterTimeout (s : State) : Out := .next (s.onPkg (·.masterTimeout))

end Sys2Proof.Machine
end

