-- ==== Sys2Proof/Machine/Tick.lean ====
section
/-!
DEFINITION. The phases of the tick (R10–R13, R443, R445, R453): what every unit does at Departure, Close, Guard and the end
of the tick, in the order of R11; the clock step, the gated regions and the time pins.
-/
namespace Sys2Proof.Machine

/-- Place the cycle within the tick. -/
def Pkg.setCycle (k : Pkg) (n : Nat) : Pkg := k.onCore (fun c => { c with cycle := n })

/-! ## Departure -/

/-- Departure of the package's own units: the segment table, the lines, the triggers of collectives and a group cut's
arrival (R11, R224, R257, R297, R373). -/
def Pkg.departPackage (k : Pkg) : Pkg :=
  let k := (((k.setCycle 0).segApply).linesResume).heldSend
  let t := k.cl.core.tick.toNat
  let k := k.collTrigger (fun job => (k.cutsAt t).any (fun e => e.2.group && decide (e.1 = job)))
  k.cutArrive

/-- Departure of one region (R20), with a die relief's hand-over, the relief's records and a checkpoint's channels. In a region
that waits for its die's copy nothing departs, and its report is in (R231, R355). -/
def Pkg.departPart (k : Pkg) (rg : Nat) : Pkg :=
  let k := k.dieDone rg
  let k := if k.dieWaits rg then k.onClus (·.reportIn rg) else k.departRegion rg
  ((k.moveDone rg).biShow rg).cutChannels rg

/-- Whether a region has compute work in this tick: a departed slot, a pilot, a test slice or a DIAG_RUN (R445). -/
def Pkg.regionBusy (k : Pkg) (rg : Nat) : Bool :=
  (List.range 4).any (fun n => match k.cl.run rg n with
    | some r => !r.due
    | none => false) || (k.cl.pilot rg).isSome || (List.range 5).any (fun i => (k.testOf (5 * rg + i)).isSome) ||
    k.bi.diags.any (fun d => d.left.any (fun c => decide (c / 5 = rg)))

/-- REGION_CLOCK_GATE: a region without work is gated and counted (R445). -/
def Pkg.clockGate (k : Pkg) (rg : Nat) : Pkg :=
  if k.regionBusy rg then k else k.onCore (·.incWrap pagePw 0x6C 1)

/-! ## Close -/

/-- Close offset 0 of the package: VC0 injection has ended, and a group cut whose generation has not completed fails
(R11, R373). -/
def Pkg.closePackage (k : Pkg) : Pkg := (k.setCycle k.cl.core.close0).cutClose

/-- The last cycle of Close: packets still in a line are late (R218). -/
def Pkg.closeEndPackage (k : Pkg) : Pkg := (k.setCycle (k.cl.core.guard0 - 1)).lnLate

/-! ## Guard -/

/-- Guard offset 0 of the package: windows, checkpoint cuts, HBM maintenance, VC0 counts and collective releases (R213,
R269, R271, R297, R372). -/
def Pkg.commitPackage (k : Pkg) : Pkg :=
  let k := (((k.setCycle k.cl.core.guard0).windowsApply).cutTake).hbMaintain
  ((((k.vc0Close k.cl.lineBudget).halfWidths).rebook).collGuard).backoffEnd

/-- Commit of one region (R28), its relief or rotation, the checkpoint's latches, and what firmware sees of it. -/
def Pkg.commitPart (k : Pkg) (rg : Nat) : Pkg :=
  let k := ((k.heldApply rg).cutLatch rg).commitRegion rg
  let k := ((k.lineFlush).moveGuard rg).poll
  { k with fw := { k.fw with guards := kput k.fw.guards 0 rg (k.cl.core.tick.toNat + 1) } }

/-- GUARD_SIGNAL_SEND of one region: what its commit made leaves on SIG0 (R11, R30). -/
def Pkg.signalSend (k : Pkg) (rg : Nat) : Pkg :=
  let t := k.cl.tt
  let mine (h : HostCompl) : Bool :=
    decide (h.die.toNat = k.cl.core.logicalDie (rg / 2)) && decide (h.region = decide (rg % 2 = 1))
  let sent := (t.sigOut.filter (fun e => decide (e.1 = rg))).map (·.2)
  let compl := t.hostOut.filter mine
  let k := k.onClus (fun m => { m with tt := { m.tt with
    sigOut := t.sigOut.filter (fun e => decide (e.1 ≠ rg)), sig0 := t.sig0 ++ sent,
    hostOut := t.hostOut.filter (fun h => !mine h) } })
  k.onAtt (fun a => { a with cplFly := a.cplFly ++ compl })

/-- POINTS_SWAP at Guard offset 64: the points tables and the route table (R224, R307). -/
def Pkg.swapTick (k : Pkg) : Pkg := (((k.setCycle (k.cl.core.guard0 + 64)).pointsSwap).routeSwap).poll

/-! ## The clock step (R12, R443) -/

/-- Fused clock in MHz. -/
def Core.fusedMhz (c : Core) : Nat := c.grade.cycles / 10

/-- Whether a clock may be taken: on the 25 MHz grid from 600 MHz to the fused clock, and not above 950 MHz in REDUCED. -/
def Pkg.clockOk (k : Pkg) (mhz : Nat) : Bool :=
  decide (mhz % 25 = 0 ∧ 600 ≤ mhz ∧ mhz ≤ k.cl.core.fusedMhz) && (decide (k.devState ≠ 2) || decide (mhz ≤ 950))

/-- Write TT_RUN_LIMIT of every timetable unit. -/
def Core.setLimits (c : Core) (n : Nat) : Core := iter 192 (fun rg x => x.wr (pageTT rg) 0x48 (BitVec.ofNat 32 (n % 65536))) c

/-- Write PW_CLOCK_PEND and the Run limit that goes with the clock (R12, R443). -/
def Core.pendClock (c : Core) (mhz : Nat) : Core :=
  (c.wr pagePw 0x54 (BitVec.ofNat 32 mhz)).setLimits (10 * mhz - 840)

/-- A rise whose voltage has been up for four ticks is written now (R443). -/
def Pkg.riseDue (k : Pkg) : Pkg :=
  match k.pw.rise with
  | some (mhz, t) =>
    if t ≤ k.cl.core.tick.toNat then (({ k with pw := { k.pw with rise := none } }).onCore (·.pendClock mhz)).rebook else k
  | none => k

/-- Guard offset 256: the pending clock and the written Run limits take effect. -/
def Pkg.clockApply (k : Pkg) : Pkg :=
  let mhz := k.cl.core.fld pagePw 0x54 0 16
  let k := if k.clockOk mhz then
      k.onCore (fun c => { c.wr pagePw 0x50 (BitVec.ofNat 32 (10 * mhz * 65536 + mhz)) with cpt := 10 * mhz })
    else k
  k.onClus (fun m =>
    let l := (List.range 192).foldl (fun l rg => kput l 0 rg (m.core.fld (pageTT rg) 0x48 0 16 + 1)) m.tt.limit
    { m with tt := { m.tt with limit := l } })

/-! ## Time pins (R453) -/

/-- Whether the pins are driven: after the first join, and not in Laid-up. -/
def Pkg.pinsDriven (k : Pkg) : Bool := k.pw.pinsOn && decide (k.devState ≠ 5)

/-- The boundary into the present tick: TICK_OUT rises, and PPS_OUT at multiples of 100,000. -/
def Pkg.pinsRise (k : Pkg) : Pkg :=
  let t := k.cl.core.tick.toNat
  let w := k.cl.core.rd pagePw 0x5C
  if k.pinsDriven = false then { k with pw := { k.pw with tickOut := false, ppsOut := false } }
  else
    let p := if bitAt w 31 then { k.pw with tickOut := true, tickRise := t } else { k.pw with tickOut := false }
    let p := if bitAt w 30 = false then { p with ppsOut := false }
      else if t % 100000 = 0 then { p with ppsOut := true, ppsRise := t }
      else p
    { k with pw := p }

/-- TIME_PIN_FALL: TICK_OUT 5 µs, PPS_OUT 10,000 ticks after its rise. -/
def Pkg.pinFall (k : Pkg) (p : TimePin) : Pkg :=
  let c := k.cl.core
  match p with
  | .tickOut =>
    if k.pw.tickRise < c.tick.toNat ∨ c.cpt ≤ 2 * c.cycle then { k with pw := { k.pw with tickOut := false } } else k
  | .ppsOut =>
    if k.pw.ppsRise + 10000 ≤ c.tick.toNat then { k with pw := { k.pw with ppsOut := false } } else k

/-- GUARD_CLOCK_STEP: Guard offset 256, then the last cycle: the tick count increments, and the time is advertised. -/
def Pkg.clockStep (k : Pkg) : Pkg :=
  let k := (k.riseDue).clockApply
  let k := k.onCore (fun c => { c with tick := c.tick + 1, cycle := 0 })
  (k.pinsRise).advertise

/-! ## What pauses in Idle and out of service (R402, R446) -/

/-- Whether rotations, test slices and drills run now in a region: the device is REDUCED or FULL, and the quadrant is in
service. -/
def Pkg.serves (k : Pkg) (rg : Nat) : Bool :=
  (decide (k.devState = 2) || decide (k.devState = 3)) && k.quadIn (rg / 48)

/-- ROTATION_START (R357), where the region is served. -/
def Pkg.rotationTick (k : Pkg) (rg : Nat) : Pkg := if k.serves rg then k.rotationStart rg else k

/-- DRILL_INJECTION (R378), where the entry's quadrant is served. -/
def Pkg.drillTick (k : Pkg) (i : Nat) : Pkg :=
  match k.bi.drills[i]? with
  | some e => if k.sbUp && k.serves (48 * (e.place.toNat / 2 ^ 28 % 4)) then k.drillInject i else k
  | none => k

/-! ## With no command waiting -/

/-- One arithmetic cycle passes, up to the last of the tick (log entry 1). -/
def Core.idle (c : Core) : Core := if c.cycle + 1 < c.cpt then { c with cycle := c.cycle + 1 } else c

/-! ## The commands of this part -/

/-- DEPARTURE (R11, R20). -/
def execDeparture (p : TickPart) (s : State) : Out :=
  .next (s.onPkg (fun k => match p with
    | .package => k.departPackage
    | .region rg => k.departPart rg.val))
/-- REGION_CLOCK_GATE (R445). -/
def execRegionClockGate (rg : Rgn) (s : State) : Out := .next (s.onPkg (·.clockGate rg.val))
/-- CLOSE_JUDGEMENT (R14). -/
def execCloseJudgement (p : TickPart) (s : State) : Out :=
  .next (s.onPkg (fun k => match p with
    | .package => k.closePackage
    | .region rg => k.closeRegion rg.val))
/-- CLOSE_END (R27). -/
def execCloseEnd (p : TickPart) (s : State) : Out :=
  .next (s.onPkg (fun k => match p with
    | .package => k.closeEndPackage
    | .region rg => k.closeEndRegion rg.val))
/-- COMMIT (R28). -/
def execCommit (p : TickPart) (s : State) : Out :=
  .next (s.onPkg (fun k => match p with
    | .package => k.commitPackage
    | .region rg => k.commitPart rg.val))
/-- GUARD_SIGNAL_SEND (R11). -/
def execGuardSignalSend (p : TickPart) (s : State) : Out :=
  .next (s.onPkg (fun k => match p with
    | .package => k.setCycle (k.cl.core.guard0 + 32)
    | .region rg => k.signalSend rg.val))
/-- GUARD_CLOCK_STEP (R12, R309). -/
def execGuardClockStep (s : State) : Out := .next (s.onPkg (·.clockStep))
/-- TIME_PIN_FALL (R453). -/
def execTimePinFall (p : TimePin) (s : State) : Out := .next (s.onPkg (·.pinFall p))
/-- ROTATION_START (R357). -/
def execRotationStart (rg : Rgn) (s : State) : Out := .next (s.onPkg (·.rotationTick rg.val))
/-- DRILL_INJECTION (R378). -/
def execDrillInjection (e : Fin 256) (s : State) : Out := .next (s.onPkg (·.drillTick e.val))

end Sys2Proof.Machine
end

