-- ==== Sys2Proof/Machine/Power.lean ====
section
/-!
DEFINITION. Power, clocks and board (R434–R456): rails and their sequence, failures, the power cap, thermal throttling, the
trip comparators, and the PW page's own commands.
-/
namespace Sys2Proof.Machine

/-- Clock in force in MHz. -/
def Core.mhz (c : Core) : Nat := c.fld pagePw 0x50 0 16

/-- Detail bytes of R455. -/
def Core.detailPw (c : Core) (x q reading limit state : Nat) : Nat :=
  x % 256 + q % 256 * 2 ^ 8 + reading % 65536 * 2 ^ 16 + limit % 65536 * 2 ^ 32 + c.mhz * 2 ^ 48 +
    c.fld (pageTT 0) 0x48 0 16 * 2 ^ 64 + c.fld pagePw 0x44 0 16 * 2 ^ 80 + state % 256 * 2 ^ 96

/-- A power event (R455). -/
def Pkg.pwEvent (k : Pkg) (code sev place x q reading limit state : Nat) (inj : Bool := false) : Pkg :=
  k.onCore (fun c => c.record pagePw code sev 15 place (c.detailPw x q reading limit state) inj)

/-- The device enters FAILED: running commands end and jobs fault (R341, R383, R385, R428, R437, R442, R452, R458). -/
def Pkg.failed (k : Pkg) : Pkg :=
  let k := (k.endAll none).setDevState 7
  { k with bu := { k.bu with devEvent := true } }

/-- FAILED, with FAULT_N asserted. -/
def Pkg.faultOut (k : Pkg) : Pkg := (k.failed).onPw (fun p => { p with faultN := true })

/-- BRIDGE_LANE_REPAIR: a bridge link that can run no narrower is a concourse fault, and the device is lost (R3, R221). -/
def execBridgeLaneRepair (g : Die) (o : Fin 10) (s : State) : Out :=
  .next (s.onPkg (fun k => if k.bridgeLost g.val o.val then k.failed else k.bridgeRepair g.val o.val))

/-! ## Rails (R434, R436, R437) -/

/-- Rails of a sequencing group. -/
def railGroup (g : Nat) : List Nat :=
  match g with
  | 0 => [0]
  | 1 => [1, 2, 3, 4]
  | 2 => [5, 6, 7, 8]
  | 3 => [9, 10, 11, 12]
  | 4 => [13]
  | 5 => [14, 15, 16, 17]
  | _ => []

/-- Quadrant of a rail; 0xFF where it has none. -/
def railQuad (i : Nat) : Nat :=
  if 1 ≤ i ∧ i ≤ 12 then (i - 1) % 4 else if 14 ≤ i ∧ i ≤ 17 then i - 14 else 0xFF

/-- PWR_EN of rail i. -/
def Core.railEn (c : Core) (i : Nat) : Bool := bitAt (c.rd pagePw (0x80 + 8 * i)) 30
/-- Assert PWR_EN. -/
def Core.railUp (c : Core) (i : Nat) : Core := c.setFld pagePw (0x80 + 8 * i) 30 1 1
/-- Deassert PWR_EN: PGOOD falls with the rail. -/
def Core.railDown (c : Core) (i : Nat) : Core := c.wr pagePw (0x80 + 8 * i) 0
/-- PGOOD of a rail, with the first reading of it: a free value (log entry 27). -/
def Core.railGood (c : Core) (i : Nat) : Core :=
  let (v, c) := c.draw
  (c.setFld pagePw (0x80 + 8 * i) 0 16 (bitsAt v 0 16)).setFld pagePw (0x80 + 8 * i) 31 1 1

/-- Deassert every PWR_EN (the reverse order of R436 leaves the same state). -/
def Pkg.railsOff (k : Pkg) : Pkg :=
  (k.onCore (fun c => (List.range 18).foldl (fun x i => x.railDown i) c)).onPw (fun p => { p with seq := none })

/-- Start sequencing a group: every PWR_EN of it together. -/
def Pkg.railStart (k : Pkg) (g : Nat) : Pkg :=
  (k.onCore (fun c => (railGroup g).foldl (fun x i => x.railUp i) c)).onPw (fun p => { p with seq := some g })

/-- VAUX_RISE: the ROM starts, the generator passes its start-up test, and the rails are sequenced (R436, R459). -/
def Pkg.vauxRise (k : Pkg) : Pkg :=
  if k.pw.vaux then k
  else ((k.onPw (fun p => { p with vaux := true, float := false })).onCore (·.setFld pageSec 0x40 26 1 1)).railStart 0

/-- A quadrant's fabric ports go down with their lane supply: FB_LINK_DOWN, and the lanes stay idle (R437). -/
def Pkg.quadPortsDown (k : Pkg) (q : Nat) : Pkg :=
  ((List.range 18).filter (fun p => decide (portQuad p = q))).foldl (fun x p =>
    if (x.link p).step = .off then x else x.linkLost p) k

/-- A rail fails (R437): a fabric rail takes its ports down; any other rail fails the device. -/
def Pkg.railFail (k : Pkg) (i mV : Nat) : Pkg :=
  let fab : Bool := decide (14 ≤ i ∧ i ≤ 17)
  let k := k.pwEvent 0x0C01 (if fab then sevDegr else sevDev) (placeSbx 0) i (railQuad i) mV 0 0xFF
  if fab then
    let k := k.onCore (·.railDown i)
    k.quadPortsDown (i - 14)
  else (k.railsOff).faultOut

/-! ## Region regulators (R438) -/

/-- The region's units stop, and every slot departed there fails with cause TT_LOCKSTEP. -/
def Clus.regionFail (m : Clus) (rg : Nat) : Clus :=
  let m := iter 4 (fun n x => match x.run rg n with
    | some r => if r.due then x else x.fail r.clu (checkCause 0x010C)
    | none => x) m
  iter 5 (fun i x => x.stopUnits (5 * rg + i)) m

/-- A die whose regulators are switched off is relieved (R355, R438). -/
def Pkg.dieOff (k : Pkg) (g cause : Nat) : Pkg :=
  let k := k.onClus (fun m => (m.regionFail (2 * g)).regionFail (2 * g + 1))
  let k := k.onPw (fun p => { p with regOff := kput (kput p.regOff false (2 * g) true) false (2 * g + 1) true })
  k.dieRelief g cause

/-- REGULATOR_FAULT (R438). -/
def Pkg.regulatorFault (k : Pkg) (rg : Nat) : Pkg :=
  if kget k.pw.regOff false rg then k
  else (k.pwEvent 0x0C02 sevDegr (placeRg rg) 0xFF (rg / 48) 0 0 0xFF).dieOff (rg / 2) 0x0C02

/-! ## The cap (R450) -/

/-- Effective cap. -/
def Pkg.effCap (k : Pkg) : Nat := if k.pw.cap = 0 then k.bu.fuse.watts else min k.pw.cap k.bu.fuse.watts

/-- Ceiling of the clock: the fused clock, 0.95 GHz in REDUCED, and the thermal ceiling. -/
def Pkg.ceiling (k : Pkg) : Nat :=
  let c := if k.devState = 2 then min 950 k.cl.core.fusedMhz else k.cl.core.fusedMhz
  if k.pw.therm = 0 then c else min c k.pw.therm

/-- TT_RUN_LIMIT as written. -/
def Core.runLimit (c : Core) : Nat := c.fld (pageTT 0) 0x48 0 16

/-- One step down, or one step up where allowed; whether the clock or the limit was changed (R450). -/
def Pkg.capStep (k : Pkg) (power cap : Nat) : Bool × Pkg :=
  let c := k.cl.core
  let lim := c.runLimit
  let top := c.cpt - 840
  if cap < power then
    (true, if 600 < c.mhz then ((k.onPw (fun p => { p with rise := none })).onCore (·.pendClock (c.mhz - 25))).rebook
      else (k.onCore (·.setLimits (max (lim - 512) 2048))).rebook)
  else if 4 ≤ k.pw.below then
    if lim < top then (true, (k.onCore (·.setLimits (min (lim + 512) top))).rebook)
    else if c.mhz < k.ceiling then
      (true, k.onPw (fun p => { p with rise := some (c.mhz + 25, c.tick.toNat + 4) }))
    else (false, k)
  else (false, k)

/-- POWER_CAP_LOOP with the 16-tick average; what the Signal Box does about it waits while it does not serve (R4, R450). -/
def Pkg.capLoop (k : Pkg) (power : Nat) : Pkg :=
  let cap := k.effCap
  let t := k.cl.core.tick.toNat
  let k := k.onCore (fun c => (c.setFld pagePw 0x44 0 16 power).setFld pagePw 0x48 0 16 cap)
  let under : Bool := decide (power * 100 < 95 * cap)
  let k := k.onPw (fun p => { p with below := if under then p.below + 1 else 0 })
  let down : Bool := k.sbUp && decide (cap < power)
  let k := if down && !k.pw.capEp then
      (k.pwEvent 0x0C04 sevInfo (placeSbx 0) 0xFF 0xFF power cap 0xFF).onPw (fun p => { p with capEp := true })
    else k
  let k := if k.sbUp then (k.capStep power cap).2 else k
  let c := k.cl.core
  let low : Bool := decide (c.fld pagePw 0x54 0 16 < k.ceiling ∨ c.mhz < k.ceiling ∨ c.runLimit < c.cpt - 840)
  let active := k.pw.capEp && low
  let k := k.onPw (fun p =>
    if low then { p with capTop := 0 }
    else if p.capTop = 0 then { p with capTop := t + 1 }
    else if 1024 ≤ t + 1 - p.capTop then { p with capEp := false }
    else p)
  k.onCore (fun c =>
    let c := c.setFld pagePw 0x40 25 1 (if active then 1 else 0)
    if active then c.incSat pagePw 0x68 16 else c)

/-! ## Temperature (R451, R452, R456) -/

/-- A throttle during the soak or the loaded retrain restarts the soak once, at 80 % (R390). -/
def Pkg.loadThrottled (k : Pkg) : Pkg :=
  if k.bu.load = 90 ∧ k.cl.core.buStep = 7 ∧ k.bu.restarted = false then
    ({ k with bu := { k.bu with load := 80, restarted := true } }).onCore
      (·.buEvent 0x0F08 sevInfo (placeSbx 0) (detailBu 7 0xFF 0 0xFF 80 0))
  else k

/-- Whether a sensor's TEMP_BIAS acts (R456). -/
def Pkg.biasOn (k : Pkg) (s : Nat) : Bool :=
  decide (kget k.pw.bias 0 s ≠ 0 ∧ k.cl.core.tick.toNat < kget k.pw.bias 0 s - 1)

/-- A reading with its TEMP_BIAS of 20 °C. -/
def Pkg.biased (k : Pkg) (s : Nat) (v : Int) : Int := if k.biasOn s then v + 80 else v

/-- Whether a reading disagrees: more than 3 °C from its partner or 5 °C from the quadrant's reference. The limit broken, in
0.25 °C. -/
def disagrees (l : List (Nat × Int)) (bad : KMap Bool) (refs : List Int) (s : Nat) (v : Int) : Option Nat :=
  let p := if s % 2 = 0 then s + 1 else s - 1
  let partner : Option Int := if kget bad false p then none else (l.find? (fun e => decide (e.1 = p))).map (·.2)
  let far (x : Int) (n : Int) : Bool := decide (n < v - x ∨ n < x - v)
  if (match partner with
      | some x => far x 12
      | none => false) then some 12
  else if (match refs[s / 48]? with
      | some x => far x 20
      | none => false) then some 20
  else none

/-- Exclude a sensor; a die without a valid sensor is relieved (R438, R451). -/
def Pkg.excludeSensor (k : Pkg) (s : Nat) (v : Int) (lim : Nat) : Pkg :=
  let g := s / 2
  let k := k.pwEvent 0x0C06 sevInfo (placeDie g 0) s (g / 24) (BitVec.ofInt 16 v).toNat lim 0xFF (k.biasOn s)
  let k := k.onPw (fun p => { p with badSensor := kput p.badSensor false s true })
  if kget k.pw.badSensor false (2 * g) ∧ kget k.pw.badSensor false (2 * g + 1) then k.dieOff g 0x0C06 else k

/-- Count the disagreements of this tick, and exclude a sensor at its sixteenth in a row. -/
def Pkg.sensorCheck (k : Pkg) (l : List (Nat × Int)) (refs : List Int) : Pkg :=
  l.foldl (fun x e =>
    match disagrees l k.pw.badSensor refs e.1 e.2 with
    | none => x.onPw (fun p => { p with disagree := kput p.disagree 0 e.1 0 })
    | some lim =>
      let n := kget x.pw.disagree 0 e.1 + 1
      let x := x.onPw (fun p => { p with disagree := kput p.disagree 0 e.1 n })
      if n = 16 then x.excludeSensor e.1 e.2 lim else x) k

/-- Lower or raise the thermal ceiling (R451); the Signal Box does, and while it does not serve only the time is kept since when
every sensor has been cool (R4). -/
def Pkg.thermStep (k : Pkg) (hot cool : Bool) (inj : Bool) : Pkg :=
  let t := k.cl.core.tick.toNat
  let fused := k.cl.core.fusedMhz
  let p := k.pw
  let k := k.onPw (fun p => { p with coolAt := if cool then (if p.coolAt = 0 then t + 1 else p.coolAt) else 0 })
  if k.sbUp = false then k
  else if hot ∧ (p.thermAt = 0 ∨ p.thermAt + 15 ≤ t) then
    let cur := if p.therm = 0 then fused else p.therm
    let new := max 600 (cur - 25)
    let k := if p.therm = 0 then
        ((k.pwEvent 0x0C05 sevInfo (placeSbx 0) 0xFF 0xFF 0 420 0xFF inj).loadThrottled).onCore (·.incSat pagePw 0x64 1)
      else k
    let k := k.onPw (fun p => { p with therm := new, thermAt := t + 1,
                                       rise := p.rise.bind (fun r => if new < r.1 then none else some r) })
    (k.onCore (fun c =>
      let c := c.setFld pagePw 0x40 24 1 1
      if new < c.mhz then c.pendClock new else c)).rebook
  else if p.therm ≠ 0 ∧ cool ∧ p.coolAt ≠ 0 ∧ p.coolAt + 1023 ≤ t ∧ p.thermAt + 63 ≤ t then
    let new := if fused ≤ p.therm + 25 then 0 else p.therm + 25
    (k.onPw (fun p => { p with therm := new, thermAt := if new = 0 then 0 else t + 1 })).onCore
      (·.setFld pagePw 0x40 24 1 (if new = 0 then 0 else 1))
  else k

/-- THERMAL_LOOP: the readings of one tick (R451). -/
def Pkg.thermalLoop (k : Pkg) (readings : List TempReading) (refs : List Int) : Pkg :=
  let l := (readings.filter (fun r => !kget k.pw.badSensor false r.sensor.val)).map
    (fun r => (r.sensor.val, k.biased r.sensor.val r.value))
  let k := k.sensorCheck l refs
  let valid := l.filter (fun e => !kget k.pw.badSensor false e.1)
  let all : List (Nat × Int) := valid.map (fun e => (e.1 / 2, e.2)) ++ refs.map (fun v => (0xFF, v))
  let k := match all with
    | [] => k
    | a :: rest =>
      let m : Nat × Int := rest.foldl (fun (b e : Nat × Int) => if b.2 < e.2 then e else b) a
      k.onCore (·.wr pagePw 0x58 (BitVec.ofNat 32 (m.1 * 2 ^ 24 + (BitVec.ofInt 16 m.2).toNat)))
  k.thermStep (valid.any (fun e => decide (420 ≤ e.2))) (valid.all (fun e => decide (e.2 ≤ 400)))
    (valid.any (fun e => decide (420 ≤ e.2) && k.biasOn e.1))

/-- THERMTRIP: the comparator cuts the rails, whatever firmware does (R452). -/
def Pkg.thermtrip (k : Pkg) (s : Nat) (v : Int) : Pkg :=
  let k := k.pwEvent 0x0C07 sevDev (placeSbx 0) s (s / 48) (BitVec.ofInt 16 v).toNat 460 0xFF
  ((k.railsOff).faultOut).onPw (fun p => { p with thermtripN := true })

/-- PLL_UNLOCK (R442). -/
def Pkg.pllUnlock (k : Pkg) (q : Nat) : Pkg :=
  (k.pwEvent 0x0C03 sevDev (placeSbx 0) 0xFF q 0 0 0xFF).faultOut

/-- TEMP_BIAS: armed for 1,024 ticks; the bit clears itself (R456). -/
def Pkg.tempBias (k : Pkg) (s : Nat) : Pkg :=
  let k := k.onCore (fun c => (c.setFld pagePw 0x28 8 8 s).setFld pagePw 0x28 0 1 0)
  k.onPw (fun p => { p with bias := kput p.bias 0 s (k.cl.core.tick.toNat + 1024 + 1) })

/-! ## The commands of this part -/

/-- VAUX_RISE (R436). -/
def execVauxRise (s : State) : Out := .next (s.onPkg (·.vauxRise))
/-- PLL_UNLOCK (R442). -/
def execPllUnlock (q : Quad) (s : State) : Out := .next (s.onPkg (·.pllUnlock q.val))
/-- REGULATOR_FAULT (R438). -/
def execRegulatorFault (rg : Rgn) (s : State) : Out := .next (s.onPkg (·.regulatorFault rg.val))
/-- POWER_CAP_LOOP (R450). -/
def execPowerCapLoop (p : BitVec 16) (s : State) : Out := .next (s.onPkg (·.capLoop p.toNat))
/-- THERMAL_LOOP (R451). -/
def execThermalLoop (r : List TempReading) (refs : List Int) (s : State) : Out := .next (s.onPkg (·.thermalLoop r refs))
/-- THERMTRIP (R452). -/
def execThermtrip (n : Fin 192) (v : Int) (s : State) : Out := .next (s.onPkg (·.thermtrip n.val v))
/-- PW_CNT_CLR: zero PW_THROTTLES and PW_CAP_TICKS (PW_CTRL). -/
def execPwCntClr (s : State) : Out := .next (s.onClus (·.onCore (·.zero pagePw 0x64 2)))
/-- TEMP_BIAS (R456). -/
def execTempBias (n : Fin 256) (s : State) : Out := .next (s.onPkg (·.tempBias n.val))

end Sys2Proof.Machine
end

