-- ==== Sys2Proof/Machine/Image.lean ====
section
/-!
DEFINITION. Firmware images and digests (R366, R412, R460, R461, R467): the fields of an image, its verification, and what
attestation measures.
-/
namespace Sys2Proof.Machine

/-- The 32 bytes of a SHA-256 value. -/
def digestBytes (d : BitVec 256) : List Byte := leBytes 32 d.toNat
/-- Its eight register words. -/
def digestWords (d : BitVec 256) : List W32 := words32 (digestBytes d)

/-! ## Images (R412, R460) -/

/-- Bytes [off, off + n) of an image. -/
def imgSlice (l : List Byte) (off n : Nat) : List Byte := (l.drop off).take n
/-- PAYLOAD_LEN. -/
def imgPayLen (l : List Byte) : Nat := leAt l 8 4
/-- The signed payload. -/
def imgPayload (l : List Byte) : List Byte := imgSlice l 1024 (imgPayLen l)
/-- SVN. -/
def imgSvn (l : List Byte) : Nat := leAt l 12 1
/-- DEBUG_OK. -/
def imgDebugOk (l : List Byte) : Bool := decide (leAt l 12 4 / 2 ^ 30 % 2 = 1)
/-- COMMIT. -/
def imgCommit (l : List Byte) : Bool := decide (leAt l 12 4 / 2 ^ 31 = 1)
/-- FW_VER. -/
def imgVer (l : List Byte) : Nat := leAt l 1024 4
/-- JOURNAL_VER. -/
def imgJournal (l : List Byte) : Nat := leAt l 1028 2
/-- Lengths of the Signal Box part and the block-post part. -/
def imgSbLen (l : List Byte) : Nat := leAt l 1032 4
/-- Length of the block-post part. -/
def imgBpLen (l : List Byte) : Nat := leAt l 1036 4
/-- The block-post part. -/
def imgBpPart (l : List Byte) : List Byte := imgSlice l (1040 + imgSbLen l) (imgBpLen l)

/-- Whether a signature over bytes 0–47 of the image verifies. -/
def imgSigOk (l : List Byte) (key sig : Nat) : Bool :=
  Config.sigOk (leNat (imgSlice l key 64)) (imgSlice l 0 48) (imgSlice l sig 64)

/-- Key slot of VEND_KEY in mask ROM. -/
def imgSlot (l : List Byte) : Option Nat :=
  (List.range 4).find? (fun i => decide (Config.romKeyHash i = Config.sha256 (imgSlice l 48 64)))

/-- TAINTED. -/
def Core.tainted (c : Core) : Bool := bitAt (c.rd pageSec 0x40) 28

/-- REASON of the first failed check of R461; 0 where the image is accepted. -/
def Pkg.imgReason (k : Pkg) (l : List Byte) : Nat :=
  let f := k.bu.fuse
  let n := l.length
  if n % 4096 ≠ 0 ∨ n = 0 ∨ 2 ^ 24 < n ∨ imgPayLen l < 16 ∨ n < 1024 + imgPayLen l ∨ leAt l 0 4 ≠ 0x53574631 ∨
      leAt l 4 4 ≠ 1 then 1
  else match imgSlot l with
  | none => 3
  | some slot =>
    if f.revoked / 2 ^ slot % 2 = 1 then 5
    else if digestBytes (Config.sha256 (imgPayload l)) ≠ imgSlice l 16 32 ∨ imgSigOk l 48 112 = false then 3
    else if (match f.owner with
        | some h => decide (Config.sha256 (imgSlice l 176 64) ≠ h) || !imgSigOk l 176 240
        | none => false) then 3
    else if imgSvn l < f.minSvn then 4
    else if k.cl.core.tainted && !imgDebugOk l then 5
    else if imgPayLen l < 16 + imgSbLen l + imgBpLen l then 1
    else 0

/-! ## The complexes (R407) -/

/-- Image bank of a complex in use. -/
def Pkg.bankOf (k : Pkg) (x : Nat) : Nat := kget k.fw.bank 0 x
/-- Bytes of an image bank. -/
def Pkg.image (k : Pkg) (x bank : Nat) : List Byte := kget k.fw.banks [] (2 * x + bank)
/-- Apply a change to the firmware part. -/
def Pkg.onFw (k : Pkg) (f : FwS → FwS) : Pkg := { k with fw := f k.fw }
/-- The running image. -/
def Pkg.running (k : Pkg) : List Byte := k.image k.sb (k.bankOf k.sb)
/-- SHA-256 of the running image; zero where none has been loaded. -/
def Pkg.runDigest (k : Pkg) : BitVec 256 := if k.running = [] then 0 else Config.sha256 k.running
/-- Whether a standby follows the journal. -/
def Pkg.standbyOk (k : Pkg) : Bool := k.upC (1 - k.sb)

/-! ## Digests (R366, R467) -/


/-- The 8 bytes of an entry (R364). -/
def FenceEnt.word (e : FenceEnt) : W64 :=
  BitVec.ofNat 64 (e.place * 2 ^ 32 + e.cause % 65536 * 2 ^ 16 + e.flags * 4096 + min 4095 e.count)

/-- The entries that fence, in ascending PLACE order. -/
def Pkg.fences (k : Pkg) : List FenceEnt := k.bi.fence.filter (·.on_)
/-- Fence-map digest. -/
def Pkg.fenceDigest (k : Pkg) : BitVec 256 := Config.sha256 (k.fences.flatMap (fun e => leBytes 8 e.word.toNat))

/-- Digest of the fuse configuration record. -/
def Pkg.fuseDigest (k : Pkg) : BitVec 256 :=
  let f := k.bu.fuse
  Config.sha256 (Config.fuseRecord (gradeCode k.cl.core.grade) k.cl.core.fusedMhz f.watts f.bad f.revoked f.owner f.minSvn)

end Sys2Proof.Machine
end

