-- ==== Sys2Proof/Machine/Reads.lean ====
section
/-!
DEFINITION. What a read of a register word answers now: the stored word, with the read-only fields that other state gives
(R473–R492 and the register tables of the chapters).
-/
namespace Sys2Proof.Machine


/-! ## Where a page's unit lies -/

/-- Cluster of a page of a cluster's unit. -/
def PKind.clu : PKind → Option Nat
  | .mc c _ | .vcore c _ | .score c | .sa c | .store c _ | .msg c => some c
  | _ => none

/-- Region of a page. -/
def PKind.rg : PKind → Option Nat
  | .tt rg | .bi rg => some rg
  | kd => kd.clu.map (fun c => c / 5)

/-- Die of a page. -/
def PKind.die : PKind → Option Nat
  | .ln g | .pts g | .tbNode g | .sig g | .dma g => some g
  | kd => kd.rg.map (fun r => r / 2)

/-- Quadrant of an edge page (R492). -/
def PKind.edge : PKind → Option Nat
  | .hb h => some (h / 6)
  | .fbPort p => some (portQuad p)
  | .fbColl q => some q
  | _ => none

/-- Whether the block's fields lie in the compute die (R427, R435, R478). -/
def PKind.compute : PKind → Bool
  | .mc _ _ | .vcore _ _ | .score _ | .sa _ | .tt _ => true
  | _ => false

/-- Whether a region's VDD is on (R435, R436, R438, R447). -/
def Pkg.regionOn (k : Pkg) (rg : Nat) : Bool :=
  !kget k.pw.regOff false rg && k.cl.core.railOk (1 + rg / 48) && decide (k.devState ≠ 5) &&
    (decide (1 ≤ k.devState) || decide (17 + 2 * (rg / 48) + rg % 2 < k.bu.slice))

/-- DOMAIN_OFF of a page (R478). -/
def Pkg.domainOff (k : Pkg) (kd : PKind) : Bool :=
  kd.compute && (match kd.rg with
    | some rg => !k.regionOn rg
    | none => false)

/-- Place codes whose fence or fuse takes the page's unit: itself, its cluster, its die. -/
def PKind.places (kd : PKind) : List Nat :=
  [(kindId kd).2.2] ++ (match kd.clu with
    | some c => [placeClu c]
    | none => []) ++ (match kd.die with
    | some g => [placeDie g 0]
    | none => [])

/-- Logical die of a physical die that the DIE_MAP of die position 0 names. -/
def Pkg.mapped (k : Pkg) (g : Nat) : Bool := decide (k.cl.core.logicalDie g < 96)

/-- IN_SERVICE: a logical slot or a logical die is mapped to the page's unit. -/
def Pkg.inService (k : Pkg) (kd : PKind) : Bool :=
  match kd.die with
  | none => false
  | some g => k.mapped g && (match kd.clu with
    | some c => (k.cl.core.slotOfClu c).isSome
    | none => true)

/-- PENDING of a page: ERR_STATUS and not ERR_MASK. -/
def Core.pendingOf (c : Core) (page : Nat) : Bool :=
  decide (c.rd page 0x18 &&& ~~~(c.rd page 0x20) ≠ 0 ∨ c.rd page 0x1C &&& ~~~(c.rd page 0x24) ≠ 0)

/-- STATUS of a page (R480). -/
def Pkg.pageStatus (k : Pkg) (page : Nat) (kd : PKind) : Nat :=
  let pl := kd.places
  b2n (!k.bu.fuse.bad.any (fun w => pl.elem w.toNat)) * 2 ^ 31 + b2n (pl.any k.fencedAt) * 2 ^ 30 +
    b2n (k.inService kd) * 2 ^ 29 + b2n (k.domainOff kd) * 2 ^ 28 + b2n (k.cl.core.pendingOf page) * 2 ^ 27

/-! ## The global page (R491, R492) -/

/-- Pages with a listed ERR_STATUS word: the only ones that can be PENDING. -/
def Core.pendingPages (c : Core) : List Nat :=
  ((c.regs.filter (fun e => decide (e.1 % 1024 = 6 ∨ e.1 % 1024 = 7))).map (fun e => e.1 / 1024)).filter c.pendingOf

/-- Whether a page with the property is PENDING. -/
def Pkg.anyPending (k : Pkg) (p : Nat → PKind → Bool) : Bool :=
  k.cl.core.pendingPages.any (fun page => match pageKind page with
    | some kd => p page kd
    | none => false)

/-- SBX_SUM. -/
def Pkg.sbxSum (k : Pkg) : Nat :=
  b2n (k.anyPending (fun _ _ => true)) * 2 ^ 31 +
    ((List.range 4).map (fun q => b2n (k.anyPending (fun _ kd => kd.edge == some q)) * 2 ^ (27 + q))).sum +
    b2n (k.anyPending (fun page _ => decide (page < 16))) * 2 ^ 26

/-- Word i of SBX_SUM_DIE. -/
def Pkg.sumDie (k : Pkg) (i : Nat) : Nat :=
  ((List.range 32).map (fun b => b2n (k.anyPending (fun _ kd => kd.die == some (32 * i + b))) * 2 ^ b)).sum

/-- Word i of SBX_SUM_REGION. -/
def Pkg.sumRegion (k : Pkg) (i : Nat) : Nat :=
  ((List.range 32).map (fun b => b2n (k.anyPending (fun _ kd => kd.rg == some (32 * i + b))) * 2 ^ b)).sum

/-- Relief die of a quadrant that is neither fenced nor in use: a die mapped by no logical die, usable and on. -/
def Pkg.reliefDies (k : Pkg) : Nat := ((List.range 4).filter (fun q => (k.reliefDie q).isSome)).length

/-- Clusters mapped to a logical slot of a mapped die. -/
def Pkg.serviceClusters (k : Pkg) : Nat :=
  ((List.range 960).filter (fun c => k.mapped (c / 10) && (k.cl.core.slotOfClu c).isSome)).length

/-- Relief clusters of mapped dies that are neither fenced nor in use as a pilot or by a relief. -/
def Pkg.reliefClusters (k : Pkg) : Nat :=
  ((List.range 192).filter (fun rg => k.mapped (rg / 2) && k.cl.core.reliefOk rg && (k.move rg).isNone &&
    !mapPilotEn (k.cl.core.slotMap rg))).length

/-- SBX_CAP0–SBX_CAP3. -/
def Pkg.sbxCap (k : Pkg) (i : Nat) : Nat :=
  let quads := (List.range 4).filter k.quadIn
  match i with
  | 0 => 96 * 2 ^ 24 + ((List.range 96).filter k.mapped).length * 2 ^ 16 + lanesMask quads * 2 ^ 12 + k.reliefDies
  | 1 => k.serviceClusters * 2 ^ 16 + k.reliefClusters
  | 2 => 752 * quads.length * 2 ^ 20 + 6 * quads.length * 2 ^ 15 +
      ((List.range 18).filter (fun p => decide (k.portState p = 4))).length * 2 ^ 10 + 30 * 32 + 15
  | _ => 2 ^ 24 + 7 * 2 ^ 20 + k.freeGroups.length * 2 ^ 13 +
      ((List.range 256).filter (fun w => !bitAt (k.winW w 0) 31)).length * 16

/-! ## Blocks -/

/-- MC_STATUS. -/
def Clus.mcStatus (m : Clus) (clu mm : Nat) : Nat :=
  let b0 := m.mBuf clu mm 0
  let b1 := m.mBuf clu mm 1
  (m.mQueue clu mm).length * 2 ^ 26 + b2n (m.mLoad clu mm).isSome * 2 ^ 25 +
    b2n (decide (m.mRows clu mm ≠ [] ∨ m.mChecks clu mm ≠ [])) * 2 ^ 24 + b0.fmt % 16 * 2 ^ 19 + b1.fmt % 16 * 2 ^ 15 +
    b2n b0.valid * 2 ^ 14 + b2n b1.valid * 2 ^ 13 + b0.quads % 16 * 2 ^ 9 + b1.quads % 16 * 2 ^ 5

/-- VS_VSTATUS. -/
def Clus.vStatus (m : Clus) (clu v : Nat) : Nat := (m.vQueue clu v).length * 2 ^ 26 + b2n (m.vHalted clu v) * 2 ^ 22

/-- VS_SSTATUS. -/
def Clus.sStatus (m : Clus) (clu : Nat) : Nat :=
  let x := m.score clu
  let mode := match x.mode with
    | .idle => 0
    | .program => 1
    | .handler => 2
    | .halted => 3
  let (wait, unit) := match x.wait with
    | .queue u => (1, u)
    | .counter _ _ => (2, 0)
    | .tablet _ _ _ => (3, 0)
    | .send _ _ => (4, 0)
    | .arrive _ => (5, 0)
    | .pilotOp _ _ _ => (3, 0)
    | .none => (0, 0)
  mode * 2 ^ 30 + wait * 2 ^ 27 + unit % 8 * 2 ^ 24 + m.sPc clu % 2 ^ 17

/-- SA_STATUS. -/
def Clus.saStatus (m : Clus) (clu : Nat) : Nat :=
  let a := m.arr clu
  let state := if a.halted then 3 else if a.pass.isSome then 2 else if a.selecting.isSome then 1 else 0
  state * 2 ^ 30 + a.active.getD 0 % 16 * 2 ^ 26 + b2n a.active.isSome * 2 ^ 25 + a.queue.length * 2 ^ 19 +
    b2n (decide (a.loads ≠ [])) * 2 ^ 18

/-- xST_STATUS. -/
def Pkg.stStatus (k : Pkg) (clu st : Nat) : Nat :=
  let c := k.cl.core
  let busy := k.net.runs.any (fun r => decide (r.clu = clu ∧ r.phase = .running) && decide (3 ≤ dOp r.words ∧ dOp r.words ≤ 5))
  b2n busy * 2 ^ 31 + b2n (bitAt (c.rd (pageSt clu st) 0x58) 31) * 2 ^ 30 +
    ((List.range 16).map (fun r => b2n (c.region clu st r).valid * 2 ^ r)).sum

/-- MSG_STATUS. -/
def Clus.msgStatus (m : Clus) (clu : Nat) : Nat :=
  let held := m.heldAt clu
  let ch := match held with
    | [] => 0
    | x :: _ => x.dstCh.toNat
  b2n (decide ((m.score clu).mode = .handler)) * 2 ^ 31 + b2n (decide (held ≠ [])) * 2 ^ 30 + ch % 32 * 2 ^ 25 +
    (m.outBuf clu).length * 2 ^ 22

/-- LN_STATUS: outputs that hold a packet awaiting retransmission. -/
def Pkg.lnStatus (k : Pkg) (g : Nat) : Nat :=
  ((List.range 10).map (fun o => b2n (kget k.net.retry none (linkKey g o)).isSome * 2 ^ o)).sum

/-- SBX_STATUS of a complex. -/
def Pkg.sbxStatus (k : Pkg) (i : Nat) : Nat :=
  let role := if kget k.fw.halted false i then 0 else if k.upC i then (if k.sb = i then 1 else 2) else 3
  role * 2 ^ 30 + k.bankOf i % 2 * 2 ^ 29 + b2n k.standbyOk * 2 ^ 28 +
    ((List.range 4).map (fun q => b2n (k.upC (2 + q)) * 2 ^ (24 + q))).sum

/-- SBX_EXCH_STATE. -/
def Pkg.exchState (k : Pkg) : Nat := ((k.fw.exch.map (·.state)).getD 0) % 8 * 2 ^ 29

/-- SBX_DUMP_STATUS. -/
def Pkg.dumpStatus (k : Pkg) : Nat :=
  (match k.fw.dump with
    | some d => 2 ^ 31 + d.scope % 4 * 2 ^ 29
    | none => 0) + k.fw.dumps.length

/-- A fabric collective page's words: those of FB_COLL_IDX's entry. -/
def Pkg.collWord (k : Pkg) (q off : Nat) : W32 :=
  let e := k.cl.core.fld (pageColl q) 0x40 0 6
  let w := (kget k.fab.coll [] (64 * q + e)).getD ((off - 0x80) / 8) 0
  BitVec.ofNat 32 (bitsAt w (if off % 8 = 4 then 32 else 0) 32)

/-- HB_REMAP_DATA: the remap entry at HB_REMAP_IDX. -/
def Pkg.remapData (k : Pkg) (h : Nat) : Nat :=
  let w := k.cl.core.rd (pageHb h) 0x60
  k.remap h (bitsAt w 12 5) (bitsAt w 0 11)

/-- A read of a block field that other state gives; none where the stored word answers. -/
def Pkg.derived (k : Pkg) (kd : PKind) (off : Nat) : Option W32 :=
  let c := k.cl.core
  let n (x : Nat) : Option W32 := some (BitVec.ofNat 32 x)
  match kd with
  | .global =>
    if off < 0x50 then n (k.sbxCap ((off - 0x40) / 4))
    else if off = 0x50 then n c.tick.toNat
    else if off = 0x54 then n (c.tick.toNat / 2 ^ 32)
    else if off = 0x58 then n k.sbxSum
    else if 0x60 ≤ off ∧ off < 0x6C then n (k.sumDie ((off - 0x60) / 4))
    else if 0x70 ≤ off ∧ off < 0x88 then n (k.sumRegion ((off - 0x70) / 4))
    else none
  | .sbx i =>
    if off = 0x40 then n (k.sbxStatus i)
    else if 0x50 ≤ off ∧ off < 0x58 then some (c.rd (pageSbx 0) off)
    else if off = 0x58 then n k.exchState
    else if off = 0x5C then n k.dumpStatus
    else if off = 0x60 then n (imgJournal k.running * 65536 + (Config.journalUsed c.tick).toNat)
    else if 0x80 ≤ off ∧ off < 0xA0 then some ((digestWords k.runDigest).getD ((off - 0x80) / 4) 0)
    else none
  | .pw =>
    if off = 0x40 then
      let st := if k.pw.wake.isSome then 3 else if k.devState = 5 then 2 else if k.devState = 4 then 1 else 0
      some (putBits (c.rd pagePw 0x40) 30 2 st)
    else if off = 0x4C then n (k.bu.fuse.watts * 65536 + c.fusedMhz)
    else none
  | .time => if off = 0x40 then n c.tick.toNat else none
  | .sec =>
    let f := k.bu.fuse
    if off = 0x44 then n (imgSvn k.running * 256 + f.minSvn)
    else if off = 0x48 then n (b2n f.owner.isSome * 2 ^ 31 + f.revoked % 16)
    else if 0x50 ≤ off ∧ off < 0x70 then some ((digestWords (f.owner.getD 0)).getD ((off - 0x50) / 4) 0)
    else if off = 0x70 then n f.uid.toNat
    else if off = 0x74 then n (f.uid.toNat / 2 ^ 32)
    else if 0x80 ≤ off ∧ off < 0xA0 then some ((digestWords k.fuseDigest).getD ((off - 0x80) / 4) 0)
    else if 0xA0 ≤ off ∧ off < 0xC0 then some ((digestWords k.fenceDigest).getD ((off - 0xA0) / 4) 0)
    else none
  | .biUp =>
    if 0xD0 ≤ off ∧ off < 0x10C then
      let b (i : Nat) : Nat := if i < 30 then k.bu.fuse.budgets.getD i 50 % 65536 else 0
      n (b ((off - 0xD0) / 2) + b ((off - 0xD0) / 2 + 1) * 65536)
    else none
  | .fbPkg =>
    if off = 0x48 then
      let i := c.rd pageFbPkg 0x44
      some (kget k.fab.route 0 (65536 * bitsAt i 16 1 + bitsAt i 0 16))
    else if off = 0x5C then some (kget k.fab.members 0 (c.fld pageFbPkg 0x58 0 12))
    else none
  | .fbColl q => if 0x80 ≤ off ∧ off < 0xC0 then some (k.collWord q off) else none
  | .hb h => if off = 0x58 then n k.spareFree else if off = 0x64 then n (k.remapData h) else none
  | .mc clu mm => if off = 0x40 then n (k.cl.mcStatus clu mm) else none
  | .vcore clu v => if off = 0x40 then n (k.cl.vStatus clu v) else none
  | .score clu => if off = 0x40 then n (k.cl.sStatus clu) else none
  | .sa clu => if off = 0x40 then n (k.cl.saStatus clu) else none
  | .store clu st => if off = 0x40 then n (k.stStatus clu st) else none
  | .msg clu => if off = 0x40 then n (k.cl.msgStatus clu) else none
  | .ln g => if off = 0x40 then n (k.lnStatus g) else none
  | .pts g => if off = 0x44 then n (c.shadowCrc g) else none
  | _ => none

/-- A read of a register word: reserved pages and write-only fields read zero. -/
def Pkg.peek (k : Pkg) (page off : Nat) : W32 :=
  match pageKind page with
  | none => 0
  | some kd =>
    if off = 0x10 then 0
    else if off = 0x14 then BitVec.ofNat 32 (k.pageStatus page kd)
    else if 0x40 ≤ off ∧ k.domainOff kd then 0
    else if 0x40 ≤ off then (k.derived kd off).getD (k.cl.core.rd page off)
    else k.cl.core.rd page off

/-- The 64-bit word of a page. -/
def Pkg.peek8 (k : Pkg) (page off : Nat) : Nat := (k.peek page off).toNat + 2 ^ 32 * (k.peek page (off + 4)).toNat

/-- TIME_TICK_LO_READ: TIME_TICK_HI and TIME_FRAC latch. -/
def Core.timeLatch (c : Core) : Core :=
  (c.wr pageTime 0x44 (BitVec.ofNat 32 (c.tick.toNat / 2 ^ 32))).wr pageTime 0x48 (BitVec.ofNat 32 c.frac)

/-- TIME_TICK_LO_READ (the TIME page of chapter 11). -/
def execTimeTickLoRead (s : State) : Out := .next (s.onClus (·.onCore (·.timeLatch)))

end Sys2Proof.Machine
end

