-- ==== Sys2Proof/Machine/Dumps.lean ====
section
/-!
DEFINITION. Dumps (R422–R426): what each scope takes, abandoned accesses, the limit, and where a dump goes.
-/
namespace Sys2Proof.Machine

/-- Detail bytes of R432. -/
def detailFw (complex reason domain scope pc size : Nat) : Nat :=
  complex % 256 + reason % 256 * 2 ^ 8 + domain % 256 * 2 ^ 16 + scope % 256 * 2 ^ 24 + pc % 2 ^ 64 * 2 ^ 32 +
    size % 2 ^ 32 * 2 ^ 96

/-! ## Records (R422, R423, R425) -/

/-- A register page. -/
def Pkg.dumpPage (k : Pkg) (page : Nat) : DumpRec :=
  { place := match pageKind page with
      | some kd => (kindId kd).2.2
      | none => 0
    kind := 1, flags := 0, off := 0, data := (List.range 1024).flatMap (fun i => bytes4 (k.peek page (4 * i))) }

/-- A tile queue's entries. -/
def dumpQueue (place : Nat) (q : List W128) : DumpRec :=
  { place := place, kind := 3, flags := 0, off := 0, data := q.flatMap (fun w => leBytes 16 w.toNat) }

/-- A memory record. -/
def dumpMem (place off : Nat) (l : List Byte) : DumpRec := { place := place, kind := 4, flags := 0, off := off, data := l }

/-- Bytes [lo, hi) of a region, by offset from its base; bytes outside the region are left out (R423). -/
def Pkg.dumpSample (k : Pkg) (clu st r : Nat) (d : RegionD) (lo hi : Int) : List DumpRec :=
  let a := lo.toNat
  let b := min hi.toNat (256 * d.size)
  if b ≤ a then []
  else if k.storeFenced clu st then
    [{ place := placeUnit clu (6 + st) r, kind := 2, flags := 1, off := a, data := [] }]
  else
    let l := k.cl.stRaw clu st (256 * d.base + a) (b - a)
    [{ place := placeUnit clu (6 + st) r, kind := 2, flags := if l.any (fun e => e.2) then 4 else 0, off := a,
       data := l.map (fun e => e.1) }]

/-- The store sample of a region: 4 KiB from its origin, and 256 bytes around each pointer (R423). -/
def Pkg.dumpRegion (k : Pkg) (clu st r : Nat) : List DumpRec :=
  let d := k.cl.core.region clu st r
  if d.valid = false then []
  else
    let o : Int := (256 * d.readOrigin : Nat)
    let around (p : Nat) : List DumpRec :=
      let x : Int := (256 * (if d.size = 0 then 0 else p % d.size) : Nat)
      k.dumpSample clu st r d (x - 128) (x + 128)
    k.dumpSample clu st r d o (o + 4096) ++ around d.tail ++ around d.rel ++ around (d.rel + d.hext) ++
      (if d.homeEn then around d.flush else [])

/-- Scope 0: a cluster (R422). -/
def Pkg.dumpClu (k : Pkg) (clu : Nat) : List DumpRec :=
  let m := k.cl
  let x := m.score clu
  let regs : List Byte := (List.range 64).flatMap (fun i => leBytes 8 (m.xReg clu (i / 32) (i % 32)).toNat)
  let csrs : List Byte := (List.range 4).flatMap (fun i => leBytes 8 ((m.csr clu (0xCC0 + i)).getD 0).toNat)
  ((List.range 48).flatMap (fun i => k.dumpRegion clu (i / 16) (i % 16))) ++
    [k.dumpPage (pageMc clu 0), k.dumpPage (pageMc clu 1), k.dumpPage (pageV clu 0), k.dumpPage (pageV clu 1),
     k.dumpPage (pageS clu), k.dumpPage (pageSa clu), k.dumpPage (pageSt clu 0), k.dumpPage (pageSt clu 1),
     k.dumpPage (pageSt clu 2), k.dumpPage (pageMsg clu),
     dumpQueue (placeUnit clu 0 0) (m.mQueue clu 0), dumpQueue (placeUnit clu 1 0) (m.mQueue clu 1),
     dumpQueue (placeUnit clu 2 0) (m.vQueue clu 0), dumpQueue (placeUnit clu 3 0) (m.vQueue clu 1),
     dumpQueue (placeUnit clu 5 0) (m.arr clu).queue,
     dumpMem (placeUnit clu 4 0) 0 (regs ++ leBytes 8 x.pc0 ++ leBytes 8 x.pc1 ++ csrs),
     dumpMem (placeUnit clu 9 0) 0 (m.core.winRds (dmemBase clu) 65536)]

/-- Scope 1: a region. -/
def Pkg.dumpRg (k : Pkg) (rg : Nat) : List DumpRec :=
  let c := k.cl.core
  let entries : List DumpRec := ((List.range 64).filter (fun n => decide (c.circState rg n ≠ 0))).map (fun n =>
    dumpMem (placeTT rg) (256 * c.circCur rg n) (c.winRds (entryBase rg + 256 * c.circCur rg n) 256))
  let tabs : List Byte := (List.range 128).flatMap (fun i => bytes4 (c.rd (pageTb (rg / 2)) (localTbOff (rg % 2) 0 + 4 * i)))
  ((List.range 5).flatMap (fun i => k.dumpClu (5 * rg + i))) ++ [k.dumpPage (pageTT rg)] ++ entries ++
    [dumpMem (placeRg rg) (localTbOff (rg % 2) 0) tabs, k.dumpPage (pageBI rg)]

/-- Scope 2: a die. -/
def Pkg.dumpDie (k : Pkg) (g : Nat) : List DumpRec :=
  let list (rg : Nat) : List Byte :=
    (List.range 256).flatMap (fun i => ((kget k.net.dlist [] (256 * rg + i)).flatMap (fun w => leBytes 8 w.toNat)))
  k.dumpRg (2 * g) ++ k.dumpRg (2 * g + 1) ++
    [k.dumpPage (pageDma g), dumpMem (placeRg (2 * g)) 0 (list (2 * g)), dumpMem (placeRg (2 * g + 1)) 0 (list (2 * g + 1)),
     k.dumpPage (pageLn g), k.dumpPage (pagePts g), k.dumpPage (pageTb g)]

/-- Place code of a firmware complex (R7). -/
def placeComplex (x : Nat) : Nat := if x < 2 then placeSbx x else placeEdge (x - 2) 3 0

/-- Scope 3: the package. -/
def Pkg.dumpPkg (k : Pkg) : List DumpRec :=
  let t := k.cl.core.tick
  ((List.range 96).flatMap k.dumpDie) ++ ((List.range 24).map (fun h => k.dumpPage (pageHb h))) ++
    ((List.range 18).map (fun p => k.dumpPage (pageFb p))) ++ ((List.range 4).map (fun q => k.dumpPage (pageColl q))) ++
    [k.dumpPage pageAt, k.dumpPage pageRoot] ++
    ((List.range 6).flatMap (fun x =>
      [{ place := placeComplex x, kind := 5, flags := 0, off := 0, data := Config.journalBytes x t },
       { place := placeComplex x, kind := 6, flags := 0, off := 0, data := Config.openBytes x t }]))

/-- The records of a dump. -/
def Pkg.dumpRecs (k : Pkg) (d : Dump) : List DumpRec :=
  match d.scope with
  | 0 => k.dumpClu (placeCluster d.place)
  | 1 => k.dumpRg (placeRegion d.place)
  | 2 => k.dumpDie (placeGDie d.place)
  | _ => k.dumpPkg

/-- The unit of a place: its code without the sub-index. -/
def unitOf (place : Nat) : Nat := if place / 2 ^ 30 = 3 then place else place / 2 ^ 15 * 2 ^ 15

/-- Mark the records that abandoned accesses and the limit leave out: the n-th abandoned access of a unit stands for the n-th
record of it, and from the 16th on the rest of the unit is not tried (R424; log entry 31). -/
def dumpMarks (dead : KMap Nat) (taken : Nat) : Nat → KMap Nat → List DumpRec → List DumpRec
  | _, _, [] => []
  | i, seen, r :: l =>
    let u := unitOf r.place
    let n := kget seen 0 u
    let lost := kget dead 0 u
    let r := if taken ≤ i then { r with flags := 2, data := [] }
      else if n < lost ∨ 16 ≤ lost then { r with flags := 1, data := [] }
      else r
    r :: dumpMarks dead taken (i + 1) (kput seen 0 u (n + 1)) l

/-- The bytes of a record: its header, and its data padded to 16 bytes (R425). -/
def DumpRec.bytes (r : DumpRec) : List Byte :=
  leBytes 4 r.place ++ leBytes 2 r.kind ++ leBytes 2 r.flags ++ leBytes 4 r.data.length ++ leBytes 4 r.off ++ r.data ++
    List.replicate ((16 - r.data.length % 16) % 16) 0

/-- The bytes of a dump with its header (R425). -/
def Dump.bytes (d : Dump) (l : List DumpRec) : List Byte :=
  let body := l.flatMap (·.bytes)
  [1, 0, BitVec.ofNat 8 d.scope, 0] ++ leBytes 4 d.trigger ++ leBytes 4 d.place ++ leBytes 4 l.length ++ leBytes 8 d.start ++
    leBytes 4 (l.filter (fun r => decide (r.flags = 1))).length ++ leBytes 4 (l.filter (fun r => decide (r.flags = 2))).length ++
    leBytes 8 (64 + body.length) ++ List.replicate 24 0 ++ body

/-! ## The run of a dump (R422, R424, R426) -/

/-- Number of records of n taken before a dump was cut: a free value (log entry 31). -/
def Pkg.drawTaken (k : Pkg) (n : Nat) : Nat × Pkg :=
  let (v, c) := k.cl.core.draw
  (v.toNat % (n + 1), k.onCore (fun _ => c))

/-- Write a finished dump to the host buffer, or to the dump store, which keeps the four newest (R426). -/
def Pkg.dumpOut (k : Pkg) (d : Dump) (b : List Byte) : Pkg :=
  let base := k.cwRd8 32 0x68
  let host : Bool := decide (base ≠ 0 ∧ b.length ≤ bitsAt (k.cwRd 32 0x70) 0 29) && decide ((k.link salLink).step = .up)
  let k := if host then k.hostWrite base b
    else k.onFw (fun f => { f with dumps := (f.dumps ++ [b]).drop (f.dumps.length - 3) })
  k.onCore (fun c => c.fwEvent 0x0E0E sevInfo (d.job.getD 15) c.sbxPlace
    (detailFw k.sb (b2n (!host)) 0xFF d.scope 0 ((b.length + 1023) / 1024)))

/-- End the dump: what it has not taken is TRUNCATED where it was cut. -/
def Pkg.dumpEnd (k : Pkg) (cut : Bool) : Pkg :=
  match k.fw.dump with
  | none => k
  | some d =>
    let l := k.dumpRecs d
    let (taken, k) := if cut then k.drawTaken l.length else (l.length, k)
    let b := d.bytes (dumpMarks d.dead taken 0 [] l)
    (k.onFw (fun f => { f with dump := none })).dumpOut d b

/-- Start a dump. A job-fault dump due while another runs is dropped; a dump that a reset requires ends a job-fault dump at
once (R424). -/
def Pkg.dumpStart (k : Pkg) (scope trigger place : Nat) (job : Option Nat) : Pkg :=
  let d : Dump := { scope := scope, trigger := trigger, place := place, job := job, start := k.cl.core.tick.toNat, dead := [],
                    cut := false }
  match k.fw.dump with
  | none => k.onFw (fun f => { f with dump := some d })
  | some old =>
    if job.isSome ∨ old.job.isNone then k
    else (k.dumpEnd true).onFw (fun f => { f with dump := some d })

/-- A cluster dump of a faulting slot, at most one per job in 65,536 ticks, while JOBFAULT is 1 (R422). -/
def Pkg.jobFaultDump (k : Pkg) (trigger clu job : Nat) : Pkg :=
  let t := k.cl.core.tick.toNat
  let last := kget k.fw.jobDump 0 job
  if bitAt (k.cl.core.rd k.cl.core.sbx 0x4C) 31 = false ∨ k.fw.dump.isSome ∨ (last ≠ 0 ∧ t < last - 1 + 65536) then k
  else (k.dumpStart 0 trigger (placeClu clu) (some job)).onFw (fun f => { f with jobDump := kput f.jobDump 0 job (t + 1) })

/-- DUMP_ACCESS_TIMEOUT at a unit: an access of the copier, or of the dump that runs (R251, R424). -/
def Pkg.dumpTimeout (k : Pkg) (place : Nat) : Pkg :=
  let k := k.copyTimeout place
  match k.fw.dump with
  | none => k
  | some d =>
    let u := unitOf place
    k.onFw (fun f => { f with dump := some { d with dead := kput d.dead 0 u (min 16 (kget d.dead 0 u + 1)) } })

/-- Copy the kept dumps to a buffer that has been set again, oldest first, while they fit (R426; log entry 31). -/
def Pkg.dumpCopy (k : Pkg) : Pkg :=
  let base := k.cwRd8 32 0x68
  let len := bitsAt (k.cwRd 32 0x70) 0 29
  if base = 0 then k
  else (k.fw.dumps.foldl (fun (x : Nat × Pkg) b =>
    if x.1 + b.length ≤ len then (x.1 + b.length, x.2.hostWrite (base + x.1) b) else x) (0, k)).2

/-! ## The commands of this part -/

/-- DUMP_ACCESS_TIMEOUT (R424). -/
def execDumpAccessTimeout (p : W32) (s : State) : Out := .next (s.onPkg (·.dumpTimeout p.toNat))
/-- DUMP_LIMIT_EXPIRY (R424). -/
def execDumpLimitExpiry (s : State) : Out := .next (s.onPkg (·.dumpEnd true))
/-- DUMP_COMPLETE (R426). -/
def execDumpComplete (s : State) : Out := .next (s.onPkg (·.dumpEnd false))

end Sys2Proof.Machine
end

