-- ==== Sys2Proof/Machine/Hangs.lean ====
section
/-!
DEFINITION. How a reset begins (R422, R428, R429), how a complex crashes (R413, R415) and the responses to a hang (R225, R413,
R414).
-/
namespace Sys2Proof.Machine

/-! ## Beginning a reset (R422, R428, R429) -/

/-- Reason PEER_LOST of a stop signal (R302). -/
def stopPeerLost : Nat := 2

/-- Valid group entries whose job runs, is suspended or is stopping. -/
def Pkg.liveGroups (k : Pkg) : List Nat :=
  (List.range 16).filter (fun i => k.grpValid i && decide (3 ≤ k.jobState (k.grpJob i) ∧ k.jobState (k.grpJob i) ≤ 5))

/-- End an exchange in progress: the old image stays in use (R421, R429). -/
def Pkg.exchEnd (k : Pkg) (status result : Nat) : Pkg :=
  match k.fw.exch with
  | none => k
  | some e => (k.onFw (fun f => { f with exch := none })).cmdEnd 15 0x2D 15 e.tag status result

/-- Begin a reset: FW_RESET, RECOVERY with the stop signals, and the dump that it requires. An open debug nonce lapses (R464). -/
def Pkg.resetBegin (k : Pkg) (dom die trigger place reason : Nat) (cmd : Option RunCmd) : Pkg :=
  let t := k.cl.core.tick.toNat
  let k := { k with sec := { k.sec with nonce := none } }
  let k := k.onCore (fun c => c.fwEvent 0x0E0C sevInfo 15 place (detailFw k.sb reason dom (if dom = 1 then 2 else 3) 0 0))
  let k := match cmd with
    | some c => k.cmdRun c.ring c.opc c.job c.tag
    | none => k
  let r : ResetS := { domain := dom, die := die, cmd := cmd, start := t, phase := 0, ta := 0, backTo := k.devState }
  if dom = 1 then (k.onFw (fun f => { f with reset := some r })).dumpStart 2 trigger place none
  else
    let live := k.liveGroups
    let k := live.foldl (fun x i => x.stopEmit i stopPeerLost) k
    let k := k.exchEnd stPreempted 0
    let r := { r with ta := if live = [] then 0 else t + 4 }
    ((k.onFw (fun f => { f with reset := some r })).setDevState 6).dumpStart 3 trigger place none

/-- A reset asked for while one runs: the same or a smaller domain is ignored; a full recovery takes a compute-domain reset
over at once (R429). -/
def Pkg.resetAsk (k : Pkg) (dom trigger place reason : Nat) : Pkg :=
  match k.fw.reset with
  | none => k.resetBegin dom 0 trigger place reason none
  | some r =>
    if r.domain = 0 ∧ dom = 2 then
      (k.onFw (fun f => { f with reset := some { r with domain := 2, phase := min r.phase 1, start := k.cl.core.tick.toNat } })).onCore
        (fun c => c.fwEvent 0x0E0C sevInfo 15 place (detailFw k.sb reason 2 3 0 0))
    else if r.domain = 1 ∧ dom ≠ 1 then
      let k := (k.onFw (fun f => { f with reset := none }))
      let k := match r.cmd with
        | some c => k.cmdEnd c.ring c.opc c.job c.tag stPreempted 0
        | none => k
      k.resetBegin dom 0 trigger place reason none
    else k

/-! ## Crash (R413, R415, R433) -/

/-- Cause that FW_CRASH gives for a missed heartbeat, the fourth of R415 (log entry 33). -/
def causeHeartbeat : Nat := 3

/-- A complex crashes: it halts whole, and FW_CRASH is recorded and kept (R415). -/
def Pkg.fwCrash (k : Pkg) (x cause pc : Nat) (inj : Bool := false) : Pkg :=
  if k.upC x = false then k
  else
    let k := k.onFw (fun f => { f with up := kput f.up false x false, halted := kput f.halted false x true,
                                       hbStop := kput f.hbStop false x false })
    k.onCore (fun c =>
      let c := c.record c.sbx 0x0E01 sevCorr 15 (placeComplex x) (detailFw x cause 0xFF 0xFF pc 0) inj
      match c.records.getLast? with
      | some r => c.wrs c.sbx 0xA0 (recWords r)
      | none => c)

/-! ## Hangs (R413, R414) -/

/-- Place code of a hung endpoint. -/
def hangPlace (e : HangEndpoint) : Nat :=
  match e with
  | .diePosition g => placeDie g.val 0
  | .hbmController h => placeEdge (h.val / 6) 0 h.val
  | .fabricPort p => placeEdge (portQuad p.val) 1 p.val
  | .collectiveEngine q => placeEdge q.val 2 0
  | .attachLink => placeEdge 0 5 0
  | .firmware c => placeComplex c.val

/-- A collective engine is reset: each run in progress emits the stop signal with reason PEER_LOST (R302, R414). -/
def Pkg.engineReset (k : Pkg) (q : Nat) : Pkg :=
  let mine := k.fab.runs.filter (fun e => decide (e.1 / 64 = q) && e.2.isSome)
  let grps := (mine.map (fun e => ceGrp (kget k.fab.coll [] e.1))).eraseDups
  let k := k.dropRuns (fun e => decide (e / 64 = q))
  grps.foldl (fun x i => x.stopEmit i stopPeerLost) k

/-- HANG_RESPONSE (R414): FW_HANG, then the endpoint's response; the resets take the dump. -/
def Pkg.hang (k : Pkg) (e : HangEndpoint) : Pkg :=
  if k.upC k.sb = false then k
  else
    let p := hangPlace e
    let k := k.onCore (fun c => c.fwEvent 0x0E0B sevDegr 15 p (detailFw k.sb 0 0xFF 0xFF 0 0))
    match e with
    | .diePosition _ => k.resetAsk 0 0x0E0B p 0
    | .hbmController _ => k.resetAsk 2 0x0E0B p 0
    | .attachLink => k.resetAsk 2 0x0E0B p 0
    | .fabricPort port => if (k.link port.val).step = .off then k else k.linkLost port.val
    | .collectiveEngine q => k.engineReset q.val
    | .firmware c => k.fwCrash c.val causeHeartbeat 0

/-- Endpoints of a concourse edge that the packets still on the lines are from or for. -/
def edgeHung (k : Pkg) (q : Nat) : List HangEndpoint :=
  let eps := k.net.pkts.flatMap (fun pk =>
    (if pk.srcDie.toNat = 96 + q then [pk.srcEp.toNat] else []) ++ (if pk.dstDie.toNat = 96 + q then [pk.dstEp.toNat] else []))
  (eps.eraseDups).filterMap (fun ep =>
    if ep < 6 then some (.hbmController (Fin.ofNat 24 (6 * q + ep)))
    else if 8 ≤ ep ∧ ep < 13 then some (.fabricPort (Fin.ofNat 18 (epPort q ep)))
    else if ep = 16 then some (.collectiveEngine (Fin.ofNat 4 q))
    else if ep = 17 then some (.firmware (Fin.ofNat 6 (2 + q)))
    else if ep = 19 then some .attachLink
    else none)

/-- A line clear that was given up: every participant that has not arrived counts as hung (R225, R413). At an edge these are the
endpoints whose packets are still on the lines. -/
def Pkg.clearHung (k : Pkg) : Pkg :=
  let c := k.cl.core
  let late := (List.range 100).filter (fun i => decide (c.fld pageRoot (0x350 + 4 * (i / 32)) (i % 32) 1 = 0))
  let l := late.flatMap (fun i => if h : i < 96 then [HangEndpoint.diePosition ⟨i, h⟩] else edgeHung k (i - 96))
  l.foldl Pkg.hang k

/-- A route drain that was given up: every port and collective engine that has not arrived counts as hung (R225, R307). -/
def Pkg.drainHung (k : Pkg) : Pkg :=
  let l := k.fab.undrained.map (fun i => if h : i < 18 then HangEndpoint.fabricPort ⟨i, h⟩
    else .collectiveEngine (Fin.ofNat 4 (i - 18)))
  l.foldl Pkg.hang (k.onFab (fun f => { f with undrained := [] }))

end Sys2Proof.Machine
end

