-- ==== Sys2Proof/Machine/Records.lean ====
section
/-!
DEFINITION. Error records at their sinks (R337, R347, R352, R370, R422, R489): the buffers, what the block post and the Signal
Box do with a record, and the host event ring.
-/
namespace Sys2Proof.Machine

/-- Quadrant of a place code. -/
def quadOf (place : Nat) : Nat := place / 2 ^ 28 % 4

/-! ## The block post -/

/-- Causes of class CHECK (R32). -/
def checkCauses : List Nat := [0x0201, 0x0301, 0x0402, 0x0403, 0x0601, 0x0602, 0x0805, 0x0A0A, 0x0F42, 0x010C]

/-- Keep the ticks of a window of 65,536 ticks, with the present one. -/
def windowAdd (l : List Nat) (t : Nat) : List Nat := (l.filter (fun x => decide (t < x + 65536))) ++ [t]

/-- A TT_REPLAY with a CHECK cause: counted for its cluster; the eighth in 65,536 ticks rotates it out (R347). -/
def Pkg.countReplay (k : Pkg) (r : ErrRec) : Pkg :=
  let rg := placeRegion r.place.toNat
  let clu := k.cl.core.cluOf rg (bitsAt r.detail 24 8 % 4)
  let l := windowAdd (kget k.bi.checks [] clu) r.tick.toNat
  let k := k.onBi (fun b => { b with checks := kput b.checks [] clu l })
  let k := k.onCore (·.setFld (pageBI rg) (0x80 + 8 * (clu % 5)) 24 8 (min 255 l.length))
  if l.length ≠ 8 then k
  else
    let d := detailBi r.job.toNat (bitsAt r.detail 24 8) (clu % 5) (k.cl.core.reliefOf rg % 5) (bitsAt r.detail 0 16) 0 0
      k.cl.core.tick.toNat
    let k := k.onCore (·.fwEvent 0x0E47 sevInfo r.job.toNat (placeClu clu) d)
    if k.serves rg then k.rotate rg (clu % 5) else k

/-- Rewrite the poisoned granules of a read-only region from its home copy, for the regions that hold a granule (R370). -/
def Pkg.repairStore (k : Pkg) (clu st gran : Nat) : Pkg :=
  iter 16 (fun r x =>
    let d := x.cl.core.region clu st r
    if d.valid ∧ d.homeEn ∧ d.homeSrc ∧ d.mode = 3 ∧ d.base ≤ gran ∧ gran < d.base + d.size then
      iter d.size (fun g y =>
        let a := 256 * (d.base + g)
        if (y.cl.stRaw clu st a 256).any (fun e => e.2) then
          let (l, y) := y.dpaRead (d.homeBase * 4096 + 256 * g) 256
          y.onClus (·.putRaw clu st a l)
        else y) x
    else x) k

/-- Re-flush granule g of a region's home copy from its store, or its pointer record (R188, R370). -/
def Pkg.reflush (k : Pkg) (clu st r g : Nat) : Pkg :=
  let d := k.cl.core.region clu st r
  if g = d.size then k.homeRecord clu st r
  else
    let k := k.onClus (·.stTouch clu st (256 * (d.base + g)) 256 unitLine r)
    k.homeWrite clu st r (256 * g) (k.cl.stRaw clu st (256 * (d.base + g)) 256)

/-- Re-flush the granule of a home copy that an uncorrectable block hit (R370). -/
def Pkg.repairHome (k : Pkg) (dpa : Nat) : Pkg :=
  iter 960 (fun clu x => iter 48 (fun i y =>
    let st := i / 16
    let r := i % 16
    let d := y.cl.core.region clu st r
    let lo := d.homeBase * 4096
    if d.homeKept ∧ lo ≤ dpa ∧ dpa < lo + 256 * (d.size + 1) then y.reflush clu st r ((dpa - lo) / 256)
    else y) x) k

/-- Re-flush every home copy, as far as it lies in a pseudo-channel (R267). -/
def Pkg.reflushPc (k : Pkg) (h p : Nat) : Pkg :=
  iter 960 (fun clu x => iter 48 (fun i y =>
    let st := i / 16
    let r := i % 16
    let d := y.cl.core.region clu st r
    if d.homeKept then
      iter (d.size + 1) (fun g z => match z.media (d.homeBase * 4096 + 256 * g) with
        | some (a, b, _) => if a = h ∧ b = p then z.reflush clu st r g else z
        | none => z) y
    else y) x) k

/-- What the block post does with a record: a page or pseudo-channel that is owed a re-homing has it started (R264, R265, R267,
R347, R352, R370). -/
def Pkg.bpAct (k : Pkg) (r : ErrRec) : Pkg :=
  let p := r.place.toNat
  let clu := placeCluster p
  if r.code = 0x0107 then (if checkCauses.elem (bitsAt r.detail 0 16) then k.countReplay r else k)
  else if r.code = 0x0506 then
    let st := placeUnitNo p - 6
    let key := 96 * clu + 32 * st + placeSub p % 32
    let k := k.onBi (fun b => { b with eccUe := kput b.eccUe [] key (windowAdd (kget b.eccUe [] key) r.tick.toNat) })
    k.repairStore clu st (bitsAt r.detail 96 16)
  else if r.code = 0x0409 then
    k.onBi (fun b => { b with cfgLost := kput b.cfgLost [] clu (windowAdd (kget b.cfgLost [] clu) r.tick.toNat) })
  else if r.code = 0x0902 then (k.repairHome (bitsAt r.detail 0 48)).rehomeNext (placeInst p)
  else if r.code = 0x0903 ∨ r.code = 0x0905 then k.rehomeNext (placeInst p)
  else if r.code = 0x0907 then (k.reflushPc (placeInst p) (bitsAt r.detail 48 8)).rehomeNext (placeInst p)
  else k

/-! ## The Signal Box -/

/-- The host event ring (R337). -/
def Pkg.eventRing (k : Pkg) (r : ErrRec) : Pkg :=
  let w := k.cwRd 32 0x48
  if bitAt w 31 = false ∨ r.severity.toNat < bitsAt w 8 3 then k
  else
    let size := 2 ^ (bitsAt w 0 4 + 6)
    let i := bitsAt (k.cwRd 3 0x58) 0 16
    let next := (i + 1) % size
    if next = bitsAt (k.cwRd 32 0x4C) 0 16 ∨ (k.link salLink).step ≠ .up then k.cwWr 3 0x5C (satInc32 (k.cwRd 3 0x5C))
    else (k.hostWrite (k.cwRd8 32 0x40 + 32 * i) ((recWords r).flatMap bytes4)).cwWr 3 0x58 (BitVec.ofNat 32 next)

/-- The dump that a job-fault record asks for (R422). -/
def Pkg.recordDump (k : Pkg) (r : ErrRec) : Pkg :=
  let p := r.place.toNat
  let j := r.job.toNat
  if r.code = 0x0109 then k.jobFaultDump 0x0109 (k.cl.core.cluOf (placeRegion p) (bitsAt r.detail 24 8 % 4)) j
  else if r.code = 0x0401 ∨ r.code = 0x0802 then k.jobFaultDump r.code.toNat (placeCluster p) j
  else k

/-- What the Signal Box does with a record (R213, R225, R337, R378, R405, R422). -/
def Pkg.sbAct (k : Pkg) (r : ErrRec) : Pkg :=
  let k := if r.severity = 3 then
      k.onBi (fun b => { b with degraded := kput b.degraded 0 (quadOf r.place.toNat) (r.tick.toNat + 1) })
    else if r.severity = 4 then { k with bu := { k.bu with devEvent := true } }
    else k
  let k := if r.code = 0x0608 then k.rebook else if r.code = 0x0607 then k.clearHung
    else if r.code = 0x0A13 then k.drainHung else k
  ((k.eventRing r).recordDump r).stopFaulted

/-! ## The sinks (R489) -/

/-- A record reaches a sink: handled at once while its complex serves, kept in the buffer of 1,024 otherwise; a full buffer
loses it, and the next record kept says so. -/
def Pkg.sink (k : Pkg) (i : Nat) (up : Bool) (act : Pkg → ErrRec → Pkg) (r : ErrRec) : Pkg :=
  let l := kget k.fw.sinks [] i
  if up = false ∧ 1024 ≤ l.length then k.onFw (fun f => { f with lost := kput f.lost false i true })
  else
    let r := if kget k.fw.lost false i then { r with loss := true } else r
    let k := k.onFw (fun f => { f with lost := kput f.lost false i false })
    if up then act k r else k.onFw (fun f => { f with sinks := kput f.sinks [] i (l ++ [r]) })

/-- The buffer of a sink whose complex serves again is emptied, oldest record first. -/
def Pkg.sinkDrain (k : Pkg) (i : Nat) (act : Pkg → ErrRec → Pkg) : Pkg :=
  let l := kget k.fw.sinks [] i
  l.foldl act (k.onFw (fun f => { f with sinks := kput f.sinks [] i [] }))

/-- Empty the buffer of a complex that serves: a block post's, or that of the Signal Box in charge. -/
def Pkg.complexDrain (k : Pkg) (x : Nat) : Pkg :=
  if 2 ≤ x then k.sinkDrain (x - 2) Pkg.bpAct else if x = k.sb then k.sinkDrain 4 Pkg.sbAct else k

/-- ERROR_RECORD: a record on SIG1 reaches the block post of its quadrant and the Signal Box. A record that is not under way
is none (log entry 32). -/
def Pkg.errorRecord (k : Pkg) (r : ErrRec) : Pkg :=
  if !k.cl.core.records.elem r then k
  else
    let q := quadOf r.place.toNat
    let k := k.onCore (fun c => { c with records := dropFirst (· == r) c.records })
    let k := k.sink q (k.upC (2 + q)) Pkg.bpAct r
    let k := if r.severity.toNat < 5 then k.onCore (·.incSat 0 (0x90 + 4 * r.severity.toNat) 1) else k
    k.sink 4 (k.upC k.sb) Pkg.sbAct r

/-- ERROR_RECORD (R489). -/
def execErrorRecord (r : ErrRec) (s : State) : Out := .next (s.onPkg (·.errorRecord r))

end Sys2Proof.Machine
end

