-- ==== Sys2Proof/Machine/Training.lean ====
section
/-!
DEFINITION. The training record (R393–R396): its bytes read and written, and the host memory it is read from.
-/
namespace Sys2Proof.Machine

/-- Apply a change to the bring-up part. -/
def Pkg.onBu (k : Pkg) (f : BuS → BuS) : Pkg := { k with bu := f k.bu }

/-- A byte of host memory: what the device last wrote there, else the host's own (log entry 4). -/
def Pkg.hostByteAt (k : Pkg) (a : Nat) : Byte :=
  match k.att.hostWr.reverse.find? (fun w => decide (w.1 ≤ a ∧ a < w.1 + w.2.length)) with
  | some w => w.2.getD (a - w.1) 0
  | none => Config.hostByte a k.cl.core.tick
/-- n bytes of host memory from an address on. -/
def Pkg.hostMem (k : Pkg) (a n : Nat) : List Byte := (List.range n).map (fun i => k.hostByteAt (a + i))

/-! ## Reading a record (R393, R396) -/

/-- The sections of a record: KIND and data, where each keeps the form of R393. -/
def trecSects : Nat → List Byte → Option (List (Nat × List Byte))
  | 0, l => if l = [] then some [] else none
  | n + 1, l =>
    let len := leAt l 4 4
    let pad := (len + 7) / 8 * 8
    if l.length < 8 + pad ∨ leAt l 2 2 ≠ 0 ∨ ((l.drop (8 + len)).take (pad - len)).any (· ≠ 0) then none
    else (trecSects n (l.drop (8 + pad))).map (fun r => (leAt l 0 2, (l.drop 8).take len) :: r)

/-- Whether a section's data has the length that its KIND asks for; fences and pages name places that exist (R6, R393). -/
def sectOk (s : Nat × List Byte) : Bool :=
  match s.1 with
  | 1 => decide (s.2.length = 64)
  | 2 => decide (s.2.length = 49152)
  | 3 => decide (s.2.length = 2304)
  | 4 => decide (s.2.length = 256)
  | 5 => decide (s.2.length % 8 = 0) && (words64 s.2).all (fun w => placeOk (bitsAt w 32 32))
  | 6 => decide (s.2.length % 4 = 0) && (words32 s.2).all (fun w => decide (bitsAt w 26 6 = 0 ∧ bitsAt w 11 5 = 0 ∧
      bitsAt w 21 5 < 24))
  | _ => false

/-- Two bytes as a signed number. -/
def leInt16 (l : List Byte) (off : Nat) : Int := (BitVec.ofNat 16 (leAt l off 2)).toInt

/-- A port's or the Attach Link's entry. -/
def portRecOf (l : List Byte) : PortRec :=
  { tag := BitVec.ofNat 64 (leAt l 0 8), gen := leAt l 8 1, width := leAt l 9 1, rest := l.drop 10 }

/-- A record with one more section applied. -/
def TRec.add (r : TRec) (s : Nat × List Byte) : TRec :=
  let l := s.2
  match s.1 with
  | 1 => { r with temps := (List.range 4).map (fun q => leInt16 l (16 * q)),
                  power := (List.range 4).map (fun q => leAt l (16 * q + 4) 4),
                  caps := (List.range 4).map (fun q => leAt l (16 * q + 8) 4) }
  | 2 => { r with pcs := (List.range 768).foldl (fun (m : KMap (Option PcRec)) i =>
      let e := (l.drop (64 * i)).take 64
      kput m none i (some { set := e.take 48, rd := leAt e 48 1, wr := leAt e 49 1, out := leAt e 50 1 })) r.pcs }
  | 3 => { r with ports := (List.range 18).foldl (fun (m : KMap (Option PortRec)) i =>
      kput m none i (some (portRecOf ((l.drop (128 * i)).take 128)))) r.ports }
  | 4 => { r with sal := some (portRecOf l) }
  | 5 => { r with fences := words64 l }
  | 6 => { r with pages := words32 l }
  | _ => r

/-- Reason of R396 for which the record is rejected, 0 where it is accepted, and what it holds. -/
def Pkg.trecRead (k : Pkg) (l : List Byte) (buf : Nat) : Nat × TRec :=
  let len := leAt l 4 4
  let sects := trecSects (leAt l 18 2) ((l.take len).drop 64)
  if buf < len then (1, TRec.blank)
  else match sects with
  | none => (2, TRec.blank)
  | some ss =>
    if leAt l 0 2 ≠ 1 ∨ leAt l 2 2 ≠ 0 ∨ len < 64 ∨ 262144 < len ∨ ss.all sectOk = false then (2, TRec.blank)
    else if digestBytes (Config.sha256 ((l.take len).drop 64)) ≠ (l.drop 32).take 32 then (3, TRec.blank)
    else if leAt l 8 8 ≠ k.bu.fuse.uid.toNat ∨ leAt l 16 1 ≠ gradeCode k.cl.core.grade then (4, TRec.blank)
    else (0, ss.foldl TRec.add TRec.blank)

/-! ## Writing a record (R394) -/

/-- A section with its header and padding. -/
def sectBytes (kind : Nat) (l : List Byte) : List Byte :=
  leBytes 2 kind ++ [0, 0] ++ leBytes 4 l.length ++ l ++ List.replicate ((8 - l.length % 8) % 8) 0

/-- A list cut or filled with zeros to n bytes. -/
def fitBytes (n : Nat) (l : List Byte) : List Byte := l.take n ++ List.replicate (n - l.length) 0

/-- What a link's training has found, as it stands: an up link's own settings, with settings bytes of the controller's
(R394; log entry 30). -/
def Pkg.linkRec (k : Pkg) (l : Nat) : PortRec :=
  let x := k.link l
  let map := if l = salLink then [] else bytes4 (k.cl.core.rd (pageFb l) 0x48)
  { tag := x.tag, gen := x.gen, width := widthCode l x.lanes.length,
    rest := map ++ (Config.openBytes (4096 + l) k.cl.core.tick).take (if l = salLink then 144 else 72) }

/-- The record of a link for handing out: the link's as it stands while it is up, else its last one, with the tag in force. -/
def Pkg.linkRecNow (k : Pkg) (l : Nat) : PortRec :=
  let last : Option PortRec := if l = salLink then k.bu.own.sal else kget k.bu.own.ports none l
  let r := if (k.link l).step = .up then k.linkRec l else last.getD ⟨0, 0, 0, []⟩
  { r with tag := (k.link l).tag }

/-- Bytes of a link's entry. -/
def PortRec.bytes (r : PortRec) (n : Nat) : List Byte :=
  fitBytes n (leBytes 8 r.tag.toNat ++ leBytes 1 r.gen ++ leBytes 1 r.width ++ r.rest)

/-- Pages re-homed now: section 6. -/
def Pkg.retired (k : Pkg) : List Nat :=
  (k.hbm.remap.filter (fun e => decide (e.2 / 2 ^ 15 = 1))).map (fun e =>
    e.1 / 65536 * 2 ^ 21 + e.1 / 2048 % 32 * 2 ^ 16 + e.1 % 2048)

/-- The record that TRAIN_RECORD exports (R393, R394). -/
def Pkg.trecBytes (k : Pkg) : List Byte :=
  let o := k.bu.own
  let cond := (List.range 4).flatMap (fun q =>
    leBytes 2 (BitVec.ofInt 16 (o.temps.getD q 0)).toNat ++ [0, 0] ++ leBytes 4 (o.power.getD q 0) ++
      leBytes 4 (o.caps.getD q 0) ++ leBytes 4 0)
  let pcs := (List.range 768).flatMap (fun i =>
    match kget o.pcs none i with
    | some r => fitBytes 48 r.set ++ leBytes 1 r.rd ++ leBytes 1 r.wr ++ leBytes 1 r.out ++ List.replicate 13 0
    | none => List.replicate 64 0)
  let ports := (List.range 18).flatMap (fun p => (k.linkRecNow p).bytes 128)
  let fences := (k.bi.fence.filter (·.field)).flatMap (fun e => leBytes 8 e.word.toNat)
  let body := sectBytes 1 cond ++ sectBytes 2 pcs ++ sectBytes 3 ports ++ sectBytes 4 ((k.linkRecNow salLink).bytes 256) ++
    sectBytes 5 fences ++ sectBytes 6 (k.retired.flatMap (leBytes 4))
  leBytes 2 1 ++ [0, 0] ++ leBytes 4 (64 + body.length) ++ leBytes 8 k.bu.fuse.uid.toNat ++
    leBytes 1 (gradeCode k.cl.core.grade) ++ leBytes 1 0 ++ leBytes 2 6 ++ leBytes 4 (imgVer k.running) ++
    leBytes 8 k.cl.core.tick.toNat ++ digestBytes (Config.sha256 body) ++ body

end Sys2Proof.Machine
end

