-- ==== Sys2Proof/Machine/BringUp.lean ====
section
/-!
DEFINITION. Bring-up (R381–R405, R408–R412, R436–R439): the cold-start sequence, the warm fast path, and the pins and
supplies that start and end them.
-/
namespace Sys2Proof.Machine

/-- FASTPATH of BI_BU_STATE. -/
def Core.fastPath (c : Core) : Bool := bitAt (c.rd pageBu 0x40) 17
/-- WAVE of BI_BU_STATE. -/
def Core.wave (c : Core) : Nat := c.fld pageBu 0x40 26 2
/-- JOINED or HELD of a quadrant. -/
def Core.joined (c : Core) (q : Nat) : Bool := bitAt (c.rd pageBu 0x40) (22 + q)
/-- HELD of a quadrant. -/
def Core.heldQ (c : Core) (q : Nat) : Bool := bitAt (c.rd pageBu 0x40) (18 + q)

/-! ## Steps 1 and 2 (R436, R457, R458) -/

/-- Power-good: the station clock starts at tick 0, the identity key is derived and checked, and step 3 begins. -/
def Pkg.powerGood (k : Pkg) : Pkg :=
  let k := (k.onCore (fun c => { c with tick := 0, cycle := 0 })).onPw (fun p => { p with seq := none })
  let start (x : Pkg) : Pkg := (x.onCore (·.setStep 3)).onBu (fun b => { b with slice := 0 })
  if k.sec.blocked then start k
  else if Config.identityOk k.bu.fuse.devCert then
    start (({ k with sec := { k.sec with key := true } }).onCore (·.setFld pageSec 0x40 27 1 1))
  else ((k.onCore (·.record pageSec 0x0D01 sevDev 15 (placeSbx 0) 0)).railsOff).failed

/-- PGOOD_ASSERT: every PGOOD of the group that is being sequenced (R436). -/
def Pkg.pgoodAssert (k : Pkg) (g : Nat) : Pkg :=
  if k.pw.seq ≠ some g then k
  else
    let k := k.onCore (fun c => (railGroup g).foldl (fun x i => if x.railEn i then x.railGood i else x) c)
    if g = 5 then k.powerGood else k.railStart (g + 1)

/-- PGOOD_TIMEOUT: a rail without PGOOD 20 ms after its PWR_EN (R437); a fabric rail lets the sequence go on. -/
def Pkg.pgoodTimeout (k : Pkg) (i mV : Nat) : Pkg :=
  if k.cl.core.railEn i ∧ k.cl.core.railOk i = false then k.railFail i mV else k

/-- PGOOD_DEASSERT in service (R437). -/
def Pkg.pgoodDeassert (k : Pkg) (i mV : Nat) : Pkg :=
  if k.cl.core.railEn i ∧ k.cl.core.railOk i then k.railFail i mV else k

/-! ## Step 3 (R382, R383) -/

/-- Quadrant that an analogue slice tests; 0xFF where it tests none. -/
def sliceQuad (n : Nat) : Nat :=
  if n = 0 ∨ n = 29 then 0xFF else if n < 5 then n - 1 else if n < 13 then (n - 5) / 2 else if n < 17 then n - 13
  else if n < 25 then (n - 17) / 2 else n - 25

/-- BI_ANALOG_FAIL of one object. -/
def Pkg.analogEvent (k : Pkg) (n sev place obj : Nat) : Pkg :=
  k.onCore (·.buEvent 0x0F03 sev place (detailBu 3 n 0 (sliceQuad n) obj 0))

/-- Mark a place test-bad (R383). -/
def Pkg.markBad (k : Pkg) (place : Nat) : Pkg :=
  k.onBu (fun b => { b with testBad := b.testBad ++ [BitVec.ofNat 32 place] })

/-- What a failed slice does (R383), by its failing objects: places of dies for A17–A24, sensors for A25–A28, lanes for A29. -/
def Pkg.sliceFail (k : Pkg) (n : Nat) (objs : List Nat) : Pkg :=
  if n < 17 then
    let k := if objs = [] then k.analogEvent n sevDev (placeSbx 0) 0
      else objs.foldl (fun x o => x.analogEvent n sevDev (placeSbx 0) o) k
    (k.railsOff).failed
  else if n < 25 then
    objs.foldl (fun x o => (x.analogEvent n sevInfo o o).markBad o) k
  else if n < 29 then
    objs.foldl (fun x s =>
      let g := s / 2 % 96
      let x := (x.analogEvent n sevInfo (placeDie g 0) s).onPw (fun p => { p with badSensor := kput p.badSensor false s true })
      if kget x.pw.badSensor false (2 * g) ∧ kget x.pw.badSensor false (2 * g + 1) then x.markBad (placeDie g 0) else x) k
  else
    objs.foldl (fun x o => (x.analogEvent n sevInfo (placeEdge 0 5 0) o).onFab (fun f =>
      { f with salBad := f.salBad ||| 2 ^ (o % 16) })) k

/-- ANALOG_SLICE_END: the budget of the slice in progress ends (R382). After the last slice, the Attach Link trains. -/
def Pkg.analogSlice (k : Pkg) (n : Nat) (passed : Bool) (objs : List Nat) : Pkg :=
  if k.cl.core.buStep ≠ 3 ∨ n ≠ k.bu.slice ∨ k.devState ≠ 0 then k
  else
    let k := k.onBu (fun b => { b with slice := n + 1 })
    let k := k.onCore (·.setFld pageBu 0x44 n 1 (if passed then 1 else 0))
    let k := if passed then k else k.sliceFail n objs
    if k.devState = 7 then k
    else if n = 29 ∨ k.cl.core.fastPath then (k.onCore (·.stepEnd 3)).startDetect salLink
    else k

/-! ## Fences at start-up (R386, R387) -/

/-- Clusters that a fenced place takes out of service: every one of its die, its own, or, for a region's own unit, the
region's. -/
def fencedClus (place : Nat) : List Nat :=
  if place / 2 ^ 30 = 3 then
    if place / 2 ^ 23 % 32 < 24 then (List.range 10).map (fun i => 10 * placeGDie place + i) else []
  else if place / 2 ^ 30 = 0 ∧ 11 ≤ placeUnitNo place then (List.range 5).map (fun i => 5 * placeRegion place + i)
  else [placeCluster place]

/-- Set BI_FENCE for the clusters of every fence that stands. -/
def Pkg.fenceBits (k : Pkg) : Pkg :=
  (k.fences.flatMap (fun e => fencedClus e.place)).foldl (fun x c => x.onCore (·.setFence c)) k

/-- Die of a place code. -/
def dieOf (place : Nat) : Nat := placeGDie place

/-- One more contradiction of a die (BI_DIE_CONTRA, BI_CONTRA_TOTAL). -/
def Core.addContra (c : Core) (g : Nat) : Core :=
  let off := 0xA0 + 4 * (g / 8)
  let c := c.setFld pageBu off (4 * (g % 8)) 4 (min 15 (c.fld pageBu off (4 * (g % 8)) 4 + 1))
  c.setFld pageBu 0x4C 0 16 (min 65535 (c.fld pageBu 0x4C 0 16 + 1))

/-- Reconcile one place: fuse map, test, and the record's field-found entry (R386). -/
def Pkg.reconcile (k : Pkg) (place : Nat) (fuse test : Bool) (field : Option W64) : Pkg :=
  let contra := fuse != test
  let k := if contra ∧ dieOf place < 96 then
      (k.onCore (·.buEvent 0x0F06 sevInfo place
        (detailBu 6 0xFF ((if fuse then 1 else 0) + (if test then 2 else 0)) (dieOf place / 24) 0 0))).onCore
        (·.addContra (dieOf place))
    else k
  let cause : Nat := match field with
    | some w => bitsAt w 16 16
    | none => if contra then 0x0F06 else 0
  let old := k.fenceOf place
  let e : FenceEnt :=
    { place := place, cause := cause, drill := false, fuse := fuse, test := test,
      field := if fuse then false else test || field.isSome, count := ((old.map (·.count)).getD 0) + 1,
      last := (old.map (·.last)).getD 0, stay := (old.map (·.stay)).getD false }
  k.fencePut e 0x0E42

/-- A die with more than four contradictions is fenced whole (R387). -/
def Pkg.contraFence (k : Pkg) (g : Nat) : Pkg :=
  if k.cl.core.fld pageBu (0xA0 + 4 * (g / 8)) (4 * (g % 8)) 4 ≤ 4 then k
  else
    let p := placeDie g 0
    let k := k.fencePut { place := p, cause := 0x0F07, drill := false, fuse := ((k.fenceOf p).map (·.fuse)).getD false,
                          test := true, field := ((k.fenceOf p).map (·.field)).getD false,
                          count := ((k.fenceOf p).map (·.count)).getD 0 + 1, last := 0, stay := false } 0x0E42
    k.onCore (·.buEvent 0x0F07 sevDegr p (detailBu 6 0xFF 0 (g / 24) (k.cl.core.fld pageBu (0xA0 + 4 * (g / 8)) (4 * (g % 8)) 4) 0))

/-- The fuse map's codes that name units or dies; every other records BI_FUSE_BAD (R384). -/
def Pkg.fuseMap (k : Pkg) : List Nat × Pkg :=
  (k.bu.fuse.bad.take 512).foldl (fun (a : List Nat × Pkg) w =>
    let p := w.toNat
    if placeOk p ∧ (p / 2 ^ 30 = 0 ∨ p / 2 ^ 30 = 3) then (a.1 ++ [if p / 2 ^ 30 = 0 then p / 2 ^ 15 * 2 ^ 15 else p], a.2)
    else (a.1, a.2.onCore (·.buEvent 0x0F04 sevInfo (placeSbx 0) (detailBu 6 0xFF 0 0xFF p 0)))) ([], k)

/-! ## Placing service (R388) -/

/-- Healthy clusters of a region, ascending. -/
def Core.healthy (c : Core) (rg : Nat) : List Nat := (List.range 5).filter (fun i => !c.fenced (5 * rg + i))

/-- Dies of a quadrant that may serve, ascending. -/
def Pkg.usableDies (k : Pkg) (q : Nat) : List Nat :=
  ((List.range 24).map (fun i => 24 * q + i)).filter (fun g => !k.fencedAt (placeDie g 0) && k.cl.core.usableDie g)

/-- The relief die: fewest healthy clusters, the highest number on a tie. -/
def Pkg.chooseRelief (k : Pkg) (l : List Nat) : Option Nat :=
  let n (g : Nat) : Nat := (k.cl.core.healthy (2 * g)).length + (k.cl.core.healthy (2 * g + 1)).length
  l.foldl (fun (b : Option Nat) g => match b with
    | none => some g
    | some h => if n g ≤ n h then some g else b) none

/-- A region's slot map: its lowest unfenced clusters for the slots, and the highest for relief; with four, the fenced one
stands as relief and serves nobody. -/
def Core.placeRegion (c : Core) (rg : Nat) : Core :=
  let h := c.healthy rg
  let order := h ++ (List.range 5).filter (fun i => !h.elem i)
  let w : W32 := BitVec.ofNat 32 (nth order 0 0 * 8 + nth order 0 1 * 2 ^ 6 + nth order 0 2 * 2 ^ 9 + nth order 0 3 * 2 ^ 12 +
    nth order 0 4 * 2 ^ 18)
  if h.length < 4 then c else (c.wr (pageTT rg) 0x40 w).wr (pageTT rg) 0x44 w

/-- Write logical die l of a quadrant into both banks of every DIE_MAP, not yet valid; 127 for none. -/
def Core.placeDieMap (c : Core) (l g : Nat) : Core :=
  iter 96 (fun p x => (x.setFld (pagePts p) (0x100 + l / 4 * 4) (8 * (l % 4)) 8 g).setFld (pagePts p) (0x180 + l / 4 * 4)
    (8 * (l % 4)) 8 g) c

/-- Place service in a quadrant (R388). -/
def Pkg.placeQuad (k : Pkg) (q : Nat) : Pkg :=
  let l := k.usableDies q
  let r := k.chooseRelief l
  let serve := (l.filter (fun g => decide (some g ≠ r))).take 23
  let k := l.foldl (fun x g => x.onCore (fun c => (c.placeRegion (2 * g)).placeRegion (2 * g + 1))) k
  let k := iter 24 (fun i x => x.onCore (·.placeDieMap (24 * q + i) (nth serve 127 i))) k
  let t := k.cl.core.tick.toNat
  let lost (place : Nat) (x : Pkg) : Pkg :=
    x.onCore (·.fwEvent 0x0E44 sevDegr 15 place (detailBi 0xFF 0xFF 0xFF 0xFF 0x0E44 0 0 t))
  let k := serve.foldl (fun x g => [2 * g, 2 * g + 1].foldl (fun y rg =>
    if (y.cl.core.healthy rg).length < 5 then lost (placeRg rg) y else y) x) k
  if serve.length < 23 then lost (placeEdge q 3 0) k else k

/-- Place service in every quadrant. -/
def Pkg.placeService (k : Pkg) : Pkg := iter 4 (fun q x => x.placeQuad q) k

/-! ## Step 5: the firmware load (R410–R412) -/

/-- Clear the window table and draw each entry's first GEN; zero where the generator is refused (R459, R470). -/
def Pkg.drawWindows (k : Pkg) : Pkg :=
  let ok := bitAt (k.cl.core.rd pageSec 0x40) 26
  let k := iter 256 (fun w x => x.onCore (·.zero (pageWin (w / 64)) (0x100 + 32 * (w % 64)) 8)) (k.onHbm (fun b => { b with win := [] }))
  if !ok then k
  else iter 256 (fun w x =>
    let (v, c) := x.cl.core.draw
    let g := BitVec.ofNat 32 (bitsAt v 0 32)
    (x.onCore (fun _ => c.wr (pageWin (w / 64)) (0x100 + 32 * (w % 64) + 4) g)).onHbm (fun b =>
      { b with win := kput b.win 0 (8 * w + 1) g })) k

/-- Every complex starts from bank 0, which holds its part of the image (R411). -/
def Pkg.startComplexes (k : Pkg) (img : List Byte) : Pkg :=
  let bp := imgBpPart img
  let k := k.onFw (fun f => { f with
    banks := [0, 1, 2, 3, 4, 5].foldl (fun m x => kput m [] (2 * x) (if x < 2 then img else bp)) f.banks,
    bank := [], halted := [], up := [0, 1, 2, 3, 4, 5].foldl (fun m x => kput m false x true) f.up })
  let k := k.onCore (fun c => { c with standby := false })
  (k.cwWr 0 0x48 (BitVec.ofNat 32 (imgVer img)))

/-- Start the synthetic load at its level (R390). -/
def Pkg.loadOn (k : Pkg) : Pkg := k.onBu (fun b => { b with load := if b.restarted then 80 else 90 })

/-- On the fast path: the kept fence map and remap tables are applied, and service is placed (R405). -/
def Pkg.applyWarm (k : Pkg) : Pkg :=
  match k.bu.warm with
  | none => k
  | some w =>
    let k := (k.onBi (fun b => { b with fence := w.fence })).onHbm (fun b => { b with remap := w.remap, spare := w.spare })
    let k := k.onBu (fun b => { b with given := some w.train, own := w.train })
    (((k.fenceBits).placeService).onCore (·.setStep 7)).loadOn

/-- FWL_VERIFY_DONE (R411, R412, R418, R461). -/
def Pkg.fwlVerify (k : Pkg) (image : List Byte) : Pkg :=
  let w := k.cwRd 0 0x8C
  if k.devState ≠ 0 ∨ (bitsAt w 28 3 ≠ 1 ∧ bitsAt w 28 3 ≠ 2) then k
  else
    let len := bitsAt (k.cwRd 0 0x88) 0 25
    let img := image.take len
    let r := if image.length < len then 2 else k.imgReason img
    if r ≠ 0 then
      (k.cwWr 0 0x8C (putBits (putBits w 28 3 4) 24 4 r)).onCore
        (·.fwEvent 0x0E07 sevInfo 15 (placeSbx 0) (detailFw 0 r 0xFF 0xFF (imgVer image) 0))
    else
      let k := k.cwWr 0 0x8C (putBits (putBits w 28 3 3) 24 4 0)
      let k := k.startComplexes img
      let k : Pkg := match k.fw.prevState with
        | some st => (k.onFw (fun f => { f with prevState := none })).setDevState st
        | none =>
          let k := ((k.setDevState 1).drawWindows).onCore (·.stepEnd 5)
          if k.cl.core.fastPath then k.applyWarm else k
      [0, 1, 2, 3, 4, 5].foldl (fun x i => x.complexDrain i) k

/-! ## Step 6 (R384–R388, R395, R396) -/

/-- The record that the driver names is read and accepted or rejected (R395, R396). -/
def Pkg.takeRecord (k : Pkg) : Pkg :=
  let a := k.cwRd8 32 0x58
  let n := bitsAt (k.cwRd 32 0x60) 0 19
  if a = 0 ∨ n = 0 then (k.onCore (·.wr pageBu 0x48 0)).onBu (fun b => { b with given := none })
  else
    let (r, t) := k.trecRead (k.hostMem a n) n
    if r = 0 then
      (k.onCore (·.wr pageBu 0x48 0xC0000000)).onBu (fun b => { b with given := some t })
    else
      ((k.onCore (·.wr pageBu 0x48 (BitVec.ofNat 32 (2 ^ 31 + r * 2 ^ 27)))).onCore
        (·.buEvent 0x0F0A sevInfo (placeSbx 0) (detailBu 6 0xFF r 0xFF 0 0))).onBu (fun b => { b with given := none })

/-- STARTUP_TEST_END (R384–R388): the training record, the fuse map, the test and the field-found fences are reconciled, and
service is placed. -/
def Pkg.startupEnd (k : Pkg) (bad : List Nat) (concourse : Bool) : Pkg :=
  if k.cl.core.buStep ≠ 6 then k
  else if concourse then
    (k.onCore (·.buEvent 0x0F05 sevDev (placeSbx 0) (detailBu 6 0xFF 0 0xFF 0 0))).failed
  else
    let k := k.takeRecord
    let (fused, k) := k.fuseMap
    let k := k.onCore (·.zero pageBu 0xA0 12)
    let k := k.onCore (·.wr pageBu 0x4C 0)
    let field : List W64 := ((k.bu.given.map (·.fences)).getD []).filter (fun w => bitAt w 14)
    let test := (k.bu.testBad.map (·.toNat) ++ bad).filter placeOk
    let all := (fused ++ test ++ field.map (fun w => bitsAt w 32 32)).eraseDups
    let k := all.foldl (fun x p => x.reconcile p (fused.elem p) (test.elem p) (field.find? (fun w => decide (bitsAt w 32 32 = p)))) k
    let k := iter 96 (fun g x => x.contraFence g) k
    let k := ((k.fenceBits).placeService).onCore (·.stepEnd 6)
    if k.bu.given.isSome then k.loadOn else k

/-! ## Step 7 (R389–R397) -/

/-- Bit q of QUAD_MATCH; on the fast path every quadrant was checked at the release of RESET_N. -/
def Pkg.matches_ (k : Pkg) (q : Nat) : Bool := k.cl.core.fastPath || bitAt (k.cl.core.rd pageBu 0x48) (23 + q)

/-- HB_MARGIN_MIN of a stack. -/
def Core.marginMin (c : Core) (h : Nat) : Nat := c.fld (pageHb h) 0x54 0 8

/-- BI_HB_TRAIN (R391). -/
def Pkg.hbTrain (k : Pkg) (h p out : Nat) : Pkg :=
  if out = 0 then k
  else k.onCore (·.buEvent 0x0F09 (if out = 1 then sevInfo else sevDegr) (placeEdge (h / 6) 0 h) (detailBu 7 p out (h / 6) 0 0))

/-- A pseudo-channel takes its outcome: the settings it serves at and their margins (R391). -/
def Pkg.setPc (k : Pkg) (h p : Nat) (r : PcRec) : Pkg :=
  let k := k.onBu (fun b => { b with own := { b.own with pcs := kput b.own.pcs none (pcKey h p) (some r) } })
  k.onCore (fun c => (c.setFld (pageHb h) 0x40 p 1 (if r.out = 1 then 1 else 0)).wr (pageHb h) (0x180 + 4 * p)
    (BitVec.ofNat 32 (r.wr % 256 * 256 + r.rd % 256)))

/-- One result of the loaded retrain (R391). -/
def Pkg.trainPc (k : Pkg) (t : PcTrain) : Pkg :=
  let h := t.stack.val
  let p := t.pc.val
  let m := k.cl.core.marginMin h
  let ok (a b : Byte) : Bool := decide (m ≤ min a.toNat b.toNat)
  let out := if ok t.normalRd t.normalWr then 0 else if ok t.fallbackRd t.fallbackWr then 1 else 2
  let r : PcRec := { set := (Config.openBytes (2048 + pcKey h p) k.cl.core.tick).take 48,
                     rd := (if out = 1 then t.fallbackRd else t.normalRd).toNat,
                     wr := (if out = 1 then t.fallbackWr else t.normalWr).toNat, out := out }
  (k.setPc h p r).hbTrain h p out

/-- Conditions of a quadrant in a list of four. -/
def setQuad {α : Type} (l : List α) (d : α) (q : Nat) (v : α) : List α := (List.range 4).map (fun i => if i = q then v else l.getD i d)

/-- A throttle reported with a phase's end: the soak starts again at 80 %, once (R390). -/
def Pkg.throttledPhase (k : Pkg) (throttled : Bool) : Bool := throttled && decide (k.bu.load = 90) && !k.bu.restarted

/-- The soak ends: the conditions of the record are compared, quadrant by quadrant (R396). -/
def Pkg.soakEnd (k : Pkg) (temps : List Int) (power : Nat) : Pkg :=
  let hit (q : Nat) : Bool := match k.bu.given with
    | none => false
    | some r =>
      let d := temps.getD q 0 - r.temps.getD q 0
      let w := r.power.getD q 0
      decide (q < r.temps.length ∧ -40 ≤ d ∧ d ≤ 40) && decide (95 * w ≤ 100 * power ∧ 100 * power ≤ 105 * w)
  let mask := lanesMask ((List.range 4).filter hit)
  let k := k.onBu (fun b => { b with own := (List.range 4).foldl (fun (o : TRec) q =>
    match k.bu.given with
    | some r =>
      if hit q then { o with temps := setQuad o.temps 0 q (r.temps.getD q 0), power := setQuad o.power 0 q (r.power.getD q 0),
                             caps := setQuad o.caps 0 q (r.caps.getD q 0) }
      else { o with temps := setQuad o.temps 0 q (temps.getD q 0) }
    | none => { o with temps := setQuad o.temps 0 q (temps.getD q 0) }) b.own })
  if k.bu.given.isNone then k
  else (k.onCore (·.setFld pageBu 0x48 23 4 mask)).onCore
    (·.buEvent 0x0F0B sevInfo (placeSbx 0) (detailBu 7 0xFF 0 0xFF 0 mask))

/-- Ports of matching quadrants propose the record's tags (R398); on the fast path the kept ones (R405). -/
def Pkg.giveTags (k : Pkg) : Pkg :=
  (List.range 18).foldl (fun x p =>
    let tag : W64 :=
      if x.cl.core.fastPath then (match x.bu.warm with
        | some w => kget w.tags 0 p
        | none => 0)
      else if x.matches_ (portQuad p) then (match x.bu.given with
        | some r => ((kget r.ports none p).map (·.tag)).getD 0
        | none => 0)
      else (x.link p).tag
    x.setLink p { x.link p with tag := tag }) k

/-- Step 7 ends, and every enabled port starts training (R392). -/
def Pkg.stepSevenEnd (k : Pkg) : Pkg :=
  let k := (k.onCore (·.stepEnd 7)).giveTags
  (List.range 18).foldl (fun x p => if (x.link p).step = .off then x.startDetect p else x) k

/-- The loaded retrain ends (R389, R391): every pseudo-channel of a quadrant trained in full, and those the quick check left. -/
def Pkg.loadedEnd (k : Pkg) (results : List PcTrain) (power : Nat) : Pkg :=
  let mine := results.filter (fun t => !k.matches_ (t.stack.val / 6) || k.bu.retrain.elem (pcKey t.stack.val t.pc.val))
  let full := (List.range 4).filter (fun q => !k.matches_ q)
  let k := mine.foldl (fun x t => x.trainPc t) k
  let k := k.onBu (fun b => { b with retrain := [], own := full.foldl (fun (o : TRec) q =>
    { o with power := setQuad o.power 0 q power, caps := setQuad o.caps 0 q k.pw.cap }) b.own })
  k.stepSevenEnd

/-- The quick check ends (R397): a pseudo-channel without an error keeps its saved outcome, any other is retrained. -/
def Pkg.quickEnd (k : Pkg) (results : List PcTrain) : Pkg :=
  let bad := (results.filter (fun t => t.checkError && k.matches_ (t.stack.val / 6))).map (fun t => pcKey t.stack.val t.pc.val)
  let saved : KMap (Option PcRec) := (k.bu.given.map (·.pcs)).getD []
  let k := (List.range 768).foldl (fun x i =>
    if x.matches_ (i / 192) = false ∨ bad.elem i then x
    else match kget saved none i with
      | some r => (x.setPc (i / 32) (i % 32) r).hbTrain (i / 32) (i % 32) r.out
      | none => x) k
  let k := (k.onCore (·.setFld pageBu 0x48 13 10 bad.length)).onBu (fun b => { b with retrain := bad })
  if bad = [] ∧ (List.range 4).all (fun q => k.matches_ q) then k.stepSevenEnd else k

/-- HBM_TRAINING_PHASE_END (R389–R391, R396, R397). -/
def Pkg.hbmPhase (k : Pkg) (ph : HbmPhase) (throttled : Bool) (results : List PcTrain) (temps : List Int) (power : Nat) : Pkg :=
  if k.cl.core.buStep ≠ 7 then k
  else match ph with
  | .idle => if k.bu.load = 0 then k.loadOn else k
  | .soak =>
    if k.bu.load = 0 then k else if k.throttledPhase throttled then k.loadThrottled else k.soakEnd temps power
  | .loaded =>
    if k.bu.load = 0 then k else if k.throttledPhase throttled then k.loadThrottled else k.loadedEnd results power
  | .quick => if k.bu.load = 0 then k else k.quickEnd results

/-! ## Steps 8 and 9 (R392, R399–R401) -/

/-- Take a page to a spare at once: the pages hold no data yet (R399). A spare-pool pseudo-channel has no remap table (R254). -/
def Pkg.rehomeNow (k : Pkg) (h p page : Nat) : Pkg :=
  if k.remap h p page / 2 ^ 15 = 1 ∨ pcReserved h p = true then k
  else match k.findSpare (h / 6) with
  | none => (k.startPage h p page false)
  | some (part, pg) =>
    let k := k.onHbm (fun b => { b with
      spare := kput b.spare false (2048 * part + pg) true,
      remap := kput b.remap 0 (2048 * pcKey h p + page) (2 ^ 15 + part * 2 ^ 11 + pg) })
    let k := k.hbEvent h 0x0904 sevInfo (detailHb (k.dpaOf h p (page * 2 ^ 21)) p part page pg 0xFF 0)
    k.spareCheck h

/-- Take a whole pseudo-channel to spares: HB_PC_SPARED once every page is (R267, R401). -/
def Pkg.rehomeAll (k : Pkg) (h p : Nat) : Pkg :=
  let k := iter 2048 (fun pg x => x.rehomeNow h p pg) k
  if (k.nextPage h p 0).isSome ∨ bitAt (k.cl.core.rd (pageHb h) 0x44) p then k
  else (k.onCore (·.setFld (pageHb h) 0x44 p 1 1)).hbEvent h 0x0906 sevDegr (detailHb 0 p 0xFF 0 0 0xFF 0)

/-- Start of a quadrant's wave: the record's retired pages, then the pseudo-channels that failed training (R399). -/
def Pkg.waveStart (k : Pkg) (q : Nat) : Pkg :=
  let pages : List Nat := ((k.bu.given.map (·.pages)).getD []).map (·.toNat)
  let k := pages.foldl (fun x w =>
    let h := w / 2 ^ 21 % 32
    if h / 6 = q then x.rehomeNow h (w / 2 ^ 16 % 32) (w % 2048) else x) k
  (List.range 192).foldl (fun x i =>
    match kget x.bu.own.pcs none (192 * q + i) with
    | some r => if r.out = 2 ∧ pcReserved ((192 * q + i) / 32) (i % 32) = false then x.rehomeAll ((192 * q + i) / 32) (i % 32) else x
    | none => x) k

/-- Settings and tags of the links for the device's own record. -/
def Pkg.noteLinks (k : Pkg) : Pkg :=
  let k0 := k
  k.onBu (fun b => { b with own := { b.own with
    ports := (List.range 18).foldl (fun (m : KMap (Option PortRec)) p =>
      if (k0.link p).step = .up then kput m none p (some (k0.linkRec p)) else m) b.own.ports,
    sal := if (k0.link salLink).step = .up then some (k0.linkRec salLink) else b.own.sal } })

/-! ### The points tables of a join (R224, R403) -/

/-- A quadrant's placed dies become valid in the inactive bank of a router. -/
def Core.quadEntries (c : Core) (p q : Nat) : Core :=
  let b := c.ptsBank p
  iter 24 (fun i y =>
    let l := 24 * q + i
    let g := y.fld (pagePts p) (0x100 + 0x80 * b + l / 4 * 4) (8 * (l % 4)) 7
    if g < 96 ∧ g / 24 = q then y.setFld (pagePts p) (0x100 + 0x80 * (1 - b) + l / 4 * 4) (8 * (l % 4)) 8 (128 + g) else y) c

/-- The Signal Box writes the tables of a join into the inactive banks, over what an armed line clear already waits to put in
force, and arms the line clear (R224, R403). -/
def Core.joinPrep (c : Core) (qs : List Nat) : Core :=
  let fresh : Bool := decide (c.rd8 pageRoot 0x340 = 0)
  let c := iter 96 (fun p x => qs.foldl (fun y q => y.quadEntries p q) (if fresh then x.bankCopy p else x)) c
  if fresh then c.lcArm (c.tick.toNat + 1) else c

/-- Whether every placed die of a quadrant is valid in the tables in force. -/
def Core.quadValid (c : Core) (q : Nat) : Bool :=
  (List.range 24).all (fun i =>
    let l := 24 * q + i
    let e := c.fld (pagePts 0) (0x100 + 0x80 * c.ptsBank 0 + l / 4 * 4) (8 * (l % 4)) 8
    !decide (e % 128 < 96 ∧ e % 128 / 24 = q) || decide (128 ≤ e))

/-- FABRIC_TRAINING_END: the load stops, and wave 1 starts; on the fast path every quadrant may join (R392, R405). -/
def Pkg.fabricEnd (k : Pkg) : Pkg :=
  if k.cl.core.buStep ≠ 8 then k
  else
    let saved := ((List.range 18).filter (fun p => (k.link p).saved && decide ((k.link p).step = .up))).length
    let k := (k.onCore (fun c => (c.stepEnd 8).setFld pageBu 0x48 8 5 saved)).onBu (fun b => { b with load := 0 })
    let k := k.noteLinks
    if k.devState = 6 then k.onCore (·.setStep 10)
    else if k.cl.core.fastPath then
      (k.onBu (fun b => { b with passed := (List.range 4).foldl (fun m q => kput m false q true) b.passed })).onCore
        (·.joinPrep [0, 1, 2, 3])
    else
      match (List.range 4).find? (fun q => !kget k.bu.passed false q && !k.cl.core.heldQ q) with
      | some q => (k.onCore (·.setFld pageBu 0x40 26 2 q)).waveStart q
      | none => k

/-- The wave of a quadrant has ended: BI_WAVE, its tick, and the next wave starts (R381). -/
def Pkg.waveNext (k : Pkg) (q : Nat) : Pkg :=
  let k := k.onCore (fun c => (c.wr8 pageBu (0x50 + 8 * (6 + q)) c.tick.toNat).buEvent 0x0F02 sevInfo (placeSbx 0)
    (detailBu 9 (q + 1) 0 q 0 0))
  match (List.range 4).find? (fun i => decide (q < i) && !kget k.bu.passed false i && !k.cl.core.heldQ i) with
  | some i => (k.onCore (·.setFld pageBu 0x40 26 2 i)).waveStart i
  | none =>
    if (List.range 4).any (fun i => kget k.bu.passed false i && !k.cl.core.joined i) then k else k.onCore (·.setStep 10)

/-- A quadrant is held out of service (R401). -/
def Pkg.quadHeld (k : Pkg) (q : Nat) : Pkg :=
  (k.onCore (fun c => (c.setFld pageBu 0x40 (18 + q) 1 1).buEvent 0x0F0D sevDegr (placeEdge q 3 0) (detailBu 9 (q + 1) 0 q 0 0))).waveNext q

/-- Whether quadrant q's wave is in progress. -/
def Pkg.inWave (k : Pkg) (q : Nat) : Bool :=
  decide (k.cl.core.buStep = 9 ∧ k.cl.core.wave = q) && !kget k.bu.passed false q && !k.cl.core.heldQ q

/-- HBM_WAVE_END (R400, R401): bad pages and pseudo-channels are re-homed; the quadrant passes, or is held. -/
def Pkg.hbmWave (k : Pkg) (q : Nat) (pages : List WavePage) (margins : List PcTrain) : Pkg :=
  if k.inWave q = false then k
  else
    let bad := pages.filter (fun w => decide (w.stack.val / 6 = q) &&
      (w.uncorrectable || decide (k.cl.core.fld (pageHb w.stack.val) 0x50 0 8 < w.corrected.toNat)))
    let spare (w : WavePage) : Bool := decide (w.pc.val = 31 ∧ 2 ≤ w.stack.val % 6 ∧ w.stack.val % 6 < 4)
    let k := (bad.filter spare).foldl (fun x w => x.onHbm (fun b => { b with
      spare := kput b.spare false (2048 * (2 * q + (w.stack.val % 6 - 2)) + w.page.val) true })) k
    let bad := bad.filter (fun w => !spare w)
    let many (h p : Nat) : Bool := decide (64 < (bad.filter (fun w => decide (w.stack.val = h ∧ w.pc.val = p))).length)
    let low (t : PcTrain) : Bool :=
      let fb := bitAt (k.cl.core.rd (pageHb t.stack.val) 0x40) t.pc.val
      decide ((min (if fb then t.fallbackRd else t.normalRd).toNat (if fb then t.fallbackWr else t.normalWr).toNat) <
        k.cl.core.marginMin t.stack.val)
    let pcs := (((bad.filter (fun w => many w.stack.val w.pc.val)).map (fun w => (w.stack.val, w.pc.val))) ++
      ((margins.filter (fun t => decide (t.stack.val / 6 = q) && low t)).map (fun t => (t.stack.val, t.pc.val)))).eraseDups
    let k := bad.foldl (fun x w => x.rehomeNow w.stack.val w.pc.val w.page.val) k
    let k := pcs.foldl (fun x e => x.rehomeAll e.1 e.2) k
    let ok := bad.all (fun w => decide (k.remap w.stack.val w.pc.val w.page.val / 2 ^ 15 = 1)) &&
      pcs.all (fun e => bitAt (k.cl.core.rd (pageHb e.1) 0x44) e.2) &&
      (List.range 192).all (fun i => match kget k.bu.own.pcs none (192 * q + i) with
        | some r => decide (r.out ≠ 2) || bitAt (k.cl.core.rd (pageHb ((192 * q + i) / 32)) 0x44) (i % 32) ||
            pcReserved ((192 * q + i) / 32) (i % 32)
        | none => true)
    if !ok then k.quadHeld q
    else
      let k := (k.onBu (fun b => { b with passed := kput b.passed false q true })).onCore (·.joinPrep [q])
      let k := k.waveNext q
      (List.range 6).foldl (fun x i =>
        let h := 6 * q + i
        ((List.range 32).foldl (fun y p => if bitAt (y.cl.core.rd (pageHb h) 0x40) p && !bitAt (y.cl.core.rd (pageHb h) 0x44) p
          then y.wantRehome h p 2048 else y) x).rehomeNext h) k

/-- WAVE_TIMEOUT (R400, R401). -/
def Pkg.waveTimeout (k : Pkg) (q : Nat) : Pkg := if k.inWave q then k.quadHeld q else k

/-! ## Joining (R402, R403, R462) -/


/-- Burn minimum-SVN fuses up to the running image's SVN where it commits (R462). -/
def Pkg.svnBurn (k : Pkg) : Pkg :=
  let n := imgSvn k.running
  if imgCommit k.running ∧ k.bu.fuse.minSvn < n ∧ n ≤ 64 then
    (k.onBu (fun b => { b with fuse := { b.fuse with minSvn := n } })).onCore (·.record pageSec 0x0D03 sevInfo 15 (placeSbx 0) n)
  else k

/-- What VAUX-domain SRAM keeps now (R405). -/
def Pkg.warmNow (k : Pkg) : Warm :=
  { fence := k.bi.fence, remap := k.hbm.remap, spare := k.hbm.spare, train := k.bu.own,
    tags := (List.range 18).foldl (fun m p => kput m 0 p (k.link p).tag) [], salTag := (k.link salLink).tag }

/-- The device enters FULL: the fused clock from the next Guard offset 256, the SVN fuses and the warm marker (R403, R405,
R462). -/
def Pkg.enterFull (k : Pkg) : Pkg :=
  let k := (k.setDevState 3).onCore (fun c => (c.setFld pageBu 0x40 16 1 0).pendClock c.fusedMhz)
  let k := k.svnBurn
  k.onBu (fun b => { b with warm := some k.warmNow })

/-- QUADRANT_JOIN in the Guard after the wave has passed: once the swap has made the quadrant's dies valid it joins; while a swap
is still to come, it is armed where it is not (R403). -/
def Pkg.quadJoin (k : Pkg) (q : Nat) : Pkg :=
  if k.sbUp = false ∨ kget k.bu.passed false q = false ∨ k.cl.core.joined q then k
  else if k.cl.core.quadValid q = false then k.onCore (·.joinPrep [q])
  else
    let k := k.cwWr 0 0x44 (putBits (k.cwRd 0 0x44) (24 + q) 1 1)
    let k := k.onCore (fun c => (c.setFld pageBu 0x40 (22 + q) 1 1).buEvent 0x0F0C sevInfo (placeEdge q 3 0) (detailBu 9 (q + 1) 0 q 0 0))
    let first := decide (k.devState = 1)
    let k := if first then
        ((k.setDevState 2).onCore (fun c => (c.setFld pageBu 0x40 16 1 1).pendClock 950)).onPw (fun p => { p with pinsOn := true })
      else k
    if (List.range 4).all (fun i => k.cl.core.joined i) then
      let k := k.onCore (·.setStep 10)
      if k.devState = 4 ∨ k.devState = 5 then k.onPw (fun p => { p with backTo := 3 }) else k.enterFull
    else if k.cl.core.buStep = 9 ∧ (List.range 4).all (fun i => k.cl.core.joined i || k.cl.core.heldQ i) then k.onCore (·.setStep 10)
    else k

/-! ## Warm reset and the supplies' end (R405, R408, R439) -/

/-- RESET_N_ASSERT: everything outside the VAUX domain goes into reset; the Signal Box's registers, the rails, the security
taint and the kept SRAM stay (R405, R407, R439, R465, R484). -/
def Pkg.resetAssert (k : Pkg) : Pkg :=
  if k.pw.resetN ∨ k.pw.vaux = false then k
  else
    let n := Pkg.cold k.cl.core.grade k.bu.fuse
    let keep (key : Nat) : Bool :=
      let p := key / 1024
      decide (p = 1 ∨ p = 2 ∨ (p = pagePw ∧ 0x80 ≤ key % 1024 * 4 ∧ key % 1024 * 4 < 0x110) ∨
        (p = pageSec ∧ (key % 1024 * 4 = 0x40 ∨ key % 1024 * 4 = 0x4C)))
    let warm : Option Warm := if k.bu.warm.isSome then some k.warmNow else none
    let regs := k.cl.core.regs.filter (fun e => keep e.1)
    let n := n.onCore (fun c => { c with regs := regs, freeCtr := k.cl.core.freeCtr, tick := k.cl.core.tick })
    let n := n.onPw (fun p => { p with vaux := true, float := false, resetN := true, seq := k.pw.seq, faultN := k.pw.faultN,
                                       thermtripN := k.pw.thermtripN })
    { n with bu := { n.bu with warm := warm, devEvent := k.bu.devEvent },
             sec := { k.sec with nonce := none, version := [], answers := [], coreHalt := [] },
             att := { n.att with hostWr := k.att.hostWr },
             ckpts := k.ckpts.filter (fun e => decide (dpaHost ≤ e.1)) }

/-- RESET_N_HOLD: low for 100 ms, every rail goes off (R439). -/
def Pkg.resetHold (k : Pkg) : Pkg :=
  if k.pw.resetN then (k.railsOff).onPw (fun p => { p with held := true }) else k

/-- Why the fast path is refused, 0 where it is taken: 1 the marker, 2 a DEVICE event, 3 a temperature (R405). -/
def Pkg.fastRefused (k : Pkg) (temps : List Int) : Nat :=
  match k.bu.warm with
  | none => 1
  | some w =>
    if k.bu.devEvent then 2
    else if (List.range 4).all (fun q =>
        let d := temps.getD q 0 - w.train.temps.getD q 0
        decide (-40 ≤ d ∧ d ≤ 40)) then 0 else 3

/-- RESET_N is released (R405, R439): rails that went off are sequenced again; else the fast path, or steps 3–9. -/
def Pkg.resetRelease (k : Pkg) (temps : List Int) : Pkg :=
  if k.pw.resetN = false then k
  else
    let off := k.pw.held || !(List.range 14).all (fun i => k.cl.core.railEn i)
    let k := k.onPw (fun p => { p with resetN := false, held := false })
    let k := k.onCore (fun c => { c with tick := 0, cycle := 0 })
    if k.pw.thermtripN then k.failed
    else if off then (k.onBu (fun b => { b with devEvent := false })).railStart 0
    else
      let r := k.fastRefused temps
      let k := k.onBu (fun b => { b with devEvent := false })
      let k := k.onCore (·.setStep 3)
      if r = 0 then
        let k := k.onCore (·.setFld pageBu 0x40 17 1 1)
        match k.bu.warm with
        | some w => k.setLink salLink { k.link salLink with tag := w.salTag }
        | none => k
      else k.onCore (·.buEvent 0x0F0E sevInfo (placeSbx 0) (detailBu 3 0xFF r 0xFF 0 0))

/-- VAUX_FALL: everything that VAUX kept clears, and the outputs float (R439, R441, R465). -/
def Pkg.vauxFall (k : Pkg) : Pkg :=
  let n := Pkg.cold k.cl.core.grade k.bu.fuse
  let n := n.onCore (fun c => { c with freeCtr := k.cl.core.freeCtr })
  { n with att := { n.att with hostWr := k.att.hostWr }, ckpts := k.ckpts.filter (fun e => decide (dpaHost ≤ e.1)) }

/-- BRINGUP_STEP_LIMIT: the step in progress ends with its failure outcome (R381). -/
def Pkg.stepLimitBu (k : Pkg) (step : Nat) : Pkg :=
  if k.cl.core.buStep ≠ step then k
  else match step with
  | 4 => if (k.link salLink).step = .off ∨ (k.link salLink).step = .up then k else k.linkIdle salLink
  | 6 => (k.onCore (·.buEvent 0x0F05 sevDev (placeSbx 0) (detailBu 6 0xFF 1 0xFF 0 0))).failed
  | 7 =>
    let k := (List.range 768).foldl (fun x i =>
      if (kget x.bu.own.pcs none i).isSome ∧ x.bu.retrain.elem i = false then x
      else (x.setPc (i / 32) (i % 32) ⟨[], 0, 0, 2⟩).hbTrain (i / 32) (i % 32) 2) k
    (k.onBu (fun b => { b with retrain := [] })).stepSevenEnd
  | 8 =>
    ((List.range 18).foldl (fun x p => if (x.link p).step = .off ∨ (x.link p).step = .up then x else x.linkIdle p) k).fabricEnd
  | 9 => k.waveTimeout k.cl.core.wave
  | _ => k

/-! ## The commands of this part -/

/-- PGOOD_ASSERT (R436, R457, R458). -/
def execPgoodAssert (g : Fin 6) (s : State) : Out := .next (s.onPkg (·.pgoodAssert g.val))
/-- PGOOD_TIMEOUT (R437). -/
def execPgoodTimeout (i : Fin 18) (mV : BitVec 16) (s : State) : Out := .next (s.onPkg (fun k =>
  let k := k.pgoodTimeout i.val mV.toNat
  if k.pw.seq = some 5 ∧ (railGroup 5).all (fun j => k.cl.core.railOk j || !k.cl.core.railEn j) then k.powerGood else k))
/-- PGOOD_DEASSERT (R437). -/
def execPgoodDeassert (i : Fin 18) (mV : BitVec 16) (s : State) : Out := .next (s.onPkg (·.pgoodDeassert i.val mV.toNat))
/-- ANALOG_SLICE_END (R382, R383). -/
def execAnalogSliceEnd (n : Fin 30) (passed : Bool) (objs : List W32) (s : State) : Out :=
  .next (s.onPkg (·.analogSlice n.val passed (objs.map (·.toNat))))
/-- FWL_GO (R410, R411). -/
def execFwlGo (s : State) : Out := .next (s.onPkg (·.fwlGo))
/-- FWL_VERIFY_DONE (R411, R461). -/
def execFwlVerifyDone (image : List Byte) (s : State) : Out := .next (s.onPkg (·.fwlVerify image))
/-- STARTUP_TEST_END (R384–R388). -/
def execStartupTestEnd (bad : List W32) (concourse : Bool) (s : State) : Out :=
  .next (s.onPkg (·.startupEnd (bad.map (·.toNat)) concourse))
/-- HBM_TRAINING_PHASE_END (R389–R397). -/
def execHbmTrainingPhaseEnd (ph : HbmPhase) (thr : Bool) (r : List PcTrain) (temps : List Int) (power : W32) (s : State) : Out :=
  .next (s.onPkg (·.hbmPhase ph thr r temps power.toNat))
/-- FABRIC_TRAINING_END (R392). -/
def execFabricTrainingEnd (s : State) : Out := .next (s.onPkg (·.fabricEnd))
/-- HBM_WAVE_END (R400, R401). -/
def execHbmWaveEnd (q : Quad) (pages : List WavePage) (margins : List PcTrain) (s : State) : Out :=
  .next (s.onPkg (·.hbmWave q.val pages margins))
/-- WAVE_TIMEOUT (R400). -/
def execWaveTimeout (q : Quad) (s : State) : Out := .next (s.onPkg (·.waveTimeout q.val))
/-- QUADRANT_JOIN (R403). -/
def execQuadrantJoin (q : Quad) (s : State) : Out := .next (s.onPkg (·.quadJoin q.val))
/-- RESET_N (R405). -/
def execResetN (temps : List Int) (s : State) : Out := .next (s.onPkg (·.resetRelease temps))
/-- RESET_N_HOLD (R439). -/
def execResetNHold (s : State) : Out := .next (s.onPkg (·.resetHold))
/-- RESET_N_ASSERT (R405, R407). -/
def execResetNAssert (s : State) : Out := .next (s.onPkg (·.resetAssert))
/-- VAUX_FALL (R439). -/
def execVauxFall (s : State) : Out := .next (s.onPkg (·.vauxFall))
/-- BRINGUP_STEP_LIMIT (R381). -/
def execBringupStepLimit (n : Fin 10) (s : State) : Out := .next (s.onPkg (·.stepLimitBu n.val))

end Sys2Proof.Machine
end

