-- ==== Sys2Proof/Machine/Resets.lean ====
section
/-!
DEFINITION. Resets (R427–R429, R404): the compute-domain, die and full-recovery resets, their phases, escalation and timeout.
-/
namespace Sys2Proof.Machine

/-! ## What a reset clears (R427, R484) -/

/-- Keep the register words that a reset leaves: those outside its pages, and, but for a full recovery, ERR_MASK. -/
def Core.resetPages (c : Core) (mine : PKind → Bool) (rws : Bool) : Core :=
  { c with regs := c.regs.filter (fun e =>
      let mask := decide (e.1 % 1024 = 8 ∨ e.1 % 1024 = 9)
      match pageKind (e.1 / 1024) with
      | some kd => (!mine kd && !(rws && mask)) || (!rws && mask)
      | none => true) }

/-- Pages of the compute domain. -/
def computeDomain (kd : PKind) : Bool :=
  match kd with
  | .tbRoot | .fbColl _ => true
  | .sig _ => false
  | kd => kd.die.isSome

/-- Pages that a full recovery adds: the HBM controllers and the fabric ports. -/
def fullDomain (kd : PKind) : Bool :=
  match kd with
  | .hb _ | .fbPort _ => true
  | kd => computeDomain kd

/-- Pages that a die reset takes: those of the die's regions. -/
def dieDomain (g : Nat) (kd : PKind) : Bool := decide (kd.rg = some (2 * g) ∨ kd.rg = some (2 * g + 1))

/-- Bytes of the memory windows that a die reset leaves. -/
def winKeep (g a : Nat) : Bool :=
  match winKind (a / 4096) with
  | some (.entries rg) => decide (rg / 2 ≠ g)
  | some (.imem clu) => decide (clu / 10 ≠ g)
  | some (.dmem clu) => decide (clu / 10 ≠ g)
  | none => true

/-- The clusters and the timetable units of a die with nothing in them: every store byte is zero, no poison stands, and no
unit works. -/
def Clus.dieCold (m : Clus) (g : Nat) : Clus :=
  let t := m.tt
  let clu {α : Type} (x : KMap α) (n : Nat) : KMap α := kclear x (10 * g * n) (10 * n)
  let rg {α : Type} (x : KMap α) (n : Nat) : KMap α := kclear x (2 * g * n) (2 * n)
  let mc := m.mc
  let vc := m.vc
  let sc := m.sc
  let sa := m.sa
  let st := m.st
  let msg := m.msg
  let tab := m.tab
  { m with
    tt := { t with
      runs := rg t.runs 4, pilots := rg t.pilots 1, fails := clu t.fails 1, failed := rg t.failed 4, rr := rg t.rr 1,
      startPend := rg t.startPend 64, suspPend := rg t.suspPend 64, abortPend := rg t.abortPend 64,
      lockstep := rg t.lockstep 1, lockFault := rg t.lockFault 1, limit := rg t.limit 1 }
    mc := { mc with
      queue := clu mc.queue 2, bufs := clu mc.bufs 4, load := clu mc.load 2, rows := clu mc.rows 2, checks := clu mc.checks 2,
      recs := clu mc.recs 2, waiting := clu mc.waiting 2, shadow := clu mc.shadow 2, sgClear := clu mc.sgClear 2, srn := clu mc.srn 2, tol := clu mc.tol 2 }
    vc := { vc with
      queue := clu vc.queue 2, vx := clu vc.vx 64, vxp := clu vc.vxp 64, vp := clu vc.vp 16, vpp := clu vc.vpp 16, halted := clu vc.halted 2,
      waiting := clu vc.waiting 2 }
    sc := { sc with core := clu sc.core 1, x := clu sc.x 64, dpoi := clu sc.dpoi 8192, sync := clu sc.sync 16 }
    sa := { sa with arr := clu sa.arr 1, cfg := clu sa.cfg 16, wdog := clu sa.wdog 1 }
    st := { st with
      mem := clu st.mem (3 * 2 ^ 24), poison := clu st.poison (3 * 2 ^ 19), errs := clu st.errs (3 * 2 ^ 19),
      written := clu st.written (3 * 2 ^ 18), scrub := clu st.scrub 3, rcur := clu st.rcur 48, wear := clu st.wear 96,
      dirty := clu st.dirty (3 * 65536), flushed := clu st.flushed 48, lag := clu st.lag 48,
      homeTick := clu st.homeTick 48, homeSince := clu st.homeSince 48, dig := clu st.dig 1,
      pend := st.pend.filter (fun e => decide (e.1 / 10 ≠ g)) }
    msg := { msg with
      out := clu msg.out 1, held := clu msg.held 1, heldAt := clu msg.heldAt 1, last := clu msg.last 1,
      stallRec := clu msg.stallRec 1 }
    tab := { tab with reports := rg tab.reports 1, log := rg tab.log 8, plog := rg tab.plog 2 } }

/-- Seeds of the jobs that exist, written into every M-core again (R70, R339). -/
def Pkg.seedsAgain (k : Pkg) : Pkg :=
  k.jobs.foldl (fun x e => match e.2 with
    | some y => x.onCore (fun c => iter 1920 (fun i z => z.wr8 (pageMc (i / 2) (i % 2)) (0x700 + 8 * e.1) y.seed.toNat) c)
    | none => x) k

/-- Writes on their way to HBM complete; every other packet is discarded (R428). -/
def Pkg.flushHbm (k : Pkg) : Pkg :=
  (k.net.pkts.filter (fun pk => decide (96 ≤ pk.dstDie.toNat ∧ pk.dstEp.toNat < 6 ∧ pk.type = 2))).foldl (fun x pk => x.writeAt pk) k

/-- The compute domain returns to its reset values; HBM, links, jobs' allocations and the fence map stay (R427, R428). -/
def Pkg.computeCold (k : Pkg) (full : Bool) : Pkg :=
  let k := k.flushHbm
  let c := (k.cl.core.resetPages (if full then fullDomain else computeDomain) full)
  let k := { k with cl := { Clus.cold c.grade with core := { c with win := [] } }, net := NetS.cold }
  let k := k.onFab (fun f => { f with
    runs := [], coll := [], lastGen := [], digFail := [], out := [], inn := [], oldWin := [], heldTx := [], stops := [] })
  let k := k.onBi (fun b => { BiS.cold with fence := b.fence, drills := b.drills, fired := b.fired, lastDrill := b.lastDrill,
                                            degraded := b.degraded })
  let k := { k with jobs := k.jobs.map (fun (e : Nat × Option JobS) => (e.1, e.2.map (fun (x : JobS) =>
    { x with grps := [], placed := false, started := false, turn := false, turns := false, forced := false, susp := false,
             due := none, spill := [], restored := none }))) }
  let k := k.onFw (fun f => { f with guards := [] })
  k.seedsAgain

/-! ## The phases (R428) -/

/-- Whether the abort may begin: the dump has ended, and Departure offset 95 of T_a − 1 has come. -/
def Pkg.abortDue (k : Pkg) (r : ResetS) : Bool :=
  let c := k.cl.core
  k.fw.dump.isNone && decide (r.ta = 0 ∨ r.ta ≤ c.tick.toNat ∨ (r.ta = c.tick.toNat + 1 ∧ 95 ≤ c.cycle))

/-- Every complex restarts from its image memory (R416, R427). -/
def Pkg.restartAll (k : Pkg) : Pkg :=
  let k := k.onFw (fun f => { f with
    halted := [], hbStop := [],
    up := [0, 1, 2, 3, 4, 5].foldl (fun m x => kput m false x (decide (k.image x (k.bankOf x) ≠ []))) f.up })
  [0, 1, 2, 3, 4, 5].foldl (fun x i => x.complexDrain i) k

/-- HBM controllers and stacks at a full recovery: settings and tables are applied again from the kept record, every block is
written with zero, and what is mapped stays mapped. -/
def Pkg.hbmZero (k : Pkg) : Pkg :=
  let k := k.onHbm (fun b => { HbmS.cold with remap := b.remap, spare := b.spare, seg := b.seg, win := b.win,
                                              spareLow := b.spareLow, spareOut := b.spareOut })
  let k := { k with ckpts := k.ckpts.filter (fun e => decide (dpaHost ≤ e.1)) }
  let k := k.onFw (fun f => { f with dumps := [] })
  iter 24 (fun h x => iter 32 (fun p y =>
    if (y.nextPage h p 0).isNone then y.onCore (·.setFld (pageHb h) 0x44 p 1 1) else y) x) k

/-- Mark the placed dies of quadrants in service valid in both banks (R402, R428). -/
def Core.validDies (c : Core) (qs : List Nat) : Core :=
  iter 96 (fun p x => qs.foldl (fun y q => iter 24 (fun i z =>
    let l := 24 * q + i
    let off := 0x100 + l / 4 * 4
    if z.fld (pagePts p) off (8 * (l % 4)) 7 < 96 then
      (z.setFld (pagePts p) off (8 * (l % 4) + 7) 1 1).setFld (pagePts p) (0x180 + l / 4 * 4) (8 * (l % 4) + 7) 1 1
    else z) y) x) c

/-- The reset ends: the device returns to its state, or, before every quadrant has joined, to step 6 (R404, R428). -/
def Pkg.resetEnd (k : Pkg) (r : ResetS) : Pkg :=
  let all := (List.range 4).all (fun q => k.cl.core.joined q)
  let k := k.onFw (fun f => { f with reset := none })
  let k := iter 18 (fun p x => if (x.link p).kept = [0, 0, 0, 0] then x else x.setLink p (x.link p).restore) k
  let k := if all ∨ r.backTo = 3 then
      let k := (k.onCore (fun c => (c.validDies [0, 1, 2, 3]).setLimits (c.cpt - 840))).setDevState r.backTo
      let k := k.onCore (·.setStep 10)
      if r.domain = 2 then k.onCore (fun c => c.pendClock c.fusedMhz) else k
    else
      let k := (k.onCore (fun c => ((c.setFld pageBu 0x40 22 4 0).setLimits (c.cpt - 840)).setStep 6)).setDevState 1
      k.cwWr 0 0x44 (putBits (k.cwRd 0 0x44) 24 4 0)
  match r.cmd with
  | some c => k.cmdEnd c.ring c.opc c.job c.tag stOk 0
  | none => k

/-- RECOVERY_PHASE (R428): the next part of the reset's work. A die reset has one part, after its dump. -/
def Pkg.recoveryPhase (k : Pkg) : Pkg :=
  match k.fw.reset with
  | none => k
  | some r =>
    let next (x : Pkg) (n : Nat) : Pkg := x.onFw (fun f => { f with reset := some { r with phase := n } })
    if r.domain = 1 then
      if k.fw.dump.isSome then k
      else
        let g := r.die
        let k := k.onClus (fun m => (m.onCore (fun c =>
          { c.resetPages (dieDomain g) false with win := c.win.filter (fun e => winKeep g e.1) })).dieCold g)
        let k := ((k.onFw (fun f => { f with reset := none })).fenceBits).seedsAgain
        let k := k.onCore (fun c => ((c.placeRegion (2 * g)).placeRegion (2 * g + 1)))
        let k := k.dieTest g
        match r.cmd with
        | some c => k.cmdEnd c.ring c.opc c.job c.tag stOk 0
        | none => k
    else match r.phase with
    | 0 => if k.abortDue r then next (k.endAll r.cmd) 1 else k
    | 1 => next (k.onClus (fun m => iter 960 (fun clu x => x.stopUnits clu) m)) 2
    | 2 => next k 3
    | 3 => next k 4
    | 4 => next (k.computeCold (decide (r.domain = 2))) 5
    | 5 =>
      let k := ((k.fenceBits).placeService)
      if r.domain = 0 then k.resetEnd r
      else
        let k := k.restartAll
        let k := ((k.onCore (·.setStep 7)).onBu (fun b => { b with given := some b.own, retrain := [], restarted := false })).loadOn
        let k := k.onCore (fun c => c.wr pageBu 0x48 (c.rd pageBu 0x48 &&& 0xE0000000))
        let k := k.onPw (fun p => { p with wake := none })
        let k := k.onCore (fun c => (railGroup 5).foldl (fun x i => if x.railEn i then x else (x.railUp i).railGood i) c)
        next ((List.range 18).foldl (fun x p => (x.losePort p 0).setLink p { idleLink with tag := (x.link p).tag }) k) 6
    | _ =>
      if k.cl.core.buStep < 9 then k
      else ((k.hbmZero).drawWindows).resetEnd r

/-- RESET_ESCALATE: a compute-domain reset passes 1 s (R428). -/
def Pkg.resetEscalate (k : Pkg) : Pkg :=
  match k.fw.reset with
  | some r => if r.domain = 0 then k.resetAsk 2 0x0E0C k.cl.core.sbxPlace 1 else k
  | none => k

/-- RECOVERY_TIMEOUT: a full recovery passes 12 s (R428). -/
def Pkg.recoveryTimeout (k : Pkg) : Pkg :=
  match k.fw.reset with
  | some r =>
    if r.domain = 2 then
      ((k.onFw (fun f => { f with reset := none })).onCore (fun c =>
        c.fwEvent 0x0E0D sevDev 15 c.sbxPlace (detailFw k.sb 0 2 0xFF 0 (c.tick.toNat - r.start)))).failed
    else k
  | none => k

/-! ## The reset commands (R341, R427, R449) -/

/-- RESET of a domain. In Laid-up, the wake runs first. -/
def Pkg.resetCmd (k : Pkg) (dom : Nat) (tag : W32) : Pkg :=
  k.devCmd 0x2B tag [1, 2, 3, 4, 5] k.fw.reset.isNone (fun k =>
    if k.devState = 5 then
      let k := (k.cmdRun 15 0x2B 15 tag).onPw (fun p => { p with wakeReset := some dom, wakeCmd :=
        match p.wakeCmd with
        | some c => some c
        | none => some ⟨15, 0x2B, 15, tag⟩ })
      if k.pw.wake.isSome then k else k.onPw (fun p => { p with wake := some 0 })
    else k.resetBegin dom 0 0x0E0C k.cl.core.sbxPlace 0 (some ⟨15, 0x2B, 15, tag⟩))

/-- RESET of one die: fenced whole and valid in no DIE_MAP entry. -/
def Pkg.resetDieCmd (k : Pkg) (g : Nat) (tag : W32) : Pkg :=
  if 96 ≤ g then k.cmdReject 15 0x2B 15 tag stInvalid k.devState
  else
    let ok := k.fencedAt (placeDie g 0) && (List.range 96).all (fun p => (List.range 96).all (fun l => k.cl.core.dieMap p l != some g))
    k.devCmd 0x2B tag [1, 2, 3, 4, 5] (ok && k.fw.reset.isNone) (fun k =>
      k.resetBegin 1 g 0x0E0C (placeDie g 0) 0 (some ⟨15, 0x2B, 15, tag⟩))

/-! ## The commands of this part -/

/-- RECOVERY_PHASE (R428). -/
def execRecoveryPhase (s : State) : Out := .next (s.onPkg (·.recoveryPhase))
/-- RESET_ESCALATE (R428). -/
def execResetEscalate (s : State) : Out := .next (s.onPkg (·.resetEscalate))
/-- RECOVERY_TIMEOUT (R428). -/
def execRecoveryTimeout (s : State) : Out := .next (s.onPkg (·.recoveryTimeout))
/-- RESET, compute domain (R428). -/
def execResetComputeDomain (tag : W32) (s : State) : Out := .next (s.onPkg (·.resetCmd 0 tag))
/-- RESET, die (R427). -/
def execResetDie (tag : W32) (die : W64) (s : State) : Out := .next (s.onPkg (·.resetDieCmd die.toNat tag))
/-- RESET, full recovery (R428). -/
def execResetFullRecovery (tag : W32) (s : State) : Out := .next (s.onPkg (·.resetCmd 2 tag))

end Sys2Proof.Machine
end

