-- ==== Sys2Proof/Machine/Firmware.lean ====
section
/-!
DEFINITION. The firmware complexes in service (R409, R413–R421, R433): heartbeats, restarts, the takeover, the live exchange
and progress checks.
-/
namespace Sys2Proof.Machine

/-! ## Heartbeats (R413, R414, R433) -/

/-- HEARTBEAT_MISS: the neighbouring complex's check fails (R413). -/
def Pkg.heartbeatMiss (k : Pkg) (x : Nat) : Pkg := k.fwCrash x causeHeartbeat 0 (kget k.fw.hbStop false x)

/-- HB_STOP: the complex's heartbeat stops; the bit fires once and clears itself (R433). -/
def Pkg.hbStopArm (k : Pkg) (x : Nat) : Pkg :=
  (k.onCore (fun c => (c.setFld c.sbx 0x28 8 3 x).setFld c.sbx 0x28 0 1 0)).onFw (fun f =>
    { f with hbStop := kput f.hbStop false x true })

/-- HEARTBEAT_ADVANCE of the Signal Box in charge, unless the debug path has halted a core of it (R414, R463). -/
def Pkg.heartbeat (k : Pkg) : Pkg :=
  let halted := (List.range 4).any (fun i => kget k.sec.coreHalt false (4 * k.sb + i))
  if k.upC k.sb && !kget k.fw.hbStop false k.sb && !halted then k.cwWr 3 0xC0 (k.cwRd 3 0xC0 + 1) else k

/-! ## Restart and takeover (R416–R419, R421) -/

/-- A firmware event of a complex. -/
def Pkg.fwNote (k : Pkg) (code sev x reason : Nat) : Pkg :=
  k.onCore (fun c => c.fwEvent code sev 15 (placeComplex x) (detailFw x reason 0xFF 0xFF (imgVer k.running) 0))

/-- One more restart of a complex (SBX_RESTARTS). -/
def Core.countRestart (c : Core) (x : Nat) : Core :=
  let off := 0x50 + x / 4 * 4
  c.setFld 1 off (8 * (x % 4)) 8 (min 255 (c.fld 1 off (8 * (x % 4)) 8 + 1))

/-- Flip the image bank of a complex. -/
def Pkg.flipBank (k : Pkg) (x : Nat) : Pkg := k.onFw (fun f => { f with bank := kput f.bank 0 x (1 - kget f.bank 0 x) })

/-- A block post restarts and serves: FW_RESTART, and its record buffer is emptied (R416, R489). -/
def Pkg.serveAgain (k : Pkg) (x : Nat) : Pkg :=
  let k := k.onFw (fun f => { f with up := kput f.up false x true, halted := kput f.halted false x false })
  let k := k.onCore (·.countRestart x)
  (k.fwNote 0x0E02 sevInfo x 0).complexDrain x

/-- Running commands that the journal does not finish: JOB_LOAD fails and its job has no image (R419). -/
def Pkg.loadsFail (k : Pkg) : Pkg :=
  (k.att.cmds.filter (fun c => decide (c.opc = 2))).foldl (fun x c =>
    ((x.onJob c.job (fun j => { j with image := [] })).setJobState c.job 1).cmdEnd c.ring c.opc c.job c.tag stFailed 0) k

/-- FW_EXCHANGE ends when the Signal Box crashes (R419, R421): in probation the old image comes back on every complex. -/
def Pkg.exchCrash (k : Pkg) : Pkg :=
  match k.fw.exch with
  | none => k
  | some e =>
    if e.state = 4 then
      let k := [2, 3, 4, 5].foldl (fun x i => (x.flipBank i).serveAgain i) k
      let k := k.flipBank (1 - k.sb)
      let k := k.fwNote 0x0E09 sevDegr k.sb 0
      k.exchEnd stFailed 4
    else k.exchEnd stFailed 0

/-- FW_RESTART of a halted complex (R416, R418). -/
def Pkg.fwRestart (k : Pkg) (x : Nat) (digestOk journalOk : Bool) : Pkg :=
  if kget k.fw.halted false x = false then k
  else if !digestOk then
    let k := k.fwNote 0x0E05 sevDegr x 0
    if 2 ≤ x then
      k.onFw (fun f => { f with banks := kput f.banks [] (2 * x + kget f.bank 0 x) (imgBpPart k.running) })
    else if x = k.sb ∧ k.standbyOk = false then
      (k.onFw (fun f => { f with prevState := some k.devState })).setDevState 0
    else k
  else
    let k := k.serveAgain x
    let k := if x = k.sb then (k.loadsFail).exchCrash else k
    if journalOk then k
    else
      let k := k.fwNote 0x0E06 sevDegr x 0
      k.resetAsk 0 0x0E06 (placeComplex x) 0

/-- FW_TAKEOVER: the standby becomes the Signal Box; until the crashed complex follows again there is no standby (R417). -/
def Pkg.fwTakeover (k : Pkg) : Pkg :=
  if k.upC k.sb ∨ k.standbyOk = false then k
  else
    let k := k.onCore (fun c => { c with standby := !c.standby })
    let k := k.fwNote 0x0E03 sevCorr k.sb 0
    let k := k.fwNote 0x0E04 sevDegr (1 - k.sb) 0
    ((k.loadsFail).exchCrash).complexDrain k.sb

/-! ## The live exchange (R420, R421, R462) -/

/-- FW_EXCHANGE: the image is verified and put into every free bank, and the standby restarts on it; the switch is armed. -/
def Pkg.fwExchange (k : Pkg) (tag : W32) (len : Nat) (image : List Byte) : Pkg :=
  k.devCmd 0x2D tag [2, 3, 4] k.fw.exch.isNone (fun k =>
    let img := image.take len
    if k.standbyOk = false then k.cmdEnd 15 0x2D 15 tag stNoRes 0
    else if image.length < len ∨ k.imgReason img ≠ 0 then k.cmdEnd 15 0x2D 15 tag stFailed 1
    else if imgJournal img ≠ imgJournal k.running then k.cmdEnd 15 0x2D 15 tag stFailed 2
    else
      let k := k.cmdRun 15 0x2D 15 tag
      let k := k.onFw (fun f => { f with
        banks := [0, 1, 2, 3, 4, 5].foldl (fun m x =>
          kput m [] (2 * x + (1 - kget f.bank 0 x)) (if x < 2 then img else imgBpPart img)) f.banks,
        exch := some { tag := tag, image := img, state := 3, at_ := k.cl.core.tick.toNat + 1, defers := 0 } })
      k.flipBank (1 - k.sb))

/-- Whether a swap, a drain, a slot-map write or a rotation handover is pending in this Guard (R420). -/
def Pkg.guardBusy (k : Pkg) : Bool :=
  let c := k.cl.core
  c.lcArmed || c.drainArmed || (List.range 192).any (fun rg => c.rd (pageTT rg) 0x40 != c.rd (pageTT rg) 0x44) ||
    k.bi.moves.any (fun e => match e.2 with
      | some m => decide (m.mode = 5)
      | none => false)

/-- EXCHANGE_SWITCH at the switch tick: deferred, given up after 1,024 deferrals, or made; probation begins. -/
def Pkg.exchSwitch (k : Pkg) : Pkg :=
  match k.fw.exch with
  | none => k
  | some e =>
    let t := k.cl.core.tick.toNat
    if e.state ≠ 3 ∨ t < e.at_ ∨ k.standbyOk = false ∨ k.sbUp = false then k
    else if k.guardBusy then
      if 1024 ≤ e.defers + 1 then (k.flipBank (1 - k.sb)).exchEnd stFailed 3
      else k.onFw (fun f => { f with exch := some { e with at_ := t + 1, defers := e.defers + 1 } })
    else
      let k := k.onCore (fun c => { c with standby := !c.standby })
      let k := [2, 3, 4, 5].foldl (fun x i => (x.flipBank i).serveAgain i) k
      k.onFw (fun f => { f with exch := some { e with state := 4, at_ := t + 1000000 } })

/-- PROBATION_END: the old Signal Box restarts on the new image as the standby, and the command completes. -/
def Pkg.probationEnd (k : Pkg) : Pkg :=
  match k.fw.exch with
  | none => k
  | some e =>
    if e.state ≠ 4 ∨ k.cl.core.tick.toNat < e.at_ ∨ k.upC k.sb = false then k
    else
      let old := 1 - k.sb
      let k := k.flipBank old
      let k := k.onFw (fun f => { f with up := kput f.up false old true, halted := kput f.halted false old false })
      let k := k.cwWr 0 0x48 (BitVec.ofNat 32 (imgVer k.running))
      let k := (k.fwNote 0x0E08 sevInfo k.sb 0).exchEnd stOk 0
      if k.devState = 3 then k.svnBurn else k

/-! ## Monitors (R413, R414) -/

/-- TT_PROGRESS_CHECK: a timetable unit two Guards behind the station clock is stuck, and its die is relieved (R413). -/
def Pkg.ttProgress (k : Pkg) (rg : Nat) : Pkg :=
  let last := kget k.fw.guards 0 rg
  if last = 0 ∨ k.cl.core.tick.toNat < last + 2 ∨ k.mapped (rg / 2) = false then k
  else
    let k := k.onCore (fun c => c.fwEvent 0x0E0A sevDegr 15 (placeTT rg) (detailFw (2 + rg / 48) 0 0xFF 0xFF 0 2))
    k.dieRelief (rg / 2) 0x0E0A

/-! ## The commands of this part -/

/-- FW_CRASH (R415). -/
def execFwCrash (c : Complex) (cause : Byte) (pc : W64) (s : State) : Out :=
  .next (s.onPkg (·.fwCrash c.val cause.toNat pc.toNat))
/-- HEARTBEAT_MISS (R413). -/
def execHeartbeatMiss (c : Complex) (s : State) : Out := .next (s.onPkg (·.heartbeatMiss c.val))
/-- FW_RESTART (R416). -/
def execFwRestart (c : Complex) (d j : Bool) (s : State) : Out := .next (s.onPkg (·.fwRestart c.val d j))
/-- FW_TAKEOVER (R417). -/
def execFwTakeover (s : State) : Out := .next (s.onPkg (·.fwTakeover))
/-- EXCHANGE_SWITCH (R420). -/
def execExchangeSwitch (s : State) : Out := .next (s.onPkg (·.exchSwitch))
/-- PROBATION_END (R420). -/
def execProbationEnd (s : State) : Out := .next (s.onPkg (·.probationEnd))
/-- TT_PROGRESS_CHECK (R413). -/
def execTtProgressCheck (rg : Rgn) (s : State) : Out := .next (s.onPkg (·.ttProgress rg.val))
/-- HANG_RESPONSE (R414). -/
def execHangResponse (e : HangEndpoint) (s : State) : Out := .next (s.onPkg (·.hang e))
/-- HEARTBEAT_ADVANCE (R414). -/
def execHeartbeatAdvance (s : State) : Out := .next (s.onPkg (·.heartbeat))
/-- HB_STOP (R433). -/
def execHbStop (c : Complex) (s : State) : Out := .next (s.onPkg (·.hbStopArm c.val))
/-- FW_EXCHANGE (R420). -/
def execFwExchange (tag : W32) (_ : W64) (len : W64) (image : List Byte) (s : State) : Out :=
  .next (s.onPkg (·.fwExchange tag len.toNat image))

end Sys2Proof.Machine
end

