-- ==== Sys2Proof/Machine/DevCmds.lean ====
section
/-!
DEFINITION. Device commands (R341) and what they drive: identity and takeover, groups, routes, windows, DIAG_RUN and the test
slices (R363, R375), drill plans (R376), power states and the wake (R444–R449), and handing out the training record (R394).
-/
namespace Sys2Proof.Machine

/-- A device command completes. -/
def Pkg.devEnd (k : Pkg) (opc : Nat) (tag : W32) (status result : Nat) : Pkg := k.cmdEnd 15 opc 15 tag status result

/-- A device command whose operands are not valid (R334). -/
def Pkg.devInvalid (k : Pkg) (opc : Nat) (tag : W32) : Pkg := k.cmdReject 15 opc 15 tag stInvalid k.devState

/-! ## Identity (R290, R308) -/

/-- The word of FB_NODE. -/
def nodeWord (node inc : Nat) : W32 := BitVec.ofNat 32 (node % 65536 * 65536 + inc % 256 * 256 + 1)

/-- NOP. -/
def Pkg.nopCmd (k : Pkg) (tag : W32) : Pkg := k.devCmd 0x20 tag [1, 2, 3, 4, 5, 6] true (fun k => k.devEnd 0x20 tag stOk 0)

/-- SET_NODE. -/
def Pkg.setNodeCmd (k : Pkg) (tag : W32) (node inc : Nat) : Pkg :=
  if node = 0xFFFF then k.devInvalid 0x21 tag
  else k.devCmd 0x21 tag [1, 2, 3, 4] k.portsIdle (fun k => (k.nodeWrite (nodeWord node inc)).devEnd 0x21 tag stOk 0)

/-- A port that is up sends BYE; its lanes go idle, and the tag in force stays. -/
def Pkg.byeIdle (k : Pkg) (p : Nat) : Pkg :=
  if k.portState p = 6 then k
  else
    let k := if (k.link p).step = .up then k.sendPeer p { ftype := 0x03 } else k
    let k := k.losePort p 0
    let x := k.link p
    ((k.setLink p { idleLink with lastRt := x.lastRt, tag := x.tag }).setPortState p 0).showLanes p

/-- Whether any job is RUNNING, SUSPENDED or STOPPING. -/
def Pkg.anyAdmitted (k : Pkg) : Bool := decide (k.admitted ≠ [])

/-- TAKEOVER (R308 step 2). -/
def Pkg.takeoverCmd (k : Pkg) (tag : W32) (node lost : Nat) : Pkg :=
  if node = 0xFFFF then k.devInvalid 0x22 tag
  else k.devCmd 0x22 tag [3] (!k.anyAdmitted) (fun k =>
    let k := (List.range 18).foldl (fun x p => x.byeIdle p) k
    let k := k.onCore (fun c => (c.wr pageFbPkg 0x40 (nodeWord node (lost + 1))).record pageFbPkg 0x0A14 sevInfo 15
      (placeEdge 0 2 0) (detailFb node 0xFF 0 0 0 0))
    let k := k.onFab (fun f => { f with annDue := true, drainDone := [], txSeq := [], txRst := [], rxSeq := [] })
    ((List.range 18).foldl (fun x p => if x.portState p = 6 then x else x.startDetect p) k).devEnd 0x22 tag stOk 0)

/-! ## Groups, routes, windows (R270, R296, R302, R307, R322) -/

/-- Whether a job is not RUNNING, SUSPENDED or STOPPING. -/
def Pkg.jobQuiet (k : Pkg) (j : Nat) : Bool := decide (k.jobState j < 3 ∨ 5 < k.jobState j) || decide (j = 15)

/-- GROUP_SET (R296). -/
def Pkg.groupSetCmd (k : Pkg) (tag : W32) (i fgroup job rank : Nat) (members : List (BitVec 16 × Byte)) : Pkg :=
  let n := members.length
  if 16 ≤ i ∨ n < 2 ∨ 256 < n ∨ n ≤ rank then k.devInvalid 0x23 tag
  else
    let quiet := k.jobQuiet job && (!k.grpValid i || k.jobQuiet (k.grpJob i))
    k.devCmd 0x23 tag [2, 3, 4] quiet (fun k =>
      let l : List W32 := members.map (fun (m : BitVec 16 × Byte) => BitVec.ofNat 32 (m.1.toNat * 65536 + m.2.toNat * 256))
      let k := k.onFab (fun f => { f with members := kputs f.members 0 (256 * i) l })
      (k.onCore (·.wrs pageFbPkg (0x100 + 32 * i)
        [BitVec.ofNat 32 (2 ^ 31 + job * 65536 + fgroup), BitVec.ofNat 32 (rank * 65536 + n), BitVec.ofNat 32 (256 * i)])).devEnd
        0x23 tag stOk 0)

/-- ROUTE_SET: the inactive bank takes the table in force with the entries changed, and a swap is armed (R307). -/
def Pkg.routeSetCmd (k : Pkg) (tag : W32) (entries : List (BitVec 16 × BitVec 18)) : Pkg :=
  k.devCmd 0x24 tag [2, 3] (decide (k.cl.core.rd8 pageFbPkg 0x50 = 0)) (fun k =>
    let b := 65536 * (1 - k.routeBank)
    let r := entries.foldl (fun (m : KMap W32) (e : BitVec 16 × BitVec 18) =>
      kput m 0 (b + e.1.toNat) (if e.2 = 0 then 0 else BitVec.ofNat 32 (2 ^ 31 + e.2.toNat))) k.routeCopy
    let k := k.onFab (fun f => { f with route := r, drained := [] })
    (k.onCore (fun c => (c.setFld pageFbPkg 0x4C 0 8 0).wr8 pageFbPkg 0x50 (c.tick.toNat + 1))).cmdRun 15 0x24 15 tag)

/-- Whether a range is one that accesses under an earlier generation of another window still use (R271). -/
def Pkg.oldMeets (k : Pkg) (w a n : Nat) : Bool :=
  k.fab.oldWin.any (fun e => decide (e.1 ≠ w) && e.2.any (fun o => rangesMeet a n o.1 o.2))

/-- WINDOW_SET: the fields of R270, in force at the next Guard offset 0; a range that is still busy under another window's earlier
generation is not reused (R271; log entry 309). -/
def Pkg.windowSetCmd (k : Pkg) (tag : W32) (w : Nat) (w2 w3 w4 : W64) : Pkg :=
  let base := bitsAt w4 0 30
  let size := bitsAt w4 32 30
  if 256 ≤ w ∨ dpaFw < (base + size + 1) * 4096 then k.devInvalid 0x25 tag
  else k.devCmd 0x25 tag [2, 3, 4] (!k.oldMeets w (base * 4096) ((size + 1) * 4096)) (fun k =>
    let pg := pageWin (w / 64)
    let off := 0x100 + 32 * (w % 64)
    (k.onCore (fun c =>
      let c := c.wr pg off (BitVec.ofNat 32 (bitsAt w2 25 7 * 2 ^ 25 + bitsAt (c.rd pg off) 24 1 * 2 ^ 24))
      (((c.wr pg (off + 8) (BitVec.ofNat 32 (bitsAt w3 0 32))).wr pg (off + 16) (BitVec.ofNat 32 base))).wr pg (off + 20)
        (BitVec.ofNat 32 size))).devEnd 0x25 tag stOk 0)

/-- ATTACH_SET (R322). -/
def Pkg.attachSetCmd (k : Pkg) (tag : W32) (win : W64) (dpa bytes : Nat) : Pkg :=
  let i := bitsAt win 0 32
  let on := bitAt win 63
  if 16 ≤ i ∨ (on ∧ (dpa % 2 ^ 21 ≠ 0 ∨ bytes % 2 ^ 21 ≠ 0 ∨ bytes = 0 ∨ dpaFw < dpa + bytes)) then k.devInvalid 0x26 tag
  else k.devCmd 0x26 tag [2, 3, 4] true (fun k =>
    (k.onAtt (fun a => { a with wins := kput a.wins none i (if on then some (dpa, bytes) else none) })).devEnd 0x26 tag stOk 0)

/-- STOP_GROUP: a stop signal with reason HOST, 3 (R302). -/
def Pkg.stopGroupCmd (k : Pkg) (tag : W32) (fgroup : Nat) : Pkg :=
  match k.grpOf fgroup with
  | none => k.devInvalid 0x27 tag
  | some i => k.devCmd 0x27 tag [2, 3] true (fun k => (k.stopEmit i 3).devEnd 0x27 tag stOk 0)

/-! ## DIAG_RUN (R363, R375) -/

/-- Slices of a unit. -/
def unitSlices (u : Nat) : List Nat :=
  let run (lo n : Nat) : List Nat := (List.range n).map (· + lo)
  match u with
  | 0 => run 0 16 | 1 => run 16 16 | 2 => run 32 4 | 3 => run 36 4 | 4 => run 40 4 | 10 => run 40 4
  | 5 => run 44 8 ++ [116] | 6 => run 52 32 | 7 => run 84 16 | 8 => run 100 16 | 9 => run 117 2
  | _ => []

/-- Slices of a test set: bit 0 logic BIST, bit 1 march, bit 3 the whole set; the known-answer test of bit 2 has none. -/
def setSlices (t : Nat) : List Nat :=
  allSlices.filter (fun s => decide (t / 8 % 2 = 1 ∨ (t % 2 = 1 ∧ s < 52) ∨ (t / 2 % 2 = 1 ∧ 52 ≤ s)))

/-- Clusters that a place code of a unit, a cluster or a die names. -/
def diagClus (place : Nat) : List Nat :=
  if place / 2 ^ 30 = 3 then (List.range 10).map (fun i => 10 * placeGDie place + i) else [placeCluster place]

/-- Whether DIAG_RUN names a place that can be tested. -/
def diagPlace (place : Nat) : Bool :=
  placeOk place && (decide (place / 2 ^ 30 < 2) || (decide (place / 2 ^ 30 = 3) && decide (place / 2 ^ 23 % 32 < 24)))

/-- A DIAG_RUN ends: FW_DIAG_DONE, and its completion (R375). -/
def Pkg.diagEnd (k : Pkg) (d : DiagRun) (status : Nat) : Pkg :=
  let k := k.onBi (fun b => { b with diags := b.diags.filter (fun x => decide (x.tag ≠ d.tag)) })
  let k := k.onCore (fun c => c.fwEvent 0x0E4B sevInfo 15 d.place
    (detailBi 0xFF 0xFF 0xFF 0xFF 0x0E4B d.ran d.failed c.tick.toNat))
  k.devEnd 0x28 d.tag status (d.ran % 2 ^ 32 + d.failed % 2 ^ 32 * 2 ^ 32)

/-- Whether a slot that is not due for replay runs in a region. -/
def Pkg.flightIn (k : Pkg) (rg : Nat) : Bool :=
  (List.range 4).any (fun n => match k.cl.run rg n with
    | some r => !r.due
    | none => false)

/-- Clusters of a DIAG_RUN start their slices; a cluster with a set in progress that would return it to service ends that set
first. -/
def Pkg.diagStart (k : Pkg) (d : DiagRun) : Pkg :=
  let returning : Bool := d.left.any (fun c => match k.testOf c with
    | some t => t.back
    | none => false)
  if returning then k
  else
    let k := k.onBi (fun b => { b with diags := b.diags.map (fun x => if x.tag = d.tag then { x with wait := false } else x) })
    d.left.foldl (fun x c => x.startTest c d.slices  (x.cl.core.fenced c && !x.fencedAt (placeClu c))) k

/-- One DIAG_RUN that waits for its clusters to leave service: an early rotation, or a die relief without a fault (R375). -/
def Pkg.diagMove (k : Pkg) (d : DiagRun) : Pkg :=
  let c := d.left.headD 0
  let rg := c / 5
  let g := c / 10
  if d.place / 2 ^ 30 = 3 then
    if k.mapped g = false then k.diagStart d
    else if kget k.bi.dieMirror 0 g ≠ 0 then k
    else if (k.reliefDie (g / 24)).isNone then k.diagEnd d stNoRes
    else if (k.move (2 * g)).isSome ∨ (k.move (2 * g + 1)).isSome ∨ k.flightIn (2 * g) ∨ k.flightIn (2 * g + 1) then k
    else k.dieRelief g 0 false
  else if k.mapped g = false ∨ k.cl.core.slotOfClu c = none then k.diagStart d
  else if (k.move rg).isSome then k
  else if k.cl.core.reliefOk rg = false then k.diagEnd d stNoRes
  else k.rotate rg (c % 5)

/-- Every DIAG_RUN goes on, in order, while the Signal Box serves. -/
def Pkg.diagPoll (k : Pkg) : Pkg :=
  if k.sbUp = false then k
  else k.bi.diags.foldl (fun x d => if d.wait then x.diagMove d else if d.left = [] then x.diagEnd d stOk else x) k

/-- DIAG_RUN, within quadrants in service (R375, R402; log entry 328). -/
def Pkg.diagCmd (k : Pkg) (tag : W32) (place set : Nat) : Pkg :=
  if diagPlace place = false ∨ set % 16 = 0 ∨ 16 ≤ set then k.devInvalid 0x28 tag
  else k.devCmd 0x28 tag [2, 3] (k.quadIn (place / 2 ^ 28 % 4)) (fun k =>
    let unit := unitSlices (placeUnitNo place)
    let slices := if place / 2 ^ 30 = 0 then (setSlices set).filter unit.elem else setSlices set
    let d : DiagRun := { tag := tag, place := place, left := if slices = [] then [] else diagClus place, ran := 0, failed := 0,
                         wait := decide (slices ≠ []), slices := slices }
    ((k.onBi (fun b => { b with diags := b.diags ++ [d] })).cmdRun 15 0x28 15 tag).diagPoll)

/-- TEST_SLICE_END (R363, R446): test slices pause in Idle. -/
def Pkg.testSlice (k : Pkg) (clu : Nat) (passed : Bool) (where_ : Nat) : Pkg :=
  if k.devState = 4 ∨ k.devState = 5 then k else (k.sliceEnd clu passed where_).diagPoll

/-! ## Drills (R376) -/

/-- DRILL_SET: the plan is replaced whole, or FAILED with the first entry that breaks a rule. -/
def Pkg.drillSetCmd (k : Pkg) (tag : W32) (count : Nat) (reserved : BitVec 112) (entries : List DrillEntry) : Pkg :=
  if reserved ≠ 0 ∨ count ≠ entries.length ∨ 256 < count then k.devInvalid 0x2E tag
  else k.devCmd 0x2E tag [2, 3] true (fun k =>
    match entries.findIdx? (fun e => !drillOk e) with
    | some i =>
      -- a place code that names no location is a rejection that is logged (R6)
      let k := if entries.any (fun e => !placeOk e.place.toNat) then
          k.onCore (·.rejectNote 15 0x2E tag stFailed k.devState)
        else k
      k.devEnd 0x2E tag stFailed i
    | none => (k.onBi (fun b => { b with drills := entries, fired := [] })).devEnd 0x2E tag stOk 0)

/-! ## Power states (R444–R449) -/

/-- PW_STATE: a power-state change completes (R455). -/
def Pkg.stateEvent (k : Pkg) (state : Nat) : Pkg := k.pwEvent 0x0C08 sevInfo (placeSbx 0) 0 0xFF 0 0 state

/-- Every rotation is abandoned with BI_ROT_ABORT (R446, R447). -/
def Pkg.stopRotations (k : Pkg) : Pkg := k.bi.moves.foldl (fun x e => x.abandon e.1 0x0F41 true) k

/-- POWER_STATE Idle (R446). -/
def Pkg.idleCmd (k : Pkg) (tag : W32) : Pkg :=
  k.devCmd 0x29 tag [2, 3] ((List.range 15).all (fun j => decide (k.jobState j ≠ 3 ∧ k.jobState j ≠ 5))) (fun k =>
    let k := (k.stopRotations).onPw (fun p => { p with backTo := k.devState })
    ((k.setDevState 4).stateEvent 1).devEnd 0x29 tag stOk 0)

/-- Whether W-store bank b of a cluster is retained (PW_RETAIN). -/
def Core.retained (c : Core) (clu b : Nat) : Bool := bitAt (c.rd pagePwRet (0x100 + 4 * clu)) b

/-- Valid W-store regions of job 15 in clusters with retained banks, with their words. -/
def Core.keptDescs (c : Core) : KMap (List W32) :=
  (List.range 960).foldl (fun m clu =>
    if c.rd pagePwRet (0x100 + 4 * clu) = 0 then m
    else (List.range 16).foldl (fun m r =>
      let d := c.region clu 0 r
      if d.valid && decide (d.job = 15) then kput m [] (16 * clu + r) (c.regionWords clu 0 r) else m) m) []

/-- The stores' retained content: W-store bytes and poison of retained banks. -/
def Clus.keepBanks (m : Clus) (old : Clus) : Clus :=
  let keepB (key : Nat) : Bool := let u := key / 2 ^ 24; decide (u % 3 = 0) && old.core.retained (u / 3) (storeBank 0 (key % 2 ^ 24))
  let keepW (key : Nat) : Bool := let u := key / 2 ^ 19; decide (u % 3 = 0) && old.core.retained (u / 3) (storeBank 0 (key % 2 ^ 19 * 32))
  { m with st := { m.st with
      mem := old.st.mem.filter (fun e => keepB e.1)
      poison := old.st.poison.filter (fun e => keepW e.1)
      errs := old.st.errs.filter (fun e => keepW e.1) } }

/-- Narrow the Attach Link to its first four lanes (R447). -/
def Pkg.salNarrow (k : Pkg) : Pkg :=
  let x := k.link salLink
  if x.step = .up then k.setLanes salLink (lanesMask (x.lanes.take 4)) else k

/-- Widen the Attach Link to the lanes present (R448). -/
def Pkg.salWide (k : Pkg) : Pkg :=
  let x := k.link salLink
  let all := maskLanes 16 x.present
  if x.step = .up then k.setLanes salLink (lanesMask (all.take (fitWidth salLink all.length))) else k

/-- POWER_STATE Laid-up does its work (R447). -/
def Pkg.layUp (k : Pkg) (tag : W32) : Pkg :=
  let back := if k.devState = 4 then k.pw.backTo else k.devState
  let k := k.stopRotations
  let k := k.bi.diags.foldl (fun x d => x.diagEnd d stPreempted) k
  let k := (k.onHbm (fun b => { b with selfRef := true })).salNarrow
  let k := (List.range 18).foldl (fun x p => x.byeIdle p) k
  let k := k.onCore (fun c => ((railGroup 5).foldl (fun x i => x.railDown i) c).setTimeState 3)
  let old := k.cl
  let kept := old.core.keptDescs
  let k := (k.computeCold false).onClus (·.keepBanks old)
  let k := k.onPw (fun p => { p with backTo := back, backClock := k.cl.core.mhz, kept := kept, wake := none, tickOut := false,
                                     ppsOut := false })
  let k := (k.setDevState 5).onCore (·.setFld pagePw 0x40 26 4 0)
  (k.stateEvent 2).devEnd 0x29 tag stOk 0

/-- Whether a line clear or a route drain is armed. -/
def Pkg.drainsArmed (k : Pkg) : Bool := decide (k.cl.core.rd8 pageRoot 0x340 ≠ 0 ∨ k.cl.core.rd8 pageFbPkg 0x50 ≠ 0)

/-- POWER_STATE Laid-up: it waits until no line clear and no route drain is armed (R447). -/
def Pkg.laidUpCmd (k : Pkg) (tag : W32) : Pkg :=
  k.devCmd 0x29 tag [3, 4] (!k.anyAdmitted) (fun k => if k.drainsArmed then k.cmdRun 15 0x29 15 tag else k.layUp tag)

/-- POWER_STATE Running: from Idle at once, from Laid-up by the wake (R444, R448). -/
def Pkg.runningCmd (k : Pkg) (tag : W32) : Pkg :=
  k.devCmd 0x29 tag [4, 5] (decide (k.devState = 4) || k.pw.wake.isNone) (fun k =>
    if k.devState = 4 then
      let reduced := bitAt (k.cl.core.rd pageBu 0x40) 16
      let k := if k.pw.backTo = 3 && reduced then k.enterFull else k.setDevState k.pw.backTo
      (k.stateEvent 0).devEnd 0x29 tag stOk 0
    else
      let k := (k.onCore (·.setFld pagePw 0x40 26 4 0)).onPw (fun p =>
        { p with wake := some 0, wakeCmd := some ⟨15, 0x29, 15, tag⟩ })
      k.cmdRun 15 0x29 15 tag)

/-- The running RESET that a wake goes before. -/
def Pkg.resetWaits (k : Pkg) : Option RunCmd := k.att.cmds.find? (fun c => decide (c.opc = 0x2B))

/-- LOGIC_RDY: the compute dies leave reset, and the device returns to its state (R448). -/
def Pkg.wakeEnd (k : Pkg) : Pkg :=
  let qs := (List.range 4).filter k.quadIn
  let k := ((k.fenceBits).placeService).onCore (fun c => (c.validDies qs).setLimits (c.cpt - 840))
  let k := k.salWide
  let k := (List.range 18).foldl (fun x p => if x.portState p = 0 then x.startDetect p else x) k
  let cmd := k.pw.wakeCmd
  let dom := k.pw.wakeReset
  let k := (k.setDevState k.pw.backTo).onPw (fun p => { p with wake := none, wakeCmd := none, wakeReset := none })
  let k := if k.devState = 3 && bitAt (k.cl.core.rd pageBu 0x40) 16 then k.enterFull else k
  let k := k.stateEvent 0
  let k := match cmd with
    | some c => if c.opc = 0x29 then k.cmdEnd c.ring c.opc c.job c.tag stOk 0 else k
    | none => k
  match dom with
  | some d => k.resetBegin d 0 0x0E0C k.cl.core.sbxPlace 0 k.resetWaits
  | none => k

/-- WAKE_STEP_DONE: the ready bit of the step in progress is set, and the next starts (R448). -/
def Pkg.wakeStep (k : Pkg) : Pkg :=
  match k.pw.wake with
  | none => k
  | some n =>
    let k := (k.onCore (·.setFld pagePw 0x40 (29 - n % 4) 1 1)).onPw (fun p => { p with wake := some (n + 1) })
    match n with
    | 0 => k.onCore (fun c => (railGroup 5).foldl (fun x i => (x.railUp i).railGood i) c)
    | 1 => k
    | 2 =>
      let k := k.onHbm (fun b => { b with selfRef := false })
      let kept := k.pw.kept
      (kept.foldl (fun x (e : Nat × List W32) => x.onCore (·.wrs (pageSt (e.1 / 16) 0) (regionOff (e.1 % 16)) e.2)) k).onPw
        (fun p => { p with kept := [] })
    | _ => k.wakeEnd

/-- WAKE_TIMEOUT: PW_WAKE_FAIL, and a full recovery at once (R449). -/
def Pkg.wakeFail (k : Pkg) : Pkg :=
  match k.pw.wake with
  | none => k
  | some n =>
    let k := k.pwEvent 0x0C09 sevDegr (placeSbx 0) n 0xFF 0 0 0xFF
    let cmd := k.pw.wakeCmd
    let k := match cmd with
      | some c => if c.opc = 0x29 then k.cmdEnd c.ring c.opc c.job c.tag stPreempted 0 else k
      | none => k
    let again : Option RunCmd := if k.pw.wakeReset.isSome then k.resetWaits else none
    let k := (k.setDevState k.pw.backTo).onPw (fun p => { p with wake := none, wakeCmd := none, wakeReset := none, kept := [] })
    k.resetBegin 2 0 0x0C09 k.cl.core.sbxPlace 2 again

/-- POWER_CAP: 0 stands for the fused limit; below 3,000 W is INVALID (R450). -/
def Pkg.powerCapCmd (k : Pkg) (tag : W32) (watts : Nat) : Pkg :=
  if watts ≠ 0 ∧ watts < 3000 then k.devInvalid 0x2A tag
  else k.devCmd 0x2A tag [1, 2, 3, 4, 5] true (fun k => (k.onPw (fun p => { p with cap := watts })).devEnd 0x2A tag stOk 0)

/-- TRAIN_RECORD: the record goes to host memory, and RESULT is its length (R394). -/
def Pkg.trainRecordCmd (k : Pkg) (tag : W32) (addr : Nat) : Pkg :=
  k.devCmd 0x2C tag [2, 3, 4] true (fun k =>
    let b := k.trecBytes
    (k.hostWrite addr b).devEnd 0x2C tag stOk b.length)

/-! ## What firmware looks at after Guard offset 64 -/

/-- A lay-up that waited, and the DIAG_RUNs. -/
def Pkg.devPoll (k : Pkg) : Pkg :=
  let k := match k.att.cmds.find? (fun c => decide (c.opc = 0x29)) with
    | some c => if (k.devState = 3 ∨ k.devState = 4) ∧ !k.drainsArmed then k.layUp c.tag else k
    | none => k
  if k.devState = 4 ∨ k.devState = 5 then k else k.diagPoll

/-! ## The commands of this part -/

/-- POINTS_SWAP (R224, R307). -/
def execPointsSwap (s : State) : Out := .next (s.onPkg (fun k => (k.swapTick).devPoll))
/-- NOP (R341). -/
def execNop (tag : W32) (s : State) : Out := .next (s.onPkg (·.nopCmd tag))
/-- SET_NODE (R290, R341). -/
def execSetNode (tag : W32) (node : BitVec 16) (inc : Byte) (s : State) : Out :=
  .next (s.onPkg (·.setNodeCmd tag node.toNat inc.toNat))
/-- TAKEOVER (R308, R341). -/
def execTakeover (tag : W32) (node : BitVec 16) (lost : Byte) (s : State) : Out :=
  .next (s.onPkg (·.takeoverCmd tag node.toNat lost.toNat))
/-- GROUP_SET (R296, R341). -/
def execGroupSet (tag : W32) (i : BitVec 64) (g : BitVec 16) (j : Job) (rank : Byte) (m : List (BitVec 16 × Byte)) (s : State) :
    Out :=
  .next (s.onPkg (·.groupSetCmd tag i.toNat g.toNat j.val rank.toNat m))
/-- ROUTE_SET (R307, R341). -/
def execRouteSet (tag : W32) (e : List (BitVec 16 × BitVec 18)) (s : State) : Out := .next (s.onPkg (·.routeSetCmd tag e))
/-- WINDOW_SET (R270, R341). -/
def execWindowSet (tag : W32) (w w2 w3 w4 : W64) (s : State) : Out := .next (s.onPkg (·.windowSetCmd tag w.toNat w2 w3 w4))
/-- ATTACH_SET (R322, R341). -/
def execAttachSet (tag : W32) (w dpa n : W64) (s : State) : Out := .next (s.onPkg (·.attachSetCmd tag w dpa.toNat n.toNat))
/-- STOP_GROUP (R302, R341). -/
def execStopGroup (tag : W32) (g : BitVec 16) (s : State) : Out := .next (s.onPkg (·.stopGroupCmd tag g.toNat))
/-- DIAG_RUN (R375). -/
def execDiagRun (tag : W32) (place : W32) (set : W64) (s : State) : Out := .next (s.onPkg (·.diagCmd tag place.toNat set.toNat))
/-- POWER_STATE Running (R448). -/
def execPowerStateRunning (tag : W32) (s : State) : Out := .next (s.onPkg (·.runningCmd tag))
/-- POWER_STATE Idle (R446). -/
def execPowerStateIdle (tag : W32) (s : State) : Out := .next (s.onPkg (·.idleCmd tag))
/-- POWER_STATE Laid-up (R447). -/
def execPowerStateLaidUp (tag : W32) (s : State) : Out := .next (s.onPkg (·.laidUpCmd tag))
/-- POWER_CAP (R341, R450). -/
def execPowerCap (tag : W32) (w : W64) (s : State) : Out := .next (s.onPkg (·.powerCapCmd tag w.toNat))
/-- TRAIN_RECORD (R394). -/
def execTrainRecord (tag : W32) (addr : W64) (s : State) : Out := .next (s.onPkg (·.trainRecordCmd tag addr.toNat))
/-- DRILL_SET (R376). -/
def execDrillSet (tag : W32) (n : BitVec 16) (r : BitVec 112) (e : List DrillEntry) (s : State) : Out :=
  .next (s.onPkg (·.drillSetCmd tag n.toNat r e))
/-- TEST_SLICE_END (R363, R365). -/
def execTestSliceEnd (c : Clu) (passed : Bool) (where_ : Byte) (s : State) : Out :=
  .next (s.onPkg (·.testSlice c.val passed where_.toNat))
/-- WAKE_STEP_DONE (R448). -/
def execWakeStepDone (s : State) : Out := .next (s.onPkg (·.wakeStep))
/-- WAKE_TIMEOUT (R449). -/
def execWakeTimeout (s : State) : Out := .next (s.onPkg (·.wakeFail))

end Sys2Proof.Machine
end

