-- ==== Sys2Proof/Machine/Registers.lean ====
section
/-!
DEFINITION. Writes of registers (R473–R492): the header's fields, the writable fields of every block's chapter, the memory
windows of R476, the host's register view (R485–R488) with the write log's application (R327), and its shadows (R487).
-/
namespace Sys2Proof.Machine

/-! ## The header (R479–R482) -/

/-- ERR_CLR: ERR_STATUS is zero (R480). -/
def Core.errClr (c : Core) (page : Nat) : Core := c.zero page 0x18 2
/-- FIRST_CLR: ERR_FIRST is empty (R480). -/
def Core.firstClr (c : Core) (page : Nat) : Core := c.zero page 0x30 4
/-- EVT_CLR: EVT_COUNT is zero, and on the global page SBX_SEV_COUNT too (R480, R491). -/
def Core.evtClr (c : Core) (page : Nat) : Core :=
  let c := c.zero page 0x2C 1
  if page = 0 then c.zero 0 0x90 5 else c

/-- Apply a change to a page that exists (R473). -/
def Core.onPage (c : Core) (page : Nat) (f : Core → Core) : Core := if (pageKind page).isSome then f c else c

/-- A write of CTRL. -/
def Core.ctrlWrite (c : Core) (page : Nat) (v : W32) : Core :=
  let c := if bitAt v 31 then c.errClr page else c
  let c := if bitAt v 30 then c.firstClr page else c
  if bitAt v 29 then c.evtClr page else c

/-- An injection that takes effect when its bit is set, or that names no target (R237, R274, R315, R433, R456). -/
def Pkg.injFire (k : Pkg) (kd : PKind) (page : Nat) : Pkg :=
  let w := k.cl.core.rd page 0x28
  match kd with
  | .fbPort p =>
    match (k.link p).step, (k.link p).lanes with
    | .up, lane :: _ => if bitAt w 1 then (k.onCore (·.setFld page 0x28 1 1 0)).laneDrop p lane true else k
    | _, _ => k
  | .hb h => if bitAt w 2 then (k.onCore (·.setFld page 0x28 2 1 0)).fallback h (bitsAt w 8 5) else k
  | .sbx _ =>
    if bitAt w 0 then
      let k := k.onCore (·.setFld page 0x28 0 1 0)
      if bitsAt w 8 3 < 6 then k.hbStopArm (bitsAt w 8 3) else k
    else k
  | .pw => if bitAt w 0 then k.tempBias (bitsAt w 8 8) else k
  | .ln _ => if 10 ≤ bitsAt w 8 4 then k.onCore (·.setFld page 0x28 0 3 0) else k
  | .store _ st => if storeBanks st ≤ bitsAt w 8 5 then k.onCore (·.setFld page 0x28 0 2 0) else k
  | _ => k

/-- A write of a header word. -/
def Pkg.headerWrite (k : Pkg) (kd : PKind) (page off : Nat) (v : W32) : Pkg :=
  if off = 0x10 then k.onCore (·.ctrlWrite page v)
  else if off = 0x18 ∨ off = 0x1C then k.onCore (fun c => c.wr page off (c.rd page off &&& ~~~v))
  else if off = 0x20 ∨ off = 0x24 then k.onCore (·.wr page off v)
  else if off = 0x28 ∧ injMask kd ≠ 0 then (k.onCore (·.wr page off (v &&& BitVec.ofNat 32 (injMask kd)))).injFire kd page
  else k

/-! ## Block fields -/

/-- Write the bits of a mask of a word; the others keep their value. -/
def Core.wrMask (c : Core) (page off mask : Nat) (v : W32) : Core :=
  let m := BitVec.ofNat 32 mask
  c.wr page off ((c.rd page off &&& ~~~m) ||| (v &&& m))

/-- TT_CIRC CTRL: JOB only while STOPPED, PRIO and FIRST, then the command (R25). -/
def Clus.circCtrl (m : Clus) (rg n : Nat) (v : W32) : Clus :=
  let mask := if m.core.circState rg n = 0 then 0x1FC00FFF else 0x01C00FFF
  let m := m.onCore (·.wrMask (pageTT rg) (circOff n) mask v)
  match bitsAt v 29 3 with
  | 1 => m.circStart rg n
  | 2 => m.circStop rg n
  | 3 => m.circSuspend rg n
  | 4 => m.circResume rg n
  | 5 => m.circAbort rg n
  | _ => m

/-- Words [off, off + 4n) of an 8-word structure at `base`, with `ws` put over the words of `old` that the access covers. -/
def overlay (old : List W32) (base off : Nat) (ws : List W32) : List W32 :=
  (List.range 8).map (fun i =>
    if off ≤ base + 4 * i ∧ base + 4 * i < off + 4 * ws.length then ws.getD ((base + 4 * i - off) / 4) 0 else old.getD i 0)

/-- A write within a region descriptor: the other words are those last written (R171). -/
def Clus.descWords (m : Clus) (clu st off : Nat) (ws : List W32) : Clus :=
  let r := (off - 0x100) / 32
  let base := regionOff r
  let old := match (m.st.pend.filter (fun e => e.1 == clu && e.2.1 == st && e.2.2.1 == r)).getLast? with
    | some e => e.2.2.2
    | none => (m.core.regionWords clu st r).set 5 0
  m.descWrite clu st r (overlay old base off ws)

/-- A write within a channel's words (R238). -/
def Clus.chanWords (m : Clus) (clu off : Nat) (ws : List W32) : Clus :=
  let n := (off - 0x100) / 32
  let old := (List.range 8).map (fun i => m.core.rd (pageMsg clu) (chanOff n + 4 * i))
  m.channelWrite clu n (overlay old (chanOff n) off ws)

/-- LN_CTRL CNT_CLR: the counters at 0x080–0x0CF. -/
def Pkg.lnCntClr (k : Pkg) (g : Nat) : Pkg :=
  (k.onCore (·.zero (pageLn g) 0x80 20)).onNet (fun n => { n with crcRec := kclear n.crcRec (10 * g) 10 })

/-- FB_PORT_CTRL CNT_CLR: the counters and FB_FIRST_ERR; FB_VIOLATION is armed again (R292). -/
def Pkg.fbCntClr (k : Pkg) (p : Nat) : Pkg :=
  (k.onCore (fun c => (c.zero (pageFb p) 0x80 8).zero (pageFb p) 0xC0 8)).onFab (fun y =>
    { y with violRec := kput y.violRec false p false })

/-- BI_CTRL CNT_CLR: BI_ROTATIONS, BI_MISMATCHES and the BI_CLUSTER counts. -/
def Pkg.biCntClr (k : Pkg) (rg : Nat) : Pkg :=
  (k.onCore (fun c => iter 5 (fun i x => x.setFld (pageBI rg) (0x80 + 8 * i) 16 16 0) (c.zero (pageBI rg) 0x5C 2))).onBi
    (fun b => { b with checks := kclear b.checks (5 * rg) 5 })

/-- A tablet's low word: VALID and, where `own`, TARGET as SET and JOB (R228). -/
def Core.tabletWord (c : Core) (page off : Nat) (own : Bool) (v : W32) : Core :=
  let c := c.setFld page off 11 1 (bitsAt v 11 1)
  if own then (c.setFld page off 12 4 (bitsAt v 12 4)).tbSet page off (bitsAt v 16 16) else c

/-- A write of a points-table word: the bank in force takes none (R223). -/
def Core.ptsWord (c : Core) (g off mask : Nat) (bank : Nat) (v : W32) : Core :=
  if c.ptsBank g = bank then c.dropped (pagePts g) else c.wr (pagePts g) off (v &&& BitVec.ofNat 32 mask)

/-- A word of a collective entry, by FB_COLL_IDX (R296). -/
def Pkg.collWordWrite (k : Pkg) (q off : Nat) (v : W32) : Pkg :=
  let key := 64 * q + k.cl.core.fld (pageColl q) 0x40 0 6
  let l := kget k.fab.coll [] key
  let l := l ++ List.replicate (8 - l.length) 0
  let i := (off - 0x80) / 8
  let l := l.set i (putBits (l.getD i 0) (if off % 8 = 4 then 32 else 0) 32 v.toNat)
  k.onFab (fun f => { f with coll := kput f.coll [] key (if l.all (fun w => w == 0) then [] else l) })

/-- FB_ROUTE_DATA: the inactive bank only (R306). -/
def Pkg.routeWord (k : Pkg) (v : W32) : Pkg :=
  let i := k.cl.core.rd pageFbPkg 0x44
  let bank := bitsAt i 16 1
  if bank = k.routeBank then k.onCore (·.dropped pageFbPkg)
  else k.onFab (fun f => { f with route := kput f.route 0 (65536 * bank + bitsAt i 0 16) (v &&& 0x8003FFFF) })

/-- FB_PORT_CFG: clearing EN sends BYE and idles the port, setting it starts Detect (R275, R290). -/
def Pkg.portCfg (k : Pkg) (p : Nat) (v : W32) : Pkg :=
  let was := bitAt (k.cl.core.rd (pageFb p) 0x40) 31
  let k := if was && !bitAt v 31 then k.byeIdle p else k
  let k := k.onCore (·.wr (pageFb p) 0x40 (v &&& 0xFFFC0000))
  if !was && bitAt v 31 then k.startDetect p else k

/-- A write of one word of a block's fields (register tables of the chapters); RO and reserved words ignore it. -/
def Pkg.blockWord (k : Pkg) (kd : PKind) (page off : Nat) (v : W32) : Pkg :=
  let put (mask : Nat) : Pkg := k.onCore (·.wr page off (v &&& BitVec.ofNat 32 mask))
  let zero (b : Nat) (o n : Nat) (x : Pkg) : Pkg := if bitAt v b then x.onCore (·.zero page o n) else x
  let doIf (b : Nat) (f : Pkg → Pkg) (x : Pkg) : Pkg := if bitAt v b then f x else x
  match kd with
  | .global | .sec | .biUp | .sig _ | .dma _ | .att => k
  | .sbx _ =>
    if off = 0x44 then put 0xFF else if off = 0x48 then put 0xFFFF else if off = 0x4C then put 0x8000FFFF else k
  | .pw =>
    if off = 0x54 then put 0xFFFF else if off = 0x5C then put 0xC000FFFF else if off = 0x60 then zero 31 0x64 2 k else k
  | .pwRet =>
    if 0x100 ≤ off then
      if 8 < ((List.range 32).filter (bitAt v)).length ∨ k.devState = 5 then k.onCore (·.dropped page) else put 0xFFFFFFFF
    else k
  | .time => if off = 0x54 then put 0xC000FFFF else k
  | .hbSeg =>
    if 0x100 ≤ off ∧ off < 0x500 then
      match off / 4 % 4 with
      | 0 => put 0xFFE00000
      | 1 => put 0xFFFF
      | 2 => put 0xE0000000
      | _ => put 0xFFFFFFFF
    else k
  | .hbWin _ =>
    if 0x100 ≤ off ∧ off < 0x900 then
      match off / 4 % 8 with
      | 0 => k.onCore (·.wrMask page off 0xFE000000 v)
      | 2 => put 0xFFFFFFFF
      | 4 => put 0x3FFFFFFF
      | 5 => put 0x3FFFFFFF
      | _ => k
    else k
  | .tbRoot =>
    if isThru page off ∨ isLine page off then (if off % 8 = 0 then k.onCore (·.tabletWord page off false v) else k)
    else if 0x280 ≤ off ∧ off < 0x300 then put 0xFFC00000
    else if off = 0x340 ∨ off = 0x344 then (put 0xFFFFFFFF).onCore (·.zero page 0x34C 5)
    else if off = 0x348 then put 0xFFFF
    else k
  | .fbPkg =>
    if off = 0x40 then k.nodeWrite v
    else if off = 0x44 then put 0x1FFFF
    else if off = 0x48 then k.routeWord v
    else if off = 0x50 ∨ off = 0x54 then put 0xFFFFFFFF
    else if off = 0x58 then put 0xFFF
    else if off = 0x5C then
      k.onFab (fun f => { f with members := kput f.members 0 (k.cl.core.fld page 0x58 0 12) (v &&& 0xFFFFFF00) })
    else if 0x100 ≤ off ∧ off < 0x300 then
      match off / 4 % 8 with
      | 0 => put 0x800FFFFF
      | 1 => put 0x00FF01FF
      | 2 => put 0xFFF
      | _ => k
    else k
  | .hb h =>
    if off = 0x48 then zero 30 0x200 8 (zero 31 0x80 64 k)
    else if off = 0x4C then put 0x8000FFFF
    else if off = 0x50 ∨ off = 0x54 then put 0xFF
    else if off = 0x5C then k.rehomeGo h v
    else if off = 0x60 then put 0x1F7FF
    else k
  | .fbPort p =>
    if off = 0x40 then k.portCfg p v
    else if off = 0x4C then doIf 29 (·.unquarantine p) (doIf 30 (·.fbCntClr p) (doIf 31 (·.retrain p) k))
    else if off = 0x58 then put 0xFFFFFFFF
    else if off = 0x5C then put 0xFF
    else k
  | .fbColl q =>
    if off = 0x40 then put 0x3F
    else if 0x80 ≤ off ∧ off < 0xC0 then k.collWordWrite q off v
    else if off = 0xC0 then put 0xFFFFFFFF
    else k
  | .tt rg =>
    if off = 0x44 then put 0x00FC7FF8
    else if off = 0x48 then (put 0xFFFF).rebook
    else if 0x80 ≤ off ∧ off < 0x100 then put 0xFFFF
    else if 0x100 ≤ off ∧ off < 0x500 then
      (if off % 16 = 0 then k.onClus (·.circCtrl rg ((off - 0x100) / 16) v) else k)
    else if 0x500 ≤ off ∧ off < 0x700 then put (if off % 8 = 0 then 0xFFFFF800 else 0xFFFFFFFF)
    else k
  | .bi rg =>
    if off = 0x44 then k.mirrorWrite rg v
    else if off = 0x48 then k.fenceWrite rg v
    else if off = 0x4C then put 0xFFFFFFFF
    else if off = 0x50 ∨ off = 0x54 then put 0xFFFF
    else if off = 0x58 then
      let k := doIf 26 (·.biCntClr rg) k
      let k := zero 25 0xC0 8 k
      let k := doIf 27 (·.abortRot rg) k
      doIf 31 (·.rotateNow rg (bitsAt v 28 3)) k
    else k
  | .mc clu m =>
    if off = 0x44 then
      let k := doIf 31 (·.onClus (·.mcMarginClr clu m)) k
      let k := doIf 30 (·.onClus (·.mcCapClr clu m)) k
      doIf 29 (·.onClus (·.mcCntClr clu m)) k
    else if 0x80 ≤ off ∧ off < 0xB8 then
      (if (off - 0x80) / 8 = 4 then k else if off % 8 = 0 then put 0xFFFFFFFF else put 0xFF)
    else if off = 0x600 then doIf 30 (·.onClus (·.mcSgClear clu m)) (put 0xBFFE0000)
    else if off = 0x604 then k.onCore (fun c => c.wr page off (c.rd page off &&& ~~~(v &&& 0x1F)))
    else if 0x620 ≤ off ∧ off < 0x634 then put 0xFFFFFFFF
    else if 0x700 ≤ off ∧ off < 0x780 then put 0xFFFFFFFF
    else k
  | .vcore _ _ => if off = 0x8C then zero 31 0x80 4 k else k
  | .score _ => if off = 0x8C then zero 31 0x80 6 k else k
  | .sa _ =>
    if off = 0x44 then put 0xFFFF
    else if off = 0x54 then zero 29 0x100 8 (zero 30 0x60 4 (zero 31 0x50 1 k))
    else k
  | .store clu st =>
    if off = 0x44 then
      let k := doIf 31 (·.onClus (·.xstCntClr clu st)) k
      let k := doIf 30 (·.onClus (·.xstCapClr clu st)) k
      doIf 29 (·.onClus (·.bankClr clu st)) k
    else if off = 0x58 then k.onClus (·.scrubCtrl clu st v)
    else if off = 0x5C ∨ off = 0x308 then put 0xFFFF
    else k
  | .msg clu =>
    if off = 0x44 then put 0xFFFFFFFF else if off = 0x48 then doIf 31 (·.onClus (·.msgCntClr clu)) k else k
  | .ln g => if off = 0x44 then put 0xFFFFFFFF else if off = 0x48 then doIf 31 (·.lnCntClr g) k else k
  | .pts g =>
    if off = 0x48 then put 0x7F
    else if 0x100 ≤ off ∧ off < 0x160 then k.onCore (·.ptsWord g off 0xFFFFFFFF 0 v)
    else if 0x180 ≤ off ∧ off < 0x1E0 then k.onCore (·.ptsWord g off 0xFFFFFFFF 1 v)
    else if 0x200 ≤ off ∧ off < 0x300 then k.onCore (·.ptsWord g off 0xFFFFF000 0 v)
    else if 0x300 ≤ off ∧ off < 0x400 then k.onCore (·.ptsWord g off 0xFFFFF000 1 v)
    else k
  | .tbNode _ =>
    if (0x100 ≤ off ∧ off < 0x600) ∧ off % 8 = 0 then k.onCore (·.tabletWord page off true v) else k

/-- The words of one access to a block's fields: a descriptor and a channel take them together. -/
def Pkg.blockWords (k : Pkg) (kd : PKind) (page off : Nat) (ws : List W32) : Pkg :=
  let each (x : Pkg) : Pkg := (ws.zipIdx.foldl (fun y (e : W32 × Nat) => y.blockWord kd page (off + 4 * e.2) e.1) x)
  match kd with
  | .tt _ =>
    -- a post target's PLACE names a location, and no router output (R6)
    if ws.zipIdx.any (fun e => decide (0x500 ≤ off + 4 * e.2 ∧ off + 4 * e.2 < 0x700 ∧ (off + 4 * e.2) % 8 = 4) &&
        !placeOk e.1.toNat) then k.onCore (·.dropped page)
    else each k
  | .store clu st => if 0x100 ≤ off ∧ off < 0x300 then k.onClus (·.descWords clu st off ws) else each k
  | .msg clu => if 0x100 ≤ off ∧ off < 0x500 then k.onClus (·.chanWords clu off ws) else each k
  | _ => each k

/-! ## The access rules (R476–R478) -/

/-- A write of 4 or 8 aligned bytes to a page that exists. -/
def Pkg.pageWrite (k : Pkg) (kd : PKind) (page off size : Nat) (data : W64) : Pkg :=
  let lo : W32 := BitVec.ofNat 32 (bitsAt data 0 32)
  let ws : List W32 := if size = 8 then [lo, BitVec.ofNat 32 (bitsAt data 32 32)] else [lo]
  if off < 0x40 then ws.zipIdx.foldl (fun y (e : W32 × Nat) => y.headerWrite kd page (off + 4 * e.2) e.1) k
  else if k.domainOff kd then k
  else k.blockWords kd page off ws

/-- The page whose ERR_STATUS reports a memory window's dropped writes (R476). -/
def winPage : WinKind → Nat
  | .entries rg => pageTT rg
  | .imem clu => pageS clu
  | .dmem clu => pageS clu

/-- A write to a memory window (R42, R476, R477). -/
def Pkg.windowWrite (k : Pkg) (w : WinKind) (page off size : Nat) (data : W64) : Pkg :=
  if (size ≠ 1 ∧ size ≠ 2 ∧ size ≠ 4 ∧ size ≠ 8) ∨ off % size ≠ 0 then k.onCore (·.dropped (winPage w))
  else
    let a := page * 4096 + off
    let bytes := leBytes size data.toNat
    let store (clu : Nat) : Pkg :=
      if (k.cl.runOrPilot clu).isSome then k.onCore (·.dropped (pageS clu)) else k.onCore (·.winWr a bytes)
    match w with
    | .entries rg =>
      let e := (a - entryBase rg) / 256
      let old := k.cl.core.winRds (entryBase rg + 256 * e) 256
      let at_ := (a - entryBase rg) % 256
      let new := old.take at_ ++ bytes ++ old.drop (at_ + size)
      k.onClus (·.entryWrite rg e (words64 new))
    | .imem clu => store clu
    | .dmem clu => store clu

/-- A write of the Signal network's register space (R473, R476, R477): reserved pages drop it. -/
def Pkg.regWrite (k : Pkg) (page off size : Nat) (data : W64) : Pkg :=
  match pageKind page with
  | some kd =>
    if cwAligned off size = false then k.onCore (·.dropped page) else k.pageWrite kd page off size data
  | none =>
    match winKind page with
    | some w => k.windowWrite w page off size data
    | none => k

/-! ## The host's register view (R485–R488) -/

/-- Die of aperture a where EN is set (R486). -/
def Pkg.aperture (k : Pkg) (a : Nat) : Option Nat :=
  let w := k.cwRd 32 (0xA0 + 4 * a)
  if bitAt w 31 then some (bitsAt w 0 7) else none

/-- The page of the register space that a control-window page shows (R485). -/
def Pkg.viewPage (k : Pkg) (p : Nat) : Option Nat :=
  if 256 ≤ p ∧ p < 272 then some (p - 256)
  else if 288 ≤ p ∧ p < 312 then some (pageHb (p - 288))
  else if 312 ≤ p ∧ p < 330 then some (pageFb (p - 312))
  else if 330 ≤ p ∧ p < 334 then some (pageColl (p - 330))
  else if 512 ≤ p then (k.aperture ((p - 512) / 512)).map (fun g => pageDie g ((p - 512) % 512))
  else none

/-- TYPE of a page that exists only in the view (R480, R485). -/
def viewOnly (p : Nat) : Option Nat :=
  if p = 272 then some 0x40 else if p = 273 then some 0x41 else if 274 ≤ p ∧ p < 278 then some 0x42 else none

/-- Header word of a page that exists only in the view: CLASS 0, the Signal Box in charge, no injection (R480; log
entry 34). -/
def Core.viewHeader (c : Core) (type off : Nat) : W32 :=
  BitVec.ofNat 32
    (if off = 0 then type else if off = 4 then c.sbxPlace else if off = 8 then 0x10000 else if off = 0xC then 2 ^ 30
     else if off = 0x14 then 2 ^ 31 else 0)

/-- Firmware refreshes the shadow of a control-window page (R487). -/
def Pkg.shadowRefresh (k : Pkg) (p : Nat) : Pkg :=
  if p < 256 then k
  else match viewOnly p with
    | some t => [0, 4, 8, 0xC, 0x14].foldl (fun x off => x.cwWr p off (k.cl.core.viewHeader t off)) k
    | none =>
      let words : KMap W32 := match k.viewPage p with
        | none => []
        | some q => ((List.range 1024).map (fun i => (p * 1024 + i, k.peek q (4 * i)))).filter (fun e => decide (e.2 ≠ 0))
      let below := k.att.cw.filter (fun e => decide (e.1 < p * 1024))
      let above := k.att.cw.filter (fun e => decide ((p + 1) * 1024 ≤ e.1))
      k.onAtt (fun a => { a with cw := below ++ words ++ above })

/-- The shadows that a write to a page of the register space affects: every view of it and the global page. -/
def Pkg.refreshViews (k : Pkg) (page : Nat) : Pkg :=
  let views := (List.range 3840).filter (fun i => decide (k.viewPage (256 + i) = some page))
  (views.foldl (fun x i => x.shadowRefresh (256 + i)) k).shadowRefresh 256

/-- Bits of a word of a page that the host may write through the view (R488). -/
def hostBits (kd : PKind) (off : Nat) : Nat :=
  if off = 0x10 then 0xE0000000
  else if 0x18 ≤ off ∧ off < 0x28 then 0xFFFFFFFF
  else match kd with
    | .mc _ _ =>
      if off = 0x44 then 0xE0000000 else if off = 0x600 ∨ (0x620 ≤ off ∧ off < 0x634) then 0xFFFFFFFF else 0
    | .sa _ => if off = 0x54 then 0xE0000000 else 0
    | .store _ _ => if off = 0x44 then 0xE0000000 else 0
    | .ln _ => if off = 0x48 then 0x80000000 else 0
    | .msg _ => if off = 0x48 then 0x80000000 else 0
    | .hb _ => if off = 0x48 then 0xC0000000 else 0
    | .fbPort _ => if off = 0x40 ∨ off = 0x4C ∨ off = 0x58 then 0xFFFFFFFF else 0
    | .bi _ => if off = 0x58 then 0x06000000 else 0
    | .pw => if off = 0x60 then 0x80000000 else if off = 0x5C then 0xFFFFFFFF else 0
    | .time => if off = 0x54 then 0x40000000 else 0
    | _ => 0

/-- AT_EMU_BAD with its reason (R327). -/
def Pkg.emuBad (k : Pkg) (e : LogEnt) (reason : Nat) : Pkg :=
  k.onCore (·.record pageAt 0x0B08 sevInfo 15 (linkLoc salLink) (detailAt (e.page * 4096 + e.off) 0 reason 0xFF k.devState 0))

/-- The words of a logged write, with their offsets. -/
def LogEnt.words (e : LogEnt) : List (Nat × W32) :=
  (e.off, BitVec.ofNat 32 (bitsAt e.data 0 32)) ::
    (if e.size = 8 then [(e.off + 4, BitVec.ofNat 32 (bitsAt e.data 32 32))] else [])

/-- A logged write to a page of the register space. ERR_INJECT is dropped (R325, R488). -/
def Pkg.viewWrite (k : Pkg) (e : LogEnt) (page : Nat) (kd : PKind) : Pkg :=
  if e.words.all (fun w => decide (w.1 = 0x28)) then k
  else if e.words.any (fun w => decide (hostBits kd w.1 = 0)) then k.emuBad e stInvalid
  else
    let merge (w : Nat × W32) : W32 :=
      if kd = .time ∧ w.1 = 0x54 then
        (k.cl.core.rd page 0x54 &&& 0xBFFFFFFF) ||| (w.2 &&& 0x40000000)
      else w.2 &&& BitVec.ofNat 32 (hostBits kd w.1)
    let data := (e.words.map merge).zipIdx.foldl (fun (a : Nat) (x : W32 × Nat) => a + x.1.toNat * 2 ^ (32 * x.2)) 0
    (k.regWrite page e.off e.size (BitVec.ofNat 64 data)).refreshViews page

/-- Setting GO of the SPDM mailbox: the request is with firmware, or STATE_CONFLICT while BUSY (R469). -/
def Pkg.mbxGo (k : Pkg) : Pkg :=
  if bitAt (k.cwRd 273 0x44) 31 then k.emuBad ⟨273, 0x40, 4, 0⟩ stConflict
  else k.cwWr 273 0x44 0x80000000

/-- A logged write to the TRC page, a TRC point page or the SEC mailbox page (R431, R469). -/
def Pkg.viewOnlyWrite (k : Pkg) (e : LogEnt) : Pkg :=
  let kind (off : Nat) : Nat :=
    if off = 0x10 ∨ off = 0x18 ∨ off = 0x1C ∨ off = 0x28 then 1
    else if off = 0x20 ∨ off = 0x24 then 2
    else if e.page = 272 then (if 0x40 ≤ off ∧ off < 0x60 then 2 else if off = 0x60 then 1 else 0)
    else if e.page = 273 then
      (if off = 0x40 then 3 else if off = 0x44 then 1 else if 0x100 ≤ off ∧ off < 0x900 then 2
       else if 0x900 ≤ off then 1 else 0)
    else if 0x100 ≤ off ∧ off < 0x900 then 2
    else 0
  if e.words.any (fun w => decide (kind w.1 = 0)) then k.emuBad e stInvalid
  else e.words.foldl (fun x (w : Nat × W32) =>
    match kind w.1 with
    | 2 => x.cwWr e.page w.1 w.2
    | 3 =>
      let go := bitAt w.2 31
      if go && bitAt (x.cwRd 273 0x44) 31 then x.mbxGo
      else
        let x := x.cwWr 273 0x40 (w.2 &&& 0xFFF)
        if go then x.mbxGo else x
    | _ => x) k

/-- A logged write to a ring page (R331). -/
def Pkg.ringPageWrite (k : Pkg) (e : LogEnt) : Pkg :=
  let j := e.page - 16
  let on := k.ringOn j
  let ok (w : Nat × W32) : Nat :=
    if w.1 = 0x40 then
      if 12 < bitsAt w.2 8 4 ∨ 8 < bitsAt w.2 0 4 then stInvalid
      else if on ∧ (w.2 ^^^ k.cwRd e.page 0x40) &&& 0xF0F ≠ 0 then stConflict
      else stOk
    else if w.1 = 0x48 ∨ w.1 = 0x50 then (if w.2.toNat % 4096 ≠ 0 then stInvalid else if on then stConflict else stOk)
    else if w.1 = 0x4C ∨ w.1 = 0x54 then (if on then stConflict else stOk)
    else if w.1 = 0x58 ∨ w.1 = 0x20 ∨ w.1 = 0x24 then stOk
    else stInvalid
  match (e.words.map ok).find? (fun x => decide (x ≠ stOk)) with
  | some r => k.emuBad e r
  | none =>
    e.words.foldl (fun x (w : Nat × W32) =>
      if w.1 = 0x40 then
        let x := x.cwWr e.page 0x40 (w.2 &&& 0x80000F0F)
        if !on && bitAt w.2 31 then
          let x := (x.setRingS j { x.ringS j with cqw := 0, phase := true }).cwWr 3 (0x80 + 4 * j) 0
          x.cqDrain j (x.stagedOf j).length
        else x
      else if w.1 = 0x58 then
        let x := x.cwWr e.page 0x58 (w.2 &&& 0xFFFF)
        x.cqDrain j (x.stagedOf j).length
      else x.cwWr e.page w.1 w.2) k

/-- Whether a word of the host-settings page takes the value, and the bits it keeps: 0 where it does not (R337, R341, R426,
R430, R486). -/
def settingBits (off : Nat) (v : W32) : Nat :=
  let base : Nat := if v.toNat % 4096 = 0 then 0xFFFFFFFF else 0
  if off = 0x40 ∨ off = 0x58 ∨ off = 0x68 ∨ off = 0x78 then base
  else if off = 0x44 ∨ off = 0x5C ∨ off = 0x6C ∨ off = 0x7C ∨ off = 0x20 ∨ off = 0x24 then 0xFFFFFFFF
  else if off = 0x48 then (if bitsAt v 0 4 ≤ 10 ∧ bitsAt v 8 3 ≤ 4 then 0x8000070F else 0)
  else if off = 0x4C ∨ off = 0x84 then 0xFFFF
  else if off = 0x50 then (if 10 ≤ v.toNat ∧ v.toNat ≤ 100000 then 0xFFFFFFFF else 0)
  else if off = 0x60 then (if bitsAt v 0 19 ≤ 262144 then 0x7FFFF else 0)
  else if off = 0x70 then 0x1FFFFFFF
  else if off = 0x80 then (if bitsAt v 0 4 ≤ 8 then 0x8000070F else 0)
  else if 0xA0 ≤ off ∧ off < 0xBC then (if bitsAt v 0 7 < 96 then 0x8000007F else 0)
  else 0

/-- A logged write to the host-settings page. -/
def Pkg.settingsWrite (k : Pkg) (e : LogEnt) : Pkg :=
  if e.words.any (fun w => decide (settingBits w.1 w.2 = 0)) then k.emuBad e stInvalid
  else
    let k := e.words.foldl (fun x (w : Nat × W32) => x.cwWr 32 w.1 (w.2 &&& BitVec.ofNat 32 (settingBits w.1 w.2))) k
    let k := if e.words.any (fun w => decide (0x68 ≤ w.1 ∧ w.1 < 0x74)) then k.dumpCopy else k
    e.words.foldl (fun x (w : Nat × W32) =>
      if 0xA0 ≤ w.1 ∧ w.1 < 0xBC then
        (List.range 512).foldl (fun y i => y.shadowRefresh (512 + 512 * ((w.1 - 0xA0) / 4) + i)) x
      else x) k

/-- What a logged write does (R327). -/
def Pkg.applyEnt (k : Pkg) (e : LogEnt) : Pkg :=
  if e.page < 32 then k.ringPageWrite e
  else if e.page = 32 then k.settingsWrite e
  else if (viewOnly e.page).isSome then k.viewOnlyWrite e
  else match k.viewPage e.page with
    | none => k.emuBad e stInvalid
    | some page => match pageKind page with
      | none => k.emuBad e stInvalid
      | some kd => k.viewWrite e page kd

/-- LOG_APPLY: the next logged write is applied and AT_LOG_ASEQ reaches it; firmware applies none while its complex is
down (R327, R329, R409). -/
def Pkg.logApply (k : Pkg) : Pkg :=
  match k.att.log with
  | [] => k
  | e :: rest =>
    if k.upC k.sb = false then k
    else
      let k := k.onAtt (fun a => { a with log := rest, tbusyRec := false })
      let k := k.applyEnt e
      k.cwWr 3 0x4C (k.cwRd 3 0x4C + 1)

/-! ## The commands of this part -/

/-- ERR_CLR (R480). -/
def execErrClr (page : BitVec 24) (s : State) : Out :=
  .next (s.onClus (·.onCore (fun c => c.onPage page.toNat (·.errClr page.toNat))))
/-- FIRST_CLR (R480). -/
def execFirstClr (page : BitVec 24) (s : State) : Out :=
  .next (s.onClus (·.onCore (fun c => c.onPage page.toNat (·.firstClr page.toNat))))
/-- EVT_CLR (R480). -/
def execEvtClr (page : BitVec 24) (s : State) : Out :=
  .next (s.onClus (·.onCore (fun c => c.onPage page.toNat (·.evtClr page.toNat))))
/-- MEMORY_WINDOW_WRITE (R476). -/
def execMemoryWindowWrite (page : BitVec 24) (off : BitVec 12) (size : Fin 65) (data : W64) (s : State) : Out :=
  .next (s.onPkg (fun k => match winKind page.toNat with
    | some w => k.windowWrite w page.toNat off.toNat size.val data
    | none => k))
/-- REGISTER_WRITE (R477). -/
def execRegisterWrite (page : BitVec 24) (off : BitVec 12) (size : Fin 65) (data : W64) (s : State) : Out :=
  .next (s.onPkg (·.regWrite page.toNat off.toNat size.val data))
/-- LOG_APPLY (R327). -/
def execLogApply (s : State) : Out := .next (s.onPkg (·.logApply))
/-- SEC_MBX_GO (R469). -/
def execSecMbxGo (s : State) : Out := .next (s.onPkg (·.mbxGo))
/-- SHADOW_REFRESH (R487). -/
def execShadowRefresh (page : Fin 4096) (s : State) : Out :=
  .next (s.onPkg (fun k => if k.upC k.sb then k.shadowRefresh page.val else k))

end Sys2Proof.Machine
end

