-- ==== Sys2Proof/Machine/Security.lean ====
section
/-!
DEFINITION. The security engine, the JTAG port and attestation (R457–R472): the generator's health test, debug challenge and
response with the four levels, instructions that need a level, and the SPDM requests over both transports.
-/
namespace Sys2Proof.Machine

/-- Apply a change to the security engine's part. -/
def Pkg.onSec (k : Pkg) (f : SecS → SecS) : Pkg := { k with sec := f k.sec }

/-- An event of the security engine (R471): level or SVN, reason, JTAG instruction or node, signers. -/
def Pkg.secEvent (k : Pkg) (code sev level reason instr signers : Nat) : Pkg :=
  k.onCore (·.record pageSec code sev 15 (placeSbx 0)
    (level % 256 + reason % 256 * 2 ^ 8 + instr % 2 ^ 16 * 2 ^ 16 + signers % 256 * 2 ^ 32))

/-- TRNG_HEALTH_FAIL: the generator is refused until the next cold start (R459). -/
def Pkg.trngFail (k : Pkg) : Pkg :=
  if bitAt (k.cl.core.rd pageSec 0x40) 26 then
    (k.onCore (·.setFld pageSec 0x40 26 1 0)).secEvent 0x0D02 sevDegr 0 0 0 0
  else k

/-! ## JTAG (R463, R464) -/

/-- Numbers of the JTAG instructions in `SecS.ir`. -/
def irBypass : Nat := 0
/-- IDCODE. -/
def irIdcode : Nat := 1
/-- SAMPLE/PRELOAD. -/
def irSample : Nat := 2
/-- EXTEST. -/
def irExtest : Nat := 3
/-- DBG_CHAL. -/
def irChal : Nat := 4
/-- DBG_RESP. -/
def irResp : Nat := 5
/-- DBG_LOCK. -/
def irLock : Nat := 6

/-- A JTAG instruction comes into force and shifts bytes out; the port runs on VAUX. EXTEST ends with it. -/
def Pkg.jtag (k : Pkg) (ir : Nat) (tdo : List Byte) (f : Pkg → Pkg := id) : Pkg :=
  if k.pw.vaux then (f k).onSec (fun x => { x with ir := ir, tdo := tdo, extest := false }) else k

/-- SEC_DENIED (R463). -/
def Pkg.secDenied (k : Pkg) (level ir : Nat) : Pkg := k.secEvent 0x0D05 sevInfo level 1 (Config.jtagCode ir).toNat 0

/-- EXTEST: the pins take the boundary register; only in ROM_WAIT and FAILED (R463). -/
def Pkg.extest (k : Pkg) (pins : W64) : Pkg :=
  if k.pw.vaux = false then k
  else if k.devState = 0 ∨ k.devState = 7 then
    k.onSec (fun x => { x with ir := irExtest, tdo := leBytes 8 x.pins.toNat, pins := pins, extest := true })
  else k.secDenied 0 irExtest

/-- Debug level in force, LOCKOUT and the generator's health (SEC_STATUS). -/
def Pkg.dbgLevel (k : Pkg) : Nat := k.cl.core.dbgLevel

/-- A fresh 32-byte nonce. -/
def Pkg.drawNonce (k : Pkg) : BitVec 256 × Pkg :=
  let (a, c) := k.cl.core.draw
  let (b, c) := c.draw
  let (d, c) := c.draw
  let (e, c) := c.draw
  (BitVec.ofNat 256 (a.toNat + b.toNat * 2 ^ 64 + d.toNat * 2 ^ 128 + e.toNat * 2 ^ 192), k.onCore (fun _ => c))

/-- DBG_CHAL: DEVICE_UID, a fresh nonce and zeros; zeros alone while the generator is refused or after a lockout (R464). -/
def Pkg.dbgChal (k : Pkg) : Pkg :=
  if k.pw.vaux = false then k
  else
    let st := k.cl.core.rd pageSec 0x40
    if bitAt st 25 || !bitAt st 26 then k.jtag irChal (List.replicate 64 0)
    else
      let (n, k) := k.drawNonce
      (k.jtag irChal (leBytes 8 k.bu.fuse.uid.toNat ++ digestBytes n ++ List.replicate 24 0)).onSec (fun x =>
        { x with nonce := some (n, k.cl.core.tick.toNat) })

/-- A failed response: SEC_UNLOCK_FAIL, and SEC_LOCKOUT at the third since cold start (R464). -/
def Pkg.unlockFail (k : Pkg) (level signers : Nat) : Pkg :=
  let n := k.cl.core.fld pageSec 0x4C 0 2
  let k := k.secEvent 0x0D07 sevInfo level 1 (Config.jtagCode irResp).toNat signers
  let k := k.onCore (·.setFld pageSec 0x4C 0 2 (min 3 (n + 1)))
  if n = 2 then (k.onCore (·.setFld pageSec 0x40 25 1 1)).secEvent 0x0D08 sevInfo level 1 (Config.jtagCode irResp).toNat signers
  else k

/-- Key store zeroised, fuse-secret path blocked, TAINTED (R465). -/
def Pkg.zeroise (k : Pkg) (level signers : Nat) : Pkg :=
  let k := k.onSec (fun x => { x with key := false, blocked := true })
  let k := k.onCore (fun c => (c.setFld pageSec 0x40 28 1 1).setFld pageSec 0x40 27 1 0)
  k.secEvent 0x0D09 sevInfo level 0 (Config.jtagCode irResp).toNat signers

/-- Whether the device's state permits a level (R463). -/
def Pkg.levelOk (k : Pkg) (level : Nat) : Bool :=
  if level = 3 then decide (k.devState = 0 ∨ k.devState = 7) else if level = 4 then k.bu.fuse.owner.isNone else true

/-- Whether the signers of a response suffice for its level (R464). -/
def Pkg.signersOk (k : Pkg) (level : Nat) (vendor owner : Bool) : Bool :=
  if k.bu.fuse.owner.isNone ∨ level = 4 then vendor
  else if level = 3 then vendor && owner
  else owner

/-- DBG_RESP: the nonce, the keys and the signatures are checked, and the level opens (R464, R465). -/
def Pkg.dbgResp (k : Pkg) (r : List Byte) : Pkg :=
  if k.pw.vaux = false then k
  else
    let level := leAt r 0 1
    let fresh : Bool := match k.sec.nonce with
      | some (n, t) => decide (r.length = 296 ∧ leAt r 1 7 = 0 ∧ 1 ≤ level ∧ level ≤ 4 ∧ leAt r 8 32 = n.toNat ∧
          k.cl.core.tick.toNat < t + 6000000)
      | none => false
    let msg := leBytes 8 k.bu.fuse.uid.toNat ++ imgSlice r 8 32 ++ imgSlice r 0 1
    let signed (key : Nat) : Bool := Config.sigOk (leNat (imgSlice r key 64)) msg (imgSlice r (key + 64) 64)
    let vendor := signed 40 && decide (Config.sha256 (imgSlice r 40 64) = Config.romKeyHash 4)
    let owner := signed 168 && (match k.bu.fuse.owner with
      | some h => decide (Config.sha256 (imgSlice r 168 64) = h)
      | none => false)
    let mask := b2n vendor + 2 * b2n owner
    let keyOk := decide (Config.sha256 (imgSlice r 40 64) = Config.romKeyHash 4)
    let k := (k.jtag irResp []).onSec (fun x => { x with nonce := none })
    if !(fresh && keyOk && k.signersOk level vendor owner) then k.unlockFail level mask
    else if k.levelOk level = false then k.secDenied level irResp
    else
      let k := if level = 2 ∨ level = 3 then k.zeroise level mask else k
      let k := (k.onCore (·.setFld pageSec 0x40 29 3 level)).onSec (fun x => { x with highest := max x.highest level })
      k.secEvent 0x0D06 sevInfo level 0 (Config.jtagCode irResp).toNat mask

/-- DBG_LOCK: the level is 0; TAINTED stays (R464). -/
def Pkg.dbgLock (k : Pkg) : Pkg := k.jtag irLock [] (·.onCore (·.setFld pageSec 0x40 29 3 0))

/-- NONCE_LAPSE: an unused nonce lapses after 60 s (R464). -/
def Pkg.nonceLapse (k : Pkg) : Pkg :=
  match k.sec.nonce with
  | some (_, t) => if t + 6000000 ≤ k.cl.core.tick.toNat then k.onSec (fun x => { x with nonce := none }) else k
  | none => k

/-! ## Instructions that need a level (R463) -/

/-- The level an instruction needs, and its number in `SecS.ir`. -/
def levelOf : LevelInstr → Nat × Nat
  | .debugRead _ _ _ => (1, 7)
  | .debugWrite _ _ _ _ => (2, 8)
  | .haltCore _ _ => (2, 9)
  | .stepCore _ _ => (2, 10)
  | .scan => (3, 11)
  | .burnOwner _ => (4, 12)

/-- What a read of the debug path shifts out: a register word or pair, or bytes of a memory window (R463, R473, R477). -/
def Pkg.debugBytes (k : Pkg) (page off size : Nat) : List Byte :=
  match winKind page with
  | some _ =>
    if (size = 1 ∨ size = 2 ∨ size = 4 ∨ size = 8) ∧ off % size = 0 then k.cl.core.winRds (page * 4096 + off) size
    else List.replicate size 0
  | none =>
    if cwAligned off size then leBytes size (k.peek8 page off) else List.replicate size 0

/-- A read of the debug path: an ill-formed access sets bit 0 of ERR_STATUS, and TIME_TICK_LO latches (R477, chapter 11). -/
def Pkg.debugRead (k : Pkg) (page off size : Nat) : Pkg :=
  let k := if page = pageTime ∧ off = 0x40 ∧ cwAligned off size then k.onCore (·.timeLatch) else k
  let bad : Bool := (winKind page).isNone && (pageKind page).isSome && !cwAligned off size
  let b := k.debugBytes page off size
  (if bad then k.onCore (·.dropped page) else k).onSec (fun x => { x with tdo := b })

/-- Bits of a MSG_CHAN word that only the debug path writes: WRAP and WR, and RD (R251). -/
def ringMask (off : Nat) : Nat :=
  if off < 0x100 ∨ 0x500 ≤ off then 0 else if off % 32 = 20 then 0x8000FFFF else if off % 32 = 24 then 0xFFFF else 0

/-- A write of the debug path: what every write does, and WR, RD and WRAP of a receive ring, which it alone writes (R251,
R477). -/
def Pkg.debugWrite (k : Pkg) (page off size : Nat) (data : W64) : Pkg :=
  let k := k.regWrite page off size data
  match pageKind page with
  | some (.msg clu) =>
    if cwAligned off size = false ∨ k.domainOff (.msg clu) = true then k
    else iter (size / 4) (fun i x =>
      let m := ringMask (off + 4 * i)
      if m = 0 then x
      else x.onCore (·.wr page (off + 4 * i) (BitVec.ofNat 32 (bitsAt data (32 * i) 32) &&& BitVec.ofNat 32 m))) k
  | _ => k

/-- The effect of an instruction whose level is open. -/
def Pkg.levelAct (k : Pkg) : LevelInstr → Pkg
  | .debugRead page off size => k.debugRead page.toNat off.toNat size.val
  | .debugWrite page off size data => k.debugWrite page.toNat off.toNat size.val data
  | .haltCore c core => k.onSec (fun x => { x with coreHalt := kput x.coreHalt false (4 * c.val + core.val) true })
  | .stepCore _ _ => k
  | .scan =>
    let (v, c) := k.cl.core.draw
    (k.onCore (fun _ => c)).onSec (fun x => { x with tdo := leBytes 8 v.toNat })
  | .burnOwner h => k.onBu (fun b => { b with fuse := { b.fuse with owner := some h } })

/-- UNLOCKED_LEVEL_INSTRUCTION: performed, or refused with SEC_DENIED (R463). -/
def Pkg.levelInstr (k : Pkg) (i : LevelInstr) : Pkg :=
  if k.pw.vaux = false then k
  else
    let (need, ir) := levelOf i
    if k.dbgLevel < need ∨ k.levelOk need = false then k.secDenied need ir
    else (k.jtag ir []).levelAct i

/-! ## Attestation (R466–R469) -/

/-- Number of a transport in `SecS.version`. -/
def transportNo : SpdmTransport → Nat
  | .mctp => 0
  | .mailbox => 1

/-- An answer of the Signal Box in charge: kept, and written to the mailbox with DONE where the request came there (R469). The
message's bytes follow DSP0274 (log entry 35). -/
def Pkg.spdmAnswer (k : Pkg) (t : SpdmTransport) (code p1 p2 : Nat) (signed : Bool) (data : List Byte) : Pkg :=
  let k := k.onSec (fun x => { x with answers := x.answers ++ [⟨t, code, p1, p2, signed, data⟩] })
  match t with
  | .mctp => k
  | .mailbox =>
    let ver := if code = 4 then 0x10 else kget k.sec.version 0x13 1
    let b := [BitVec.ofNat 8 ver, BitVec.ofNat 8 code, BitVec.ofNat 8 p1, BitVec.ofNat 8 p2] ++ data
    let b := b.take 1792
    let k := (words32 (b ++ [0, 0, 0])).zipIdx.foldl (fun x (e : W32 × Nat) => x.cwWr 273 (0x900 + 4 * e.2) e.1) k
    k.cwWr 273 0x44 (BitVec.ofNat 32 (2 ^ 30 + b.length))

/-- A request that firmware answers: the Signal Box in charge serves, and a mailbox request has been submitted (R466, R469). -/
def Pkg.spdm (k : Pkg) (t : SpdmTransport) (f : Pkg → Pkg) : Pkg :=
  if k.upC k.sb && (match t with
    | .mctp => true
    | .mailbox => bitAt (k.cwRd 273 0x44) 31) then f k
  else k

/-- ERROR with its code. -/
def Pkg.spdmError (k : Pkg) (t : SpdmTransport) (e : Nat) : Pkg := k.spdmAnswer t 0x7F e 0 false []

/-- The certificate chain of slot 0: its length, the root's hash, the product CA's and the device's certificates (R458, R466). -/
def Pkg.certChain (k : Pkg) : List Byte :=
  let certs := k.bu.fuse.caCert ++ k.bu.fuse.devCert
  leBytes 4 (36 + certs.length) ++ digestBytes Config.rootHash ++ certs

/-- Digest of the chain. -/
def Pkg.chainHash (k : Pkg) : List Byte := digestBytes (Config.sha256 k.certChain)

/-- GET_VERSION: 1.2 and 1.3 (R466). -/
def Pkg.spdmVersion (k : Pkg) (t : SpdmTransport) : Pkg :=
  k.spdm t (fun k => (k.onSec (fun x => { x with version := kput x.version 0x13 (transportNo t) 0x13 })).spdmAnswer t 0x04 0 0 false
    ([0, 2] ++ leBytes 2 0x1200 ++ leBytes 2 0x1300))

/-- GET_CAPABILITIES: CERT_CAP, CHAL_CAP, MEAS_CAP with signatures, and CTExponent 16, at the requester's version (R466). -/
def Pkg.spdmCaps (k : Pkg) (t : SpdmTransport) (version : Nat) : Pkg :=
  k.spdm t (fun k =>
    if version ≠ 0x12 ∧ version ≠ 0x13 then k.spdmError t 0x41
    else (k.onSec (fun x => { x with version := kput x.version 0x13 (transportNo t) version })).spdmAnswer t 0x61 0 0 false
      ([0, 16, 0, 0] ++ leBytes 4 0x16 ++ leBytes 4 2048 ++ leBytes 4 2048))

/-- NEGOTIATE_ALGORITHMS: ECDSA P-256 and SHA-256 alone (R466). -/
def Pkg.spdmAlgs (k : Pkg) (t : SpdmTransport) (asym hash : W32) : Pkg :=
  k.spdm t (fun k => k.spdmAnswer t 0x63 0 0 false
    ([1] ++ leBytes 4 2 ++ leBytes 4 (asym.toNat &&& 0x10) ++ leBytes 4 (hash.toNat &&& 1)))

/-- GET_DIGESTS: slot 0 (R466). -/
def Pkg.spdmDigests (k : Pkg) (t : SpdmTransport) : Pkg := k.spdm t (fun k => k.spdmAnswer t 0x01 0 1 false k.chainHash)

/-- GET_CERTIFICATE in portions of at most 1,600 bytes (R466, R469). -/
def Pkg.spdmCert (k : Pkg) (t : SpdmTransport) (slot off len : Nat) : Pkg :=
  k.spdm t (fun k =>
    let c := k.certChain
    if slot ≠ 0 ∨ c.length ≤ off then k.spdmError t 0x01
    else
      let n := min (min len 1600) (c.length - off)
      k.spdmAnswer t 0x02 0 0 false (leBytes 2 n ++ leBytes 2 (c.length - off - n) ++ (c.drop off).take n))

/-- CHALLENGE: signed with the identity key, or UnexpectedRequest while TAINTED (R468). -/
def Pkg.spdmChallenge (k : Pkg) (t : SpdmTransport) (slot : Nat) (nonce : BitVec 256) : Pkg :=
  k.spdm t (fun k =>
    if k.cl.core.tainted then k.spdmError t 0x04
    else if slot ≠ 0 then k.spdmError t 0x01
    else
      let (n, k) := k.drawNonce
      let body := k.chainHash ++ digestBytes n ++ leBytes 2 0
      k.spdmAnswer t 0x03 0 1 true (body ++ (Config.sign (digestBytes nonce ++ body)).take 64))

/-- Value of measurement block i (R467). -/
def Pkg.measurement (k : Pkg) (i : Nat) : Nat × List Byte :=
  match i with
  | 1 => (0x80, leBytes 4 Config.romVersion.toNat ++ [BitVec.ofNat 8 k.bu.fuse.minSvn, BitVec.ofNat 8 k.sec.highest,
      BitVec.ofNat 8 (b2n k.cl.core.tainted), 0])
  | 2 => (0x01, digestBytes k.runDigest)
  | 3 => (0x02, digestBytes k.fuseDigest)
  | 4 => (0x82, [BitVec.ofNat 8 (gradeCode k.cl.core.grade)])
  | _ => (0x03, digestBytes k.fenceDigest)

/-- A measurement block: index, specification, size, type, value size and value. -/
def Pkg.measBlock (k : Pkg) (i : Nat) : List Byte :=
  let (ty, v) := k.measurement i
  [BitVec.ofNat 8 i, 1] ++ leBytes 2 (v.length + 3) ++ [BitVec.ofNat 8 ty] ++ leBytes 2 v.length ++ v

/-- GET_MEASUREMENTS from one snapshot: index 0 the count, 0xFF every block; signed ones are refused while TAINTED (R467,
R468). -/
def Pkg.spdmMeas (k : Pkg) (t : SpdmTransport) (signed : Bool) (index : Nat) (nonce : BitVec 256) : Pkg :=
  k.spdm t (fun k =>
    if signed && k.cl.core.tainted then k.spdmError t 0x04
    else if 5 < index ∧ index ≠ 0xFF then k.spdmError t 0x01
    else
      let l := if index = 0 then [] else if index = 0xFF then [1, 2, 3, 4, 5] else [index]
      let rec_ := l.flatMap k.measBlock
      let head := [BitVec.ofNat 8 l.length] ++ leBytes 3 rec_.length ++ rec_
      let p1 := if index = 0 then 5 else 0
      let (n, k) := k.drawNonce
      let body := head ++ digestBytes n ++ leBytes 2 0
      let sig := if signed then (Config.sign (digestBytes nonce ++ body)).take 64 else []
      k.spdmAnswer t 0x60 p1 0 signed (body ++ sig))

/-! ## The commands of this part -/

/-- TRNG_HEALTH_FAIL (R459). -/
def execTrngHealthFail (s : State) : Out := .next (s.onPkg (·.trngFail))
/-- BYPASS: one bit of delay (R463). -/
def execBypass (tdi : Bool) (s : State) : Out := .next (s.onPkg (·.jtag irBypass [BitVec.ofNat 8 (b2n tdi)]))
/-- IDCODE (R463). -/
def execIdcode (s : State) : Out := .next (s.onPkg (·.jtag irIdcode (leBytes 4 Config.idcode.toNat)))
/-- SAMPLE/PRELOAD: the boundary register is shifted out and preloaded (R463). -/
def execSamplePreload (pins : BitVec 64) (s : State) : Out :=
  .next (s.onPkg (fun k => k.jtag irSample (leBytes 8 k.sec.pins.toNat) (·.onSec (fun x => { x with pins := pins }))))
/-- EXTEST (R463). -/
def execExtest (pins : BitVec 64) (s : State) : Out := .next (s.onPkg (·.extest pins))
/-- DBG_CHAL (R464). -/
def execDbgChal (s : State) : Out := .next (s.onPkg (·.dbgChal))
/-- DBG_RESP (R464). -/
def execDbgResp (r : List Byte) (s : State) : Out := .next (s.onPkg (·.dbgResp r))
/-- DBG_LOCK (R464). -/
def execDbgLock (s : State) : Out := .next (s.onPkg (·.dbgLock))
/-- NONCE_LAPSE (R464). -/
def execNonceLapse (s : State) : Out := .next (s.onPkg (·.nonceLapse))
/-- UNLOCKED_LEVEL_INSTRUCTION (R463). -/
def execUnlockedLevelInstruction (i : LevelInstr) (s : State) : Out := .next (s.onPkg (·.levelInstr i))
/-- GET_VERSION (R466). -/
def execGetVersion (t : SpdmTransport) (s : State) : Out := .next (s.onPkg (·.spdmVersion t))
/-- GET_CAPABILITIES (R466). -/
def execGetCapabilities (t : SpdmTransport) (v : Byte) (s : State) : Out := .next (s.onPkg (·.spdmCaps t v.toNat))
/-- NEGOTIATE_ALGORITHMS (R466). -/
def execNegotiateAlgorithms (t : SpdmTransport) (a h : W32) (s : State) : Out := .next (s.onPkg (·.spdmAlgs t a h))
/-- GET_DIGESTS (R466). -/
def execGetDigests (t : SpdmTransport) (s : State) : Out := .next (s.onPkg (·.spdmDigests t))
/-- GET_CERTIFICATE (R466, R469). -/
def execGetCertificate (t : SpdmTransport) (slot : Byte) (off len : BitVec 16) (s : State) : Out :=
  .next (s.onPkg (·.spdmCert t slot.toNat off.toNat len.toNat))
/-- CHALLENGE (R468). -/
def execChallenge (t : SpdmTransport) (slot : Byte) (nonce : BitVec 256) (s : State) : Out :=
  .next (s.onPkg (·.spdmChallenge t slot.toNat nonce))
/-- GET_MEASUREMENTS (R467). -/
def execGetMeasurements (t : SpdmTransport) (signed : Bool) (index : Byte) (nonce : BitVec 256) (s : State) : Out :=
  .next (s.onPkg (·.spdmMeas t signed index.toNat nonce))

end Sys2Proof.Machine
end

