-- ==== Sys2Proof/Machine/CommandFetch.lean ====
section
/-!
DEFINITION. COMMAND_FETCH (R332–R334): firmware takes the next 64-byte command of a ring, checks its form and begins it.
-/
namespace Sys2Proof.Machine

/-- Whether every word of a command keeps zero in the bits its parameters do not use (R332). -/
def paramsOk (ws : List W64) (masks : List Nat) : Bool :=
  (List.range 7).all (fun i => decide (ws.getD (i + 1) 0 &&& ~~~(BitVec.ofNat 64 (masks.getD i 0)) = 0))

/-- All bits of a parameter word. -/
def full64 : Nat := 2 ^ 64 - 1

/-- Parameter bits of a job command, W1 on; none where the OPC is reserved (R339). -/
def jobParams : Nat → Option (List Nat)
  | 1 => some [full64, 1]
  | 2 => some [full64, full64]
  | 3 | 4 | 5 | 6 | 7 | 0xA => some []
  | 8 => some [full64, 1]
  | 9 => some [full64]
  | 0xB => some [full64, 0x7F]
  | 0xC => some [full64]
  | _ => none

/-- Parameter bits of a device command; none where the OPC is reserved (R341). -/
def devParams : Nat → Option (List Nat)
  | 0x20 => some []
  | 0x21 | 0x22 => some [0xFFFFFF00]
  | 0x23 => some [full64, full64]
  | 0x24 => some [full64]
  | 0x25 => some [full64, 0xFE000000, 0xFFFFFFFF, 0x3FFFFFFF3FFFFFFF]
  | 0x26 => some [0x80000000FFFFFFFF, full64, full64]
  | 0x27 => some [0xFFFF]
  | 0x28 => some [0xFFFFFFFF, full64]
  | 0x29 | 0x2A | 0x2C | 0x2E => some [full64]
  | 0x2B | 0x2D => some [full64, full64]
  | _ => none

/-- A job command begins (R339). -/
def Pkg.jobBegin (k : Pkg) (j opc : Nat) (tag : W32) (ws : List W64) : Pkg :=
  let w1 := ws.getD 1 0
  let w2 := ws.getD 2 0
  match opc with
  | 1 => k.jobCreate j tag w1 (bitAt w2 0)
  | 2 => k.jobLoad j tag w1.toNat w2.toNat
      (if w1.toNat < dpaHost then [] else k.hostMem (w1.toNat - dpaHost) w2.toNat)
  | 3 => k.jobStart j tag
  | 4 => k.jobSuspend j tag
  | 5 => k.jobResume j tag
  | 6 => k.jobStop j tag
  | 7 => k.jobAbort j tag
  | 8 => k.jobCheckpoint j tag w1.toNat (bitAt w2 0)
  | 9 => k.jobRestore j tag w1.toNat
  | 0xA => k.jobDestroy j tag
  | 0xB => k.alloc j tag w1.toNat (bitsAt w2 0 2) (bitsAt w2 2 5)
  | _ => k.free j tag w1.toNat

/-- An entry of a drill plan in host memory (R376). -/
def drillEntry (l : List Byte) : DrillEntry :=
  { place := BitVec.ofNat 32 (leAt l 0 4), page := BitVec.ofNat 16 (leAt l 4 2), bit := BitVec.ofNat 8 (leAt l 6 1),
    arg := BitVec.ofNat 8 (leAt l 7 1), first := BitVec.ofNat 64 (leAt l 8 8), interval := BitVec.ofNat 32 (leAt l 16 4),
    count := BitVec.ofNat 16 (leAt l 20 2), flags := BitVec.ofNat 8 (leAt l 22 1), tail := BitVec.ofNat 72 (leAt l 23 9) }

/-- DRILL_SET with its plan read from host memory (R376). -/
def Pkg.drillBegin (k : Pkg) (tag : W32) (a : Nat) : Pkg :=
  let head := k.hostMem a 16
  let n := leAt head 0 2
  let entries := if 256 < n then [] else (List.range n).map (fun i => drillEntry (k.hostMem (a + 16 + 32 * i) 32))
  k.drillSetCmd tag n (BitVec.ofNat 112 (leAt head 2 14)) entries

/-- A device command begins (R341). GROUP_SET and ROUTE_SET run until their contents, whose layout in host memory the spec
does not give, come with their own commands (log entry 36). -/
def Pkg.devBegin (k : Pkg) (opc : Nat) (tag : W32) (ws : List W64) : Pkg :=
  let w1 := ws.getD 1 0
  let w2 := ws.getD 2 0
  match opc with
  | 0x20 => k.nopCmd tag
  | 0x21 => k.setNodeCmd tag (bitsAt w1 16 16) (bitsAt w1 8 8)
  | 0x22 => k.takeoverCmd tag (bitsAt w1 16 16) (bitsAt w1 8 8)
  | 0x23 => k.devCmd 0x23 tag [2, 3, 4] true (·.cmdRun 15 0x23 15 tag)
  | 0x24 => k.devCmd 0x24 tag [2, 3] (decide (k.cl.core.rd8 pageFbPkg 0x50 = 0)) (·.cmdRun 15 0x24 15 tag)
  | 0x25 => k.windowSetCmd tag w1.toNat w2 (ws.getD 3 0) (ws.getD 4 0)
  | 0x26 => k.attachSetCmd tag w1 w2.toNat (ws.getD 3 0).toNat
  | 0x27 => k.stopGroupCmd tag w1.toNat
  | 0x28 => k.diagCmd tag w1.toNat w2.toNat
  | 0x29 =>
    match w1.toNat with
    | 0 => k.runningCmd tag
    | 1 => k.idleCmd tag
    | 2 => k.laidUpCmd tag
    | _ => k.devInvalid 0x29 tag
  | 0x2A => k.powerCapCmd tag w1.toNat
  | 0x2B =>
    match w1.toNat with
    | 0 => if w2 = 0 then k.resetCmd 0 tag else k.devInvalid 0x2B tag
    | 1 => k.resetDieCmd w2.toNat tag
    | 2 => if w2 = 0 then k.resetCmd 2 tag else k.devInvalid 0x2B tag
    | _ => k.devInvalid 0x2B tag
  | 0x2C => k.trainRecordCmd tag w1.toNat
  | 0x2D => k.fwExchange tag w2.toNat (if w2.toNat ≤ 2 ^ 24 then k.hostMem w1.toNat w2.toNat else [])
  | _ => k.drillBegin tag w1.toNat

/-- A fetched command is checked and begins, or ends INVALID (R334). -/
def Pkg.fetched (k : Pkg) (j : Nat) (ws : List W64) : Pkg :=
  let w0 := ws.getD 0 0
  let opc := bitsAt w0 56 8
  let tag : W32 := BitVec.ofNat 32 (bitsAt w0 0 32)
  let params := if j = 15 then devParams opc else jobParams opc
  let bad : Bool := decide (bitsAt w0 52 4 ≠ j ∨ bitsAt w0 32 20 ≠ 0) || (match params with
    | some m => !paramsOk ws m
    | none => true)
  if bad then k.cmdReject j opc j tag stInvalid (if j = 15 then k.devState else k.jobState j)
  else if j = 15 then k.devBegin opc tag ws
  else k.jobBegin j opc tag ws

/-- COMMAND_FETCH: while the ring is enabled and holds a command, and none of its commands runs; AT_SQ_HEAD advances (R333). -/
def Pkg.commandFetch (k : Pkg) (j : Nat) (ws : List W64) : Pkg :=
  let head := bitsAt (k.cwRd 3 (0x80 + 4 * j)) 0 16
  if k.upC k.sb = false ∨ k.ringOn j = false ∨ head = (k.ringS j).tail ∨ k.att.cmds.any (fun c => decide (c.ring = j)) = true ∨
      (k.link salLink).step ≠ .up then k
  else (k.cwWr 3 (0x80 + 4 * j) (BitVec.ofNat 32 ((head + 1) % k.sqSize j))).fetched j ws

/-! ## The commands of this part -/

/-- COMMAND_FETCH (R333). -/
def execCommandFetch (j : Fin 16) (ws : List W64) (s : State) : Out := .next (s.onPkg (·.commandFetch j.val ws))

end Sys2Proof.Machine
end

