-- ==== Sys2Proof/Machine/Dispatch.lean ====
section
/-!
DEFINITION. The effect of a command: one arm per constructor, each one direct call of its meaning.
-/
namespace Sys2Proof.Machine

/-- The effect of a command on everything but the queue. -/
def exec (i : Instr) (s : State) : Host.Outcome State Fault Refusal :=
  match i with
  | .departure part => Sys2Proof.Machine.execDeparture part s
  | .regionClockGate rg => Sys2Proof.Machine.execRegionClockGate rg s
  | .closeJudgement part => Sys2Proof.Machine.execCloseJudgement part s
  | .closeEnd part => Sys2Proof.Machine.execCloseEnd part s
  | .commit part => Sys2Proof.Machine.execCommit part s
  | .guardSignalSend part => Sys2Proof.Machine.execGuardSignalSend part s
  | .pointsSwap => Sys2Proof.Machine.execPointsSwap s
  | .throughRebind => Sys2Proof.Machine.execThroughRebind s
  | .guardClockStep => Sys2Proof.Machine.execGuardClockStep s
  | .timePinFall pin => Sys2Proof.Machine.execTimePinFall pin s
  | .ttLockstep rg => Sys2Proof.Machine.execTtLockstep rg s
  | .circStart rg circ => Sys2Proof.Machine.execCircStart rg circ s
  | .circStop rg circ => Sys2Proof.Machine.execCircStop rg circ s
  | .circSuspend rg circ => Sys2Proof.Machine.execCircSuspend rg circ s
  | .circResume rg circ => Sys2Proof.Machine.execCircResume rg circ s
  | .circAbort rg circ => Sys2Proof.Machine.execCircAbort rg circ s
  | .entryWrite rg entry words => Sys2Proof.Machine.execEntryWrite rg entry words s
  | .postArrive rg ctr value => Sys2Proof.Machine.execPostArrive rg ctr value s
  | .remoteReleaseArrive c st reg granules job => Sys2Proof.Machine.execRemoteReleaseArrive c st reg granules job s
  | .turnChange ending beginning => Sys2Proof.Machine.execTurnChange ending beginning s
  | .mload c m => Sys2Proof.Machine.execMload c m s
  | .mloadComplete c m => Sys2Proof.Machine.execMloadComplete c m s
  | .mma c m => Sys2Proof.Machine.execMma c m s
  | .mmas c m => Sys2Proof.Machine.execMmas c m s
  | .mdrain c m => Sys2Proof.Machine.execMdrain c m s
  | .msync c m => Sys2Proof.Machine.execMsync c m s
  | .mchk c m => Sys2Proof.Machine.execMchk c m s
  | .outputRowArrive c src => Sys2Proof.Machine.execOutputRowArrive c src s
  | .rowCheck c m => Sys2Proof.Machine.execRowCheck c m s
  | .mcMarginClr c m => Sys2Proof.Machine.execMcMarginClr c m s
  | .mcCapClr c m => Sys2Proof.Machine.execMcCapClr c m s
  | .mcCntClr c m => Sys2Proof.Machine.execMcCntClr c m s
  | .mcSgClear c m => Sys2Proof.Machine.execMcSgClear c m s
  | .arrayFlip c m => Sys2Proof.Machine.execArrayFlip c m s
  | .checkFlip c m => Sys2Proof.Machine.execCheckFlip c m s
  | .vop c v => Sys2Proof.Machine.execVop c v s
  | .vld c v => Sys2Proof.Machine.execVld c v s
  | .vst c v => Sys2Proof.Machine.execVst c v s
  | .vgath c v => Sys2Proof.Machine.execVgath c v s
  | .vscat c v => Sys2Proof.Machine.execVscat c v s
  | .vsync c v => Sys2Proof.Machine.execVsync c v s
  | .lockstepMismatch c u => Sys2Proof.Machine.execLockstepMismatch c u s
  | .lsFlip c u => Sys2Proof.Machine.execLsFlip c u s
  | .tstlo c rs1 => Sys2Proof.Machine.execTstlo c rs1 s
  | .tsthi c rs1 => Sys2Proof.Machine.execTsthi c rs1 s
  | .tfld c rs1 pos lenM1 => Sys2Proof.Machine.execTfld c rs1 pos lenM1 s
  | .tissue c unit => Sys2Proof.Machine.execTissue c unit s
  | .ttry c rd unit => Sys2Proof.Machine.execTtry c rd unit s
  | .tqdepth c rd unit => Sys2Proof.Machine.execTqdepth c rd unit s
  | .queueRoomResume c => Sys2Proof.Machine.execQueueRoomResume c s
  | .msend c rs1 rs2 => Sys2Proof.Machine.execMsend c rs1 rs2 s
  | .msendt c rs1 rs2 => Sys2Proof.Machine.execMsendt c rs1 rs2 s
  | .msendnb c rd rs1 rs2 => Sys2Proof.Machine.execMsendnb c rd rs1 rs2 s
  | .msendtnb c rd rs1 rs2 => Sys2Proof.Machine.execMsendtnb c rd rs1 rs2 s
  | .blockingSendResume c => Sys2Proof.Machine.execBlockingSendResume c s
  | .tsig c rs1 => Sys2Proof.Machine.execTsig c rs1 s
  | .twaitc c rs1 rs2 => Sys2Proof.Machine.execTwaitc c rs1 rs2 s
  | .syncCounterResume c w => Sys2Proof.Machine.execSyncCounterResume c w s
  | .tend c => Sys2Proof.Machine.execTend c s
  | .mret c => Sys2Proof.Machine.execMret c s
  | .tbarrive c rs1 => Sys2Proof.Machine.execTbarrive c rs1 s
  | .throughArriveResume c => Sys2Proof.Machine.execThroughArriveResume c s
  | .tbwait c rd rs1 => Sys2Proof.Machine.execTbwait c rd rs1 s
  | .tbset c rs1 rs2 => Sys2Proof.Machine.execTbset c rs1 rs2 s
  | .tbread c rd rs1 => Sys2Proof.Machine.execTbread c rd rs1 s
  | .tabletTargetWrite g t target => Sys2Proof.Machine.execTabletTargetWrite g t target s
  | .windowLoad c rd rs1 imm funct3 => Sys2Proof.Machine.execWindowLoad c rd rs1 imm funct3 s
  | .windowStore c rs1 rs2 imm funct3 => Sys2Proof.Machine.execWindowStore c rs1 rs2 imm funct3 s
  | .fence c => Sys2Proof.Machine.execFence c s
  | .csrRead c rd csr => Sys2Proof.Machine.execCsrRead c rd csr s
  | .ecall c => Sys2Proof.Machine.execEcall c s
  | .ebreak c => Sys2Proof.Machine.execEbreak c s
  | .illegalInstruction c => Sys2Proof.Machine.execIllegalInstruction c s
  | .saload c => Sys2Proof.Machine.execSaload c s
  | .saloadComplete c => Sys2Proof.Machine.execSaloadComplete c s
  | .sasel c => Sys2Proof.Machine.execSasel c s
  | .configSelectDone x => Sys2Proof.Machine.execConfigSelectDone x s
  | .sabind c => Sys2Proof.Machine.execSabind c s
  | .sarun c => Sys2Proof.Machine.execSarun c s
  | .sasync c => Sys2Proof.Machine.execSasync c s
  | .tileFire c tile => Sys2Proof.Machine.execTileFire c tile s
  | .stepUnitResult c tile => Sys2Proof.Machine.execStepUnitResult c tile s
  | .passComplete c => Sys2Proof.Machine.execPassComplete c s
  | .saStall c => Sys2Proof.Machine.execSaStall c s
  | .saLockstep c tile what => Sys2Proof.Machine.execSaLockstep c tile what s
  | .bpClr c => Sys2Proof.Machine.execBpClr c s
  | .stallClr c => Sys2Proof.Machine.execStallClr c s
  | .saCapClr c => Sys2Proof.Machine.execSaCapClr c s
  | .aluFlip c tile => Sys2Proof.Machine.execAluFlip c tile s
  | .parityFlip c tile => Sys2Proof.Machine.execParityFlip c tile s
  | .regionDescriptorWrite c st reg words => Sys2Proof.Machine.execRegionDescriptorWrite c st reg words s
  | .fill rg slot desc => Sys2Proof.Machine.execFill rg slot desc s
  | .copy rg slot desc => Sys2Proof.Machine.execCopy rg slot desc s
  | .copyAcc rg slot desc => Sys2Proof.Machine.execCopyAcc rg slot desc s
  | .storeOpComplete rg slot desc => Sys2Proof.Machine.execStoreOpComplete rg slot desc s
  | .scrubRead c st => Sys2Proof.Machine.execScrubRead c st s
  | .scrubCtrlWrite c st value => Sys2Proof.Machine.execScrubCtrlWrite c st value s
  | .homeFlush c st reg => Sys2Proof.Machine.execHomeFlush c st reg s
  | .xstCntClr c st => Sys2Proof.Machine.execXstCntClr c st s
  | .xstCapClr c st => Sys2Proof.Machine.execXstCapClr c st s
  | .bankClr c st => Sys2Proof.Machine.execBankClr c st s
  | .stCeFlip c st bank => Sys2Proof.Machine.execStCeFlip c st bank s
  | .stUeFlip c st bank => Sys2Proof.Machine.execStUeFlip c st bank s
  | .read pk => Sys2Proof.Machine.execRead pk s
  | .write pk => Sys2Proof.Machine.execWrite pk s
  | .readReply pk => Sys2Proof.Machine.execReadReply pk s
  | .completion pk => Sys2Proof.Machine.execCompletion pk s
  | .groupMcast pk => Sys2Proof.Machine.execGroupMcast pk s
  | .maskMcast pk => Sys2Proof.Machine.execMaskMcast pk s
  | .flitCrcError f => Sys2Proof.Machine.execFlitCrcError f s
  | .refusalNotice n => Sys2Proof.Machine.execRefusalNotice n s
  | .lnNoProgress g link => Sys2Proof.Machine.execLnNoProgress g link s
  | .bridgeLaneRepair g link => Sys2Proof.Machine.execBridgeLaneRepair g link s
  | .lineClearArm tick => Sys2Proof.Machine.execLineClearArm tick s
  | .lineClearHold => Sys2Proof.Machine.execLineClearHold s
  | .lineClearArrive participant => Sys2Proof.Machine.execLineClearArrive participant s
  | .routeDrainArrive participant => Sys2Proof.Machine.execRouteDrainArrive participant s
  | .lnCntClr g => Sys2Proof.Machine.execLnCntClr g s
  | .crcFlip g link => Sys2Proof.Machine.execCrcFlip g link s
  | .retryKill g link => Sys2Proof.Machine.execRetryKill g link s
  | .epochFlip g link => Sys2Proof.Machine.execEpochFlip g link s
  | .messageArrive m => Sys2Proof.Machine.execMessageArrive m s
  | .heldMessagePlace c => Sys2Proof.Machine.execHeldMessagePlace c s
  | .dropNotice n => Sys2Proof.Machine.execDropNotice n s
  | .handlerDispatch c => Sys2Proof.Machine.execHandlerDispatch c s
  | .msgStall c => Sys2Proof.Machine.execMsgStall c s
  | .channelWrite c ch words => Sys2Proof.Machine.execChannelWrite c ch words s
  | .msgCntClr c => Sys2Proof.Machine.execMsgCntClr c s
  | .fenceDrop c => Sys2Proof.Machine.execFenceDrop c s
  | .move rg slot desc => Sys2Proof.Machine.execMove rg slot desc s
  | .mcast rg slot desc => Sys2Proof.Machine.execMcast rg slot desc s
  | .dmaMaskMcast rg slot desc => Sys2Proof.Machine.execDmaMaskMcast rg slot desc s
  | .descriptorComplete rg slot desc => Sys2Proof.Machine.execDescriptorComplete rg slot desc s
  | .patrolScrub h pc => Sys2Proof.Machine.execPatrolScrub h pc s
  | .hbRehomeGo h value => Sys2Proof.Machine.execHbRehomeGo h value s
  | .rehomeSwap h => Sys2Proof.Machine.execRehomeSwap h s
  | .pcFault h pc fallbackFails => Sys2Proof.Machine.execPcFault h pc fallbackFails s
  | .marginMeasure h pc rdMargin wrMargin => Sys2Proof.Machine.execMarginMeasure h pc rdMargin wrMargin s
  | .refresh h => Sys2Proof.Machine.execRefresh h s
  | .cowBufferDrain h pc => Sys2Proof.Machine.execCowBufferDrain h pc s
  | .cutComplete job => Sys2Proof.Machine.execCutComplete job s
  | .hbCntClr h => Sys2Proof.Machine.execHbCntClr h s
  | .hbCapClr h => Sys2Proof.Machine.execHbCapClr h s
  | .hbCeFlip h pc => Sys2Proof.Machine.execHbCeFlip h pc s
  | .hbUeFlip h pc => Sys2Proof.Machine.execHbUeFlip h pc s
  | .fallback h pc => Sys2Proof.Machine.execFallback h pc s
  | .trainingCodeWord l w => Sys2Proof.Machine.execTrainingCodeWord l w s
  | .trainingStepComplete l goodLanes => Sys2Proof.Machine.execTrainingStepComplete l goodLanes s
  | .trainingLimit l => Sys2Proof.Machine.execTrainingLimit l s
  | .redetect p present => Sys2Proof.Machine.execRedetect p present s
  | .alignmentCodeWord l w => Sys2Proof.Machine.execAlignmentCodeWord l w s
  | .codeWordReceive l lane lseq quality => Sys2Proof.Machine.execCodeWordReceive l lane lseq quality s
  | .linkControlFlit l f => Sys2Proof.Machine.execLinkControlFlit l f s
  | .laneDrop l lane => Sys2Proof.Machine.execLaneDrop l lane s
  | .laneRejoin l lane => Sys2Proof.Machine.execLaneRejoin l lane s
  | .hello p h => Sys2Proof.Machine.execHello p h s
  | .helloAck p => Sys2Proof.Machine.execHelloAck p s
  | .helloTimer p => Sys2Proof.Machine.execHelloTimer p s
  | .helloTimeout p => Sys2Proof.Machine.execHelloTimeout p s
  | .bye p => Sys2Proof.Machine.execBye p s
  | .nak p f => Sys2Proof.Machine.execNak p f s
  | .quarantineBackoffEnd p => Sys2Proof.Machine.execQuarantineBackoffEnd p s
  | .wr p f => Sys2Proof.Machine.execWr p f s
  | .wrCpl p f => Sys2Proof.Machine.execWrCpl p f s
  | .rd p f => Sys2Proof.Machine.execRd p f s
  | .rdRpl p f => Sys2Proof.Machine.execRdRpl p f s
  | .collData p f => Sys2Proof.Machine.execCollData p f s
  | .collDig p f => Sys2Proof.Machine.execCollDig p f s
  | .collAck p f => Sys2Proof.Machine.execCollAck p f s
  | .collTimeout q entry => Sys2Proof.Machine.execCollTimeout q entry s
  | .stop p f => Sys2Proof.Machine.execStop p f s
  | .stopAbort fgroup => Sys2Proof.Machine.execStopAbort fgroup s
  | .ltArrive p f => Sys2Proof.Machine.execLtArrive p f s
  | .ltDone p f => Sys2Proof.Machine.execLtDone p f s
  | .timeSync p t => Sys2Proof.Machine.execTimeSync p t s
  | .timeReq p t => Sys2Proof.Machine.execTimeReq p t s
  | .timeRsp p t => Sys2Proof.Machine.execTimeRsp p t s
  | .timeReqTimer => Sys2Proof.Machine.execTimeReqTimer s
  | .timeMasterTimeout => Sys2Proof.Machine.execTimeMasterTimeout s
  | .takeoverAnn p f => Sys2Proof.Machine.execTakeoverAnn p f s
  | .drainDone p f => Sys2Proof.Machine.execDrainDone p f s
  | .fbNodeWrite value => Sys2Proof.Machine.execFbNodeWrite value s
  | .retrain p => Sys2Proof.Machine.execRetrain p s
  | .unquarantine p => Sys2Proof.Machine.execUnquarantine p s
  | .fbCntClr p => Sys2Proof.Machine.execFbCntClr p s
  | .fbCwUe p => Sys2Proof.Machine.execFbCwUe p s
  | .laneKill p => Sys2Proof.Machine.execLaneKill p s
  | .vsumFlip p => Sys2Proof.Machine.execVsumFlip p s
  | .salRetry => Sys2Proof.Machine.execSalRetry s
  | .rdShared m => Sys2Proof.Machine.execRdShared m s
  | .rdOwn m => Sys2Proof.Machine.execRdOwn m s
  | .rdUncached m => Sys2Proof.Machine.execRdUncached m s
  | .wrFull m => Sys2Proof.Machine.execWrFull m s
  | .wrPartial m => Sys2Proof.Machine.execWrPartial m s
  | .wb m => Sys2Proof.Machine.execWb m s
  | .evict m => Sys2Proof.Machine.execEvict m s
  | .snpInv m => Sys2Proof.Machine.execSnpInv m s
  | .snpShare m => Sys2Proof.Machine.execSnpShare m s
  | .cmp m => Sys2Proof.Machine.execCmp m s
  | .grantS m => Sys2Proof.Machine.execGrantS m s
  | .grantE m => Sys2Proof.Machine.execGrantE m s
  | .snpI m => Sys2Proof.Machine.execSnpI m s
  | .snpS m => Sys2Proof.Machine.execSnpS m s
  | .line m => Sys2Proof.Machine.execLine m s
  | .atSnpTimeout txn => Sys2Proof.Machine.execAtSnpTimeout txn s
  | .atCplTimeout txn => Sys2Proof.Machine.execAtCplTimeout txn s
  | .emulatedWrite page off size data => Sys2Proof.Machine.execEmulatedWrite page off size data s
  | .logApply => Sys2Proof.Machine.execLogApply s
  | .secMbxGo => Sys2Proof.Machine.execSecMbxGo s
  | .shadowRefresh page => Sys2Proof.Machine.execShadowRefresh page s
  | .doorbell ring tail => Sys2Proof.Machine.execDoorbell ring tail s
  | .commandFetch ring words => Sys2Proof.Machine.execCommandFetch ring words s
  | .jobCreate job tag seed allowTurns => Sys2Proof.Machine.execJobCreate job tag seed allowTurns s
  | .jobLoad job tag addr len image => Sys2Proof.Machine.execJobLoad job tag addr len image s
  | .jobStart job tag => Sys2Proof.Machine.execJobStart job tag s
  | .jobSuspend job tag => Sys2Proof.Machine.execJobSuspend job tag s
  | .jobResume job tag => Sys2Proof.Machine.execJobResume job tag s
  | .jobStop job tag => Sys2Proof.Machine.execJobStop job tag s
  | .jobAbort job tag => Sys2Proof.Machine.execJobAbort job tag s
  | .jobCheckpoint job tag target group => Sys2Proof.Machine.execJobCheckpoint job tag target group s
  | .jobRestore job tag addr => Sys2Proof.Machine.execJobRestore job tag addr s
  | .jobDestroy job tag => Sys2Proof.Machine.execJobDestroy job tag s
  | .alloc job tag bytes mode set => Sys2Proof.Machine.execAlloc job tag bytes mode set s
  | .free job tag dpa => Sys2Proof.Machine.execFree job tag dpa s
  | .nop tag => Sys2Proof.Machine.execNop tag s
  | .setNode tag node inc => Sys2Proof.Machine.execSetNode tag node inc s
  | .takeover tag node lostInc => Sys2Proof.Machine.execTakeover tag node lostInc s
  | .groupSet tag index fgroup job rank members => Sys2Proof.Machine.execGroupSet tag index fgroup job rank members s
  | .routeSet tag entries => Sys2Proof.Machine.execRouteSet tag entries s
  | .windowSet tag window w2 w3 w4 => Sys2Proof.Machine.execWindowSet tag window w2 w3 w4 s
  | .attachSet tag window dpa bytes => Sys2Proof.Machine.execAttachSet tag window dpa bytes s
  | .stopGroup tag fgroup => Sys2Proof.Machine.execStopGroup tag fgroup s
  | .diagRun tag place testSet => Sys2Proof.Machine.execDiagRun tag place testSet s
  | .powerStateRunning tag => Sys2Proof.Machine.execPowerStateRunning tag s
  | .powerStateIdle tag => Sys2Proof.Machine.execPowerStateIdle tag s
  | .powerStateLaidUp tag => Sys2Proof.Machine.execPowerStateLaidUp tag s
  | .powerCap tag watts => Sys2Proof.Machine.execPowerCap tag watts s
  | .resetComputeDomain tag => Sys2Proof.Machine.execResetComputeDomain tag s
  | .resetDie tag die => Sys2Proof.Machine.execResetDie tag die s
  | .resetFullRecovery tag => Sys2Proof.Machine.execResetFullRecovery tag s
  | .trainRecord tag addr => Sys2Proof.Machine.execTrainRecord tag addr s
  | .fwExchange tag addr len image => Sys2Proof.Machine.execFwExchange tag addr len image s
  | .drillSet tag count reserved entries => Sys2Proof.Machine.execDrillSet tag count reserved entries s
  | .hostCompletionRecord h => Sys2Proof.Machine.execHostCompletionRecord h s
  | .errorRecord r => Sys2Proof.Machine.execErrorRecord r s
  | .forceTbusy => Sys2Proof.Machine.execForceTbusy s
  | .snpMute => Sys2Proof.Machine.execSnpMute s
  | .atCwUe => Sys2Proof.Machine.execAtCwUe s
  | .clusterRelief c => Sys2Proof.Machine.execClusterRelief c s
  | .copierComplete rg => Sys2Proof.Machine.execCopierComplete rg s
  | .dieRelief g => Sys2Proof.Machine.execDieRelief g s
  | .rotationStart rg => Sys2Proof.Machine.execRotationStart rg s
  | .rotationPrepTimeout rg => Sys2Proof.Machine.execRotationPrepTimeout rg s
  | .testSliceEnd c passed where_ => Sys2Proof.Machine.execTestSliceEnd c passed where_ s
  | .rotateNow rg cluster => Sys2Proof.Machine.execRotateNow rg cluster s
  | .abortRot rg => Sys2Proof.Machine.execAbortRot rg s
  | .biCntClr rg => Sys2Proof.Machine.execBiCntClr rg s
  | .biCapClr rg => Sys2Proof.Machine.execBiCapClr rg s
  | .biMirrorWrite rg value => Sys2Proof.Machine.execBiMirrorWrite rg value s
  | .biFenceWrite rg value => Sys2Proof.Machine.execBiFenceWrite rg value s
  | .pilotFlip rg => Sys2Proof.Machine.execPilotFlip rg s
  | .sliceFlip rg => Sys2Proof.Machine.execSliceFlip rg s
  | .drillInjection entry => Sys2Proof.Machine.execDrillInjection entry s
  | .vauxRise => Sys2Proof.Machine.execVauxRise s
  | .pgoodAssert group => Sys2Proof.Machine.execPgoodAssert group s
  | .pgoodTimeout rail mV => Sys2Proof.Machine.execPgoodTimeout rail mV s
  | .pgoodDeassert rail mV => Sys2Proof.Machine.execPgoodDeassert rail mV s
  | .analogSliceEnd slice passed badObjects => Sys2Proof.Machine.execAnalogSliceEnd slice passed badObjects s
  | .fwlGo => Sys2Proof.Machine.execFwlGo s
  | .fwlVerifyDone image => Sys2Proof.Machine.execFwlVerifyDone image s
  | .startupTestEnd badUnits concourseFail => Sys2Proof.Machine.execStartupTestEnd badUnits concourseFail s
  | .hbmTrainingPhaseEnd phase throttled results temps power => Sys2Proof.Machine.execHbmTrainingPhaseEnd phase throttled results temps power s
  | .fabricTrainingEnd => Sys2Proof.Machine.execFabricTrainingEnd s
  | .hbmWaveEnd q pages margins => Sys2Proof.Machine.execHbmWaveEnd q pages margins s
  | .waveTimeout q => Sys2Proof.Machine.execWaveTimeout q s
  | .quadrantJoin q => Sys2Proof.Machine.execQuadrantJoin q s
  | .resetN temps => Sys2Proof.Machine.execResetN temps s
  | .resetNHold => Sys2Proof.Machine.execResetNHold s
  | .fwCrash c cause pc => Sys2Proof.Machine.execFwCrash c cause pc s
  | .heartbeatMiss c => Sys2Proof.Machine.execHeartbeatMiss c s
  | .fwRestart c digestOk journalOk => Sys2Proof.Machine.execFwRestart c digestOk journalOk s
  | .fwTakeover => Sys2Proof.Machine.execFwTakeover s
  | .exchangeSwitch => Sys2Proof.Machine.execExchangeSwitch s
  | .probationEnd => Sys2Proof.Machine.execProbationEnd s
  | .ttProgressCheck rg => Sys2Proof.Machine.execTtProgressCheck rg s
  | .hangResponse e => Sys2Proof.Machine.execHangResponse e s
  | .heartbeatAdvance => Sys2Proof.Machine.execHeartbeatAdvance s
  | .dumpAccessTimeout place => Sys2Proof.Machine.execDumpAccessTimeout place s
  | .dumpLimitExpiry => Sys2Proof.Machine.execDumpLimitExpiry s
  | .dumpComplete => Sys2Proof.Machine.execDumpComplete s
  | .recoveryPhase => Sys2Proof.Machine.execRecoveryPhase s
  | .resetEscalate => Sys2Proof.Machine.execResetEscalate s
  | .recoveryTimeout => Sys2Proof.Machine.execRecoveryTimeout s
  | .hbStop c => Sys2Proof.Machine.execHbStop c s
  | .powerCapLoop power => Sys2Proof.Machine.execPowerCapLoop power s
  | .thermalLoop readings references => Sys2Proof.Machine.execThermalLoop readings references s
  | .thermtrip sensor reading => Sys2Proof.Machine.execThermtrip sensor reading s
  | .pllUnlock q => Sys2Proof.Machine.execPllUnlock q s
  | .regulatorFault rg => Sys2Proof.Machine.execRegulatorFault rg s
  | .wakeStepDone => Sys2Proof.Machine.execWakeStepDone s
  | .wakeTimeout => Sys2Proof.Machine.execWakeTimeout s
  | .pwCntClr => Sys2Proof.Machine.execPwCntClr s
  | .tempBias sensor => Sys2Proof.Machine.execTempBias sensor s
  | .trngHealthFail => Sys2Proof.Machine.execTrngHealthFail s
  | .bypass tdi => Sys2Proof.Machine.execBypass tdi s
  | .idcode => Sys2Proof.Machine.execIdcode s
  | .samplePreload pins => Sys2Proof.Machine.execSamplePreload pins s
  | .extest pins => Sys2Proof.Machine.execExtest pins s
  | .dbgChal => Sys2Proof.Machine.execDbgChal s
  | .dbgResp resp => Sys2Proof.Machine.execDbgResp resp s
  | .dbgLock => Sys2Proof.Machine.execDbgLock s
  | .nonceLapse => Sys2Proof.Machine.execNonceLapse s
  | .getVersion t => Sys2Proof.Machine.execGetVersion t s
  | .getCapabilities t version => Sys2Proof.Machine.execGetCapabilities t version s
  | .negotiateAlgorithms t asym hash => Sys2Proof.Machine.execNegotiateAlgorithms t asym hash s
  | .getDigests t => Sys2Proof.Machine.execGetDigests t s
  | .getCertificate t slot offset length => Sys2Proof.Machine.execGetCertificate t slot offset length s
  | .challenge t slot nonce => Sys2Proof.Machine.execChallenge t slot nonce s
  | .getMeasurements t signed index nonce => Sys2Proof.Machine.execGetMeasurements t signed index nonce s
  | .errClr page => Sys2Proof.Machine.execErrClr page s
  | .firstClr page => Sys2Proof.Machine.execFirstClr page s
  | .evtClr page => Sys2Proof.Machine.execEvtClr page s
  | .memoryWindowWrite page off size data => Sys2Proof.Machine.execMemoryWindowWrite page off size data s
  | .registerWrite page off size data => Sys2Proof.Machine.execRegisterWrite page off size data s
  | .rv64imcInstruction c => Sys2Proof.Machine.execRv64imcInstruction c s
  | .timeTickLoRead => Sys2Proof.Machine.execTimeTickLoRead s
  | .vauxFall => Sys2Proof.Machine.execVauxFall s
  | .resetNAssert => Sys2Proof.Machine.execResetNAssert s
  | .bringupStepLimit step => Sys2Proof.Machine.execBringupStepLimit step s
  | .unlockedLevelInstruction i1 => Sys2Proof.Machine.execUnlockedLevelInstruction i1 s

end Sys2Proof.Machine
end

