-- ==== Sys2Proof/Machine/Step.lean ====
section
/-!
DEFINITION. One step: the command at the front of the queue takes its effect; with no command waiting, a cycle passes.
-/
namespace Sys2Proof.Machine

/-- The command at the front of the queue, on the state with the rest of the queue; on an empty queue one cycle passes (log
entry 1). -/
def step (s : State) : Host.Outcome State Fault Refusal :=
  match s.pending with
  | [] => .next (s.onClus (·.onCore (·.idle)))
  | c :: rest => exec c { s with pending := rest }

/-- The state with the command that a table word spells at the front of its queue. The table gives no bits to any row, so no
word spells a command (log entry 2). -/
def State.withFetchWord (s : State) (nbits w : Nat) : State :=
  match decodeTableWord nbits w with
  | some c => { s with pending := c :: s.pending }
  | none => s

end Sys2Proof.Machine
end

