-- ==== Sys2Proof/WellFormed.lean ====
section
/-!
DEFINITION. Well-formed commands: what the operands of a command keep between them where their types do not say it.
-/
namespace Sys2Proof

/-- A packet's payload is absent or holds CHUNKS × 64 bytes (R208). -/
def Packet.wf (p : Packet) : Bool := decide (p.payload = [] ∨ p.payload.length = 64 * p.chunks.toNat)

/-- A frame's payload holds at most 32 chunks, and exactly CHUNKS × 64 bytes or none (R288). -/
def Frame.wf (f : Frame) : Bool :=
  decide (f.payload = [] ∨ f.payload.length = 64 * f.chunks.toNat) && decide (f.chunks.toNat ≤ 32)

/-- A message carries 1 to 8 words (R239). -/
def Message.wf (m : Message) : Bool := decide (1 ≤ m.words.length ∧ m.words.length ≤ 8)

/-- A message of the Attach Link carries no data or one line of 64 bytes (R320). -/
def SalMsg.wf (m : SalMsg) : Bool := decide (m.data = [] ∨ m.data.length = 64)

/-- Whether a command's operands fit together. -/
def Instr.wf : Instr → Bool
  | .entryWrite _ _ ws => decide (ws.length = 32)
  | .regionDescriptorWrite _ _ _ ws => decide (ws.length = 8)
  | .channelWrite _ _ ws => decide (ws.length = 8)
  | .commandFetch _ ws => decide (ws.length = 8)
  | .read p => p.wf
  | .write p => p.wf
  | .readReply p => p.wf
  | .completion p => p.wf
  | .groupMcast p => p.wf
  | .maskMcast p => p.wf
  | .flitCrcError (.line _ _ p _) => p.wf
  | .messageArrive m => m.wf
  | .linkControlFlit _ f => decide (f.credit.length = 4)
  | .nak _ f => f.wf
  | .wr _ f => f.wf
  | .wrCpl _ f => f.wf
  | .rd _ f => f.wf
  | .rdRpl _ f => f.wf
  | .collData _ f => f.wf
  | .collDig _ f => f.wf
  | .collAck _ f => f.wf
  | .stop _ f => f.wf
  | .ltArrive _ f => f.wf
  | .ltDone _ f => f.wf
  | .takeoverAnn _ f => f.wf
  | .drainDone _ f => f.wf
  | .rdShared m => m.wf
  | .rdOwn m => m.wf
  | .rdUncached m => m.wf
  | .wrFull m => m.wf
  | .wrPartial m => m.wf
  | .wb m => m.wf
  | .evict m => m.wf
  | .snpInv m => m.wf
  | .snpShare m => m.wf
  | .cmp m => m.wf
  | .grantS m => m.wf
  | .grantE m => m.wf
  | .snpI m => m.wf
  | .snpS m => m.wf
  | .line m => m.wf
  | .groupSet _ _ _ _ _ members => decide (2 ≤ members.length ∧ members.length ≤ 256)
  | .drillSet _ count _ entries => decide (count.toNat = entries.length ∧ entries.length ≤ 256)
  | .errorRecord r => decide (r.severity.toNat ≤ 4)
  | .hbmTrainingPhaseEnd _ _ _ temps _ => decide (temps.length = 4 ∨ temps = [])
  | .resetN temps => decide (temps.length = 4 ∨ temps = [])
  | .dbgResp r => decide (r.length = 296)
  | _ => true

end Sys2Proof
end

