-- ==== Sys2Proof/Safety.lean ====
section
/-!
DEFINITION. What counts as a safe run: every step answers a next state, and the states keep the canonical form of their
memories and tables.
-/
namespace Sys2Proof.Machine

/-- The register words are in canonical form: rising keys, no word equal to its reset word. -/
def Core.regsWf (c : Core) : Bool := kwf (resetWord c.grade) c.regs

/-- The memory windows are in canonical form. -/
def Core.winWf (c : Core) : Bool := kwf (fun _ => (0 : Byte)) c.win

/-- The canonical form of the device's addressed memories: register words, memory windows, stores, HBM and the control
window. -/
def Memory.wf (s : State) : Bool :=
  s.pk.cl.core.regsWf && s.pk.cl.core.winWf && kwf (fun _ => (0 : Byte)) s.pk.cl.st.mem &&
    kwf (fun _ => (0 : Byte)) s.pk.hbm.mem && kwf cwReset s.pk.att.cw

/-- Every waiting command is well-formed. -/
def State.queueWf (s : State) : Bool := s.pending.all Instr.wf

/-- One-time memory only burns: the factory's fuses are the same, the minimum SVN has not fallen, and an owner once fused is
the same owner (R384, R458, R462, R463). -/
def FuseS.burnt (a b : FuseS) : Prop :=
  { a with minSvn := b.minSvn, owner := b.owner } = b ∧ a.minSvn ≤ b.minSvn ∧ (a.owner.isSome = true → b.owner = a.owner)

/-- A blocked fuse-secret path leaves no identity key in the key store (R465). -/
def State.keyGone (s : State) : Prop := s.pk.sec.blocked = true → s.pk.sec.key = false

/-- A step that answers a next state. -/
def steps (s t : State) : Prop := step s = .next t

/-- A run of n steps that never stops. -/
def State.runs (s : State) (n : Nat) : Prop := ∃ t, Host.Core.run Sys2Proof.core n s = .next t

/-! ## How a statement says what a command does and what it leaves -/

/-- The command completes: it answers a next state with the same queue, whose package part has `P`. -/
def does (c : Instr) (s : State) (P : Pkg → Prop) : Prop := ∃ k, exec c s = .next { s with pk := k } ∧ P k

/-- The command completes and changes nothing outside the clusters and their timetable units. -/
def doesClus (c : Instr) (s : State) (P : Clus → Prop) : Prop :=
  ∃ m, exec c s = .next { s with pk := { s.pk with cl := m } } ∧ P m

/-- The command completes and changes nothing outside the part every block shares. -/
def doesCore (c : Instr) (s : State) (P : Core → Prop) : Prop :=
  ∃ x, exec c s = .next { s with pk := { s.pk with cl := { s.pk.cl with core := x } } } ∧ P x

/-- The station tick, the cycle within it, the cycles per tick and the fused grade. -/
def Core.clock (c : Core) : W64 × Nat × Nat × Grade := (c.tick, c.cycle, c.cpt, c.grade)

/-- `y` is `x` with the register word at an offset of a page set to `v` and nothing else changed. -/
def Core.sets (x y : Core) (page off : Nat) (v : W32) : Prop :=
  y = { x with regs := y.regs } ∧ y.rd page off = v ∧ ∀ p o, regKey p o ≠ regKey page off → y.rd p o = x.rd p o

/-- `y` is `x` with field [lo + len − 1 : lo] of a register word set to `v` and nothing else changed. -/
def Core.setsFld (x y : Core) (page off lo len v : Nat) : Prop :=
  y = { x with regs := y.regs } ∧ y.fld page off lo len = v ∧
    (∀ i, i < 32 → i < lo ∨ lo + len ≤ i → bitAt (y.rd page off) i = bitAt (x.rd page off) i) ∧
    ∀ p o, regKey p o ≠ regKey page off → y.rd p o = x.rd p o

/-- `y` differs from `x` in register words only, and in none but those at the listed keys. -/
def Core.only (x y : Core) (keys : List Nat) : Prop :=
  y = { x with regs := y.regs } ∧ ∀ p o, regKey p o ∉ keys → y.rd p o = x.rd p o

/-- `y` is `x` with the words of a page at `offs` cleared and nothing else changed. -/
def Core.clears (x y : Core) (page : Nat) (offs : List Nat) : Prop :=
  y = { x with regs := y.regs } ∧ (∀ o, o ∈ offs → y.rd page o = 0) ∧
    ∀ p o, regKey p o ∉ offs.map (regKey page) → y.rd p o = x.rd p o

/-- `y` is `x` with bit `b` of a page's ERR_INJECT set and its selector [8 + len − 1 : 8] holding `sel`, and nothing else
changed (R477, R489). -/
def Core.arms (x y : Core) (page b len sel : Nat) : Prop :=
  y = { x with regs := y.regs } ∧ bitAt (y.rd page 0x28) b = true ∧ bitsAt (y.rd page 0x28) 8 len = sel ∧
    (∀ i, i < 32 → i ≠ b → (i < 8 ∨ 8 + len ≤ i) → bitAt (y.rd page 0x28) i = bitAt (x.rd page 0x28) i) ∧
    ∀ p o, regKey p o ≠ regKey page 0x28 → y.rd p o = x.rd p o

/-- Offsets of `n` words from `off` on. -/
def wordsFrom (off n : Nat) : List Nat := (List.range n).map (fun i => off + 4 * i)

/-- The table `n` is `m` with `v` at `k`, an unlisted entry reading as `d`. -/
def ksets {α : Type} (d : α) (m n : KMap α) (k : Nat) (v : α) : Prop :=
  ∀ j, kget n d j = if j = k then v else kget m d j

/-- PC of the mode an S-core is in. -/
def SCore.pc (y : SCore) : Nat := if y.mode = .handler then y.pc1 else y.pc0

/-- An S-core with the PC of the mode it is in moved. -/
def SCore.move (y : SCore) (pc : Nat) : SCore := if y.mode = .handler then { y with pc1 := pc } else { y with pc0 := pc }

/-- `x` is `m` with S-core `clu` as `y` and integer register `rd` of the bank in use as `v` (x0 discards it), and nothing
else changed (R118). -/
def Clus.sEffect (m x : Clus) (clu : Nat) (y : SCore) (rd : Nat) (v : W64) : Prop :=
  x = { m with sc := { m.sc with core := x.sc.core, x := x.sc.x } } ∧
    ksets idleCore m.sc.core x.sc.core clu y ∧
    (rd = 0 → x.sc.x = m.sc.x) ∧ (rd ≠ 0 → ksets 0 m.sc.x x.sc.x (64 * clu + 32 * m.sBank clu + rd) v)

/-- The S-core of a cluster halts on an exception: the pair is halted, the event is recorded, and a program's slot fails
without replay (R128). -/
def Clus.sTraps (m x : Clus) (clu code : Nat) : Prop :=
  (x.score clu).mode = .halted ∧ (x.score clu).tend = true ∧
    (∃ e, e ∈ x.core.records ∧ e.code = BitVec.ofNat 16 code ∧ e.tick = m.core.tick) ∧
    ((m.score clu).mode ≠ .handler → ∃ f, f ∈ x.causes clu ∧ f.code = code ∧ f.fatal = true)

/-- Where a record of `r` bytes goes in a ring, and whether an end marker goes before it: none where it must be held (R245). -/
def Core.ringAt (c : Core) (clu n r : Nat) : Option (Nat × Bool) :=
  let u := c.chUsed clu n
  let w := if u = 0 then 0 else c.chWr clu n
  let h := if u = 0 then 0 else c.chRd clu n
  if c.chSize clu n = 0 then none
  else if u = 0 ∨ h < w then
    (if r ≤ c.chSize clu n - w then some (w, false) else if r ≤ h then some (0, true) else none)
  else if u < c.chSize clu n ∧ r ≤ h - w then some (w, false)
  else none

/-- `y` is `c` with the record `bs` of channel `n` at offset `pos` of its ring, WR past it, and the eight bytes of an end
marker at the old WR where `mark` says so; no other byte of a window and no other channel's word changes (R244, R245). -/
def Core.ringed (c y : Core) (clu n : Nat) (bs : List Byte) (pos : Nat) (mark : Bool) : Prop :=
  let base := dmemBase clu + c.chBase clu n
  let w := if c.chUsed clu n = 0 then 0 else c.chWr clu n
  let h := if c.chUsed clu n = 0 then 0 else c.chRd clu n
  (∀ a, y.winRd a =
    if base + pos ≤ a ∧ a < base + pos + bs.length then bs.getD (a - (base + pos)) 0
    else if mark = true ∧ base + w ≤ a ∧ a < base + w + 8 then (leBytes 4 (2 ^ 29) ++ List.replicate 4 0).getD (a - (base + w)) 0
    else c.winRd a) ∧
  y.chWr clu n = (if c.chSize clu n ≤ pos + bs.length then 0 else (pos + bs.length) % 65536) ∧
  y.chRd clu n = h ∧
  y.rd (pageMsg clu) (cntOff n) = c.rd (pageMsg clu) (cntOff n) + 1 ∧
  ∀ p o, regKey p o ∉ [regKey (pageMsg clu) (chanOff n + 20), regKey (pageMsg clu) (chanOff n + 24),
    regKey (pageMsg clu) (cntOff n), regKey (pageMsg clu) (cntOff n + 4), regKey (pageMsg clu) (cntOff n + 8)] →
      y.rd p o = c.rd p o

/-- `y` is `k` with a frame's stream moved past the frame, where its type has a checked stream (R294). -/
def Pkg.inStream (k y : Pkg) (f : Frame) : Prop :=
  y = { k with fab := { k.fab with rxSeq := y.fab.rxSeq } } ∧
    (if streamType f.ftype.toNat then
      ksets 0 k.fab.rxSeq y.fab.rxSeq (streamKey f.srcNode.toNat f.fgroup.toNat f.fvc.toNat) (f.sseq.toNat + 1)
     else y = k)

/-- `k` with the flits of a frame that has reached a port free again (R284, R287), or, for a window request in RECOVERY, kept
back (R428). -/
def Pkg.frees (k : Pkg) (p : Nat) (f : Frame) : Pkg :=
  let keep := k.devState = 6 ∧ (f.ftype = 0x08 ∨ f.ftype = 0x0A)
  let more (l : List Nat) : List Nat := (List.range 4).map (fun i => nth l 0 i + (if i = f.fvc.toNat then 1 + f.chunks.toNat else 0))
  k.setLink p (if keep then { k.link p with kept := more (k.link p).kept } else { k.link p with freed := more (k.link p).freed })

/-- A frame command: nothing on a port that is neither in hello nor up; elsewhere its buffers are free again, a duplicate has
no other effect, a refused frame is refused, and an accepted one moves its stream on and has the effect `Q` (R287, R291, R292,
R294). -/
def takesFrame (c : Instr) (s : State) (p : Nat) (f : Frame) (Q : Pkg → Pkg → Prop) : Prop :=
  let isOpen := s.pk.portState p = 3 ∨ s.pk.portState p = 4
  let why := s.pk.frameBad p f
  let k := s.pk.frees p f
  (¬ isOpen → exec c s = .next s) ∧
  (isOpen → why = 0x100 → exec c s = .next { s with pk := k }) ∧
  (isOpen → why ≠ 0 → why ≠ 0x100 → exec c s = .next { s with pk := k.refuse p f why }) ∧
  (isOpen → why = 0 → does c s (fun z => ∃ y, k.inStream y f ∧ Q y z))

/-- A command's completion record with this status, tag and result waits for its ring or has been written to it (R335). -/
def Pkg.answers (z : Pkg) (ring job status : Nat) (tag : W32) (result : Nat) : Prop :=
  ∃ r : CplRec, r.kind = 1 ∧ r.status = status ∧ r.job = job ∧ r.tag = tag ∧ r.result = BitVec.ofNat 64 result ∧
    (r ∈ z.stagedOf ring ∨ ∃ a b, (a, r.bytes b) ∈ z.att.hostWr)

/-- The error record `code` is on its way. -/
def Pkg.recorded (z : Pkg) (code : Nat) : Prop := ∃ e, e ∈ z.cl.core.records ∧ e.code = BitVec.ofNat 16 code

end Sys2Proof.Machine
end

