-- ==== Sys2Proof/Certificates/Slice0/Obligations.lean ====
section
/-!
DEFINITION. The statements about the machine, for the provers: what each command does and leaves, in the order of the
manual's chapters, and what every step keeps.
-/
open Sys2Proof Sys2Proof.Machine

/-! ## The whole machine -/

/-- A step takes the command at the front of the queue and answers what exec answers on the state with the rest of the queue. With
no command waiting one cycle of the tick passes, up to the tick's last, and nothing else changes (the model's choice, log
entry 1). -/
def Obligations.StepRunsTheFrontCommandOrLetsACyclePass : Prop :=
  ∀ (s : State),
    let c := s.pk.cl.core
    (∀ (cmd : Instr) (rest : List Instr), s.pending = cmd :: rest → step s = exec cmd { s with pending := rest }) ∧
    (s.pending = [] → c.cycle + 1 < c.cpt →
      step s = .next { s with pk := { s.pk with cl := { s.pk.cl with core := { c with cycle := c.cycle + 1 } } } }) ∧
    (s.pending = [] → c.cpt ≤ c.cycle + 1 → step s = .next s)

/-- Every command completes: it answers a next state, with the queue as it was. None changes the fused grade, the factory's fuses,
or an owner once fused, and none lowers the minimum SVN (R1, R384, R458, R462, R463). Where it says more than these rules it
says the model's choices of log entry 249. -/
def Obligations.EveryCommandCompletesAndOnlyBurnsFuses : Prop :=
  ∀ (cmd : Instr) (s : State), does cmd s (fun z =>
    z.cl.core.grade = s.pk.cl.core.grade ∧ s.pk.bu.fuse.burnt z.bu.fuse)

/-- Where the fuse-secret path is blocked the key store holds no identity key, after every step from every state in which that
holds; and the block itself stays as long as VAUX is up (R457, R465). -/
def Obligations.StepKeepsTheKeyOutOfABlockedStore : Prop :=
  ∀ (s t : State), s.keyGone → steps s t →
    t.keyGone ∧ (s.pk.sec.blocked = true → t.pk.pw.vaux = true → t.pk.sec.blocked = true)

/-- The device's addressed memories (register words, memory windows, stores, HBM, control window) keep their canonical form: every
step from a state that has it gives one that has it, so equal contents stay equal data. Where it says more than these rules it
says the model's choices of log entry 6. -/
def Obligations.StepKeepsTheCanonicalFormOfMemory : Prop :=
  ∀ (s t : State), Memory.wf s = true → steps s t → Memory.wf t = true

/-- The state at reset: ROM_WAIT, no command waiting, no job, no key in the store and no debug level, every memory in its
canonical form with nothing listed, and the registers for which the spec states a reset value at it: DUMP_LIMIT 500 ms,
SBX_DBG_TIMEOUT 2,000 ns, HB_SCRUB_PERIOD 720 minutes, HB_PAGE_CE_LIMIT 8, SA_WDOG 4,096 cycles, HOME_LAG_LIMIT 16 ticks,
SLEW_PPM 50, STEP_EN 1, AT_CPL_TIMEOUT 1,000 µs (R160, R189, R265, R312, R324, R424). The grade and fuses of the part are log
entry 28's. -/
def Obligations.ResetLeavesTheDeviceInRomWait : Prop :=
  let s := State.reset
  let k := s.pk
  let c := k.cl.core
  s.pending = [] ∧ s.keyGone ∧ Memory.wf s = true ∧ s.queueWf = true ∧ k.devState = 0 ∧ (∀ j, j < 16 → k.jobState j = 0) ∧
    k.sec.key = false ∧ c.dbgLevel = 0 ∧ c.regs = [] ∧ c.win = [] ∧ k.cl.st.mem = [] ∧ k.hbm.mem = [] ∧ k.att.cw = [] ∧
    c.records = [] ∧ c.tick = 0 ∧ c.cycle = 0 ∧
    (∀ i : Fin 2, c.rd (pageSbx i) 0x48 = 2000 ∧ c.fld (pageSbx i) 0x4C 31 1 = 1 ∧ c.fld (pageSbx i) 0x4C 0 16 = 500) ∧
    (∀ h : Stack, c.fld (pageHb h) 0x4C 31 1 = 1 ∧ c.fld (pageHb h) 0x4C 0 16 = 720 ∧ c.rd (pageHb h) 0x50 = 8) ∧
    (∀ u : Clu, c.rd (pageSa u) 0x44 = 4096 ∧ ∀ t : Store, c.rd (pageSt u t) 0x308 = 16) ∧
    c.rd pageTime 0x54 = 0x40000032 ∧ k.cwRd 32 0x50 = 1000

/-- R330: a doorbell on a disabled ring, or with a tail at or beyond the ring's size, is dropped and records AT_DOORBELL_BAD
(INFO), and the ring's head and state stay; once the ring is enabled and the tail within its size, the doorbell is taken. -/
def Obligations.BadDoorbellsAreDroppedAndRecorded : Prop :=
  ∀ (s : State) (j : Fin 16) (tail : BitVec 16),
    let k := s.pk
    let head (z : Pkg) := bitsAt (z.cwRd 3 (0x80 + 4 * j)) 0 16
    (k.ringOn j = false ∨ k.sqSize j ≤ tail.toNat → doesCore (.doorbell j tail) s (fun y =>
      ∃ e, y.records = k.cl.core.records ++ [e] ∧ e.code = 0x0B09 ∧ e.severity = BitVec.ofNat 8 sevInfo)) ∧
    (k.ringOn j = true → tail.toNat < k.sqSize j → does (.doorbell j tail) s (fun z =>
      z = { k with att := { k.att with ring := z.att.ring } } ∧ (z.ringS j).tail = tail.toNat ∧ head z = head k))

/-- R472: the SEC page has no ERR_INJECT bits; a write of that field changes nothing, whatever is written, and no drill plan with
an entry that names a SEC page (PAGE_ID 0x0006, or the mailbox's 0x0041) replaces the plan in force. -/
def Obligations.SecPagesHaveNoInjection : Prop :=
  ∀ (s : State) (data : W64),
    exec (.registerWrite (BitVec.ofNat 24 pageSec) 0x28 4 data) s = .next s ∧
    exec (.registerWrite (BitVec.ofNat 24 pageSec) 0x28 8 data) s = .next s ∧
    ∀ (tag : W32) (n : BitVec 16) (r : BitVec 112) (l : List DrillEntry) (e : DrillEntry), e ∈ l →
      e.page = 0x0006 ∨ e.page = 0x0041 →
      does (.drillSet tag n r l) s (fun z => z.bi.drills = s.pk.bi.drills ∧ z.bi.fired = s.pk.bi.fired)

/-! ## The timetable -/

/-- CIRC_START, CIRC_STOP, CIRC_SUSPEND, CIRC_RESUME and CIRC_ABORT (R25): what each does in each state of the circuit, and what
it leaves. A command that the state does not take is rejected with TT_CMD_REJ (R25, R41) and changes nothing but what
recording the event changes. A STATE code of 5 to 7, which no circuit takes, is left out of CIRC_ABORT. Where it says more
than these rules it says the model's choices of log entries 53 and 54. -/
def Obligations.CircuitCommandsFollowCircuitState : Prop :=
  ∀ (s : State) (rg : Rgn) (n : Fin 64),
    let c := s.pk.cl.core
    let st := c.circState rg n
    let fly := s.pk.cl.inFlight rg n
    let reg := circOff n.val + 4
    let becomes (v : Nat) (cmd : Instr) : Prop := doesCore cmd s (fun y => c.setsFld y (pageTT rg.val) reg 29 3 v)
    let rejected (cmd : Instr) : Prop := doesCore cmd s (fun y => y = c.record (pageTT rg.val) 0x010A sevInfo
      (c.circJob rg n) (placeTT rg.val) (detail41 0x010A n.val 0xFF (c.circCur rg n) 0 0 0 0))
    (st = 0 → doesClus (.circStart rg n) s (fun m => m = { s.pk.cl with tt := { s.pk.cl.tt with startPend := m.tt.startPend } } ∧
      ksets false s.pk.cl.tt.startPend m.tt.startPend (circKey rg n) true)) ∧
    (st ≠ 0 → rejected (.circStart rg n)) ∧
    (st = 1 ∧ fly = true → becomes 3 (.circStop rg n)) ∧
    (st = 1 ∧ fly = false → becomes 0 (.circStop rg n)) ∧
    (st = 2 → becomes 0 (.circStop rg n)) ∧
    (st ≠ 1 ∧ st ≠ 2 → rejected (.circStop rg n)) ∧
    (st = 1 ∧ fly = true → doesClus (.circSuspend rg n) s (fun m =>
      m = { s.pk.cl with tt := { s.pk.cl.tt with suspPend := m.tt.suspPend } } ∧
      ksets false s.pk.cl.tt.suspPend m.tt.suspPend (circKey rg n) true)) ∧
    (st = 1 ∧ fly = false → becomes 2 (.circSuspend rg n)) ∧
    (st ≠ 1 → rejected (.circSuspend rg n)) ∧
    (st = 2 → becomes 1 (.circResume rg n)) ∧
    (st ≠ 2 → rejected (.circResume rg n)) ∧
    (st = 0 → rejected (.circAbort rg n)) ∧
    (st = 1 ∨ st = 3 → doesClus (.circAbort rg n) s (fun m =>
      m = { s.pk.cl with tt := { s.pk.cl.tt with abortPend := m.tt.abortPend, runs := m.tt.runs } } ∧
      ksets false s.pk.cl.tt.abortPend m.tt.abortPend (circKey rg n) true ∧
      (∀ i, i < 4 → m.run rg i = (s.pk.cl.run rg i).map (fun r => if r.circ = n.val then { r with aborted := true } else r)) ∧
      ∀ j, (∀ i, i < 4 → j ≠ 4 * rg.val + i) → kget m.tt.runs none j = kget s.pk.cl.tt.runs none j)) ∧
    (st = 2 ∨ st = 4 → becomes 0 (.circAbort rg n))

/-- The phases of the tick in the package's own units, at the cycles that R10 and R11 give them: DEPARTURE at cycle 0,
CLOSE_JUDGEMENT at Close offset 0, CLOSE_END in the last cycle of Close, COMMIT at Guard offset 0, GUARD_SIGNAL_SEND at Guard
offset 32, POINTS_SWAP at Guard offset 64 and the through tablets' rebind at Guard offset 192; none of them moves the station
tick, the cycles per tick or the grade. GUARD_CLOCK_STEP counts the tick on, starts it at cycle 0, and takes the pending clock
of 10 cycles per MHz where it may be taken (R12, R309, R443). That a phase command places the cycle is the model's reading of
R11 (log entry 1). What the phase commands of one region do (R11, R22, R27, R28, R30, R445). DEPARTURE, but of a relief die
that waits for its swap (R355), clears the outcomes of the region's slots and moves the round-robin pointer of R22 on by one.
CLOSE_END, in a region that runs no pilot, fixes as failed exactly the departed slots that were aborted or have a cause, and
changes nothing else. COMMIT counts the Guard that the timetable unit has completed. GUARD_SIGNAL_SEND takes the region's own
signals and completions from those made at commit and sends them, in order, and leaves every other's and everything else.
REGION_CLOCK_GATE counts a region without work in PW's count of gated regions and does nothing in one with work. -/
def Obligations.PhasesPlaceTheCycleAndStepTheTick : Prop :=
  (∀ s : State,
      let c := s.pk.cl.core
      let at_ (cmd : Instr) (n : Nat) : Prop := does cmd s (fun k =>
        k.cl.core.cycle = n ∧ k.cl.core.tick = c.tick ∧ k.cl.core.cpt = c.cpt ∧ k.cl.core.grade = c.grade)
      at_ (.departure .package) 0 ∧ at_ (.closeJudgement .package) c.close0 ∧
      at_ (.closeEnd .package) (c.guard0 - 1) ∧ at_ (.commit .package) c.guard0 ∧
      at_ (.guardSignalSend .package) (c.guard0 + 32) ∧ at_ .pointsSwap (c.guard0 + 64) ∧
      at_ .throughRebind (c.guard0 + 192) ∧
      does .guardClockStep s (fun k =>
        let mhz := s.pk.riseDue.cl.core.fld pagePw 0x54 0 16
        k.cl.core.tick = c.tick + 1 ∧ k.cl.core.cycle = 0 ∧ k.cl.core.grade = c.grade ∧
        k.cl.core.cpt = if s.pk.riseDue.clockOk mhz then 10 * mhz else c.cpt)) ∧
  (∀ (s : State) (rg : Rgn),
      let m := s.pk.cl
      let t := m.tt
      ((s.pk.dieDone rg).dieWaits rg = false → does (.departure (.region rg)) s (fun k =>
        (∀ n, n < 4 → kget k.cl.tt.failed false (4 * rg.val + n) = false) ∧
        (∀ r, r ≠ rg.val → kget k.cl.tt.rr 0 r = kget t.rr 0 r) ∧
        kget k.cl.tt.rr 0 rg = (kget t.rr 0 rg + 1) % 64 ∧ k.cl.core.clock = m.core.clock)) ∧
      (m.pilot rg = none → doesClus (.closeEnd (.region rg)) s (fun x =>
        x = { m with tt := { t with failed := x.tt.failed } } ∧
        (∀ n r, n < 4 → m.run rg n = some r →
          kget x.tt.failed false (4 * rg.val + n) = (!r.due && (r.aborted || m.causes r.clu != []))) ∧
        ∀ j, (∀ n, n < 4 → m.run rg n ≠ none → j ≠ 4 * rg.val + n) → kget x.tt.failed false j = kget t.failed false j)) ∧
      does (.commit (.region rg)) s (fun k =>
        kget k.fw.guards 0 rg = m.core.tick.toNat + 1 ∧ k.cl.core.clock = m.core.clock ∧
        ∀ r, r ≠ rg.val → kget k.fw.guards 0 r = kget s.pk.fw.guards 0 r) ∧
      does (.guardSignalSend (.region rg)) s (fun k =>
        let own (h : HostCompl) : Prop := h.die.toNat = m.core.logicalDie (rg / 2) ∧ h.region = decide (rg.val % 2 = 1)
        k = { s.pk with cl := { m with tt := { t with sig0 := k.cl.tt.sig0, sigOut := k.cl.tt.sigOut, hostOut := k.cl.tt.hostOut } },
                        att := { s.pk.att with cplFly := k.att.cplFly } } ∧
        k.cl.tt.sig0 = t.sig0 ++ (t.sigOut.filter (fun e => decide (e.1 = rg.val))).map (·.2) ∧
        (∀ e, e ∈ k.cl.tt.sigOut ↔ e ∈ t.sigOut ∧ e.1 ≠ rg.val) ∧
        (∃ l, k.att.cplFly = s.pk.att.cplFly ++ l ∧ l.Sublist t.hostOut ∧ ∀ h, h ∈ l ↔ h ∈ t.hostOut ∧ own h) ∧
        k.cl.tt.hostOut.Sublist t.hostOut ∧ ∀ h, h ∈ k.cl.tt.hostOut ↔ h ∈ t.hostOut ∧ ¬own h) ∧
      (s.pk.regionBusy rg = true → exec (.regionClockGate rg) s = .next s) ∧
      (s.pk.regionBusy rg = false → doesCore (.regionClockGate rg) s (fun y =>
        m.core.sets y pagePw 0x6C (m.core.rd pagePw 0x6C + 1))))

/-- ENTRY_WRITE (R42), POST_ARRIVE (R30), REMOTE_RELEASE_ARRIVE (R178), TT_LOCKSTEP (R35) and TIME_PIN_FALL (R453). An entry with
no slot departed or due for replay is written whole, and nothing else changes; one with such a slot keeps its bytes, and
TT_ENTRY_BUSY and ACC_DROPPED say so. A post or release that arrives at Guard offsets 32 to 255 applies at once: the post
counter adds modulo 65,536, the inbound ring's REL and HEXT move by the granules released; at any other time it is held and
nothing else changes. TT_LOCKSTEP gives every departed slot of the region the cause TT_LOCKSTEP, and marks a die fault where
it is the second in consecutive ticks. TICK_OUT falls once half the tick has passed or in a later tick, PPS_OUT 10,000 ticks
after its rise. Where it says more than these rules it says the model's choices of log entries 45, 46, 48 and 95. -/
def Obligations.EntryWritesPostsReleasesLockstepAndPins : Prop :=
  ∀ s : State,
    let m := s.pk.cl
    let c := m.core
    let t := m.tt
    (∀ (rg : Rgn) (e : Fin 4096) (ws : List W64), ws.length = 32 → (∀ n r, n < 4 → m.run rg n = some r → r.entry ≠ e) →
      doesCore (.entryWrite rg e ws) s (fun y =>
        let base := entryBase rg + 256 * e.val
        y = { c with win := y.win } ∧ y.winRds base 256 = ws.flatMap (fun w => leBytes 8 w.toNat) ∧
        ∀ a, a < base ∨ base + 256 ≤ a → y.winRd a = c.winRd a)) ∧
    (∀ (rg : Rgn) (e : Fin 4096) (ws : List W64), (∃ n r, n < 4 ∧ m.run rg n = some r ∧ r.entry = e) →
      doesCore (.entryWrite rg e ws) s (fun y =>
        y.win = c.win ∧ bitAt (y.rd (pageTT rg) 0x18) 0 = true ∧ ∃ r, y.records = c.records ++ [r] ∧ r.code = 0x0106)) ∧
    (∀ (rg : Rgn) (ctr : Fin 32) (v : BitVec 16), c.applyNow = true → doesClus (.postArrive rg ctr v) s (fun x =>
      x = { m with core := x.core, tt := { t with sig0 := dropFirst (· == .post rg ctr v.toNat) t.sig0 } } ∧
      c.setsFld x.core (pageTT rg) (0x80 + 4 * ctr) 0 16 ((c.fld (pageTT rg) (0x80 + 4 * ctr) 0 16 + v.toNat) % 65536))) ∧
    (∀ (rg : Rgn) (ctr : Fin 32) (v : BitVec 16), c.applyNow = false → doesClus (.postArrive rg ctr v) s (fun x =>
      x = { m with tt := { t with sig0 := dropFirst (· == .post rg ctr v.toNat) t.sig0,
                                  held := t.held ++ [.post rg ctr v.toNat] } })) ∧
    (∀ (clu : Clu) (st : Store) (r : Fin 16) (n : BitVec 20) (j : Job),
      let d := c.region clu st r
      let arrives := Instr.remoteReleaseArrive clu st r n j
      let took := dropFirst (· == Sig0.release clu st r n.toNat j) t.sig0
      (c.applyNow = false → doesClus arrives s (fun x =>
        x = { m with tt := { t with sig0 := took, held := t.held ++ [.release clu st r n.toNat j] } })) ∧
      (c.applyNow = true → s.pk.mirrorsOf clu = [] → d.valid = true → d.mode = 2 → n.toNat ≤ d.free →
        0 < d.size → d.size ≤ 65536 → doesClus arrives s (fun x =>
          x = { m with core := x.core, tt := { t with sig0 := took } } ∧
          x.core.region clu st r = { d with
            rel := (d.rel + n.toNat) % d.size, wrap := if d.size ≤ d.rel + n.toNat then !d.wrap else d.wrap,
            hext := d.hext - n.toNat } ∧
          c.only x.core [regKey (pageSt clu st) (regionOff r + 8), regKey (pageSt clu st) (regionOff r + 12),
            regKey (pageSt clu st) (regionOff r + 16)])) ∧
      (c.applyNow = true → s.pk.mirrorsOf clu = [] → d.valid = true → d.mode = 2 → d.free < n.toNat → doesClus arrives s (fun x =>
          x.core.region clu st r = d ∧ (∃ e, x.core.records = c.records ++ [e] ∧ e.code = 0x050C ∧ e.job.toNat = d.job) ∧
          ∃ k, (d.job, k) ∈ x.tt.faulted))) ∧
    (∀ rg : Rgn, doesClus (.ttLockstep rg) s (fun x =>
      let now := c.tick.toNat
      (∀ n r, n < 4 → m.run rg n = some r → r.due = false → ∃ f ∈ x.causes r.clu, f.code = 0x010C) ∧
      ksets 0 t.lockstep x.tt.lockstep rg (now + 1) ∧
      ksets false t.lockFault x.tt.lockFault rg
        (decide (kget t.lockstep 0 rg = now ∧ now ≠ 0) || kget t.lockFault false rg) ∧
      ∃ e, x.core.records = c.records ++ [e] ∧ e.code = 0x010C)) ∧
    (s.pk.pw.tickRise < c.tick.toNat ∨ c.cpt ≤ 2 * c.cycle → does (.timePinFall .tickOut) s (fun k =>
      k = { s.pk with pw := { s.pk.pw with tickOut := false } })) ∧
    (¬(s.pk.pw.tickRise < c.tick.toNat ∨ c.cpt ≤ 2 * c.cycle) → exec (.timePinFall .tickOut) s = .next s) ∧
    (s.pk.pw.ppsRise + 10000 ≤ c.tick.toNat → does (.timePinFall .ppsOut) s (fun k =>
      k = { s.pk with pw := { s.pk.pw with ppsOut := false } })) ∧
    (¬ s.pk.pw.ppsRise + 10000 ≤ c.tick.toNat → exec (.timePinFall .ppsOut) s = .next s)

/-! ## Register pages: clearing and injecting -/

/-- Every write-one-to-clear command of the register pages clears exactly the words it names and changes nothing else: the
M-core's margin, captures, check counters and safeguards (R74, R103; a safeguard CLEAR in Guard, with a slot of the cluster not
yet committed, waits for that slot's additions), the shunting array's blocked-port, stall and capture words (R163), the store's counters, captures and bank counts (R185, R190), the lines', message unit's, HBM controller's,
port's, BI unit's and PW's counters, and ERR_STATUS, ERR_FIRST and EVT_COUNT of a page (R480, R491). BANK_CLR re-arms
ST_BANK_WEAR, LN_CNT_CLR re-arms LN_BRIDGE_CRC, FB_CNT_CLR re-arms the port's violation event, and BI_CNT_CLR clears the CHECK
counts of its region's clusters. A clear at a page that does not exist changes nothing. Arming an injection (R477, R489): the
command sets its bit of ERR_INJECT of its block's page and, where the page has one, puts the selector in the field from bit 8
on; nothing else changes. A store bank that does not exist is not armed, and LINK 10 to 15 names no link, so only the selector
changes. HB_STOP and TEMP_BIAS take effect at once: their bit reads 0, the complex's heartbeat stops, and the sensor reads
high for 1,024 ticks. LANE_KILL drops logical lane 0 at once where the port is up, and FALLBACK forces the fault of the
pseudo-channel at once. -/
def Obligations.ClearAndInjectionCommandsChangeExactlyTheirWords : Prop :=
  (∀ s : State,
      let c := s.pk.cl.core
      let clears (cmd : Instr) (page : Nat) (offs : List Nat) : Prop := doesCore cmd s (fun y => c.clears y page offs)
      (∀ (u : Clu) (m : Fin 2), clears (.mcMarginClr u m) (pageMc u m) [0xD0] ∧
        clears (.mcCapClr u m) (pageMc u m) (wordsFrom 0x100 8) ∧ clears (.mcCntClr u m) (pageMc u m) (wordsFrom 0xC0 4) ∧
        let open_ := c.inGuard = true ∧ ∃ n r, s.pk.cl.runOrPilot u = some (n, r) ∧ r.due = false
        (¬ open_ → clears (.mcSgClear u m) (pageMc u m) (wordsFrom 0x604 6 ++ wordsFrom 0x640 32)) ∧
        (open_ → doesClus (.mcSgClear u m) s (fun x =>
          x = { s.pk.cl with mc := { s.pk.cl.mc with sgClear := x.mc.sgClear } } ∧
          ksets false s.pk.cl.mc.sgClear x.mc.sgClear (mKey u m) true))) ∧
      (∀ u : Clu, clears (.bpClr u) (pageSa u) [0x50] ∧ clears (.stallClr u) (pageSa u) (wordsFrom 0x60 4) ∧
        clears (.saCapClr u) (pageSa u) (wordsFrom 0x100 8) ∧ clears (.msgCntClr u) (pageMsg u) (wordsFrom 0x500 128)) ∧
      (∀ (u : Clu) (st : Store), clears (.xstCntClr u st) (pageSt u st) (wordsFrom 0x48 4) ∧
        clears (.xstCapClr u st) (pageSt u st) (wordsFrom 0x60 8) ∧
        doesClus (.bankClr u st) s (fun m => m = { s.pk.cl with core := m.core, st := { s.pk.cl.st with wear := m.st.wear } } ∧
          c.clears m.core (pageSt u st) (wordsFrom 0x80 32) ∧
          ∀ j, kget m.st.wear false j = if 32 * (3 * u.val + st.val) ≤ j ∧ j < 32 * (3 * u.val + st.val) + 32 then false
            else kget s.pk.cl.st.wear false j)) ∧
      (∀ h : Stack, clears (.hbCntClr h) (pageHb h) (wordsFrom 0x80 64) ∧ clears (.hbCapClr h) (pageHb h) (wordsFrom 0x200 8)) ∧
      (∀ rg : Rgn, clears (.biCapClr rg) (pageBI rg) (wordsFrom 0xC0 8)) ∧
      clears .pwCntClr pagePw [0x64, 0x68] ∧
      (∀ g : Die, does (.lnCntClr g) s (fun k =>
        k = { s.pk with cl := { s.pk.cl with core := k.cl.core }, net := { s.pk.net with crcRec := k.net.crcRec } } ∧
        c.clears k.cl.core (pageLn g) (wordsFrom 0x80 20) ∧
        ∀ j, kget k.net.crcRec false j = if 10 * g.val ≤ j ∧ j < 10 * g.val + 10 then false else kget s.pk.net.crcRec false j)) ∧
      (∀ p : Port, does (.fbCntClr p) s (fun k =>
        k = { s.pk with cl := { s.pk.cl with core := k.cl.core }, fab := { s.pk.fab with violRec := k.fab.violRec } } ∧
        c.clears k.cl.core (pageFb p) (wordsFrom 0x80 8 ++ wordsFrom 0xC0 8) ∧
        ksets false s.pk.fab.violRec k.fab.violRec p false)) ∧
      (∀ rg : Rgn, does (.biCntClr rg) s (fun k =>
        k = { s.pk with cl := { s.pk.cl with core := k.cl.core }, bi := { s.pk.bi with checks := k.bi.checks } } ∧
        c.only k.cl.core ([0x5C, 0x60, 0x80, 0x88, 0x90, 0x98, 0xA0].map (regKey (pageBI rg))) ∧
        k.cl.core.rd (pageBI rg) 0x5C = 0 ∧ k.cl.core.rd (pageBI rg) 0x60 = 0 ∧
        (∀ i, i < 5 → k.cl.core.fld (pageBI rg) (0x80 + 8 * i) 16 16 = 0 ∧
          k.cl.core.fld (pageBI rg) (0x80 + 8 * i) 0 16 = c.fld (pageBI rg) (0x80 + 8 * i) 0 16) ∧
        ∀ j, kget k.bi.checks [] j = if 5 * rg.val ≤ j ∧ j < 5 * rg.val + 5 then [] else kget s.pk.bi.checks [] j)) ∧
      (∀ p : BitVec 24, (pageKind p.toNat).isSome = true →
        clears (.errClr p) p.toNat [0x18, 0x1C] ∧ clears (.firstClr p) p.toNat [0x30, 0x34, 0x38, 0x3C] ∧
        clears (.evtClr p) p.toNat (if p = 0 then [0x2C, 0x90, 0x94, 0x98, 0x9C, 0xA0] else [0x2C])) ∧
      (∀ p : BitVec 24, (pageKind p.toNat).isSome = false →
        exec (.errClr p) s = .next s ∧ exec (.firstClr p) s = .next s ∧ exec (.evtClr p) s = .next s)) ∧
  (∀ s : State,
      let c := s.pk.cl.core
      let arms (cmd : Instr) (page b len sel : Nat) : Prop := doesCore cmd s (fun y => c.arms y page b len sel)
      (∀ (u : Clu) (m : Fin 2), arms (.arrayFlip u m) (pageMc u m) 0 0 0 ∧ arms (.checkFlip u m) (pageMc u m) 1 0 0) ∧
      (∀ u : Clu, arms (.lsFlip u .v0) (pageV u 0) 0 0 0 ∧ arms (.lsFlip u .v1) (pageV u 1) 0 0 0 ∧
        arms (.lsFlip u .score) (pageS u) 0 0 0 ∧ arms (.fenceDrop u) (pageMsg u) 0 0 0) ∧
      (∀ (u : Clu) (t : Fin 64), arms (.aluFlip u t) (pageSa u) 0 6 t ∧ arms (.parityFlip u t) (pageSa u) 1 6 t) ∧
      (∀ (u : Clu) (st : Store) (b : Fin 32),
        (b.val < storeBanks st → arms (.stCeFlip u st b) (pageSt u st) 0 5 b ∧ arms (.stUeFlip u st b) (pageSt u st) 1 5 b) ∧
        (storeBanks st ≤ b.val → exec (.stCeFlip u st b) s = .next s ∧ exec (.stUeFlip u st b) s = .next s)) ∧
      (∀ (g : Die) (l : Fin 16),
        (l.val < 10 → arms (.crcFlip g l) (pageLn g) 0 4 l ∧ arms (.retryKill g l) (pageLn g) 1 4 l ∧
          arms (.epochFlip g l) (pageLn g) 2 4 l) ∧
        (10 ≤ l.val → ∀ cmd, cmd = .crcFlip g l ∨ cmd = .retryKill g l ∨ cmd = .epochFlip g l →
          doesCore cmd s (fun y => c.setsFld y (pageLn g) 0x28 8 4 l))) ∧
      (∀ (h : Stack) (p : Fin 32), arms (.hbCeFlip h p) (pageHb h) 0 5 p ∧ arms (.hbUeFlip h p) (pageHb h) 1 5 p) ∧
      (∀ p : Port, arms (.fbCwUe p) (pageFb p) 0 0 0 ∧ arms (.vsumFlip p) (pageFb p) 2 0 0 ∧
        ((s.pk.link p).step ≠ .up → arms (.laneKill p) (pageFb p) 1 0 0) ∧
        (∀ lane rest, (s.pk.link p).step = .up → (s.pk.link p).lanes = lane :: rest →
          does (.laneKill p) s (fun k => k = s.pk.laneDrop p lane true))) ∧
      arms .atCwUe pageAt 0 0 0 ∧ arms .forceTbusy pageAt 1 0 0 ∧ arms .snpMute pageAt 2 0 0 ∧
      (∀ rg : Rgn, arms (.pilotFlip rg) (pageBI rg) 0 0 0 ∧ arms (.sliceFlip rg) (pageBI rg) 1 0 0) ∧
      (∀ x : Sys2Proof.Complex, does (.hbStop x) s (fun k =>
        k = { s.pk with cl := { s.pk.cl with core := { c with regs := k.cl.core.regs } }, fw := { s.pk.fw with hbStop := k.fw.hbStop } } ∧
        ksets false s.pk.fw.hbStop k.fw.hbStop x true ∧ k.cl.core.fld c.sbx 0x28 8 3 = x ∧ k.cl.core.fld c.sbx 0x28 0 1 = 0 ∧
        c.only k.cl.core [regKey c.sbx 0x28])) ∧
      (∀ n : Fin 256, does (.tempBias n) s (fun k =>
        k = { s.pk with cl := { s.pk.cl with core := { c with regs := k.cl.core.regs } }, pw := { s.pk.pw with bias := k.pw.bias } } ∧
        ksets 0 s.pk.pw.bias k.pw.bias n (c.tick.toNat + 1024 + 1) ∧ k.cl.core.fld pagePw 0x28 8 8 = n ∧
        k.cl.core.fld pagePw 0x28 0 1 = 0 ∧ c.only k.cl.core [regKey pagePw 0x28])) ∧
      (∀ (h : Stack) (p : Fin 32), does (.fallback h p) s (fun k => ∃ y, c.setsFld y (pageHb h) 0x28 8 5 p ∧
        k = ({ s.pk with cl := { s.pk.cl with core := y } } : Pkg).pcFault h p false true)))

/-! ## Stores -/

/-- A store write that its check serves (R174, R175, R177): every byte lands at the store address the region gives it, from REL of
a ring and from the region's base otherwise, modulo the region's size; and every byte of every store outside the 64-byte
chunks so addressed keeps its value. A refused write changes no byte of any store, and answers the code of its check. A write
of no bytes changes nothing. Where it says more than these rules it says the model's choices of log entries 91 and 92. -/
def Obligations.StoreWritePutsExactlyItsBytes : Prop :=
  ∀ (m : Clus) (clu st r b : Nat) (l : List PB) (w : Who) (unit : Nat),
    let d := m.core.region clu st r
    let n := l.length
    let code := m.writeCause clu st r b n w false
    let x := m.writeOp clu st r b l w unit
    (n = 0 → x = (0, m)) ∧
    (0 < n → code ≠ 0 → x.1 = code ∧ x.2.st.mem = m.st.mem) ∧
    (0 < n → code = 0 → 0 < d.size → (b + n - 1) / 256 - b / 256 < d.size →
      x.1 = 0 ∧
      (∀ i, i < n → kget x.2.st.mem 0 (byteKey clu st (d.addr d.writeOrigin (b + i))) = (l.getD i (0, false)).1) ∧
      ∀ j, (∀ i, i < n → j / 64 ≠ byteKey clu st (d.addr d.writeOrigin (b + i)) / 64) →
        kget x.2.st.mem 0 j = kget m.st.mem 0 j)

/-- REGION_DESCRIPTOR_WRITE (R171), FILL, COPY and COPY_ACC (R180, R181) and STORE_OP_COMPLETE (R181). A descriptor that the rules
of R171 drop leaves every store and every pending descriptor as it was, records ST_DESC_REJ and sets ACC_DROPPED; any other
waits for the next Departure and changes nothing else. A store operation that is due runs, of the slot and of a pilot that
duplicates it: a bad one changes no store byte, fails the cluster's slot with ST_OP_BAD without replay and is dead; the
granules of any other run in rising order up to the first refused one, and it stands complete but for its signal, or dead. The
completion of a finished operation ends its run, frees its engine and adds 1 to the sync counter its descriptor names. Where
it says more than these rules it says the model's choices of log entries 14, 88, 89 and 90. -/
def Obligations.DescriptorWritesAndStoreOperations : Prop :=
  ∀ s : State,
    let m := s.pk.cl
    (∀ (clu : Clu) (st : Store) (r : Fin 16) (ws : List W32),
      let d := regionOfWords ws
      (m.descBad clu st r d = true → doesCore (.regionDescriptorWrite clu st r ws) s (fun y =>
        y = { m.core with regs := y.regs, records := y.records } ∧ bitAt (y.rd (pageSt clu st) 0x18) 0 = true ∧
        (∀ i, i < 16 → y.region clu st i = m.core.region clu st i) ∧
        ∃ e, y.records = m.core.records ++ [e] ∧ e.code = 0x050B)) ∧
      (m.descBad clu st r d = false → doesClus (.regionDescriptorWrite clu st r ws) s (fun x =>
        x = { m with st := { m.st with pend := m.st.pend ++ [(clu.val, st.val, r.val, ws)] } }))) ∧
    (∀ (rg : Rgn) (n : Fin 4) (d : Fin 256) (cmd : Instr) (op : Nat),
      (cmd, op) ∈ [(Instr.fill rg n d, 3), (Instr.copy rg n d, 4), (Instr.copyAcc rg n d, 5)] →
      let runs (x : Pkg) (o : Option DmaRun) (y : Pkg) : Prop :=
        match o with
        | none => y = x
        | some r =>
          if dOp r.words = op ∧ x.dmaReady r = true then
            if x.opBad r = true then
              (∃ f, f ∈ y.cl.causes r.clu ∧ f.code = 0x0508 ∧ f.fatal = true) ∧ y.cl.st = x.cl.st ∧
              y.net = (x.setDma { r with phase := .dead }).net
            else ∃ code z, granuleLoop (opGranule r) (dTotal r.words) 0 x.cl = (code, z) ∧
              (code = 0 → y = ({ x with cl := z } : Pkg).setDma { r with phase := .running, next := pieces r.words }) ∧
              (code ≠ 0 → y = ({ x with cl := z } : Pkg).setDma { r with phase := .dead })
          else y = x
      does cmd s (fun k => ∃ y, runs s.pk (s.pk.findRun rg n d) y ∧ runs y (y.pilotRun rg n d) k)) ∧
    (∀ (rg : Rgn) (n : Fin 4) (d : Fin 256) (r : DmaRun), s.pk.findRun rg n d = some r → s.pk.pilotRun rg n d = none →
      r.finished = true → r.engine = 8 → does (.storeOpComplete rg n d) s (fun k =>
        let w := dW r.words 0
        k = { s.pk with cl := k.cl, net := { s.pk.net with runs := s.pk.net.runs.map (fun x =>
          if x.rg = r.rg ∧ x.slot = r.slot ∧ x.desc = r.desc ∧ x.pilot = r.pilot then { r with phase := .complete, engine := 8 }
          else x) } } ∧
        (bitAt w 57 = false → k.cl = m) ∧
        (bitAt w 57 = true → k.cl = { m with sc := { m.sc with sync := k.cl.sc.sync } } ∧
          ksets 0 m.sc.sync k.cl.sc.sync (16 * r.clu + bitsAt w 53 4) ((m.sync r.clu (bitsAt w 53 4) + 1) % 65536))))

/-- SCRUB_READ, SCRUB_CTRL_WRITE (R182, R184, R185) and HOME_FLUSH (R188). A scrub read of a pass moves the pass to the next word,
wrapping at the store's size, and changes no byte; a correctable error of the word it reads is corrected and an uncorrectable
one poisons the word; with no error in the word nothing else changes; with EN 0 nothing changes. A write of xST_SCRUB sets its
fields, SCRUB_ACTIVE follows EN, and EN 0 returns the pass to address 0. A home flush of a region that keeps no home copy does
nothing, and none is made while a line clear holds VC2; of a region with no granule left to copy it writes the pointer record;
otherwise it copies the next granule home: the lowest dirty one of a read-only region, whose mark it clears, or the first
released one of a ring that FLUSH has not passed, moving FLUSH on by one, with the pointer record when FLUSH reaches REL. Where
it says more than these rules it says the model's choices of log entries 92, 93, 96, 134, 218 and 281. -/
def Obligations.ScrubAndHomeFlush : Prop :=
  ∀ (s : State) (clu : Clu) (st : Store),
    let m := s.pk.cl
    let p := pageSt clu st
    let a := kget m.st.scrub 0 (3 * clu.val + st.val)
    let wk := wordKey clu st a
    let next := (a + 32) % storeSize st
    let hit := m.st.errs.filter (fun e => decide (e.1 = wk))
    (bitAt (m.core.rd p 0x58) 31 = false → exec (.scrubRead clu st) s = .next s) ∧
    (∀ i, bitAt (m.core.rd p 0x58) 31 = true → a = 32 * i → i < storeSize st / 32 → hit = [] →
      doesClus (.scrubRead clu st) s (fun x => x = { m with st := { m.st with scrub := x.st.scrub } } ∧
        ksets 0 m.st.scrub x.st.scrub (3 * clu.val + st.val) next)) ∧
    (∀ i e, bitAt (m.core.rd p 0x58) 31 = true → a = 32 * i → i < storeSize st / 32 → hit = [(wk, e)] →
      doesClus (.scrubRead clu st) s (fun x =>
        x.st.mem = m.st.mem ∧ ksets 0 m.st.scrub x.st.scrub (3 * clu.val + st.val) next ∧ ksets 0 m.st.errs x.st.errs wk 0 ∧
        x.st.poison = (if e = 1 ∨ e = 3 then m.st.poison else kput m.st.poison false wk true))) ∧
    (∀ v : W32, doesClus (.scrubCtrlWrite clu st v) s (fun x =>
      x = { m with core := { m.core with regs := x.core.regs }, st := { m.st with scrub := x.st.scrub } } ∧
      x.core.rd p 0x58 = v &&& 0x8000FFFF ∧ bitAt (x.core.rd p 0x40) 30 = bitAt v 31 ∧
      m.core.only x.core [regKey p 0x58, regKey p 0x40] ∧
      (bitAt v 31 = true → x.st = m.st) ∧ (bitAt v 31 = false → ksets 0 m.st.scrub x.st.scrub (3 * clu.val + st.val) 0))) ∧
    (∀ r : Fin 16,
      let d := m.core.region clu st r
      let mark (g : Nat) : Nat := 65536 * (3 * clu.val + st.val) + d.base + g
      let flush := Instr.homeFlush clu st r
      let may := d.homeKept = true ∧ s.pk.net.hold = false
      let done := d.flushed (kget m.st.flushed false (homeKey clu st r))
      let copied (g : Nat) : Pkg :=
        let x := m.stTouch clu st ((d.base + g) * 256) 256 unitLine r
        ({ s.pk with cl := x } : Pkg).homeWrite clu st r (256 * g) (x.stRaw clu st ((d.base + g) * 256) 256)
      (¬ may → exec flush s = .next s) ∧
      (may → d.mode = 3 → (∀ g, g < d.size → kget m.st.dirty false (mark g) = false) →
        does flush s (fun k => k = s.pk.homeRecord clu st r)) ∧
      (may → d.mode ≠ 3 → d.used ≤ done → does flush s (fun k => k = s.pk.homeRecord clu st r)) ∧
      (∀ g, may → d.mode = 3 → g < d.size → kget m.st.dirty false (mark g) = true →
        (∀ i, i < g → kget m.st.dirty false (mark i) = false) → does flush s (fun k =>
          let w := copied g
          k = { w with cl := { w.cl with st := { w.cl.st with dirty := k.cl.st.dirty } } } ∧
          ksets false w.cl.st.dirty k.cl.st.dirty (mark g) false)) ∧
      (may → d.mode ≠ 3 → done < d.used → 0 < d.size → d.size ≤ 65536 → does flush s (fun k => ∃ y : Pkg,
        let g := (d.tail + done) % d.size
        let w := copied g
        y = { w with cl := { w.cl with core := y.cl.core, st := { w.cl.st with flushed := y.cl.st.flushed } } } ∧
        w.cl.core.setsFld y.cl.core p (regionOff r + 28) 0 16 ((g + 1) % d.size) ∧
        ksets false w.cl.st.flushed y.cl.st.flushed (homeKey clu st r) (decide ((g + 1) % d.size = d.rel)) ∧
        k = if (g + 1) % d.size = d.rel then y.homeRecord clu st r else y)))

/-! ## Matrix cores -/

/-- The M-core's tile instructions act at the head of the tile queue (R83, R85, R100): with an empty queue or with another
instruction at the head, MLOAD, MMA, MMAS, MDRAIN, MSYNC and MCHK change nothing; a reserved opcode at the head discards the
instruction and the rest of the queue, fails the cluster's slot without replay with MC_BAD_INSTR and records it. The same
happens for an MLOAD whose format is reserved or whose reserved bits are set, and for an MMA or MMAS that breaks the rules of
R100. -/
def Obligations.TileInstructionsActAtTheHeadOfTheQueue : Prop :=
  ∀ (s : State) (u : Clu) (i : Fin 2),
    let m := s.pk.cl
    let bad (cmd : Instr) : Prop := doesClus cmd s (fun x =>
      x = { m with core := { m.core with regs := x.core.regs, records := x.core.records },
                   tt := { m.tt with fails := x.tt.fails }, mc := { m.mc with queue := x.mc.queue, waiting := x.mc.waiting } } ∧
      ksets [] m.mc.queue x.mc.queue (mKey u i) [] ∧ ksets false m.mc.waiting x.mc.waiting (mKey u i) false ∧
      (∃ f, f ∈ x.causes u ∧ f.code = 0x0202 ∧ f.fatal = true) ∧
      ∃ e, x.core.records = m.core.records ++ [e] ∧ e.code = 0x0202)
    (∀ (cmd : Instr) (op : Nat), (cmd, op) ∈ [(Instr.mload u i, 1), (Instr.mma u i, 2), (Instr.mmas u i, 3),
        (Instr.mdrain u i, 4), (Instr.msync u i, 5), (Instr.mchk u i, 6)] →
      (m.mQueue u i = [] → exec cmd s = .next s) ∧
      (∀ w q, m.mQueue u i = w :: q → 1 ≤ opcOf w → opcOf w < 7 → opcOf w ≠ op → exec cmd s = .next s) ∧
      (∀ w q, m.mQueue u i = w :: q → opcOf w = 0 ∨ 7 ≤ opcOf w → bad cmd)) ∧
    (∀ w q, m.mQueue u i = w :: q → opcOf w = 1 → m.mLoad u 0 = none → m.mLoad u 1 = none →
      (tf w 116 4 = 0 ∨ tf w 116 4 = 6 ∨ tf w 16 80 ≠ 0 ∨ tf w 120 1 ≠ 0) → bad (.mload u i)) ∧
    (∀ w q, m.mQueue u i = w :: q → m.mLoad u i = none →
      (opcOf w = 2 ∧ m.mmaBad u i w false = true → bad (.mma u i)) ∧
      (opcOf w = 3 ∧ m.mmaBad u i w true = true → bad (.mmas u i)))

/-- MLOAD and MLOAD_COMPLETE (R59, R80, R84, R94, R96). An MLOAD with its reserved bits zero and its image inside the region,
neither M-core of the cluster loading, reads the image, takes the instruction off the queue, makes the buffer or the quarter
that it loads unusable and leaves the load in progress; in a format with a header (GFP4, T2) that holds where the header and
the records are sound or the header is poisoned, which then loads as for EXT_COUNT 0 and ROWSCALE 0, and an unpoisoned
malformed header fails the slot without replay instead. The row-scale plane of a quarter with h = 1 is not read. While either
M-core of the cluster loads, an MLOAD waits. Its completion ends the load and puts the image into the buffer, which is then
valid in the image's format; with no load in progress nothing happens. Where it says more than these rules it says the model's
choices of log entries 59, 63, 294 and 295. -/
def Obligations.MloadFillsTheBufferItNames : Prop :=
  ∀ (s : State) (u : Clu) (i : Fin 2),
    let m := s.pk.cl
    (∀ w q, m.mQueue u i = w :: q → opcOf w = 1 → (m.mLoad u 0).isSome ∨ (m.mLoad u 1).isSome →
      exec (.mload u i) s = .next s) ∧
    (∀ w q,
      let fmt := tf w 116 4
      let own := Who.own (m.jobOn u)
      let hasHdr : Bool := decide (fmt = 14 ∨ fmt = 15)
      let h := m.readOp u 0 (tf w 112 4) (256 * tf w 96 16) 64 own i
      let hb := h.1.map (·.1)
      let hp := hasHdr && h.1.any (·.2)
      let m1 := if hasHdr then h.2.2 else m
      let ext := if fmt = 14 ∧ hp = false then hdrExt hb else 0
      let row := decide (fmt = 15) && !hp && hdrRow hb
      let read := m1.readOp u 0 (tf w 112 4) (256 * tf w 96 16) (imageBytes fmt ext (row && decide (tf w 122 1 = 0))) own i
      let raw := read.1.map (·.1)
      let bs := if hp then List.replicate 64 0 ++ raw.drop 64 else raw
      let b : Nat := if tf w 123 1 = 1 then 1 else 0
      let old := read.2.2.mBuf u i b
      let q4 := 2 * tf w 122 1 + tf w 121 1
      let other := kget old.imgs [] (2 * (1 - tf w 122 1) + tf w 121 1)
      m.mQueue u i = w :: q → opcOf w = 1 → m.mLoad u 0 = none → m.mLoad u 1 = none → tf w 120 1 = 0 → tf w 16 80 = 0 →
      (fmt ≠ 15 → tf w 121 2 = 0) → fmt ≠ 0 → fmt ≠ 6 →
      m.core.fits u 0 (tf w 112 4) (tf w 96 16) ((tileBytes fmt + 255) / 256) = true →
      (hasHdr = true → hp = false → hdrBad fmt hb = true → doesClus (.mload u i) s (fun x =>
        (∃ f, f ∈ x.causes u ∧ f.code = 0x0222 ∧ f.fatal = true) ∧ x.mQueue u i = (h.2.2.mQueue u i).tail ∧
        x.mc.load = h.2.2.mc.load ∧ x.mc.bufs = h.2.2.mc.bufs)) ∧
      ((hasHdr = true → hp = false → hdrBad fmt hb = false) →
        m1.core.fits u 0 (tf w 112 4) (tf w 96 16) ((imageBytes fmt ext row + 255) / 256) = true →
        (fmt = 14 → gfpBad read.1 ext = false ∧ (hdrPolicy bs = 2 → ∀ k, k < 2048 → (extOfBlock bs ext k).length < 2)) →
        (fmt = 15 → hp = false → old.fmt = 15 →
          bitAt (BitVec.ofNat 4 old.quads) (2 * (1 - tf w 122 1) + tf w 121 1) = true → imgByte other 0 % 16 = 15 →
          hdrRow other = hdrRow bs) →
        doesClus (.mload u i) s (fun x =>
          ksets [] read.2.2.mc.queue x.mc.queue (mKey u i) (read.2.2.mQueue u i).tail ∧
          ksets none read.2.2.mc.load x.mc.load (mKey u i) (some (w, bs, read.1.any (·.2))) ∧
          ksets emptyBuf read.2.2.mc.bufs x.mc.bufs (2 * mKey u i + b)
            (if fmt = 15 ∧ old.fmt = 15 then { old with quads := old.quads &&& (15 - 2 ^ q4) }
             else { emptyBuf with fmt := fmt }) ∧
          x.st = read.2.2.st ∧ x.vc = read.2.2.vc ∧ x.sc = read.2.2.sc ∧ x.sa = read.2.2.sa ∧ x.msg = read.2.2.msg ∧
          x.tab = read.2.2.tab))) ∧
    (m.mLoad u i = none → exec (.mloadComplete u i) s = .next s) ∧
    (∀ w bs pois,
      let fmt := tf w 116 4
      let n := 2 * mKey u i + tf w 123 1
      let part := 2 * tf w 122 1 + tf w 121 1
      m.mLoad u i = some (w, bs, pois) → doesClus (.mloadComplete u i) s (fun x =>
        x = { m with mc := { m.mc with bufs := x.mc.bufs, load := x.mc.load } } ∧
        ksets none m.mc.load x.mc.load (mKey u i) none ∧
        (∀ j, j ≠ n → kget x.mc.bufs emptyBuf j = kget m.mc.bufs emptyBuf j) ∧
        (x.mBuf u i (tf w 123 1)).valid = true ∧ (x.mBuf u i (tf w 123 1)).fmt = fmt ∧
        (fmt ≠ 15 → kget (x.mBuf u i (tf w 123 1)).imgs [] 0 = bs ∧
          ((x.mBuf u i (tf w 123 1)).poison ≠ 0 ↔ pois = true)) ∧
        (fmt = 15 → kget (x.mBuf u i (tf w 123 1)).imgs [] part = bs ∧
          bitAt (BitVec.ofNat 4 (x.mBuf u i (tf w 123 1)).quads) part = true)))

/-- MMA and MMAS (R85, R86, R92) and OUTPUT_ROW_ARRIVE (R86, R168). An MMA waits while the buffer it names is loading. Otherwise,
with nothing that R100 rejects, it appends one output row for each of its ROWS + 1 activation rows, in rising order, each for
the P-store bytes of its row, takes itself off the queue and stores no byte. An MMAS does so too where its segment descriptor
is sound, and fails the slot without replay where an unpoisoned one is malformed. An arriving row is written at its P-store
address, or accumulated there where INIT is 0, and leaves the list of rows; with no row in flight nothing happens. Where it
says more than these rules it says the model's choices of log entries 59, 60 and 61. -/
def Obligations.MmaProducesRowsThatArriveInTheAccumulatorStore : Prop :=
  ∀ (s : State) (u : Clu) (i : Fin 2) (w : W128) (q : List W128),
    let m := s.pk.cl
    let b := m.mBuf u i (tf w 123 1)
    let rows := tf w 104 12 + 1
    let outs := if b.fmt = 15 then 512 else 256
    let produces (cmd : Instr) : Prop := doesClus cmd s (fun x =>
      x.mQueue u i = q ∧ x.st.mem = m.st.mem ∧ x.vc = m.vc ∧ x.sc = m.sc ∧ x.sa = m.sa ∧ x.msg = m.msg ∧ x.tab = m.tab ∧
      x.mc.bufs = m.mc.bufs ∧ x.mc.load = m.mc.load ∧ (x.mRows u i).length = (m.mRows u i).length + rows ∧
      (x.mRows u i).take (m.mRows u i).length = m.mRows u i ∧
      ∀ k, k < rows → ∃ r, (x.mRows u i)[(m.mRows u i).length + k]? = some r ∧ r.reg = tf w 60 4 ∧
        r.off = 256 * tf w 44 16 + k * (4 * outs) ∧ r.init = decide (tf w 122 1 = 1) ∧ r.vals.length = outs)
    (m.mQueue u i = w :: q →
      (∀ l bs p, (opcOf w = 2 ∨ opcOf w = 3) → m.mLoad u i = some (l, bs, p) → tf l 123 1 = tf w 123 1 →
        exec (.mma u i) s = .next s ∧ exec (.mmas u i) s = .next s) ∧
      ((∀ l bs p, m.mLoad u i = some (l, bs, p) → tf l 123 1 ≠ tf w 123 1) →
        (opcOf w = 2 → m.mmaBad u i w false = false → produces (.mma u i)) ∧
        (opcOf w = 3 → m.mmaBad u i w true = false →
          let d := m.readOp u 1 (tf w 40 4) (256 * tf w 24 16) 128 (.own (m.jobOn u)) i
          (d.1.any (·.2) = true ∨ (segDesc (d.1.map (·.1))).isSome → produces (.mmas u i)) ∧
          (d.1.any (·.2) = false → segDesc (d.1.map (·.1)) = none → doesClus (.mmas u i) s (fun x =>
            x.mQueue u i = [] ∧ x.mRows u i = m.mRows u i ∧ ∃ f, f ∈ x.causes u ∧ f.code = 0x0203 ∧ f.fatal = true))))) ∧
    (m.mRows u i = [] → exec (.outputRowArrive u (.one i)) s = .next s) ∧
    (m.mRows u 0 = [] ∨ m.mRows u 1 = [] → exec (.outputRowArrive u .both) s = .next s) ∧
    (∀ r rest, m.mRows u i = r :: rest → doesClus (.outputRowArrive u (.one i)) s (fun x =>
      x.mRows u i = rest ∧ x.mc.queue = m.mc.queue ∧ x.vc = m.vc ∧ x.sc = m.sc ∧ x.sa = m.sa ∧
      (r.init = true → x.st = (m.writeOp u 2 r.reg r.off ((r.vals.map bytes4).flatten.map (fun e => (e, r.poison)))
        (.own (m.jobOn u)) i).2.st) ∧
      (r.init = false →
        x.st = (m.accOp u 2 r.reg r.off (r.vals.map (fun v => (v, r.poison))) r.int (.own (m.jobOn u)) i r.masked).2.2.st))) ∧
    (∀ a ra c rc, m.mRows u 0 = a :: ra → m.mRows u 1 = c :: rc → doesClus (.outputRowArrive u .both) s (fun x =>
      x.mRows u 0 = ra ∧ x.mRows u 1 = rc ∧ x.st = (((m.putRow u 0 a).setMRows u 0 ra).putRow u 1 c).st ∧
      let ga := m.rowGranules u a
      let gc := m.rowGranules u c
      ((∃ p, p ∈ ga ∧ ∃ r, r ∈ gc ∧ p % 16 = r % 16) → ¬(ga = gc ∧ a.init = false ∧ c.init = false) →
        ∃ f, f ∈ x.causes u ∧ f.code = 0x0503)))

/-- MDRAIN (R87), MSYNC (R88), MCHK (R89) and ROW_CHECK (R97, R99): each completes, with this effect. MDRAIN, with its reserved
fields zero, a legal conversion and regions that hold its rows, waits for the rows in flight; then it drains its ROWS + 1 rows
in rising order, each read from the P-store and written, with the scales of a block format, at the destination, and takes itself
off the queue. MSYNC, with its reserved fields zero, waits for the engines it names; then SIGNAL adds 1 to its sync counter,
WAIT takes itself off the queue where the counter has reached its value and is marked as waiting where not, and OP 0 only takes
itself off. MCHK waits for the rows and checks, then writes its 32-byte report to data memory. A row check that is due is taken
off the list: a skipped one counts as skipped, a passing one counts and raises the margin, and a failing one counts as failed,
notes its ITAG and row where it is the tick's first, and fails the slot with MC_CHECK_FAIL. Where it says more than these
rules it says the model's choices of log entries 58 and 59. -/
def Obligations.DrainSyncReportAndRowChecks : Prop :=
  ∀ (s : State) (u : Clu) (i : Fin 2) (w : W128) (q : List W128),
    let m := s.pk.cl
    let p := pageMc u i
    let gr (n : Nat) : Nat := (n + 255) / 256
    let popped (x : Clus) : Prop :=
      ksets [] m.mc.queue x.mc.queue (mKey u i) q ∧ ksets false m.mc.waiting x.mc.waiting (mKey u i) false
    (m.mQueue u i = w :: q → opcOf w = 4 → m.mRows u i ≠ [] → exec (.mdrain u i) s = .next s) ∧
    (m.mQueue u i = w :: q → opcOf w = 4 → m.mRows u i = [] →
      let fmt := tf w 116 4
      let dst := if tf w 123 1 = 1 then 0 else 1
      let mx := isBlockFmt fmt
      let rows := tf w 104 12 + 1
      tf w 120 1 = 0 → tf w 16 28 = 0 → drainOk fmt (decide (tf w 121 1 = 1)) (decide (tf w 122 1 = 1)) = true →
      (mx = false → tf w 60 4 = 0 ∧ tf w 44 16 = 0) →
      m.core.fits u 2 (tf w 100 4) (tf w 84 16) (gr (rows * 1024)) = true →
      m.core.fits u dst (tf w 80 4) (tf w 64 16) (gr (rows * rowBytes fmt 256)) = true →
      (mx = true → m.core.fits u dst (tf w 60 4) (tf w 44 16) (gr (rows * 8)) = true) →
      doesClus (.mdrain u i) s (fun x =>
        let own := Who.own (m.jobOn u)
        let sr := decide (tf w 122 1 = 1)
        let drain (k : Nat) (y : Clus) : Clus :=
          let src := y.readOp u 2 (tf w 100 4) (256 * tf w 84 16 + 1024 * k) 1024 own i
          let row := drainRow fmt (decide (tf w 121 1 = 1)) sr (m.seedU u i)
            (kget m.mc.srn 0 (mKey u i) + (if sr then 256 * k else 0)) src.1
          let z := (src.2.2.writeOp u dst (tf w 80 4) (256 * tf w 64 16 + rowBytes fmt 256 * k) row.1 own i).2
          if mx then (z.writeOp u dst (tf w 60 4) (256 * tf w 44 16 + 8 * k) row.2.1 own i).2 else z
        let y := iter rows drain m
        popped x ∧ x.st = y.st ∧ x.core = y.core ∧ x.tt = y.tt ∧
        kget x.mc.srn 0 (mKey u i) = kget m.mc.srn 0 (mKey u i) + (if sr then 256 * rows else 0) ∧
        x.sc = m.sc ∧ x.vc = m.vc ∧ x.sa = m.sa ∧ x.msg = m.msg ∧ x.tab = m.tab ∧ x.mc.bufs = m.mc.bufs ∧
        x.mc.load = m.mc.load ∧ x.mc.rows = m.mc.rows)) ∧
    (m.mQueue u i = w :: q → opcOf w = 5 → tf w 120 1 = 0 → tf w 16 82 = 0 → tf w 114 2 ≠ 3 →
      let c := tf w 116 4
      (m.mIdle u i (tf w 121 3) = false → exec (.msync u i) s = .next s) ∧
      (m.mIdle u i (tf w 121 3) = true → tf w 114 2 = 1 → doesClus (.msync u i) s (fun x =>
        x = { m with mc := { m.mc with queue := x.mc.queue, waiting := x.mc.waiting }, sc := { m.sc with sync := x.sc.sync } } ∧
        popped x ∧ ksets 0 m.sc.sync x.sc.sync (16 * u.val + c) ((m.sync u c + 1) % 65536))) ∧
      (m.mIdle u i (tf w 121 3) = true → tf w 114 2 = 0 ∨ (tf w 114 2 = 2 ∧ tf w 98 16 ≤ m.sync u c) →
        doesClus (.msync u i) s (fun x =>
          x = { m with mc := { m.mc with queue := x.mc.queue, waiting := x.mc.waiting } } ∧ popped x)) ∧
      (m.mIdle u i (tf w 121 3) = true → tf w 114 2 = 2 → m.sync u c < tf w 98 16 → doesClus (.msync u i) s (fun x =>
        x = { m with mc := { m.mc with waiting := x.mc.waiting } } ∧ ksets false m.mc.waiting x.mc.waiting (mKey u i) true))) ∧
    (m.mQueue u i = w :: q → opcOf w = 6 → tf w 109 15 = 0 → tf w 16 80 = 0 →
      (m.mIdle u i 3 = false → exec (.mchk u i) s = .next s) ∧
      (m.mIdle u i 3 = true → doesClus (.mchk u i) s (fun x =>
        let a := dmemBase u + 32 * tf w 96 13
        let r := m.mRec u i
        x = { m with core := { m.core with win := x.core.win }, mc := { m.mc with queue := x.mc.queue, waiting := x.mc.waiting },
                     sc := { m.sc with dpoi := x.sc.dpoi } } ∧
        popped x ∧ ksets false m.sc.dpoi x.sc.dpoi (8192 * u.val + tf w 96 13) false ∧
        x.core.winRds a 32 = leBytes 4 r.checked ++ leBytes 4 r.skipped ++ leBytes 4 r.failed ++ leBytes 4 r.ratio.toNat ++
          leBytes 2 r.firstTag ++ leBytes 2 r.firstRow ++ List.replicate 12 0 ∧
        ∀ j, j < a ∨ a + 32 ≤ j → x.core.winRd j = m.core.winRd j))) ∧
    (m.mChecks u i = [] → exec (.rowCheck u i) s = .next s) ∧
    (∀ k rest, m.mChecks u i = k :: rest → rest.length < ((m.mRows u i).filter (fun r => r.chk)).length →
      exec (.rowCheck u i) s = .next s) ∧
    (∀ k rest, m.mChecks u i = k :: rest → ((m.mRows u i).filter (fun r => r.chk)).length ≤ rest.length →
      doesClus (.rowCheck u i) s (fun x =>
        let r := m.mRec u i
        let y := x.mRec u i
        x.mChecks u i = rest ∧ x.st = m.st ∧ x.vc = m.vc ∧ x.sc = m.sc ∧ x.sa = m.sa ∧ x.mc.rows = m.mc.rows ∧
        (k.skip = true → y = { r with skipped := r.skipped + 1 } ∧ x.core.rd p 0xC8 = satInc32 (m.core.rd p 0xC8) 1) ∧
        (k.skip = false → y.checked = r.checked + 1 ∧ y.ratio = maxW r.ratio k.ratio ∧ y.skipped = r.skipped) ∧
        (k.skip = false → k.fail = false → y.failed = r.failed ∧ x.tt = m.tt ∧ x.core.rd p 0xD0 = maxW (m.core.rd p 0xD0) k.ratio) ∧
        (k.skip = false → k.fail = true → y.failed = r.failed + 1 ∧ (r.failed = 0 → y.firstTag = k.itag ∧ y.firstRow = k.row) ∧
          x.core.rd p 0xCC = satInc32 (m.core.rd p 0xCC) 1 ∧ ∃ f, f ∈ x.causes u ∧ f.code = 0x0201)))

/-! ## Scalar cores -/

/-- Tile words and the tile queues at the S-core (R121, R122, R124): TSTLO, TSTHI and TFLD put their field of the staging
register, TISSUE and TTRY append it to the queue of a unit with room, TQDEPTH reads a queue's depth, and each moves the PC on
by 4 and leaves everything else. TISSUE to a full queue stalls until QUEUE_ROOM_RESUME finds room, TTRY then answers 1; TISSUE
in a handler, a TFLD past bit 127 and a unit number with no queue trap. A register-writing instruction is stated with no armed
LS_FLIP. QUEUE_ROOM_RESUME (R121): a TISSUE stalled on a full queue issues its word once the queue has room, and the program
goes on behind it; in any other state of the S-core, or while the queue is still full, nothing changes. Where it says more
than these rules it says the model's choices of log entry 72. -/
def Obligations.StagingRegisterAndTileQueueInstructions : Prop :=
  (∀ (s : State) (u : Clu),
      let m := s.pk.cl
      let y := m.score u
      let next := y.pc + 4
      let room (q : Nat) : Prop := (m.unitQueue u q).length < 32
      m.sRuns u = true →
      (∀ rs1 : XReg,
        doesClus (.tstlo u rs1) s (fun x => m.sEffect x u { y.move next with stage := putBits y.stage 0 64 (m.xr u rs1).toNat } 0 0) ∧
        doesClus (.tsthi u rs1) s (fun x => m.sEffect x u { y.move next with stage := putBits y.stage 64 64 (m.xr u rs1).toNat } 0 0)) ∧
      (∀ (rs1 : XReg) (pos : Fin 128) (len : Fin 32),
        (pos.val + len.val < 128 → doesClus (.tfld u rs1 pos len) s (fun x =>
          m.sEffect x u { y.move next with stage := putBits y.stage pos (len + 1) (m.xr u rs1).toNat } 0 0)) ∧
        (128 ≤ pos.val + len.val → doesClus (.tfld u rs1 pos len) s (fun x => m.sTraps x u 0x0302))) ∧
      (∀ (q : Fin 128) (rd : XReg), unitOk q = false →
        doesClus (.tissue u q) s (fun x => m.sTraps x u 0x0302) ∧ doesClus (.ttry u rd q) s (fun x => m.sTraps x u 0x0302) ∧
        doesClus (.tqdepth u rd q) s (fun x => m.sTraps x u 0x0302)) ∧
      (∀ q : Fin 128, unitOk q = true →
        (y.mode = .handler → doesClus (.tissue u q) s (fun x => m.sTraps x u 0x0305)) ∧
        (y.mode ≠ .handler → room q → doesClus (.tissue u q) s (fun x =>
          (m.pushUnit u q y.stage).sEffect x u (y.move next) 0 0 ∧ x.unitQueue u q = m.unitQueue u q ++ [y.stage])) ∧
        (y.mode ≠ .handler → ¬ room q → doesClus (.tissue u q) s (fun x => m.sEffect x u { y with wait := .queue q } 0 0))) ∧
      (∀ (q : Fin 128) (rd : XReg), unitOk q = true → bitAt (m.core.rd (pageS u) 0x28) 0 = false →
        (room q → doesClus (.ttry u rd q) s (fun x =>
          (m.pushUnit u q y.stage).sEffect x u (y.move next) rd 0 ∧ x.unitQueue u q = m.unitQueue u q ++ [y.stage])) ∧
        (¬ room q → doesClus (.ttry u rd q) s (fun x => m.sEffect x u (y.move next) rd 1)) ∧
        doesClus (.tqdepth u rd q) s (fun x => m.sEffect x u (y.move next) rd (BitVec.ofNat 64 (m.unitQueue u q).length)))) ∧
  (∀ (s : State) (u : Clu),
      let m := s.pk.cl
      let y := m.score u
      (∀ q, y.wait = .queue q → y.mode = .program → (m.unitQueue u q).length < 32 → unitOk q = true →
        doesClus (.queueRoomResume u) s (fun x =>
          (m.pushUnit u q y.stage).sEffect x u { y with wait := .none, pc0 := y.pc0 + 4 } 0 0 ∧
          x.unitQueue u q = m.unitQueue u q ++ [y.stage])) ∧
      (∀ q, y.wait = .queue q → 32 ≤ (m.unitQueue u q).length → exec (.queueRoomResume u) s = .next s) ∧
      ((∀ q, y.wait ≠ .queue q) ∨ y.mode ≠ .program → exec (.queueRoomResume u) s = .next s))

/-- An S-core instruction acts only where its S-core executes (R118, R128): with the pair idle, halted or stalled, none of them
changes anything. ECALL traps with VS_ECALL, and so does EBREAK below debug level 2; EBREAK at level 2 or above halts the pair
for the debug path; any other encoding traps with VS_ILLEGAL (R128, R463). A lockstep mismatch halts its pair and gives the
slot the cause VS_LOCKSTEP, and a V-core loses its queue (R126). Where it says more than these rules it says the model's
choices of log entries 72, 74, 75 and 77. -/
def Obligations.ScoreRunsOnlyWhereItMayAndTraps : Prop :=
  ∀ (s : State) (u : Clu),
    let m := s.pk.cl
    let y := m.score u
    (m.sRuns u = false → ∀ (a b rd : XReg) (pos q : Fin 128) (len : Fin 32) (imm : BitVec 12) (f3 : BitVec 3) (cmd : Instr),
      cmd ∈ [Instr.tstlo u a, .tsthi u a, .tfld u a pos len, .tissue u q, .ttry u rd q, .tqdepth u rd q, .msend u a b,
        .msendt u a b, .msendnb u rd a b, .msendtnb u rd a b, .tsig u a, .twaitc u a b, .tend u, .mret u,
        .tbwait u rd a, .tbset u a b, .tbread u rd a, .windowLoad u rd a imm f3, .windowStore u a b imm f3, .fence u,
        .csrRead u rd imm, .ecall u, .ebreak u, .illegalInstruction u] → exec cmd s = .next s) ∧
    (m.sRuns u = false → ∀ a : XReg, exec (.tbarrive u a) s = .next { s with pk := s.pk.lineFlush }) ∧
    (m.sRuns u = true →
      doesClus (.ecall u) s (fun x => m.sTraps x u 0x0304) ∧
      doesClus (.illegalInstruction u) s (fun x => m.sTraps x u 0x0302) ∧
      (m.core.dbgLevel < 2 → doesClus (.ebreak u) s (fun x => m.sTraps x u 0x0304)) ∧
      (2 ≤ m.core.dbgLevel → doesClus (.ebreak u) s (fun x =>
        (x.score u).mode = .halted ∧ (x.score u).dbgHalt = true ∧ x.mc = m.mc ∧ x.vc = m.vc ∧ x.sa = m.sa ∧ x.msg = m.msg ∧
        x.st = { m.st with dig := x.st.dig } ∧
        (m.withdrawOn u = m → m.sEffect x u { y with mode := .halted, dbgHalt := true } 0 0)))) ∧
    (∀ (v : Fin 2) (w : LsUnit), w = (if v = 0 then .v0 else .v1) → doesClus (.lockstepMismatch u w) s (fun x =>
      x = { m with core := x.core, tt := { m.tt with fails := x.tt.fails },
                   vc := { m.vc with queue := x.vc.queue, halted := x.vc.halted, waiting := x.vc.waiting } } ∧
      ksets [] m.vc.queue x.vc.queue (vKey u v) [] ∧ ksets false m.vc.halted x.vc.halted (vKey u v) true ∧
      ksets false m.vc.waiting x.vc.waiting (vKey u v) false ∧
      x.core.rd (pageV u v) 0x44 = satInc32 (m.core.rd (pageV u v) 0x44) 1 ∧ ∃ f, f ∈ x.causes u ∧ f.code = 0x0301)) ∧
    doesClus (.lockstepMismatch u .score) s (fun x => (x.score u).mode = .halted ∧ (x.score u).tend = true ∧
      (∃ f, f ∈ x.causes u ∧ f.code = 0x0301) ∧ x.mc = m.mc ∧ x.vc = m.vc ∧ x.sa = m.sa ∧ x.msg = m.msg)

/-- TSIG, TWAITC, SYNC_COUNTER_RESUME, TEND, MRET, FENCE and CSR_READ (R88, R120, R121, R124, R125, R248). TSIG adds 1 to a sync
counter of the cluster modulo 65,536. TWAITC goes on where its counter has reached its value and stalls where not; in a
handler it traps. A waiter goes on once its counter has reached its value, and not before. TEND ends a program and traps in a
handler; MRET returns a handler to the program or to idle, moves RD past the record it handled, and traps in a program. FENCE
goes on. CSR_READ reads TICK, its own start tick, CYCLE or PLACE, and any other CSR traps. Each moves the PC on by 4. Where it
says more than these rules it says the model's choices of log entries 72 and 73. -/
def Obligations.SyncExitFenceAndCsrInstructions : Prop :=
  ∀ (s : State) (u : Clu),
    let m := s.pk.cl
    let y := m.score u
    let next := y.move (y.pc + 4)
    (m.sRuns u = true →
      (∀ a : XReg, doesClus (.tsig u a) s (fun x =>
        let i := bitsAt (m.xr u a) 0 4
        x = { m with sc := { m.sc with core := x.sc.core, sync := x.sc.sync } } ∧ ksets idleCore m.sc.core x.sc.core u next ∧
        ksets 0 m.sc.sync x.sc.sync (16 * u.val + i) ((m.sync u i + 1) % 65536))) ∧
      (∀ a b : XReg,
        let i := bitsAt (m.xr u a) 0 4
        let v := bitsAt (m.xr u b) 0 16
        (y.mode = .handler → doesClus (.twaitc u a b) s (fun x => m.sTraps x u 0x0305)) ∧
        (y.mode ≠ .handler → v ≤ m.sync u i → doesClus (.twaitc u a b) s (fun x => m.sEffect x u next 0 0)) ∧
        (y.mode ≠ .handler → m.sync u i < v → doesClus (.twaitc u a b) s (fun x =>
          m.sEffect x u { y with wait := .counter i v } 0 0))) ∧
      (y.mode = .handler → doesClus (.tend u) s (fun x => m.sTraps x u 0x0302)) ∧
      (y.mode ≠ .handler → doesClus (.tend u) s (fun x =>
        (x.score u).mode = .idle ∧ (x.score u).progOn = false ∧ (x.score u).tend = true ∧ x.mc = m.mc ∧ x.vc = m.vc ∧
        x.st = { m.st with dig := x.st.dig } ∧ x.msg = m.msg ∧
        (m.withdrawOn u = m → m.sEffect x u { y with mode := .idle, progOn := false, tend := true, pc0 := y.pc0 + 4 } 0 0))) ∧
      (y.mode ≠ .handler → doesClus (.mret u) s (fun x => m.sTraps x u 0x0302)) ∧
      (y.mode = .handler → doesClus (.mret u) s (fun x =>
        { x with core := m.core } = m.setScore u { y with mode := if y.progOn then .program else .idle, progOn := false } ∧
        x.core = (if m.core.chOpen u y.hch then m.core.ringPop u y.hch (m.core.ringHead u y.hch).2.2 else m.core))) ∧
      doesClus (.fence u) s (fun x => m.sEffect x u next 0 0) ∧
      (∀ (rd : XReg) (n : BitVec 12), bitAt (m.core.rd (pageS u) 0x28) 0 = false →
        (n = 0xCC0 → doesClus (.csrRead u rd n) s (fun x =>
          m.sEffect x u next rd (if (m.runOrPilot u).isSome then m.core.tick else 0))) ∧
        (∀ i r, n = 0xCC1 → m.runOrPilot u = some (i, r) → doesClus (.csrRead u rd n) s (fun x => m.sEffect x u next rd r.otick)) ∧
        (n = 0xCC2 → doesClus (.csrRead u rd n) s (fun x => m.sEffect x u next rd (BitVec.ofNat 64 m.core.cycle))) ∧
        (n = 0xCC3 → doesClus (.csrRead u rd n) s (fun x => m.sEffect x u next rd (BitVec.ofNat 64 (placeClu u)))) ∧
        (n < 0xCC0 ∨ 0xCC3 < n → doesClus (.csrRead u rd n) s (fun x => m.sTraps x u 0x0302)))) ∧
    (∀ i v, y.wait = .counter i v → y.mode = .program →
      (m.sync u i < v → exec (.syncCounterResume u .score) s = .next s) ∧
      (v ≤ m.sync u i → doesClus (.syncCounterResume u .score) s (fun x =>
        m.sEffect x u { y with wait := .none, pc0 := y.pc0 + 4 } 0 0))) ∧
    (∀ (i : Fin 2) w q, m.mQueue u i = w :: q → opcOf w = 5 → kget m.mc.waiting false (mKey u i) = true →
      (m.sync u (tf w 116 4) < tf w 98 16 → exec (.syncCounterResume u (.m i)) s = .next s) ∧
      (tf w 98 16 ≤ m.sync u (tf w 116 4) → doesClus (.syncCounterResume u (.m i)) s (fun x =>
        x = { m with mc := { m.mc with queue := x.mc.queue, waiting := x.mc.waiting } } ∧
        ksets [] m.mc.queue x.mc.queue (mKey u i) q ∧ ksets false m.mc.waiting x.mc.waiting (mKey u i) false))) ∧
    (∀ (v : Fin 2) w q, m.vQueue u v = w :: q → opcOf w = 0xD → kget m.vc.waiting false (vKey u v) = true →
      (m.sync u (tf w 116 4) < tf w 98 16 → exec (.syncCounterResume u (.v v)) s = .next s) ∧
      (tf w 98 16 ≤ m.sync u (tf w 116 4) → doesClus (.syncCounterResume u (.v v)) s (fun x =>
        x = { m with vc := { m.vc with queue := x.vc.queue, waiting := x.vc.waiting } } ∧
        ksets [] m.vc.queue x.vc.queue (vKey u v) q ∧ ksets false m.vc.waiting x.vc.waiting (vKey u v) false)))

/-- WINDOW_LOAD and WINDOW_STORE (R118, R119, R128). A load of local data memory that is not poisoned puts the value of the bytes
at rs1 plus the sign-extended immediate, extended by its funct3, into rd and moves the PC on; a poisoned one halts the pair. A
store puts the low bytes of rs2 there and leaves every other byte. At a mapped window the bytes are those of a store access of
the cluster. An address that is neither, funct3 7 of a load and funct3 above 3 of a store trap, and change no memory. Where it
says more than these rules it says the model's choices of log entries 73, 76 and 77. -/
def Obligations.LoadsAndStoresOfTheScore : Prop :=
  ∀ (s : State) (u : Clu) (rd rs1 rs2 : XReg) (imm : BitVec 12) (f3 : BitVec 3),
    let m := s.pk.cl
    let y := m.score u
    let next := y.move (y.pc + 4)
    let a := (m.xr u rs1 + imm.signExtend 64).toNat
    let n := 2 ^ (f3.toNat % 4)
    let loc := dmemBase u + (a - 0x100000)
    let load := Instr.windowLoad u rd rs1 imm f3
    let store := Instr.windowStore u rs1 rs2 imm f3
    m.sRuns u = true → bitAt (m.core.rd (pageS u) 0x28) 0 = false →
    (f3 = 7 → doesClus load s (fun x => m.sTraps x u 0x0302 ∧ x.st.mem = m.st.mem ∧ x.core.win = m.core.win)) ∧
    (f3 ≠ 7 → inDmem a n = true → m.dPoisoned u (a - 0x100000) n = false → doesClus load s (fun x =>
      m.sEffect x u next rd (loadExt f3.toNat (leNat (m.core.winRds loc n))))) ∧
    (f3 ≠ 7 → inDmem a n = true → m.dPoisoned u (a - 0x100000) n = true → doesClus load s (fun x =>
      (x.score u).mode = .halted ∧ x.st.mem = m.st.mem ∧ x.core.win = m.core.win)) ∧
    (∀ st r o, f3 ≠ 7 → inDmem a n = false → m.core.winOk u a n = true → winAddr a = some (st, r, o) →
      let z := m.readOp u st r o n (.own (m.sJob u)) 4
      z.1.any (·.2) = false → bitAt (z.2.2.core.rd (pageS u) 0x28) 0 = false → doesClus load s (fun x =>
        z.2.2.sEffect x u ((z.2.2.score u).move ((z.2.2.score u).pc + 4)) rd (loadExt f3.toNat (leNat (z.1.map (·.1)))))) ∧
    (f3 ≠ 7 → inDmem a n = false → m.core.winOk u a n = false → doesClus load s (fun x =>
      m.sTraps x u 0x0303 ∧ x.st.mem = m.st.mem ∧ x.core.win = m.core.win)) ∧
    (3 < f3 → doesClus store s (fun x => m.sTraps x u 0x0302 ∧ x.st.mem = m.st.mem ∧ x.core.win = m.core.win)) ∧
    (f3 ≤ 3 → inDmem a n = true → doesClus store s (fun x =>
      x = { m with core := { m.core with win := x.core.win }, sc := { m.sc with core := x.sc.core } } ∧
      ksets idleCore m.sc.core x.sc.core u next ∧ x.core.winRds loc n = leBytes n (m.xr u rs2).toNat ∧
      ∀ j, j < loc ∨ loc + n ≤ j → x.core.winRd j = m.core.winRd j)) ∧
    (∀ st r o, f3 ≤ 3 → inDmem a n = false → m.core.winOk u a n = true → winAddr a = some (st, r, o) →
      doesClus store s (fun x =>
        x.st = (m.writeOp u st r o ((leBytes n (m.xr u rs2).toNat).map (fun b => (b, false))) (.own (m.sJob u)) 4).2.st ∧
        x.score u = next ∧ x.core.win = m.core.win)) ∧
    (f3 ≤ 3 → inDmem a n = false → m.core.winOk u a n = false → doesClus store s (fun x =>
      m.sTraps x u 0x0303 ∧ x.st.mem = m.st.mem ∧ x.core.win = m.core.win))

/-- An RV64IMC instruction of an S-core (R118, R119, R128): the instruction at the PC is fetched from instruction memory and
executed, a compressed one as the instruction it stands for, with its own length. Arithmetic puts its result into rd and moves
the PC past the instruction; a branch moves the PC to its target or past itself; a jump puts the address behind it into rd. A
fetch outside instruction memory and an encoding that R118 does not list trap. Line tablets whose count is complete are then
reported on, as after every command. Where it says more than these rules it says the model's choices of log entry 72. -/
def Obligations.Rv64ImcInstructionsExecuteAtThePc : Prop :=
  ∀ (s : State) (u : Clu),
    let m := s.pk.cl
    let y := m.score u
    let pc := y.pc
    let half (a : Nat) : Nat := leNat (m.core.winRds (imemBase u + a) 2)
    let becomes (P : Clus → Prop) : Prop := does (.rv64imcInstruction u) s (fun k =>
      ∃ x, P x ∧ k = ({ s.pk with cl := x } : Pkg).lineFlush)
    let executes (w len : Nat) : Prop :=
      becomes (fun x => x = m.rvExec u w len) ∧
      (bitAt (m.core.rd (pageS u) 0x28) 0 = false →
        let put (v : W64) : Prop := becomes (fun x => m.sEffect x u (y.move (pc + len)) (fb w 7 5) v)
        let a := m.xr u (fb w 15 5)
        let b := m.xr u (fb w 20 5)
        let here : W64 := BitVec.ofNat 64 pc
        (fb w 0 7 = 0x37 → put (immU w)) ∧ (fb w 0 7 = 0x17 → put (here + immU w)) ∧
        (∀ v, fb w 0 7 = 0x33 → aluOp (fb w 25 7) (fb w 12 3) a b = some v → put v) ∧
        (∀ v, fb w 0 7 = 0x13 → aluImm (fb w 12 3) (fb w 20 12) a = some v → put v) ∧
        (∀ v, fb w 0 7 = 0x3B → aluOp32 (fb w 25 7) (fb w 12 3) (a.setWidth 32) (b.setWidth 32) = some v → put (v.signExtend 64)) ∧
        (∀ v, fb w 0 7 = 0x1B → aluImm32 (fb w 12 3) (fb w 20 12) (a.setWidth 32) = some v → put (v.signExtend 64)) ∧
        (fb w 0 7 = 0x6F → becomes (fun x => m.sEffect x u (y.move (here + immJ w).toNat) (fb w 7 5) (BitVec.ofNat 64 (pc + len)))) ∧
        (∀ t, fb w 0 7 = 0x63 → branchTaken (fb w 12 3) a b = some t → becomes (fun x =>
          m.sEffect x u (y.move (if t then (here + immB w).toNat else pc + len)) 0 0)))
    (m.sRuns u = false → becomes (fun x => x = m)) ∧
    (m.sRuns u = true →
      (0x20000 < pc + 2 → becomes (fun x => m.sTraps x u 0x0303)) ∧
      (∀ w, pc + 2 ≤ 0x20000 → half pc % 4 ≠ 3 → expandC (half pc) = some w → executes w 2) ∧
      (pc + 2 ≤ 0x20000 → half pc % 4 ≠ 3 → expandC (half pc) = none → becomes (fun x => m.sTraps x u 0x0302)) ∧
      (half pc % 4 = 3 → pc + 2 = 0x20000 → becomes (fun x => m.sTraps x u 0x0303)) ∧
      (half pc % 4 = 3 → pc + 4 ≤ 0x20000 → executes (half pc + 65536 * half (pc + 2)) 4))

/-- MSEND, MSENDT, MSENDNB, MSENDTNB and BLOCKING_SEND_RESUME (R121, R124, R128, R239–R241). A send on a channel that is open for it
puts its message into the outbound buffer, from which it leaves at once where the buffer was empty and the destination's
Porter holds none, and the PC moves on by 4. With the buffer full a blocking send stalls with its words and a non-blocking one
answers 1; on a channel that is not open for it a blocking send halts the pair with MSG_BAD_CHANNEL and a non-blocking one
answers 2. A blocking send in a handler traps, and so does an MSENDT or MSENDTNB whose words are not in local data memory; with a
poisoned word among them the pair halts with VS_POISON_IN and sends nothing (R128). A stalled send completes once the buffer has
room. Where it says more than these rules it says the model's choices of log entries 12 and 72. -/
def Obligations.SendInstructionsPutOneMessage : Prop :=
  ∀ (s : State) (u : Clu) (rd rs1 rs2 : XReg),
    let m := s.pk.cl
    let y := m.score u
    let next := y.move (y.pc + 4)
    let ch := bitsAt (m.xr u rs1) 0 5
    let addr := (m.xr u rs2).toNat
    let n := bitsAt (m.xr u rs1) 8 3 + 1
    let off := addr - 0x100000
    let holds := addr % 4 = 0 ∧ inDmem addr (4 * n) = true
    let tuple := (List.range n).map (fun i => word4 (m.core.winRds (dmemBase u + off + 4 * i) 4))
    let unarmed := bitAt (m.core.rd (pageS u) 0x28) 0 = false
    let sent (x : Clus) (ws : List W32) : Prop :=
      m.isPilot u = false → m.outBuf u = [] → m.sig2Held (m.core.msgDest (m.mkMessage u ch ws)) = false →
        x.msg.fly = m.msg.fly ++ [m.mkMessage u ch ws] ∧ x.outBuf u = []
    let poisoned (x : Clus) : Prop := (x.score u).mode = .halted ∧ x.msg = m.msg ∧ x.mc = m.mc ∧ x.vc = m.vc ∧
      (y.mode ≠ .handler → (∃ f, f ∈ x.causes u ∧ f.code = 0x0308) ∨ ∃ f, f ∈ m.causes u ∧ f.code = 0x0501)
    let blocking (cmd : Instr) (ws : List W32) : Prop :=
      (y.mode = .handler → doesClus cmd s (fun x => m.sTraps x u 0x0305)) ∧
      (y.mode ≠ .handler → m.sendOk u ch = false → doesClus cmd s (fun x => (x.score u).mode = .halted ∧
        ∃ f, f ∈ x.causes u ∧ f.code = 0x0803 ∧ f.fatal = true)) ∧
      (y.mode ≠ .handler → m.sendOk u ch = true → m.outFull u = true → doesClus cmd s (fun x =>
        x.sc = { m.sc with core := x.sc.core } ∧ ksets idleCore m.sc.core x.sc.core u { y with wait := .send ch ws } ∧
        x.msg = { m.msg with stallRec := x.msg.stallRec } ∧ bitAt (x.core.rd (pageMsg u) 0x50) 31 = true ∧
        x.core.fld (pageMsg u) 0x50 26 5 = ch ∧ x.tt = m.tt ∧ x.st = m.st)) ∧
      (y.mode ≠ .handler → m.sendOk u ch = true → m.outFull u = false → doesClus cmd s (fun x =>
        (m.sendMsg u ch ws).sEffect x u next 0 0 ∧ sent x ws))
    let nonBlocking (cmd : Instr) (ws : List W32) : Prop :=
      (unarmed → m.sendOk u ch = false → doesClus cmd s (fun x => m.sEffect x u next rd 2)) ∧
      (unarmed → m.sendOk u ch = true → m.outFull u = true → doesClus cmd s (fun x => ∃ c,
        m.core.only c [regKey (pageMsg u) (cntOff ch + 12)] ∧ ({ m with core := c } : Clus).sEffect x u next rd 1)) ∧
      (unarmed → m.sendOk u ch = true → m.outFull u = false → doesClus cmd s (fun x =>
        (m.sendMsg u ch ws).sEffect x u next rd 0 ∧ sent x ws))
    (m.sRuns u = true →
      blocking (.msend u rs1 rs2) [BitVec.ofNat 32 addr] ∧
      (holds → m.dPoisoned u off (4 * n) = false → blocking (.msendt u rs1 rs2) tuple) ∧
      nonBlocking (.msendnb u rd rs1 rs2) [BitVec.ofNat 32 addr] ∧
      (holds → m.dPoisoned u off (4 * n) = false → nonBlocking (.msendtnb u rd rs1 rs2) tuple) ∧
      (y.mode = .handler → doesClus (.msendt u rs1 rs2) s (fun x => m.sTraps x u 0x0305)) ∧
      (holds → m.dPoisoned u off (4 * n) = true → y.mode ≠ .handler → doesClus (.msendt u rs1 rs2) s poisoned) ∧
      (holds → m.dPoisoned u off (4 * n) = true → doesClus (.msendtnb u rd rs1 rs2) s poisoned) ∧
      (¬ holds → y.mode ≠ .handler → doesClus (.msendt u rs1 rs2) s (fun x => m.sTraps x u 0x0303)) ∧
      (¬ holds → doesClus (.msendtnb u rd rs1 rs2) s (fun x => m.sTraps x u 0x0303))) ∧
    (∀ c ws, y.wait = .send c ws → y.mode = .program →
      (m.outFull u = true → exec (.blockingSendResume u) s = .next s) ∧
      (m.outFull u = false → doesClus (.blockingSendResume u) s (fun x =>
        x.sc = { m.sc with core := x.sc.core } ∧ ksets idleCore m.sc.core x.sc.core u { y with wait := .none, pc0 := y.pc0 + 4 } ∧
        x.msg = (m.sendMsg u c ws).msg ∧ bitAt (x.core.rd (pageMsg u) 0x50) 31 = false ∧ x.tt = m.tt))) ∧
    ((∀ c ws, y.wait ≠ .send c ws) ∨ y.mode ≠ .program → exec (.blockingSendResume u) s = .next s)

/-- Tablet operations of the S-core (R122, R124, R228–R233) and TABLET_TARGET_WRITE (R228). TBSET sets TARGET, zeroes COUNT and
keeps GEN; a block-post write of TARGET does the same. TBREAD reads COUNT, TARGET and GEN. TBARRIVE adds 1 to COUNT, and at
TARGET the generation of a local or die tablet completes: GEN moves on by 1 and COUNT is zero. On a through tablet whose
previous generation of the slot still runs TBARRIVE stalls, and its resume counts once it has completed. TBWAIT goes on with
the joined generation where it has completed, and stalls on it where not; in a handler it traps. An operation on a tablet the
slot may not use is suppressed and recorded, and the program goes on. A pilot's operation completes with the result its match
logged, and waits without one; logging an operation changes nothing else unless the pilot waits for its match. Where it says
more than these rules it says the model's choices of log entries 40, 72 and 301. -/
def Obligations.TabletOperationsOfTheScore : Prop :=
  ∀ (s : State) (u : Clu),
    let m := s.pk.cl
    let c := m.core
    let y := m.score u
    let next := y.move (y.pc + 4)
    let h := m.inHandler u
    let unarmed : Prop := bitAt (c.rd (pageS u) 0x28) 0 = false
    let calm : Prop := mapPilotEn (c.slotMap (u / 5)) = false ∨ (m.score (c.reliefOf (u / 5))).pilotWait h = none
    let logged (z : Clus) : Prop := z = { m with st := { m.st with dig := z.st.dig }, tab := { m.tab with log := z.tab.log } }
    let arrived (a : XReg) (P : Clus → Prop) : Prop := does (.tbarrive u a) s (fun k =>
      ∃ x, P x ∧ k = ({ s.pk with cl := x } : Pkg).lineFlush)
    let arrives (x : Clus) (t page off : Nat) : Prop :=
      (c.tbCount page off + 1 < c.tbTarget page off →
        x.core.tbCount page off = c.tbCount page off + 1 ∧ x.core.tbGen page off = c.tbGen page off ∧
        x.core.tbTarget page off = c.tbTarget page off ∧ x.tt = m.tt) ∧
      (t < 128 → c.tbTarget page off ≤ c.tbCount page off + 1 → c.tbCount page off < 65535 →
        x.core.tbCount page off = 0 ∧ x.core.tbGen page off = (c.tbGen page off + 1) % 65536 ∧
        x.core.tbTarget page off = c.tbTarget page off) ∧
      x.mc = m.mc ∧ x.vc = m.vc ∧ x.st.mem = m.st.mem
    let suppressed (x : Clus) (e rd : Nat) : Prop := x.tab = m.tab ∧ x.mc = m.mc ∧ x.vc = m.vc ∧ x.st = m.st ∧ x.score u = next ∧
      (rd = 0 → x.sc.x = m.sc.x) ∧ ∃ f, f ∈ x.core.records ∧ f.code = BitVec.ofNat 16 e
    let pilots (run : (Clus → Prop) → Prop) (kind t x rd : Nat) : Prop :=
      let key := 2 * (u / 5) + b2n h
      let found := (kget m.tab.log [] (2 * (4 * (u / 5) + mapPilotOf (c.slotMap (u / 5))) + b2n h))[kget m.tab.plog 0 key]?
      let held (n : Nat) : SCore := if h then { y with hop := some (n, t, x) } else { y with wait := .pilotOp n t x }
      (found = none → run (fun z => m.sEffect z u (held kind) 0 0)) ∧
      (∀ o, found = some o → ¬ (o.kind = kind ∧ o.operand = t) → run (fun z => m.sEffect z u (held 99) 0 0)) ∧
      (∀ o, found = some o → o.kind = kind → o.operand = t → rd = 0 ∨ unarmed → run (fun z =>
        let y1 := { y with joined := if kind = 0 then keepJoined y.joined t o.result else y.joined }
        ({ m with st := { m.st with dig := z.st.dig }, tab := { m.tab with plog := z.tab.plog } } : Clus).sEffect z u
          (if h then { y1 with hop := none, pc1 := y.pc1 + 4 } else { y1 with wait := .none, pc0 := y.pc0 + 4 })
          rd (BitVec.ofNat 64 o.result) ∧
        ksets 0 m.tab.plog z.tab.plog key (kget m.tab.plog 0 key + 1)))
    (calm → ∀ (op : TabOp) (v : Nat), logged (m.tabLog u h op v)) ∧
    (∀ (a b rd : XReg),
      let t := bitsAt (m.xr u a) 0 8
      let v := bitsAt (m.xr u b) 0 16
      m.sRuns u = true →
      (y.mode = .handler → doesClus (.tbwait u rd a) s (fun x => m.sTraps x u 0x0305)) ∧
      (y.mode = .handler → t / 64 = 2 → arrived a (fun x => m.sTraps x u 0x0305)) ∧
      (m.isPilot u = true →
        (y.mode ≠ .handler ∨ t / 64 ≠ 2 → pilots (arrived a) 0 t 0 0) ∧
        (y.mode ≠ .handler → pilots (doesClus (.tbwait u rd a) s) 1 t rd rd) ∧
        pilots (doesClus (.tbset u a b) s) 2 t v 0 ∧ pilots (doesClus (.tbread u rd a) s) 3 t rd rd) ∧
      (m.isPilot u = false → ∀ e, m.tabLoc u t = .error e →
        (y.mode ≠ .handler ∨ t / 64 ≠ 2 → arrived a (fun x => suppressed x e 0)) ∧
        (t < 128 → doesClus (.tbset u a b) s (fun x => suppressed x e 0)) ∧
        (unarmed → doesClus (.tbread u rd a) s (fun x => suppressed x e rd)) ∧
        (unarmed → y.mode ≠ .handler → doesClus (.tbwait u rd a) s (fun x => suppressed x e rd))) ∧
      (m.isPilot u = false → 128 ≤ t → doesClus (.tbset u a b) s (fun x => suppressed x 0x0702 0)) ∧
      (m.isPilot u = false → ∀ page off, m.tabLoc u t = .ok (page, off) →
        (t < 128 → doesClus (.tbset u a b) s (fun x =>
          let z := m.tabLog u h ⟨2, t, 0⟩ v
          x = { z with core := x.core, sc := { z.sc with core := x.sc.core } } ∧
          ksets idleCore z.sc.core x.sc.core u ((z.score u).move ((z.score u).pc + 4)) ∧
          z.core.only x.core [regKey page off, regKey page (off + 4)] ∧
          x.core.tbTarget page off = v ∧ x.core.tbCount page off = 0 ∧ x.core.tbGen page off = z.core.tbGen page off)) ∧
        (unarmed → calm → doesClus (.tbread u rd a) s (fun x =>
          ({ m with st := { m.st with dig := x.st.dig }, tab := { m.tab with log := x.tab.log } } : Clus).sEffect x u next rd
            (BitVec.ofNat 64 (c.tbCount page off + c.tbTarget page off * 2 ^ 16 + c.tbGen page off * 2 ^ 32)))) ∧
        (y.mode ≠ .handler ∨ t / 64 ≠ 2 → m.arriveBlocked u t page off = false → arrived a (fun x =>
          x = (m.adv u 4).doArrive u t page off ∧ (calm → arrives x t page off))) ∧
        (y.mode ≠ .handler ∨ t / 64 ≠ 2 → m.arriveBlocked u t page off = true → arrived a (fun x =>
          m.sEffect x u { y with wait := .arrive t } 0 0)) ∧
        (y.mode ≠ .handler → y.joined.find? (fun e => e.1 == t) = none → doesClus (.tbwait u rd a) s (fun x =>
          m.sEffect x u { y with wait := .tablet rd t (c.tbGen page off) } 0 0)) ∧
        (y.mode ≠ .handler → ∀ j g, y.joined.find? (fun e => e.1 == t) = some (j, g) →
          (g = c.tbGen page off → doesClus (.tbwait u rd a) s (fun x => m.sEffect x u { y with wait := .tablet rd t g } 0 0)) ∧
          (g ≠ c.tbGen page off → unarmed → calm → doesClus (.tbwait u rd a) s (fun x =>
            ({ m with st := { m.st with dig := x.st.dig }, tab := { m.tab with log := x.tab.log } } : Clus).sEffect x u next rd
              (BitVec.ofNat 64 g)))))) ∧
    (∀ t page off, y.wait = .arrive t → y.mode = .program → m.tabLoc u t = .ok (page, off) →
      (m.arriveBlocked u t page off = true → exec (.throughArriveResume u) s = .next s) ∧
      (m.arriveBlocked u t page off = false → doesClus (.throughArriveResume u) s (fun x =>
        x = (m.setScore u { y with wait := .none, pc0 := y.pc0 + 4 }).doArrive u t page off ∧ (calm → arrives x t page off)))) ∧
    (∀ t e, y.wait = .arrive t → y.mode = .program → m.tabLoc u t = .error e →
      doesClus (.throughArriveResume u) s (fun x => x.score u = { y with wait := .none, pc0 := y.pc0 + 4 } ∧ x.tab = m.tab ∧
        ∃ f, f ∈ x.core.records ∧ f.code = BitVec.ofNat 16 e)) ∧
    ((∀ t, y.wait ≠ .arrive t) ∨ y.mode ≠ .program → exec (.throughArriveResume u) s = .next s) ∧
    (∀ (g : Die) (t : NodeTablet) (v : BitVec 16),
      let off := match t with
        | .loc r i => localTbOff r i
        | .die i => dieTbOff i
      doesCore (.tabletTargetWrite g t v) s (fun x => x.tbTarget (pageTb g) off = v.toNat ∧ x.tbCount (pageTb g) off = 0 ∧
        x.tbGen (pageTb g) off = c.tbGen (pageTb g) off ∧ c.only x [regKey (pageTb g) off, regKey (pageTb g) (off + 4)]))

/-! ## Vector cores -/

/-- The V-core's tile instructions (R105, R107, R114–R117, R126, R128, R130): each completes, with this effect. With an empty
queue, a halted pair or another instruction at the head, VOP, VLD, VST, VGATH, VSCAT and VSYNC change nothing; an opcode outside
8 to 13 at the head, and reserved bits or a region that does not hold the access, halt the pair, discard the queue and fail the
slot without replay with VS_BAD_VINSTR. A legal VLD puts the bytes it reads into the leading bytes of its register and keeps the
others; a legal VST writes, run by run, the bytes its predicate selects, those of a poisoned predicate as poison. VSYNC signals,
or waits until its counter has reached its value. An offset of a VGATH or VSCAT outside the region fails the slot with
VS_GATHER_RANGE and discards the queue; without one, VGATH puts the element it reads into each of its lanes and keeps the
others, and VSCAT writes or accumulates its lanes in ascending order. An armed LS_FLIP makes the pair mismatch in place of the
register write of a VLD or VGATH. Where it says more than these rules it says the model's choices of log entries 69, 70, 71,
302 and 306. -/
def Obligations.VectorLoadsStoresGathersAndSync : Prop :=
  ∀ (s : State) (u : Clu) (v : Fin 2) (w : W128) (q : List W128),
    let m := s.pk.cl
    let own := Who.own (m.jobOn u)
    let st := tf w 122 2
    let r := tf w 118 4
    let g := tf w 102 16
    let fails (cmd : Instr) (code : Nat) : Prop := doesClus cmd s (fun x =>
      x.vQueue u v = [] ∧ (code = 0x0306 → x.vHalted u v = true) ∧ x.st = m.st ∧ x.mc = m.mc ∧ x.sc = m.sc ∧ x.vc.vx = m.vc.vx ∧
      (∃ f, f ∈ x.causes u ∧ f.code = code ∧ f.fatal = true) ∧
      ∃ e, x.core.records = m.core.records ++ [e] ∧ e.code = BitVec.ofNat 16 code)
    let armed (y : Clus) : Prop := bitAt (y.core.rd (pageV u v) 0x28) 0 = true
    let mismatch (x : Clus) : Prop := x.vQueue u v = [] ∧ x.vHalted u v = true ∧ x.vc.vx = m.vc.vx ∧ x.mc = m.mc ∧ x.sc = m.sc ∧
      ¬ armed x ∧ ∃ f, f ∈ x.causes u ∧ f.code = 0x0301
    let popped (x : Clus) : Prop :=
      ksets [] m.vc.queue x.vc.queue (vKey u v) q ∧ ksets false m.vc.waiting x.vc.waiting (vKey u v) false
    let after : Clus := (m.newVHead u v q)
    let lane (cmd : Instr) (op : Nat) : Prop := (cmd, op) ∈ [(Instr.vop u v, 8), (Instr.vld u v, 9), (Instr.vst u v, 0xA),
      (Instr.vgath u v, 0xB), (Instr.vscat u v, 0xC), (Instr.vsync u v, 0xD)]
    (∀ cmd op, lane cmd op →
      (m.vQueue u v = [] ∨ m.vHalted u v = true → exec cmd s = .next s) ∧
      (m.vQueue u v = w :: q → 8 ≤ opcOf w → opcOf w < 14 → opcOf w ≠ op → exec cmd s = .next s) ∧
      (m.vQueue u v = w :: q → m.vHalted u v = false → opcOf w < 8 ∨ 14 ≤ opcOf w → fails cmd 0x0306)) ∧
    (m.vQueue u v = w :: q → m.vHalted u v = false →
      let n := 64 * (tf w 98 2 + 1)
      let b := 256 * g + 64 * tf w 100 2
      let ok := m.core.fits u st r g ((64 * tf w 100 2 + n + 255) / 256)
      let z := m.readOp u st r b n own (2 + v.val)
      (opcOf w = 9 → st = 3 ∨ tf w 90 3 ≠ 0 ∨ tf w 16 74 ≠ 0 ∨ ok = false → fails (.vld u v) 0x0306) ∧
      (opcOf w = 9 → st ≠ 3 → tf w 90 3 = 0 → tf w 16 74 = 0 → ok = true →
        (¬ armed z.2.2 → doesClus (.vld u v) s (fun x =>
          popped x ∧ x.st = z.2.2.st ∧ x.core = z.2.2.core ∧ x.tt = z.2.2.tt ∧ x.mc = m.mc ∧ x.sc = m.sc ∧ x.vc.vp = m.vc.vp ∧
          vBytes (x.vx u v (tf w 93 5)) = z.1.map (·.1) ++ (vBytes (m.vx u v (tf w 93 5))).drop n ∧
          ∀ k, k < 32 → k ≠ tf w 93 5 → x.vx u v k = m.vx u v k)) ∧
        (armed z.2.2 → doesClus (.vld u v) s mismatch)) ∧
      (opcOf w = 0xA → st = 3 ∨ tf w 16 74 ≠ 0 ∨ ok = false → fails (.vst u v) 0x0306) ∧
      (opcOf w = 0xA → st ≠ 3 → tf w 16 74 = 0 → ok = true → doesClus (.vst u v) s (fun x =>
        let pm := m.vp u v (tf w 90 3)
        let pp := m.vpp u v (tf w 90 3)
        let runs := byteRuns (fun i => mbit pm i || mbit pp i) (markPred pp ((m.vxPB u v (tf w 93 5)).take n))
        x = runs.foldl (fun y p => (y.writeOp u st r (b + p.1) p.2 own (2 + v.val)).2) after)) ∧
      (opcOf w = 0xD → tf w 120 1 ≠ 0 ∨ tf w 16 82 ≠ 0 ∨ tf w 114 2 = 3 → fails (.vsync u v) 0x0306) ∧
      (opcOf w = 0xD → tf w 120 1 = 0 → tf w 16 82 = 0 →
        (tf w 114 2 = 1 → doesClus (.vsync u v) s (fun x =>
          x = { m with vc := { m.vc with queue := x.vc.queue, waiting := x.vc.waiting }, sc := { m.sc with sync := x.sc.sync } } ∧
          popped x ∧ ksets 0 m.sc.sync x.sc.sync (16 * u.val + tf w 116 4) ((m.sync u (tf w 116 4) + 1) % 65536))) ∧
        (tf w 114 2 = 2 → m.sync u (tf w 116 4) < tf w 98 16 → doesClus (.vsync u v) s (fun x =>
          x = { m with vc := { m.vc with waiting := x.vc.waiting } } ∧
          ksets false m.vc.waiting x.vc.waiting (vKey u v) true)) ∧
        (tf w 114 2 = 0 ∨ (tf w 114 2 = 2 ∧ tf w 98 16 ≤ m.sync u (tf w 116 4)) → doesClus (.vsync u v) s (fun x =>
          x = { m with vc := { m.vc with queue := x.vc.queue, waiting := x.vc.waiting } } ∧ popped x))) ∧
      (let wd := gatherWidth (tf w 84 4)
       let pm := m.vp u v (tf w 89 3)
       let pp := m.vpp u v (tf w 89 3)
       let vd := tf w 97 5
       let offs := vElems (m.vx u v (tf w 92 5)) 32
       let in_ (j : Nat) : Bool := laneOk wd g (m.core.region u st r).size (offs.getD j 0)
       let out := ∃ j, j < 64 ∧ mbit pm (wd * j) = true ∧ in_ j = false
       let lanes := (List.range 64).filter (fun j => mbit pm (wd * j) || (mbit pp (wd * j) && in_ j))
       let read := lanes.foldl (fun (y : List (Nat × List PB) × Clus) j =>
         let z := y.2.readOp u st r (256 * g + offs.getD j 0) wd own (2 + v.val)
         (y.1 ++ [(j, z.1)], z.2.2)) ([], m)
       let legal := st ≠ 3 ∧ tf w 16 68 = 0 ∧ wd ≠ 0 ∧ m.core.fits u st r g 0 = true ∧
         (tf w 88 1 = 1 → opcOf w = 0xC ∧ st = 2 ∧ tf w 84 4 = 0)
       (opcOf w = 0xB → ¬ legal → fails (.vgath u v) 0x0306) ∧ (opcOf w = 0xC → ¬ legal → fails (.vscat u v) 0x0306) ∧
       (opcOf w = 0xB → legal → out → fails (.vgath u v) 0x0307) ∧ (opcOf w = 0xC → legal → out → fails (.vscat u v) 0x0307) ∧
       (opcOf w = 0xB → legal → ¬ out →
         (¬ armed read.2 → doesClus (.vgath u v) s (fun x =>
           popped x ∧ x.st = read.2.st ∧ x.core = read.2.core ∧ x.tt = read.2.tt ∧ x.mc = m.mc ∧ x.sc = m.sc ∧
           x.vc.vp = m.vc.vp ∧
           (∀ j l, (j, l) ∈ read.1 → ((vBytes (x.vx u v vd)).drop (wd * j)).take wd = l.map (·.1)) ∧
           (∀ i, i < 256 → i / wd ∉ lanes → (vBytes (x.vx u v vd)).getD i 0 = (vBytes (m.vx u v vd)).getD i 0) ∧
           ∀ k, k < 32 → k ≠ vd → x.vx u v k = m.vx u v k)) ∧
         (armed read.2 → doesClus (.vgath u v) s mismatch)) ∧
       (opcOf w = 0xC → legal → ¬ out → doesClus (.vscat u v) s (fun x =>
         x = lanes.foldl (fun y j =>
           let bytes := (((m.vxPB u v vd).drop (wd * j)).take wd).map
             (fun e => (e.1, e.2 || elemMark (m.vxp u v (tf w 92 5)) 32 j || mbit pp (wd * j)))
           if tf w 88 1 = 1 then (y.accOp u st r (256 * g + offs.getD j 0) [(word4 (bytes.map (·.1)), bytes.any (·.2))]
             false own (2 + v.val)).2.2
           else (y.writeOp u st r (256 * g + offs.getD j 0) bytes own (2 + v.val)).2) after))))

/-- VOP (R105, R108–R113, R117, R126, R130): it completes, with this effect. A legal operation without an armed LS_FLIP takes
itself off the queue and puts its result into its destination where the predicate selects the element's lowest byte, and keeps
the old element elsewhere: arithmetic, logic, shift, select, immediate and approximate functions element by element, a
comparison in the predicate bits of its destination, a reduction in element 0 with zeros above it, VARGMAX's index in element 1,
VTOPK's values and indexes in a pair of registers, and VCVT's elements, with the scales and records of a block format in the
next register. Every other register and everything outside the V-core but what a poisoned operand records keeps its value. With
an armed LS_FLIP the pair mismatches and no register is written. A VOP that the decoder rejects halts the pair with
VS_BAD_VINSTR. Where it says more than these rules it says the model's choices of log entries 7, 65, 66, 67, 68, 71, 302 and
306. -/
def Obligations.VectorOperationsWorkElementByElement : Prop :=
  ∀ (s : State) (u : Clu) (v : Fin 2) (w : W128) (q : List W128),
    let m := s.pk.cl
    let fn := tf w 118 6
    let t := tf w 114 4
    let wd := vWidth t
    let pm := m.vp u v (tf w 87 3)
    let pp := m.vpp u v (tf w 87 3)
    let a := m.vx u v (tf w 100 5)
    let as := vElems a wd
    let bs := vElems (m.vx u v (tf w 95 5)) wd
    let cs := vElems (m.vx u v (tf w 90 5)) wd
    let d := tf w 105 5
    let armed (y : Clus) : Prop := bitAt (y.core.rd (pageV u v) 0x28) 0 = true
    let leaves (x : Clus) : Prop := ksets [] m.vc.queue x.vc.queue (vKey u v) q ∧
      ksets false m.vc.waiting x.vc.waiting (vKey u v) false ∧ x.vc.halted = m.vc.halted ∧ x.st = m.st ∧ x.mc = m.mc ∧
      x.sc = m.sc ∧ x.sa = m.sa ∧ x.msg = m.msg ∧ x.tab = m.tab ∧ x.core.win = m.core.win
    let gives (w : Nat) (new : List Nat) : Prop := doesClus (.vop u v) s (fun x =>
      leaves x ∧ x.vc.vp = m.vc.vp ∧ x.vx u v d = vPack w (vMerge pm w new (vElems (m.vx u v d) w)) ∧
      ∀ k, k < 32 → k ≠ d → x.vx u v k = m.vx u v k)
    m.vQueue u v = w :: q → opcOf w = 8 → m.vHalted u v = false →
    (vopBad w = true → doesClus (.vop u v) s (fun x => x.vQueue u v = [] ∧ x.vHalted u v = true ∧ x.vc.vx = m.vc.vx ∧
      ∃ f, f ∈ x.causes u ∧ f.code = 0x0306 ∧ f.fatal = true)) ∧
    (vopBad w = false → armed m → doesClus (.vop u v) s (fun x => x.vQueue u v = [] ∧ x.vHalted u v = true ∧
      x.vc.vx = m.vc.vx ∧ x.vc.vp = m.vc.vp ∧ x.st = m.st ∧ ¬ armed x ∧ ∃ f, f ∈ x.causes u ∧ f.code = 0x0301)) ∧
    (vopBad w = false → ¬ armed m →
      (fn ≤ 0x0D → gives wd ((as.zip (bs.zip cs)).map (fun e => vElemOp fn t e.1 e.2.1 e.2.2))) ∧
      (0x10 ≤ fn → fn ≤ 0x12 → doesClus (.vop u v) s (fun x =>
        leaves x ∧ x.vc.vx = m.vc.vx ∧
        (∀ j, j < 256 → mbit (x.vp u v d) j =
          (let i := 8 * j / wd
           if mbit pm (wd * i / 8) then ((as.zip bs).map (fun e => vCmp fn t e.1 e.2)).getD i false else mbit (m.vp u v d) j)) ∧
        ∀ k, k < 8 → k ≠ d → x.vp u v k = m.vp u v k)) ∧
      (fn = 0x13 → gives wd ((as.zip bs).zipIdx.map (fun e =>
        if mbit (m.vp u v (tf w 90 5 % 8)) (wd * e.2 / 8) then e.1.1 else e.1.2))) ∧
      (fn = 0x14 → gives wd (List.replicate (2048 / wd) (tf w 32 32 % 2 ^ wd))) ∧
      (0x18 ≤ fn → fn ≤ 0x1D → gives wd (as.map (fun e =>
        if t = 1 then vFpRes 1 (of32 (vApprox fn (BitVec.ofNat 32 (e * 65536)))) else (vApprox fn (BitVec.ofNat 32 e)).toNat))) ∧
      (0x20 ≤ fn → fn ≤ 0x22 → gives 32 (vReduce fn t as :: List.replicate 63 0)) ∧
      (fn = 0x23 →
        let r := vReduce 0x21 t as
        let i := (as.zipIdx.find? (fun e => if (vFp 0 r).isNan then (vFp 0 e.1).isNan else decide (e.1 = r))).elim 0 (·.2)
        gives 32 (r :: i :: List.replicate 62 0)) ∧
      (fn = 0x30 →
        let k := tf w 64 6 + 1
        let run := ((vElems (m.vx u v d) 32).zip (vElems (m.vx u v (d + 1)) 32)).take k
        let top := (((vElems a 32).zip (vElems (m.vx u v (tf w 95 5)) 32)).foldl (fun l e => topInsert e l) run).take k
        let pad := List.replicate (64 - k) 0
        doesClus (.vop u v) s (fun x => leaves x ∧ x.vc.vp = m.vc.vp ∧
          x.vx u v d = vPack 32 (vMerge pm 32 (top.map (·.1) ++ pad) (vElems (m.vx u v d) 32)) ∧
          x.vx u v (d + 1) = vPack 32 (vMerge pm 32 (top.map (·.2) ++ pad) (vElems (m.vx u v (d + 1)) 32)) ∧
          ∀ k, k < 32 → k ≠ d → k ≠ d + 1 → x.vx u v k = m.vx u v k)) ∧
      (fn = 0x28 →
        let o := tf w 110 4
        let n := 2048 / max 8 (max (elemBits t) (elemBits o))
        let up := tf w 100 5 + 1
        let c := vcvt t o n (vBytes a) (vBytes (m.vx u v up)) (vcvtMark t (m.vxp u v (tf w 100 5)) (m.vxp u v up))
        let l := (vcvtMerge o n c.1 (m.vxPB u v d) pm pp).map (·.1)
        doesClus (.vop u v) s (fun x => leaves x ∧ x.vc.vp = m.vc.vp ∧
          vBytes (x.vx u v d) = l ++ (vBytes (m.vx u v d)).drop l.length ∧
          (isBlockFmt o = true → vBytes (x.vx u v (d + 1)) = c.2.map (·.1) ++ (vBytes (m.vx u v (d + 1))).drop c.2.length) ∧
          ∀ k, k < 32 → k ≠ d → k ≠ (d + 1) % 32 ∨ isBlockFmt o = false → x.vx u v k = m.vx u v k)))

/-! ## Shunting arrays -/

/-- The array's tile instructions and its config store (R148–R156). SALOAD, SASEL, SABIND, SARUN and SASYNC act at the head of the
array's queue, and not while the array is halted or a select runs; a reserved opcode and a malformed instruction discard the
queue and fail the slot without replay with SA_BAD_INSTR. A legal SALOAD goes to the config engine; its completion stores a
sound image in both copies of its entry, and an unsound one invalidates the entry with SA_CFG_INVALID. SASEL waits for loads
and passes and then selects a valid entry; once its copies are read the entry is active, is repaired where one copy was bad,
and is lost where both were, with the select's program tag in the event. SABIND binds a port the running pass does not use. SASYNC waits for its engines, then signals or
waits. Where it says more than these rules it says the model's choices of log entries 13, 80 and 81. -/
def Obligations.ArrayConfigurationInstructions : Prop :=
  ∀ (s : State) (u : Clu) (w : W128) (q : List W128),
    let m := s.pk.cl
    let a := m.arr u
    let acts (cmd : Instr) (b : Arr) : Prop := doesClus cmd s (fun x =>
      x = { m with sa := { m.sa with arr := x.sa.arr } } ∧ x.arr u = b ∧ ∀ k, k ≠ u.val → x.arr k = m.arr k)
    let fails (cmd : Instr) : Prop := doesClus cmd s (fun x => x.arr u = a.newHead [] ∧
      (∀ k, k ≠ u.val → x.arr k = m.arr k) ∧ x.st = m.st ∧ x.sc = m.sc ∧ x.sa.cfg = m.sa.cfg ∧
      ∃ f, f ∈ x.causes u ∧ f.code = 0x0404 ∧ f.fatal = true)
    let idle := a.halted = false ∧ a.selecting = none
    (∀ cmd op, (cmd, op) ∈ [(Instr.saload u, 1), (.sasel u, 2), (.sabind u, 3), (.sarun u, 4), (.sasync u, 5)] →
      (a.queue = [] ∨ a.halted = true ∨ a.selecting.isSome = true → exec cmd s = .next s) ∧
      (a.queue = w :: q → 1 ≤ opcOf w → opcOf w ≤ 5 → opcOf w ≠ op → exec cmd s = .next s) ∧
      (a.queue = w :: q → idle → opcOf w = 0 ∨ 5 < opcOf w → fails cmd)) ∧
    (a.queue = w :: q → idle →
      let legal := tf w 16 84 = 0 ∧ (m.core.region u 0 (tf w 116 4)).mode = 3 ∧ m.core.fits u 0 (tf w 116 4) (tf w 100 16) 24 = true
      (opcOf w = 1 → legal → acts (.saload u) { a.newHead q with loads := a.loads ++ [w] }) ∧
      (opcOf w = 1 → ¬ legal → fails (.saload u)) ∧
      (opcOf w = 2 → tf w 16 104 ≠ 0 → fails (.sasel u)) ∧
      (opcOf w = 2 → tf w 16 104 = 0 → a.loads ≠ [] ∨ a.pass.isSome = true → exec (.sasel u) s = .next s) ∧
      (opcOf w = 2 → tf w 16 104 = 0 → a.loads = [] → a.pass = none →
        ((m.cfgEntry u (tf w 120 4)).isSome = true → acts (.sasel u)
          { a.newHead q with selecting := some (tf w 120 4), selTag := itagOf w }) ∧
        ((m.cfgEntry u (tf w 120 4)) = none → fails (.sasel u))) ∧
      (let bindable := tf w 16 30 = 0 ∧ tf w 117 2 ≠ 3 ∧ tf w 94 3 < 6 ∧ (tf w 123 1 = 1 → tf w 46 4 = 0) ∧
         m.core.fits u (tf w 117 2) (tf w 113 4) (tf w 97 16)
           ((tf w 50 20 * (bSegs w - 1) + bSeg w * fmtSize (tf w 94 3) + 255) / 256) = true
       let used := ∃ p, a.pass = some p ∧ tf p.word (if tf w 123 1 = 0 then 108 else 92) 16 / 2 ^ tf w 119 4 % 2 = 1
       (opcOf w = 3 → bindable → ¬ used → acts (.sabind u)
         { a.newHead q with binds := kput a.binds none (16 * tf w 123 1 + tf w 119 4) (some w) }) ∧
       (opcOf w = 3 → bindable → used → exec (.sabind u) s = .next s) ∧
       (opcOf w = 3 → ¬ bindable → fails (.sabind u))) ∧
      (opcOf w = 5 → tf w 120 1 ≠ 0 ∨ tf w 16 82 ≠ 0 ∨ tf w 114 2 = 3 ∨ 4 ≤ tf w 121 3 → fails (.sasync u)) ∧
      (opcOf w = 5 → tf w 120 1 = 0 → tf w 16 82 = 0 → tf w 114 2 ≠ 3 → tf w 121 3 < 4 →
        let busy := (tf w 121 3 % 2 = 1 ∧ a.loads ≠ []) ∨ (2 ≤ tf w 121 3 ∧ a.pass.isSome = true)
        (busy → exec (.sasync u) s = .next s) ∧
        (¬ busy → tf w 114 2 = 1 → doesClus (.sasync u) s (fun x =>
          x = { m with sa := { m.sa with arr := x.sa.arr }, sc := { m.sc with sync := x.sc.sync } } ∧
          x.arr u = a.newHead q ∧ (∀ k, k ≠ u.val → x.arr k = m.arr k) ∧
          ksets 0 m.sc.sync x.sc.sync (16 * u.val + tf w 116 4) ((m.sync u (tf w 116 4) + 1) % 65536))) ∧
        (¬ busy → tf w 114 2 = 2 → m.sync u (tf w 116 4) < tf w 98 16 → acts (.sasync u) { a with waiting := true }) ∧
        (¬ busy → tf w 114 2 = 0 ∨ (tf w 114 2 = 2 ∧ tf w 98 16 ≤ m.sync u (tf w 116 4)) → acts (.sasync u) (a.newHead q)))) ∧
    (a.queue = w :: q → a.waiting = true → opcOf w = 5 → tf w 98 16 ≤ m.sync u (tf w 116 4) →
      acts (.syncCounterResume u .array) (a.newHead q)) ∧
    (a.waiting = false → exec (.syncCounterResume u .array) s = .next s) ∧
    (a.loads = [] → exec (.saloadComplete u) s = .next s) ∧
    (∀ l ls, a.loads = l :: ls →
      let z := m.readOp u 0 (tf l 116 4) (256 * tf l 100 16) 6144 (.own (m.jobOn u)) 5
      let img := (List.range 768).map (fun i => BitVec.ofNat 64 (leNat (((z.1.drop (8 * i)).take 8).map (·.1))))
      doesClus (.saloadComplete u) s (fun x => x.arr u = { a with loads := ls } ∧
        (∀ k, k ≠ 16 * u.val + tf l 120 4 → kget x.sa.cfg none k = kget m.sa.cfg none k) ∧
        (imgBad img (z.1.any (·.2)) = none → x.cfgEntry u (tf l 120 4) = some ⟨img, false, false⟩) ∧
        (∀ t, imgBad img (z.1.any (·.2)) = some t → x.cfgEntry u (tf l 120 4) = none ∧
          ∃ f, f ∈ x.causes u ∧ f.code = 0x0405 ∧ f.fatal = true))) ∧
    (∀ found : CfgRead,
      let done := Instr.configSelectDone ⟨u, found⟩
      (a.selecting = none → exec done s = .next s) ∧
      (∀ n e, a.selecting = some n → m.cfgEntry u n = some e →
        let lost0 := e.bad0 = true ∨ found = .copy0 ∨ found = .both
        let lost1 := e.bad1 = true ∨ found = .copy1 ∨ found = .both
        (¬(lost0 ∧ lost1) → doesClus done s (fun x =>
          x.arr u = { a with selecting := none, active := some n, img := e.words } ∧
          (lost0 ∨ lost1 → x.cfgEntry u n = some { e with bad0 := false, bad1 := false } ∧
            ∃ r, x.core.records = m.core.records ++ [r] ∧ r.code = 0x0408) ∧
          (¬(lost0 ∨ lost1) → x = { m with sa := { m.sa with arr := x.sa.arr } }))) ∧
        (lost0 ∧ lost1 → doesClus done s (fun x => x.cfgEntry u n = none ∧ x.arr u = { a with selecting := none } ∧
          (∃ r, x.core.records = m.core.records ++ [r] ∧ r.code = 0x0409 ∧
            r.detail.toNat / 2 ^ 96 % 2 ^ 16 = a.selTag % 2 ^ 16) ∧
          ∃ f, f ∈ x.causes u ∧ f.code = 0x0409 ∧ f.fatal = true))))

/-- Passes of the shunting array (R136, R141–R143, R151, R157, R159–R161). A legal SARUN, with an active configuration whose ports
are bound, starts every tile at its first step with its initial registers; with a pass running it waits; an illegal one is
SA_BAD_INSTR. A tile whose operands
are present and whose outputs are free fires its step: the queues it read lose their front, the result goes to DST and to the
outputs or onto the step unit, and the round advances; otherwise the tile waits, and a blocked output counts as back-pressure.
A step-unit result leaves for DST and its outputs where these are free. A pass whose output streams are done ends: cleanly
with nothing left, and otherwise with SA_RESIDUE. The watchdog ends a pass without progress with SA_STALL; a lockstep mismatch
or parity error halts the array. Where it says more than these rules it says the model's choices of log entries 13, 79, 84 and
85. -/
def Obligations.ArrayPassesFireAndEnd : Prop :=
  ∀ (s : State) (u : Clu),
    let m := s.pk.cl
    let a := m.arr u
    let c := m.core
    (∀ w q, a.queue = w :: q → a.halted = false → a.selecting = none → opcOf w = 4 →
      let legal := tf w 16 76 = 0 ∧ a.active ≠ none ∧ tf w 108 16 = imgIn a.img ∧ tf w 92 16 = imgOut a.img ∧
        ∀ p, p < 16 → (tf w 108 16 / 2 ^ p % 2 = 1 → (a.bind 0 p).isSome = true) ∧
          (tf w 92 16 / 2 ^ p % 2 = 1 → (a.bind 1 p).isSome = true)
      (¬ legal → doesClus (.sarun u) s (fun x => x.arr u = a.newHead [] ∧
        ∃ f, f ∈ x.causes u ∧ f.code = 0x0404 ∧ f.fatal = true)) ∧
      (legal → a.pass.isSome = true → exec (.sarun u) s = .next s) ∧
      (legal → a.pass = none → doesClus (.sarun u) s (fun x => ∃ b : Arr,
        b = { a.newHead q with pass := some ⟨w, [], [], []⟩, tiles := b.tiles, progress := c.cycle } ∧
        (∀ t, t < 64 → b.tile t = { emptyTile with g := (b.tile t).g } ∧
          ∀ i, i < 8 → kget (b.tile t).g (0, false) i = (tileG a.img t i, false)) ∧
        x = (m.setArr u b).settle u))) ∧
    (∀ t : Fin 64,
      let k := tileCtl a.img t
      let y := a.tile t
      let w := tileStep a.img t y.step
      let op := stOp w
      let srcs := (List.range (opReads op)).map (stSrc w)
      let ready := ∀ z, z ∈ srcs → (16 ≤ z → z < 20 → y.q (z - 16) ≠ []) ∧ (z < 16 → ∀ r, r ∈ y.fifo → r.dst ≠ z)
      let emits := stOut w ≠ 0 ∧ (stOutLast w = true → y.rpt + 1 = stRpt w)
      let unit := op = 0x20 ∨ op = 0x21
      let out (o : Nat) : Prop := stOut w / 2 ^ (3 - o) % 2 = 1
      let blocked := emits ∧ ¬ unit ∧ ∃ o, o < 4 ∧ out o ∧ (y.o o).isSome = true
      let va := y.src (stSrc w 0)
      let vb := if 2 ≤ opReads op then y.src (stSrc w 1) else (0, false)
      let vc := if 3 ≤ opReads op then y.src (stSrc w 2) else (0, false)
      let v : Token := (saAlu op (stType w) va.1 vb.1 vc.1, va.2 || vb.2 || vc.2)
      let inj := c.rd (pageSa u) 0x28
      (a.pass = none ∨ a.halted = true ∨ ctlMode k ≠ 1 → exec (.tileFire u t) s = .next s) ∧
      (a.pass.isSome = true → a.halted = false → ctlMode k = 1 →
        (¬ ready → exec (.tileFire u t) s = .next s) ∧
        (unit → 8 ≤ y.fifo.length → exec (.tileFire u t) s = .next s) ∧
        (ready → blocked → doesCore (.tileFire u t) s (fun x =>
          x = { c with regs := x.regs } ∧ x.rd (pageSa u) 0x50 = satInc32 (c.rd (pageSa u) 0x50) 1)) ∧
        (ready → ¬ blocked → (unit → y.fifo.length < 8) → (bitAt inj 0 = true ∧ bitsAt inj 8 6 = t.val) →
          doesClus (.tileFire u t) s (fun x => (x.arr u).halted = true ∧ ∃ f, f ∈ x.causes u ∧ f.code = 0x0402)) ∧
        (ready → ¬ blocked → (unit → y.fifo.length < 8) → ¬(bitAt inj 0 = true ∧ bitsAt inj 8 6 = t.val) →
          (v.2 = false ∨ op = 0 ∨ ∃ f, f ∈ m.causes u ∧ f.code = 0x0501) → doesClus (.tileFire u t) s (fun x => ∃ z : Tile,
            x = (m.setArr u { a.setTile t (z.advance k w) with progress := c.cycle }).settle u ∧
            (∀ d, d < 4 → z.q d = if 16 + d ∈ srcs then (y.q d).tail else y.q d) ∧
            (z.step = y.step ∧ z.rpt = y.rpt ∧ z.body = y.body) ∧
            (unit → z.g = y.g ∧ (∀ o, o < 4 → z.o o = y.o o) ∧ ∃ o, z.fifo = y.fifo ++ [⟨v, stDst w, o⟩] ∧
              (emits → o = stOut w) ∧ (¬ emits → o = 0)) ∧
            (¬ unit → z.fifo = y.fifo ∧ (stDst w < 16 → kget z.g (0, false) (stDst w) = v) ∧
              (∀ i, i ≠ stDst w ∨ 16 ≤ stDst w → kget z.g (0, false) i = kget y.g (0, false) i) ∧
              ∀ o, o < 4 → (emits ∧ out o → z.o o = some v) ∧ (¬(emits ∧ out o) → z.o o = y.o o)))))) ∧
    (∀ t : Fin 64,
      let y := a.tile t
      (a.halted = true ∨ y.fifo = [] → exec (.stepUnitResult u t) s = .next s) ∧
      (∀ r rest, a.halted = false → y.fifo = r :: rest →
        ((∃ o, o < 4 ∧ r.outs / 2 ^ (3 - o) % 2 = 1 ∧ (y.o o).isSome = true) → exec (.stepUnitResult u t) s = .next s) ∧
        ((∀ o, o < 4 → r.outs / 2 ^ (3 - o) % 2 = 1 → y.o o = none) → doesClus (.stepUnitResult u t) s (fun x => ∃ z : Tile,
          x = (m.setArr u { a.setTile t z with progress := c.cycle }).settle u ∧ z.fifo = rest ∧
          (r.dst < 16 → kget z.g (0, false) r.dst = r.val) ∧
          ∀ o, o < 4 → z.o o = if r.outs / 2 ^ (3 - o) % 2 = 1 then some r.val else y.o o)))) ∧
    (a.pass = none → exec (.passComplete u) s = .next s ∧ exec (.saStall u) s = .next s) ∧
    (∀ p, a.pass = some p →
      let left := ∃ t, t < 64 ∧ (a.tile t).residue = true
      let inDone := a.streamsDone p 0
      let lim := max 256 (kget m.sa.wdog 0x1000 u)
      (a.halted = true ∨ a.streamsDone p 1 = false → exec (.passComplete u) s = .next s) ∧
      (a.halted = false → a.streamsDone p 1 = true → inDone = true → ¬ left → doesClus (.passComplete u) s (fun x =>
        x.arr u = a.endPass p ∧ x.core.rd (pageSa u) 0x4C = c.rd (pageSa u) 0x4C + 1 ∧ x.st = m.st ∧ x.tt = m.tt)) ∧
      (a.halted = false → a.streamsDone p 1 = true → inDone = false ∨ left → tf p.word 92 16 = 0 →
        exec (.passComplete u) s = .next s) ∧
      (a.halted = false → a.streamsDone p 1 = true → inDone = false ∨ left → tf p.word 92 16 ≠ 0 →
        doesClus (.passComplete u) s (fun x => x.arr u = a.endPass p ∧ ∃ f, f ∈ x.causes u ∧ f.code = 0x0406 ∧ f.fatal = true)) ∧
      (a.halted = true ∨ c.cycle < a.progress + lim → exec (.saStall u) s = .next s) ∧
      (a.halted = false → a.progress + lim ≤ c.cycle → doesClus (.saStall u) s (fun x =>
        x.arr u = (a.endPass p).newHead [] ∧ ∃ f, f ∈ x.causes u ∧ f.code = 0x0401 ∧ f.fatal = true))) ∧
    (∀ (t : Fin 64) (e : ArrayFault), doesClus (.saLockstep u t e) s (fun x =>
      x.arr u = { a with halted := true } ∧ x.core.rd (pageSa u) 0x48 = satInc32 (c.rd (pageSa u) 0x48) 1 ∧ x.st = m.st ∧
      ∃ f, f ∈ x.causes u ∧ f.code = (match e with
        | .lockstep => 0x0402
        | .parity => 0x0403)))

/-! ## Messages and channels -/

/-- A message reaches its receiver (R239, R241, R245, R246, R253). Only the oldest in flight between its two message units
arrives. A fenced receiver discards it with MSG_FENCED_DROP, counted, and a notice to its sender; at any other receiver it
stays in flight behind a held message, the armed injection discards it likewise, and a receiving channel that does not take it
discards it with MSG_FOREIGN, counted, and a notice. Otherwise the record goes into the ring at WR, or past an end marker at 0,
or is held. A held message of an unfenced receiver is placed when it fits, with the cycles it waited added to its count; when
its channel no longer takes it, it is refused, and a pilot's copy only counted. A notice gives the sender's
slot its cause, and where the slot has gone MSG_FOREIGN faults the job. Where it says more than these rules it says the
model's choices of log entries 12, 112, 113, 114 and 305. -/
def Obligations.MessagesArriveInSendOrderOrAreRefused : Prop :=
  ∀ (s : State),
    let m := s.pk.cl
    let c := m.core
    (∀ x : Message,
      let d := c.msgDest x
      let p := pageMsg d
      let n := x.dstCh.val
      let inj := bitAt (c.rd p 0x28) 0
      let fly := dropFirst (· == x) m.msg.fly
      let k := ({ m with msg := { m.msg with fly := fly } } : Clus).pilotCopy (d / 5) x.dstSlot.val x
      let note (z : Clus) (code : BitVec 16) (i : Bool) := z.msg.notices = m.msg.notices ++
        [⟨⟨x.srcClu.val / 5 % 192, Nat.mod_lt _ (by decide)⟩, x.srcSlot, x.job, code, i⟩]
      (m.msgNext x = false → exec (.messageArrive x) s = .next s) ∧
      (m.msgNext x = true →
        (c.fenced d = true ∨ (inj = true ∧ m.heldAt d = []) → doesClus (.messageArrive x) s (fun z =>
          z = { m with core := z.core, msg := { m.msg with fly := fly, notices := z.msg.notices } } ∧ note z 0x0805 inj ∧
          z.core.rd p (cntOff n + 12) = satInc32 (c.rd p (cntOff n + 12)) 1 ∧
          bitAt (z.core.rd p 0x28) 0 = false ∧ z.core.win = c.win)) ∧
        (c.fenced d = false → m.heldAt d ≠ [] → exec (.messageArrive x) s = .next s) ∧
        (inj = false → c.fenced d = false → m.heldAt d = [] → c.chTakes d x = false → doesClus (.messageArrive x) s (fun z =>
          z = { m with core := z.core, msg := { m.msg with fly := fly, notices := z.msg.notices } } ∧ note z 0x0804 false ∧
          z.core.rd p (cntOff n + 12) = satInc32 (c.rd p (cntOff n + 12)) 1 ∧ z.core.win = c.win ∧
          ∃ e, e ∈ z.core.records ∧ e.code = 0x0804)) ∧
        (inj = false → c.fenced d = false → c.chTakes d x = true → m.heldAt d = [] →
          (mapPilotEn (c.slotMap (d / 5)) = false → k.core = c) ∧
          (∀ pos mark, k.core.ringAt d n (recBytes x).length = some (pos, mark) → doesClus (.messageArrive x) s (fun z =>
            z = { k with core := z.core, sc := { k.sc with dpoi := z.sc.dpoi } } ∧
            k.core.ringed z.core d n (recBytes x) pos mark)) ∧
          (k.core.ringAt d n (recBytes x).length = none → doesClus (.messageArrive x) s (fun z =>
            z = { k with msg := { k.msg with held := z.msg.held, heldAt := z.msg.heldAt } } ∧
            ksets [] k.msg.held z.msg.held d [x] ∧ ksets 0 k.msg.heldAt z.msg.heldAt d c.cycle))))) ∧
    (∀ u : Clu,
      (m.heldAt u = [] ∨ c.fenced u = true → exec (.heldMessagePlace u) s = .next s) ∧
      (∀ x r, m.heldAt u = x :: r → c.fenced u = false →
        let n := x.dstCh.val
        (c.chTakes u x = true → c.ringAt u n (recBytes x).length = none → exec (.heldMessagePlace u) s = .next s) ∧
        (c.chTakes u x = true → ∀ pos mark, c.ringAt u n (recBytes x).length = some (pos, mark) →
          doesClus (.heldMessagePlace u) s (fun z =>
            ksets [] m.msg.held z.msg.held u r ∧ c.ringed z.core u n (recBytes x) pos mark ∧
            z.core.rd (pageMsg u) (cntOff n + 4) =
              satInc32 (c.rd (pageMsg u) (cntOff n + 4)) (c.cycle - kget m.msg.heldAt 0 u) ∧
            z.msg.notices = m.msg.notices ∧ z.tt = m.tt)) ∧
        (c.chTakes u x = false → doesClus (.heldMessagePlace u) s (fun z =>
          ksets [] m.msg.held z.msg.held u r ∧ z.core.win = c.win ∧ z.tt = m.tt ∧
          z.core.rd (pageMsg u) (cntOff n + 12) = satInc32 (c.rd (pageMsg u) (cntOff n + 12)) 1 ∧
          (c.pilots u = true → z.msg.notices = m.msg.notices ∧ z.core.records = c.records) ∧
          (c.pilots u = false → ∃ t, z.msg.notices = m.msg.notices ++ [t] ∧ t.cause = 0x0804 ∧ t.job = x.job ∧
            t.slot = x.srcSlot))))) ∧
    (∀ t : Notice,
      let drop : Clus := { m with msg := { m.msg with notices := dropFirst (· == t) m.msg.notices } }
      let live := ∃ r, m.run t.rgn.val t.slot.val = some r ∧ r.due = false ∧ entJob r.words = t.job.val
      (∀ r, m.run t.rgn.val t.slot.val = some r → r.due = false → entJob r.words = t.job.val →
        doesClus (.dropNotice t) s (fun z => z = { drop with tt := { m.tt with fails := z.tt.fails } } ∧
          ∃ f, f ∈ z.causes r.clu ∧ f.code = t.cause.toNat)) ∧
      (¬ live → t.cause ≠ 0x0804 → exec (.dropNotice t) s = .next { s with pk := { s.pk with cl := drop } }) ∧
      (¬ live → t.cause = 0x0804 → doesClus (.dropNotice t) s (fun z =>
        z = { drop with tt := { m.tt with faulted := z.tt.faulted } } ∧ ∃ e, e ∈ z.tt.faulted ∧ e.1 = t.job.val)))

/-- Channels, dispatch and stalls (R238, R242, R247, R248, R250). A channel write that a departed slot or pilot of its job, an overlapping
or ill-sized ring, or a change to an open channel's ring forbids is dropped with an event; another writes the five words of
the descriptor, opening with an empty ring and closing with its records discarded. The Porter, where the S-core is free
between Departure and Close, takes the next record in turn, past an end marker, and enters handler mode at the channel's PC
with x2, x10, x11 and x12 of the handler bank set; a bad header closes the channel and faults its job. A blocking send stalled
past its limit is recorded once; a cycle of stalls faults every job in it. Where it says more than these rules it says the
model's choices of log entries 115 and 116. -/
def Obligations.ChannelsDispatchAndStalls : Prop :=
  ∀ (s : State) (u : Clu),
    let m := s.pk.cl
    let c := m.core
    let p := pageMsg u
    (∀ (n : Fin 32) (ws : List W32),
      let w (i mask : Nat) : W32 := ws.getD i 0 &&& BitVec.ofNat 32 mask
      let o := chanOff n
      let opens := bitAt (w 0 0xFC000000) 31
      let recv := bitAt (w 0 0xFC000000) 30
      let base := 64 * bitsAt (w 2 0x0FFF07FF) 16 12
      let size := 64 * bitsAt (w 2 0x0FFF07FF) 0 11
      let busy := ∃ r : SlotRun, ((∃ i, i < 4 ∧ m.run (u / 5) i = some r) ∨ m.pilot (u / 5) = some r) ∧ r.clu = u.val ∧
        (entJob r.words = c.chJob u n ∨ entJob r.words = bitsAt (w 0 0xFC000000) 26 4)
      let overlap := opens = true ∧ recv = true ∧ ∃ k, k < 32 ∧ k ≠ n.val ∧ c.chOpen u k = true ∧ c.chRecv u k = true ∧
        rangesMeet base size (c.chBase u k) (c.chSize u k) = true
      let outside := opens = true ∧ recv = true ∧ (2 ^ 18 < base + size ∨ size = 0 ∨ 65536 < size)
      let changes := c.chOpen u n = true ∧ opens = true ∧ (c.chRecv u n ≠ recv ∨ c.chBase u n ≠ base ∨ c.chSize u n ≠ size)
      (busy ∨ overlap ∨ outside ∨ changes → doesCore (.channelWrite u n ws) s (fun y =>
        y.win = c.win ∧ (∃ e, e ∈ y.records ∧ e.code = 0x0808) ∧ bitAt (y.rd p 0x18) 0 = true ∧
        ∀ q a, regKey q a ∉ (wordsFrom 0x18 10).map (regKey p) → y.rd q a = c.rd q a)) ∧
      (¬(busy ∨ overlap ∨ outside ∨ changes) → doesCore (.channelWrite u n ws) s (fun y =>
        c.only y ((wordsFrom o 7).map (regKey p)) ∧
        y.rd p o = w 0 0xFC000000 ∧ y.rd p (o + 4) = w 1 0xFFFE0000 ∧ y.rd p (o + 8) = w 2 0x0FFF07FF ∧
        y.rd p (o + 12) = w 3 0x1FFFF ∧ y.rd p (o + 16) = w 4 0xFFFFFFFF ∧
        (opens = true → recv = true → c.chOpen u n = false → y.chWr u n = 0 ∧ y.chRd u n = 0 ∧ y.chWrap u n = false) ∧
        (opens = false → c.chOpen u n = true → y.chWr u n = c.chWr u n ∧ y.chRd u n = c.chWr u n ∧ y.chWrap u n = false) ∧
        (opens = c.chOpen u n → y.rd p (o + 20) = c.rd p (o + 20) ∧ y.rd p (o + 24) = c.rd p (o + 24))))) ∧
    (let y := m.score u
     let free := y.mode ≠ .handler ∧ y.mode ≠ .halted ∧ m.sendStalled u = false ∧ c.fenced u = false ∧ 64 ≤ c.cycle ∧
       c.cycle < c.close0
     (¬ free ∨ m.nextChannel u = none → exec (.handlerDispatch u) s = .next s) ∧
     (free → ∀ n, m.nextChannel u = some n →
       let wraps := (c.ringHead u n).1 = 2 ∧ c.chRd u n ≠ 0
       ∀ d : Core, (wraps → d = c.setRing u n (c.chWr u n) 0 (!c.chWrap u n)) → (¬ wraps → d = c) →
       let h := d.ringHead u n
       let at_ := d.chBase u n + d.chRd u n + 8
       (wraps → d.chUsed u n = 0 → doesCore (.handlerDispatch u) s (fun x => x = d)) ∧
       (¬(wraps ∧ d.chUsed u n = 0) → h.1 = 1 → d.chRd u n + h.2.2 ≤ d.chSize u n → doesClus (.handlerDispatch u) s (fun x =>
         x = { m with core := d, sc := { m.sc with core := x.sc.core, x := x.sc.x }, msg := { m.msg with last := x.msg.last } } ∧
         ksets idleCore m.sc.core x.sc.core u { y with mode := .handler, progOn := decide (y.mode = .program), pc1 := d.fld p (chanOff n + 12) 0 17, hch := n } ∧
         ksets 31 m.msg.last x.msg.last u n ∧
         x.xReg u 1 2 = BitVec.ofNat 64 (d.rd p (chanOff n + 16)).toNat ∧ x.xReg u 1 10 = BitVec.ofNat 64 (0x100000 + at_) ∧
         x.xReg u 1 11 = BitVec.ofNat 64 (n + 32 * h.2.1) ∧
         x.xReg u 1 12 = BitVec.ofNat 64 (leNat (d.winRds (dmemBase u + at_) 4)) ∧
         ∀ i, i ∉ [64 * u.val + 34, 64 * u.val + 42, 64 * u.val + 43, 64 * u.val + 44] → kget x.sc.x 0 i = kget m.sc.x 0 i)) ∧
       (¬(wraps ∧ d.chUsed u n = 0) → ¬(h.1 = 1 ∧ d.chRd u n + h.2.2 ≤ d.chSize u n) →
         doesClus (.handlerDispatch u) s (fun x =>
           x = { m with core := x.core, tt := { m.tt with fails := x.tt.fails, faulted := x.tt.faulted } } ∧
           x.core.chOpen u n = false ∧ (∃ e, e ∈ x.tt.faulted ∧ e.1 = c.chJob u n) ∧
           (∃ e, e ∈ x.core.records ∧ e.code = 0x0806) ∧
           (∀ q, m.runOrPilot u = some q → ∃ f, f ∈ x.causes u ∧ f.code = 0x0806))))) ∧
    (let limit := c.fld p 0x5C 16 16 + max 256 (c.rd p 0x44).toNat
     let chain := m.stallChain 961 u []
     (m.sendStalled u = false ∨ kget m.msg.stallRec false u = true ∨ c.cycle < limit → exec (.msgStall u) s = .next s) ∧
     (m.sendStalled u = true → kget m.msg.stallRec false u = false → limit ≤ c.cycle → doesClus (.msgStall u) s (fun x =>
       ksets false m.msg.stallRec x.msg.stallRec u true ∧ (∃ e, e ∈ x.core.records ∧ e.code = 0x0801) ∧ x.st = m.st ∧
       (chain.2 = false → x = { m with core := x.core, msg := { m.msg with stallRec := x.msg.stallRec } }) ∧
       (chain.2 = true → ∀ k, k ∈ chain.1 → (∃ e, e ∈ x.core.records ∧ e.code = 0x0802) ∧
         ∃ e, e ∈ x.tt.faulted ∧ e.1 = m.jobOn k))))

/-! ## Lines, packets and descriptors -/

/-- Multicast (R186, R213, R215–R217, R220, R226). A packet not on the lines changes nothing. A packet with a stale EPOCH is
taken off the line and no store is written: its source is noticed, or for job 15 the loss is reported and the packet kept to be
sent again. A multicast goes along the links of its tree, GROUP_MCAST those that the points tables give and MASK_MCAST of job 15
the routes to the dies of its mask, each link counting its VC0 flits once; an armed RETRY_KILL on a link loses the copies behind
it and no others. At each die reached GROUP_MCAST is delivered once to the cluster of each slot that the LOCAL bits name and to
the pilot of such a slot, MASK_MCAST to the clusters of its mask. A MASK_MCAST of another job is LN_BAD_PACKET. A delivery
writes the packet's bytes where the store takes them, and a refusing or fenced member notices the source. Where it says more
than these rules it says the model's choices of log entries 101, 102, 109, 289 and 291. -/
def Obligations.MulticastDeliversOnceToEveryMember : Prop :=
  ∀ (s : State) (pk : Packet),
    let k := s.pk
    let c := k.cl.core
    let root := pk.dstDie.toNat
    let grp := pk.group.toNat
    let off : Pkg := { k with net := { k.net with pkts := dropFirst (· == pk) k.net.pkts } }
    let told (z : Pkg) (code : Nat) := pkRg pk < 192 → ∃ t, z.cl.msg.notices = k.cl.msg.notices ++ [t] ∧
      t.rgn.val = pkRg pk ∧ t.slot.val = pk.slot.toNat ∧ t.job.val = pk.job.toNat ∧ t.cause = BitVec.ofNat 16 code
    let reported (z : Pkg) (code : BitVec 16) := z.net.again = k.net.again ++ [pk] ∧
      ∃ e, e ∈ z.cl.core.records ∧ e.code = code ∧ e.severity = 1
    let goes (cmd : Instr) (paths : List (List (Nat × Nat))) (deliver : Pkg → List Nat → Pkg) : Prop :=
      let y := off.walkTree pk paths
      let armed (b : Nat) (l : Nat × Nat) : Prop :=
        bitsAt (c.rd (pageLn l.1) 0x28) 8 4 = l.2 ∧ bitAt (c.rd (pageLn l.1) 0x28) b = true
      let killed (p : List (Nat × Nat)) : Prop := ∃ l, l ∈ p ∧ armed 1 l
      does cmd s (fun z => z = deliver y.1 y.2) ∧
      y.1 = { off with cl := { k.cl with core := y.1.cl.core, msg := { k.cl.msg with notices := y.1.cl.msg.notices } }, net := { off.net with vc0 := y.1.net.vc0, bridge := y.1.net.bridge, crcRec := y.1.net.crcRec, again := y.1.net.again } } ∧
      (∀ p g, p ∈ paths → p.getLast? = some (g, 9) → ¬ killed p → g ∈ y.2) ∧
      (∀ g, (∀ p, p ∈ paths → p.getLast? = some (g, 9) → killed p) → g ∉ y.2) ∧
      (killed paths.flatten → pk.job ≠ 15 → pkRg pk < 192 → ∃ t, t ∈ y.1.cl.msg.notices ∧ t.rgn.val = pkRg pk ∧
        t.slot.val = pk.slot.toNat ∧ t.cause = 0x0602) ∧
      (killed paths.flatten → pk.job = 15 → ∃ q, q ∈ y.1.net.again ∧ { q with inj := pk.inj } = pk) ∧
      (¬ killed paths.flatten →
        y.2 = paths.filterMap (fun p => (p.getLast?).bind (fun l => if l.2 = 9 then some l.1 else none)) ∧
        y.1.cl.msg = k.cl.msg ∧ y.1.net.again = k.net.again ∧
        (∀ l, l ∈ paths.flatten → kget y.1.net.vc0 0 (linkKey l.1 l.2) = kget k.net.vc0 0 (linkKey l.1 l.2) +
          (if pk.vc = 0 then flits pk else 0)) ∧
        (∀ i, (∀ l, l ∈ paths.flatten → linkKey l.1 l.2 ≠ i) → kget y.1.net.vc0 0 i = kget k.net.vc0 0 i)) ∧
      (¬ killed paths.flatten → (¬ ∃ l, l ∈ paths.flatten ∧ armed 0 l) → y.1.cl.core = c)
    (pk ∉ k.net.pkts → exec (.groupMcast pk) s = .next s ∧ (pk.job = 15 → exec (.maskMcast pk) s = .next s)) ∧
    (pk ∈ k.net.pkts → pk.epoch ≠ c.epoch root → ∀ i, i = Instr.groupMcast pk ∨ (i = .maskMcast pk ∧ pk.job = 15) →
      does i s (fun z => z = { off with cl := { k.cl with core := z.cl.core, msg := { k.cl.msg with notices := z.cl.msg.notices } }, net := { off.net with again := z.net.again } } ∧
        z.cl.core.win = c.win ∧ (pk.job ≠ 15 → told z 0x0601 ∧ z.net.again = k.net.again) ∧ (pk.job = 15 → reported z 0x0601))) ∧
    (pk ∈ k.net.pkts → pk.epoch = c.epoch root →
      goes (.groupMcast pk) (c.treePaths grp 24 root []) (fun x dies =>
        (dies.flatMap (fun g => (List.range 8).flatMap (fun i =>
          let rg := 2 * g + i / 4
          let u := c.cluOf rg (i % 4)
          if bitAt (c.groupEntry g grp) (12 + i) then
            (u, false) :: (if mapPilotEn (c.slotMap rg) && decide (mapPilotOf (c.slotMap rg) = i % 4) && (k.mirrorOf u).isNone
              then [(c.reliefOf rg, true)] else [])
          else []))).foldl (fun y e => y.deliver pk e.1 e.2) x) ∧
      (pk.job = 15 → goes (.maskMcast pk) (((List.range 96).filter (fun g => pk.mask.getLsbD g)).map (route false 24 root))
        (fun x dies => (dies.flatMap (fun g =>
          ((List.range 10).filter (fun i => pk.cmask.getLsbD i)).map (fun i => 10 * g + i))).foldl (fun y u => y.deliver pk u false) x))) ∧
    (pk.job ≠ 15 → does (.maskMcast pk) s (fun z =>
      z = { k with cl := { k.cl with core := z.cl.core, tt := { k.cl.tt with fails := z.cl.tt.fails, faulted := z.cl.tt.faulted } } } ∧
      (∃ e, e ∈ z.cl.core.records ∧ e.code = 0x060A) ∧
      (∀ r, k.cl.run (pkRg pk) pk.slot.toNat = some r → entJob r.words = pk.job.toNat →
        ∃ f, f ∈ z.cl.causes r.clu ∧ f.code = 0x060A ∧ f.fatal = true) ∧
      ((∀ r, k.cl.run (pkRg pk) pk.slot.toNat = some r → entJob r.words ≠ pk.job.toNat) →
        ∃ e, e ∈ z.cl.tt.faulted ∧ e.1 = pk.job.toNat))) ∧
    (∀ (u : Nat),
      let st := pk.dstEp.toNat % 3
      let w := k.cl.writeOp u st pk.dstRegion.toNat (256 * pk.dstGoff.toNat) (pkBytes pk) (remoteOf pk) unitLine
      let z := k.deliver pk u false
      k.deliver pk u true = { k with cl := w.2 } ∧
      (k.storeFenced u st = true → told z 0x0502 ∧ (k.mirrorsOf u = [] → z.cl.st = k.cl.st)) ∧
      (k.storeFenced u st = false → (k.mirrorsOf u = [] → z.cl.st = w.2.st) ∧ (w.1 = 0 → z.cl.msg = k.cl.msg) ∧
        (w.1 ≠ 0 → told z w.1)))

/-- Notices, retries, bridges and the line clear (R217, R219–R221, R224, R225, R227, R234, R236). A refusal notice gives its cause to
the slot it names if that is departed in this tick with the packet's job. The third failed transmission of a flit of a packet on a
link drops the packet and names its source, or reports it and keeps it to be sent again where its job is 15; an earlier one
counts a retry and the packet stays. The third of a tablet message gives its cluster the cause LN_RETRY_EXH; one of a Signal
link counts its retry. LN_NO_PROGRESS names a packet that waits for the output, and nothing without one. In a Guard phase a
bridge with 64 retries takes a spare lane, then goes to half width; one that fails at half width fails the device.
LINE_CLEAR_ARM writes
the tick of the line clear; the hold stops VC1–VC3 injection; a participant that is empty arrives once on through tablet 30,
the hundredth completing it. Where it says more than these rules it says the model's choices of log entries 104, 105, 106,
107, 111, 117, 291, 292 and 313. -/
def Obligations.LineRetriesNoticesBridgesAndLineClear : Prop :=
  ∀ (s : State),
    let k := s.pk
    let m := k.cl
    let c := m.core
    (∀ t : Notice,
      let drop : Clus := { m with msg := { m.msg with notices := dropFirst (· == t) m.msg.notices } }
      (∀ r, m.run t.rgn.val t.slot.val = some r → r.due = false → entJob r.words = t.job.val →
        doesClus (.refusalNotice t) s (fun z => z = { drop with tt := { m.tt with fails := z.tt.fails } } ∧
          ∃ f, f ∈ z.causes r.clu ∧ f.code = t.cause.toNat)) ∧
      (¬(∃ r, m.run t.rgn.val t.slot.val = some r ∧ r.due = false ∧ entJob r.words = t.job.val) →
        exec (.refusalNotice t) s = .next { s with pk := { s.pk with cl := drop } })) ∧
    (∀ (g : Die) (o : Fin 10) (pk : Packet) (f : Fin 5),
      let j := linkKey g o
      let n := match kget k.net.retry none j with
        | some (q, i, n) => if q = pk ∧ i = f.val then n + 1 else 1
        | none => 1
      let cmd := Instr.flitCrcError (.line g o pk f)
      (pk ∉ k.net.pkts ∨ flits pk ≤ f → exec cmd s = .next s) ∧
      (pk ∈ k.net.pkts → f < flits pk → 3 ≤ n → does cmd s (fun z =>
        z = { k with cl := { m with core := z.cl.core, msg := { m.msg with notices := z.cl.msg.notices } }, net := { k.net with retry := z.net.retry, pkts := dropFirst (· == pk) k.net.pkts, again := z.net.again } } ∧
        ksets none k.net.retry z.net.retry j none ∧
        (pk.job ≠ 15 → z.net.again = k.net.again ∧ (pkRg pk < 192 → ∃ t, z.cl.msg.notices = m.msg.notices ++ [t] ∧
          t.cause = 0x0602 ∧ t.rgn.val = pkRg pk ∧ t.slot.val = pk.slot.toNat)) ∧
        (pk.job = 15 → z.net.again = k.net.again ++ [pk] ∧ z.cl.msg = m.msg ∧ ∃ e, e ∈ z.cl.core.records ∧ e.code = 0x0602 ∧
          e.severity = 1 ∧ e.place = BitVec.ofNat 32 (linkPlace g o)))) ∧
      (pk ∈ k.net.pkts → f < flits pk → n < 3 → does cmd s (fun z =>
        z = { k with cl := { m with core := z.cl.core }, net := { k.net with retry := z.net.retry, bridge := z.net.bridge, crcRec := z.net.crcRec } } ∧
        ksets none k.net.retry z.net.retry j (some (pk, f.val, n)) ∧
        z.cl.core.rd (pageLn g) (0xA8 + 4 * o) = satInc32 (c.rd (pageLn g) (0xA8 + 4 * o)) 1 ∧
        (isBridge g o = false → z.net.bridge = k.net.bridge ∧ z.net.crcRec = k.net.crcRec ∧ z.cl.core.records = c.records) ∧
        (isBridge g o = true → kget z.net.crcRec false j = true ∧ (kget k.net.crcRec false j = false →
          ∃ e, e ∈ z.cl.core.records ∧ e.code = 0x0603))))) ∧
    (∀ (u : Clu) (t : Fin 256),
      let j := 256 * u.val + t.val
      let n := kget m.tab.retry 0 j + 1
      (n < 3 → doesClus (.flitCrcError (.tablet u t)) s (fun z =>
        z = { m with tab := { m.tab with retry := z.tab.retry } } ∧ ksets 0 m.tab.retry z.tab.retry j n)) ∧
      (3 ≤ n → doesClus (.flitCrcError (.tablet u t)) s (fun z =>
        z = { m with core := z.core, tab := { m.tab with retry := z.tab.retry }, tt := { m.tt with fails := z.tt.fails } } ∧
        ksets 0 m.tab.retry z.tab.retry j 0 ∧ (∀ loc, m.tabLoc u t = .ok loc → ∃ f, f ∈ z.causes u ∧ f.code = 0x0602)))) ∧
    (∀ i : Fin 40, doesClus (.flitCrcError (.root i)) s (fun z => z = { m with tab := { m.tab with mirror := z.tab.mirror } } ∧
      ksets 0 m.tab.mirror z.tab.mirror (if i.val < 32 then thruOff i else lineOff (i.val - 32)) 1)) ∧
    (∀ g : Die, doesCore (.flitCrcError (.signal g)) s (fun y =>
      c.sets y (pageSig g) 0x44 (satInc32 (c.rd (pageSig g) 0x44) 1))) ∧
    (∀ (g : Die) (o : Fin 10),
      let j := linkKey g o
      let n := kget k.net.spares 0 j
      let worn := isBridge g o = true ∧ 64 ≤ (kget k.net.bridge (0, 0) j).1
      let may := worn ∧ n < 3 ∧ k.bpUp (2 * g) = true ∧ c.inGuard = true
      (k.net.pkts.find? (fun pk => (c.pktLinks pk).elem (g.val, o.val)) = none → exec (.lnNoProgress g o) s = .next s) ∧
      (∀ pk, k.net.pkts.find? (fun pk => (c.pktLinks pk).elem (g.val, o.val)) = some pk →
        doesCore (.lnNoProgress g o) s (fun y => y.win = c.win ∧ ∃ e, y.records = c.records ++ [e] ∧ e.code = 0x060B ∧
          e.tick = c.tick ∧ e.detail.toNat / 2 ^ 96 = lnLast4 pk % 2 ^ 32)) ∧
      (worn → n = 3 → exec (.bridgeLaneRepair g o) s = .next { s with pk := k.failed }) ∧
      (¬ may → ¬(worn ∧ n = 3) → exec (.bridgeLaneRepair g o) s = .next s) ∧
      (may → does (.bridgeLaneRepair g o) s (fun z =>
        z = { k with cl := { m with core := z.cl.core }, net := { k.net with bridge := z.net.bridge, spares := z.net.spares } } ∧
        ksets (0, 0) k.net.bridge z.net.bridge j (0, 0) ∧ ksets 0 k.net.spares z.net.spares j (n + 1) ∧
        (n < 2 → ∃ e, e ∈ z.cl.core.records ∧ e.code = 0x0604) ∧ (n = 2 → ∃ e, e ∈ z.cl.core.records ∧ e.code = 0x0605)))) ∧
    (∀ t : W64, doesCore (.lineClearArm t) s (fun y => y.rd8 pageRoot 0x340 = t.toNat ∧
      c.only y ((wordsFrom 0x340 2 ++ wordsFrom 0x34C 5).map (regKey pageRoot)) ∧ ∀ o, o ∈ wordsFrom 0x34C 5 → y.rd pageRoot o = 0)) ∧
    (let holds := c.lcArmed = true ∧ c.close0 ≤ c.cycle + c.fld pageRoot 0x348 0 16
     (holds → exec .lineClearHold s = .next { s with pk := { k with net := { k.net with hold := true } } }) ∧
     (¬ holds → exec .lineClearHold s = .next s)) ∧
    (∀ i : Fin 100,
      let o := 0x350 + 4 * (i.val / 32)
      let n := c.tbCount pageRoot (thruOff 30) + 1
      let may := c.lcArmed = true ∧ c.close0 ≤ c.cycle ∧ k.lcEmpty i = true ∧ bitAt (c.rd pageRoot o) (i % 32) = false
      (¬ may → exec (.lineClearArrive i) s = .next s) ∧
      (may → doesCore (.lineClearArrive i) s (fun y =>
        c.only y [regKey pageRoot o, regKey pageRoot (thruOff 30 + 4)] ∧ bitAt (y.rd pageRoot o) (i % 32) = true ∧
        (n < 100 → y.tbCount pageRoot (thruOff 30) = n ∧ y.tbGen pageRoot (thruOff 30) = c.tbGen pageRoot (thruOff 30)) ∧
        (100 ≤ n → y.tbCount pageRoot (thruOff 30) = 0 ∧
          y.tbGen pageRoot (thruOff 30) = (c.tbGen pageRoot (thruOff 30) + 1) % 65536))))

/-- Packets at their endpoints (R186, R209, R220, R226, R295, R323). A packet not on the lines changes nothing, and one with a
stale EPOCH is dropped there: its source is noticed, or for job 15 the loss reported and the packet kept to be sent again. A
fenced store answers poison and takes no write. READ at a store line port answers the bytes that the store gives, and at an HBM controller those of device
memory, with a READ_REPLY; WRITE puts its bytes there and answers a COMPLETION; each waits first for a snoop of a line the
host may hold. READ_REPLY at a store writes its bytes, or names its source where flagged; at a DMA engine its piece goes on to
the destination. COMPLETION at an engine ends one write. A flagged answer at an engine ends the descriptor and fails its slot.
Where it says more than these rules it says the model's choices of log entries 32, 99, 119, 169, 289 and
291. -/
def Obligations.PacketsHaveTheirEffectAtTheirEndpoint : Prop :=
  ∀ (s : State) (p : Packet) (t : BitVec 4) (cmd : Instr),
    let k := s.pk
    let q : Packet := { p with type := t }
    let die := q.dstDie.toNat
    let ep := q.dstEp.toNat
    let off : Pkg := { k with net := { k.net with pkts := dropFirst (· == q) k.net.pkts } }
    let n := 64 * q.chunks.toNat
    let row := 256 * q.dstGoff.toNat
    let store := die < 96 ∧ ep < 30
    let ctrl := 96 ≤ die ∧ die < 100 ∧ ep < 6
    let u := epClu die ep
    let w := off.lineWrite u (ep % 3) q.dstRegion.toNat row (pkBytes q) (off.whoOf q u)
    let named (z a : Pkg) (code : Nat) : Prop := z = { a with cl := { a.cl with msg := { a.cl.msg with notices := z.cl.msg.notices } } } ∧
      (pkRg q < 192 → ∃ x, z.cl.msg.notices = a.cl.msg.notices ++ [x] ∧ x.cause = BitVec.ofNat 16 code ∧
        x.rgn.val = pkRg q ∧ x.slot.val = q.slot.toNat)
    (t = 1 ∧ cmd = .read p) ∨ (t = 2 ∧ cmd = .write p) ∨ (t = 3 ∧ cmd = .readReply p) ∨ (t = 4 ∧ cmd = .completion p) →
    (q ∉ k.net.pkts → exec cmd s = .next s) ∧
    (q ∈ k.net.pkts → q.epoch ≠ k.cl.core.epoch (routerOf die ep) → does cmd s (fun z =>
      (q.job ≠ 15 → named { z with cl := { z.cl with core := k.cl.core } } off 0x0601) ∧
      (q.job = 15 → z = { off with cl := { k.cl with core := z.cl.core }, net := { off.net with again := k.net.again ++ [q] } } ∧
        ∃ e, e ∈ z.cl.core.records ∧ e.code = 0x0601 ∧ e.severity = 1))) ∧
    (q ∈ k.net.pkts → q.epoch = k.cl.core.epoch (routerOf die ep) →
      (t = 1 → store → does cmd s (fun z =>
        let x := k.cl.readOp u (ep % 3) q.dstRegion.toNat row n (off.whoOf q u) unitLine
        (k.storeFenced u (ep % 3) = true →
          z = (off.setWhy q 0x0501).inject false die ep (replyOf q (List.replicate n (0, true)) 1)) ∧
        (k.storeFenced u (ep % 3) = false →
          z = (({ off with cl := x.2.2 } : Pkg).setWhy q x.2.1).inject false die ep (replyOf q x.1 (flagOf x.2.1))))) ∧
      (t = 2 → store → does cmd s (fun z =>
        (off.mirrorsOf u = [] → k.storeFenced u (ep % 3) = false → w.2.cl.st =
          (k.cl.writeOp u (ep % 3) q.dstRegion.toNat row (pkBytes q) (off.whoOf q u) unitLine).2.st) ∧
        (off.mirrorsOf u = [] → k.storeFenced u (ep % 3) = true → w = (0x0502, off)) ∧
        z = (w.2.setWhy q w.1).inject false die ep (completionOf q (flagOf w.1)))) ∧
      (t = 1 → ctrl → off.snoopLine q.addr.toNat n false = none → does cmd s (fun z =>
        z = (off.dpaRead q.addr.toNat n).2.inject false die ep (replyOf q (off.dpaRead q.addr.toNat n).1 0))) ∧
      (t = 2 → ctrl → off.snoopLine q.addr.toNat q.payload.length true = none → does cmd s (fun z =>
        z = (off.dpaWrite q.addr.toNat (pkBytes q)).inject false die ep (completionOf q 0))) ∧
      (∀ l, ctrl → (t = 1 ∧ off.snoopLine q.addr.toNat n false = some l) ∨
          (t = 2 ∧ off.snoopLine q.addr.toNat q.payload.length true = some l) → does cmd s (fun z =>
        z.hbm = k.hbm ∧ z.cl.st = k.cl.st ∧ z.net = off.net ∧
        (k.lineBusy l = true → z.att = { k.att with waitq := k.att.waitq ++ [.dev l q] }) ∧
        (k.lineBusy l = false → z.att.waitq = k.att.waitq ∧ ∃ x, z.att.snoops = k.att.snoops ++ [x] ∧ x.line = l ∧
          x.pk = some q ∧ x.inv = decide (t = 2) ∧ x.txn = k.att.nextTxn))) ∧
      (t = 1 → die = 96 → ep = 19 → off.xferNeeds q = [] → does cmd s (fun z =>
        z = off.inject false 96 19 (replyOf q ((List.range n).map (fun i => match k.cline ((hostAddr q + i) / 64) with
          | some c => c.data.getD ((hostAddr q + i) % 64) (0, true)
          | none => (0, true))) 0))) ∧
      (t = 1 → die = 96 → ep = 19 → off.xferNeeds q ≠ [] → does cmd s (fun z =>
        z.hbm = k.hbm ∧ z.cl.st = k.cl.st ∧ z.net = off.net ∧ ∃ x, z.att.xfers = k.att.xfers ++ [x] ∧ x.pk = q)) ∧
      (t = 2 → die = 96 → ep = 19 → does cmd s (fun z => z.hbm = k.hbm ∧ z.cl.st = k.cl.st ∧
        ∀ l ∈ (chunks64 40 (hostAddr q) (pkBytes q)), l.2.length = 64 → ∃ r, r ∈ z.att.reqs ∧ r.op = 4 ∧ r.line = l.1 / 64)) ∧
      (t = 3 → store → q.flag = 0 → w.1 = 0 → does cmd s (fun z => z = w.2)) ∧
      (t = 3 → store → q.flag = 0 → w.1 ≠ 0 → does cmd s (fun z => named z w.2 w.1)) ∧
      (t = 3 → store → q.flag ≠ 0 → does cmd s (fun z => named z (off.takeWhy q).2 (off.takeWhy q).1)) ∧
      ((t = 3 ∧ die < 96 ∧ 30 ≤ ep) ∨ (t = 4 ∧ die < 96 ∧ 30 ≤ ep ∧ ep < 38) →
        (off.runAt die ep q.txn.toNat = none → does cmd s (fun z => z = off)) ∧
        (∀ r, off.runAt die ep q.txn.toNat = some r →
          (q.flag ≠ 0 → does cmd s (fun z => z.cl.st = k.cl.st ∧ z.hbm = k.hbm ∧
            (∃ f, f ∈ z.cl.causes r.clu ∧ f.code = (off.takeWhy q).1) ∧
            ∀ x, z.findRun r.rg r.slot r.desc = some x → x.phase = .dead)) ∧
          (t = 4 → q.flag = 0 → does cmd s (fun z => z = (off.setDma { r with wr := r.wr - 1 }).pump r.rg r.slot r.desc)) ∧
          (t = 3 → q.flag = 0 →
            r.outst.find? (fun i => decide (i % stageLen r.words * pieceSize r.words = q.dstGoff.toNat)) = none →
            does cmd s (fun z => z = off)) ∧
          (∀ i, t = 3 → q.flag = 0 →
            r.outst.find? (fun i => decide (i % stageLen r.words * pieceSize r.words = q.dstGoff.toNat)) = some i →
            does cmd s (fun z => let r1 : DmaRun := { r with outst := r.outst.filter (fun j => decide (j ≠ i)) }
              z = ((off.setDma r1).pushData r1 i (pkBytes q)).pump r.rg r.slot r.desc)))) ∧
      (3 ≤ t.toNat → 96 ≤ die → die < 100 → 8 ≤ ep → ep < 13 → does cmd s (fun z =>
        z = off.windowDone (epPort (die - 96) ep) q)) ∧
      (t.toNat < 3 → ¬ store → ¬ ctrl → ¬(die = 96 ∧ ep = 19) → does cmd s (fun z => z = off)) ∧
      (t = 4 → store → does cmd s (fun z => z = off)))

/-- Descriptors (R256, R260, R262, R295). MOVE, MCAST and DMA_MASK_MCAST start a waiting descriptor of their OP whose cycle and
gate are reached on the lowest free engine of the die, whose DMA_ENG word then names it; a descriptor whose memory end a job
may not reach moves nothing and fails its slot with HB_DPA_FAULT. A running descriptor whose every piece is answered
completes: its engine is free and its SIGNAL counter steps. WR_CPL ends one window write, the last of a piece's frames the piece, and RD_RPL passes a window read's
bytes on; an answer that no window transaction awaits changes nothing but its stream. Where it says more than these rules it
says the model's choices of log entries 120, 121, 122, 123 and 125. -/
def Obligations.DescriptorsStartMoveAndComplete : Prop :=
  ∀ (s : State),
    let k := s.pk
    (∀ (rg : Rgn) (n : Fin 4) (d : Fin 256) (cmd : Instr) (op : Nat),
      (op = 1 ∧ cmd = .move rg n d) ∨ (op = 2 ∧ cmd = .mcast rg n d) ∨ (op = 6 ∧ cmd = .dmaMaskMcast rg n d) →
      (k.findRun rg n d = none → exec cmd s = .next s) ∧
      (∀ r, k.findRun rg n d = some r →
        let may := dOp r.words = op ∧ k.dmaReady r = true ∧ k.readyBefore r < k.freeEngines (rg / 2)
        let bad := k.memFault r.words (dSrc r.words) r.job ≠ 0 ∨ k.memFault r.words (dDst r.words) r.job ≠ 0
        (¬ may → exec cmd s = .next s) ∧
        (∀ e, may → k.freeEngine (rg / 2) = some e → e < 8 ∧
          (bad → does cmd s (fun z => z.cl.st = k.cl.st ∧ z.hbm = k.hbm ∧ z.net.pkts = k.net.pkts ∧
            (∃ f, f ∈ z.cl.causes r.clu ∧ f.code = 0x090B ∧ f.fatal = true) ∧ (∃ x, x ∈ z.cl.core.records ∧ x.code = 0x090B) ∧
            ∀ x, z.findRun rg n d = some x → x.phase = .dead)) ∧
          (¬ bad → does cmd s (fun z => ∃ y : Pkg,
            y = { k with cl := { k.cl with core := y.cl.core }, net := { k.net with runs := y.net.runs } } ∧
            y.findRun rg n d = some { r with phase := .running, engine := e } ∧
            k.cl.core.only y.cl.core [regKey (pageDma (rg / 2)) (0x40 + 8 * e), regKey (pageDma (rg / 2)) (0x44 + 8 * e)] ∧
            y.cl.core.rd (pageDma (rg / 2)) (0x40 + 8 * e) =
              BitVec.ofNat 32 (2 ^ 31 + r.job * 2 ^ 27 + rg % 2 * 2 ^ 26 + n * 2 ^ 24 + d) ∧
            y.cl.core.rd (pageDma (rg / 2)) (0x44 + 8 * e) = 0 ∧ z = y.pump rg n d))))) ∧
    (∀ (rg : Rgn) (n : Fin 4) (d : Fin 256),
      (k.findRun rg n d = none → exec (.descriptorComplete rg n d) s = .next s) ∧
      (∀ r, k.findRun rg n d = some r →
        (r.finished = false ∨ r.engine = 8 → exec (.descriptorComplete rg n d) s = .next s) ∧
        (r.finished = true → r.engine < 8 → k.pilotRun rg n d = none → does (.descriptorComplete rg n d) s (fun z =>
          z = { k with cl := { k.cl with core := z.cl.core, sc := { k.cl.sc with sync := z.cl.sc.sync } },
                       net := { k.net with runs := z.net.runs } } ∧
          z.findRun rg n d = some { r with phase := .complete, engine := 8 } ∧
          k.cl.core.sets z.cl.core (pageDma (rg / 2)) (0x40 + 8 * r.engine) 0 ∧
          (bitAt (dW r.words 0) 57 = false → z.cl.sc.sync = k.cl.sc.sync) ∧
          (bitAt (dW r.words 0) 57 = true → let i := bitsAt (dW r.words 0) 53 4
            ksets 0 k.cl.sc.sync z.cl.sc.sync (16 * r.clu + i) ((k.cl.sync r.clu i + 1) % 65536)))))) ∧
    (∀ (p : Port) (f : Frame) (rd : Bool),
      let g : Frame := { f with ftype := if rd then 0x0B else 0x09 }
      let mine (t : XTxn) : Bool := decide (t.node = f.srcNode.toNat ∧ t.txn = f.txn.toNat ∧ t.isRead = rd ∧
        t.fgroup = f.fgroup.toNat)
      takesFrame (if rd then .rdRpl p f else .wrCpl p f) s p g (fun y z =>
        (k.fab.out.find? mine = none → z = y) ∧
        (∀ t, k.fab.out.find? mine = some t →
          let x : Pkg := { y with fab := { y.fab with out := dropFirst (· == t) y.fab.out } }
          ((∀ r, k.findRun t.rg t.slot t.desc = some r → r.phase ≠ .running) → z = x) ∧
          (∀ r, k.findRun t.rg t.slot t.desc = some r → r.phase = .running →
            (rd = false → x.fab.out.any (fun o => decide (o.rg = t.rg ∧ o.slot = t.slot ∧ o.desc = t.desc ∧ o.piece = t.piece ∧
              o.isRead = false)) = true → z = x) ∧
            (rd = false → x.fab.out.any (fun o => decide (o.rg = t.rg ∧ o.slot = t.slot ∧ o.desc = t.desc ∧ o.piece = t.piece ∧
              o.isRead = false)) = false → z = (x.setDma { r with wr := r.wr - 1 }).pump r.rg r.slot r.desc) ∧
            (rd = true → let r1 : DmaRun := { r with outst := r.outst.filter (fun q => decide (q ≠ t.piece)) }
              let l : List PB := f.payload.zipIdx.map (fun e => (e.1, bitAt f.f4 (e.2 / 32)))
              z = ((x.setDma r1).pushData r1 t.piece (l.take 256)).pump r.rg r.slot r.desc)))))

/-! ## Fabric -/

/-- Training of a port or of the Attach Link (R280–R283, R290, R318). A training code word gives the peer's fields to a link in
training. A completed step goes on to the next: Detect with a lane present to Exchange, Map, Switch, then Equalise and Test,
or Test at once with the saved settings; Test ends with the link up on the widest lane set, its receive buffers advertised in
its first control flit and no credit yet, or one generation lower, or idle at the lowest. A step past its limit goes one
generation lower than the one it tried, or idle; an empty Detect leaves a port ABSENT. While a link trains, the training words
it sends name its step, MAX_GEN and node. REDETECT tries an absent port again. RETRAIN loses every transaction of the port and
starts Detect, and SAL_RETRY starts an idle Attach Link. Where it says more than these rules it says the model's choices of log
entries 151 and 314. -/
def Obligations.LinksTrainStepByStep : Prop :=
  ∀ (s : State) (l : Link),
    let k := s.pk
    let c := k.cl.core
    let x := k.link l
    let port := l.val ≠ salLink
    let becomes (cmd : Instr) (y : LinkS) : Prop := does cmd s (fun z =>
      z = { k with fab := { k.fab with link := z.fab.link } } ∧ z.link l = y)
    let idles (cmd : Instr) : Prop := does cmd s (fun z => (z.link l).step = .off ∧ (port → z.portState l = 0) ∧
      ∃ e, e ∈ z.cl.core.records ∧ e.code = if l.val = salLink then 0x0B02 else 0x0A01)
    (∀ w : TrainWord,
      (x.step = .off ∨ x.step = .up → exec (.trainingCodeWord l w) s = .next s) ∧
      (x.step ≠ .off → x.step ≠ .up → becomes (.trainingCodeWord l w) { x with
        present := if x.step = .detect ∧ k.laneEn l / 2 ^ w.lane.val % 2 = 1 then x.present ||| 2 ^ w.lane.val else x.present,
        peerGen := w.maxGen.toNat, peerMinW := w.minWidth.toNat, peerNode := w.node.toNat, peerPort := w.tport.toNat,
        peerTag := w.savedTag, peerFfe := w.ffe })) ∧
    (∀ g : BitVec 16,
      let cmd : Instr := .trainingStepComplete l g
      let en := g.toNat &&& k.laneEn l
      let lanes := x.lanes.filter (fun i => decide (g.toNat / 2 ^ i % 2 = 1))
      let w := fitWidth l lanes.length
      let good := w ≠ 0 ∧ k.minWidth l ≤ w
      let tests := x.step = .test ∧ ¬(x.saved = true ∧ lanes.length < x.lanes.length)
      (x.step = .off ∨ x.step = .up → exec cmd s = .next s) ∧
      (x.step = .detect → en = 0 → exec cmd s = .next s) ∧
      (x.step = .detect → en ≠ 0 → does cmd s (fun z => z.link l = { x with step := .exchange, present := en } ∧
        (port → z.portState l = 2))) ∧
      (x.step = .exchange → becomes cmd { x with step := .map }) ∧
      (x.step = .map → does cmd s (fun z =>
        z.link l = { x with step := .switch, lanes := maskLanes (laneCount l) x.present })) ∧
      (x.step = .switch → let same := decide (k.proposed l ≠ 0 ∧ k.proposed l = x.peerTag)
        becomes cmd { x with step := if same then .test else .equalise, saved := same, gen := max (baseGen l) (min x.cap (if x.peerGen = 0 then x.cap else x.peerGen)) }) ∧
      (x.step = .equalise → becomes cmd { x with step := .test }) ∧
      (x.step = .test → x.saved = true → lanes.length < x.lanes.length → becomes cmd { x with step := .equalise, saved := false }) ∧
      (tests → good → does cmd s (fun z => (z.link l).step = .up ∧ (z.link l).lanes = lanes.take w ∧ (z.link l).gen = x.gen ∧
        (z.link l).credit = [0, 0, 0, 0] ∧ (port → z.portState l = 3) ∧
        ∃ f, (z.link l).ctlOut = some f ∧ f.ack = 4095 ∧ f.credit = (fullCredit l).map (BitVec.ofNat 16))) ∧
      (tests → ¬ good → x.gen ≤ baseGen l → idles cmd) ∧
      (tests → ¬ good → baseGen l < x.gen → does cmd s (fun z => (z.link l).step = .switch ∧ (z.link l).cap = x.gen - 1))) ∧
    (let cmd : Instr := .trainingLimit l
     (x.step = .off ∨ x.step = .up → exec cmd s = .next s) ∧
     (x.step = .detect → port → does cmd s (fun z => (z.link l).step = .off ∧ z.portState l = 6)) ∧
     ((x.step = .detect ∧ l.val = salLink) ∨ x.step = .exchange ∨ x.step = .map → idles cmd) ∧
     (x.step = .test → x.saved = true → becomes cmd { x with step := .equalise, saved := false }) ∧
     (x.step = .switch ∨ x.step = .equalise ∨ (x.step = .test ∧ x.saved = false) →
       let tried := if x.step = .switch then x.target l else x.gen
       (tried ≤ baseGen l → idles cmd) ∧ (baseGen l < tried → becomes cmd { x with step := .switch, cap := tried - 1 }))) ∧
    (∀ lane : Fin 16, x.step ≠ .off → x.step ≠ .up → k.laneEn l / 2 ^ lane.val % 2 = 1 → ∃ w, k.trainOut l lane = some w ∧
      w.step = BitVec.ofNat 8 x.step.code ∧ w.maxGen = BitVec.ofNat 8 (k.maxGen l) ∧
      (port → w.node = BitVec.ofNat 16 (c.fld pageFbPkg 0x40 16 16) ∧ w.tport = BitVec.ofNat 8 l)) ∧
    (∀ (p : Port) (m : Byte),
      let en := m.toNat &&& k.laneEn p
      let may := k.portState p = 6 ∧ k.mayTrain p = true
      (¬ may → exec (.redetect p m) s = .next s) ∧
      (may → en = 0 → does (.redetect p m) s (fun z => (z.link p).step = .off ∧ z.portState p = 6)) ∧
      (may → en ≠ 0 → does (.redetect p m) s (fun z =>
        (z.link p).step = .exchange ∧ (z.link p).present = en ∧ z.portState p = 2)) ∧
      does (.retrain p) s (fun z => (∀ t, t ∈ z.fab.out → t.port ≠ p.val) ∧ kget z.fab.wait [] p = [] ∧
        kget z.fab.retry [] p = [] ∧
        (k.mayTrain p = true → (z.link p).step = .detect ∧ (z.link p).cap = k.maxGen p ∧ z.portState p = 1) ∧
        (k.mayTrain p = false → (z.link p).step = .off ∧ z.portState p = 0))) ∧
    (let may := k.pw.vaux = true ∧ (k.link salLink).step = .off ∧ k.mayTrain salLink = true
     (¬ may → exec .salRetry s = .next s) ∧
     (may → does .salRetry s (fun z => (z.link salLink).step = .detect ∧ (z.link salLink).cap = 3 ∧ (z.link salLink).gen = 2)))

/-- Code words, link control flits and lanes (R277, R279, R284–R287). An alignment word starts its lane's scrambler again and is
kept. On a link that is up a correct code word is taken in the order of LSEQ: with those held behind it, held while an earlier
one is missing, or dropped where it was taken already; a bad one is discarded with those behind it and a NAK of its LSEQ
leaves; corrected and bad ones are counted, and the fourth failure within 65,536 code words of a lane drops the lane. A control
flit acknowledges, adds credit and agrees a new lane set, in force from WIDTH_LSEQ on; its NAK counts the failures of an LSEQ
not acknowledged between them, and the eighth takes the link down. A dropped lane asks for a smaller lane set, or takes the
link to a lower generation below its least width; a lane that has passed Test asks to rejoin. Where it says more than these
rules it says the model's choices of log entries 135, 136, 137, 150, 152, 167, 322 and 324. -/
def Obligations.CodeWordsCreditsAndLanes : Prop :=
  ∀ (s : State) (l : Link),
    let k := s.pk
    let c := k.cl.core
    let x := k.link l
    let port := l.val ≠ salLink
    let becomes (cmd : Instr) (P : LinkS → Prop) : Prop := does cmd s (fun z =>
      z = { k with fab := { k.fab with link := z.fab.link } } ∧ P (z.link l))
    let set (m : Nat) : List Nat := x.lanes.filter (fun i => decide (m / 2 ^ i % 2 = 1)) ++
      (maskLanes (laneCount l) m).filter (fun i => !x.lanes.elem i)
    (∀ w : AlignWord, becomes (.alignmentCodeWord l w) (fun y => y = { x with scr := y.scr, alignIn := y.alignIn } ∧
      ksets 0 x.scr y.scr w.phys.toNat 0 ∧ ksets none x.alignIn y.alignIn w.phys.toNat (some w))) ∧
    (∀ (b : LinkS) (q : Nat), q < 4096 →
      (b.nakDue = none → q = b.rxNext → b.held = [] → b.goodWord q = { b with rxNext := (q + 1) % 4096 }) ∧
      (b.nakDue = none → q = b.rxNext → (b.goodWord q).rxNext ∉ (b.goodWord q).held) ∧
      (b.nakDue = none → q ≠ b.rxNext → lseqLe b.rxNext q = true → q ∉ b.held → b.goodWord q = { b with held := b.held ++ [q] }) ∧
      (b.nakDue = none → q ≠ b.rxNext → lseqLe b.rxNext q = false ∨ q ∈ b.held → b.goodWord q = b) ∧
      (b.nakDue = some q → b.goodWord q = { b with nakDue := none, rxDrop := false }.goodWord q) ∧
      (∀ n, b.nakDue = some n → q ≠ n → lseqLe n q = true → b.goodWord q = b ∧ b.badWord q = b) ∧
      (lseqLe b.rxNext q = false → b.badWord q = b) ∧
      (lseqLe b.rxNext q = true → (∀ n, b.nakDue = some n → q = n ∨ lseqLe n q = false) → ∃ f, (b.badWord q).ctlOut = some f ∧
        f.nakValid = true ∧ f.nak.toNat = q ∧ (b.badWord q).nakDue = some q ∧ (b.badWord q).rxNext = b.rxNext ∧
        ∀ n, n ∈ (b.badWord q).held ↔ n ∈ b.held ∧ lseqLe q n = false)) ∧
    (∀ (lane : Fin 16) (q : BitVec 12) (u : CwQuality),
      let cmd : Instr := .codeWordReceive l lane q u
      let b : LinkS := { x with cw := kput x.cw 0 lane (kget x.cw 0 lane + 1), scr := kput x.scr 0 lane (kget x.scr 0 lane + 1) }
      let y := b.goodWord q.toNat
      let fails := kget (b.laneFail lane).cwFails [] lane
      let takes (v : LinkS) : Prop := does cmd s (fun z =>
        z = { k with cl := { k.cl with core := z.cl.core }, fab := { k.fab with link := z.fab.link } } ∧ z.link l = v ∧
        (u = .clean ∨ u = .frameCrc → z.cl.core = c) ∧
        (port → u = .corrected → c.sets z.cl.core (pageFb l) 0x80 (satInc32 (c.rd (pageFb l) 0x80) 1)) ∧
        (port → u = .uncorrectable → c.sets z.cl.core (pageFb l) 0x84 (satInc32 (c.rd (pageFb l) 0x84) 1)))
      (x.step ≠ .up → exec cmd s = .next s) ∧
      (x.step = .up → u = .clean ∨ u = .corrected →
        (x.wpend = none → takes y) ∧
        (∀ m n, x.wpend = some (m, n) →
          (lseqLe n y.rxNext = false → takes y) ∧
          (lseqLe n y.rxNext = true → does cmd s (fun z =>
            z.link l = { y with lanes := set m, wreq := none, wpend := none })))) ∧
      (x.step = .up → u = .frameCrc → takes (b.badWord q.toNat)) ∧
      (x.step = .up → u = .uncorrectable → fails.length < 4 → takes ((b.laneFail lane).badWord q.toNat)) ∧
      (x.step = .up → u = .uncorrectable → 4 ≤ fails.length → ∃ v : Pkg,
        v = { k with cl := { k.cl with core := v.cl.core }, fab := { k.fab with link := v.fab.link } } ∧
        v.link l = (b.laneFail lane).badWord q.toNat ∧ exec cmd s = .next { s with pk := v.laneDrop l lane })) ∧
    (∀ f : ControlFlit,
      let cmd : Instr := .linkControlFlit l f
      let n := f.nak.toNat
      let acked := if x.failCnt ≠ 0 ∧ lseqLe x.failSeq f.ack.toNat = true then 0 else x.failCnt
      let fails := if acked ≠ 0 ∧ x.failSeq = n then acked + 1 else 1
      let now := lseqLe f.widthLseq.toNat x.rxNext
      let width (y : LinkS) : Prop :=
        (f.widthOp = 1 → (∃ g, y.ctlOut = some g ∧ g.widthOp = 2 ∧ g.widthLanes = f.widthLanes) ∧
          (now = true → y.lanes = set f.widthLanes.toNat ∧ y.wreq = none ∧ y.wpend = none) ∧
          (now = false → y.lanes = x.lanes ∧ y.wreq = x.wreq ∧ y.wpend = some (f.widthLanes.toNat, f.widthLseq.toNat))) ∧
        (∀ m i, f.widthOp = 2 → x.wreq = some (m, i) → y.wreq = none ∧
          (now = true → y.lanes = set m ∧ y.wpend = none) ∧ (now = false → y.lanes = x.lanes ∧ y.wpend = some (m, f.widthLseq.toNat))) ∧
        ((f.widthOp ≠ 1 ∧ f.widthOp ≠ 2) ∨ (f.widthOp = 2 ∧ x.wreq = none) →
          y.lanes = x.lanes ∧ y.wreq = x.wreq ∧ y.wpend = x.wpend)
      (x.step ≠ .up → port → exec cmd s = .next s) ∧
      (x.step ≠ .up → l.val = salLink → does cmd s (fun z => z = k.salDrain)) ∧
      (x.step = .up → port → f.nakValid = true → fails < 8 → does cmd s (fun z =>
        (z.link l).txAck = (f.ack.toNat + 1) % 4096 ∧ (z.link l).credit = addCredit x.credit (f.credit.map (·.toNat)) ∧
        (z.link l).failSeq = n ∧ (z.link l).failCnt = fails ∧ width (z.link l) ∧
        kget z.fab.retry [] l = (kget k.fab.retry [] l).filter (fun e => !lseqLe e.1 f.ack.toNat) ∧
        z.cl.core.rd (pageFb l) 0x88 = satInc32 (c.rd (pageFb l) 0x88) 1)) ∧
      (x.step = .up → port → f.nakValid = true → 8 ≤ fails → does cmd s (fun z =>
        (∀ t, t ∈ z.fab.out → t.port ≠ l.val) ∧ (z.link l).step ≠ .up ∧ ∃ e, e ∈ z.cl.core.records ∧ e.code = 0x0A04)) ∧
      (x.step = .up → port → f.nakValid = false → kget k.fab.wait [] l = [] → does cmd s (fun z =>
        width (z.link l) ∧ kget z.fab.wait [] l = [] ∧
        kget z.fab.retry [] l = (kget k.fab.retry [] l).filter (fun e => !lseqLe e.1 f.ack.toNat) ∧
        (z.link l).txAck = (f.ack.toNat + 1) % 4096 ∧ (z.link l).credit = addCredit x.credit (f.credit.map (·.toNat)) ∧
        (f.widthOp ≠ 1 → f.widthOp ≠ 2 →
          z = { k with fab := { k.fab with link := z.fab.link, retry := z.fab.retry, wait := z.fab.wait } } ∧
          z.link l = { x with txAck := (f.ack.toNat + 1) % 4096, credit := addCredit x.credit (f.credit.map (·.toNat)), failCnt := acked }))) ∧
      (x.step = .up → l.val = salLink → f.nakValid = false → f.widthOp ≠ 1 → f.widthOp ≠ 2 → k.att.wait = [] → does cmd s (fun z =>
        z.link l = { x with txAck := (f.ack.toNat + 1) % 4096, credit := addCredit x.credit (f.credit.map (·.toNat)), failCnt := acked } ∧
        z.att.wait = [] ∧ z.att.retry = k.att.retry.filter (fun e => !lseqLe e.1 f.ack.toNat) ∧ z.cl = k.cl ∧ z.hbm = k.hbm))) ∧
    (∀ lane : Fin 16,
      let left := x.lanes.filter (fun i => decide (i ≠ lane.val))
      let w := fitWidth l left.length
      let last := kget x.lastRt 0 lane
      let t := c.tick.toNat
      let again := last = 0 ∨ last + 1000000 ≤ t + 1
      let recorded (z : Pkg) (code : BitVec 16) := ∃ e, e ∈ z.cl.core.records ∧ e.code = code
      (x.step ≠ .up ∨ lane.val ∉ x.lanes → exec (.laneDrop l lane) s = .next s) ∧
      (x.step = .up → lane.val ∈ x.lanes → w ≠ 0 → k.minWidth l ≤ w → does (.laneDrop l lane) s (fun z =>
        recorded z 0x0A05 ∧ (z.link l).step = .up ∧ (z.link l).wreq = some (lanesMask (left.take w), x.txNext) ∧
        (again → (z.link l).dropped = x.dropped ++ [lane.val] ∧ kget (z.link l).lastRt 0 lane = t + 1) ∧
        (¬ again → (z.link l).dropped = x.dropped ∧ (z.link l).lastRt = x.lastRt) ∧
        (∃ f, (z.link l).ctlOut = some f ∧ f.widthOp = 1 ∧ f.widthLanes = BitVec.ofNat 16 (lanesMask (left.take w))) ∧
        (port → z.cl.core.rd (pageFb l) 0x8C = satInc32 (c.rd (pageFb l) 0x8C) 1))) ∧
      (x.step = .up → lane.val ∈ x.lanes → (w = 0 ∨ w < k.minWidth l) → does (.laneDrop l lane) s (fun z =>
        recorded z 0x0A05 ∧ (x.gen ≤ baseGen l → (z.link l).step = .off) ∧
        (baseGen l < x.gen → (z.link l).step = .switch ∧ (z.link l).cap = x.gen - 1) ∧
        kget z.fab.helloIn false l = false ∧ kget z.fab.helloAck false l = false ∧
        (port → ∀ t, t ∈ z.fab.out → t.port ≠ l.val))) ∧
      (x.step ≠ .up ∨ lane.val ∉ x.dropped → exec (.laneRejoin l lane) s = .next s) ∧
      (x.step = .up → lane.val ∈ x.dropped → does (.laneRejoin l lane) s (fun z => recorded z 0x0A06 ∧
        (z.link l).step = .up ∧ (z.link l).dropped = x.dropped.filter (fun i => decide (i ≠ lane.val)) ∧
        (z.link l).wreq = some (lanesMask ((x.lanes ++ [lane.val]).take (fitWidth l (x.lanes.length + 1))), x.txNext) ∧
        (z.link l).lanes = x.lanes)))

/-- Ports, peers and refusals (R289–R295). HELLO on a trained port keeps the peer's identity and answers HELLO_ACK; the port is up
once both sides are done, and a changed peer loses the port's transactions. The timer repeats HELLO; a timeout or BYE takes
the port down. NAK is counted; a window reason fails the descriptor's slot with FB_WIN_NAK, any other loses the transaction,
SEQ and STALE_INC all of its stream, which starts a new base. A refused frame is counted and answered by a NAK; the sixteenth
violation in 65,536 ticks puts the port into quarantine, with a NAK of its own, which its back-off or UNQUARANTINE ends with
Detect. Where it says more than these rules it says the model's choices of log entries 138, 139, 140, 145, 146, 147, 148, 315
and 316. -/
def Obligations.PeersAreGreetedRefusedAndQuarantined : Prop :=
  ∀ (s : State) (p : Port),
    let k := s.pk
    let c := k.cl.core
    let st := k.portState p
    let sent (z : Pkg) (P : Frame → Prop) : Prop :=
      ∃ f, P f ∧ (f ∈ kget z.fab.wait [] p ∨ ∃ q, (q, f) ∈ kget z.fab.retry [] p)
    let lost (z : Pkg) : Prop := (∀ t, t ∈ z.fab.out → t.port ≠ p.val) ∧ kget z.fab.wait [] p = [] ∧ kget z.fab.retry [] p = []
    let detects (z : Pkg) : Prop := (k.mayTrain p = true → (z.link p).step = .detect ∧ z.portState p = 1) ∧
      (k.mayTrain p = false → (z.link p).step = .off ∧ z.portState p = 0)
    (∀ h : HelloInfo,
      let id := h.node.toNat * 256 + h.inc.toNat + 1
      let prev := kget k.fab.prevPeer 0 p
      let changed := prev ≠ 0 ∧ prev ≠ id
      takesFrame (.hello p h) s p { h.frame with ftype := 0x01 } (fun _ z =>
        z.peerNode p = h.node.toNat ∧ z.peerInc p = h.inc.toNat ∧
        z.cl.core.rd (pageFb p) 0x54 = BitVec.ofNat 32 (h.maxChunks.toNat * 256 + h.caps.toNat) ∧
        kget z.fab.prevPeer 0 p = id ∧ kget z.fab.helloIn false p = true ∧
        z.portState p = (if st = 3 ∧ kget k.fab.helloAck false p = true then 4 else st) ∧
        sent z (fun f => f.ftype = 2 ∧ f.payload = k.helloBytes p) ∧
        (changed → (∀ t, t ∈ z.fab.out → t.port ≠ p.val) ∧ ∃ e, e ∈ z.cl.core.records ∧ e.code = 0x0A07) ∧
        (¬ changed → z.fab.out = k.fab.out ∧ z.cl.core.records = c.records))) ∧
    (∀ f : Frame,
      takesFrame (.helloAck ⟨p, f⟩) s p { f with ftype := 0x02 } (fun y z =>
        (st ≠ 3 → z = y) ∧
        (st = 3 → kget z.fab.helloAck false p = true ∧ z.fab.out = k.fab.out ∧
          z.portState p = (if kget k.fab.helloIn false p = true then 4 else 3))) ∧
      takesFrame (.bye ⟨p, f⟩) s p { f with ftype := 0x03 } (fun _ z => lost z ∧ detects z)) ∧
    (st ≠ 3 → exec (.helloTimer p) s = .next s ∧ exec (.helloTimeout p) s = .next s) ∧
    (st = 3 → does (.helloTimer p) s (fun z => sent z (fun f => f.ftype = 1 ∧ f.payload = k.helloBytes p) ∧ z.fab.out = k.fab.out) ∧
      does (.helloTimeout p) s (fun z => lost z ∧ detects z)) ∧
    (st = 5 → ∀ i ∈ [Instr.quarantineBackoffEnd p, .unquarantine p], does i s (fun z => detects z ∧ z.fab.out = k.fab.out)) ∧
    (st ≠ 5 → ∀ i ∈ [Instr.quarantineBackoffEnd p, .unquarantine p], exec i s = .next s) ∧
    (∀ f : Frame,
      let r := f.reason.toNat
      let mine (t : XTxn) : Bool := decide (t.port = p.val ∧ t.txn = f.txn.toNat ∧ t.fgroup = f.fgroup.toNat)
      takesFrame (.nak p f) s p { f with ftype := 0x04 } (fun y z =>
        (z.cl.core.rd (pageFb p) 0x98 = satInc32 (c.rd (pageFb p) 0x98) 1 ∧ z.cl.st = k.cl.st ∧ z.hbm = k.hbm) ∧
        (k.fab.out.find? mine = none →
          z = { y with cl := { y.cl with core := z.cl.core }, fab := { y.fab with txRst := z.fab.txRst } } ∧
          z.cl.core.records = c.records ∧
          (r = 6 ∨ r = 8 → ∀ v, v < 4 → kget z.fab.txRst false (streamKey f.srcNode.toNat f.fgroup.toNat v) = true) ∧
          (r ≠ 6 → r ≠ 8 → z.fab.txRst = k.fab.txRst)) ∧
        (∀ t, k.fab.out.find? mine = some t →
          let fails (code : Nat) (fatal : Bool) : Prop := ∀ x, k.findRun t.rg t.slot t.desc = some x → x.phase = .running →
            (∃ e, e ∈ z.cl.causes x.clu ∧ e.code = code ∧ e.fatal = fatal) ∧
            ∀ w, z.findRun t.rg t.slot t.desc = some w → w.phase = .dead
          (0x11 ≤ r → r ≤ 0x15 → z.fab.out = dropFirst (· == t) k.fab.out ∧ fails 0x0A0B true) ∧
          (r < 0x11 ∨ 0x15 < r → r ≠ 6 → r ≠ 8 → z.fab.out = dropFirst (· == t) k.fab.out ∧ fails 0x0A0A false ∧
            kget z.fab.txRst false (streamKey t.node t.fgroup t.fvc) = true) ∧
          (r = 6 ∨ r = 8 → fails 0x0A0A false ∧ kget z.fab.txRst false (streamKey t.node t.fgroup t.fvc) = true ∧ ∀ u, u ∈ z.fab.out →
            ¬(u.port = p.val ∧ u.node = t.node ∧ u.fgroup = t.fgroup ∧ u.fvc = t.fvc))))) ∧
    (∀ (f : Frame) (why : Nat),
      let z := k.refuse p f why
      let viol := 1 ≤ why ∧ why ≤ 7
      let l := (kget k.fab.viol [] p).filter (fun u => decide (c.tick.toNat < u + 65536)) ++ [c.tick.toNat]
      (f.ftype ≠ 4 → ¬(viol ∧ 16 ≤ l.length) → z.cl.core.rd (pageFb p) 0x94 = satInc32 (c.rd (pageFb p) 0x94) 1) ∧
      (viol → 16 ≤ l.length →
        z.cl.core.rd (pageFb p) 0x94 = satInc32 (c.rd (pageFb p) 0x94) (if f.ftype = 4 then 1 else 2)) ∧
      (f.ftype ≠ 4 → ¬(viol ∧ 16 ≤ l.length) → sent z (fun g => g.ftype = 4 ∧ g.reason = BitVec.ofNat 8 why ∧ g.txn = f.txn ∧
        g.fgroup = f.fgroup ∧ g.sseq = f.sseq)) ∧
      (f.ftype = 4 → ¬ viol → z = k) ∧
      (viol → z.cl.core.rd (pageFb p) 0x90 = satInc32 (c.rd (pageFb p) 0x90) 1) ∧
      (viol → l.length < 16 → kget z.fab.viol [] p = l ∧ z.portState p = st ∧ z.fab.out = k.fab.out) ∧
      (viol → 16 ≤ l.length → z.portState p = 5 ∧ (∀ t, t ∈ z.fab.out → t.port ≠ p.val) ∧
        ∃ e, e ∈ z.cl.core.records ∧ e.code = 0x0A09))

/-- Windows, stop signals, line tablets, routes and takeover (R272, R290, R295, R302, R303, R305, R307, R308). WR and RD pass a
window access on as packets to its controller where the window admits it, and are refused with its reason where not. STOP is
taken once: it is kept for its tick, the earliest ruling, or aborts the job at once where that has passed; STOP_ABORT aborts
the job. LT_ARRIVE counts at rank 0, the last member completing the line tablet, and LT_DONE completes it at the others.
TAKEOVER_ANN takes the new incarnation into the member lists; a drained participant arrives on through tablet 31, and from Close
of the armed tick no frame leaves for a node whose entry changes; FB_NODE is written with every port idle. In RECOVERY a port
keeps the credits of window requests back. Where it says more than these rules it says the model's choices of log entries 141,
142, 144, 154, 155, 156, 323, 325 and 329. -/
def Obligations.WindowsStopsLineTabletsAndRoutes : Prop :=
  ∀ (s : State) (p : Port) (f : Frame),
    let k := s.pk
    let c := k.cl.core
    let t := c.tick.toNat
    let recorded (z : Pkg) (code : BitVec 16) : Prop := ∃ e, e ∈ z.cl.core.records ∧ e.code = code
    let stopped (z : Pkg) (fg i : Nat) (x : StopS) : Prop :=
      recorded z 0x0A10 ∧ kget z.fab.stops none fg = none ∧ (∃ e, e ∈ z.cl.tt.faulted ∧ e.1 = k.grpJob i) ∧
      z.cl.core.rd pageFbPkg 0x60 = BitVec.ofNat 32 fg ∧ z.cl.core.rd pageFbPkg 0x64 = BitVec.ofNat 32 x.origin ∧
      z.cl.core.rd pageFbPkg 0x68 = BitVec.ofNat 32 x.reason ∧ z.cl.core.rd pageFbPkg 0x70 = BitVec.ofNat 32 x.ta ∧
      ∀ rg n, rg < 192 → n < 64 → c.circJob rg n = k.grpJob i →
        (c.circState rg n = 1 ∨ c.circState rg n = 3 → kget z.cl.tt.abortPend false (circKey rg n) = true) ∧
        (c.circState rg n ≠ 1 → c.circState rg n ≠ 3 → z.cl.core.circState rg n = 0)
    let completes (z : Pkg) (i : Nat) : Prop := z.cl.core.tbCount pageRoot (lineOff i) = 0 ∧
      z.cl.core.tbGen pageRoot (lineOff i) = (c.tbGen pageRoot (lineOff i) + 1) % 65536 ∧
      kget z.cl.tab.lineSent false i = false ∧ kget z.cl.tab.lineIn [] i = []
    (∀ rd : Bool,
      let g : Frame := { f with ftype := if rd then 0x0A else 0x08 }
      let n := if rd then f.len.toNat else f.payload.length
      let why := k.winBad f.window.toNat f.srcNode.toNat f.offset.toNat n f.gen.toNat (!rd)
      takesFrame (if rd then .rd p f else .wr p f) s p g (fun y z =>
        (n = 0 ∨ 2048 < n → z = y.refuse p g 2) ∧
        (0 < n → n ≤ 2048 → why ≠ 0 → recorded z 0x090D ∧ z.hbm = k.hbm ∧ z.net = k.net ∧ z.cl.st = k.cl.st) ∧
        (0 < n → n ≤ 2048 → why = 0 → k.inFree p = none → z = y) ∧
        (∀ id, 0 < n → n ≤ 2048 → why = 0 → k.inFree p = some id →
          let dpa := bitsAt (k.winW f.window.toNat 4) 0 30 * 4096 + f.offset.toNat
          let job := bitsAt (k.winW f.window.toNat 0) 25 4
          let bytes : List PB := if rd then List.replicate n (0, false) else f.payload.zipIdx.map (fun e => (e.1, bitAt f.f4 (e.2 / 32)))
          let pieces := (chunks256 (n / 256 + 2) dpa bytes).zipIdx
          ∃ y1 : Pkg, y1 = { y with fab := { y.fab with inn := y1.fab.inn } } ∧
            ksets none k.fab.inn y1.fab.inn (256 * p + id) (some ⟨{ g with payload := [] }, rd, job, pieces.length, [], false⟩) ∧
            z = pieces.foldl (fun x e => x.inject true (96 + portQuad p) (portEp p) (y1.winPacket p id e.2 job e.1.1 rd e.1.2)) y1))) ∧
    takesFrame (.stop p f) s p { f with ftype := 0x18 } (fun y z =>
      let id := (f.srcNode.toNat, f.step.toNat)
      let fg := f.fgroup.toNat
      let x : StopS := ⟨f.srcNode.toNat, f.reason.toNat, f.f5.toNat⟩
      let best : StopS := match kget k.fab.stops none fg with
        | some o => if o.ta ≤ x.ta then o else x
        | none => x
      (id ∈ k.fab.stopSeen ∨ k.grpOf fg = none → z = y) ∧
      (∀ i, id ∉ k.fab.stopSeen → k.grpOf fg = some i → z.fab.stopSeen = k.fab.stopSeen ++ [id] ∧
        (c.stopLate x.ta = false → ksets none k.fab.stops z.fab.stops fg (some best) ∧ z.cl.tt = k.cl.tt) ∧
        (c.stopLate x.ta = true → stopped z fg i best ∧ recorded z 0x0A11))) ∧
    (∀ g : BitVec 16,
      let fg := g.toNat
      (∀ x i, kget k.fab.stops none fg = some x → k.grpOf fg = some i → x.ta ≤ t + 1 → does (.stopAbort g) s (fun z =>
        stopped z fg i x ∧ z.cl.st = k.cl.st ∧ z.hbm = k.hbm)) ∧
      (kget k.fab.stops none fg = none ∨ k.grpOf fg = none → exec (.stopAbort g) s = .next s) ∧
      (∀ x, kget k.fab.stops none fg = some x → t + 1 < x.ta → exec (.stopAbort g) s = .next s)) ∧
    takesFrame (.ltArrive p f) s p { f with ftype := 0x19 } (fun y z =>
      let i := f.txn.toNat
      (8 ≤ i ∨ k.grpOf f.fgroup.toNat = none → z = y) ∧
      (∀ g, k.grpOf f.fgroup.toNat = some g → k.grpRank g ≠ 0 ∨ k.rankOf g f.srcNode.toNat = none → z = y) ∧
      (∀ g r, i < 8 → k.grpOf f.fgroup.toNat = some g → k.grpRank g = 0 → k.rankOf g f.srcNode.toNat = some r →
        let l := kget k.cl.tab.lineIn [] i
        let l1 := if r ∈ l then l else l ++ [r]
        (l1.length < k.grpN g → z = { y with cl := { y.cl with tab := { y.cl.tab with lineIn := z.cl.tab.lineIn } } } ∧
          ksets [] k.cl.tab.lineIn z.cl.tab.lineIn i l1) ∧
        (k.grpN g ≤ l1.length → completes z i))) ∧
    takesFrame (.ltDone p f) s p { f with ftype := 0x1A } (fun y z =>
      (8 ≤ f.txn.toNat → z = y) ∧ (f.txn.toNat < 8 → completes z f.txn.toNat ∧ z.fab = y.fab ∧ z.cl.st.mem = k.cl.st.mem)) ∧
    takesFrame (.takeoverAnn p f) s p { f with ftype := 0x28 } (fun y z =>
      let node := f.srcNode.toNat
      z = { y with cl := { y.cl with core := z.cl.core }, fab := { y.fab with members := z.fab.members, txSeq := z.fab.txSeq, annIn := z.fab.annIn, route := z.fab.route } } ∧
      z.fab.members = k.fab.members.map (fun e =>
        if bitsAt e.2 16 16 = node then (e.1, BitVec.ofNat 32 (node * 65536 + f.srcInc.toNat * 256)) else e) ∧
      (∀ e, e ∈ z.fab.txSeq → e.1 / 2 ^ 18 ≠ node) ∧ z.fab.annIn = k.fab.annIn ++ [(node, f.fgroup.toNat)] ∧
      kget z.fab.route 0 (65536 * (1 - k.routeBank) + node) = BitVec.ofNat 32 (2 ^ 31 + 2 ^ p.val) ∧
      z.cl.core.rd8 pageFbPkg 0x50 = (if c.rd8 pageFbPkg 0x50 ≠ 0 then c.rd8 pageFbPkg 0x50 else (t + 1) % 2 ^ 64)) ∧
    takesFrame (.drainDone p f) s p { f with ftype := 0x29 } (fun y z =>
      z = { y with fab := { y.fab with drainDone := z.fab.drainDone } } ∧ z.fab.drainDone =
        (if f.srcNode.toNat ∈ k.fab.drainDone then k.fab.drainDone else k.fab.drainDone ++ [f.srcNode.toNat])) ∧
    (∀ i : Fin 22,
      let held := (∃ g, g ∈ kget k.fab.wait [] i ∧ k.routeChanged g.dstNode.toNat = true) ∨
        (∃ g, g ∈ kget k.fab.retry [] i ∧ k.routeChanged g.2.dstNode.toNat = true) ∨
        (∃ x, x ∈ k.fab.out ∧ x.port = i.val ∧ k.routeChanged x.node = true)
      let busy := 18 ≤ i.val ∧ ∃ j r, (j, some r) ∈ k.fab.runs ∧ j / 64 = i.val - 18 ∧ k.routeChanged (k.runNext j) = true ∧
        r.unacked ≠ []
      let may := c.drainArmed = true ∧ c.close0 ≤ c.cycle ∧ i.val ∉ k.fab.drained ∧ ¬(i.val < 18 ∧ held) ∧ ¬ busy
      let n := k.fab.drained.length + 1
      (¬ may → exec (.routeDrainArrive i) s = .next s) ∧
      (may → does (.routeDrainArrive i) s (fun z =>
        z = { k with cl := { k.cl with core := z.cl.core }, fab := { k.fab with drained := k.fab.drained ++ [i.val] } } ∧
        c.only z.cl.core [regKey pageRoot (thruOff 31 + 4)] ∧
        (n < 22 → z.cl.core.tbCount pageRoot (thruOff 31) = n) ∧ (22 ≤ n → z.cl.core.tbCount pageRoot (thruOff 31) = 0 ∧
          z.cl.core.tbGen pageRoot (thruOff 31) = (c.tbGen pageRoot (thruOff 31) + 1) % 65536)))) ∧
    (∀ (node q : Nat) (g : Frame), k.routePort node g.fgroup.toNat = some q → k.portState q = 4 → k.routeHeld node = true →
      k.sendTo node g = (some q, { k with fab := { k.fab with heldTx := k.fab.heldTx ++ [(node, g)] } })) ∧
    (∀ v : W32,
      (k.portsIdle = false → doesCore (.fbNodeWrite v) s (fun y => c.setsFld y pageFbPkg 0x18 0 1 1)) ∧
      (k.portsIdle = true → does (.fbNodeWrite v) s (fun z => z.cl.core.rd pageFbPkg 0x40 = v &&& 0xFFFFFF01 ∧ z.cl.st = k.cl.st ∧
        (bitAt v 0 = false → ∀ q, q < 18 → z.portState q = 0 ∧ (z.link q).step = .off) ∧
        (bitAt v 0 = true → bitAt (c.rd pageFbPkg 0x40) 0 = false → ∀ q, q < 18 → c.railOk (14 + portQuad q) = true →
          bitAt (c.rd (pageFb q) 0x40) 31 = true → z.portState q = 1 ∧ (z.link q).step = .detect))))

/-! ## The Attach Link -/

/-- The host's requests on the Attach Link (R319–R323, R325). A request with a reserved field, a bad address or no attached window
answers AT_PROTOCOL's ERR. RD_SHARED and RD_OWN of a line answer a grant and its bytes and enter the directory; a line being
snooped, and one whose full directory set first needs a victim, waits. RD_UNCACHED answers the bytes, or words of the control
window. WB writes an owned line back and EVICT drops a clean one, each in its turn behind a snoop of its line. WR_FULL and WR_PARTIAL write their bytes to device memory,
or to the control window with the status of that write. A message goes out while the link is up, in order, and waits for
credit. Where it says more than these rules it says the model's choices of log entries 168, 169, 171, 172 and 326. -/
def Obligations.HostRequestsReadWriteAndKeepTheDirectory : Prop :=
  ∀ (s : State) (m : SalMsg),
    let k := s.pk
    let a := m.addr.toNat
    let line := a / 64
    let base := a / 64 * 64
    let memBad := m.resv = true ∨ m.space = true ∨ a % 64 ≠ 0 ∨ k.hostDpa a = false
    let wait := (k.attached base && k.lineBusy line) = true
    let waits (cmd : Instr) (q : SalMsg) : Prop :=
      exec cmd s = .next { s with pk := { k with att := { k.att with waitq := k.att.waitq ++ [.host q] } } }
    (∀ own : Bool,
      let q : SalMsg := { m with op := if own then 2 else 1 }
      let cmd : Instr := if own then .rdOwn m else .rdShared m
      let bad := memBad ∨ k.attached a = false
      (bad → exec cmd s = .next { s with pk := k.salErr q true }) ∧
      (¬ bad → k.lineBusy line = true → waits cmd q) ∧
      (¬ bad → k.lineBusy line = false → k.dirOf line = 2 → exec cmd s = .next { s with pk := k.salErr q true }) ∧
      (∀ v, ¬ bad → k.lineBusy line = false → k.dirOf line ≠ 2 → k.dirVictim line = some v → does cmd s (fun z =>
        z.att.waitq = k.att.waitq ++ [.host q] ∧ z.att.dir = k.att.dir ∧ z.hbm = k.hbm ∧ z.snooping v = true ∧
        (k.snooping v = true → z.att.snoops = k.att.snoops))) ∧
      (¬ bad → k.lineBusy line = false → k.dirOf line ≠ 2 → k.dirVictim line = none → does cmd s (fun z =>
        let r := k.dpaRead a 64
        ∃ y : Pkg, y = { r.2 with att := { k.att with dir := y.att.dir } } ∧
          ksets 0 k.att.dir y.att.dir line (if own then 2 else 1) ∧
          z = (y.salSend { op := if own then 0x22 else 0x21, txn := m.txn }).salSend (lineMsg m.txn r.1)))) ∧
    (¬ memBad → k.lineBusy line = true → waits (.wb m) { m with op := 6 } ∧ waits (.evict m) { m with op := 7 }) ∧
    (memBad ∨ (k.lineBusy line = false ∧ k.dirOf line ≠ 2) → exec (.wb m) s = .next { s with pk := k.salErr { m with op := 6 } false }) ∧
    (¬ memBad → k.lineBusy line = false → k.dirOf line = 2 → does (.wb m) s (fun z => ∃ y : Pkg,
      let w := k.dpaWrite a (msgBytes m)
      y = { w with att := { k.att with dir := y.att.dir } } ∧ ksets 0 k.att.dir y.att.dir line 0 ∧
      z = y.salSend { op := 0x20, txn := m.txn })) ∧
    (memBad ∨ (k.lineBusy line = false ∧ k.dirOf line = 0) → exec (.evict m) s = .next { s with pk := k.salErr { m with op := 7 } false }) ∧
    (¬ memBad → k.lineBusy line = false → k.dirOf line ≠ 0 → does (.evict m) s (fun z => ∃ y : Pkg,
      y = { k with att := { k.att with dir := y.att.dir } } ∧ ksets 0 k.att.dir y.att.dir line 0 ∧
      z = y.salSend { op := 0x20, txn := m.txn })) ∧
    (let q : SalMsg := { m with op := 3 }
     let err : Prop := exec (.rdUncached m) s = .next { s with pk := k.salErr q true }
     let cw (lo n : Nat) : Prop := m.resv = false ∧ 4 ≤ n ∧ m.space = true ∧ base < 2 ^ 24 ∧ cwAligned (base % 4096 + lo) n = true
     (maskRun m.byteMask = none → err) ∧
     (∀ lo n, maskRun m.byteMask = some (lo, n) →
       (m.resv = true ∨ n < 4 → err) ∧
       (m.resv = false → 4 ≤ n → m.space = true → ¬ cw lo n → err) ∧
       (m.resv = false → 4 ≤ n → m.space = false → k.hostDpa base = false → err) ∧
       (m.resv = false → 4 ≤ n → m.space = false → k.hostDpa base = true → wait → waits (.rdUncached m) q) ∧
       (m.resv = false → 4 ≤ n → m.space = false → k.hostDpa base = true → ¬ wait → exec (.rdUncached m) s = .next { s with pk := let r := k.dpaRead base 64; (r.2.salSend { op := 0x20, txn := m.txn }).salSend (lineMsg m.txn r.1) }) ∧
       (cw lo n → does (.rdUncached m) s (fun z =>
         let off := base % 4096 + lo
         let w := k.cwRead (base / 4096) off
         let v := w.2.cwRead (base / 4096) (off + 4)
         (n = 4 → z = (w.2.salSend { op := 0x20, txn := m.txn }).salSend
           { op := 0x30, txn := m.txn, data := List.replicate lo 0 ++ bytes4 w.1 ++ List.replicate (60 - lo) 0 }) ∧
         (n = 8 → z = (v.2.salSend { op := 0x20, txn := m.txn }).salSend
           { op := 0x30, txn := m.txn, data := List.replicate lo 0 ++ bytes4 w.1 ++ bytes4 v.1 ++ List.replicate (56 - lo) 0 }))))) ∧
    (∀ full : Bool,
      let q : SalMsg := { m with op := if full then 4 else 5 }
      let cmd : Instr := if full then .wrFull m else .wrPartial m
      let err : Prop := exec cmd s = .next { s with pk := k.salErr q false }
      let bad := m.resv = true ∨ k.hostDpa base = false ∨ (full = true ∧ a % 64 ≠ 0)
      (m.space = false → bad → err) ∧
      (m.space = false → ¬ bad → wait → waits cmd q) ∧
      (m.space = false → ¬ bad → ¬ wait → full = true → exec cmd s = .next { s with pk := (k.dpaWrite base (msgBytes m)).salSend { op := 0x20, txn := m.txn } }) ∧
      (m.space = false → ¬ bad → ¬ wait → full = false → exec cmd s = .next { s with pk := (((List.range 64).filter (fun i => m.byteMask.getLsbD i)).foldl (fun x i => x.dpaWrite (base + i) [(msgBytes m).getD i (0, false)]) k).salSend { op := 0x20, txn := m.txn } }) ∧
      (m.space = true → (full = false ∧ maskRun m.byteMask = none) ∨ m.resv = true ∨ 2 ^ 24 ≤ base → err) ∧
      (∀ lo n, m.space = true → m.resv = false → base < 2 ^ 24 →
        (full = true ∧ lo = 0 ∧ n = 64) ∨ (full = false ∧ maskRun m.byteMask = some (lo, n)) → exec cmd s = .next { s with pk := let r := k.cwWrite (base / 4096) (base % 4096 + lo) n (BitVec.ofNat 64 (leNat ((m.data.drop lo).take n))); r.2.salSend { op := 0x20, txn := m.txn, status := BitVec.ofNat 4 r.1 } })) ∧
    (let x := k.link salLink
     let cls := salClass m.op.toNat
     let n := if m.data = [] then 1 else 2
     let cr := nth x.credit 0 cls
     let room := n ≤ cr ∧ (x.txNext + 4096 - x.txAck) % 4096 < 2048
     (x.step ≠ .up → k.salSend m = k) ∧
     (x.step = .up → ¬ room → k.salSend m = { k with att := { k.att with wait := k.att.wait ++ [m] } }) ∧
     (x.step = .up → room →
       let z := k.salSend m
       z.att = { k.att with retry := k.att.retry ++ [(x.txNext, m)] } ∧ (z.link salLink).txNext = (x.txNext + 1) % 4096 ∧
       nth (z.link salLink).credit 0 cls = cr - n ∧ z.hbm = k.hbm ∧ z.cl.st = k.cl.st) ∧
     (∀ rd : Bool, let z := k.salErr m rd
       z.hbm = k.hbm ∧ z.att.dir = k.att.dir ∧ z.att.cache = k.att.cache ∧ z.cl.st = k.cl.st ∧
       ∃ e, e ∈ z.cl.core.records ∧ e.code = 0x0B04))

/-- The attach cache and the snoops of the host (R321, R323, R324). SNP_INV drops a line of the attach cache and SNP_SHARE keeps
it shared; a modified line's bytes go back with the answer. CMP ends a device request; a grant is kept for its request, whose
LINE puts the bytes into the cache in the granted state and lets the transfers that waited go on. The host's answer to a snoop
writes any returned bytes back and sets the directory, and the accesses that waited for the line go on. A snoop without answer
gives a read poison and a write no effect, with AT_SNP_TIMEOUT; a device request without answer is abandoned with
AT_CPL_TIMEOUT. Where it says more than these rules it says the model's choices of log entries 168, 169, 170 and 174. -/
def Obligations.AttachCacheSnoopsAndTimeouts : Prop :=
  ∀ (s : State) (m : SalMsg),
    let k := s.pk
    let line := m.addr.toNat / 64
    let t := m.txn.toNat
    (∀ inv : Bool, does (if inv then .snpInv m else .snpShare m) s (fun z => ∃ y : Pkg,
      y = { k with att := { k.att with cache := y.att.cache } } ∧
      ksets none k.att.cache y.att.cache line (if inv then none else (k.cline line).map (fun c => { c with st := 1 })) ∧
      let ans := y.salSend { op := if inv = true ∨ k.cline line = none then 0x23 else 0x24, txn := m.txn }
      (∀ c, k.cline line = some c → c.st = 3 → z = ans.salSend (lineMsg m.txn c.data)) ∧
      ((∀ c, k.cline line = some c → c.st ≠ 3) → z = ans))) ∧
    (let mine := k.att.reqs.find? (fun r => decide (r.txn = t))
     (mine = none → exec (.cmp m) s = .next s) ∧
     (∀ r, mine = some r → m.status = 2 → r.op ≤ 2 → exec (.cmp m) s = .next { s with pk := { k with att := { k.att with reqs := k.att.reqs.map (fun q => if q.txn = t then { q with grant := r.op } else q) } } }) ∧
     (∀ r, mine = some r → ¬(m.status = 2 ∧ r.op ≤ 2) → exec (.cmp m) s = .next { s with pk := k.reqDone t }) ∧
     (mine = none → exec (.atCplTimeout m.txn) s = .next s) ∧
     (∀ r, mine = some r → does (.atCplTimeout m.txn) s (fun z =>
       z = { k with cl := { k.cl with core := z.cl.core }, att := { k.att with reqs := k.att.reqs.filter (fun q => decide (q.txn ≠ t)), xfers := k.att.xfers.filter (fun x => !x.waits.elem t) } } ∧
       ∃ e, e ∈ z.cl.core.records ∧ e.code = 0x0B06))) ∧
    (∀ g : Nat, g = 1 ∨ g = 2 → exec (if g = 1 then .grantS m else .grantE m) s = .next { s with pk := { k with att := { k.att with reqs := k.att.reqs.map (fun q => if q.txn = t ∧ (q.op = 1 ∨ q.op = 2) then { q with grant := g } else q) } } }) ∧
    (let mine := k.att.reqs.find? (fun r => decide (r.txn = t ∧ r.grant ≠ 0))
     (mine = none → exec (.line m) s = .next s) ∧
     (∀ r, mine = some r → (k.att.cache.filter (fun e => decide (cacheSet e.1 = cacheSet r.line ∧ e.1 ≠ r.line))).length < 16 →
       does (.line m) s (fun z => ∃ y : Pkg, y = { k with att := { k.att with cache := y.att.cache } } ∧
         ksets none k.att.cache y.att.cache r.line (some ⟨r.grant, msgBytes m⟩) ∧ z = y.reqDone t)) ∧
     (∀ r, mine = some r → does (.line m) s (fun z => ∃ y : Pkg, y.cline r.line = some ⟨r.grant, msgBytes m⟩ ∧
       y.hbm = k.hbm ∧ y.cl.st = k.cl.st ∧ y.att.dir = k.att.dir ∧ z = y.reqDone t))) ∧
    (let z := k.reqDone t
     k.att.xfers.all (fun x => !x.waits.elem t) = true →
       z = { k with att := { k.att with reqs := k.att.reqs.filter (fun r => decide (r.txn ≠ t)), xfers := k.att.xfers } }) ∧
    (∀ inv : Bool,
      let cmd : Instr := if inv then .snpI m else .snpS m
      let mine := k.att.snoops.find? (fun x => decide (x.txn = t))
      let muted := bitAt (k.cl.core.rd pageAt 0x28) 2
      (muted = true → does cmd s (fun z => bitAt (z.cl.core.rd pageAt 0x28) 2 = false ∧ z.hbm = k.hbm ∧ z.att.dir = k.att.dir ∧
        z.att.snoops = k.att.snoops.map (fun x => if x.txn = t then { x with muted := true } else x))) ∧
      (muted = false → mine = none → exec cmd s = .next s) ∧
      (∀ x, muted = false → mine = some x → does cmd s (fun z => ∃ y : Pkg,
        let d := if m.data = [] then k else k.dpaWrite (64 * x.line) (msgBytes m)
        y = { d with att := { k.att with snoops := k.att.snoops.filter (fun q => decide (q.txn ≠ t)), dir := y.att.dir } } ∧
        ksets 0 k.att.dir y.att.dir x.line (if inv = true ∨ x.inv = true then 0 else 1) ∧
        let go : Pkg := { y with att := { y.att with waitq := [] } }
        (x.pk = none → z = k.att.waitq.foldl Pkg.waitTry go) ∧
        (∀ p, x.pk = some p → p.type = 1 → z = k.att.waitq.foldl Pkg.waitTry (go.readPacket p)) ∧
        (∀ p, x.pk = some p → p.type ≠ 1 → z = k.att.waitq.foldl Pkg.waitTry (go.writePacket p))))) ∧
    (let mine := k.att.snoops.find? (fun x => decide (x.txn = t))
     (mine = none → exec (.atSnpTimeout m.txn) s = .next s) ∧
     (∀ x, mine = some x → does (.atSnpTimeout m.txn) s (fun z => ∃ y : Pkg,
       y = { k with cl := { k.cl with core := y.cl.core }, att := { k.att with snoops := k.att.snoops.filter (fun q => decide (q.txn ≠ t)) } } ∧
       (∃ e, e ∈ y.cl.core.records ∧ e.code = 0x0B05 ∧ e.injected = x.muted) ∧
       (x.pk = none → z = y.lineResume none) ∧
       (∀ p, x.pk = some p → p.type = 1 → z = ((y.setWhy p 0x0501).inject false p.dstDie.toNat p.dstEp.toNat
         (replyOf p (List.replicate (64 * p.chunks.toNat) (0, true)) 1)).lineResume none) ∧
       (∀ p, x.pk = some p → p.type ≠ 1 → z = ((y.setWhy p 0x0501).inject false p.dstDie.toNat p.dstEp.toNat
         (completionOf p 1)).lineResume none))))

/-! ## Collectives and time -/

/-- Collective runs (R297–R301). COLL_DATA gathers the bytes of the chunk expected next. COLL_DIG of a chunk already taken is
acknowledged again; of the chunk expected it is checked: a length, CRC or count that differs is FB_DIGEST_CRC, a failed sum
FB_DIGEST_SUM, and either ends the run with the stop signal and keeps the step, the chunk and both sums. A checked chunk is
acknowledged, reduced with the own chunk in the reduce steps, written where it is a result and sent on, behind any that still
wait for the staging buffer. An end that the job may not reach is HB_ACCESS_FAULT and ends the run. COLL_ACK ends the resends of
a chunk, frees its staging and lets the next waiting one leave, and COLL_TIMEOUT sends the oldest unacknowledged one again, up to
three times. A frame of no run changes nothing but its stream. Where it says more than these rules it says the model's choices
of log entries 24, 157, 158, 159, 160, 161, 317, 318 and 321. -/
def Obligations.CollectivesCheckReduceAndPassOn : Prop :=
  ∀ (s : State) (p : Port) (f : Frame),
    let k := s.pk
    let q := f.txn.toNat / 64 % 4
    let e := f.txn.toNat % 64
    let ws := k.collEntry q e
    let i := ceGrp ws
    let st := f.step.toNat
    let shows (y z : Pkg) (r : CollRun) : Prop :=
      z = { y with cl := { y.cl with core := z.cl.core }, fab := { y.fab with runs := z.fab.runs } } ∧ z.collRun q e = some r
    takesFrame (.collData p f) s p { f with ftype := 0x10 } (fun y z =>
      (k.collRun q e = none → z = y) ∧
      (∀ r, k.collRun q e = some r →
        (st ≠ r.got ∨ r.freed = true → z = y) ∧
        (st = r.got → r.freed = false →
          let l : List PB := f.payload.zipIdx.map (fun b => (b.1, bitAt f.f4 (b.2 / 32)))
          shows y z { r with rx := if f.offset.toNat = 0 then l else if f.offset.toNat = r.rx.length then r.rx ++ l else r.rx }))) ∧
    takesFrame (.collAck p f) s p { f with ftype := 0x12 } (fun y z =>
      (k.collRun q e = none → z = y) ∧
      (∀ r, k.collRun q e = some r →
        let u := r.unacked.filter (fun x => decide (x.1 ≠ st))
        let left := if r.unacked.any (fun x => x.1 == st) then kdel r.stage st else r.stage
        (r.freed = true → u = [] → r.todo = [] → z.collRun q e = none ∧ z.cl.st = k.cl.st) ∧
        (r.freed = false ∨ u ≠ [] ∨ r.todo ≠ [] → ∃ w : Pkg, shows y w { r with unacked := u, stage := left } ∧
          z = w.collPump q e ∧ (r.todo = [] → z = w)))) ∧
    takesFrame (.collDig p f) s p { f with ftype := 0x11 } (fun y z =>
      let g : Frame := { f with ftype := 0x11 }
      let n := k.grpN i
      let fmt := ceFmt ws
      (k.collRun q e = none → z = y) ∧
      (∀ r, k.collRun q e = some r →
        let good := r.rx.length = 256 * ceChunk ws ∧ crc64 (r.rx.map (·.1)) = f.f4.toNat ∧ f.count.toNat = redCount fmt r.rx.length
        let turn := st = r.got ∧ r.freed = false
        let reduces := st / cePer ws < (ringSteps (ceOp ws) n).1
        let share := (ringShares (ceOp ws) n (k.grpRank i) (st / cePer ws)).2
        let at_ := srcGranule ws share (st % cePer ws)
        let own := y.collRead (k.grpJob i) (ceSrc ws) at_ (ceChunk ws)
        let a := redElems (r.rx.length + 1) fmt r.rx
        let b := redElems (own.1.length + 1) fmt own.1
        let o := List.zipWith (fun x w => (redAdd fmt x.1 w.1, x.2 || w.2)) a b
        let skip := (sumSkip fmt a || sumSkip fmt b || sumSkip fmt o) = true
        let sumGood := sumOk fmt f.f5 (a.map (·.1)) (b.map (·.1)) (o.map (·.1)) = true
        let sum : List PB := o.flatMap (fun x => (leBytes (redBytes fmt) x.1).map (fun w => (w, x.2)))
        (st < r.got → z = y.collAckSend g) ∧
        (r.got < st ∨ (st = r.got ∧ r.freed = true) → z = y) ∧
        let denied := y.collFault (k.grpJob i) (ceSrc ws) at_ (ceChunk ws)
        let notes (b : Pkg) (got formed : W64) : Pkg := { b with fab := { b.fab with digFail := kput b.fab.digFail none q (some
          ⟨st / max 1 (cePer ws), st % max 1 (cePer ws), got, formed⟩) } }
        (turn → ¬ good → z = (notes y f.f4 (BitVec.ofNat 64 (crc64 (r.rx.map (·.1))))).collFail q e 0x0A0C 1) ∧
        (turn → good → ¬ reduces → z = (y.collAckSend g).collTake q e r r.rx) ∧
        (∀ a' why, turn → good → reduces → denied = some (a', why) → z = y.collDeny q e why) ∧
        (turn → good → reduces → denied = none → ¬ skip → ¬ sumGood →
          z = (notes own.2 (sumDue fmt f.f5 (b.map (·.1))) (vsumBits fmt (o.map (·.1)))).collFail q e 0x0A0D 1) ∧
        (turn → good → reduces → denied = none → ¬ skip → sumGood → z = (own.2.collAckSend g).collTake q e r sum) ∧
        (turn → good → reduces → denied = none → skip →
          ∃ x : Pkg, x = { own.2 with cl := { own.2.cl with core := x.cl.core } } ∧
          (∀ t, own.2.routePort f.srcNode.toNat f.fgroup.toNat = some t → own.2.cl.core.sets x.cl.core (pageFb t) 0x9C
            (satInc32 (own.2.cl.core.rd (pageFb t) 0x9C) 1)) ∧
          (own.2.routePort f.srcNode.toNat f.fgroup.toNat = none → x = own.2) ∧
          z = (x.collAckSend g).collTake q e r sum))) ∧
    (∀ (r : CollRun) (l : List PB), k.collRun q e = some r →
      let z := k.collTake q e r l
      let per := cePer ws
      let total := totalSteps ws (k.grpN i)
      let share := (ringShares (ceOp ws) (k.grpN i) (k.grpRank i) (r.got / per)).2
      let at_ := dstGranule ws share (r.got % per)
      let result := (ringSteps (ceOp ws) (k.grpN i)).1 ≤ r.got / per + 1
      let denied := k.collFault (k.grpJob i) (ceDst ws) at_ (ceChunk ws)
      let w := if result then k.collWrite (k.grpJob i) (ceDst ws) at_ l else k
      (∀ a why, result → denied = some (a, why) → z = k.collDeny q e why) ∧
      (¬ result ∨ denied = none → z.hbm.mem = w.hbm.mem ∧ z.cl.st.mem = w.cl.st.mem ∧
      ∃ x, z.collRun q e = some x ∧ x.got = r.got + 1 ∧ x.rx = [] ∧ x.done = decide (r.got + 1 = total) ∧
        (r.got + per < total → kget x.stage [] (r.got + per) = l ∧
          (r.todo = [] → x.unacked = r.unacked ++ [(r.got + per, 0)] ∧ x.todo = []) ∧
          (r.todo ≠ [] → x.unacked = r.unacked ∧ x.todo = r.todo ++ [r.got + per])) ∧
        (total ≤ r.got + per → x.unacked = r.unacked ∧ x.stage = r.stage ∧ x.todo = r.todo))) ∧
    (∀ why : Nat,
      let z := k.collDeny q e why
      z.collRun q e = none ∧ z.cl.st.mem = k.cl.st.mem ∧ z.hbm = k.hbm ∧
      (∃ x, x ∈ z.cl.core.records ∧ x.code = 0x090B) ∧ ∃ x, x ∈ z.cl.tt.faulted ∧ x.1 = k.grpJob i) ∧
    (∀ (code reason : Nat),
      let z := k.collFail q e code reason
      z.collRun q e = none ∧ z.cl.st.mem = k.cl.st.mem ∧ z.hbm.mem = k.hbm.mem ∧
      (∃ x, x ∈ z.cl.core.records ∧ x.code = BitVec.ofNat 16 code) ∧
      ∃ x, kget z.fab.stops none (k.grpId i) = some x ∧ x.ta ≤ k.cl.core.tick.toNat + 4) ∧
    (∀ (u : Quad) (n : Fin 64),
      (k.collRun u n = none → exec (.collTimeout u n) s = .next s) ∧
      (∀ r, k.collRun u n = some r →
        (r.unacked = [] → exec (.collTimeout u n) s = .next s) ∧
        (∀ j t rest, r.unacked = (j, t) :: rest →
          (3 ≤ t → exec (.collTimeout u n) s = .next { s with pk := k.collFail u n 0x0A0E 2 }) ∧
          (t < 3 → does (.collTimeout u n) s (fun z => z.collRun u n = some { r with unacked := (j, t + 1) :: rest } ∧
            z.cl.st = k.cl.st ∧ z.hbm = k.hbm)))))

/-- Time over the fabric (R309–R313). The three time frames are checked as every frame is. TIME_SYNC keeps the port's offer and
takes the best master and its parent port; the parent's tick count is adopted where the device may step, and where not the
difference is recorded once. TIME_REQ is answered with its arrival time. The timer sends TIME_REQ to the parent with the station
time t3. TIME_RSP of the parent gives the offset, which is shown and corrected by a step, after which the tick and the cycle
are those of the corrected time, or by a bounded slew, which changes neither; sixteen near offsets in a row lock the device, and
a far one ends the lock. A master not heard for sixteen ticks is dropped and the next best taken. Where it says more than these
rules it says the model's choices of log entries 163, 164, 165 and 166. -/
def Obligations.TimeFollowsTheBestMaster : Prop :=
  ∀ (s : State) (p : Port) (t : TimeFrame),
    let k := s.pk
    let c := k.cl.core
    let parent := c.fld pageTime 0x58 0 5
    let sent (z : Pkg) (q : Nat) (P : Frame → Prop) : Prop :=
      ∃ f, P f ∧ (f ∈ kget z.fab.wait [] q ∨ ∃ n, (n, f) ∈ kget z.fab.retry [] q)
    takesFrame (.timeSync p t) s p { t.frame with ftype := 0x20 } (fun x z => ∃ y : Pkg,
      y = { x with fab := { x.fab with offers := y.fab.offers } } ∧
      ksets none x.fab.offers y.fab.offers p (some { master := t.master.toNat, hops := t.hops.toNat, tick := c.tick.toNat, d21 := t.arrived - t.sent, t3 := (kget k.fab.offers none p).bind (fun o => o.t3) }) ∧
      (y.chooseMaster.cl.core.fld pageTime 0x58 0 5 ≠ p.val → z = y.chooseMaster) ∧
      (y.chooseMaster.cl.core.fld pageTime 0x58 0 5 = p.val →
        z.cl.core.tick = (if k.maySt then t.count else c.tick) ∧
        (k.maySt = false → t.count ≠ c.tick → z.fab.countRec = true ∧ (k.fab.countRec = false →
          ∃ e, e ∈ z.cl.core.records ∧ e.code = 0x0A17)))) ∧
    takesFrame (.timeReq p t) s p { t.frame with ftype := 0x21 } (fun x z => z.cl.st = k.cl.st ∧ z.fab.offers = x.fab.offers ∧
      sent z p (fun f => f.ftype = 0x22 ∧ f.f5 = BitVec.ofInt 64 t.arrived)) ∧
    (let z := k.chooseMaster
     (∀ m q h, k.bestMaster = some (m, q, h) → z.cl.core.fld pageTime 0x4C 0 16 = m % 65536 ∧
       z.cl.core.fld pageTime 0x4C 24 4 = h % 16 ∧ z.cl.core.fld pageTime 0x58 0 5 = q % 32 ∧ z.cl.core.tick = c.tick) ∧
     (k.bestMaster = none → z.cl.core.timeState ≠ c.timeState → (c.timeState = 2 → z.cl.core.timeState = 3) ∧
       (c.timeState ≠ 2 → z.cl.core.timeState = 0) ∧ z.cl.core.fld pageTime 0x58 0 5 = 31)) ∧
    takesFrame (.timeRsp p t) s p { t.frame with ftype := 0x22 } (fun x z =>
      (parent ≠ p.val ∨ (kget k.fab.offers none p).bind (·.t3) = none → z = x) ∧
      (∀ o t3, parent = p.val → kget k.fab.offers none p = some o → o.t3 = some t3 →
        let off : Int := (o.d21 - (t.sent - t3)) / 2 - (c.rd (pageFb p) 0x58).toInt
        let near : Prop := -320 ≤ off ∧ off ≤ 320
        let most := c.slewMax
        let at_ := (c.stationTime - off).toNat
        z = { x with cl := { x.cl with core := z.cl.core }, fab := { x.fab with offers := z.fab.offers, lockCnt := z.fab.lockCnt, slew := z.fab.slew } } ∧
        ksets none x.fab.offers z.fab.offers p (some { o with t3 := none }) ∧
        z.cl.core.rd pageTime 0x50 = BitVec.ofInt 32 off ∧
        (near → z.fab.lockCnt = min 16 (k.fab.lockCnt + 1)) ∧ (¬ near → z.fab.lockCnt = 0) ∧
        z.fab.slew = k.fab.slew - (if k.maySt then off else max (-most) (min most off)) ∧
        (k.maySt = true → z.cl.core.tick = BitVec.ofNat 64 (at_ / 160000) ∧
          z.cl.core.cycle = at_ % 160000 * c.cpt / 160000) ∧
        (k.maySt = false → z.cl.core.clock = c.clock) ∧ z.cl.core.cpt = c.cpt ∧
        (near → c.timeState = 2 → z.cl.core.timeState = 2) ∧ (¬ near → c.timeState = 2 → z.cl.core.timeState = 3) ∧
        (near → 15 ≤ k.fab.lockCnt → z.cl.core.timeState = 2) ∧
        (c.timeState ≠ 2 → ¬ near ∨ k.fab.lockCnt < 15 → z.cl.core.timeState = c.timeState))) ∧
    (18 ≤ parent ∨ kget k.fab.offers none parent = none → exec .timeReqTimer s = .next s) ∧
    (∀ o, parent < 18 → kget k.fab.offers none parent = some o → does .timeReqTimer s (fun z =>
      ksets none k.fab.offers z.fab.offers parent (some { o with t3 := some c.stationTime }) ∧ z.cl.st = k.cl.st ∧
      sent z parent (fun f => f.ftype = 0x21 ∧ f.f5 = BitVec.ofInt 64 c.stationTime))) ∧
    does .timeMasterTimeout s (fun z => ∃ y : Pkg, y = { k with fab := { k.fab with offers := y.fab.offers } } ∧
      y.fab.offers = k.fab.offers.filter (fun e => match e.2 with
        | some o => decide (c.tick.toNat ≤ o.tick + 16)
        | none => false) ∧ z = y.chooseMaster)

/-! ## HBM -/

/-- HBM stacks (R263–R269, R372). A block read is corrected and counted, or becomes poison where it cannot be; no byte changes.
Corrections on more than 64 pages within 65,536 ticks are a fault of the pseudo-channel. The enabled patrol scrub touches the
next block of its pseudo-channel. HB_REHOME_GO takes a spare page and marks the page MIGRATING, or finds none left; the spare
pool is not re-homed, and while one runs it is dropped. REHOME_SWAP copies the page's bytes and the page lives at the
spare. A pseudo-channel fault sets its fallback bit, and where that fails too its pages are lost. A margin below the least
starts a retrain, and after one is a fault. REFRESH changes nothing a program can see; the oldest copy-on-write granule drains
into checkpoint staging. Where it says more than these rules it says the model's choices of log entries 126, 127, 128, 129,
130, 133 and 320. -/
def Obligations.HbmScrubsRehomesAndMeasures : Prop :=
  ∀ (s : State) (h : Stack) (p : Fin 32),
    let k := s.pk
    let c := k.cl.core
    let pg := pageHb h
    let key := pcKey h p
    let recorded (z : Pkg) (code : BitVec 16) : Prop := ∃ e, e ∈ z.cl.core.records ∧ e.code = code
    let starts (z : Pkg) (w : Bool) (q page part sp : Nat) : Prop :=
      kget z.hbm.rehome none h = some ⟨q, page, w, part, sp⟩ ∧ kget z.hbm.spare false (2048 * part + sp) = true ∧
      z.remap h q page = k.remap h q page % 2 ^ 14 + k.remap h q page / 2 ^ 15 * 2 ^ 15 + 2 ^ 14 ∧ z.hbm.mem = k.hbm.mem
    (∀ off,
      let z := k.hbTouch h p off
      let blk := k.physAddr h p off / 64
      let e := kget k.hbm.errs 0 blk
      z.hbm.mem = k.hbm.mem ∧ z.cl.st = k.cl.st ∧ kget z.hbm.errs 0 blk = 0 ∧
      (e = 0 → z = k) ∧
      (e = 1 ∨ e = 3 → z.hbm.poison = k.hbm.poison ∧ z.cl.core.rd pg (0x80 + 4 * p) = satInc32 (c.rd pg (0x80 + 4 * p)) 1 ∧
        (64 < (k.wornPages h p (off / 2 ^ 21)).length → bitAt (z.cl.core.rd pg 0x40) p = true)) ∧
      (e = 2 ∨ 4 ≤ e → z.hbm.blockPoison blk = true ∧ recorded z 0x0902 ∧
        (pcSpare h p = false → (p.val, off / 2 ^ 21) ∈ kget z.hbm.todo [] h) ∧
        z.cl.core.rd pg (0x100 + 4 * p) = satInc32 (c.rd pg (0x100 + 4 * p)) 1)) ∧
    (let b := kget k.hbm.patrol 0 key
     (bitAt (c.rd pg 0x4C) 31 = false → exec (.patrolScrub h p) s = .next s) ∧
     (bitAt (c.rd pg 0x4C) 31 = true → does (.patrolScrub h p) s (fun z => ∃ y : Pkg,
       y = { k.hbTouch h p (64 * b) with hbm := { (k.hbTouch h p (64 * b)).hbm with patrol := y.hbm.patrol } } ∧
       ksets 0 k.hbm.patrol y.hbm.patrol key ((b + 1) % 2 ^ 26) ∧ z = y.rehomeNext h))) ∧
    (∀ v : W32,
      let busy := bitAt (c.rd pg 0x5C) 31
      let q := bitsAt v 25 5
      let page : Option Nat := if bitAt v 30 then k.nextPage h q 0 else some (bitsAt v 0 11)
      (busy = true → bitAt v 31 = true → doesCore (.hbRehomeGo h v) s (fun y => c.setsFld y pg 0x18 0 1 1)) ∧
      (bitAt v 31 = false → doesCore (.hbRehomeGo h v) s (fun y =>
        c.sets y pg 0x5C ((v &&& 0xFE0007FF) ||| (if busy then 0x80000000 else 0)))) ∧
      (busy = false → bitAt v 31 = true →
        (page = none → does (.hbRehomeGo h v) s (fun z => z.hbm = k.hbm ∧ bitAt (z.cl.core.rd pg 0x5C) 31 = false)) ∧
        (page ≠ none → pcSpare h q = true → does (.hbRehomeGo h v) s (fun z => z.hbm = k.hbm ∧
          bitAt (z.cl.core.rd pg 0x5C) 31 = false)) ∧
        (∀ g, page = some g → pcSpare h q = false →
          (∀ part sp, k.findSpare (h / 6) = some (part, sp) → does (.hbRehomeGo h v) s (fun z =>
            starts z (bitAt v 30) q g part sp ∧ z.cl.core.rd pg 0x5C = v &&& 0xFE0007FF)) ∧
          (k.findSpare (h / 6) = none → does (.hbRehomeGo h v) s (fun z => z.hbm.mem = k.hbm.mem ∧ z.hbm.spareOut = true ∧
            bitAt (z.cl.core.rd pg 0x5C) 31 = false ∧ (k.hbm.spareOut = false → recorded z 0x0909)))))) ∧
    (kget k.hbm.rehome none h = none → exec (.rehomeSwap h) s = .next s) ∧
    (∀ r, kget k.hbm.rehome none h = some r → Memory.wf s = true → r.part < 8 → r.spage < 2048 →
      let dst := 2048 * pcKey (spareStack r.part) 31 + r.spage
      let src := k.physPage h r.pc r.page
      does (.rehomeSwap h) s (fun z => recorded z 0x0904 ∧ z.physPage h r.pc r.page = dst ∧ z.cl.st = k.cl.st ∧
        (∀ i, i < 2 ^ 21 → kget z.hbm.mem 0 (dst * 2 ^ 21 + i) = kget k.hbm.mem 0 (src * 2 ^ 21 + i)) ∧
        (∀ a, a / 2 ^ 21 ≠ dst → kget z.hbm.mem 0 a = kget k.hbm.mem 0 a) ∧
        (r.whole = true → k.nextPage h r.pc (r.page + 1) = none → bitAt (z.cl.core.rd pg 0x44) r.pc = decide (r.pc < 32) ∧
          recorded z 0x0906))) ∧
    (∀ fails : Bool, does (.pcFault h p fails) s (fun z => z.hbm.mem = k.hbm.mem ∧ z.cl.st = k.cl.st ∧
      bitAt (z.cl.core.rd pg 0x40) p = true ∧ recorded z 0x0905 ∧
      (fails = true → recorded z 0x0907 ∧ ∀ g, g < 2048 → k.physPage h p g / 2048 = key →
        kget z.hbm.lost false (k.physPage h p g) = true) ∧
      (fails = false → z.hbm.lost = k.hbm.lost ∧ z.hbm.poison = k.hbm.poison))) ∧
    (∀ rd wr : Byte,
      let cmd : Instr := .marginMeasure h p rd wr
      let low := min rd.toNat wr.toNat < c.fld pg 0x54 0 8
      let n := kget k.hbm.retrain 0 key
      let shown (y : Core) : Prop := c.sets y pg (0x180 + 4 * p) (BitVec.ofNat 32 (wr.toNat * 256 + rd.toNat))
      (n ≠ 1 → ¬(low ∧ n = 0) → doesCore cmd s shown) ∧
      (low → n = 0 → does cmd s (fun z => recorded z 0x090A ∧ z = { k with cl := { k.cl with core := z.cl.core }, hbm := { k.hbm with retrain := z.hbm.retrain } } ∧
        ksets 0 k.hbm.retrain z.hbm.retrain key 257 ∧
        z.cl.core.rd pg (0x180 + 4 * p) = BitVec.ofNat 32 (wr.toNat * 256 + rd.toNat))) ∧
      (n = 1 → does cmd s (fun z => ∃ y : Pkg, y = { k with cl := { k.cl with core := y.cl.core }, hbm := { k.hbm with retrain := y.hbm.retrain }, bu := { k.bu with own := { k.bu.own with pcs := y.bu.own.pcs } } } ∧
        shown y.cl.core ∧ ksets 0 k.hbm.retrain y.hbm.retrain key 0 ∧
        (∃ l, l.length ≤ 48 ∧ ksets none k.bu.own.pcs y.bu.own.pcs key (some ⟨l, rd.toNat, wr.toNat, if low then 1 else 0⟩)) ∧
        (low → z = y.pcFault h p false) ∧ (¬ low → z = y)))) ∧
    exec (.refresh h) s = .next s ∧
    (kget k.hbm.cow [] key = [] → exec (.cowBufferDrain h p) s = .next s) ∧
    (∀ e r, kget k.hbm.cow [] key = e :: r → does (.cowBufferDrain h p) s (fun z =>
      z = { k with hbm := { k.hbm with staged := k.hbm.staged ++ [e], cow := z.hbm.cow } } ∧
      ksets [] k.hbm.cow z.hbm.cow key r))

/-! ## Rings, jobs and device commands -/

/-- Rings, doorbells, the write log and completion records (R325–R336). A write to an emulated page is logged and counted, or with
the log full gets TBUSY. A doorbell sets its ring's tail, or is bad for a ring that is off or a tail beyond it. A record goes
to its ring at once where that has room and nothing waits, and waits otherwise; a host completion that finds 512 waiting is
lost and faults its job. Firmware fetches the next command of an enabled ring whose earlier command has ended, moves the head
on, and begins it or ends it INVALID. A rejected command changes no store, memory or job and answers with its status; it waits
while no Signal Box serves. Where it says more than these rules it says the model's choices of log entries 175, 176, 178, 179,
196, 199 and 288. -/
def Obligations.RingsDoorbellsAndCompletionRecords : Prop :=
  ∀ (s : State),
    let k := s.pk
    let c := k.cl.core
    (∀ (page : Fin 4096) (off : BitVec 12) (size : Fin 65) (data : W64),
      let cmd : Instr := .emulatedWrite page off size data
      let force := bitAt (c.rd pageAt 0x28) 1
      (emulated page = false ∨ cwAligned off.toNat size = false → exec cmd s = .next s) ∧
      (emulated page = true → cwAligned off.toNat size = true →
        (force = false → k.att.log.length < 4096 → does cmd s (fun z =>
          z = { k with att := { k.att with log := k.att.log ++ [⟨page, off.toNat, size, data⟩], cw := z.att.cw } } ∧
          z.cwRd 3 0x48 = k.cwRd 3 0x48 + 1 ∧ ∀ j, j ≠ 3 * 1024 + 0x48 / 4 → kget z.att.cw (cwReset j) j = kget k.att.cw (cwReset j) j)) ∧
        (force = true ∨ 4096 ≤ k.att.log.length → does cmd s (fun z =>
          z = { k with cl := { k.cl with core := z.cl.core }, att := { k.att with cw := z.att.cw, tbusyRec := true } } ∧
          z.cwRd 3 0x54 = satInc32 (k.cwRd 3 0x54) 1 ∧ bitAt (z.cl.core.rd pageAt 0x28) 1 = false ∧
          (k.att.tbusyRec = false → z.recorded 0x0B07) ∧ (k.att.tbusyRec = true → z.cl.core.records = c.records))))) ∧
    (∀ (j : Fin 16) (tail : BitVec 16),
      let bad := k.ringOn j = false ∨ k.sqSize j ≤ tail.toNat
      (bad → does (.doorbell j tail) s (fun z => z = { k with cl := { k.cl with core := z.cl.core } } ∧ z.recorded 0x0B09)) ∧
      (¬ bad → does (.doorbell j tail) s (fun z => z = { k with att := { k.att with ring := z.att.ring } } ∧
        ksets ⟨0, 0, true⟩ k.att.ring z.att.ring j { k.ringS j with tail := tail.toNat }))) ∧
    (∀ (j : Nat) (r : CplRec),
      let z := k.complete j r
      (k.cqRoom j = false → z = { k with att := { k.att with staged := z.att.staged } } ∧
        ksets [] k.att.staged z.att.staged j (k.stagedOf j ++ [r])) ∧
      (k.cqRoom j = true → k.stagedOf j = [] → z.stagedOf j = [] ∧
        z.att.hostWr = k.att.hostWr ++ [(k.cwRd8 (ringPage j) 0x50 + 32 * (k.ringS j).cqw, r.bytes (k.ringS j).phase)] ∧
        (z.ringS j).cqw = ((k.ringS j).cqw + 1) % k.cqSize j)) ∧
    (∀ h : HostCompl,
      let j := h.job.val
      let y : Pkg := { k with att := { k.att with cplFly := dropFirst (· == h) k.att.cplFly } }
      let full := k.cqRoom j = false ∧ 512 ≤ ((k.stagedOf j).filter (fun r => decide (r.kind = 2))).length
      (h ∉ k.att.cplFly → exec (.hostCompletionRecord h) s = .next s) ∧
      (h ∈ k.att.cplFly →
        (j = 15 → exec (.hostCompletionRecord h) s = .next { s with pk := y }) ∧
        (j ≠ 15 → ¬ full → exec (.hostCompletionRecord h) s = .next { s with pk := y.complete j (ofHostCompl h) }) ∧
        (j ≠ 15 → full → does (.hostCompletionRecord h) s (fun z => z.recorded 0x0B0B ∧ z.cl.st = k.cl.st ∧
          z.jobState j = (if 3 ≤ k.jobState j ∧ k.jobState j ≤ 5 then 6 else k.jobState j))))) ∧
    (∀ (ring opc job status res st : Nat) (tag : W32),
      let z := k.cmdEnd ring opc job tag status res
      let r := k.cmdReject ring opc job tag status st
      z.answers ring job status tag res ∧ z = { k with att := z.att } ∧ z.att.cw = k.att.cw ∧
      z.att.cmds = k.att.cmds.filter (fun x => decide (x.ring ≠ ring ∨ x.opc ≠ opc ∨ x.tag ≠ tag)) ∧
      (k.sbUp = true → r.answers ring job status tag 0 ∧ r.recorded 0x0B0A ∧ r.att.cmds = z.att.cmds ∧
        r = { k with cl := { k.cl with core := r.cl.core }, att := r.att } ∧ r.att.cw = k.att.cw) ∧
      (k.sbUp = false → r = k)) ∧
    (∀ (j : Fin 16) (ws : List W64),
      let head := bitsAt (k.cwRd 3 (0x80 + 4 * j)) 0 16
      let w0 := ws.getD 0 0
      let opc := bitsAt w0 56 8
      let tag : W32 := BitVec.ofNat 32 (bitsAt w0 0 32)
      let params := if j.val = 15 then devParams opc else jobParams opc
      let may := k.upC k.sb = true ∧ k.ringOn j = true ∧ head ≠ (k.ringS j).tail ∧ (∀ x, x ∈ k.att.cmds → x.ring ≠ j.val) ∧
        (k.link salLink).step = .up
      let ok := bitsAt w0 52 4 = j.val ∧ bitsAt w0 32 20 = 0 ∧ ∃ l, params = some l ∧ paramsOk ws l = true
      (¬ may → exec (.commandFetch j ws) s = .next s) ∧
      (may → does (.commandFetch j ws) s (fun z => ∃ y : Pkg, y = { k with att := { k.att with cw := y.att.cw } } ∧
        y.cwRd 3 (0x80 + 4 * j) = BitVec.ofNat 32 ((head + 1) % k.sqSize j) ∧
        (¬ ok → z = y.cmdReject j opc j tag stInvalid (if j.val = 15 then k.devState else k.jobState j)) ∧
        (ok → z = if j.val = 15 then y.devBegin opc tag ws else y.jobBegin j opc tag ws))))

/-- The job commands (R338–R340). A command for job 15 is INVALID, and one that the device or job state does not allow is
STATE_CONFLICT: it changes nothing but its answer. JOB_CREATE makes the job with its seed in every M-core; JOB_LOAD checks
every section and makes the image resident, or fails with the offset of the first bad one, and logs a place code that names no
location; JOB_START admits and places the job, answers NO_RESOURCE, or takes turns with the jobs that share what it lacks;
JOB_SUSPEND, JOB_STOP and JOB_ABORT run until the job's circuits are out of the way;
JOB_RESUME lets suspended circuits go on; JOB_DESTROY frees the job. None has an effect while no Signal Box serves. Where it
says more than these rules it says the model's choices of log entries 26, 178, 180, 182, 183, 184, 195, 198 and 288. -/
def Obligations.JobCommandsAreCheckedAndMoveTheJob : Prop :=
  ∀ (s : State) (j : Job) (tag : W32) (seed a n : W64) (b : Bool) (image : List Byte),
    let k := s.pk
    let c := k.cl.core
    let st := k.jobState j
    let own := k.job j
    (∀ e ∈ [(Instr.jobCreate j tag seed b, 1, [2, 3, 4], [0]), (.jobLoad j tag a n image, 2, [2, 3, 4], [1, 2]),
        (.jobStart j tag, 3, [2, 3], [2]), (.jobSuspend j tag, 4, [2, 3], [3]), (.jobResume j tag, 5, [2, 3], [4]),
        (.jobStop j tag, 6, [2, 3], [3, 4]), (.jobAbort j tag, 7, [2, 3], [3, 4, 5]), (.jobCheckpoint j tag a b, 8, [2, 3], [2, 3, 4]),
        (.jobRestore j tag a, 9, [2, 3], [2, 6]), (.jobDestroy j tag, 10, [2, 3, 4], [1, 2, 6]), (.free j tag a, 12, [2, 3, 4], [1, 2, 6])],
      (k.sbUp = false → exec e.1 s = .next s) ∧
      (j.val = 15 → exec e.1 s = .next { s with pk := k.cmdReject 15 e.2.1 15 tag stInvalid k.devState }) ∧
      (j.val ≠ 15 → k.devState ∉ e.2.2.1 ∨ st ∉ e.2.2.2 →
        exec e.1 s = .next { s with pk := k.cmdReject j e.2.1 j tag stConflict st })) ∧
    (k.sbUp = true → j.val ≠ 15 → k.devState ∈ [2, 3, 4] →
      (st = 0 → does (.jobCreate j tag seed b) s (fun z => z.jobState j = 1 ∧ z.job j = some (newJob seed b) ∧
        z.answers j j stOk tag 0 ∧ (∀ i, i < 1920 → z.cl.core.rd8 (pageMc (i / 2) (i % 2)) (0x700 + 8 * j) = seed.toNat) ∧
        z.cl.st = k.cl.st ∧ z.hbm = k.hbm)) ∧
      (st ∈ [1, 2] → ∀ x, own = some x →
        let rd := k.dpaRead a.toNat n.toNat
        let bytes : List PB := if a.toNat < dpaHost then rd.1 else image.map (fun i => (i, false))
        let y := if a.toNat < dpaHost then rd.2 else k
        let img := parseImage (n.toNat / 16 + 1) 0 (bytes.map (·.1))
        let secs := img.1.map (·.2)
        let readable := (∀ i, i ∈ bytes → i.2 = false) ∧ bytes.length = n.toNat
        let bad := img.1.find? (fun e => y.sectionBad j x.allocs secs e.2)
        let fails (off : Nat) : Prop := exec (.jobLoad j tag a n image) s = .next { s with pk := y.cmdEnd j 2 j tag stFailed off }
        (¬ readable → fails 0) ∧ (∀ e, readable → bad = some e → placeOk e.2.place = true → fails e.1) ∧
        (∀ e, readable → bad = some e → placeOk e.2.place = false → does (.jobLoad j tag a n image) s (fun z =>
          ∃ w : Pkg, w = { y with cl := { y.cl with core := w.cl.core } } ∧ w.recorded 0x0B0A ∧ z = w.cmdEnd j 2 j tag stFailed e.1)) ∧
        (∀ off, readable → bad = none → img.2 = some off → fails off) ∧
        (readable → bad = none → img.2 = none → does (.jobLoad j tag a n image) s (fun z => z.jobState j = 2 ∧
          z.job j = some { x with image := secs, restored := none } ∧ z.answers j j stOk tag 0 ∧ z.cl.st = k.cl.st))) ∧
      (st ∈ [1, 2, 6] → does (.jobDestroy j tag) s (fun z => z.jobState j = 0 ∧ z.job j = none ∧ z.answers j j stOk tag 0 ∧
        z.hbm = k.hbm))) ∧
    (k.sbUp = true → j.val ≠ 15 → k.devState ∈ [2, 3] →
      (∀ x, st = 2 → own = some x →
        let why := k.admission j x
        let latest (n : Nat) : Prop := ∀ i y, i ≠ j.val → i ∈ k.admitted → k.job i = some y → y.seq < n
        (why ≠ 0 → x.allowTurns = false → exec (.jobStart j tag) s = .next { s with pk := k.cmdEnd j 3 j tag stNoRes why }) ∧
        (why ≠ 0 → x.allowTurns = true → does (.jobStart j tag) s (fun z => ∃ y : Pkg, z = y.poll ∧ y.jobState j = 3 ∧
          (∃ n, latest n ∧ y.job j = some { x with turns := true, seq := n }) ∧
          (∀ i, i ∈ k.sharers j x why → ∃ u, y.job i = some u ∧ u.turns = true) ∧ (∃ r, r ∈ y.att.cmds ∧ r.ring = j.val ∧ r.opc = 3 ∧ r.tag = tag) ∧ y.cl = k.cl ∧ y.hbm = k.hbm)) ∧
        (why = 0 → does (.jobStart j tag) s (fun z => ∃ y : Pkg, z = y.poll ∧ y.jobState j = 3 ∧
          (∃ r, r ∈ y.att.cmds ∧ r.ring = j.val ∧ r.opc = 3 ∧ r.tag = tag) ∧ ∃ w, y.job j = some w ∧ latest w.seq ∧ w = { x with grps := w.grps, placed := true, seq := w.seq }))) ∧
      (st = 3 → does (.jobSuspend j tag) s (fun z => ∃ y : Pkg, z = y.poll ∧ y.jobState j = 3 ∧ y.hbm = k.hbm ∧ y.cl.st = k.cl.st ∧
        (∃ r, r ∈ y.att.cmds ∧ r.ring = j.val ∧ r.opc = 4 ∧ r.tag = tag) ∧ y.job j = own.map (fun x => { x with susp := true }))) ∧
      (st = 4 → does (.jobResume j tag) s (fun z => z.jobState j = 3 ∧ z.answers j j stOk tag 0 ∧ z.hbm = k.hbm ∧ z.cl.st = k.cl.st ∧
        z.job j = own.map (fun x => { x with susp := false }))) ∧
      (st ∈ [3, 4] → does (.jobStop j tag) s (fun z => ∃ y : Pkg, z = y.poll ∧ y.jobState j = (if st = 3 then 5 else 4) ∧
        (∃ r, r ∈ y.att.cmds ∧ r.ring = j.val ∧ r.opc = 6 ∧ r.tag = tag) ∧ y.hbm = k.hbm ∧ y.cl.st = k.cl.st ∧ y.jobs = k.jobs)) ∧
      (st ∈ [3, 4, 5] → does (.jobAbort j tag) s (fun z => ∃ y : Pkg, z = y.poll ∧ y.jobState j = st ∧
        (∃ r, r ∈ y.att.cmds ∧ r.ring = j.val ∧ r.opc = 7 ∧ r.tag = tag) ∧ y.hbm = k.hbm ∧ y.jobs = k.jobs ∧
        ∀ rg i, rg < 192 → i < 64 → c.circJob rg i = j.val →
          (c.circState rg i = 1 ∨ c.circState rg i = 3 → kget y.cl.tt.abortPend false (circKey rg i) = true) ∧
          (c.circState rg i ≠ 1 → c.circState rg i ≠ 3 → y.cl.core.circState rg i = 0))))

/-- Memory, turns and checkpoints (R39, R257, R339, R371–R374, R402). ALLOC of a mode and set that do not exist, or of no bytes,
is INVALID; one without place or with its quadrants out of service is NO_RESOURCE; else the job owns the range it answers.
FREE gives back an own allocation. JOB_CHECKPOINT chooses its cut tick, or fails with a region that has no home copy;
CUT_COMPLETE, once the cut is taken, latched and reached, writes the checkpoint and answers the tick. JOB_RESTORE needs a
checkpoint with the same allocations. A turn changes after TURN_MIN ticks between two jobs that have turns, where the bookings
and the groups of the beginning job fit, once no circuit of the ending job runs and no line clear holds VC2. Where it says more
than these rules it says the model's choices of log entries 25, 26, 185, 186, 187, 188, 189, 191, 192, 193, 194, 198 and 288. -/
def Obligations.MemoryTurnsAndCheckpoints : Prop :=
  ∀ (s : State) (j : Job) (tag : W32) (w : W64),
    let k := s.pk
    let c := k.cl.core
    let st := k.jobState j
    (∀ (mode : BitVec 2) (set : BitVec 5),
      let cmd : Instr := .alloc j tag w mode set
      let invalid := setOk mode.toNat set.toNat = false ∨ w.toNat = 0
      let allowed := k.devState ∈ [2, 3, 4] ∧ st ∈ [1, 2, 3, 4]
      let place := k.allocate j w.toNat mode.toNat set.toNat
      let serves := k.setIn mode.toNat set.toNat = true
      (k.sbUp = false → exec cmd s = .next s) ∧
      (j.val = 15 → exec cmd s = .next { s with pk := k.cmdReject 15 11 15 tag stInvalid k.devState }) ∧
      (j.val ≠ 15 → invalid → exec cmd s = .next { s with pk := k.cmdReject j 11 j tag stInvalid st }) ∧
      (j.val ≠ 15 → ¬ invalid → ¬ allowed → exec cmd s = .next { s with pk := k.cmdReject j 11 j tag stConflict st }) ∧
      (k.sbUp = true → j.val ≠ 15 → ¬ invalid → allowed → ¬ serves ∨ place = none → exec cmd s = .next { s with pk := k.cmdEnd j 11 j tag stNoRes 0 }) ∧
      (∀ dpa y, k.sbUp = true → j.val ≠ 15 → ¬ invalid → allowed → serves → place = some (dpa, y) → does cmd s (fun z => z.answers j j stOk tag dpa ∧
        z.job j = (k.job j).map (fun x => { x with allocs := x.allocs ++ [⟨dpa, w.toNat, mode.toNat, set.toNat⟩] }) ∧
        z.hbm = k.hbm ∧ z.cl = y.cl))) ∧
    (k.sbUp = true → j.val ≠ 15 → k.devState ∈ [2, 3, 4] → st ∈ [1, 2, 6] →
      ((∀ x, k.job j = some x → ∀ e, e ∈ x.allocs → e.dpa ≠ w.toNat) →
        exec (.free j tag w) s = .next { s with pk := k.cmdReject j 12 j tag stInvalid st }) ∧
      (∀ x, k.job j = some x → (∃ e, e ∈ x.allocs ∧ e.dpa = w.toNat) → does (.free j tag w) s (fun z => z.answers j j stOk tag 0 ∧
        z.job j = some { x with allocs := x.allocs.filter (fun e => decide (e.dpa ≠ w.toNat)) } ∧ z.hbm = k.hbm ∧ z.cl.st = k.cl.st))) ∧
    (∀ g : Bool, k.sbUp = true → j.val ≠ 15 → k.devState ∈ [2, 3] → st ∈ [2, 3, 4] →
      let bare := (c.regionsOf j).find? (fun e => decide ((c.region e.1 e.2.1 e.2.2).mode ≠ 0) && !(c.region e.1 e.2.1 e.2.2).homeEn)
      let t := c.tick.toNat
      let at_ := if g then (t + 16 + 255) / 256 * 256 else if c.inGuard then t + 1 else t
      (∀ e, bare = some e → exec (.jobCheckpoint j tag w g) s = .next { s with pk := k.cmdEnd j 8 j tag stFailed (e.2.1 * 16 + e.2.2) }) ∧
      (bare = none → g = true → k.grpOfJob j = none →
        exec (.jobCheckpoint j tag w g) s = .next { s with pk := k.cmdReject j 8 j tag stInvalid st }) ∧
      (bare = none → ¬(g = true ∧ k.grpOfJob j = none) → does (.jobCheckpoint j tag w g) s (fun z =>
        z = { k with hbm := { k.hbm with cuts := z.hbm.cuts }, att := { k.att with cmds := z.att.cmds } } ∧
        ksets none k.hbm.cuts z.hbm.cuts j (some ⟨at_, w.toNat, tag, g, false, emptySnap at_⟩) ∧
        ∃ r, r ∈ z.att.cmds ∧ r.ring = j.val ∧ r.opc = 8 ∧ r.tag = tag))) ∧
    (k.sbUp = true → j.val ≠ 15 → k.devState ∈ [2, 3] → st ∈ [2, 6] →
      let sizes (l : List Alloc) := l.map (fun a => (a.bytes, a.mode, a.set))
      let fails : Prop := exec (.jobRestore j tag w) s = .next { s with pk := k.cmdEnd j 9 j tag stFailed 0 }
      (k.job j = none ∨ kget k.ckpts none w.toNat = none → fails) ∧
      (∀ x sn, k.job j = some x → kget k.ckpts none w.toNat = some sn → sizes x.allocs ≠ sizes sn.allocs → fails) ∧
      (∀ x sn, k.job j = some x → kget k.ckpts none w.toNat = some sn → sizes x.allocs = sizes sn.allocs →
        does (.jobRestore j tag w) s (fun z => z.jobState j = 2 ∧ z.answers j j stOk tag 0 ∧ z.ckpts = k.ckpts ∧
          ∃ y, z.job j = some y ∧ y.restored = some sn ∧ y.allocs = x.allocs ∧ y.image = x.image))) ∧
    (let latched (cut : Cut) := cut.tick + 1 < c.tick.toNat ∨ (cut.tick + 1 = c.tick.toNat ∧ c.guard0 + 32 ≤ c.cycle)
     (kget k.hbm.cuts none j = none → exec (.cutComplete j) s = .next s) ∧
     (∀ cut, kget k.hbm.cuts none j = some cut →
       (cut.taken = false ∨ ¬ latched cut ∨ k.homesReach j cut.tick = false → exec (.cutComplete j) s = .next s) ∧
       (cut.taken = true → latched cut → k.homesReach j cut.tick = true → does (.cutComplete j) s (fun z =>
         kget z.hbm.cuts none j = none ∧ z.recorded 0x0E48 ∧ z.hbm.mem = k.hbm.mem ∧ z.cl.st = k.cl.st ∧
         (∀ e m, e ∈ z.hbm.marks → e.2 = some m → m.job ≠ j.val) ∧
         ∃ sn, ksets none k.ckpts z.ckpts cut.target (some sn) ∧ sn = { cut.snap with mem := sn.mem } ∧
           z.answers j j stOk cut.tag (cut.tick % 2 ^ 63 + (if sn.mem.any (fun e => e.2.any (·.2)) then 2 ^ 63 else 0)))))) ∧
    (∀ e : Job,
      let cmd : Instr := .turnChange e j
      let may (x y : JobS) := e ≠ j ∧ 3 ≤ k.jobState e ∧ k.jobState e ≤ 5 ∧ st = 3 ∧ y.susp = false ∧ y.turn = false ∧
        x.since + 1024 ≤ c.tick.toNat ∧ x.turns = true ∧ y.turns = true ∧ k.sbUp = true ∧ k.turnFits e j y = true ∧
        k.groupsFit y = true
      (k.job e = none ∨ k.job j = none → exec cmd s = .next s) ∧
      (∀ x y, k.job e = some x → k.job j = some y →
        (¬ may x y → exec cmd s = .next s) ∧
        (may x y → does cmd s (fun z => ∃ u : Pkg,
          (u.job e = some { x with turn := false } ∧ u.job j = some { y with due := some e.val }) ∧
          u.cl.st = k.cl.st ∧ u.hbm = k.hbm ∧ u.att = k.att ∧
          z = if u.anyCirc e [1, 3] ∨ k.net.hold = true then u else u.turnBegin e j))))

/-- Device commands of identity, groups, routes, windows and limits (R270, R290, R296, R302, R307, R308, R322, R334, R341, R375,
R376, R394, R450). Operands out of range are INVALID and a device state, port, job or drain that does not allow the command is
STATE_CONFLICT, with nothing else done, and none has an effect while no Signal Box serves; else SET_NODE and TAKEOVER write FB_NODE, GROUP_SET writes its table entry and
members, ROUTE_SET writes the inactive bank and arms the swap, WINDOW_SET and ATTACH_SET write their window, and a range that
another window's earlier generation still uses is a conflict, STOP_GROUP sends the stop signal with reason HOST, POWER_CAP sets
the cap, TRAIN_RECORD writes the record to host memory, DIAG_RUN queues its test and DRILL_SET replaces the plan or fails with
the first entry that breaks a rule, and logs a place code that names no location. Where it says more than these rules it says
the model's choices of log entries 36, 178, 200, 201, 202, 203, 204, 205, 221, 222, 223, 244, 288 and 309. -/
def Obligations.DeviceCommandsAreCheckedAndAct : Prop :=
  ∀ (s : State) (tag : W32),
    let k := s.pk
    let c := k.cl.core
    let ds := k.devState
    let invalid (cmd : Instr) (opc : Nat) : Prop := exec cmd s = .next { s with pk := k.cmdReject 15 opc 15 tag stInvalid ds }
    let conflict (cmd : Instr) (opc : Nat) : Prop := exec cmd s = .next { s with pk := k.cmdReject 15 opc 15 tag stConflict ds }
    let ok (z : Pkg) : Prop := z.answers 15 15 stOk tag 0
    let runs (cmd : Instr) (P : Pkg → Prop) : Prop := (k.sbUp = true → does cmd s P) ∧ (k.sbUp = false → exec cmd s = .next s)
    ((ds ∉ [1, 2, 3, 4, 5, 6] → conflict (.nop tag) 0x20) ∧
     (ds ∈ [1, 2, 3, 4, 5, 6] → runs (.nop tag) (fun z => ok z ∧ z = { k with att := z.att } ∧ z.att.cw = k.att.cw))) ∧
    (∀ (node : BitVec 16) (inc : Byte),
      (node = 0xFFFF → invalid (.setNode tag node inc) 0x21 ∧ invalid (.takeover tag node inc) 0x22) ∧
      (node ≠ 0xFFFF → ds ∉ [1, 2, 3, 4] ∨ k.portsIdle = false → conflict (.setNode tag node inc) 0x21) ∧
      (node ≠ 0xFFFF → ds ∈ [1, 2, 3, 4] → k.portsIdle = true → runs (.setNode tag node inc) (fun z => ok z ∧
        z.cl.core.rd pageFbPkg 0x40 = nodeWord node.toNat inc.toNat ∧
        (bitAt (c.rd pageFbPkg 0x40) 0 = true → c.sets z.cl.core pageFbPkg 0x40 (nodeWord node.toNat inc.toNat) ∧ z.fab = k.fab))) ∧
      (node ≠ 0xFFFF → ds ≠ 3 ∨ k.anyAdmitted = true → conflict (.takeover tag node inc) 0x22) ∧
      (node ≠ 0xFFFF → ds = 3 → k.anyAdmitted = false → runs (.takeover tag node inc) (fun z => ok z ∧ z.recorded 0x0A14 ∧
        z.cl.core.rd pageFbPkg 0x40 = nodeWord node.toNat (inc.toNat + 1) ∧ z.fab.annDue = true ∧ z.fab.txSeq = [] ∧
        z.fab.rxSeq = []))) ∧
    (∀ (i : W64) (g : BitVec 16) (j : Job) (rank : Byte) (l : List (BitVec 16 × Byte)),
      let cmd : Instr := .groupSet tag i g j rank l
      let n := i.toNat
      let bad := 16 ≤ n ∨ l.length < 2 ∨ 256 < l.length ∨ l.length ≤ rank.toNat
      let quiet := k.jobQuiet j = true ∧ (k.grpValid n = true → k.jobQuiet (k.grpJob n) = true)
      (bad → invalid cmd 0x23) ∧ (¬ bad → ds ∉ [2, 3, 4] ∨ ¬ quiet → conflict cmd 0x23) ∧
      (¬ bad → ds ∈ [2, 3, 4] → quiet → runs cmd (fun z => ok z ∧ z.jobs = k.jobs ∧
        z.grpValid n = true ∧ z.grpId n = g.toNat ∧ z.grpJob n = j.val ∧ z.grpRank n = rank.toNat ∧ z.grpN n = l.length ∧
        (∀ r m, l[r]? = some m → z.memberNode n r = m.1.toNat ∧ z.memberInc n r = m.2.toNat) ∧
        (∀ q w, q < 16 → w < 8 → q ≠ n → z.grpW q w = k.grpW q w)))) ∧
    (∀ (l : List (BitVec 16 × BitVec 18)),
      let b := 65536 * (1 - k.routeBank)
      (ds ∉ [2, 3] ∨ c.rd8 pageFbPkg 0x50 ≠ 0 → conflict (.routeSet tag l) 0x24) ∧
      (ds ∈ [2, 3] → c.rd8 pageFbPkg 0x50 = 0 → runs (.routeSet tag l) (fun z =>
        z.cl.core.rd8 pageFbPkg 0x50 = (c.tick.toNat + 1) % 2 ^ 64 ∧ z.cl.core.fld pageFbPkg 0x4C 0 8 = 0 ∧ z.fab.drained = [] ∧
        z.routeBank = k.routeBank ∧ (∃ r, r ∈ z.att.cmds ∧ r.ring = 15 ∧ r.opc = 0x24 ∧ r.tag = tag) ∧
        (∀ n, n < 65536 → kget z.fab.route 0 (65536 * k.routeBank + n) = kget k.fab.route 0 (65536 * k.routeBank + n)) ∧
        ∀ a e, l = a ++ [e] → kget z.fab.route 0 (b + e.1.toNat) = if e.2 = 0 then 0 else BitVec.ofNat 32 (2 ^ 31 + e.2.toNat)))) ∧
    (∀ (w w2 w3 w4 : W64),
      let base := bitsAt w4 0 30
      let size := bitsAt w4 32 30
      let pg := pageWin (w.toNat / 64)
      let off := 0x100 + 32 * (w.toNat % 64)
      let bad := 256 ≤ w.toNat ∨ dpaFw < (base + size + 1) * 4096
      let cmd : Instr := .windowSet tag w w2 w3 w4
      let free := k.oldMeets w.toNat (base * 4096) ((size + 1) * 4096) = false
      (bad → invalid cmd 0x25) ∧ (¬ bad → ds ∉ [2, 3, 4] ∨ ¬ free → conflict cmd 0x25) ∧
      (¬ bad → ds ∈ [2, 3, 4] → free → runs cmd (fun z => ok z ∧
        z = { k with cl := { k.cl with core := z.cl.core }, att := z.att } ∧
        c.only z.cl.core [regKey pg off, regKey pg (off + 8), regKey pg (off + 16), regKey pg (off + 20)] ∧
        bitsAt (z.cl.core.rd pg off) 25 7 = bitsAt w2 25 7 ∧ bitAt (z.cl.core.rd pg off) 24 = bitAt (c.rd pg off) 24 ∧
        z.cl.core.rd pg (off + 8) = BitVec.ofNat 32 (bitsAt w3 0 32) ∧ z.cl.core.rd pg (off + 16) = BitVec.ofNat 32 base ∧
        z.cl.core.rd pg (off + 20) = BitVec.ofNat 32 size))) ∧
    (∀ (w dpa n : W64),
      let i := bitsAt w 0 32
      let on := bitAt w 63
      let bad := 16 ≤ i ∨ (on = true ∧ (dpa.toNat % 2 ^ 21 ≠ 0 ∨ n.toNat % 2 ^ 21 ≠ 0 ∨ n.toNat = 0 ∨ dpaFw < dpa.toNat + n.toNat))
      (bad → invalid (.attachSet tag w dpa n) 0x26) ∧ (¬ bad → ds ∉ [2, 3, 4] → conflict (.attachSet tag w dpa n) 0x26) ∧
      (¬ bad → ds ∈ [2, 3, 4] → runs (.attachSet tag w dpa n) (fun z => ok z ∧ z = { k with att := z.att } ∧
        ksets none k.att.wins z.att.wins i (if on then some (dpa.toNat, n.toNat) else none)))) ∧
    (∀ g : BitVec 16,
      (k.grpOf g.toNat = none → invalid (.stopGroup tag g) 0x27) ∧
      (∀ i, k.grpOf g.toNat = some i →
        (ds ∉ [2, 3] → conflict (.stopGroup tag g) 0x27) ∧
        (ds ∈ [2, 3] → runs (.stopGroup tag g) (fun z => ok z ∧ z = (k.stopEmit i 3).cmdEnd 15 0x27 15 tag stOk 0)))) ∧
    (∀ w : W64,
      (w.toNat ≠ 0 ∧ w.toNat < 3000 → invalid (.powerCap tag w) 0x2A) ∧
      (w.toNat = 0 ∨ 3000 ≤ w.toNat → ds ∉ [1, 2, 3, 4, 5] → conflict (.powerCap tag w) 0x2A) ∧
      (w.toNat = 0 ∨ 3000 ≤ w.toNat → ds ∈ [1, 2, 3, 4, 5] → runs (.powerCap tag w) (fun z => ok z ∧
        z = { k with pw := { k.pw with cap := w.toNat }, att := z.att }))) ∧
    (∀ a : W64,
      (ds ∉ [2, 3, 4] → conflict (.trainRecord tag a) 0x2C) ∧
      (ds ∈ [2, 3, 4] → runs (.trainRecord tag a) (fun z => z = { k with att := z.att } ∧ (a.toNat, k.trecBytes) ∈ z.att.hostWr ∧
        z.answers 15 15 stOk tag k.trecBytes.length))) ∧
    (∀ (place : W32) (set : W64),
      let cmd : Instr := .diagRun tag place set
      let bad := diagPlace place.toNat = false ∨ set.toNat = 0 ∨ 16 ≤ set.toNat
      let served := ds ∈ [2, 3] ∧ k.quadIn (place.toNat / 2 ^ 28 % 4) = true
      (bad → invalid cmd 0x28) ∧ (¬ bad → ¬ served → conflict cmd 0x28) ∧
      (¬ bad → served → runs cmd (fun z => ∃ y : Pkg, z = y.diagPoll ∧ y = { k with bi := y.bi, att := y.att } ∧
        (∃ r, r ∈ y.att.cmds ∧ r.ring = 15 ∧ r.opc = 0x28 ∧ r.tag = tag) ∧
        ∃ d, y.bi = { k.bi with diags := k.bi.diags ++ [d] } ∧ d.tag = tag ∧ d.place = place.toNat ∧ d.ran = 0 ∧ d.failed = 0 ∧
          (d.slices = [] → d.left = [] ∧ d.wait = false) ∧
          (d.slices ≠ [] → d.left = diagClus place.toNat ∧ d.wait = true)))) ∧
    (∀ (n : BitVec 16) (r : BitVec 112) (l : List DrillEntry),
      let cmd : Instr := .drillSet tag n r l
      let bad := r ≠ 0 ∨ n.toNat ≠ l.length ∨ 256 < n.toNat
      (bad → invalid cmd 0x2E) ∧ (¬ bad → ds ∉ [2, 3] → conflict cmd 0x2E) ∧
      (¬ bad → ds ∈ [2, 3] → (∀ e, e ∈ l → drillOk e = true) → runs cmd (fun z => ok z ∧
        z = { k with bi := { k.bi with drills := l, fired := [] }, att := z.att })) ∧
      (∀ a e t, ¬ bad → ds ∈ [2, 3] → l = a ++ e :: t → (∀ x, x ∈ a → drillOk x = true) → drillOk e = false →
        runs cmd (fun z => z.answers 15 15 stFailed tag a.length ∧
          z = { k with cl := { k.cl with core := z.cl.core }, att := z.att } ∧
          ((∀ x, x ∈ l → placeOk x.place.toNat = true) → z.cl.core = c) ∧
          ((∃ x, x ∈ l ∧ placeOk x.place.toNat = false) → z.recorded 0x0B0A))))

/-- Power states and the wake (R444, R446–R449). Idle needs REDUCED or FULL and no job that runs or is stopping; rotations are
abandoned. Laid-up needs FULL or Idle and no admitted job, waits while a line clear or drain is armed, and puts HBM into
self-refresh. Running returns at once from Idle, or starts the wake from Laid-up. A wake step sets its ready bit and the next
starts; after the last the device returns to its state. A wake that runs out of time records PW_WAKE_FAIL and begins a full
recovery. The commands have no effect while no Signal Box serves. Where it says more than these rules it says the model's choices
of log entries 215, 257, 258, 259, 260, 261 and 288. -/
def Obligations.PowerStatesAndTheWake : Prop :=
  ∀ (s : State) (tag : W32),
    let k := s.pk
    let c := k.cl.core
    let ds := k.devState
    let conflict (cmd : Instr) : Prop := exec cmd s = .next { s with pk := k.cmdReject 15 0x29 15 tag stConflict ds }
    let ok (z : Pkg) : Prop := z.answers 15 15 stOk tag 0
    let runs (cmd : Instr) (P : Pkg → Prop) : Prop := (k.sbUp = true → does cmd s P) ∧ (k.sbUp = false → exec cmd s = .next s)
    let busy := ∃ j, j < 15 ∧ (k.jobState j = 3 ∨ k.jobState j = 5)
    (ds ∉ [2, 3] ∨ busy → conflict (.powerStateIdle tag)) ∧
    (ds ∈ [2, 3] → ¬ busy → runs (.powerStateIdle tag) (fun z => ok z ∧ z.recorded 0x0C08 ∧ z.devState = 4 ∧
      z.pw = { k.pw with backTo := ds } ∧ z.hbm = k.hbm ∧ z.jobs = k.jobs ∧
      ∀ rg mv, z.move rg = some mv → mv.relief = true ∧ k.move rg = some mv)) ∧
    (ds ∉ [3, 4] ∨ k.anyAdmitted = true → conflict (.powerStateLaidUp tag)) ∧
    (ds ∈ [3, 4] → k.anyAdmitted = false →
      (k.drainsArmed = true → exec (.powerStateLaidUp tag) s = .next { s with pk := k.cmdRun 15 0x29 15 tag }) ∧
      (k.drainsArmed = false → runs (.powerStateLaidUp tag) (fun z => ok z ∧ z.recorded 0x0C08 ∧ z.devState = 5 ∧
        z.pw.backTo = (if ds = 4 then k.pw.backTo else ds) ∧ z.pw.wake = none ∧ z.hbm.selfRef = true))) ∧
    (ds ∉ [4, 5] ∨ (ds = 5 ∧ k.pw.wake ≠ none) → conflict (.powerStateRunning tag)) ∧
    (ds = 4 → runs (.powerStateRunning tag) (fun z => ok z ∧ z.recorded 0x0C08 ∧ z.devState = k.pw.backTo % 16 ∧
      z.hbm = k.hbm ∧ z.jobs = k.jobs)) ∧
    (ds = 5 → k.pw.wake = none → runs (.powerStateRunning tag) (fun z =>
      z.pw = { k.pw with wake := some 0, wakeCmd := some ⟨15, 0x29, 15, tag⟩ } ∧ z.devState = 5 ∧ z.hbm = k.hbm ∧
      c.setsFld z.cl.core pagePw 0x40 26 4 0 ∧ ∃ r, r ∈ z.att.cmds ∧ r.ring = 15 ∧ r.opc = 0x29 ∧ r.tag = tag)) ∧
    (k.pw.wake = none → exec .wakeStepDone s = .next s ∧ exec .wakeTimeout s = .next s) ∧
    (∀ n, k.pw.wake = some n →
      (n < 3 → does .wakeStepDone s (fun z => z.pw.wake = some (n + 1) ∧ z.devState = ds ∧
        bitAt (z.cl.core.rd pagePw 0x40) (29 - n) = true ∧ (n = 2 → z.hbm = { k.hbm with selfRef := false } ∧ z.pw.kept = []) ∧
        (n ≠ 2 → z.hbm = k.hbm ∧ z.pw.kept = k.pw.kept))) ∧
      (3 ≤ n → does .wakeStepDone s (fun z => z.recorded 0x0C08 ∧ z.pw.wake = none ∧ z.pw.wakeCmd = none ∧
        (k.pw.wakeReset = none → z.devState = k.pw.backTo % 16) ∧
        ∀ r, k.pw.wakeCmd = some r → r.opc = 0x29 → z.answers r.ring r.job stOk r.tag 0)) ∧
      does .wakeTimeout s (fun z => z.recorded 0x0C09 ∧ z.recorded 0x0E0C ∧ z.devState = 6 ∧ z.pw.wake = none ∧ z.pw.kept = [] ∧
        (∃ r, z.fw.reset = some r ∧ r.domain = 2 ∧ r.phase = 0 ∧ r.backTo = k.pw.backTo % 16) ∧
        ∀ r, k.pw.wakeCmd = some r → r.opc = 0x29 → z.answers r.ring r.job stPreempted r.tag 0))

/-! ## Registers and power -/

/-- Writes of registers and memory windows (R42, R325–R327, R469, R473, R476–R478, R480, R487). A reserved page drops a write. An
access that is not 4 or 8 aligned bytes is dropped and sets ACC_DROPPED. ERR_STATUS is cleared by ones, ERR_MASK is written,
and the other header words but CTRL and ERR_INJECT ignore a write; a page whose domain is off takes none beyond its header; a
field keeps the bits it has, a new Run limit has the bookings checked again, and a post target takes no place code that names
no location. A memory window takes 1, 2, 4 or 8 aligned bytes, an S-core's only while no program or pilot runs
there. Firmware applies logged writes in order, one at a time, and counts them; SEC_MBX_GO makes the mailbox BUSY; a shadow
shows its page. Where it says more than these rules it says the model's choices of log entries 175, 256, 269, 270, 272, 274,
275, 276 and 277. -/
def Obligations.RegisterWritesFollowTheAccessRules : Prop :=
  ∀ (s : State) (page : BitVec 24) (off : BitVec 12) (size : Fin 65) (data : W64),
    let k := s.pk
    let c := k.cl.core
    let p := page.toNat
    let o := off.toNat
    let v : W32 := BitVec.ofNat 32 (bitsAt data 0 32)
    let reg : Instr := .registerWrite page off size data
    let win : Instr := .memoryWindowWrite page off size data
    let drops (cmd : Instr) (q : Nat) : Prop := doesCore cmd s (fun y => c.sets y q 0x18 (c.rd q 0x18 ||| 1))
    (pageKind p = none → winKind p = none → exec reg s = .next s) ∧
    (winKind p = none → exec win s = .next s) ∧
    (pageKind p = none → exec reg s = exec win s) ∧
    (∀ kd, pageKind p = some kd →
      (cwAligned o size = false → drops reg p) ∧
      (size.val = 4 → o % 4 = 0 →
        (o = 0x18 ∨ o = 0x1C → doesCore reg s (fun y => c.sets y p o (c.rd p o &&& ~~~v))) ∧
        (o = 0x20 ∨ o = 0x24 → doesCore reg s (fun y => c.sets y p o v)) ∧
        (o < 0x40 → o ∉ [0x10, 0x18, 0x1C, 0x20, 0x24, 0x28] → exec reg s = .next s) ∧
        (0x40 ≤ o → k.domainOff kd = true → exec reg s = .next s) ∧
        (k.domainOff kd = false → ∀ e ∈ [(PKind.tt (kd.rg.getD 0), 0x44, 0x00FC7FF8), (.tt (kd.rg.getD 0), 0xFC, 0xFFFF), (.sbx 0, 0x44, 0xFF), (.sbx 1, 0x4C, 0x8000FFFF), (.pw, 0x54, 0xFFFF),
            (.pw, 0x5C, 0xC000FFFF), (.time, 0x54, 0xC000FFFF), (.hbSeg, 0x100, 0xFFE00000), (.hbWin 0, 0x110, 0x3FFFFFFF),
            (.fbPkg, 0x44, 0x1FFFF), (.hb 0, 0x50, 0xFF), (.fbPort 0, 0x58, 0xFFFFFFFF), (.fbColl 0, 0x40, 0x3F)],
          kd = e.1 → o = e.2.1 → doesCore reg s (fun y => c.sets y p o (v &&& BitVec.ofNat 32 e.2.2))) ∧
        (∀ rg, kd = .tt rg → k.domainOff kd = false →
          (o = 0x48 → does reg s (fun z => ∃ y : Core, c.sets y p o (v &&& 0xFFFF) ∧
            z = ({ k with cl := { k.cl with core := y } } : Pkg).rebook)) ∧
          (0x500 ≤ o → o < 0x700 → o % 8 = 4 → placeOk v.toNat = false → drops reg p)))) ∧
    (∀ w, winKind p = some w →
      let a := p * 4096 + o
      let bytes := leBytes size data.toNat
      let okSize := (size.val = 1 ∨ size.val = 2 ∨ size.val = 4 ∨ size.val = 8) ∧ o % size = 0
      (¬ okSize → drops win (winPage w)) ∧
      (okSize → (∀ clu, w = .imem clu ∨ w = .dmem clu →
        ((k.cl.runOrPilot clu).isSome = true → drops win (pageS clu)) ∧
        ((k.cl.runOrPilot clu).isSome = false → doesCore win s (fun y => y = { c with win := y.win } ∧
          ∀ b, y.winRd b = if a ≤ b ∧ b < a + size then bytes.getD (b - a) 0 else c.winRd b)))) ∧
      (okSize → ∀ rg, w = .entries rg →
        let e := (a - entryBase rg) / 256
        (∀ n r, n < 4 → k.cl.run rg n = some r → r.entry ≠ e) → doesCore win s (fun y => y = { c with win := y.win } ∧
          ∀ b, y.winRd b = if a ≤ b ∧ b < a + size then bytes.getD (b - a) 0 else c.winRd b))) ∧
    (k.att.log = [] ∨ k.upC k.sb = false → exec .logApply s = .next s) ∧
    (∀ e l, k.att.log = e :: l → k.upC k.sb = true →
      let y := ({ k with att := { k.att with log := l, tbusyRec := false } } : Pkg).applyEnt e
      does .logApply s (fun z => z = y.cwWr 3 0x4C (y.cwRd 3 0x4C + 1) ∧ z.cwRd 3 0x4C = y.cwRd 3 0x4C + 1)) ∧
    ((bitAt (k.cwRd 273 0x44) 31 = true → does .secMbxGo s (fun z => z = { k with cl := { k.cl with core := z.cl.core } } ∧
        z.recorded 0x0B08)) ∧
     (bitAt (k.cwRd 273 0x44) 31 = false → does .secMbxGo s (fun z => z = { k with att := { k.att with cw := z.att.cw } } ∧
        z.cwRd 273 0x44 = 0x80000000))) ∧
    (∀ q : Fin 4096,
      (k.upC k.sb = false ∨ q.val < 256 → exec (.shadowRefresh q) s = .next s) ∧
      (k.upC k.sb = true → 256 ≤ q.val → does (.shadowRefresh q) s (fun z => z = { k with att := { k.att with cw := z.att.cw } } ∧
        (∀ t, viewOnly q = some t → ∀ x ∈ [0, 4, 8, 0xC, 0x14], z.cwRd q x = c.viewHeader t x) ∧
        (viewOnly q = none → ∀ i, i < 1024 → z.cwRd q (4 * i) = match k.viewPage q with
          | some r => k.peek r (4 * i)
          | none => 0) ∧
        ∀ r x, r ≠ q.val → r < 4096 → x < 4096 → z.cwRd r x = k.cwRd r x)))

/-- Power, clock and temperature (R436–R438, R442, R450–R452). VAUX starts the rail sequence. An unlocked PLL or a tripped
comparator makes the device FAILED: commands end, running jobs fault and FAULT_N is asserted, and a trip also cuts every rail.
A faulted regulator switches its die's regulators off. The cap loop shows power and cap, records the beginning of an episode
and steps the clock by 25 MHz, or the Run limit by 512 at the lowest clock. At 105 °C the thermal loop lowers the ceiling by
25 MHz. Each step down has the bookings of the jobs checked again. Both loops only measure while the Signal Box does not serve.
Reading TIME_TICK_LO latches the rest. Where it says more than these rules it says the model's choices of log entries 251, 252,
254, 255 and 288. -/
def Obligations.PowerCapThermalLoopAndFailures : Prop :=
  ∀ (s : State),
    let k := s.pk
    let c := k.cl.core
    let t := c.tick.toNat
    let isFailed (z : Pkg) : Prop := z.devState = 7 ∧ z.pw.faultN = true ∧ z.bu.devEvent = true ∧ z.att.cmds = [] ∧
      ∀ j, j < 15 → z.jobState j = if 3 ≤ k.jobState j ∧ k.jobState j ≤ 5 then 6 else k.jobState j
    (k.pw.vaux = true → exec .vauxRise s = .next s) ∧
    (k.pw.vaux = false → does .vauxRise s (fun z =>
      z = { k with cl := { k.cl with core := z.cl.core }, pw := { k.pw with vaux := true, float := false, seq := some 0 } } ∧
      c.only z.cl.core [regKey pageSec 0x40, regKey pagePw 0x80] ∧ bitAt (z.cl.core.rd pageSec 0x40) 26 = true ∧
      z.cl.core.railEn 0 = true)) ∧
    (∀ q : Quad, does (.pllUnlock q) s (fun z => isFailed z ∧ z.recorded 0x0C03)) ∧
    (∀ (n : Fin 192) (v : Int), does (.thermtrip n v) s (fun z => isFailed z ∧ z.recorded 0x0C07 ∧ z.pw.thermtripN = true ∧
      z.pw.seq = none ∧ ∀ i, i < 18 → z.cl.core.rd pagePw (0x80 + 8 * i) = 0)) ∧
    (∀ rg : Rgn,
      (kget k.pw.regOff false rg = true → exec (.regulatorFault rg) s = .next s) ∧
      (kget k.pw.regOff false rg = false → does (.regulatorFault rg) s (fun z => z.recorded 0x0C02 ∧
        z.pw = { k.pw with regOff := z.pw.regOff } ∧ ∀ r, kget z.pw.regOff false r = if r / 2 = rg.val / 2 then true else
          kget k.pw.regOff false r))) ∧
    (∀ w : BitVec 16,
      let power := w.toNat
      let cap := k.effCap
      let lim := c.runLimit
      does (.powerCapLoop w) s (fun z => ∃ y u : Pkg,
        y = { k with cl := { k.cl with core := y.cl.core }, pw := y.pw } ∧
        y.cl.core.fld pagePw 0x44 0 16 = power ∧ y.cl.core.fld pagePw 0x48 0 16 = cap % 65536 ∧
        y.pw.below = (if power * 100 < 95 * cap then k.pw.below + 1 else 0) ∧
        (k.sbUp = true → cap < power → k.pw.capEp = false → y.recorded 0x0C04) ∧
        (k.sbUp = true → cap < power → 600 < c.mhz → y.pw.rise = none ∧
          y.cl.core.rd pagePw 0x54 = BitVec.ofNat 32 (c.mhz - 25) ∧
          ∀ rg, rg < 192 → y.cl.core.rd (pageTT rg) 0x48 = BitVec.ofNat 32 ((10 * (c.mhz - 25) - 840) % 65536)) ∧
        (k.sbUp = true → cap < power → c.mhz ≤ 600 → ∀ rg, rg < 192 →
          y.cl.core.rd (pageTT rg) 0x48 = BitVec.ofNat 32 (max (lim - 512) 2048 % 65536)) ∧
        (k.sbUp = false ∨ (power ≤ cap ∧ y.pw.below < 4) → u = y ∧ y.pw.rise = k.pw.rise ∧
          y.cl.core.rd pagePw 0x54 = c.rd pagePw 0x54 ∧
          ∀ rg, rg < 192 → y.cl.core.rd (pageTT rg) 0x48 = c.rd (pageTT rg) 0x48) ∧
        (k.sbUp = true → cap < power → u = y.rebook) ∧ (u = y ∨ u = y.rebook) ∧
        z = { u with cl := { u.cl with core := z.cl.core }, pw := { u.pw with capTop := z.pw.capTop, capEp := z.pw.capEp } } ∧
        u.cl.core.only z.cl.core [regKey pagePw 0x40, regKey pagePw 0x68])) ∧
    (∀ (readings : List TempReading) (refs : List Int),
      let l := (readings.filter (fun r => !kget k.pw.badSensor false r.sensor.val)).map
        (fun r => (r.sensor.val, k.biased r.sensor.val r.value))
      let agree := ∀ e, e ∈ l → disagrees l k.pw.badSensor refs e.1 e.2 = none
      let hot := ∃ e, e ∈ l ∧ 420 ≤ e.2
      let due := k.sbUp = true ∧ (k.pw.thermAt = 0 ∨ k.pw.thermAt + 15 ≤ t)
      agree → does (.thermalLoop readings refs) s (fun z =>
        (hot → due → ∃ y : Pkg, z = y.rebook ∧ y.hbm = k.hbm ∧ y.jobs = k.jobs ∧
          y.pw.therm = max 600 ((if k.pw.therm = 0 then c.fusedMhz else k.pw.therm) - 25) ∧ y.pw.thermAt = t + 1 ∧
          bitAt (y.cl.core.rd pagePw 0x40) 24 = true ∧ (k.pw.therm = 0 → y.recorded 0x0C05) ∧
          (y.pw.therm < c.mhz → y.cl.core.rd pagePw 0x54 = BitVec.ofNat 32 y.pw.therm)) ∧
        (hot → ¬ due → z.pw.therm = k.pw.therm ∧ z.pw.thermAt = k.pw.thermAt ∧
          z.cl.core.rd pagePw 0x54 = c.rd pagePw 0x54) ∧
        (¬ hot → k.pw.therm = 0 → z.pw.therm = 0 ∧ z.cl.core.rd pagePw 0x54 = c.rd pagePw 0x54))) ∧
    doesCore .timeTickLoRead s (fun y => c.only y [regKey pageTime 0x44, regKey pageTime 0x48] ∧
      y.rd pageTime 0x44 = BitVec.ofNat 32 (t / 2 ^ 32) ∧ y.rd pageTime 0x48 = BitVec.ofNat 32 c.frac)

/-! ## Resets and start-up -/

/-- Resets and dumps (R404, R422, R424, R426–R429, R464). A RESET that the device state does not allow, or beside a running reset,
is STATE_CONFLICT; a die reset needs the whole die fenced and valid nowhere. A reset lapses the open nonce, records FW_RESET,
requires its dump and, but for a die, enters RECOVERY; in Laid-up the wake goes first. Its phases wait for the dump and the
stop tick, end the commands and jobs, stop every unit, clear the domain and end. A compute-domain reset of 1 s becomes a full
recovery; a full recovery of 12 s fails the device. A dump ends whole or TRUNCATED, and an abandoned access counts at its
unit; one of the message unit or the data memory may be the copier's. Where it says more than these rules it says the model's
choices of log entries 31, 239, 240, 241, 242, 253, 288 and 304. -/
def Obligations.ResetsRunTheirPhasesAndDumpsEnd : Prop :=
  ∀ (s : State) (tag : W32),
    let k := s.pk
    let c := k.cl.core
    let t := c.tick.toNat
    let ds := k.devState
    let conflict (cmd : Instr) : Prop := exec cmd s = .next { s with pk := k.cmdReject 15 0x2B 15 tag stConflict ds }
    let runs (cmd : Instr) (P : Pkg → Prop) : Prop := (k.sbUp = true → does cmd s P) ∧ (k.sbUp = false → exec cmd s = .next s)
    let mine : RunCmd := ⟨15, 0x2B, 15, tag⟩
    let begun (z : Pkg) (dom die : Nat) : Prop := z.recorded 0x0E0C ∧ z.sec.nonce = none ∧ z.fw.dump ≠ none ∧
      (∃ r, z.fw.reset = some r ∧ r.domain = dom ∧ r.die = die ∧ r.phase = 0 ∧ r.start = t ∧ r.cmd = some mine ∧ r.backTo = ds) ∧
      z.devState = (if dom = 1 then ds else 6)
    let next (x z : Pkg) (r : ResetS) (n : Nat) : Prop := z = { x with fw := { x.fw with reset := some { r with phase := n } } }
    (∀ e ∈ [(Instr.resetComputeDomain tag, 0), (.resetFullRecovery tag, 2)],
      (ds ∉ [1, 2, 3, 4, 5] ∨ k.fw.reset ≠ none → conflict e.1) ∧
      (ds ∈ [1, 2, 3, 4] → k.fw.reset = none → runs e.1 (fun z => begun z e.2 0)) ∧
      (ds = 5 → k.fw.reset = none → runs e.1 (fun z => z.pw.wakeReset = some e.2 ∧ z.fw = k.fw ∧ z.cl = k.cl ∧ z.hbm = k.hbm ∧
        z.pw.wake = (if k.pw.wake = none then some 0 else k.pw.wake) ∧
        z.pw.wakeCmd = (if k.pw.wakeCmd = none then some mine else k.pw.wakeCmd)))) ∧
    (∀ w : W64,
      let g := w.toNat
      let gone := k.fencedAt (placeDie g 0) = true ∧ ∀ p l, p < 96 → l < 96 → c.dieMap p l ≠ some g
      (96 ≤ g → exec (.resetDie tag w) s = .next { s with pk := k.cmdReject 15 0x2B 15 tag stInvalid ds }) ∧
      (g < 96 → ds ∉ [1, 2, 3, 4, 5] ∨ ¬ gone ∨ k.fw.reset ≠ none → conflict (.resetDie tag w)) ∧
      (g < 96 → ds ∈ [1, 2, 3, 4, 5] → gone → k.fw.reset = none → runs (.resetDie tag w) (fun z => begun z 1 g))) ∧
    (k.fw.reset = none → exec .recoveryPhase s = .next s ∧ exec .resetEscalate s = .next s ∧ exec .recoveryTimeout s = .next s) ∧
    (∀ r, k.fw.reset = some r →
      (r.domain = 1 → k.fw.dump ≠ none → exec .recoveryPhase s = .next s) ∧
      (r.domain = 1 → k.fw.dump = none → does .recoveryPhase s (fun z => z.fw = { k.fw with reset := none } ∧ z.hbm = k.hbm ∧
        ∀ w, r.cmd = some w → z.answers w.ring w.job stOk w.tag 0)) ∧
      (r.domain ≠ 1 →
        (r.phase = 0 → k.abortDue r = false → exec .recoveryPhase s = .next s) ∧
        (r.phase = 0 → k.abortDue r = true → does .recoveryPhase s (fun z => next (k.endAll r.cmd) z r 1 ∧
          ∀ j, j < 15 → z.jobState j = if 3 ≤ k.jobState j ∧ k.jobState j ≤ 5 then 6 else k.jobState j)) ∧
        (r.phase = 1 → does .recoveryPhase s (fun z => ∃ x : Clus, next { k with cl := x } z r 2 ∧
          x.st.mem = k.cl.st.mem ∧
          ∀ clu, clu < 960 → x.mQueue clu 0 = [] ∧ x.mQueue clu 1 = [] ∧ (x.arr clu).queue = [] ∧ (x.arr clu).halted = true)) ∧
        (r.phase = 2 ∨ r.phase = 3 → does .recoveryPhase s (fun z => next k z r (r.phase + 1))) ∧
        (r.phase = 4 → does .recoveryPhase s (fun z => next (k.computeCold (decide (r.domain = 2))) z r 5 ∧
          z.cl.st.mem = [] ∧ z.cl.core.win = [] ∧ z.net = NetS.cold ∧ z.bi.fence = k.bi.fence)) ∧
        (r.phase = 5 → r.domain = 0 → does .recoveryPhase s (fun z => z.fw.reset = none ∧
          (r.backTo = 3 → z.devState = 3) ∧ ∀ w, r.cmd = some w → z.answers w.ring w.job stOk w.tag 0)) ∧
        (r.phase = 5 → r.domain ≠ 0 → does .recoveryPhase s (fun z => (∃ q, z.fw.reset = some q ∧ q = { r with phase := 6 }) ∧
          z.cl.core.buStep = 7 ∧ z.pw.wake = none)) ∧
        (5 < r.phase → c.buStep < 9 → exec .recoveryPhase s = .next s) ∧
        (5 < r.phase → 9 ≤ c.buStep → does .recoveryPhase s (fun z => z.fw.reset = none ∧ z.hbm.mem = [] ∧
          z.hbm.remap = k.hbm.remap ∧ (r.backTo = 3 → z.devState = 3) ∧
          ∀ w, r.cmd = some w → z.answers w.ring w.job stOk w.tag 0))) ∧
      (r.domain ≠ 0 → exec .resetEscalate s = .next s) ∧
      (r.domain = 0 → does .resetEscalate s (fun z => z.recorded 0x0E0C ∧
        z = { k with cl := { k.cl with core := z.cl.core }, fw := { k.fw with reset := some { r with domain := 2, phase := min r.phase 1, start := t } } })) ∧
      (r.domain ≠ 2 → exec .recoveryTimeout s = .next s) ∧
      (r.domain = 2 → does .recoveryTimeout s (fun z => z.recorded 0x0E0D ∧ z.devState = 7 ∧ z.fw.reset = none ∧
        z.att.cmds = []))) ∧
    (k.fw.dump = none → exec .dumpLimitExpiry s = .next s ∧ exec .dumpComplete s = .next s ∧
      ∀ p : W32, exec (.dumpAccessTimeout p) s = .next { s with pk := k.copyTimeout p.toNat }) ∧
    (∀ p : W32, k.copyTimeout p.toNat = { k with bi := (k.copyTimeout p.toNat).bi } ∧
      (placeUnitNo p.toNat ≠ 9 → placeUnitNo p.toNat ≠ 10 → k.copyTimeout p.toNat = k)) ∧
    (∀ d, k.fw.dump = some d →
      (∀ p : W32, does (.dumpAccessTimeout p) s (fun z => ∃ e, z = { k.copyTimeout p.toNat with fw := { k.fw with dump := some e } } ∧
        e = { d with dead := e.dead } ∧ ksets 0 d.dead e.dead (unitOf p.toNat) (min 16 (kget d.dead 0 (unitOf p.toNat) + 1)))) ∧
      (∀ e ∈ [(Instr.dumpComplete, false), (.dumpLimitExpiry, true)], does e.1 s (fun z => z.recorded 0x0E0E ∧ z.fw.dump = none ∧
        z = { k with cl := { k.cl with core := z.cl.core }, att := { k.att with hostWr := z.att.hostWr }, fw := { k.fw with dump := none, dumps := z.fw.dumps } } ∧
        let l := k.dumpRecs d
        ∃ n, n ≤ l.length ∧ (e.2 = false → n = l.length) ∧
          let b := d.bytes (dumpMarks d.dead n 0 [] l)
          let base := k.cwRd8 32 0x68
          let host := base ≠ 0 ∧ b.length ≤ bitsAt (k.cwRd 32 0x70) 0 29 ∧ (k.link salLink).step = .up
          (host → z.att.hostWr = k.att.hostWr ++ [(base, b)] ∧ z.fw.dumps = k.fw.dumps) ∧
          (¬ host → z.att.hostWr = k.att.hostWr ∧ z.fw.dumps = (k.fw.dumps ++ [b]).drop (k.fw.dumps.length - 3)))))

/-- Power-good to the start-up test, and the pins (R381–R388, R405, R407, R410–R412, R436–R439, R457, R458, R461, R465). Each rail
group's PGOOD starts the next; after the last the clock starts at tick 0 and the identity is checked. A rail without PGOOD
records PW_RAIL_FAIL; any but a fabric rail fails the device. Analogue slices end in order; a failed supply slice fails the
device. A load needs ROM_WAIT; a rejected image is reported with its reason, an accepted one starts every complex. A dead
concourse fails the start-up test. RESET_N keeps fuses, rails and the security taint; released, it sequences rails that went
off, or takes the fast path or its refusal. Where it says more than these rules it says the model's choices of log entries
225, 226, 227, 229, 231, 234, 235, 236, 248 and 251. -/
def Obligations.StartUpStepsAndPins : Prop :=
  ∀ (s : State),
    let k := s.pk
    let c := k.cl.core
    let ds := k.devState
    let dark (z : Pkg) : Prop := ∀ i, i < 18 → z.cl.core.rd pagePw (0x80 + 8 * i) = 0
    (∀ g : Fin 6,
      (k.pw.seq ≠ some g.val → exec (.pgoodAssert g) s = .next s) ∧
      (k.pw.seq = some g.val → g.val < 5 → does (.pgoodAssert g) s (fun z => z.pw = { k.pw with seq := some (g.val + 1) } ∧
        z = { k with cl := { k.cl with core := z.cl.core }, pw := z.pw } ∧
        (∀ i ∈ railGroup g, c.railEn i = true → z.cl.core.railOk i = true) ∧
        (∀ i ∈ railGroup (g.val + 1), z.cl.core.railEn i = true))) ∧
      (k.pw.seq = some g.val → g.val = 5 →
        let good := k.sec.blocked = true ∨ Config.identityOk k.bu.fuse.devCert = true
        (good → does (.pgoodAssert g) s (fun z => z.pw = { k.pw with seq := none } ∧ z.cl.core.tick = 0 ∧ z.cl.core.cycle = 0 ∧
          z.cl.core.buStep = 3 ∧ z.bu = { k.bu with slice := 0 } ∧
          z.sec = { k.sec with key := if k.sec.blocked then k.sec.key else true })) ∧
        (¬ good → does (.pgoodAssert g) s (fun z => z.recorded 0x0D01 ∧ z.devState = 7 ∧ dark z ∧ z.sec = k.sec)))) ∧
    (∀ (i : Fin 18) (mV : BitVec 16), ∀ e ∈ [(Instr.pgoodTimeout i mV, false), (.pgoodDeassert i mV, true)],
      let hit := c.railEn i = true ∧ c.railOk i = e.2
      (¬ hit → e.2 = true ∨ k.pw.seq ≠ some 5 → exec e.1 s = .next s) ∧
      (hit → i.val < 14 → does e.1 s (fun z => z.recorded 0x0C01 ∧ z.devState = 7 ∧ z.pw.faultN = true ∧ dark z)) ∧
      (hit → 14 ≤ i.val → does e.1 s (fun z => z.recorded 0x0C01 ∧ z.cl.core.railEn i = false))) ∧
    (∀ (n : Fin 30) (passed : Bool) (objs : List W32),
      let cmd : Instr := .analogSliceEnd n passed objs
      let may := c.buStep = 3 ∧ n.val = k.bu.slice ∧ ds = 0
      (¬ may → exec cmd s = .next s) ∧
      (may → passed = true → does cmd s (fun z => z.bu = { k.bu with slice := n.val + 1 } ∧ bitAt (z.cl.core.rd pageBu 0x44) n = true ∧
        (n.val = 29 ∨ c.fastPath = true → z.cl.core.buStep = 4 ∧ z.recorded 0x0F01) ∧
        (n.val ≠ 29 → c.fastPath = false → z.cl.core.buStep = 3))) ∧
      (may → passed = false → n.val < 17 → does cmd s (fun z => z.recorded 0x0F03 ∧ z.devState = 7 ∧ dark z ∧
        bitAt (z.cl.core.rd pageBu 0x44) n = false)) ∧
      (may → passed = false → 17 ≤ n.val → n.val < 25 → does cmd s (fun z =>
        z.bu = { k.bu with slice := n.val + 1, testBad := k.bu.testBad ++ objs } ∧ bitAt (z.cl.core.rd pageBu 0x44) n = false))) ∧
    (let w := k.cwRd 0 0x8C
     let may := ds = 0 ∧ bitsAt w 28 3 ≠ 1 ∧ bitsAt w 28 3 ≠ 2 ∧ (k.link salLink).step = .up
     (¬ may → exec .fwlGo s = .next s) ∧
     (may → does .fwlGo s (fun z => z = { k with att := { k.att with cw := z.att.cw } } ∧
       z.cwRd 0 0x8C = BitVec.ofNat 32 (2 ^ 28 + min 65535 (bitsAt w 0 16 + 1)))) ∧
     ∀ image : List Byte,
       let cmd : Instr := .fwlVerifyDone image
       let len := bitsAt (k.cwRd 0 0x88) 0 25
       let why := if image.length < len then 2 else k.imgReason (image.take len)
       let loading := ds = 0 ∧ (bitsAt w 28 3 = 1 ∨ bitsAt w 28 3 = 2)
       (¬ loading → exec cmd s = .next s) ∧
       (loading → why ≠ 0 → does cmd s (fun z => z.recorded 0x0E07 ∧ z.devState = 0 ∧ z.fw = k.fw ∧
         bitsAt (z.cwRd 0 0x8C) 28 3 = 4 ∧ bitsAt (z.cwRd 0 0x8C) 24 4 = why)) ∧
       (loading → why = 0 → does cmd s (fun z => bitsAt (z.cwRd 0 0x8C) 28 3 = 3 ∧ bitsAt (z.cwRd 0 0x8C) 24 4 = 0 ∧
         (∀ x, x < 6 → z.upC x = true) ∧ z.sb = 0 ∧ z.cwRd 0 0x48 = BitVec.ofNat 32 (imgVer (image.take len)) ∧
         (∀ d, k.fw.prevState = some d → z.devState = d % 16 ∧ z.fw.prevState = none) ∧
         (k.fw.prevState = none → z.devState = 1 ∧ (c.fastPath = false → z.cl.core.buStep = 6))))) ∧
    (∀ (bad : List W32) (dead : Bool),
      (c.buStep ≠ 6 → exec (.startupTestEnd bad dead) s = .next s) ∧
      (c.buStep = 6 → dead = true → does (.startupTestEnd bad dead) s (fun z => z.recorded 0x0F05 ∧ z.devState = 7)) ∧
      (c.buStep = 6 → dead = false → does (.startupTestEnd bad dead) s (fun z => z.recorded 0x0F01 ∧ z.devState = ds ∧
        z.cl.core.buStep = 7 ∧ z.cl.core.rd8 pageBu 0x68 = c.tick.toNat))) ∧
    (k.pw.resetN = true ∨ k.pw.vaux = false → exec .resetNAssert s = .next s) ∧
    (k.pw.resetN = false → k.pw.vaux = true → does .resetNAssert s (fun z => z.pw.resetN = true ∧ z.pw.vaux = true ∧
      z.devState = 0 ∧ z.jobs = [] ∧ z.hbm.mem = [] ∧ z.cl.st.mem = [] ∧ z.sec.key = k.sec.key ∧ z.sec.blocked = k.sec.blocked ∧
      z.sec.nonce = none ∧ z.bu.fuse = k.bu.fuse ∧
      ∀ i, i < 18 → z.cl.core.rd pagePw (0x80 + 8 * i) = c.rd pagePw (0x80 + 8 * i))) ∧
    (k.pw.resetN = false → exec .resetNHold s = .next s) ∧
    (k.pw.resetN = true → does .resetNHold s (fun z => dark z ∧ z.pw = { k.pw with seq := none, held := true })) ∧
    (∀ temps : List Int,
      let off := k.pw.held = true ∨ ∃ i, i < 14 ∧ c.railEn i = false
      let why := k.fastRefused temps
      (k.pw.resetN = false → exec (.resetN temps) s = .next s) ∧
      (k.pw.resetN = true → does (.resetN temps) s (fun z => z.pw.resetN = false ∧ z.pw.held = false ∧ z.cl.core.tick = 0 ∧
        (k.pw.thermtripN = true → z.devState = 7) ∧
        (k.pw.thermtripN = false → z.bu.devEvent = false ∧
          (off → z.pw.seq = some 0 ∧ z.cl.core.railEn 0 = true) ∧
          (¬ off → z.cl.core.buStep = 3 ∧ (why = 0 → z.cl.core.fastPath = true) ∧
            (why ≠ 0 → z.recorded 0x0F0E ∧ z.cl.core.fastPath = c.fastPath)))))) ∧
    does .vauxFall s (fun z => z.pw = PwS.cold ∧ z.sec = SecS.cold ∧ z.bu = BuS.cold k.bu.fuse ∧ z.fw = FwS.cold ∧ z.jobs = [] ∧
      z.cl.core.regs = [] ∧ z.att.hostWr = k.att.hostWr ∧ z.devState = 0)

/-- HBM and fabric training, the waves and joining (R381, R389–R392, R396, R397, R399–R403). Each phase acts only in its step. The
idle phase starts the load, the soak compares the conditions, a throttle in soak or loaded retrain starts the soak again once
at 80 %, the loaded retrain ends step 7, and so does a quick check without an error in matching quadrants. Fabric training
stops the load and starts the first wave. A wave passes or holds its quadrant. A passed quadrant joins once its dies are valid in
the points tables in force: the first makes the device REDUCED, the last FULL; before that the inactive banks get its dies and
the line clear is armed. A step beyond its limit ends with its failure outcome. Where it says more than these rules it says the
model's choices of log entries 230, 231, 232, 233, 237, 238 and 312. -/
def Obligations.TrainingWavesAndJoining : Prop :=
  ∀ (s : State),
    let k := s.pk
    let c := k.cl.core
    let ds := k.devState
    (∀ (thr : Bool) (r : List PcTrain) (temps : List Int) (power : W32),
      let run (ph : HbmPhase) : Instr := .hbmTrainingPhaseEnd ph thr r temps power
      let again := thr = true ∧ k.bu.load = 90 ∧ k.bu.restarted = false
      let bad := (r.filter (fun t => t.checkError && k.matches_ (t.stack.val / 6))).map (fun t => pcKey t.stack.val t.pc.val)
      (c.buStep ≠ 7 → ∀ ph, exec (run ph) s = .next s) ∧
      (c.buStep = 7 →
        (k.bu.load ≠ 0 → exec (run .idle) s = .next s) ∧
        (k.bu.load = 0 → (∀ ph, ph ≠ .idle → exec (run ph) s = .next s) ∧
          does (run .idle) s (fun z => z = { k with bu := { k.bu with load := if k.bu.restarted then 80 else 90 } })) ∧
        (k.bu.load ≠ 0 → again → ∀ ph ∈ [HbmPhase.soak, .loaded], does (run ph) s (fun z => z.recorded 0x0F08 ∧
          z = { k with cl := { k.cl with core := z.cl.core }, bu := { k.bu with load := 80, restarted := true } })) ∧
        (k.bu.load ≠ 0 → ¬ again → does (run .soak) s (fun z =>
          z = { k with cl := { k.cl with core := z.cl.core }, bu := { k.bu with own := z.bu.own } } ∧ z.cl.core.buStep = 7 ∧
          (k.bu.given ≠ none → z.recorded 0x0F0B) ∧
          (k.bu.given = none → z.cl.core = c ∧ ∀ q, q < 4 → z.bu.own.temps.getD q 0 = temps.getD q 0))) ∧
        (k.bu.load ≠ 0 → ¬ again → does (run .loaded) s (fun z => z.recorded 0x0F01 ∧ z.cl.core.buStep = 8 ∧ z.bu.retrain = [] ∧
          z.cl.core.rd8 pageBu 0x70 = c.tick.toNat)) ∧
        (k.bu.load ≠ 0 → does (run .quick) s (fun z => z.bu.retrain = bad ∧
          (bad = [] → (∀ q, q < 4 → k.matches_ q = true) → z.recorded 0x0F01 ∧ z.cl.core.buStep = 8) ∧
          (bad ≠ [] → z.cl.core.buStep = 7))))) ∧
    ((c.buStep ≠ 8 → exec .fabricTrainingEnd s = .next s) ∧
     (c.buStep = 8 → does .fabricTrainingEnd s (fun z => z.recorded 0x0F01 ∧ z.bu.load = 0 ∧ z.devState = ds ∧
       z.cl.core.rd8 pageBu 0x78 = c.tick.toNat ∧
       (ds = 6 → z.cl.core.buStep = 10) ∧ (ds ≠ 6 → z.cl.core.buStep = 9) ∧
       (ds ≠ 6 → c.fastPath = true → ∀ q, q < 4 → kget z.bu.passed false q = true) ∧
       (ds ≠ 6 → c.fastPath = false → ∀ q, q < 4 → kget k.bu.passed false q = false → c.heldQ q = false →
         (∀ i, i < q → kget k.bu.passed false i = true ∨ c.heldQ i = true) → z.cl.core.wave = q)))) ∧
    (∀ (q : Quad) (pages : List WavePage) (margins : List PcTrain),
      (k.inWave q = false → exec (.hbmWaveEnd q pages margins) s = .next s ∧ exec (.waveTimeout q) s = .next s) ∧
      (k.inWave q = true →
        does (.waveTimeout q) s (fun z => z.cl.core.heldQ q = true ∧ z.recorded 0x0F0D ∧ z.recorded 0x0F02 ∧
          kget z.bu.passed false q = false) ∧
        does (.hbmWaveEnd q pages margins) s (fun z => z.recorded 0x0F02 ∧
          (kget z.bu.passed false q = true ∨ (z.cl.core.heldQ q = true ∧ z.recorded 0x0F0D)) ∧
          (pages = [] → margins = [] → (∀ i r, i < 192 → kget k.bu.own.pcs none (192 * q.val + i) = some r → r.out ≠ 2) →
            kget z.bu.passed false q = true ∧ z.cl.core.heldQ q = false)))) ∧
    (∀ q : Quad,
      let may := k.sbUp = true ∧ kget k.bu.passed false q = true ∧ c.joined q = false ∧ c.quadValid q = true
      let waits := k.sbUp = true ∧ kget k.bu.passed false q = true ∧ c.joined q = false ∧ c.quadValid q = false
      let last := ∀ i, i < 4 → i ≠ q.val → c.joined i = true
      (¬ may → ¬ waits → exec (.quadrantJoin q) s = .next s) ∧
      (waits → doesCore (.quadrantJoin q) s (fun y => y = { c with regs := y.regs } ∧
        y.rd8 pageRoot 0x340 = (if c.rd8 pageRoot 0x340 = 0 then (c.tick.toNat + 1) % 2 ^ 64 else c.rd8 pageRoot 0x340) ∧
        ∀ r i, r < 96 → i < 24 →
          let l := 24 * q.val + i
          let g := c.fld (pagePts r) (0x100 + 0x80 * c.ptsBank r + l / 4 * 4) (8 * (l % 4)) 7
          y.ptsBank r = c.ptsBank r ∧ (g < 96 → g / 24 = q.val →
            y.fld (pagePts r) (0x100 + 0x80 * (1 - c.ptsBank r) + l / 4 * 4) (8 * (l % 4)) 8 = 128 + g))) ∧
      (may → does (.quadrantJoin q) s (fun z => z.recorded 0x0F0C ∧ z.cl.core.joined q = true ∧ z.quadIn q = true ∧
        (¬ last → ds = 1 → z.devState = 2 ∧ z.pw.pinsOn = true) ∧ (¬ last → ds ≠ 1 → z.devState = ds) ∧
        (last → ds = 4 ∨ ds = 5 → z.devState = ds ∧ z.pw.backTo = 3) ∧ (last → ds ≠ 4 → ds ≠ 5 → z.devState = 3)))) ∧
    (∀ n : Fin 10,
      let cmd : Instr := .bringupStepLimit n
      (c.buStep ≠ n.val → exec cmd s = .next s) ∧
      (c.buStep = n.val →
        (n.val ∉ [4, 6, 7, 8, 9] → exec cmd s = .next s) ∧
        (n.val = 4 → (k.link salLink).step = .off ∨ (k.link salLink).step = .up → exec cmd s = .next s) ∧
        (n.val = 4 → (k.link salLink).step ≠ .off → (k.link salLink).step ≠ .up → does cmd s (fun z => z.recorded 0x0B02 ∧
          (z.link salLink).step = .off)) ∧
        (n.val = 6 → does cmd s (fun z => z.recorded 0x0F05 ∧ z.devState = 7)) ∧
        (n.val = 7 → does cmd s (fun z => z.recorded 0x0F01 ∧ z.cl.core.buStep = 8 ∧ z.bu.retrain = [])) ∧
        (n.val = 8 → does cmd s (fun z => z.recorded 0x0F01 ∧ z.bu.load = 0)) ∧
        (n.val = 9 → ∀ q : Quad, q.val = c.wave → exec cmd s = exec (.waveTimeout q) s)))

/-! ## Relief and rotation -/

/-- Cluster relief, die relief and the test slices (R346, R348, R349, R352–R356, R363–R365). A cluster due for relief is fenced
and its units stop; where the region's relief cluster can serve, the mirror is enabled and the copy begins. A finished copy is
noted, and in Guard a relief goes on at once. A die relief fences the whole die; a free relief die takes its tables with the
swap armed for the next tick, else the records of R356 are made. A passed slice starts the next, the last returns the cluster
where it may return, and a failed one records BI_SLICE_FAIL and fences the cluster. Nothing is decided while the complex that
decides it does not serve. Where it says more than these rules it says the model's choices of log entries 206, 207, 208, 209,
210, 213, 216, 217, 221, 288 and 327. -/
def Obligations.ReliefFencesCopiesAndTests : Prop :=
  ∀ (s : State),
    let k := s.pk
    let c := k.cl.core
    let t := c.tick.toNat
    (∀ clu : Clu,
      let rg := clu.val / 5
      let relief := c.reliefOf rg
      let busy := ∃ mv, k.move rg = some mv ∧ mv.relief = true
      let first := k.fencedAt (placeClu clu) = false
      let count (x : Core) := x.fld (pageBI rg) (0x80 + 8 * (clu.val % 5)) 16 8
      (k.bpUp rg = false ∨ c.slotOfClu clu = none ∨ k.reliefDue clu = false ∨ k.relieving clu = true →
        exec (.clusterRelief clu) s = .next s) ∧
      (∀ n, k.bpUp rg = true → c.slotOfClu clu = some n → k.reliefDue clu = true → k.relieving clu = false →
        does (.clusterRelief clu) s (fun z =>
        z.cl.core.fenced clu = true ∧ (first → z.recorded 0x0E42 ∧ count z.cl.core = min 255 (count c + 1) ∧
          (k.bi.fence.length < 2048 → z.fencedAt (placeClu clu) = true ∧
            ∃ e, e ∈ z.bi.fence ∧ e.place = placeClu clu ∧ e.field = true ∧ e.cause = (k.reliefCause clu n).1 ∧
              e.drill = (k.reliefCause clu n).2)) ∧
        (¬ first → z.bi.fence = k.bi.fence ∧ count z.cl.core = count c) ∧
        z.cl.mQueue clu 0 = [] ∧ z.cl.mQueue clu 1 = [] ∧ z.hbm = k.hbm ∧ z.jobs = k.jobs ∧
        (c.fenced relief = true ∨ relief = clu.val ∨ busy → z.bi.moves = k.bi.moves) ∧
        (c.fenced relief = false → relief ≠ clu.val → ¬ busy →
          z.testOf relief = none ∧
          z.cl.core.rd (pageBI rg) 0x44 = BitVec.ofNat 32 (2 ^ 31 + clu.val % 5 * 2 ^ 28 + relief % 5 % 8 * 2 ^ 25) ∧
          ∃ mv, z.move rg = some mv ∧ mv.relief = true ∧ mv.slot = n ∧ mv.src = clu.val % 5 ∧ mv.dst = relief % 5 ∧ mv.mode = 4 ∧
            mv.since = t ∧ mv.first = t)))) ∧
    (∀ rg : Rgn,
      (k.move rg = none → exec (.copierComplete rg) s = .next s) ∧
      (∀ mv, k.move rg = some mv →
        (mv.copied = true ∨ (mv.mode ≠ 2 ∧ mv.mode ≠ 4) → exec (.copierComplete rg) s = .next s) ∧
        (mv.copied = false → mv.mode = 2 ∨ mv.mode = 4 → does (.copierComplete rg) s (fun z => ∃ y : Pkg,
          y = (k.copyCluster (5 * rg.val + mv.src) (5 * rg.val + mv.dst)).setMove rg (some { mv with copied := true }) ∧
          y.move rg = some { mv with copied := true } ∧
          z = if y.cl.core.inGuard && mv.relief then y.moveGuard rg else y)))) ∧
    (∀ g : Die,
      let idle := k.sbUp = false ∨ c.logicalDie g = 127 ∨ kget k.bi.dieMirror 0 g ≠ 0
      (idle → exec (.dieRelief g) s = .next s) ∧
      (¬ idle → does (.dieRelief g) s (fun z => z.recorded 0x0E42 ∧ (∀ i, i < 10 → z.cl.core.fenced (10 * g.val + i) = true) ∧
        (k.bi.fence.length < 2048 → z.fencedAt (placeDie g 0) = true) ∧ z.jobs = k.jobs ∧ z.pw = k.pw ∧
        (k.reliefDie (g.val / 24) = none → z.recorded 0x0E44 ∧ z.recorded 0x0E45 ∧ z.bi.dieMirror = k.bi.dieMirror) ∧
        ∀ h, k.reliefDie (g.val / 24) = some h → ksets 0 k.bi.dieMirror z.bi.dieMirror g (h + 1) ∧
          ksets false k.bi.dieUsed z.bi.dieUsed h true ∧ z.cl.core.rd8 pageRoot 0x340 = (t + 1) % 2 ^ 64))) ∧
    (∀ (clu : Clu) (passed : Bool) (at_ : Byte),
      let cmd : Instr := .testSliceEnd clu passed at_
      let rg := clu.val / 5
      let good := passed = true ∧ bitAt (c.rd (pageBI rg) 0x28) 1 = false
      (k.devState = 4 ∨ k.devState = 5 → exec cmd s = .next s) ∧
      (k.devState ≠ 4 → k.devState ≠ 5 →
        (k.testOf clu = none → exec cmd s = .next { s with pk := k.diagPoll }) ∧
        (∀ e, k.testOf clu = some e →
          (e.left = [] ∨ k.bpUp rg = false → exec cmd s = .next { s with pk := k.diagPoll }) ∧
          (∀ i l, k.bpUp rg = true → e.left = i :: l →
            (good → l ≠ [] → does cmd s (fun z => ∃ y : Pkg, z = y.diagPoll ∧
              y = { k with cl := { k.cl with core := y.cl.core }, bi := { k.bi with tests := y.bi.tests } } ∧
              ksets none k.bi.tests y.bi.tests clu (some { e with ran := e.ran + 1, left := l }))) ∧
            (good → l = [] → does cmd s (fun z => ∃ y : Pkg, z = y.diagPoll ∧ y.testOf clu = none ∧
              (e.back = true → k.mayReturn clu = true → y.cl.core.fenced clu = false) ∧
              (e.back = false ∨ k.mayReturn clu = false → y.cl.core.fenced clu = c.fenced clu))) ∧
            (¬ good → does cmd s (fun z => ∃ y : Pkg, z = y.diagPoll ∧ y.testOf clu = none ∧ y.recorded 0x0F45 ∧ y.recorded 0x0E42 ∧
              y.cl.core.fenced clu = true ∧ (k.bi.fence.length < 2048 → y.fencedAt (placeClu clu) = true) ∧
              (c.reliefOf rg = clu.val → y.recorded 0x0E44)))))))

/-- Rotation and drills (R346–R348, R357, R358, R362, R376–R378). A rotation starts for a cluster that serves where neither it nor
the relief cluster is fenced and none is in progress; ROTATE_NOW beside one is dropped. At a region's rotation tick the first
cluster after the relief cluster that is not passed gone rotates. ABORT_ROT, and the limit of PREPARE, abandon a rotation with
BI_ROT_ABORT and end its mirror and pilot; a relief goes on. BI_MIRROR and BI_FENCE take what is written. A due drill records
FW_DRILL and arms its injection, unless it is skipped. Nothing of this happens while its complex does not serve. Where it says
more than these rules it says the model's choices of log entries 212, 214, 215, 223 and 288. -/
def Obligations.RotationsAndDrillsStartAndEnd : Prop :=
  ∀ (s : State) (rg : Rgn),
    let k := s.pk
    let c := k.cl.core
    let t := c.tick.toNat
    let p := pageBI rg
    let relief := c.reliefOf rg
    let free (x : Nat) := k.bpUp rg = true ∧ k.move rg = none ∧ c.fenced relief = false ∧ c.fenced (5 * rg.val + x) = false
    let begun (x n : Nat) (z : Pkg) : Prop := z.move rg = some ⟨false, n, x, relief % 5, 2, false, t, t, 0⟩ ∧
      z.testOf relief = none ∧ z.cl.core.rd p 0x44 = BitVec.ofNat 32 (2 ^ 31 + x * 2 ^ 28 + relief % 5 * 2 ^ 25) ∧
      z = { k with cl := { k.cl with core := z.cl.core }, bi := { k.bi with moves := z.bi.moves, tests := z.bi.tests } }
    let gone (z : Pkg) : Prop := z.move rg = none ∧ z.recorded 0x0F41 ∧ bitAt (z.cl.core.rd p 0x44) 31 = false ∧
      bitAt (z.cl.core.rd (pageTT rg) 0x44) 21 = false ∧ z.bi = { k.bi with moves := z.bi.moves } ∧ z.hbm = k.hbm
    (∀ x : Fin 8,
      (k.bpUp rg = false → exec (.rotateNow rg x) s = .next s) ∧
      (k.bpUp rg = true → k.move rg ≠ none → doesCore (.rotateNow rg x) s (fun y => c.sets y p 0x18 (c.rd p 0x18 ||| 1))) ∧
      (k.move rg = none → 5 ≤ x.val ∨ c.slotOfClu (5 * rg.val + x) = none ∨ ¬ free x → exec (.rotateNow rg x) s = .next s) ∧
      (∀ n, x.val < 5 → c.slotOfClu (5 * rg.val + x) = some n → free x → does (.rotateNow rg x) s (begun x n))) ∧
    (let per := (c.rd p 0x4C).toNat
     let due := k.serves rg = true ∧ per ≠ 0 ∧ t % per = 341 * rg.val % per
     let next := ((List.range 4).map (fun i => (mapRelief (c.slotMap rg) + 1 + i) % 5)).find? (fun x => !k.skipped rg x)
     (¬ due → exec (.rotationStart rg) s = .next s) ∧
     (due → next = none → exec (.rotationStart rg) s = .next s) ∧
     ∀ x, due → next = some x →
       (c.slotOfClu (5 * rg.val + x) = none ∨ ¬ free x → exec (.rotationStart rg) s = .next s) ∧
       (∀ n, c.slotOfClu (5 * rg.val + x) = some n → free x → does (.rotationStart rg) s (begun x n))) ∧
    (k.move rg = none → exec (.abortRot rg) s = .next s ∧ exec (.rotationPrepTimeout rg) s = .next s) ∧
    (∀ mv, k.move rg = some mv →
      let late := mv.mode = 2 ∧ mv.since + c.fld p 0x54 0 16 ≤ t
      (mv.relief = true ∨ k.bpUp rg = false → exec (.abortRot rg) s = .next s ∧ exec (.rotationPrepTimeout rg) s = .next s) ∧
      (mv.relief = false → k.bpUp rg = true → does (.abortRot rg) s gone) ∧
      (mv.relief = false → ¬ late → exec (.rotationPrepTimeout rg) s = .next s) ∧
      (mv.relief = false → k.bpUp rg = true → late → does (.rotationPrepTimeout rg) s gone)) ∧
    (∀ v : W32,
      (k.bpUp rg = false → exec (.biMirrorWrite rg v) s = .next s ∧ exec (.biFenceWrite rg v) s = .next s) ∧
      (k.bpUp rg = true → doesCore (.biMirrorWrite rg v) s (fun y => c.sets y p 0x44 (v &&& 0xFE000000)) ∧
        doesCore (.biFenceWrite rg v) s (fun y => c.only y [regKey p 0x48, regKey p 0x40] ∧ y.rd p 0x48 = v &&& 0x1F ∧
          y.fld p 0x40 21 5 = bitsAt v 0 5))) ∧
    (∀ i : Fin 256,
      let cmd : Instr := .drillInjection i
      (k.bi.drills[i.val]? = none → exec cmd s = .next s) ∧
      (∀ e, k.bi.drills[i.val]? = some e →
        let q := 48 * (e.place.toNat / 2 ^ 28 % 4)
        let first := e.first.toNat
        let iv := e.interval.toNat
        let pair : Bool := decide (e.flags.toNat = 1 ∧ first < t ∧ (t - 1 - first) % iv = 0 ∧ k.bi.lastDrill = t)
        let due := first ≤ t ∧ (t - first) % iv = 0 ∧ (e.count.toNat = 0 ∨ (t - first) / iv < e.count.toNat)
        (k.sbUp = false ∨ k.serves q = false ∨ (¬ due ∧ pair = false) → exec cmd s = .next s) ∧
        (k.sbUp = true → k.serves q = true → due ∨ pair = true →
          (k.drillSkip e pair = true → does cmd s (fun z => z.recorded 0x0E4A ∧ z = { k with cl := { k.cl with core := z.cl.core } } ∧
            ∀ x, pageKind x ≠ none → z.cl.core.rd x 0x28 = c.rd x 0x28)) ∧
          (k.drillSkip e pair = false → drillOk e = true → does cmd s (fun z => z.recorded 0x0E4A ∧
            z = { k with cl := { k.cl with core := z.cl.core }, bi := { k.bi with lastDrill := t + 1, lastDrillRg := z.bi.lastDrillRg, fired := z.bi.fired } } ∧
            ksets 0 k.bi.fired z.bi.fired i (kget k.bi.fired 0 i + 1) ∧
            ∃ x, drillPage e.place.toNat e.page.toNat = some x ∧ bitAt (z.cl.core.rd x 0x28) e.bit.toNat = true ∧
              (selectorBits e.page.toNat ≠ 0 → bitsAt (z.cl.core.rd x 0x28) 8 (selectorBits e.page.toNat) = e.arg.toNat))))))

/-! ## Firmware and security -/

/-- The firmware complexes (R409, R413–R421, R462). A complex that crashes or misses its heartbeat halts with FW_CRASH. A halted
complex restarts and serves where its image is intact, else FW_IMAGE is recorded and a block post's bank is copied again; a
Signal Box that restarts fails the loads that ran, and a damaged journal asks for a compute-domain reset. The standby takes
over from a Signal Box that is down. An exchange needs a valid image of the same journal format, switches when the Guard is
free and ends with its probation. A stuck timetable unit's die is relieved, and a hung endpoint gets its response; neither while
no Signal Box serves. Where it says more than these rules it says the model's choices of log entries 33, 243, 245, 246, 247,
275 and 288. -/
def Obligations.FirmwareComplexesCrashRestartAndExchange : Prop :=
  ∀ (s : State),
    let k := s.pk
    let c := k.cl.core
    let t := c.tick.toNat
    let ds := k.devState
    let noLoads (z : Pkg) : Prop := ∀ r, r ∈ z.att.cmds → r.opc ≠ 2
    (∀ (x : Sys2Proof.Complex) (cause : Byte) (pc : W64), ∀ cmd ∈ [Instr.fwCrash x cause pc, .heartbeatMiss x],
      (k.upC x = false → exec cmd s = .next s) ∧
      (k.upC x = true → does cmd s (fun z => z.recorded 0x0E01 ∧ ksets false k.fw.up z.fw.up x false ∧
        ksets false k.fw.halted z.fw.halted x true ∧ ksets false k.fw.hbStop z.fw.hbStop x false ∧
        z = { k with cl := { k.cl with core := z.cl.core }, fw := { k.fw with up := z.fw.up, halted := z.fw.halted, hbStop := z.fw.hbStop } }))) ∧
    (let beats := k.upC k.sb = true ∧ kget k.fw.hbStop false k.sb = false ∧ ∀ i, i < 4 → kget k.sec.coreHalt false (4 * k.sb + i) = false
     (¬ beats → exec .heartbeatAdvance s = .next s) ∧
     (beats → does .heartbeatAdvance s (fun z => z = { k with att := { k.att with cw := z.att.cw } } ∧
       z.cwRd 3 0xC0 = k.cwRd 3 0xC0 + 1))) ∧
    (∀ (x : Sys2Proof.Complex) (d j : Bool),
      let cmd : Instr := .fwRestart x d j
      (kget k.fw.halted false x = false → exec cmd s = .next s) ∧
      (kget k.fw.halted false x = true →
        (d = false → 2 ≤ x.val → does cmd s (fun z => z.recorded 0x0E05 ∧
          z = { k with cl := { k.cl with core := z.cl.core }, fw := { k.fw with banks := z.fw.banks } } ∧
          z.image x (k.bankOf x) = imgBpPart k.running)) ∧
        (d = false → x.val < 2 → x.val = k.sb → k.standbyOk = false → does cmd s (fun z => z.recorded 0x0E05 ∧ z.devState = 0 ∧
          z.fw = { k.fw with prevState := some ds })) ∧
        (d = false → x.val < 2 → x.val ≠ k.sb ∨ k.standbyOk = true → does cmd s (fun z => z.recorded 0x0E05 ∧
          z = { k with cl := { k.cl with core := z.cl.core } })) ∧
        (d = true → does cmd s (fun z => z.recorded 0x0E02 ∧ z.upC x = true ∧ kget z.fw.halted false x = false ∧
          (x.val = k.sb → noLoads z) ∧ (j = false → z.recorded 0x0E06))))) ∧
    (k.upC k.sb = true ∨ k.standbyOk = false → exec .fwTakeover s = .next s) ∧
    (k.upC k.sb = false → k.standbyOk = true → does .fwTakeover s (fun z => z.recorded 0x0E03 ∧ z.recorded 0x0E04 ∧
      z.cl.core.standby = !c.standby ∧ noLoads z)) ∧
    (∀ (tag : W32) (a len : W64) (image : List Byte),
      let cmd : Instr := .fwExchange tag a len image
      let img := image.take len.toNat
      let ends (status res : Nat) : Prop := k.sbUp = true → exec cmd s = .next { s with pk := k.cmdEnd 15 0x2D 15 tag status res }
      let fits := image.length ≥ len.toNat ∧ k.imgReason img = 0
      let may := ds ∈ [2, 3, 4] ∧ k.fw.exch = none
      (¬ may → exec cmd s = .next { s with pk := k.cmdReject 15 0x2D 15 tag stConflict ds }) ∧
      (may → k.standbyOk = false → ends stNoRes 0) ∧ (may → k.standbyOk = true → ¬ fits → ends stFailed 1) ∧
      (may → k.standbyOk = true → fits → imgJournal img ≠ imgJournal k.running → ends stFailed 2) ∧
      (k.sbUp = false → exec cmd s = .next s) ∧
      (k.sbUp = true → may → k.standbyOk = true → fits → imgJournal img = imgJournal k.running → does cmd s (fun z =>
        z = { k with fw := z.fw, att := { k.att with cmds := z.att.cmds } } ∧
        z.fw.exch = some { tag := tag, image := img, state := 3, at_ := t + 1, defers := 0 } ∧
        (∃ r, r ∈ z.att.cmds ∧ r.ring = 15 ∧ r.opc = 0x2D ∧ r.tag = tag) ∧
        ksets 0 k.fw.bank z.fw.bank (1 - k.sb) (1 - kget k.fw.bank 0 (1 - k.sb)) ∧
        ∀ x, x < 6 → z.image x (1 - k.bankOf x) = if x < 2 then img else imgBpPart img))) ∧
    (k.fw.exch = none → exec .exchangeSwitch s = .next s ∧ exec .probationEnd s = .next s) ∧
    (∀ e, k.fw.exch = some e →
      let armed := e.state = 3 ∧ e.at_ ≤ t ∧ k.standbyOk = true ∧ k.sbUp = true
      let proven := e.state = 4 ∧ e.at_ ≤ t ∧ k.upC k.sb = true
      (¬ armed → exec .exchangeSwitch s = .next s) ∧
      (armed → k.guardBusy = true →
        (e.defers + 1 < 1024 → exec .exchangeSwitch s = .next { s with pk := { k with fw := { k.fw with exch := some { e with at_ := t + 1, defers := e.defers + 1 } } } }) ∧
        (1024 ≤ e.defers + 1 → does .exchangeSwitch s (fun z => z.fw.exch = none ∧ z.answers 15 15 stFailed e.tag 3 ∧ z.cl = k.cl))) ∧
      (armed → k.guardBusy = false → does .exchangeSwitch s (fun z => z.cl.core.standby = !c.standby ∧
        z.fw.exch = some { e with state := 4, at_ := t + 1000000 } ∧
        ∀ x ∈ [2, 3, 4, 5], z.upC x = true ∧ z.bankOf x = 1 - k.bankOf x)) ∧
      (¬ proven → exec .probationEnd s = .next s) ∧
      (proven → does .probationEnd s (fun z => z.recorded 0x0E08 ∧ z.answers 15 15 stOk e.tag 0 ∧ z.fw.exch = none ∧
        z.upC (1 - k.sb) = true ∧ z.cl.core.standby = c.standby))) ∧
    (∀ rg : Rgn,
      let last := kget k.fw.guards 0 rg
      let stuck := last ≠ 0 ∧ last + 2 ≤ t ∧ k.mapped (rg.val / 2) = true
      (¬ stuck → exec (.ttProgressCheck rg) s = .next s) ∧
      (stuck → does (.ttProgressCheck rg) s (fun z => z.recorded 0x0E0A ∧ (k.sbUp = true → kget k.bi.dieMirror 0 (rg.val / 2) = 0 →
        ∀ i, i < 10 → z.cl.core.fenced (10 * (rg.val / 2) + i) = true)))) ∧
    (∀ e : HangEndpoint,
      (k.upC k.sb = false → exec (.hangResponse e) s = .next s) ∧
      (k.upC k.sb = true → does (.hangResponse e) s (fun z => z.recorded 0x0E0B ∧
        (k.fw.reset = none → (∀ g, e = .diePosition g → z.devState = 6 ∧ ∃ r, z.fw.reset = some r ∧ r.domain = 0 ∧ r.start = t) ∧
          ((∃ h, e = .hbmController h) ∨ e = .attachLink → z.devState = 6 ∧ ∃ r, z.fw.reset = some r ∧ r.domain = 2 ∧ r.start = t)) ∧
        (∀ q, e = .collectiveEngine q → ∀ i, i ∈ z.fab.runs → i.1 / 64 ≠ q.val) ∧
        (∀ p, e = .fabricPort p → (k.link p).step = .off → z = { k with cl := { k.cl with core := z.cl.core } }) ∧
        (∀ x, e = .firmware x → z.upC x = false))))

/-- A record on its way reaches the block post of its quadrant and the Signal Box: each acts on it while it serves; a complex that
is down keeps it in its buffer of 1,024, a full buffer loses it, and the next record kept there says so (R489). The severity
count of page 0 counts it. A record that is not on its way is none. Where it says more than these rules it says the model's
choices of log entries 64, 220 and 224. -/
def Obligations.ErrorRecordsReachTheirSinks : Prop :=
  ∀ (s : State) (r : ErrRec),
    let k := s.pk
    let c := k.cl.core
    let q := r.place.toNat / 2 ^ 28 % 4
    let sev := r.severity.toNat
    let buffered (z : Pkg) (i : Nat) : Prop :=
      let l := kget k.fw.sinks [] i
      (1024 ≤ l.length → kget z.fw.sinks [] i = l ∧ kget z.fw.lost false i = true) ∧
      (l.length < 1024 → kget z.fw.lost false i = false ∧
        kget z.fw.sinks [] i = l ++ [{ r with loss := r.loss || kget k.fw.lost false i }])
    (r ∉ c.records → exec (.errorRecord r) s = .next s) ∧
    (r ∈ c.records → does (.errorRecord r) s (fun z =>
      (sev < 5 → z.cl.core.rd 0 (0x90 + 4 * sev) = satInc32 (c.rd 0 (0x90 + 4 * sev)) 1) ∧
      (k.upC (2 + q) = false → buffered z q) ∧ (k.upC k.sb = false → buffered z 4) ∧
      (k.upC (2 + q) = false → k.upC k.sb = false →
        z.cl.core.records = c.records.erase r ∧ z = { k with cl := { k.cl with core := z.cl.core }, fw := { k.fw with sinks := z.fw.sinks, lost := z.fw.lost } })))

/-- The JTAG port, debug levels and the generator (R459, R463–R465, R471). A health failure refuses the generator. While VAUX is
down the port does nothing. BYPASS, IDCODE and SAMPLE/PRELOAD need no level; EXTEST takes the pins in ROM_WAIT and FAILED
alone. DBG_CHAL opens a nonce, unless locked out or without the generator; DBG_RESP uses it up and opens a level for a fresh,
signed, permitted response, and every other response counts, the third locking out. Levels 2 and 3 zeroise the identity key
and taint the device. DBG_LOCK closes the level and leaves the taint; a nonce lapses after 60 s. An instruction whose level is
not open is SEC_DENIED. Where it says more than these rules it says the model's choices of log entries 263, 264, 265, 266, 267
and 268. -/
def Obligations.DebugLevelsOpenCloseAndZeroise : Prop :=
  ∀ (s : State),
    let k := s.pk
    let c := k.cl.core
    let t := c.tick.toNat
    let ds := k.devState
    let cored (z : Pkg) : Prop := z = { k with cl := { k.cl with core := z.cl.core } }
    let port (z : Pkg) (ir : Nat) (tdo : List Byte) : Prop :=
      z.sec.ir = ir ∧ z.sec.tdo = tdo ∧ z.sec.extest = false ∧
        z = { k with cl := { k.cl with core := z.cl.core }, sec := z.sec }
    (bitAt (c.rd pageSec 0x40) 26 = false → exec .trngHealthFail s = .next s) ∧
    (bitAt (c.rd pageSec 0x40) 26 = true → does .trngHealthFail s (fun z => cored z ∧ z.recorded 0x0D02 ∧
      bitAt (z.cl.core.rd pageSec 0x40) 26 = false)) ∧
    (k.pw.vaux = false → ∀ (b : Bool) (p : BitVec 64) (r : List Byte) (i : LevelInstr),
      ∀ cmd ∈ [Instr.bypass b, .idcode, .samplePreload p, .extest p, .dbgChal, .dbgResp r, .dbgLock, .unlockedLevelInstruction i],
        exec cmd s = .next s) ∧
    (k.pw.vaux = true →
      (∀ b : Bool, does (.bypass b) s (fun z => port z irBypass [if b then 1 else 0] ∧ z.cl = k.cl)) ∧
      does .idcode s (fun z => port z irIdcode (leBytes 4 Config.idcode.toNat) ∧ z.cl = k.cl) ∧
      (∀ p : BitVec 64,
        does (.samplePreload p) s (fun z => port z irSample (leBytes 8 k.sec.pins.toNat) ∧ z.cl = k.cl ∧ z.sec.pins = p) ∧
        (ds = 0 ∨ ds = 7 → does (.extest p) s (fun z => z = { k with sec := { k.sec with ir := irExtest, tdo := leBytes 8 k.sec.pins.toNat, pins := p, extest := true } })) ∧
        (ds ≠ 0 → ds ≠ 7 → does (.extest p) s (fun z => cored z ∧ z.recorded 0x0D05))) ∧
      (let shut := bitAt (c.rd pageSec 0x40) 25 = true ∨ bitAt (c.rd pageSec 0x40) 26 = false
       (shut → does .dbgChal s (fun z => port z irChal (List.replicate 64 0) ∧ z.cl = k.cl ∧ z.sec.nonce = k.sec.nonce)) ∧
       (¬ shut → does .dbgChal s (fun z => ∃ n, z.sec.nonce = some (n, t) ∧
         port z irChal (leBytes 8 k.bu.fuse.uid.toNat ++ digestBytes n ++ List.replicate 24 0)))) ∧
      does .dbgLock s (fun z => port z irLock [] ∧ z.cl.core.dbgLevel = 0 ∧ z.cl.core.tainted = c.tainted ∧
        z.sec.nonce = k.sec.nonce ∧ z.sec.key = k.sec.key) ∧
      (∀ r : List Byte,
        let level := leAt r 0 1
        let fresh := ∃ n t0, k.sec.nonce = some (n, t0) ∧ r.length = 296 ∧ leAt r 1 7 = 0 ∧ 1 ≤ level ∧ level ≤ 4 ∧
          leAt r 8 32 = n.toNat ∧ t < t0 + 6000000
        let msg := leBytes 8 k.bu.fuse.uid.toNat ++ imgSlice r 8 32 ++ imgSlice r 0 1
        let signed (key : Nat) := Config.sigOk (leNat (imgSlice r key 64)) msg (imgSlice r (key + 64) 64)
        let rom : Bool := decide (Config.sha256 (imgSlice r 40 64) = Config.romKeyHash 4)
        let owned : Bool := decide (k.bu.fuse.owner = some (Config.sha256 (imgSlice r 168 64)))
        let good := fresh ∧ rom = true ∧ k.signersOk level (signed 40 && rom) (signed 168 && owned) = true
        let fails := c.fld pageSec 0x4C 0 2
        (¬ good → does (.dbgResp r) s (fun z => port z irResp [] ∧ z.sec.nonce = none ∧ z.recorded 0x0D07 ∧
          z.cl.core.dbgLevel = c.dbgLevel ∧ z.sec.key = k.sec.key ∧ z.cl.core.fld pageSec 0x4C 0 2 = min 3 (fails + 1) ∧
          (fails = 2 → z.recorded 0x0D08 ∧ bitAt (z.cl.core.rd pageSec 0x40) 25 = true))) ∧
        (good → k.levelOk level = false → does (.dbgResp r) s (fun z => port z irResp [] ∧ z.sec.nonce = none ∧ z.recorded 0x0D05 ∧
          z.cl.core.dbgLevel = c.dbgLevel ∧ z.sec.key = k.sec.key)) ∧
        (good → k.levelOk level = true → does (.dbgResp r) s (fun z => port z irResp [] ∧ z.sec.nonce = none ∧ z.recorded 0x0D06 ∧
          z.cl.core.dbgLevel = level ∧ z.sec.highest = max k.sec.highest level ∧
          (level = 2 ∨ level = 3 → z.sec.key = false ∧ z.sec.blocked = true ∧ z.cl.core.tainted = true ∧ z.recorded 0x0D09) ∧
          (level = 1 ∨ level = 4 → z.sec.key = k.sec.key ∧ z.sec.blocked = k.sec.blocked ∧ z.cl.core.tainted = c.tainted)))) ∧
      (∀ i : LevelInstr,
        let need := (levelOf i).1
        let cmd : Instr := .unlockedLevelInstruction i
        let denied := c.dbgLevel < need ∨ k.levelOk need = false
        (denied → does cmd s (fun z => cored z ∧ z.recorded 0x0D05)) ∧
        (¬ denied → does cmd s (fun z =>
          (∀ x y, i = .haltCore x y → port z 9 [] ∧ ksets false k.sec.coreHalt z.sec.coreHalt (4 * x.val + y.val) true) ∧
          (∀ x y, i = .stepCore x y → port z 10 [] ∧ z.cl = k.cl) ∧
          (i = .scan → ∃ v : W64, port z 11 (leBytes 8 v.toNat)) ∧
          (∀ h, i = .burnOwner h → z.bu = { k.bu with fuse := { k.bu.fuse with owner := some h } } ∧ k.bu.fuse.owner = none ∧
            z.cl = k.cl) ∧
          (∀ p o n, i = .debugRead p o n → p.toNat ≠ pageTime → port z 7 (k.debugBytes p.toNat o.toNat n)) ∧
          (∀ p o n d, i = .debugWrite p o n d → ∃ y : Pkg, y = { k with sec := { k.sec with ir := 8, tdo := [], extest := false } } ∧
            z = y.debugWrite p.toNat o.toNat n d ∧
            ((∀ clu, pageKind p.toNat ≠ some (.msg clu)) → z = y.regWrite p.toNat o.toNat n d) ∧
            ∀ clu, pageKind p.toNat = some (.msg clu) → n.val = 4 → o.toNat % 4 = 0 → k.domainOff (.msg clu) = false →
              0x100 ≤ o.toNat → o.toNat < 0x500 →
              (o.toNat % 32 = 20 → z.cl.core.rd p.toNat o.toNat = BitVec.ofNat 32 (bitsAt d 0 32) &&& 0x8000FFFF) ∧
              (o.toNat % 32 = 24 → z.cl.core.rd p.toNat o.toNat = BitVec.ofNat 32 (bitsAt d 0 32) &&& 0xFFFF)))))) ∧
    (∀ n t0, k.sec.nonce = some (n, t0) →
      (t0 + 6000000 ≤ t → does .nonceLapse s (fun z => z = { k with sec := { k.sec with nonce := none } })) ∧
      (t < t0 + 6000000 → exec .nonceLapse s = .next s)) ∧
    (k.sec.nonce = none → exec .nonceLapse s = .next s)

/-- Attestation (R458, R466–R469). A request is answered while the Signal Box in charge serves, and over the mailbox once it was
submitted; the mailbox then holds the answer with DONE set and BUSY clear. GET_VERSION offers 1.2 and 1.3. A request for
capabilities at another version, for a slot but 0 or a portion beyond the chain, and for an unknown measurement, is an error.
CHALLENGE and signed measurements are signed over a fresh nonce, and are refused while the device is tainted. Where it says
more than these rules it says the model's choices of log entries 35, 262, 263 and 269. -/
def Obligations.AttestationAnswersAndRefusals : Prop :=
  ∀ (s : State) (w : SpdmTransport),
    let k := s.pk
    let c := k.cl.core
    let served := k.upC k.sb = true ∧ (w = .mailbox → bitAt (k.cwRd 273 0x44) 31 = true)
    let answered (z : Pkg) (code p1 p2 : Nat) (signed : Bool) (data : List Byte) : Prop :=
      z.sec.answers = k.sec.answers ++ [⟨w, code, p1, p2, signed, data⟩] ∧
      (w = .mctp → z.att = k.att) ∧
      (w = .mailbox → bitAt (z.cwRd 273 0x44) 30 = true ∧ bitAt (z.cwRd 273 0x44) 31 = false) ∧
      z = { k with cl := { k.cl with core := z.cl.core }, att := { k.att with cw := z.att.cw }, sec := { k.sec with version := z.sec.version, answers := z.sec.answers } }
    let gives (cmd : Instr) (code p1 p2 : Nat) (data : List Byte) : Prop :=
      does cmd s (fun z => answered z code p1 p2 false data)
    let chain := k.certChain
    (¬ served → ∀ (v slot index : Byte) (a h : W32) (off len : BitVec 16) (n : BitVec 256) (g : Bool),
      ∀ cmd ∈ [Instr.getVersion w, .getCapabilities w v, .negotiateAlgorithms w a h, .getDigests w, .getCertificate w slot off len,
          .challenge w slot n, .getMeasurements w g index n], exec cmd s = .next s) ∧
    (served →
      does (.getVersion w) s (fun z => answered z 0x04 0 0 false [0, 2, 0, 0x12, 0, 0x13] ∧
        ksets 0x13 k.sec.version z.sec.version (transportNo w) 0x13) ∧
      (∀ v : Byte,
        (v = 0x12 ∨ v = 0x13 → does (.getCapabilities w v) s (fun z =>
          answered z 0x61 0 0 false [0, 16, 0, 0, 0x16, 0, 0, 0, 0, 8, 0, 0, 0, 8, 0, 0] ∧
          ksets 0x13 k.sec.version z.sec.version (transportNo w) v.toNat)) ∧
        (v ≠ 0x12 → v ≠ 0x13 → gives (.getCapabilities w v) 0x7F 0x41 0 [])) ∧
      (∀ a h : W32, gives (.negotiateAlgorithms w a h) 0x63 0 0
        ([1, 2, 0, 0, 0] ++ leBytes 4 (a.toNat &&& 0x10) ++ leBytes 4 (h.toNat &&& 1))) ∧
      gives (.getDigests w) 0x01 0 1 (digestBytes (Config.sha256 chain)) ∧
      (∀ (slot : Byte) (off len : BitVec 16),
        let n := min (min len.toNat 1600) (chain.length - off.toNat)
        let cmd : Instr := .getCertificate w slot off len
        (slot ≠ 0 ∨ chain.length ≤ off.toNat → gives cmd 0x7F 1 0 []) ∧
        (slot = 0 → off.toNat < chain.length → gives cmd 0x02 0 0
          (leBytes 2 n ++ leBytes 2 (chain.length - off.toNat - n) ++ (chain.drop off.toNat).take n))) ∧
      (∀ (slot : Byte) (nonce : BitVec 256),
        (c.tainted = true → gives (.challenge w slot nonce) 0x7F 4 0 []) ∧
        (c.tainted = false → slot ≠ 0 → gives (.challenge w slot nonce) 0x7F 1 0 []) ∧
        (c.tainted = false → slot = 0 → does (.challenge w slot nonce) s (fun z => ∃ n : BitVec 256,
          let body := digestBytes (Config.sha256 chain) ++ digestBytes n ++ [0, 0]
          answered z 0x03 0 1 true (body ++ (Config.sign (digestBytes nonce ++ body)).take 64)))) ∧
      (∀ (g : Bool) (index : Byte) (nonce : BitVec 256),
        let cmd : Instr := .getMeasurements w g index nonce
        let i := index.toNat
        let blocks := if i = 0 then [] else if i = 0xFF then [1, 2, 3, 4, 5] else [i]
        let taint := g = true ∧ c.tainted = true
        let bad := taint ∨ (5 < i ∧ i ≠ 0xFF)
        (taint → gives cmd 0x7F 4 0 []) ∧
        (¬ taint → bad → gives cmd 0x7F 1 0 []) ∧
        (¬ bad → does cmd s (fun z => ∃ n : BitVec 256,
          let all := blocks.flatMap k.measBlock
          let body := [BitVec.ofNat 8 blocks.length] ++ leBytes 3 all.length ++ all ++ digestBytes n ++ [0, 0]
          answered z 0x60 (if i = 0 then 5 else 0) 0 g (body ++ if g then (Config.sign (digestBytes nonce ++ body)).take 64 else [])))))
end

