-- ==== Sys2Proof/Laws/Clock.lean ====
section
/-!
SUPPORT. What no operation changes of the clock (`Core.clock`: the station tick, the cycle within it, the cycles per tick and
the fused grade): one lemma per operation of the model that leaves it alone.
-/
namespace Sys2Proof.Machine

/-- The clock of the clusters. -/
def Clus.clock (m : Clus) : W64 × Nat × Nat × Grade := m.core.clock

/-- The clock of the package. -/
def Pkg.clock (k : Pkg) : W64 × Nat × Nat × Grade := k.cl.core.clock

theorem Core.clock_mk (tick cycle cpt grade regs win records standby freeCtr) :
    (Core.mk tick cycle cpt grade regs win records standby freeCtr).clock = (tick, cycle, cpt, grade) := (rfl)

theorem Core.clock_eta (c : Core) : (c.tick, c.cycle, c.cpt, c.grade) = c.clock := (rfl)

theorem Clus.clock_mk (core tt mc vc sc sa st msg tab) : (Clus.mk core tt mc vc sc sa st msg tab).clock = core.clock := (rfl)

theorem Pkg.clock_mk (cl net hbm fab att jobs ckpts bi pw bu fw sec) :
    (Pkg.mk cl net hbm fab att jobs ckpts bi pw bu fw sec).clock = cl.clock := (rfl)

theorem Clus.core_clock (m : Clus) : m.core.clock = m.clock := (rfl)

theorem Pkg.cl_clock (k : Pkg) : k.cl.clock = k.clock := (rfl)

theorem Clus.onCore_clock (m : Clus) (f) : (m.onCore f).clock = (f m.core).clock := (rfl)

theorem Pkg.onCore_clock (k : Pkg) (f) : (k.onCore f).clock = (f k.cl.core).clock := (rfl)

theorem Pkg.onClus_clock (k : Pkg) (f) : (k.onClus f).clock = (f k.cl).clock := (rfl)

theorem Pkg.onBi_clock (k : Pkg) (f) : (k.onBi f).clock = k.clock := (rfl)

theorem Pkg.onFab_clock (k : Pkg) (f) : (k.onFab f).clock = k.clock := (rfl)

theorem Pkg.onAtt_clock (k : Pkg) (f) : (k.onAtt f).clock = k.clock := (rfl)

theorem Pkg.onHbm_clock (k : Pkg) (f) : (k.onHbm f).clock = k.clock := (rfl)

theorem Pkg.onBu_clock (k : Pkg) (f) : (k.onBu f).clock = k.clock := (rfl)

theorem Pkg.onPw_clock (k : Pkg) (f) : (k.onPw f).clock = k.clock := (rfl)

theorem Pkg.onNet_clock (k : Pkg) (f) : (k.onNet f).clock = k.clock := (rfl)

theorem Pkg.onFw_clock (k : Pkg) (f) : (k.onFw f).clock = k.clock := (rfl)

theorem Pkg.onSec_clock (k : Pkg) (f) : (k.onSec f).clock = k.clock := (rfl)

theorem iter_clock_Core (n : Nat) (f : Nat → Core → Core) (k : Core) (h : ∀ i x, (f i x).clock = x.clock) :
    (iter n f k).clock = k.clock := by
  induction n with
  | zero => rfl
  | succ n ih => simp [iter, h, ih]

theorem foldl_clock_Core {α : Type} (l : List α) (f : Core → α → Core) (k : Core) (h : ∀ x a, (f x a).clock = x.clock) :
    (l.foldl f k).clock = k.clock := by
  induction l generalizing k with
  | nil => rfl
  | cons a l ih => simp [h, ih]

theorem foldl2_clock_Core {α β : Type} (l : List α) (f : Core × β → α → Core × β) (k : Core × β)
    (h : ∀ x a, (f x a).1.clock = x.1.clock) : (l.foldl f k).1.clock = k.1.clock := by
  induction l generalizing k with
  | nil => rfl
  | cons a l ih => simp [h, ih]

theorem foldl3_clock_Core {α β : Type} (l : List α) (f : β × Core → α → β × Core) (k : β × Core)
    (h : ∀ x a, (f x a).2.clock = x.2.clock) : (l.foldl f k).2.clock = k.2.clock := by
  induction l generalizing k with
  | nil => rfl
  | cons a l ih => simp [h, ih]

theorem ite_clock_Core {c : Prop} [Decidable c] {a b : Core} {d} (h : a.clock = d) (h' : b.clock = d) :
    (if c then a else b).clock = d := by split <;> assumption

theorem foldl_clock_Core' {α : Type} {l : List α} {f : Core → α → Core} {k : Core} {d} (h : ∀ x a, (f x a).clock = x.clock)
    (h' : k.clock = d) : (l.foldl f k).clock = d := (foldl_clock_Core l f k h).trans h'

theorem iter_clock_Core' {n : Nat} {f : Nat → Core → Core} {k : Core} {d} (h : ∀ i x, (f i x).clock = x.clock) (h' : k.clock = d) :
    (iter n f k).clock = d := (iter_clock_Core n f k h).trans h'

theorem foldl2_clock_Core' {α β : Type} {l : List α} {f : Core × β → α → Core × β} {k : Core × β} {d}
    (h : ∀ x a, (f x a).1.clock = x.1.clock) (h' : k.1.clock = d) : (l.foldl f k).1.clock = d :=
  (foldl2_clock_Core l f k h).trans h'

theorem foldl3_clock_Core' {α β : Type} {l : List α} {f : β × Core → α → β × Core} {k : β × Core} {d}
    (h : ∀ x a, (f x a).2.clock = x.2.clock) (h' : k.2.clock = d) : (l.foldl f k).2.clock = d :=
  (foldl3_clock_Core l f k h).trans h'

theorem of_eq_clock_Core {β : Type} {p : β × Core} {a : β} {k : Core} {d} (h : p = (a, k)) (h' : p.2.clock = d) :
    k.clock = d := by subst h; exact h'

theorem of_eq1_clock_Core {β : Type} {p : Core × β} {a : β} {k : Core} {d} (h : p = (k, a)) (h' : p.1.clock = d) :
    k.clock = d := by subst h; exact h'

theorem iter_clock_Clus (n : Nat) (f : Nat → Clus → Clus) (k : Clus) (h : ∀ i x, (f i x).clock = x.clock) :
    (iter n f k).clock = k.clock := by
  induction n with
  | zero => rfl
  | succ n ih => simp [iter, h, ih]

theorem foldl_clock_Clus {α : Type} (l : List α) (f : Clus → α → Clus) (k : Clus) (h : ∀ x a, (f x a).clock = x.clock) :
    (l.foldl f k).clock = k.clock := by
  induction l generalizing k with
  | nil => rfl
  | cons a l ih => simp [h, ih]

theorem foldl2_clock_Clus {α β : Type} (l : List α) (f : Clus × β → α → Clus × β) (k : Clus × β)
    (h : ∀ x a, (f x a).1.clock = x.1.clock) : (l.foldl f k).1.clock = k.1.clock := by
  induction l generalizing k with
  | nil => rfl
  | cons a l ih => simp [h, ih]

theorem foldl3_clock_Clus {α β : Type} (l : List α) (f : β × Clus → α → β × Clus) (k : β × Clus)
    (h : ∀ x a, (f x a).2.clock = x.2.clock) : (l.foldl f k).2.clock = k.2.clock := by
  induction l generalizing k with
  | nil => rfl
  | cons a l ih => simp [h, ih]

theorem ite_clock_Clus {c : Prop} [Decidable c] {a b : Clus} {d} (h : a.clock = d) (h' : b.clock = d) :
    (if c then a else b).clock = d := by split <;> assumption

theorem foldl_clock_Clus' {α : Type} {l : List α} {f : Clus → α → Clus} {k : Clus} {d} (h : ∀ x a, (f x a).clock = x.clock)
    (h' : k.clock = d) : (l.foldl f k).clock = d := (foldl_clock_Clus l f k h).trans h'

theorem iter_clock_Clus' {n : Nat} {f : Nat → Clus → Clus} {k : Clus} {d} (h : ∀ i x, (f i x).clock = x.clock) (h' : k.clock = d) :
    (iter n f k).clock = d := (iter_clock_Clus n f k h).trans h'

theorem foldl2_clock_Clus' {α β : Type} {l : List α} {f : Clus × β → α → Clus × β} {k : Clus × β} {d}
    (h : ∀ x a, (f x a).1.clock = x.1.clock) (h' : k.1.clock = d) : (l.foldl f k).1.clock = d :=
  (foldl2_clock_Clus l f k h).trans h'

theorem foldl3_clock_Clus' {α β : Type} {l : List α} {f : β × Clus → α → β × Clus} {k : β × Clus} {d}
    (h : ∀ x a, (f x a).2.clock = x.2.clock) (h' : k.2.clock = d) : (l.foldl f k).2.clock = d :=
  (foldl3_clock_Clus l f k h).trans h'

theorem of_eq_clock_Clus {β : Type} {p : β × Clus} {a : β} {k : Clus} {d} (h : p = (a, k)) (h' : p.2.clock = d) :
    k.clock = d := by subst h; exact h'

theorem of_eq1_clock_Clus {β : Type} {p : Clus × β} {a : β} {k : Clus} {d} (h : p = (k, a)) (h' : p.1.clock = d) :
    k.clock = d := by subst h; exact h'

theorem iter_clock_Pkg (n : Nat) (f : Nat → Pkg → Pkg) (k : Pkg) (h : ∀ i x, (f i x).clock = x.clock) :
    (iter n f k).clock = k.clock := by
  induction n with
  | zero => rfl
  | succ n ih => simp [iter, h, ih]

theorem foldl_clock_Pkg {α : Type} (l : List α) (f : Pkg → α → Pkg) (k : Pkg) (h : ∀ x a, (f x a).clock = x.clock) :
    (l.foldl f k).clock = k.clock := by
  induction l generalizing k with
  | nil => rfl
  | cons a l ih => simp [h, ih]

theorem foldl2_clock_Pkg {α β : Type} (l : List α) (f : Pkg × β → α → Pkg × β) (k : Pkg × β)
    (h : ∀ x a, (f x a).1.clock = x.1.clock) : (l.foldl f k).1.clock = k.1.clock := by
  induction l generalizing k with
  | nil => rfl
  | cons a l ih => simp [h, ih]

theorem foldl3_clock_Pkg {α β : Type} (l : List α) (f : β × Pkg → α → β × Pkg) (k : β × Pkg)
    (h : ∀ x a, (f x a).2.clock = x.2.clock) : (l.foldl f k).2.clock = k.2.clock := by
  induction l generalizing k with
  | nil => rfl
  | cons a l ih => simp [h, ih]

theorem ite_clock_Pkg {c : Prop} [Decidable c] {a b : Pkg} {d} (h : a.clock = d) (h' : b.clock = d) :
    (if c then a else b).clock = d := by split <;> assumption

theorem foldl_clock_Pkg' {α : Type} {l : List α} {f : Pkg → α → Pkg} {k : Pkg} {d} (h : ∀ x a, (f x a).clock = x.clock)
    (h' : k.clock = d) : (l.foldl f k).clock = d := (foldl_clock_Pkg l f k h).trans h'

theorem iter_clock_Pkg' {n : Nat} {f : Nat → Pkg → Pkg} {k : Pkg} {d} (h : ∀ i x, (f i x).clock = x.clock) (h' : k.clock = d) :
    (iter n f k).clock = d := (iter_clock_Pkg n f k h).trans h'

theorem foldl2_clock_Pkg' {α β : Type} {l : List α} {f : Pkg × β → α → Pkg × β} {k : Pkg × β} {d}
    (h : ∀ x a, (f x a).1.clock = x.1.clock) (h' : k.1.clock = d) : (l.foldl f k).1.clock = d :=
  (foldl2_clock_Pkg l f k h).trans h'

theorem foldl3_clock_Pkg' {α β : Type} {l : List α} {f : β × Pkg → α → β × Pkg} {k : β × Pkg} {d}
    (h : ∀ x a, (f x a).2.clock = x.2.clock) (h' : k.2.clock = d) : (l.foldl f k).2.clock = d :=
  (foldl3_clock_Pkg l f k h).trans h'

theorem of_eq_clock_Pkg {β : Type} {p : β × Pkg} {a : β} {k : Pkg} {d} (h : p = (a, k)) (h' : p.2.clock = d) :
    k.clock = d := by subst h; exact h'

theorem of_eq1_clock_Pkg {β : Type} {p : Pkg × β} {a : β} {k : Pkg} {d} (h : p = (k, a)) (h' : p.1.clock = d) :
    k.clock = d := by subst h; exact h'

theorem getD_clock_Clus {o : Option Clus} {a : Clus} {d} (h : ∀ x, o = some x → x.clock = d) (h' : a.clock = d) :
    (o.getD a).clock = d := by
  cases o with
  | none => exact h'
  | some x => exact h x rfl

theorem getD_clock_Pkg {o : Option Pkg} {a : Pkg} {d} (h : ∀ x, o = some x → x.clock = d) (h' : a.clock = d) :
    (o.getD a).clock = d := by
  cases o with
  | none => exact h'
  | some x => exact h x rfl

theorem Core.wr_clock (k a1 a2 a3) : (Core.wr k a1 a2 a3).clock = k.clock := by
  unfold Core.wr
  simp only [↓Core.clock_eta, ↓Core.clock_mk]

theorem Core.setErr_clock (k a1 a2) : (Core.setErr k a1 a2).clock = k.clock := by
  unfold Core.setErr
  simp only [↓Core.wr_clock]

theorem Core.incSat_clock (k a1 a2 a3) : (Core.incSat k a1 a2 a3).clock = k.clock := by
  unfold Core.incSat
  simp only [↓Core.wr_clock]

theorem Core.wrs_clock (k a1 a2 a3) : (Core.wrs k a1 a2 a3).clock = k.clock := by
  induction a3 generalizing k a2 with
  | nil => rfl
  | cons v vs ih => exact (ih _ _).trans (Core.wr_clock _ _ _ _)

theorem Core.note_clock (k a1 a2 a3 a4 a5) : (Core.note k a1 a2 a3 a4 a5).clock = k.clock := by
  unfold Core.note
  simp only [↓Core.incSat_clock, ↓Core.setErr_clock, ↓Core.wrs_clock, apply_ite Core.clock, ite_self]

theorem Core.record_clock (k a1 a2 a3 a4 a5 a6 a7) : (Core.record k a1 a2 a3 a4 a5 a6 a7).clock = k.clock := by
  unfold Core.record
  simp only [↓Core.clock_eta, ↓Core.clock_mk, ↓Core.note_clock]

theorem Clus.circReject_clock (k a1 a2) : (Clus.circReject k a1 a2).clock = k.clock := by
  unfold Clus.circReject
  simp only [↓Clus.core_clock, ↓Clus.onCore_clock, ↓Core.record_clock]

theorem Clus.setRun_clock (k a1 a2 a3) : (Clus.setRun k a1 a2 a3).clock = k.clock := by
  unfold Clus.setRun
  simp only [↓Clus.clock_mk, ↓Clus.core_clock]

theorem Core.setFld_clock (k a1 a2 a3 a4 a5) : (Core.setFld k a1 a2 a3 a4 a5).clock = k.clock := by
  unfold Core.setFld
  simp only [↓Core.wr_clock]

theorem Core.setCircState_clock (k a1 a2 a3) : (Core.setCircState k a1 a2 a3).clock = k.clock := by
  unfold Core.setCircState
  simp only [↓Core.setFld_clock]

theorem Clus.circAbort_clock (k a1 a2) : (Clus.circAbort k a1 a2).clock = k.clock := by
  unfold Clus.circAbort
  repeat' (first | (simp only [↓Clus.clock_mk, ↓Clus.core_clock, ↓Clus.circReject_clock, ↓Clus.onCore_clock, ↓Clus.setRun_clock, ↓Core.setCircState_clock, apply_ite Clus.clock, ite_self]; done) | with_reducible refine ite_clock_Clus ?_ ?_ | with_reducible refine iter_clock_Clus' (fun _ _ => ?_) ?_ | split | dsimp only)

theorem Clus.abortJob_clock (k a1) : (Clus.abortJob k a1).clock = k.clock := by
  unfold Clus.abortJob
  simp only [↓Clus.circAbort_clock, ↓iter_clock_Clus, implies_true, apply_ite Clus.clock, ite_self]

theorem Clus.stCapture_clock (k a1 a2 a3 a4 a5 a6) : (Clus.stCapture k a1 a2 a3 a4 a5 a6).clock = k.clock := by
  unfold Clus.stCapture
  simp only [↓Clus.core_clock, ↓Clus.onCore_clock, ↓Core.wrs_clock, apply_ite Clus.clock, ite_self]

theorem Clus.stCe_clock (k a1 a2 a3 a4 a5 a6) : (Clus.stCe k a1 a2 a3 a4 a5 a6).clock = k.clock := by
  unfold Clus.stCe
  repeat' (first | with_reducible rfl | (simp only [↓Clus.stCapture_clock, ↓Core.incSat_clock, ↓Core.record_clock, ↓Core.setFld_clock, ↓Core.clock_eta, ↓Core.clock_mk, ↓Clus.clock_mk, ↓Clus.core_clock, ↓Clus.onCore_clock, ↓foldl_clock_Core, ↓iter_clock_Core, ↓foldl_clock_Clus, ↓iter_clock_Clus, implies_true, apply_ite Clus.clock, ite_self]; done) | with_reducible refine ite_clock_Clus ?_ ?_ | with_reducible refine foldl_clock_Clus' (fun _ _ => ?_) ?_ | with_reducible refine iter_clock_Clus' (fun _ _ => ?_) ?_ | with_reducible refine foldl2_clock_Clus' (fun _ _ => ?_) ?_ | with_reducible refine foldl3_clock_Clus' (fun _ _ => ?_) ?_ | with_reducible refine ite_clock_Core ?_ ?_ | with_reducible refine foldl_clock_Core' (fun _ _ => ?_) ?_ | with_reducible refine iter_clock_Core' (fun _ _ => ?_) ?_ | with_reducible refine foldl2_clock_Core' (fun _ _ => ?_) ?_ | with_reducible refine foldl3_clock_Core' (fun _ _ => ?_) ?_ | simp only [↓Clus.stCapture_clock, ↓Core.incSat_clock, ↓Core.record_clock, ↓Core.setFld_clock, ↓Core.clock_eta, ↓Core.clock_mk, ↓Clus.clock_mk, ↓Clus.core_clock, ↓Clus.onCore_clock] | with_reducible refine of_eq_clock_Clus ‹_› ?_ | with_reducible refine of_eq1_clock_Clus ‹_› ?_ | with_reducible refine of_eq_clock_Core ‹_› ?_ | with_reducible refine of_eq1_clock_Core ‹_› ?_ | split | dsimp only)

theorem Clus.stUe_clock (k a1 a2 a3 a4 a5 a6) : (Clus.stUe k a1 a2 a3 a4 a5 a6).clock = k.clock := by
  unfold Clus.stUe
  repeat' (first | with_reducible rfl | (simp only [↓Clus.stCapture_clock, ↓Core.incSat_clock, ↓Core.record_clock, ↓Core.clock_eta, ↓Core.clock_mk, ↓Clus.clock_mk, ↓Clus.core_clock, ↓Clus.onCore_clock, ↓foldl_clock_Core, ↓iter_clock_Core, ↓foldl_clock_Clus, ↓iter_clock_Clus, implies_true, apply_ite Clus.clock, ite_self]; done) | with_reducible refine ite_clock_Clus ?_ ?_ | with_reducible refine foldl_clock_Clus' (fun _ _ => ?_) ?_ | with_reducible refine iter_clock_Clus' (fun _ _ => ?_) ?_ | with_reducible refine foldl2_clock_Clus' (fun _ _ => ?_) ?_ | with_reducible refine foldl3_clock_Clus' (fun _ _ => ?_) ?_ | with_reducible refine ite_clock_Core ?_ ?_ | with_reducible refine foldl_clock_Core' (fun _ _ => ?_) ?_ | with_reducible refine iter_clock_Core' (fun _ _ => ?_) ?_ | with_reducible refine foldl2_clock_Core' (fun _ _ => ?_) ?_ | with_reducible refine foldl3_clock_Core' (fun _ _ => ?_) ?_ | simp only [↓Clus.stCapture_clock, ↓Core.incSat_clock, ↓Core.record_clock, ↓Core.clock_eta, ↓Core.clock_mk, ↓Clus.clock_mk, ↓Clus.core_clock, ↓Clus.onCore_clock] | with_reducible refine of_eq_clock_Clus ‹_› ?_ | with_reducible refine of_eq1_clock_Clus ‹_› ?_ | with_reducible refine of_eq_clock_Core ‹_› ?_ | with_reducible refine of_eq1_clock_Core ‹_› ?_ | split | dsimp only)

theorem Clus.stTouch_clock (k a1 a2 a3 a4 a5 a6) : (Clus.stTouch k a1 a2 a3 a4 a5 a6).clock = k.clock := by
  unfold Clus.stTouch
  repeat' (first | with_reducible rfl | (simp only [↓Clus.stCe_clock, ↓Clus.stUe_clock, ↓Core.clock_eta, ↓Core.clock_mk, ↓Clus.clock_mk, ↓Clus.core_clock, ↓foldl_clock_Core, ↓iter_clock_Core, ↓foldl_clock_Clus, ↓iter_clock_Clus, implies_true, apply_ite Clus.clock, ite_self]; done) | with_reducible refine ite_clock_Clus ?_ ?_ | with_reducible refine foldl_clock_Clus' (fun _ _ => ?_) ?_ | with_reducible refine iter_clock_Clus' (fun _ _ => ?_) ?_ | with_reducible refine foldl2_clock_Clus' (fun _ _ => ?_) ?_ | with_reducible refine foldl3_clock_Clus' (fun _ _ => ?_) ?_ | with_reducible refine ite_clock_Core ?_ ?_ | with_reducible refine foldl_clock_Core' (fun _ _ => ?_) ?_ | with_reducible refine iter_clock_Core' (fun _ _ => ?_) ?_ | with_reducible refine foldl2_clock_Core' (fun _ _ => ?_) ?_ | with_reducible refine foldl3_clock_Core' (fun _ _ => ?_) ?_ | simp only [↓Clus.stCe_clock, ↓Clus.stUe_clock, ↓Core.clock_eta, ↓Core.clock_mk, ↓Clus.clock_mk, ↓Clus.core_clock] | with_reducible refine of_eq_clock_Clus ‹_› ?_ | with_reducible refine of_eq1_clock_Clus ‹_› ?_ | with_reducible refine of_eq_clock_Core ‹_› ?_ | with_reducible refine of_eq1_clock_Core ‹_› ?_ | split | dsimp only)

theorem Clus.stInject_clock (k a1 a2 a3) : (Clus.stInject k a1 a2 a3).clock = k.clock := by
  unfold Clus.stInject
  simp only [↓Clus.clock_mk, ↓Clus.core_clock, ↓Clus.onCore_clock, ↓Core.setFld_clock, apply_ite Clus.clock, ite_self]

theorem Clus.stPutWord_clock (k a1 a2 a3 a4 a5) : (Clus.stPutWord k a1 a2 a3 a4 a5).clock = k.clock := by
  unfold Clus.stPutWord
  simp only [↓Clus.clock_mk, ↓Clus.core_clock, ↓Clus.stInject_clock]

theorem Clus.stPutChunk_clock (k a1 a2 a3 a4 a5) : (Clus.stPutChunk k a1 a2 a3 a4 a5).clock = k.clock := by
  unfold Clus.stPutChunk
  simp only [↓Clus.clock_mk, ↓Clus.core_clock, ↓Clus.stPutWord_clock, apply_ite Clus.clock, ite_self]

theorem Clus.addDig_clock (k a1 a2) : (Clus.addDig k a1 a2).clock = k.clock := by
  unfold Clus.addDig
  simp only [↓Clus.clock_mk, ↓Clus.core_clock, apply_ite Clus.clock, ite_self]

theorem Core.raiseHext_clock (k a1 a2 a3 a4) : (Core.raiseHext k a1 a2 a3 a4).clock = k.clock := by
  unfold Core.raiseHext
  simp only [↓Core.setFld_clock, apply_ite Core.clock, ite_self]

theorem Clus.fail_clock (k a1 a2) : (Clus.fail k a1 a2).clock = k.clock := by
  unfold Clus.fail
  simp only [↓Clus.clock_mk, ↓Clus.core_clock, apply_ite Clus.clock, ite_self]

theorem Clus.fatalEvent_clock (k a1 a2 a3 a4 a5) : (Clus.fatalEvent k a1 a2 a3 a4 a5).clock = k.clock := by
  unfold Clus.fatalEvent
  simp only [↓Clus.core_clock, ↓Clus.fail_clock, ↓Clus.onCore_clock, ↓Core.record_clock]

theorem Clus.causeEvent_clock (k a1 a2 a3 a4) : (Clus.causeEvent k a1 a2 a3 a4).clock = k.clock := by
  unfold Clus.causeEvent
  simp only [↓Clus.core_clock, ↓Clus.fail_clock, ↓Clus.onCore_clock, ↓Core.note_clock]

theorem Clus.storeFault_clock (k a1 a2 a3 a4 a5 a6 a7 a8) : (Clus.storeFault k a1 a2 a3 a4 a5 a6 a7 a8).clock = k.clock := by
  unfold Clus.storeFault
  simp only [↓Clus.core_clock, ↓Clus.causeEvent_clock, ↓Clus.fatalEvent_clock, ↓Clus.onCore_clock, ↓Clus.stCapture_clock, ↓Core.note_clock, ↓Core.record_clock, ↓Core.setFld_clock, apply_ite Clus.clock, ite_self]

theorem Clus.accOp_clock (k a1 a2 a3 a4 a5 a6 a7 a8 a9) :
    (Clus.accOp k a1 a2 a3 a4 a5 a6 a7 a8 a9).2.2.clock = k.clock := by
  unfold Clus.accOp
  repeat' (first | with_reducible rfl | (simp only [↓Clus.addDig_clock, ↓Clus.stPutChunk_clock, ↓Clus.stTouch_clock, ↓Clus.storeFault_clock, ↓Core.raiseHext_clock, ↓Core.clock_eta, ↓Core.clock_mk, ↓Clus.clock_mk, ↓Clus.core_clock, ↓Clus.onCore_clock, ↓foldl_clock_Core, ↓iter_clock_Core, ↓foldl_clock_Clus, ↓iter_clock_Clus, implies_true, apply_ite Clus.clock, ite_self, apply_ite Prod.fst, apply_ite Prod.snd]; done) | with_reducible refine ite_clock_Clus ?_ ?_ | with_reducible refine foldl_clock_Clus' (fun _ _ => ?_) ?_ | with_reducible refine iter_clock_Clus' (fun _ _ => ?_) ?_ | with_reducible refine foldl2_clock_Clus' (fun _ _ => ?_) ?_ | with_reducible refine foldl3_clock_Clus' (fun _ _ => ?_) ?_ | with_reducible refine ite_clock_Core ?_ ?_ | with_reducible refine foldl_clock_Core' (fun _ _ => ?_) ?_ | with_reducible refine iter_clock_Core' (fun _ _ => ?_) ?_ | with_reducible refine foldl2_clock_Core' (fun _ _ => ?_) ?_ | with_reducible refine foldl3_clock_Core' (fun _ _ => ?_) ?_ | simp only [↓Clus.addDig_clock, ↓Clus.stPutChunk_clock, ↓Clus.stTouch_clock, ↓Clus.storeFault_clock, ↓Core.raiseHext_clock, ↓Core.clock_eta, ↓Core.clock_mk, ↓Clus.clock_mk, ↓Clus.core_clock, ↓Clus.onCore_clock] | with_reducible refine of_eq_clock_Clus ‹_› ?_ | with_reducible refine of_eq1_clock_Clus ‹_› ?_ | with_reducible refine of_eq_clock_Core ‹_› ?_ | with_reducible refine of_eq1_clock_Core ‹_› ?_ | split | dsimp only)

theorem Clus.addShadow_clock (k a1 a2 a3) : (Clus.addShadow k a1 a2 a3).clock = k.clock := by
  unfold Clus.addShadow
  simp only [↓Clus.clock_mk, ↓Clus.core_clock]

theorem Clus.setScore_clock (k a1 a2) : (Clus.setScore k a1 a2).clock = k.clock := by
  unfold Clus.setScore
  simp only [↓Clus.clock_mk, ↓Clus.core_clock]

theorem Clus.setPc_clock (k a1 a2) : (Clus.setPc k a1 a2).clock = k.clock := by
  unfold Clus.setPc
  simp only [↓Clus.setScore_clock]

theorem Clus.adv_clock (k a1 a2) : (Clus.adv k a1 a2).clock = k.clock := by
  unfold Clus.adv
  simp only [↓Clus.setPc_clock]

theorem Core.putDesc_clock (k a1 a2 a3 a4) : (Core.putDesc k a1 a2 a3 a4).clock = k.clock := by
  unfold Core.putDesc
  simp only [↓Core.setFld_clock, ↓Core.wr_clock, apply_ite Core.clock, ite_self]

theorem Core.wr8_clock (k a1 a2 a3) : (Core.wr8 k a1 a2 a3).clock = k.clock := by
  unfold Core.wr8
  simp only [↓Core.wr_clock]

theorem Clus.homeTickUpdate_clock (k a1 a2) : (Clus.homeTickUpdate k a1 a2).clock = k.clock := by
  unfold Clus.homeTickUpdate
  repeat' (first | (simp only [↓Clus.core_clock, ↓Clus.onCore_clock, ↓Core.wr8_clock]; done) | with_reducible refine ite_clock_Clus ?_ ?_ | split | dsimp only)

theorem Clus.openDesc_clock (k a1 a2 a3 a4) : (Clus.openDesc k a1 a2 a3 a4).clock = k.clock := by
  unfold Clus.openDesc
  repeat' (first | with_reducible rfl | (simp only [↓Clus.homeTickUpdate_clock, ↓Core.putDesc_clock, ↓Core.setFld_clock, ↓Core.clock_eta, ↓Core.clock_mk, ↓Clus.clock_mk, ↓Clus.core_clock, ↓Clus.onCore_clock, ↓foldl_clock_Core, ↓iter_clock_Core, ↓foldl_clock_Clus, ↓iter_clock_Clus, implies_true, apply_ite Clus.clock, ite_self]; done) | with_reducible refine ite_clock_Clus ?_ ?_ | with_reducible refine foldl_clock_Clus' (fun _ _ => ?_) ?_ | with_reducible refine iter_clock_Clus' (fun _ _ => ?_) ?_ | with_reducible refine foldl2_clock_Clus' (fun _ _ => ?_) ?_ | with_reducible refine foldl3_clock_Clus' (fun _ _ => ?_) ?_ | with_reducible refine ite_clock_Core ?_ ?_ | with_reducible refine foldl_clock_Core' (fun _ _ => ?_) ?_ | with_reducible refine iter_clock_Core' (fun _ _ => ?_) ?_ | with_reducible refine foldl2_clock_Core' (fun _ _ => ?_) ?_ | with_reducible refine foldl3_clock_Core' (fun _ _ => ?_) ?_ | simp only [↓Clus.homeTickUpdate_clock, ↓Core.putDesc_clock, ↓Core.setFld_clock, ↓Core.clock_eta, ↓Core.clock_mk, ↓Clus.clock_mk, ↓Clus.core_clock, ↓Clus.onCore_clock] | with_reducible refine of_eq_clock_Clus ‹_› ?_ | with_reducible refine of_eq1_clock_Clus ‹_› ?_ | with_reducible refine of_eq_clock_Core ‹_› ?_ | with_reducible refine of_eq1_clock_Core ‹_› ?_ | split | dsimp only)

theorem Clus.applyDescs_clock (k a1) : (Clus.applyDescs k a1).clock = k.clock := by
  unfold Clus.applyDescs
  repeat' (first | with_reducible rfl | (simp only [↓Clus.openDesc_clock, ↓Core.clock_eta, ↓Core.clock_mk, ↓Clus.clock_mk, ↓Clus.core_clock, ↓foldl_clock_Core, ↓iter_clock_Core, ↓foldl_clock_Clus, ↓iter_clock_Clus, implies_true, apply_ite Clus.clock, ite_self]; done) | with_reducible refine ite_clock_Clus ?_ ?_ | with_reducible refine foldl_clock_Clus' (fun _ _ => ?_) ?_ | with_reducible refine iter_clock_Clus' (fun _ _ => ?_) ?_ | with_reducible refine foldl2_clock_Clus' (fun _ _ => ?_) ?_ | with_reducible refine foldl3_clock_Clus' (fun _ _ => ?_) ?_ | with_reducible refine ite_clock_Core ?_ ?_ | with_reducible refine foldl_clock_Core' (fun _ _ => ?_) ?_ | with_reducible refine iter_clock_Core' (fun _ _ => ?_) ?_ | with_reducible refine foldl2_clock_Core' (fun _ _ => ?_) ?_ | with_reducible refine foldl3_clock_Core' (fun _ _ => ?_) ?_ | simp only [↓Clus.openDesc_clock, ↓Core.clock_eta, ↓Core.clock_mk, ↓Clus.clock_mk, ↓Clus.core_clock] | with_reducible refine of_eq_clock_Clus ‹_› ?_ | with_reducible refine of_eq1_clock_Clus ‹_› ?_ | with_reducible refine of_eq_clock_Core ‹_› ?_ | with_reducible refine of_eq1_clock_Core ‹_› ?_ | split | dsimp only)

theorem Clus.applyPost_clock (k a1 a2 a3) : (Clus.applyPost k a1 a2 a3).clock = k.clock := by
  unfold Clus.applyPost
  simp only [↓Clus.core_clock, ↓Clus.onCore_clock, ↓Core.setFld_clock]

theorem Clus.faultJob_clock (k a1 a2) : (Clus.faultJob k a1 a2).clock = k.clock := by
  unfold Clus.faultJob
  simp only [↓Clus.clock_mk, ↓Clus.core_clock, apply_ite Clus.clock, ite_self]

theorem Clus.markHome_clock (k a1 a2 a3 a4 a5) : (Clus.markHome k a1 a2 a3 a4 a5).clock = k.clock := by
  unfold Clus.markHome
  repeat' (first | with_reducible rfl | (simp only [↓Core.clock_eta, ↓Core.clock_mk, ↓Clus.clock_mk, ↓Clus.core_clock, ↓foldl_clock_Core, ↓iter_clock_Core, ↓foldl_clock_Clus, ↓iter_clock_Clus, implies_true, apply_ite Clus.clock, ite_self]; done) | with_reducible refine ite_clock_Clus ?_ ?_ | with_reducible refine foldl_clock_Clus' (fun _ _ => ?_) ?_ | with_reducible refine iter_clock_Clus' (fun _ _ => ?_) ?_ | with_reducible refine foldl2_clock_Clus' (fun _ _ => ?_) ?_ | with_reducible refine foldl3_clock_Clus' (fun _ _ => ?_) ?_ | with_reducible refine ite_clock_Core ?_ ?_ | with_reducible refine foldl_clock_Core' (fun _ _ => ?_) ?_ | with_reducible refine iter_clock_Core' (fun _ _ => ?_) ?_ | with_reducible refine foldl2_clock_Core' (fun _ _ => ?_) ?_ | with_reducible refine foldl3_clock_Core' (fun _ _ => ?_) ?_ | simp only [↓Core.clock_eta, ↓Core.clock_mk, ↓Clus.clock_mk, ↓Clus.core_clock] | with_reducible refine of_eq_clock_Clus ‹_› ?_ | with_reducible refine of_eq1_clock_Clus ‹_› ?_ | with_reducible refine of_eq_clock_Core ‹_› ?_ | with_reducible refine of_eq1_clock_Core ‹_› ?_ | split | dsimp only)

theorem Core.setPtrs_clock (k a1 a2 a3 a4 a5 a6 a7) : (Core.setPtrs k a1 a2 a3 a4 a5 a6 a7).clock = k.clock := by
  unfold Core.setPtrs
  simp only [↓Core.setFld_clock]

theorem Core.advRel_clock (k a1 a2 a3 a4 a5) : (Core.advRel k a1 a2 a3 a4 a5).clock = k.clock := by
  unfold Core.advRel
  simp only [↓Core.setPtrs_clock]

theorem Clus.applyRelease_clock (k a1 a2 a3 a4 a5) : (Clus.applyRelease k a1 a2 a3 a4 a5).clock = k.clock := by
  unfold Clus.applyRelease
  repeat' (first | with_reducible rfl | (simp only [↓Clus.faultJob_clock, ↓Clus.stCapture_clock, ↓Core.advRel_clock, ↓Core.record_clock, ↓Core.clock_eta, ↓Core.clock_mk, ↓Clus.clock_mk, ↓Clus.core_clock, ↓Clus.onCore_clock, ↓foldl_clock_Core, ↓iter_clock_Core, ↓foldl_clock_Clus, ↓iter_clock_Clus, implies_true, apply_ite Clus.clock, ite_self]; done) | with_reducible refine ite_clock_Clus ?_ ?_ | with_reducible refine foldl_clock_Clus' (fun _ _ => ?_) ?_ | with_reducible refine iter_clock_Clus' (fun _ _ => ?_) ?_ | with_reducible refine foldl2_clock_Clus' (fun _ _ => ?_) ?_ | with_reducible refine foldl3_clock_Clus' (fun _ _ => ?_) ?_ | with_reducible refine ite_clock_Core ?_ ?_ | with_reducible refine foldl_clock_Core' (fun _ _ => ?_) ?_ | with_reducible refine iter_clock_Core' (fun _ _ => ?_) ?_ | with_reducible refine foldl2_clock_Core' (fun _ _ => ?_) ?_ | with_reducible refine foldl3_clock_Core' (fun _ _ => ?_) ?_ | simp only [↓Clus.faultJob_clock, ↓Clus.stCapture_clock, ↓Core.advRel_clock, ↓Core.record_clock, ↓Core.clock_eta, ↓Core.clock_mk, ↓Clus.clock_mk, ↓Clus.core_clock, ↓Clus.onCore_clock] | with_reducible refine of_eq_clock_Clus ‹_› ?_ | with_reducible refine of_eq1_clock_Clus ‹_› ?_ | with_reducible refine of_eq_clock_Core ‹_› ?_ | with_reducible refine of_eq1_clock_Core ‹_› ?_ | split | dsimp only)

theorem Clus.applySig0_clock (k a1) : (Clus.applySig0 k a1).clock = k.clock := by
  unfold Clus.applySig0
  repeat' (first | (simp only [↓Clus.applyPost_clock, ↓Clus.applyRelease_clock]; done) | with_reducible refine ite_clock_Clus ?_ ?_ | split)

theorem Clus.setXReg_clock (k a1 a2 a3 a4) : (Clus.setXReg k a1 a2 a3 a4).clock = k.clock := by
  unfold Clus.setXReg
  simp only [↓Clus.clock_mk, ↓Clus.core_clock, apply_ite Clus.clock, ite_self]

theorem Clus.sCapture_clock (k a1 a2 a3) : (Clus.sCapture k a1 a2 a3).clock = k.clock := by
  unfold Clus.sCapture
  simp only [↓Clus.core_clock, ↓Clus.onCore_clock, ↓Core.wrs_clock, apply_ite Clus.clock, ite_self]

theorem Clus.sStop_clock (k a1) : (Clus.sStop k a1).clock = k.clock := by
  unfold Clus.sStop
  repeat' (first | with_reducible rfl | (simp only [↓Clus.setScore_clock, ↓Core.setFld_clock, ↓Core.clock_eta, ↓Core.clock_mk, ↓Clus.clock_mk, ↓Clus.core_clock, ↓Clus.onCore_clock, ↓foldl_clock_Core, ↓iter_clock_Core, ↓foldl_clock_Clus, ↓iter_clock_Clus, implies_true, apply_ite Clus.clock, ite_self]; done) | with_reducible refine ite_clock_Clus ?_ ?_ | with_reducible refine foldl_clock_Clus' (fun _ _ => ?_) ?_ | with_reducible refine iter_clock_Clus' (fun _ _ => ?_) ?_ | with_reducible refine foldl2_clock_Clus' (fun _ _ => ?_) ?_ | with_reducible refine foldl3_clock_Clus' (fun _ _ => ?_) ?_ | with_reducible refine ite_clock_Core ?_ ?_ | with_reducible refine foldl_clock_Core' (fun _ _ => ?_) ?_ | with_reducible refine iter_clock_Core' (fun _ _ => ?_) ?_ | with_reducible refine foldl2_clock_Core' (fun _ _ => ?_) ?_ | with_reducible refine foldl3_clock_Core' (fun _ _ => ?_) ?_ | simp only [↓Clus.setScore_clock, ↓Core.setFld_clock, ↓Core.clock_eta, ↓Core.clock_mk, ↓Clus.clock_mk, ↓Clus.core_clock, ↓Clus.onCore_clock] | with_reducible refine of_eq_clock_Clus ‹_› ?_ | with_reducible refine of_eq1_clock_Clus ‹_› ?_ | with_reducible refine of_eq_clock_Core ‹_› ?_ | with_reducible refine of_eq1_clock_Core ‹_› ?_ | split | dsimp only)

theorem Core.setTb_clock (k a1 a2 a3 a4) : (Core.setTb k a1 a2 a3 a4).clock = k.clock := by
  unfold Core.setTb
  simp only [↓Core.wr_clock]

theorem Clus.regWrite_clock (k t a1 a2 a3 a4) (f : Clus → Clus) (ht : ∀ m c, (t m c).clock = m.clock) (hf : ∀ x, (f x).clock = x.clock) :
    (Clus.regWrite k t a1 a2 a3 a4 f).clock = k.clock := by
  unfold Clus.regWrite
  repeat' (first | rfl | (simp only [↓Clus.core_clock, ↓Clus.onCore_clock, ↓Core.setFld_clock, ↓Clus.setXReg_clock, ↓Clus.setScore_clock, ↓Core.record_clock, ↓Core.setTb_clock, ↓Clus.clock_mk, ht, hf]; done) | with_reducible refine ite_clock_Clus ?_ ?_ | with_reducible refine foldl_clock_Clus' (fun _ _ => ?_) ?_ | with_reducible refine iter_clock_Clus' (fun _ _ => ?_) ?_ | with_reducible refine foldl2_clock_Clus' (fun _ _ => ?_) ?_ | with_reducible refine foldl3_clock_Clus' (fun _ _ => ?_) ?_ | with_reducible refine (ht _ _).trans ?_ | simp only [↓Clus.core_clock, ↓Clus.onCore_clock, ↓Core.setFld_clock, ↓Clus.setXReg_clock, ↓Clus.setScore_clock, ↓Core.record_clock, ↓Core.setTb_clock, ↓Clus.clock_mk, ht, hf] | split | dsimp only)

theorem Clus.pilotDone_clock (k t a1 a2 a3 a4 a5 a6) (ht : ∀ m c, (t m c).clock = m.clock) :
    (Clus.pilotDone k t a1 a2 a3 a4 a5 a6).clock = k.clock := by
  unfold Clus.pilotDone
  repeat' (first | rfl | (simp only [↓Clus.core_clock, ↓Clus.addDig_clock, ↓Clus.onCore_clock, ↓Core.setFld_clock, ↓Clus.setXReg_clock, ↓Clus.setScore_clock, ↓Core.record_clock, ↓Core.setTb_clock, ↓Clus.clock_mk]; done) | with_reducible refine (Clus.regWrite_clock _ _ _ _ _ _ _ ht (fun _ => ?_)).trans ?_ | with_reducible refine ite_clock_Clus ?_ ?_ | with_reducible refine foldl_clock_Clus' (fun _ _ => ?_) ?_ | with_reducible refine iter_clock_Clus' (fun _ _ => ?_) ?_ | with_reducible refine foldl2_clock_Clus' (fun _ _ => ?_) ?_ | with_reducible refine foldl3_clock_Clus' (fun _ _ => ?_) ?_ | with_reducible refine (ht _ _).trans ?_ | simp only [↓Clus.core_clock, ↓Clus.addDig_clock, ↓Clus.onCore_clock, ↓Core.setFld_clock, ↓Clus.setXReg_clock, ↓Clus.setScore_clock, ↓Core.record_clock, ↓Core.setTb_clock, ↓Clus.clock_mk] | split | dsimp only)

theorem Clus.tabLogBy_clock (k t a1 a2 a3 a4) (ht : ∀ m c, (t m c).clock = m.clock) :
    (Clus.tabLogBy k t a1 a2 a3 a4).clock = k.clock := by
  unfold Clus.tabLogBy
  repeat' (first | rfl | (simp only [↓Clus.core_clock, ↓Clus.addDig_clock, ↓Clus.onCore_clock, ↓Core.setFld_clock, ↓Clus.setXReg_clock, ↓Clus.setScore_clock, ↓Core.record_clock, ↓Core.setTb_clock, ↓Clus.clock_mk]; done) | with_reducible refine (Clus.pilotDone_clock _ _ _ _ _ _ _ _ ht).trans ?_ | with_reducible refine ite_clock_Clus ?_ ?_ | with_reducible refine foldl_clock_Clus' (fun _ _ => ?_) ?_ | with_reducible refine iter_clock_Clus' (fun _ _ => ?_) ?_ | with_reducible refine foldl2_clock_Clus' (fun _ _ => ?_) ?_ | with_reducible refine foldl3_clock_Clus' (fun _ _ => ?_) ?_ | with_reducible refine (ht _ _).trans ?_ | simp only [↓Clus.core_clock, ↓Clus.addDig_clock, ↓Clus.onCore_clock, ↓Core.setFld_clock, ↓Clus.setXReg_clock, ↓Clus.setScore_clock, ↓Core.record_clock, ↓Core.setTb_clock, ↓Clus.clock_mk] | split | dsimp only)

theorem Clus.tabReleaseBy_clock (k t a1 a2 a3) (ht : ∀ m c, (t m c).clock = m.clock) :
    (Clus.tabReleaseBy k t a1 a2 a3).clock = k.clock := by
  unfold Clus.tabReleaseBy
  repeat' (first | rfl | (simp only [↓Clus.core_clock, ↓Clus.onCore_clock, ↓Core.setFld_clock, ↓Clus.setXReg_clock, ↓Clus.setScore_clock, ↓Core.record_clock, ↓Core.setTb_clock, ↓Clus.clock_mk]; done) | with_reducible refine (Clus.regWrite_clock _ _ _ _ _ _ _ ht (fun _ => ?_)).trans ?_ | with_reducible refine (Clus.tabLogBy_clock _ _ _ _ _ _ ht).trans ?_ | with_reducible refine ite_clock_Clus ?_ ?_ | with_reducible refine foldl_clock_Clus' (fun _ _ => ?_) ?_ | with_reducible refine iter_clock_Clus' (fun _ _ => ?_) ?_ | with_reducible refine foldl2_clock_Clus' (fun _ _ => ?_) ?_ | with_reducible refine foldl3_clock_Clus' (fun _ _ => ?_) ?_ | with_reducible refine (ht _ _).trans ?_ | simp only [↓Clus.core_clock, ↓Clus.onCore_clock, ↓Core.setFld_clock, ↓Clus.setXReg_clock, ↓Clus.setScore_clock, ↓Core.record_clock, ↓Core.setTb_clock, ↓Clus.clock_mk] | split | dsimp only)

theorem Clus.tabCompleteBy_clock (k t a1 a2) (ht : ∀ m c, (t m c).clock = m.clock) :
    (Clus.tabCompleteBy k t a1 a2).clock = k.clock := by
  unfold Clus.tabCompleteBy
  repeat' (first | rfl | (simp only [↓Clus.core_clock, ↓Clus.onCore_clock, ↓Core.setFld_clock, ↓Clus.setXReg_clock, ↓Clus.setScore_clock, ↓Core.record_clock, ↓Core.setTb_clock, ↓Clus.clock_mk]; done) | with_reducible refine (Clus.tabReleaseBy_clock _ _ _ _ _ ht).trans ?_ | with_reducible refine ite_clock_Clus ?_ ?_ | with_reducible refine foldl_clock_Clus' (fun _ _ => ?_) ?_ | with_reducible refine iter_clock_Clus' (fun _ _ => ?_) ?_ | with_reducible refine foldl2_clock_Clus' (fun _ _ => ?_) ?_ | with_reducible refine foldl3_clock_Clus' (fun _ _ => ?_) ?_ | with_reducible refine (ht _ _).trans ?_ | simp only [↓Clus.core_clock, ↓Clus.onCore_clock, ↓Core.setFld_clock, ↓Clus.setXReg_clock, ↓Clus.setScore_clock, ↓Core.record_clock, ↓Core.setTb_clock, ↓Clus.clock_mk] | split | dsimp only)

theorem Clus.tabTryBy_clock (k t a1 a2) (ht : ∀ m c, (t m c).clock = m.clock) :
    (Clus.tabTryBy k t a1 a2).clock = k.clock := by
  unfold Clus.tabTryBy
  repeat' (first | rfl | (simp only [↓Clus.core_clock, ↓Clus.onCore_clock, ↓Core.setFld_clock, ↓Clus.setXReg_clock, ↓Clus.setScore_clock, ↓Core.record_clock, ↓Core.setTb_clock, ↓Clus.clock_mk]; done) | with_reducible refine (Clus.tabCompleteBy_clock _ _ _ _ ht).trans ?_ | with_reducible refine ite_clock_Clus ?_ ?_ | with_reducible refine foldl_clock_Clus' (fun _ _ => ?_) ?_ | with_reducible refine iter_clock_Clus' (fun _ _ => ?_) ?_ | with_reducible refine foldl2_clock_Clus' (fun _ _ => ?_) ?_ | with_reducible refine foldl3_clock_Clus' (fun _ _ => ?_) ?_ | with_reducible refine (ht _ _).trans ?_ | simp only [↓Clus.core_clock, ↓Clus.onCore_clock, ↓Core.setFld_clock, ↓Clus.setXReg_clock, ↓Clus.setScore_clock, ↓Core.record_clock, ↓Core.setTb_clock, ↓Clus.clock_mk] | split | dsimp only)

theorem Clus.thruWithdrawBy_clock (k t a1) (ht : ∀ m c, (t m c).clock = m.clock) :
    (Clus.thruWithdrawBy k t a1).clock = k.clock := by
  unfold Clus.thruWithdrawBy
  repeat' (first | rfl | (simp only [↓Clus.core_clock, ↓Clus.onCore_clock, ↓Core.setFld_clock, ↓Clus.setXReg_clock, ↓Clus.setScore_clock, ↓Core.record_clock, ↓Core.setTb_clock, ↓Clus.clock_mk]; done) | with_reducible refine (Clus.tabTryBy_clock _ _ _ _ ht).trans ?_ | with_reducible refine ite_clock_Clus ?_ ?_ | with_reducible refine foldl_clock_Clus' (fun _ _ => ?_) ?_ | with_reducible refine iter_clock_Clus' (fun _ _ => ?_) ?_ | with_reducible refine foldl2_clock_Clus' (fun _ _ => ?_) ?_ | with_reducible refine foldl3_clock_Clus' (fun _ _ => ?_) ?_ | with_reducible refine (ht _ _).trans ?_ | simp only [↓Clus.core_clock, ↓Clus.onCore_clock, ↓Core.setFld_clock, ↓Clus.setXReg_clock, ↓Clus.setScore_clock, ↓Core.record_clock, ↓Core.setTb_clock, ↓Clus.clock_mk] | split | dsimp only)

theorem Clus.sHaltBy_clock (k t a1) (ht : ∀ m c, (t m c).clock = m.clock) :
    (Clus.sHaltBy k t a1).clock = k.clock := by
  unfold Clus.sHaltBy
  repeat' (first | rfl | (simp only [↓Clus.core_clock, ↓Clus.onCore_clock, ↓Core.setFld_clock, ↓Clus.setXReg_clock, ↓Clus.setScore_clock, ↓Core.record_clock, ↓Core.setTb_clock, ↓Clus.clock_mk, ↓Clus.sStop_clock]; done) | with_reducible refine (Clus.thruWithdrawBy_clock _ _ _ ht).trans ?_ | with_reducible refine ite_clock_Clus ?_ ?_ | with_reducible refine foldl_clock_Clus' (fun _ _ => ?_) ?_ | with_reducible refine iter_clock_Clus' (fun _ _ => ?_) ?_ | with_reducible refine foldl2_clock_Clus' (fun _ _ => ?_) ?_ | with_reducible refine foldl3_clock_Clus' (fun _ _ => ?_) ?_ | with_reducible refine (ht _ _).trans ?_ | simp only [↓Clus.core_clock, ↓Clus.onCore_clock, ↓Core.setFld_clock, ↓Clus.setXReg_clock, ↓Clus.setScore_clock, ↓Core.record_clock, ↓Core.setTb_clock, ↓Clus.clock_mk, ↓Clus.sStop_clock] | split | dsimp only)

theorem Clus.sLockstepBy_clock (k t a1 a2) (ht : ∀ m c, (t m c).clock = m.clock) :
    (Clus.sLockstepBy k t a1 a2).clock = k.clock := by
  unfold Clus.sLockstepBy
  repeat' (first | rfl | (simp only [↓Clus.core_clock, ↓Clus.onCore_clock, ↓Core.setFld_clock, ↓Clus.setXReg_clock, ↓Clus.setScore_clock, ↓Core.record_clock, ↓Core.setTb_clock, ↓Clus.clock_mk, ↓Core.incSat_clock, ↓Clus.causeEvent_clock, ↓Clus.sCapture_clock]; done) | with_reducible refine (Clus.sHaltBy_clock _ _ _ ht).trans ?_ | with_reducible refine ite_clock_Clus ?_ ?_ | with_reducible refine foldl_clock_Clus' (fun _ _ => ?_) ?_ | with_reducible refine iter_clock_Clus' (fun _ _ => ?_) ?_ | with_reducible refine foldl2_clock_Clus' (fun _ _ => ?_) ?_ | with_reducible refine foldl3_clock_Clus' (fun _ _ => ?_) ?_ | with_reducible refine (ht _ _).trans ?_ | simp only [↓Clus.core_clock, ↓Clus.onCore_clock, ↓Core.setFld_clock, ↓Clus.setXReg_clock, ↓Clus.setScore_clock, ↓Core.record_clock, ↓Core.setTb_clock, ↓Clus.clock_mk, ↓Core.incSat_clock, ↓Clus.causeEvent_clock, ↓Clus.sCapture_clock] | split | dsimp only)

theorem Clus.sTrip_clock (n : Nat) (k c) : (Clus.sTrip n k c).clock = k.clock := by
  induction n generalizing k c with
  | zero => rfl
  | succ n ih => exact Clus.sLockstepBy_clock _ _ _ _ ih

theorem Clus.trip_clock (k c) : (Clus.trip k c).clock = k.clock := Clus.sTrip_clock ..

theorem Clus.tabLog_clock (k a1 a2 a3 a4) : (Clus.tabLog k a1 a2 a3 a4).clock = k.clock :=
  Clus.tabLogBy_clock _ _ _ _ _ _ (ht := Clus.trip_clock)

theorem Clus.tabRelease_clock (k a1 a2 a3) : (Clus.tabRelease k a1 a2 a3).clock = k.clock :=
  Clus.tabReleaseBy_clock _ _ _ _ _ (ht := Clus.trip_clock)

theorem Clus.tabComplete_clock (k a1 a2) : (Clus.tabComplete k a1 a2).clock = k.clock :=
  Clus.tabCompleteBy_clock _ _ _ _ (ht := Clus.trip_clock)

theorem Clus.tabTry_clock (k a1 a2) : (Clus.tabTry k a1 a2).clock = k.clock :=
  Clus.tabTryBy_clock _ _ _ _ (ht := Clus.trip_clock)

theorem Clus.tabArrive_clock (k a1 a2) : (Clus.tabArrive k a1 a2).2.clock = k.clock := by
  unfold Clus.tabArrive
  simp only [↓Clus.core_clock, ↓Clus.onCore_clock, ↓Clus.tabTry_clock, ↓Core.setTb_clock]

theorem Clus.doArrive_clock (k a1 a2 a3 a4) : (Clus.doArrive k a1 a2 a3 a4).clock = k.clock := by
  unfold Clus.doArrive
  repeat' (first | with_reducible rfl | (simp only [↓Clus.setScore_clock, ↓Clus.tabArrive_clock, ↓Clus.tabLog_clock, ↓Core.clock_eta, ↓Core.clock_mk, ↓Clus.clock_mk, ↓Clus.core_clock, ↓foldl_clock_Core, ↓iter_clock_Core, ↓foldl_clock_Clus, ↓iter_clock_Clus, implies_true, apply_ite Clus.clock, ite_self, apply_ite Prod.fst, apply_ite Prod.snd]; done) | with_reducible refine ite_clock_Clus ?_ ?_ | with_reducible refine foldl_clock_Clus' (fun _ _ => ?_) ?_ | with_reducible refine iter_clock_Clus' (fun _ _ => ?_) ?_ | with_reducible refine foldl2_clock_Clus' (fun _ _ => ?_) ?_ | with_reducible refine foldl3_clock_Clus' (fun _ _ => ?_) ?_ | with_reducible refine ite_clock_Core ?_ ?_ | with_reducible refine foldl_clock_Core' (fun _ _ => ?_) ?_ | with_reducible refine iter_clock_Core' (fun _ _ => ?_) ?_ | with_reducible refine foldl2_clock_Core' (fun _ _ => ?_) ?_ | with_reducible refine foldl3_clock_Core' (fun _ _ => ?_) ?_ | simp only [↓Clus.setScore_clock, ↓Clus.tabArrive_clock, ↓Clus.tabLog_clock, ↓Core.clock_eta, ↓Core.clock_mk, ↓Clus.clock_mk, ↓Clus.core_clock] | with_reducible refine of_eq_clock_Clus ‹_› ?_ | with_reducible refine of_eq1_clock_Clus ‹_› ?_ | with_reducible refine of_eq_clock_Core ‹_› ?_ | with_reducible refine of_eq1_clock_Core ‹_› ?_ | split | dsimp only)

theorem Core.setRing_clock (k a1 a2 a3 a4 a5) : (Core.setRing k a1 a2 a3 a4 a5).clock = k.clock := by
  unfold Core.setRing
  simp only [↓Core.wr_clock]

theorem Clus.closeChannel_clock (k a1 a2) : (Clus.closeChannel k a1 a2).clock = k.clock := by
  unfold Clus.closeChannel
  simp only [↓Clus.core_clock, ↓Clus.onCore_clock, ↓Core.setFld_clock, ↓Core.setRing_clock]

theorem Clus.closeJob_clock (k a1 a2) : (Clus.closeJob k a1 a2).clock = k.clock := by
  unfold Clus.closeJob
  simp only [↓Clus.closeChannel_clock, ↓iter_clock_Clus, implies_true, apply_ite Clus.clock, ite_self]

theorem Clus.sCharge_clock (k a1 a2 a3 a4 a5) : (Clus.sCharge k a1 a2 a3 a4 a5).clock = k.clock := by
  unfold Clus.sCharge
  repeat' (first | (simp only [↓Clus.core_clock, ↓Clus.closeJob_clock, ↓Clus.fail_clock, ↓Clus.fatalEvent_clock, ↓Clus.faultJob_clock, ↓Clus.onCore_clock, ↓Core.record_clock, apply_ite Clus.clock, ite_self]; done) | with_reducible refine ite_clock_Clus ?_ ?_ | split | dsimp only)

theorem Clus.tabFault_clock (k a1 a2 a3 a4) : (Clus.tabFault k a1 a2 a3 a4).clock = k.clock := by
  unfold Clus.tabFault
  simp only [↓Clus.sCharge_clock]

theorem Clus.arriveResume_clock (k a1) : (Clus.arriveResume k a1).clock = k.clock := by
  unfold Clus.arriveResume
  repeat' (first | (simp only [↓Clus.doArrive_clock, ↓Clus.setScore_clock, ↓Clus.tabFault_clock, apply_ite Clus.clock, ite_self]; done) | with_reducible refine ite_clock_Clus ?_ ?_ | split | dsimp only)

theorem Clus.backPressure_clock (k a1 a2 a3 a4) : (Clus.backPressure k a1 a2 a3 a4).clock = k.clock := by
  unfold Clus.backPressure
  simp only [↓Clus.core_clock, ↓Clus.onCore_clock, ↓Core.incSat_clock, ↓Core.wrs_clock, apply_ite Clus.clock, ite_self]

theorem Clus.thruWithdraw_clock (k a1) : (Clus.thruWithdraw k a1).clock = k.clock :=
  Clus.thruWithdrawBy_clock _ _ _ (ht := Clus.trip_clock)

theorem Clus.withdrawOn_clock (k a1) : (Clus.withdrawOn k a1).clock = k.clock := by
  unfold Clus.withdrawOn
  repeat' (first | (simp only [↓Clus.thruWithdraw_clock, apply_ite Clus.clock, ite_self]; done) | with_reducible refine ite_clock_Clus ?_ ?_ | split)

theorem Clus.sHalt_clock (k a1) : (Clus.sHalt k a1).clock = k.clock :=
  Clus.sHaltBy_clock _ _ _ (ht := Clus.trip_clock)

theorem Clus.badChannel_clock (k a1 a2) : (Clus.badChannel k a1 a2).clock = k.clock := by
  unfold Clus.badChannel
  simp only [↓Clus.fatalEvent_clock, ↓Clus.sHalt_clock]

theorem Core.zero_clock (k a1 a2 a3) : (Core.zero k a1 a2 a3).clock = k.clock := by
  unfold Core.zero
  simp only [↓Core.wr_clock, ↓iter_clock_Core, implies_true]

theorem Clus.bankClr_clock (k a1 a2) : (Clus.bankClr k a1 a2).clock = k.clock := by
  unfold Clus.bankClr
  simp only [↓Clus.clock_mk, ↓Clus.core_clock, ↓Clus.onCore_clock, ↓Core.zero_clock]

theorem Clus.channelWrite_clock (k a1 a2 a3) : (Clus.channelWrite k a1 a2 a3).clock = k.clock := by
  unfold Clus.channelWrite
  simp only [↓Clus.core_clock, ↓Clus.onCore_clock, ↓Core.record_clock, ↓Core.setErr_clock, ↓Core.setRing_clock, ↓Core.wr_clock, apply_ite Clus.clock, apply_ite Core.clock, ite_self]

theorem Clus.chanWords_clock (k a1 a2 a3) : (Clus.chanWords k a1 a2 a3).clock = k.clock := by
  unfold Clus.chanWords
  simp only [↓Clus.channelWrite_clock]

theorem Core.wrMask_clock (k a1 a2 a3 a4) : (Core.wrMask k a1 a2 a3 a4).clock = k.clock := by
  unfold Core.wrMask
  simp only [↓Core.wr_clock]

theorem Clus.circStart_clock (k a1 a2) : (Clus.circStart k a1 a2).clock = k.clock := by
  unfold Clus.circStart
  simp only [↓Clus.clock_mk, ↓Clus.core_clock, ↓Clus.circReject_clock, apply_ite Clus.clock, ite_self]

theorem Clus.circStop_clock (k a1 a2) : (Clus.circStop k a1 a2).clock = k.clock := by
  unfold Clus.circStop
  repeat' (first | (simp only [↓Clus.core_clock, ↓Clus.circReject_clock, ↓Clus.onCore_clock, ↓Core.setCircState_clock, apply_ite Clus.clock, ite_self]; done) | with_reducible refine ite_clock_Clus ?_ ?_ | split)

theorem Clus.circSuspend_clock (k a1 a2) : (Clus.circSuspend k a1 a2).clock = k.clock := by
  unfold Clus.circSuspend
  simp only [↓Clus.clock_mk, ↓Clus.core_clock, ↓Clus.circReject_clock, ↓Clus.onCore_clock, ↓Core.setCircState_clock, apply_ite Clus.clock, ite_self]

theorem Clus.circResume_clock (k a1 a2) : (Clus.circResume k a1 a2).clock = k.clock := by
  unfold Clus.circResume
  simp only [↓Clus.core_clock, ↓Clus.circReject_clock, ↓Clus.onCore_clock, ↓Core.setCircState_clock, apply_ite Clus.clock, ite_self]

theorem Clus.circCtrl_clock (k a1 a2 a3) : (Clus.circCtrl k a1 a2 a3).clock = k.clock := by
  unfold Clus.circCtrl
  repeat' (first | (simp only [↓Clus.core_clock, ↓Clus.circAbort_clock, ↓Clus.circResume_clock, ↓Clus.circStart_clock, ↓Clus.circStop_clock, ↓Clus.circSuspend_clock, ↓Clus.onCore_clock, ↓Core.wrMask_clock]; done) | with_reducible refine ite_clock_Clus ?_ ?_ | split)

theorem Core.setHold_clock (k a1 a2 a3 a4 a5) : (Core.setHold k a1 a2 a3 a4 a5).clock = k.clock := by
  unfold Core.setHold
  simp only [↓Core.setFld_clock]

theorem Core.setEntryState_clock (k a1 a2 a3) : (Core.setEntryState k a1 a2 a3).clock = k.clock := by
  unfold Core.setEntryState
  simp only [↓Core.setFld_clock]

theorem Core.setCircCur_clock (k a1 a2 a3) : (Core.setCircCur k a1 a2 a3).clock = k.clock := by
  unfold Core.setCircCur
  simp only [↓Core.setFld_clock]

theorem Clus.circSettle_clock (k a1 a2 a3) : (Clus.circSettle k a1 a2 a3).clock = k.clock := by
  unfold Clus.circSettle
  repeat' (first | (simp only [↓Clus.clock_mk, ↓Clus.core_clock, ↓Clus.onCore_clock, ↓Clus.setRun_clock, ↓Core.setCircCur_clock, ↓Core.setCircState_clock, ↓Core.setEntryState_clock, ↓Core.setHold_clock, apply_ite Clus.clock, apply_ite Core.clock, ite_self]; done) | with_reducible refine ite_clock_Clus ?_ ?_ | with_reducible refine foldl_clock_Clus' (fun _ _ => ?_) ?_ | with_reducible refine iter_clock_Clus' (fun _ _ => ?_) ?_ | simp only [↓Clus.clock_mk, ↓Clus.core_clock, ↓Clus.onCore_clock, ↓Core.setCircState_clock, ↓Core.setEntryState_clock, ↓Core.setHold_clock, apply_ite Clus.clock, ite_self] | split | dsimp only)

theorem Clus.noteRead_clock (k a1 a2 a3 a4) : (Clus.noteRead k a1 a2 a3 a4).clock = k.clock := by
  unfold Clus.noteRead
  simp only [↓Clus.clock_mk, ↓Clus.core_clock]

theorem Clus.readOp_clock (k a1 a2 a3 a4 a5 a6 a7) : (Clus.readOp k a1 a2 a3 a4 a5 a6 a7).2.2.clock = k.clock := by
  unfold Clus.readOp
  repeat' (first | with_reducible rfl | (simp only [↓Clus.noteRead_clock, ↓Clus.stTouch_clock, ↓Clus.storeFault_clock, ↓Core.clock_eta, ↓Core.clock_mk, ↓Clus.clock_mk, ↓Clus.core_clock, ↓foldl_clock_Core, ↓iter_clock_Core, ↓foldl_clock_Clus, ↓iter_clock_Clus, implies_true, apply_ite Clus.clock, ite_self, apply_ite Prod.fst, apply_ite Prod.snd]; done) | with_reducible refine ite_clock_Clus ?_ ?_ | with_reducible refine foldl_clock_Clus' (fun _ _ => ?_) ?_ | with_reducible refine iter_clock_Clus' (fun _ _ => ?_) ?_ | with_reducible refine foldl2_clock_Clus' (fun _ _ => ?_) ?_ | with_reducible refine foldl3_clock_Clus' (fun _ _ => ?_) ?_ | with_reducible refine ite_clock_Core ?_ ?_ | with_reducible refine foldl_clock_Core' (fun _ _ => ?_) ?_ | with_reducible refine iter_clock_Core' (fun _ _ => ?_) ?_ | with_reducible refine foldl2_clock_Core' (fun _ _ => ?_) ?_ | with_reducible refine foldl3_clock_Core' (fun _ _ => ?_) ?_ | simp only [↓Clus.noteRead_clock, ↓Clus.stTouch_clock, ↓Clus.storeFault_clock, ↓Core.clock_eta, ↓Core.clock_mk, ↓Clus.clock_mk, ↓Clus.core_clock] | with_reducible refine of_eq_clock_Clus ‹_› ?_ | with_reducible refine of_eq1_clock_Clus ‹_› ?_ | with_reducible refine of_eq_clock_Core ‹_› ?_ | with_reducible refine of_eq1_clock_Core ‹_› ?_ | split | dsimp only)

theorem Clus.copyAccGranule_clock (k a1 a2 a3 a4 a5 a6 a7 a8) : (Clus.copyAccGranule k a1 a2 a3 a4 a5 a6 a7 a8).2.clock = k.clock := by
  unfold Clus.copyAccGranule
  repeat' (first | (simp only [↓Clus.accOp_clock, ↓Clus.readOp_clock]; done) | with_reducible refine ite_clock_Clus ?_ ?_ | with_reducible refine foldl_clock_Clus' (fun _ _ => ?_) ?_ | with_reducible refine iter_clock_Clus' (fun _ _ => ?_) ?_ | simp only [↓Core.clock_eta] | split | dsimp only)

theorem Core.winWr_clock (k a1 a2) : (Core.winWr k a1 a2).clock = k.clock := by
  unfold Core.winWr
  simp only [↓Core.clock_eta, ↓Core.clock_mk]

theorem Clus.setHeld_clock (k a1 a2) : (Clus.setHeld k a1 a2).clock = k.clock := by
  unfold Clus.setHeld
  simp only [↓Clus.clock_mk, ↓Clus.core_clock]

theorem Clus.setCfg_clock (k a1 a2 a3) : (Clus.setCfg k a1 a2 a3).clock = k.clock := by
  unfold Clus.setCfg
  simp only [↓Clus.clock_mk, ↓Clus.core_clock, ↓Clus.onCore_clock, ↓Core.wrs_clock]

theorem Clus.copyCfgs_clock (k a1 a2) : (Clus.copyCfgs k a1 a2).clock = k.clock := by
  unfold Clus.copyCfgs
  repeat' (first | with_reducible rfl | (simp only [↓Clus.setCfg_clock, ↓Core.clock_eta, ↓Core.clock_mk, ↓Clus.clock_mk, ↓Clus.core_clock, ↓foldl_clock_Core, ↓iter_clock_Core, ↓foldl_clock_Clus, ↓iter_clock_Clus, implies_true, apply_ite Clus.clock, ite_self]; done) | with_reducible refine ite_clock_Clus ?_ ?_ | with_reducible refine foldl_clock_Clus' (fun _ _ => ?_) ?_ | with_reducible refine iter_clock_Clus' (fun _ _ => ?_) ?_ | with_reducible refine foldl2_clock_Clus' (fun _ _ => ?_) ?_ | with_reducible refine foldl3_clock_Clus' (fun _ _ => ?_) ?_ | with_reducible refine ite_clock_Core ?_ ?_ | with_reducible refine foldl_clock_Core' (fun _ _ => ?_) ?_ | with_reducible refine iter_clock_Core' (fun _ _ => ?_) ?_ | with_reducible refine foldl2_clock_Core' (fun _ _ => ?_) ?_ | with_reducible refine foldl3_clock_Core' (fun _ _ => ?_) ?_ | simp only [↓Clus.setCfg_clock, ↓Core.clock_eta, ↓Core.clock_mk, ↓Clus.clock_mk, ↓Clus.core_clock] | with_reducible refine of_eq_clock_Clus ‹_› ?_ | with_reducible refine of_eq1_clock_Clus ‹_› ?_ | with_reducible refine of_eq_clock_Core ‹_› ?_ | with_reducible refine of_eq1_clock_Core ‹_› ?_ | split | dsimp only)

theorem Clus.copyChannel_clock (k a1 a2 a3) : (Clus.copyChannel k a1 a2 a3).clock = k.clock := by
  unfold Clus.copyChannel
  repeat' (first | with_reducible rfl | (simp only [↓Core.winWr_clock, ↓Core.wrs_clock, ↓Core.clock_eta, ↓Core.clock_mk, ↓Clus.clock_mk, ↓Clus.core_clock, ↓Clus.onCore_clock, ↓foldl_clock_Core, ↓iter_clock_Core, ↓foldl_clock_Clus, ↓iter_clock_Clus, implies_true, apply_ite Clus.clock, ite_self]; done) | with_reducible refine ite_clock_Clus ?_ ?_ | with_reducible refine foldl_clock_Clus' (fun _ _ => ?_) ?_ | with_reducible refine iter_clock_Clus' (fun _ _ => ?_) ?_ | with_reducible refine foldl2_clock_Clus' (fun _ _ => ?_) ?_ | with_reducible refine foldl3_clock_Clus' (fun _ _ => ?_) ?_ | with_reducible refine ite_clock_Core ?_ ?_ | with_reducible refine foldl_clock_Core' (fun _ _ => ?_) ?_ | with_reducible refine iter_clock_Core' (fun _ _ => ?_) ?_ | with_reducible refine foldl2_clock_Core' (fun _ _ => ?_) ?_ | with_reducible refine foldl3_clock_Core' (fun _ _ => ?_) ?_ | simp only [↓Core.winWr_clock, ↓Core.wrs_clock, ↓Core.clock_eta, ↓Core.clock_mk, ↓Clus.clock_mk, ↓Clus.core_clock, ↓Clus.onCore_clock] | with_reducible refine of_eq_clock_Clus ‹_› ?_ | with_reducible refine of_eq1_clock_Clus ‹_› ?_ | with_reducible refine of_eq_clock_Core ‹_› ?_ | with_reducible refine of_eq1_clock_Core ‹_› ?_ | split | dsimp only)

theorem Clus.ringLost_clock (k a1 a2 a3) : (Clus.ringLost k a1 a2 a3).clock = k.clock := by
  unfold Clus.ringLost
  repeat' (first | with_reducible rfl | (simp only [↓Clus.faultJob_clock, ↓Core.record_clock, ↓Core.setRing_clock, ↓Core.wrs_clock, ↓Core.clock_eta, ↓Core.clock_mk, ↓Clus.clock_mk, ↓Clus.core_clock, ↓Clus.onCore_clock, ↓foldl_clock_Core, ↓iter_clock_Core, ↓foldl_clock_Clus, ↓iter_clock_Clus, implies_true, apply_ite Clus.clock, ite_self]; done) | with_reducible refine ite_clock_Clus ?_ ?_ | with_reducible refine foldl_clock_Clus' (fun _ _ => ?_) ?_ | with_reducible refine iter_clock_Clus' (fun _ _ => ?_) ?_ | with_reducible refine foldl2_clock_Clus' (fun _ _ => ?_) ?_ | with_reducible refine foldl3_clock_Clus' (fun _ _ => ?_) ?_ | with_reducible refine ite_clock_Core ?_ ?_ | with_reducible refine foldl_clock_Core' (fun _ _ => ?_) ?_ | with_reducible refine iter_clock_Core' (fun _ _ => ?_) ?_ | with_reducible refine foldl2_clock_Core' (fun _ _ => ?_) ?_ | with_reducible refine foldl3_clock_Core' (fun _ _ => ?_) ?_ | simp only [↓Clus.faultJob_clock, ↓Core.record_clock, ↓Core.setRing_clock, ↓Core.wrs_clock, ↓Core.clock_eta, ↓Core.clock_mk, ↓Clus.clock_mk, ↓Clus.core_clock, ↓Clus.onCore_clock] | with_reducible refine of_eq_clock_Clus ‹_› ?_ | with_reducible refine of_eq1_clock_Clus ‹_› ?_ | with_reducible refine of_eq_clock_Core ‹_› ?_ | with_reducible refine of_eq1_clock_Core ‹_› ?_ | split | dsimp only)

theorem Clus.copyDebug_clock (k a1 a2 a3) : (Clus.copyDebug k a1 a2 a3).clock = k.clock := by
  unfold Clus.copyDebug
  repeat' (first | with_reducible rfl | (simp only [↓Clus.copyCfgs_clock, ↓Clus.copyChannel_clock, ↓Clus.ringLost_clock, ↓Clus.setHeld_clock, ↓Core.clock_eta, ↓Core.clock_mk, ↓Clus.clock_mk, ↓Clus.core_clock, ↓foldl_clock_Core, ↓iter_clock_Core, ↓foldl_clock_Clus, ↓iter_clock_Clus, implies_true, apply_ite Clus.clock, ite_self]; done) | with_reducible refine ite_clock_Clus ?_ ?_ | with_reducible refine foldl_clock_Clus' (fun _ _ => ?_) ?_ | with_reducible refine iter_clock_Clus' (fun _ _ => ?_) ?_ | with_reducible refine foldl2_clock_Clus' (fun _ _ => ?_) ?_ | with_reducible refine foldl3_clock_Clus' (fun _ _ => ?_) ?_ | with_reducible refine ite_clock_Core ?_ ?_ | with_reducible refine foldl_clock_Core' (fun _ _ => ?_) ?_ | with_reducible refine iter_clock_Core' (fun _ _ => ?_) ?_ | with_reducible refine foldl2_clock_Core' (fun _ _ => ?_) ?_ | with_reducible refine foldl3_clock_Core' (fun _ _ => ?_) ?_ | simp only [↓Clus.copyCfgs_clock, ↓Clus.copyChannel_clock, ↓Clus.ringLost_clock, ↓Clus.setHeld_clock, ↓Core.clock_eta, ↓Core.clock_mk, ↓Clus.clock_mk, ↓Clus.core_clock] | with_reducible refine of_eq_clock_Clus ‹_› ?_ | with_reducible refine of_eq1_clock_Clus ‹_› ?_ | with_reducible refine of_eq_clock_Core ‹_› ?_ | with_reducible refine of_eq1_clock_Core ‹_› ?_ | split | dsimp only)

theorem Clus.copyDescs_clock (k a1 a2) : (Clus.copyDescs k a1 a2).clock = k.clock := by
  unfold Clus.copyDescs
  repeat' (first | with_reducible rfl | (simp only [↓Core.setFld_clock, ↓Core.wrs_clock, ↓Core.clock_eta, ↓Core.clock_mk, ↓Clus.clock_mk, ↓Clus.core_clock, ↓Clus.onCore_clock, ↓foldl_clock_Core, ↓iter_clock_Core, ↓foldl_clock_Clus, ↓iter_clock_Clus, implies_true, apply_ite Clus.clock, ite_self]; done) | with_reducible refine ite_clock_Clus ?_ ?_ | with_reducible refine foldl_clock_Clus' (fun _ _ => ?_) ?_ | with_reducible refine iter_clock_Clus' (fun _ _ => ?_) ?_ | with_reducible refine foldl2_clock_Clus' (fun _ _ => ?_) ?_ | with_reducible refine foldl3_clock_Clus' (fun _ _ => ?_) ?_ | with_reducible refine ite_clock_Core ?_ ?_ | with_reducible refine foldl_clock_Core' (fun _ _ => ?_) ?_ | with_reducible refine iter_clock_Core' (fun _ _ => ?_) ?_ | with_reducible refine foldl2_clock_Core' (fun _ _ => ?_) ?_ | with_reducible refine foldl3_clock_Core' (fun _ _ => ?_) ?_ | simp only [↓Core.setFld_clock, ↓Core.wrs_clock, ↓Core.clock_eta, ↓Core.clock_mk, ↓Clus.clock_mk, ↓Clus.core_clock, ↓Clus.onCore_clock] | with_reducible refine of_eq_clock_Clus ‹_› ?_ | with_reducible refine of_eq1_clock_Clus ‹_› ?_ | with_reducible refine of_eq_clock_Core ‹_› ?_ | with_reducible refine of_eq1_clock_Core ‹_› ?_ | split | dsimp only)

theorem Clus.writeOp_clock (k a1 a2 a3 a4 a5 a6 a7) : (Clus.writeOp k a1 a2 a3 a4 a5 a6 a7).2.clock = k.clock := by
  unfold Clus.writeOp
  repeat' (first | with_reducible rfl | (simp only [↓Clus.addDig_clock, ↓Clus.markHome_clock, ↓Clus.stPutChunk_clock, ↓Clus.storeFault_clock, ↓Core.raiseHext_clock, ↓Core.clock_eta, ↓Core.clock_mk, ↓Clus.clock_mk, ↓Clus.core_clock, ↓Clus.onCore_clock, ↓foldl_clock_Core, ↓iter_clock_Core, ↓foldl_clock_Clus, ↓iter_clock_Clus, implies_true, apply_ite Clus.clock, ite_self, apply_ite Prod.fst, apply_ite Prod.snd]; done) | with_reducible refine ite_clock_Clus ?_ ?_ | with_reducible refine foldl_clock_Clus' (fun _ _ => ?_) ?_ | with_reducible refine iter_clock_Clus' (fun _ _ => ?_) ?_ | with_reducible refine foldl2_clock_Clus' (fun _ _ => ?_) ?_ | with_reducible refine foldl3_clock_Clus' (fun _ _ => ?_) ?_ | with_reducible refine ite_clock_Core ?_ ?_ | with_reducible refine foldl_clock_Core' (fun _ _ => ?_) ?_ | with_reducible refine iter_clock_Core' (fun _ _ => ?_) ?_ | with_reducible refine foldl2_clock_Core' (fun _ _ => ?_) ?_ | with_reducible refine foldl3_clock_Core' (fun _ _ => ?_) ?_ | simp only [↓Clus.addDig_clock, ↓Clus.markHome_clock, ↓Clus.stPutChunk_clock, ↓Clus.storeFault_clock, ↓Core.raiseHext_clock, ↓Core.clock_eta, ↓Core.clock_mk, ↓Clus.clock_mk, ↓Clus.core_clock, ↓Clus.onCore_clock] | with_reducible refine of_eq_clock_Clus ‹_› ?_ | with_reducible refine of_eq1_clock_Clus ‹_› ?_ | with_reducible refine of_eq_clock_Core ‹_› ?_ | with_reducible refine of_eq1_clock_Core ‹_› ?_ | split | dsimp only)

theorem Clus.copyGranule_clock (k a1 a2 a3 a4 a5 a6 a7 a8) : (Clus.copyGranule k a1 a2 a3 a4 a5 a6 a7 a8).2.clock = k.clock := by
  unfold Clus.copyGranule
  repeat' (first | (simp only [↓Clus.readOp_clock, ↓Clus.writeOp_clock]; done) | with_reducible refine ite_clock_Clus ?_ ?_ | with_reducible refine foldl_clock_Clus' (fun _ _ => ?_) ?_ | with_reducible refine iter_clock_Clus' (fun _ _ => ?_) ?_ | simp only [↓Core.clock_eta] | split | dsimp only)

theorem Clus.copyPtrs_clock (k a1 a2) : (Clus.copyPtrs k a1 a2).clock = k.clock := by
  unfold Clus.copyPtrs
  simp only [↓Clus.core_clock, ↓Clus.onCore_clock, ↓Core.setFld_clock, ↓Core.setPtrs_clock, ↓iter_clock_Clus, implies_true]

theorem Clus.sDo_clock (k a1) (a2 : Clus → Clus) (h2 : ∀ x0, (a2 x0).clock = x0.clock) :
    (Clus.sDo k a1 a2).clock = k.clock := by
  unfold Clus.sDo
  repeat' (first | with_reducible rfl | (simp only [↓Core.clock_eta, ↓Core.clock_mk, ↓Clus.clock_mk, ↓Clus.core_clock, h2, ↓foldl_clock_Core, ↓iter_clock_Core, ↓foldl_clock_Clus, ↓iter_clock_Clus, implies_true, apply_ite Clus.clock, ite_self]; done) | with_reducible refine ite_clock_Clus ?_ ?_ | with_reducible refine foldl_clock_Clus' (fun _ _ => ?_) ?_ | with_reducible refine iter_clock_Clus' (fun _ _ => ?_) ?_ | with_reducible refine foldl2_clock_Clus' (fun _ _ => ?_) ?_ | with_reducible refine foldl3_clock_Clus' (fun _ _ => ?_) ?_ | with_reducible refine ite_clock_Core ?_ ?_ | with_reducible refine foldl_clock_Core' (fun _ _ => ?_) ?_ | with_reducible refine iter_clock_Core' (fun _ _ => ?_) ?_ | with_reducible refine foldl2_clock_Core' (fun _ _ => ?_) ?_ | with_reducible refine foldl3_clock_Core' (fun _ _ => ?_) ?_ | simp only [↓Core.clock_eta, ↓Core.clock_mk, ↓Clus.clock_mk, ↓Clus.core_clock, h2] | with_reducible refine of_eq_clock_Clus ‹_› ?_ | with_reducible refine of_eq1_clock_Clus ‹_› ?_ | with_reducible refine of_eq_clock_Core ‹_› ?_ | with_reducible refine of_eq1_clock_Core ‹_› ?_ | split | dsimp only)

theorem Clus.sLockstep_clock (k a1 a2) : (Clus.sLockstep k a1 a2).clock = k.clock :=
  Clus.sLockstepBy_clock _ _ _ _ (ht := Clus.trip_clock)

theorem Clus.sWrite_clock (k a1 a2 a3) (a4 : Clus → Clus) (h4 : ∀ x0, (a4 x0).clock = x0.clock) :
    (Clus.sWrite k a1 a2 a3 a4).clock = k.clock := by
  unfold Clus.sWrite
  repeat' (first | with_reducible rfl | (simp only [↓Clus.regWrite_clock, ↓Clus.sLockstepBy_clock, ↓Core.clock_eta, ↓Core.clock_mk, ↓Clus.clock_mk, ↓Clus.core_clock, h4, ↓foldl_clock_Core, ↓iter_clock_Core, ↓foldl_clock_Clus, ↓iter_clock_Clus, implies_true, apply_ite Clus.clock, ite_self]; done) | with_reducible refine (Clus.regWrite_clock _ _ _ _ _ _ _ Clus.trip_clock (fun _ => ?_)).trans ?_ | with_reducible refine ite_clock_Clus ?_ ?_ | with_reducible refine foldl_clock_Clus' (fun _ _ => ?_) ?_ | with_reducible refine iter_clock_Clus' (fun _ _ => ?_) ?_ | with_reducible refine foldl2_clock_Clus' (fun _ _ => ?_) ?_ | with_reducible refine foldl3_clock_Clus' (fun _ _ => ?_) ?_ | with_reducible refine ite_clock_Core ?_ ?_ | with_reducible refine foldl_clock_Core' (fun _ _ => ?_) ?_ | with_reducible refine iter_clock_Core' (fun _ _ => ?_) ?_ | with_reducible refine foldl2_clock_Core' (fun _ _ => ?_) ?_ | with_reducible refine foldl3_clock_Core' (fun _ _ => ?_) ?_ | simp only [↓Clus.regWrite_clock, ↓Clus.sLockstepBy_clock, ↓Core.clock_eta, ↓Core.clock_mk, ↓Clus.clock_mk, ↓Clus.core_clock, h4, ↓Clus.trip_clock, implies_true] | with_reducible refine of_eq_clock_Clus ‹_› ?_ | with_reducible refine of_eq1_clock_Clus ‹_› ?_ | with_reducible refine of_eq_clock_Core ‹_› ?_ | with_reducible refine of_eq1_clock_Core ‹_› ?_ | split | dsimp only)

theorem Clus.sSet_clock (k a1 a2 a3 a4) : (Clus.sSet k a1 a2 a3 a4).clock = k.clock := by
  unfold Clus.sSet
  simp only [↓Clus.adv_clock, ↓Clus.sWrite_clock, implies_true]

theorem Clus.sTrap_clock (k a1 a2 a3) : (Clus.sTrap k a1 a2 a3).clock = k.clock := by
  unfold Clus.sTrap
  simp only [↓Clus.sCapture_clock, ↓Clus.sCharge_clock, ↓Clus.sHalt_clock]

theorem Clus.csrRead_clock (k a1 a2 a3 a4) : (Clus.csrRead k a1 a2 a3 a4).clock = k.clock := by
  unfold Clus.csrRead
  refine (Clus.sDo_clock _ _ _ (fun x => ?_))
  repeat' (first | (simp only [↓Clus.sSet_clock, ↓Clus.sTrap_clock]; done) | with_reducible refine ite_clock_Pkg ?_ ?_ | with_reducible refine foldl_clock_Pkg' (fun _ _ => ?_) ?_ | with_reducible refine iter_clock_Pkg' (fun _ _ => ?_) ?_ | with_reducible refine foldl2_clock_Pkg' (fun _ _ => ?_) ?_ | with_reducible refine foldl3_clock_Pkg' (fun _ _ => ?_) ?_ | with_reducible refine ite_clock_Clus ?_ ?_ | with_reducible refine foldl_clock_Clus' (fun _ _ => ?_) ?_ | with_reducible refine iter_clock_Clus' (fun _ _ => ?_) ?_ | with_reducible refine foldl2_clock_Clus' (fun _ _ => ?_) ?_ | with_reducible refine foldl3_clock_Clus' (fun _ _ => ?_) ?_ | with_reducible refine ite_clock_Core ?_ ?_ | with_reducible refine foldl_clock_Core' (fun _ _ => ?_) ?_ | with_reducible refine iter_clock_Core' (fun _ _ => ?_) ?_ | with_reducible refine foldl2_clock_Core' (fun _ _ => ?_) ?_ | with_reducible refine foldl3_clock_Core' (fun _ _ => ?_) ?_ | simp only [↓Core.clock_eta, ↓Core.clock_mk, ↓Clus.clock_mk, ↓Pkg.clock_mk, ↓Clus.core_clock, ↓Pkg.cl_clock, ↓Clus.sDo_clock, ↓Clus.sSet_clock, ↓Clus.sTrap_clock, ↓foldl_clock_Pkg, ↓foldl_clock_Clus, ↓foldl_clock_Core, implies_true, and_self, apply_ite Pkg.clock, apply_ite Clus.clock, apply_ite Core.clock, ite_self] | with_reducible refine of_eq_clock_Pkg ‹_› ?_ | with_reducible refine of_eq1_clock_Pkg ‹_› ?_ | with_reducible refine of_eq_clock_Clus ‹_› ?_ | with_reducible refine of_eq1_clock_Clus ‹_› ?_ | with_reducible refine of_eq_clock_Core ‹_› ?_ | with_reducible refine of_eq1_clock_Core ‹_› ?_ | split | dsimp only)

theorem Clus.departPilot_clock (k a1) : (Clus.departPilot k a1).clock = k.clock := by
  unfold Clus.departPilot
  simp only [↓Clus.clock_mk, ↓Clus.core_clock]

theorem Core.incWrap_clock (k a1 a2 a3) : (Core.incWrap k a1 a2 a3).clock = k.clock := by
  unfold Core.incWrap
  simp only [↓Core.wr_clock]

theorem Core.circDepart_clock (k a1 a2 a3 a4) : (Core.circDepart k a1 a2 a3 a4).clock = k.clock := by
  unfold Core.circDepart
  simp only [↓Core.incWrap_clock, ↓Core.setEntryState_clock, ↓Core.setFld_clock, ↓Core.setHold_clock, ↓Core.wr_clock, apply_ite Core.clock, ite_self]

theorem Clus.departReplays_clock (k a1) : (Clus.departReplays k a1).clock = k.clock := by
  unfold Clus.departReplays
  repeat' (first | (simp only [↓Clus.core_clock, ↓Clus.onCore_clock, ↓Clus.setRun_clock, ↓Core.circDepart_clock, ↓Core.incWrap_clock, ↓Core.setEntryState_clock, ↓Core.setHold_clock, apply_ite Clus.clock, ite_self]; done) | with_reducible refine ite_clock_Clus ?_ ?_ | with_reducible refine iter_clock_Clus' (fun _ _ => ?_) ?_ | split | dsimp only)

theorem Clus.descWrite_clock (k a1 a2 a3 a4) : (Clus.descWrite k a1 a2 a3 a4).clock = k.clock := by
  unfold Clus.descWrite
  simp only [↓Clus.clock_mk, ↓Clus.core_clock, ↓Clus.onCore_clock, ↓Core.record_clock, ↓Core.setErr_clock, apply_ite Clus.clock, ite_self]

theorem Clus.descWords_clock (k a1 a2 a3 a4) : (Clus.descWords k a1 a2 a3 a4).clock = k.clock := by
  unfold Clus.descWords
  simp only [↓Clus.descWrite_clock]

theorem Clus.dieCold_clock (k a1) : (Clus.dieCold k a1).clock = k.clock := by
  unfold Clus.dieCold
  simp only [↓Clus.clock_mk, ↓Clus.core_clock]

theorem Clus.enterHandler_clock (k a1 a2) : (Clus.enterHandler k a1 a2).clock = k.clock := by
  unfold Clus.enterHandler
  simp only [↓Clus.clock_mk, ↓Clus.core_clock, ↓Clus.setScore_clock, ↓Clus.setXReg_clock]

theorem Clus.ringCorrupt_clock (k a1 a2) : (Clus.ringCorrupt k a1 a2).clock = k.clock := by
  unfold Clus.ringCorrupt
  repeat' (first | (simp only [↓Clus.core_clock, ↓Clus.closeChannel_clock, ↓Clus.fail_clock, ↓Clus.faultJob_clock, ↓Clus.onCore_clock, ↓Core.record_clock]; done) | with_reducible refine ite_clock_Clus ?_ ?_ | split | dsimp only)

theorem Clus.dispatch_clock (k a1) : (Clus.dispatch k a1).clock = k.clock := by
  unfold Clus.dispatch
  repeat' (first | (simp only [↓Clus.core_clock, ↓Clus.enterHandler_clock, ↓Clus.onCore_clock, ↓Clus.ringCorrupt_clock, ↓Core.setRing_clock, apply_ite Clus.clock, ite_self]; done) | with_reducible refine ite_clock_Clus ?_ ?_ | split)

theorem Core.advTail_clock (k a1 a2 a3 a4 a5) : (Core.advTail k a1 a2 a3 a4 a5).clock = k.clock := by
  unfold Core.advTail
  repeat' (first | with_reducible rfl | (simp only [↓Core.setFld_clock, ↓Core.setPtrs_clock, ↓Core.clock_eta, ↓Core.clock_mk, ↓foldl_clock_Core, ↓iter_clock_Core, implies_true, apply_ite Core.clock, ite_self]; done) | with_reducible refine ite_clock_Core ?_ ?_ | with_reducible refine foldl_clock_Core' (fun _ _ => ?_) ?_ | with_reducible refine iter_clock_Core' (fun _ _ => ?_) ?_ | with_reducible refine foldl2_clock_Core' (fun _ _ => ?_) ?_ | with_reducible refine foldl3_clock_Core' (fun _ _ => ?_) ?_ | simp only [↓Core.setFld_clock, ↓Core.setPtrs_clock, ↓Core.clock_eta, ↓Core.clock_mk] | with_reducible refine of_eq_clock_Core ‹_› ?_ | with_reducible refine of_eq1_clock_Core ‹_› ?_ | split | dsimp only)

theorem Clus.doConsume_clock (k a1 a2 a3 a4) : ∀ x, Clus.doConsume k a1 a2 a3 a4 = some x → x.clock = k.clock := by
  intro x hx
  unfold Clus.doConsume at hx
  dsimp only at hx
  repeat' split at hx
  all_goals first
    | contradiction
    | (injection hx with hx
       subst hx
       repeat' (first | with_reducible rfl | (simp only [↓Core.advTail_clock, ↓Core.clock_eta, ↓Core.clock_mk, ↓Clus.clock_mk, ↓Clus.core_clock, ↓foldl_clock_Core, ↓iter_clock_Core, ↓foldl_clock_Clus, ↓iter_clock_Clus, implies_true, apply_ite Clus.clock, ite_self]; done) | with_reducible refine ite_clock_Clus ?_ ?_ | with_reducible refine foldl_clock_Clus' (fun _ _ => ?_) ?_ | with_reducible refine iter_clock_Clus' (fun _ _ => ?_) ?_ | with_reducible refine foldl2_clock_Clus' (fun _ _ => ?_) ?_ | with_reducible refine foldl3_clock_Clus' (fun _ _ => ?_) ?_ | with_reducible refine ite_clock_Core ?_ ?_ | with_reducible refine foldl_clock_Core' (fun _ _ => ?_) ?_ | with_reducible refine iter_clock_Core' (fun _ _ => ?_) ?_ | with_reducible refine foldl2_clock_Core' (fun _ _ => ?_) ?_ | with_reducible refine foldl3_clock_Core' (fun _ _ => ?_) ?_ | simp only [↓Core.advTail_clock, ↓Core.clock_eta, ↓Core.clock_mk, ↓Clus.clock_mk, ↓Clus.core_clock] | with_reducible refine of_eq_clock_Clus ‹_› ?_ | with_reducible refine of_eq1_clock_Clus ‹_› ?_ | with_reducible refine of_eq_clock_Core ‹_› ?_ | with_reducible refine of_eq1_clock_Core ‹_› ?_ | split | dsimp only))

theorem Clus.doHostComplete_clock (k a1 a2 a3 a4) : (Clus.doHostComplete k a1 a2 a3 a4).clock = k.clock := by
  unfold Clus.doHostComplete
  simp only [↓Clus.clock_mk, ↓Clus.core_clock]

theorem Clus.stageSig_clock (k a1 a2) : (Clus.stageSig k a1 a2).clock = k.clock := by
  unfold Clus.stageSig
  simp only [↓Clus.clock_mk, ↓Clus.core_clock]

theorem Clus.doPost_clock (k a1 a2 a3) : (Clus.doPost k a1 a2 a3).clock = k.clock := by
  unfold Clus.doPost
  simp only [↓Clus.applyPost_clock, ↓Clus.stageSig_clock, apply_ite Clus.clock, ite_self]

theorem Clus.doRelease_clock (k a1 a2 a3 a4) : ∀ x, Clus.doRelease k a1 a2 a3 a4 = some x → x.clock = k.clock := by
  intro x hx
  unfold Clus.doRelease at hx
  dsimp only at hx
  repeat' split at hx
  all_goals first
    | contradiction
    | (injection hx with hx
       subst hx
       repeat' (first | with_reducible rfl | (simp only [↓Core.advRel_clock, ↓Core.clock_eta, ↓Core.clock_mk, ↓Clus.clock_mk, ↓Clus.core_clock, ↓Clus.onCore_clock, ↓foldl_clock_Core, ↓iter_clock_Core, ↓foldl_clock_Clus, ↓iter_clock_Clus, implies_true, apply_ite Clus.clock, ite_self]; done) | with_reducible refine ite_clock_Clus ?_ ?_ | with_reducible refine foldl_clock_Clus' (fun _ _ => ?_) ?_ | with_reducible refine iter_clock_Clus' (fun _ _ => ?_) ?_ | with_reducible refine foldl2_clock_Clus' (fun _ _ => ?_) ?_ | with_reducible refine foldl3_clock_Clus' (fun _ _ => ?_) ?_ | with_reducible refine ite_clock_Core ?_ ?_ | with_reducible refine foldl_clock_Core' (fun _ _ => ?_) ?_ | with_reducible refine iter_clock_Core' (fun _ _ => ?_) ?_ | with_reducible refine foldl2_clock_Core' (fun _ _ => ?_) ?_ | with_reducible refine foldl3_clock_Core' (fun _ _ => ?_) ?_ | simp only [↓Core.advRel_clock, ↓Core.clock_eta, ↓Core.clock_mk, ↓Clus.clock_mk, ↓Clus.core_clock, ↓Clus.onCore_clock] | with_reducible refine of_eq_clock_Clus ‹_› ?_ | with_reducible refine of_eq1_clock_Clus ‹_› ?_ | with_reducible refine of_eq_clock_Core ‹_› ?_ | with_reducible refine of_eq1_clock_Core ‹_› ?_ | split | dsimp only))

theorem Clus.doRemoteRelease_clock (k a1 a2 a3 a4) : (Clus.doRemoteRelease k a1 a2 a3 a4).clock = k.clock := by
  unfold Clus.doRemoteRelease
  simp only [↓Clus.stageSig_clock, ↓foldl_clock_Clus, implies_true, apply_ite Clus.clock, ite_self]

theorem Clus.doTabArrive_clock (k a1 a2 a3) : ∀ x, Clus.doTabArrive k a1 a2 a3 = some x → x.clock = k.clock := by
  intro x hx
  unfold Clus.doTabArrive at hx
  dsimp only at hx
  repeat' split at hx
  all_goals first
    | contradiction
    | (injection hx with hx
       subst hx
       repeat' (first | with_reducible rfl | (simp only [↓Clus.tabArrive_clock, ↓Core.clock_eta, ↓Core.clock_mk, ↓Clus.clock_mk, ↓Clus.core_clock, ↓foldl_clock_Core, ↓iter_clock_Core, ↓foldl_clock_Clus, ↓iter_clock_Clus, implies_true, apply_ite Clus.clock, ite_self, apply_ite Prod.fst, apply_ite Prod.snd]; done) | with_reducible refine ite_clock_Clus ?_ ?_ | with_reducible refine foldl_clock_Clus' (fun _ _ => ?_) ?_ | with_reducible refine iter_clock_Clus' (fun _ _ => ?_) ?_ | with_reducible refine foldl2_clock_Clus' (fun _ _ => ?_) ?_ | with_reducible refine foldl3_clock_Clus' (fun _ _ => ?_) ?_ | with_reducible refine ite_clock_Core ?_ ?_ | with_reducible refine foldl_clock_Core' (fun _ _ => ?_) ?_ | with_reducible refine iter_clock_Core' (fun _ _ => ?_) ?_ | with_reducible refine foldl2_clock_Core' (fun _ _ => ?_) ?_ | with_reducible refine foldl3_clock_Core' (fun _ _ => ?_) ?_ | simp only [↓Clus.tabArrive_clock, ↓Core.clock_eta, ↓Core.clock_mk, ↓Clus.clock_mk, ↓Clus.core_clock] | with_reducible refine of_eq_clock_Clus ‹_› ?_ | with_reducible refine of_eq1_clock_Clus ‹_› ?_ | with_reducible refine of_eq_clock_Core ‹_› ?_ | with_reducible refine of_eq1_clock_Core ‹_› ?_ | split | dsimp only))

theorem Clus.setOut_clock (k a1 a2) : (Clus.setOut k a1 a2).clock = k.clock := by
  unfold Clus.setOut
  simp only [↓Clus.clock_mk, ↓Clus.core_clock]

theorem Clus.drainOut_clock (k a1 a2) : (Clus.drainOut k a1 a2).clock = k.clock := by
  induction a2 generalizing k with
  | zero => rfl
  | succ n ih =>
    unfold Clus.drainOut
    split
    · rfl
    · next x r _ =>
      dsimp only
      refine ite_clock_Clus ?_ rfl
      exact (ih _).trans (Clus.setOut_clock k a1 r)

theorem Clus.drainAll_clock (k) : (Clus.drainAll k).clock = k.clock := by
  unfold Clus.drainAll
  simp only [↓Clus.drainOut_clock, ↓foldl_clock_Clus, implies_true]

theorem Clus.dropMsg_clock (k a1 a2 a3) : (Clus.dropMsg k a1 a2 a3).clock = k.clock := by
  unfold Clus.dropMsg
  simp only [↓Clus.clock_mk, ↓Clus.core_clock]

theorem Clus.dropNotice_clock (k a1) : (Clus.dropNotice k a1).clock = k.clock := by
  unfold Clus.dropNotice
  repeat' (first | (simp only [↓Clus.clock_mk, ↓Clus.core_clock, ↓Clus.fail_clock, ↓Clus.faultJob_clock, apply_ite Clus.clock, ite_self]; done) | with_reducible refine ite_clock_Clus ?_ ?_ | split | dsimp only)

theorem Clus.ebreak_clock (k a1) : (Clus.ebreak k a1).clock = k.clock := by
  unfold Clus.ebreak
  simp only [↓Clus.sDo_clock, ↓Clus.sTrap_clock, ↓Clus.setScore_clock, ↓Clus.withdrawOn_clock, implies_true, apply_ite Clus.clock, ite_self]

theorem Clus.ecall_clock (k a1) : (Clus.ecall k a1).clock = k.clock := by
  unfold Clus.ecall
  simp only [↓Clus.sDo_clock, ↓Clus.sTrap_clock, implies_true]

theorem Clus.setArr_clock (k a1 a2) : (Clus.setArr k a1 a2).clock = k.clock := by
  unfold Clus.setArr
  simp only [↓Clus.clock_mk, ↓Clus.core_clock]

theorem Clus.saCapture_clock (k a1 a2 a3 a4 a5 a6 a7) : (Clus.saCapture k a1 a2 a3 a4 a5 a6 a7).clock = k.clock := by
  unfold Clus.saCapture
  simp only [↓Clus.core_clock, ↓Clus.onCore_clock, ↓Core.wrs_clock, apply_ite Clus.clock, ite_self]

theorem Clus.saFault_clock (k a1 a2 a3 a4) : (Clus.saFault k a1 a2 a3 a4).clock = k.clock := by
  unfold Clus.saFault
  simp only [↓Clus.core_clock, ↓Clus.causeEvent_clock, ↓Clus.onCore_clock, ↓Clus.saCapture_clock, ↓Clus.setArr_clock, ↓Core.incSat_clock]

theorem Clus.enter_clock (k a1 a2 a3 a4) : (Clus.enter k a1 a2 a3 a4).clock = k.clock := by
  unfold Clus.enter
  simp only [↓Clus.core_clock, ↓Clus.onCore_clock, ↓Clus.saFault_clock, ↓Clus.setArr_clock, ↓Core.setFld_clock, apply_ite Clus.clock, ite_self]

theorem Clus.ttEvent_clock (k a1 a2 a3 a4 a5 a6 a7 a8 a9 a10 a11 a12) : (Clus.ttEvent k a1 a2 a3 a4 a5 a6 a7 a8 a9 a10 a11 a12).clock = k.clock := by
  unfold Clus.ttEvent
  simp only [↓Clus.core_clock, ↓Clus.onCore_clock, ↓Core.record_clock]

theorem Core.dropped_clock (k a1) : (Core.dropped k a1).clock = k.clock := by
  unfold Core.dropped
  simp only [↓Core.setErr_clock]

theorem Clus.entryWrite_clock (k a1 a2 a3) : (Clus.entryWrite k a1 a2 a3).clock = k.clock := by
  unfold Clus.entryWrite
  repeat' (first | (simp only [↓Clus.core_clock, ↓Clus.onCore_clock, ↓Clus.ttEvent_clock, ↓Core.dropped_clock, ↓Core.winWr_clock]; done) | with_reducible refine ite_clock_Clus ?_ ?_ | split)

theorem Clus.holdEntry_clock (k a1 a2 a3 a4 a5 a6) : (Clus.holdEntry k a1 a2 a3 a4 a5 a6).clock = k.clock := by
  unfold Clus.holdEntry
  simp only [↓Clus.core_clock, ↓Clus.onCore_clock, ↓Clus.ttEvent_clock, ↓Core.incSat_clock, ↓Core.incWrap_clock, ↓Core.setEntryState_clock, ↓Core.setHold_clock, apply_ite Clus.clock, ite_self]

theorem Clus.examine_clock (k a1 a2) : (Clus.examine k a1 a2).clock = k.clock := by
  unfold Clus.examine
  simp only [↓Clus.core_clock, ↓Clus.faultJob_clock, ↓Clus.holdEntry_clock, ↓Clus.onCore_clock, ↓Clus.setRun_clock, ↓Clus.ttEvent_clock, ↓Core.circDepart_clock, ↓Core.setCircState_clock, ↓Core.setEntryState_clock, ↓iter_clock_Clus, implies_true, apply_ite Clus.clock, ite_self]

theorem Clus.ttJobFault_clock (k a1 a2 a3 a4) : (Clus.ttJobFault k a1 a2 a3 a4).clock = k.clock := by
  unfold Clus.ttJobFault
  repeat' (first | (simp only [↓Clus.core_clock, ↓Clus.faultJob_clock, ↓Clus.onCore_clock, ↓Clus.setRun_clock, ↓Clus.ttEvent_clock, ↓Core.setCircState_clock, ↓Core.setEntryState_clock, apply_ite Clus.clock, ite_self]; done) | with_reducible refine ite_clock_Clus ?_ ?_ | with_reducible refine foldl_clock_Clus' (fun _ _ => ?_) ?_ | with_reducible refine iter_clock_Clus' (fun _ _ => ?_) ?_ | simp only [↓Clus.core_clock, ↓Clus.faultJob_clock, ↓Clus.onCore_clock, ↓Core.setCircState_clock, ↓Core.setEntryState_clock] | split | dsimp only)

theorem Core.setFence_clock (k a1) : (Core.setFence k a1).clock = k.clock := by
  unfold Core.setFence
  simp only [↓Core.setFld_clock]

theorem Clus.replayFail_clock (k a1 a2 a3 a4 a5) : (Clus.replayFail k a1 a2 a3 a4 a5).clock = k.clock := by
  unfold Clus.replayFail
  repeat' (first | with_reducible rfl | (simp only [↓Clus.ttEvent_clock, ↓Core.clock_eta, ↓Core.clock_mk, ↓Clus.clock_mk, ↓Clus.core_clock, ↓foldl_clock_Core, ↓iter_clock_Core, ↓foldl_clock_Clus, ↓iter_clock_Clus, implies_true, apply_ite Clus.clock, ite_self]; done) | with_reducible refine ite_clock_Clus ?_ ?_ | with_reducible refine foldl_clock_Clus' (fun _ _ => ?_) ?_ | with_reducible refine iter_clock_Clus' (fun _ _ => ?_) ?_ | with_reducible refine foldl2_clock_Clus' (fun _ _ => ?_) ?_ | with_reducible refine foldl3_clock_Clus' (fun _ _ => ?_) ?_ | with_reducible refine ite_clock_Core ?_ ?_ | with_reducible refine foldl_clock_Core' (fun _ _ => ?_) ?_ | with_reducible refine iter_clock_Core' (fun _ _ => ?_) ?_ | with_reducible refine foldl2_clock_Core' (fun _ _ => ?_) ?_ | with_reducible refine foldl3_clock_Core' (fun _ _ => ?_) ?_ | simp only [↓Clus.ttEvent_clock, ↓Core.clock_eta, ↓Core.clock_mk, ↓Clus.clock_mk, ↓Clus.core_clock] | with_reducible refine of_eq_clock_Clus ‹_› ?_ | with_reducible refine of_eq1_clock_Clus ‹_› ?_ | with_reducible refine of_eq_clock_Core ‹_› ?_ | with_reducible refine of_eq1_clock_Core ‹_› ?_ | split | dsimp only)

theorem Clus.failSlot_clock (k a1 a2 a3) : (Clus.failSlot k a1 a2 a3).clock = k.clock := by
  unfold Clus.failSlot
  repeat' (first | with_reducible rfl | (simp only [↓Clus.replayFail_clock, ↓Clus.setRun_clock, ↓Clus.ttEvent_clock, ↓Clus.ttJobFault_clock, ↓Core.setEntryState_clock, ↓Core.setFence_clock, ↓Core.clock_eta, ↓Core.clock_mk, ↓Clus.clock_mk, ↓Clus.core_clock, ↓Clus.onCore_clock, ↓foldl_clock_Core, ↓iter_clock_Core, ↓foldl_clock_Clus, ↓iter_clock_Clus, implies_true, apply_ite Clus.clock, ite_self]; done) | with_reducible refine ite_clock_Clus ?_ ?_ | with_reducible refine foldl_clock_Clus' (fun _ _ => ?_) ?_ | with_reducible refine iter_clock_Clus' (fun _ _ => ?_) ?_ | with_reducible refine foldl2_clock_Clus' (fun _ _ => ?_) ?_ | with_reducible refine foldl3_clock_Clus' (fun _ _ => ?_) ?_ | with_reducible refine ite_clock_Core ?_ ?_ | with_reducible refine foldl_clock_Core' (fun _ _ => ?_) ?_ | with_reducible refine iter_clock_Core' (fun _ _ => ?_) ?_ | with_reducible refine foldl2_clock_Core' (fun _ _ => ?_) ?_ | with_reducible refine foldl3_clock_Core' (fun _ _ => ?_) ?_ | simp only [↓Clus.replayFail_clock, ↓Clus.setRun_clock, ↓Clus.ttEvent_clock, ↓Clus.ttJobFault_clock, ↓Core.setEntryState_clock, ↓Core.setFence_clock, ↓Core.clock_eta, ↓Core.clock_mk, ↓Clus.clock_mk, ↓Clus.core_clock, ↓Clus.onCore_clock] | with_reducible refine of_eq_clock_Clus ‹_› ?_ | with_reducible refine of_eq1_clock_Clus ‹_› ?_ | with_reducible refine of_eq_clock_Core ‹_› ?_ | with_reducible refine of_eq1_clock_Core ‹_› ?_ | split | dsimp only)

theorem Clus.fenceDropArm_clock (k a1) : (Clus.fenceDropArm k a1).clock = k.clock := by
  unfold Clus.fenceDropArm
  simp only [↓Clus.core_clock, ↓Clus.onCore_clock, ↓Core.setFld_clock]

theorem Clus.fillGranule_clock (k a1 a2 a3 a4 a5 a6) : (Clus.fillGranule k a1 a2 a3 a4 a5 a6).2.clock = k.clock := by
  unfold Clus.fillGranule
  simp only [↓Clus.writeOp_clock]

theorem Clus.flushOut_clock (k a1 a2 a3) : (Clus.flushOut k a1 a2 a3).clock = k.clock := by
  unfold Clus.flushOut
  repeat' (first | (simp only [↓Clus.setArr_clock, ↓Clus.writeOp_clock, ↓foldl_clock_Clus, implies_true]; done) | with_reducible refine ite_clock_Clus ?_ ?_ | split | dsimp only)

theorem Clus.vCapture_clock (k a1 a2 a3 a4 a5) : (Clus.vCapture k a1 a2 a3 a4 a5).clock = k.clock := by
  unfold Clus.vCapture
  simp only [↓Clus.core_clock, ↓Clus.onCore_clock, ↓Core.wrs_clock, apply_ite Clus.clock, ite_self]

theorem Clus.setVQueue_clock (k a1 a2 a3) : (Clus.setVQueue k a1 a2 a3).clock = k.clock := by
  unfold Clus.setVQueue
  simp only [↓Clus.clock_mk, ↓Clus.core_clock]

theorem Clus.newVHead_clock (k a1 a2 a3) : (Clus.newVHead k a1 a2 a3).clock = k.clock := by
  unfold Clus.newVHead
  repeat' (first | with_reducible rfl | (simp only [↓Clus.setVQueue_clock, ↓Core.clock_eta, ↓Core.clock_mk, ↓Clus.clock_mk, ↓Clus.core_clock, ↓foldl_clock_Core, ↓iter_clock_Core, ↓foldl_clock_Clus, ↓iter_clock_Clus, implies_true, apply_ite Clus.clock, ite_self]; done) | with_reducible refine ite_clock_Clus ?_ ?_ | with_reducible refine foldl_clock_Clus' (fun _ _ => ?_) ?_ | with_reducible refine iter_clock_Clus' (fun _ _ => ?_) ?_ | with_reducible refine foldl2_clock_Clus' (fun _ _ => ?_) ?_ | with_reducible refine foldl3_clock_Clus' (fun _ _ => ?_) ?_ | with_reducible refine ite_clock_Core ?_ ?_ | with_reducible refine foldl_clock_Core' (fun _ _ => ?_) ?_ | with_reducible refine iter_clock_Core' (fun _ _ => ?_) ?_ | with_reducible refine foldl2_clock_Core' (fun _ _ => ?_) ?_ | with_reducible refine foldl3_clock_Core' (fun _ _ => ?_) ?_ | simp only [↓Clus.setVQueue_clock, ↓Core.clock_eta, ↓Core.clock_mk, ↓Clus.clock_mk, ↓Clus.core_clock] | with_reducible refine of_eq_clock_Clus ‹_› ?_ | with_reducible refine of_eq1_clock_Clus ‹_› ?_ | with_reducible refine of_eq_clock_Core ‹_› ?_ | with_reducible refine of_eq1_clock_Core ‹_› ?_ | split | dsimp only)

theorem Clus.vHalt_clock (k a1 a2) : (Clus.vHalt k a1 a2).clock = k.clock := by
  unfold Clus.vHalt
  repeat' (first | with_reducible rfl | (simp only [↓Clus.newVHead_clock, ↓Core.clock_eta, ↓Core.clock_mk, ↓Clus.clock_mk, ↓Clus.core_clock, ↓foldl_clock_Core, ↓iter_clock_Core, ↓foldl_clock_Clus, ↓iter_clock_Clus, implies_true, apply_ite Clus.clock, ite_self]; done) | with_reducible refine ite_clock_Clus ?_ ?_ | with_reducible refine foldl_clock_Clus' (fun _ _ => ?_) ?_ | with_reducible refine iter_clock_Clus' (fun _ _ => ?_) ?_ | with_reducible refine foldl2_clock_Clus' (fun _ _ => ?_) ?_ | with_reducible refine foldl3_clock_Clus' (fun _ _ => ?_) ?_ | with_reducible refine ite_clock_Core ?_ ?_ | with_reducible refine foldl_clock_Core' (fun _ _ => ?_) ?_ | with_reducible refine iter_clock_Core' (fun _ _ => ?_) ?_ | with_reducible refine foldl2_clock_Core' (fun _ _ => ?_) ?_ | with_reducible refine foldl3_clock_Core' (fun _ _ => ?_) ?_ | simp only [↓Clus.newVHead_clock, ↓Core.clock_eta, ↓Core.clock_mk, ↓Clus.clock_mk, ↓Clus.core_clock] | with_reducible refine of_eq_clock_Clus ‹_› ?_ | with_reducible refine of_eq1_clock_Clus ‹_› ?_ | with_reducible refine of_eq_clock_Core ‹_› ?_ | with_reducible refine of_eq1_clock_Core ‹_› ?_ | split | dsimp only)

theorem Clus.vFatal_clock (k a1 a2 a3 a4 a5) : (Clus.vFatal k a1 a2 a3 a4 a5).clock = k.clock := by
  unfold Clus.vFatal
  repeat' (first | with_reducible rfl | (simp only [↓Clus.fatalEvent_clock, ↓Clus.newVHead_clock, ↓Clus.vCapture_clock, ↓Clus.vHalt_clock, ↓Core.clock_eta, ↓Core.clock_mk, ↓Clus.clock_mk, ↓Clus.core_clock, ↓foldl_clock_Core, ↓iter_clock_Core, ↓foldl_clock_Clus, ↓iter_clock_Clus, implies_true, apply_ite Clus.clock, ite_self]; done) | with_reducible refine ite_clock_Clus ?_ ?_ | with_reducible refine foldl_clock_Clus' (fun _ _ => ?_) ?_ | with_reducible refine iter_clock_Clus' (fun _ _ => ?_) ?_ | with_reducible refine foldl2_clock_Clus' (fun _ _ => ?_) ?_ | with_reducible refine foldl3_clock_Clus' (fun _ _ => ?_) ?_ | with_reducible refine ite_clock_Core ?_ ?_ | with_reducible refine foldl_clock_Core' (fun _ _ => ?_) ?_ | with_reducible refine iter_clock_Core' (fun _ _ => ?_) ?_ | with_reducible refine foldl2_clock_Core' (fun _ _ => ?_) ?_ | with_reducible refine foldl3_clock_Core' (fun _ _ => ?_) ?_ | simp only [↓Clus.fatalEvent_clock, ↓Clus.newVHead_clock, ↓Clus.vCapture_clock, ↓Clus.vHalt_clock, ↓Core.clock_eta, ↓Core.clock_mk, ↓Clus.clock_mk, ↓Clus.core_clock] | with_reducible refine of_eq_clock_Clus ‹_› ?_ | with_reducible refine of_eq1_clock_Clus ‹_› ?_ | with_reducible refine of_eq_clock_Core ‹_› ?_ | with_reducible refine of_eq1_clock_Core ‹_› ?_ | split | dsimp only)

theorem Clus.vHead_clock (k a1 a2 a3) (a4 : W128 → Clus) (h4 : ∀ x0, (a4 x0).clock = k.clock) :
    (Clus.vHead k a1 a2 a3 a4).clock = k.clock := by
  unfold Clus.vHead
  repeat' (first | with_reducible rfl | (simp only [↓Clus.vFatal_clock, ↓Core.clock_eta, ↓Core.clock_mk, ↓Clus.clock_mk, ↓Clus.core_clock, h4, ↓foldl_clock_Core, ↓iter_clock_Core, ↓foldl_clock_Clus, ↓iter_clock_Clus, implies_true, apply_ite Clus.clock, ite_self]; done) | with_reducible refine ite_clock_Clus ?_ ?_ | with_reducible refine foldl_clock_Clus' (fun _ _ => ?_) ?_ | with_reducible refine iter_clock_Clus' (fun _ _ => ?_) ?_ | with_reducible refine foldl2_clock_Clus' (fun _ _ => ?_) ?_ | with_reducible refine foldl3_clock_Clus' (fun _ _ => ?_) ?_ | with_reducible refine ite_clock_Core ?_ ?_ | with_reducible refine foldl_clock_Core' (fun _ _ => ?_) ?_ | with_reducible refine iter_clock_Core' (fun _ _ => ?_) ?_ | with_reducible refine foldl2_clock_Core' (fun _ _ => ?_) ?_ | with_reducible refine foldl3_clock_Core' (fun _ _ => ?_) ?_ | simp only [↓Clus.vFatal_clock, ↓Core.clock_eta, ↓Core.clock_mk, ↓Clus.clock_mk, ↓Clus.core_clock, h4] | with_reducible refine of_eq_clock_Clus ‹_› ?_ | with_reducible refine of_eq1_clock_Clus ‹_› ?_ | with_reducible refine of_eq_clock_Core ‹_› ?_ | with_reducible refine of_eq1_clock_Core ‹_› ?_ | split | dsimp only)

theorem Clus.gatherGo_clock (k a1 a2 a3) (a4 : W128 → Nat → List Nat → Clus) (h4 : ∀ x0 x1 x2, (a4 x0 x1 x2).clock = k.clock) :
    (Clus.gatherGo k a1 a2 a3 a4).clock = k.clock := by
  unfold Clus.gatherGo
  repeat' (first | with_reducible rfl | (simp only [↓Clus.vFatal_clock, ↓Clus.vHead_clock, ↓Core.clock_eta, ↓Core.clock_mk, ↓Clus.clock_mk, ↓Clus.core_clock, h4, ↓foldl_clock_Core, ↓iter_clock_Core, ↓foldl_clock_Clus, ↓iter_clock_Clus, implies_true, apply_ite Clus.clock, ite_self]; done) | with_reducible refine (Clus.vHead_clock _ _ _ _ _ (fun _ => ?_)).trans ?_ | with_reducible refine ite_clock_Clus ?_ ?_ | with_reducible refine foldl_clock_Clus' (fun _ _ => ?_) ?_ | with_reducible refine iter_clock_Clus' (fun _ _ => ?_) ?_ | with_reducible refine foldl2_clock_Clus' (fun _ _ => ?_) ?_ | with_reducible refine foldl3_clock_Clus' (fun _ _ => ?_) ?_ | with_reducible refine ite_clock_Core ?_ ?_ | with_reducible refine foldl_clock_Core' (fun _ _ => ?_) ?_ | with_reducible refine iter_clock_Core' (fun _ _ => ?_) ?_ | with_reducible refine foldl2_clock_Core' (fun _ _ => ?_) ?_ | with_reducible refine foldl3_clock_Core' (fun _ _ => ?_) ?_ | simp only [↓Clus.vFatal_clock, ↓Clus.vHead_clock, ↓Core.clock_eta, ↓Core.clock_mk, ↓Clus.clock_mk, ↓Clus.core_clock, h4] | with_reducible refine of_eq_clock_Clus ‹_› ?_ | with_reducible refine of_eq1_clock_Clus ‹_› ?_ | with_reducible refine of_eq_clock_Core ‹_› ?_ | with_reducible refine of_eq1_clock_Core ‹_› ?_ | split | dsimp only)

theorem Clus.ringPlace_clock (k a1 a2 a3) : ∀ x, Clus.ringPlace k a1 a2 a3 = some x → x.clock = k.clock := by
  intro x hx
  unfold Clus.ringPlace at hx
  dsimp only at hx
  repeat' split at hx
  all_goals first
    | contradiction
    | (injection hx with hx
       subst hx
       repeat' (first | with_reducible rfl | (simp only [↓Core.incSat_clock, ↓Core.incWrap_clock, ↓Core.setRing_clock, ↓Core.winWr_clock, ↓Core.clock_eta, ↓Core.clock_mk, ↓Clus.clock_mk, ↓Clus.core_clock, ↓foldl_clock_Core, ↓iter_clock_Core, ↓foldl_clock_Clus, ↓iter_clock_Clus, implies_true, apply_ite Clus.clock, ite_self]; done) | with_reducible refine ite_clock_Clus ?_ ?_ | with_reducible refine foldl_clock_Clus' (fun _ _ => ?_) ?_ | with_reducible refine iter_clock_Clus' (fun _ _ => ?_) ?_ | with_reducible refine foldl2_clock_Clus' (fun _ _ => ?_) ?_ | with_reducible refine foldl3_clock_Clus' (fun _ _ => ?_) ?_ | with_reducible refine ite_clock_Core ?_ ?_ | with_reducible refine foldl_clock_Core' (fun _ _ => ?_) ?_ | with_reducible refine iter_clock_Core' (fun _ _ => ?_) ?_ | with_reducible refine foldl2_clock_Core' (fun _ _ => ?_) ?_ | with_reducible refine foldl3_clock_Core' (fun _ _ => ?_) ?_ | simp only [↓Core.incSat_clock, ↓Core.incWrap_clock, ↓Core.setRing_clock, ↓Core.winWr_clock, ↓Core.clock_eta, ↓Core.clock_mk, ↓Clus.clock_mk, ↓Clus.core_clock] | with_reducible refine of_eq_clock_Clus ‹_› ?_ | with_reducible refine of_eq1_clock_Clus ‹_› ?_ | with_reducible refine of_eq_clock_Core ‹_› ?_ | with_reducible refine of_eq1_clock_Core ‹_› ?_ | split | dsimp only))

theorem Clus.countRefused_clock (k a1 a2) : (Clus.countRefused k a1 a2).clock = k.clock := by
  unfold Clus.countRefused
  repeat' (first | with_reducible rfl | (simp only [↓Core.incSat_clock, ↓Core.clock_eta, ↓Core.clock_mk, ↓Clus.clock_mk, ↓Clus.core_clock, ↓Clus.onCore_clock, ↓foldl_clock_Core, ↓iter_clock_Core, ↓foldl_clock_Clus, ↓iter_clock_Clus, implies_true, apply_ite Clus.clock, ite_self]; done) | with_reducible refine ite_clock_Clus ?_ ?_ | with_reducible refine foldl_clock_Clus' (fun _ _ => ?_) ?_ | with_reducible refine iter_clock_Clus' (fun _ _ => ?_) ?_ | with_reducible refine foldl2_clock_Clus' (fun _ _ => ?_) ?_ | with_reducible refine foldl3_clock_Clus' (fun _ _ => ?_) ?_ | with_reducible refine ite_clock_Core ?_ ?_ | with_reducible refine foldl_clock_Core' (fun _ _ => ?_) ?_ | with_reducible refine iter_clock_Core' (fun _ _ => ?_) ?_ | with_reducible refine foldl2_clock_Core' (fun _ _ => ?_) ?_ | with_reducible refine foldl3_clock_Core' (fun _ _ => ?_) ?_ | simp only [↓Core.incSat_clock, ↓Core.clock_eta, ↓Core.clock_mk, ↓Clus.clock_mk, ↓Clus.core_clock, ↓Clus.onCore_clock] | with_reducible refine of_eq_clock_Clus ‹_› ?_ | with_reducible refine of_eq1_clock_Clus ‹_› ?_ | with_reducible refine of_eq_clock_Core ‹_› ?_ | with_reducible refine of_eq1_clock_Core ‹_› ?_ | split | dsimp only)

theorem Clus.refuseMsg_clock (k a1 a2) : (Clus.refuseMsg k a1 a2).clock = k.clock := by
  unfold Clus.refuseMsg
  repeat' (first | with_reducible rfl | (simp only [↓Clus.countRefused_clock, ↓Clus.dropMsg_clock, ↓Core.record_clock, ↓Core.clock_eta, ↓Core.clock_mk, ↓Clus.clock_mk, ↓Clus.core_clock, ↓Clus.onCore_clock, ↓foldl_clock_Core, ↓iter_clock_Core, ↓foldl_clock_Clus, ↓iter_clock_Clus, implies_true, apply_ite Clus.clock, ite_self]; done) | with_reducible refine ite_clock_Clus ?_ ?_ | with_reducible refine foldl_clock_Clus' (fun _ _ => ?_) ?_ | with_reducible refine iter_clock_Clus' (fun _ _ => ?_) ?_ | with_reducible refine foldl2_clock_Clus' (fun _ _ => ?_) ?_ | with_reducible refine foldl3_clock_Clus' (fun _ _ => ?_) ?_ | with_reducible refine ite_clock_Core ?_ ?_ | with_reducible refine foldl_clock_Core' (fun _ _ => ?_) ?_ | with_reducible refine iter_clock_Core' (fun _ _ => ?_) ?_ | with_reducible refine foldl2_clock_Core' (fun _ _ => ?_) ?_ | with_reducible refine foldl3_clock_Core' (fun _ _ => ?_) ?_ | simp only [↓Clus.countRefused_clock, ↓Clus.dropMsg_clock, ↓Core.record_clock, ↓Core.clock_eta, ↓Core.clock_mk, ↓Clus.clock_mk, ↓Clus.core_clock, ↓Clus.onCore_clock] | with_reducible refine of_eq_clock_Clus ‹_› ?_ | with_reducible refine of_eq1_clock_Clus ‹_› ?_ | with_reducible refine of_eq_clock_Core ‹_› ?_ | with_reducible refine of_eq1_clock_Core ‹_› ?_ | split | dsimp only)

theorem Clus.heldPlace_clock (k a1) : (Clus.heldPlace k a1).clock = k.clock := by
  unfold Clus.heldPlace
  repeat' (first | with_reducible rfl | (simp only [↓Clus.countRefused_clock, ↓Clus.drainAll_clock, ↓Clus.refuseMsg_clock, ↓Clus.ringPlace_clock, ↓Clus.setHeld_clock, ↓Core.incSat_clock, ↓Core.clock_eta, ↓Core.clock_mk, ↓Clus.clock_mk, ↓Clus.core_clock, ↓Clus.onCore_clock, ↓foldl_clock_Core, ↓iter_clock_Core, ↓foldl_clock_Clus, ↓iter_clock_Clus, implies_true, apply_ite Clus.clock, ite_self]; done) | with_reducible refine ite_clock_Clus ?_ ?_ | with_reducible refine foldl_clock_Clus' (fun _ _ => ?_) ?_ | with_reducible refine iter_clock_Clus' (fun _ _ => ?_) ?_ | with_reducible refine foldl2_clock_Clus' (fun _ _ => ?_) ?_ | with_reducible refine foldl3_clock_Clus' (fun _ _ => ?_) ?_ | with_reducible refine ite_clock_Core ?_ ?_ | with_reducible refine foldl_clock_Core' (fun _ _ => ?_) ?_ | with_reducible refine iter_clock_Core' (fun _ _ => ?_) ?_ | with_reducible refine foldl2_clock_Core' (fun _ _ => ?_) ?_ | with_reducible refine foldl3_clock_Core' (fun _ _ => ?_) ?_ | with_reducible refine getD_clock_Clus (fun _ hx => (Clus.ringPlace_clock _ _ _ _ _ hx).trans ?_) ?_ | simp only [↓Clus.countRefused_clock, ↓Clus.drainAll_clock, ↓Clus.refuseMsg_clock, ↓Clus.ringPlace_clock, ↓Clus.setHeld_clock, ↓Core.incSat_clock, ↓Core.clock_eta, ↓Core.clock_mk, ↓Clus.clock_mk, ↓Clus.core_clock, ↓Clus.onCore_clock] | with_reducible refine of_eq_clock_Clus ‹_› ?_ | with_reducible refine of_eq1_clock_Clus ‹_› ?_ | with_reducible refine of_eq_clock_Core ‹_› ?_ | with_reducible refine of_eq1_clock_Core ‹_› ?_ | with_reducible refine (Clus.ringPlace_clock _ _ _ _ _ ‹_›).trans ?_ | split | dsimp only)

theorem Clus.hextClear_clock (k a1) : (Clus.hextClear k a1).clock = k.clock := by
  unfold Clus.hextClear
  simp only [↓Clus.core_clock, ↓Clus.onCore_clock, ↓Core.setFld_clock, ↓iter_clock_Clus, implies_true, apply_ite Clus.clock, ite_self]

theorem Clus.homeLag_clock (k a1) : (Clus.homeLag k a1).clock = k.clock := by
  unfold Clus.homeLag
  simp only [↓Clus.clock_mk, ↓Clus.core_clock, ↓Core.record_clock, ↓iter_clock_Clus, implies_true, apply_ite Clus.clock, ite_self]

theorem Clus.illegal_clock (k a1) : (Clus.illegal k a1).clock = k.clock := by
  unfold Clus.illegal
  simp only [↓Clus.sDo_clock, ↓Clus.sTrap_clock, implies_true]

theorem Clus.keepBanks_clock (k a1) : (Clus.keepBanks k a1).clock = k.clock := by
  unfold Clus.keepBanks
  simp only [↓Clus.clock_mk, ↓Clus.core_clock]

theorem Clus.lnNoProgress_clock (k a1 a2 a3) : (Clus.lnNoProgress k a1 a2 a3).clock = k.clock := by
  unfold Clus.lnNoProgress
  repeat' (first | with_reducible rfl | (simp only [↓Core.record_clock, ↓Core.clock_eta, ↓Core.clock_mk, ↓Clus.clock_mk, ↓Clus.core_clock, ↓Clus.onCore_clock, ↓foldl_clock_Core, ↓iter_clock_Core, ↓foldl_clock_Clus, ↓iter_clock_Clus, implies_true, apply_ite Clus.clock, ite_self]; done) | with_reducible refine ite_clock_Clus ?_ ?_ | with_reducible refine foldl_clock_Clus' (fun _ _ => ?_) ?_ | with_reducible refine iter_clock_Clus' (fun _ _ => ?_) ?_ | with_reducible refine foldl2_clock_Clus' (fun _ _ => ?_) ?_ | with_reducible refine foldl3_clock_Clus' (fun _ _ => ?_) ?_ | with_reducible refine ite_clock_Core ?_ ?_ | with_reducible refine foldl_clock_Core' (fun _ _ => ?_) ?_ | with_reducible refine iter_clock_Core' (fun _ _ => ?_) ?_ | with_reducible refine foldl2_clock_Core' (fun _ _ => ?_) ?_ | with_reducible refine foldl3_clock_Core' (fun _ _ => ?_) ?_ | simp only [↓Core.record_clock, ↓Core.clock_eta, ↓Core.clock_mk, ↓Clus.clock_mk, ↓Clus.core_clock, ↓Clus.onCore_clock] | with_reducible refine of_eq_clock_Clus ‹_› ?_ | with_reducible refine of_eq1_clock_Clus ‹_› ?_ | with_reducible refine of_eq_clock_Core ‹_› ?_ | with_reducible refine of_eq1_clock_Core ‹_› ?_ | split | dsimp only)

theorem Clus.sPoison_clock (k a1 a2) : (Clus.sPoison k a1 a2).clock = k.clock := by
  unfold Clus.sPoison
  simp only [↓Clus.causeEvent_clock, ↓Clus.closeJob_clock, ↓Clus.faultJob_clock, ↓Clus.sCapture_clock, ↓Clus.sHalt_clock, apply_ite Clus.clock, ite_self]

theorem Clus.sLoad_clock (k a1 a2 a3) (a4 : Clus → Nat → Clus) (h4 : ∀ x0 x1, (a4 x0 x1).clock = x0.clock) :
    (Clus.sLoad k a1 a2 a3 a4).clock = k.clock := by
  unfold Clus.sLoad
  repeat' (first | with_reducible rfl | (simp only [↓Clus.readOp_clock, ↓Clus.sPoison_clock, ↓Clus.sTrap_clock, ↓Core.clock_eta, ↓Core.clock_mk, ↓Clus.clock_mk, ↓Clus.core_clock, h4, ↓foldl_clock_Core, ↓iter_clock_Core, ↓foldl_clock_Clus, ↓iter_clock_Clus, implies_true, apply_ite Clus.clock, ite_self, apply_ite Prod.fst, apply_ite Prod.snd]; done) | with_reducible refine ite_clock_Clus ?_ ?_ | with_reducible refine foldl_clock_Clus' (fun _ _ => ?_) ?_ | with_reducible refine iter_clock_Clus' (fun _ _ => ?_) ?_ | with_reducible refine foldl2_clock_Clus' (fun _ _ => ?_) ?_ | with_reducible refine foldl3_clock_Clus' (fun _ _ => ?_) ?_ | with_reducible refine ite_clock_Core ?_ ?_ | with_reducible refine foldl_clock_Core' (fun _ _ => ?_) ?_ | with_reducible refine iter_clock_Core' (fun _ _ => ?_) ?_ | with_reducible refine foldl2_clock_Core' (fun _ _ => ?_) ?_ | with_reducible refine foldl3_clock_Core' (fun _ _ => ?_) ?_ | simp only [↓Clus.readOp_clock, ↓Clus.sPoison_clock, ↓Clus.sTrap_clock, ↓Core.clock_eta, ↓Core.clock_mk, ↓Clus.clock_mk, ↓Clus.core_clock, h4] | with_reducible refine of_eq_clock_Clus ‹_› ?_ | with_reducible refine of_eq1_clock_Clus ‹_› ?_ | with_reducible refine of_eq_clock_Core ‹_› ?_ | with_reducible refine of_eq1_clock_Core ‹_› ?_ | split | dsimp only)

theorem Clus.loadInstr_clock (k a1 a2 a3 a4 a5 a6) : (Clus.loadInstr k a1 a2 a3 a4 a5 a6).clock = k.clock := by
  unfold Clus.loadInstr
  simp only [↓Clus.sDo_clock, ↓Clus.sLoad_clock, ↓Clus.sSet_clock, ↓Clus.sTrap_clock, implies_true, apply_ite Clus.clock, ite_self]

theorem Clus.vLockstep_clock (k a1 a2 a3 a4) : (Clus.vLockstep k a1 a2 a3 a4).clock = k.clock := by
  unfold Clus.vLockstep
  repeat' (first | with_reducible rfl | (simp only [↓Clus.causeEvent_clock, ↓Clus.vCapture_clock, ↓Clus.vHalt_clock, ↓Core.incSat_clock, ↓Core.clock_eta, ↓Core.clock_mk, ↓Clus.clock_mk, ↓Clus.core_clock, ↓Clus.onCore_clock, ↓foldl_clock_Core, ↓iter_clock_Core, ↓foldl_clock_Clus, ↓iter_clock_Clus, implies_true, apply_ite Clus.clock, ite_self]; done) | with_reducible refine ite_clock_Clus ?_ ?_ | with_reducible refine foldl_clock_Clus' (fun _ _ => ?_) ?_ | with_reducible refine iter_clock_Clus' (fun _ _ => ?_) ?_ | with_reducible refine foldl2_clock_Clus' (fun _ _ => ?_) ?_ | with_reducible refine foldl3_clock_Clus' (fun _ _ => ?_) ?_ | with_reducible refine ite_clock_Core ?_ ?_ | with_reducible refine foldl_clock_Core' (fun _ _ => ?_) ?_ | with_reducible refine iter_clock_Core' (fun _ _ => ?_) ?_ | with_reducible refine foldl2_clock_Core' (fun _ _ => ?_) ?_ | with_reducible refine foldl3_clock_Core' (fun _ _ => ?_) ?_ | simp only [↓Clus.causeEvent_clock, ↓Clus.vCapture_clock, ↓Clus.vHalt_clock, ↓Core.incSat_clock, ↓Core.clock_eta, ↓Core.clock_mk, ↓Clus.clock_mk, ↓Clus.core_clock, ↓Clus.onCore_clock] | with_reducible refine of_eq_clock_Clus ‹_› ?_ | with_reducible refine of_eq1_clock_Clus ‹_› ?_ | with_reducible refine of_eq_clock_Core ‹_› ?_ | with_reducible refine of_eq1_clock_Core ‹_› ?_ | split | dsimp only)

theorem Core.draw_clock (k) : (Core.draw k).2.clock = k.clock := by
  unfold Core.draw
  simp only [↓Core.clock_eta, ↓Core.clock_mk]

theorem Clus.vMismatch_clock (k a1 a2) : (Clus.vMismatch k a1 a2).clock = k.clock := by
  unfold Clus.vMismatch
  repeat' (first | with_reducible rfl | (simp only [↓Clus.vLockstep_clock, ↓Core.draw_clock, ↓Core.clock_eta, ↓Core.clock_mk, ↓Clus.clock_mk, ↓Clus.core_clock, ↓foldl_clock_Core, ↓iter_clock_Core, ↓foldl_clock_Clus, ↓iter_clock_Clus, implies_true, apply_ite Clus.clock, ite_self, apply_ite Prod.fst, apply_ite Prod.snd]; done) | with_reducible refine ite_clock_Clus ?_ ?_ | with_reducible refine foldl_clock_Clus' (fun _ _ => ?_) ?_ | with_reducible refine iter_clock_Clus' (fun _ _ => ?_) ?_ | with_reducible refine foldl2_clock_Clus' (fun _ _ => ?_) ?_ | with_reducible refine foldl3_clock_Clus' (fun _ _ => ?_) ?_ | with_reducible refine ite_clock_Core ?_ ?_ | with_reducible refine foldl_clock_Core' (fun _ _ => ?_) ?_ | with_reducible refine iter_clock_Core' (fun _ _ => ?_) ?_ | with_reducible refine foldl2_clock_Core' (fun _ _ => ?_) ?_ | with_reducible refine foldl3_clock_Core' (fun _ _ => ?_) ?_ | simp only [↓Clus.vLockstep_clock, ↓Core.draw_clock, ↓Core.clock_eta, ↓Core.clock_mk, ↓Clus.clock_mk, ↓Clus.core_clock] | with_reducible refine of_eq_clock_Clus ‹_› ?_ | with_reducible refine of_eq1_clock_Clus ‹_› ?_ | with_reducible refine of_eq_clock_Core ‹_› ?_ | with_reducible refine of_eq1_clock_Core ‹_› ?_ | split | dsimp only)

theorem Clus.lockstepMismatch_clock (k a1 a2) : (Clus.lockstepMismatch k a1 a2).clock = k.clock := by
  unfold Clus.lockstepMismatch
  repeat' (first | with_reducible rfl | (simp only [↓Clus.sLockstep_clock, ↓Clus.vMismatch_clock, ↓Core.clock_eta, ↓Core.clock_mk, ↓Clus.clock_mk, ↓Clus.core_clock, ↓foldl_clock_Core, ↓iter_clock_Core, ↓foldl_clock_Clus, ↓iter_clock_Clus, implies_true, apply_ite Clus.clock, ite_self]; done) | with_reducible refine ite_clock_Clus ?_ ?_ | with_reducible refine foldl_clock_Clus' (fun _ _ => ?_) ?_ | with_reducible refine iter_clock_Clus' (fun _ _ => ?_) ?_ | with_reducible refine foldl2_clock_Clus' (fun _ _ => ?_) ?_ | with_reducible refine foldl3_clock_Clus' (fun _ _ => ?_) ?_ | with_reducible refine ite_clock_Core ?_ ?_ | with_reducible refine foldl_clock_Core' (fun _ _ => ?_) ?_ | with_reducible refine iter_clock_Core' (fun _ _ => ?_) ?_ | with_reducible refine foldl2_clock_Core' (fun _ _ => ?_) ?_ | with_reducible refine foldl3_clock_Core' (fun _ _ => ?_) ?_ | simp only [↓Clus.sLockstep_clock, ↓Clus.vMismatch_clock, ↓Core.clock_eta, ↓Core.clock_mk, ↓Clus.clock_mk, ↓Clus.core_clock] | with_reducible refine of_eq_clock_Clus ‹_› ?_ | with_reducible refine of_eq1_clock_Clus ‹_› ?_ | with_reducible refine of_eq_clock_Core ‹_› ?_ | with_reducible refine of_eq1_clock_Core ‹_› ?_ | split | dsimp only)

theorem Clus.lsFlip_clock (k a1 a2) : (Clus.lsFlip k a1 a2).clock = k.clock := by
  unfold Clus.lsFlip
  repeat' (first | (simp only [↓Clus.core_clock, ↓Clus.onCore_clock, ↓Core.setFld_clock]; done) | with_reducible refine ite_clock_Clus ?_ ?_ | split)

theorem Clus.setMQueue_clock (k a1 a2 a3) : (Clus.setMQueue k a1 a2 a3).clock = k.clock := by
  unfold Clus.setMQueue
  simp only [↓Clus.clock_mk, ↓Clus.core_clock]

theorem Clus.newMHead_clock (k a1 a2 a3) : (Clus.newMHead k a1 a2 a3).clock = k.clock := by
  unfold Clus.newMHead
  repeat' (first | with_reducible rfl | (simp only [↓Clus.setMQueue_clock, ↓Core.clock_eta, ↓Core.clock_mk, ↓Clus.clock_mk, ↓Clus.core_clock, ↓foldl_clock_Core, ↓iter_clock_Core, ↓foldl_clock_Clus, ↓iter_clock_Clus, implies_true, apply_ite Clus.clock, ite_self]; done) | with_reducible refine ite_clock_Clus ?_ ?_ | with_reducible refine foldl_clock_Clus' (fun _ _ => ?_) ?_ | with_reducible refine iter_clock_Clus' (fun _ _ => ?_) ?_ | with_reducible refine foldl2_clock_Clus' (fun _ _ => ?_) ?_ | with_reducible refine foldl3_clock_Clus' (fun _ _ => ?_) ?_ | with_reducible refine ite_clock_Core ?_ ?_ | with_reducible refine foldl_clock_Core' (fun _ _ => ?_) ?_ | with_reducible refine iter_clock_Core' (fun _ _ => ?_) ?_ | with_reducible refine foldl2_clock_Core' (fun _ _ => ?_) ?_ | with_reducible refine foldl3_clock_Core' (fun _ _ => ?_) ?_ | simp only [↓Clus.setMQueue_clock, ↓Core.clock_eta, ↓Core.clock_mk, ↓Clus.clock_mk, ↓Clus.core_clock] | with_reducible refine of_eq_clock_Clus ‹_› ?_ | with_reducible refine of_eq1_clock_Clus ‹_› ?_ | with_reducible refine of_eq_clock_Core ‹_› ?_ | with_reducible refine of_eq1_clock_Core ‹_› ?_ | split | dsimp only)

theorem Clus.mBad_clock (k a1 a2 a3) : (Clus.mBad k a1 a2 a3).clock = k.clock := by
  unfold Clus.mBad
  repeat' (first | with_reducible rfl | (simp only [↓Clus.fatalEvent_clock, ↓Clus.newMHead_clock, ↓Core.clock_eta, ↓Core.clock_mk, ↓Clus.clock_mk, ↓Clus.core_clock, ↓foldl_clock_Core, ↓iter_clock_Core, ↓foldl_clock_Clus, ↓iter_clock_Clus, implies_true, apply_ite Clus.clock, ite_self]; done) | with_reducible refine ite_clock_Clus ?_ ?_ | with_reducible refine foldl_clock_Clus' (fun _ _ => ?_) ?_ | with_reducible refine iter_clock_Clus' (fun _ _ => ?_) ?_ | with_reducible refine foldl2_clock_Clus' (fun _ _ => ?_) ?_ | with_reducible refine foldl3_clock_Clus' (fun _ _ => ?_) ?_ | with_reducible refine ite_clock_Core ?_ ?_ | with_reducible refine foldl_clock_Core' (fun _ _ => ?_) ?_ | with_reducible refine iter_clock_Core' (fun _ _ => ?_) ?_ | with_reducible refine foldl2_clock_Core' (fun _ _ => ?_) ?_ | with_reducible refine foldl3_clock_Core' (fun _ _ => ?_) ?_ | simp only [↓Clus.fatalEvent_clock, ↓Clus.newMHead_clock, ↓Core.clock_eta, ↓Core.clock_mk, ↓Clus.clock_mk, ↓Clus.core_clock] | with_reducible refine of_eq_clock_Clus ‹_› ?_ | with_reducible refine of_eq1_clock_Clus ‹_› ?_ | with_reducible refine of_eq_clock_Core ‹_› ?_ | with_reducible refine of_eq1_clock_Core ‹_› ?_ | split | dsimp only)

theorem Clus.sgAdd_clock (k a1 a2 a3 a4 a5) : (Clus.sgAdd k a1 a2 a3 a4 a5).clock = k.clock := by
  unfold Clus.sgAdd
  repeat' (first | with_reducible rfl | (simp only [↓Core.incSat_clock, ↓Core.record_clock, ↓Core.setFld_clock, ↓Core.wr8_clock, ↓Core.clock_eta, ↓Core.clock_mk, ↓Clus.clock_mk, ↓Clus.core_clock, ↓Clus.onCore_clock, ↓foldl_clock_Core, ↓iter_clock_Core, ↓foldl_clock_Clus, ↓iter_clock_Clus, implies_true, apply_ite Clus.clock, ite_self]; done) | with_reducible refine ite_clock_Clus ?_ ?_ | with_reducible refine foldl_clock_Clus' (fun _ _ => ?_) ?_ | with_reducible refine iter_clock_Clus' (fun _ _ => ?_) ?_ | with_reducible refine foldl2_clock_Clus' (fun _ _ => ?_) ?_ | with_reducible refine foldl3_clock_Clus' (fun _ _ => ?_) ?_ | with_reducible refine ite_clock_Core ?_ ?_ | with_reducible refine foldl_clock_Core' (fun _ _ => ?_) ?_ | with_reducible refine iter_clock_Core' (fun _ _ => ?_) ?_ | with_reducible refine foldl2_clock_Core' (fun _ _ => ?_) ?_ | with_reducible refine foldl3_clock_Core' (fun _ _ => ?_) ?_ | simp only [↓Core.incSat_clock, ↓Core.record_clock, ↓Core.setFld_clock, ↓Core.wr8_clock, ↓Core.clock_eta, ↓Core.clock_mk, ↓Clus.clock_mk, ↓Clus.core_clock, ↓Clus.onCore_clock] | with_reducible refine of_eq_clock_Clus ‹_› ?_ | with_reducible refine of_eq1_clock_Clus ‹_› ?_ | with_reducible refine of_eq_clock_Core ‹_› ?_ | with_reducible refine of_eq1_clock_Core ‹_› ?_ | split | dsimp only)

theorem Clus.sgZero_clock (k a1 a2) : (Clus.sgZero k a1 a2).clock = k.clock := by
  unfold Clus.sgZero
  repeat' (first | with_reducible rfl | (simp only [↓Core.zero_clock, ↓Core.clock_eta, ↓Core.clock_mk, ↓Clus.clock_mk, ↓Clus.core_clock, ↓Clus.onCore_clock, ↓foldl_clock_Core, ↓iter_clock_Core, ↓foldl_clock_Clus, ↓iter_clock_Clus, implies_true, apply_ite Clus.clock, ite_self]; done) | with_reducible refine ite_clock_Clus ?_ ?_ | with_reducible refine foldl_clock_Clus' (fun _ _ => ?_) ?_ | with_reducible refine iter_clock_Clus' (fun _ _ => ?_) ?_ | with_reducible refine foldl2_clock_Clus' (fun _ _ => ?_) ?_ | with_reducible refine foldl3_clock_Clus' (fun _ _ => ?_) ?_ | with_reducible refine ite_clock_Core ?_ ?_ | with_reducible refine foldl_clock_Core' (fun _ _ => ?_) ?_ | with_reducible refine iter_clock_Core' (fun _ _ => ?_) ?_ | with_reducible refine foldl2_clock_Core' (fun _ _ => ?_) ?_ | with_reducible refine foldl3_clock_Core' (fun _ _ => ?_) ?_ | simp only [↓Core.zero_clock, ↓Core.clock_eta, ↓Core.clock_mk, ↓Clus.clock_mk, ↓Clus.core_clock, ↓Clus.onCore_clock] | with_reducible refine of_eq_clock_Clus ‹_› ?_ | with_reducible refine of_eq1_clock_Clus ‹_› ?_ | with_reducible refine of_eq_clock_Core ‹_› ?_ | with_reducible refine of_eq1_clock_Core ‹_› ?_ | split | dsimp only)

theorem Clus.mCommit_clock (k a1 a2 a3 a4 a5) : (Clus.mCommit k a1 a2 a3 a4 a5).clock = k.clock := by
  unfold Clus.mCommit
  repeat' (first | with_reducible rfl | (simp only [↓Clus.sgAdd_clock, ↓Clus.sgZero_clock, ↓Core.clock_eta, ↓Core.clock_mk, ↓Clus.clock_mk, ↓Clus.core_clock, ↓foldl_clock_Core, ↓iter_clock_Core, ↓foldl_clock_Clus, ↓iter_clock_Clus, implies_true, apply_ite Clus.clock, ite_self]; done) | with_reducible refine ite_clock_Clus ?_ ?_ | with_reducible refine foldl_clock_Clus' (fun _ _ => ?_) ?_ | with_reducible refine iter_clock_Clus' (fun _ _ => ?_) ?_ | with_reducible refine foldl2_clock_Clus' (fun _ _ => ?_) ?_ | with_reducible refine foldl3_clock_Clus' (fun _ _ => ?_) ?_ | with_reducible refine ite_clock_Core ?_ ?_ | with_reducible refine foldl_clock_Core' (fun _ _ => ?_) ?_ | with_reducible refine iter_clock_Core' (fun _ _ => ?_) ?_ | with_reducible refine foldl2_clock_Core' (fun _ _ => ?_) ?_ | with_reducible refine foldl3_clock_Core' (fun _ _ => ?_) ?_ | simp only [↓Clus.sgAdd_clock, ↓Clus.sgZero_clock, ↓Core.clock_eta, ↓Core.clock_mk, ↓Clus.clock_mk, ↓Clus.core_clock] | with_reducible refine of_eq_clock_Clus ‹_› ?_ | with_reducible refine of_eq1_clock_Clus ‹_› ?_ | with_reducible refine of_eq_clock_Core ‹_› ?_ | with_reducible refine of_eq1_clock_Core ‹_› ?_ | split | dsimp only)

theorem Clus.mDepart_clock (k a1 a2) : (Clus.mDepart k a1 a2).clock = k.clock := by
  unfold Clus.mDepart
  simp only [↓Clus.clock_mk, ↓Clus.core_clock]

theorem Clus.mHead_clock (k a1 a2 a3) (a4 : W128 → Clus) (h4 : ∀ x0, (a4 x0).clock = k.clock) :
    (Clus.mHead k a1 a2 a3 a4).clock = k.clock := by
  unfold Clus.mHead
  repeat' (first | with_reducible rfl | (simp only [↓Clus.mBad_clock, ↓Core.clock_eta, ↓Core.clock_mk, ↓Clus.clock_mk, ↓Clus.core_clock, h4, ↓foldl_clock_Core, ↓iter_clock_Core, ↓foldl_clock_Clus, ↓iter_clock_Clus, implies_true, apply_ite Clus.clock, ite_self]; done) | with_reducible refine ite_clock_Clus ?_ ?_ | with_reducible refine foldl_clock_Clus' (fun _ _ => ?_) ?_ | with_reducible refine iter_clock_Clus' (fun _ _ => ?_) ?_ | with_reducible refine foldl2_clock_Clus' (fun _ _ => ?_) ?_ | with_reducible refine foldl3_clock_Clus' (fun _ _ => ?_) ?_ | with_reducible refine ite_clock_Core ?_ ?_ | with_reducible refine foldl_clock_Core' (fun _ _ => ?_) ?_ | with_reducible refine iter_clock_Core' (fun _ _ => ?_) ?_ | with_reducible refine foldl2_clock_Core' (fun _ _ => ?_) ?_ | with_reducible refine foldl3_clock_Core' (fun _ _ => ?_) ?_ | simp only [↓Clus.mBad_clock, ↓Core.clock_eta, ↓Core.clock_mk, ↓Clus.clock_mk, ↓Clus.core_clock, h4] | with_reducible refine of_eq_clock_Clus ‹_› ?_ | with_reducible refine of_eq1_clock_Clus ‹_› ?_ | with_reducible refine of_eq_clock_Core ‹_› ?_ | with_reducible refine of_eq1_clock_Core ‹_› ?_ | split | dsimp only)

theorem Clus.mPoison_clock (k a1 a2 a3 a4) : (Clus.mPoison k a1 a2 a3 a4).clock = k.clock := by
  unfold Clus.mPoison
  simp only [↓Clus.causeEvent_clock, apply_ite Clus.clock, ite_self]

theorem Clus.popM_clock (k a1 a2) : (Clus.popM k a1 a2).clock = k.clock := by
  unfold Clus.popM
  repeat' (first | with_reducible rfl | (simp only [↓Clus.newMHead_clock, ↓Core.clock_eta, ↓Core.clock_mk, ↓Clus.clock_mk, ↓Clus.core_clock, ↓foldl_clock_Core, ↓iter_clock_Core, ↓foldl_clock_Clus, ↓iter_clock_Clus, implies_true, apply_ite Clus.clock, ite_self]; done) | with_reducible refine ite_clock_Clus ?_ ?_ | with_reducible refine foldl_clock_Clus' (fun _ _ => ?_) ?_ | with_reducible refine iter_clock_Clus' (fun _ _ => ?_) ?_ | with_reducible refine foldl2_clock_Clus' (fun _ _ => ?_) ?_ | with_reducible refine foldl3_clock_Clus' (fun _ _ => ?_) ?_ | with_reducible refine ite_clock_Core ?_ ?_ | with_reducible refine foldl_clock_Core' (fun _ _ => ?_) ?_ | with_reducible refine iter_clock_Core' (fun _ _ => ?_) ?_ | with_reducible refine foldl2_clock_Core' (fun _ _ => ?_) ?_ | with_reducible refine foldl3_clock_Core' (fun _ _ => ?_) ?_ | simp only [↓Clus.newMHead_clock, ↓Core.clock_eta, ↓Core.clock_mk, ↓Clus.clock_mk, ↓Clus.core_clock] | with_reducible refine of_eq_clock_Clus ‹_› ?_ | with_reducible refine of_eq1_clock_Clus ‹_› ?_ | with_reducible refine of_eq_clock_Core ‹_› ?_ | with_reducible refine of_eq1_clock_Core ‹_› ?_ | split | dsimp only)

theorem Clus.mResume_clock (k a1 a2) : (Clus.mResume k a1 a2).clock = k.clock := by
  unfold Clus.mResume
  repeat' (first | (simp only [↓Clus.clock_mk, ↓Clus.core_clock, ↓Clus.popM_clock, apply_ite Clus.clock, ite_self]; done) | with_reducible refine ite_clock_Clus ?_ ?_ | split)

theorem Clus.mcCapClr_clock (k a1 a2) : (Clus.mcCapClr k a1 a2).clock = k.clock := by
  unfold Clus.mcCapClr
  simp only [↓Clus.core_clock, ↓Clus.onCore_clock, ↓Core.zero_clock]

theorem Clus.mcCntClr_clock (k a1 a2) : (Clus.mcCntClr k a1 a2).clock = k.clock := by
  unfold Clus.mcCntClr
  simp only [↓Clus.core_clock, ↓Clus.onCore_clock, ↓Core.zero_clock]

theorem Clus.mcFlip_clock (k a1 a2 a3) : (Clus.mcFlip k a1 a2 a3).clock = k.clock := by
  unfold Clus.mcFlip
  simp only [↓Clus.core_clock, ↓Clus.onCore_clock, ↓Core.setFld_clock]

theorem Clus.mcMarginClr_clock (k a1 a2) : (Clus.mcMarginClr k a1 a2).clock = k.clock := by
  unfold Clus.mcMarginClr
  simp only [↓Clus.core_clock, ↓Clus.onCore_clock, ↓Core.wr_clock]

theorem Clus.mcSgClear_clock (k a1 a2) : (Clus.mcSgClear k a1 a2).clock = k.clock := by
  unfold Clus.mcSgClear
  repeat' (first | with_reducible rfl | (simp only [↓Clus.sgZero_clock, ↓Core.clock_eta, ↓Core.clock_mk, ↓Clus.clock_mk, ↓Clus.core_clock, ↓foldl_clock_Core, ↓iter_clock_Core, ↓foldl_clock_Clus, ↓iter_clock_Clus, implies_true, apply_ite Clus.clock, ite_self]; done) | with_reducible refine ite_clock_Clus ?_ ?_ | with_reducible refine foldl_clock_Clus' (fun _ _ => ?_) ?_ | with_reducible refine iter_clock_Clus' (fun _ _ => ?_) ?_ | with_reducible refine foldl2_clock_Clus' (fun _ _ => ?_) ?_ | with_reducible refine foldl3_clock_Clus' (fun _ _ => ?_) ?_ | with_reducible refine ite_clock_Core ?_ ?_ | with_reducible refine foldl_clock_Core' (fun _ _ => ?_) ?_ | with_reducible refine iter_clock_Core' (fun _ _ => ?_) ?_ | with_reducible refine foldl2_clock_Core' (fun _ _ => ?_) ?_ | with_reducible refine foldl3_clock_Core' (fun _ _ => ?_) ?_ | simp only [↓Clus.sgZero_clock, ↓Core.clock_eta, ↓Core.clock_mk, ↓Clus.clock_mk, ↓Clus.core_clock] | with_reducible refine of_eq_clock_Clus ‹_› ?_ | with_reducible refine of_eq1_clock_Clus ‹_› ?_ | with_reducible refine of_eq_clock_Core ‹_› ?_ | with_reducible refine of_eq1_clock_Core ‹_› ?_ | split | dsimp only)

theorem Clus.mchk_clock (k a1 a2) : (Clus.mchk k a1 a2).clock = k.clock := by
  unfold Clus.mchk
  simp only [↓Clus.clock_mk, ↓Clus.core_clock, ↓Clus.mBad_clock, ↓Clus.mHead_clock, ↓Clus.onCore_clock, ↓Clus.popM_clock, ↓Core.winWr_clock, implies_true, apply_ite Clus.clock, ite_self]

theorem Clus.mdrain_clock (k a1 a2) : (Clus.mdrain k a1 a2).clock = k.clock := by
  unfold Clus.mdrain
  simp only [↓Clus.clock_mk, ↓Clus.core_clock, ↓Clus.addShadow_clock, ↓Clus.mBad_clock, ↓Clus.mHead_clock, ↓Clus.popM_clock, ↓Clus.readOp_clock, ↓Clus.writeOp_clock, ↓iter_clock_Clus, implies_true, apply_ite Clus.clock, ite_self]

theorem Clus.holdMsg_clock (k a1 a2) : (Clus.holdMsg k a1 a2).clock = k.clock := by
  unfold Clus.holdMsg
  repeat' (first | with_reducible rfl | (simp only [↓Clus.setHeld_clock, ↓Core.clock_eta, ↓Core.clock_mk, ↓Clus.clock_mk, ↓Clus.core_clock, ↓foldl_clock_Core, ↓iter_clock_Core, ↓foldl_clock_Clus, ↓iter_clock_Clus, implies_true, apply_ite Clus.clock, ite_self]; done) | with_reducible refine ite_clock_Clus ?_ ?_ | with_reducible refine foldl_clock_Clus' (fun _ _ => ?_) ?_ | with_reducible refine iter_clock_Clus' (fun _ _ => ?_) ?_ | with_reducible refine foldl2_clock_Clus' (fun _ _ => ?_) ?_ | with_reducible refine foldl3_clock_Clus' (fun _ _ => ?_) ?_ | with_reducible refine ite_clock_Core ?_ ?_ | with_reducible refine foldl_clock_Core' (fun _ _ => ?_) ?_ | with_reducible refine iter_clock_Core' (fun _ _ => ?_) ?_ | with_reducible refine foldl2_clock_Core' (fun _ _ => ?_) ?_ | with_reducible refine foldl3_clock_Core' (fun _ _ => ?_) ?_ | simp only [↓Clus.setHeld_clock, ↓Core.clock_eta, ↓Core.clock_mk, ↓Clus.clock_mk, ↓Clus.core_clock] | with_reducible refine of_eq_clock_Clus ‹_› ?_ | with_reducible refine of_eq1_clock_Clus ‹_› ?_ | with_reducible refine of_eq_clock_Core ‹_› ?_ | with_reducible refine of_eq1_clock_Core ‹_› ?_ | split | dsimp only)

theorem Clus.pilotCopy_clock (k a1 a2 a3) : (Clus.pilotCopy k a1 a2 a3).clock = k.clock := by
  unfold Clus.pilotCopy
  repeat' (first | with_reducible rfl | (simp only [↓Clus.countRefused_clock, ↓Clus.holdMsg_clock, ↓Clus.ringPlace_clock, ↓Clus.setHeld_clock, ↓Core.clock_eta, ↓Core.clock_mk, ↓Clus.clock_mk, ↓Clus.core_clock, ↓foldl_clock_Core, ↓iter_clock_Core, ↓foldl_clock_Clus, ↓iter_clock_Clus, implies_true, apply_ite Clus.clock, ite_self]; done) | with_reducible refine ite_clock_Clus ?_ ?_ | with_reducible refine foldl_clock_Clus' (fun _ _ => ?_) ?_ | with_reducible refine iter_clock_Clus' (fun _ _ => ?_) ?_ | with_reducible refine foldl2_clock_Clus' (fun _ _ => ?_) ?_ | with_reducible refine foldl3_clock_Clus' (fun _ _ => ?_) ?_ | with_reducible refine ite_clock_Core ?_ ?_ | with_reducible refine foldl_clock_Core' (fun _ _ => ?_) ?_ | with_reducible refine iter_clock_Core' (fun _ _ => ?_) ?_ | with_reducible refine foldl2_clock_Core' (fun _ _ => ?_) ?_ | with_reducible refine foldl3_clock_Core' (fun _ _ => ?_) ?_ | with_reducible refine getD_clock_Clus (fun _ hx => (Clus.ringPlace_clock _ _ _ _ _ hx).trans ?_) ?_ | simp only [↓Clus.countRefused_clock, ↓Clus.holdMsg_clock, ↓Clus.ringPlace_clock, ↓Clus.setHeld_clock, ↓Core.clock_eta, ↓Core.clock_mk, ↓Clus.clock_mk, ↓Clus.core_clock] | with_reducible refine of_eq_clock_Clus ‹_› ?_ | with_reducible refine of_eq1_clock_Clus ‹_› ?_ | with_reducible refine of_eq_clock_Core ‹_› ?_ | with_reducible refine of_eq1_clock_Core ‹_› ?_ | with_reducible refine (Clus.ringPlace_clock _ _ _ _ _ ‹_›).trans ?_ | split | dsimp only)

theorem Clus.fencedDrop_clock (k a1 a2 a3) : (Clus.fencedDrop k a1 a2 a3).clock = k.clock := by
  unfold Clus.fencedDrop
  repeat' (first | with_reducible rfl | (simp only [↓Clus.countRefused_clock, ↓Clus.dropMsg_clock, ↓Core.note_clock, ↓Core.setFld_clock, ↓Core.clock_eta, ↓Core.clock_mk, ↓Clus.clock_mk, ↓Clus.core_clock, ↓Clus.onCore_clock, ↓foldl_clock_Core, ↓iter_clock_Core, ↓foldl_clock_Clus, ↓iter_clock_Clus, implies_true, apply_ite Clus.clock, ite_self]; done) | with_reducible refine ite_clock_Clus ?_ ?_ | with_reducible refine foldl_clock_Clus' (fun _ _ => ?_) ?_ | with_reducible refine iter_clock_Clus' (fun _ _ => ?_) ?_ | with_reducible refine foldl2_clock_Clus' (fun _ _ => ?_) ?_ | with_reducible refine foldl3_clock_Clus' (fun _ _ => ?_) ?_ | with_reducible refine ite_clock_Core ?_ ?_ | with_reducible refine foldl_clock_Core' (fun _ _ => ?_) ?_ | with_reducible refine iter_clock_Core' (fun _ _ => ?_) ?_ | with_reducible refine foldl2_clock_Core' (fun _ _ => ?_) ?_ | with_reducible refine foldl3_clock_Core' (fun _ _ => ?_) ?_ | simp only [↓Clus.countRefused_clock, ↓Clus.dropMsg_clock, ↓Core.note_clock, ↓Core.setFld_clock, ↓Core.clock_eta, ↓Core.clock_mk, ↓Clus.clock_mk, ↓Clus.core_clock, ↓Clus.onCore_clock] | with_reducible refine of_eq_clock_Clus ‹_› ?_ | with_reducible refine of_eq1_clock_Clus ‹_› ?_ | with_reducible refine of_eq_clock_Core ‹_› ?_ | with_reducible refine of_eq1_clock_Core ‹_› ?_ | split | dsimp only)

theorem Clus.messageArrive_clock (k a1) : (Clus.messageArrive k a1).clock = k.clock := by
  unfold Clus.messageArrive
  repeat' (first | with_reducible rfl | (simp only [↓Clus.fencedDrop_clock, ↓Clus.holdMsg_clock, ↓Clus.pilotCopy_clock, ↓Clus.refuseMsg_clock, ↓Clus.ringPlace_clock, ↓Core.clock_eta, ↓Core.clock_mk, ↓Clus.clock_mk, ↓Clus.core_clock, ↓foldl_clock_Core, ↓iter_clock_Core, ↓foldl_clock_Clus, ↓iter_clock_Clus, implies_true, apply_ite Clus.clock, ite_self]; done) | with_reducible refine ite_clock_Clus ?_ ?_ | with_reducible refine foldl_clock_Clus' (fun _ _ => ?_) ?_ | with_reducible refine iter_clock_Clus' (fun _ _ => ?_) ?_ | with_reducible refine foldl2_clock_Clus' (fun _ _ => ?_) ?_ | with_reducible refine foldl3_clock_Clus' (fun _ _ => ?_) ?_ | with_reducible refine ite_clock_Core ?_ ?_ | with_reducible refine foldl_clock_Core' (fun _ _ => ?_) ?_ | with_reducible refine iter_clock_Core' (fun _ _ => ?_) ?_ | with_reducible refine foldl2_clock_Core' (fun _ _ => ?_) ?_ | with_reducible refine foldl3_clock_Core' (fun _ _ => ?_) ?_ | with_reducible refine getD_clock_Clus (fun _ hx => (Clus.ringPlace_clock _ _ _ _ _ hx).trans ?_) ?_ | simp only [↓Clus.fencedDrop_clock, ↓Clus.holdMsg_clock, ↓Clus.pilotCopy_clock, ↓Clus.refuseMsg_clock, ↓Clus.ringPlace_clock, ↓Core.clock_eta, ↓Core.clock_mk, ↓Clus.clock_mk, ↓Clus.core_clock] | with_reducible refine of_eq_clock_Clus ‹_› ?_ | with_reducible refine of_eq1_clock_Clus ‹_› ?_ | with_reducible refine of_eq_clock_Core ‹_› ?_ | with_reducible refine of_eq1_clock_Core ‹_› ?_ | with_reducible refine (Clus.ringPlace_clock _ _ _ _ _ ‹_›).trans ?_ | split | dsimp only)

theorem Clus.mismatch_clock (k a1 a2) : (Clus.mismatch k a1 a2).clock = k.clock := by
  unfold Clus.mismatch
  simp only [↓Clus.causeEvent_clock]

theorem Clus.setMBuf_clock (k a1 a2 a3 a4) : (Clus.setMBuf k a1 a2 a3 a4).clock = k.clock := by
  unfold Clus.setMBuf
  simp only [↓Clus.clock_mk, ↓Clus.core_clock]

theorem Clus.setMLoad_clock (k a1 a2 a3) : (Clus.setMLoad k a1 a2 a3).clock = k.clock := by
  unfold Clus.setMLoad
  simp only [↓Clus.clock_mk, ↓Clus.core_clock]

theorem Clus.mload_clock (k a1 a2) : (Clus.mload k a1 a2).clock = k.clock := by
  unfold Clus.mload
  refine Clus.mHead_clock _ _ _ _ _ (fun w => ?_)
  repeat' (first | (simp only [↓Clus.addShadow_clock, ↓Clus.fatalEvent_clock, ↓Clus.mBad_clock, ↓Clus.mPoison_clock, ↓Clus.popM_clock, ↓Clus.readOp_clock, ↓Clus.setMBuf_clock, ↓Clus.setMLoad_clock, apply_ite Clus.clock, ite_self, apply_ite Prod.snd]; done) | with_reducible refine ite_clock_Pkg ?_ ?_ | with_reducible refine foldl_clock_Pkg' (fun _ _ => ?_) ?_ | with_reducible refine iter_clock_Pkg' (fun _ _ => ?_) ?_ | with_reducible refine foldl2_clock_Pkg' (fun _ _ => ?_) ?_ | with_reducible refine foldl3_clock_Pkg' (fun _ _ => ?_) ?_ | with_reducible refine ite_clock_Clus ?_ ?_ | with_reducible refine foldl_clock_Clus' (fun _ _ => ?_) ?_ | with_reducible refine iter_clock_Clus' (fun _ _ => ?_) ?_ | with_reducible refine foldl2_clock_Clus' (fun _ _ => ?_) ?_ | with_reducible refine foldl3_clock_Clus' (fun _ _ => ?_) ?_ | with_reducible refine ite_clock_Core ?_ ?_ | with_reducible refine foldl_clock_Core' (fun _ _ => ?_) ?_ | with_reducible refine iter_clock_Core' (fun _ _ => ?_) ?_ | with_reducible refine foldl2_clock_Core' (fun _ _ => ?_) ?_ | with_reducible refine foldl3_clock_Core' (fun _ _ => ?_) ?_ | simp only [↓Core.clock_eta, ↓Core.clock_mk, ↓Clus.clock_mk, ↓Pkg.clock_mk, ↓Clus.core_clock, ↓Pkg.cl_clock, ↓Clus.addShadow_clock, ↓Clus.fatalEvent_clock, ↓Clus.mBad_clock, ↓Clus.mHead_clock, ↓Clus.mPoison_clock, ↓Clus.popM_clock, ↓Clus.readOp_clock, ↓Clus.setMBuf_clock, ↓Clus.setMLoad_clock, ↓foldl_clock_Pkg, ↓foldl_clock_Clus, ↓foldl_clock_Core, implies_true, and_self, apply_ite Pkg.clock, apply_ite Clus.clock, apply_ite Core.clock, ite_self, apply_ite Prod.snd] | with_reducible refine of_eq_clock_Pkg ‹_› ?_ | with_reducible refine of_eq1_clock_Pkg ‹_› ?_ | with_reducible refine of_eq_clock_Clus ‹_› ?_ | with_reducible refine of_eq1_clock_Clus ‹_› ?_ | with_reducible refine of_eq_clock_Core ‹_› ?_ | with_reducible refine of_eq1_clock_Core ‹_› ?_ | split | dsimp only)

theorem Clus.mloadComplete_clock (k a1 a2) : (Clus.mloadComplete k a1 a2).clock = k.clock := by
  unfold Clus.mloadComplete
  repeat' (first | (simp only [↓Clus.setMBuf_clock, ↓Clus.setMLoad_clock]; done) | with_reducible refine ite_clock_Clus ?_ ?_ | split)

theorem Clus.setMRows_clock (k a1 a2 a3) : (Clus.setMRows k a1 a2 a3).clock = k.clock := by
  unfold Clus.setMRows
  simp only [↓Clus.clock_mk, ↓Clus.core_clock]

theorem Clus.setMChecks_clock (k a1 a2 a3) : (Clus.setMChecks k a1 a2 a3).clock = k.clock := by
  unfold Clus.setMChecks
  simp only [↓Clus.clock_mk, ↓Clus.core_clock]

theorem Clus.mmaRow_clock (k a1 a2 a3 a4 a5 a6 a7 a8) : (Clus.mmaRow k a1 a2 a3 a4 a5 a6 a7 a8).clock = k.clock := by
  unfold Clus.mmaRow
  repeat' (first | (simp only [↓Clus.core_clock, ↓Clus.addShadow_clock, ↓Clus.mPoison_clock, ↓Clus.onCore_clock, ↓Clus.readOp_clock, ↓Clus.setMChecks_clock, ↓Clus.setMRows_clock, ↓Core.setFld_clock, apply_ite Clus.clock, ite_self]; done) | with_reducible refine ite_clock_Clus ?_ ?_ | with_reducible refine foldl_clock_Clus' (fun _ _ => ?_) ?_ | with_reducible refine iter_clock_Clus' (fun _ _ => ?_) ?_ | simp only [↓Clus.core_clock, ↓Clus.addShadow_clock, ↓Clus.mPoison_clock, ↓Clus.onCore_clock, ↓Clus.setMChecks_clock, ↓Clus.setMRows_clock, ↓Core.setFld_clock, apply_ite Clus.clock, ite_self] | split | dsimp only)

theorem Clus.mmaGo_clock (k a1 a2 a3) : (Clus.mmaGo k a1 a2 a3).clock = k.clock := by
  unfold Clus.mmaGo
  repeat' (first | with_reducible rfl | (simp only [↓Clus.fatalEvent_clock, ↓Clus.mBad_clock, ↓Clus.mHead_clock, ↓Clus.mmaRow_clock, ↓Clus.newMHead_clock, ↓Clus.popM_clock, ↓Clus.readOp_clock, ↓Core.clock_eta, ↓Core.clock_mk, ↓Clus.clock_mk, ↓Clus.core_clock, ↓foldl_clock_Core, ↓iter_clock_Core, ↓foldl_clock_Clus, ↓iter_clock_Clus, implies_true, apply_ite Clus.clock, ite_self, apply_ite Prod.fst, apply_ite Prod.snd]; done) | with_reducible refine (Clus.mHead_clock _ _ _ _ _ (fun _ => ?_)).trans ?_ | with_reducible refine ite_clock_Clus ?_ ?_ | with_reducible refine foldl_clock_Clus' (fun _ _ => ?_) ?_ | with_reducible refine iter_clock_Clus' (fun _ _ => ?_) ?_ | with_reducible refine foldl2_clock_Clus' (fun _ _ => ?_) ?_ | with_reducible refine foldl3_clock_Clus' (fun _ _ => ?_) ?_ | with_reducible refine ite_clock_Core ?_ ?_ | with_reducible refine foldl_clock_Core' (fun _ _ => ?_) ?_ | with_reducible refine iter_clock_Core' (fun _ _ => ?_) ?_ | with_reducible refine foldl2_clock_Core' (fun _ _ => ?_) ?_ | with_reducible refine foldl3_clock_Core' (fun _ _ => ?_) ?_ | simp only [↓Clus.fatalEvent_clock, ↓Clus.mBad_clock, ↓Clus.mHead_clock, ↓Clus.mmaRow_clock, ↓Clus.newMHead_clock, ↓Clus.popM_clock, ↓Clus.readOp_clock, ↓Core.clock_eta, ↓Core.clock_mk, ↓Clus.clock_mk, ↓Clus.core_clock] | with_reducible refine of_eq_clock_Clus ‹_› ?_ | with_reducible refine of_eq1_clock_Clus ‹_› ?_ | with_reducible refine of_eq_clock_Core ‹_› ?_ | with_reducible refine of_eq1_clock_Core ‹_› ?_ | split | dsimp only)

theorem Clus.mma_clock (k a1 a2) : (Clus.mma k a1 a2).clock = k.clock := by
  unfold Clus.mma
  simp only [↓Clus.mmaGo_clock]

theorem Clus.mmas_clock (k a1 a2) : (Clus.mmas k a1 a2).clock = k.clock := by
  unfold Clus.mmas
  simp only [↓Clus.mmaGo_clock]

theorem Clus.moveDelay_clock (k a1 a2) : (Clus.moveDelay k a1 a2).1.clock = k.clock := by
  unfold Clus.moveDelay
  repeat' (first | (simp only [↓Clus.setArr_clock]; done) | with_reducible refine ite_clock_Clus ?_ ?_ | split | dsimp only)

theorem Clus.outByte_clock (k a1 a2 a3 a4 a5) : (Clus.outByte k a1 a2 a3 a4 a5).clock = k.clock := by
  unfold Clus.outByte
  repeat' (first | (simp only [↓Clus.flushOut_clock, ↓Clus.setArr_clock, apply_ite Clus.clock, ite_self]; done) | with_reducible refine ite_clock_Clus ?_ ?_ | split | dsimp only)

theorem Clus.portOut_clock (k a1 a2 a3) : (Clus.portOut k a1 a2 a3).clock = k.clock := by
  unfold Clus.portOut
  repeat' (first | (simp only [↓Clus.flushOut_clock, ↓Clus.outByte_clock, ↓Clus.setArr_clock, ↓foldl_clock_Clus, implies_true, apply_ite Clus.clock, ite_self]; done) | with_reducible refine ite_clock_Clus ?_ ?_ | split | dsimp only)

theorem Clus.moveOut_clock (k a1 a2 a3) : (Clus.moveOut k a1 a2 a3).1.clock = k.clock := by
  unfold Clus.moveOut
  repeat' (first | (simp only [↓Clus.enter_clock, ↓Clus.portOut_clock, ↓Clus.setArr_clock]; done) | with_reducible refine ite_clock_Clus ?_ ?_ | split | dsimp only)

theorem Core.ringPop_clock (k a1 a2 a3) : (Core.ringPop k a1 a2 a3).clock = k.clock := by
  unfold Core.ringPop
  simp only [↓Core.setRing_clock, apply_ite Core.clock, ite_self]

theorem Clus.mret_clock (k a1) : (Clus.mret k a1).clock = k.clock := by
  unfold Clus.mret
  simp only [↓Clus.core_clock, ↓Clus.onCore_clock, ↓Clus.sDo_clock, ↓Clus.sTrap_clock, ↓Clus.setScore_clock, ↓Core.ringPop_clock, implies_true, apply_ite Clus.clock, ite_self]

theorem Clus.sendMsg_clock (k a1 a2 a3) : (Clus.sendMsg k a1 a2 a3).clock = k.clock := by
  unfold Clus.sendMsg
  simp only [↓Clus.core_clock, ↓Clus.addDig_clock, ↓Clus.drainOut_clock, ↓Clus.onCore_clock, ↓Clus.setOut_clock, ↓Core.incWrap_clock, apply_ite Clus.clock, ite_self]

theorem Clus.sendBlocking_clock (k a1 a2 a3) : (Clus.sendBlocking k a1 a2 a3).clock = k.clock := by
  unfold Clus.sendBlocking
  simp only [↓Clus.clock_mk, ↓Clus.core_clock, ↓Clus.adv_clock, ↓Clus.badChannel_clock, ↓Clus.onCore_clock, ↓Clus.sTrap_clock, ↓Clus.sendMsg_clock, ↓Clus.setScore_clock, ↓Core.wrs_clock, apply_ite Clus.clock, ite_self]

theorem Clus.msend_clock (k a1 a2 a3) : (Clus.msend k a1 a2 a3).clock = k.clock := by
  unfold Clus.msend
  simp only [↓Clus.sDo_clock, ↓Clus.sendBlocking_clock, implies_true]

theorem Clus.sendNb_clock (k a1 a2 a3 a4) : (Clus.sendNb k a1 a2 a3 a4).clock = k.clock := by
  unfold Clus.sendNb
  simp only [↓Clus.core_clock, ↓Clus.adv_clock, ↓Clus.onCore_clock, ↓Clus.sSet_clock, ↓Clus.sWrite_clock, ↓Clus.sendMsg_clock, ↓Core.incSat_clock, implies_true, apply_ite Clus.clock, ite_self]

theorem Clus.msendnb_clock (k a1 a2 a3 a4) : (Clus.msendnb k a1 a2 a3 a4).clock = k.clock := by
  unfold Clus.msendnb
  simp only [↓Clus.sDo_clock, ↓Clus.sendNb_clock, implies_true]

theorem Clus.tupleWords_clock (k a1 a2 a3) (a4 : List W32 → Clus) (h4 : ∀ x0, (a4 x0).clock = k.clock) :
    (Clus.tupleWords k a1 a2 a3 a4).clock = k.clock := by
  unfold Clus.tupleWords
  repeat' (first | with_reducible rfl | (simp only [↓Clus.sPoison_clock, ↓Clus.sTrap_clock, ↓Core.clock_eta, ↓Core.clock_mk, ↓Clus.clock_mk, ↓Clus.core_clock, h4, ↓foldl_clock_Core, ↓iter_clock_Core, ↓foldl_clock_Clus, ↓iter_clock_Clus, implies_true, apply_ite Clus.clock, ite_self]; done) | with_reducible refine ite_clock_Clus ?_ ?_ | with_reducible refine foldl_clock_Clus' (fun _ _ => ?_) ?_ | with_reducible refine iter_clock_Clus' (fun _ _ => ?_) ?_ | with_reducible refine foldl2_clock_Clus' (fun _ _ => ?_) ?_ | with_reducible refine foldl3_clock_Clus' (fun _ _ => ?_) ?_ | with_reducible refine ite_clock_Core ?_ ?_ | with_reducible refine foldl_clock_Core' (fun _ _ => ?_) ?_ | with_reducible refine iter_clock_Core' (fun _ _ => ?_) ?_ | with_reducible refine foldl2_clock_Core' (fun _ _ => ?_) ?_ | with_reducible refine foldl3_clock_Core' (fun _ _ => ?_) ?_ | simp only [↓Clus.sPoison_clock, ↓Clus.sTrap_clock, ↓Core.clock_eta, ↓Core.clock_mk, ↓Clus.clock_mk, ↓Clus.core_clock, h4] | with_reducible refine of_eq_clock_Clus ‹_› ?_ | with_reducible refine of_eq1_clock_Clus ‹_› ?_ | with_reducible refine of_eq_clock_Core ‹_› ?_ | with_reducible refine of_eq1_clock_Core ‹_› ?_ | split | dsimp only)

theorem Clus.msendt_clock (k a1 a2 a3) : (Clus.msendt k a1 a2 a3).clock = k.clock := by
  unfold Clus.msendt
  repeat' (first | with_reducible rfl | (simp only [↓Clus.sDo_clock, ↓Clus.sTrap_clock, ↓Clus.sendBlocking_clock, ↓Clus.tupleWords_clock, ↓Core.clock_eta, ↓Core.clock_mk, ↓Clus.clock_mk, ↓Clus.core_clock, ↓foldl_clock_Core, ↓iter_clock_Core, ↓foldl_clock_Clus, ↓iter_clock_Clus, implies_true, apply_ite Clus.clock, ite_self]; done) | with_reducible refine (Clus.sDo_clock _ _ _ (fun _ => ?_)).trans ?_ | with_reducible refine (Clus.tupleWords_clock _ _ _ _ _ (fun _ => ?_)).trans ?_ | with_reducible refine ite_clock_Clus ?_ ?_ | with_reducible refine foldl_clock_Clus' (fun _ _ => ?_) ?_ | with_reducible refine iter_clock_Clus' (fun _ _ => ?_) ?_ | with_reducible refine foldl2_clock_Clus' (fun _ _ => ?_) ?_ | with_reducible refine foldl3_clock_Clus' (fun _ _ => ?_) ?_ | with_reducible refine ite_clock_Core ?_ ?_ | with_reducible refine foldl_clock_Core' (fun _ _ => ?_) ?_ | with_reducible refine iter_clock_Core' (fun _ _ => ?_) ?_ | with_reducible refine foldl2_clock_Core' (fun _ _ => ?_) ?_ | with_reducible refine foldl3_clock_Core' (fun _ _ => ?_) ?_ | simp only [↓Clus.sDo_clock, ↓Clus.sTrap_clock, ↓Clus.sendBlocking_clock, ↓Clus.tupleWords_clock, ↓Core.clock_eta, ↓Core.clock_mk, ↓Clus.clock_mk, ↓Clus.core_clock] | with_reducible refine of_eq_clock_Clus ‹_› ?_ | with_reducible refine of_eq1_clock_Clus ‹_› ?_ | with_reducible refine of_eq_clock_Core ‹_› ?_ | with_reducible refine of_eq1_clock_Core ‹_› ?_ | split | dsimp only)

theorem Clus.msendtnb_clock (k a1 a2 a3 a4) : (Clus.msendtnb k a1 a2 a3 a4).clock = k.clock := by
  unfold Clus.msendtnb
  repeat' (first | with_reducible rfl | (simp only [↓Clus.sDo_clock, ↓Clus.sendNb_clock, ↓Clus.tupleWords_clock, ↓Core.clock_eta, ↓Core.clock_mk, ↓Clus.clock_mk, ↓Clus.core_clock, ↓foldl_clock_Core, ↓iter_clock_Core, ↓foldl_clock_Clus, ↓iter_clock_Clus, implies_true, apply_ite Clus.clock, ite_self]; done) | with_reducible refine (Clus.sDo_clock _ _ _ (fun _ => ?_)).trans ?_ | with_reducible refine (Clus.tupleWords_clock _ _ _ _ _ (fun _ => ?_)).trans ?_ | with_reducible refine ite_clock_Clus ?_ ?_ | with_reducible refine foldl_clock_Clus' (fun _ _ => ?_) ?_ | with_reducible refine iter_clock_Clus' (fun _ _ => ?_) ?_ | with_reducible refine foldl2_clock_Clus' (fun _ _ => ?_) ?_ | with_reducible refine foldl3_clock_Clus' (fun _ _ => ?_) ?_ | with_reducible refine ite_clock_Core ?_ ?_ | with_reducible refine foldl_clock_Core' (fun _ _ => ?_) ?_ | with_reducible refine iter_clock_Core' (fun _ _ => ?_) ?_ | with_reducible refine foldl2_clock_Core' (fun _ _ => ?_) ?_ | with_reducible refine foldl3_clock_Core' (fun _ _ => ?_) ?_ | simp only [↓Clus.sDo_clock, ↓Clus.sendNb_clock, ↓Clus.tupleWords_clock, ↓Core.clock_eta, ↓Core.clock_mk, ↓Clus.clock_mk, ↓Clus.core_clock] | with_reducible refine of_eq_clock_Clus ‹_› ?_ | with_reducible refine of_eq1_clock_Clus ‹_› ?_ | with_reducible refine of_eq_clock_Core ‹_› ?_ | with_reducible refine of_eq1_clock_Core ‹_› ?_ | split | dsimp only)

theorem Clus.msgCntClr_clock (k a1) : (Clus.msgCntClr k a1).clock = k.clock := by
  unfold Clus.msgCntClr
  simp only [↓Clus.core_clock, ↓Clus.onCore_clock, ↓Core.zero_clock]

theorem Clus.deadlock_clock (k a1 a2) : (Clus.deadlock k a1 a2).clock = k.clock := by
  unfold Clus.deadlock
  repeat' (first | with_reducible rfl | (simp only [↓Clus.faultJob_clock, ↓Core.record_clock, ↓Core.clock_eta, ↓Core.clock_mk, ↓Clus.clock_mk, ↓Clus.core_clock, ↓Clus.onCore_clock, ↓foldl_clock_Core, ↓iter_clock_Core, ↓foldl_clock_Clus, ↓iter_clock_Clus, implies_true, apply_ite Clus.clock, ite_self]; done) | with_reducible refine ite_clock_Clus ?_ ?_ | with_reducible refine foldl_clock_Clus' (fun _ _ => ?_) ?_ | with_reducible refine iter_clock_Clus' (fun _ _ => ?_) ?_ | with_reducible refine foldl2_clock_Clus' (fun _ _ => ?_) ?_ | with_reducible refine foldl3_clock_Clus' (fun _ _ => ?_) ?_ | with_reducible refine ite_clock_Core ?_ ?_ | with_reducible refine foldl_clock_Core' (fun _ _ => ?_) ?_ | with_reducible refine iter_clock_Core' (fun _ _ => ?_) ?_ | with_reducible refine foldl2_clock_Core' (fun _ _ => ?_) ?_ | with_reducible refine foldl3_clock_Core' (fun _ _ => ?_) ?_ | simp only [↓Clus.faultJob_clock, ↓Core.record_clock, ↓Core.clock_eta, ↓Core.clock_mk, ↓Clus.clock_mk, ↓Clus.core_clock, ↓Clus.onCore_clock] | with_reducible refine of_eq_clock_Clus ‹_› ?_ | with_reducible refine of_eq1_clock_Clus ‹_› ?_ | with_reducible refine of_eq_clock_Core ‹_› ?_ | with_reducible refine of_eq1_clock_Core ‹_› ?_ | split | dsimp only)

theorem Clus.msgStall_clock (k a1) : (Clus.msgStall k a1).clock = k.clock := by
  unfold Clus.msgStall
  repeat' (first | with_reducible rfl | (simp only [↓Clus.circAbort_clock, ↓Clus.deadlock_clock, ↓Core.record_clock, ↓Core.clock_eta, ↓Core.clock_mk, ↓Clus.clock_mk, ↓Clus.core_clock, ↓Clus.onCore_clock, ↓foldl_clock_Core, ↓iter_clock_Core, ↓foldl_clock_Clus, ↓iter_clock_Clus, implies_true, apply_ite Clus.clock, ite_self]; done) | with_reducible refine ite_clock_Clus ?_ ?_ | with_reducible refine foldl_clock_Clus' (fun _ _ => ?_) ?_ | with_reducible refine iter_clock_Clus' (fun _ _ => ?_) ?_ | with_reducible refine foldl2_clock_Clus' (fun _ _ => ?_) ?_ | with_reducible refine foldl3_clock_Clus' (fun _ _ => ?_) ?_ | with_reducible refine ite_clock_Core ?_ ?_ | with_reducible refine foldl_clock_Core' (fun _ _ => ?_) ?_ | with_reducible refine iter_clock_Core' (fun _ _ => ?_) ?_ | with_reducible refine foldl2_clock_Core' (fun _ _ => ?_) ?_ | with_reducible refine foldl3_clock_Core' (fun _ _ => ?_) ?_ | simp only [↓Clus.circAbort_clock, ↓Clus.deadlock_clock, ↓Core.record_clock, ↓Core.clock_eta, ↓Core.clock_mk, ↓Clus.clock_mk, ↓Clus.core_clock, ↓Clus.onCore_clock] | with_reducible refine of_eq_clock_Clus ‹_› ?_ | with_reducible refine of_eq1_clock_Clus ‹_› ?_ | with_reducible refine of_eq_clock_Core ‹_› ?_ | with_reducible refine of_eq1_clock_Core ‹_› ?_ | split | dsimp only)

theorem Clus.signal_clock (k a1 a2) : (Clus.signal k a1 a2).clock = k.clock := by
  unfold Clus.signal
  simp only [↓Clus.clock_mk, ↓Clus.core_clock]

theorem Clus.msync_clock (k a1 a2) : (Clus.msync k a1 a2).clock = k.clock := by
  unfold Clus.msync
  simp only [↓Clus.clock_mk, ↓Clus.core_clock, ↓Clus.mBad_clock, ↓Clus.mHead_clock, ↓Clus.popM_clock, ↓Clus.signal_clock, implies_true, apply_ite Clus.clock, ite_self]

theorem Clus.noticeSource_clock (k a1 a2) : (Clus.noticeSource k a1 a2).clock = k.clock := by
  unfold Clus.noticeSource
  repeat' (first | (simp only [↓Clus.clock_mk, ↓Clus.core_clock]; done) | with_reducible refine ite_clock_Clus ?_ ?_ | split)

theorem Clus.putRow_clock (k a1 a2 a3) : (Clus.putRow k a1 a2 a3).clock = k.clock := by
  unfold Clus.putRow
  repeat' (first | with_reducible rfl | (simp only [↓Clus.accOp_clock, ↓Clus.addShadow_clock, ↓Clus.writeOp_clock, ↓Core.clock_eta, ↓Core.clock_mk, ↓Clus.clock_mk, ↓Clus.core_clock, ↓foldl_clock_Core, ↓iter_clock_Core, ↓foldl_clock_Clus, ↓iter_clock_Clus, implies_true, apply_ite Clus.clock, ite_self, apply_ite Prod.fst, apply_ite Prod.snd]; done) | with_reducible refine ite_clock_Clus ?_ ?_ | with_reducible refine foldl_clock_Clus' (fun _ _ => ?_) ?_ | with_reducible refine iter_clock_Clus' (fun _ _ => ?_) ?_ | with_reducible refine foldl2_clock_Clus' (fun _ _ => ?_) ?_ | with_reducible refine foldl3_clock_Clus' (fun _ _ => ?_) ?_ | with_reducible refine ite_clock_Core ?_ ?_ | with_reducible refine foldl_clock_Core' (fun _ _ => ?_) ?_ | with_reducible refine iter_clock_Core' (fun _ _ => ?_) ?_ | with_reducible refine foldl2_clock_Core' (fun _ _ => ?_) ?_ | with_reducible refine foldl3_clock_Core' (fun _ _ => ?_) ?_ | simp only [↓Clus.accOp_clock, ↓Clus.addShadow_clock, ↓Clus.writeOp_clock, ↓Core.clock_eta, ↓Core.clock_mk, ↓Clus.clock_mk, ↓Clus.core_clock] | with_reducible refine of_eq_clock_Clus ‹_› ?_ | with_reducible refine of_eq1_clock_Clus ‹_› ?_ | with_reducible refine of_eq_clock_Core ‹_› ?_ | with_reducible refine of_eq1_clock_Core ‹_› ?_ | split | dsimp only)

theorem Clus.outputRow_clock (k a1 a2) : (Clus.outputRow k a1 a2).clock = k.clock := by
  unfold Clus.outputRow
  repeat' (first | (simp only [↓Clus.core_clock, ↓Clus.causeEvent_clock, ↓Clus.onCore_clock, ↓Clus.putRow_clock, ↓Clus.setMRows_clock, ↓Clus.stCapture_clock, ↓Core.incSat_clock, apply_ite Clus.clock, ite_self]; done) | with_reducible refine ite_clock_Clus ?_ ?_ | split)

theorem Clus.saFatal_clock (k a1 a2 a3 a4 a5 a6 a7) : (Clus.saFatal k a1 a2 a3 a4 a5 a6 a7).clock = k.clock := by
  unfold Clus.saFatal
  simp only [↓Clus.fatalEvent_clock, ↓Clus.saCapture_clock]

theorem Clus.passComplete_clock (k a1) : (Clus.passComplete k a1).clock = k.clock := by
  unfold Clus.passComplete
  repeat' (first | (simp only [↓Clus.core_clock, ↓Clus.onCore_clock, ↓Clus.saFatal_clock, ↓Clus.setArr_clock, ↓Core.incWrap_clock, apply_ite Clus.clock, ite_self]; done) | with_reducible refine ite_clock_Clus ?_ ?_ | split | dsimp only)

theorem Clus.pc0Next_clock (k a1) : (Clus.pc0Next k a1).clock = k.clock := by
  unfold Clus.pc0Next
  simp only [↓Clus.setScore_clock]

theorem Clus.pilotActs_clock (k a1 a2) : (Clus.pilotActs k a1 a2).clock = k.clock := by
  unfold Clus.pilotActs
  refine foldl_clock_Clus _ _ _ (fun x i => ?_)
  dsimp only
  refine ite_clock_Clus rfl (ite_clock_Clus ?_ (ite_clock_Clus ?_ rfl))
  · cases h : x.doRelease a2.clu (wObj (slotAct a2.words a1 i) / 16 % 4) (wObj (slotAct a2.words a1 i) % 16)
        (wVal (slotAct a2.words a1 i)) with
    | none => rfl
    | some y => exact Clus.doRelease_clock _ _ _ _ _ _ h
  · cases h : x.doConsume a2.clu (wObj (slotAct a2.words a1 i) / 16 % 4) (wObj (slotAct a2.words a1 i) % 16)
        (wVal (slotAct a2.words a1 i)) with
    | none => rfl
    | some y => exact Clus.doConsume_clock _ _ _ _ _ _ h

theorem Clus.pilotHold_clock (k a1 a2 a3 a4) : (Clus.pilotHold k a1 a2 a3 a4).clock = k.clock := by
  unfold Clus.pilotHold
  repeat' (first | with_reducible rfl | (simp only [↓Clus.setScore_clock, ↓Core.clock_eta, ↓Core.clock_mk, ↓Clus.clock_mk, ↓Clus.core_clock, ↓foldl_clock_Core, ↓iter_clock_Core, ↓foldl_clock_Clus, ↓iter_clock_Clus, implies_true, apply_ite Clus.clock, ite_self]; done) | with_reducible refine ite_clock_Clus ?_ ?_ | with_reducible refine foldl_clock_Clus' (fun _ _ => ?_) ?_ | with_reducible refine iter_clock_Clus' (fun _ _ => ?_) ?_ | with_reducible refine foldl2_clock_Clus' (fun _ _ => ?_) ?_ | with_reducible refine foldl3_clock_Clus' (fun _ _ => ?_) ?_ | with_reducible refine ite_clock_Core ?_ ?_ | with_reducible refine foldl_clock_Core' (fun _ _ => ?_) ?_ | with_reducible refine iter_clock_Core' (fun _ _ => ?_) ?_ | with_reducible refine foldl2_clock_Core' (fun _ _ => ?_) ?_ | with_reducible refine foldl3_clock_Core' (fun _ _ => ?_) ?_ | simp only [↓Clus.setScore_clock, ↓Core.clock_eta, ↓Core.clock_mk, ↓Clus.clock_mk, ↓Clus.core_clock] | with_reducible refine of_eq_clock_Clus ‹_› ?_ | with_reducible refine of_eq1_clock_Clus ‹_› ?_ | with_reducible refine of_eq_clock_Core ‹_› ?_ | with_reducible refine of_eq1_clock_Core ‹_› ?_ | split | dsimp only)

theorem Clus.pilotTab_clock (k a1 a2 a3 a4) : (Clus.pilotTab k a1 a2 a3 a4).clock = k.clock := by
  unfold Clus.pilotTab
  repeat' (first | with_reducible rfl | (simp only [↓Clus.pilotDone_clock, ↓Clus.pilotHold_clock, ↓Clus.sLockstepBy_clock, ↓Core.clock_eta, ↓Core.clock_mk, ↓Clus.clock_mk, ↓Clus.core_clock, ↓foldl_clock_Core, ↓iter_clock_Core, ↓foldl_clock_Clus, ↓iter_clock_Clus, implies_true, apply_ite Clus.clock, ite_self]; done) | with_reducible refine ite_clock_Clus ?_ ?_ | with_reducible refine foldl_clock_Clus' (fun _ _ => ?_) ?_ | with_reducible refine iter_clock_Clus' (fun _ _ => ?_) ?_ | with_reducible refine foldl2_clock_Clus' (fun _ _ => ?_) ?_ | with_reducible refine foldl3_clock_Clus' (fun _ _ => ?_) ?_ | with_reducible refine ite_clock_Core ?_ ?_ | with_reducible refine foldl_clock_Core' (fun _ _ => ?_) ?_ | with_reducible refine iter_clock_Core' (fun _ _ => ?_) ?_ | with_reducible refine foldl2_clock_Core' (fun _ _ => ?_) ?_ | with_reducible refine foldl3_clock_Core' (fun _ _ => ?_) ?_ | simp only [↓Clus.pilotDone_clock, ↓Clus.pilotHold_clock, ↓Clus.sLockstepBy_clock, ↓Core.clock_eta, ↓Core.clock_mk, ↓Clus.clock_mk, ↓Clus.core_clock, ↓Clus.trip_clock, implies_true] | with_reducible refine of_eq_clock_Clus ‹_› ?_ | with_reducible refine of_eq1_clock_Clus ‹_› ?_ | with_reducible refine of_eq_clock_Core ‹_› ?_ | with_reducible refine of_eq1_clock_Core ‹_› ?_ | split | dsimp only)

theorem Clus.popA_clock (k a1) : (Clus.popA k a1).clock = k.clock := by
  unfold Clus.popA
  simp only [↓Clus.setArr_clock]

theorem Clus.popV_clock (k a1 a2) : (Clus.popV k a1 a2).clock = k.clock := by
  unfold Clus.popV
  repeat' (first | with_reducible rfl | (simp only [↓Clus.newVHead_clock, ↓Core.clock_eta, ↓Core.clock_mk, ↓Clus.clock_mk, ↓Clus.core_clock, ↓foldl_clock_Core, ↓iter_clock_Core, ↓foldl_clock_Clus, ↓iter_clock_Clus, implies_true, apply_ite Clus.clock, ite_self]; done) | with_reducible refine ite_clock_Clus ?_ ?_ | with_reducible refine foldl_clock_Clus' (fun _ _ => ?_) ?_ | with_reducible refine iter_clock_Clus' (fun _ _ => ?_) ?_ | with_reducible refine foldl2_clock_Clus' (fun _ _ => ?_) ?_ | with_reducible refine foldl3_clock_Clus' (fun _ _ => ?_) ?_ | with_reducible refine ite_clock_Core ?_ ?_ | with_reducible refine foldl_clock_Core' (fun _ _ => ?_) ?_ | with_reducible refine iter_clock_Core' (fun _ _ => ?_) ?_ | with_reducible refine foldl2_clock_Core' (fun _ _ => ?_) ?_ | with_reducible refine foldl3_clock_Core' (fun _ _ => ?_) ?_ | simp only [↓Clus.newVHead_clock, ↓Core.clock_eta, ↓Core.clock_mk, ↓Clus.clock_mk, ↓Clus.core_clock] | with_reducible refine of_eq_clock_Clus ‹_› ?_ | with_reducible refine of_eq1_clock_Clus ‹_› ?_ | with_reducible refine of_eq_clock_Core ‹_› ?_ | with_reducible refine of_eq1_clock_Core ‹_› ?_ | split | dsimp only)

theorem Clus.portIn_clock (k a1 a2) : (Clus.portIn k a1 a2).1.clock = k.clock := by
  unfold Clus.portIn
  repeat' (first | (simp only [↓Clus.enter_clock, ↓Clus.readOp_clock, ↓Clus.setArr_clock]; done) | with_reducible refine ite_clock_Clus ?_ ?_ | split | dsimp only)

theorem Clus.pushUnit_clock (k a1 a2 a3) : (Clus.pushUnit k a1 a2 a3).clock = k.clock := by
  unfold Clus.pushUnit
  simp only [↓Clus.setArr_clock, ↓Clus.setMQueue_clock, ↓Clus.setVQueue_clock, apply_ite Clus.clock, ite_self]

theorem Clus.putRaw_clock (k a1 a2 a3 a4) : (Clus.putRaw k a1 a2 a3 a4).clock = k.clock := by
  unfold Clus.putRaw
  simp only [↓Clus.stPutChunk_clock, ↓foldl_clock_Clus, implies_true]

theorem Clus.queueRoom_clock (k a1) : (Clus.queueRoom k a1).clock = k.clock := by
  unfold Clus.queueRoom
  repeat' (first | (simp only [↓Clus.pushUnit_clock, ↓Clus.setScore_clock, apply_ite Clus.clock, ite_self]; done) | with_reducible refine ite_clock_Clus ?_ ?_ | split | dsimp only)

theorem Clus.refusalNotice_clock (k a1) : (Clus.refusalNotice k a1).clock = k.clock := by
  unfold Clus.refusalNotice
  repeat' (first | (simp only [↓Clus.clock_mk, ↓Clus.core_clock, ↓Clus.fail_clock, apply_ite Clus.clock, ite_self]; done) | with_reducible refine ite_clock_Clus ?_ ?_ | split | dsimp only)

theorem Clus.stopUnits_clock (k a1) : (Clus.stopUnits k a1).clock = k.clock := by
  unfold Clus.stopUnits
  repeat' (first | with_reducible rfl | (simp only [↓Clus.newMHead_clock, ↓Clus.sStop_clock, ↓Clus.setArr_clock, ↓Clus.setMLoad_clock, ↓Clus.vHalt_clock, ↓Core.clock_eta, ↓Core.clock_mk, ↓Clus.clock_mk, ↓Clus.core_clock, ↓foldl_clock_Core, ↓iter_clock_Core, ↓foldl_clock_Clus, ↓iter_clock_Clus, implies_true, apply_ite Clus.clock, ite_self]; done) | with_reducible refine ite_clock_Clus ?_ ?_ | with_reducible refine foldl_clock_Clus' (fun _ _ => ?_) ?_ | with_reducible refine iter_clock_Clus' (fun _ _ => ?_) ?_ | with_reducible refine foldl2_clock_Clus' (fun _ _ => ?_) ?_ | with_reducible refine foldl3_clock_Clus' (fun _ _ => ?_) ?_ | with_reducible refine ite_clock_Core ?_ ?_ | with_reducible refine foldl_clock_Core' (fun _ _ => ?_) ?_ | with_reducible refine iter_clock_Core' (fun _ _ => ?_) ?_ | with_reducible refine foldl2_clock_Core' (fun _ _ => ?_) ?_ | with_reducible refine foldl3_clock_Core' (fun _ _ => ?_) ?_ | simp only [↓Clus.newMHead_clock, ↓Clus.sStop_clock, ↓Clus.setArr_clock, ↓Clus.setMLoad_clock, ↓Clus.vHalt_clock, ↓Core.clock_eta, ↓Core.clock_mk, ↓Clus.clock_mk, ↓Clus.core_clock] | with_reducible refine of_eq_clock_Clus ‹_› ?_ | with_reducible refine of_eq1_clock_Clus ‹_› ?_ | with_reducible refine of_eq_clock_Core ‹_› ?_ | with_reducible refine of_eq1_clock_Core ‹_› ?_ | split | dsimp only)

theorem Clus.regionFail_clock (k a1) : (Clus.regionFail k a1).clock = k.clock := by
  unfold Clus.regionFail
  repeat' (first | (simp only [↓Clus.fail_clock, ↓Clus.stopUnits_clock, ↓iter_clock_Clus, implies_true, apply_ite Clus.clock, ite_self]; done) | with_reducible refine ite_clock_Clus ?_ ?_ | with_reducible refine iter_clock_Clus' (fun _ _ => ?_) ?_ | split | dsimp only)

theorem Clus.reportIn_clock (k a1) : (Clus.reportIn k a1).clock = k.clock := by
  unfold Clus.reportIn
  simp only [↓Clus.clock_mk, ↓Clus.core_clock, ↓Clus.tabTry_clock, ↓iter_clock_Clus, implies_true, apply_ite Clus.clock, ite_self]

theorem Clus.rootFlit_clock (k a1) : (Clus.rootFlit k a1).clock = k.clock := by
  unfold Clus.rootFlit
  simp only [↓Clus.clock_mk, ↓Clus.core_clock]

theorem Clus.setMRec_clock (k a1 a2 a3) : (Clus.setMRec k a1 a2 a3).clock = k.clock := by
  unfold Clus.setMRec
  simp only [↓Clus.clock_mk, ↓Clus.core_clock]

theorem Clus.rowCheck_clock (k a1 a2) : (Clus.rowCheck k a1 a2).clock = k.clock := by
  unfold Clus.rowCheck
  repeat' (first | (simp only [↓Clus.core_clock, ↓Clus.causeEvent_clock, ↓Clus.onCore_clock, ↓Clus.setMChecks_clock, ↓Clus.setMRec_clock, ↓Core.incSat_clock, ↓Core.wr_clock, ↓Core.wr8_clock, ↓Core.wrs_clock, apply_ite Clus.clock, ite_self]; done) | with_reducible refine ite_clock_Clus ?_ ?_ | split)

theorem Clus.rvCsr_clock (k a1 a2 a3) : (Clus.rvCsr k a1 a2 a3).clock = k.clock := by
  unfold Clus.rvCsr
  simp only [↓Clus.csrRead_clock, ↓Clus.illegal_clock, apply_ite Clus.clock, ite_self]

theorem Clus.tstlo_clock (k a1 a2) : (Clus.tstlo k a1 a2).clock = k.clock := by
  unfold Clus.tstlo
  simp only [↓Clus.adv_clock, ↓Clus.sDo_clock, ↓Clus.setScore_clock, implies_true]

theorem Clus.tsthi_clock (k a1 a2) : (Clus.tsthi k a1 a2).clock = k.clock := by
  unfold Clus.tsthi
  simp only [↓Clus.adv_clock, ↓Clus.sDo_clock, ↓Clus.setScore_clock, implies_true]

theorem Clus.tissue_clock (k a1 a2) : (Clus.tissue k a1 a2).clock = k.clock := by
  unfold Clus.tissue
  simp only [↓Clus.adv_clock, ↓Clus.pushUnit_clock, ↓Clus.sDo_clock, ↓Clus.sTrap_clock, ↓Clus.setScore_clock, implies_true, apply_ite Clus.clock, ite_self]

theorem Clus.ttry_clock (k a1 a2 a3) : (Clus.ttry k a1 a2 a3).clock = k.clock := by
  unfold Clus.ttry
  simp only [↓Clus.adv_clock, ↓Clus.pushUnit_clock, ↓Clus.sDo_clock, ↓Clus.sSet_clock, ↓Clus.sTrap_clock, ↓Clus.sWrite_clock, implies_true, apply_ite Clus.clock, ite_self]

theorem Clus.tqdepth_clock (k a1 a2 a3) : (Clus.tqdepth k a1 a2 a3).clock = k.clock := by
  unfold Clus.tqdepth
  simp only [↓Clus.sDo_clock, ↓Clus.sSet_clock, ↓Clus.sTrap_clock, implies_true, apply_ite Clus.clock, ite_self]

theorem Clus.tsig_clock (k a1 a2) : (Clus.tsig k a1 a2).clock = k.clock := by
  unfold Clus.tsig
  simp only [↓Clus.adv_clock, ↓Clus.sDo_clock, ↓Clus.signal_clock, implies_true]

theorem Clus.twaitc_clock (k a1 a2 a3) : (Clus.twaitc k a1 a2 a3).clock = k.clock := by
  unfold Clus.twaitc
  simp only [↓Clus.adv_clock, ↓Clus.sDo_clock, ↓Clus.sTrap_clock, ↓Clus.setScore_clock, implies_true, apply_ite Clus.clock, ite_self]

theorem Clus.tend_clock (k a1) : (Clus.tend k a1).clock = k.clock := by
  unfold Clus.tend
  simp only [↓Clus.sDo_clock, ↓Clus.sTrap_clock, ↓Clus.setScore_clock, ↓Clus.withdrawOn_clock, implies_true, apply_ite Clus.clock, ite_self]

theorem Clus.rvCustom0_clock (k a1 a2) : (Clus.rvCustom0 k a1 a2).clock = k.clock := by
  unfold Clus.rvCustom0
  repeat' (first | (simp only [↓Clus.illegal_clock, ↓Clus.mret_clock, ↓Clus.msend_clock, ↓Clus.msendnb_clock, ↓Clus.msendt_clock, ↓Clus.msendtnb_clock, ↓Clus.tend_clock, ↓Clus.tissue_clock, ↓Clus.tqdepth_clock, ↓Clus.tsig_clock, ↓Clus.tsthi_clock, ↓Clus.tstlo_clock, ↓Clus.ttry_clock, ↓Clus.twaitc_clock, apply_ite Clus.clock, ite_self]; done) | with_reducible refine ite_clock_Clus ?_ ?_ | split)

theorem Clus.tbarrive_clock (k a1 a2) : (Clus.tbarrive k a1 a2).clock = k.clock := by
  unfold Clus.tbarrive
  refine (Clus.sDo_clock _ _ _ (fun x => ?_))
  repeat' (first | (simp only [↓Clus.adv_clock, ↓Clus.doArrive_clock, ↓Clus.pilotTab_clock, ↓Clus.sTrap_clock, ↓Clus.setScore_clock, ↓Clus.tabFault_clock, apply_ite Clus.clock, ite_self]; done) | with_reducible refine ite_clock_Pkg ?_ ?_ | with_reducible refine foldl_clock_Pkg' (fun _ _ => ?_) ?_ | with_reducible refine iter_clock_Pkg' (fun _ _ => ?_) ?_ | with_reducible refine foldl2_clock_Pkg' (fun _ _ => ?_) ?_ | with_reducible refine foldl3_clock_Pkg' (fun _ _ => ?_) ?_ | with_reducible refine ite_clock_Clus ?_ ?_ | with_reducible refine foldl_clock_Clus' (fun _ _ => ?_) ?_ | with_reducible refine iter_clock_Clus' (fun _ _ => ?_) ?_ | with_reducible refine foldl2_clock_Clus' (fun _ _ => ?_) ?_ | with_reducible refine foldl3_clock_Clus' (fun _ _ => ?_) ?_ | with_reducible refine ite_clock_Core ?_ ?_ | with_reducible refine foldl_clock_Core' (fun _ _ => ?_) ?_ | with_reducible refine iter_clock_Core' (fun _ _ => ?_) ?_ | with_reducible refine foldl2_clock_Core' (fun _ _ => ?_) ?_ | with_reducible refine foldl3_clock_Core' (fun _ _ => ?_) ?_ | simp only [↓Core.clock_eta, ↓Core.clock_mk, ↓Clus.clock_mk, ↓Pkg.clock_mk, ↓Clus.core_clock, ↓Pkg.cl_clock, ↓Clus.adv_clock, ↓Clus.doArrive_clock, ↓Clus.pilotTab_clock, ↓Clus.sDo_clock, ↓Clus.sTrap_clock, ↓Clus.setScore_clock, ↓Clus.tabFault_clock, ↓foldl_clock_Pkg, ↓foldl_clock_Clus, ↓foldl_clock_Core, implies_true, and_self, apply_ite Pkg.clock, apply_ite Clus.clock, apply_ite Core.clock, ite_self] | with_reducible refine of_eq_clock_Pkg ‹_› ?_ | with_reducible refine of_eq1_clock_Pkg ‹_› ?_ | with_reducible refine of_eq_clock_Clus ‹_› ?_ | with_reducible refine of_eq1_clock_Clus ‹_› ?_ | with_reducible refine of_eq_clock_Core ‹_› ?_ | with_reducible refine of_eq1_clock_Core ‹_› ?_ | split | dsimp only)

theorem Clus.tbwait_clock (k a1 a2 a3) : (Clus.tbwait k a1 a2 a3).clock = k.clock := by
  unfold Clus.tbwait
  repeat' (first | with_reducible rfl | (simp only [↓Clus.adv_clock, ↓Clus.pilotTab_clock, ↓Clus.sDo_clock, ↓Clus.sSet_clock, ↓Clus.sTrap_clock, ↓Clus.sWrite_clock, ↓Clus.setScore_clock, ↓Clus.tabFault_clock, ↓Clus.tabLog_clock, ↓Core.draw_clock, ↓Core.clock_eta, ↓Core.clock_mk, ↓Clus.clock_mk, ↓Clus.core_clock, ↓foldl_clock_Core, ↓iter_clock_Core, ↓foldl_clock_Clus, ↓iter_clock_Clus, implies_true, apply_ite Clus.clock, ite_self, apply_ite Prod.fst, apply_ite Prod.snd]; done) | with_reducible refine (Clus.sDo_clock _ _ _ (fun _ => ?_)).trans ?_ | with_reducible refine (Clus.sWrite_clock _ _ _ _ _ (fun _ => ?_)).trans ?_ | with_reducible refine ite_clock_Clus ?_ ?_ | with_reducible refine foldl_clock_Clus' (fun _ _ => ?_) ?_ | with_reducible refine iter_clock_Clus' (fun _ _ => ?_) ?_ | with_reducible refine foldl2_clock_Clus' (fun _ _ => ?_) ?_ | with_reducible refine foldl3_clock_Clus' (fun _ _ => ?_) ?_ | with_reducible refine ite_clock_Core ?_ ?_ | with_reducible refine foldl_clock_Core' (fun _ _ => ?_) ?_ | with_reducible refine iter_clock_Core' (fun _ _ => ?_) ?_ | with_reducible refine foldl2_clock_Core' (fun _ _ => ?_) ?_ | with_reducible refine foldl3_clock_Core' (fun _ _ => ?_) ?_ | simp only [↓Clus.adv_clock, ↓Clus.pilotTab_clock, ↓Clus.sDo_clock, ↓Clus.sSet_clock, ↓Clus.sTrap_clock, ↓Clus.sWrite_clock, ↓Clus.setScore_clock, ↓Clus.tabFault_clock, ↓Clus.tabLog_clock, ↓Core.draw_clock, ↓Core.clock_eta, ↓Core.clock_mk, ↓Clus.clock_mk, ↓Clus.core_clock] | with_reducible refine of_eq_clock_Clus ‹_› ?_ | with_reducible refine of_eq1_clock_Clus ‹_› ?_ | with_reducible refine of_eq_clock_Core ‹_› ?_ | with_reducible refine of_eq1_clock_Core ‹_› ?_ | split | dsimp only)

theorem Core.tbSet_clock (k a1 a2 a3) : (Core.tbSet k a1 a2 a3).clock = k.clock := by
  unfold Core.tbSet
  simp only [↓Core.setFld_clock, ↓Core.setTb_clock]

theorem Clus.tbset_clock (k a1 a2 a3) : (Clus.tbset k a1 a2 a3).clock = k.clock := by
  unfold Clus.tbset
  repeat' (first | with_reducible rfl | (simp only [↓Clus.adv_clock, ↓Clus.pilotTab_clock, ↓Clus.sDo_clock, ↓Clus.tabFault_clock, ↓Clus.tabLog_clock, ↓Core.tbSet_clock, ↓Core.clock_eta, ↓Core.clock_mk, ↓Clus.clock_mk, ↓Clus.core_clock, ↓Clus.onCore_clock, ↓foldl_clock_Core, ↓iter_clock_Core, ↓foldl_clock_Clus, ↓iter_clock_Clus, implies_true, apply_ite Clus.clock, ite_self]; done) | with_reducible refine (Clus.sDo_clock _ _ _ (fun _ => ?_)).trans ?_ | with_reducible refine ite_clock_Clus ?_ ?_ | with_reducible refine foldl_clock_Clus' (fun _ _ => ?_) ?_ | with_reducible refine iter_clock_Clus' (fun _ _ => ?_) ?_ | with_reducible refine foldl2_clock_Clus' (fun _ _ => ?_) ?_ | with_reducible refine foldl3_clock_Clus' (fun _ _ => ?_) ?_ | with_reducible refine ite_clock_Core ?_ ?_ | with_reducible refine foldl_clock_Core' (fun _ _ => ?_) ?_ | with_reducible refine iter_clock_Core' (fun _ _ => ?_) ?_ | with_reducible refine foldl2_clock_Core' (fun _ _ => ?_) ?_ | with_reducible refine foldl3_clock_Core' (fun _ _ => ?_) ?_ | simp only [↓Clus.adv_clock, ↓Clus.pilotTab_clock, ↓Clus.sDo_clock, ↓Clus.tabFault_clock, ↓Clus.tabLog_clock, ↓Core.tbSet_clock, ↓Core.clock_eta, ↓Core.clock_mk, ↓Clus.clock_mk, ↓Clus.core_clock, ↓Clus.onCore_clock] | with_reducible refine of_eq_clock_Clus ‹_› ?_ | with_reducible refine of_eq1_clock_Clus ‹_› ?_ | with_reducible refine of_eq_clock_Core ‹_› ?_ | with_reducible refine of_eq1_clock_Core ‹_› ?_ | split | dsimp only)

theorem Clus.tbread_clock (k a1 a2 a3) : (Clus.tbread k a1 a2 a3).clock = k.clock := by
  unfold Clus.tbread
  repeat' (first | with_reducible rfl | (simp only [↓Clus.adv_clock, ↓Clus.pilotTab_clock, ↓Clus.sDo_clock, ↓Clus.sSet_clock, ↓Clus.sWrite_clock, ↓Clus.tabFault_clock, ↓Clus.tabLog_clock, ↓Core.draw_clock, ↓Core.clock_eta, ↓Core.clock_mk, ↓Clus.clock_mk, ↓Clus.core_clock, ↓foldl_clock_Core, ↓iter_clock_Core, ↓foldl_clock_Clus, ↓iter_clock_Clus, implies_true, apply_ite Clus.clock, ite_self, apply_ite Prod.fst, apply_ite Prod.snd]; done) | with_reducible refine (Clus.sDo_clock _ _ _ (fun _ => ?_)).trans ?_ | with_reducible refine (Clus.sWrite_clock _ _ _ _ _ (fun _ => ?_)).trans ?_ | with_reducible refine ite_clock_Clus ?_ ?_ | with_reducible refine foldl_clock_Clus' (fun _ _ => ?_) ?_ | with_reducible refine iter_clock_Clus' (fun _ _ => ?_) ?_ | with_reducible refine foldl2_clock_Clus' (fun _ _ => ?_) ?_ | with_reducible refine foldl3_clock_Clus' (fun _ _ => ?_) ?_ | with_reducible refine ite_clock_Core ?_ ?_ | with_reducible refine foldl_clock_Core' (fun _ _ => ?_) ?_ | with_reducible refine iter_clock_Core' (fun _ _ => ?_) ?_ | with_reducible refine foldl2_clock_Core' (fun _ _ => ?_) ?_ | with_reducible refine foldl3_clock_Core' (fun _ _ => ?_) ?_ | simp only [↓Clus.adv_clock, ↓Clus.pilotTab_clock, ↓Clus.sDo_clock, ↓Clus.sSet_clock, ↓Clus.sWrite_clock, ↓Clus.tabFault_clock, ↓Clus.tabLog_clock, ↓Core.draw_clock, ↓Core.clock_eta, ↓Core.clock_mk, ↓Clus.clock_mk, ↓Clus.core_clock] | with_reducible refine of_eq_clock_Clus ‹_› ?_ | with_reducible refine of_eq1_clock_Clus ‹_› ?_ | with_reducible refine of_eq_clock_Core ‹_› ?_ | with_reducible refine of_eq1_clock_Core ‹_› ?_ | split | dsimp only)

theorem Clus.tfld_clock (k a1 a2 a3 a4) : (Clus.tfld k a1 a2 a3 a4).clock = k.clock := by
  unfold Clus.tfld
  simp only [↓Clus.adv_clock, ↓Clus.sDo_clock, ↓Clus.sTrap_clock, ↓Clus.setScore_clock, implies_true, apply_ite Clus.clock, ite_self]

theorem Clus.rvCustom1_clock (k a1 a2) : (Clus.rvCustom1 k a1 a2).clock = k.clock := by
  unfold Clus.rvCustom1
  repeat' (first | (simp only [↓Clus.illegal_clock, ↓Clus.tbarrive_clock, ↓Clus.tbread_clock, ↓Clus.tbset_clock, ↓Clus.tbwait_clock, ↓Clus.tfld_clock, apply_ite Clus.clock, ite_self]; done) | with_reducible refine ite_clock_Clus ?_ ?_ | split)

theorem Clus.rvJump_clock (k a1 a2 a3 a4) : (Clus.rvJump k a1 a2 a3 a4).clock = k.clock := by
  unfold Clus.rvJump
  simp only [↓Clus.sWrite_clock, ↓Clus.setPc_clock, implies_true]

theorem Clus.sStore_clock (k a1 a2 a3 a4) (a5 : Clus → Clus) (h5 : ∀ x0, (a5 x0).clock = x0.clock) :
    (Clus.sStore k a1 a2 a3 a4 a5).clock = k.clock := by
  unfold Clus.sStore
  repeat' (first | with_reducible rfl | (simp only [↓Clus.sTrap_clock, ↓Clus.writeOp_clock, ↓Core.winWr_clock, ↓Core.clock_eta, ↓Core.clock_mk, ↓Clus.clock_mk, ↓Clus.core_clock, ↓Clus.onCore_clock, h5, ↓foldl_clock_Core, ↓iter_clock_Core, ↓foldl_clock_Clus, ↓iter_clock_Clus, implies_true, apply_ite Clus.clock, ite_self, apply_ite Prod.fst, apply_ite Prod.snd]; done) | with_reducible refine ite_clock_Clus ?_ ?_ | with_reducible refine foldl_clock_Clus' (fun _ _ => ?_) ?_ | with_reducible refine iter_clock_Clus' (fun _ _ => ?_) ?_ | with_reducible refine foldl2_clock_Clus' (fun _ _ => ?_) ?_ | with_reducible refine foldl3_clock_Clus' (fun _ _ => ?_) ?_ | with_reducible refine ite_clock_Core ?_ ?_ | with_reducible refine foldl_clock_Core' (fun _ _ => ?_) ?_ | with_reducible refine iter_clock_Core' (fun _ _ => ?_) ?_ | with_reducible refine foldl2_clock_Core' (fun _ _ => ?_) ?_ | with_reducible refine foldl3_clock_Core' (fun _ _ => ?_) ?_ | simp only [↓Clus.sTrap_clock, ↓Clus.writeOp_clock, ↓Core.winWr_clock, ↓Core.clock_eta, ↓Core.clock_mk, ↓Clus.clock_mk, ↓Clus.core_clock, ↓Clus.onCore_clock, h5] | with_reducible refine of_eq_clock_Clus ‹_› ?_ | with_reducible refine of_eq1_clock_Clus ‹_› ?_ | with_reducible refine of_eq_clock_Core ‹_› ?_ | with_reducible refine of_eq1_clock_Core ‹_› ?_ | split | dsimp only)

theorem Clus.storeInstr_clock (k a1 a2 a3 a4 a5 a6) : (Clus.storeInstr k a1 a2 a3 a4 a5 a6).clock = k.clock := by
  unfold Clus.storeInstr
  simp only [↓Clus.adv_clock, ↓Clus.sDo_clock, ↓Clus.sStore_clock, ↓Clus.sTrap_clock, implies_true, apply_ite Clus.clock, ite_self]

theorem Clus.rvPut_clock (k a1 a2 a3 a4) : (Clus.rvPut k a1 a2 a3 a4).clock = k.clock := by
  unfold Clus.rvPut
  repeat' (first | (simp only [↓Clus.illegal_clock, ↓Clus.sSet_clock]; done) | with_reducible refine ite_clock_Clus ?_ ?_ | split)

theorem Clus.sFence_clock (k a1 a2) : (Clus.sFence k a1 a2).clock = k.clock := by
  unfold Clus.sFence
  simp only [↓Clus.adv_clock, ↓Clus.sDo_clock, implies_true]

theorem Clus.rvExec_clock (k a1 a2 a3) : (Clus.rvExec k a1 a2 a3).clock = k.clock := by
  unfold Clus.rvExec
  repeat' (first | (simp only [↓Clus.ebreak_clock, ↓Clus.ecall_clock, ↓Clus.illegal_clock, ↓Clus.loadInstr_clock, ↓Clus.rvCsr_clock, ↓Clus.rvCustom0_clock, ↓Clus.rvCustom1_clock, ↓Clus.rvJump_clock, ↓Clus.rvPut_clock, ↓Clus.sFence_clock, ↓Clus.sSet_clock, ↓Clus.setPc_clock, ↓Clus.storeInstr_clock, apply_ite Clus.clock, ite_self]; done) | with_reducible refine ite_clock_Clus ?_ ?_ | split | dsimp only)

theorem Clus.rvStep_clock (k a1) : (Clus.rvStep k a1).clock = k.clock := by
  unfold Clus.rvStep
  refine (Clus.sDo_clock _ _ _ (fun x => ?_))
  repeat' (first | (simp only [↓Clus.illegal_clock, ↓Clus.rvExec_clock, ↓Clus.sTrap_clock, apply_ite Clus.clock, ite_self]; done) | with_reducible refine ite_clock_Pkg ?_ ?_ | with_reducible refine foldl_clock_Pkg' (fun _ _ => ?_) ?_ | with_reducible refine iter_clock_Pkg' (fun _ _ => ?_) ?_ | with_reducible refine foldl2_clock_Pkg' (fun _ _ => ?_) ?_ | with_reducible refine foldl3_clock_Pkg' (fun _ _ => ?_) ?_ | with_reducible refine ite_clock_Clus ?_ ?_ | with_reducible refine foldl_clock_Clus' (fun _ _ => ?_) ?_ | with_reducible refine iter_clock_Clus' (fun _ _ => ?_) ?_ | with_reducible refine foldl2_clock_Clus' (fun _ _ => ?_) ?_ | with_reducible refine foldl3_clock_Clus' (fun _ _ => ?_) ?_ | with_reducible refine ite_clock_Core ?_ ?_ | with_reducible refine foldl_clock_Core' (fun _ _ => ?_) ?_ | with_reducible refine iter_clock_Core' (fun _ _ => ?_) ?_ | with_reducible refine foldl2_clock_Core' (fun _ _ => ?_) ?_ | with_reducible refine foldl3_clock_Core' (fun _ _ => ?_) ?_ | simp only [↓Core.clock_eta, ↓Core.clock_mk, ↓Clus.clock_mk, ↓Pkg.clock_mk, ↓Clus.core_clock, ↓Pkg.cl_clock, ↓Clus.illegal_clock, ↓Clus.rvExec_clock, ↓Clus.sDo_clock, ↓Clus.sTrap_clock, ↓foldl_clock_Pkg, ↓foldl_clock_Clus, ↓foldl_clock_Core, implies_true, and_self, apply_ite Pkg.clock, apply_ite Clus.clock, apply_ite Core.clock, ite_self] | with_reducible refine of_eq_clock_Pkg ‹_› ?_ | with_reducible refine of_eq1_clock_Pkg ‹_› ?_ | with_reducible refine of_eq_clock_Clus ‹_› ?_ | with_reducible refine of_eq1_clock_Clus ‹_› ?_ | with_reducible refine of_eq_clock_Core ‹_› ?_ | with_reducible refine of_eq1_clock_Core ‹_› ?_ | split | dsimp only)

theorem Clus.sDepart_clock (k a1) : (Clus.sDepart k a1).clock = k.clock := by
  unfold Clus.sDepart
  simp only [↓Clus.setScore_clock, apply_ite Clus.clock, ite_self]

theorem Clus.sStart_clock (k a1 a2 a3) : (Clus.sStart k a1 a2 a3).clock = k.clock := by
  unfold Clus.sStart
  simp only [↓Clus.clock_mk, ↓Clus.core_clock, ↓Clus.setScore_clock, ↓Clus.setXReg_clock]

theorem Clus.saBad_clock (k a1 a2) : (Clus.saBad k a1 a2).clock = k.clock := by
  unfold Clus.saBad
  simp only [↓Clus.saFatal_clock, ↓Clus.setArr_clock]

theorem Clus.saDepart_clock (k a1) : (Clus.saDepart k a1).clock = k.clock := by
  unfold Clus.saDepart
  simp only [↓Clus.clock_mk, ↓Clus.core_clock, ↓Clus.setArr_clock]

theorem Clus.saHead_clock (k a1 a2) (a3 : W128 → Clus) (h3 : ∀ x0, (a3 x0).clock = k.clock) :
    (Clus.saHead k a1 a2 a3).clock = k.clock := by
  unfold Clus.saHead
  repeat' (first | with_reducible rfl | (simp only [↓Clus.saBad_clock, ↓Core.clock_eta, ↓Core.clock_mk, ↓Clus.clock_mk, ↓Clus.core_clock, h3, ↓foldl_clock_Core, ↓iter_clock_Core, ↓foldl_clock_Clus, ↓iter_clock_Clus, implies_true, apply_ite Clus.clock, ite_self]; done) | with_reducible refine ite_clock_Clus ?_ ?_ | with_reducible refine foldl_clock_Clus' (fun _ _ => ?_) ?_ | with_reducible refine iter_clock_Clus' (fun _ _ => ?_) ?_ | with_reducible refine foldl2_clock_Clus' (fun _ _ => ?_) ?_ | with_reducible refine foldl3_clock_Clus' (fun _ _ => ?_) ?_ | with_reducible refine ite_clock_Core ?_ ?_ | with_reducible refine foldl_clock_Core' (fun _ _ => ?_) ?_ | with_reducible refine iter_clock_Core' (fun _ _ => ?_) ?_ | with_reducible refine foldl2_clock_Core' (fun _ _ => ?_) ?_ | with_reducible refine foldl3_clock_Core' (fun _ _ => ?_) ?_ | simp only [↓Clus.saBad_clock, ↓Core.clock_eta, ↓Core.clock_mk, ↓Clus.clock_mk, ↓Clus.core_clock, h3] | with_reducible refine of_eq_clock_Clus ‹_› ?_ | with_reducible refine of_eq1_clock_Clus ‹_› ?_ | with_reducible refine of_eq_clock_Core ‹_› ?_ | with_reducible refine of_eq1_clock_Core ‹_› ?_ | split | dsimp only)

theorem Clus.saResume_clock (k a1) : (Clus.saResume k a1).clock = k.clock := by
  unfold Clus.saResume
  repeat' (first | (simp only [↓Clus.setArr_clock, apply_ite Clus.clock, ite_self]; done) | with_reducible refine ite_clock_Clus ?_ ?_ | split | dsimp only)

theorem Clus.saSelect_clock (k a1 a2 a3) : (Clus.saSelect k a1 a2 a3).clock = k.clock := by
  unfold Clus.saSelect
  repeat' (first | (simp only [↓Clus.saBad_clock, ↓Clus.setArr_clock]; done) | with_reducible refine ite_clock_Clus ?_ ?_ | split)

theorem Clus.saStall_clock (k a1) : (Clus.saStall k a1).clock = k.clock := by
  unfold Clus.saStall
  repeat' (first | (simp only [↓Clus.saFatal_clock, ↓Clus.setArr_clock, apply_ite Clus.clock, ite_self]; done) | with_reducible refine ite_clock_Clus ?_ ?_ | split | dsimp only)

theorem Clus.sabind_clock (k a1) : (Clus.sabind k a1).clock = k.clock := by
  unfold Clus.sabind
  simp only [↓Clus.saBad_clock, ↓Clus.saHead_clock, ↓Clus.setArr_clock, implies_true, apply_ite Clus.clock, ite_self]

theorem Clus.saload_clock (k a1) : (Clus.saload k a1).clock = k.clock := by
  unfold Clus.saload
  simp only [↓Clus.saBad_clock, ↓Clus.saHead_clock, ↓Clus.setArr_clock, implies_true, apply_ite Clus.clock, ite_self]

theorem Clus.saloadComplete_clock (k a1) : (Clus.saloadComplete k a1).clock = k.clock := by
  unfold Clus.saloadComplete
  repeat' (first | (simp only [↓Clus.readOp_clock, ↓Clus.saFatal_clock, ↓Clus.setArr_clock, ↓Clus.setCfg_clock]; done) | with_reducible refine ite_clock_Clus ?_ ?_ | split | dsimp only)

theorem Clus.sweep_clock (k a1) : (Clus.sweep k a1).1.clock = k.clock := by
  have hi : ∀ (n : Nat) (f : Nat → Clus × Bool → Clus × Bool) (x : Clus × Bool), (∀ i y, (f i y).1.clock = y.1.clock) →
      (iter n f x).1.clock = x.1.clock := fun n f x h => by
    induction n with
    | zero => rfl
    | succ n ih => exact (h _ _).trans ih
  unfold Clus.sweep
  dsimp only
  rw [hi, hi]
  · intro i y
    dsimp only
    rw [Clus.moveDelay_clock, hi]
    intro j z
    exact Clus.moveOut_clock _ _ _ _
  · intro i y
    exact Clus.portIn_clock _ _ _

theorem Clus.settleN_clock (a0 a1 k) : (Clus.settleN a0 a1 k).clock = k.clock := by
  induction a1 generalizing k with
  | zero => rfl
  | succ n ih =>
    unfold Clus.settleN
    refine ite_clock_Clus ?_ rfl
    exact (ih _).trans (Clus.sweep_clock _ _)

theorem Clus.settle_clock (k a1) : (Clus.settle k a1).clock = k.clock := by
  unfold Clus.settle
  simp only [↓Clus.settleN_clock, apply_ite Clus.clock, ite_self]

theorem Clus.sarun_clock (k a1) : (Clus.sarun k a1).clock = k.clock := by
  unfold Clus.sarun
  simp only [↓Clus.saBad_clock, ↓Clus.saHead_clock, ↓Clus.setArr_clock, ↓Clus.settle_clock, implies_true, apply_ite Clus.clock, ite_self]

theorem Clus.sasel_clock (k a1) : (Clus.sasel k a1).clock = k.clock := by
  unfold Clus.sasel
  refine Clus.saHead_clock _ _ _ _ (fun w => ?_)
  repeat' (first | (simp only [↓Clus.popA_clock, ↓Clus.saBad_clock, ↓Clus.saSelect_clock, apply_ite Clus.clock]; done) | with_reducible refine ite_clock_Pkg ?_ ?_ | with_reducible refine foldl_clock_Pkg' (fun _ _ => ?_) ?_ | with_reducible refine iter_clock_Pkg' (fun _ _ => ?_) ?_ | with_reducible refine foldl2_clock_Pkg' (fun _ _ => ?_) ?_ | with_reducible refine foldl3_clock_Pkg' (fun _ _ => ?_) ?_ | with_reducible refine ite_clock_Clus ?_ ?_ | with_reducible refine foldl_clock_Clus' (fun _ _ => ?_) ?_ | with_reducible refine iter_clock_Clus' (fun _ _ => ?_) ?_ | with_reducible refine foldl2_clock_Clus' (fun _ _ => ?_) ?_ | with_reducible refine foldl3_clock_Clus' (fun _ _ => ?_) ?_ | with_reducible refine ite_clock_Core ?_ ?_ | with_reducible refine foldl_clock_Core' (fun _ _ => ?_) ?_ | with_reducible refine iter_clock_Core' (fun _ _ => ?_) ?_ | with_reducible refine foldl2_clock_Core' (fun _ _ => ?_) ?_ | with_reducible refine foldl3_clock_Core' (fun _ _ => ?_) ?_ | simp only [↓Core.clock_eta, ↓Core.clock_mk, ↓Clus.clock_mk, ↓Pkg.clock_mk, ↓Clus.core_clock, ↓Pkg.cl_clock, ↓Clus.popA_clock, ↓Clus.saBad_clock, ↓Clus.saHead_clock, ↓Clus.saSelect_clock, ↓foldl_clock_Pkg, ↓foldl_clock_Clus, ↓foldl_clock_Core, implies_true, and_self, apply_ite Pkg.clock, apply_ite Clus.clock, apply_ite Core.clock, ite_self, apply_ite Prod.snd] | with_reducible refine of_eq_clock_Pkg ‹_› ?_ | with_reducible refine of_eq1_clock_Pkg ‹_› ?_ | with_reducible refine of_eq_clock_Clus ‹_› ?_ | with_reducible refine of_eq1_clock_Clus ‹_› ?_ | with_reducible refine of_eq_clock_Core ‹_› ?_ | with_reducible refine of_eq1_clock_Core ‹_› ?_ | split | dsimp only)

theorem Clus.sasync_clock (k a1) : (Clus.sasync k a1).clock = k.clock := by
  unfold Clus.sasync
  simp only [↓Clus.popA_clock, ↓Clus.saBad_clock, ↓Clus.saHead_clock, ↓Clus.setArr_clock, ↓Clus.signal_clock, implies_true, apply_ite Clus.clock, ite_self]

theorem Clus.scrubCtrl_clock (k a1 a2 a3) : (Clus.scrubCtrl k a1 a2 a3).clock = k.clock := by
  unfold Clus.scrubCtrl
  simp only [↓Clus.clock_mk, ↓Clus.core_clock, ↓Clus.onCore_clock, ↓Core.setFld_clock, ↓Core.wr_clock, apply_ite Clus.clock, ite_self]

theorem Clus.scrubRead_clock (k a1 a2) : (Clus.scrubRead k a1 a2).clock = k.clock := by
  unfold Clus.scrubRead
  repeat' (first | with_reducible rfl | (simp only [↓Clus.stTouch_clock, ↓Core.clock_eta, ↓Core.clock_mk, ↓Clus.clock_mk, ↓Clus.core_clock, ↓foldl_clock_Core, ↓iter_clock_Core, ↓foldl_clock_Clus, ↓iter_clock_Clus, implies_true, apply_ite Clus.clock, ite_self]; done) | with_reducible refine ite_clock_Clus ?_ ?_ | with_reducible refine foldl_clock_Clus' (fun _ _ => ?_) ?_ | with_reducible refine iter_clock_Clus' (fun _ _ => ?_) ?_ | with_reducible refine foldl2_clock_Clus' (fun _ _ => ?_) ?_ | with_reducible refine foldl3_clock_Clus' (fun _ _ => ?_) ?_ | with_reducible refine ite_clock_Core ?_ ?_ | with_reducible refine foldl_clock_Core' (fun _ _ => ?_) ?_ | with_reducible refine iter_clock_Core' (fun _ _ => ?_) ?_ | with_reducible refine foldl2_clock_Core' (fun _ _ => ?_) ?_ | with_reducible refine foldl3_clock_Core' (fun _ _ => ?_) ?_ | simp only [↓Clus.stTouch_clock, ↓Core.clock_eta, ↓Core.clock_mk, ↓Clus.clock_mk, ↓Clus.core_clock] | with_reducible refine of_eq_clock_Clus ‹_› ?_ | with_reducible refine of_eq1_clock_Clus ‹_› ?_ | with_reducible refine of_eq_clock_Core ‹_› ?_ | with_reducible refine of_eq1_clock_Core ‹_› ?_ | split | dsimp only)

theorem Clus.select_clock (k a1) : (Clus.select k a1).clock = k.clock := by
  unfold Clus.select
  simp only [↓Clus.clock_mk, ↓Clus.core_clock, ↓Clus.departPilot_clock, ↓Clus.departReplays_clock, ↓Clus.examine_clock, ↓foldl_clock_Clus, implies_true]

theorem Clus.selectDone_clock (k a1 a2) : (Clus.selectDone k a1 a2).clock = k.clock := by
  unfold Clus.selectDone
  repeat' (first | with_reducible rfl | (simp only [↓Clus.saFatal_clock, ↓Clus.setArr_clock, ↓Clus.setCfg_clock, ↓Core.record_clock, ↓Core.clock_eta, ↓Core.clock_mk, ↓Clus.clock_mk, ↓Clus.core_clock, ↓Clus.onCore_clock, ↓foldl_clock_Core, ↓iter_clock_Core, ↓foldl_clock_Clus, ↓iter_clock_Clus, implies_true, apply_ite Clus.clock, ite_self]; done) | with_reducible refine ite_clock_Clus ?_ ?_ | with_reducible refine foldl_clock_Clus' (fun _ _ => ?_) ?_ | with_reducible refine iter_clock_Clus' (fun _ _ => ?_) ?_ | with_reducible refine foldl2_clock_Clus' (fun _ _ => ?_) ?_ | with_reducible refine foldl3_clock_Clus' (fun _ _ => ?_) ?_ | with_reducible refine ite_clock_Core ?_ ?_ | with_reducible refine foldl_clock_Core' (fun _ _ => ?_) ?_ | with_reducible refine iter_clock_Core' (fun _ _ => ?_) ?_ | with_reducible refine foldl2_clock_Core' (fun _ _ => ?_) ?_ | with_reducible refine foldl3_clock_Core' (fun _ _ => ?_) ?_ | simp only [↓Clus.saFatal_clock, ↓Clus.setArr_clock, ↓Clus.setCfg_clock, ↓Core.record_clock, ↓Core.clock_eta, ↓Core.clock_mk, ↓Clus.clock_mk, ↓Clus.core_clock, ↓Clus.onCore_clock] | with_reducible refine of_eq_clock_Clus ‹_› ?_ | with_reducible refine of_eq1_clock_Clus ‹_› ?_ | with_reducible refine of_eq_clock_Core ‹_› ?_ | with_reducible refine of_eq1_clock_Core ‹_› ?_ | split | dsimp only)

theorem Clus.sendResume_clock (k a1) : (Clus.sendResume k a1).clock = k.clock := by
  unfold Clus.sendResume
  repeat' (first | (simp only [↓Clus.core_clock, ↓Clus.onCore_clock, ↓Clus.sendMsg_clock, ↓Clus.setScore_clock, ↓Core.incSat_clock, ↓Core.setFld_clock]; done) | with_reducible refine ite_clock_Clus ?_ ?_ | split | dsimp only)

theorem Clus.setVp_clock (k a1 a2 a3 a4 a5) : (Clus.setVp k a1 a2 a3 a4 a5).clock = k.clock := by
  unfold Clus.setVp
  repeat' (first | with_reducible rfl | (simp only [↓Core.clock_eta, ↓Core.clock_mk, ↓Clus.clock_mk, ↓Clus.core_clock, ↓foldl_clock_Core, ↓iter_clock_Core, ↓foldl_clock_Clus, ↓iter_clock_Clus, implies_true, apply_ite Clus.clock, ite_self]; done) | with_reducible refine ite_clock_Clus ?_ ?_ | with_reducible refine foldl_clock_Clus' (fun _ _ => ?_) ?_ | with_reducible refine iter_clock_Clus' (fun _ _ => ?_) ?_ | with_reducible refine foldl2_clock_Clus' (fun _ _ => ?_) ?_ | with_reducible refine foldl3_clock_Clus' (fun _ _ => ?_) ?_ | with_reducible refine ite_clock_Core ?_ ?_ | with_reducible refine foldl_clock_Core' (fun _ _ => ?_) ?_ | with_reducible refine iter_clock_Core' (fun _ _ => ?_) ?_ | with_reducible refine foldl2_clock_Core' (fun _ _ => ?_) ?_ | with_reducible refine foldl3_clock_Core' (fun _ _ => ?_) ?_ | simp only [↓Core.clock_eta, ↓Core.clock_mk, ↓Clus.clock_mk, ↓Clus.core_clock] | with_reducible refine of_eq_clock_Clus ‹_› ?_ | with_reducible refine of_eq1_clock_Clus ‹_› ?_ | with_reducible refine of_eq_clock_Core ‹_› ?_ | with_reducible refine of_eq1_clock_Core ‹_› ?_ | split | dsimp only)

theorem Clus.setVx_clock (k a1 a2 a3 a4 a5) : (Clus.setVx k a1 a2 a3 a4 a5).clock = k.clock := by
  unfold Clus.setVx
  simp only [↓Clus.clock_mk, ↓Clus.core_clock]

theorem Clus.stFlip_clock (k a1 a2 a3 a4) : (Clus.stFlip k a1 a2 a3 a4).clock = k.clock := by
  unfold Clus.stFlip
  simp only [↓Clus.core_clock, ↓Clus.onCore_clock, ↓Core.setFld_clock, apply_ite Clus.clock, ite_self]

theorem Clus.startPending_clock (k a1) : (Clus.startPending k a1).clock = k.clock := by
  unfold Clus.startPending
  simp only [↓Clus.clock_mk, ↓Clus.core_clock, ↓Core.setCircCur_clock, ↓Core.setCircState_clock, ↓Core.setEntryState_clock, ↓Core.wr_clock, ↓iter_clock_Clus, implies_true, apply_ite Clus.clock, ite_self]

theorem Clus.stepResult_clock (k a1 a2) : (Clus.stepResult k a1 a2).clock = k.clock := by
  unfold Clus.stepResult
  repeat' (first | (simp only [↓Clus.setArr_clock, ↓Clus.settle_clock, apply_ite Clus.clock, ite_self]; done) | with_reducible refine ite_clock_Clus ?_ ?_ | split)

theorem Clus.storesDepart_clock (k a1) : (Clus.storesDepart k a1).clock = k.clock := by
  unfold Clus.storesDepart
  simp only [↓Clus.clock_mk, ↓Clus.core_clock, ↓Clus.applyDescs_clock, ↓Clus.onCore_clock, ↓Core.setFld_clock, ↓iter_clock_Clus, implies_true]

theorem Clus.vResume_clock (k a1 a2) : (Clus.vResume k a1 a2).clock = k.clock := by
  unfold Clus.vResume
  repeat' (first | (simp only [↓Clus.clock_mk, ↓Clus.core_clock, ↓Clus.popV_clock, apply_ite Clus.clock, ite_self]; done) | with_reducible refine ite_clock_Clus ?_ ?_ | split)

theorem Clus.twaitcResume_clock (k a1) : (Clus.twaitcResume k a1).clock = k.clock := by
  unfold Clus.twaitcResume
  repeat' (first | (simp only [↓Clus.setScore_clock, apply_ite Clus.clock, ite_self]; done) | with_reducible refine ite_clock_Clus ?_ ?_ | split | dsimp only)

theorem Clus.syncResume_clock (k a1 a2) : (Clus.syncResume k a1 a2).clock = k.clock := by
  unfold Clus.syncResume
  repeat' (first | (simp only [↓Clus.mResume_clock, ↓Clus.saResume_clock, ↓Clus.twaitcResume_clock, ↓Clus.vResume_clock]; done) | with_reducible refine ite_clock_Clus ?_ ?_ | split)

theorem Clus.tabletFlit_clock (k a1 a2) : (Clus.tabletFlit k a1 a2).clock = k.clock := by
  unfold Clus.tabletFlit
  repeat' (first | (simp only [↓Clus.clock_mk, ↓Clus.core_clock, ↓Clus.causeEvent_clock, ↓foldl_clock_Clus, implies_true, apply_ite Clus.clock]; done) | with_reducible refine ite_clock_Clus ?_ ?_ | split)

theorem Clus.tabletTargetWrite_clock (k a1 a2 a3) : (Clus.tabletTargetWrite k a1 a2 a3).clock = k.clock := by
  unfold Clus.tabletTargetWrite
  simp only [↓Clus.core_clock, ↓Clus.onCore_clock, ↓Core.tbSet_clock]

theorem Clus.rootPick_clock (k) : (Clus.rootPick k).clock = k.clock := by
  unfold Clus.rootPick
  repeat' (first | with_reducible rfl | (simp only [↓Core.draw_clock, ↓Core.clock_eta, ↓Core.clock_mk, ↓Clus.clock_mk, ↓Clus.core_clock, ↓foldl_clock_Core, ↓iter_clock_Core, ↓foldl_clock_Clus, ↓iter_clock_Clus, implies_true, apply_ite Clus.clock, ite_self, apply_ite Prod.fst, apply_ite Prod.snd]; done) | with_reducible refine ite_clock_Clus ?_ ?_ | with_reducible refine foldl_clock_Clus' (fun _ _ => ?_) ?_ | with_reducible refine iter_clock_Clus' (fun _ _ => ?_) ?_ | with_reducible refine foldl2_clock_Clus' (fun _ _ => ?_) ?_ | with_reducible refine foldl3_clock_Clus' (fun _ _ => ?_) ?_ | with_reducible refine ite_clock_Core ?_ ?_ | with_reducible refine foldl_clock_Core' (fun _ _ => ?_) ?_ | with_reducible refine iter_clock_Core' (fun _ _ => ?_) ?_ | with_reducible refine foldl2_clock_Core' (fun _ _ => ?_) ?_ | with_reducible refine foldl3_clock_Core' (fun _ _ => ?_) ?_ | simp only [↓Core.draw_clock, ↓Core.clock_eta, ↓Core.clock_mk, ↓Clus.clock_mk, ↓Clus.core_clock] | with_reducible refine of_eq_clock_Clus ‹_› ?_ | with_reducible refine of_eq1_clock_Clus ‹_› ?_ | with_reducible refine of_eq_clock_Core ‹_› ?_ | with_reducible refine of_eq1_clock_Core ‹_› ?_ | split | dsimp only)

theorem Clus.thruRebind_clock (k) : (Clus.thruRebind k).clock = k.clock := by
  unfold Clus.thruRebind
  repeat' (first | with_reducible rfl | (simp only [↓Clus.rootPick_clock, ↓Core.wr_clock, ↓Core.wr8_clock, ↓Core.clock_eta, ↓Core.clock_mk, ↓Clus.clock_mk, ↓Clus.core_clock, ↓Clus.onCore_clock, ↓foldl_clock_Core, ↓iter_clock_Core, ↓foldl_clock_Clus, ↓iter_clock_Clus, implies_true, apply_ite Clus.clock, ite_self]; done) | with_reducible refine ite_clock_Clus ?_ ?_ | with_reducible refine foldl_clock_Clus' (fun _ _ => ?_) ?_ | with_reducible refine iter_clock_Clus' (fun _ _ => ?_) ?_ | with_reducible refine foldl2_clock_Clus' (fun _ _ => ?_) ?_ | with_reducible refine foldl3_clock_Clus' (fun _ _ => ?_) ?_ | with_reducible refine ite_clock_Core ?_ ?_ | with_reducible refine foldl_clock_Core' (fun _ _ => ?_) ?_ | with_reducible refine iter_clock_Core' (fun _ _ => ?_) ?_ | with_reducible refine foldl2_clock_Core' (fun _ _ => ?_) ?_ | with_reducible refine foldl3_clock_Core' (fun _ _ => ?_) ?_ | simp only [↓Clus.rootPick_clock, ↓Core.wr_clock, ↓Core.wr8_clock, ↓Core.clock_eta, ↓Core.clock_mk, ↓Clus.clock_mk, ↓Clus.core_clock, ↓Clus.onCore_clock] | with_reducible refine of_eq_clock_Clus ‹_› ?_ | with_reducible refine of_eq1_clock_Clus ‹_› ?_ | with_reducible refine of_eq_clock_Core ‹_› ?_ | with_reducible refine of_eq1_clock_Core ‹_› ?_ | split | dsimp only)

theorem Clus.thruRegister_clock (k a1) : (Clus.thruRegister k a1).clock = k.clock := by
  unfold Clus.thruRegister
  repeat' (first | (simp only [↓Clus.core_clock, ↓Clus.onCore_clock, ↓Core.setFld_clock, apply_ite Clus.clock]; done) | with_reducible refine ite_clock_Clus ?_ ?_ | with_reducible refine iter_clock_Clus' (fun _ _ => ?_) ?_ | split | dsimp only)

theorem Clus.tileFire_clock (k a1 a2) : (Clus.tileFire k a1 a2).clock = k.clock := by
  unfold Clus.tileFire
  simp only [↓Clus.core_clock, ↓Clus.backPressure_clock, ↓Clus.causeEvent_clock, ↓Clus.onCore_clock, ↓Clus.saFault_clock, ↓Clus.setArr_clock, ↓Clus.settle_clock, ↓Core.setFld_clock, apply_ite Clus.clock, ite_self]

theorem Clus.ttLockstep_clock (k a1) : (Clus.ttLockstep k a1).clock = k.clock := by
  unfold Clus.ttLockstep
  repeat' (first | (simp only [↓Clus.clock_mk, ↓Clus.core_clock, ↓Clus.fail_clock, ↓Clus.ttEvent_clock, apply_ite Clus.clock, ite_self]; done) | with_reducible refine ite_clock_Clus ?_ ?_ | with_reducible refine iter_clock_Clus' (fun _ _ => ?_) ?_ | split | dsimp only)

theorem Clus.vDepart_clock (k a1 a2) : (Clus.vDepart k a1 a2).clock = k.clock := by
  unfold Clus.vDepart
  repeat' (first | with_reducible rfl | (simp only [↓Clus.newVHead_clock, ↓Core.clock_eta, ↓Core.clock_mk, ↓Clus.clock_mk, ↓Clus.core_clock, ↓foldl_clock_Core, ↓iter_clock_Core, ↓foldl_clock_Clus, ↓iter_clock_Clus, implies_true, apply_ite Clus.clock, ite_self]; done) | with_reducible refine ite_clock_Clus ?_ ?_ | with_reducible refine foldl_clock_Clus' (fun _ _ => ?_) ?_ | with_reducible refine iter_clock_Clus' (fun _ _ => ?_) ?_ | with_reducible refine foldl2_clock_Clus' (fun _ _ => ?_) ?_ | with_reducible refine foldl3_clock_Clus' (fun _ _ => ?_) ?_ | with_reducible refine ite_clock_Core ?_ ?_ | with_reducible refine foldl_clock_Core' (fun _ _ => ?_) ?_ | with_reducible refine iter_clock_Core' (fun _ _ => ?_) ?_ | with_reducible refine foldl2_clock_Core' (fun _ _ => ?_) ?_ | with_reducible refine foldl3_clock_Core' (fun _ _ => ?_) ?_ | simp only [↓Clus.newVHead_clock, ↓Core.clock_eta, ↓Core.clock_mk, ↓Clus.clock_mk, ↓Clus.core_clock] | with_reducible refine of_eq_clock_Clus ‹_› ?_ | with_reducible refine of_eq1_clock_Clus ‹_› ?_ | with_reducible refine of_eq_clock_Core ‹_› ?_ | with_reducible refine of_eq1_clock_Core ‹_› ?_ | split | dsimp only)

theorem Clus.unitsDepart_clock (k a1) : (Clus.unitsDepart k a1).clock = k.clock := by
  unfold Clus.unitsDepart
  simp only [↓Clus.mDepart_clock, ↓Clus.sDepart_clock, ↓Clus.saDepart_clock, ↓Clus.vDepart_clock, ↓iter_clock_Clus, implies_true]

theorem Clus.vPoison_clock (k a1 a2 a3) : (Clus.vPoison k a1 a2 a3).clock = k.clock := by
  unfold Clus.vPoison
  simp only [↓Clus.causeEvent_clock, ↓Clus.vCapture_clock, apply_ite Clus.clock, ite_self]

theorem Clus.vWrite_clock (k a1 a2 a3) (a4 : Clus → Clus) (h4 : ∀ x0, (a4 x0).clock = x0.clock) :
    (Clus.vWrite k a1 a2 a3 a4).clock = k.clock := by
  unfold Clus.vWrite
  repeat' (first | with_reducible rfl | (simp only [↓Clus.vLockstep_clock, ↓Core.setFld_clock, ↓Core.clock_eta, ↓Core.clock_mk, ↓Clus.clock_mk, ↓Clus.core_clock, ↓Clus.onCore_clock, h4, ↓foldl_clock_Core, ↓iter_clock_Core, ↓foldl_clock_Clus, ↓iter_clock_Clus, implies_true, apply_ite Clus.clock, ite_self]; done) | with_reducible refine ite_clock_Clus ?_ ?_ | with_reducible refine foldl_clock_Clus' (fun _ _ => ?_) ?_ | with_reducible refine iter_clock_Clus' (fun _ _ => ?_) ?_ | with_reducible refine foldl2_clock_Clus' (fun _ _ => ?_) ?_ | with_reducible refine foldl3_clock_Clus' (fun _ _ => ?_) ?_ | with_reducible refine ite_clock_Core ?_ ?_ | with_reducible refine foldl_clock_Core' (fun _ _ => ?_) ?_ | with_reducible refine iter_clock_Core' (fun _ _ => ?_) ?_ | with_reducible refine foldl2_clock_Core' (fun _ _ => ?_) ?_ | with_reducible refine foldl3_clock_Core' (fun _ _ => ?_) ?_ | simp only [↓Clus.vLockstep_clock, ↓Core.setFld_clock, ↓Core.clock_eta, ↓Core.clock_mk, ↓Clus.clock_mk, ↓Clus.core_clock, ↓Clus.onCore_clock, h4] | with_reducible refine of_eq_clock_Clus ‹_› ?_ | with_reducible refine of_eq1_clock_Clus ‹_› ?_ | with_reducible refine of_eq_clock_Core ‹_› ?_ | with_reducible refine of_eq1_clock_Core ‹_› ?_ | split | dsimp only)

theorem Clus.vxPutBytes_clock (k a1 a2 a3 a4 a5) : (Clus.vxPutBytes k a1 a2 a3 a4 a5).clock = k.clock := by
  unfold Clus.vxPutBytes
  simp only [↓Clus.setVx_clock]

theorem Clus.vgath_clock (k a1 a2) : (Clus.vgath k a1 a2).clock = k.clock := by
  unfold Clus.vgath
  repeat' (first | with_reducible rfl | (simp only [↓Clus.gatherGo_clock, ↓Clus.popV_clock, ↓Clus.readOp_clock, ↓Clus.vWrite_clock, ↓Clus.vxPutBytes_clock, ↓Core.clock_eta, ↓Core.clock_mk, ↓Clus.clock_mk, ↓Clus.core_clock, ↓foldl_clock_Core, ↓iter_clock_Core, ↓foldl_clock_Clus, ↓iter_clock_Clus, implies_true, apply_ite Clus.clock, ite_self, apply_ite Prod.fst, apply_ite Prod.snd]; done) | with_reducible refine (Clus.gatherGo_clock _ _ _ _ _ (fun _ _ _ => ?_)).trans ?_ | with_reducible refine (Clus.vWrite_clock _ _ _ _ _ (fun _ => ?_)).trans ?_ | with_reducible refine ite_clock_Clus ?_ ?_ | with_reducible refine foldl_clock_Clus' (fun _ _ => ?_) ?_ | with_reducible refine iter_clock_Clus' (fun _ _ => ?_) ?_ | with_reducible refine foldl2_clock_Clus' (fun _ _ => ?_) ?_ | with_reducible refine foldl3_clock_Clus' (fun _ _ => ?_) ?_ | with_reducible refine ite_clock_Core ?_ ?_ | with_reducible refine foldl_clock_Core' (fun _ _ => ?_) ?_ | with_reducible refine iter_clock_Core' (fun _ _ => ?_) ?_ | with_reducible refine foldl2_clock_Core' (fun _ _ => ?_) ?_ | with_reducible refine foldl3_clock_Core' (fun _ _ => ?_) ?_ | simp only [↓Clus.gatherGo_clock, ↓Clus.popV_clock, ↓Clus.readOp_clock, ↓Clus.vWrite_clock, ↓Clus.vxPutBytes_clock, ↓Core.clock_eta, ↓Core.clock_mk, ↓Clus.clock_mk, ↓Clus.core_clock] | with_reducible refine of_eq_clock_Clus ‹_› ?_ | with_reducible refine of_eq1_clock_Clus ‹_› ?_ | with_reducible refine of_eq_clock_Core ‹_› ?_ | with_reducible refine of_eq1_clock_Core ‹_› ?_ | split | dsimp only)

theorem Clus.vld_clock (k a1 a2) : (Clus.vld k a1 a2).clock = k.clock := by
  unfold Clus.vld
  repeat' (first | with_reducible rfl | (simp only [↓Clus.popV_clock, ↓Clus.readOp_clock, ↓Clus.vFatal_clock, ↓Clus.vHead_clock, ↓Clus.vWrite_clock, ↓Clus.vxPutBytes_clock, ↓Core.clock_eta, ↓Core.clock_mk, ↓Clus.clock_mk, ↓Clus.core_clock, ↓foldl_clock_Core, ↓iter_clock_Core, ↓foldl_clock_Clus, ↓iter_clock_Clus, implies_true, apply_ite Clus.clock, ite_self, apply_ite Prod.fst, apply_ite Prod.snd]; done) | with_reducible refine (Clus.vHead_clock _ _ _ _ _ (fun _ => ?_)).trans ?_ | with_reducible refine (Clus.vWrite_clock _ _ _ _ _ (fun _ => ?_)).trans ?_ | with_reducible refine ite_clock_Clus ?_ ?_ | with_reducible refine foldl_clock_Clus' (fun _ _ => ?_) ?_ | with_reducible refine iter_clock_Clus' (fun _ _ => ?_) ?_ | with_reducible refine foldl2_clock_Clus' (fun _ _ => ?_) ?_ | with_reducible refine foldl3_clock_Clus' (fun _ _ => ?_) ?_ | with_reducible refine ite_clock_Core ?_ ?_ | with_reducible refine foldl_clock_Core' (fun _ _ => ?_) ?_ | with_reducible refine iter_clock_Core' (fun _ _ => ?_) ?_ | with_reducible refine foldl2_clock_Core' (fun _ _ => ?_) ?_ | with_reducible refine foldl3_clock_Core' (fun _ _ => ?_) ?_ | simp only [↓Clus.popV_clock, ↓Clus.readOp_clock, ↓Clus.vFatal_clock, ↓Clus.vHead_clock, ↓Clus.vWrite_clock, ↓Clus.vxPutBytes_clock, ↓Core.clock_eta, ↓Core.clock_mk, ↓Clus.clock_mk, ↓Clus.core_clock] | with_reducible refine of_eq_clock_Clus ‹_› ?_ | with_reducible refine of_eq1_clock_Clus ‹_› ?_ | with_reducible refine of_eq_clock_Core ‹_› ?_ | with_reducible refine of_eq1_clock_Core ‹_› ?_ | split | dsimp only)

theorem Clus.vop_clock (k a1 a2) : (Clus.vop k a1 a2).clock = k.clock := by
  unfold Clus.vop
  repeat' (first | with_reducible rfl | (simp only [↓Clus.popV_clock, ↓Clus.setVp_clock, ↓Clus.setVx_clock, ↓Clus.vFatal_clock, ↓Clus.vHead_clock, ↓Clus.vPoison_clock, ↓Clus.vWrite_clock, ↓Clus.vxPutBytes_clock, ↓Core.clock_eta, ↓Core.clock_mk, ↓Clus.clock_mk, ↓Clus.core_clock, ↓foldl_clock_Core, ↓iter_clock_Core, ↓foldl_clock_Clus, ↓iter_clock_Clus, implies_true, apply_ite Clus.clock, ite_self]; done) | with_reducible refine (Clus.vHead_clock _ _ _ _ _ (fun _ => ?_)).trans ?_ | with_reducible refine (Clus.vWrite_clock _ _ _ _ _ (fun _ => ?_)).trans ?_ | with_reducible refine ite_clock_Clus ?_ ?_ | with_reducible refine foldl_clock_Clus' (fun _ _ => ?_) ?_ | with_reducible refine iter_clock_Clus' (fun _ _ => ?_) ?_ | with_reducible refine foldl2_clock_Clus' (fun _ _ => ?_) ?_ | with_reducible refine foldl3_clock_Clus' (fun _ _ => ?_) ?_ | with_reducible refine ite_clock_Core ?_ ?_ | with_reducible refine foldl_clock_Core' (fun _ _ => ?_) ?_ | with_reducible refine iter_clock_Core' (fun _ _ => ?_) ?_ | with_reducible refine foldl2_clock_Core' (fun _ _ => ?_) ?_ | with_reducible refine foldl3_clock_Core' (fun _ _ => ?_) ?_ | simp only [↓Clus.popV_clock, ↓Clus.setVp_clock, ↓Clus.setVx_clock, ↓Clus.vFatal_clock, ↓Clus.vHead_clock, ↓Clus.vPoison_clock, ↓Clus.vWrite_clock, ↓Clus.vxPutBytes_clock, ↓Core.clock_eta, ↓Core.clock_mk, ↓Clus.clock_mk, ↓Clus.core_clock] | with_reducible refine of_eq_clock_Clus ‹_› ?_ | with_reducible refine of_eq1_clock_Clus ‹_› ?_ | with_reducible refine of_eq_clock_Core ‹_› ?_ | with_reducible refine of_eq1_clock_Core ‹_› ?_ | split | dsimp only)

theorem Clus.vscat_clock (k a1 a2) : (Clus.vscat k a1 a2).clock = k.clock := by
  unfold Clus.vscat
  refine Clus.gatherGo_clock _ _ _ _ _ (fun _ _ _ => ?_)
  repeat' (first | (simp only [↓Clus.accOp_clock, ↓Clus.popV_clock, ↓Clus.writeOp_clock, ↓foldl_clock_Clus, implies_true, apply_ite Clus.clock, ite_self]; done) | with_reducible refine ite_clock_Pkg ?_ ?_ | with_reducible refine foldl_clock_Pkg' (fun _ _ => ?_) ?_ | with_reducible refine iter_clock_Pkg' (fun _ _ => ?_) ?_ | with_reducible refine foldl2_clock_Pkg' (fun _ _ => ?_) ?_ | with_reducible refine foldl3_clock_Pkg' (fun _ _ => ?_) ?_ | with_reducible refine ite_clock_Clus ?_ ?_ | with_reducible refine foldl_clock_Clus' (fun _ _ => ?_) ?_ | with_reducible refine iter_clock_Clus' (fun _ _ => ?_) ?_ | with_reducible refine foldl2_clock_Clus' (fun _ _ => ?_) ?_ | with_reducible refine foldl3_clock_Clus' (fun _ _ => ?_) ?_ | with_reducible refine ite_clock_Core ?_ ?_ | with_reducible refine foldl_clock_Core' (fun _ _ => ?_) ?_ | with_reducible refine iter_clock_Core' (fun _ _ => ?_) ?_ | with_reducible refine foldl2_clock_Core' (fun _ _ => ?_) ?_ | with_reducible refine foldl3_clock_Core' (fun _ _ => ?_) ?_ | simp only [↓Core.clock_eta, ↓Core.clock_mk, ↓Clus.clock_mk, ↓Pkg.clock_mk, ↓Clus.core_clock, ↓Pkg.cl_clock, ↓Clus.accOp_clock, ↓Clus.gatherGo_clock, ↓Clus.popV_clock, ↓Clus.writeOp_clock, ↓foldl_clock_Pkg, ↓foldl_clock_Clus, ↓foldl_clock_Core, implies_true, and_self, apply_ite Pkg.clock, apply_ite Clus.clock, apply_ite Core.clock, ite_self] | with_reducible refine of_eq_clock_Pkg ‹_› ?_ | with_reducible refine of_eq1_clock_Pkg ‹_› ?_ | with_reducible refine of_eq_clock_Clus ‹_› ?_ | with_reducible refine of_eq1_clock_Clus ‹_› ?_ | with_reducible refine of_eq_clock_Core ‹_› ?_ | with_reducible refine of_eq1_clock_Core ‹_› ?_ | split | dsimp only)

theorem Clus.vst_clock (k a1 a2) : (Clus.vst k a1 a2).clock = k.clock := by
  unfold Clus.vst
  simp only [↓Clus.popV_clock, ↓Clus.vFatal_clock, ↓Clus.vHead_clock, ↓Clus.writeOp_clock, ↓foldl_clock_Clus, implies_true, apply_ite Clus.clock, ite_self]

theorem Clus.vsync_clock (k a1 a2) : (Clus.vsync k a1 a2).clock = k.clock := by
  unfold Clus.vsync
  simp only [↓Clus.clock_mk, ↓Clus.core_clock, ↓Clus.popV_clock, ↓Clus.signal_clock, ↓Clus.vFatal_clock, ↓Clus.vHead_clock, implies_true, apply_ite Clus.clock, ite_self]

theorem Clus.xstCapClr_clock (k a1 a2) : (Clus.xstCapClr k a1 a2).clock = k.clock := by
  unfold Clus.xstCapClr
  simp only [↓Clus.core_clock, ↓Clus.onCore_clock, ↓Core.zero_clock]

theorem Clus.xstCntClr_clock (k a1 a2) : (Clus.xstCntClr k a1 a2).clock = k.clock := by
  unfold Clus.xstCntClr
  simp only [↓Clus.core_clock, ↓Clus.onCore_clock, ↓Core.zero_clock]

theorem Core.addContra_clock (k a1) : (Core.addContra k a1).clock = k.clock := by
  unfold Core.addContra
  simp only [↓Core.setFld_clock]

theorem Core.recordCap_clock (k a1 a2 a3 a4 a5 a6 a7 a8) : (Core.recordCap k a1 a2 a3 a4 a5 a6 a7 a8).clock = k.clock := by
  unfold Core.recordCap
  repeat' (first | (simp only [↓Core.record_clock, ↓Core.wrs_clock, apply_ite Core.clock]; done) | with_reducible refine ite_clock_Core ?_ ?_ | split)

theorem Core.biEvent_clock (k a1 a2 a3 a4 a5 a6) : (Core.biEvent k a1 a2 a3 a4 a5 a6).clock = k.clock := by
  unfold Core.biEvent
  simp only [↓Core.recordCap_clock]

theorem Core.buEvent_clock (k a1 a2 a3 a4) : (Core.buEvent k a1 a2 a3 a4).clock = k.clock := by
  unfold Core.buEvent
  simp only [↓Core.record_clock]

theorem Core.copyTablets_clock (k a1 a2) : (Core.copyTablets k a1 a2).clock = k.clock := by
  unfold Core.copyTablets
  simp only [↓Core.wr_clock, ↓iter_clock_Core, implies_true]

theorem Core.countRestart_clock (k a1) : (Core.countRestart k a1).clock = k.clock := by
  unfold Core.countRestart
  simp only [↓Core.setFld_clock]

theorem Core.errClr_clock (k a1) : (Core.errClr k a1).clock = k.clock := by
  unfold Core.errClr
  simp only [↓Core.zero_clock]

theorem Core.firstClr_clock (k a1) : (Core.firstClr k a1).clock = k.clock := by
  unfold Core.firstClr
  simp only [↓Core.zero_clock]

theorem Core.evtClr_clock (k a1) : (Core.evtClr k a1).clock = k.clock := by
  unfold Core.evtClr
  simp only [↓Core.zero_clock, apply_ite Core.clock, ite_self]

theorem Core.ctrlWrite_clock (k a1 a2) : (Core.ctrlWrite k a1 a2).clock = k.clock := by
  unfold Core.ctrlWrite
  simp only [↓Core.errClr_clock, ↓Core.evtClr_clock, ↓Core.firstClr_clock, apply_ite Core.clock, ite_self]

theorem Core.fwEvent_clock (k a1 a2 a3 a4 a5) : (Core.fwEvent k a1 a2 a3 a4 a5).clock = k.clock := by
  unfold Core.fwEvent
  simp only [↓Core.record_clock]

theorem Core.handover_clock (k a1 a2 a3 a4) : (Core.handover k a1 a2 a3 a4).clock = k.clock := by
  unfold Core.handover
  simp only [↓Core.wr_clock]

theorem Core.lcArm_clock (k a1) : (Core.lcArm k a1).clock = k.clock := by
  unfold Core.lcArm
  simp only [↓Core.wr8_clock, ↓Core.zero_clock]

theorem Core.lnArm_clock (k a1 a2 a3) : (Core.lnArm k a1 a2 a3).clock = k.clock := by
  unfold Core.lnArm
  simp only [↓Core.setFld_clock, apply_ite Core.clock, ite_self]

theorem Core.mirrorSet_clock (k a1 a2 a3 a4) : (Core.mirrorSet k a1 a2 a3 a4).clock = k.clock := by
  unfold Core.mirrorSet
  simp only [↓Core.wr_clock]

theorem Core.onPage_clock (k a1) (a2 : Core → Core) (h2 : ∀ x0, (a2 x0).clock = x0.clock) :
    (Core.onPage k a1 a2).clock = k.clock := by
  unfold Core.onPage
  repeat' (first | with_reducible rfl | (simp only [↓Core.clock_eta, ↓Core.clock_mk, h2, ↓foldl_clock_Core, ↓iter_clock_Core, implies_true, apply_ite Core.clock, ite_self]; done) | with_reducible refine ite_clock_Core ?_ ?_ | with_reducible refine foldl_clock_Core' (fun _ _ => ?_) ?_ | with_reducible refine iter_clock_Core' (fun _ _ => ?_) ?_ | with_reducible refine foldl2_clock_Core' (fun _ _ => ?_) ?_ | with_reducible refine foldl3_clock_Core' (fun _ _ => ?_) ?_ | simp only [↓Core.clock_eta, ↓Core.clock_mk, h2] | with_reducible refine of_eq_clock_Core ‹_› ?_ | with_reducible refine of_eq1_clock_Core ‹_› ?_ | split | dsimp only)

theorem Core.setLimits_clock (k a1) : (Core.setLimits k a1).clock = k.clock := by
  unfold Core.setLimits
  simp only [↓Core.wr_clock, ↓iter_clock_Core, implies_true]

theorem Core.pendClock_clock (k a1) : (Core.pendClock k a1).clock = k.clock := by
  unfold Core.pendClock
  simp only [↓Core.setLimits_clock, ↓Core.wr_clock]

theorem Core.pilotOff_clock (k a1) : (Core.pilotOff k a1).clock = k.clock := by
  unfold Core.pilotOff
  simp only [↓Core.setFld_clock]

theorem Core.placeDieMap_clock (k a1 a2) : (Core.placeDieMap k a1 a2).clock = k.clock := by
  unfold Core.placeDieMap
  simp only [↓Core.setFld_clock, ↓iter_clock_Core, implies_true]

theorem Core.placeRegion_clock (k a1) : (Core.placeRegion k a1).clock = k.clock := by
  unfold Core.placeRegion
  simp only [↓Core.wr_clock, apply_ite Core.clock, ite_self]

theorem Core.ptsWord_clock (k a1 a2 a3 a4 a5) : (Core.ptsWord k a1 a2 a3 a4 a5).clock = k.clock := by
  unfold Core.ptsWord
  simp only [↓Core.dropped_clock, ↓Core.wr_clock, apply_ite Core.clock, ite_self]

theorem Core.railDown_clock (k a1) : (Core.railDown k a1).clock = k.clock := by
  unfold Core.railDown
  simp only [↓Core.wr_clock]

theorem Core.railGood_clock (k a1) : (Core.railGood k a1).clock = k.clock := by
  unfold Core.railGood
  simp only [↓Core.draw_clock, ↓Core.setFld_clock]

theorem Core.railUp_clock (k a1) : (Core.railUp k a1).clock = k.clock := by
  unfold Core.railUp
  simp only [↓Core.setFld_clock]

theorem Core.resetPage_clock (k a1 a2) : (Core.resetPage k a1 a2).clock = k.clock := by
  unfold Core.resetPage
  simp only [↓Core.clock_eta, ↓Core.clock_mk]

theorem Core.resetPages_clock (k) (a1 : PKind → Bool) (a2) : (Core.resetPages k a1 a2).clock = k.clock := by
  unfold Core.resetPages
  simp only [↓Core.clock_eta, ↓Core.clock_mk]

theorem Core.setStep_clock (k a1) : (Core.setStep k a1).clock = k.clock := by
  unfold Core.setStep
  simp only [↓Core.setFld_clock]

theorem Core.setTimeState_clock (k a1) : (Core.setTimeState k a1).clock = k.clock := by
  unfold Core.setTimeState
  simp only [↓Core.setFld_clock]

theorem Core.stepEnd_clock (k a1) : (Core.stepEnd k a1).clock = k.clock := by
  unfold Core.stepEnd
  simp only [↓Core.buEvent_clock, ↓Core.setStep_clock, ↓Core.wr8_clock]

theorem Core.bankCopy_clock (k a1) : (Core.bankCopy k a1).clock = k.clock := by
  unfold Core.bankCopy
  repeat' (first | with_reducible rfl | (simp only [↓Core.wr_clock, ↓Core.clock_eta, ↓Core.clock_mk, ↓foldl_clock_Core, ↓iter_clock_Core, implies_true, apply_ite Core.clock, ite_self]; done) | with_reducible refine ite_clock_Core ?_ ?_ | with_reducible refine foldl_clock_Core' (fun _ _ => ?_) ?_ | with_reducible refine iter_clock_Core' (fun _ _ => ?_) ?_ | with_reducible refine foldl2_clock_Core' (fun _ _ => ?_) ?_ | with_reducible refine foldl3_clock_Core' (fun _ _ => ?_) ?_ | simp only [↓Core.wr_clock, ↓Core.clock_eta, ↓Core.clock_mk] | with_reducible refine of_eq_clock_Core ‹_› ?_ | with_reducible refine of_eq1_clock_Core ‹_› ?_ | split | dsimp only)

theorem Core.swapTables_clock (k a1 a2 a3) : (Core.swapTables k a1 a2 a3).clock = k.clock := by
  unfold Core.swapTables
  repeat' (first | with_reducible rfl | (simp only [↓Core.bankCopy_clock, ↓Core.setFld_clock, ↓Core.wr_clock, ↓Core.clock_eta, ↓Core.clock_mk, ↓foldl_clock_Core, ↓iter_clock_Core, implies_true, apply_ite Core.clock, ite_self]; done) | with_reducible refine ite_clock_Core ?_ ?_ | with_reducible refine foldl_clock_Core' (fun _ _ => ?_) ?_ | with_reducible refine iter_clock_Core' (fun _ _ => ?_) ?_ | with_reducible refine foldl2_clock_Core' (fun _ _ => ?_) ?_ | with_reducible refine foldl3_clock_Core' (fun _ _ => ?_) ?_ | simp only [↓Core.bankCopy_clock, ↓Core.setFld_clock, ↓Core.wr_clock, ↓Core.clock_eta, ↓Core.clock_mk] | with_reducible refine of_eq_clock_Core ‹_› ?_ | with_reducible refine of_eq1_clock_Core ‹_› ?_ | split | dsimp only)

theorem Core.tabletWord_clock (k a1 a2 a3 a4) : (Core.tabletWord k a1 a2 a3 a4).clock = k.clock := by
  unfold Core.tabletWord
  simp only [↓Core.setFld_clock, ↓Core.tbSet_clock, apply_ite Core.clock, ite_self]

theorem Core.timeLatch_clock (k) : (Core.timeLatch k).clock = k.clock := by
  unfold Core.timeLatch
  simp only [↓Core.wr_clock]

theorem Core.validDies_clock (k a1) : (Core.validDies k a1).clock = k.clock := by
  unfold Core.validDies
  repeat' (first | (simp only [↓Core.setFld_clock, ↓iter_clock_Core, ↓foldl_clock_Core, implies_true, apply_ite Core.clock, ite_self]; done) | with_reducible refine ite_clock_Core ?_ ?_ | with_reducible refine iter_clock_Core' (fun _ _ => ?_) ?_ | split | dsimp only)

theorem Pkg.biShow_clock (k a1) : (Pkg.biShow k a1).clock = k.clock := by
  unfold Pkg.biShow
  repeat' (first | (simp only [↓Clus.core_clock, ↓Pkg.cl_clock, ↓Core.setFld_clock, ↓Pkg.onCore_clock]; done) | with_reducible refine ite_clock_Pkg ?_ ?_ | split | dsimp only)

theorem Pkg.setMove_clock (k a1 a2) : (Pkg.setMove k a1 a2).clock = k.clock := by
  unfold Pkg.setMove
  simp only [↓Pkg.onBi_clock]

theorem Pkg.abandon_clock (k a1 a2 a3) : (Pkg.abandon k a1 a2 a3).clock = k.clock := by
  unfold Pkg.abandon
  repeat' (first | (simp only [↓Clus.core_clock, ↓Pkg.cl_clock, ↓Core.biEvent_clock, ↓Core.mirrorSet_clock, ↓Core.pilotOff_clock, ↓Pkg.biShow_clock, ↓Pkg.onCore_clock, ↓Pkg.setMove_clock, apply_ite Pkg.clock, apply_ite Core.clock, ite_self]; done) | with_reducible refine ite_clock_Pkg ?_ ?_ | split)

theorem Pkg.consumeAct_clock (k a1 a2 a3 a4) : ∀ x, Pkg.consumeAct k a1 a2 a3 a4 = some x → x.clock = k.clock := by
  intro x hx
  unfold Pkg.consumeAct at hx
  dsimp only at hx
  repeat' split at hx
  all_goals first
    | contradiction
    | (injection hx with hx
       subst hx
       repeat' (first | with_reducible rfl | (simp only [↓Clus.doConsume_clock, ↓Core.clock_eta, ↓Core.clock_mk, ↓Clus.clock_mk, ↓Clus.core_clock, ↓Pkg.clock_mk, ↓Pkg.cl_clock, ↓foldl_clock_Core, ↓iter_clock_Core, ↓foldl_clock_Clus, ↓iter_clock_Clus, ↓foldl_clock_Pkg, ↓iter_clock_Pkg, implies_true, apply_ite Pkg.clock, ite_self]; done) | with_reducible refine ite_clock_Pkg ?_ ?_ | with_reducible refine foldl_clock_Pkg' (fun _ _ => ?_) ?_ | with_reducible refine iter_clock_Pkg' (fun _ _ => ?_) ?_ | with_reducible refine foldl2_clock_Pkg' (fun _ _ => ?_) ?_ | with_reducible refine foldl3_clock_Pkg' (fun _ _ => ?_) ?_ | with_reducible refine ite_clock_Clus ?_ ?_ | with_reducible refine foldl_clock_Clus' (fun _ _ => ?_) ?_ | with_reducible refine iter_clock_Clus' (fun _ _ => ?_) ?_ | with_reducible refine foldl2_clock_Clus' (fun _ _ => ?_) ?_ | with_reducible refine foldl3_clock_Clus' (fun _ _ => ?_) ?_ | with_reducible refine ite_clock_Core ?_ ?_ | with_reducible refine foldl_clock_Core' (fun _ _ => ?_) ?_ | with_reducible refine iter_clock_Core' (fun _ _ => ?_) ?_ | with_reducible refine foldl2_clock_Core' (fun _ _ => ?_) ?_ | with_reducible refine foldl3_clock_Core' (fun _ _ => ?_) ?_ | with_reducible refine getD_clock_Clus (fun _ hx => (Clus.doConsume_clock _ _ _ _ _ _ hx).trans ?_) ?_ | simp only [↓Clus.doConsume_clock, ↓Core.clock_eta, ↓Core.clock_mk, ↓Clus.clock_mk, ↓Clus.core_clock, ↓Pkg.clock_mk, ↓Pkg.cl_clock] | with_reducible refine of_eq_clock_Pkg ‹_› ?_ | with_reducible refine of_eq1_clock_Pkg ‹_› ?_ | with_reducible refine of_eq_clock_Clus ‹_› ?_ | with_reducible refine of_eq1_clock_Clus ‹_› ?_ | with_reducible refine of_eq_clock_Core ‹_› ?_ | with_reducible refine of_eq1_clock_Core ‹_› ?_ | with_reducible refine (Clus.doConsume_clock _ _ _ _ _ _ ‹_›).trans ?_ | split | dsimp only))

theorem Pkg.act_clock (k a1 a2 a3 a4) : (Pkg.act k a1 a2 a3 a4).2.clock = k.clock := by
  unfold Pkg.act
  repeat' (first | (simp only [↓Pkg.clock_mk, ↓Pkg.cl_clock, ↓Clus.addDig_clock, ↓Clus.circStart_clock, ↓Clus.doHostComplete_clock, ↓Clus.doPost_clock, ↓Clus.doRemoteRelease_clock, ↓Clus.fatalEvent_clock, ↓Clus.mismatch_clock, ↓Pkg.onClus_clock, apply_ite Clus.clock, ite_self]; done) | with_reducible refine ite_clock_Pkg ?_ ?_ | with_reducible refine foldl_clock_Pkg' (fun _ _ => ?_) ?_ | with_reducible refine iter_clock_Pkg' (fun _ _ => ?_) ?_ | with_reducible refine foldl2_clock_Pkg' (fun _ _ => ?_) ?_ | with_reducible refine foldl3_clock_Pkg' (fun _ _ => ?_) ?_ | with_reducible refine ite_clock_Clus ?_ ?_ | with_reducible refine foldl_clock_Clus' (fun _ _ => ?_) ?_ | with_reducible refine iter_clock_Clus' (fun _ _ => ?_) ?_ | with_reducible refine foldl2_clock_Clus' (fun _ _ => ?_) ?_ | with_reducible refine foldl3_clock_Clus' (fun _ _ => ?_) ?_ | with_reducible refine ite_clock_Core ?_ ?_ | with_reducible refine foldl_clock_Core' (fun _ _ => ?_) ?_ | with_reducible refine iter_clock_Core' (fun _ _ => ?_) ?_ | with_reducible refine foldl2_clock_Core' (fun _ _ => ?_) ?_ | with_reducible refine foldl3_clock_Core' (fun _ _ => ?_) ?_ | simp only [↓Pkg.clock_mk] | with_reducible refine of_eq_clock_Pkg ‹_› ?_ | with_reducible refine of_eq1_clock_Pkg ‹_› ?_ | with_reducible refine of_eq_clock_Clus ‹_› ?_ | with_reducible refine of_eq1_clock_Clus ‹_› ?_ | with_reducible refine of_eq_clock_Core ‹_› ?_ | with_reducible refine of_eq1_clock_Core ‹_› ?_ | (refine (Pkg.consumeAct_clock _ _ _ _ _ _ ‹_›).trans ?_) | (refine (Clus.doRelease_clock _ _ _ _ _ _ ‹_›).trans ?_) | (refine (Clus.doTabArrive_clock _ _ _ _ _ ‹_›).trans ?_) | split | dsimp only)

theorem Pkg.acts_clock (k a1 a2 a3) : (Pkg.acts k a1 a2 a3).2.clock = k.clock := by
  unfold Pkg.acts
  repeat' (first | (simp only [↓Pkg.act_clock]; done) | with_reducible refine ite_clock_Pkg ?_ ?_ | with_reducible refine foldl_clock_Pkg' (fun _ _ => ?_) ?_ | with_reducible refine iter_clock_Pkg' (fun _ _ => ?_) ?_ | with_reducible refine foldl2_clock_Pkg' (fun _ _ => ?_) ?_ | with_reducible refine foldl3_clock_Pkg' (fun _ _ => ?_) ?_ | simp only [↓Core.clock_eta, ↓Core.clock_mk, ↓Clus.clock_mk, ↓Pkg.clock_mk, ↓Clus.core_clock, ↓Pkg.cl_clock, ↓Pkg.act_clock, ↓foldl_clock_Pkg, ↓foldl_clock_Clus, ↓foldl_clock_Core, implies_true, and_self, apply_ite Pkg.clock, apply_ite Clus.clock, apply_ite Core.clock, ite_self] | with_reducible refine of_eq_clock_Pkg ‹_› ?_ | split | dsimp only)

theorem Pkg.setLink_clock (k a1 a2) : (Pkg.setLink k a1 a2).clock = k.clock := by
  unfold Pkg.setLink
  simp only [↓Pkg.clock_mk, ↓Pkg.cl_clock]

theorem Pkg.emit_clock (k a1 a2) : (Pkg.emit k a1 a2).clock = k.clock := by
  unfold Pkg.emit
  simp only [↓Clus.core_clock, ↓Pkg.cl_clock, ↓Core.setFld_clock, ↓Pkg.onCore_clock, ↓Pkg.onFab_clock, ↓Pkg.setLink_clock, apply_ite Pkg.clock, ite_self]

theorem Pkg.sendPeer_clock (k a1 a2) : (Pkg.sendPeer k a1 a2).clock = k.clock := by
  unfold Pkg.sendPeer
  simp only [↓Pkg.emit_clock]

theorem Pkg.advertise_clock (k) : (Pkg.advertise k).clock = k.clock := by
  unfold Pkg.advertise
  simp only [↓Pkg.sendPeer_clock, ↓foldl_clock_Pkg, implies_true, apply_ite Pkg.clock, ite_self]

theorem Pkg.alignWord_clock (k a1 a2) : (Pkg.alignWord k a1 a2).clock = k.clock := by
  unfold Pkg.alignWord
  simp only [↓Pkg.setLink_clock]

theorem Pkg.setStaged_clock (k a1 a2) : (Pkg.setStaged k a1 a2).clock = k.clock := by
  unfold Pkg.setStaged
  simp only [↓Pkg.onAtt_clock]

theorem Pkg.hostWrite_clock (k a1 a2) : (Pkg.hostWrite k a1 a2).clock = k.clock := by
  unfold Pkg.hostWrite
  simp only [↓Pkg.onAtt_clock]

theorem Pkg.setRingS_clock (k a1 a2) : (Pkg.setRingS k a1 a2).clock = k.clock := by
  unfold Pkg.setRingS
  simp only [↓Pkg.onAtt_clock]

theorem Pkg.cqWrite_clock (k a1 a2) : (Pkg.cqWrite k a1 a2).clock = k.clock := by
  unfold Pkg.cqWrite
  simp only [↓Pkg.hostWrite_clock, ↓Pkg.setRingS_clock]

theorem Pkg.cqDrain_clock (k a1 a2) : (Pkg.cqDrain k a1 a2).clock = k.clock := by
  induction a2 generalizing k with
  | zero => rfl
  | succ n ih =>
    unfold Pkg.cqDrain
    split
    · rfl
    · split
      · rw [ih, Pkg.cqWrite_clock, Pkg.setStaged_clock]
      · rfl

theorem Pkg.complete_clock (k a1 a2) : (Pkg.complete k a1 a2).clock = k.clock := by
  unfold Pkg.complete
  simp only [↓Pkg.cqDrain_clock, ↓Pkg.setStaged_clock]

theorem Pkg.cmdEnd_clock (k a1 a2 a3 a4 a5 a6) : (Pkg.cmdEnd k a1 a2 a3 a4 a5 a6).clock = k.clock := by
  unfold Pkg.cmdEnd
  simp only [↓Pkg.complete_clock, ↓Pkg.onAtt_clock]

theorem Core.rejectNote_clock (k a1 a2 a3 a4 a5) : (Core.rejectNote k a1 a2 a3 a4 a5).clock = k.clock := by
  unfold Core.rejectNote
  repeat' (first | with_reducible rfl | (simp only [↓Core.record_clock, ↓Core.clock_eta, ↓Core.clock_mk, ↓foldl_clock_Core, ↓iter_clock_Core, implies_true, apply_ite Core.clock, ite_self]; done) | with_reducible refine ite_clock_Core ?_ ?_ | with_reducible refine foldl_clock_Core' (fun _ _ => ?_) ?_ | with_reducible refine iter_clock_Core' (fun _ _ => ?_) ?_ | with_reducible refine foldl2_clock_Core' (fun _ _ => ?_) ?_ | with_reducible refine foldl3_clock_Core' (fun _ _ => ?_) ?_ | simp only [↓Core.record_clock, ↓Core.clock_eta, ↓Core.clock_mk] | with_reducible refine of_eq_clock_Core ‹_› ?_ | with_reducible refine of_eq1_clock_Core ‹_› ?_ | split | dsimp only)

theorem Pkg.cmdReject_clock (k a1 a2 a3 a4 a5 a6) : (Pkg.cmdReject k a1 a2 a3 a4 a5 a6).clock = k.clock := by
  unfold Pkg.cmdReject
  repeat' (first | with_reducible rfl | (simp only [↓Core.rejectNote_clock, ↓Pkg.cmdEnd_clock, ↓Core.clock_eta, ↓Core.clock_mk, ↓Clus.clock_mk, ↓Clus.core_clock, ↓Clus.onCore_clock, ↓Pkg.clock_mk, ↓Pkg.cl_clock, ↓Pkg.onCore_clock, ↓foldl_clock_Core, ↓iter_clock_Core, ↓foldl_clock_Clus, ↓iter_clock_Clus, ↓foldl_clock_Pkg, ↓iter_clock_Pkg, implies_true, apply_ite Pkg.clock, ite_self]; done) | with_reducible refine ite_clock_Pkg ?_ ?_ | with_reducible refine foldl_clock_Pkg' (fun _ _ => ?_) ?_ | with_reducible refine iter_clock_Pkg' (fun _ _ => ?_) ?_ | with_reducible refine foldl2_clock_Pkg' (fun _ _ => ?_) ?_ | with_reducible refine foldl3_clock_Pkg' (fun _ _ => ?_) ?_ | with_reducible refine ite_clock_Clus ?_ ?_ | with_reducible refine foldl_clock_Clus' (fun _ _ => ?_) ?_ | with_reducible refine iter_clock_Clus' (fun _ _ => ?_) ?_ | with_reducible refine foldl2_clock_Clus' (fun _ _ => ?_) ?_ | with_reducible refine foldl3_clock_Clus' (fun _ _ => ?_) ?_ | with_reducible refine ite_clock_Core ?_ ?_ | with_reducible refine foldl_clock_Core' (fun _ _ => ?_) ?_ | with_reducible refine iter_clock_Core' (fun _ _ => ?_) ?_ | with_reducible refine foldl2_clock_Core' (fun _ _ => ?_) ?_ | with_reducible refine foldl3_clock_Core' (fun _ _ => ?_) ?_ | simp only [↓Core.rejectNote_clock, ↓Pkg.cmdEnd_clock, ↓Core.clock_eta, ↓Core.clock_mk, ↓Clus.clock_mk, ↓Clus.core_clock, ↓Clus.onCore_clock, ↓Pkg.clock_mk, ↓Pkg.cl_clock, ↓Pkg.onCore_clock] | with_reducible refine of_eq_clock_Pkg ‹_› ?_ | with_reducible refine of_eq1_clock_Pkg ‹_› ?_ | with_reducible refine of_eq_clock_Clus ‹_› ?_ | with_reducible refine of_eq1_clock_Clus ‹_› ?_ | with_reducible refine of_eq_clock_Core ‹_› ?_ | with_reducible refine of_eq1_clock_Core ‹_› ?_ | split | dsimp only)

theorem Pkg.jobCmd_clock (k a1 a2 a3 a4 a5) (a6 : Pkg → Pkg) (h6 : ∀ x0, (a6 x0).clock = x0.clock) :
    (Pkg.jobCmd k a1 a2 a3 a4 a5 a6).clock = k.clock := by
  unfold Pkg.jobCmd
  repeat' (first | with_reducible rfl | (simp only [↓Pkg.cmdReject_clock, ↓Core.clock_eta, ↓Core.clock_mk, ↓Clus.clock_mk, ↓Clus.core_clock, ↓Pkg.clock_mk, ↓Pkg.cl_clock, h6, ↓foldl_clock_Core, ↓iter_clock_Core, ↓foldl_clock_Clus, ↓iter_clock_Clus, ↓foldl_clock_Pkg, ↓iter_clock_Pkg, implies_true, apply_ite Pkg.clock, ite_self]; done) | with_reducible refine ite_clock_Pkg ?_ ?_ | with_reducible refine foldl_clock_Pkg' (fun _ _ => ?_) ?_ | with_reducible refine iter_clock_Pkg' (fun _ _ => ?_) ?_ | with_reducible refine foldl2_clock_Pkg' (fun _ _ => ?_) ?_ | with_reducible refine foldl3_clock_Pkg' (fun _ _ => ?_) ?_ | with_reducible refine ite_clock_Clus ?_ ?_ | with_reducible refine foldl_clock_Clus' (fun _ _ => ?_) ?_ | with_reducible refine iter_clock_Clus' (fun _ _ => ?_) ?_ | with_reducible refine foldl2_clock_Clus' (fun _ _ => ?_) ?_ | with_reducible refine foldl3_clock_Clus' (fun _ _ => ?_) ?_ | with_reducible refine ite_clock_Core ?_ ?_ | with_reducible refine foldl_clock_Core' (fun _ _ => ?_) ?_ | with_reducible refine iter_clock_Core' (fun _ _ => ?_) ?_ | with_reducible refine foldl2_clock_Core' (fun _ _ => ?_) ?_ | with_reducible refine foldl3_clock_Core' (fun _ _ => ?_) ?_ | simp only [↓Pkg.cmdReject_clock, ↓Core.clock_eta, ↓Core.clock_mk, ↓Clus.clock_mk, ↓Clus.core_clock, ↓Pkg.clock_mk, ↓Pkg.cl_clock, h6] | with_reducible refine of_eq_clock_Pkg ‹_› ?_ | with_reducible refine of_eq1_clock_Pkg ‹_› ?_ | with_reducible refine of_eq_clock_Clus ‹_› ?_ | with_reducible refine of_eq1_clock_Clus ‹_› ?_ | with_reducible refine of_eq_clock_Core ‹_› ?_ | with_reducible refine of_eq1_clock_Core ‹_› ?_ | split | dsimp only)

theorem Pkg.segNew_clock (k a1 a2 a3 a4 a5 a6 a7) : (Pkg.segNew k a1 a2 a3 a4 a5 a6 a7).clock = k.clock := by
  unfold Pkg.segNew
  simp only [↓Clus.core_clock, ↓Pkg.cl_clock, ↓Core.wrs_clock, ↓Pkg.onCore_clock]

theorem Pkg.allocate_clock (k a1 a2 a3 a4) : ∀ x, Pkg.allocate k a1 a2 a3 a4 = some x → x.2.clock = k.clock := by
  intro x h
  unfold Pkg.allocate at h
  split at h
  · cases h; exact (rfl)
  · split at h
    · cases h; exact Pkg.segNew_clock ..
    · cases h

theorem Pkg.setJob_clock (k a1 a2) : (Pkg.setJob k a1 a2).clock = k.clock := by
  unfold Pkg.setJob
  simp only [↓Pkg.clock_mk, ↓Pkg.cl_clock]

theorem Pkg.onJob_clock (k a1) (a2 : JobS → JobS) : (Pkg.onJob k a1 a2).clock = k.clock := by
  unfold Pkg.onJob
  repeat' (first | (simp only [↓Pkg.setJob_clock]; done) | with_reducible refine ite_clock_Pkg ?_ ?_ | split)

theorem Pkg.alloc_clock (k a1 a2 a3 a4 a5) : (Pkg.alloc k a1 a2 a3 a4 a5).clock = k.clock := by
  unfold Pkg.alloc
  refine ite_clock_Pkg (Pkg.cmdReject_clock ..) (Pkg.jobCmd_clock _ _ _ _ _ _ _ (fun x => ?_))
  refine ite_clock_Pkg (Pkg.cmdEnd_clock ..) ?_
  split
  · exact Pkg.cmdEnd_clock ..
  · next h => exact (Pkg.cmdEnd_clock ..).trans ((Pkg.onJob_clock ..).trans (Pkg.allocate_clock _ _ _ _ _ _ h))

theorem Pkg.analogEvent_clock (k a1 a2 a3 a4) : (Pkg.analogEvent k a1 a2 a3 a4).clock = k.clock := by
  unfold Pkg.analogEvent
  simp only [↓Clus.core_clock, ↓Pkg.cl_clock, ↓Core.buEvent_clock, ↓Pkg.onCore_clock]

theorem Pkg.cwWr_clock (k a1 a2 a3) : (Pkg.cwWr k a1 a2 a3).clock = k.clock := by
  unfold Pkg.cwWr
  simp only [↓Pkg.onAtt_clock]

theorem Pkg.setDevState_clock (k a1) : (Pkg.setDevState k a1).clock = k.clock := by
  unfold Pkg.setDevState
  simp only [↓Pkg.cwWr_clock]

theorem Pkg.preempt_clock (k a1) : (Pkg.preempt k a1).clock = k.clock := by
  unfold Pkg.preempt
  simp only [↓Pkg.cmdEnd_clock, ↓foldl_clock_Pkg, implies_true]

theorem Pkg.setJobState_clock (k a1 a2) : (Pkg.setJobState k a1 a2).clock = k.clock := by
  unfold Pkg.setJobState
  simp only [↓Pkg.cwWr_clock]

theorem Pkg.jobMoves_clock (k a1 a2 a3) : (Pkg.jobMoves k a1 a2 a3).clock = k.clock := by
  unfold Pkg.jobMoves
  simp only [↓Pkg.complete_clock, ↓Pkg.setJobState_clock]

theorem Pkg.dropCut_clock (k a1) : (Pkg.dropCut k a1).clock = k.clock := by
  unfold Pkg.dropCut
  simp only [↓Pkg.onHbm_clock]

theorem Pkg.jobFault_clock (k a1 a2) : (Pkg.jobFault k a1 a2).clock = k.clock := by
  unfold Pkg.jobFault
  simp only [↓Pkg.cl_clock, ↓Clus.abortJob_clock, ↓Pkg.dropCut_clock, ↓Pkg.jobMoves_clock, ↓Pkg.onClus_clock, ↓Pkg.preempt_clock, apply_ite Pkg.clock, ite_self]

theorem Pkg.endAll_clock (k a1) : (Pkg.endAll k a1).clock = k.clock := by
  unfold Pkg.endAll
  simp only [↓Pkg.cmdEnd_clock, ↓Pkg.jobFault_clock, ↓iter_clock_Pkg, ↓foldl_clock_Pkg, implies_true]

theorem Pkg.failed_clock (k) : (Pkg.failed k).clock = k.clock := by
  unfold Pkg.failed
  simp only [↓Pkg.clock_mk, ↓Pkg.cl_clock, ↓Pkg.endAll_clock, ↓Pkg.setDevState_clock]

theorem Pkg.railsOff_clock (k) : (Pkg.railsOff k).clock = k.clock := by
  unfold Pkg.railsOff
  simp only [↓Clus.core_clock, ↓Pkg.cl_clock, ↓Core.railDown_clock, ↓Pkg.onCore_clock, ↓Pkg.onPw_clock, ↓foldl_clock_Core, implies_true]

theorem Pkg.markBad_clock (k a1) : (Pkg.markBad k a1).clock = k.clock := by
  unfold Pkg.markBad
  simp only [↓Pkg.onBu_clock]

theorem Pkg.sliceFail_clock (k a1 a2) : (Pkg.sliceFail k a1 a2).clock = k.clock := by
  unfold Pkg.sliceFail
  simp only [↓Pkg.analogEvent_clock, ↓Pkg.failed_clock, ↓Pkg.markBad_clock, ↓Pkg.onFab_clock, ↓Pkg.onPw_clock, ↓Pkg.railsOff_clock, ↓foldl_clock_Pkg, implies_true, apply_ite Pkg.clock, ite_self]

theorem Pkg.showLanes_clock (k a1) : (Pkg.showLanes k a1).clock = k.clock := by
  unfold Pkg.showLanes
  simp only [↓Clus.core_clock, ↓Pkg.cl_clock, ↓Core.setFld_clock, ↓Core.wr_clock, ↓Pkg.onAtt_clock, ↓Pkg.onCore_clock, apply_ite Pkg.clock, ite_self]

theorem Pkg.setPortState_clock (k a1 a2) : (Pkg.setPortState k a1 a2).clock = k.clock := by
  unfold Pkg.setPortState
  simp only [↓Clus.core_clock, ↓Pkg.cl_clock, ↓Core.setFld_clock, ↓Pkg.onCore_clock, apply_ite Pkg.clock, ite_self]

theorem Pkg.startDetect_clock (k a1) : (Pkg.startDetect k a1).clock = k.clock := by
  unfold Pkg.startDetect
  simp only [↓Pkg.onFab_clock, ↓Pkg.setLink_clock, ↓Pkg.setPortState_clock, ↓Pkg.showLanes_clock, apply_ite Pkg.clock, ite_self]

theorem Pkg.analogSlice_clock (k a1 a2 a3) : (Pkg.analogSlice k a1 a2 a3).clock = k.clock := by
  unfold Pkg.analogSlice
  simp only [↓Clus.core_clock, ↓Pkg.cl_clock, ↓Core.setFld_clock, ↓Core.stepEnd_clock, ↓Pkg.onBu_clock, ↓Pkg.onCore_clock, ↓Pkg.sliceFail_clock, ↓Pkg.startDetect_clock, apply_ite Pkg.clock, ite_self]

theorem Pkg.sendBy_clock (k a1 a2 a3) : (Pkg.sendBy k a1 a2 a3).clock = k.clock := by
  unfold Pkg.sendBy
  repeat' (first | with_reducible rfl | (simp only [↓Pkg.emit_clock, ↓Core.clock_eta, ↓Core.clock_mk, ↓Clus.clock_mk, ↓Clus.core_clock, ↓Pkg.clock_mk, ↓Pkg.cl_clock, ↓Pkg.onFab_clock, ↓foldl_clock_Core, ↓iter_clock_Core, ↓foldl_clock_Clus, ↓iter_clock_Clus, ↓foldl_clock_Pkg, ↓iter_clock_Pkg, implies_true, apply_ite Pkg.clock, ite_self]; done) | with_reducible refine ite_clock_Pkg ?_ ?_ | with_reducible refine foldl_clock_Pkg' (fun _ _ => ?_) ?_ | with_reducible refine iter_clock_Pkg' (fun _ _ => ?_) ?_ | with_reducible refine foldl2_clock_Pkg' (fun _ _ => ?_) ?_ | with_reducible refine foldl3_clock_Pkg' (fun _ _ => ?_) ?_ | with_reducible refine ite_clock_Clus ?_ ?_ | with_reducible refine foldl_clock_Clus' (fun _ _ => ?_) ?_ | with_reducible refine iter_clock_Clus' (fun _ _ => ?_) ?_ | with_reducible refine foldl2_clock_Clus' (fun _ _ => ?_) ?_ | with_reducible refine foldl3_clock_Clus' (fun _ _ => ?_) ?_ | with_reducible refine ite_clock_Core ?_ ?_ | with_reducible refine foldl_clock_Core' (fun _ _ => ?_) ?_ | with_reducible refine iter_clock_Core' (fun _ _ => ?_) ?_ | with_reducible refine foldl2_clock_Core' (fun _ _ => ?_) ?_ | with_reducible refine foldl3_clock_Core' (fun _ _ => ?_) ?_ | simp only [↓Pkg.emit_clock, ↓Core.clock_eta, ↓Core.clock_mk, ↓Clus.clock_mk, ↓Clus.core_clock, ↓Pkg.clock_mk, ↓Pkg.cl_clock, ↓Pkg.onFab_clock] | with_reducible refine of_eq_clock_Pkg ‹_› ?_ | with_reducible refine of_eq1_clock_Pkg ‹_› ?_ | with_reducible refine of_eq_clock_Clus ‹_› ?_ | with_reducible refine of_eq1_clock_Clus ‹_› ?_ | with_reducible refine of_eq_clock_Core ‹_› ?_ | with_reducible refine of_eq1_clock_Core ‹_› ?_ | split | dsimp only)

theorem Pkg.sendTo_clock (k a1 a2) : (Pkg.sendTo k a1 a2).2.clock = k.clock := by
  unfold Pkg.sendTo
  repeat' (first | with_reducible rfl | (simp only [↓Pkg.sendBy_clock, ↓Core.clock_eta, ↓Core.clock_mk, ↓Clus.clock_mk, ↓Clus.core_clock, ↓Pkg.clock_mk, ↓Pkg.cl_clock, ↓Pkg.onFab_clock, ↓foldl_clock_Core, ↓iter_clock_Core, ↓foldl_clock_Clus, ↓iter_clock_Clus, ↓foldl_clock_Pkg, ↓iter_clock_Pkg, implies_true, apply_ite Pkg.clock, ite_self, apply_ite Prod.fst, apply_ite Prod.snd]; done) | with_reducible refine ite_clock_Pkg ?_ ?_ | with_reducible refine foldl_clock_Pkg' (fun _ _ => ?_) ?_ | with_reducible refine iter_clock_Pkg' (fun _ _ => ?_) ?_ | with_reducible refine foldl2_clock_Pkg' (fun _ _ => ?_) ?_ | with_reducible refine foldl3_clock_Pkg' (fun _ _ => ?_) ?_ | with_reducible refine ite_clock_Clus ?_ ?_ | with_reducible refine foldl_clock_Clus' (fun _ _ => ?_) ?_ | with_reducible refine iter_clock_Clus' (fun _ _ => ?_) ?_ | with_reducible refine foldl2_clock_Clus' (fun _ _ => ?_) ?_ | with_reducible refine foldl3_clock_Clus' (fun _ _ => ?_) ?_ | with_reducible refine ite_clock_Core ?_ ?_ | with_reducible refine foldl_clock_Core' (fun _ _ => ?_) ?_ | with_reducible refine iter_clock_Core' (fun _ _ => ?_) ?_ | with_reducible refine foldl2_clock_Core' (fun _ _ => ?_) ?_ | with_reducible refine foldl3_clock_Core' (fun _ _ => ?_) ?_ | simp only [↓Pkg.sendBy_clock, ↓Core.clock_eta, ↓Core.clock_mk, ↓Clus.clock_mk, ↓Clus.core_clock, ↓Pkg.clock_mk, ↓Pkg.cl_clock, ↓Pkg.onFab_clock] | with_reducible refine of_eq_clock_Pkg ‹_› ?_ | with_reducible refine of_eq1_clock_Pkg ‹_› ?_ | with_reducible refine of_eq_clock_Clus ‹_› ?_ | with_reducible refine of_eq1_clock_Clus ‹_› ?_ | with_reducible refine of_eq_clock_Core ‹_› ?_ | with_reducible refine of_eq1_clock_Core ‹_› ?_ | split | dsimp only)

theorem Pkg.sendGroup_clock (k a1 a2) : (Pkg.sendGroup k a1 a2).clock = k.clock := by
  unfold Pkg.sendGroup
  simp only [↓Pkg.sendTo_clock, ↓foldl_clock_Pkg, implies_true, apply_ite Pkg.clock, ite_self]

theorem Pkg.announce_clock (k) : (Pkg.announce k).clock = k.clock := by
  unfold Pkg.announce
  simp only [↓Pkg.onFab_clock, ↓Pkg.sendGroup_clock, ↓foldl_clock_Pkg, implies_true, apply_ite Pkg.clock, ite_self]

theorem Pkg.emuBad_clock (k a1 a2) : (Pkg.emuBad k a1 a2).clock = k.clock := by
  unfold Pkg.emuBad
  simp only [↓Clus.core_clock, ↓Pkg.cl_clock, ↓Core.record_clock, ↓Pkg.onCore_clock]

theorem Pkg.ringPageWrite_clock (k a1) : (Pkg.ringPageWrite k a1).clock = k.clock := by
  unfold Pkg.ringPageWrite
  repeat' (first | (simp only [↓Pkg.cqDrain_clock, ↓Pkg.cwWr_clock, ↓Pkg.emuBad_clock, ↓Pkg.setRingS_clock, ↓foldl_clock_Pkg, implies_true, apply_ite Pkg.clock, ite_self]; done) | with_reducible refine ite_clock_Pkg ?_ ?_ | split | dsimp only)

theorem Pkg.dumpCopy_clock (k) : (Pkg.dumpCopy k).clock = k.clock := by
  unfold Pkg.dumpCopy
  repeat' (first | (simp only [↓Pkg.hostWrite_clock, apply_ite Pkg.clock]; done) | with_reducible refine ite_clock_Pkg ?_ ?_ | with_reducible refine foldl_clock_Pkg' (fun _ _ => ?_) ?_ | with_reducible refine iter_clock_Pkg' (fun _ _ => ?_) ?_ | with_reducible refine foldl2_clock_Pkg' (fun _ _ => ?_) ?_ | with_reducible refine foldl3_clock_Pkg' (fun _ _ => ?_) ?_ | simp only [↓Core.clock_eta, ↓Core.clock_mk, ↓Clus.clock_mk, ↓Pkg.clock_mk, ↓Clus.core_clock, ↓Pkg.cl_clock, ↓Pkg.hostWrite_clock, ↓foldl_clock_Pkg, ↓foldl_clock_Clus, ↓foldl_clock_Core, implies_true, and_self, apply_ite Pkg.clock, apply_ite Clus.clock, apply_ite Core.clock, ite_self] | with_reducible refine of_eq_clock_Pkg ‹_› ?_ | split | dsimp only)

theorem Pkg.shadowRefresh_clock (k a1) : (Pkg.shadowRefresh k a1).clock = k.clock := by
  unfold Pkg.shadowRefresh
  repeat' (first | (simp only [↓Pkg.cwWr_clock, ↓Pkg.onAtt_clock, ↓foldl_clock_Pkg, implies_true, apply_ite Pkg.clock]; done) | with_reducible refine ite_clock_Pkg ?_ ?_ | split)

theorem Pkg.settingsWrite_clock (k a1) : (Pkg.settingsWrite k a1).clock = k.clock := by
  unfold Pkg.settingsWrite
  simp only [↓Pkg.cwWr_clock, ↓Pkg.dumpCopy_clock, ↓Pkg.emuBad_clock, ↓Pkg.shadowRefresh_clock, ↓foldl_clock_Pkg, implies_true, apply_ite Pkg.clock, ite_self]

theorem Pkg.mbxGo_clock (k) : (Pkg.mbxGo k).clock = k.clock := by
  unfold Pkg.mbxGo
  simp only [↓Pkg.cwWr_clock, ↓Pkg.emuBad_clock, apply_ite Pkg.clock, ite_self]

theorem Pkg.viewOnlyWrite_clock (k a1) : (Pkg.viewOnlyWrite k a1).clock = k.clock := by
  unfold Pkg.viewOnlyWrite
  repeat' (first | (simp only [↓Pkg.cwWr_clock, ↓Pkg.emuBad_clock, ↓Pkg.mbxGo_clock, apply_ite Pkg.clock, ite_self]; done) | with_reducible refine ite_clock_Pkg ?_ ?_ | with_reducible refine foldl_clock_Pkg' (fun _ _ => ?_) ?_ | split | dsimp only)

theorem Pkg.refreshViews_clock (k a1) : (Pkg.refreshViews k a1).clock = k.clock := by
  unfold Pkg.refreshViews
  simp only [↓Pkg.shadowRefresh_clock, ↓foldl_clock_Pkg, implies_true]

theorem Pkg.linkEvent_clock (k a1 a2 a3 a4 a5 a6) : (Pkg.linkEvent k a1 a2 a3 a4 a5 a6).clock = k.clock := by
  unfold Pkg.linkEvent
  simp only [↓Clus.core_clock, ↓Pkg.cl_clock, ↓Core.record_clock, ↓Core.recordCap_clock, ↓Pkg.onCore_clock, apply_ite Pkg.clock, ite_self]

theorem Pkg.setDma_clock (k a1) : (Pkg.setDma k a1).clock = k.clock := by
  unfold Pkg.setDma
  simp only [↓Pkg.onNet_clock]

theorem Pkg.killRun_clock (k a1 a2) : (Pkg.killRun k a1 a2).clock = k.clock := by
  unfold Pkg.killRun
  simp only [↓Clus.core_clock, ↓Pkg.cl_clock, ↓Clus.fail_clock, ↓Core.wr_clock, ↓Pkg.onClus_clock, ↓Pkg.onCore_clock, ↓Pkg.setDma_clock, apply_ite Pkg.clock, ite_self]

theorem Pkg.loseTxn_clock (k a1 a2) : (Pkg.loseTxn k a1 a2).clock = k.clock := by
  unfold Pkg.loseTxn
  repeat' (first | (simp only [↓Clus.core_clock, ↓Pkg.cl_clock, ↓Clus.onCore_clock, ↓Core.note_clock, ↓Pkg.killRun_clock, ↓Pkg.onClus_clock, ↓Pkg.onFab_clock, apply_ite Pkg.clock, ite_self]; done) | with_reducible refine ite_clock_Pkg ?_ ?_ | split | dsimp only)

theorem Pkg.losePort_clock (k a1 a2) : (Pkg.losePort k a1 a2).clock = k.clock := by
  unfold Pkg.losePort
  simp only [↓Pkg.loseTxn_clock, ↓Pkg.onFab_clock, ↓foldl_clock_Pkg, implies_true]

theorem Pkg.linkIdle_clock (k a1) : (Pkg.linkIdle k a1).clock = k.clock := by
  unfold Pkg.linkIdle
  simp only [↓Pkg.linkEvent_clock, ↓Pkg.losePort_clock, ↓Pkg.setLink_clock, ↓Pkg.setPortState_clock, ↓Pkg.showLanes_clock, apply_ite Pkg.clock, ite_self]

theorem Pkg.lowerGen_clock (k a1) : (Pkg.lowerGen k a1).clock = k.clock := by
  unfold Pkg.lowerGen
  simp only [↓Pkg.linkIdle_clock, ↓Pkg.setLink_clock, apply_ite Pkg.clock, ite_self]

theorem Pkg.laneDrop_clock (k a1 a2 a3) : (Pkg.laneDrop k a1 a2 a3).clock = k.clock := by
  unfold Pkg.laneDrop
  repeat' (first | with_reducible rfl | (simp only [↓Core.incSat_clock, ↓Pkg.linkEvent_clock, ↓Pkg.losePort_clock, ↓Pkg.lowerGen_clock, ↓Pkg.setLink_clock, ↓Pkg.setPortState_clock, ↓Pkg.showLanes_clock, ↓Core.clock_eta, ↓Core.clock_mk, ↓Clus.clock_mk, ↓Clus.core_clock, ↓Clus.onCore_clock, ↓Pkg.clock_mk, ↓Pkg.cl_clock, ↓Pkg.onCore_clock, ↓Pkg.onFab_clock, ↓foldl_clock_Core, ↓iter_clock_Core, ↓foldl_clock_Clus, ↓iter_clock_Clus, ↓foldl_clock_Pkg, ↓iter_clock_Pkg, implies_true, apply_ite Pkg.clock, ite_self]; done) | with_reducible refine ite_clock_Pkg ?_ ?_ | with_reducible refine foldl_clock_Pkg' (fun _ _ => ?_) ?_ | with_reducible refine iter_clock_Pkg' (fun _ _ => ?_) ?_ | with_reducible refine foldl2_clock_Pkg' (fun _ _ => ?_) ?_ | with_reducible refine foldl3_clock_Pkg' (fun _ _ => ?_) ?_ | with_reducible refine ite_clock_Clus ?_ ?_ | with_reducible refine foldl_clock_Clus' (fun _ _ => ?_) ?_ | with_reducible refine iter_clock_Clus' (fun _ _ => ?_) ?_ | with_reducible refine foldl2_clock_Clus' (fun _ _ => ?_) ?_ | with_reducible refine foldl3_clock_Clus' (fun _ _ => ?_) ?_ | with_reducible refine ite_clock_Core ?_ ?_ | with_reducible refine foldl_clock_Core' (fun _ _ => ?_) ?_ | with_reducible refine iter_clock_Core' (fun _ _ => ?_) ?_ | with_reducible refine foldl2_clock_Core' (fun _ _ => ?_) ?_ | with_reducible refine foldl3_clock_Core' (fun _ _ => ?_) ?_ | simp only [↓Core.incSat_clock, ↓Pkg.linkEvent_clock, ↓Pkg.losePort_clock, ↓Pkg.lowerGen_clock, ↓Pkg.setLink_clock, ↓Pkg.setPortState_clock, ↓Pkg.showLanes_clock, ↓Core.clock_eta, ↓Core.clock_mk, ↓Clus.clock_mk, ↓Clus.core_clock, ↓Clus.onCore_clock, ↓Pkg.clock_mk, ↓Pkg.cl_clock, ↓Pkg.onCore_clock, ↓Pkg.onFab_clock] | with_reducible refine of_eq_clock_Pkg ‹_› ?_ | with_reducible refine of_eq1_clock_Pkg ‹_› ?_ | with_reducible refine of_eq_clock_Clus ‹_› ?_ | with_reducible refine of_eq1_clock_Clus ‹_› ?_ | with_reducible refine of_eq_clock_Core ‹_› ?_ | with_reducible refine of_eq1_clock_Core ‹_› ?_ | split | dsimp only)

theorem Pkg.hbEvent_clock (k a1 a2 a3 a4 a5) : (Pkg.hbEvent k a1 a2 a3 a4 a5).clock = k.clock := by
  unfold Pkg.hbEvent
  simp only [↓Clus.core_clock, ↓Pkg.cl_clock, ↓Clus.onCore_clock, ↓Core.recordCap_clock, ↓Pkg.onClus_clock]

theorem Pkg.spareCheck_clock (k a1) : (Pkg.spareCheck k a1).clock = k.clock := by
  unfold Pkg.spareCheck
  repeat' (first | with_reducible rfl | (simp only [↓Core.fwEvent_clock, ↓Core.clock_eta, ↓Core.clock_mk, ↓Clus.clock_mk, ↓Clus.core_clock, ↓Clus.onCore_clock, ↓Pkg.clock_mk, ↓Pkg.cl_clock, ↓Pkg.onCore_clock, ↓Pkg.onClus_clock, ↓Pkg.onHbm_clock, ↓foldl_clock_Core, ↓iter_clock_Core, ↓foldl_clock_Clus, ↓iter_clock_Clus, ↓foldl_clock_Pkg, ↓iter_clock_Pkg, implies_true, apply_ite Pkg.clock, ite_self]; done) | with_reducible refine ite_clock_Pkg ?_ ?_ | with_reducible refine foldl_clock_Pkg' (fun _ _ => ?_) ?_ | with_reducible refine iter_clock_Pkg' (fun _ _ => ?_) ?_ | with_reducible refine foldl2_clock_Pkg' (fun _ _ => ?_) ?_ | with_reducible refine foldl3_clock_Pkg' (fun _ _ => ?_) ?_ | with_reducible refine ite_clock_Clus ?_ ?_ | with_reducible refine foldl_clock_Clus' (fun _ _ => ?_) ?_ | with_reducible refine iter_clock_Clus' (fun _ _ => ?_) ?_ | with_reducible refine foldl2_clock_Clus' (fun _ _ => ?_) ?_ | with_reducible refine foldl3_clock_Clus' (fun _ _ => ?_) ?_ | with_reducible refine ite_clock_Core ?_ ?_ | with_reducible refine foldl_clock_Core' (fun _ _ => ?_) ?_ | with_reducible refine iter_clock_Core' (fun _ _ => ?_) ?_ | with_reducible refine foldl2_clock_Core' (fun _ _ => ?_) ?_ | with_reducible refine foldl3_clock_Core' (fun _ _ => ?_) ?_ | simp only [↓Core.fwEvent_clock, ↓Core.clock_eta, ↓Core.clock_mk, ↓Clus.clock_mk, ↓Clus.core_clock, ↓Clus.onCore_clock, ↓Pkg.clock_mk, ↓Pkg.cl_clock, ↓Pkg.onCore_clock, ↓Pkg.onClus_clock, ↓Pkg.onHbm_clock] | with_reducible refine of_eq_clock_Pkg ‹_› ?_ | with_reducible refine of_eq1_clock_Pkg ‹_› ?_ | with_reducible refine of_eq_clock_Clus ‹_› ?_ | with_reducible refine of_eq1_clock_Clus ‹_› ?_ | with_reducible refine of_eq_clock_Core ‹_› ?_ | with_reducible refine of_eq1_clock_Core ‹_› ?_ | split | dsimp only)

theorem Pkg.startPage_clock (k a1 a2 a3 a4) : (Pkg.startPage k a1 a2 a3 a4).clock = k.clock := by
  unfold Pkg.startPage
  repeat' (first | with_reducible rfl | (simp only [↓Core.setFld_clock, ↓Pkg.spareCheck_clock, ↓Core.clock_eta, ↓Core.clock_mk, ↓Clus.clock_mk, ↓Clus.core_clock, ↓Clus.onCore_clock, ↓Pkg.clock_mk, ↓Pkg.cl_clock, ↓Pkg.onCore_clock, ↓Pkg.onClus_clock, ↓Pkg.onHbm_clock, ↓foldl_clock_Core, ↓iter_clock_Core, ↓foldl_clock_Clus, ↓iter_clock_Clus, ↓foldl_clock_Pkg, ↓iter_clock_Pkg, implies_true, apply_ite Pkg.clock, ite_self]; done) | with_reducible refine ite_clock_Pkg ?_ ?_ | with_reducible refine foldl_clock_Pkg' (fun _ _ => ?_) ?_ | with_reducible refine iter_clock_Pkg' (fun _ _ => ?_) ?_ | with_reducible refine foldl2_clock_Pkg' (fun _ _ => ?_) ?_ | with_reducible refine foldl3_clock_Pkg' (fun _ _ => ?_) ?_ | with_reducible refine ite_clock_Clus ?_ ?_ | with_reducible refine foldl_clock_Clus' (fun _ _ => ?_) ?_ | with_reducible refine iter_clock_Clus' (fun _ _ => ?_) ?_ | with_reducible refine foldl2_clock_Clus' (fun _ _ => ?_) ?_ | with_reducible refine foldl3_clock_Clus' (fun _ _ => ?_) ?_ | with_reducible refine ite_clock_Core ?_ ?_ | with_reducible refine foldl_clock_Core' (fun _ _ => ?_) ?_ | with_reducible refine iter_clock_Core' (fun _ _ => ?_) ?_ | with_reducible refine foldl2_clock_Core' (fun _ _ => ?_) ?_ | with_reducible refine foldl3_clock_Core' (fun _ _ => ?_) ?_ | simp only [↓Core.setFld_clock, ↓Pkg.spareCheck_clock, ↓Core.clock_eta, ↓Core.clock_mk, ↓Clus.clock_mk, ↓Clus.core_clock, ↓Clus.onCore_clock, ↓Pkg.clock_mk, ↓Pkg.cl_clock, ↓Pkg.onCore_clock, ↓Pkg.onClus_clock, ↓Pkg.onHbm_clock] | with_reducible refine of_eq_clock_Pkg ‹_› ?_ | with_reducible refine of_eq1_clock_Pkg ‹_› ?_ | with_reducible refine of_eq_clock_Clus ‹_› ?_ | with_reducible refine of_eq1_clock_Clus ‹_› ?_ | with_reducible refine of_eq_clock_Core ‹_› ?_ | with_reducible refine of_eq1_clock_Core ‹_› ?_ | split | dsimp only)

theorem Pkg.rehomeGo_clock (k a1 a2) : (Pkg.rehomeGo k a1 a2).clock = k.clock := by
  unfold Pkg.rehomeGo
  repeat' (first | (simp only [↓Clus.core_clock, ↓Pkg.cl_clock, ↓Clus.onCore_clock, ↓Core.dropped_clock, ↓Core.setFld_clock, ↓Core.wr_clock, ↓Pkg.onClus_clock, ↓Pkg.startPage_clock, apply_ite Pkg.clock]; done) | with_reducible refine ite_clock_Pkg ?_ ?_ | split)

theorem Pkg.rehomeNext_clock (k a1) : (Pkg.rehomeNext k a1).clock = k.clock := by
  unfold Pkg.rehomeNext
  repeat' (first | (simp only [↓Pkg.clock_mk, ↓Pkg.cl_clock, ↓Pkg.rehomeGo_clock, apply_ite Pkg.clock]; done) | with_reducible refine ite_clock_Pkg ?_ ?_ | split)

theorem Pkg.wantRehome_clock (k a1 a2 a3) : (Pkg.wantRehome k a1 a2 a3).clock = k.clock := by
  unfold Pkg.wantRehome
  simp only [↓Pkg.clock_mk, ↓Pkg.cl_clock, apply_ite Pkg.clock, ite_self]

theorem Pkg.pcFault_clock (k a1 a2 a3 a4) : (Pkg.pcFault k a1 a2 a3 a4).clock = k.clock := by
  unfold Pkg.pcFault
  simp only [↓Pkg.clock_mk, ↓Clus.core_clock, ↓Pkg.cl_clock, ↓Clus.onCore_clock, ↓Core.recordCap_clock, ↓Core.setFld_clock, ↓Pkg.hbEvent_clock, ↓Pkg.onClus_clock, ↓Pkg.rehomeNext_clock, ↓Pkg.wantRehome_clock, ↓iter_clock_Pkg, implies_true, apply_ite Pkg.clock, ite_self]

theorem Pkg.fallback_clock (k a1 a2) : (Pkg.fallback k a1 a2).clock = k.clock := by
  unfold Pkg.fallback
  simp only [↓Clus.core_clock, ↓Pkg.cl_clock, ↓Clus.onCore_clock, ↓Core.setFld_clock, ↓Pkg.onClus_clock, ↓Pkg.pcFault_clock]

theorem Pkg.hbStopArm_clock (k a1) : (Pkg.hbStopArm k a1).clock = k.clock := by
  unfold Pkg.hbStopArm
  simp only [↓Clus.core_clock, ↓Pkg.cl_clock, ↓Core.setFld_clock, ↓Pkg.onCore_clock, ↓Pkg.onFw_clock]

theorem Pkg.tempBias_clock (k a1) : (Pkg.tempBias k a1).clock = k.clock := by
  unfold Pkg.tempBias
  simp only [↓Clus.core_clock, ↓Pkg.cl_clock, ↓Core.setFld_clock, ↓Pkg.onCore_clock, ↓Pkg.onPw_clock]

theorem Pkg.injFire_clock (k a1 a2) : (Pkg.injFire k a1 a2).clock = k.clock := by
  unfold Pkg.injFire
  repeat' (first | (simp only [↓Clus.core_clock, ↓Pkg.cl_clock, ↓Core.setFld_clock, ↓Pkg.fallback_clock, ↓Pkg.hbStopArm_clock, ↓Pkg.laneDrop_clock, ↓Pkg.onCore_clock, ↓Pkg.tempBias_clock, apply_ite Pkg.clock, ite_self]; done) | with_reducible refine ite_clock_Pkg ?_ ?_ | split)

theorem Pkg.headerWrite_clock (k a1 a2 a3 a4) : (Pkg.headerWrite k a1 a2 a3 a4).clock = k.clock := by
  unfold Pkg.headerWrite
  simp only [↓Clus.core_clock, ↓Pkg.cl_clock, ↓Core.ctrlWrite_clock, ↓Core.wr_clock, ↓Pkg.injFire_clock, ↓Pkg.onCore_clock, apply_ite Pkg.clock, ite_self]

theorem Pkg.nodeWrite_clock (k a1) : (Pkg.nodeWrite k a1).clock = k.clock := by
  unfold Pkg.nodeWrite
  simp only [↓Clus.core_clock, ↓Pkg.cl_clock, ↓Core.dropped_clock, ↓Core.wr_clock, ↓Pkg.onCore_clock, ↓Pkg.setLink_clock, ↓Pkg.setPortState_clock, ↓Pkg.startDetect_clock, ↓foldl_clock_Pkg, implies_true, apply_ite Pkg.clock, ite_self]

theorem Pkg.routeWord_clock (k a1) : (Pkg.routeWord k a1).clock = k.clock := by
  unfold Pkg.routeWord
  simp only [↓Clus.core_clock, ↓Pkg.cl_clock, ↓Core.dropped_clock, ↓Pkg.onCore_clock, ↓Pkg.onFab_clock, apply_ite Pkg.clock, ite_self]

theorem Pkg.byeIdle_clock (k a1) : (Pkg.byeIdle k a1).clock = k.clock := by
  unfold Pkg.byeIdle
  simp only [↓Pkg.losePort_clock, ↓Pkg.sendPeer_clock, ↓Pkg.setLink_clock, ↓Pkg.setPortState_clock, ↓Pkg.showLanes_clock, apply_ite Pkg.clock, ite_self]

theorem Pkg.portCfg_clock (k a1 a2) : (Pkg.portCfg k a1 a2).clock = k.clock := by
  unfold Pkg.portCfg
  simp only [↓Clus.core_clock, ↓Pkg.cl_clock, ↓Core.wr_clock, ↓Pkg.byeIdle_clock, ↓Pkg.onCore_clock, ↓Pkg.startDetect_clock, apply_ite Pkg.clock, ite_self]

theorem Pkg.unquarantine_clock (k a1) : (Pkg.unquarantine k a1).clock = k.clock := by
  unfold Pkg.unquarantine
  simp only [↓Pkg.startDetect_clock, apply_ite Pkg.clock, ite_self]

theorem Pkg.fbCntClr_clock (k a1) : (Pkg.fbCntClr k a1).clock = k.clock := by
  unfold Pkg.fbCntClr
  simp only [↓Clus.core_clock, ↓Pkg.cl_clock, ↓Core.zero_clock, ↓Pkg.onCore_clock, ↓Pkg.onFab_clock]

theorem Pkg.portDown_clock (k a1) : (Pkg.portDown k a1).clock = k.clock := by
  unfold Pkg.portDown
  simp only [↓Pkg.losePort_clock, ↓Pkg.onAtt_clock, ↓Pkg.startDetect_clock, apply_ite Pkg.clock, ite_self]

theorem Pkg.retrain_clock (k a1) : (Pkg.retrain k a1).clock = k.clock := by
  unfold Pkg.retrain
  simp only [↓Pkg.portDown_clock]

theorem Pkg.collWordWrite_clock (k a1 a2 a3) : (Pkg.collWordWrite k a1 a2 a3).clock = k.clock := by
  unfold Pkg.collWordWrite
  simp only [↓Pkg.onFab_clock]

theorem Pkg.mirrorWrite_clock (k a1 a2) : (Pkg.mirrorWrite k a1 a2).clock = k.clock := by
  unfold Pkg.mirrorWrite
  repeat' (first | with_reducible rfl | (simp only [↓Core.wr_clock, ↓Core.clock_eta, ↓Core.clock_mk, ↓Clus.clock_mk, ↓Clus.core_clock, ↓Clus.onCore_clock, ↓Pkg.clock_mk, ↓Pkg.cl_clock, ↓Pkg.onCore_clock, ↓foldl_clock_Core, ↓iter_clock_Core, ↓foldl_clock_Clus, ↓iter_clock_Clus, ↓foldl_clock_Pkg, ↓iter_clock_Pkg, implies_true, apply_ite Pkg.clock, ite_self]; done) | with_reducible refine ite_clock_Pkg ?_ ?_ | with_reducible refine foldl_clock_Pkg' (fun _ _ => ?_) ?_ | with_reducible refine iter_clock_Pkg' (fun _ _ => ?_) ?_ | with_reducible refine foldl2_clock_Pkg' (fun _ _ => ?_) ?_ | with_reducible refine foldl3_clock_Pkg' (fun _ _ => ?_) ?_ | with_reducible refine ite_clock_Clus ?_ ?_ | with_reducible refine foldl_clock_Clus' (fun _ _ => ?_) ?_ | with_reducible refine iter_clock_Clus' (fun _ _ => ?_) ?_ | with_reducible refine foldl2_clock_Clus' (fun _ _ => ?_) ?_ | with_reducible refine foldl3_clock_Clus' (fun _ _ => ?_) ?_ | with_reducible refine ite_clock_Core ?_ ?_ | with_reducible refine foldl_clock_Core' (fun _ _ => ?_) ?_ | with_reducible refine iter_clock_Core' (fun _ _ => ?_) ?_ | with_reducible refine foldl2_clock_Core' (fun _ _ => ?_) ?_ | with_reducible refine foldl3_clock_Core' (fun _ _ => ?_) ?_ | simp only [↓Core.wr_clock, ↓Core.clock_eta, ↓Core.clock_mk, ↓Clus.clock_mk, ↓Clus.core_clock, ↓Clus.onCore_clock, ↓Pkg.clock_mk, ↓Pkg.cl_clock, ↓Pkg.onCore_clock] | with_reducible refine of_eq_clock_Pkg ‹_› ?_ | with_reducible refine of_eq1_clock_Pkg ‹_› ?_ | with_reducible refine of_eq_clock_Clus ‹_› ?_ | with_reducible refine of_eq1_clock_Clus ‹_› ?_ | with_reducible refine of_eq_clock_Core ‹_› ?_ | with_reducible refine of_eq1_clock_Core ‹_› ?_ | split | dsimp only)

theorem Pkg.fenceWrite_clock (k a1 a2) : (Pkg.fenceWrite k a1 a2).clock = k.clock := by
  unfold Pkg.fenceWrite
  repeat' (first | with_reducible rfl | (simp only [↓Core.wr_clock, ↓Pkg.biShow_clock, ↓Core.clock_eta, ↓Core.clock_mk, ↓Clus.clock_mk, ↓Clus.core_clock, ↓Clus.onCore_clock, ↓Pkg.clock_mk, ↓Pkg.cl_clock, ↓Pkg.onCore_clock, ↓foldl_clock_Core, ↓iter_clock_Core, ↓foldl_clock_Clus, ↓iter_clock_Clus, ↓foldl_clock_Pkg, ↓iter_clock_Pkg, implies_true, apply_ite Pkg.clock, ite_self]; done) | with_reducible refine ite_clock_Pkg ?_ ?_ | with_reducible refine foldl_clock_Pkg' (fun _ _ => ?_) ?_ | with_reducible refine iter_clock_Pkg' (fun _ _ => ?_) ?_ | with_reducible refine foldl2_clock_Pkg' (fun _ _ => ?_) ?_ | with_reducible refine foldl3_clock_Pkg' (fun _ _ => ?_) ?_ | with_reducible refine ite_clock_Clus ?_ ?_ | with_reducible refine foldl_clock_Clus' (fun _ _ => ?_) ?_ | with_reducible refine iter_clock_Clus' (fun _ _ => ?_) ?_ | with_reducible refine foldl2_clock_Clus' (fun _ _ => ?_) ?_ | with_reducible refine foldl3_clock_Clus' (fun _ _ => ?_) ?_ | with_reducible refine ite_clock_Core ?_ ?_ | with_reducible refine foldl_clock_Core' (fun _ _ => ?_) ?_ | with_reducible refine iter_clock_Core' (fun _ _ => ?_) ?_ | with_reducible refine foldl2_clock_Core' (fun _ _ => ?_) ?_ | with_reducible refine foldl3_clock_Core' (fun _ _ => ?_) ?_ | simp only [↓Core.wr_clock, ↓Pkg.biShow_clock, ↓Core.clock_eta, ↓Core.clock_mk, ↓Clus.clock_mk, ↓Clus.core_clock, ↓Clus.onCore_clock, ↓Pkg.clock_mk, ↓Pkg.cl_clock, ↓Pkg.onCore_clock] | with_reducible refine of_eq_clock_Pkg ‹_› ?_ | with_reducible refine of_eq1_clock_Pkg ‹_› ?_ | with_reducible refine of_eq_clock_Clus ‹_› ?_ | with_reducible refine of_eq1_clock_Clus ‹_› ?_ | with_reducible refine of_eq_clock_Core ‹_› ?_ | with_reducible refine of_eq1_clock_Core ‹_› ?_ | split | dsimp only)

theorem Pkg.biCntClr_clock (k a1) : (Pkg.biCntClr k a1).clock = k.clock := by
  unfold Pkg.biCntClr
  simp only [↓Clus.core_clock, ↓Pkg.cl_clock, ↓Core.setFld_clock, ↓Core.zero_clock, ↓Pkg.onBi_clock, ↓Pkg.onCore_clock, ↓iter_clock_Core, implies_true]

theorem Pkg.setTest_clock (k a1 a2) : (Pkg.setTest k a1 a2).clock = k.clock := by
  unfold Pkg.setTest
  simp only [↓Pkg.onBi_clock]

theorem Pkg.stopTest_clock (k a1) : (Pkg.stopTest k a1).clock = k.clock := by
  unfold Pkg.stopTest
  simp only [↓Pkg.biShow_clock, ↓Pkg.setTest_clock]

theorem Pkg.rotate_clock (k a1 a2) : (Pkg.rotate k a1 a2).clock = k.clock := by
  unfold Pkg.rotate
  repeat' (first | (simp only [↓Clus.core_clock, ↓Pkg.cl_clock, ↓Core.mirrorSet_clock, ↓Pkg.biShow_clock, ↓Pkg.onCore_clock, ↓Pkg.setMove_clock, ↓Pkg.stopTest_clock, apply_ite Pkg.clock, ite_self]; done) | with_reducible refine ite_clock_Pkg ?_ ?_ | split)

theorem Pkg.rotateNow_clock (k a1 a2) : (Pkg.rotateNow k a1 a2).clock = k.clock := by
  unfold Pkg.rotateNow
  simp only [↓Clus.core_clock, ↓Pkg.cl_clock, ↓Core.dropped_clock, ↓Pkg.onCore_clock, ↓Pkg.rotate_clock, apply_ite Pkg.clock, ite_self]

theorem Pkg.lnCntClr_clock (k a1) : (Pkg.lnCntClr k a1).clock = k.clock := by
  unfold Pkg.lnCntClr
  simp only [↓Clus.core_clock, ↓Pkg.cl_clock, ↓Core.zero_clock, ↓Pkg.onCore_clock, ↓Pkg.onNet_clock]

theorem Pkg.abortRot_clock (k a1) : (Pkg.abortRot k a1).clock = k.clock := by
  unfold Pkg.abortRot
  repeat' (first | with_reducible rfl | (simp only [↓Pkg.abandon_clock, ↓Core.clock_eta, ↓Core.clock_mk, ↓Clus.clock_mk, ↓Clus.core_clock, ↓Pkg.clock_mk, ↓Pkg.cl_clock, ↓foldl_clock_Core, ↓iter_clock_Core, ↓foldl_clock_Clus, ↓iter_clock_Clus, ↓foldl_clock_Pkg, ↓iter_clock_Pkg, implies_true, apply_ite Pkg.clock, ite_self]; done) | with_reducible refine ite_clock_Pkg ?_ ?_ | with_reducible refine foldl_clock_Pkg' (fun _ _ => ?_) ?_ | with_reducible refine iter_clock_Pkg' (fun _ _ => ?_) ?_ | with_reducible refine foldl2_clock_Pkg' (fun _ _ => ?_) ?_ | with_reducible refine foldl3_clock_Pkg' (fun _ _ => ?_) ?_ | with_reducible refine ite_clock_Clus ?_ ?_ | with_reducible refine foldl_clock_Clus' (fun _ _ => ?_) ?_ | with_reducible refine iter_clock_Clus' (fun _ _ => ?_) ?_ | with_reducible refine foldl2_clock_Clus' (fun _ _ => ?_) ?_ | with_reducible refine foldl3_clock_Clus' (fun _ _ => ?_) ?_ | with_reducible refine ite_clock_Core ?_ ?_ | with_reducible refine foldl_clock_Core' (fun _ _ => ?_) ?_ | with_reducible refine iter_clock_Core' (fun _ _ => ?_) ?_ | with_reducible refine foldl2_clock_Core' (fun _ _ => ?_) ?_ | with_reducible refine foldl3_clock_Core' (fun _ _ => ?_) ?_ | simp only [↓Pkg.abandon_clock, ↓Core.clock_eta, ↓Core.clock_mk, ↓Clus.clock_mk, ↓Clus.core_clock, ↓Pkg.clock_mk, ↓Pkg.cl_clock] | with_reducible refine of_eq_clock_Pkg ‹_› ?_ | with_reducible refine of_eq1_clock_Pkg ‹_› ?_ | with_reducible refine of_eq_clock_Clus ‹_› ?_ | with_reducible refine of_eq1_clock_Clus ‹_› ?_ | with_reducible refine of_eq_clock_Core ‹_› ?_ | with_reducible refine of_eq1_clock_Core ‹_› ?_ | split | dsimp only)

theorem Pkg.eachCirc_clock (k a1 a2) (a3 : Nat → Nat → Clus → Clus) (h3 : ∀ x0 x1 x2, (a3 x0 x1 x2).clock = x2.clock) :
    (Pkg.eachCirc k a1 a2 a3).clock = k.clock := by
  unfold Pkg.eachCirc
  repeat' (first | with_reducible rfl | (simp only [↓Core.clock_eta, ↓Core.clock_mk, ↓Clus.clock_mk, ↓Clus.core_clock, ↓Pkg.clock_mk, ↓Pkg.cl_clock, ↓Pkg.onClus_clock, h3, ↓foldl_clock_Core, ↓iter_clock_Core, ↓foldl_clock_Clus, ↓iter_clock_Clus, ↓foldl_clock_Pkg, ↓iter_clock_Pkg, implies_true, apply_ite Pkg.clock, ite_self]; done) | with_reducible refine ite_clock_Pkg ?_ ?_ | with_reducible refine foldl_clock_Pkg' (fun _ _ => ?_) ?_ | with_reducible refine iter_clock_Pkg' (fun _ _ => ?_) ?_ | with_reducible refine foldl2_clock_Pkg' (fun _ _ => ?_) ?_ | with_reducible refine foldl3_clock_Pkg' (fun _ _ => ?_) ?_ | with_reducible refine ite_clock_Clus ?_ ?_ | with_reducible refine foldl_clock_Clus' (fun _ _ => ?_) ?_ | with_reducible refine iter_clock_Clus' (fun _ _ => ?_) ?_ | with_reducible refine foldl2_clock_Clus' (fun _ _ => ?_) ?_ | with_reducible refine foldl3_clock_Clus' (fun _ _ => ?_) ?_ | with_reducible refine ite_clock_Core ?_ ?_ | with_reducible refine foldl_clock_Core' (fun _ _ => ?_) ?_ | with_reducible refine iter_clock_Core' (fun _ _ => ?_) ?_ | with_reducible refine foldl2_clock_Core' (fun _ _ => ?_) ?_ | with_reducible refine foldl3_clock_Core' (fun _ _ => ?_) ?_ | simp only [↓Core.clock_eta, ↓Core.clock_mk, ↓Clus.clock_mk, ↓Clus.core_clock, ↓Pkg.clock_mk, ↓Pkg.cl_clock, ↓Pkg.onClus_clock, h3] | with_reducible refine of_eq_clock_Pkg ‹_› ?_ | with_reducible refine of_eq1_clock_Pkg ‹_› ?_ | with_reducible refine of_eq_clock_Clus ‹_› ?_ | with_reducible refine of_eq1_clock_Clus ‹_› ?_ | with_reducible refine of_eq_clock_Core ‹_› ?_ | with_reducible refine of_eq1_clock_Core ‹_› ?_ | split | dsimp only)

theorem Pkg.giveTurns_clock (k a1 a2) : (Pkg.giveTurns k a1 a2).clock = k.clock := by
  unfold Pkg.giveTurns
  repeat' (first | with_reducible rfl | (simp only [↓Pkg.onJob_clock, ↓Core.clock_eta, ↓Core.clock_mk, ↓Clus.clock_mk, ↓Clus.core_clock, ↓Pkg.clock_mk, ↓Pkg.cl_clock, ↓foldl_clock_Core, ↓iter_clock_Core, ↓foldl_clock_Clus, ↓iter_clock_Clus, ↓foldl_clock_Pkg, ↓iter_clock_Pkg, implies_true, apply_ite Pkg.clock, ite_self]; done) | with_reducible refine ite_clock_Pkg ?_ ?_ | with_reducible refine foldl_clock_Pkg' (fun _ _ => ?_) ?_ | with_reducible refine iter_clock_Pkg' (fun _ _ => ?_) ?_ | with_reducible refine foldl2_clock_Pkg' (fun _ _ => ?_) ?_ | with_reducible refine foldl3_clock_Pkg' (fun _ _ => ?_) ?_ | with_reducible refine ite_clock_Clus ?_ ?_ | with_reducible refine foldl_clock_Clus' (fun _ _ => ?_) ?_ | with_reducible refine iter_clock_Clus' (fun _ _ => ?_) ?_ | with_reducible refine foldl2_clock_Clus' (fun _ _ => ?_) ?_ | with_reducible refine foldl3_clock_Clus' (fun _ _ => ?_) ?_ | with_reducible refine ite_clock_Core ?_ ?_ | with_reducible refine foldl_clock_Core' (fun _ _ => ?_) ?_ | with_reducible refine iter_clock_Core' (fun _ _ => ?_) ?_ | with_reducible refine foldl2_clock_Core' (fun _ _ => ?_) ?_ | with_reducible refine foldl3_clock_Core' (fun _ _ => ?_) ?_ | simp only [↓Pkg.onJob_clock, ↓Core.clock_eta, ↓Core.clock_mk, ↓Clus.clock_mk, ↓Clus.core_clock, ↓Pkg.clock_mk, ↓Pkg.cl_clock] | with_reducible refine of_eq_clock_Pkg ‹_› ?_ | with_reducible refine of_eq1_clock_Pkg ‹_› ?_ | with_reducible refine of_eq_clock_Clus ‹_› ?_ | with_reducible refine of_eq1_clock_Clus ‹_› ?_ | with_reducible refine of_eq_clock_Core ‹_› ?_ | with_reducible refine of_eq1_clock_Core ‹_› ?_ | split | dsimp only)

theorem Pkg.forceTurns_clock (k a1) : (Pkg.forceTurns k a1).clock = k.clock := by
  unfold Pkg.forceTurns
  repeat' (first | with_reducible rfl | (simp only [↓Clus.circSuspend_clock, ↓Pkg.eachCirc_clock, ↓Pkg.giveTurns_clock, ↓Pkg.onJob_clock, ↓Core.clock_eta, ↓Core.clock_mk, ↓Clus.clock_mk, ↓Clus.core_clock, ↓Pkg.clock_mk, ↓Pkg.cl_clock, ↓foldl_clock_Core, ↓iter_clock_Core, ↓foldl_clock_Clus, ↓iter_clock_Clus, ↓foldl_clock_Pkg, ↓iter_clock_Pkg, implies_true, apply_ite Pkg.clock, ite_self]; done) | with_reducible refine (Pkg.eachCirc_clock _ _ _ _ (fun _ _ _ => ?_)).trans ?_ | with_reducible refine ite_clock_Pkg ?_ ?_ | with_reducible refine foldl_clock_Pkg' (fun _ _ => ?_) ?_ | with_reducible refine iter_clock_Pkg' (fun _ _ => ?_) ?_ | with_reducible refine foldl2_clock_Pkg' (fun _ _ => ?_) ?_ | with_reducible refine foldl3_clock_Pkg' (fun _ _ => ?_) ?_ | with_reducible refine ite_clock_Clus ?_ ?_ | with_reducible refine foldl_clock_Clus' (fun _ _ => ?_) ?_ | with_reducible refine iter_clock_Clus' (fun _ _ => ?_) ?_ | with_reducible refine foldl2_clock_Clus' (fun _ _ => ?_) ?_ | with_reducible refine foldl3_clock_Clus' (fun _ _ => ?_) ?_ | with_reducible refine ite_clock_Core ?_ ?_ | with_reducible refine foldl_clock_Core' (fun _ _ => ?_) ?_ | with_reducible refine iter_clock_Core' (fun _ _ => ?_) ?_ | with_reducible refine foldl2_clock_Core' (fun _ _ => ?_) ?_ | with_reducible refine foldl3_clock_Core' (fun _ _ => ?_) ?_ | simp only [↓Clus.circSuspend_clock, ↓Pkg.eachCirc_clock, ↓Pkg.giveTurns_clock, ↓Pkg.onJob_clock, ↓Core.clock_eta, ↓Core.clock_mk, ↓Clus.clock_mk, ↓Clus.core_clock, ↓Pkg.clock_mk, ↓Pkg.cl_clock] | with_reducible refine of_eq_clock_Pkg ‹_› ?_ | with_reducible refine of_eq1_clock_Pkg ‹_› ?_ | with_reducible refine of_eq_clock_Clus ‹_› ?_ | with_reducible refine of_eq1_clock_Clus ‹_› ?_ | with_reducible refine of_eq_clock_Core ‹_› ?_ | with_reducible refine of_eq1_clock_Core ‹_› ?_ | split | dsimp only)

theorem Pkg.assignGroups_clock (k a1 a2) : (Pkg.assignGroups k a1 a2).2.clock = k.clock := by
  unfold Pkg.assignGroups
  repeat' (first | with_reducible rfl | (simp only [↓Core.bankCopy_clock, ↓Core.lcArm_clock, ↓Core.wr_clock, ↓Core.clock_eta, ↓Core.clock_mk, ↓Clus.clock_mk, ↓Clus.core_clock, ↓Clus.onCore_clock, ↓Pkg.clock_mk, ↓Pkg.cl_clock, ↓Pkg.onCore_clock, ↓Pkg.onNet_clock, ↓foldl_clock_Core, ↓iter_clock_Core, ↓foldl_clock_Clus, ↓iter_clock_Clus, ↓foldl_clock_Pkg, ↓iter_clock_Pkg, implies_true, apply_ite Pkg.clock, ite_self, apply_ite Prod.fst, apply_ite Prod.snd]; done) | with_reducible refine ite_clock_Pkg ?_ ?_ | with_reducible refine foldl_clock_Pkg' (fun _ _ => ?_) ?_ | with_reducible refine iter_clock_Pkg' (fun _ _ => ?_) ?_ | with_reducible refine foldl2_clock_Pkg' (fun _ _ => ?_) ?_ | with_reducible refine foldl3_clock_Pkg' (fun _ _ => ?_) ?_ | with_reducible refine ite_clock_Clus ?_ ?_ | with_reducible refine foldl_clock_Clus' (fun _ _ => ?_) ?_ | with_reducible refine iter_clock_Clus' (fun _ _ => ?_) ?_ | with_reducible refine foldl2_clock_Clus' (fun _ _ => ?_) ?_ | with_reducible refine foldl3_clock_Clus' (fun _ _ => ?_) ?_ | with_reducible refine ite_clock_Core ?_ ?_ | with_reducible refine foldl_clock_Core' (fun _ _ => ?_) ?_ | with_reducible refine iter_clock_Core' (fun _ _ => ?_) ?_ | with_reducible refine foldl2_clock_Core' (fun _ _ => ?_) ?_ | with_reducible refine foldl3_clock_Core' (fun _ _ => ?_) ?_ | simp only [↓Core.bankCopy_clock, ↓Core.lcArm_clock, ↓Core.wr_clock, ↓Core.clock_eta, ↓Core.clock_mk, ↓Clus.clock_mk, ↓Clus.core_clock, ↓Clus.onCore_clock, ↓Pkg.clock_mk, ↓Pkg.cl_clock, ↓Pkg.onCore_clock, ↓Pkg.onNet_clock] | with_reducible refine of_eq_clock_Pkg ‹_› ?_ | with_reducible refine of_eq1_clock_Pkg ‹_› ?_ | with_reducible refine of_eq_clock_Clus ‹_› ?_ | with_reducible refine of_eq1_clock_Clus ‹_› ?_ | with_reducible refine of_eq_clock_Core ‹_› ?_ | with_reducible refine of_eq1_clock_Core ‹_› ?_ | split | dsimp only)

theorem Pkg.placeSection_clock (k a1 a2 a3) : (Pkg.placeSection k a1 a2 a3).clock = k.clock := by
  unfold Pkg.placeSection
  repeat' (first | (simp only [↓Clus.clock_mk, ↓Clus.core_clock, ↓Pkg.cl_clock, ↓Clus.channelWrite_clock, ↓Clus.descWrite_clock, ↓Clus.entryWrite_clock, ↓Clus.putRaw_clock, ↓Core.winWr_clock, ↓Core.wr_clock, ↓Core.wrs_clock, ↓Pkg.onClus_clock, ↓Pkg.onCore_clock, ↓Pkg.onFab_clock, ↓Pkg.onNet_clock, ↓foldl_clock_Clus, ↓foldl_clock_Core, implies_true, apply_ite Pkg.clock, apply_ite Core.clock, ite_self]; done) | with_reducible refine ite_clock_Pkg ?_ ?_ | with_reducible refine foldl_clock_Pkg' (fun _ _ => ?_) ?_ | with_reducible refine iter_clock_Pkg' (fun _ _ => ?_) ?_ | with_reducible refine ite_clock_Clus ?_ ?_ | with_reducible refine foldl_clock_Clus' (fun _ _ => ?_) ?_ | with_reducible refine iter_clock_Clus' (fun _ _ => ?_) ?_ | with_reducible refine ite_clock_Core ?_ ?_ | with_reducible refine foldl_clock_Core' (fun _ _ => ?_) ?_ | with_reducible refine iter_clock_Core' (fun _ _ => ?_) ?_ | simp only [↓Pkg.onCore_clock] | with_reducible refine of_eq_clock_Pkg ‹_› ?_ | with_reducible refine of_eq_clock_Clus ‹_› ?_ | with_reducible refine of_eq_clock_Core ‹_› ?_ | split | dsimp only)

theorem Pkg.placeSnap_clock (k a1) : (Pkg.placeSnap k a1).clock = k.clock := by
  unfold Pkg.placeSnap
  repeat' (first | (simp only [↓Clus.core_clock, ↓Pkg.cl_clock, ↓Clus.descWrite_clock, ↓Clus.putRaw_clock, ↓Clus.setCfg_clock, ↓Core.winWr_clock, ↓Core.wr_clock, ↓Core.wr8_clock, ↓Core.wrs_clock, ↓Pkg.onClus_clock, ↓Pkg.onCore_clock, ↓Pkg.onFab_clock]; done) | with_reducible refine ite_clock_Pkg ?_ ?_ | with_reducible refine foldl_clock_Pkg' (fun _ _ => ?_) ?_ | with_reducible refine iter_clock_Pkg' (fun _ _ => ?_) ?_ | simp only [↓Pkg.onFab_clock] | split | dsimp only)

theorem Pkg.placeJob_clock (k a1) : (Pkg.placeJob k a1).clock = k.clock := by
  unfold Pkg.placeJob
  repeat' (first | with_reducible rfl | (simp only [↓Core.wr8_clock, ↓Pkg.assignGroups_clock, ↓Pkg.onJob_clock, ↓Pkg.placeSection_clock, ↓Pkg.placeSnap_clock, ↓Core.clock_eta, ↓Core.clock_mk, ↓Clus.clock_mk, ↓Clus.core_clock, ↓Clus.onCore_clock, ↓Pkg.clock_mk, ↓Pkg.cl_clock, ↓Pkg.onCore_clock, ↓foldl_clock_Core, ↓iter_clock_Core, ↓foldl_clock_Clus, ↓iter_clock_Clus, ↓foldl_clock_Pkg, ↓iter_clock_Pkg, implies_true, apply_ite Pkg.clock, ite_self, apply_ite Prod.fst, apply_ite Prod.snd]; done) | with_reducible refine ite_clock_Pkg ?_ ?_ | with_reducible refine foldl_clock_Pkg' (fun _ _ => ?_) ?_ | with_reducible refine iter_clock_Pkg' (fun _ _ => ?_) ?_ | with_reducible refine foldl2_clock_Pkg' (fun _ _ => ?_) ?_ | with_reducible refine foldl3_clock_Pkg' (fun _ _ => ?_) ?_ | with_reducible refine ite_clock_Clus ?_ ?_ | with_reducible refine foldl_clock_Clus' (fun _ _ => ?_) ?_ | with_reducible refine iter_clock_Clus' (fun _ _ => ?_) ?_ | with_reducible refine foldl2_clock_Clus' (fun _ _ => ?_) ?_ | with_reducible refine foldl3_clock_Clus' (fun _ _ => ?_) ?_ | with_reducible refine ite_clock_Core ?_ ?_ | with_reducible refine foldl_clock_Core' (fun _ _ => ?_) ?_ | with_reducible refine iter_clock_Core' (fun _ _ => ?_) ?_ | with_reducible refine foldl2_clock_Core' (fun _ _ => ?_) ?_ | with_reducible refine foldl3_clock_Core' (fun _ _ => ?_) ?_ | simp only [↓Core.wr8_clock, ↓Pkg.assignGroups_clock, ↓Pkg.onJob_clock, ↓Pkg.placeSection_clock, ↓Pkg.placeSnap_clock, ↓Core.clock_eta, ↓Core.clock_mk, ↓Clus.clock_mk, ↓Clus.core_clock, ↓Clus.onCore_clock, ↓Pkg.clock_mk, ↓Pkg.cl_clock, ↓Pkg.onCore_clock] | with_reducible refine of_eq_clock_Pkg ‹_› ?_ | with_reducible refine of_eq1_clock_Pkg ‹_› ?_ | with_reducible refine of_eq_clock_Clus ‹_› ?_ | with_reducible refine of_eq1_clock_Clus ‹_› ?_ | with_reducible refine of_eq_clock_Core ‹_› ?_ | with_reducible refine of_eq1_clock_Core ‹_› ?_ | split | dsimp only)

theorem Pkg.startCircs_clock (k a1) : (Pkg.startCircs k a1).clock = k.clock := by
  unfold Pkg.startCircs
  repeat' (first | (simp only [↓Pkg.cl_clock, ↓Clus.circStart_clock, ↓Pkg.onClus_clock, ↓Pkg.onJob_clock, ↓foldl_clock_Pkg, implies_true]; done) | with_reducible refine ite_clock_Pkg ?_ ?_ | split)

theorem Pkg.hbTouch_clock (k a1 a2 a3) : (Pkg.hbTouch k a1 a2 a3).clock = k.clock := by
  unfold Pkg.hbTouch
  repeat' (first | with_reducible rfl | (simp only [↓Core.incSat_clock, ↓Pkg.hbEvent_clock, ↓Pkg.pcFault_clock, ↓Pkg.wantRehome_clock, ↓Core.clock_eta, ↓Core.clock_mk, ↓Clus.clock_mk, ↓Clus.core_clock, ↓Clus.onCore_clock, ↓Pkg.clock_mk, ↓Pkg.cl_clock, ↓Pkg.onCore_clock, ↓Pkg.onClus_clock, ↓Pkg.onHbm_clock, ↓foldl_clock_Core, ↓iter_clock_Core, ↓foldl_clock_Clus, ↓iter_clock_Clus, ↓foldl_clock_Pkg, ↓iter_clock_Pkg, implies_true, apply_ite Pkg.clock, ite_self]; done) | with_reducible refine ite_clock_Pkg ?_ ?_ | with_reducible refine foldl_clock_Pkg' (fun _ _ => ?_) ?_ | with_reducible refine iter_clock_Pkg' (fun _ _ => ?_) ?_ | with_reducible refine foldl2_clock_Pkg' (fun _ _ => ?_) ?_ | with_reducible refine foldl3_clock_Pkg' (fun _ _ => ?_) ?_ | with_reducible refine ite_clock_Clus ?_ ?_ | with_reducible refine foldl_clock_Clus' (fun _ _ => ?_) ?_ | with_reducible refine iter_clock_Clus' (fun _ _ => ?_) ?_ | with_reducible refine foldl2_clock_Clus' (fun _ _ => ?_) ?_ | with_reducible refine foldl3_clock_Clus' (fun _ _ => ?_) ?_ | with_reducible refine ite_clock_Core ?_ ?_ | with_reducible refine foldl_clock_Core' (fun _ _ => ?_) ?_ | with_reducible refine iter_clock_Core' (fun _ _ => ?_) ?_ | with_reducible refine foldl2_clock_Core' (fun _ _ => ?_) ?_ | with_reducible refine foldl3_clock_Core' (fun _ _ => ?_) ?_ | simp only [↓Core.incSat_clock, ↓Pkg.hbEvent_clock, ↓Pkg.pcFault_clock, ↓Pkg.wantRehome_clock, ↓Core.clock_eta, ↓Core.clock_mk, ↓Clus.clock_mk, ↓Clus.core_clock, ↓Clus.onCore_clock, ↓Pkg.clock_mk, ↓Pkg.cl_clock, ↓Pkg.onCore_clock, ↓Pkg.onClus_clock, ↓Pkg.onHbm_clock] | with_reducible refine of_eq_clock_Pkg ‹_› ?_ | with_reducible refine of_eq1_clock_Pkg ‹_› ?_ | with_reducible refine of_eq_clock_Clus ‹_› ?_ | with_reducible refine of_eq1_clock_Clus ‹_› ?_ | with_reducible refine of_eq_clock_Core ‹_› ?_ | with_reducible refine of_eq1_clock_Core ‹_› ?_ | split | dsimp only)

theorem Pkg.hbRead_clock (k a1 a2 a3 a4) : (Pkg.hbRead k a1 a2 a3 a4).2.clock = k.clock := by
  unfold Pkg.hbRead
  simp only [↓Pkg.hbTouch_clock, ↓iter_clock_Pkg, implies_true]

theorem Pkg.dpaRead_clock (k a1 a2) : (Pkg.dpaRead k a1 a2).2.clock = k.clock := by
  unfold Pkg.dpaRead
  repeat' (first | (simp only [↓Pkg.hbRead_clock]; done) | with_reducible refine ite_clock_Pkg ?_ ?_ | with_reducible refine foldl_clock_Pkg' (fun _ _ => ?_) ?_ | with_reducible refine iter_clock_Pkg' (fun _ _ => ?_) ?_ | with_reducible refine foldl2_clock_Pkg' (fun _ _ => ?_) ?_ | with_reducible refine foldl3_clock_Pkg' (fun _ _ => ?_) ?_ | simp only [↓Core.clock_eta] | with_reducible refine of_eq_clock_Pkg ‹_› ?_ | split | dsimp only)

theorem Pkg.fillOne_clock (k a1) : (Pkg.fillOne k a1).clock = k.clock := by
  unfold Pkg.fillOne
  repeat' (first | with_reducible rfl | (simp only [↓Clus.descWrite_clock, ↓Clus.putRaw_clock, ↓Pkg.dpaRead_clock, ↓Core.clock_eta, ↓Core.clock_mk, ↓Clus.clock_mk, ↓Clus.core_clock, ↓Pkg.clock_mk, ↓Pkg.cl_clock, ↓Pkg.onClus_clock, ↓foldl_clock_Core, ↓iter_clock_Core, ↓foldl_clock_Clus, ↓iter_clock_Clus, ↓foldl_clock_Pkg, ↓iter_clock_Pkg, implies_true, apply_ite Pkg.clock, ite_self, apply_ite Prod.fst, apply_ite Prod.snd]; done) | with_reducible refine ite_clock_Pkg ?_ ?_ | with_reducible refine foldl_clock_Pkg' (fun _ _ => ?_) ?_ | with_reducible refine iter_clock_Pkg' (fun _ _ => ?_) ?_ | with_reducible refine foldl2_clock_Pkg' (fun _ _ => ?_) ?_ | with_reducible refine foldl3_clock_Pkg' (fun _ _ => ?_) ?_ | with_reducible refine ite_clock_Clus ?_ ?_ | with_reducible refine foldl_clock_Clus' (fun _ _ => ?_) ?_ | with_reducible refine iter_clock_Clus' (fun _ _ => ?_) ?_ | with_reducible refine foldl2_clock_Clus' (fun _ _ => ?_) ?_ | with_reducible refine foldl3_clock_Clus' (fun _ _ => ?_) ?_ | with_reducible refine ite_clock_Core ?_ ?_ | with_reducible refine foldl_clock_Core' (fun _ _ => ?_) ?_ | with_reducible refine iter_clock_Core' (fun _ _ => ?_) ?_ | with_reducible refine foldl2_clock_Core' (fun _ _ => ?_) ?_ | with_reducible refine foldl3_clock_Core' (fun _ _ => ?_) ?_ | simp only [↓Clus.descWrite_clock, ↓Clus.putRaw_clock, ↓Pkg.dpaRead_clock, ↓Core.clock_eta, ↓Core.clock_mk, ↓Clus.clock_mk, ↓Clus.core_clock, ↓Pkg.clock_mk, ↓Pkg.cl_clock, ↓Pkg.onClus_clock] | with_reducible refine of_eq_clock_Pkg ‹_› ?_ | with_reducible refine of_eq1_clock_Pkg ‹_› ?_ | with_reducible refine of_eq_clock_Clus ‹_› ?_ | with_reducible refine of_eq1_clock_Clus ‹_› ?_ | with_reducible refine of_eq_clock_Core ‹_› ?_ | with_reducible refine of_eq1_clock_Core ‹_› ?_ | split | dsimp only)

theorem Pkg.turnIn_clock (k a1) : (Pkg.turnIn k a1).clock = k.clock := by
  unfold Pkg.turnIn
  repeat' (first | with_reducible rfl | (simp only [↓Clus.circResume_clock, ↓Pkg.eachCirc_clock, ↓Pkg.fillOne_clock, ↓Pkg.onJob_clock, ↓Pkg.placeJob_clock, ↓Pkg.startCircs_clock, ↓Core.clock_eta, ↓Core.clock_mk, ↓Clus.clock_mk, ↓Clus.core_clock, ↓Pkg.clock_mk, ↓Pkg.cl_clock, ↓foldl_clock_Core, ↓iter_clock_Core, ↓foldl_clock_Clus, ↓iter_clock_Clus, ↓foldl_clock_Pkg, ↓iter_clock_Pkg, implies_true, apply_ite Pkg.clock, ite_self]; done) | with_reducible refine (Pkg.eachCirc_clock _ _ _ _ (fun _ _ _ => ?_)).trans ?_ | with_reducible refine ite_clock_Pkg ?_ ?_ | with_reducible refine foldl_clock_Pkg' (fun _ _ => ?_) ?_ | with_reducible refine iter_clock_Pkg' (fun _ _ => ?_) ?_ | with_reducible refine foldl2_clock_Pkg' (fun _ _ => ?_) ?_ | with_reducible refine foldl3_clock_Pkg' (fun _ _ => ?_) ?_ | with_reducible refine ite_clock_Clus ?_ ?_ | with_reducible refine foldl_clock_Clus' (fun _ _ => ?_) ?_ | with_reducible refine iter_clock_Clus' (fun _ _ => ?_) ?_ | with_reducible refine foldl2_clock_Clus' (fun _ _ => ?_) ?_ | with_reducible refine foldl3_clock_Clus' (fun _ _ => ?_) ?_ | with_reducible refine ite_clock_Core ?_ ?_ | with_reducible refine foldl_clock_Core' (fun _ _ => ?_) ?_ | with_reducible refine iter_clock_Core' (fun _ _ => ?_) ?_ | with_reducible refine foldl2_clock_Core' (fun _ _ => ?_) ?_ | with_reducible refine foldl3_clock_Core' (fun _ _ => ?_) ?_ | simp only [↓Clus.circResume_clock, ↓Pkg.eachCirc_clock, ↓Pkg.fillOne_clock, ↓Pkg.onJob_clock, ↓Pkg.placeJob_clock, ↓Pkg.startCircs_clock, ↓Core.clock_eta, ↓Core.clock_mk, ↓Clus.clock_mk, ↓Clus.core_clock, ↓Pkg.clock_mk, ↓Pkg.cl_clock] | with_reducible refine of_eq_clock_Pkg ‹_› ?_ | with_reducible refine of_eq1_clock_Pkg ‹_› ?_ | with_reducible refine of_eq_clock_Clus ‹_› ?_ | with_reducible refine of_eq1_clock_Clus ‹_› ?_ | with_reducible refine of_eq_clock_Core ‹_› ?_ | with_reducible refine of_eq1_clock_Core ‹_› ?_ | split | dsimp only)

theorem Pkg.releaseTurns_clock (k a1) : (Pkg.releaseTurns k a1).clock = k.clock := by
  unfold Pkg.releaseTurns
  repeat' (first | with_reducible rfl | (simp only [↓Pkg.onJob_clock, ↓Pkg.turnIn_clock, ↓Core.clock_eta, ↓Core.clock_mk, ↓Clus.clock_mk, ↓Clus.core_clock, ↓Pkg.clock_mk, ↓Pkg.cl_clock, ↓foldl_clock_Core, ↓iter_clock_Core, ↓foldl_clock_Clus, ↓iter_clock_Clus, ↓foldl_clock_Pkg, ↓iter_clock_Pkg, implies_true, apply_ite Pkg.clock, ite_self]; done) | with_reducible refine ite_clock_Pkg ?_ ?_ | with_reducible refine foldl_clock_Pkg' (fun _ _ => ?_) ?_ | with_reducible refine iter_clock_Pkg' (fun _ _ => ?_) ?_ | with_reducible refine foldl2_clock_Pkg' (fun _ _ => ?_) ?_ | with_reducible refine foldl3_clock_Pkg' (fun _ _ => ?_) ?_ | with_reducible refine ite_clock_Clus ?_ ?_ | with_reducible refine foldl_clock_Clus' (fun _ _ => ?_) ?_ | with_reducible refine iter_clock_Clus' (fun _ _ => ?_) ?_ | with_reducible refine foldl2_clock_Clus' (fun _ _ => ?_) ?_ | with_reducible refine foldl3_clock_Clus' (fun _ _ => ?_) ?_ | with_reducible refine ite_clock_Core ?_ ?_ | with_reducible refine foldl_clock_Core' (fun _ _ => ?_) ?_ | with_reducible refine iter_clock_Core' (fun _ _ => ?_) ?_ | with_reducible refine foldl2_clock_Core' (fun _ _ => ?_) ?_ | with_reducible refine foldl3_clock_Core' (fun _ _ => ?_) ?_ | simp only [↓Pkg.onJob_clock, ↓Pkg.turnIn_clock, ↓Core.clock_eta, ↓Core.clock_mk, ↓Clus.clock_mk, ↓Clus.core_clock, ↓Pkg.clock_mk, ↓Pkg.cl_clock] | with_reducible refine of_eq_clock_Pkg ‹_› ?_ | with_reducible refine of_eq1_clock_Pkg ‹_› ?_ | with_reducible refine of_eq_clock_Clus ‹_› ?_ | with_reducible refine of_eq1_clock_Clus ‹_› ?_ | with_reducible refine of_eq_clock_Core ‹_› ?_ | with_reducible refine of_eq1_clock_Core ‹_› ?_ | split | dsimp only)

theorem Pkg.rebook_clock (k) : (Pkg.rebook k).clock = k.clock := by
  unfold Pkg.rebook
  repeat' (first | with_reducible rfl | (simp only [↓Pkg.forceTurns_clock, ↓Pkg.releaseTurns_clock, ↓Core.clock_eta, ↓Core.clock_mk, ↓Clus.clock_mk, ↓Clus.core_clock, ↓Pkg.clock_mk, ↓Pkg.cl_clock, ↓foldl_clock_Core, ↓iter_clock_Core, ↓foldl_clock_Clus, ↓iter_clock_Clus, ↓foldl_clock_Pkg, ↓iter_clock_Pkg, implies_true, apply_ite Pkg.clock, ite_self]; done) | with_reducible refine ite_clock_Pkg ?_ ?_ | with_reducible refine foldl_clock_Pkg' (fun _ _ => ?_) ?_ | with_reducible refine iter_clock_Pkg' (fun _ _ => ?_) ?_ | with_reducible refine foldl2_clock_Pkg' (fun _ _ => ?_) ?_ | with_reducible refine foldl3_clock_Pkg' (fun _ _ => ?_) ?_ | with_reducible refine ite_clock_Clus ?_ ?_ | with_reducible refine foldl_clock_Clus' (fun _ _ => ?_) ?_ | with_reducible refine iter_clock_Clus' (fun _ _ => ?_) ?_ | with_reducible refine foldl2_clock_Clus' (fun _ _ => ?_) ?_ | with_reducible refine foldl3_clock_Clus' (fun _ _ => ?_) ?_ | with_reducible refine ite_clock_Core ?_ ?_ | with_reducible refine foldl_clock_Core' (fun _ _ => ?_) ?_ | with_reducible refine iter_clock_Core' (fun _ _ => ?_) ?_ | with_reducible refine foldl2_clock_Core' (fun _ _ => ?_) ?_ | with_reducible refine foldl3_clock_Core' (fun _ _ => ?_) ?_ | simp only [↓Pkg.forceTurns_clock, ↓Pkg.releaseTurns_clock, ↓Core.clock_eta, ↓Core.clock_mk, ↓Clus.clock_mk, ↓Clus.core_clock, ↓Pkg.clock_mk, ↓Pkg.cl_clock] | with_reducible refine of_eq_clock_Pkg ‹_› ?_ | with_reducible refine of_eq1_clock_Pkg ‹_› ?_ | with_reducible refine of_eq_clock_Clus ‹_› ?_ | with_reducible refine of_eq1_clock_Clus ‹_› ?_ | with_reducible refine of_eq_clock_Core ‹_› ?_ | with_reducible refine of_eq1_clock_Core ‹_› ?_ | split | dsimp only)

theorem Pkg.blockWord_clock (k a1 a2 a3 a4) : (Pkg.blockWord k a1 a2 a3 a4).clock = k.clock := by
  unfold Pkg.blockWord
  repeat' (first | with_reducible rfl | (simp only [↓Clus.bankClr_clock, ↓Clus.circCtrl_clock, ↓Clus.mcCapClr_clock, ↓Clus.mcCntClr_clock, ↓Clus.mcMarginClr_clock, ↓Clus.mcSgClear_clock, ↓Clus.msgCntClr_clock, ↓Clus.scrubCtrl_clock, ↓Clus.xstCapClr_clock, ↓Clus.xstCntClr_clock, ↓Core.dropped_clock, ↓Core.ptsWord_clock, ↓Core.tabletWord_clock, ↓Core.wr_clock, ↓Core.wrMask_clock, ↓Core.zero_clock, ↓Pkg.abortRot_clock, ↓Pkg.biCntClr_clock, ↓Pkg.collWordWrite_clock, ↓Pkg.fbCntClr_clock, ↓Pkg.fenceWrite_clock, ↓Pkg.lnCntClr_clock, ↓Pkg.mirrorWrite_clock, ↓Pkg.nodeWrite_clock, ↓Pkg.portCfg_clock, ↓Pkg.rebook_clock, ↓Pkg.rehomeGo_clock, ↓Pkg.retrain_clock, ↓Pkg.rotateNow_clock, ↓Pkg.routeWord_clock, ↓Pkg.unquarantine_clock, ↓Core.clock_eta, ↓Core.clock_mk, ↓Clus.clock_mk, ↓Clus.core_clock, ↓Clus.onCore_clock, ↓Pkg.clock_mk, ↓Pkg.cl_clock, ↓Pkg.onCore_clock, ↓Pkg.onClus_clock, ↓Pkg.onFab_clock, ↓foldl_clock_Core, ↓iter_clock_Core, ↓foldl_clock_Clus, ↓iter_clock_Clus, ↓foldl_clock_Pkg, ↓iter_clock_Pkg, implies_true, apply_ite Pkg.clock, ite_self]; done) | with_reducible refine ite_clock_Pkg ?_ ?_ | with_reducible refine foldl_clock_Pkg' (fun _ _ => ?_) ?_ | with_reducible refine iter_clock_Pkg' (fun _ _ => ?_) ?_ | with_reducible refine foldl2_clock_Pkg' (fun _ _ => ?_) ?_ | with_reducible refine foldl3_clock_Pkg' (fun _ _ => ?_) ?_ | with_reducible refine ite_clock_Clus ?_ ?_ | with_reducible refine foldl_clock_Clus' (fun _ _ => ?_) ?_ | with_reducible refine iter_clock_Clus' (fun _ _ => ?_) ?_ | with_reducible refine foldl2_clock_Clus' (fun _ _ => ?_) ?_ | with_reducible refine foldl3_clock_Clus' (fun _ _ => ?_) ?_ | with_reducible refine ite_clock_Core ?_ ?_ | with_reducible refine foldl_clock_Core' (fun _ _ => ?_) ?_ | with_reducible refine iter_clock_Core' (fun _ _ => ?_) ?_ | with_reducible refine foldl2_clock_Core' (fun _ _ => ?_) ?_ | with_reducible refine foldl3_clock_Core' (fun _ _ => ?_) ?_ | simp only [↓Clus.bankClr_clock, ↓Clus.circCtrl_clock, ↓Clus.mcCapClr_clock, ↓Clus.mcCntClr_clock, ↓Clus.mcMarginClr_clock, ↓Clus.mcSgClear_clock, ↓Clus.msgCntClr_clock, ↓Clus.scrubCtrl_clock, ↓Clus.xstCapClr_clock, ↓Clus.xstCntClr_clock, ↓Core.dropped_clock, ↓Core.ptsWord_clock, ↓Core.tabletWord_clock, ↓Core.wr_clock, ↓Core.wrMask_clock, ↓Core.zero_clock, ↓Pkg.abortRot_clock, ↓Pkg.biCntClr_clock, ↓Pkg.collWordWrite_clock, ↓Pkg.fbCntClr_clock, ↓Pkg.fenceWrite_clock, ↓Pkg.lnCntClr_clock, ↓Pkg.mirrorWrite_clock, ↓Pkg.nodeWrite_clock, ↓Pkg.portCfg_clock, ↓Pkg.rebook_clock, ↓Pkg.rehomeGo_clock, ↓Pkg.retrain_clock, ↓Pkg.rotateNow_clock, ↓Pkg.routeWord_clock, ↓Pkg.unquarantine_clock, ↓Core.clock_eta, ↓Core.clock_mk, ↓Clus.clock_mk, ↓Clus.core_clock, ↓Clus.onCore_clock, ↓Pkg.clock_mk, ↓Pkg.cl_clock, ↓Pkg.onCore_clock, ↓Pkg.onClus_clock, ↓Pkg.onFab_clock] | with_reducible refine of_eq_clock_Pkg ‹_› ?_ | with_reducible refine of_eq1_clock_Pkg ‹_› ?_ | with_reducible refine of_eq_clock_Clus ‹_› ?_ | with_reducible refine of_eq1_clock_Clus ‹_› ?_ | with_reducible refine of_eq_clock_Core ‹_› ?_ | with_reducible refine of_eq1_clock_Core ‹_› ?_ | split | dsimp only)

theorem Pkg.blockWords_clock (k a1 a2 a3 a4) : (Pkg.blockWords k a1 a2 a3 a4).clock = k.clock := by
  unfold Pkg.blockWords
  repeat' (first | with_reducible rfl | (simp only [↓Clus.chanWords_clock, ↓Clus.descWords_clock, ↓Core.dropped_clock, ↓Pkg.blockWord_clock, ↓Core.clock_eta, ↓Core.clock_mk, ↓Clus.clock_mk, ↓Clus.core_clock, ↓Clus.onCore_clock, ↓Pkg.clock_mk, ↓Pkg.cl_clock, ↓Pkg.onCore_clock, ↓Pkg.onClus_clock, ↓foldl_clock_Core, ↓iter_clock_Core, ↓foldl_clock_Clus, ↓iter_clock_Clus, ↓foldl_clock_Pkg, ↓iter_clock_Pkg, implies_true, apply_ite Pkg.clock, ite_self]; done) | with_reducible refine ite_clock_Pkg ?_ ?_ | with_reducible refine foldl_clock_Pkg' (fun _ _ => ?_) ?_ | with_reducible refine iter_clock_Pkg' (fun _ _ => ?_) ?_ | with_reducible refine foldl2_clock_Pkg' (fun _ _ => ?_) ?_ | with_reducible refine foldl3_clock_Pkg' (fun _ _ => ?_) ?_ | with_reducible refine ite_clock_Clus ?_ ?_ | with_reducible refine foldl_clock_Clus' (fun _ _ => ?_) ?_ | with_reducible refine iter_clock_Clus' (fun _ _ => ?_) ?_ | with_reducible refine foldl2_clock_Clus' (fun _ _ => ?_) ?_ | with_reducible refine foldl3_clock_Clus' (fun _ _ => ?_) ?_ | with_reducible refine ite_clock_Core ?_ ?_ | with_reducible refine foldl_clock_Core' (fun _ _ => ?_) ?_ | with_reducible refine iter_clock_Core' (fun _ _ => ?_) ?_ | with_reducible refine foldl2_clock_Core' (fun _ _ => ?_) ?_ | with_reducible refine foldl3_clock_Core' (fun _ _ => ?_) ?_ | simp only [↓Clus.chanWords_clock, ↓Clus.descWords_clock, ↓Core.dropped_clock, ↓Pkg.blockWord_clock, ↓Core.clock_eta, ↓Core.clock_mk, ↓Clus.clock_mk, ↓Clus.core_clock, ↓Clus.onCore_clock, ↓Pkg.clock_mk, ↓Pkg.cl_clock, ↓Pkg.onCore_clock, ↓Pkg.onClus_clock] | with_reducible refine of_eq_clock_Pkg ‹_› ?_ | with_reducible refine of_eq1_clock_Pkg ‹_› ?_ | with_reducible refine of_eq_clock_Clus ‹_› ?_ | with_reducible refine of_eq1_clock_Clus ‹_› ?_ | with_reducible refine of_eq_clock_Core ‹_› ?_ | with_reducible refine of_eq1_clock_Core ‹_› ?_ | split | dsimp only)

theorem Pkg.pageWrite_clock (k a1 a2 a3 a4 a5) : (Pkg.pageWrite k a1 a2 a3 a4 a5).clock = k.clock := by
  unfold Pkg.pageWrite
  simp only [↓Pkg.blockWords_clock, ↓Pkg.headerWrite_clock, ↓foldl_clock_Pkg, implies_true, apply_ite Pkg.clock, ite_self]

theorem Pkg.windowWrite_clock (k a1 a2 a3 a4 a5) : (Pkg.windowWrite k a1 a2 a3 a4 a5).clock = k.clock := by
  unfold Pkg.windowWrite
  repeat' (first | (simp only [↓Clus.core_clock, ↓Pkg.cl_clock, ↓Clus.entryWrite_clock, ↓Core.dropped_clock, ↓Core.winWr_clock, ↓Pkg.onClus_clock, ↓Pkg.onCore_clock, apply_ite Pkg.clock, ite_self]; done) | with_reducible refine ite_clock_Pkg ?_ ?_ | split)

theorem Pkg.regWrite_clock (k a1 a2 a3 a4) : (Pkg.regWrite k a1 a2 a3 a4).clock = k.clock := by
  unfold Pkg.regWrite
  repeat' (first | (simp only [↓Clus.core_clock, ↓Pkg.cl_clock, ↓Core.dropped_clock, ↓Pkg.onCore_clock, ↓Pkg.pageWrite_clock, ↓Pkg.windowWrite_clock, apply_ite Pkg.clock, ite_self]; done) | with_reducible refine ite_clock_Pkg ?_ ?_ | split)

theorem Pkg.viewWrite_clock (k a1 a2 a3) : (Pkg.viewWrite k a1 a2 a3).clock = k.clock := by
  unfold Pkg.viewWrite
  simp only [↓Pkg.emuBad_clock, ↓Pkg.refreshViews_clock, ↓Pkg.regWrite_clock, apply_ite Pkg.clock, ite_self]

theorem Pkg.applyEnt_clock (k a1) : (Pkg.applyEnt k a1).clock = k.clock := by
  unfold Pkg.applyEnt
  repeat' (first | (simp only [↓Pkg.emuBad_clock, ↓Pkg.ringPageWrite_clock, ↓Pkg.settingsWrite_clock, ↓Pkg.viewOnlyWrite_clock, ↓Pkg.viewWrite_clock, apply_ite Pkg.clock]; done) | with_reducible refine ite_clock_Pkg ?_ ?_ | split)

theorem Pkg.loadOn_clock (k) : (Pkg.loadOn k).clock = k.clock := by
  unfold Pkg.loadOn
  simp only [↓Pkg.onBu_clock]

theorem Pkg.placeQuad_clock (k a1) : (Pkg.placeQuad k a1).clock = k.clock := by
  unfold Pkg.placeQuad
  simp only [↓Clus.core_clock, ↓Pkg.cl_clock, ↓Core.fwEvent_clock, ↓Core.placeDieMap_clock, ↓Core.placeRegion_clock, ↓Pkg.onCore_clock, ↓iter_clock_Pkg, ↓foldl_clock_Pkg, implies_true, apply_ite Pkg.clock, ite_self]

theorem Pkg.placeService_clock (k) : (Pkg.placeService k).clock = k.clock := by
  unfold Pkg.placeService
  simp only [↓Pkg.placeQuad_clock, ↓iter_clock_Pkg, implies_true]

theorem Pkg.fenceBits_clock (k) : (Pkg.fenceBits k).clock = k.clock := by
  unfold Pkg.fenceBits
  simp only [↓Clus.core_clock, ↓Pkg.cl_clock, ↓Core.setFence_clock, ↓Pkg.onCore_clock, ↓foldl_clock_Pkg, implies_true]

theorem Pkg.applyWarm_clock (k) : (Pkg.applyWarm k).clock = k.clock := by
  unfold Pkg.applyWarm
  repeat' (first | (simp only [↓Clus.core_clock, ↓Pkg.cl_clock, ↓Core.setStep_clock, ↓Pkg.fenceBits_clock, ↓Pkg.loadOn_clock, ↓Pkg.onBi_clock, ↓Pkg.onBu_clock, ↓Pkg.onCore_clock, ↓Pkg.onHbm_clock, ↓Pkg.placeService_clock]; done) | with_reducible refine ite_clock_Pkg ?_ ?_ | split)

theorem Pkg.dropPacket_clock (k a1 a2 a3 a4) : (Pkg.dropPacket k a1 a2 a3 a4).clock = k.clock := by
  unfold Pkg.dropPacket
  repeat' (first | with_reducible rfl | (simp only [↓Clus.noticeSource_clock, ↓Core.note_clock, ↓Core.record_clock, ↓Core.clock_eta, ↓Core.clock_mk, ↓Clus.clock_mk, ↓Clus.core_clock, ↓Clus.onCore_clock, ↓Pkg.clock_mk, ↓Pkg.cl_clock, ↓Pkg.onCore_clock, ↓Pkg.onClus_clock, ↓Pkg.onNet_clock, ↓foldl_clock_Core, ↓iter_clock_Core, ↓foldl_clock_Clus, ↓iter_clock_Clus, ↓foldl_clock_Pkg, ↓iter_clock_Pkg, implies_true, apply_ite Pkg.clock, ite_self]; done) | with_reducible refine ite_clock_Pkg ?_ ?_ | with_reducible refine foldl_clock_Pkg' (fun _ _ => ?_) ?_ | with_reducible refine iter_clock_Pkg' (fun _ _ => ?_) ?_ | with_reducible refine foldl2_clock_Pkg' (fun _ _ => ?_) ?_ | with_reducible refine foldl3_clock_Pkg' (fun _ _ => ?_) ?_ | with_reducible refine ite_clock_Clus ?_ ?_ | with_reducible refine foldl_clock_Clus' (fun _ _ => ?_) ?_ | with_reducible refine iter_clock_Clus' (fun _ _ => ?_) ?_ | with_reducible refine foldl2_clock_Clus' (fun _ _ => ?_) ?_ | with_reducible refine foldl3_clock_Clus' (fun _ _ => ?_) ?_ | with_reducible refine ite_clock_Core ?_ ?_ | with_reducible refine foldl_clock_Core' (fun _ _ => ?_) ?_ | with_reducible refine iter_clock_Core' (fun _ _ => ?_) ?_ | with_reducible refine foldl2_clock_Core' (fun _ _ => ?_) ?_ | with_reducible refine foldl3_clock_Core' (fun _ _ => ?_) ?_ | simp only [↓Clus.noticeSource_clock, ↓Core.note_clock, ↓Core.record_clock, ↓Core.clock_eta, ↓Core.clock_mk, ↓Clus.clock_mk, ↓Clus.core_clock, ↓Clus.onCore_clock, ↓Pkg.clock_mk, ↓Pkg.cl_clock, ↓Pkg.onCore_clock, ↓Pkg.onClus_clock, ↓Pkg.onNet_clock] | with_reducible refine of_eq_clock_Pkg ‹_› ?_ | with_reducible refine of_eq1_clock_Pkg ‹_› ?_ | with_reducible refine of_eq_clock_Clus ‹_› ?_ | with_reducible refine of_eq1_clock_Clus ‹_› ?_ | with_reducible refine of_eq_clock_Core ‹_› ?_ | with_reducible refine of_eq1_clock_Core ‹_› ?_ | split | dsimp only)

theorem Pkg.arrive_clock (k a1 a2) (a3 : Pkg → Pkg) (h3 : ∀ x0, (a3 x0).clock = x0.clock) :
    (Pkg.arrive k a1 a2 a3).clock = k.clock := by
  unfold Pkg.arrive
  repeat' (first | with_reducible rfl | (simp only [↓Pkg.dropPacket_clock, ↓Core.clock_eta, ↓Core.clock_mk, ↓Clus.clock_mk, ↓Clus.core_clock, ↓Pkg.clock_mk, ↓Pkg.cl_clock, ↓Pkg.onNet_clock, h3, ↓foldl_clock_Core, ↓iter_clock_Core, ↓foldl_clock_Clus, ↓iter_clock_Clus, ↓foldl_clock_Pkg, ↓iter_clock_Pkg, implies_true, apply_ite Pkg.clock, ite_self]; done) | with_reducible refine ite_clock_Pkg ?_ ?_ | with_reducible refine foldl_clock_Pkg' (fun _ _ => ?_) ?_ | with_reducible refine iter_clock_Pkg' (fun _ _ => ?_) ?_ | with_reducible refine foldl2_clock_Pkg' (fun _ _ => ?_) ?_ | with_reducible refine foldl3_clock_Pkg' (fun _ _ => ?_) ?_ | with_reducible refine ite_clock_Clus ?_ ?_ | with_reducible refine foldl_clock_Clus' (fun _ _ => ?_) ?_ | with_reducible refine iter_clock_Clus' (fun _ _ => ?_) ?_ | with_reducible refine foldl2_clock_Clus' (fun _ _ => ?_) ?_ | with_reducible refine foldl3_clock_Clus' (fun _ _ => ?_) ?_ | with_reducible refine ite_clock_Core ?_ ?_ | with_reducible refine foldl_clock_Core' (fun _ _ => ?_) ?_ | with_reducible refine iter_clock_Core' (fun _ _ => ?_) ?_ | with_reducible refine foldl2_clock_Core' (fun _ _ => ?_) ?_ | with_reducible refine foldl3_clock_Core' (fun _ _ => ?_) ?_ | simp only [↓Pkg.dropPacket_clock, ↓Core.clock_eta, ↓Core.clock_mk, ↓Clus.clock_mk, ↓Clus.core_clock, ↓Pkg.clock_mk, ↓Pkg.cl_clock, ↓Pkg.onNet_clock, h3] | with_reducible refine of_eq_clock_Pkg ‹_› ?_ | with_reducible refine of_eq1_clock_Pkg ‹_› ?_ | with_reducible refine of_eq_clock_Clus ‹_› ?_ | with_reducible refine of_eq1_clock_Clus ‹_› ?_ | with_reducible refine of_eq_clock_Core ‹_› ?_ | with_reducible refine of_eq1_clock_Core ‹_› ?_ | split | dsimp only)

theorem Pkg.newTxn_clock (k) : (Pkg.newTxn k).2.clock = k.clock := by
  unfold Pkg.newTxn
  simp only [↓Pkg.onAtt_clock]

theorem Pkg.salSend_clock (k a1) : (Pkg.salSend k a1).clock = k.clock := by
  unfold Pkg.salSend
  simp only [↓Clus.core_clock, ↓Pkg.cl_clock, ↓Core.setFld_clock, ↓Pkg.onAtt_clock, ↓Pkg.onCore_clock, ↓Pkg.setLink_clock, apply_ite Pkg.clock, ite_self]

theorem Pkg.atRequest_clock (k a1 a2 a3 a4) : (Pkg.atRequest k a1 a2 a3 a4).2.clock = k.clock := by
  unfold Pkg.atRequest
  repeat' (first | (simp only [↓Pkg.newTxn_clock, ↓Pkg.onAtt_clock, ↓Pkg.salSend_clock]; done) | with_reducible refine ite_clock_Pkg ?_ ?_ | split)

theorem Pkg.devInvalid_clock (k a1 a2) : (Pkg.devInvalid k a1 a2).clock = k.clock := by
  unfold Pkg.devInvalid
  simp only [↓Pkg.cmdReject_clock]

theorem Pkg.devCmd_clock (k a1 a2 a3 a4) (a5 : Pkg → Pkg) (h5 : ∀ x0, (a5 x0).clock = x0.clock) :
    (Pkg.devCmd k a1 a2 a3 a4 a5).clock = k.clock := by
  unfold Pkg.devCmd
  repeat' (first | with_reducible rfl | (simp only [↓Pkg.cmdReject_clock, ↓Core.clock_eta, ↓Core.clock_mk, ↓Clus.clock_mk, ↓Clus.core_clock, ↓Pkg.clock_mk, ↓Pkg.cl_clock, h5, ↓foldl_clock_Core, ↓iter_clock_Core, ↓foldl_clock_Clus, ↓iter_clock_Clus, ↓foldl_clock_Pkg, ↓iter_clock_Pkg, implies_true, apply_ite Pkg.clock, ite_self]; done) | with_reducible refine ite_clock_Pkg ?_ ?_ | with_reducible refine foldl_clock_Pkg' (fun _ _ => ?_) ?_ | with_reducible refine iter_clock_Pkg' (fun _ _ => ?_) ?_ | with_reducible refine foldl2_clock_Pkg' (fun _ _ => ?_) ?_ | with_reducible refine foldl3_clock_Pkg' (fun _ _ => ?_) ?_ | with_reducible refine ite_clock_Clus ?_ ?_ | with_reducible refine foldl_clock_Clus' (fun _ _ => ?_) ?_ | with_reducible refine iter_clock_Clus' (fun _ _ => ?_) ?_ | with_reducible refine foldl2_clock_Clus' (fun _ _ => ?_) ?_ | with_reducible refine foldl3_clock_Clus' (fun _ _ => ?_) ?_ | with_reducible refine ite_clock_Core ?_ ?_ | with_reducible refine foldl_clock_Core' (fun _ _ => ?_) ?_ | with_reducible refine iter_clock_Core' (fun _ _ => ?_) ?_ | with_reducible refine foldl2_clock_Core' (fun _ _ => ?_) ?_ | with_reducible refine foldl3_clock_Core' (fun _ _ => ?_) ?_ | simp only [↓Pkg.cmdReject_clock, ↓Core.clock_eta, ↓Core.clock_mk, ↓Clus.clock_mk, ↓Clus.core_clock, ↓Pkg.clock_mk, ↓Pkg.cl_clock, h5] | with_reducible refine of_eq_clock_Pkg ‹_› ?_ | with_reducible refine of_eq1_clock_Pkg ‹_› ?_ | with_reducible refine of_eq_clock_Clus ‹_› ?_ | with_reducible refine of_eq1_clock_Clus ‹_› ?_ | with_reducible refine of_eq_clock_Core ‹_› ?_ | with_reducible refine of_eq1_clock_Core ‹_› ?_ | split | dsimp only)

theorem Pkg.devEnd_clock (k a1 a2 a3 a4) : (Pkg.devEnd k a1 a2 a3 a4).clock = k.clock := by
  unfold Pkg.devEnd
  simp only [↓Pkg.cmdEnd_clock]

theorem Pkg.attachSetCmd_clock (k a1 a2 a3 a4) : (Pkg.attachSetCmd k a1 a2 a3 a4).clock = k.clock := by
  unfold Pkg.attachSetCmd
  simp only [↓Pkg.devCmd_clock, ↓Pkg.devEnd_clock, ↓Pkg.devInvalid_clock, ↓Pkg.onAtt_clock, implies_true, apply_ite Pkg.clock, ite_self]

theorem Pkg.badPacket_clock (k a1) : (Pkg.badPacket k a1).clock = k.clock := by
  unfold Pkg.badPacket
  repeat' (first | (simp only [↓Clus.core_clock, ↓Pkg.cl_clock, ↓Clus.fail_clock, ↓Clus.faultJob_clock, ↓Clus.onCore_clock, ↓Core.record_clock, ↓Pkg.onClus_clock, apply_ite Clus.clock, ite_self]; done) | with_reducible refine ite_clock_Pkg ?_ ?_ | with_reducible refine foldl_clock_Pkg' (fun _ _ => ?_) ?_ | with_reducible refine iter_clock_Pkg' (fun _ _ => ?_) ?_ | simp only [↓Pkg.onClus_clock] | split | dsimp only)

theorem Pkg.bindNext_clock (k) : (Pkg.bindNext k).clock = k.clock := by
  unfold Pkg.bindNext
  simp only [↓Clus.clock_mk, ↓Clus.core_clock, ↓Pkg.cl_clock, ↓Core.wr_clock, ↓Pkg.onClus_clock, ↓Pkg.onCore_clock, ↓iter_clock_Core, implies_true, apply_ite Pkg.clock, ite_self]

theorem Pkg.countReplay_clock (k a1) : (Pkg.countReplay k a1).clock = k.clock := by
  unfold Pkg.countReplay
  simp only [↓Clus.core_clock, ↓Pkg.cl_clock, ↓Core.fwEvent_clock, ↓Core.setFld_clock, ↓Pkg.onBi_clock, ↓Pkg.onCore_clock, ↓Pkg.rotate_clock, apply_ite Pkg.clock, ite_self]

theorem Pkg.repairStore_clock (k a1 a2 a3) : (Pkg.repairStore k a1 a2 a3).clock = k.clock := by
  unfold Pkg.repairStore
  simp only [↓Pkg.cl_clock, ↓Clus.putRaw_clock, ↓Pkg.dpaRead_clock, ↓Pkg.onClus_clock, ↓iter_clock_Pkg, implies_true, apply_ite Pkg.clock, ite_self]

theorem Pkg.hbInject_clock (k a1 a2 a3) : (Pkg.hbInject k a1 a2 a3).clock = k.clock := by
  unfold Pkg.hbInject
  simp only [↓Clus.core_clock, ↓Pkg.cl_clock, ↓Clus.onCore_clock, ↓Core.setFld_clock, ↓Pkg.onClus_clock, ↓Pkg.onHbm_clock, apply_ite Pkg.clock, ite_self]

theorem Pkg.hbBlock_clock (k a1 a2 a3 a4) : (Pkg.hbBlock k a1 a2 a3 a4).clock = k.clock := by
  unfold Pkg.hbBlock
  simp only [↓Pkg.clock_mk, ↓Pkg.cl_clock, ↓Pkg.hbInject_clock]

theorem Pkg.dpaWriteThrough_clock (k a1 a2) : (Pkg.dpaWriteThrough k a1 a2).clock = k.clock := by
  unfold Pkg.dpaWriteThrough
  repeat' (first | (simp only [↓Pkg.hbBlock_clock, ↓foldl_clock_Pkg, implies_true]; done) | with_reducible refine ite_clock_Pkg ?_ ?_ | with_reducible refine foldl_clock_Pkg' (fun _ _ => ?_) ?_ | split | dsimp only)

theorem Pkg.cowSave_clock (k a1 a2 a3) : (Pkg.cowSave k a1 a2 a3).clock = k.clock := by
  unfold Pkg.cowSave
  repeat' (first | (simp only [↓Pkg.clock_mk, ↓Pkg.cl_clock, ↓Pkg.hbRead_clock]; done) | with_reducible refine ite_clock_Pkg ?_ ?_ | with_reducible refine foldl_clock_Pkg' (fun _ _ => ?_) ?_ | with_reducible refine iter_clock_Pkg' (fun _ _ => ?_) ?_ | simp only [↓Core.clock_eta] | split | dsimp only)

theorem Pkg.hbWrite_clock (k a1 a2 a3 a4) : (Pkg.hbWrite k a1 a2 a3 a4).clock = k.clock := by
  unfold Pkg.hbWrite
  simp only [↓Pkg.cowSave_clock, ↓Pkg.hbBlock_clock, ↓foldl_clock_Pkg, implies_true, apply_ite Pkg.clock, ite_self]

theorem Pkg.dpaWrite_clock (k a1 a2) : (Pkg.dpaWrite k a1 a2).clock = k.clock := by
  unfold Pkg.dpaWrite
  repeat' (first | (simp only [↓Pkg.hbWrite_clock]; done) | with_reducible refine ite_clock_Pkg ?_ ?_ | with_reducible refine foldl_clock_Pkg' (fun _ _ => ?_) ?_ | split | dsimp only)

theorem Pkg.homeWrite_clock (k a1 a2 a3 a4 a5) : (Pkg.homeWrite k a1 a2 a3 a4 a5).clock = k.clock := by
  unfold Pkg.homeWrite
  simp only [↓Pkg.dpaWrite_clock, ↓Pkg.dpaWriteThrough_clock, apply_ite Pkg.clock, ite_self]

theorem Pkg.homeRecord_clock (k a1 a2 a3) : (Pkg.homeRecord k a1 a2 a3).clock = k.clock := by
  unfold Pkg.homeRecord
  simp only [↓Clus.clock_mk, ↓Clus.core_clock, ↓Pkg.cl_clock, ↓Clus.homeTickUpdate_clock, ↓Pkg.homeWrite_clock, ↓Pkg.onClus_clock]

theorem Pkg.reflush_clock (k a1 a2 a3 a4) : (Pkg.reflush k a1 a2 a3 a4).clock = k.clock := by
  unfold Pkg.reflush
  repeat' (first | with_reducible rfl | (simp only [↓Clus.stTouch_clock, ↓Pkg.homeRecord_clock, ↓Pkg.homeWrite_clock, ↓Core.clock_eta, ↓Core.clock_mk, ↓Clus.clock_mk, ↓Clus.core_clock, ↓Pkg.clock_mk, ↓Pkg.cl_clock, ↓Pkg.onClus_clock, ↓foldl_clock_Core, ↓iter_clock_Core, ↓foldl_clock_Clus, ↓iter_clock_Clus, ↓foldl_clock_Pkg, ↓iter_clock_Pkg, implies_true, apply_ite Pkg.clock, ite_self]; done) | with_reducible refine ite_clock_Pkg ?_ ?_ | with_reducible refine foldl_clock_Pkg' (fun _ _ => ?_) ?_ | with_reducible refine iter_clock_Pkg' (fun _ _ => ?_) ?_ | with_reducible refine foldl2_clock_Pkg' (fun _ _ => ?_) ?_ | with_reducible refine foldl3_clock_Pkg' (fun _ _ => ?_) ?_ | with_reducible refine ite_clock_Clus ?_ ?_ | with_reducible refine foldl_clock_Clus' (fun _ _ => ?_) ?_ | with_reducible refine iter_clock_Clus' (fun _ _ => ?_) ?_ | with_reducible refine foldl2_clock_Clus' (fun _ _ => ?_) ?_ | with_reducible refine foldl3_clock_Clus' (fun _ _ => ?_) ?_ | with_reducible refine ite_clock_Core ?_ ?_ | with_reducible refine foldl_clock_Core' (fun _ _ => ?_) ?_ | with_reducible refine iter_clock_Core' (fun _ _ => ?_) ?_ | with_reducible refine foldl2_clock_Core' (fun _ _ => ?_) ?_ | with_reducible refine foldl3_clock_Core' (fun _ _ => ?_) ?_ | simp only [↓Clus.stTouch_clock, ↓Pkg.homeRecord_clock, ↓Pkg.homeWrite_clock, ↓Core.clock_eta, ↓Core.clock_mk, ↓Clus.clock_mk, ↓Clus.core_clock, ↓Pkg.clock_mk, ↓Pkg.cl_clock, ↓Pkg.onClus_clock] | with_reducible refine of_eq_clock_Pkg ‹_› ?_ | with_reducible refine of_eq1_clock_Pkg ‹_› ?_ | with_reducible refine of_eq_clock_Clus ‹_› ?_ | with_reducible refine of_eq1_clock_Clus ‹_› ?_ | with_reducible refine of_eq_clock_Core ‹_› ?_ | with_reducible refine of_eq1_clock_Core ‹_› ?_ | split | dsimp only)

theorem Pkg.repairHome_clock (k a1) : (Pkg.repairHome k a1).clock = k.clock := by
  unfold Pkg.repairHome
  repeat' (first | with_reducible rfl | (simp only [↓Pkg.reflush_clock, ↓Core.clock_eta, ↓Core.clock_mk, ↓Clus.clock_mk, ↓Clus.core_clock, ↓Pkg.clock_mk, ↓Pkg.cl_clock, ↓foldl_clock_Core, ↓iter_clock_Core, ↓foldl_clock_Clus, ↓iter_clock_Clus, ↓foldl_clock_Pkg, ↓iter_clock_Pkg, implies_true, apply_ite Pkg.clock, ite_self]; done) | with_reducible refine ite_clock_Pkg ?_ ?_ | with_reducible refine foldl_clock_Pkg' (fun _ _ => ?_) ?_ | with_reducible refine iter_clock_Pkg' (fun _ _ => ?_) ?_ | with_reducible refine foldl2_clock_Pkg' (fun _ _ => ?_) ?_ | with_reducible refine foldl3_clock_Pkg' (fun _ _ => ?_) ?_ | with_reducible refine ite_clock_Clus ?_ ?_ | with_reducible refine foldl_clock_Clus' (fun _ _ => ?_) ?_ | with_reducible refine iter_clock_Clus' (fun _ _ => ?_) ?_ | with_reducible refine foldl2_clock_Clus' (fun _ _ => ?_) ?_ | with_reducible refine foldl3_clock_Clus' (fun _ _ => ?_) ?_ | with_reducible refine ite_clock_Core ?_ ?_ | with_reducible refine foldl_clock_Core' (fun _ _ => ?_) ?_ | with_reducible refine iter_clock_Core' (fun _ _ => ?_) ?_ | with_reducible refine foldl2_clock_Core' (fun _ _ => ?_) ?_ | with_reducible refine foldl3_clock_Core' (fun _ _ => ?_) ?_ | simp only [↓Pkg.reflush_clock, ↓Core.clock_eta, ↓Core.clock_mk, ↓Clus.clock_mk, ↓Clus.core_clock, ↓Pkg.clock_mk, ↓Pkg.cl_clock] | with_reducible refine of_eq_clock_Pkg ‹_› ?_ | with_reducible refine of_eq1_clock_Pkg ‹_› ?_ | with_reducible refine of_eq_clock_Clus ‹_› ?_ | with_reducible refine of_eq1_clock_Clus ‹_› ?_ | with_reducible refine of_eq_clock_Core ‹_› ?_ | with_reducible refine of_eq1_clock_Core ‹_› ?_ | split | dsimp only)

theorem Pkg.reflushPc_clock (k a1 a2) : (Pkg.reflushPc k a1 a2).clock = k.clock := by
  unfold Pkg.reflushPc
  repeat' (first | with_reducible rfl | (simp only [↓Pkg.reflush_clock, ↓Core.clock_eta, ↓Core.clock_mk, ↓Clus.clock_mk, ↓Clus.core_clock, ↓Pkg.clock_mk, ↓Pkg.cl_clock, ↓foldl_clock_Core, ↓iter_clock_Core, ↓foldl_clock_Clus, ↓iter_clock_Clus, ↓foldl_clock_Pkg, ↓iter_clock_Pkg, implies_true, apply_ite Pkg.clock, ite_self]; done) | with_reducible refine ite_clock_Pkg ?_ ?_ | with_reducible refine foldl_clock_Pkg' (fun _ _ => ?_) ?_ | with_reducible refine iter_clock_Pkg' (fun _ _ => ?_) ?_ | with_reducible refine foldl2_clock_Pkg' (fun _ _ => ?_) ?_ | with_reducible refine foldl3_clock_Pkg' (fun _ _ => ?_) ?_ | with_reducible refine ite_clock_Clus ?_ ?_ | with_reducible refine foldl_clock_Clus' (fun _ _ => ?_) ?_ | with_reducible refine iter_clock_Clus' (fun _ _ => ?_) ?_ | with_reducible refine foldl2_clock_Clus' (fun _ _ => ?_) ?_ | with_reducible refine foldl3_clock_Clus' (fun _ _ => ?_) ?_ | with_reducible refine ite_clock_Core ?_ ?_ | with_reducible refine foldl_clock_Core' (fun _ _ => ?_) ?_ | with_reducible refine iter_clock_Core' (fun _ _ => ?_) ?_ | with_reducible refine foldl2_clock_Core' (fun _ _ => ?_) ?_ | with_reducible refine foldl3_clock_Core' (fun _ _ => ?_) ?_ | simp only [↓Pkg.reflush_clock, ↓Core.clock_eta, ↓Core.clock_mk, ↓Clus.clock_mk, ↓Clus.core_clock, ↓Pkg.clock_mk, ↓Pkg.cl_clock] | with_reducible refine of_eq_clock_Pkg ‹_› ?_ | with_reducible refine of_eq1_clock_Pkg ‹_› ?_ | with_reducible refine of_eq_clock_Clus ‹_› ?_ | with_reducible refine of_eq1_clock_Clus ‹_› ?_ | with_reducible refine of_eq_clock_Core ‹_› ?_ | with_reducible refine of_eq1_clock_Core ‹_› ?_ | split | dsimp only)

theorem Pkg.bpAct_clock (k a1) : (Pkg.bpAct k a1).clock = k.clock := by
  unfold Pkg.bpAct
  repeat' (first | with_reducible rfl | (simp only [↓Pkg.countReplay_clock, ↓Pkg.reflushPc_clock, ↓Pkg.rehomeNext_clock, ↓Pkg.repairHome_clock, ↓Pkg.repairStore_clock, ↓Core.clock_eta, ↓Core.clock_mk, ↓Clus.clock_mk, ↓Clus.core_clock, ↓Pkg.clock_mk, ↓Pkg.cl_clock, ↓Pkg.onBi_clock, ↓foldl_clock_Core, ↓iter_clock_Core, ↓foldl_clock_Clus, ↓iter_clock_Clus, ↓foldl_clock_Pkg, ↓iter_clock_Pkg, implies_true, apply_ite Pkg.clock, ite_self]; done) | with_reducible refine ite_clock_Pkg ?_ ?_ | with_reducible refine foldl_clock_Pkg' (fun _ _ => ?_) ?_ | with_reducible refine iter_clock_Pkg' (fun _ _ => ?_) ?_ | with_reducible refine foldl2_clock_Pkg' (fun _ _ => ?_) ?_ | with_reducible refine foldl3_clock_Pkg' (fun _ _ => ?_) ?_ | with_reducible refine ite_clock_Clus ?_ ?_ | with_reducible refine foldl_clock_Clus' (fun _ _ => ?_) ?_ | with_reducible refine iter_clock_Clus' (fun _ _ => ?_) ?_ | with_reducible refine foldl2_clock_Clus' (fun _ _ => ?_) ?_ | with_reducible refine foldl3_clock_Clus' (fun _ _ => ?_) ?_ | with_reducible refine ite_clock_Core ?_ ?_ | with_reducible refine foldl_clock_Core' (fun _ _ => ?_) ?_ | with_reducible refine iter_clock_Core' (fun _ _ => ?_) ?_ | with_reducible refine foldl2_clock_Core' (fun _ _ => ?_) ?_ | with_reducible refine foldl3_clock_Core' (fun _ _ => ?_) ?_ | simp only [↓Pkg.countReplay_clock, ↓Pkg.reflushPc_clock, ↓Pkg.rehomeNext_clock, ↓Pkg.repairHome_clock, ↓Pkg.repairStore_clock, ↓Core.clock_eta, ↓Core.clock_mk, ↓Clus.clock_mk, ↓Clus.core_clock, ↓Pkg.clock_mk, ↓Pkg.cl_clock, ↓Pkg.onBi_clock] | with_reducible refine of_eq_clock_Pkg ‹_› ?_ | with_reducible refine of_eq1_clock_Pkg ‹_› ?_ | with_reducible refine of_eq_clock_Clus ‹_› ?_ | with_reducible refine of_eq1_clock_Clus ‹_› ?_ | with_reducible refine of_eq_clock_Core ‹_› ?_ | with_reducible refine of_eq1_clock_Core ‹_› ?_ | split | dsimp only)

theorem Pkg.bridgeRepair_clock (k a1 a2) : (Pkg.bridgeRepair k a1 a2).clock = k.clock := by
  unfold Pkg.bridgeRepair
  simp only [↓Clus.core_clock, ↓Pkg.cl_clock, ↓Clus.onCore_clock, ↓Core.record_clock, ↓Pkg.onClus_clock, ↓Pkg.onNet_clock, apply_ite Pkg.clock, ite_self]

theorem Pkg.bye_clock (k a1) : (Pkg.bye k a1).clock = k.clock := by
  unfold Pkg.bye
  simp only [↓Pkg.portDown_clock, apply_ite Pkg.clock, ite_self]

theorem Pkg.cachePut_clock (k a1 a2) : (Pkg.cachePut k a1 a2).clock = k.clock := by
  unfold Pkg.cachePut
  repeat' (first | (simp only [↓Pkg.atRequest_clock, ↓Pkg.onAtt_clock, apply_ite Pkg.clock, ite_self]; done) | with_reducible refine ite_clock_Pkg ?_ ?_ | split | dsimp only)

theorem Pkg.pwEvent_clock (k a1 a2 a3 a4 a5 a6 a7 a8 a9) : (Pkg.pwEvent k a1 a2 a3 a4 a5 a6 a7 a8 a9).clock = k.clock := by
  unfold Pkg.pwEvent
  simp only [↓Clus.core_clock, ↓Pkg.cl_clock, ↓Core.record_clock, ↓Pkg.onCore_clock]

theorem Pkg.capStep_clock (k a1 a2) : (Pkg.capStep k a1 a2).2.clock = k.clock := by
  unfold Pkg.capStep
  repeat' (first | with_reducible rfl | (simp only [↓Core.pendClock_clock, ↓Core.setLimits_clock, ↓Pkg.rebook_clock, ↓Core.clock_eta, ↓Core.clock_mk, ↓Clus.clock_mk, ↓Clus.core_clock, ↓Clus.onCore_clock, ↓Pkg.clock_mk, ↓Pkg.cl_clock, ↓Pkg.onCore_clock, ↓Pkg.onPw_clock, ↓foldl_clock_Core, ↓iter_clock_Core, ↓foldl_clock_Clus, ↓iter_clock_Clus, ↓foldl_clock_Pkg, ↓iter_clock_Pkg, implies_true, apply_ite Pkg.clock, ite_self, apply_ite Prod.fst, apply_ite Prod.snd]; done) | with_reducible refine ite_clock_Pkg ?_ ?_ | with_reducible refine foldl_clock_Pkg' (fun _ _ => ?_) ?_ | with_reducible refine iter_clock_Pkg' (fun _ _ => ?_) ?_ | with_reducible refine foldl2_clock_Pkg' (fun _ _ => ?_) ?_ | with_reducible refine foldl3_clock_Pkg' (fun _ _ => ?_) ?_ | with_reducible refine ite_clock_Clus ?_ ?_ | with_reducible refine foldl_clock_Clus' (fun _ _ => ?_) ?_ | with_reducible refine iter_clock_Clus' (fun _ _ => ?_) ?_ | with_reducible refine foldl2_clock_Clus' (fun _ _ => ?_) ?_ | with_reducible refine foldl3_clock_Clus' (fun _ _ => ?_) ?_ | with_reducible refine ite_clock_Core ?_ ?_ | with_reducible refine foldl_clock_Core' (fun _ _ => ?_) ?_ | with_reducible refine iter_clock_Core' (fun _ _ => ?_) ?_ | with_reducible refine foldl2_clock_Core' (fun _ _ => ?_) ?_ | with_reducible refine foldl3_clock_Core' (fun _ _ => ?_) ?_ | simp only [↓Core.pendClock_clock, ↓Core.setLimits_clock, ↓Pkg.rebook_clock, ↓Core.clock_eta, ↓Core.clock_mk, ↓Clus.clock_mk, ↓Clus.core_clock, ↓Clus.onCore_clock, ↓Pkg.clock_mk, ↓Pkg.cl_clock, ↓Pkg.onCore_clock, ↓Pkg.onPw_clock] | with_reducible refine of_eq_clock_Pkg ‹_› ?_ | with_reducible refine of_eq1_clock_Pkg ‹_› ?_ | with_reducible refine of_eq_clock_Clus ‹_› ?_ | with_reducible refine of_eq1_clock_Clus ‹_› ?_ | with_reducible refine of_eq_clock_Core ‹_› ?_ | with_reducible refine of_eq1_clock_Core ‹_› ?_ | split | dsimp only)

theorem Pkg.capLoop_clock (k a1) : (Pkg.capLoop k a1).clock = k.clock := by
  unfold Pkg.capLoop
  simp only [↓Clus.core_clock, ↓Pkg.cl_clock, ↓Core.incSat_clock, ↓Core.setFld_clock, ↓Pkg.capStep_clock, ↓Pkg.onCore_clock, ↓Pkg.onPw_clock, ↓Pkg.pwEvent_clock, apply_ite Pkg.clock, apply_ite Core.clock, ite_self]

theorem Pkg.timeEvent_clock (k a1 a2 a3 a4 a5) : (Pkg.timeEvent k a1 a2 a3 a4 a5).clock = k.clock := by
  unfold Pkg.timeEvent
  repeat' (first | with_reducible rfl | (simp only [↓Core.record_clock, ↓Core.clock_eta, ↓Core.clock_mk, ↓Clus.clock_mk, ↓Clus.core_clock, ↓Clus.onCore_clock, ↓Pkg.clock_mk, ↓Pkg.cl_clock, ↓Pkg.onCore_clock, ↓foldl_clock_Core, ↓iter_clock_Core, ↓foldl_clock_Clus, ↓iter_clock_Clus, ↓foldl_clock_Pkg, ↓iter_clock_Pkg, implies_true, apply_ite Pkg.clock, ite_self]; done) | with_reducible refine ite_clock_Pkg ?_ ?_ | with_reducible refine foldl_clock_Pkg' (fun _ _ => ?_) ?_ | with_reducible refine iter_clock_Pkg' (fun _ _ => ?_) ?_ | with_reducible refine foldl2_clock_Pkg' (fun _ _ => ?_) ?_ | with_reducible refine foldl3_clock_Pkg' (fun _ _ => ?_) ?_ | with_reducible refine ite_clock_Clus ?_ ?_ | with_reducible refine foldl_clock_Clus' (fun _ _ => ?_) ?_ | with_reducible refine iter_clock_Clus' (fun _ _ => ?_) ?_ | with_reducible refine foldl2_clock_Clus' (fun _ _ => ?_) ?_ | with_reducible refine foldl3_clock_Clus' (fun _ _ => ?_) ?_ | with_reducible refine ite_clock_Core ?_ ?_ | with_reducible refine foldl_clock_Core' (fun _ _ => ?_) ?_ | with_reducible refine iter_clock_Core' (fun _ _ => ?_) ?_ | with_reducible refine foldl2_clock_Core' (fun _ _ => ?_) ?_ | with_reducible refine foldl3_clock_Core' (fun _ _ => ?_) ?_ | simp only [↓Core.record_clock, ↓Core.clock_eta, ↓Core.clock_mk, ↓Clus.clock_mk, ↓Clus.core_clock, ↓Clus.onCore_clock, ↓Pkg.clock_mk, ↓Pkg.cl_clock, ↓Pkg.onCore_clock] | with_reducible refine of_eq_clock_Pkg ‹_› ?_ | with_reducible refine of_eq1_clock_Pkg ‹_› ?_ | with_reducible refine of_eq_clock_Clus ‹_› ?_ | with_reducible refine of_eq1_clock_Clus ‹_› ?_ | with_reducible refine of_eq_clock_Core ‹_› ?_ | with_reducible refine of_eq1_clock_Core ‹_› ?_ | split | dsimp only)

theorem Pkg.chooseMaster_clock (k) : (Pkg.chooseMaster k).clock = k.clock := by
  unfold Pkg.chooseMaster
  repeat' (first | with_reducible rfl | (simp only [↓Core.setFld_clock, ↓Core.setTimeState_clock, ↓Pkg.timeEvent_clock, ↓Core.clock_eta, ↓Core.clock_mk, ↓Clus.clock_mk, ↓Clus.core_clock, ↓Clus.onCore_clock, ↓Pkg.clock_mk, ↓Pkg.cl_clock, ↓Pkg.onCore_clock, ↓Pkg.onFab_clock, ↓foldl_clock_Core, ↓iter_clock_Core, ↓foldl_clock_Clus, ↓iter_clock_Clus, ↓foldl_clock_Pkg, ↓iter_clock_Pkg, implies_true, apply_ite Pkg.clock, ite_self]; done) | with_reducible refine ite_clock_Pkg ?_ ?_ | with_reducible refine foldl_clock_Pkg' (fun _ _ => ?_) ?_ | with_reducible refine iter_clock_Pkg' (fun _ _ => ?_) ?_ | with_reducible refine foldl2_clock_Pkg' (fun _ _ => ?_) ?_ | with_reducible refine foldl3_clock_Pkg' (fun _ _ => ?_) ?_ | with_reducible refine ite_clock_Clus ?_ ?_ | with_reducible refine foldl_clock_Clus' (fun _ _ => ?_) ?_ | with_reducible refine iter_clock_Clus' (fun _ _ => ?_) ?_ | with_reducible refine foldl2_clock_Clus' (fun _ _ => ?_) ?_ | with_reducible refine foldl3_clock_Clus' (fun _ _ => ?_) ?_ | with_reducible refine ite_clock_Core ?_ ?_ | with_reducible refine foldl_clock_Core' (fun _ _ => ?_) ?_ | with_reducible refine iter_clock_Core' (fun _ _ => ?_) ?_ | with_reducible refine foldl2_clock_Core' (fun _ _ => ?_) ?_ | with_reducible refine foldl3_clock_Core' (fun _ _ => ?_) ?_ | simp only [↓Core.setFld_clock, ↓Core.setTimeState_clock, ↓Pkg.timeEvent_clock, ↓Core.clock_eta, ↓Core.clock_mk, ↓Clus.clock_mk, ↓Clus.core_clock, ↓Clus.onCore_clock, ↓Pkg.clock_mk, ↓Pkg.cl_clock, ↓Pkg.onCore_clock, ↓Pkg.onFab_clock] | with_reducible refine of_eq_clock_Pkg ‹_› ?_ | with_reducible refine of_eq1_clock_Pkg ‹_› ?_ | with_reducible refine of_eq_clock_Clus ‹_› ?_ | with_reducible refine of_eq1_clock_Clus ‹_› ?_ | with_reducible refine of_eq_clock_Core ‹_› ?_ | with_reducible refine of_eq1_clock_Core ‹_› ?_ | split | dsimp only)

theorem Pkg.clockGate_clock (k a1) : (Pkg.clockGate k a1).clock = k.clock := by
  unfold Pkg.clockGate
  repeat' (first | with_reducible rfl | (simp only [↓Core.incWrap_clock, ↓Core.clock_eta, ↓Core.clock_mk, ↓Clus.clock_mk, ↓Clus.core_clock, ↓Clus.onCore_clock, ↓Pkg.clock_mk, ↓Pkg.cl_clock, ↓Pkg.onCore_clock, ↓foldl_clock_Core, ↓iter_clock_Core, ↓foldl_clock_Clus, ↓iter_clock_Clus, ↓foldl_clock_Pkg, ↓iter_clock_Pkg, implies_true, apply_ite Pkg.clock, ite_self]; done) | with_reducible refine ite_clock_Pkg ?_ ?_ | with_reducible refine foldl_clock_Pkg' (fun _ _ => ?_) ?_ | with_reducible refine iter_clock_Pkg' (fun _ _ => ?_) ?_ | with_reducible refine foldl2_clock_Pkg' (fun _ _ => ?_) ?_ | with_reducible refine foldl3_clock_Pkg' (fun _ _ => ?_) ?_ | with_reducible refine ite_clock_Clus ?_ ?_ | with_reducible refine foldl_clock_Clus' (fun _ _ => ?_) ?_ | with_reducible refine iter_clock_Clus' (fun _ _ => ?_) ?_ | with_reducible refine foldl2_clock_Clus' (fun _ _ => ?_) ?_ | with_reducible refine foldl3_clock_Clus' (fun _ _ => ?_) ?_ | with_reducible refine ite_clock_Core ?_ ?_ | with_reducible refine foldl_clock_Core' (fun _ _ => ?_) ?_ | with_reducible refine iter_clock_Core' (fun _ _ => ?_) ?_ | with_reducible refine foldl2_clock_Core' (fun _ _ => ?_) ?_ | with_reducible refine foldl3_clock_Core' (fun _ _ => ?_) ?_ | simp only [↓Core.incWrap_clock, ↓Core.clock_eta, ↓Core.clock_mk, ↓Clus.clock_mk, ↓Clus.core_clock, ↓Clus.onCore_clock, ↓Pkg.clock_mk, ↓Pkg.cl_clock, ↓Pkg.onCore_clock] | with_reducible refine of_eq_clock_Pkg ‹_› ?_ | with_reducible refine of_eq1_clock_Pkg ‹_› ?_ | with_reducible refine of_eq_clock_Clus ‹_› ?_ | with_reducible refine of_eq1_clock_Clus ‹_› ?_ | with_reducible refine of_eq_clock_Core ‹_› ?_ | with_reducible refine of_eq1_clock_Core ‹_› ?_ | split | dsimp only)

theorem Pkg.riseDue_clock (k) : (Pkg.riseDue k).clock = k.clock := by
  unfold Pkg.riseDue
  repeat' (first | with_reducible rfl | (simp only [↓Core.pendClock_clock, ↓Pkg.rebook_clock, ↓Core.clock_eta, ↓Core.clock_mk, ↓Clus.clock_mk, ↓Clus.core_clock, ↓Clus.onCore_clock, ↓Pkg.clock_mk, ↓Pkg.cl_clock, ↓Pkg.onCore_clock, ↓foldl_clock_Core, ↓iter_clock_Core, ↓foldl_clock_Clus, ↓iter_clock_Clus, ↓foldl_clock_Pkg, ↓iter_clock_Pkg, implies_true, apply_ite Pkg.clock, ite_self]; done) | with_reducible refine ite_clock_Pkg ?_ ?_ | with_reducible refine foldl_clock_Pkg' (fun _ _ => ?_) ?_ | with_reducible refine iter_clock_Pkg' (fun _ _ => ?_) ?_ | with_reducible refine foldl2_clock_Pkg' (fun _ _ => ?_) ?_ | with_reducible refine foldl3_clock_Pkg' (fun _ _ => ?_) ?_ | with_reducible refine ite_clock_Clus ?_ ?_ | with_reducible refine foldl_clock_Clus' (fun _ _ => ?_) ?_ | with_reducible refine iter_clock_Clus' (fun _ _ => ?_) ?_ | with_reducible refine foldl2_clock_Clus' (fun _ _ => ?_) ?_ | with_reducible refine foldl3_clock_Clus' (fun _ _ => ?_) ?_ | with_reducible refine ite_clock_Core ?_ ?_ | with_reducible refine foldl_clock_Core' (fun _ _ => ?_) ?_ | with_reducible refine iter_clock_Core' (fun _ _ => ?_) ?_ | with_reducible refine foldl2_clock_Core' (fun _ _ => ?_) ?_ | with_reducible refine foldl3_clock_Core' (fun _ _ => ?_) ?_ | simp only [↓Core.pendClock_clock, ↓Pkg.rebook_clock, ↓Core.clock_eta, ↓Core.clock_mk, ↓Clus.clock_mk, ↓Clus.core_clock, ↓Clus.onCore_clock, ↓Pkg.clock_mk, ↓Pkg.cl_clock, ↓Pkg.onCore_clock] | with_reducible refine of_eq_clock_Pkg ‹_› ?_ | with_reducible refine of_eq1_clock_Pkg ‹_› ?_ | with_reducible refine of_eq_clock_Clus ‹_› ?_ | with_reducible refine of_eq1_clock_Clus ‹_› ?_ | with_reducible refine of_eq_clock_Core ‹_› ?_ | with_reducible refine of_eq1_clock_Core ‹_› ?_ | split | dsimp only)

theorem Pkg.pinsRise_clock (k) : (Pkg.pinsRise k).clock = k.clock := by
  unfold Pkg.pinsRise
  simp only [↓Pkg.clock_mk, ↓Pkg.cl_clock, apply_ite Pkg.clock, ite_self]

theorem Pkg.lnLate_clock (k) : (Pkg.lnLate k).clock = k.clock := by
  unfold Pkg.lnLate
  simp only [↓Clus.core_clock, ↓Pkg.cl_clock, ↓Clus.faultJob_clock, ↓Clus.onCore_clock, ↓Core.record_clock, ↓Pkg.onClus_clock, ↓Pkg.onNet_clock, ↓foldl_clock_Pkg, implies_true]

theorem Pkg.comparePilot_clock (k a1) : (Pkg.comparePilot k a1).clock = k.clock := by
  unfold Pkg.comparePilot
  repeat' (first | (simp only [↓Pkg.clock_mk, ↓Clus.core_clock, ↓Pkg.cl_clock, ↓Clus.fail_clock, ↓Core.biEvent_clock, ↓Core.incSat_clock, ↓Core.note_clock, ↓Core.setFld_clock, ↓Core.wr8_clock, ↓Pkg.onClus_clock, ↓Pkg.onCore_clock, apply_ite Pkg.clock, ite_self]; done) | with_reducible refine ite_clock_Pkg ?_ ?_ | split | dsimp only)

theorem Pkg.closeEndRegion_clock (k a1) : (Pkg.closeEndRegion k a1).clock = k.clock := by
  unfold Pkg.closeEndRegion
  repeat' (first | (simp only [↓Clus.clock_mk, ↓Clus.core_clock, ↓Pkg.cl_clock, ↓Pkg.comparePilot_clock, ↓Pkg.onClus_clock]; done) | with_reducible refine ite_clock_Pkg ?_ ?_ | with_reducible refine foldl_clock_Pkg' (fun _ _ => ?_) ?_ | with_reducible refine iter_clock_Pkg' (fun _ _ => ?_) ?_ | with_reducible refine ite_clock_Clus ?_ ?_ | with_reducible refine foldl_clock_Clus' (fun _ _ => ?_) ?_ | with_reducible refine iter_clock_Clus' (fun _ _ => ?_) ?_ | with_reducible refine ite_clock_Core ?_ ?_ | with_reducible refine foldl_clock_Core' (fun _ _ => ?_) ?_ | with_reducible refine iter_clock_Core' (fun _ _ => ?_) ?_ | simp only [↓Pkg.onClus_clock] | with_reducible refine of_eq_clock_Pkg ‹_› ?_ | with_reducible refine of_eq_clock_Clus ‹_› ?_ | with_reducible refine of_eq_clock_Core ‹_› ?_ | split | dsimp only)

theorem Pkg.cutEvent_clock (k a1 a2 a3) : (Pkg.cutEvent k a1 a2 a3).clock = k.clock := by
  unfold Pkg.cutEvent
  simp only [↓Clus.core_clock, ↓Pkg.cl_clock, ↓Core.fwEvent_clock, ↓Pkg.onCore_clock]

theorem Pkg.cutClose_clock (k) : (Pkg.cutClose k).clock = k.clock := by
  unfold Pkg.cutClose
  simp only [↓Pkg.cmdEnd_clock, ↓Pkg.cutEvent_clock, ↓Pkg.dropCut_clock, ↓foldl_clock_Pkg, implies_true, apply_ite Pkg.clock, ite_self]

theorem Pkg.stopSlot_clock (k a1 a2 a3 a4) : (Pkg.stopSlot k a1 a2 a3 a4).clock = k.clock := by
  unfold Pkg.stopSlot
  simp only [↓Pkg.cl_clock, ↓Clus.stopUnits_clock, ↓Pkg.onClus_clock, ↓Pkg.onNet_clock]

theorem Pkg.judge_clock (k a1 a2 a3 a4) : (Pkg.judge k a1 a2 a3 a4).clock = k.clock := by
  unfold Pkg.judge
  repeat' (first | (simp only [↓Pkg.cl_clock, ↓Clus.causeEvent_clock, ↓Clus.fail_clock, ↓Pkg.onClus_clock, ↓Pkg.stopSlot_clock, apply_ite Clus.clock, ite_self]; done) | with_reducible refine ite_clock_Pkg ?_ ?_ | split)

theorem Clus.handlersStop_clock (k a1) : (Clus.handlersStop k a1).clock = k.clock := by
  unfold Clus.handlersStop
  repeat' (first | with_reducible rfl | (simp only [↓Clus.sStop_clock, ↓Core.clock_eta, ↓Core.clock_mk, ↓Clus.clock_mk, ↓Clus.core_clock, ↓foldl_clock_Core, ↓iter_clock_Core, ↓foldl_clock_Clus, ↓iter_clock_Clus, implies_true, apply_ite Clus.clock, ite_self]; done) | with_reducible refine ite_clock_Clus ?_ ?_ | with_reducible refine foldl_clock_Clus' (fun _ _ => ?_) ?_ | with_reducible refine iter_clock_Clus' (fun _ _ => ?_) ?_ | with_reducible refine foldl2_clock_Clus' (fun _ _ => ?_) ?_ | with_reducible refine foldl3_clock_Clus' (fun _ _ => ?_) ?_ | with_reducible refine ite_clock_Core ?_ ?_ | with_reducible refine foldl_clock_Core' (fun _ _ => ?_) ?_ | with_reducible refine iter_clock_Core' (fun _ _ => ?_) ?_ | with_reducible refine foldl2_clock_Core' (fun _ _ => ?_) ?_ | with_reducible refine foldl3_clock_Core' (fun _ _ => ?_) ?_ | simp only [↓Clus.sStop_clock, ↓Core.clock_eta, ↓Core.clock_mk, ↓Clus.clock_mk, ↓Clus.core_clock] | with_reducible refine of_eq_clock_Clus ‹_› ?_ | with_reducible refine of_eq1_clock_Clus ‹_› ?_ | with_reducible refine of_eq_clock_Core ‹_› ?_ | with_reducible refine of_eq1_clock_Core ‹_› ?_ | split | dsimp only)

theorem Pkg.closeRegion_clock (k a1) : (Pkg.closeRegion k a1).clock = k.clock := by
  unfold Pkg.closeRegion
  repeat' (first | with_reducible rfl | (simp only [↓Clus.handlersStop_clock, ↓Pkg.judge_clock, ↓Core.clock_eta, ↓Core.clock_mk, ↓Clus.clock_mk, ↓Clus.core_clock, ↓Pkg.clock_mk, ↓Pkg.cl_clock, ↓Pkg.onClus_clock, ↓foldl_clock_Core, ↓iter_clock_Core, ↓foldl_clock_Clus, ↓iter_clock_Clus, ↓foldl_clock_Pkg, ↓iter_clock_Pkg, implies_true, apply_ite Pkg.clock, ite_self]; done) | with_reducible refine ite_clock_Pkg ?_ ?_ | with_reducible refine foldl_clock_Pkg' (fun _ _ => ?_) ?_ | with_reducible refine iter_clock_Pkg' (fun _ _ => ?_) ?_ | with_reducible refine foldl2_clock_Pkg' (fun _ _ => ?_) ?_ | with_reducible refine foldl3_clock_Pkg' (fun _ _ => ?_) ?_ | with_reducible refine ite_clock_Clus ?_ ?_ | with_reducible refine foldl_clock_Clus' (fun _ _ => ?_) ?_ | with_reducible refine iter_clock_Clus' (fun _ _ => ?_) ?_ | with_reducible refine foldl2_clock_Clus' (fun _ _ => ?_) ?_ | with_reducible refine foldl3_clock_Clus' (fun _ _ => ?_) ?_ | with_reducible refine ite_clock_Core ?_ ?_ | with_reducible refine foldl_clock_Core' (fun _ _ => ?_) ?_ | with_reducible refine iter_clock_Core' (fun _ _ => ?_) ?_ | with_reducible refine foldl2_clock_Core' (fun _ _ => ?_) ?_ | with_reducible refine foldl3_clock_Core' (fun _ _ => ?_) ?_ | simp only [↓Clus.handlersStop_clock, ↓Pkg.judge_clock, ↓Core.clock_eta, ↓Core.clock_mk, ↓Clus.clock_mk, ↓Clus.core_clock, ↓Pkg.clock_mk, ↓Pkg.cl_clock, ↓Pkg.onClus_clock] | with_reducible refine of_eq_clock_Pkg ‹_› ?_ | with_reducible refine of_eq1_clock_Pkg ‹_› ?_ | with_reducible refine of_eq_clock_Clus ‹_› ?_ | with_reducible refine of_eq1_clock_Clus ‹_› ?_ | with_reducible refine of_eq_clock_Core ‹_› ?_ | with_reducible refine of_eq1_clock_Core ‹_› ?_ | split | dsimp only)

theorem Pkg.fencePut_clock (k a1 a2) : (Pkg.fencePut k a1 a2).clock = k.clock := by
  unfold Pkg.fencePut
  simp only [↓Clus.core_clock, ↓Pkg.cl_clock, ↓Core.fwEvent_clock, ↓Pkg.onBi_clock, ↓Pkg.onCore_clock, apply_ite Pkg.clock, ite_self]

theorem Pkg.fenceField_clock (k a1 a2 a3) : (Pkg.fenceField k a1 a2 a3).clock = k.clock := by
  unfold Pkg.fenceField
  simp only [↓Pkg.fencePut_clock]

theorem Pkg.fenceClu_clock (k a1 a2 a3) : (Pkg.fenceClu k a1 a2 a3).clock = k.clock := by
  unfold Pkg.fenceClu
  repeat' (first | with_reducible rfl | (simp only [↓Core.setFence_clock, ↓Core.setFld_clock, ↓Pkg.fenceField_clock, ↓Core.clock_eta, ↓Core.clock_mk, ↓Clus.clock_mk, ↓Clus.core_clock, ↓Clus.onCore_clock, ↓Pkg.clock_mk, ↓Pkg.cl_clock, ↓Pkg.onCore_clock, ↓foldl_clock_Core, ↓iter_clock_Core, ↓foldl_clock_Clus, ↓iter_clock_Clus, ↓foldl_clock_Pkg, ↓iter_clock_Pkg, implies_true, apply_ite Pkg.clock, ite_self]; done) | with_reducible refine ite_clock_Pkg ?_ ?_ | with_reducible refine foldl_clock_Pkg' (fun _ _ => ?_) ?_ | with_reducible refine iter_clock_Pkg' (fun _ _ => ?_) ?_ | with_reducible refine foldl2_clock_Pkg' (fun _ _ => ?_) ?_ | with_reducible refine foldl3_clock_Pkg' (fun _ _ => ?_) ?_ | with_reducible refine ite_clock_Clus ?_ ?_ | with_reducible refine foldl_clock_Clus' (fun _ _ => ?_) ?_ | with_reducible refine iter_clock_Clus' (fun _ _ => ?_) ?_ | with_reducible refine foldl2_clock_Clus' (fun _ _ => ?_) ?_ | with_reducible refine foldl3_clock_Clus' (fun _ _ => ?_) ?_ | with_reducible refine ite_clock_Core ?_ ?_ | with_reducible refine foldl_clock_Core' (fun _ _ => ?_) ?_ | with_reducible refine iter_clock_Core' (fun _ _ => ?_) ?_ | with_reducible refine foldl2_clock_Core' (fun _ _ => ?_) ?_ | with_reducible refine foldl3_clock_Core' (fun _ _ => ?_) ?_ | simp only [↓Core.setFence_clock, ↓Core.setFld_clock, ↓Pkg.fenceField_clock, ↓Core.clock_eta, ↓Core.clock_mk, ↓Clus.clock_mk, ↓Clus.core_clock, ↓Clus.onCore_clock, ↓Pkg.clock_mk, ↓Pkg.cl_clock, ↓Pkg.onCore_clock] | with_reducible refine of_eq_clock_Pkg ‹_› ?_ | with_reducible refine of_eq1_clock_Pkg ‹_› ?_ | with_reducible refine of_eq_clock_Clus ‹_› ?_ | with_reducible refine of_eq1_clock_Clus ‹_› ?_ | with_reducible refine of_eq_clock_Core ‹_› ?_ | with_reducible refine of_eq1_clock_Core ‹_› ?_ | split | dsimp only)

theorem Pkg.clusterRelief_clock (k a1) : (Pkg.clusterRelief k a1).clock = k.clock := by
  unfold Pkg.clusterRelief
  repeat' (first | with_reducible rfl | (simp only [↓Clus.stopUnits_clock, ↓Core.mirrorSet_clock, ↓Core.pilotOff_clock, ↓Core.setFence_clock, ↓Pkg.abandon_clock, ↓Pkg.biShow_clock, ↓Pkg.fenceClu_clock, ↓Pkg.setMove_clock, ↓Pkg.stopTest_clock, ↓Core.clock_eta, ↓Core.clock_mk, ↓Clus.clock_mk, ↓Clus.core_clock, ↓Clus.onCore_clock, ↓Pkg.clock_mk, ↓Pkg.cl_clock, ↓Pkg.onCore_clock, ↓Pkg.onClus_clock, ↓foldl_clock_Core, ↓iter_clock_Core, ↓foldl_clock_Clus, ↓iter_clock_Clus, ↓foldl_clock_Pkg, ↓iter_clock_Pkg, implies_true, apply_ite Pkg.clock, ite_self]; done) | with_reducible refine ite_clock_Pkg ?_ ?_ | with_reducible refine foldl_clock_Pkg' (fun _ _ => ?_) ?_ | with_reducible refine iter_clock_Pkg' (fun _ _ => ?_) ?_ | with_reducible refine foldl2_clock_Pkg' (fun _ _ => ?_) ?_ | with_reducible refine foldl3_clock_Pkg' (fun _ _ => ?_) ?_ | with_reducible refine ite_clock_Clus ?_ ?_ | with_reducible refine foldl_clock_Clus' (fun _ _ => ?_) ?_ | with_reducible refine iter_clock_Clus' (fun _ _ => ?_) ?_ | with_reducible refine foldl2_clock_Clus' (fun _ _ => ?_) ?_ | with_reducible refine foldl3_clock_Clus' (fun _ _ => ?_) ?_ | with_reducible refine ite_clock_Core ?_ ?_ | with_reducible refine foldl_clock_Core' (fun _ _ => ?_) ?_ | with_reducible refine iter_clock_Core' (fun _ _ => ?_) ?_ | with_reducible refine foldl2_clock_Core' (fun _ _ => ?_) ?_ | with_reducible refine foldl3_clock_Core' (fun _ _ => ?_) ?_ | simp only [↓Clus.stopUnits_clock, ↓Core.mirrorSet_clock, ↓Core.pilotOff_clock, ↓Core.setFence_clock, ↓Pkg.abandon_clock, ↓Pkg.biShow_clock, ↓Pkg.fenceClu_clock, ↓Pkg.setMove_clock, ↓Pkg.stopTest_clock, ↓Core.clock_eta, ↓Core.clock_mk, ↓Clus.clock_mk, ↓Clus.core_clock, ↓Clus.onCore_clock, ↓Pkg.clock_mk, ↓Pkg.cl_clock, ↓Pkg.onCore_clock, ↓Pkg.onClus_clock] | with_reducible refine of_eq_clock_Pkg ‹_› ?_ | with_reducible refine of_eq1_clock_Pkg ‹_› ?_ | with_reducible refine of_eq_clock_Clus ‹_› ?_ | with_reducible refine of_eq1_clock_Clus ‹_› ?_ | with_reducible refine of_eq_clock_Core ‹_› ?_ | with_reducible refine of_eq1_clock_Core ‹_› ?_ | split | dsimp only)

theorem Pkg.cmdRun_clock (k a1 a2 a3 a4) : (Pkg.cmdRun k a1 a2 a3 a4).clock = k.clock := by
  unfold Pkg.cmdRun
  simp only [↓Pkg.onAtt_clock, apply_ite Pkg.clock, ite_self]

theorem Pkg.countRetry_clock (k a1 a2 a3 a4) : (Pkg.countRetry k a1 a2 a3 a4).clock = k.clock := by
  unfold Pkg.countRetry
  simp only [↓Clus.core_clock, ↓Pkg.cl_clock, ↓Clus.onCore_clock, ↓Core.incSat_clock, ↓Core.record_clock, ↓Pkg.onClus_clock, ↓Pkg.onNet_clock, apply_ite Pkg.clock, ite_self]

theorem Pkg.exhaust_clock (k a1 a2 a3) : (Pkg.exhaust k a1 a2 a3).clock = k.clock := by
  unfold Pkg.exhaust
  repeat' (first | with_reducible rfl | (simp only [↓Pkg.dropPacket_clock, ↓Core.clock_eta, ↓Core.clock_mk, ↓Clus.clock_mk, ↓Clus.core_clock, ↓Pkg.clock_mk, ↓Pkg.cl_clock, ↓foldl_clock_Core, ↓iter_clock_Core, ↓foldl_clock_Clus, ↓iter_clock_Clus, ↓foldl_clock_Pkg, ↓iter_clock_Pkg, implies_true, apply_ite Pkg.clock, ite_self]; done) | with_reducible refine ite_clock_Pkg ?_ ?_ | with_reducible refine foldl_clock_Pkg' (fun _ _ => ?_) ?_ | with_reducible refine iter_clock_Pkg' (fun _ _ => ?_) ?_ | with_reducible refine foldl2_clock_Pkg' (fun _ _ => ?_) ?_ | with_reducible refine foldl3_clock_Pkg' (fun _ _ => ?_) ?_ | with_reducible refine ite_clock_Clus ?_ ?_ | with_reducible refine foldl_clock_Clus' (fun _ _ => ?_) ?_ | with_reducible refine iter_clock_Clus' (fun _ _ => ?_) ?_ | with_reducible refine foldl2_clock_Clus' (fun _ _ => ?_) ?_ | with_reducible refine foldl3_clock_Clus' (fun _ _ => ?_) ?_ | with_reducible refine ite_clock_Core ?_ ?_ | with_reducible refine foldl_clock_Core' (fun _ _ => ?_) ?_ | with_reducible refine iter_clock_Core' (fun _ _ => ?_) ?_ | with_reducible refine foldl2_clock_Core' (fun _ _ => ?_) ?_ | with_reducible refine foldl3_clock_Core' (fun _ _ => ?_) ?_ | simp only [↓Pkg.dropPacket_clock, ↓Core.clock_eta, ↓Core.clock_mk, ↓Clus.clock_mk, ↓Clus.core_clock, ↓Pkg.clock_mk, ↓Pkg.cl_clock] | with_reducible refine of_eq_clock_Pkg ‹_› ?_ | with_reducible refine of_eq1_clock_Pkg ‹_› ?_ | with_reducible refine of_eq_clock_Clus ‹_› ?_ | with_reducible refine of_eq1_clock_Clus ‹_› ?_ | with_reducible refine of_eq_clock_Core ‹_› ?_ | with_reducible refine of_eq1_clock_Core ‹_› ?_ | split | dsimp only)

theorem Pkg.cross_clock (a0 : Packet) (k : Pkg × Bool) (a2 : Nat × Nat) : (Pkg.cross a0 k a2).1.clock = k.1.clock := by
  unfold Pkg.cross
  repeat' (first | with_reducible rfl | (simp only [↓Core.setFld_clock, ↓Pkg.countRetry_clock, ↓Pkg.exhaust_clock, ↓Core.clock_eta, ↓Core.clock_mk, ↓Clus.clock_mk, ↓Clus.core_clock, ↓Clus.onCore_clock, ↓Pkg.clock_mk, ↓Pkg.cl_clock, ↓Pkg.onCore_clock, ↓Pkg.onClus_clock, ↓Pkg.onNet_clock, ↓foldl_clock_Core, ↓iter_clock_Core, ↓foldl_clock_Clus, ↓iter_clock_Clus, ↓foldl_clock_Pkg, ↓iter_clock_Pkg, implies_true, apply_ite Pkg.clock, ite_self, apply_ite Prod.fst, apply_ite Prod.snd]; done) | with_reducible refine ite_clock_Pkg ?_ ?_ | with_reducible refine foldl_clock_Pkg' (fun _ _ => ?_) ?_ | with_reducible refine iter_clock_Pkg' (fun _ _ => ?_) ?_ | with_reducible refine foldl2_clock_Pkg' (fun _ _ => ?_) ?_ | with_reducible refine foldl3_clock_Pkg' (fun _ _ => ?_) ?_ | with_reducible refine ite_clock_Clus ?_ ?_ | with_reducible refine foldl_clock_Clus' (fun _ _ => ?_) ?_ | with_reducible refine iter_clock_Clus' (fun _ _ => ?_) ?_ | with_reducible refine foldl2_clock_Clus' (fun _ _ => ?_) ?_ | with_reducible refine foldl3_clock_Clus' (fun _ _ => ?_) ?_ | with_reducible refine ite_clock_Core ?_ ?_ | with_reducible refine foldl_clock_Core' (fun _ _ => ?_) ?_ | with_reducible refine iter_clock_Core' (fun _ _ => ?_) ?_ | with_reducible refine foldl2_clock_Core' (fun _ _ => ?_) ?_ | with_reducible refine foldl3_clock_Core' (fun _ _ => ?_) ?_ | simp only [↓Core.setFld_clock, ↓Pkg.countRetry_clock, ↓Pkg.exhaust_clock, ↓Core.clock_eta, ↓Core.clock_mk, ↓Clus.clock_mk, ↓Clus.core_clock, ↓Clus.onCore_clock, ↓Pkg.clock_mk, ↓Pkg.cl_clock, ↓Pkg.onCore_clock, ↓Pkg.onClus_clock, ↓Pkg.onNet_clock] | with_reducible refine of_eq_clock_Pkg ‹_› ?_ | with_reducible refine of_eq1_clock_Pkg ‹_› ?_ | with_reducible refine of_eq_clock_Clus ‹_› ?_ | with_reducible refine of_eq1_clock_Clus ‹_› ?_ | with_reducible refine of_eq_clock_Core ‹_› ?_ | with_reducible refine of_eq1_clock_Core ‹_› ?_ | split | dsimp only)

theorem Pkg.injectAt_clock (k a1 a2 a3) : (Pkg.injectAt k a1 a2 a3).clock = k.clock := by
  unfold Pkg.injectAt
  repeat' (first | with_reducible rfl | (simp only [↓Core.setFld_clock, ↓Pkg.badPacket_clock, ↓Pkg.cross_clock, ↓Core.clock_eta, ↓Core.clock_mk, ↓Clus.clock_mk, ↓Clus.core_clock, ↓Clus.onCore_clock, ↓Pkg.clock_mk, ↓Pkg.cl_clock, ↓Pkg.onCore_clock, ↓Pkg.onClus_clock, ↓Pkg.onNet_clock, ↓foldl_clock_Core, ↓iter_clock_Core, ↓foldl_clock_Clus, ↓iter_clock_Clus, ↓foldl_clock_Pkg, ↓iter_clock_Pkg, implies_true, apply_ite Pkg.clock, ite_self, apply_ite Prod.fst, apply_ite Prod.snd]; done) | with_reducible refine ite_clock_Pkg ?_ ?_ | with_reducible refine foldl_clock_Pkg' (fun _ _ => ?_) ?_ | with_reducible refine iter_clock_Pkg' (fun _ _ => ?_) ?_ | with_reducible refine foldl2_clock_Pkg' (fun _ _ => ?_) ?_ | with_reducible refine foldl3_clock_Pkg' (fun _ _ => ?_) ?_ | with_reducible refine ite_clock_Clus ?_ ?_ | with_reducible refine foldl_clock_Clus' (fun _ _ => ?_) ?_ | with_reducible refine iter_clock_Clus' (fun _ _ => ?_) ?_ | with_reducible refine foldl2_clock_Clus' (fun _ _ => ?_) ?_ | with_reducible refine foldl3_clock_Clus' (fun _ _ => ?_) ?_ | with_reducible refine ite_clock_Core ?_ ?_ | with_reducible refine foldl_clock_Core' (fun _ _ => ?_) ?_ | with_reducible refine iter_clock_Core' (fun _ _ => ?_) ?_ | with_reducible refine foldl2_clock_Core' (fun _ _ => ?_) ?_ | with_reducible refine foldl3_clock_Core' (fun _ _ => ?_) ?_ | simp only [↓Core.setFld_clock, ↓Pkg.badPacket_clock, ↓Pkg.cross_clock, ↓Core.clock_eta, ↓Core.clock_mk, ↓Clus.clock_mk, ↓Clus.core_clock, ↓Clus.onCore_clock, ↓Pkg.clock_mk, ↓Pkg.cl_clock, ↓Pkg.onCore_clock, ↓Pkg.onClus_clock, ↓Pkg.onNet_clock] | with_reducible refine of_eq_clock_Pkg ‹_› ?_ | with_reducible refine of_eq1_clock_Pkg ‹_› ?_ | with_reducible refine of_eq_clock_Clus ‹_› ?_ | with_reducible refine of_eq1_clock_Clus ‹_› ?_ | with_reducible refine of_eq_clock_Core ‹_› ?_ | with_reducible refine of_eq1_clock_Core ‹_› ?_ | split | dsimp only)

theorem Pkg.inject_clock (k a1 a2 a3 a4) : (Pkg.inject k a1 a2 a3 a4).clock = k.clock := by
  unfold Pkg.inject
  simp only [↓Pkg.injectAt_clock]

theorem Pkg.xferFinish_clock (k a1) : (Pkg.xferFinish k a1).clock = k.clock := by
  unfold Pkg.xferFinish
  repeat' (first | (simp only [↓Pkg.cachePut_clock, ↓Pkg.inject_clock, apply_ite Pkg.clock]; done) | with_reducible refine ite_clock_Pkg ?_ ?_ | with_reducible refine foldl_clock_Pkg' (fun _ _ => ?_) ?_ | with_reducible refine iter_clock_Pkg' (fun _ _ => ?_) ?_ | simp only [↓Pkg.inject_clock] | split | dsimp only)

theorem Pkg.xferTry_clock (k a1) : (Pkg.xferTry k a1).clock = k.clock := by
  unfold Pkg.xferTry
  repeat' (first | (simp only [↓Pkg.atRequest_clock, ↓Pkg.onAtt_clock, ↓Pkg.xferFinish_clock, apply_ite Pkg.clock]; done) | with_reducible refine ite_clock_Pkg ?_ ?_ | with_reducible refine foldl_clock_Pkg' (fun _ _ => ?_) ?_ | with_reducible refine iter_clock_Pkg' (fun _ _ => ?_) ?_ | with_reducible refine foldl2_clock_Pkg' (fun _ _ => ?_) ?_ | with_reducible refine foldl3_clock_Pkg' (fun _ _ => ?_) ?_ | simp only [↓Pkg.onAtt_clock] | with_reducible refine of_eq_clock_Pkg ‹_› ?_ | split | dsimp only)

theorem Pkg.reqDone_clock (k a1) : (Pkg.reqDone k a1).clock = k.clock := by
  unfold Pkg.reqDone
  simp only [↓Pkg.onAtt_clock, ↓Pkg.xferTry_clock, ↓foldl_clock_Pkg, implies_true]

theorem Pkg.cmp_clock (k a1) : (Pkg.cmp k a1).clock = k.clock := by
  unfold Pkg.cmp
  repeat' (first | (simp only [↓Pkg.onAtt_clock, ↓Pkg.reqDone_clock, apply_ite Pkg.clock, ite_self]; done) | with_reducible refine ite_clock_Pkg ?_ ?_ | split)

theorem Pkg.setLanes_clock (k a1 a2) : (Pkg.setLanes k a1 a2).clock = k.clock := by
  unfold Pkg.setLanes
  simp only [↓Pkg.setLink_clock, ↓Pkg.showLanes_clock]

theorem Pkg.widthApply_clock (k a1) : (Pkg.widthApply k a1).clock = k.clock := by
  unfold Pkg.widthApply
  repeat' (first | with_reducible rfl | (simp only [↓Pkg.setLanes_clock, ↓Core.clock_eta, ↓Core.clock_mk, ↓Clus.clock_mk, ↓Clus.core_clock, ↓Pkg.clock_mk, ↓Pkg.cl_clock, ↓foldl_clock_Core, ↓iter_clock_Core, ↓foldl_clock_Clus, ↓iter_clock_Clus, ↓foldl_clock_Pkg, ↓iter_clock_Pkg, implies_true, apply_ite Pkg.clock, ite_self]; done) | with_reducible refine ite_clock_Pkg ?_ ?_ | with_reducible refine foldl_clock_Pkg' (fun _ _ => ?_) ?_ | with_reducible refine iter_clock_Pkg' (fun _ _ => ?_) ?_ | with_reducible refine foldl2_clock_Pkg' (fun _ _ => ?_) ?_ | with_reducible refine foldl3_clock_Pkg' (fun _ _ => ?_) ?_ | with_reducible refine ite_clock_Clus ?_ ?_ | with_reducible refine foldl_clock_Clus' (fun _ _ => ?_) ?_ | with_reducible refine iter_clock_Clus' (fun _ _ => ?_) ?_ | with_reducible refine foldl2_clock_Clus' (fun _ _ => ?_) ?_ | with_reducible refine foldl3_clock_Clus' (fun _ _ => ?_) ?_ | with_reducible refine ite_clock_Core ?_ ?_ | with_reducible refine foldl_clock_Core' (fun _ _ => ?_) ?_ | with_reducible refine iter_clock_Core' (fun _ _ => ?_) ?_ | with_reducible refine foldl2_clock_Core' (fun _ _ => ?_) ?_ | with_reducible refine foldl3_clock_Core' (fun _ _ => ?_) ?_ | simp only [↓Pkg.setLanes_clock, ↓Core.clock_eta, ↓Core.clock_mk, ↓Clus.clock_mk, ↓Clus.core_clock, ↓Pkg.clock_mk, ↓Pkg.cl_clock] | with_reducible refine of_eq_clock_Pkg ‹_› ?_ | with_reducible refine of_eq1_clock_Pkg ‹_› ?_ | with_reducible refine of_eq_clock_Clus ‹_› ?_ | with_reducible refine of_eq1_clock_Clus ‹_› ?_ | with_reducible refine of_eq_clock_Core ‹_› ?_ | with_reducible refine of_eq1_clock_Core ‹_› ?_ | split | dsimp only)

theorem Pkg.codeWord_clock (k a1 a2 a3 a4) : (Pkg.codeWord k a1 a2 a3 a4).clock = k.clock := by
  unfold Pkg.codeWord
  repeat' (first | with_reducible rfl | (simp only [↓Core.incSat_clock, ↓Pkg.laneDrop_clock, ↓Pkg.setLink_clock, ↓Pkg.widthApply_clock, ↓Core.clock_eta, ↓Core.clock_mk, ↓Clus.clock_mk, ↓Clus.core_clock, ↓Clus.onCore_clock, ↓Pkg.clock_mk, ↓Pkg.cl_clock, ↓Pkg.onCore_clock, ↓foldl_clock_Core, ↓iter_clock_Core, ↓foldl_clock_Clus, ↓iter_clock_Clus, ↓foldl_clock_Pkg, ↓iter_clock_Pkg, implies_true, apply_ite Pkg.clock, ite_self]; done) | with_reducible refine ite_clock_Pkg ?_ ?_ | with_reducible refine foldl_clock_Pkg' (fun _ _ => ?_) ?_ | with_reducible refine iter_clock_Pkg' (fun _ _ => ?_) ?_ | with_reducible refine foldl2_clock_Pkg' (fun _ _ => ?_) ?_ | with_reducible refine foldl3_clock_Pkg' (fun _ _ => ?_) ?_ | with_reducible refine ite_clock_Clus ?_ ?_ | with_reducible refine foldl_clock_Clus' (fun _ _ => ?_) ?_ | with_reducible refine iter_clock_Clus' (fun _ _ => ?_) ?_ | with_reducible refine foldl2_clock_Clus' (fun _ _ => ?_) ?_ | with_reducible refine foldl3_clock_Clus' (fun _ _ => ?_) ?_ | with_reducible refine ite_clock_Core ?_ ?_ | with_reducible refine foldl_clock_Core' (fun _ _ => ?_) ?_ | with_reducible refine iter_clock_Core' (fun _ _ => ?_) ?_ | with_reducible refine foldl2_clock_Core' (fun _ _ => ?_) ?_ | with_reducible refine foldl3_clock_Core' (fun _ _ => ?_) ?_ | simp only [↓Core.incSat_clock, ↓Pkg.laneDrop_clock, ↓Pkg.setLink_clock, ↓Pkg.widthApply_clock, ↓Core.clock_eta, ↓Core.clock_mk, ↓Clus.clock_mk, ↓Clus.core_clock, ↓Clus.onCore_clock, ↓Pkg.clock_mk, ↓Pkg.cl_clock, ↓Pkg.onCore_clock] | with_reducible refine of_eq_clock_Pkg ‹_› ?_ | with_reducible refine of_eq1_clock_Pkg ‹_› ?_ | with_reducible refine of_eq_clock_Clus ‹_› ?_ | with_reducible refine of_eq1_clock_Clus ‹_› ?_ | with_reducible refine of_eq_clock_Core ‹_› ?_ | with_reducible refine of_eq1_clock_Core ‹_› ?_ | split | dsimp only)

theorem Pkg.setCollRun_clock (k a1 a2 a3) : (Pkg.setCollRun k a1 a2 a3).clock = k.clock := by
  unfold Pkg.setCollRun
  simp only [↓Clus.core_clock, ↓Pkg.cl_clock, ↓Core.setFld_clock, ↓Pkg.onCore_clock, ↓Pkg.onFab_clock]

theorem Pkg.lineRead_clock (k a1 a2 a3 a4 a5 a6) : (Pkg.lineRead k a1 a2 a3 a4 a5 a6).2.2.clock = k.clock := by
  unfold Pkg.lineRead
  repeat' (first | with_reducible rfl | (simp only [↓Clus.readOp_clock, ↓Core.clock_eta, ↓Core.clock_mk, ↓Clus.clock_mk, ↓Clus.core_clock, ↓Pkg.clock_mk, ↓Pkg.cl_clock, ↓foldl_clock_Core, ↓iter_clock_Core, ↓foldl_clock_Clus, ↓iter_clock_Clus, ↓foldl_clock_Pkg, ↓iter_clock_Pkg, implies_true, apply_ite Pkg.clock, ite_self, apply_ite Prod.fst, apply_ite Prod.snd]; done) | with_reducible refine ite_clock_Pkg ?_ ?_ | with_reducible refine foldl_clock_Pkg' (fun _ _ => ?_) ?_ | with_reducible refine iter_clock_Pkg' (fun _ _ => ?_) ?_ | with_reducible refine foldl2_clock_Pkg' (fun _ _ => ?_) ?_ | with_reducible refine foldl3_clock_Pkg' (fun _ _ => ?_) ?_ | with_reducible refine ite_clock_Clus ?_ ?_ | with_reducible refine foldl_clock_Clus' (fun _ _ => ?_) ?_ | with_reducible refine iter_clock_Clus' (fun _ _ => ?_) ?_ | with_reducible refine foldl2_clock_Clus' (fun _ _ => ?_) ?_ | with_reducible refine foldl3_clock_Clus' (fun _ _ => ?_) ?_ | with_reducible refine ite_clock_Core ?_ ?_ | with_reducible refine foldl_clock_Core' (fun _ _ => ?_) ?_ | with_reducible refine iter_clock_Core' (fun _ _ => ?_) ?_ | with_reducible refine foldl2_clock_Core' (fun _ _ => ?_) ?_ | with_reducible refine foldl3_clock_Core' (fun _ _ => ?_) ?_ | simp only [↓Clus.readOp_clock, ↓Core.clock_eta, ↓Core.clock_mk, ↓Clus.clock_mk, ↓Clus.core_clock, ↓Pkg.clock_mk, ↓Pkg.cl_clock] | with_reducible refine of_eq_clock_Pkg ‹_› ?_ | with_reducible refine of_eq1_clock_Pkg ‹_› ?_ | with_reducible refine of_eq_clock_Clus ‹_› ?_ | with_reducible refine of_eq1_clock_Clus ‹_› ?_ | with_reducible refine of_eq_clock_Core ‹_› ?_ | with_reducible refine of_eq1_clock_Core ‹_› ?_ | split | dsimp only)

theorem Pkg.collRead_clock (k a1 a2 a3 a4) : (Pkg.collRead k a1 a2 a3 a4).2.clock = k.clock := by
  unfold Pkg.collRead
  repeat' (first | with_reducible rfl | (simp only [↓Pkg.dpaRead_clock, ↓Pkg.lineRead_clock, ↓Core.clock_eta, ↓Core.clock_mk, ↓Clus.clock_mk, ↓Clus.core_clock, ↓Pkg.clock_mk, ↓Pkg.cl_clock, ↓foldl_clock_Core, ↓iter_clock_Core, ↓foldl_clock_Clus, ↓iter_clock_Clus, ↓foldl_clock_Pkg, ↓iter_clock_Pkg, implies_true, apply_ite Pkg.clock, ite_self, apply_ite Prod.fst, apply_ite Prod.snd]; done) | with_reducible refine ite_clock_Pkg ?_ ?_ | with_reducible refine foldl_clock_Pkg' (fun _ _ => ?_) ?_ | with_reducible refine iter_clock_Pkg' (fun _ _ => ?_) ?_ | with_reducible refine foldl2_clock_Pkg' (fun _ _ => ?_) ?_ | with_reducible refine foldl3_clock_Pkg' (fun _ _ => ?_) ?_ | with_reducible refine ite_clock_Clus ?_ ?_ | with_reducible refine foldl_clock_Clus' (fun _ _ => ?_) ?_ | with_reducible refine iter_clock_Clus' (fun _ _ => ?_) ?_ | with_reducible refine foldl2_clock_Clus' (fun _ _ => ?_) ?_ | with_reducible refine foldl3_clock_Clus' (fun _ _ => ?_) ?_ | with_reducible refine ite_clock_Core ?_ ?_ | with_reducible refine foldl_clock_Core' (fun _ _ => ?_) ?_ | with_reducible refine iter_clock_Core' (fun _ _ => ?_) ?_ | with_reducible refine foldl2_clock_Core' (fun _ _ => ?_) ?_ | with_reducible refine foldl3_clock_Core' (fun _ _ => ?_) ?_ | simp only [↓Pkg.dpaRead_clock, ↓Pkg.lineRead_clock, ↓Core.clock_eta, ↓Core.clock_mk, ↓Clus.clock_mk, ↓Clus.core_clock, ↓Pkg.clock_mk, ↓Pkg.cl_clock] | with_reducible refine of_eq_clock_Pkg ‹_› ?_ | with_reducible refine of_eq1_clock_Pkg ‹_› ?_ | with_reducible refine of_eq_clock_Clus ‹_› ?_ | with_reducible refine of_eq1_clock_Clus ‹_› ?_ | with_reducible refine of_eq_clock_Core ‹_› ?_ | with_reducible refine of_eq1_clock_Core ‹_› ?_ | split | dsimp only)

theorem Pkg.noteMirror_clock (k a1 a2 a3 a4 a5) : (Pkg.noteMirror k a1 a2 a3 a4 a5).clock = k.clock := by
  unfold Pkg.noteMirror
  simp only [↓Pkg.onNet_clock, ↓iter_clock_Pkg, implies_true, apply_ite Pkg.clock, ite_self]

theorem Pkg.lineWrite_clock (k a1 a2 a3 a4 a5 a6) : (Pkg.lineWrite k a1 a2 a3 a4 a5 a6).2.clock = k.clock := by
  unfold Pkg.lineWrite
  repeat' (first | with_reducible rfl | (simp only [↓Clus.writeOp_clock, ↓Pkg.noteMirror_clock, ↓Core.clock_eta, ↓Core.clock_mk, ↓Clus.clock_mk, ↓Clus.core_clock, ↓Pkg.clock_mk, ↓Pkg.cl_clock, ↓foldl_clock_Core, ↓iter_clock_Core, ↓foldl_clock_Clus, ↓iter_clock_Clus, ↓foldl_clock_Pkg, ↓iter_clock_Pkg, implies_true, apply_ite Pkg.clock, ite_self, apply_ite Prod.fst, apply_ite Prod.snd]; done) | with_reducible refine ite_clock_Pkg ?_ ?_ | with_reducible refine foldl_clock_Pkg' (fun _ _ => ?_) ?_ | with_reducible refine iter_clock_Pkg' (fun _ _ => ?_) ?_ | with_reducible refine foldl2_clock_Pkg' (fun _ _ => ?_) ?_ | with_reducible refine foldl3_clock_Pkg' (fun _ _ => ?_) ?_ | with_reducible refine ite_clock_Clus ?_ ?_ | with_reducible refine foldl_clock_Clus' (fun _ _ => ?_) ?_ | with_reducible refine iter_clock_Clus' (fun _ _ => ?_) ?_ | with_reducible refine foldl2_clock_Clus' (fun _ _ => ?_) ?_ | with_reducible refine foldl3_clock_Clus' (fun _ _ => ?_) ?_ | with_reducible refine ite_clock_Core ?_ ?_ | with_reducible refine foldl_clock_Core' (fun _ _ => ?_) ?_ | with_reducible refine iter_clock_Core' (fun _ _ => ?_) ?_ | with_reducible refine foldl2_clock_Core' (fun _ _ => ?_) ?_ | with_reducible refine foldl3_clock_Core' (fun _ _ => ?_) ?_ | simp only [↓Clus.writeOp_clock, ↓Pkg.noteMirror_clock, ↓Core.clock_eta, ↓Core.clock_mk, ↓Clus.clock_mk, ↓Clus.core_clock, ↓Pkg.clock_mk, ↓Pkg.cl_clock] | with_reducible refine of_eq_clock_Pkg ‹_› ?_ | with_reducible refine of_eq1_clock_Pkg ‹_› ?_ | with_reducible refine of_eq_clock_Clus ‹_› ?_ | with_reducible refine of_eq1_clock_Clus ‹_› ?_ | with_reducible refine of_eq_clock_Core ‹_› ?_ | with_reducible refine of_eq1_clock_Core ‹_› ?_ | split | dsimp only)

theorem Pkg.collWrite_clock (k a1 a2 a3 a4) : (Pkg.collWrite k a1 a2 a3 a4).clock = k.clock := by
  unfold Pkg.collWrite
  simp only [↓Pkg.dpaWrite_clock, ↓Pkg.lineWrite_clock, ↓foldl_clock_Pkg, implies_true, apply_ite Pkg.clock, ite_self]

theorem Pkg.sendChunk_clock (k a1 a2 a3) : (Pkg.sendChunk k a1 a2 a3).clock = k.clock := by
  unfold Pkg.sendChunk
  repeat' (first | (simp only [↓Clus.core_clock, ↓Pkg.cl_clock, ↓Core.setFld_clock, ↓Pkg.onCore_clock, ↓Pkg.sendTo_clock, ↓foldl_clock_Pkg, implies_true]; done) | with_reducible refine ite_clock_Pkg ?_ ?_ | with_reducible refine foldl_clock_Pkg' (fun _ _ => ?_) ?_ | with_reducible refine iter_clock_Pkg' (fun _ _ => ?_) ?_ | simp only [↓Pkg.sendTo_clock] | split | dsimp only)

theorem Pkg.stageChunk_clock (k a1 a2 a3 a4) : (Pkg.stageChunk k a1 a2 a3 a4).clock = k.clock := by
  unfold Pkg.stageChunk
  repeat' (first | (simp only [↓Pkg.sendChunk_clock, ↓Pkg.setCollRun_clock]; done) | with_reducible refine ite_clock_Pkg ?_ ?_ | split)

theorem Pkg.collNext_clock (k a1 a2) : (Pkg.collNext k a1 a2).clock = k.clock := by
  unfold Pkg.collNext
  repeat' (first | with_reducible rfl | (simp only [↓Pkg.collRead_clock, ↓Pkg.collWrite_clock, ↓Pkg.setCollRun_clock, ↓Pkg.stageChunk_clock, ↓Core.clock_eta, ↓Core.clock_mk, ↓Clus.clock_mk, ↓Clus.core_clock, ↓Pkg.clock_mk, ↓Pkg.cl_clock, ↓foldl_clock_Core, ↓iter_clock_Core, ↓foldl_clock_Clus, ↓iter_clock_Clus, ↓foldl_clock_Pkg, ↓iter_clock_Pkg, implies_true, apply_ite Pkg.clock, ite_self, apply_ite Prod.fst, apply_ite Prod.snd]; done) | with_reducible refine ite_clock_Pkg ?_ ?_ | with_reducible refine foldl_clock_Pkg' (fun _ _ => ?_) ?_ | with_reducible refine iter_clock_Pkg' (fun _ _ => ?_) ?_ | with_reducible refine foldl2_clock_Pkg' (fun _ _ => ?_) ?_ | with_reducible refine foldl3_clock_Pkg' (fun _ _ => ?_) ?_ | with_reducible refine ite_clock_Clus ?_ ?_ | with_reducible refine foldl_clock_Clus' (fun _ _ => ?_) ?_ | with_reducible refine iter_clock_Clus' (fun _ _ => ?_) ?_ | with_reducible refine foldl2_clock_Clus' (fun _ _ => ?_) ?_ | with_reducible refine foldl3_clock_Clus' (fun _ _ => ?_) ?_ | with_reducible refine ite_clock_Core ?_ ?_ | with_reducible refine foldl_clock_Core' (fun _ _ => ?_) ?_ | with_reducible refine iter_clock_Core' (fun _ _ => ?_) ?_ | with_reducible refine foldl2_clock_Core' (fun _ _ => ?_) ?_ | with_reducible refine foldl3_clock_Core' (fun _ _ => ?_) ?_ | simp only [↓Pkg.collRead_clock, ↓Pkg.collWrite_clock, ↓Pkg.setCollRun_clock, ↓Pkg.stageChunk_clock, ↓Core.clock_eta, ↓Core.clock_mk, ↓Clus.clock_mk, ↓Clus.core_clock, ↓Pkg.clock_mk, ↓Pkg.cl_clock] | with_reducible refine of_eq_clock_Pkg ‹_› ?_ | with_reducible refine of_eq1_clock_Pkg ‹_› ?_ | with_reducible refine of_eq_clock_Clus ‹_› ?_ | with_reducible refine of_eq1_clock_Clus ‹_› ?_ | with_reducible refine of_eq_clock_Core ‹_› ?_ | with_reducible refine of_eq1_clock_Core ‹_› ?_ | split | dsimp only)

theorem Pkg.collPump_clock (k a1 a2) : (Pkg.collPump k a1 a2).clock = k.clock := by
  unfold Pkg.collPump
  repeat' (first | with_reducible rfl | (simp only [↓Pkg.collNext_clock, ↓Core.clock_eta, ↓Core.clock_mk, ↓Clus.clock_mk, ↓Clus.core_clock, ↓Pkg.clock_mk, ↓Pkg.cl_clock, ↓foldl_clock_Core, ↓iter_clock_Core, ↓foldl_clock_Clus, ↓iter_clock_Clus, ↓foldl_clock_Pkg, ↓iter_clock_Pkg, implies_true, apply_ite Pkg.clock, ite_self]; done) | with_reducible refine ite_clock_Pkg ?_ ?_ | with_reducible refine foldl_clock_Pkg' (fun _ _ => ?_) ?_ | with_reducible refine iter_clock_Pkg' (fun _ _ => ?_) ?_ | with_reducible refine foldl2_clock_Pkg' (fun _ _ => ?_) ?_ | with_reducible refine foldl3_clock_Pkg' (fun _ _ => ?_) ?_ | with_reducible refine ite_clock_Clus ?_ ?_ | with_reducible refine foldl_clock_Clus' (fun _ _ => ?_) ?_ | with_reducible refine iter_clock_Clus' (fun _ _ => ?_) ?_ | with_reducible refine foldl2_clock_Clus' (fun _ _ => ?_) ?_ | with_reducible refine foldl3_clock_Clus' (fun _ _ => ?_) ?_ | with_reducible refine ite_clock_Core ?_ ?_ | with_reducible refine foldl_clock_Core' (fun _ _ => ?_) ?_ | with_reducible refine iter_clock_Core' (fun _ _ => ?_) ?_ | with_reducible refine foldl2_clock_Core' (fun _ _ => ?_) ?_ | with_reducible refine foldl3_clock_Core' (fun _ _ => ?_) ?_ | simp only [↓Pkg.collNext_clock, ↓Core.clock_eta, ↓Core.clock_mk, ↓Clus.clock_mk, ↓Clus.core_clock, ↓Pkg.clock_mk, ↓Pkg.cl_clock] | with_reducible refine of_eq_clock_Pkg ‹_› ?_ | with_reducible refine of_eq1_clock_Pkg ‹_› ?_ | with_reducible refine of_eq_clock_Clus ‹_› ?_ | with_reducible refine of_eq1_clock_Clus ‹_› ?_ | with_reducible refine of_eq_clock_Core ‹_› ?_ | with_reducible refine of_eq1_clock_Core ‹_› ?_ | split | dsimp only)

theorem Pkg.collAck_clock (k a1) : (Pkg.collAck k a1).clock = k.clock := by
  unfold Pkg.collAck
  repeat' (first | with_reducible rfl | (simp only [↓Pkg.collPump_clock, ↓Pkg.setCollRun_clock, ↓Core.clock_eta, ↓Core.clock_mk, ↓Clus.clock_mk, ↓Clus.core_clock, ↓Pkg.clock_mk, ↓Pkg.cl_clock, ↓foldl_clock_Core, ↓iter_clock_Core, ↓foldl_clock_Clus, ↓iter_clock_Clus, ↓foldl_clock_Pkg, ↓iter_clock_Pkg, implies_true, apply_ite Pkg.clock, ite_self]; done) | with_reducible refine ite_clock_Pkg ?_ ?_ | with_reducible refine foldl_clock_Pkg' (fun _ _ => ?_) ?_ | with_reducible refine iter_clock_Pkg' (fun _ _ => ?_) ?_ | with_reducible refine foldl2_clock_Pkg' (fun _ _ => ?_) ?_ | with_reducible refine foldl3_clock_Pkg' (fun _ _ => ?_) ?_ | with_reducible refine ite_clock_Clus ?_ ?_ | with_reducible refine foldl_clock_Clus' (fun _ _ => ?_) ?_ | with_reducible refine iter_clock_Clus' (fun _ _ => ?_) ?_ | with_reducible refine foldl2_clock_Clus' (fun _ _ => ?_) ?_ | with_reducible refine foldl3_clock_Clus' (fun _ _ => ?_) ?_ | with_reducible refine ite_clock_Core ?_ ?_ | with_reducible refine foldl_clock_Core' (fun _ _ => ?_) ?_ | with_reducible refine iter_clock_Core' (fun _ _ => ?_) ?_ | with_reducible refine foldl2_clock_Core' (fun _ _ => ?_) ?_ | with_reducible refine foldl3_clock_Core' (fun _ _ => ?_) ?_ | simp only [↓Pkg.collPump_clock, ↓Pkg.setCollRun_clock, ↓Core.clock_eta, ↓Core.clock_mk, ↓Clus.clock_mk, ↓Clus.core_clock, ↓Pkg.clock_mk, ↓Pkg.cl_clock] | with_reducible refine of_eq_clock_Pkg ‹_› ?_ | with_reducible refine of_eq1_clock_Pkg ‹_› ?_ | with_reducible refine of_eq_clock_Clus ‹_› ?_ | with_reducible refine of_eq1_clock_Clus ‹_› ?_ | with_reducible refine of_eq_clock_Core ‹_› ?_ | with_reducible refine of_eq1_clock_Core ‹_› ?_ | split | dsimp only)

theorem Pkg.collAckSend_clock (k a1) : (Pkg.collAckSend k a1).clock = k.clock := by
  unfold Pkg.collAckSend
  simp only [↓Pkg.sendTo_clock]

theorem Pkg.collData_clock (k a1) : (Pkg.collData k a1).clock = k.clock := by
  unfold Pkg.collData
  repeat' (first | (simp only [↓Pkg.setCollRun_clock, apply_ite Pkg.clock, ite_self]; done) | with_reducible refine ite_clock_Pkg ?_ ?_ | split | dsimp only)

theorem Pkg.dropRuns_clock (k) (a1 : Nat → Bool) : (Pkg.dropRuns k a1).clock = k.clock := by
  unfold Pkg.dropRuns
  repeat' (first | with_reducible rfl | (simp only [↓Core.setFld_clock, ↓Core.clock_eta, ↓Core.clock_mk, ↓Clus.clock_mk, ↓Clus.core_clock, ↓Clus.onCore_clock, ↓Pkg.clock_mk, ↓Pkg.cl_clock, ↓Pkg.onCore_clock, ↓Pkg.onFab_clock, ↓foldl_clock_Core, ↓iter_clock_Core, ↓foldl_clock_Clus, ↓iter_clock_Clus, ↓foldl_clock_Pkg, ↓iter_clock_Pkg, implies_true, apply_ite Pkg.clock, ite_self]; done) | with_reducible refine ite_clock_Pkg ?_ ?_ | with_reducible refine foldl_clock_Pkg' (fun _ _ => ?_) ?_ | with_reducible refine iter_clock_Pkg' (fun _ _ => ?_) ?_ | with_reducible refine foldl2_clock_Pkg' (fun _ _ => ?_) ?_ | with_reducible refine foldl3_clock_Pkg' (fun _ _ => ?_) ?_ | with_reducible refine ite_clock_Clus ?_ ?_ | with_reducible refine foldl_clock_Clus' (fun _ _ => ?_) ?_ | with_reducible refine iter_clock_Clus' (fun _ _ => ?_) ?_ | with_reducible refine foldl2_clock_Clus' (fun _ _ => ?_) ?_ | with_reducible refine foldl3_clock_Clus' (fun _ _ => ?_) ?_ | with_reducible refine ite_clock_Core ?_ ?_ | with_reducible refine foldl_clock_Core' (fun _ _ => ?_) ?_ | with_reducible refine iter_clock_Core' (fun _ _ => ?_) ?_ | with_reducible refine foldl2_clock_Core' (fun _ _ => ?_) ?_ | with_reducible refine foldl3_clock_Core' (fun _ _ => ?_) ?_ | simp only [↓Core.setFld_clock, ↓Core.clock_eta, ↓Core.clock_mk, ↓Clus.clock_mk, ↓Clus.core_clock, ↓Clus.onCore_clock, ↓Pkg.clock_mk, ↓Pkg.cl_clock, ↓Pkg.onCore_clock, ↓Pkg.onFab_clock] | with_reducible refine of_eq_clock_Pkg ‹_› ?_ | with_reducible refine of_eq1_clock_Pkg ‹_› ?_ | with_reducible refine of_eq_clock_Clus ‹_› ?_ | with_reducible refine of_eq1_clock_Clus ‹_› ?_ | with_reducible refine of_eq_clock_Core ‹_› ?_ | with_reducible refine of_eq1_clock_Core ‹_› ?_ | split | dsimp only)

theorem Pkg.endRuns_clock (k a1) : (Pkg.endRuns k a1).clock = k.clock := by
  unfold Pkg.endRuns
  repeat' (first | with_reducible rfl | (simp only [↓Pkg.dropRuns_clock, ↓Core.clock_eta, ↓Core.clock_mk, ↓Clus.clock_mk, ↓Clus.core_clock, ↓Pkg.clock_mk, ↓Pkg.cl_clock, ↓foldl_clock_Core, ↓iter_clock_Core, ↓foldl_clock_Clus, ↓iter_clock_Clus, ↓foldl_clock_Pkg, ↓iter_clock_Pkg, implies_true, apply_ite Pkg.clock, ite_self]; done) | with_reducible refine ite_clock_Pkg ?_ ?_ | with_reducible refine foldl_clock_Pkg' (fun _ _ => ?_) ?_ | with_reducible refine iter_clock_Pkg' (fun _ _ => ?_) ?_ | with_reducible refine foldl2_clock_Pkg' (fun _ _ => ?_) ?_ | with_reducible refine foldl3_clock_Pkg' (fun _ _ => ?_) ?_ | with_reducible refine ite_clock_Clus ?_ ?_ | with_reducible refine foldl_clock_Clus' (fun _ _ => ?_) ?_ | with_reducible refine iter_clock_Clus' (fun _ _ => ?_) ?_ | with_reducible refine foldl2_clock_Clus' (fun _ _ => ?_) ?_ | with_reducible refine foldl3_clock_Clus' (fun _ _ => ?_) ?_ | with_reducible refine ite_clock_Core ?_ ?_ | with_reducible refine foldl_clock_Core' (fun _ _ => ?_) ?_ | with_reducible refine iter_clock_Core' (fun _ _ => ?_) ?_ | with_reducible refine foldl2_clock_Core' (fun _ _ => ?_) ?_ | with_reducible refine foldl3_clock_Core' (fun _ _ => ?_) ?_ | simp only [↓Pkg.dropRuns_clock, ↓Core.clock_eta, ↓Core.clock_mk, ↓Clus.clock_mk, ↓Clus.core_clock, ↓Pkg.clock_mk, ↓Pkg.cl_clock] | with_reducible refine of_eq_clock_Pkg ‹_› ?_ | with_reducible refine of_eq1_clock_Pkg ‹_› ?_ | with_reducible refine of_eq_clock_Clus ‹_› ?_ | with_reducible refine of_eq1_clock_Clus ‹_› ?_ | with_reducible refine of_eq_clock_Core ‹_› ?_ | with_reducible refine of_eq1_clock_Core ‹_› ?_ | split | dsimp only)

theorem Pkg.stopApply_clock (k a1 a2) : (Pkg.stopApply k a1 a2).clock = k.clock := by
  unfold Pkg.stopApply
  repeat' (first | (simp only [↓Clus.core_clock, ↓Pkg.cl_clock, ↓Clus.abortJob_clock, ↓Clus.faultJob_clock, ↓Core.record_clock, ↓Core.wrs_clock, ↓Pkg.endRuns_clock, ↓Pkg.onClus_clock, ↓Pkg.onCore_clock, ↓Pkg.onFab_clock, apply_ite Pkg.clock, ite_self]; done) | with_reducible refine ite_clock_Pkg ?_ ?_ | split)

theorem Pkg.stopNote_clock (k a1 a2 a3 a4) : (Pkg.stopNote k a1 a2 a3 a4).clock = k.clock := by
  unfold Pkg.stopNote
  simp only [↓Pkg.onFab_clock, ↓Pkg.stopApply_clock, apply_ite Pkg.clock, ite_self]

theorem Pkg.stopEmit_clock (k a1 a2) : (Pkg.stopEmit k a1 a2).clock = k.clock := by
  unfold Pkg.stopEmit
  simp only [↓Pkg.onFab_clock, ↓Pkg.sendGroup_clock, ↓Pkg.stopNote_clock]

theorem Pkg.collEvent_clock (k a1 a2 a3) : (Pkg.collEvent k a1 a2 a3).clock = k.clock := by
  unfold Pkg.collEvent
  simp only [↓Clus.core_clock, ↓Pkg.cl_clock, ↓Core.record_clock, ↓Pkg.onCore_clock]

theorem Pkg.collFail_clock (k a1 a2 a3 a4) : (Pkg.collFail k a1 a2 a3 a4).clock = k.clock := by
  unfold Pkg.collFail
  simp only [↓Pkg.collEvent_clock, ↓Pkg.setCollRun_clock, ↓Pkg.stopEmit_clock]

theorem Pkg.collDeny_clock (k a1 a2 a3) : (Pkg.collDeny k a1 a2 a3).clock = k.clock := by
  unfold Pkg.collDeny
  repeat' (first | with_reducible rfl | (simp only [↓Clus.faultJob_clock, ↓Core.record_clock, ↓Pkg.setCollRun_clock, ↓Core.clock_eta, ↓Core.clock_mk, ↓Clus.clock_mk, ↓Clus.core_clock, ↓Clus.onCore_clock, ↓Pkg.clock_mk, ↓Pkg.cl_clock, ↓Pkg.onCore_clock, ↓Pkg.onClus_clock, ↓foldl_clock_Core, ↓iter_clock_Core, ↓foldl_clock_Clus, ↓iter_clock_Clus, ↓foldl_clock_Pkg, ↓iter_clock_Pkg, implies_true, apply_ite Pkg.clock, ite_self]; done) | with_reducible refine ite_clock_Pkg ?_ ?_ | with_reducible refine foldl_clock_Pkg' (fun _ _ => ?_) ?_ | with_reducible refine iter_clock_Pkg' (fun _ _ => ?_) ?_ | with_reducible refine foldl2_clock_Pkg' (fun _ _ => ?_) ?_ | with_reducible refine foldl3_clock_Pkg' (fun _ _ => ?_) ?_ | with_reducible refine ite_clock_Clus ?_ ?_ | with_reducible refine foldl_clock_Clus' (fun _ _ => ?_) ?_ | with_reducible refine iter_clock_Clus' (fun _ _ => ?_) ?_ | with_reducible refine foldl2_clock_Clus' (fun _ _ => ?_) ?_ | with_reducible refine foldl3_clock_Clus' (fun _ _ => ?_) ?_ | with_reducible refine ite_clock_Core ?_ ?_ | with_reducible refine foldl_clock_Core' (fun _ _ => ?_) ?_ | with_reducible refine iter_clock_Core' (fun _ _ => ?_) ?_ | with_reducible refine foldl2_clock_Core' (fun _ _ => ?_) ?_ | with_reducible refine foldl3_clock_Core' (fun _ _ => ?_) ?_ | simp only [↓Clus.faultJob_clock, ↓Core.record_clock, ↓Pkg.setCollRun_clock, ↓Core.clock_eta, ↓Core.clock_mk, ↓Clus.clock_mk, ↓Clus.core_clock, ↓Clus.onCore_clock, ↓Pkg.clock_mk, ↓Pkg.cl_clock, ↓Pkg.onCore_clock, ↓Pkg.onClus_clock] | with_reducible refine of_eq_clock_Pkg ‹_› ?_ | with_reducible refine of_eq1_clock_Pkg ‹_› ?_ | with_reducible refine of_eq_clock_Clus ‹_› ?_ | with_reducible refine of_eq1_clock_Clus ‹_› ?_ | with_reducible refine of_eq_clock_Core ‹_› ?_ | with_reducible refine of_eq1_clock_Core ‹_› ?_ | split | dsimp only)

theorem Pkg.passChunk_clock (k a1 a2 a3 a4) : (Pkg.passChunk k a1 a2 a3 a4).clock = k.clock := by
  unfold Pkg.passChunk
  repeat' (first | with_reducible rfl | (simp only [↓Pkg.setCollRun_clock, ↓Pkg.stageChunk_clock, ↓Core.clock_eta, ↓Core.clock_mk, ↓Clus.clock_mk, ↓Clus.core_clock, ↓Pkg.clock_mk, ↓Pkg.cl_clock, ↓foldl_clock_Core, ↓iter_clock_Core, ↓foldl_clock_Clus, ↓iter_clock_Clus, ↓foldl_clock_Pkg, ↓iter_clock_Pkg, implies_true, apply_ite Pkg.clock, ite_self]; done) | with_reducible refine ite_clock_Pkg ?_ ?_ | with_reducible refine foldl_clock_Pkg' (fun _ _ => ?_) ?_ | with_reducible refine iter_clock_Pkg' (fun _ _ => ?_) ?_ | with_reducible refine foldl2_clock_Pkg' (fun _ _ => ?_) ?_ | with_reducible refine foldl3_clock_Pkg' (fun _ _ => ?_) ?_ | with_reducible refine ite_clock_Clus ?_ ?_ | with_reducible refine foldl_clock_Clus' (fun _ _ => ?_) ?_ | with_reducible refine iter_clock_Clus' (fun _ _ => ?_) ?_ | with_reducible refine foldl2_clock_Clus' (fun _ _ => ?_) ?_ | with_reducible refine foldl3_clock_Clus' (fun _ _ => ?_) ?_ | with_reducible refine ite_clock_Core ?_ ?_ | with_reducible refine foldl_clock_Core' (fun _ _ => ?_) ?_ | with_reducible refine iter_clock_Core' (fun _ _ => ?_) ?_ | with_reducible refine foldl2_clock_Core' (fun _ _ => ?_) ?_ | with_reducible refine foldl3_clock_Core' (fun _ _ => ?_) ?_ | simp only [↓Pkg.setCollRun_clock, ↓Pkg.stageChunk_clock, ↓Core.clock_eta, ↓Core.clock_mk, ↓Clus.clock_mk, ↓Clus.core_clock, ↓Pkg.clock_mk, ↓Pkg.cl_clock] | with_reducible refine of_eq_clock_Pkg ‹_› ?_ | with_reducible refine of_eq1_clock_Pkg ‹_› ?_ | with_reducible refine of_eq_clock_Clus ‹_› ?_ | with_reducible refine of_eq1_clock_Clus ‹_› ?_ | with_reducible refine of_eq_clock_Core ‹_› ?_ | with_reducible refine of_eq1_clock_Core ‹_› ?_ | split | dsimp only)

theorem Pkg.collTake_clock (k a1 a2 a3 a4) : (Pkg.collTake k a1 a2 a3 a4).clock = k.clock := by
  unfold Pkg.collTake
  repeat' (first | with_reducible rfl | (simp only [↓Pkg.collDeny_clock, ↓Pkg.collWrite_clock, ↓Pkg.passChunk_clock, ↓Pkg.setCollRun_clock, ↓Core.clock_eta, ↓Core.clock_mk, ↓Clus.clock_mk, ↓Clus.core_clock, ↓Pkg.clock_mk, ↓Pkg.cl_clock, ↓foldl_clock_Core, ↓iter_clock_Core, ↓foldl_clock_Clus, ↓iter_clock_Clus, ↓foldl_clock_Pkg, ↓iter_clock_Pkg, implies_true, apply_ite Pkg.clock, ite_self]; done) | with_reducible refine ite_clock_Pkg ?_ ?_ | with_reducible refine foldl_clock_Pkg' (fun _ _ => ?_) ?_ | with_reducible refine iter_clock_Pkg' (fun _ _ => ?_) ?_ | with_reducible refine foldl2_clock_Pkg' (fun _ _ => ?_) ?_ | with_reducible refine foldl3_clock_Pkg' (fun _ _ => ?_) ?_ | with_reducible refine ite_clock_Clus ?_ ?_ | with_reducible refine foldl_clock_Clus' (fun _ _ => ?_) ?_ | with_reducible refine iter_clock_Clus' (fun _ _ => ?_) ?_ | with_reducible refine foldl2_clock_Clus' (fun _ _ => ?_) ?_ | with_reducible refine foldl3_clock_Clus' (fun _ _ => ?_) ?_ | with_reducible refine ite_clock_Core ?_ ?_ | with_reducible refine foldl_clock_Core' (fun _ _ => ?_) ?_ | with_reducible refine iter_clock_Core' (fun _ _ => ?_) ?_ | with_reducible refine foldl2_clock_Core' (fun _ _ => ?_) ?_ | with_reducible refine foldl3_clock_Core' (fun _ _ => ?_) ?_ | simp only [↓Pkg.collDeny_clock, ↓Pkg.collWrite_clock, ↓Pkg.passChunk_clock, ↓Pkg.setCollRun_clock, ↓Core.clock_eta, ↓Core.clock_mk, ↓Clus.clock_mk, ↓Clus.core_clock, ↓Pkg.clock_mk, ↓Pkg.cl_clock] | with_reducible refine of_eq_clock_Pkg ‹_› ?_ | with_reducible refine of_eq1_clock_Pkg ‹_› ?_ | with_reducible refine of_eq_clock_Clus ‹_› ?_ | with_reducible refine of_eq1_clock_Clus ‹_› ?_ | with_reducible refine of_eq_clock_Core ‹_› ?_ | with_reducible refine of_eq1_clock_Core ‹_› ?_ | split | dsimp only)

theorem Pkg.digNote_clock (k a1 a2 a3 a4 a5) : (Pkg.digNote k a1 a2 a3 a4 a5).clock = k.clock := by
  unfold Pkg.digNote
  repeat' (first | with_reducible rfl | (simp only [↓Core.clock_eta, ↓Core.clock_mk, ↓Clus.clock_mk, ↓Clus.core_clock, ↓Pkg.clock_mk, ↓Pkg.cl_clock, ↓Pkg.onFab_clock, ↓foldl_clock_Core, ↓iter_clock_Core, ↓foldl_clock_Clus, ↓iter_clock_Clus, ↓foldl_clock_Pkg, ↓iter_clock_Pkg, implies_true, apply_ite Pkg.clock, ite_self]; done) | with_reducible refine ite_clock_Pkg ?_ ?_ | with_reducible refine foldl_clock_Pkg' (fun _ _ => ?_) ?_ | with_reducible refine iter_clock_Pkg' (fun _ _ => ?_) ?_ | with_reducible refine foldl2_clock_Pkg' (fun _ _ => ?_) ?_ | with_reducible refine foldl3_clock_Pkg' (fun _ _ => ?_) ?_ | with_reducible refine ite_clock_Clus ?_ ?_ | with_reducible refine foldl_clock_Clus' (fun _ _ => ?_) ?_ | with_reducible refine iter_clock_Clus' (fun _ _ => ?_) ?_ | with_reducible refine foldl2_clock_Clus' (fun _ _ => ?_) ?_ | with_reducible refine foldl3_clock_Clus' (fun _ _ => ?_) ?_ | with_reducible refine ite_clock_Core ?_ ?_ | with_reducible refine foldl_clock_Core' (fun _ _ => ?_) ?_ | with_reducible refine iter_clock_Core' (fun _ _ => ?_) ?_ | with_reducible refine foldl2_clock_Core' (fun _ _ => ?_) ?_ | with_reducible refine foldl3_clock_Core' (fun _ _ => ?_) ?_ | simp only [↓Core.clock_eta, ↓Core.clock_mk, ↓Clus.clock_mk, ↓Clus.core_clock, ↓Pkg.clock_mk, ↓Pkg.cl_clock, ↓Pkg.onFab_clock] | with_reducible refine of_eq_clock_Pkg ‹_› ?_ | with_reducible refine of_eq1_clock_Pkg ‹_› ?_ | with_reducible refine of_eq_clock_Clus ‹_› ?_ | with_reducible refine of_eq1_clock_Clus ‹_› ?_ | with_reducible refine of_eq_clock_Core ‹_› ?_ | with_reducible refine of_eq1_clock_Core ‹_› ?_ | split | dsimp only)

theorem Pkg.collReduce_clock (k a1 a2 a3 a4) : (Pkg.collReduce k a1 a2 a3 a4).clock = k.clock := by
  unfold Pkg.collReduce
  repeat' (first | with_reducible rfl | (simp only [↓Core.incSat_clock, ↓Pkg.collAckSend_clock, ↓Pkg.collDeny_clock, ↓Pkg.collFail_clock, ↓Pkg.collRead_clock, ↓Pkg.collTake_clock, ↓Pkg.digNote_clock, ↓Core.clock_eta, ↓Core.clock_mk, ↓Clus.clock_mk, ↓Clus.core_clock, ↓Clus.onCore_clock, ↓Pkg.clock_mk, ↓Pkg.cl_clock, ↓Pkg.onCore_clock, ↓foldl_clock_Core, ↓iter_clock_Core, ↓foldl_clock_Clus, ↓iter_clock_Clus, ↓foldl_clock_Pkg, ↓iter_clock_Pkg, implies_true, apply_ite Pkg.clock, ite_self, apply_ite Prod.fst, apply_ite Prod.snd]; done) | with_reducible refine ite_clock_Pkg ?_ ?_ | with_reducible refine foldl_clock_Pkg' (fun _ _ => ?_) ?_ | with_reducible refine iter_clock_Pkg' (fun _ _ => ?_) ?_ | with_reducible refine foldl2_clock_Pkg' (fun _ _ => ?_) ?_ | with_reducible refine foldl3_clock_Pkg' (fun _ _ => ?_) ?_ | with_reducible refine ite_clock_Clus ?_ ?_ | with_reducible refine foldl_clock_Clus' (fun _ _ => ?_) ?_ | with_reducible refine iter_clock_Clus' (fun _ _ => ?_) ?_ | with_reducible refine foldl2_clock_Clus' (fun _ _ => ?_) ?_ | with_reducible refine foldl3_clock_Clus' (fun _ _ => ?_) ?_ | with_reducible refine ite_clock_Core ?_ ?_ | with_reducible refine foldl_clock_Core' (fun _ _ => ?_) ?_ | with_reducible refine iter_clock_Core' (fun _ _ => ?_) ?_ | with_reducible refine foldl2_clock_Core' (fun _ _ => ?_) ?_ | with_reducible refine foldl3_clock_Core' (fun _ _ => ?_) ?_ | simp only [↓Core.incSat_clock, ↓Pkg.collAckSend_clock, ↓Pkg.collDeny_clock, ↓Pkg.collFail_clock, ↓Pkg.collRead_clock, ↓Pkg.collTake_clock, ↓Pkg.digNote_clock, ↓Core.clock_eta, ↓Core.clock_mk, ↓Clus.clock_mk, ↓Clus.core_clock, ↓Clus.onCore_clock, ↓Pkg.clock_mk, ↓Pkg.cl_clock, ↓Pkg.onCore_clock] | with_reducible refine of_eq_clock_Pkg ‹_› ?_ | with_reducible refine of_eq1_clock_Pkg ‹_› ?_ | with_reducible refine of_eq_clock_Clus ‹_› ?_ | with_reducible refine of_eq1_clock_Clus ‹_› ?_ | with_reducible refine of_eq_clock_Core ‹_› ?_ | with_reducible refine of_eq1_clock_Core ‹_› ?_ | split | dsimp only)

theorem Pkg.collDig_clock (k a1) : (Pkg.collDig k a1).clock = k.clock := by
  unfold Pkg.collDig
  repeat' (first | with_reducible rfl | (simp only [↓Pkg.collAckSend_clock, ↓Pkg.collFail_clock, ↓Pkg.collReduce_clock, ↓Pkg.collTake_clock, ↓Pkg.digNote_clock, ↓Core.clock_eta, ↓Core.clock_mk, ↓Clus.clock_mk, ↓Clus.core_clock, ↓Pkg.clock_mk, ↓Pkg.cl_clock, ↓foldl_clock_Core, ↓iter_clock_Core, ↓foldl_clock_Clus, ↓iter_clock_Clus, ↓foldl_clock_Pkg, ↓iter_clock_Pkg, implies_true, apply_ite Pkg.clock, ite_self]; done) | with_reducible refine ite_clock_Pkg ?_ ?_ | with_reducible refine foldl_clock_Pkg' (fun _ _ => ?_) ?_ | with_reducible refine iter_clock_Pkg' (fun _ _ => ?_) ?_ | with_reducible refine foldl2_clock_Pkg' (fun _ _ => ?_) ?_ | with_reducible refine foldl3_clock_Pkg' (fun _ _ => ?_) ?_ | with_reducible refine ite_clock_Clus ?_ ?_ | with_reducible refine foldl_clock_Clus' (fun _ _ => ?_) ?_ | with_reducible refine iter_clock_Clus' (fun _ _ => ?_) ?_ | with_reducible refine foldl2_clock_Clus' (fun _ _ => ?_) ?_ | with_reducible refine foldl3_clock_Clus' (fun _ _ => ?_) ?_ | with_reducible refine ite_clock_Core ?_ ?_ | with_reducible refine foldl_clock_Core' (fun _ _ => ?_) ?_ | with_reducible refine iter_clock_Core' (fun _ _ => ?_) ?_ | with_reducible refine foldl2_clock_Core' (fun _ _ => ?_) ?_ | with_reducible refine foldl3_clock_Core' (fun _ _ => ?_) ?_ | simp only [↓Pkg.collAckSend_clock, ↓Pkg.collFail_clock, ↓Pkg.collReduce_clock, ↓Pkg.collTake_clock, ↓Pkg.digNote_clock, ↓Core.clock_eta, ↓Core.clock_mk, ↓Clus.clock_mk, ↓Clus.core_clock, ↓Pkg.clock_mk, ↓Pkg.cl_clock] | with_reducible refine of_eq_clock_Pkg ‹_› ?_ | with_reducible refine of_eq1_clock_Pkg ‹_› ?_ | with_reducible refine of_eq_clock_Clus ‹_› ?_ | with_reducible refine of_eq1_clock_Clus ‹_› ?_ | with_reducible refine of_eq_clock_Core ‹_› ?_ | with_reducible refine of_eq1_clock_Core ‹_› ?_ | split | dsimp only)

theorem Pkg.collGuard_clock (k) : (Pkg.collGuard k).clock = k.clock := by
  unfold Pkg.collGuard
  repeat' (first | (simp only [↓Clus.clock_mk, ↓Clus.core_clock, ↓Pkg.cl_clock, ↓Clus.tabArrive_clock, ↓Pkg.onClus_clock, ↓Pkg.setCollRun_clock, apply_ite Pkg.clock]; done) | with_reducible refine ite_clock_Pkg ?_ ?_ | with_reducible refine foldl_clock_Pkg' (fun _ _ => ?_) ?_ | split | dsimp only)

theorem Pkg.collStart_clock (k a1 a2 a3) : (Pkg.collStart k a1 a2 a3).clock = k.clock := by
  unfold Pkg.collStart
  repeat' (first | with_reducible rfl | (simp only [↓Pkg.collDeny_clock, ↓Pkg.collPump_clock, ↓Pkg.setCollRun_clock, ↓Core.clock_eta, ↓Core.clock_mk, ↓Clus.clock_mk, ↓Clus.core_clock, ↓Pkg.clock_mk, ↓Pkg.cl_clock, ↓foldl_clock_Core, ↓iter_clock_Core, ↓foldl_clock_Clus, ↓iter_clock_Clus, ↓foldl_clock_Pkg, ↓iter_clock_Pkg, implies_true, apply_ite Pkg.clock, ite_self]; done) | with_reducible refine ite_clock_Pkg ?_ ?_ | with_reducible refine foldl_clock_Pkg' (fun _ _ => ?_) ?_ | with_reducible refine iter_clock_Pkg' (fun _ _ => ?_) ?_ | with_reducible refine foldl2_clock_Pkg' (fun _ _ => ?_) ?_ | with_reducible refine foldl3_clock_Pkg' (fun _ _ => ?_) ?_ | with_reducible refine ite_clock_Clus ?_ ?_ | with_reducible refine foldl_clock_Clus' (fun _ _ => ?_) ?_ | with_reducible refine iter_clock_Clus' (fun _ _ => ?_) ?_ | with_reducible refine foldl2_clock_Clus' (fun _ _ => ?_) ?_ | with_reducible refine foldl3_clock_Clus' (fun _ _ => ?_) ?_ | with_reducible refine ite_clock_Core ?_ ?_ | with_reducible refine foldl_clock_Core' (fun _ _ => ?_) ?_ | with_reducible refine iter_clock_Core' (fun _ _ => ?_) ?_ | with_reducible refine foldl2_clock_Core' (fun _ _ => ?_) ?_ | with_reducible refine foldl3_clock_Core' (fun _ _ => ?_) ?_ | simp only [↓Pkg.collDeny_clock, ↓Pkg.collPump_clock, ↓Pkg.setCollRun_clock, ↓Core.clock_eta, ↓Core.clock_mk, ↓Clus.clock_mk, ↓Clus.core_clock, ↓Pkg.clock_mk, ↓Pkg.cl_clock] | with_reducible refine of_eq_clock_Pkg ‹_› ?_ | with_reducible refine of_eq1_clock_Pkg ‹_› ?_ | with_reducible refine of_eq_clock_Clus ‹_› ?_ | with_reducible refine of_eq1_clock_Clus ‹_› ?_ | with_reducible refine of_eq_clock_Core ‹_› ?_ | with_reducible refine of_eq1_clock_Core ‹_› ?_ | split | dsimp only)

theorem Pkg.collTimeout_clock (k a1 a2) : (Pkg.collTimeout k a1 a2).clock = k.clock := by
  unfold Pkg.collTimeout
  repeat' (first | (simp only [↓Pkg.collFail_clock, ↓Pkg.sendChunk_clock, ↓Pkg.setCollRun_clock, apply_ite Pkg.clock, ite_self]; done) | with_reducible refine ite_clock_Pkg ?_ ?_ | split)

theorem Pkg.collTrigger_clock (k) (a1 : Nat → Bool) : (Pkg.collTrigger k a1).clock = k.clock := by
  unfold Pkg.collTrigger
  repeat' (first | (simp only [↓Pkg.cl_clock, ↓Clus.faultJob_clock, ↓Pkg.collEvent_clock, ↓Pkg.collStart_clock, ↓Pkg.onClus_clock, ↓Pkg.onFab_clock, apply_ite Pkg.clock, ite_self]; done) | with_reducible refine ite_clock_Pkg ?_ ?_ | with_reducible refine foldl_clock_Pkg' (fun _ _ => ?_) ?_ | split | dsimp only)

theorem Pkg.nopCmd_clock (k a1) : (Pkg.nopCmd k a1).clock = k.clock := by
  unfold Pkg.nopCmd
  simp only [↓Pkg.devCmd_clock, ↓Pkg.devEnd_clock, implies_true]

theorem Pkg.setNodeCmd_clock (k a1 a2 a3) : (Pkg.setNodeCmd k a1 a2 a3).clock = k.clock := by
  unfold Pkg.setNodeCmd
  simp only [↓Pkg.devCmd_clock, ↓Pkg.devEnd_clock, ↓Pkg.devInvalid_clock, ↓Pkg.nodeWrite_clock, implies_true, apply_ite Pkg.clock, ite_self]

theorem Pkg.takeoverCmd_clock (k a1 a2 a3) : (Pkg.takeoverCmd k a1 a2 a3).clock = k.clock := by
  unfold Pkg.takeoverCmd
  simp only [↓Clus.core_clock, ↓Pkg.cl_clock, ↓Core.record_clock, ↓Core.wr_clock, ↓Pkg.byeIdle_clock, ↓Pkg.devCmd_clock, ↓Pkg.devEnd_clock, ↓Pkg.devInvalid_clock, ↓Pkg.onCore_clock, ↓Pkg.onFab_clock, ↓Pkg.startDetect_clock, ↓foldl_clock_Pkg, implies_true, apply_ite Pkg.clock, ite_self]

theorem Pkg.windowSetCmd_clock (k a1 a2 a3 a4 a5) : (Pkg.windowSetCmd k a1 a2 a3 a4 a5).clock = k.clock := by
  unfold Pkg.windowSetCmd
  simp only [↓Clus.core_clock, ↓Pkg.cl_clock, ↓Core.wr_clock, ↓Pkg.devCmd_clock, ↓Pkg.devEnd_clock, ↓Pkg.devInvalid_clock, ↓Pkg.onCore_clock, implies_true, apply_ite Pkg.clock, ite_self]

theorem Pkg.stopGroupCmd_clock (k a1 a2) : (Pkg.stopGroupCmd k a1 a2).clock = k.clock := by
  unfold Pkg.stopGroupCmd
  repeat' (first | (simp only [↓Pkg.devCmd_clock, ↓Pkg.devEnd_clock, ↓Pkg.devInvalid_clock, ↓Pkg.stopEmit_clock, implies_true]; done) | with_reducible refine ite_clock_Pkg ?_ ?_ | split)

theorem Pkg.startTest_clock (k a1 a2 a3) : (Pkg.startTest k a1 a2 a3).clock = k.clock := by
  unfold Pkg.startTest
  simp only [↓Pkg.biShow_clock, ↓Pkg.setTest_clock]

theorem Pkg.diagStart_clock (k a1) : (Pkg.diagStart k a1).clock = k.clock := by
  unfold Pkg.diagStart
  simp only [↓Pkg.onBi_clock, ↓Pkg.startTest_clock, ↓foldl_clock_Pkg, implies_true, apply_ite Pkg.clock, ite_self]

theorem Pkg.diagEnd_clock (k a1 a2) : (Pkg.diagEnd k a1 a2).clock = k.clock := by
  unfold Pkg.diagEnd
  simp only [↓Clus.core_clock, ↓Pkg.cl_clock, ↓Core.fwEvent_clock, ↓Pkg.devEnd_clock, ↓Pkg.onBi_clock, ↓Pkg.onCore_clock]

theorem Pkg.copyTT_clock (k a1 a2) : (Pkg.copyTT k a1 a2).clock = k.clock := by
  unfold Pkg.copyTT
  repeat' (first | (simp only [↓Clus.clock_mk, ↓Clus.core_clock, ↓Pkg.cl_clock, ↓Clus.setRun_clock, ↓Core.winWr_clock, ↓Core.wr_clock, ↓Pkg.onClus_clock, ↓Pkg.onCore_clock, ↓Pkg.onNet_clock, ↓iter_clock_Core, implies_true]; done) | with_reducible refine ite_clock_Pkg ?_ ?_ | with_reducible refine foldl_clock_Pkg' (fun _ _ => ?_) ?_ | with_reducible refine iter_clock_Pkg' (fun _ _ => ?_) ?_ | with_reducible refine ite_clock_Clus ?_ ?_ | with_reducible refine foldl_clock_Clus' (fun _ _ => ?_) ?_ | with_reducible refine iter_clock_Clus' (fun _ _ => ?_) ?_ | with_reducible refine ite_clock_Core ?_ ?_ | with_reducible refine foldl_clock_Core' (fun _ _ => ?_) ?_ | with_reducible refine iter_clock_Core' (fun _ _ => ?_) ?_ | simp only [↓Clus.clock_mk, ↓Clus.core_clock, ↓Pkg.onClus_clock] | with_reducible refine of_eq_clock_Pkg ‹_› ?_ | with_reducible refine of_eq_clock_Clus ‹_› ?_ | with_reducible refine of_eq_clock_Core ‹_› ?_ | split | dsimp only)

theorem Clus.copyTouch_clock (k a1 a2 a3 a4) : (Clus.copyTouch k a1 a2 a3 a4).clock = k.clock := by
  unfold Clus.copyTouch
  repeat' (first | with_reducible rfl | (simp only [↓Clus.stTouch_clock, ↓Core.clock_eta, ↓Core.clock_mk, ↓Clus.clock_mk, ↓Clus.core_clock, ↓foldl_clock_Core, ↓iter_clock_Core, ↓foldl_clock_Clus, ↓iter_clock_Clus, implies_true, apply_ite Clus.clock, ite_self]; done) | with_reducible refine ite_clock_Clus ?_ ?_ | with_reducible refine foldl_clock_Clus' (fun _ _ => ?_) ?_ | with_reducible refine iter_clock_Clus' (fun _ _ => ?_) ?_ | with_reducible refine foldl2_clock_Clus' (fun _ _ => ?_) ?_ | with_reducible refine foldl3_clock_Clus' (fun _ _ => ?_) ?_ | with_reducible refine ite_clock_Core ?_ ?_ | with_reducible refine foldl_clock_Core' (fun _ _ => ?_) ?_ | with_reducible refine iter_clock_Core' (fun _ _ => ?_) ?_ | with_reducible refine foldl2_clock_Core' (fun _ _ => ?_) ?_ | with_reducible refine foldl3_clock_Core' (fun _ _ => ?_) ?_ | simp only [↓Clus.stTouch_clock, ↓Core.clock_eta, ↓Core.clock_mk, ↓Clus.clock_mk, ↓Clus.core_clock] | with_reducible refine of_eq_clock_Clus ‹_› ?_ | with_reducible refine of_eq1_clock_Clus ‹_› ?_ | with_reducible refine of_eq_clock_Core ‹_› ?_ | with_reducible refine of_eq1_clock_Core ‹_› ?_ | split | dsimp only)

theorem Pkg.copyRegion_clock (k a1 a2 a3 a4) : (Pkg.copyRegion k a1 a2 a3 a4).clock = k.clock := by
  unfold Pkg.copyRegion
  repeat' (first | with_reducible rfl | (simp only [↓Clus.copyTouch_clock, ↓Clus.faultJob_clock, ↓Clus.putRaw_clock, ↓Core.fwEvent_clock, ↓Core.setPtrs_clock, ↓Core.clock_eta, ↓Core.clock_mk, ↓Clus.clock_mk, ↓Clus.core_clock, ↓Clus.onCore_clock, ↓Pkg.clock_mk, ↓Pkg.cl_clock, ↓Pkg.onCore_clock, ↓Pkg.onClus_clock, ↓foldl_clock_Core, ↓iter_clock_Core, ↓foldl_clock_Clus, ↓iter_clock_Clus, ↓foldl_clock_Pkg, ↓iter_clock_Pkg, implies_true, apply_ite Pkg.clock, ite_self]; done) | with_reducible refine ite_clock_Pkg ?_ ?_ | with_reducible refine foldl_clock_Pkg' (fun _ _ => ?_) ?_ | with_reducible refine iter_clock_Pkg' (fun _ _ => ?_) ?_ | with_reducible refine foldl2_clock_Pkg' (fun _ _ => ?_) ?_ | with_reducible refine foldl3_clock_Pkg' (fun _ _ => ?_) ?_ | with_reducible refine ite_clock_Clus ?_ ?_ | with_reducible refine foldl_clock_Clus' (fun _ _ => ?_) ?_ | with_reducible refine iter_clock_Clus' (fun _ _ => ?_) ?_ | with_reducible refine foldl2_clock_Clus' (fun _ _ => ?_) ?_ | with_reducible refine foldl3_clock_Clus' (fun _ _ => ?_) ?_ | with_reducible refine ite_clock_Core ?_ ?_ | with_reducible refine foldl_clock_Core' (fun _ _ => ?_) ?_ | with_reducible refine iter_clock_Core' (fun _ _ => ?_) ?_ | with_reducible refine foldl2_clock_Core' (fun _ _ => ?_) ?_ | with_reducible refine foldl3_clock_Core' (fun _ _ => ?_) ?_ | simp only [↓Clus.copyTouch_clock, ↓Clus.faultJob_clock, ↓Clus.putRaw_clock, ↓Core.fwEvent_clock, ↓Core.setPtrs_clock, ↓Core.clock_eta, ↓Core.clock_mk, ↓Clus.clock_mk, ↓Clus.core_clock, ↓Clus.onCore_clock, ↓Pkg.clock_mk, ↓Pkg.cl_clock, ↓Pkg.onCore_clock, ↓Pkg.onClus_clock] | with_reducible refine of_eq_clock_Pkg ‹_› ?_ | with_reducible refine of_eq1_clock_Pkg ‹_› ?_ | with_reducible refine of_eq_clock_Clus ‹_› ?_ | with_reducible refine of_eq1_clock_Clus ‹_› ?_ | with_reducible refine of_eq_clock_Core ‹_› ?_ | with_reducible refine of_eq1_clock_Core ‹_› ?_ | split | dsimp only)

theorem Pkg.setRingDead_clock (k a1 a2) : (Pkg.setRingDead k a1 a2).clock = k.clock := by
  unfold Pkg.setRingDead
  repeat' (first | with_reducible rfl | (simp only [↓Core.clock_eta, ↓Core.clock_mk, ↓Clus.clock_mk, ↓Clus.core_clock, ↓Pkg.clock_mk, ↓Pkg.cl_clock, ↓Pkg.onBi_clock, ↓foldl_clock_Core, ↓iter_clock_Core, ↓foldl_clock_Clus, ↓iter_clock_Clus, ↓foldl_clock_Pkg, ↓iter_clock_Pkg, implies_true, apply_ite Pkg.clock, ite_self]; done) | with_reducible refine ite_clock_Pkg ?_ ?_ | with_reducible refine foldl_clock_Pkg' (fun _ _ => ?_) ?_ | with_reducible refine iter_clock_Pkg' (fun _ _ => ?_) ?_ | with_reducible refine foldl2_clock_Pkg' (fun _ _ => ?_) ?_ | with_reducible refine foldl3_clock_Pkg' (fun _ _ => ?_) ?_ | with_reducible refine ite_clock_Clus ?_ ?_ | with_reducible refine foldl_clock_Clus' (fun _ _ => ?_) ?_ | with_reducible refine iter_clock_Clus' (fun _ _ => ?_) ?_ | with_reducible refine foldl2_clock_Clus' (fun _ _ => ?_) ?_ | with_reducible refine foldl3_clock_Clus' (fun _ _ => ?_) ?_ | with_reducible refine ite_clock_Core ?_ ?_ | with_reducible refine foldl_clock_Core' (fun _ _ => ?_) ?_ | with_reducible refine iter_clock_Core' (fun _ _ => ?_) ?_ | with_reducible refine foldl2_clock_Core' (fun _ _ => ?_) ?_ | with_reducible refine foldl3_clock_Core' (fun _ _ => ?_) ?_ | simp only [↓Core.clock_eta, ↓Core.clock_mk, ↓Clus.clock_mk, ↓Clus.core_clock, ↓Pkg.clock_mk, ↓Pkg.cl_clock, ↓Pkg.onBi_clock] | with_reducible refine of_eq_clock_Pkg ‹_› ?_ | with_reducible refine of_eq1_clock_Pkg ‹_› ?_ | with_reducible refine of_eq_clock_Clus ‹_› ?_ | with_reducible refine of_eq1_clock_Clus ‹_› ?_ | with_reducible refine of_eq_clock_Core ‹_› ?_ | with_reducible refine of_eq1_clock_Core ‹_› ?_ | split | dsimp only)

theorem Pkg.copyCluster_clock (k a1 a2) : (Pkg.copyCluster k a1 a2).clock = k.clock := by
  unfold Pkg.copyCluster
  repeat' (first | with_reducible rfl | (simp only [↓Clus.copyDebug_clock, ↓Pkg.copyRegion_clock, ↓Pkg.setRingDead_clock, ↓Core.clock_eta, ↓Core.clock_mk, ↓Clus.clock_mk, ↓Clus.core_clock, ↓Pkg.clock_mk, ↓Pkg.cl_clock, ↓Pkg.onClus_clock, ↓foldl_clock_Core, ↓iter_clock_Core, ↓foldl_clock_Clus, ↓iter_clock_Clus, ↓foldl_clock_Pkg, ↓iter_clock_Pkg, implies_true, apply_ite Pkg.clock, ite_self]; done) | with_reducible refine ite_clock_Pkg ?_ ?_ | with_reducible refine foldl_clock_Pkg' (fun _ _ => ?_) ?_ | with_reducible refine iter_clock_Pkg' (fun _ _ => ?_) ?_ | with_reducible refine foldl2_clock_Pkg' (fun _ _ => ?_) ?_ | with_reducible refine foldl3_clock_Pkg' (fun _ _ => ?_) ?_ | with_reducible refine ite_clock_Clus ?_ ?_ | with_reducible refine foldl_clock_Clus' (fun _ _ => ?_) ?_ | with_reducible refine iter_clock_Clus' (fun _ _ => ?_) ?_ | with_reducible refine foldl2_clock_Clus' (fun _ _ => ?_) ?_ | with_reducible refine foldl3_clock_Clus' (fun _ _ => ?_) ?_ | with_reducible refine ite_clock_Core ?_ ?_ | with_reducible refine foldl_clock_Core' (fun _ _ => ?_) ?_ | with_reducible refine iter_clock_Core' (fun _ _ => ?_) ?_ | with_reducible refine foldl2_clock_Core' (fun _ _ => ?_) ?_ | with_reducible refine foldl3_clock_Core' (fun _ _ => ?_) ?_ | simp only [↓Clus.copyDebug_clock, ↓Pkg.copyRegion_clock, ↓Pkg.setRingDead_clock, ↓Core.clock_eta, ↓Core.clock_mk, ↓Clus.clock_mk, ↓Clus.core_clock, ↓Pkg.clock_mk, ↓Pkg.cl_clock, ↓Pkg.onClus_clock] | with_reducible refine of_eq_clock_Pkg ‹_› ?_ | with_reducible refine of_eq1_clock_Pkg ‹_› ?_ | with_reducible refine of_eq_clock_Clus ‹_› ?_ | with_reducible refine of_eq1_clock_Clus ‹_› ?_ | with_reducible refine of_eq_clock_Core ‹_› ?_ | with_reducible refine of_eq1_clock_Core ‹_› ?_ | split | dsimp only)

theorem Pkg.dieRelief_clock (k a1 a2 a3) : (Pkg.dieRelief k a1 a2 a3).clock = k.clock := by
  unfold Pkg.dieRelief
  repeat' (first | (simp only [↓Clus.core_clock, ↓Pkg.cl_clock, ↓Clus.copyDescs_clock, ↓Clus.faultJob_clock, ↓Clus.stopUnits_clock, ↓Core.copyTablets_clock, ↓Core.fwEvent_clock, ↓Core.lcArm_clock, ↓Core.setFence_clock, ↓Core.swapTables_clock, ↓Pkg.biShow_clock, ↓Pkg.copyCluster_clock, ↓Pkg.copyTT_clock, ↓Pkg.fenceField_clock, ↓Pkg.onBi_clock, ↓Pkg.onClus_clock, ↓Pkg.onCore_clock, ↓Pkg.setMove_clock, ↓Pkg.setTest_clock, ↓Pkg.stopTest_clock, ↓iter_clock_Pkg, ↓foldl_clock_Pkg, implies_true, apply_ite Pkg.clock, ite_self]; done) | with_reducible refine ite_clock_Pkg ?_ ?_ | split | dsimp only)

theorem Pkg.diagMove_clock (k a1) : (Pkg.diagMove k a1).clock = k.clock := by
  unfold Pkg.diagMove
  simp only [↓Pkg.diagEnd_clock, ↓Pkg.diagStart_clock, ↓Pkg.dieRelief_clock, ↓Pkg.rotate_clock, apply_ite Pkg.clock, ite_self]

theorem Pkg.diagPoll_clock (k) : (Pkg.diagPoll k).clock = k.clock := by
  unfold Pkg.diagPoll
  simp only [↓Pkg.diagEnd_clock, ↓Pkg.diagMove_clock, ↓foldl_clock_Pkg, implies_true, apply_ite Pkg.clock, ite_self]

theorem Pkg.diagCmd_clock (k a1 a2 a3) : (Pkg.diagCmd k a1 a2 a3).clock = k.clock := by
  unfold Pkg.diagCmd
  simp only [↓Pkg.cmdRun_clock, ↓Pkg.devCmd_clock, ↓Pkg.devInvalid_clock, ↓Pkg.diagPoll_clock, ↓Pkg.onBi_clock, implies_true, apply_ite Pkg.clock, ite_self]

theorem Pkg.svnBurn_clock (k) : (Pkg.svnBurn k).clock = k.clock := by
  unfold Pkg.svnBurn
  simp only [↓Clus.core_clock, ↓Pkg.cl_clock, ↓Core.record_clock, ↓Pkg.onBu_clock, ↓Pkg.onCore_clock, apply_ite Pkg.clock, ite_self]

theorem Pkg.enterFull_clock (k) : (Pkg.enterFull k).clock = k.clock := by
  unfold Pkg.enterFull
  simp only [↓Clus.core_clock, ↓Pkg.cl_clock, ↓Core.pendClock_clock, ↓Core.setFld_clock, ↓Pkg.onBu_clock, ↓Pkg.onCore_clock, ↓Pkg.setDevState_clock, ↓Pkg.svnBurn_clock]

theorem Pkg.stateEvent_clock (k a1) : (Pkg.stateEvent k a1).clock = k.clock := by
  unfold Pkg.stateEvent
  simp only [↓Pkg.pwEvent_clock]

theorem Pkg.runningCmd_clock (k a1) : (Pkg.runningCmd k a1).clock = k.clock := by
  unfold Pkg.runningCmd
  simp only [↓Clus.core_clock, ↓Pkg.cl_clock, ↓Core.setFld_clock, ↓Pkg.cmdRun_clock, ↓Pkg.devCmd_clock, ↓Pkg.devEnd_clock, ↓Pkg.enterFull_clock, ↓Pkg.onCore_clock, ↓Pkg.onPw_clock, ↓Pkg.setDevState_clock, ↓Pkg.stateEvent_clock, implies_true, apply_ite Pkg.clock, ite_self]

theorem Pkg.stopRotations_clock (k) : (Pkg.stopRotations k).clock = k.clock := by
  unfold Pkg.stopRotations
  simp only [↓Pkg.abandon_clock, ↓foldl_clock_Pkg, implies_true]

theorem Pkg.idleCmd_clock (k a1) : (Pkg.idleCmd k a1).clock = k.clock := by
  unfold Pkg.idleCmd
  simp only [↓Pkg.devCmd_clock, ↓Pkg.devEnd_clock, ↓Pkg.onPw_clock, ↓Pkg.setDevState_clock, ↓Pkg.stateEvent_clock, ↓Pkg.stopRotations_clock, implies_true]

theorem Pkg.salNarrow_clock (k) : (Pkg.salNarrow k).clock = k.clock := by
  unfold Pkg.salNarrow
  simp only [↓Pkg.setLanes_clock, apply_ite Pkg.clock, ite_self]

theorem Pkg.setWhy_clock (k a1 a2) : (Pkg.setWhy k a1 a2).clock = k.clock := by
  unfold Pkg.setWhy
  simp only [↓Pkg.onNet_clock, apply_ite Pkg.clock, ite_self]

theorem Pkg.writeAt_clock (k a1) : (Pkg.writeAt k a1).clock = k.clock := by
  unfold Pkg.writeAt
  simp only [↓Pkg.dpaWrite_clock, ↓Pkg.inject_clock, ↓Pkg.lineWrite_clock, ↓Pkg.setWhy_clock, apply_ite Pkg.clock, ite_self]

theorem Pkg.flushHbm_clock (k) : (Pkg.flushHbm k).clock = k.clock := by
  unfold Pkg.flushHbm
  simp only [↓Pkg.writeAt_clock, ↓foldl_clock_Pkg, implies_true]

theorem Pkg.seedsAgain_clock (k) : (Pkg.seedsAgain k).clock = k.clock := by
  unfold Pkg.seedsAgain
  repeat' (first | (simp only [↓Clus.core_clock, ↓Pkg.cl_clock, ↓Core.wr8_clock, ↓Pkg.onCore_clock, ↓iter_clock_Core, implies_true]; done) | with_reducible refine ite_clock_Pkg ?_ ?_ | with_reducible refine foldl_clock_Pkg' (fun _ _ => ?_) ?_ | split | dsimp only)

theorem Pkg.computeCold_clock (k a1) : (Pkg.computeCold k a1).clock = k.clock := by
  unfold Pkg.computeCold
  simp only [↓Core.clock_eta, ↓Core.clock_mk, ↓Clus.clock_mk, ↓Pkg.clock_mk, ↓Clus.core_clock, ↓Pkg.cl_clock, ↓Core.resetPages_clock, ↓Pkg.flushHbm_clock, ↓Pkg.onBi_clock, ↓Pkg.onFab_clock, ↓Pkg.onFw_clock, ↓Pkg.seedsAgain_clock]

theorem Pkg.layUp_clock (k a1) : (Pkg.layUp k a1).clock = k.clock := by
  unfold Pkg.layUp
  simp only [↓Clus.core_clock, ↓Pkg.cl_clock, ↓Clus.keepBanks_clock, ↓Core.railDown_clock, ↓Core.setFld_clock, ↓Core.setTimeState_clock, ↓Pkg.byeIdle_clock, ↓Pkg.computeCold_clock, ↓Pkg.devEnd_clock, ↓Pkg.diagEnd_clock, ↓Pkg.onClus_clock, ↓Pkg.onCore_clock, ↓Pkg.onHbm_clock, ↓Pkg.onPw_clock, ↓Pkg.salNarrow_clock, ↓Pkg.setDevState_clock, ↓Pkg.stateEvent_clock, ↓Pkg.stopRotations_clock, ↓foldl_clock_Pkg, ↓foldl_clock_Core, implies_true]

theorem Pkg.laidUpCmd_clock (k a1) : (Pkg.laidUpCmd k a1).clock = k.clock := by
  unfold Pkg.laidUpCmd
  simp only [↓Pkg.cmdRun_clock, ↓Pkg.devCmd_clock, ↓Pkg.layUp_clock, implies_true, apply_ite Pkg.clock, ite_self]

theorem Pkg.powerCapCmd_clock (k a1 a2) : (Pkg.powerCapCmd k a1 a2).clock = k.clock := by
  unfold Pkg.powerCapCmd
  simp only [↓Pkg.devCmd_clock, ↓Pkg.devEnd_clock, ↓Pkg.devInvalid_clock, ↓Pkg.onPw_clock, implies_true, apply_ite Pkg.clock, ite_self]

theorem Pkg.drawTaken_clock (k a1) : (Pkg.drawTaken k a1).2.clock = k.clock := by
  unfold Pkg.drawTaken
  simp only [↓Clus.core_clock, ↓Pkg.cl_clock, ↓Core.draw_clock, ↓Pkg.onCore_clock]

theorem Pkg.dumpOut_clock (k a1 a2) : (Pkg.dumpOut k a1 a2).clock = k.clock := by
  unfold Pkg.dumpOut
  simp only [↓Clus.core_clock, ↓Pkg.cl_clock, ↓Core.fwEvent_clock, ↓Pkg.hostWrite_clock, ↓Pkg.onCore_clock, ↓Pkg.onFw_clock, apply_ite Pkg.clock, ite_self]

theorem Pkg.dumpEnd_clock (k a1) : (Pkg.dumpEnd k a1).clock = k.clock := by
  unfold Pkg.dumpEnd
  repeat' (first | (simp only [↓Pkg.drawTaken_clock, ↓Pkg.dumpOut_clock, ↓Pkg.onFw_clock]; done) | with_reducible refine ite_clock_Pkg ?_ ?_ | split)

theorem Pkg.dumpStart_clock (k a1 a2 a3 a4) : (Pkg.dumpStart k a1 a2 a3 a4).clock = k.clock := by
  unfold Pkg.dumpStart
  repeat' (first | (simp only [↓Pkg.dumpEnd_clock, ↓Pkg.onFw_clock, apply_ite Pkg.clock, ite_self]; done) | with_reducible refine ite_clock_Pkg ?_ ?_ | split)

theorem Pkg.exchEnd_clock (k a1 a2) : (Pkg.exchEnd k a1 a2).clock = k.clock := by
  unfold Pkg.exchEnd
  repeat' (first | (simp only [↓Pkg.cmdEnd_clock, ↓Pkg.onFw_clock]; done) | with_reducible refine ite_clock_Pkg ?_ ?_ | split)

theorem Pkg.resetBegin_clock (k a1 a2 a3 a4 a5 a6) : (Pkg.resetBegin k a1 a2 a3 a4 a5 a6).clock = k.clock := by
  unfold Pkg.resetBegin
  repeat' (first | (simp only [↓Pkg.clock_mk, ↓Clus.core_clock, ↓Pkg.cl_clock, ↓Core.fwEvent_clock, ↓Pkg.cmdRun_clock, ↓Pkg.dumpStart_clock, ↓Pkg.exchEnd_clock, ↓Pkg.onCore_clock, ↓Pkg.onFw_clock, ↓Pkg.setDevState_clock, ↓Pkg.stopEmit_clock, ↓foldl_clock_Pkg, implies_true, apply_ite Pkg.clock, ite_self]; done) | with_reducible refine ite_clock_Pkg ?_ ?_ | split)

theorem Pkg.resetCmd_clock (k a1 a2) : (Pkg.resetCmd k a1 a2).clock = k.clock := by
  unfold Pkg.resetCmd
  simp only [↓Pkg.cmdRun_clock, ↓Pkg.devCmd_clock, ↓Pkg.onPw_clock, ↓Pkg.resetBegin_clock, implies_true, apply_ite Pkg.clock, ite_self]

theorem Pkg.resetDieCmd_clock (k a1 a2) : (Pkg.resetDieCmd k a1 a2).clock = k.clock := by
  unfold Pkg.resetDieCmd
  simp only [↓Pkg.cmdReject_clock, ↓Pkg.devCmd_clock, ↓Pkg.resetBegin_clock, implies_true, apply_ite Pkg.clock, ite_self]

theorem Pkg.trainRecordCmd_clock (k a1 a2) : (Pkg.trainRecordCmd k a1 a2).clock = k.clock := by
  unfold Pkg.trainRecordCmd
  simp only [↓Pkg.devCmd_clock, ↓Pkg.devEnd_clock, ↓Pkg.hostWrite_clock, implies_true]

theorem Pkg.flipBank_clock (k a1) : (Pkg.flipBank k a1).clock = k.clock := by
  unfold Pkg.flipBank
  simp only [↓Pkg.onFw_clock]

theorem Pkg.fwExchange_clock (k a1 a2 a3) : (Pkg.fwExchange k a1 a2 a3).clock = k.clock := by
  unfold Pkg.fwExchange
  simp only [↓Pkg.cmdEnd_clock, ↓Pkg.cmdRun_clock, ↓Pkg.devCmd_clock, ↓Pkg.flipBank_clock, ↓Pkg.onFw_clock, implies_true, apply_ite Pkg.clock, ite_self]

theorem Pkg.drillSetCmd_clock (k a1 a2 a3 a4) : (Pkg.drillSetCmd k a1 a2 a3 a4).clock = k.clock := by
  unfold Pkg.drillSetCmd
  repeat' (first | with_reducible rfl | (simp only [↓Core.rejectNote_clock, ↓Pkg.devCmd_clock, ↓Pkg.devEnd_clock, ↓Pkg.devInvalid_clock, ↓Core.clock_eta, ↓Core.clock_mk, ↓Clus.clock_mk, ↓Clus.core_clock, ↓Clus.onCore_clock, ↓Pkg.clock_mk, ↓Pkg.cl_clock, ↓Pkg.onCore_clock, ↓Pkg.onBi_clock, ↓foldl_clock_Core, ↓iter_clock_Core, ↓foldl_clock_Clus, ↓iter_clock_Clus, ↓foldl_clock_Pkg, ↓iter_clock_Pkg, implies_true, apply_ite Pkg.clock, ite_self]; done) | with_reducible refine (Pkg.devCmd_clock _ _ _ _ _ _ (fun _ => ?_)).trans ?_ | with_reducible refine ite_clock_Pkg ?_ ?_ | with_reducible refine foldl_clock_Pkg' (fun _ _ => ?_) ?_ | with_reducible refine iter_clock_Pkg' (fun _ _ => ?_) ?_ | with_reducible refine foldl2_clock_Pkg' (fun _ _ => ?_) ?_ | with_reducible refine foldl3_clock_Pkg' (fun _ _ => ?_) ?_ | with_reducible refine ite_clock_Clus ?_ ?_ | with_reducible refine foldl_clock_Clus' (fun _ _ => ?_) ?_ | with_reducible refine iter_clock_Clus' (fun _ _ => ?_) ?_ | with_reducible refine foldl2_clock_Clus' (fun _ _ => ?_) ?_ | with_reducible refine foldl3_clock_Clus' (fun _ _ => ?_) ?_ | with_reducible refine ite_clock_Core ?_ ?_ | with_reducible refine foldl_clock_Core' (fun _ _ => ?_) ?_ | with_reducible refine iter_clock_Core' (fun _ _ => ?_) ?_ | with_reducible refine foldl2_clock_Core' (fun _ _ => ?_) ?_ | with_reducible refine foldl3_clock_Core' (fun _ _ => ?_) ?_ | simp only [↓Core.rejectNote_clock, ↓Pkg.devCmd_clock, ↓Pkg.devEnd_clock, ↓Pkg.devInvalid_clock, ↓Core.clock_eta, ↓Core.clock_mk, ↓Clus.clock_mk, ↓Clus.core_clock, ↓Clus.onCore_clock, ↓Pkg.clock_mk, ↓Pkg.cl_clock, ↓Pkg.onCore_clock, ↓Pkg.onBi_clock] | with_reducible refine of_eq_clock_Pkg ‹_› ?_ | with_reducible refine of_eq1_clock_Pkg ‹_› ?_ | with_reducible refine of_eq_clock_Clus ‹_› ?_ | with_reducible refine of_eq1_clock_Clus ‹_› ?_ | with_reducible refine of_eq_clock_Core ‹_› ?_ | with_reducible refine of_eq1_clock_Core ‹_› ?_ | split | dsimp only)

theorem Pkg.drillBegin_clock (k a1 a2) : (Pkg.drillBegin k a1 a2).clock = k.clock := by
  unfold Pkg.drillBegin
  simp only [↓Pkg.drillSetCmd_clock]

theorem Pkg.devBegin_clock (k a1 a2 a3) : (Pkg.devBegin k a1 a2 a3).clock = k.clock := by
  unfold Pkg.devBegin
  repeat' (first | (simp only [↓Pkg.attachSetCmd_clock, ↓Pkg.cmdRun_clock, ↓Pkg.devCmd_clock, ↓Pkg.devInvalid_clock, ↓Pkg.diagCmd_clock, ↓Pkg.drillBegin_clock, ↓Pkg.fwExchange_clock, ↓Pkg.idleCmd_clock, ↓Pkg.laidUpCmd_clock, ↓Pkg.nopCmd_clock, ↓Pkg.powerCapCmd_clock, ↓Pkg.resetCmd_clock, ↓Pkg.resetDieCmd_clock, ↓Pkg.runningCmd_clock, ↓Pkg.setNodeCmd_clock, ↓Pkg.stopGroupCmd_clock, ↓Pkg.takeoverCmd_clock, ↓Pkg.trainRecordCmd_clock, ↓Pkg.windowSetCmd_clock, implies_true, apply_ite Pkg.clock, ite_self]; done) | with_reducible refine ite_clock_Pkg ?_ ?_ | split | dsimp only)

theorem Pkg.jobCreate_clock (k a1 a2 a3 a4) : (Pkg.jobCreate k a1 a2 a3 a4).clock = k.clock := by
  unfold Pkg.jobCreate
  simp only [↓Clus.core_clock, ↓Pkg.cl_clock, ↓Core.wr8_clock, ↓Pkg.cmdEnd_clock, ↓Pkg.jobCmd_clock, ↓Pkg.onCore_clock, ↓Pkg.setJob_clock, ↓Pkg.setJobState_clock, ↓iter_clock_Core, implies_true]

theorem Pkg.jobLoad_clock (k a1 a2 a3 a4 a5) : (Pkg.jobLoad k a1 a2 a3 a4 a5).clock = k.clock := by
  unfold Pkg.jobLoad
  repeat' (first | with_reducible rfl | (simp only [↓Core.rejectNote_clock, ↓Pkg.cmdEnd_clock, ↓Pkg.cmdReject_clock, ↓Pkg.dpaRead_clock, ↓Pkg.dpaWrite_clock, ↓Pkg.jobCmd_clock, ↓Pkg.setJob_clock, ↓Pkg.setJobState_clock, ↓Core.clock_eta, ↓Core.clock_mk, ↓Clus.clock_mk, ↓Clus.core_clock, ↓Clus.onCore_clock, ↓Pkg.clock_mk, ↓Pkg.cl_clock, ↓Pkg.onCore_clock, ↓foldl_clock_Core, ↓iter_clock_Core, ↓foldl_clock_Clus, ↓iter_clock_Clus, ↓foldl_clock_Pkg, ↓iter_clock_Pkg, implies_true, apply_ite Pkg.clock, ite_self, apply_ite Prod.fst, apply_ite Prod.snd]; done) | with_reducible refine (Pkg.jobCmd_clock _ _ _ _ _ _ _ (fun _ => ?_)).trans ?_ | with_reducible refine ite_clock_Pkg ?_ ?_ | with_reducible refine foldl_clock_Pkg' (fun _ _ => ?_) ?_ | with_reducible refine iter_clock_Pkg' (fun _ _ => ?_) ?_ | with_reducible refine foldl2_clock_Pkg' (fun _ _ => ?_) ?_ | with_reducible refine foldl3_clock_Pkg' (fun _ _ => ?_) ?_ | with_reducible refine ite_clock_Clus ?_ ?_ | with_reducible refine foldl_clock_Clus' (fun _ _ => ?_) ?_ | with_reducible refine iter_clock_Clus' (fun _ _ => ?_) ?_ | with_reducible refine foldl2_clock_Clus' (fun _ _ => ?_) ?_ | with_reducible refine foldl3_clock_Clus' (fun _ _ => ?_) ?_ | with_reducible refine ite_clock_Core ?_ ?_ | with_reducible refine foldl_clock_Core' (fun _ _ => ?_) ?_ | with_reducible refine iter_clock_Core' (fun _ _ => ?_) ?_ | with_reducible refine foldl2_clock_Core' (fun _ _ => ?_) ?_ | with_reducible refine foldl3_clock_Core' (fun _ _ => ?_) ?_ | simp only [↓Core.rejectNote_clock, ↓Pkg.cmdEnd_clock, ↓Pkg.cmdReject_clock, ↓Pkg.dpaRead_clock, ↓Pkg.dpaWrite_clock, ↓Pkg.jobCmd_clock, ↓Pkg.setJob_clock, ↓Pkg.setJobState_clock, ↓Core.clock_eta, ↓Core.clock_mk, ↓Clus.clock_mk, ↓Clus.core_clock, ↓Clus.onCore_clock, ↓Pkg.clock_mk, ↓Pkg.cl_clock, ↓Pkg.onCore_clock] | with_reducible refine of_eq_clock_Pkg ‹_› ?_ | with_reducible refine of_eq1_clock_Pkg ‹_› ?_ | with_reducible refine of_eq_clock_Clus ‹_› ?_ | with_reducible refine of_eq1_clock_Clus ‹_› ?_ | with_reducible refine of_eq_clock_Core ‹_› ?_ | with_reducible refine of_eq1_clock_Core ‹_› ?_ | split | dsimp only)

theorem Pkg.spillOne_clock (k a1 a2 a3 a4) : (Pkg.spillOne k a1 a2 a3 a4).clock = k.clock := by
  unfold Pkg.spillOne
  repeat' (first | with_reducible rfl | (simp only [↓Clus.descWrite_clock, ↓Clus.stTouch_clock, ↓Pkg.dpaWrite_clock, ↓Pkg.setJob_clock, ↓Core.clock_eta, ↓Core.clock_mk, ↓Clus.clock_mk, ↓Clus.core_clock, ↓Pkg.clock_mk, ↓Pkg.cl_clock, ↓Pkg.onClus_clock, ↓foldl_clock_Core, ↓iter_clock_Core, ↓foldl_clock_Clus, ↓iter_clock_Clus, ↓foldl_clock_Pkg, ↓iter_clock_Pkg, implies_true, apply_ite Pkg.clock, ite_self]; done) | with_reducible refine ite_clock_Pkg ?_ ?_ | with_reducible refine foldl_clock_Pkg' (fun _ _ => ?_) ?_ | with_reducible refine iter_clock_Pkg' (fun _ _ => ?_) ?_ | with_reducible refine foldl2_clock_Pkg' (fun _ _ => ?_) ?_ | with_reducible refine foldl3_clock_Pkg' (fun _ _ => ?_) ?_ | with_reducible refine ite_clock_Clus ?_ ?_ | with_reducible refine foldl_clock_Clus' (fun _ _ => ?_) ?_ | with_reducible refine iter_clock_Clus' (fun _ _ => ?_) ?_ | with_reducible refine foldl2_clock_Clus' (fun _ _ => ?_) ?_ | with_reducible refine foldl3_clock_Clus' (fun _ _ => ?_) ?_ | with_reducible refine ite_clock_Core ?_ ?_ | with_reducible refine foldl_clock_Core' (fun _ _ => ?_) ?_ | with_reducible refine iter_clock_Core' (fun _ _ => ?_) ?_ | with_reducible refine foldl2_clock_Core' (fun _ _ => ?_) ?_ | with_reducible refine foldl3_clock_Core' (fun _ _ => ?_) ?_ | simp only [↓Clus.descWrite_clock, ↓Clus.stTouch_clock, ↓Pkg.dpaWrite_clock, ↓Pkg.setJob_clock, ↓Core.clock_eta, ↓Core.clock_mk, ↓Clus.clock_mk, ↓Clus.core_clock, ↓Pkg.clock_mk, ↓Pkg.cl_clock, ↓Pkg.onClus_clock] | with_reducible refine of_eq_clock_Pkg ‹_› ?_ | with_reducible refine of_eq1_clock_Pkg ‹_› ?_ | with_reducible refine of_eq_clock_Clus ‹_› ?_ | with_reducible refine of_eq1_clock_Clus ‹_› ?_ | with_reducible refine of_eq_clock_Core ‹_› ?_ | with_reducible refine of_eq1_clock_Core ‹_› ?_ | split | dsimp only)

theorem Pkg.turnBegin_clock (k a1 a2) : (Pkg.turnBegin k a1 a2).clock = k.clock := by
  unfold Pkg.turnBegin
  repeat' (first | with_reducible rfl | (simp only [↓Pkg.spillOne_clock, ↓Pkg.turnIn_clock, ↓Core.clock_eta, ↓Core.clock_mk, ↓Clus.clock_mk, ↓Clus.core_clock, ↓Pkg.clock_mk, ↓Pkg.cl_clock, ↓foldl_clock_Core, ↓iter_clock_Core, ↓foldl_clock_Clus, ↓iter_clock_Clus, ↓foldl_clock_Pkg, ↓iter_clock_Pkg, implies_true, apply_ite Pkg.clock, ite_self]; done) | with_reducible refine ite_clock_Pkg ?_ ?_ | with_reducible refine foldl_clock_Pkg' (fun _ _ => ?_) ?_ | with_reducible refine iter_clock_Pkg' (fun _ _ => ?_) ?_ | with_reducible refine foldl2_clock_Pkg' (fun _ _ => ?_) ?_ | with_reducible refine foldl3_clock_Pkg' (fun _ _ => ?_) ?_ | with_reducible refine ite_clock_Clus ?_ ?_ | with_reducible refine foldl_clock_Clus' (fun _ _ => ?_) ?_ | with_reducible refine iter_clock_Clus' (fun _ _ => ?_) ?_ | with_reducible refine foldl2_clock_Clus' (fun _ _ => ?_) ?_ | with_reducible refine foldl3_clock_Clus' (fun _ _ => ?_) ?_ | with_reducible refine ite_clock_Core ?_ ?_ | with_reducible refine foldl_clock_Core' (fun _ _ => ?_) ?_ | with_reducible refine iter_clock_Core' (fun _ _ => ?_) ?_ | with_reducible refine foldl2_clock_Core' (fun _ _ => ?_) ?_ | with_reducible refine foldl3_clock_Core' (fun _ _ => ?_) ?_ | simp only [↓Pkg.spillOne_clock, ↓Pkg.turnIn_clock, ↓Core.clock_eta, ↓Core.clock_mk, ↓Clus.clock_mk, ↓Clus.core_clock, ↓Pkg.clock_mk, ↓Pkg.cl_clock] | with_reducible refine of_eq_clock_Pkg ‹_› ?_ | with_reducible refine of_eq1_clock_Pkg ‹_› ?_ | with_reducible refine of_eq_clock_Clus ‹_› ?_ | with_reducible refine of_eq1_clock_Clus ‹_› ?_ | with_reducible refine of_eq_clock_Core ‹_› ?_ | with_reducible refine of_eq1_clock_Core ‹_› ?_ | split | dsimp only)

theorem Pkg.unplace_clock (k a1) : (Pkg.unplace k a1).clock = k.clock := by
  unfold Pkg.unplace
  simp only [↓Clus.core_clock, ↓Pkg.cl_clock, ↓Clus.closeJob_clock, ↓Clus.descWrite_clock, ↓Core.wr_clock, ↓Pkg.onClus_clock, ↓Pkg.onCore_clock, ↓Pkg.onFab_clock, ↓Pkg.onJob_clock, ↓Pkg.onNet_clock, ↓iter_clock_Clus, ↓iter_clock_Core, implies_true, apply_ite Clus.clock, apply_ite Core.clock, ite_self]

theorem Pkg.poll_clock (k) : (Pkg.poll k).clock = k.clock := by
  unfold Pkg.poll
  repeat' (first | with_reducible rfl | (simp only [↓Clus.abortJob_clock, ↓Clus.circStop_clock, ↓Clus.circSuspend_clock, ↓Pkg.cmdEnd_clock, ↓Pkg.eachCirc_clock, ↓Pkg.setJobState_clock, ↓Pkg.startCircs_clock, ↓Pkg.turnBegin_clock, ↓Pkg.turnIn_clock, ↓Pkg.unplace_clock, ↓Core.clock_eta, ↓Core.clock_mk, ↓Clus.clock_mk, ↓Clus.core_clock, ↓Pkg.clock_mk, ↓Pkg.cl_clock, ↓Pkg.onClus_clock, ↓foldl_clock_Core, ↓iter_clock_Core, ↓foldl_clock_Clus, ↓iter_clock_Clus, ↓foldl_clock_Pkg, ↓iter_clock_Pkg, implies_true, apply_ite Pkg.clock, ite_self]; done) | with_reducible refine (Pkg.eachCirc_clock _ _ _ _ (fun _ _ _ => ?_)).trans ?_ | with_reducible refine ite_clock_Pkg ?_ ?_ | with_reducible refine foldl_clock_Pkg' (fun _ _ => ?_) ?_ | with_reducible refine iter_clock_Pkg' (fun _ _ => ?_) ?_ | with_reducible refine foldl2_clock_Pkg' (fun _ _ => ?_) ?_ | with_reducible refine foldl3_clock_Pkg' (fun _ _ => ?_) ?_ | with_reducible refine ite_clock_Clus ?_ ?_ | with_reducible refine foldl_clock_Clus' (fun _ _ => ?_) ?_ | with_reducible refine iter_clock_Clus' (fun _ _ => ?_) ?_ | with_reducible refine foldl2_clock_Clus' (fun _ _ => ?_) ?_ | with_reducible refine foldl3_clock_Clus' (fun _ _ => ?_) ?_ | with_reducible refine ite_clock_Core ?_ ?_ | with_reducible refine foldl_clock_Core' (fun _ _ => ?_) ?_ | with_reducible refine iter_clock_Core' (fun _ _ => ?_) ?_ | with_reducible refine foldl2_clock_Core' (fun _ _ => ?_) ?_ | with_reducible refine foldl3_clock_Core' (fun _ _ => ?_) ?_ | simp only [↓Clus.abortJob_clock, ↓Clus.circStop_clock, ↓Clus.circSuspend_clock, ↓Pkg.cmdEnd_clock, ↓Pkg.eachCirc_clock, ↓Pkg.setJobState_clock, ↓Pkg.startCircs_clock, ↓Pkg.turnBegin_clock, ↓Pkg.turnIn_clock, ↓Pkg.unplace_clock, ↓Core.clock_eta, ↓Core.clock_mk, ↓Clus.clock_mk, ↓Clus.core_clock, ↓Pkg.clock_mk, ↓Pkg.cl_clock, ↓Pkg.onClus_clock] | with_reducible refine of_eq_clock_Pkg ‹_› ?_ | with_reducible refine of_eq1_clock_Pkg ‹_› ?_ | with_reducible refine of_eq_clock_Clus ‹_› ?_ | with_reducible refine of_eq1_clock_Clus ‹_› ?_ | with_reducible refine of_eq_clock_Core ‹_› ?_ | with_reducible refine of_eq1_clock_Core ‹_› ?_ | split | dsimp only)

theorem Pkg.jobStart_clock (k a1 a2) : (Pkg.jobStart k a1 a2).clock = k.clock := by
  unfold Pkg.jobStart
  repeat' (first | with_reducible rfl | (simp only [↓Pkg.cmdEnd_clock, ↓Pkg.cmdReject_clock, ↓Pkg.cmdRun_clock, ↓Pkg.giveTurns_clock, ↓Pkg.jobCmd_clock, ↓Pkg.placeJob_clock, ↓Pkg.poll_clock, ↓Pkg.setJob_clock, ↓Pkg.setJobState_clock, ↓Core.clock_eta, ↓Core.clock_mk, ↓Clus.clock_mk, ↓Clus.core_clock, ↓Pkg.clock_mk, ↓Pkg.cl_clock, ↓foldl_clock_Core, ↓iter_clock_Core, ↓foldl_clock_Clus, ↓iter_clock_Clus, ↓foldl_clock_Pkg, ↓iter_clock_Pkg, implies_true, apply_ite Pkg.clock, ite_self]; done) | with_reducible refine (Pkg.jobCmd_clock _ _ _ _ _ _ _ (fun _ => ?_)).trans ?_ | with_reducible refine ite_clock_Pkg ?_ ?_ | with_reducible refine foldl_clock_Pkg' (fun _ _ => ?_) ?_ | with_reducible refine iter_clock_Pkg' (fun _ _ => ?_) ?_ | with_reducible refine foldl2_clock_Pkg' (fun _ _ => ?_) ?_ | with_reducible refine foldl3_clock_Pkg' (fun _ _ => ?_) ?_ | with_reducible refine ite_clock_Clus ?_ ?_ | with_reducible refine foldl_clock_Clus' (fun _ _ => ?_) ?_ | with_reducible refine iter_clock_Clus' (fun _ _ => ?_) ?_ | with_reducible refine foldl2_clock_Clus' (fun _ _ => ?_) ?_ | with_reducible refine foldl3_clock_Clus' (fun _ _ => ?_) ?_ | with_reducible refine ite_clock_Core ?_ ?_ | with_reducible refine foldl_clock_Core' (fun _ _ => ?_) ?_ | with_reducible refine iter_clock_Core' (fun _ _ => ?_) ?_ | with_reducible refine foldl2_clock_Core' (fun _ _ => ?_) ?_ | with_reducible refine foldl3_clock_Core' (fun _ _ => ?_) ?_ | simp only [↓Pkg.cmdEnd_clock, ↓Pkg.cmdReject_clock, ↓Pkg.cmdRun_clock, ↓Pkg.giveTurns_clock, ↓Pkg.jobCmd_clock, ↓Pkg.placeJob_clock, ↓Pkg.poll_clock, ↓Pkg.setJob_clock, ↓Pkg.setJobState_clock, ↓Core.clock_eta, ↓Core.clock_mk, ↓Clus.clock_mk, ↓Clus.core_clock, ↓Pkg.clock_mk, ↓Pkg.cl_clock] | with_reducible refine of_eq_clock_Pkg ‹_› ?_ | with_reducible refine of_eq1_clock_Pkg ‹_› ?_ | with_reducible refine of_eq_clock_Clus ‹_› ?_ | with_reducible refine of_eq1_clock_Clus ‹_› ?_ | with_reducible refine of_eq_clock_Core ‹_› ?_ | with_reducible refine of_eq1_clock_Core ‹_› ?_ | split | dsimp only)

theorem Pkg.jobSuspend_clock (k a1 a2) : (Pkg.jobSuspend k a1 a2).clock = k.clock := by
  unfold Pkg.jobSuspend
  simp only [↓Clus.circSuspend_clock, ↓Pkg.cmdRun_clock, ↓Pkg.eachCirc_clock, ↓Pkg.jobCmd_clock, ↓Pkg.onJob_clock, ↓Pkg.poll_clock, implies_true]

theorem Pkg.jobResume_clock (k a1 a2) : (Pkg.jobResume k a1 a2).clock = k.clock := by
  unfold Pkg.jobResume
  simp only [↓Clus.circResume_clock, ↓Pkg.cmdEnd_clock, ↓Pkg.eachCirc_clock, ↓Pkg.jobCmd_clock, ↓Pkg.onJob_clock, ↓Pkg.setJobState_clock, implies_true, apply_ite Pkg.clock, ite_self]

theorem Pkg.jobStop_clock (k a1 a2) : (Pkg.jobStop k a1 a2).clock = k.clock := by
  unfold Pkg.jobStop
  simp only [↓Clus.circStop_clock, ↓Pkg.cmdRun_clock, ↓Pkg.eachCirc_clock, ↓Pkg.jobCmd_clock, ↓Pkg.poll_clock, ↓Pkg.setJobState_clock, implies_true, apply_ite Pkg.clock, ite_self]

theorem Pkg.jobAbort_clock (k a1 a2) : (Pkg.jobAbort k a1 a2).clock = k.clock := by
  unfold Pkg.jobAbort
  simp only [↓Pkg.cl_clock, ↓Clus.abortJob_clock, ↓Pkg.cmdRun_clock, ↓Pkg.jobCmd_clock, ↓Pkg.onClus_clock, ↓Pkg.poll_clock, implies_true]

theorem Pkg.jobCheckpoint_clock (k a1 a2 a3 a4) : (Pkg.jobCheckpoint k a1 a2 a3 a4).clock = k.clock := by
  unfold Pkg.jobCheckpoint
  refine Pkg.jobCmd_clock _ _ _ _ _ _ _ (fun x => ?_)
  repeat' (first | (simp only [↓Pkg.cmdEnd_clock, ↓Pkg.cmdReject_clock, ↓Pkg.cmdRun_clock, ↓Pkg.onHbm_clock, apply_ite Pkg.clock, ite_self]; done) | with_reducible refine ite_clock_Pkg ?_ ?_ | with_reducible refine foldl_clock_Pkg' (fun _ _ => ?_) ?_ | with_reducible refine iter_clock_Pkg' (fun _ _ => ?_) ?_ | with_reducible refine foldl2_clock_Pkg' (fun _ _ => ?_) ?_ | with_reducible refine foldl3_clock_Pkg' (fun _ _ => ?_) ?_ | with_reducible refine ite_clock_Clus ?_ ?_ | with_reducible refine foldl_clock_Clus' (fun _ _ => ?_) ?_ | with_reducible refine iter_clock_Clus' (fun _ _ => ?_) ?_ | with_reducible refine foldl2_clock_Clus' (fun _ _ => ?_) ?_ | with_reducible refine foldl3_clock_Clus' (fun _ _ => ?_) ?_ | with_reducible refine ite_clock_Core ?_ ?_ | with_reducible refine foldl_clock_Core' (fun _ _ => ?_) ?_ | with_reducible refine iter_clock_Core' (fun _ _ => ?_) ?_ | with_reducible refine foldl2_clock_Core' (fun _ _ => ?_) ?_ | with_reducible refine foldl3_clock_Core' (fun _ _ => ?_) ?_ | simp only [↓Core.clock_eta] | with_reducible refine of_eq_clock_Pkg ‹_› ?_ | with_reducible refine of_eq1_clock_Pkg ‹_› ?_ | with_reducible refine of_eq_clock_Clus ‹_› ?_ | with_reducible refine of_eq1_clock_Clus ‹_› ?_ | with_reducible refine of_eq_clock_Core ‹_› ?_ | with_reducible refine of_eq1_clock_Core ‹_› ?_ | split | dsimp only)

theorem Pkg.jobRestore_clock (k a1 a2 a3) : (Pkg.jobRestore k a1 a2 a3).clock = k.clock := by
  unfold Pkg.jobRestore
  refine Pkg.jobCmd_clock _ _ _ _ _ _ _ (fun x => ?_)
  repeat' (first | (simp only [↓Pkg.cmdEnd_clock, ↓Pkg.dpaWrite_clock, ↓Pkg.onJob_clock, ↓Pkg.setJobState_clock, ↓Pkg.unplace_clock, ↓foldl_clock_Pkg, implies_true, apply_ite Pkg.clock, ite_self]; done) | with_reducible refine ite_clock_Pkg ?_ ?_ | with_reducible refine foldl_clock_Pkg' (fun _ _ => ?_) ?_ | with_reducible refine iter_clock_Pkg' (fun _ _ => ?_) ?_ | with_reducible refine foldl2_clock_Pkg' (fun _ _ => ?_) ?_ | with_reducible refine foldl3_clock_Pkg' (fun _ _ => ?_) ?_ | with_reducible refine ite_clock_Clus ?_ ?_ | with_reducible refine foldl_clock_Clus' (fun _ _ => ?_) ?_ | with_reducible refine iter_clock_Clus' (fun _ _ => ?_) ?_ | with_reducible refine foldl2_clock_Clus' (fun _ _ => ?_) ?_ | with_reducible refine foldl3_clock_Clus' (fun _ _ => ?_) ?_ | with_reducible refine ite_clock_Core ?_ ?_ | with_reducible refine foldl_clock_Core' (fun _ _ => ?_) ?_ | with_reducible refine iter_clock_Core' (fun _ _ => ?_) ?_ | with_reducible refine foldl2_clock_Core' (fun _ _ => ?_) ?_ | with_reducible refine foldl3_clock_Core' (fun _ _ => ?_) ?_ | simp only [↓Core.clock_eta] | with_reducible refine of_eq_clock_Pkg ‹_› ?_ | with_reducible refine of_eq1_clock_Pkg ‹_› ?_ | with_reducible refine of_eq_clock_Clus ‹_› ?_ | with_reducible refine of_eq1_clock_Clus ‹_› ?_ | with_reducible refine of_eq_clock_Core ‹_› ?_ | with_reducible refine of_eq1_clock_Core ‹_› ?_ | split | dsimp only)

theorem Pkg.segApply_clock (k) : (Pkg.segApply k).clock = k.clock := by
  unfold Pkg.segApply
  simp only [↓Pkg.onHbm_clock]

theorem Pkg.dropSegs_clock (k) (a1 : Nat → Bool) : (Pkg.dropSegs k a1).clock = k.clock := by
  unfold Pkg.dropSegs
  simp only [↓Clus.core_clock, ↓Pkg.cl_clock, ↓Core.setFld_clock, ↓Pkg.onCore_clock, ↓iter_clock_Core, implies_true, apply_ite Core.clock, ite_self]

theorem Pkg.jobDestroy_clock (k a1 a2) : (Pkg.jobDestroy k a1 a2).clock = k.clock := by
  unfold Pkg.jobDestroy
  simp only [↓Pkg.cmdEnd_clock, ↓Pkg.dropSegs_clock, ↓Pkg.jobCmd_clock, ↓Pkg.setJob_clock, ↓Pkg.setJobState_clock, ↓Pkg.unplace_clock, implies_true]

theorem Pkg.free_clock (k a1 a2 a3) : (Pkg.free k a1 a2 a3).clock = k.clock := by
  unfold Pkg.free
  simp only [↓Pkg.cmdEnd_clock, ↓Pkg.cmdReject_clock, ↓Pkg.dropSegs_clock, ↓Pkg.jobCmd_clock, ↓Pkg.onJob_clock, implies_true, apply_ite Pkg.clock, ite_self]

theorem Pkg.jobBegin_clock (k a1 a2 a3 a4) : (Pkg.jobBegin k a1 a2 a3 a4).clock = k.clock := by
  unfold Pkg.jobBegin
  repeat' (first | with_reducible rfl | (simp only [↓Pkg.alloc_clock, ↓Pkg.free_clock, ↓Pkg.jobAbort_clock, ↓Pkg.jobCheckpoint_clock, ↓Pkg.jobCreate_clock, ↓Pkg.jobDestroy_clock, ↓Pkg.jobLoad_clock, ↓Pkg.jobRestore_clock, ↓Pkg.jobResume_clock, ↓Pkg.jobStart_clock, ↓Pkg.jobStop_clock, ↓Pkg.jobSuspend_clock, ↓Core.clock_eta, ↓Core.clock_mk, ↓Clus.clock_mk, ↓Clus.core_clock, ↓Pkg.clock_mk, ↓Pkg.cl_clock, ↓foldl_clock_Core, ↓iter_clock_Core, ↓foldl_clock_Clus, ↓iter_clock_Clus, ↓foldl_clock_Pkg, ↓iter_clock_Pkg, implies_true, apply_ite Pkg.clock, ite_self]; done) | with_reducible refine ite_clock_Pkg ?_ ?_ | with_reducible refine foldl_clock_Pkg' (fun _ _ => ?_) ?_ | with_reducible refine iter_clock_Pkg' (fun _ _ => ?_) ?_ | with_reducible refine foldl2_clock_Pkg' (fun _ _ => ?_) ?_ | with_reducible refine foldl3_clock_Pkg' (fun _ _ => ?_) ?_ | with_reducible refine ite_clock_Clus ?_ ?_ | with_reducible refine foldl_clock_Clus' (fun _ _ => ?_) ?_ | with_reducible refine iter_clock_Clus' (fun _ _ => ?_) ?_ | with_reducible refine foldl2_clock_Clus' (fun _ _ => ?_) ?_ | with_reducible refine foldl3_clock_Clus' (fun _ _ => ?_) ?_ | with_reducible refine ite_clock_Core ?_ ?_ | with_reducible refine foldl_clock_Core' (fun _ _ => ?_) ?_ | with_reducible refine iter_clock_Core' (fun _ _ => ?_) ?_ | with_reducible refine foldl2_clock_Core' (fun _ _ => ?_) ?_ | with_reducible refine foldl3_clock_Core' (fun _ _ => ?_) ?_ | simp only [↓Pkg.alloc_clock, ↓Pkg.free_clock, ↓Pkg.jobAbort_clock, ↓Pkg.jobCheckpoint_clock, ↓Pkg.jobCreate_clock, ↓Pkg.jobDestroy_clock, ↓Pkg.jobLoad_clock, ↓Pkg.jobRestore_clock, ↓Pkg.jobResume_clock, ↓Pkg.jobStart_clock, ↓Pkg.jobStop_clock, ↓Pkg.jobSuspend_clock, ↓Core.clock_eta, ↓Core.clock_mk, ↓Clus.clock_mk, ↓Clus.core_clock, ↓Pkg.clock_mk, ↓Pkg.cl_clock] | with_reducible refine of_eq_clock_Pkg ‹_› ?_ | with_reducible refine of_eq1_clock_Pkg ‹_› ?_ | with_reducible refine of_eq_clock_Clus ‹_› ?_ | with_reducible refine of_eq1_clock_Clus ‹_› ?_ | with_reducible refine of_eq_clock_Core ‹_› ?_ | with_reducible refine of_eq1_clock_Core ‹_› ?_ | split | dsimp only)

theorem Pkg.fetched_clock (k a1 a2) : (Pkg.fetched k a1 a2).clock = k.clock := by
  unfold Pkg.fetched
  simp only [↓Pkg.cmdReject_clock, ↓Pkg.devBegin_clock, ↓Pkg.jobBegin_clock, apply_ite Pkg.clock, ite_self]

theorem Pkg.commandFetch_clock (k a1 a2) : (Pkg.commandFetch k a1 a2).clock = k.clock := by
  unfold Pkg.commandFetch
  simp only [↓Pkg.cwWr_clock, ↓Pkg.fetched_clock, apply_ite Pkg.clock, ite_self]

theorem Pkg.hbMaintain_clock (k) : (Pkg.hbMaintain k).clock = k.clock := by
  unfold Pkg.hbMaintain
  simp only [↓Pkg.clock_mk, ↓Pkg.cl_clock, ↓iter_clock_Pkg, ↓foldl_clock_Pkg, implies_true]

theorem Pkg.cutTake_clock (k) : (Pkg.cutTake k).clock = k.clock := by
  unfold Pkg.cutTake
  simp only [↓Pkg.onFab_clock, ↓Pkg.onHbm_clock, ↓foldl_clock_Pkg, implies_true]

theorem Pkg.windowsApply_clock (k) : (Pkg.windowsApply k).clock = k.clock := by
  unfold Pkg.windowsApply
  simp only [↓Clus.core_clock, ↓Pkg.cl_clock, ↓Core.setFld_clock, ↓Core.wr_clock, ↓Pkg.onCore_clock, ↓Pkg.onFab_clock, ↓Pkg.onHbm_clock, ↓iter_clock_Pkg, implies_true, apply_ite Pkg.clock, ite_self]

theorem Pkg.vc0Close_clock (k a1) : (Pkg.vc0Close k a1).clock = k.clock := by
  unfold Pkg.vc0Close
  simp only [↓Clus.core_clock, ↓Pkg.cl_clock, ↓Clus.onCore_clock, ↓Core.record_clock, ↓Core.wr_clock, ↓Pkg.onClus_clock, ↓Pkg.onNet_clock, ↓iter_clock_Pkg, implies_true, apply_ite Pkg.clock, ite_self]

theorem Pkg.sig0Apply_clock (k a1) : (Pkg.sig0Apply k a1).clock = k.clock := by
  unfold Pkg.sig0Apply
  repeat' (first | (simp only [↓Pkg.cl_clock, ↓Clus.applyRelease_clock, ↓Clus.applySig0_clock, ↓Pkg.onClus_clock, ↓foldl_clock_Pkg, implies_true, apply_ite Pkg.clock, ite_self]; done) | with_reducible refine ite_clock_Pkg ?_ ?_ | split)

theorem Pkg.heldApply_clock (k a1) : (Pkg.heldApply k a1).clock = k.clock := by
  unfold Pkg.heldApply
  simp only [↓Clus.clock_mk, ↓Clus.core_clock, ↓Pkg.cl_clock, ↓Pkg.onClus_clock, ↓Pkg.sig0Apply_clock, ↓foldl_clock_Pkg, implies_true]

theorem Pkg.commitSlot_clock (k a1 a2 a3) : (Pkg.commitSlot k a1 a2 a3).clock = k.clock := by
  unfold Pkg.commitSlot
  repeat' (first | (simp only [↓Clus.clock_mk, ↓Clus.core_clock, ↓Pkg.cl_clock, ↓Clus.failSlot_clock, ↓Clus.mCommit_clock, ↓Clus.setRun_clock, ↓Pkg.acts_clock, ↓Pkg.onClus_clock, apply_ite Pkg.clock, ite_self]; done) | with_reducible refine ite_clock_Pkg ?_ ?_ | split)

theorem Pkg.commitPilot_clock (k a1) : (Pkg.commitPilot k a1).clock = k.clock := by
  unfold Pkg.commitPilot
  repeat' (first | (simp only [↓Clus.clock_mk, ↓Clus.core_clock, ↓Pkg.cl_clock, ↓Clus.mCommit_clock, ↓Clus.pilotActs_clock, ↓Pkg.onClus_clock, apply_ite Clus.clock, ite_self]; done) | with_reducible refine ite_clock_Pkg ?_ ?_ | split)

theorem Pkg.commitRegion_clock (k a1) : (Pkg.commitRegion k a1).clock = k.clock := by
  unfold Pkg.commitRegion
  simp only [↓Pkg.cl_clock, ↓Clus.circSettle_clock, ↓Clus.hextClear_clock, ↓Clus.homeLag_clock, ↓Pkg.commitPilot_clock, ↓Pkg.commitSlot_clock, ↓Pkg.heldApply_clock, ↓Pkg.onClus_clock, ↓Pkg.onNet_clock, ↓foldl_clock_Pkg, ↓foldl_clock_Clus, implies_true]

theorem Pkg.onCuts_clock (k a1) (a2 : Nat → Snap → Snap) : (Pkg.onCuts k a1 a2).clock = k.clock := by
  unfold Pkg.onCuts
  simp only [↓Pkg.onHbm_clock, ↓foldl_clock_Pkg, implies_true]

theorem Pkg.cutLatch_clock (k a1) : (Pkg.cutLatch k a1).clock = k.clock := by
  unfold Pkg.cutLatch
  simp only [↓Pkg.onCuts_clock, apply_ite Pkg.clock, ite_self]

theorem Pkg.fenceSpare_clock (k a1 a2 a3 a4) : (Pkg.fenceSpare k a1 a2 a3 a4).clock = k.clock := by
  unfold Pkg.fenceSpare
  repeat' (first | with_reducible rfl | (simp only [↓Core.fwEvent_clock, ↓Pkg.fenceClu_clock, ↓Core.clock_eta, ↓Core.clock_mk, ↓Clus.clock_mk, ↓Clus.core_clock, ↓Clus.onCore_clock, ↓Pkg.clock_mk, ↓Pkg.cl_clock, ↓Pkg.onCore_clock, ↓foldl_clock_Core, ↓iter_clock_Core, ↓foldl_clock_Clus, ↓iter_clock_Clus, ↓foldl_clock_Pkg, ↓iter_clock_Pkg, implies_true, apply_ite Pkg.clock, ite_self]; done) | with_reducible refine ite_clock_Pkg ?_ ?_ | with_reducible refine foldl_clock_Pkg' (fun _ _ => ?_) ?_ | with_reducible refine iter_clock_Pkg' (fun _ _ => ?_) ?_ | with_reducible refine foldl2_clock_Pkg' (fun _ _ => ?_) ?_ | with_reducible refine foldl3_clock_Pkg' (fun _ _ => ?_) ?_ | with_reducible refine ite_clock_Clus ?_ ?_ | with_reducible refine foldl_clock_Clus' (fun _ _ => ?_) ?_ | with_reducible refine iter_clock_Clus' (fun _ _ => ?_) ?_ | with_reducible refine foldl2_clock_Clus' (fun _ _ => ?_) ?_ | with_reducible refine foldl3_clock_Clus' (fun _ _ => ?_) ?_ | with_reducible refine ite_clock_Core ?_ ?_ | with_reducible refine foldl_clock_Core' (fun _ _ => ?_) ?_ | with_reducible refine iter_clock_Core' (fun _ _ => ?_) ?_ | with_reducible refine foldl2_clock_Core' (fun _ _ => ?_) ?_ | with_reducible refine foldl3_clock_Core' (fun _ _ => ?_) ?_ | simp only [↓Core.fwEvent_clock, ↓Pkg.fenceClu_clock, ↓Core.clock_eta, ↓Core.clock_mk, ↓Clus.clock_mk, ↓Clus.core_clock, ↓Clus.onCore_clock, ↓Pkg.clock_mk, ↓Pkg.cl_clock, ↓Pkg.onCore_clock] | with_reducible refine of_eq_clock_Pkg ‹_› ?_ | with_reducible refine of_eq1_clock_Pkg ‹_› ?_ | with_reducible refine of_eq_clock_Clus ‹_› ?_ | with_reducible refine of_eq1_clock_Clus ‹_› ?_ | with_reducible refine of_eq_clock_Core ‹_› ?_ | with_reducible refine of_eq1_clock_Core ‹_› ?_ | split | dsimp only)

theorem Pkg.moveGuard_clock (k a1) : (Pkg.moveGuard k a1).clock = k.clock := by
  unfold Pkg.moveGuard
  repeat' (first | with_reducible rfl | (simp only [↓Core.biEvent_clock, ↓Core.handover_clock, ↓Core.wr_clock, ↓Pkg.abandon_clock, ↓Pkg.biShow_clock, ↓Pkg.fenceSpare_clock, ↓Pkg.setMove_clock, ↓Pkg.startTest_clock, ↓Core.clock_eta, ↓Core.clock_mk, ↓Clus.clock_mk, ↓Clus.core_clock, ↓Clus.onCore_clock, ↓Pkg.clock_mk, ↓Pkg.cl_clock, ↓Pkg.onCore_clock, ↓Pkg.onBi_clock, ↓foldl_clock_Core, ↓iter_clock_Core, ↓foldl_clock_Clus, ↓iter_clock_Clus, ↓foldl_clock_Pkg, ↓iter_clock_Pkg, implies_true, apply_ite Pkg.clock, ite_self]; done) | with_reducible refine ite_clock_Pkg ?_ ?_ | with_reducible refine foldl_clock_Pkg' (fun _ _ => ?_) ?_ | with_reducible refine iter_clock_Pkg' (fun _ _ => ?_) ?_ | with_reducible refine foldl2_clock_Pkg' (fun _ _ => ?_) ?_ | with_reducible refine foldl3_clock_Pkg' (fun _ _ => ?_) ?_ | with_reducible refine ite_clock_Clus ?_ ?_ | with_reducible refine foldl_clock_Clus' (fun _ _ => ?_) ?_ | with_reducible refine iter_clock_Clus' (fun _ _ => ?_) ?_ | with_reducible refine foldl2_clock_Clus' (fun _ _ => ?_) ?_ | with_reducible refine foldl3_clock_Clus' (fun _ _ => ?_) ?_ | with_reducible refine ite_clock_Core ?_ ?_ | with_reducible refine foldl_clock_Core' (fun _ _ => ?_) ?_ | with_reducible refine iter_clock_Core' (fun _ _ => ?_) ?_ | with_reducible refine foldl2_clock_Core' (fun _ _ => ?_) ?_ | with_reducible refine foldl3_clock_Core' (fun _ _ => ?_) ?_ | simp only [↓Core.biEvent_clock, ↓Core.handover_clock, ↓Core.wr_clock, ↓Pkg.abandon_clock, ↓Pkg.biShow_clock, ↓Pkg.fenceSpare_clock, ↓Pkg.setMove_clock, ↓Pkg.startTest_clock, ↓Core.clock_eta, ↓Core.clock_mk, ↓Clus.clock_mk, ↓Clus.core_clock, ↓Clus.onCore_clock, ↓Pkg.clock_mk, ↓Pkg.cl_clock, ↓Pkg.onCore_clock, ↓Pkg.onBi_clock] | with_reducible refine of_eq_clock_Pkg ‹_› ?_ | with_reducible refine of_eq1_clock_Pkg ‹_› ?_ | with_reducible refine of_eq_clock_Clus ‹_› ?_ | with_reducible refine of_eq1_clock_Clus ‹_› ?_ | with_reducible refine of_eq_clock_Core ‹_› ?_ | with_reducible refine of_eq1_clock_Core ‹_› ?_ | split | dsimp only)

theorem Pkg.lineDone_clock (k a1) : (Pkg.lineDone k a1).clock = k.clock := by
  unfold Pkg.lineDone
  simp only [↓Clus.clock_mk, ↓Clus.core_clock, ↓Pkg.cl_clock, ↓Clus.tabComplete_clock, ↓Pkg.onClus_clock]

theorem Pkg.lineArrive_clock (k a1 a2 a3) : (Pkg.lineArrive k a1 a2 a3).clock = k.clock := by
  unfold Pkg.lineArrive
  simp only [↓Clus.clock_mk, ↓Clus.core_clock, ↓Pkg.cl_clock, ↓Pkg.lineDone_clock, ↓Pkg.onClus_clock, ↓Pkg.sendGroup_clock, apply_ite Pkg.clock, ite_self]

theorem Pkg.lineFlush_clock (k) : (Pkg.lineFlush k).clock = k.clock := by
  unfold Pkg.lineFlush
  repeat' (first | (simp only [↓Clus.clock_mk, ↓Clus.core_clock, ↓Pkg.cl_clock, ↓Pkg.lineArrive_clock, ↓Pkg.onClus_clock, ↓Pkg.sendTo_clock, apply_ite Pkg.clock, ite_self]; done) | with_reducible refine ite_clock_Pkg ?_ ?_ | with_reducible refine foldl_clock_Pkg' (fun _ _ => ?_) ?_ | split | dsimp only)

theorem Pkg.commitPart_clock (k a1) : (Pkg.commitPart k a1).clock = k.clock := by
  unfold Pkg.commitPart
  simp only [↓Pkg.clock_mk, ↓Pkg.cl_clock, ↓Pkg.commitRegion_clock, ↓Pkg.cutLatch_clock, ↓Pkg.heldApply_clock, ↓Pkg.lineFlush_clock, ↓Pkg.moveGuard_clock, ↓Pkg.poll_clock]

theorem Pkg.takeWhy_clock (k a1) : (Pkg.takeWhy k a1).2.clock = k.clock := by
  unfold Pkg.takeWhy
  simp only [↓Pkg.onNet_clock]

theorem Pkg.digPacket_clock (k a1 a2 a3 a4) : (Pkg.digPacket k a1 a2 a3 a4).clock = k.clock := by
  unfold Pkg.digPacket
  repeat' (first | (simp only [↓Pkg.cl_clock, ↓Clus.addDig_clock, ↓Pkg.onClus_clock]; done) | with_reducible refine ite_clock_Pkg ?_ ?_ | split | dsimp only)

theorem Pkg.countMoved_clock (k a1 a2) : (Pkg.countMoved k a1 a2).clock = k.clock := by
  unfold Pkg.countMoved
  simp only [↓Clus.core_clock, ↓Pkg.cl_clock, ↓Core.incWrap_clock, ↓Pkg.onCore_clock, apply_ite Pkg.clock, ite_self]

theorem Pkg.winFrame_clock (k a1 a2 a3 a4 a5 a6) : (Pkg.winFrame k a1 a2 a3 a4 a5 a6).clock = k.clock := by
  unfold Pkg.winFrame
  repeat' (first | with_reducible rfl | (simp only [↓Pkg.loseTxn_clock, ↓Pkg.sendTo_clock, ↓Core.clock_eta, ↓Core.clock_mk, ↓Clus.clock_mk, ↓Clus.core_clock, ↓Pkg.clock_mk, ↓Pkg.cl_clock, ↓Pkg.onFab_clock, ↓foldl_clock_Core, ↓iter_clock_Core, ↓foldl_clock_Clus, ↓iter_clock_Clus, ↓foldl_clock_Pkg, ↓iter_clock_Pkg, implies_true, apply_ite Pkg.clock, ite_self, apply_ite Prod.fst, apply_ite Prod.snd]; done) | with_reducible refine ite_clock_Pkg ?_ ?_ | with_reducible refine foldl_clock_Pkg' (fun _ _ => ?_) ?_ | with_reducible refine iter_clock_Pkg' (fun _ _ => ?_) ?_ | with_reducible refine foldl2_clock_Pkg' (fun _ _ => ?_) ?_ | with_reducible refine foldl3_clock_Pkg' (fun _ _ => ?_) ?_ | with_reducible refine ite_clock_Clus ?_ ?_ | with_reducible refine foldl_clock_Clus' (fun _ _ => ?_) ?_ | with_reducible refine iter_clock_Clus' (fun _ _ => ?_) ?_ | with_reducible refine foldl2_clock_Clus' (fun _ _ => ?_) ?_ | with_reducible refine foldl3_clock_Clus' (fun _ _ => ?_) ?_ | with_reducible refine ite_clock_Core ?_ ?_ | with_reducible refine foldl_clock_Core' (fun _ _ => ?_) ?_ | with_reducible refine iter_clock_Core' (fun _ _ => ?_) ?_ | with_reducible refine foldl2_clock_Core' (fun _ _ => ?_) ?_ | with_reducible refine foldl3_clock_Core' (fun _ _ => ?_) ?_ | simp only [↓Pkg.loseTxn_clock, ↓Pkg.sendTo_clock, ↓Core.clock_eta, ↓Core.clock_mk, ↓Clus.clock_mk, ↓Clus.core_clock, ↓Pkg.clock_mk, ↓Pkg.cl_clock, ↓Pkg.onFab_clock] | with_reducible refine of_eq_clock_Pkg ‹_› ?_ | with_reducible refine of_eq1_clock_Pkg ‹_› ?_ | with_reducible refine of_eq_clock_Clus ‹_› ?_ | with_reducible refine of_eq1_clock_Clus ‹_› ?_ | with_reducible refine of_eq_clock_Core ‹_› ?_ | with_reducible refine of_eq1_clock_Core ‹_› ?_ | split | dsimp only)

theorem Pkg.sendWindow_clock (k a1 a2 a3 a4 a5) : (Pkg.sendWindow k a1 a2 a3 a4 a5).clock = k.clock := by
  unfold Pkg.sendWindow
  repeat' (first | with_reducible rfl | (simp only [↓Pkg.winFrame_clock, ↓Core.clock_eta, ↓Core.clock_mk, ↓Clus.clock_mk, ↓Clus.core_clock, ↓Pkg.clock_mk, ↓Pkg.cl_clock, ↓foldl_clock_Core, ↓iter_clock_Core, ↓foldl_clock_Clus, ↓iter_clock_Clus, ↓foldl_clock_Pkg, ↓iter_clock_Pkg, implies_true, apply_ite Pkg.clock, ite_self]; done) | with_reducible refine ite_clock_Pkg ?_ ?_ | with_reducible refine foldl_clock_Pkg' (fun _ _ => ?_) ?_ | with_reducible refine iter_clock_Pkg' (fun _ _ => ?_) ?_ | with_reducible refine foldl2_clock_Pkg' (fun _ _ => ?_) ?_ | with_reducible refine foldl3_clock_Pkg' (fun _ _ => ?_) ?_ | with_reducible refine ite_clock_Clus ?_ ?_ | with_reducible refine foldl_clock_Clus' (fun _ _ => ?_) ?_ | with_reducible refine iter_clock_Clus' (fun _ _ => ?_) ?_ | with_reducible refine foldl2_clock_Clus' (fun _ _ => ?_) ?_ | with_reducible refine foldl3_clock_Clus' (fun _ _ => ?_) ?_ | with_reducible refine ite_clock_Core ?_ ?_ | with_reducible refine foldl_clock_Core' (fun _ _ => ?_) ?_ | with_reducible refine iter_clock_Core' (fun _ _ => ?_) ?_ | with_reducible refine foldl2_clock_Core' (fun _ _ => ?_) ?_ | with_reducible refine foldl3_clock_Core' (fun _ _ => ?_) ?_ | simp only [↓Pkg.winFrame_clock, ↓Core.clock_eta, ↓Core.clock_mk, ↓Clus.clock_mk, ↓Clus.core_clock, ↓Pkg.clock_mk, ↓Pkg.cl_clock] | with_reducible refine of_eq_clock_Pkg ‹_› ?_ | with_reducible refine of_eq1_clock_Pkg ‹_› ?_ | with_reducible refine of_eq_clock_Clus ‹_› ?_ | with_reducible refine of_eq1_clock_Clus ‹_› ?_ | with_reducible refine of_eq_clock_Core ‹_› ?_ | with_reducible refine of_eq1_clock_Core ‹_› ?_ | split | dsimp only)

theorem Pkg.pushData_clock (k a1 a2 a3) : (Pkg.pushData k a1 a2 a3).clock = k.clock := by
  unfold Pkg.pushData
  simp only [↓Pkg.countMoved_clock, ↓Pkg.inject_clock, ↓Pkg.sendWindow_clock, ↓Pkg.setDma_clock, apply_ite Pkg.clock, ite_self]

theorem Pkg.issue_clock (k a1 a2) : (Pkg.issue k a1 a2).clock = k.clock := by
  unfold Pkg.issue
  simp only [↓Pkg.clock_mk, ↓Pkg.cl_clock, ↓Clus.readOp_clock, ↓Pkg.countMoved_clock, ↓Pkg.digPacket_clock, ↓Pkg.inject_clock, ↓Pkg.killRun_clock, ↓Pkg.pushData_clock, ↓Pkg.sendWindow_clock, ↓Pkg.setDma_clock, apply_ite Pkg.clock, ite_self]

theorem Pkg.pump_clock (k a1 a2 a3) : (Pkg.pump k a1 a2 a3).clock = k.clock := by
  unfold Pkg.pump
  repeat' (first | (simp only [↓Pkg.issue_clock, apply_ite Pkg.clock, ite_self]; done) | with_reducible refine ite_clock_Pkg ?_ ?_ | with_reducible refine foldl_clock_Pkg' (fun _ _ => ?_) ?_ | split | dsimp only)

theorem Pkg.completionAtEngine_clock (k a1) : (Pkg.completionAtEngine k a1).clock = k.clock := by
  unfold Pkg.completionAtEngine
  repeat' (first | (simp only [↓Pkg.killRun_clock, ↓Pkg.pump_clock, ↓Pkg.setDma_clock, ↓Pkg.takeWhy_clock, apply_ite Pkg.clock, ite_self]; done) | with_reducible refine ite_clock_Pkg ?_ ?_ | split)

theorem Pkg.windowDone_clock (k a1 a2) : (Pkg.windowDone k a1 a2).clock = k.clock := by
  unfold Pkg.windowDone
  repeat' (first | with_reducible rfl | (simp only [↓Pkg.sendTo_clock, ↓Core.clock_eta, ↓Core.clock_mk, ↓Clus.clock_mk, ↓Clus.core_clock, ↓Pkg.clock_mk, ↓Pkg.cl_clock, ↓Pkg.onFab_clock, ↓foldl_clock_Core, ↓iter_clock_Core, ↓foldl_clock_Clus, ↓iter_clock_Clus, ↓foldl_clock_Pkg, ↓iter_clock_Pkg, implies_true, apply_ite Pkg.clock, ite_self, apply_ite Prod.fst, apply_ite Prod.snd]; done) | with_reducible refine ite_clock_Pkg ?_ ?_ | with_reducible refine foldl_clock_Pkg' (fun _ _ => ?_) ?_ | with_reducible refine iter_clock_Pkg' (fun _ _ => ?_) ?_ | with_reducible refine foldl2_clock_Pkg' (fun _ _ => ?_) ?_ | with_reducible refine foldl3_clock_Pkg' (fun _ _ => ?_) ?_ | with_reducible refine ite_clock_Clus ?_ ?_ | with_reducible refine foldl_clock_Clus' (fun _ _ => ?_) ?_ | with_reducible refine iter_clock_Clus' (fun _ _ => ?_) ?_ | with_reducible refine foldl2_clock_Clus' (fun _ _ => ?_) ?_ | with_reducible refine foldl3_clock_Clus' (fun _ _ => ?_) ?_ | with_reducible refine ite_clock_Core ?_ ?_ | with_reducible refine foldl_clock_Core' (fun _ _ => ?_) ?_ | with_reducible refine iter_clock_Core' (fun _ _ => ?_) ?_ | with_reducible refine foldl2_clock_Core' (fun _ _ => ?_) ?_ | with_reducible refine foldl3_clock_Core' (fun _ _ => ?_) ?_ | simp only [↓Pkg.sendTo_clock, ↓Core.clock_eta, ↓Core.clock_mk, ↓Clus.clock_mk, ↓Clus.core_clock, ↓Pkg.clock_mk, ↓Pkg.cl_clock, ↓Pkg.onFab_clock] | with_reducible refine of_eq_clock_Pkg ‹_› ?_ | with_reducible refine of_eq1_clock_Pkg ‹_› ?_ | with_reducible refine of_eq_clock_Clus ‹_› ?_ | with_reducible refine of_eq1_clock_Clus ‹_› ?_ | with_reducible refine of_eq_clock_Core ‹_› ?_ | with_reducible refine of_eq1_clock_Core ‹_› ?_ | split | dsimp only)

theorem Pkg.completionPacket_clock (k a1) : (Pkg.completionPacket k a1).clock = k.clock := by
  unfold Pkg.completionPacket
  simp only [↓Pkg.completionAtEngine_clock, ↓Pkg.windowDone_clock, apply_ite Pkg.clock, ite_self]

theorem Pkg.sinkDrain_clock (k a1) (a2 : Pkg → ErrRec → Pkg) (h2 : ∀ x0 x1, (a2 x0 x1).clock = x0.clock) :
    (Pkg.sinkDrain k a1 a2).clock = k.clock := by
  unfold Pkg.sinkDrain
  repeat' (first | with_reducible rfl | (simp only [↓Core.clock_eta, ↓Core.clock_mk, ↓Clus.clock_mk, ↓Clus.core_clock, ↓Pkg.clock_mk, ↓Pkg.cl_clock, ↓Pkg.onFw_clock, h2, ↓foldl_clock_Core, ↓iter_clock_Core, ↓foldl_clock_Clus, ↓iter_clock_Clus, ↓foldl_clock_Pkg, ↓iter_clock_Pkg, implies_true, apply_ite Pkg.clock, ite_self]; done) | with_reducible refine ite_clock_Pkg ?_ ?_ | with_reducible refine foldl_clock_Pkg' (fun _ _ => ?_) ?_ | with_reducible refine iter_clock_Pkg' (fun _ _ => ?_) ?_ | with_reducible refine foldl2_clock_Pkg' (fun _ _ => ?_) ?_ | with_reducible refine foldl3_clock_Pkg' (fun _ _ => ?_) ?_ | with_reducible refine ite_clock_Clus ?_ ?_ | with_reducible refine foldl_clock_Clus' (fun _ _ => ?_) ?_ | with_reducible refine iter_clock_Clus' (fun _ _ => ?_) ?_ | with_reducible refine foldl2_clock_Clus' (fun _ _ => ?_) ?_ | with_reducible refine foldl3_clock_Clus' (fun _ _ => ?_) ?_ | with_reducible refine ite_clock_Core ?_ ?_ | with_reducible refine foldl_clock_Core' (fun _ _ => ?_) ?_ | with_reducible refine iter_clock_Core' (fun _ _ => ?_) ?_ | with_reducible refine foldl2_clock_Core' (fun _ _ => ?_) ?_ | with_reducible refine foldl3_clock_Core' (fun _ _ => ?_) ?_ | simp only [↓Core.clock_eta, ↓Core.clock_mk, ↓Clus.clock_mk, ↓Clus.core_clock, ↓Pkg.clock_mk, ↓Pkg.cl_clock, ↓Pkg.onFw_clock, h2] | with_reducible refine of_eq_clock_Pkg ‹_› ?_ | with_reducible refine of_eq1_clock_Pkg ‹_› ?_ | with_reducible refine of_eq_clock_Clus ‹_› ?_ | with_reducible refine of_eq1_clock_Clus ‹_› ?_ | with_reducible refine of_eq_clock_Core ‹_› ?_ | with_reducible refine of_eq1_clock_Core ‹_› ?_ | split | dsimp only)

theorem Pkg.stopFaulted_clock (k) : (Pkg.stopFaulted k).clock = k.clock := by
  unfold Pkg.stopFaulted
  simp only [↓Clus.clock_mk, ↓Clus.core_clock, ↓Pkg.cl_clock, ↓Pkg.jobFault_clock, ↓Pkg.onClus_clock, ↓foldl_clock_Pkg, implies_true]

theorem Pkg.jobFaultDump_clock (k a1 a2 a3) : (Pkg.jobFaultDump k a1 a2 a3).clock = k.clock := by
  unfold Pkg.jobFaultDump
  simp only [↓Pkg.dumpStart_clock, ↓Pkg.onFw_clock, apply_ite Pkg.clock, ite_self]

theorem Pkg.recordDump_clock (k a1) : (Pkg.recordDump k a1).clock = k.clock := by
  unfold Pkg.recordDump
  simp only [↓Pkg.jobFaultDump_clock, apply_ite Pkg.clock, ite_self]

theorem Pkg.eventRing_clock (k a1) : (Pkg.eventRing k a1).clock = k.clock := by
  unfold Pkg.eventRing
  simp only [↓Pkg.cwWr_clock, ↓Pkg.hostWrite_clock, apply_ite Pkg.clock, ite_self]

theorem Pkg.linkLost_clock (k a1) : (Pkg.linkLost k a1).clock = k.clock := by
  unfold Pkg.linkLost
  simp only [↓Pkg.linkEvent_clock, ↓Pkg.portDown_clock]

theorem Pkg.engineReset_clock (k a1) : (Pkg.engineReset k a1).clock = k.clock := by
  unfold Pkg.engineReset
  repeat' (first | with_reducible rfl | (simp only [↓Pkg.dropRuns_clock, ↓Pkg.stopEmit_clock, ↓Core.clock_eta, ↓Core.clock_mk, ↓Clus.clock_mk, ↓Clus.core_clock, ↓Pkg.clock_mk, ↓Pkg.cl_clock, ↓foldl_clock_Core, ↓iter_clock_Core, ↓foldl_clock_Clus, ↓iter_clock_Clus, ↓foldl_clock_Pkg, ↓iter_clock_Pkg, implies_true, apply_ite Pkg.clock, ite_self]; done) | with_reducible refine ite_clock_Pkg ?_ ?_ | with_reducible refine foldl_clock_Pkg' (fun _ _ => ?_) ?_ | with_reducible refine iter_clock_Pkg' (fun _ _ => ?_) ?_ | with_reducible refine foldl2_clock_Pkg' (fun _ _ => ?_) ?_ | with_reducible refine foldl3_clock_Pkg' (fun _ _ => ?_) ?_ | with_reducible refine ite_clock_Clus ?_ ?_ | with_reducible refine foldl_clock_Clus' (fun _ _ => ?_) ?_ | with_reducible refine iter_clock_Clus' (fun _ _ => ?_) ?_ | with_reducible refine foldl2_clock_Clus' (fun _ _ => ?_) ?_ | with_reducible refine foldl3_clock_Clus' (fun _ _ => ?_) ?_ | with_reducible refine ite_clock_Core ?_ ?_ | with_reducible refine foldl_clock_Core' (fun _ _ => ?_) ?_ | with_reducible refine iter_clock_Core' (fun _ _ => ?_) ?_ | with_reducible refine foldl2_clock_Core' (fun _ _ => ?_) ?_ | with_reducible refine foldl3_clock_Core' (fun _ _ => ?_) ?_ | simp only [↓Pkg.dropRuns_clock, ↓Pkg.stopEmit_clock, ↓Core.clock_eta, ↓Core.clock_mk, ↓Clus.clock_mk, ↓Clus.core_clock, ↓Pkg.clock_mk, ↓Pkg.cl_clock] | with_reducible refine of_eq_clock_Pkg ‹_› ?_ | with_reducible refine of_eq1_clock_Pkg ‹_› ?_ | with_reducible refine of_eq_clock_Clus ‹_› ?_ | with_reducible refine of_eq1_clock_Clus ‹_› ?_ | with_reducible refine of_eq_clock_Core ‹_› ?_ | with_reducible refine of_eq1_clock_Core ‹_› ?_ | split | dsimp only)

theorem Pkg.fwCrash_clock (k a1 a2 a3 a4) : (Pkg.fwCrash k a1 a2 a3 a4).clock = k.clock := by
  unfold Pkg.fwCrash
  repeat' (first | (simp only [↓Clus.core_clock, ↓Pkg.cl_clock, ↓Core.record_clock, ↓Core.wrs_clock, ↓Pkg.onCore_clock, ↓Pkg.onFw_clock, apply_ite Pkg.clock]; done) | with_reducible refine ite_clock_Pkg ?_ ?_ | with_reducible refine foldl_clock_Pkg' (fun _ _ => ?_) ?_ | with_reducible refine iter_clock_Pkg' (fun _ _ => ?_) ?_ | simp only [↓Pkg.onCore_clock] | split | dsimp only)

theorem Pkg.resetAsk_clock (k a1 a2 a3 a4) : (Pkg.resetAsk k a1 a2 a3 a4).clock = k.clock := by
  unfold Pkg.resetAsk
  repeat' (first | (simp only [↓Clus.core_clock, ↓Pkg.cl_clock, ↓Core.fwEvent_clock, ↓Pkg.cmdEnd_clock, ↓Pkg.onCore_clock, ↓Pkg.onFw_clock, ↓Pkg.resetBegin_clock, apply_ite Pkg.clock]; done) | with_reducible refine ite_clock_Pkg ?_ ?_ | split)

theorem Pkg.hang_clock (k a1) : (Pkg.hang k a1).clock = k.clock := by
  unfold Pkg.hang
  repeat' (first | (simp only [↓Clus.core_clock, ↓Pkg.cl_clock, ↓Core.fwEvent_clock, ↓Pkg.engineReset_clock, ↓Pkg.fwCrash_clock, ↓Pkg.linkLost_clock, ↓Pkg.onCore_clock, ↓Pkg.resetAsk_clock, apply_ite Pkg.clock, ite_self]; done) | with_reducible refine ite_clock_Pkg ?_ ?_ | split)

theorem Pkg.clearHung_clock (k) : (Pkg.clearHung k).clock = k.clock := by
  unfold Pkg.clearHung
  repeat' (first | with_reducible rfl | (simp only [↓Pkg.hang_clock, ↓Core.clock_eta, ↓Core.clock_mk, ↓Clus.clock_mk, ↓Clus.core_clock, ↓Pkg.clock_mk, ↓Pkg.cl_clock, ↓foldl_clock_Core, ↓iter_clock_Core, ↓foldl_clock_Clus, ↓iter_clock_Clus, ↓foldl_clock_Pkg, ↓iter_clock_Pkg, implies_true, apply_ite Pkg.clock, ite_self]; done) | with_reducible refine ite_clock_Pkg ?_ ?_ | with_reducible refine foldl_clock_Pkg' (fun _ _ => ?_) ?_ | with_reducible refine iter_clock_Pkg' (fun _ _ => ?_) ?_ | with_reducible refine foldl2_clock_Pkg' (fun _ _ => ?_) ?_ | with_reducible refine foldl3_clock_Pkg' (fun _ _ => ?_) ?_ | with_reducible refine ite_clock_Clus ?_ ?_ | with_reducible refine foldl_clock_Clus' (fun _ _ => ?_) ?_ | with_reducible refine iter_clock_Clus' (fun _ _ => ?_) ?_ | with_reducible refine foldl2_clock_Clus' (fun _ _ => ?_) ?_ | with_reducible refine foldl3_clock_Clus' (fun _ _ => ?_) ?_ | with_reducible refine ite_clock_Core ?_ ?_ | with_reducible refine foldl_clock_Core' (fun _ _ => ?_) ?_ | with_reducible refine iter_clock_Core' (fun _ _ => ?_) ?_ | with_reducible refine foldl2_clock_Core' (fun _ _ => ?_) ?_ | with_reducible refine foldl3_clock_Core' (fun _ _ => ?_) ?_ | simp only [↓Pkg.hang_clock, ↓Core.clock_eta, ↓Core.clock_mk, ↓Clus.clock_mk, ↓Clus.core_clock, ↓Pkg.clock_mk, ↓Pkg.cl_clock] | with_reducible refine of_eq_clock_Pkg ‹_› ?_ | with_reducible refine of_eq1_clock_Pkg ‹_› ?_ | with_reducible refine of_eq_clock_Clus ‹_› ?_ | with_reducible refine of_eq1_clock_Clus ‹_› ?_ | with_reducible refine of_eq_clock_Core ‹_› ?_ | with_reducible refine of_eq1_clock_Core ‹_› ?_ | split | dsimp only)

theorem Pkg.drainHung_clock (k) : (Pkg.drainHung k).clock = k.clock := by
  unfold Pkg.drainHung
  repeat' (first | with_reducible rfl | (simp only [↓Pkg.hang_clock, ↓Core.clock_eta, ↓Core.clock_mk, ↓Clus.clock_mk, ↓Clus.core_clock, ↓Pkg.clock_mk, ↓Pkg.cl_clock, ↓Pkg.onFab_clock, ↓foldl_clock_Core, ↓iter_clock_Core, ↓foldl_clock_Clus, ↓iter_clock_Clus, ↓foldl_clock_Pkg, ↓iter_clock_Pkg, implies_true, apply_ite Pkg.clock, ite_self]; done) | with_reducible refine ite_clock_Pkg ?_ ?_ | with_reducible refine foldl_clock_Pkg' (fun _ _ => ?_) ?_ | with_reducible refine iter_clock_Pkg' (fun _ _ => ?_) ?_ | with_reducible refine foldl2_clock_Pkg' (fun _ _ => ?_) ?_ | with_reducible refine foldl3_clock_Pkg' (fun _ _ => ?_) ?_ | with_reducible refine ite_clock_Clus ?_ ?_ | with_reducible refine foldl_clock_Clus' (fun _ _ => ?_) ?_ | with_reducible refine iter_clock_Clus' (fun _ _ => ?_) ?_ | with_reducible refine foldl2_clock_Clus' (fun _ _ => ?_) ?_ | with_reducible refine foldl3_clock_Clus' (fun _ _ => ?_) ?_ | with_reducible refine ite_clock_Core ?_ ?_ | with_reducible refine foldl_clock_Core' (fun _ _ => ?_) ?_ | with_reducible refine iter_clock_Core' (fun _ _ => ?_) ?_ | with_reducible refine foldl2_clock_Core' (fun _ _ => ?_) ?_ | with_reducible refine foldl3_clock_Core' (fun _ _ => ?_) ?_ | simp only [↓Pkg.hang_clock, ↓Core.clock_eta, ↓Core.clock_mk, ↓Clus.clock_mk, ↓Clus.core_clock, ↓Pkg.clock_mk, ↓Pkg.cl_clock, ↓Pkg.onFab_clock] | with_reducible refine of_eq_clock_Pkg ‹_› ?_ | with_reducible refine of_eq1_clock_Pkg ‹_› ?_ | with_reducible refine of_eq_clock_Clus ‹_› ?_ | with_reducible refine of_eq1_clock_Clus ‹_› ?_ | with_reducible refine of_eq_clock_Core ‹_› ?_ | with_reducible refine of_eq1_clock_Core ‹_› ?_ | split | dsimp only)

theorem Pkg.sbAct_clock (k a1) : (Pkg.sbAct k a1).clock = k.clock := by
  unfold Pkg.sbAct
  repeat' (first | with_reducible rfl | (simp only [↓Pkg.clearHung_clock, ↓Pkg.drainHung_clock, ↓Pkg.eventRing_clock, ↓Pkg.rebook_clock, ↓Pkg.recordDump_clock, ↓Pkg.stopFaulted_clock, ↓Core.clock_eta, ↓Core.clock_mk, ↓Clus.clock_mk, ↓Clus.core_clock, ↓Pkg.clock_mk, ↓Pkg.cl_clock, ↓Pkg.onBi_clock, ↓foldl_clock_Core, ↓iter_clock_Core, ↓foldl_clock_Clus, ↓iter_clock_Clus, ↓foldl_clock_Pkg, ↓iter_clock_Pkg, implies_true, apply_ite Pkg.clock, ite_self]; done) | with_reducible refine ite_clock_Pkg ?_ ?_ | with_reducible refine foldl_clock_Pkg' (fun _ _ => ?_) ?_ | with_reducible refine iter_clock_Pkg' (fun _ _ => ?_) ?_ | with_reducible refine foldl2_clock_Pkg' (fun _ _ => ?_) ?_ | with_reducible refine foldl3_clock_Pkg' (fun _ _ => ?_) ?_ | with_reducible refine ite_clock_Clus ?_ ?_ | with_reducible refine foldl_clock_Clus' (fun _ _ => ?_) ?_ | with_reducible refine iter_clock_Clus' (fun _ _ => ?_) ?_ | with_reducible refine foldl2_clock_Clus' (fun _ _ => ?_) ?_ | with_reducible refine foldl3_clock_Clus' (fun _ _ => ?_) ?_ | with_reducible refine ite_clock_Core ?_ ?_ | with_reducible refine foldl_clock_Core' (fun _ _ => ?_) ?_ | with_reducible refine iter_clock_Core' (fun _ _ => ?_) ?_ | with_reducible refine foldl2_clock_Core' (fun _ _ => ?_) ?_ | with_reducible refine foldl3_clock_Core' (fun _ _ => ?_) ?_ | simp only [↓Pkg.clearHung_clock, ↓Pkg.drainHung_clock, ↓Pkg.eventRing_clock, ↓Pkg.rebook_clock, ↓Pkg.recordDump_clock, ↓Pkg.stopFaulted_clock, ↓Core.clock_eta, ↓Core.clock_mk, ↓Clus.clock_mk, ↓Clus.core_clock, ↓Pkg.clock_mk, ↓Pkg.cl_clock, ↓Pkg.onBi_clock] | with_reducible refine of_eq_clock_Pkg ‹_› ?_ | with_reducible refine of_eq1_clock_Pkg ‹_› ?_ | with_reducible refine of_eq_clock_Clus ‹_› ?_ | with_reducible refine of_eq1_clock_Clus ‹_› ?_ | with_reducible refine of_eq_clock_Core ‹_› ?_ | with_reducible refine of_eq1_clock_Core ‹_› ?_ | split | dsimp only)

theorem Pkg.complexDrain_clock (k a1) : (Pkg.complexDrain k a1).clock = k.clock := by
  unfold Pkg.complexDrain
  simp only [↓Pkg.bpAct_clock, ↓Pkg.sbAct_clock, ↓Pkg.sinkDrain_clock, implies_true, apply_ite Pkg.clock, ite_self]

theorem Pkg.contraFence_clock (k a1) : (Pkg.contraFence k a1).clock = k.clock := by
  unfold Pkg.contraFence
  simp only [↓Clus.core_clock, ↓Pkg.cl_clock, ↓Core.buEvent_clock, ↓Pkg.fencePut_clock, ↓Pkg.onCore_clock, apply_ite Pkg.clock, ite_self]

theorem Pkg.drainWait_clock (k a1) : (Pkg.drainWait k a1).clock = k.clock := by
  unfold Pkg.drainWait
  simp only [↓Pkg.emit_clock, ↓Pkg.onFab_clock, ↓foldl_clock_Pkg, implies_true]

theorem Pkg.control_clock (k a1 a2) : (Pkg.control k a1 a2).clock = k.clock := by
  unfold Pkg.control
  repeat' (first | with_reducible rfl | (simp only [↓Core.incSat_clock, ↓Pkg.drainWait_clock, ↓Pkg.linkLost_clock, ↓Pkg.setLink_clock, ↓Pkg.widthApply_clock, ↓Core.clock_eta, ↓Core.clock_mk, ↓Clus.clock_mk, ↓Clus.core_clock, ↓Clus.onCore_clock, ↓Pkg.clock_mk, ↓Pkg.cl_clock, ↓Pkg.onCore_clock, ↓Pkg.onFab_clock, ↓Pkg.onAtt_clock, ↓foldl_clock_Core, ↓iter_clock_Core, ↓foldl_clock_Clus, ↓iter_clock_Clus, ↓foldl_clock_Pkg, ↓iter_clock_Pkg, implies_true, apply_ite Pkg.clock, ite_self]; done) | with_reducible refine ite_clock_Pkg ?_ ?_ | with_reducible refine foldl_clock_Pkg' (fun _ _ => ?_) ?_ | with_reducible refine iter_clock_Pkg' (fun _ _ => ?_) ?_ | with_reducible refine foldl2_clock_Pkg' (fun _ _ => ?_) ?_ | with_reducible refine foldl3_clock_Pkg' (fun _ _ => ?_) ?_ | with_reducible refine ite_clock_Clus ?_ ?_ | with_reducible refine foldl_clock_Clus' (fun _ _ => ?_) ?_ | with_reducible refine iter_clock_Clus' (fun _ _ => ?_) ?_ | with_reducible refine foldl2_clock_Clus' (fun _ _ => ?_) ?_ | with_reducible refine foldl3_clock_Clus' (fun _ _ => ?_) ?_ | with_reducible refine ite_clock_Core ?_ ?_ | with_reducible refine foldl_clock_Core' (fun _ _ => ?_) ?_ | with_reducible refine iter_clock_Core' (fun _ _ => ?_) ?_ | with_reducible refine foldl2_clock_Core' (fun _ _ => ?_) ?_ | with_reducible refine foldl3_clock_Core' (fun _ _ => ?_) ?_ | simp only [↓Core.incSat_clock, ↓Pkg.drainWait_clock, ↓Pkg.linkLost_clock, ↓Pkg.setLink_clock, ↓Pkg.widthApply_clock, ↓Core.clock_eta, ↓Core.clock_mk, ↓Clus.clock_mk, ↓Clus.core_clock, ↓Clus.onCore_clock, ↓Pkg.clock_mk, ↓Pkg.cl_clock, ↓Pkg.onCore_clock, ↓Pkg.onFab_clock, ↓Pkg.onAtt_clock] | with_reducible refine of_eq_clock_Pkg ‹_› ?_ | with_reducible refine of_eq1_clock_Pkg ‹_› ?_ | with_reducible refine of_eq_clock_Clus ‹_› ?_ | with_reducible refine of_eq1_clock_Clus ‹_› ?_ | with_reducible refine of_eq_clock_Core ‹_› ?_ | with_reducible refine of_eq1_clock_Core ‹_› ?_ | split | dsimp only)

theorem Pkg.copierComplete_clock (k a1) : (Pkg.copierComplete k a1).clock = k.clock := by
  unfold Pkg.copierComplete
  repeat' (first | (simp only [↓Pkg.copyCluster_clock, ↓Pkg.moveGuard_clock, ↓Pkg.setMove_clock, apply_ite Pkg.clock, ite_self]; done) | with_reducible refine ite_clock_Pkg ?_ ?_ | split)

theorem Pkg.copyPage_clock (k a1 a2 a3 a4) : (Pkg.copyPage k a1 a2 a3 a4).clock = k.clock := by
  unfold Pkg.copyPage
  simp only [↓Pkg.clock_mk, ↓Pkg.cl_clock, ↓Pkg.hbTouch_clock, ↓iter_clock_Pkg, implies_true, apply_ite Pkg.clock, ite_self]

theorem Pkg.cowDrain_clock (k a1 a2) : (Pkg.cowDrain k a1 a2).clock = k.clock := by
  unfold Pkg.cowDrain
  repeat' (first | (simp only [↓Pkg.clock_mk, ↓Pkg.cl_clock]; done) | with_reducible refine ite_clock_Pkg ?_ ?_ | split)

theorem Pkg.cplTimeout_clock (k a1) : (Pkg.cplTimeout k a1).clock = k.clock := by
  unfold Pkg.cplTimeout
  repeat' (first | (simp only [↓Clus.core_clock, ↓Pkg.cl_clock, ↓Core.record_clock, ↓Pkg.onAtt_clock, ↓Pkg.onCore_clock]; done) | with_reducible refine ite_clock_Pkg ?_ ?_ | split)

theorem Pkg.cutArrive_clock (k) : (Pkg.cutArrive k).clock = k.clock := by
  unfold Pkg.cutArrive
  simp only [↓Pkg.cl_clock, ↓Clus.tabArrive_clock, ↓Pkg.lineFlush_clock, ↓Pkg.onClus_clock, ↓foldl_clock_Pkg, implies_true, apply_ite Pkg.clock, ite_self]

theorem Pkg.cutBind_clock (k) : (Pkg.cutBind k).clock = k.clock := by
  unfold Pkg.cutBind
  repeat' (first | (simp only [↓Clus.core_clock, ↓Pkg.cl_clock, ↓Core.setTb_clock, ↓Core.wr_clock, ↓Pkg.onCore_clock]; done) | with_reducible refine ite_clock_Pkg ?_ ?_ | split | dsimp only)

theorem Pkg.cutChannels_clock (k a1) : (Pkg.cutChannels k a1).clock = k.clock := by
  unfold Pkg.cutChannels
  simp only [↓Pkg.onCuts_clock, apply_ite Pkg.clock, ite_self]

theorem Pkg.cutComplete_clock (k a1) : (Pkg.cutComplete k a1).clock = k.clock := by
  unfold Pkg.cutComplete
  repeat' (first | (simp only [↓Pkg.clock_mk, ↓Pkg.cl_clock, ↓Pkg.cmdEnd_clock, ↓Pkg.cutEvent_clock, ↓Pkg.dpaRead_clock, ↓Pkg.dropCut_clock, apply_ite Pkg.clock]; done) | with_reducible refine ite_clock_Pkg ?_ ?_ | with_reducible refine foldl_clock_Pkg' (fun _ _ => ?_) ?_ | with_reducible refine iter_clock_Pkg' (fun _ _ => ?_) ?_ | with_reducible refine foldl2_clock_Pkg' (fun _ _ => ?_) ?_ | with_reducible refine foldl3_clock_Pkg' (fun _ _ => ?_) ?_ | simp only [↓Pkg.clock_mk, ↓Pkg.cl_clock, ↓Pkg.cmdEnd_clock, ↓Pkg.cutEvent_clock, ↓Pkg.dropCut_clock] | with_reducible refine of_eq_clock_Pkg ‹_› ?_ | split | dsimp only)

theorem Pkg.cwRead_clock (k a1 a2) : (Pkg.cwRead k a1 a2).2.clock = k.clock := by
  unfold Pkg.cwRead
  repeat' (first | (simp only [↓Pkg.cwWr_clock]; done) | with_reducible refine ite_clock_Pkg ?_ ?_ | split)

theorem Pkg.emuWrite_clock (k a1 a2 a3 a4) : (Pkg.emuWrite k a1 a2 a3 a4).2.clock = k.clock := by
  unfold Pkg.emuWrite
  repeat' (first | (simp only [↓Clus.core_clock, ↓Pkg.cl_clock, ↓Core.record_clock, ↓Core.setFld_clock, ↓Pkg.cwWr_clock, ↓Pkg.onAtt_clock, ↓Pkg.onCore_clock, apply_ite Pkg.clock, ite_self]; done) | with_reducible refine ite_clock_Pkg ?_ ?_ | split | dsimp only)

theorem Pkg.doorbell_clock (k a1 a2) : (Pkg.doorbell k a1 a2).clock = k.clock := by
  unfold Pkg.doorbell
  simp only [↓Clus.core_clock, ↓Pkg.cl_clock, ↓Core.record_clock, ↓Pkg.onCore_clock, ↓Pkg.setRingS_clock, apply_ite Pkg.clock, ite_self]

theorem Pkg.fwlGo_clock (k) : (Pkg.fwlGo k).clock = k.clock := by
  unfold Pkg.fwlGo
  simp only [↓Pkg.cwWr_clock, apply_ite Pkg.clock, ite_self]

theorem Pkg.fwlWrite_clock (k a1 a2) : (Pkg.fwlWrite k a1 a2).clock = k.clock := by
  unfold Pkg.fwlWrite
  simp only [↓Pkg.cwWr_clock, ↓Pkg.fwlGo_clock, apply_ite Pkg.clock, ite_self]

theorem Pkg.cwWrite_clock (k a1 a2 a3 a4) : (Pkg.cwWrite k a1 a2 a3 a4).2.clock = k.clock := by
  unfold Pkg.cwWrite
  repeat' (first | (simp only [↓Pkg.doorbell_clock, ↓Pkg.emuWrite_clock, ↓Pkg.fwlWrite_clock, apply_ite Pkg.clock, ite_self]; done) | with_reducible refine ite_clock_Pkg ?_ ?_ | split)

theorem Pkg.jtag_clock (k a1 a2) (a3 : Pkg → Pkg) (h3 : ∀ x0, (a3 x0).clock = x0.clock) : (Pkg.jtag k a1 a2 a3).clock = k.clock := by
  unfold Pkg.jtag
  simp only [↓Pkg.onSec_clock, h3, apply_ite Pkg.clock, ite_self]

theorem Pkg.drawNonce_clock (k) : (Pkg.drawNonce k).2.clock = k.clock := by
  unfold Pkg.drawNonce
  simp only [↓Clus.core_clock, ↓Pkg.cl_clock, ↓Core.draw_clock, ↓Pkg.onCore_clock]

theorem Pkg.dbgChal_clock (k) : (Pkg.dbgChal k).clock = k.clock := by
  unfold Pkg.dbgChal
  refine ite_clock_Pkg rfl (ite_clock_Pkg (Pkg.jtag_clock _ _ _ _ (fun _ => rfl)) ?_)
  exact (Pkg.jtag_clock _ _ _ _ (fun _ => rfl)).trans (Pkg.drawNonce_clock k)

theorem Pkg.dbgLock_clock (k) : (Pkg.dbgLock k).clock = k.clock := by
  unfold Pkg.dbgLock
  simp only [↓Clus.core_clock, ↓Pkg.cl_clock, ↓Core.setFld_clock, ↓Pkg.jtag_clock, ↓Pkg.onCore_clock, implies_true]

theorem Pkg.secEvent_clock (k a1 a2 a3 a4 a5 a6) : (Pkg.secEvent k a1 a2 a3 a4 a5 a6).clock = k.clock := by
  unfold Pkg.secEvent
  simp only [↓Clus.core_clock, ↓Pkg.cl_clock, ↓Core.record_clock, ↓Pkg.onCore_clock]

theorem Pkg.unlockFail_clock (k a1 a2) : (Pkg.unlockFail k a1 a2).clock = k.clock := by
  unfold Pkg.unlockFail
  simp only [↓Clus.core_clock, ↓Pkg.cl_clock, ↓Core.setFld_clock, ↓Pkg.onCore_clock, ↓Pkg.secEvent_clock, apply_ite Pkg.clock, ite_self]

theorem Pkg.secDenied_clock (k a1 a2) : (Pkg.secDenied k a1 a2).clock = k.clock := by
  unfold Pkg.secDenied
  simp only [↓Pkg.secEvent_clock]

theorem Pkg.zeroise_clock (k a1 a2) : (Pkg.zeroise k a1 a2).clock = k.clock := by
  unfold Pkg.zeroise
  simp only [↓Clus.core_clock, ↓Pkg.cl_clock, ↓Core.setFld_clock, ↓Pkg.onCore_clock, ↓Pkg.onSec_clock, ↓Pkg.secEvent_clock]

theorem Pkg.dbgResp_clock (k a1) : (Pkg.dbgResp k a1).clock = k.clock := by
  unfold Pkg.dbgResp
  repeat' (first | (simp only [↓Clus.core_clock, ↓Pkg.cl_clock, ↓Core.setFld_clock, ↓Pkg.onCore_clock, ↓Pkg.onSec_clock, ↓Pkg.secDenied_clock, ↓Pkg.secEvent_clock, ↓Pkg.unlockFail_clock, ↓Pkg.zeroise_clock, apply_ite Pkg.clock, ite_self]; done) | with_reducible refine ite_clock_Pkg ?_ ?_ | with_reducible refine foldl_clock_Pkg' (fun _ _ => ?_) ?_ | with_reducible refine iter_clock_Pkg' (fun _ _ => ?_) ?_ | with_reducible refine foldl2_clock_Pkg' (fun _ _ => ?_) ?_ | with_reducible refine foldl3_clock_Pkg' (fun _ _ => ?_) ?_ | with_reducible refine ite_clock_Clus ?_ ?_ | with_reducible refine foldl_clock_Clus' (fun _ _ => ?_) ?_ | with_reducible refine iter_clock_Clus' (fun _ _ => ?_) ?_ | with_reducible refine foldl2_clock_Clus' (fun _ _ => ?_) ?_ | with_reducible refine foldl3_clock_Clus' (fun _ _ => ?_) ?_ | with_reducible refine ite_clock_Core ?_ ?_ | with_reducible refine foldl_clock_Core' (fun _ _ => ?_) ?_ | with_reducible refine iter_clock_Core' (fun _ _ => ?_) ?_ | with_reducible refine foldl2_clock_Core' (fun _ _ => ?_) ?_ | with_reducible refine foldl3_clock_Core' (fun _ _ => ?_) ?_ | simp only [↓Clus.core_clock, ↓Pkg.cl_clock, ↓Core.setFld_clock, ↓Pkg.onCore_clock, ↓Pkg.onSec_clock, ↓Pkg.secDenied_clock, ↓Pkg.secEvent_clock, ↓Pkg.unlockFail_clock, ↓Pkg.zeroise_clock, apply_ite Pkg.clock, ite_self] | with_reducible refine of_eq_clock_Pkg ‹_› ?_ | with_reducible refine of_eq1_clock_Pkg ‹_› ?_ | with_reducible refine of_eq_clock_Clus ‹_› ?_ | with_reducible refine of_eq1_clock_Clus ‹_› ?_ | with_reducible refine of_eq_clock_Core ‹_› ?_ | with_reducible refine of_eq1_clock_Core ‹_› ?_ | exact Pkg.jtag_clock _ _ _ _ (fun _ => rfl) | split | dsimp only)

theorem Pkg.debugRead_clock (k a1 a2 a3) : (Pkg.debugRead k a1 a2 a3).clock = k.clock := by
  unfold Pkg.debugRead
  simp only [↓Clus.core_clock, ↓Pkg.cl_clock, ↓Core.dropped_clock, ↓Core.timeLatch_clock, ↓Pkg.onCore_clock, ↓Pkg.onSec_clock, apply_ite Pkg.clock, ite_self]

theorem Pkg.deliver_clock (k a1 a2 a3) : (Pkg.deliver k a1 a2 a3).clock = k.clock := by
  unfold Pkg.deliver
  repeat' (first | (simp only [↓Pkg.clock_mk, ↓Pkg.cl_clock, ↓Clus.noticeSource_clock, ↓Clus.writeOp_clock, ↓Pkg.lineWrite_clock, ↓Pkg.onClus_clock, apply_ite Pkg.clock, ite_self]; done) | with_reducible refine ite_clock_Pkg ?_ ?_ | split)

theorem Pkg.deliverLocal_clock (k a1 a2) : (Pkg.deliverLocal k a1 a2).clock = k.clock := by
  unfold Pkg.deliverLocal
  simp only [↓Pkg.deliver_clock, ↓iter_clock_Pkg, implies_true, apply_ite Pkg.clock, ite_self]

theorem Pkg.linesResume_clock (k) : (Pkg.linesResume k).clock = k.clock := by
  unfold Pkg.linesResume
  simp only [↓Pkg.inject_clock, ↓Pkg.onNet_clock, ↓foldl_clock_Pkg, implies_true]

theorem Pkg.dieTest_clock (k a1) : (Pkg.dieTest k a1).clock = k.clock := by
  unfold Pkg.dieTest
  repeat' (first | with_reducible rfl | (simp only [↓Pkg.startTest_clock, ↓Core.clock_eta, ↓Core.clock_mk, ↓Clus.clock_mk, ↓Clus.core_clock, ↓Pkg.clock_mk, ↓Pkg.cl_clock, ↓Pkg.onPw_clock, ↓foldl_clock_Core, ↓iter_clock_Core, ↓foldl_clock_Clus, ↓iter_clock_Clus, ↓foldl_clock_Pkg, ↓iter_clock_Pkg, implies_true, apply_ite Pkg.clock, ite_self]; done) | with_reducible refine ite_clock_Pkg ?_ ?_ | with_reducible refine foldl_clock_Pkg' (fun _ _ => ?_) ?_ | with_reducible refine iter_clock_Pkg' (fun _ _ => ?_) ?_ | with_reducible refine foldl2_clock_Pkg' (fun _ _ => ?_) ?_ | with_reducible refine foldl3_clock_Pkg' (fun _ _ => ?_) ?_ | with_reducible refine ite_clock_Clus ?_ ?_ | with_reducible refine foldl_clock_Clus' (fun _ _ => ?_) ?_ | with_reducible refine iter_clock_Clus' (fun _ _ => ?_) ?_ | with_reducible refine foldl2_clock_Clus' (fun _ _ => ?_) ?_ | with_reducible refine foldl3_clock_Clus' (fun _ _ => ?_) ?_ | with_reducible refine ite_clock_Core ?_ ?_ | with_reducible refine foldl_clock_Core' (fun _ _ => ?_) ?_ | with_reducible refine iter_clock_Core' (fun _ _ => ?_) ?_ | with_reducible refine foldl2_clock_Core' (fun _ _ => ?_) ?_ | with_reducible refine foldl3_clock_Core' (fun _ _ => ?_) ?_ | simp only [↓Pkg.startTest_clock, ↓Core.clock_eta, ↓Core.clock_mk, ↓Clus.clock_mk, ↓Clus.core_clock, ↓Pkg.clock_mk, ↓Pkg.cl_clock, ↓Pkg.onPw_clock] | with_reducible refine of_eq_clock_Pkg ‹_› ?_ | with_reducible refine of_eq1_clock_Pkg ‹_› ?_ | with_reducible refine of_eq_clock_Clus ‹_› ?_ | with_reducible refine of_eq1_clock_Clus ‹_› ?_ | with_reducible refine of_eq_clock_Core ‹_› ?_ | with_reducible refine of_eq1_clock_Core ‹_› ?_ | split | dsimp only)

theorem Pkg.dieDone_clock (k a1) : (Pkg.dieDone k a1).clock = k.clock := by
  unfold Pkg.dieDone
  repeat' (first | with_reducible rfl | (simp only [↓Clus.copyPtrs_clock, ↓Core.fwEvent_clock, ↓Pkg.dieTest_clock, ↓Core.clock_eta, ↓Core.clock_mk, ↓Clus.clock_mk, ↓Clus.core_clock, ↓Clus.onCore_clock, ↓Pkg.clock_mk, ↓Pkg.cl_clock, ↓Pkg.onCore_clock, ↓Pkg.onClus_clock, ↓Pkg.onBi_clock, ↓foldl_clock_Core, ↓iter_clock_Core, ↓foldl_clock_Clus, ↓iter_clock_Clus, ↓foldl_clock_Pkg, ↓iter_clock_Pkg, implies_true, apply_ite Pkg.clock, ite_self]; done) | with_reducible refine ite_clock_Pkg ?_ ?_ | with_reducible refine foldl_clock_Pkg' (fun _ _ => ?_) ?_ | with_reducible refine iter_clock_Pkg' (fun _ _ => ?_) ?_ | with_reducible refine foldl2_clock_Pkg' (fun _ _ => ?_) ?_ | with_reducible refine foldl3_clock_Pkg' (fun _ _ => ?_) ?_ | with_reducible refine ite_clock_Clus ?_ ?_ | with_reducible refine foldl_clock_Clus' (fun _ _ => ?_) ?_ | with_reducible refine iter_clock_Clus' (fun _ _ => ?_) ?_ | with_reducible refine foldl2_clock_Clus' (fun _ _ => ?_) ?_ | with_reducible refine foldl3_clock_Clus' (fun _ _ => ?_) ?_ | with_reducible refine ite_clock_Core ?_ ?_ | with_reducible refine foldl_clock_Core' (fun _ _ => ?_) ?_ | with_reducible refine iter_clock_Core' (fun _ _ => ?_) ?_ | with_reducible refine foldl2_clock_Core' (fun _ _ => ?_) ?_ | with_reducible refine foldl3_clock_Core' (fun _ _ => ?_) ?_ | simp only [↓Clus.copyPtrs_clock, ↓Core.fwEvent_clock, ↓Pkg.dieTest_clock, ↓Core.clock_eta, ↓Core.clock_mk, ↓Clus.clock_mk, ↓Clus.core_clock, ↓Clus.onCore_clock, ↓Pkg.clock_mk, ↓Pkg.cl_clock, ↓Pkg.onCore_clock, ↓Pkg.onClus_clock, ↓Pkg.onBi_clock] | with_reducible refine of_eq_clock_Pkg ‹_› ?_ | with_reducible refine of_eq1_clock_Pkg ‹_› ?_ | with_reducible refine of_eq_clock_Clus ‹_› ?_ | with_reducible refine of_eq1_clock_Clus ‹_› ?_ | with_reducible refine of_eq_clock_Core ‹_› ?_ | with_reducible refine of_eq1_clock_Core ‹_› ?_ | split | dsimp only)

theorem Pkg.mirrorApply_clock (k a1) : (Pkg.mirrorApply k a1).clock = k.clock := by
  unfold Pkg.mirrorApply
  repeat' (first | (simp only [↓Pkg.cl_clock, ↓Clus.copyDescs_clock, ↓Pkg.onClus_clock, ↓Pkg.onNet_clock, apply_ite Pkg.clock, ite_self]; done) | with_reducible refine ite_clock_Pkg ?_ ?_ | split | dsimp only)

theorem Pkg.slotMapApply_clock (k a1) : (Pkg.slotMapApply k a1).clock = k.clock := by
  unfold Pkg.slotMapApply
  simp only [↓Clus.core_clock, ↓Pkg.cl_clock, ↓Clus.copyPtrs_clock, ↓Clus.ttEvent_clock, ↓Core.setFld_clock, ↓Core.wr_clock, ↓Pkg.onClus_clock, ↓Pkg.onCore_clock, ↓Pkg.onNet_clock, apply_ite Pkg.clock, ite_self]

theorem Pkg.descEvent_clock (k a1 a2 a3 a4 a5 a6) : (Pkg.descEvent k a1 a2 a3 a4 a5 a6).clock = k.clock := by
  unfold Pkg.descEvent
  repeat' (first | with_reducible rfl | (simp only [↓Core.record_clock, ↓Core.clock_eta, ↓Core.clock_mk, ↓Clus.clock_mk, ↓Clus.core_clock, ↓Clus.onCore_clock, ↓Pkg.clock_mk, ↓Pkg.cl_clock, ↓Pkg.onCore_clock, ↓Pkg.onClus_clock, ↓foldl_clock_Core, ↓iter_clock_Core, ↓foldl_clock_Clus, ↓iter_clock_Clus, ↓foldl_clock_Pkg, ↓iter_clock_Pkg, implies_true, apply_ite Pkg.clock, ite_self]; done) | with_reducible refine ite_clock_Pkg ?_ ?_ | with_reducible refine foldl_clock_Pkg' (fun _ _ => ?_) ?_ | with_reducible refine iter_clock_Pkg' (fun _ _ => ?_) ?_ | with_reducible refine foldl2_clock_Pkg' (fun _ _ => ?_) ?_ | with_reducible refine foldl3_clock_Pkg' (fun _ _ => ?_) ?_ | with_reducible refine ite_clock_Clus ?_ ?_ | with_reducible refine foldl_clock_Clus' (fun _ _ => ?_) ?_ | with_reducible refine iter_clock_Clus' (fun _ _ => ?_) ?_ | with_reducible refine foldl2_clock_Clus' (fun _ _ => ?_) ?_ | with_reducible refine foldl3_clock_Clus' (fun _ _ => ?_) ?_ | with_reducible refine ite_clock_Core ?_ ?_ | with_reducible refine foldl_clock_Core' (fun _ _ => ?_) ?_ | with_reducible refine iter_clock_Core' (fun _ _ => ?_) ?_ | with_reducible refine foldl2_clock_Core' (fun _ _ => ?_) ?_ | with_reducible refine foldl3_clock_Core' (fun _ _ => ?_) ?_ | simp only [↓Core.record_clock, ↓Core.clock_eta, ↓Core.clock_mk, ↓Clus.clock_mk, ↓Clus.core_clock, ↓Clus.onCore_clock, ↓Pkg.clock_mk, ↓Pkg.cl_clock, ↓Pkg.onCore_clock, ↓Pkg.onClus_clock] | with_reducible refine of_eq_clock_Pkg ‹_› ?_ | with_reducible refine of_eq1_clock_Pkg ‹_› ?_ | with_reducible refine of_eq_clock_Clus ‹_› ?_ | with_reducible refine of_eq1_clock_Clus ‹_› ?_ | with_reducible refine of_eq_clock_Core ‹_› ?_ | with_reducible refine of_eq1_clock_Core ‹_› ?_ | split | dsimp only)

theorem Pkg.dmaStart_clock (k a1 a2 a3 a4 a5 a6) : (Pkg.dmaStart k a1 a2 a3 a4 a5 a6).clock = k.clock := by
  unfold Pkg.dmaStart
  repeat' (first | with_reducible rfl | (simp only [↓Clus.fail_clock, ↓Pkg.descEvent_clock, ↓Core.clock_eta, ↓Core.clock_mk, ↓Clus.clock_mk, ↓Clus.core_clock, ↓Pkg.clock_mk, ↓Pkg.cl_clock, ↓Pkg.onClus_clock, ↓Pkg.onNet_clock, ↓foldl_clock_Core, ↓iter_clock_Core, ↓foldl_clock_Clus, ↓iter_clock_Clus, ↓foldl_clock_Pkg, ↓iter_clock_Pkg, implies_true, apply_ite Pkg.clock, ite_self]; done) | with_reducible refine ite_clock_Pkg ?_ ?_ | with_reducible refine foldl_clock_Pkg' (fun _ _ => ?_) ?_ | with_reducible refine iter_clock_Pkg' (fun _ _ => ?_) ?_ | with_reducible refine foldl2_clock_Pkg' (fun _ _ => ?_) ?_ | with_reducible refine foldl3_clock_Pkg' (fun _ _ => ?_) ?_ | with_reducible refine ite_clock_Clus ?_ ?_ | with_reducible refine foldl_clock_Clus' (fun _ _ => ?_) ?_ | with_reducible refine iter_clock_Clus' (fun _ _ => ?_) ?_ | with_reducible refine foldl2_clock_Clus' (fun _ _ => ?_) ?_ | with_reducible refine foldl3_clock_Clus' (fun _ _ => ?_) ?_ | with_reducible refine ite_clock_Core ?_ ?_ | with_reducible refine foldl_clock_Core' (fun _ _ => ?_) ?_ | with_reducible refine iter_clock_Core' (fun _ _ => ?_) ?_ | with_reducible refine foldl2_clock_Core' (fun _ _ => ?_) ?_ | with_reducible refine foldl3_clock_Core' (fun _ _ => ?_) ?_ | simp only [↓Clus.fail_clock, ↓Pkg.descEvent_clock, ↓Core.clock_eta, ↓Core.clock_mk, ↓Clus.clock_mk, ↓Clus.core_clock, ↓Pkg.clock_mk, ↓Pkg.cl_clock, ↓Pkg.onClus_clock, ↓Pkg.onNet_clock] | with_reducible refine of_eq_clock_Pkg ‹_› ?_ | with_reducible refine of_eq1_clock_Pkg ‹_› ?_ | with_reducible refine of_eq_clock_Clus ‹_› ?_ | with_reducible refine of_eq1_clock_Clus ‹_› ?_ | with_reducible refine of_eq_clock_Core ‹_› ?_ | with_reducible refine of_eq1_clock_Core ‹_› ?_ | split | dsimp only)

theorem Pkg.startRun_clock (k a1 a2 a3 a4) : (Pkg.startRun k a1 a2 a3 a4).clock = k.clock := by
  unfold Pkg.startRun
  simp only [↓Pkg.cl_clock, ↓Clus.sStart_clock, ↓Clus.saSelect_clock, ↓Clus.thruRegister_clock, ↓Pkg.dmaStart_clock, ↓Pkg.onClus_clock, apply_ite Pkg.clock, ite_self]

theorem Pkg.startRuns_clock (k a1) : (Pkg.startRuns k a1).clock = k.clock := by
  unfold Pkg.startRuns
  repeat' (first | (simp only [↓Pkg.startRun_clock, apply_ite Pkg.clock, ite_self]; done) | with_reducible refine ite_clock_Pkg ?_ ?_ | with_reducible refine foldl_clock_Pkg' (fun _ _ => ?_) ?_ | with_reducible refine iter_clock_Pkg' (fun _ _ => ?_) ?_ | simp only [↓Pkg.startRun_clock] | split | dsimp only)

theorem Pkg.departRegion_clock (k a1) : (Pkg.departRegion k a1).clock = k.clock := by
  unfold Pkg.departRegion
  simp only [↓Clus.clock_mk, ↓Clus.core_clock, ↓Pkg.cl_clock, ↓Clus.reportIn_clock, ↓Clus.select_clock, ↓Clus.startPending_clock, ↓Clus.storesDepart_clock, ↓Clus.unitsDepart_clock, ↓Pkg.mirrorApply_clock, ↓Pkg.onClus_clock, ↓Pkg.slotMapApply_clock, ↓Pkg.startRuns_clock]

theorem Pkg.moveDone_clock (k a1) : (Pkg.moveDone k a1).clock = k.clock := by
  unfold Pkg.moveDone
  repeat' (first | (simp only [↓Clus.core_clock, ↓Pkg.cl_clock, ↓Core.biEvent_clock, ↓Core.fwEvent_clock, ↓Core.incWrap_clock, ↓Pkg.onBi_clock, ↓Pkg.onCore_clock, ↓Pkg.setMove_clock, ↓Pkg.startTest_clock, apply_ite Pkg.clock, ite_self]; done) | with_reducible refine ite_clock_Pkg ?_ ?_ | split)

theorem Pkg.departPart_clock (k a1) : (Pkg.departPart k a1).clock = k.clock := by
  unfold Pkg.departPart
  repeat' (first | with_reducible rfl | (simp only [↓Clus.reportIn_clock, ↓Pkg.biShow_clock, ↓Pkg.cutChannels_clock, ↓Pkg.departRegion_clock, ↓Pkg.dieDone_clock, ↓Pkg.moveDone_clock, ↓Core.clock_eta, ↓Core.clock_mk, ↓Clus.clock_mk, ↓Clus.core_clock, ↓Pkg.clock_mk, ↓Pkg.cl_clock, ↓Pkg.onClus_clock, ↓foldl_clock_Core, ↓iter_clock_Core, ↓foldl_clock_Clus, ↓iter_clock_Clus, ↓foldl_clock_Pkg, ↓iter_clock_Pkg, implies_true, apply_ite Pkg.clock, ite_self]; done) | with_reducible refine ite_clock_Pkg ?_ ?_ | with_reducible refine foldl_clock_Pkg' (fun _ _ => ?_) ?_ | with_reducible refine iter_clock_Pkg' (fun _ _ => ?_) ?_ | with_reducible refine foldl2_clock_Pkg' (fun _ _ => ?_) ?_ | with_reducible refine foldl3_clock_Pkg' (fun _ _ => ?_) ?_ | with_reducible refine ite_clock_Clus ?_ ?_ | with_reducible refine foldl_clock_Clus' (fun _ _ => ?_) ?_ | with_reducible refine iter_clock_Clus' (fun _ _ => ?_) ?_ | with_reducible refine foldl2_clock_Clus' (fun _ _ => ?_) ?_ | with_reducible refine foldl3_clock_Clus' (fun _ _ => ?_) ?_ | with_reducible refine ite_clock_Core ?_ ?_ | with_reducible refine foldl_clock_Core' (fun _ _ => ?_) ?_ | with_reducible refine iter_clock_Core' (fun _ _ => ?_) ?_ | with_reducible refine foldl2_clock_Core' (fun _ _ => ?_) ?_ | with_reducible refine foldl3_clock_Core' (fun _ _ => ?_) ?_ | simp only [↓Clus.reportIn_clock, ↓Pkg.biShow_clock, ↓Pkg.cutChannels_clock, ↓Pkg.departRegion_clock, ↓Pkg.dieDone_clock, ↓Pkg.moveDone_clock, ↓Core.clock_eta, ↓Core.clock_mk, ↓Clus.clock_mk, ↓Clus.core_clock, ↓Pkg.clock_mk, ↓Pkg.cl_clock, ↓Pkg.onClus_clock] | with_reducible refine of_eq_clock_Pkg ‹_› ?_ | with_reducible refine of_eq1_clock_Pkg ‹_› ?_ | with_reducible refine of_eq_clock_Clus ‹_› ?_ | with_reducible refine of_eq1_clock_Clus ‹_› ?_ | with_reducible refine of_eq_clock_Core ‹_› ?_ | with_reducible refine of_eq1_clock_Core ‹_› ?_ | split | dsimp only)

theorem Pkg.finishRun_clock (k a1) : (Pkg.finishRun k a1).clock = k.clock := by
  unfold Pkg.finishRun
  simp only [↓Clus.core_clock, ↓Pkg.cl_clock, ↓Clus.signal_clock, ↓Core.wr_clock, ↓Pkg.onClus_clock, ↓Pkg.onCore_clock, ↓Pkg.setDma_clock, apply_ite Pkg.clock, ite_self]

theorem Pkg.descComplete_clock (k a1 a2 a3) : (Pkg.descComplete k a1 a2 a3).clock = k.clock := by
  unfold Pkg.descComplete
  repeat' (first | (simp only [↓Pkg.finishRun_clock, apply_ite Pkg.clock, ite_self]; done) | with_reducible refine ite_clock_Pkg ?_ ?_ | split | dsimp only)

theorem Pkg.devPoll_clock (k) : (Pkg.devPoll k).clock = k.clock := by
  unfold Pkg.devPoll
  repeat' (first | (simp only [↓Pkg.diagPoll_clock, ↓Pkg.layUp_clock, apply_ite Pkg.clock, ite_self]; done) | with_reducible refine ite_clock_Pkg ?_ ?_ | split)

theorem Pkg.unfence_clock (k a1) : (Pkg.unfence k a1).clock = k.clock := by
  unfold Pkg.unfence
  repeat' (first | (simp only [↓Pkg.fencePut_clock]; done) | with_reducible refine ite_clock_Pkg ?_ ?_ | split)

theorem Pkg.dieBack_clock (k a1) : (Pkg.dieBack k a1).clock = k.clock := by
  unfold Pkg.dieBack
  simp only [↓Pkg.unfence_clock, apply_ite Pkg.clock, ite_self]

theorem Pkg.dieOff_clock (k a1 a2) : (Pkg.dieOff k a1 a2).clock = k.clock := by
  unfold Pkg.dieOff
  simp only [↓Pkg.cl_clock, ↓Clus.regionFail_clock, ↓Pkg.dieRelief_clock, ↓Pkg.onClus_clock, ↓Pkg.onPw_clock]

theorem Pkg.drainArrive_clock (k a1) : (Pkg.drainArrive k a1).clock = k.clock := by
  unfold Pkg.drainArrive
  simp only [↓Clus.core_clock, ↓Pkg.cl_clock, ↓Core.setTb_clock, ↓Pkg.onCore_clock, ↓Pkg.onFab_clock, apply_ite Pkg.clock, apply_ite Core.clock, ite_self]

theorem Pkg.drainDoneFrame_clock (k a1) : (Pkg.drainDoneFrame k a1).clock = k.clock := by
  unfold Pkg.drainDoneFrame
  simp only [↓Pkg.onFab_clock, apply_ite Pkg.clock, ite_self]

theorem Pkg.drawWindows_clock (k) : (Pkg.drawWindows k).clock = k.clock := by
  unfold Pkg.drawWindows
  simp only [↓Clus.core_clock, ↓Pkg.cl_clock, ↓Core.draw_clock, ↓Core.wr_clock, ↓Core.zero_clock, ↓Pkg.onCore_clock, ↓Pkg.onHbm_clock, ↓iter_clock_Pkg, implies_true, apply_ite Pkg.clock, ite_self]

theorem Pkg.drillInject_clock (k a1) : (Pkg.drillInject k a1).clock = k.clock := by
  unfold Pkg.drillInject
  repeat' (first | (simp only [↓Clus.core_clock, ↓Pkg.cl_clock, ↓Core.fwEvent_clock, ↓Core.setFld_clock, ↓Pkg.onBi_clock, ↓Pkg.onCore_clock, apply_ite Pkg.clock, apply_ite Core.clock, ite_self]; done) | with_reducible refine ite_clock_Pkg ?_ ?_ | split | dsimp only)

theorem Pkg.drillTick_clock (k a1) : (Pkg.drillTick k a1).clock = k.clock := by
  unfold Pkg.drillTick
  repeat' (first | (simp only [↓Pkg.drillInject_clock, apply_ite Pkg.clock, ite_self]; done) | with_reducible refine ite_clock_Pkg ?_ ?_ | split)

theorem Pkg.copyTimeout_clock (k a1) : (Pkg.copyTimeout k a1).clock = k.clock := by
  unfold Pkg.copyTimeout
  repeat' (first | with_reducible rfl | (simp only [↓Pkg.setRingDead_clock, ↓Core.clock_eta, ↓Core.clock_mk, ↓Clus.clock_mk, ↓Clus.core_clock, ↓Pkg.clock_mk, ↓Pkg.cl_clock, ↓foldl_clock_Core, ↓iter_clock_Core, ↓foldl_clock_Clus, ↓iter_clock_Clus, ↓foldl_clock_Pkg, ↓iter_clock_Pkg, implies_true, apply_ite Pkg.clock, ite_self]; done) | with_reducible refine ite_clock_Pkg ?_ ?_ | with_reducible refine foldl_clock_Pkg' (fun _ _ => ?_) ?_ | with_reducible refine iter_clock_Pkg' (fun _ _ => ?_) ?_ | with_reducible refine foldl2_clock_Pkg' (fun _ _ => ?_) ?_ | with_reducible refine foldl3_clock_Pkg' (fun _ _ => ?_) ?_ | with_reducible refine ite_clock_Clus ?_ ?_ | with_reducible refine foldl_clock_Clus' (fun _ _ => ?_) ?_ | with_reducible refine iter_clock_Clus' (fun _ _ => ?_) ?_ | with_reducible refine foldl2_clock_Clus' (fun _ _ => ?_) ?_ | with_reducible refine foldl3_clock_Clus' (fun _ _ => ?_) ?_ | with_reducible refine ite_clock_Core ?_ ?_ | with_reducible refine foldl_clock_Core' (fun _ _ => ?_) ?_ | with_reducible refine iter_clock_Core' (fun _ _ => ?_) ?_ | with_reducible refine foldl2_clock_Core' (fun _ _ => ?_) ?_ | with_reducible refine foldl3_clock_Core' (fun _ _ => ?_) ?_ | simp only [↓Pkg.setRingDead_clock, ↓Core.clock_eta, ↓Core.clock_mk, ↓Clus.clock_mk, ↓Clus.core_clock, ↓Pkg.clock_mk, ↓Pkg.cl_clock] | with_reducible refine of_eq_clock_Pkg ‹_› ?_ | with_reducible refine of_eq1_clock_Pkg ‹_› ?_ | with_reducible refine of_eq_clock_Clus ‹_› ?_ | with_reducible refine of_eq1_clock_Clus ‹_› ?_ | with_reducible refine of_eq_clock_Core ‹_› ?_ | with_reducible refine of_eq1_clock_Core ‹_› ?_ | split | dsimp only)

theorem Pkg.dumpTimeout_clock (k a1) : (Pkg.dumpTimeout k a1).clock = k.clock := by
  unfold Pkg.dumpTimeout
  repeat' (first | with_reducible rfl | (simp only [↓Pkg.copyTimeout_clock, ↓Core.clock_eta, ↓Core.clock_mk, ↓Clus.clock_mk, ↓Clus.core_clock, ↓Pkg.clock_mk, ↓Pkg.cl_clock, ↓Pkg.onFw_clock, ↓foldl_clock_Core, ↓iter_clock_Core, ↓foldl_clock_Clus, ↓iter_clock_Clus, ↓foldl_clock_Pkg, ↓iter_clock_Pkg, implies_true, apply_ite Pkg.clock, ite_self]; done) | with_reducible refine ite_clock_Pkg ?_ ?_ | with_reducible refine foldl_clock_Pkg' (fun _ _ => ?_) ?_ | with_reducible refine iter_clock_Pkg' (fun _ _ => ?_) ?_ | with_reducible refine foldl2_clock_Pkg' (fun _ _ => ?_) ?_ | with_reducible refine foldl3_clock_Pkg' (fun _ _ => ?_) ?_ | with_reducible refine ite_clock_Clus ?_ ?_ | with_reducible refine foldl_clock_Clus' (fun _ _ => ?_) ?_ | with_reducible refine iter_clock_Clus' (fun _ _ => ?_) ?_ | with_reducible refine foldl2_clock_Clus' (fun _ _ => ?_) ?_ | with_reducible refine foldl3_clock_Clus' (fun _ _ => ?_) ?_ | with_reducible refine ite_clock_Core ?_ ?_ | with_reducible refine foldl_clock_Core' (fun _ _ => ?_) ?_ | with_reducible refine iter_clock_Core' (fun _ _ => ?_) ?_ | with_reducible refine foldl2_clock_Core' (fun _ _ => ?_) ?_ | with_reducible refine foldl3_clock_Core' (fun _ _ => ?_) ?_ | simp only [↓Pkg.copyTimeout_clock, ↓Core.clock_eta, ↓Core.clock_mk, ↓Clus.clock_mk, ↓Clus.core_clock, ↓Pkg.clock_mk, ↓Pkg.cl_clock, ↓Pkg.onFw_clock] | with_reducible refine of_eq_clock_Pkg ‹_› ?_ | with_reducible refine of_eq1_clock_Pkg ‹_› ?_ | with_reducible refine of_eq_clock_Clus ‹_› ?_ | with_reducible refine of_eq1_clock_Clus ‹_› ?_ | with_reducible refine of_eq_clock_Core ‹_› ?_ | with_reducible refine of_eq1_clock_Core ‹_› ?_ | split | dsimp only)

theorem Pkg.endTest_clock (k a1 a2) : (Pkg.endTest k a1 a2).clock = k.clock := by
  unfold Pkg.endTest
  simp only [↓Pkg.biShow_clock, ↓Pkg.onBi_clock]

theorem Pkg.sink_clock (k a1 a2) (a3 : Pkg → ErrRec → Pkg) (a4) (h3 : ∀ x0 x1, (a3 x0 x1).clock = x0.clock) :
    (Pkg.sink k a1 a2 a3 a4).clock = k.clock := by
  unfold Pkg.sink
  repeat' (first | with_reducible rfl | (simp only [↓Core.clock_eta, ↓Core.clock_mk, ↓Clus.clock_mk, ↓Clus.core_clock, ↓Pkg.clock_mk, ↓Pkg.cl_clock, ↓Pkg.onFw_clock, h3, ↓foldl_clock_Core, ↓iter_clock_Core, ↓foldl_clock_Clus, ↓iter_clock_Clus, ↓foldl_clock_Pkg, ↓iter_clock_Pkg, implies_true, apply_ite Pkg.clock, ite_self]; done) | with_reducible refine ite_clock_Pkg ?_ ?_ | with_reducible refine foldl_clock_Pkg' (fun _ _ => ?_) ?_ | with_reducible refine iter_clock_Pkg' (fun _ _ => ?_) ?_ | with_reducible refine foldl2_clock_Pkg' (fun _ _ => ?_) ?_ | with_reducible refine foldl3_clock_Pkg' (fun _ _ => ?_) ?_ | with_reducible refine ite_clock_Clus ?_ ?_ | with_reducible refine foldl_clock_Clus' (fun _ _ => ?_) ?_ | with_reducible refine iter_clock_Clus' (fun _ _ => ?_) ?_ | with_reducible refine foldl2_clock_Clus' (fun _ _ => ?_) ?_ | with_reducible refine foldl3_clock_Clus' (fun _ _ => ?_) ?_ | with_reducible refine ite_clock_Core ?_ ?_ | with_reducible refine foldl_clock_Core' (fun _ _ => ?_) ?_ | with_reducible refine iter_clock_Core' (fun _ _ => ?_) ?_ | with_reducible refine foldl2_clock_Core' (fun _ _ => ?_) ?_ | with_reducible refine foldl3_clock_Core' (fun _ _ => ?_) ?_ | simp only [↓Core.clock_eta, ↓Core.clock_mk, ↓Clus.clock_mk, ↓Clus.core_clock, ↓Pkg.clock_mk, ↓Pkg.cl_clock, ↓Pkg.onFw_clock, h3] | with_reducible refine of_eq_clock_Pkg ‹_› ?_ | with_reducible refine of_eq1_clock_Pkg ‹_› ?_ | with_reducible refine of_eq_clock_Clus ‹_› ?_ | with_reducible refine of_eq1_clock_Clus ‹_› ?_ | with_reducible refine of_eq_clock_Core ‹_› ?_ | with_reducible refine of_eq1_clock_Core ‹_› ?_ | split | dsimp only)

theorem Pkg.errorRecord_clock (k a1) : (Pkg.errorRecord k a1).clock = k.clock := by
  unfold Pkg.errorRecord
  simp only [↓Core.clock_eta, ↓Core.clock_mk, ↓Clus.core_clock, ↓Pkg.cl_clock, ↓Core.incSat_clock, ↓Pkg.bpAct_clock, ↓Pkg.onCore_clock, ↓Pkg.sbAct_clock, ↓Pkg.sink_clock, implies_true, apply_ite Pkg.clock, ite_self]

theorem Pkg.fwNote_clock (k a1 a2 a3 a4) : (Pkg.fwNote k a1 a2 a3 a4).clock = k.clock := by
  unfold Pkg.fwNote
  simp only [↓Clus.core_clock, ↓Pkg.cl_clock, ↓Core.fwEvent_clock, ↓Pkg.onCore_clock]

theorem Pkg.serveAgain_clock (k a1) : (Pkg.serveAgain k a1).clock = k.clock := by
  unfold Pkg.serveAgain
  simp only [↓Clus.core_clock, ↓Pkg.cl_clock, ↓Core.countRestart_clock, ↓Pkg.complexDrain_clock, ↓Pkg.fwNote_clock, ↓Pkg.onCore_clock, ↓Pkg.onFw_clock]

theorem Pkg.exchCrash_clock (k) : (Pkg.exchCrash k).clock = k.clock := by
  unfold Pkg.exchCrash
  repeat' (first | (simp only [↓Pkg.exchEnd_clock, ↓Pkg.flipBank_clock, ↓Pkg.fwNote_clock, ↓Pkg.serveAgain_clock, ↓foldl_clock_Pkg, implies_true, apply_ite Pkg.clock, ite_self]; done) | with_reducible refine ite_clock_Pkg ?_ ?_ | split)

theorem Pkg.exchSwitch_clock (k) : (Pkg.exchSwitch k).clock = k.clock := by
  unfold Pkg.exchSwitch
  repeat' (first | (simp only [↓Core.clock_eta, ↓Core.clock_mk, ↓Clus.core_clock, ↓Pkg.cl_clock, ↓Pkg.exchEnd_clock, ↓Pkg.flipBank_clock, ↓Pkg.onCore_clock, ↓Pkg.onFw_clock, ↓Pkg.serveAgain_clock, ↓foldl_clock_Pkg, implies_true, apply_ite Pkg.clock, ite_self]; done) | with_reducible refine ite_clock_Pkg ?_ ?_ | split)

theorem Pkg.excludeSensor_clock (k a1 a2 a3) : (Pkg.excludeSensor k a1 a2 a3).clock = k.clock := by
  unfold Pkg.excludeSensor
  simp only [↓Pkg.dieOff_clock, ↓Pkg.onPw_clock, ↓Pkg.pwEvent_clock, apply_ite Pkg.clock, ite_self]

theorem Pkg.extest_clock (k a1) : (Pkg.extest k a1).clock = k.clock := by
  unfold Pkg.extest
  simp only [↓Pkg.onSec_clock, ↓Pkg.secDenied_clock, apply_ite Pkg.clock, ite_self]

theorem Pkg.noteLinks_clock (k) : (Pkg.noteLinks k).clock = k.clock := by
  unfold Pkg.noteLinks
  simp only [↓Pkg.onBu_clock]

theorem Pkg.rehomeNow_clock (k a1 a2 a3) : (Pkg.rehomeNow k a1 a2 a3).clock = k.clock := by
  unfold Pkg.rehomeNow
  repeat' (first | (simp only [↓Pkg.hbEvent_clock, ↓Pkg.onHbm_clock, ↓Pkg.spareCheck_clock, ↓Pkg.startPage_clock, apply_ite Pkg.clock]; done) | with_reducible refine ite_clock_Pkg ?_ ?_ | split)

theorem Pkg.rehomeAll_clock (k a1 a2) : (Pkg.rehomeAll k a1 a2).clock = k.clock := by
  unfold Pkg.rehomeAll
  simp only [↓Clus.core_clock, ↓Pkg.cl_clock, ↓Core.setFld_clock, ↓Pkg.hbEvent_clock, ↓Pkg.onCore_clock, ↓Pkg.rehomeNow_clock, ↓iter_clock_Pkg, implies_true, apply_ite Pkg.clock, ite_self]

theorem Pkg.waveStart_clock (k a1) : (Pkg.waveStart k a1).clock = k.clock := by
  unfold Pkg.waveStart
  repeat' (first | (simp only [↓Pkg.rehomeAll_clock, ↓Pkg.rehomeNow_clock, ↓foldl_clock_Pkg, implies_true, apply_ite Pkg.clock, ite_self]; done) | with_reducible refine ite_clock_Pkg ?_ ?_ | with_reducible refine foldl_clock_Pkg' (fun _ _ => ?_) ?_ | split | dsimp only)

theorem Core.quadEntries_clock (k a1 a2) : (Core.quadEntries k a1 a2).clock = k.clock := by
  unfold Core.quadEntries
  repeat' (first | with_reducible rfl | (simp only [↓Core.setFld_clock, ↓Core.clock_eta, ↓Core.clock_mk, ↓foldl_clock_Core, ↓iter_clock_Core, implies_true, apply_ite Core.clock, ite_self]; done) | with_reducible refine ite_clock_Core ?_ ?_ | with_reducible refine foldl_clock_Core' (fun _ _ => ?_) ?_ | with_reducible refine iter_clock_Core' (fun _ _ => ?_) ?_ | with_reducible refine foldl2_clock_Core' (fun _ _ => ?_) ?_ | with_reducible refine foldl3_clock_Core' (fun _ _ => ?_) ?_ | simp only [↓Core.setFld_clock, ↓Core.clock_eta, ↓Core.clock_mk] | with_reducible refine of_eq_clock_Core ‹_› ?_ | with_reducible refine of_eq1_clock_Core ‹_› ?_ | split | dsimp only)

theorem Core.joinPrep_clock (k a1) : (Core.joinPrep k a1).clock = k.clock := by
  unfold Core.joinPrep
  repeat' (first | with_reducible rfl | (simp only [↓Core.bankCopy_clock, ↓Core.lcArm_clock, ↓Core.quadEntries_clock, ↓Core.clock_eta, ↓Core.clock_mk, ↓foldl_clock_Core, ↓iter_clock_Core, implies_true, apply_ite Core.clock, ite_self]; done) | with_reducible refine ite_clock_Core ?_ ?_ | with_reducible refine foldl_clock_Core' (fun _ _ => ?_) ?_ | with_reducible refine iter_clock_Core' (fun _ _ => ?_) ?_ | with_reducible refine foldl2_clock_Core' (fun _ _ => ?_) ?_ | with_reducible refine foldl3_clock_Core' (fun _ _ => ?_) ?_ | simp only [↓Core.bankCopy_clock, ↓Core.lcArm_clock, ↓Core.quadEntries_clock, ↓Core.clock_eta, ↓Core.clock_mk] | with_reducible refine of_eq_clock_Core ‹_› ?_ | with_reducible refine of_eq1_clock_Core ‹_› ?_ | split | dsimp only)

theorem Pkg.fabricEnd_clock (k) : (Pkg.fabricEnd k).clock = k.clock := by
  unfold Pkg.fabricEnd
  repeat' (first | with_reducible rfl | (simp only [↓Core.joinPrep_clock, ↓Core.setFld_clock, ↓Core.setStep_clock, ↓Core.stepEnd_clock, ↓Pkg.noteLinks_clock, ↓Pkg.waveStart_clock, ↓Core.clock_eta, ↓Core.clock_mk, ↓Clus.clock_mk, ↓Clus.core_clock, ↓Clus.onCore_clock, ↓Pkg.clock_mk, ↓Pkg.cl_clock, ↓Pkg.onCore_clock, ↓Pkg.onBu_clock, ↓foldl_clock_Core, ↓iter_clock_Core, ↓foldl_clock_Clus, ↓iter_clock_Clus, ↓foldl_clock_Pkg, ↓iter_clock_Pkg, implies_true, apply_ite Pkg.clock, ite_self]; done) | with_reducible refine ite_clock_Pkg ?_ ?_ | with_reducible refine foldl_clock_Pkg' (fun _ _ => ?_) ?_ | with_reducible refine iter_clock_Pkg' (fun _ _ => ?_) ?_ | with_reducible refine foldl2_clock_Pkg' (fun _ _ => ?_) ?_ | with_reducible refine foldl3_clock_Pkg' (fun _ _ => ?_) ?_ | with_reducible refine ite_clock_Clus ?_ ?_ | with_reducible refine foldl_clock_Clus' (fun _ _ => ?_) ?_ | with_reducible refine iter_clock_Clus' (fun _ _ => ?_) ?_ | with_reducible refine foldl2_clock_Clus' (fun _ _ => ?_) ?_ | with_reducible refine foldl3_clock_Clus' (fun _ _ => ?_) ?_ | with_reducible refine ite_clock_Core ?_ ?_ | with_reducible refine foldl_clock_Core' (fun _ _ => ?_) ?_ | with_reducible refine iter_clock_Core' (fun _ _ => ?_) ?_ | with_reducible refine foldl2_clock_Core' (fun _ _ => ?_) ?_ | with_reducible refine foldl3_clock_Core' (fun _ _ => ?_) ?_ | simp only [↓Core.joinPrep_clock, ↓Core.setFld_clock, ↓Core.setStep_clock, ↓Core.stepEnd_clock, ↓Pkg.noteLinks_clock, ↓Pkg.waveStart_clock, ↓Core.clock_eta, ↓Core.clock_mk, ↓Clus.clock_mk, ↓Clus.core_clock, ↓Clus.onCore_clock, ↓Pkg.clock_mk, ↓Pkg.cl_clock, ↓Pkg.onCore_clock, ↓Pkg.onBu_clock] | with_reducible refine of_eq_clock_Pkg ‹_› ?_ | with_reducible refine of_eq1_clock_Pkg ‹_› ?_ | with_reducible refine of_eq_clock_Clus ‹_› ?_ | with_reducible refine of_eq1_clock_Clus ‹_› ?_ | with_reducible refine of_eq_clock_Core ‹_› ?_ | with_reducible refine of_eq1_clock_Core ‹_› ?_ | split | dsimp only)

theorem Pkg.faultOut_clock (k) : (Pkg.faultOut k).clock = k.clock := by
  unfold Pkg.faultOut
  simp only [↓Pkg.failed_clock, ↓Pkg.onPw_clock]

theorem Pkg.flitCrc_clock (k a1 a2 a3 a4) : (Pkg.flitCrc k a1 a2 a3 a4).clock = k.clock := by
  unfold Pkg.flitCrc
  repeat' (first | with_reducible rfl | (simp only [↓Pkg.countRetry_clock, ↓Pkg.exhaust_clock, ↓Core.clock_eta, ↓Core.clock_mk, ↓Clus.clock_mk, ↓Clus.core_clock, ↓Pkg.clock_mk, ↓Pkg.cl_clock, ↓Pkg.onNet_clock, ↓foldl_clock_Core, ↓iter_clock_Core, ↓foldl_clock_Clus, ↓iter_clock_Clus, ↓foldl_clock_Pkg, ↓iter_clock_Pkg, implies_true, apply_ite Pkg.clock, ite_self]; done) | with_reducible refine ite_clock_Pkg ?_ ?_ | with_reducible refine foldl_clock_Pkg' (fun _ _ => ?_) ?_ | with_reducible refine iter_clock_Pkg' (fun _ _ => ?_) ?_ | with_reducible refine foldl2_clock_Pkg' (fun _ _ => ?_) ?_ | with_reducible refine foldl3_clock_Pkg' (fun _ _ => ?_) ?_ | with_reducible refine ite_clock_Clus ?_ ?_ | with_reducible refine foldl_clock_Clus' (fun _ _ => ?_) ?_ | with_reducible refine iter_clock_Clus' (fun _ _ => ?_) ?_ | with_reducible refine foldl2_clock_Clus' (fun _ _ => ?_) ?_ | with_reducible refine foldl3_clock_Clus' (fun _ _ => ?_) ?_ | with_reducible refine ite_clock_Core ?_ ?_ | with_reducible refine foldl_clock_Core' (fun _ _ => ?_) ?_ | with_reducible refine iter_clock_Core' (fun _ _ => ?_) ?_ | with_reducible refine foldl2_clock_Core' (fun _ _ => ?_) ?_ | with_reducible refine foldl3_clock_Core' (fun _ _ => ?_) ?_ | simp only [↓Pkg.countRetry_clock, ↓Pkg.exhaust_clock, ↓Core.clock_eta, ↓Core.clock_mk, ↓Clus.clock_mk, ↓Clus.core_clock, ↓Pkg.clock_mk, ↓Pkg.cl_clock, ↓Pkg.onNet_clock] | with_reducible refine of_eq_clock_Pkg ‹_› ?_ | with_reducible refine of_eq1_clock_Pkg ‹_› ?_ | with_reducible refine of_eq_clock_Clus ‹_› ?_ | with_reducible refine of_eq1_clock_Clus ‹_› ?_ | with_reducible refine of_eq_clock_Core ‹_› ?_ | with_reducible refine of_eq1_clock_Core ‹_› ?_ | split | dsimp only)

theorem Pkg.fuseMap_clock (k) : (Pkg.fuseMap k).2.clock = k.clock := by
  unfold Pkg.fuseMap
  repeat' (first | (simp only [↓Clus.core_clock, ↓Pkg.cl_clock, ↓Core.buEvent_clock, ↓Pkg.onCore_clock]; done) | with_reducible refine ite_clock_Pkg ?_ ?_ | with_reducible refine foldl_clock_Pkg' (fun _ _ => ?_) ?_ | with_reducible refine iter_clock_Pkg' (fun _ _ => ?_) ?_ | with_reducible refine foldl2_clock_Pkg' (fun _ _ => ?_) ?_ | with_reducible refine foldl3_clock_Pkg' (fun _ _ => ?_) ?_ | simp only [↓Core.clock_eta] | with_reducible refine of_eq_clock_Pkg ‹_› ?_ | split | dsimp only)

theorem Pkg.loadsFail_clock (k) : (Pkg.loadsFail k).clock = k.clock := by
  unfold Pkg.loadsFail
  simp only [↓Pkg.cmdEnd_clock, ↓Pkg.onJob_clock, ↓Pkg.setJobState_clock, ↓foldl_clock_Pkg, implies_true]

theorem Pkg.fwRestart_clock (k a1 a2 a3) : (Pkg.fwRestart k a1 a2 a3).clock = k.clock := by
  unfold Pkg.fwRestart
  simp only [↓Pkg.exchCrash_clock, ↓Pkg.fwNote_clock, ↓Pkg.loadsFail_clock, ↓Pkg.onFw_clock, ↓Pkg.resetAsk_clock, ↓Pkg.serveAgain_clock, ↓Pkg.setDevState_clock, apply_ite Pkg.clock, ite_self]

theorem Pkg.fwTakeover_clock (k) : (Pkg.fwTakeover k).clock = k.clock := by
  unfold Pkg.fwTakeover
  simp only [↓Core.clock_eta, ↓Core.clock_mk, ↓Clus.core_clock, ↓Pkg.cl_clock, ↓Pkg.complexDrain_clock, ↓Pkg.exchCrash_clock, ↓Pkg.fwNote_clock, ↓Pkg.loadsFail_clock, ↓Pkg.onCore_clock, apply_ite Pkg.clock, ite_self]

theorem Pkg.startComplexes_clock (k a1) : (Pkg.startComplexes k a1).clock = k.clock := by
  unfold Pkg.startComplexes
  simp only [↓Core.clock_eta, ↓Core.clock_mk, ↓Clus.core_clock, ↓Pkg.cl_clock, ↓Pkg.cwWr_clock, ↓Pkg.onCore_clock, ↓Pkg.onFw_clock]

theorem Pkg.fwlVerify_clock (k a1) : (Pkg.fwlVerify k a1).clock = k.clock := by
  unfold Pkg.fwlVerify
  repeat' (first | (simp only [↓Clus.core_clock, ↓Pkg.cl_clock, ↓Core.fwEvent_clock, ↓Core.stepEnd_clock, ↓Pkg.applyWarm_clock, ↓Pkg.complexDrain_clock, ↓Pkg.cwWr_clock, ↓Pkg.drawWindows_clock, ↓Pkg.onCore_clock, ↓Pkg.onFw_clock, ↓Pkg.setDevState_clock, ↓Pkg.startComplexes_clock, ↓foldl_clock_Pkg, implies_true, apply_ite Pkg.clock, ite_self]; done) | with_reducible refine ite_clock_Pkg ?_ ?_ | split | dsimp only)

theorem Pkg.giveTags_clock (k) : (Pkg.giveTags k).clock = k.clock := by
  unfold Pkg.giveTags
  simp only [↓Pkg.setLink_clock, ↓foldl_clock_Pkg, implies_true]

theorem Pkg.grant_clock (k a1 a2) : (Pkg.grant k a1 a2).clock = k.clock := by
  unfold Pkg.grant
  simp only [↓Pkg.onAtt_clock]

theorem TreeWalk.along_clock (pk : Packet) (w : TreeWalk) (p : List (Nat × Nat)) : (TreeWalk.along pk w p).k.clock = w.k.clock := by
  induction p generalizing w with
  | nil => rfl
  | cons l r ih =>
    unfold TreeWalk.along
    split
    · rfl
    · split
      · exact ih w
      · dsimp only
        split
        · exact Pkg.cross_clock pk (w.k, false) l
        · exact (ih _).trans (Pkg.cross_clock pk (w.k, false) l)

theorem Pkg.walkTree_clock (k a1 a2) : (Pkg.walkTree k a1 a2).1.clock = k.clock := by
  unfold Pkg.walkTree
  show (a2.foldl (TreeWalk.along a1) ⟨k, [], []⟩).k.clock = k.clock
  suffices h : ∀ w : TreeWalk, (a2.foldl (TreeWalk.along a1) w).k.clock = w.k.clock from h ⟨k, [], []⟩
  induction a2 with
  | nil => exact fun _ => rfl
  | cons p l ih => exact fun w => (ih _).trans (TreeWalk.along_clock a1 w p)

theorem Pkg.groupMcast_clock (k a1) : (Pkg.groupMcast k a1).clock = k.clock := by
  unfold Pkg.groupMcast
  repeat' (first | with_reducible rfl | (simp only [↓Pkg.deliverLocal_clock, ↓Pkg.walkTree_clock, ↓Core.clock_eta, ↓Core.clock_mk, ↓Clus.clock_mk, ↓Clus.core_clock, ↓Pkg.clock_mk, ↓Pkg.cl_clock, ↓foldl_clock_Core, ↓iter_clock_Core, ↓foldl_clock_Clus, ↓iter_clock_Clus, ↓foldl_clock_Pkg, ↓iter_clock_Pkg, implies_true, apply_ite Pkg.clock, ite_self, apply_ite Prod.fst, apply_ite Prod.snd]; done) | with_reducible refine ite_clock_Pkg ?_ ?_ | with_reducible refine foldl_clock_Pkg' (fun _ _ => ?_) ?_ | with_reducible refine iter_clock_Pkg' (fun _ _ => ?_) ?_ | with_reducible refine foldl2_clock_Pkg' (fun _ _ => ?_) ?_ | with_reducible refine foldl3_clock_Pkg' (fun _ _ => ?_) ?_ | with_reducible refine ite_clock_Clus ?_ ?_ | with_reducible refine foldl_clock_Clus' (fun _ _ => ?_) ?_ | with_reducible refine iter_clock_Clus' (fun _ _ => ?_) ?_ | with_reducible refine foldl2_clock_Clus' (fun _ _ => ?_) ?_ | with_reducible refine foldl3_clock_Clus' (fun _ _ => ?_) ?_ | with_reducible refine ite_clock_Core ?_ ?_ | with_reducible refine foldl_clock_Core' (fun _ _ => ?_) ?_ | with_reducible refine iter_clock_Core' (fun _ _ => ?_) ?_ | with_reducible refine foldl2_clock_Core' (fun _ _ => ?_) ?_ | with_reducible refine foldl3_clock_Core' (fun _ _ => ?_) ?_ | simp only [↓Pkg.deliverLocal_clock, ↓Pkg.walkTree_clock, ↓Core.clock_eta, ↓Core.clock_mk, ↓Clus.clock_mk, ↓Clus.core_clock, ↓Pkg.clock_mk, ↓Pkg.cl_clock] | with_reducible refine of_eq_clock_Pkg ‹_› ?_ | with_reducible refine of_eq1_clock_Pkg ‹_› ?_ | with_reducible refine of_eq_clock_Clus ‹_› ?_ | with_reducible refine of_eq1_clock_Clus ‹_› ?_ | with_reducible refine of_eq_clock_Core ‹_› ?_ | with_reducible refine of_eq1_clock_Core ‹_› ?_ | split | dsimp only)

theorem Pkg.groupSetCmd_clock (k a1 a2 a3 a4 a5 a6) : (Pkg.groupSetCmd k a1 a2 a3 a4 a5 a6).clock = k.clock := by
  unfold Pkg.groupSetCmd
  simp only [↓Clus.core_clock, ↓Pkg.cl_clock, ↓Core.wrs_clock, ↓Pkg.devCmd_clock, ↓Pkg.devEnd_clock, ↓Pkg.devInvalid_clock, ↓Pkg.onCore_clock, ↓Pkg.onFab_clock, implies_true, apply_ite Pkg.clock, ite_self]

theorem Pkg.hbTrain_clock (k a1 a2 a3) : (Pkg.hbTrain k a1 a2 a3).clock = k.clock := by
  unfold Pkg.hbTrain
  simp only [↓Clus.core_clock, ↓Pkg.cl_clock, ↓Core.buEvent_clock, ↓Pkg.onCore_clock, apply_ite Pkg.clock, ite_self]

theorem Pkg.loadThrottled_clock (k) : (Pkg.loadThrottled k).clock = k.clock := by
  unfold Pkg.loadThrottled
  simp only [↓Pkg.clock_mk, ↓Clus.core_clock, ↓Pkg.cl_clock, ↓Core.buEvent_clock, ↓Pkg.onCore_clock, apply_ite Pkg.clock, ite_self]

theorem Pkg.soakEnd_clock (k a1 a2) : (Pkg.soakEnd k a1 a2).clock = k.clock := by
  unfold Pkg.soakEnd
  simp only [↓Clus.core_clock, ↓Pkg.cl_clock, ↓Core.buEvent_clock, ↓Core.setFld_clock, ↓Pkg.onBu_clock, ↓Pkg.onCore_clock, apply_ite Pkg.clock, ite_self]

theorem Pkg.setPc_clock (k a1 a2 a3) : (Pkg.setPc k a1 a2 a3).clock = k.clock := by
  unfold Pkg.setPc
  simp only [↓Clus.core_clock, ↓Pkg.cl_clock, ↓Core.setFld_clock, ↓Core.wr_clock, ↓Pkg.onBu_clock, ↓Pkg.onCore_clock]

theorem Pkg.trainPc_clock (k a1) : (Pkg.trainPc k a1).clock = k.clock := by
  unfold Pkg.trainPc
  simp only [↓Pkg.hbTrain_clock, ↓Pkg.setPc_clock]

theorem Pkg.stepSevenEnd_clock (k) : (Pkg.stepSevenEnd k).clock = k.clock := by
  unfold Pkg.stepSevenEnd
  simp only [↓Clus.core_clock, ↓Pkg.cl_clock, ↓Core.stepEnd_clock, ↓Pkg.giveTags_clock, ↓Pkg.onCore_clock, ↓Pkg.startDetect_clock, ↓foldl_clock_Pkg, implies_true, apply_ite Pkg.clock, ite_self]

theorem Pkg.loadedEnd_clock (k a1 a2) : (Pkg.loadedEnd k a1 a2).clock = k.clock := by
  unfold Pkg.loadedEnd
  simp only [↓Pkg.onBu_clock, ↓Pkg.stepSevenEnd_clock, ↓Pkg.trainPc_clock, ↓foldl_clock_Pkg, implies_true]

theorem Pkg.quickEnd_clock (k a1) : (Pkg.quickEnd k a1).clock = k.clock := by
  unfold Pkg.quickEnd
  repeat' (first | (simp only [↓Clus.core_clock, ↓Pkg.cl_clock, ↓Core.setFld_clock, ↓Pkg.hbTrain_clock, ↓Pkg.onBu_clock, ↓Pkg.onCore_clock, ↓Pkg.setPc_clock, ↓Pkg.stepSevenEnd_clock, apply_ite Pkg.clock, ite_self]; done) | with_reducible refine ite_clock_Pkg ?_ ?_ | with_reducible refine foldl_clock_Pkg' (fun _ _ => ?_) ?_ | with_reducible refine iter_clock_Pkg' (fun _ _ => ?_) ?_ | simp only [↓Clus.core_clock, ↓Pkg.cl_clock, ↓Core.setFld_clock, ↓Pkg.onBu_clock, ↓Pkg.onCore_clock, ↓Pkg.stepSevenEnd_clock] | split | dsimp only)

theorem Pkg.hbmPhase_clock (k a1 a2 a3 a4 a5) : (Pkg.hbmPhase k a1 a2 a3 a4 a5).clock = k.clock := by
  unfold Pkg.hbmPhase
  repeat' (first | (simp only [↓Pkg.loadOn_clock, ↓Pkg.loadThrottled_clock, ↓Pkg.loadedEnd_clock, ↓Pkg.quickEnd_clock, ↓Pkg.soakEnd_clock, apply_ite Pkg.clock, ite_self]; done) | with_reducible refine ite_clock_Pkg ?_ ?_ | split)

theorem Pkg.waveNext_clock (k a1) : (Pkg.waveNext k a1).clock = k.clock := by
  unfold Pkg.waveNext
  repeat' (first | (simp only [↓Clus.core_clock, ↓Pkg.cl_clock, ↓Core.buEvent_clock, ↓Core.setFld_clock, ↓Core.setStep_clock, ↓Core.wr8_clock, ↓Pkg.onCore_clock, ↓Pkg.waveStart_clock, apply_ite Pkg.clock, ite_self]; done) | with_reducible refine ite_clock_Pkg ?_ ?_ | split | dsimp only)

theorem Pkg.quadHeld_clock (k a1) : (Pkg.quadHeld k a1).clock = k.clock := by
  unfold Pkg.quadHeld
  simp only [↓Clus.core_clock, ↓Pkg.cl_clock, ↓Core.buEvent_clock, ↓Core.setFld_clock, ↓Pkg.onCore_clock, ↓Pkg.waveNext_clock]

theorem Pkg.hbmWave_clock (k a1 a2 a3) : (Pkg.hbmWave k a1 a2 a3).clock = k.clock := by
  unfold Pkg.hbmWave
  repeat' (first | with_reducible rfl | (simp only [↓Core.joinPrep_clock, ↓Pkg.quadHeld_clock, ↓Pkg.rehomeAll_clock, ↓Pkg.rehomeNext_clock, ↓Pkg.rehomeNow_clock, ↓Pkg.wantRehome_clock, ↓Pkg.waveNext_clock, ↓Core.clock_eta, ↓Core.clock_mk, ↓Clus.clock_mk, ↓Clus.core_clock, ↓Clus.onCore_clock, ↓Pkg.clock_mk, ↓Pkg.cl_clock, ↓Pkg.onCore_clock, ↓Pkg.onHbm_clock, ↓Pkg.onBu_clock, ↓foldl_clock_Core, ↓iter_clock_Core, ↓foldl_clock_Clus, ↓iter_clock_Clus, ↓foldl_clock_Pkg, ↓iter_clock_Pkg, implies_true, apply_ite Pkg.clock, ite_self]; done) | with_reducible refine ite_clock_Pkg ?_ ?_ | with_reducible refine foldl_clock_Pkg' (fun _ _ => ?_) ?_ | with_reducible refine iter_clock_Pkg' (fun _ _ => ?_) ?_ | with_reducible refine foldl2_clock_Pkg' (fun _ _ => ?_) ?_ | with_reducible refine foldl3_clock_Pkg' (fun _ _ => ?_) ?_ | with_reducible refine ite_clock_Clus ?_ ?_ | with_reducible refine foldl_clock_Clus' (fun _ _ => ?_) ?_ | with_reducible refine iter_clock_Clus' (fun _ _ => ?_) ?_ | with_reducible refine foldl2_clock_Clus' (fun _ _ => ?_) ?_ | with_reducible refine foldl3_clock_Clus' (fun _ _ => ?_) ?_ | with_reducible refine ite_clock_Core ?_ ?_ | with_reducible refine foldl_clock_Core' (fun _ _ => ?_) ?_ | with_reducible refine iter_clock_Core' (fun _ _ => ?_) ?_ | with_reducible refine foldl2_clock_Core' (fun _ _ => ?_) ?_ | with_reducible refine foldl3_clock_Core' (fun _ _ => ?_) ?_ | simp only [↓Core.joinPrep_clock, ↓Pkg.quadHeld_clock, ↓Pkg.rehomeAll_clock, ↓Pkg.rehomeNext_clock, ↓Pkg.rehomeNow_clock, ↓Pkg.wantRehome_clock, ↓Pkg.waveNext_clock, ↓Core.clock_eta, ↓Core.clock_mk, ↓Clus.clock_mk, ↓Clus.core_clock, ↓Clus.onCore_clock, ↓Pkg.clock_mk, ↓Pkg.cl_clock, ↓Pkg.onCore_clock, ↓Pkg.onHbm_clock, ↓Pkg.onBu_clock] | with_reducible refine of_eq_clock_Pkg ‹_› ?_ | with_reducible refine of_eq1_clock_Pkg ‹_› ?_ | with_reducible refine of_eq_clock_Clus ‹_› ?_ | with_reducible refine of_eq1_clock_Clus ‹_› ?_ | with_reducible refine of_eq_clock_Core ‹_› ?_ | with_reducible refine of_eq1_clock_Core ‹_› ?_ | split | dsimp only)

theorem Pkg.hbmZero_clock (k) : (Pkg.hbmZero k).clock = k.clock := by
  unfold Pkg.hbmZero
  simp only [↓Pkg.clock_mk, ↓Clus.core_clock, ↓Pkg.cl_clock, ↓Core.setFld_clock, ↓Pkg.onCore_clock, ↓Pkg.onFw_clock, ↓Pkg.onHbm_clock, ↓iter_clock_Pkg, implies_true, apply_ite Pkg.clock, ite_self]

theorem Pkg.heartbeat_clock (k) : (Pkg.heartbeat k).clock = k.clock := by
  unfold Pkg.heartbeat
  simp only [↓Pkg.cwWr_clock, apply_ite Pkg.clock, ite_self]

theorem Pkg.heartbeatMiss_clock (k a1) : (Pkg.heartbeatMiss k a1).clock = k.clock := by
  unfold Pkg.heartbeatMiss
  simp only [↓Pkg.fwCrash_clock]

theorem Pkg.helloCheck_clock (k a1) : (Pkg.helloCheck k a1).clock = k.clock := by
  unfold Pkg.helloCheck
  simp only [↓Pkg.setPortState_clock, apply_ite Pkg.clock, ite_self]

theorem Pkg.hello_clock (k a1 a2) : (Pkg.hello k a1 a2).clock = k.clock := by
  unfold Pkg.hello
  simp only [↓Clus.core_clock, ↓Pkg.cl_clock, ↓Core.wr_clock, ↓Pkg.announce_clock, ↓Pkg.helloCheck_clock, ↓Pkg.linkEvent_clock, ↓Pkg.losePort_clock, ↓Pkg.onCore_clock, ↓Pkg.onFab_clock, ↓Pkg.sendPeer_clock, apply_ite Pkg.clock, ite_self]

theorem Pkg.helloAcked_clock (k a1) : (Pkg.helloAcked k a1).clock = k.clock := by
  unfold Pkg.helloAcked
  simp only [↓Pkg.announce_clock, ↓Pkg.helloCheck_clock, ↓Pkg.onFab_clock, apply_ite Pkg.clock, ite_self]

theorem Pkg.helloTimeout_clock (k a1) : (Pkg.helloTimeout k a1).clock = k.clock := by
  unfold Pkg.helloTimeout
  simp only [↓Pkg.portDown_clock, apply_ite Pkg.clock, ite_self]

theorem Pkg.helloTimer_clock (k a1) : (Pkg.helloTimer k a1).clock = k.clock := by
  unfold Pkg.helloTimer
  simp only [↓Pkg.sendPeer_clock, apply_ite Pkg.clock, ite_self]

theorem Clus.flushPast_clock (k a1 a2 a3 a4) : (Clus.flushPast k a1 a2 a3 a4).clock = k.clock := by
  unfold Clus.flushPast
  repeat' (first | with_reducible rfl | (simp only [↓Core.setFld_clock, ↓Core.clock_eta, ↓Core.clock_mk, ↓Clus.clock_mk, ↓Clus.core_clock, ↓foldl_clock_Core, ↓iter_clock_Core, ↓foldl_clock_Clus, ↓iter_clock_Clus, implies_true, apply_ite Clus.clock, ite_self]; done) | with_reducible refine ite_clock_Clus ?_ ?_ | with_reducible refine foldl_clock_Clus' (fun _ _ => ?_) ?_ | with_reducible refine iter_clock_Clus' (fun _ _ => ?_) ?_ | with_reducible refine foldl2_clock_Clus' (fun _ _ => ?_) ?_ | with_reducible refine foldl3_clock_Clus' (fun _ _ => ?_) ?_ | with_reducible refine ite_clock_Core ?_ ?_ | with_reducible refine foldl_clock_Core' (fun _ _ => ?_) ?_ | with_reducible refine iter_clock_Core' (fun _ _ => ?_) ?_ | with_reducible refine foldl2_clock_Core' (fun _ _ => ?_) ?_ | with_reducible refine foldl3_clock_Core' (fun _ _ => ?_) ?_ | simp only [↓Core.setFld_clock, ↓Core.clock_eta, ↓Core.clock_mk, ↓Clus.clock_mk, ↓Clus.core_clock] | with_reducible refine of_eq_clock_Clus ‹_› ?_ | with_reducible refine of_eq1_clock_Clus ‹_› ?_ | with_reducible refine of_eq_clock_Core ‹_› ?_ | with_reducible refine of_eq1_clock_Core ‹_› ?_ | split | dsimp only)

theorem Pkg.homeFlush_clock (k a1 a2 a3) : (Pkg.homeFlush k a1 a2 a3).clock = k.clock := by
  unfold Pkg.homeFlush
  repeat' (first | with_reducible rfl | (simp only [↓Clus.flushPast_clock, ↓Clus.stTouch_clock, ↓Pkg.homeRecord_clock, ↓Pkg.homeWrite_clock, ↓Core.clock_eta, ↓Core.clock_mk, ↓Clus.clock_mk, ↓Clus.core_clock, ↓Pkg.clock_mk, ↓Pkg.cl_clock, ↓Pkg.onClus_clock, ↓foldl_clock_Core, ↓iter_clock_Core, ↓foldl_clock_Clus, ↓iter_clock_Clus, ↓foldl_clock_Pkg, ↓iter_clock_Pkg, implies_true, apply_ite Pkg.clock, ite_self]; done) | with_reducible refine ite_clock_Pkg ?_ ?_ | with_reducible refine foldl_clock_Pkg' (fun _ _ => ?_) ?_ | with_reducible refine iter_clock_Pkg' (fun _ _ => ?_) ?_ | with_reducible refine foldl2_clock_Pkg' (fun _ _ => ?_) ?_ | with_reducible refine foldl3_clock_Pkg' (fun _ _ => ?_) ?_ | with_reducible refine ite_clock_Clus ?_ ?_ | with_reducible refine foldl_clock_Clus' (fun _ _ => ?_) ?_ | with_reducible refine iter_clock_Clus' (fun _ _ => ?_) ?_ | with_reducible refine foldl2_clock_Clus' (fun _ _ => ?_) ?_ | with_reducible refine foldl3_clock_Clus' (fun _ _ => ?_) ?_ | with_reducible refine ite_clock_Core ?_ ?_ | with_reducible refine foldl_clock_Core' (fun _ _ => ?_) ?_ | with_reducible refine iter_clock_Core' (fun _ _ => ?_) ?_ | with_reducible refine foldl2_clock_Core' (fun _ _ => ?_) ?_ | with_reducible refine foldl3_clock_Core' (fun _ _ => ?_) ?_ | simp only [↓Clus.flushPast_clock, ↓Clus.stTouch_clock, ↓Pkg.homeRecord_clock, ↓Pkg.homeWrite_clock, ↓Core.clock_eta, ↓Core.clock_mk, ↓Clus.clock_mk, ↓Clus.core_clock, ↓Pkg.clock_mk, ↓Pkg.cl_clock, ↓Pkg.onClus_clock] | with_reducible refine of_eq_clock_Pkg ‹_› ?_ | with_reducible refine of_eq1_clock_Pkg ‹_› ?_ | with_reducible refine of_eq_clock_Clus ‹_› ?_ | with_reducible refine of_eq1_clock_Clus ‹_› ?_ | with_reducible refine of_eq_clock_Core ‹_› ?_ | with_reducible refine of_eq1_clock_Core ‹_› ?_ | split | dsimp only)

theorem Pkg.hostCompletion_clock (k a1) : (Pkg.hostCompletion k a1).clock = k.clock := by
  unfold Pkg.hostCompletion
  simp only [↓Clus.core_clock, ↓Pkg.cl_clock, ↓Core.record_clock, ↓Pkg.complete_clock, ↓Pkg.jobFault_clock, ↓Pkg.onAtt_clock, ↓Pkg.onCore_clock, apply_ite Pkg.clock, ite_self]

theorem Pkg.salErr_clock (k a1 a2) : (Pkg.salErr k a1 a2).clock = k.clock := by
  unfold Pkg.salErr
  simp only [↓Clus.core_clock, ↓Pkg.cl_clock, ↓Core.record_clock, ↓Pkg.onCore_clock, ↓Pkg.salSend_clock, apply_ite Pkg.clock, ite_self]

theorem Pkg.setDir_clock (k a1 a2) : (Pkg.setDir k a1 a2).clock = k.clock := by
  unfold Pkg.setDir
  simp only [↓Pkg.onAtt_clock]

theorem Pkg.lineWait_clock (k a1) : (Pkg.lineWait k a1).clock = k.clock := by
  unfold Pkg.lineWait
  repeat' (first | with_reducible rfl | (simp only [↓Core.clock_eta, ↓Core.clock_mk, ↓Clus.clock_mk, ↓Clus.core_clock, ↓Pkg.clock_mk, ↓Pkg.cl_clock, ↓Pkg.onAtt_clock, ↓foldl_clock_Core, ↓iter_clock_Core, ↓foldl_clock_Clus, ↓iter_clock_Clus, ↓foldl_clock_Pkg, ↓iter_clock_Pkg, implies_true, apply_ite Pkg.clock, ite_self]; done) | with_reducible refine ite_clock_Pkg ?_ ?_ | with_reducible refine foldl_clock_Pkg' (fun _ _ => ?_) ?_ | with_reducible refine iter_clock_Pkg' (fun _ _ => ?_) ?_ | with_reducible refine foldl2_clock_Pkg' (fun _ _ => ?_) ?_ | with_reducible refine foldl3_clock_Pkg' (fun _ _ => ?_) ?_ | with_reducible refine ite_clock_Clus ?_ ?_ | with_reducible refine foldl_clock_Clus' (fun _ _ => ?_) ?_ | with_reducible refine iter_clock_Clus' (fun _ _ => ?_) ?_ | with_reducible refine foldl2_clock_Clus' (fun _ _ => ?_) ?_ | with_reducible refine foldl3_clock_Clus' (fun _ _ => ?_) ?_ | with_reducible refine ite_clock_Core ?_ ?_ | with_reducible refine foldl_clock_Core' (fun _ _ => ?_) ?_ | with_reducible refine iter_clock_Core' (fun _ _ => ?_) ?_ | with_reducible refine foldl2_clock_Core' (fun _ _ => ?_) ?_ | with_reducible refine foldl3_clock_Core' (fun _ _ => ?_) ?_ | simp only [↓Core.clock_eta, ↓Core.clock_mk, ↓Clus.clock_mk, ↓Clus.core_clock, ↓Pkg.clock_mk, ↓Pkg.cl_clock, ↓Pkg.onAtt_clock] | with_reducible refine of_eq_clock_Pkg ‹_› ?_ | with_reducible refine of_eq1_clock_Pkg ‹_› ?_ | with_reducible refine of_eq_clock_Clus ‹_› ?_ | with_reducible refine of_eq1_clock_Clus ‹_› ?_ | with_reducible refine of_eq_clock_Core ‹_› ?_ | with_reducible refine of_eq1_clock_Core ‹_› ?_ | split | dsimp only)

theorem Pkg.hostEvict_clock (k a1) : (Pkg.hostEvict k a1).clock = k.clock := by
  unfold Pkg.hostEvict
  repeat' (first | with_reducible rfl | (simp only [↓Pkg.lineWait_clock, ↓Pkg.salErr_clock, ↓Pkg.salSend_clock, ↓Pkg.setDir_clock, ↓Core.clock_eta, ↓Core.clock_mk, ↓Clus.clock_mk, ↓Clus.core_clock, ↓Pkg.clock_mk, ↓Pkg.cl_clock, ↓foldl_clock_Core, ↓iter_clock_Core, ↓foldl_clock_Clus, ↓iter_clock_Clus, ↓foldl_clock_Pkg, ↓iter_clock_Pkg, implies_true, apply_ite Pkg.clock, ite_self]; done) | with_reducible refine ite_clock_Pkg ?_ ?_ | with_reducible refine foldl_clock_Pkg' (fun _ _ => ?_) ?_ | with_reducible refine iter_clock_Pkg' (fun _ _ => ?_) ?_ | with_reducible refine foldl2_clock_Pkg' (fun _ _ => ?_) ?_ | with_reducible refine foldl3_clock_Pkg' (fun _ _ => ?_) ?_ | with_reducible refine ite_clock_Clus ?_ ?_ | with_reducible refine foldl_clock_Clus' (fun _ _ => ?_) ?_ | with_reducible refine iter_clock_Clus' (fun _ _ => ?_) ?_ | with_reducible refine foldl2_clock_Clus' (fun _ _ => ?_) ?_ | with_reducible refine foldl3_clock_Clus' (fun _ _ => ?_) ?_ | with_reducible refine ite_clock_Core ?_ ?_ | with_reducible refine foldl_clock_Core' (fun _ _ => ?_) ?_ | with_reducible refine iter_clock_Core' (fun _ _ => ?_) ?_ | with_reducible refine foldl2_clock_Core' (fun _ _ => ?_) ?_ | with_reducible refine foldl3_clock_Core' (fun _ _ => ?_) ?_ | simp only [↓Pkg.lineWait_clock, ↓Pkg.salErr_clock, ↓Pkg.salSend_clock, ↓Pkg.setDir_clock, ↓Core.clock_eta, ↓Core.clock_mk, ↓Clus.clock_mk, ↓Clus.core_clock, ↓Pkg.clock_mk, ↓Pkg.cl_clock] | with_reducible refine of_eq_clock_Pkg ‹_› ?_ | with_reducible refine of_eq1_clock_Pkg ‹_› ?_ | with_reducible refine of_eq_clock_Clus ‹_› ?_ | with_reducible refine of_eq1_clock_Clus ‹_› ?_ | with_reducible refine of_eq_clock_Core ‹_› ?_ | with_reducible refine of_eq1_clock_Core ‹_› ?_ | split | dsimp only)

theorem Pkg.hostRdUncached_clock (k a1) : (Pkg.hostRdUncached k a1).clock = k.clock := by
  unfold Pkg.hostRdUncached
  repeat' (first | with_reducible rfl | (simp only [↓Pkg.cwRead_clock, ↓Pkg.dpaRead_clock, ↓Pkg.lineWait_clock, ↓Pkg.salErr_clock, ↓Pkg.salSend_clock, ↓Core.clock_eta, ↓Core.clock_mk, ↓Clus.clock_mk, ↓Clus.core_clock, ↓Pkg.clock_mk, ↓Pkg.cl_clock, ↓foldl_clock_Core, ↓iter_clock_Core, ↓foldl_clock_Clus, ↓iter_clock_Clus, ↓foldl_clock_Pkg, ↓iter_clock_Pkg, implies_true, apply_ite Pkg.clock, ite_self, apply_ite Prod.fst, apply_ite Prod.snd]; done) | with_reducible refine ite_clock_Pkg ?_ ?_ | with_reducible refine foldl_clock_Pkg' (fun _ _ => ?_) ?_ | with_reducible refine iter_clock_Pkg' (fun _ _ => ?_) ?_ | with_reducible refine foldl2_clock_Pkg' (fun _ _ => ?_) ?_ | with_reducible refine foldl3_clock_Pkg' (fun _ _ => ?_) ?_ | with_reducible refine ite_clock_Clus ?_ ?_ | with_reducible refine foldl_clock_Clus' (fun _ _ => ?_) ?_ | with_reducible refine iter_clock_Clus' (fun _ _ => ?_) ?_ | with_reducible refine foldl2_clock_Clus' (fun _ _ => ?_) ?_ | with_reducible refine foldl3_clock_Clus' (fun _ _ => ?_) ?_ | with_reducible refine ite_clock_Core ?_ ?_ | with_reducible refine foldl_clock_Core' (fun _ _ => ?_) ?_ | with_reducible refine iter_clock_Core' (fun _ _ => ?_) ?_ | with_reducible refine foldl2_clock_Core' (fun _ _ => ?_) ?_ | with_reducible refine foldl3_clock_Core' (fun _ _ => ?_) ?_ | simp only [↓Pkg.cwRead_clock, ↓Pkg.dpaRead_clock, ↓Pkg.lineWait_clock, ↓Pkg.salErr_clock, ↓Pkg.salSend_clock, ↓Core.clock_eta, ↓Core.clock_mk, ↓Clus.clock_mk, ↓Clus.core_clock, ↓Pkg.clock_mk, ↓Pkg.cl_clock] | with_reducible refine of_eq_clock_Pkg ‹_› ?_ | with_reducible refine of_eq1_clock_Pkg ‹_› ?_ | with_reducible refine of_eq_clock_Clus ‹_› ?_ | with_reducible refine of_eq1_clock_Clus ‹_› ?_ | with_reducible refine of_eq_clock_Core ‹_› ?_ | with_reducible refine of_eq1_clock_Core ‹_› ?_ | split | dsimp only)

theorem Pkg.snoop_clock (k a1 a2 a3) : (Pkg.snoop k a1 a2 a3).clock = k.clock := by
  unfold Pkg.snoop
  simp only [↓Pkg.newTxn_clock, ↓Pkg.onAtt_clock, ↓Pkg.salSend_clock]

theorem Pkg.hostRead_clock (k a1 a2) : (Pkg.hostRead k a1 a2).clock = k.clock := by
  unfold Pkg.hostRead
  repeat' (first | with_reducible rfl | (simp only [↓Pkg.dpaRead_clock, ↓Pkg.lineWait_clock, ↓Pkg.salErr_clock, ↓Pkg.salSend_clock, ↓Pkg.setDir_clock, ↓Pkg.snoop_clock, ↓Core.clock_eta, ↓Core.clock_mk, ↓Clus.clock_mk, ↓Clus.core_clock, ↓Pkg.clock_mk, ↓Pkg.cl_clock, ↓foldl_clock_Core, ↓iter_clock_Core, ↓foldl_clock_Clus, ↓iter_clock_Clus, ↓foldl_clock_Pkg, ↓iter_clock_Pkg, implies_true, apply_ite Pkg.clock, ite_self, apply_ite Prod.fst, apply_ite Prod.snd]; done) | with_reducible refine ite_clock_Pkg ?_ ?_ | with_reducible refine foldl_clock_Pkg' (fun _ _ => ?_) ?_ | with_reducible refine iter_clock_Pkg' (fun _ _ => ?_) ?_ | with_reducible refine foldl2_clock_Pkg' (fun _ _ => ?_) ?_ | with_reducible refine foldl3_clock_Pkg' (fun _ _ => ?_) ?_ | with_reducible refine ite_clock_Clus ?_ ?_ | with_reducible refine foldl_clock_Clus' (fun _ _ => ?_) ?_ | with_reducible refine iter_clock_Clus' (fun _ _ => ?_) ?_ | with_reducible refine foldl2_clock_Clus' (fun _ _ => ?_) ?_ | with_reducible refine foldl3_clock_Clus' (fun _ _ => ?_) ?_ | with_reducible refine ite_clock_Core ?_ ?_ | with_reducible refine foldl_clock_Core' (fun _ _ => ?_) ?_ | with_reducible refine iter_clock_Core' (fun _ _ => ?_) ?_ | with_reducible refine foldl2_clock_Core' (fun _ _ => ?_) ?_ | with_reducible refine foldl3_clock_Core' (fun _ _ => ?_) ?_ | simp only [↓Pkg.dpaRead_clock, ↓Pkg.lineWait_clock, ↓Pkg.salErr_clock, ↓Pkg.salSend_clock, ↓Pkg.setDir_clock, ↓Pkg.snoop_clock, ↓Core.clock_eta, ↓Core.clock_mk, ↓Clus.clock_mk, ↓Clus.core_clock, ↓Pkg.clock_mk, ↓Pkg.cl_clock] | with_reducible refine of_eq_clock_Pkg ‹_› ?_ | with_reducible refine of_eq1_clock_Pkg ‹_› ?_ | with_reducible refine of_eq_clock_Clus ‹_› ?_ | with_reducible refine of_eq1_clock_Clus ‹_› ?_ | with_reducible refine of_eq_clock_Core ‹_› ?_ | with_reducible refine of_eq1_clock_Core ‹_› ?_ | split | dsimp only)

theorem Pkg.hostWb_clock (k a1) : (Pkg.hostWb k a1).clock = k.clock := by
  unfold Pkg.hostWb
  repeat' (first | with_reducible rfl | (simp only [↓Pkg.dpaWrite_clock, ↓Pkg.lineWait_clock, ↓Pkg.salErr_clock, ↓Pkg.salSend_clock, ↓Pkg.setDir_clock, ↓Core.clock_eta, ↓Core.clock_mk, ↓Clus.clock_mk, ↓Clus.core_clock, ↓Pkg.clock_mk, ↓Pkg.cl_clock, ↓foldl_clock_Core, ↓iter_clock_Core, ↓foldl_clock_Clus, ↓iter_clock_Clus, ↓foldl_clock_Pkg, ↓iter_clock_Pkg, implies_true, apply_ite Pkg.clock, ite_self]; done) | with_reducible refine ite_clock_Pkg ?_ ?_ | with_reducible refine foldl_clock_Pkg' (fun _ _ => ?_) ?_ | with_reducible refine iter_clock_Pkg' (fun _ _ => ?_) ?_ | with_reducible refine foldl2_clock_Pkg' (fun _ _ => ?_) ?_ | with_reducible refine foldl3_clock_Pkg' (fun _ _ => ?_) ?_ | with_reducible refine ite_clock_Clus ?_ ?_ | with_reducible refine foldl_clock_Clus' (fun _ _ => ?_) ?_ | with_reducible refine iter_clock_Clus' (fun _ _ => ?_) ?_ | with_reducible refine foldl2_clock_Clus' (fun _ _ => ?_) ?_ | with_reducible refine foldl3_clock_Clus' (fun _ _ => ?_) ?_ | with_reducible refine ite_clock_Core ?_ ?_ | with_reducible refine foldl_clock_Core' (fun _ _ => ?_) ?_ | with_reducible refine iter_clock_Core' (fun _ _ => ?_) ?_ | with_reducible refine foldl2_clock_Core' (fun _ _ => ?_) ?_ | with_reducible refine foldl3_clock_Core' (fun _ _ => ?_) ?_ | simp only [↓Pkg.dpaWrite_clock, ↓Pkg.lineWait_clock, ↓Pkg.salErr_clock, ↓Pkg.salSend_clock, ↓Pkg.setDir_clock, ↓Core.clock_eta, ↓Core.clock_mk, ↓Clus.clock_mk, ↓Clus.core_clock, ↓Pkg.clock_mk, ↓Pkg.cl_clock] | with_reducible refine of_eq_clock_Pkg ‹_› ?_ | with_reducible refine of_eq1_clock_Pkg ‹_› ?_ | with_reducible refine of_eq_clock_Clus ‹_› ?_ | with_reducible refine of_eq1_clock_Clus ‹_› ?_ | with_reducible refine of_eq_clock_Core ‹_› ?_ | with_reducible refine of_eq1_clock_Core ‹_› ?_ | split | dsimp only)

theorem Pkg.hostWrMem_clock (k a1) : (Pkg.hostWrMem k a1).clock = k.clock := by
  unfold Pkg.hostWrMem
  repeat' (first | with_reducible rfl | (simp only [↓Pkg.dpaWrite_clock, ↓Pkg.lineWait_clock, ↓Pkg.salErr_clock, ↓Pkg.salSend_clock, ↓Core.clock_eta, ↓Core.clock_mk, ↓Clus.clock_mk, ↓Clus.core_clock, ↓Pkg.clock_mk, ↓Pkg.cl_clock, ↓foldl_clock_Core, ↓iter_clock_Core, ↓foldl_clock_Clus, ↓iter_clock_Clus, ↓foldl_clock_Pkg, ↓iter_clock_Pkg, implies_true, apply_ite Pkg.clock, ite_self]; done) | with_reducible refine ite_clock_Pkg ?_ ?_ | with_reducible refine foldl_clock_Pkg' (fun _ _ => ?_) ?_ | with_reducible refine iter_clock_Pkg' (fun _ _ => ?_) ?_ | with_reducible refine foldl2_clock_Pkg' (fun _ _ => ?_) ?_ | with_reducible refine foldl3_clock_Pkg' (fun _ _ => ?_) ?_ | with_reducible refine ite_clock_Clus ?_ ?_ | with_reducible refine foldl_clock_Clus' (fun _ _ => ?_) ?_ | with_reducible refine iter_clock_Clus' (fun _ _ => ?_) ?_ | with_reducible refine foldl2_clock_Clus' (fun _ _ => ?_) ?_ | with_reducible refine foldl3_clock_Clus' (fun _ _ => ?_) ?_ | with_reducible refine ite_clock_Core ?_ ?_ | with_reducible refine foldl_clock_Core' (fun _ _ => ?_) ?_ | with_reducible refine iter_clock_Core' (fun _ _ => ?_) ?_ | with_reducible refine foldl2_clock_Core' (fun _ _ => ?_) ?_ | with_reducible refine foldl3_clock_Core' (fun _ _ => ?_) ?_ | simp only [↓Pkg.dpaWrite_clock, ↓Pkg.lineWait_clock, ↓Pkg.salErr_clock, ↓Pkg.salSend_clock, ↓Core.clock_eta, ↓Core.clock_mk, ↓Clus.clock_mk, ↓Clus.core_clock, ↓Pkg.clock_mk, ↓Pkg.cl_clock] | with_reducible refine of_eq_clock_Pkg ‹_› ?_ | with_reducible refine of_eq1_clock_Pkg ‹_› ?_ | with_reducible refine of_eq_clock_Clus ‹_› ?_ | with_reducible refine of_eq1_clock_Clus ‹_› ?_ | with_reducible refine of_eq_clock_Core ‹_› ?_ | with_reducible refine of_eq1_clock_Core ‹_› ?_ | split | dsimp only)

theorem Pkg.hostWr_clock (k a1) : (Pkg.hostWr k a1).clock = k.clock := by
  unfold Pkg.hostWr
  repeat' (first | (simp only [↓Pkg.cwWrite_clock, ↓Pkg.hostWrMem_clock, ↓Pkg.salErr_clock, ↓Pkg.salSend_clock, apply_ite Pkg.clock, ite_self]; done) | with_reducible refine ite_clock_Pkg ?_ ?_ | split | dsimp only)

theorem Pkg.hostXfer_clock (k a1) : (Pkg.hostXfer k a1).clock = k.clock := by
  unfold Pkg.hostXfer
  repeat' (first | (simp only [↓Pkg.atRequest_clock, ↓Pkg.onAtt_clock, ↓Pkg.xferTry_clock, apply_ite Pkg.clock]; done) | with_reducible refine ite_clock_Pkg ?_ ?_ | with_reducible refine foldl_clock_Pkg' (fun _ _ => ?_) ?_ | with_reducible refine iter_clock_Pkg' (fun _ _ => ?_) ?_ | with_reducible refine foldl2_clock_Pkg' (fun _ _ => ?_) ?_ | with_reducible refine foldl3_clock_Pkg' (fun _ _ => ?_) ?_ | simp only [↓Pkg.xferTry_clock] | with_reducible refine of_eq_clock_Pkg ‹_› ?_ | split | dsimp only)

theorem Pkg.laneRejoin_clock (k a1 a2) : (Pkg.laneRejoin k a1 a2).clock = k.clock := by
  unfold Pkg.laneRejoin
  simp only [↓Pkg.linkEvent_clock, ↓Pkg.setLink_clock, ↓Pkg.showLanes_clock, apply_ite Pkg.clock, ite_self]

theorem Pkg.lcArrive_clock (k a1) : (Pkg.lcArrive k a1).clock = k.clock := by
  unfold Pkg.lcArrive
  simp only [↓Clus.core_clock, ↓Pkg.cl_clock, ↓Clus.onCore_clock, ↓Core.setFld_clock, ↓Core.setTb_clock, ↓Pkg.onClus_clock, apply_ite Pkg.clock, apply_ite Core.clock, ite_self]

theorem Pkg.lcHold_clock (k) : (Pkg.lcHold k).clock = k.clock := by
  unfold Pkg.lcHold
  simp only [↓Pkg.onNet_clock, apply_ite Pkg.clock, ite_self]

theorem Pkg.debugWrite_clock (k a1 a2 a3 a4) : (Pkg.debugWrite k a1 a2 a3 a4).clock = k.clock := by
  unfold Pkg.debugWrite
  repeat' (first | with_reducible rfl | (simp only [↓Core.wr_clock, ↓Pkg.regWrite_clock, ↓Core.clock_eta, ↓Core.clock_mk, ↓Clus.clock_mk, ↓Clus.core_clock, ↓Clus.onCore_clock, ↓Pkg.clock_mk, ↓Pkg.cl_clock, ↓Pkg.onCore_clock, ↓foldl_clock_Core, ↓iter_clock_Core, ↓foldl_clock_Clus, ↓iter_clock_Clus, ↓foldl_clock_Pkg, ↓iter_clock_Pkg, implies_true, apply_ite Pkg.clock, ite_self]; done) | with_reducible refine ite_clock_Pkg ?_ ?_ | with_reducible refine foldl_clock_Pkg' (fun _ _ => ?_) ?_ | with_reducible refine iter_clock_Pkg' (fun _ _ => ?_) ?_ | with_reducible refine foldl2_clock_Pkg' (fun _ _ => ?_) ?_ | with_reducible refine foldl3_clock_Pkg' (fun _ _ => ?_) ?_ | with_reducible refine ite_clock_Clus ?_ ?_ | with_reducible refine foldl_clock_Clus' (fun _ _ => ?_) ?_ | with_reducible refine iter_clock_Clus' (fun _ _ => ?_) ?_ | with_reducible refine foldl2_clock_Clus' (fun _ _ => ?_) ?_ | with_reducible refine foldl3_clock_Clus' (fun _ _ => ?_) ?_ | with_reducible refine ite_clock_Core ?_ ?_ | with_reducible refine foldl_clock_Core' (fun _ _ => ?_) ?_ | with_reducible refine iter_clock_Core' (fun _ _ => ?_) ?_ | with_reducible refine foldl2_clock_Core' (fun _ _ => ?_) ?_ | with_reducible refine foldl3_clock_Core' (fun _ _ => ?_) ?_ | simp only [↓Core.wr_clock, ↓Pkg.regWrite_clock, ↓Core.clock_eta, ↓Core.clock_mk, ↓Clus.clock_mk, ↓Clus.core_clock, ↓Clus.onCore_clock, ↓Pkg.clock_mk, ↓Pkg.cl_clock, ↓Pkg.onCore_clock] | with_reducible refine of_eq_clock_Pkg ‹_› ?_ | with_reducible refine of_eq1_clock_Pkg ‹_› ?_ | with_reducible refine of_eq_clock_Clus ‹_› ?_ | with_reducible refine of_eq1_clock_Clus ‹_› ?_ | with_reducible refine of_eq_clock_Core ‹_› ?_ | with_reducible refine of_eq1_clock_Core ‹_› ?_ | split | dsimp only)

theorem Pkg.levelAct_clock (k a1) : (Pkg.levelAct k a1).clock = k.clock := by
  unfold Pkg.levelAct
  repeat' (first | with_reducible rfl | (simp only [↓Core.draw_clock, ↓Pkg.debugRead_clock, ↓Pkg.debugWrite_clock, ↓Core.clock_eta, ↓Core.clock_mk, ↓Clus.clock_mk, ↓Clus.core_clock, ↓Clus.onCore_clock, ↓Pkg.clock_mk, ↓Pkg.cl_clock, ↓Pkg.onCore_clock, ↓Pkg.onBu_clock, ↓Pkg.onSec_clock, ↓foldl_clock_Core, ↓iter_clock_Core, ↓foldl_clock_Clus, ↓iter_clock_Clus, ↓foldl_clock_Pkg, ↓iter_clock_Pkg, implies_true, apply_ite Pkg.clock, ite_self, apply_ite Prod.fst, apply_ite Prod.snd]; done) | with_reducible refine ite_clock_Pkg ?_ ?_ | with_reducible refine foldl_clock_Pkg' (fun _ _ => ?_) ?_ | with_reducible refine iter_clock_Pkg' (fun _ _ => ?_) ?_ | with_reducible refine foldl2_clock_Pkg' (fun _ _ => ?_) ?_ | with_reducible refine foldl3_clock_Pkg' (fun _ _ => ?_) ?_ | with_reducible refine ite_clock_Clus ?_ ?_ | with_reducible refine foldl_clock_Clus' (fun _ _ => ?_) ?_ | with_reducible refine iter_clock_Clus' (fun _ _ => ?_) ?_ | with_reducible refine foldl2_clock_Clus' (fun _ _ => ?_) ?_ | with_reducible refine foldl3_clock_Clus' (fun _ _ => ?_) ?_ | with_reducible refine ite_clock_Core ?_ ?_ | with_reducible refine foldl_clock_Core' (fun _ _ => ?_) ?_ | with_reducible refine iter_clock_Core' (fun _ _ => ?_) ?_ | with_reducible refine foldl2_clock_Core' (fun _ _ => ?_) ?_ | with_reducible refine foldl3_clock_Core' (fun _ _ => ?_) ?_ | simp only [↓Core.draw_clock, ↓Pkg.debugRead_clock, ↓Pkg.debugWrite_clock, ↓Core.clock_eta, ↓Core.clock_mk, ↓Clus.clock_mk, ↓Clus.core_clock, ↓Clus.onCore_clock, ↓Pkg.clock_mk, ↓Pkg.cl_clock, ↓Pkg.onCore_clock, ↓Pkg.onBu_clock, ↓Pkg.onSec_clock] | with_reducible refine of_eq_clock_Pkg ‹_› ?_ | with_reducible refine of_eq1_clock_Pkg ‹_› ?_ | with_reducible refine of_eq_clock_Clus ‹_› ?_ | with_reducible refine of_eq1_clock_Clus ‹_› ?_ | with_reducible refine of_eq_clock_Core ‹_› ?_ | with_reducible refine of_eq1_clock_Core ‹_› ?_ | split | dsimp only)

theorem Pkg.levelInstr_clock (k a1) : (Pkg.levelInstr k a1).clock = k.clock := by
  unfold Pkg.levelInstr
  repeat' (first | (simp only [↓Pkg.levelAct_clock, ↓Pkg.secDenied_clock, apply_ite Pkg.clock]; done) | with_reducible refine ite_clock_Pkg ?_ ?_ | with_reducible refine foldl_clock_Pkg' (fun _ _ => ?_) ?_ | with_reducible refine iter_clock_Pkg' (fun _ _ => ?_) ?_ | with_reducible refine foldl2_clock_Pkg' (fun _ _ => ?_) ?_ | with_reducible refine foldl3_clock_Pkg' (fun _ _ => ?_) ?_ | with_reducible refine ite_clock_Clus ?_ ?_ | with_reducible refine foldl_clock_Clus' (fun _ _ => ?_) ?_ | with_reducible refine iter_clock_Clus' (fun _ _ => ?_) ?_ | with_reducible refine foldl2_clock_Clus' (fun _ _ => ?_) ?_ | with_reducible refine foldl3_clock_Clus' (fun _ _ => ?_) ?_ | with_reducible refine ite_clock_Core ?_ ?_ | with_reducible refine foldl_clock_Core' (fun _ _ => ?_) ?_ | with_reducible refine iter_clock_Core' (fun _ _ => ?_) ?_ | with_reducible refine foldl2_clock_Core' (fun _ _ => ?_) ?_ | with_reducible refine foldl3_clock_Core' (fun _ _ => ?_) ?_ | simp only [↓Pkg.levelAct_clock] | with_reducible refine of_eq_clock_Pkg ‹_› ?_ | with_reducible refine of_eq1_clock_Pkg ‹_› ?_ | with_reducible refine of_eq_clock_Clus ‹_› ?_ | with_reducible refine of_eq1_clock_Clus ‹_› ?_ | with_reducible refine of_eq_clock_Core ‹_› ?_ | with_reducible refine of_eq1_clock_Core ‹_› ?_ | exact Pkg.jtag_clock _ _ _ _ (fun _ => rfl) | split | dsimp only)

theorem Pkg.lineData_clock (k a1) : (Pkg.lineData k a1).clock = k.clock := by
  unfold Pkg.lineData
  repeat' (first | (simp only [↓Pkg.cachePut_clock, ↓Pkg.reqDone_clock]; done) | with_reducible refine ite_clock_Pkg ?_ ?_ | split)

theorem Pkg.readAt_clock (k a1) : (Pkg.readAt k a1).clock = k.clock := by
  unfold Pkg.readAt
  repeat' (first | with_reducible rfl | (simp only [↓Pkg.dpaRead_clock, ↓Pkg.inject_clock, ↓Pkg.lineRead_clock, ↓Pkg.setWhy_clock, ↓Core.clock_eta, ↓Core.clock_mk, ↓Clus.clock_mk, ↓Clus.core_clock, ↓Pkg.clock_mk, ↓Pkg.cl_clock, ↓foldl_clock_Core, ↓iter_clock_Core, ↓foldl_clock_Clus, ↓iter_clock_Clus, ↓foldl_clock_Pkg, ↓iter_clock_Pkg, implies_true, apply_ite Pkg.clock, ite_self, apply_ite Prod.fst, apply_ite Prod.snd]; done) | with_reducible refine ite_clock_Pkg ?_ ?_ | with_reducible refine foldl_clock_Pkg' (fun _ _ => ?_) ?_ | with_reducible refine iter_clock_Pkg' (fun _ _ => ?_) ?_ | with_reducible refine foldl2_clock_Pkg' (fun _ _ => ?_) ?_ | with_reducible refine foldl3_clock_Pkg' (fun _ _ => ?_) ?_ | with_reducible refine ite_clock_Clus ?_ ?_ | with_reducible refine foldl_clock_Clus' (fun _ _ => ?_) ?_ | with_reducible refine iter_clock_Clus' (fun _ _ => ?_) ?_ | with_reducible refine foldl2_clock_Clus' (fun _ _ => ?_) ?_ | with_reducible refine foldl3_clock_Clus' (fun _ _ => ?_) ?_ | with_reducible refine ite_clock_Core ?_ ?_ | with_reducible refine foldl_clock_Core' (fun _ _ => ?_) ?_ | with_reducible refine iter_clock_Core' (fun _ _ => ?_) ?_ | with_reducible refine foldl2_clock_Core' (fun _ _ => ?_) ?_ | with_reducible refine foldl3_clock_Core' (fun _ _ => ?_) ?_ | simp only [↓Pkg.dpaRead_clock, ↓Pkg.inject_clock, ↓Pkg.lineRead_clock, ↓Pkg.setWhy_clock, ↓Core.clock_eta, ↓Core.clock_mk, ↓Clus.clock_mk, ↓Clus.core_clock, ↓Pkg.clock_mk, ↓Pkg.cl_clock] | with_reducible refine of_eq_clock_Pkg ‹_› ?_ | with_reducible refine of_eq1_clock_Pkg ‹_› ?_ | with_reducible refine of_eq_clock_Clus ‹_› ?_ | with_reducible refine of_eq1_clock_Clus ‹_› ?_ | with_reducible refine of_eq_clock_Core ‹_› ?_ | with_reducible refine of_eq1_clock_Core ‹_› ?_ | split | dsimp only)

theorem Pkg.readPacket_clock (k a1) : (Pkg.readPacket k a1).clock = k.clock := by
  unfold Pkg.readPacket
  repeat' (first | with_reducible rfl | (simp only [↓Pkg.hostXfer_clock, ↓Pkg.lineWait_clock, ↓Pkg.readAt_clock, ↓Pkg.snoop_clock, ↓Core.clock_eta, ↓Core.clock_mk, ↓Clus.clock_mk, ↓Clus.core_clock, ↓Pkg.clock_mk, ↓Pkg.cl_clock, ↓foldl_clock_Core, ↓iter_clock_Core, ↓foldl_clock_Clus, ↓iter_clock_Clus, ↓foldl_clock_Pkg, ↓iter_clock_Pkg, implies_true, apply_ite Pkg.clock, ite_self]; done) | with_reducible refine ite_clock_Pkg ?_ ?_ | with_reducible refine foldl_clock_Pkg' (fun _ _ => ?_) ?_ | with_reducible refine iter_clock_Pkg' (fun _ _ => ?_) ?_ | with_reducible refine foldl2_clock_Pkg' (fun _ _ => ?_) ?_ | with_reducible refine foldl3_clock_Pkg' (fun _ _ => ?_) ?_ | with_reducible refine ite_clock_Clus ?_ ?_ | with_reducible refine foldl_clock_Clus' (fun _ _ => ?_) ?_ | with_reducible refine iter_clock_Clus' (fun _ _ => ?_) ?_ | with_reducible refine foldl2_clock_Clus' (fun _ _ => ?_) ?_ | with_reducible refine foldl3_clock_Clus' (fun _ _ => ?_) ?_ | with_reducible refine ite_clock_Core ?_ ?_ | with_reducible refine foldl_clock_Core' (fun _ _ => ?_) ?_ | with_reducible refine iter_clock_Core' (fun _ _ => ?_) ?_ | with_reducible refine foldl2_clock_Core' (fun _ _ => ?_) ?_ | with_reducible refine foldl3_clock_Core' (fun _ _ => ?_) ?_ | simp only [↓Pkg.hostXfer_clock, ↓Pkg.lineWait_clock, ↓Pkg.readAt_clock, ↓Pkg.snoop_clock, ↓Core.clock_eta, ↓Core.clock_mk, ↓Clus.clock_mk, ↓Clus.core_clock, ↓Pkg.clock_mk, ↓Pkg.cl_clock] | with_reducible refine of_eq_clock_Pkg ‹_› ?_ | with_reducible refine of_eq1_clock_Pkg ‹_› ?_ | with_reducible refine of_eq_clock_Clus ‹_› ?_ | with_reducible refine of_eq1_clock_Clus ‹_› ?_ | with_reducible refine of_eq_clock_Core ‹_› ?_ | with_reducible refine of_eq1_clock_Core ‹_› ?_ | split | dsimp only)

theorem Pkg.writePacket_clock (k a1) : (Pkg.writePacket k a1).clock = k.clock := by
  unfold Pkg.writePacket
  repeat' (first | with_reducible rfl | (simp only [↓Pkg.hostXfer_clock, ↓Pkg.lineWait_clock, ↓Pkg.snoop_clock, ↓Pkg.writeAt_clock, ↓Core.clock_eta, ↓Core.clock_mk, ↓Clus.clock_mk, ↓Clus.core_clock, ↓Pkg.clock_mk, ↓Pkg.cl_clock, ↓foldl_clock_Core, ↓iter_clock_Core, ↓foldl_clock_Clus, ↓iter_clock_Clus, ↓foldl_clock_Pkg, ↓iter_clock_Pkg, implies_true, apply_ite Pkg.clock, ite_self]; done) | with_reducible refine ite_clock_Pkg ?_ ?_ | with_reducible refine foldl_clock_Pkg' (fun _ _ => ?_) ?_ | with_reducible refine iter_clock_Pkg' (fun _ _ => ?_) ?_ | with_reducible refine foldl2_clock_Pkg' (fun _ _ => ?_) ?_ | with_reducible refine foldl3_clock_Pkg' (fun _ _ => ?_) ?_ | with_reducible refine ite_clock_Clus ?_ ?_ | with_reducible refine foldl_clock_Clus' (fun _ _ => ?_) ?_ | with_reducible refine iter_clock_Clus' (fun _ _ => ?_) ?_ | with_reducible refine foldl2_clock_Clus' (fun _ _ => ?_) ?_ | with_reducible refine foldl3_clock_Clus' (fun _ _ => ?_) ?_ | with_reducible refine ite_clock_Core ?_ ?_ | with_reducible refine foldl_clock_Core' (fun _ _ => ?_) ?_ | with_reducible refine iter_clock_Core' (fun _ _ => ?_) ?_ | with_reducible refine foldl2_clock_Core' (fun _ _ => ?_) ?_ | with_reducible refine foldl3_clock_Core' (fun _ _ => ?_) ?_ | simp only [↓Pkg.hostXfer_clock, ↓Pkg.lineWait_clock, ↓Pkg.snoop_clock, ↓Pkg.writeAt_clock, ↓Core.clock_eta, ↓Core.clock_mk, ↓Clus.clock_mk, ↓Clus.core_clock, ↓Pkg.clock_mk, ↓Pkg.cl_clock] | with_reducible refine of_eq_clock_Pkg ‹_› ?_ | with_reducible refine of_eq1_clock_Pkg ‹_› ?_ | with_reducible refine of_eq_clock_Clus ‹_› ?_ | with_reducible refine of_eq1_clock_Clus ‹_› ?_ | with_reducible refine of_eq_clock_Core ‹_› ?_ | with_reducible refine of_eq1_clock_Core ‹_› ?_ | split | dsimp only)

theorem Pkg.devAccess_clock (k a1) : (Pkg.devAccess k a1).clock = k.clock := by
  unfold Pkg.devAccess
  repeat' (first | with_reducible rfl | (simp only [↓Pkg.readPacket_clock, ↓Pkg.writePacket_clock, ↓Core.clock_eta, ↓Core.clock_mk, ↓Clus.clock_mk, ↓Clus.core_clock, ↓Pkg.clock_mk, ↓Pkg.cl_clock, ↓foldl_clock_Core, ↓iter_clock_Core, ↓foldl_clock_Clus, ↓iter_clock_Clus, ↓foldl_clock_Pkg, ↓iter_clock_Pkg, implies_true, apply_ite Pkg.clock, ite_self]; done) | with_reducible refine ite_clock_Pkg ?_ ?_ | with_reducible refine foldl_clock_Pkg' (fun _ _ => ?_) ?_ | with_reducible refine iter_clock_Pkg' (fun _ _ => ?_) ?_ | with_reducible refine foldl2_clock_Pkg' (fun _ _ => ?_) ?_ | with_reducible refine foldl3_clock_Pkg' (fun _ _ => ?_) ?_ | with_reducible refine ite_clock_Clus ?_ ?_ | with_reducible refine foldl_clock_Clus' (fun _ _ => ?_) ?_ | with_reducible refine iter_clock_Clus' (fun _ _ => ?_) ?_ | with_reducible refine foldl2_clock_Clus' (fun _ _ => ?_) ?_ | with_reducible refine foldl3_clock_Clus' (fun _ _ => ?_) ?_ | with_reducible refine ite_clock_Core ?_ ?_ | with_reducible refine foldl_clock_Core' (fun _ _ => ?_) ?_ | with_reducible refine iter_clock_Core' (fun _ _ => ?_) ?_ | with_reducible refine foldl2_clock_Core' (fun _ _ => ?_) ?_ | with_reducible refine foldl3_clock_Core' (fun _ _ => ?_) ?_ | simp only [↓Pkg.readPacket_clock, ↓Pkg.writePacket_clock, ↓Core.clock_eta, ↓Core.clock_mk, ↓Clus.clock_mk, ↓Clus.core_clock, ↓Pkg.clock_mk, ↓Pkg.cl_clock] | with_reducible refine of_eq_clock_Pkg ‹_› ?_ | with_reducible refine of_eq1_clock_Pkg ‹_› ?_ | with_reducible refine of_eq_clock_Clus ‹_› ?_ | with_reducible refine of_eq1_clock_Clus ‹_› ?_ | with_reducible refine of_eq_clock_Core ‹_› ?_ | with_reducible refine of_eq1_clock_Core ‹_› ?_ | split | dsimp only)

theorem Pkg.waitTry_clock (k a1) : (Pkg.waitTry k a1).clock = k.clock := by
  unfold Pkg.waitTry
  repeat' (first | with_reducible rfl | (simp only [↓Pkg.devAccess_clock, ↓Pkg.hostEvict_clock, ↓Pkg.hostRdUncached_clock, ↓Pkg.hostRead_clock, ↓Pkg.hostWb_clock, ↓Pkg.hostWrMem_clock, ↓Core.clock_eta, ↓Core.clock_mk, ↓Clus.clock_mk, ↓Clus.core_clock, ↓Pkg.clock_mk, ↓Pkg.cl_clock, ↓foldl_clock_Core, ↓iter_clock_Core, ↓foldl_clock_Clus, ↓iter_clock_Clus, ↓foldl_clock_Pkg, ↓iter_clock_Pkg, implies_true, apply_ite Pkg.clock, ite_self]; done) | with_reducible refine ite_clock_Pkg ?_ ?_ | with_reducible refine foldl_clock_Pkg' (fun _ _ => ?_) ?_ | with_reducible refine iter_clock_Pkg' (fun _ _ => ?_) ?_ | with_reducible refine foldl2_clock_Pkg' (fun _ _ => ?_) ?_ | with_reducible refine foldl3_clock_Pkg' (fun _ _ => ?_) ?_ | with_reducible refine ite_clock_Clus ?_ ?_ | with_reducible refine foldl_clock_Clus' (fun _ _ => ?_) ?_ | with_reducible refine iter_clock_Clus' (fun _ _ => ?_) ?_ | with_reducible refine foldl2_clock_Clus' (fun _ _ => ?_) ?_ | with_reducible refine foldl3_clock_Clus' (fun _ _ => ?_) ?_ | with_reducible refine ite_clock_Core ?_ ?_ | with_reducible refine foldl_clock_Core' (fun _ _ => ?_) ?_ | with_reducible refine iter_clock_Core' (fun _ _ => ?_) ?_ | with_reducible refine foldl2_clock_Core' (fun _ _ => ?_) ?_ | with_reducible refine foldl3_clock_Core' (fun _ _ => ?_) ?_ | simp only [↓Pkg.devAccess_clock, ↓Pkg.hostEvict_clock, ↓Pkg.hostRdUncached_clock, ↓Pkg.hostRead_clock, ↓Pkg.hostWb_clock, ↓Pkg.hostWrMem_clock, ↓Core.clock_eta, ↓Core.clock_mk, ↓Clus.clock_mk, ↓Clus.core_clock, ↓Pkg.clock_mk, ↓Pkg.cl_clock] | with_reducible refine of_eq_clock_Pkg ‹_› ?_ | with_reducible refine of_eq1_clock_Pkg ‹_› ?_ | with_reducible refine of_eq_clock_Clus ‹_› ?_ | with_reducible refine of_eq1_clock_Clus ‹_› ?_ | with_reducible refine of_eq_clock_Core ‹_› ?_ | with_reducible refine of_eq1_clock_Core ‹_› ?_ | split | dsimp only)

theorem Pkg.lineResume_clock (k a1) : (Pkg.lineResume k a1).clock = k.clock := by
  unfold Pkg.lineResume
  repeat' (first | with_reducible rfl | (simp only [↓Pkg.devAccess_clock, ↓Pkg.waitTry_clock, ↓Core.clock_eta, ↓Core.clock_mk, ↓Clus.clock_mk, ↓Clus.core_clock, ↓Pkg.clock_mk, ↓Pkg.cl_clock, ↓Pkg.onAtt_clock, ↓foldl_clock_Core, ↓iter_clock_Core, ↓foldl_clock_Clus, ↓iter_clock_Clus, ↓foldl_clock_Pkg, ↓iter_clock_Pkg, implies_true, apply_ite Pkg.clock, ite_self]; done) | with_reducible refine ite_clock_Pkg ?_ ?_ | with_reducible refine foldl_clock_Pkg' (fun _ _ => ?_) ?_ | with_reducible refine iter_clock_Pkg' (fun _ _ => ?_) ?_ | with_reducible refine foldl2_clock_Pkg' (fun _ _ => ?_) ?_ | with_reducible refine foldl3_clock_Pkg' (fun _ _ => ?_) ?_ | with_reducible refine ite_clock_Clus ?_ ?_ | with_reducible refine foldl_clock_Clus' (fun _ _ => ?_) ?_ | with_reducible refine iter_clock_Clus' (fun _ _ => ?_) ?_ | with_reducible refine foldl2_clock_Clus' (fun _ _ => ?_) ?_ | with_reducible refine foldl3_clock_Clus' (fun _ _ => ?_) ?_ | with_reducible refine ite_clock_Core ?_ ?_ | with_reducible refine foldl_clock_Core' (fun _ _ => ?_) ?_ | with_reducible refine iter_clock_Core' (fun _ _ => ?_) ?_ | with_reducible refine foldl2_clock_Core' (fun _ _ => ?_) ?_ | with_reducible refine foldl3_clock_Core' (fun _ _ => ?_) ?_ | simp only [↓Pkg.devAccess_clock, ↓Pkg.waitTry_clock, ↓Core.clock_eta, ↓Core.clock_mk, ↓Clus.clock_mk, ↓Clus.core_clock, ↓Pkg.clock_mk, ↓Pkg.cl_clock, ↓Pkg.onAtt_clock] | with_reducible refine of_eq_clock_Pkg ‹_› ?_ | with_reducible refine of_eq1_clock_Pkg ‹_› ?_ | with_reducible refine of_eq_clock_Clus ‹_› ?_ | with_reducible refine of_eq1_clock_Clus ‹_› ?_ | with_reducible refine of_eq_clock_Core ‹_› ?_ | with_reducible refine of_eq1_clock_Core ‹_› ?_ | split | dsimp only)

theorem Pkg.logApply_clock (k) : (Pkg.logApply k).clock = k.clock := by
  unfold Pkg.logApply
  repeat' (first | (simp only [↓Pkg.applyEnt_clock, ↓Pkg.cwWr_clock, ↓Pkg.onAtt_clock, apply_ite Pkg.clock, ite_self]; done) | with_reducible refine ite_clock_Pkg ?_ ?_ | split)

theorem Pkg.ltArrive_clock (k a1) : (Pkg.ltArrive k a1).clock = k.clock := by
  unfold Pkg.ltArrive
  repeat' (first | (simp only [↓Pkg.lineArrive_clock, apply_ite Pkg.clock, ite_self]; done) | with_reducible refine ite_clock_Pkg ?_ ?_ | split)

theorem Pkg.ltDone_clock (k a1) : (Pkg.ltDone k a1).clock = k.clock := by
  unfold Pkg.ltDone
  simp only [↓Pkg.lineDone_clock, apply_ite Pkg.clock, ite_self]

theorem Pkg.makeTag_clock (k a1) : (Pkg.makeTag k a1).clock = k.clock := by
  unfold Pkg.makeTag
  simp only [↓Clus.core_clock, ↓Pkg.cl_clock, ↓Core.draw_clock, ↓Pkg.onCore_clock, ↓Pkg.setLink_clock, apply_ite Pkg.clock, ite_self]

theorem Pkg.marginMeasure_clock (k a1 a2 a3 a4) : (Pkg.marginMeasure k a1 a2 a3 a4).clock = k.clock := by
  unfold Pkg.marginMeasure
  simp only [↓Pkg.clock_mk, ↓Clus.core_clock, ↓Pkg.cl_clock, ↓Clus.onCore_clock, ↓Core.wr_clock, ↓Pkg.hbEvent_clock, ↓Pkg.onClus_clock, ↓Pkg.pcFault_clock, apply_ite Pkg.clock, ite_self]

theorem Pkg.maskMcast_clock (k a1) : (Pkg.maskMcast k a1).clock = k.clock := by
  unfold Pkg.maskMcast
  repeat' (first | with_reducible rfl | (simp only [↓Pkg.deliver_clock, ↓Pkg.walkTree_clock, ↓Core.clock_eta, ↓Core.clock_mk, ↓Clus.clock_mk, ↓Clus.core_clock, ↓Pkg.clock_mk, ↓Pkg.cl_clock, ↓foldl_clock_Core, ↓iter_clock_Core, ↓foldl_clock_Clus, ↓iter_clock_Clus, ↓foldl_clock_Pkg, ↓iter_clock_Pkg, implies_true, apply_ite Pkg.clock, ite_self, apply_ite Prod.fst, apply_ite Prod.snd]; done) | with_reducible refine ite_clock_Pkg ?_ ?_ | with_reducible refine foldl_clock_Pkg' (fun _ _ => ?_) ?_ | with_reducible refine iter_clock_Pkg' (fun _ _ => ?_) ?_ | with_reducible refine foldl2_clock_Pkg' (fun _ _ => ?_) ?_ | with_reducible refine foldl3_clock_Pkg' (fun _ _ => ?_) ?_ | with_reducible refine ite_clock_Clus ?_ ?_ | with_reducible refine foldl_clock_Clus' (fun _ _ => ?_) ?_ | with_reducible refine iter_clock_Clus' (fun _ _ => ?_) ?_ | with_reducible refine foldl2_clock_Clus' (fun _ _ => ?_) ?_ | with_reducible refine foldl3_clock_Clus' (fun _ _ => ?_) ?_ | with_reducible refine ite_clock_Core ?_ ?_ | with_reducible refine foldl_clock_Core' (fun _ _ => ?_) ?_ | with_reducible refine iter_clock_Core' (fun _ _ => ?_) ?_ | with_reducible refine foldl2_clock_Core' (fun _ _ => ?_) ?_ | with_reducible refine foldl3_clock_Core' (fun _ _ => ?_) ?_ | simp only [↓Pkg.deliver_clock, ↓Pkg.walkTree_clock, ↓Core.clock_eta, ↓Core.clock_mk, ↓Clus.clock_mk, ↓Clus.core_clock, ↓Pkg.clock_mk, ↓Pkg.cl_clock] | with_reducible refine of_eq_clock_Pkg ‹_› ?_ | with_reducible refine of_eq1_clock_Pkg ‹_› ?_ | with_reducible refine of_eq_clock_Clus ‹_› ?_ | with_reducible refine of_eq1_clock_Clus ‹_› ?_ | with_reducible refine of_eq_clock_Core ‹_› ?_ | with_reducible refine of_eq1_clock_Core ‹_› ?_ | split | dsimp only)

theorem Pkg.masterTimeout_clock (k) : (Pkg.masterTimeout k).clock = k.clock := by
  unfold Pkg.masterTimeout
  simp only [↓Pkg.chooseMaster_clock, ↓Pkg.onFab_clock]

theorem Pkg.nak_clock (k a1 a2) : (Pkg.nak k a1 a2).clock = k.clock := by
  unfold Pkg.nak
  repeat' (first | (simp only [↓Clus.core_clock, ↓Pkg.cl_clock, ↓Clus.onCore_clock, ↓Core.incSat_clock, ↓Core.record_clock, ↓Pkg.killRun_clock, ↓Pkg.loseTxn_clock, ↓Pkg.onClus_clock, ↓Pkg.onCore_clock, ↓Pkg.onFab_clock, ↓foldl_clock_Pkg, implies_true, apply_ite Pkg.clock, ite_self]; done) | with_reducible refine ite_clock_Pkg ?_ ?_ | split | dsimp only)

theorem Pkg.nonceLapse_clock (k) : (Pkg.nonceLapse k).clock = k.clock := by
  unfold Pkg.nonceLapse
  repeat' (first | (simp only [↓Pkg.onSec_clock, apply_ite Pkg.clock, ite_self]; done) | with_reducible refine ite_clock_Pkg ?_ ?_ | split)

theorem Pkg.opComplete_clock (k a1 a2 a3) : (Pkg.opComplete k a1 a2 a3).clock = k.clock := by
  unfold Pkg.opComplete
  repeat' (first | (simp only [↓Pkg.finishRun_clock, apply_ite Pkg.clock, ite_self]; done) | with_reducible refine ite_clock_Pkg ?_ ?_ | split | dsimp only)

theorem Pkg.patrolScrub_clock (k a1 a2) : (Pkg.patrolScrub k a1 a2).clock = k.clock := by
  unfold Pkg.patrolScrub
  simp only [↓Pkg.clock_mk, ↓Pkg.cl_clock, ↓Pkg.hbTouch_clock, ↓Pkg.rehomeNext_clock, apply_ite Pkg.clock, ite_self]

theorem Pkg.railStart_clock (k a1) : (Pkg.railStart k a1).clock = k.clock := by
  unfold Pkg.railStart
  simp only [↓Clus.core_clock, ↓Pkg.cl_clock, ↓Core.railUp_clock, ↓Pkg.onCore_clock, ↓Pkg.onPw_clock, ↓foldl_clock_Core, implies_true]

theorem Pkg.quadPortsDown_clock (k a1) : (Pkg.quadPortsDown k a1).clock = k.clock := by
  unfold Pkg.quadPortsDown
  simp only [↓Pkg.linkLost_clock, ↓foldl_clock_Pkg, implies_true, apply_ite Pkg.clock, ite_self]

theorem Pkg.railFail_clock (k a1 a2) : (Pkg.railFail k a1 a2).clock = k.clock := by
  unfold Pkg.railFail
  simp only [↓Clus.core_clock, ↓Pkg.cl_clock, ↓Core.railDown_clock, ↓Pkg.faultOut_clock, ↓Pkg.onCore_clock, ↓Pkg.pwEvent_clock, ↓Pkg.quadPortsDown_clock, ↓Pkg.railsOff_clock, apply_ite Pkg.clock, ite_self]

theorem Pkg.pgoodDeassert_clock (k a1 a2) : (Pkg.pgoodDeassert k a1 a2).clock = k.clock := by
  unfold Pkg.pgoodDeassert
  simp only [↓Pkg.railFail_clock, apply_ite Pkg.clock, ite_self]

theorem Pkg.pgoodTimeout_clock (k a1 a2) : (Pkg.pgoodTimeout k a1 a2).clock = k.clock := by
  unfold Pkg.pgoodTimeout
  simp only [↓Pkg.railFail_clock, apply_ite Pkg.clock, ite_self]

theorem Pkg.pinFall_clock (k a1) : (Pkg.pinFall k a1).clock = k.clock := by
  unfold Pkg.pinFall
  repeat' (first | (simp only [↓Pkg.clock_mk, ↓Pkg.cl_clock, apply_ite Pkg.clock, ite_self]; done) | with_reducible refine ite_clock_Pkg ?_ ?_ | split)

theorem Pkg.pllUnlock_clock (k a1) : (Pkg.pllUnlock k a1).clock = k.clock := by
  unfold Pkg.pllUnlock
  simp only [↓Pkg.faultOut_clock, ↓Pkg.pwEvent_clock]

theorem Pkg.pointsSwap_clock (k) : (Pkg.pointsSwap k).clock = k.clock := by
  unfold Pkg.pointsSwap
  repeat' (first | with_reducible rfl | (simp only [↓Core.record_clock, ↓Core.setFld_clock, ↓Core.setTb_clock, ↓Core.wr8_clock, ↓Core.zero_clock, ↓Core.clock_eta, ↓Core.clock_mk, ↓Clus.clock_mk, ↓Clus.core_clock, ↓Clus.onCore_clock, ↓Pkg.clock_mk, ↓Pkg.cl_clock, ↓Pkg.onCore_clock, ↓Pkg.onClus_clock, ↓foldl_clock_Core, ↓iter_clock_Core, ↓foldl_clock_Clus, ↓iter_clock_Clus, ↓foldl_clock_Pkg, ↓iter_clock_Pkg, implies_true, apply_ite Pkg.clock, ite_self]; done) | with_reducible refine ite_clock_Pkg ?_ ?_ | with_reducible refine foldl_clock_Pkg' (fun _ _ => ?_) ?_ | with_reducible refine iter_clock_Pkg' (fun _ _ => ?_) ?_ | with_reducible refine foldl2_clock_Pkg' (fun _ _ => ?_) ?_ | with_reducible refine foldl3_clock_Pkg' (fun _ _ => ?_) ?_ | with_reducible refine ite_clock_Clus ?_ ?_ | with_reducible refine foldl_clock_Clus' (fun _ _ => ?_) ?_ | with_reducible refine iter_clock_Clus' (fun _ _ => ?_) ?_ | with_reducible refine foldl2_clock_Clus' (fun _ _ => ?_) ?_ | with_reducible refine foldl3_clock_Clus' (fun _ _ => ?_) ?_ | with_reducible refine ite_clock_Core ?_ ?_ | with_reducible refine foldl_clock_Core' (fun _ _ => ?_) ?_ | with_reducible refine iter_clock_Core' (fun _ _ => ?_) ?_ | with_reducible refine foldl2_clock_Core' (fun _ _ => ?_) ?_ | with_reducible refine foldl3_clock_Core' (fun _ _ => ?_) ?_ | simp only [↓Core.record_clock, ↓Core.setFld_clock, ↓Core.setTb_clock, ↓Core.wr8_clock, ↓Core.zero_clock, ↓Core.clock_eta, ↓Core.clock_mk, ↓Clus.clock_mk, ↓Clus.core_clock, ↓Clus.onCore_clock, ↓Pkg.clock_mk, ↓Pkg.cl_clock, ↓Pkg.onCore_clock, ↓Pkg.onClus_clock] | with_reducible refine of_eq_clock_Pkg ‹_› ?_ | with_reducible refine of_eq1_clock_Pkg ‹_› ?_ | with_reducible refine of_eq_clock_Clus ‹_› ?_ | with_reducible refine of_eq1_clock_Clus ‹_› ?_ | with_reducible refine of_eq_clock_Core ‹_› ?_ | with_reducible refine of_eq1_clock_Core ‹_› ?_ | split | dsimp only)

theorem Pkg.prepTimeout_clock (k a1) : (Pkg.prepTimeout k a1).clock = k.clock := by
  unfold Pkg.prepTimeout
  repeat' (first | (simp only [↓Pkg.abandon_clock, apply_ite Pkg.clock, ite_self]; done) | with_reducible refine ite_clock_Pkg ?_ ?_ | split)

theorem Pkg.probationEnd_clock (k) : (Pkg.probationEnd k).clock = k.clock := by
  unfold Pkg.probationEnd
  repeat' (first | (simp only [↓Pkg.cwWr_clock, ↓Pkg.exchEnd_clock, ↓Pkg.flipBank_clock, ↓Pkg.fwNote_clock, ↓Pkg.onFw_clock, ↓Pkg.svnBurn_clock, apply_ite Pkg.clock, ite_self]; done) | with_reducible refine ite_clock_Pkg ?_ ?_ | split)

theorem Pkg.probe_clock (k a1) : (Pkg.probe k a1).clock = k.clock := by
  unfold Pkg.probe
  simp only [↓Clus.core_clock, ↓Pkg.cl_clock, ↓Core.record_clock, ↓Pkg.onCore_clock, ↓Pkg.onFab_clock, apply_ite Pkg.clock, ite_self]

theorem Pkg.quadJoin_clock (k a1) : (Pkg.quadJoin k a1).clock = k.clock := by
  unfold Pkg.quadJoin
  repeat' (first | with_reducible rfl | (simp only [↓Core.buEvent_clock, ↓Core.joinPrep_clock, ↓Core.pendClock_clock, ↓Core.setFld_clock, ↓Core.setStep_clock, ↓Pkg.cwWr_clock, ↓Pkg.enterFull_clock, ↓Pkg.setDevState_clock, ↓Core.clock_eta, ↓Core.clock_mk, ↓Clus.clock_mk, ↓Clus.core_clock, ↓Clus.onCore_clock, ↓Pkg.clock_mk, ↓Pkg.cl_clock, ↓Pkg.onCore_clock, ↓Pkg.onPw_clock, ↓foldl_clock_Core, ↓iter_clock_Core, ↓foldl_clock_Clus, ↓iter_clock_Clus, ↓foldl_clock_Pkg, ↓iter_clock_Pkg, implies_true, apply_ite Pkg.clock, ite_self]; done) | with_reducible refine ite_clock_Pkg ?_ ?_ | with_reducible refine foldl_clock_Pkg' (fun _ _ => ?_) ?_ | with_reducible refine iter_clock_Pkg' (fun _ _ => ?_) ?_ | with_reducible refine foldl2_clock_Pkg' (fun _ _ => ?_) ?_ | with_reducible refine foldl3_clock_Pkg' (fun _ _ => ?_) ?_ | with_reducible refine ite_clock_Clus ?_ ?_ | with_reducible refine foldl_clock_Clus' (fun _ _ => ?_) ?_ | with_reducible refine iter_clock_Clus' (fun _ _ => ?_) ?_ | with_reducible refine foldl2_clock_Clus' (fun _ _ => ?_) ?_ | with_reducible refine foldl3_clock_Clus' (fun _ _ => ?_) ?_ | with_reducible refine ite_clock_Core ?_ ?_ | with_reducible refine foldl_clock_Core' (fun _ _ => ?_) ?_ | with_reducible refine iter_clock_Core' (fun _ _ => ?_) ?_ | with_reducible refine foldl2_clock_Core' (fun _ _ => ?_) ?_ | with_reducible refine foldl3_clock_Core' (fun _ _ => ?_) ?_ | simp only [↓Core.buEvent_clock, ↓Core.joinPrep_clock, ↓Core.pendClock_clock, ↓Core.setFld_clock, ↓Core.setStep_clock, ↓Pkg.cwWr_clock, ↓Pkg.enterFull_clock, ↓Pkg.setDevState_clock, ↓Core.clock_eta, ↓Core.clock_mk, ↓Clus.clock_mk, ↓Clus.core_clock, ↓Clus.onCore_clock, ↓Pkg.clock_mk, ↓Pkg.cl_clock, ↓Pkg.onCore_clock, ↓Pkg.onPw_clock] | with_reducible refine of_eq_clock_Pkg ‹_› ?_ | with_reducible refine of_eq1_clock_Pkg ‹_› ?_ | with_reducible refine of_eq_clock_Clus ‹_› ?_ | with_reducible refine of_eq1_clock_Clus ‹_› ?_ | with_reducible refine of_eq_clock_Core ‹_› ?_ | with_reducible refine of_eq1_clock_Core ‹_› ?_ | split | dsimp only)

theorem Pkg.quarantine_clock (k a1) : (Pkg.quarantine k a1).clock = k.clock := by
  unfold Pkg.quarantine
  repeat' (first | with_reducible rfl | (simp only [↓Core.incSat_clock, ↓Core.setFld_clock, ↓Pkg.linkEvent_clock, ↓Pkg.losePort_clock, ↓Pkg.sendPeer_clock, ↓Pkg.setLink_clock, ↓Pkg.setPortState_clock, ↓Pkg.showLanes_clock, ↓Core.clock_eta, ↓Core.clock_mk, ↓Clus.clock_mk, ↓Clus.core_clock, ↓Clus.onCore_clock, ↓Pkg.clock_mk, ↓Pkg.cl_clock, ↓Pkg.onCore_clock, ↓Pkg.onFab_clock, ↓foldl_clock_Core, ↓iter_clock_Core, ↓foldl_clock_Clus, ↓iter_clock_Clus, ↓foldl_clock_Pkg, ↓iter_clock_Pkg, implies_true, apply_ite Pkg.clock, ite_self]; done) | with_reducible refine ite_clock_Pkg ?_ ?_ | with_reducible refine foldl_clock_Pkg' (fun _ _ => ?_) ?_ | with_reducible refine iter_clock_Pkg' (fun _ _ => ?_) ?_ | with_reducible refine foldl2_clock_Pkg' (fun _ _ => ?_) ?_ | with_reducible refine foldl3_clock_Pkg' (fun _ _ => ?_) ?_ | with_reducible refine ite_clock_Clus ?_ ?_ | with_reducible refine foldl_clock_Clus' (fun _ _ => ?_) ?_ | with_reducible refine iter_clock_Clus' (fun _ _ => ?_) ?_ | with_reducible refine foldl2_clock_Clus' (fun _ _ => ?_) ?_ | with_reducible refine foldl3_clock_Clus' (fun _ _ => ?_) ?_ | with_reducible refine ite_clock_Core ?_ ?_ | with_reducible refine foldl_clock_Core' (fun _ _ => ?_) ?_ | with_reducible refine iter_clock_Core' (fun _ _ => ?_) ?_ | with_reducible refine foldl2_clock_Core' (fun _ _ => ?_) ?_ | with_reducible refine foldl3_clock_Core' (fun _ _ => ?_) ?_ | simp only [↓Core.incSat_clock, ↓Core.setFld_clock, ↓Pkg.linkEvent_clock, ↓Pkg.losePort_clock, ↓Pkg.sendPeer_clock, ↓Pkg.setLink_clock, ↓Pkg.setPortState_clock, ↓Pkg.showLanes_clock, ↓Core.clock_eta, ↓Core.clock_mk, ↓Clus.clock_mk, ↓Clus.core_clock, ↓Clus.onCore_clock, ↓Pkg.clock_mk, ↓Pkg.cl_clock, ↓Pkg.onCore_clock, ↓Pkg.onFab_clock] | with_reducible refine of_eq_clock_Pkg ‹_› ?_ | with_reducible refine of_eq1_clock_Pkg ‹_› ?_ | with_reducible refine of_eq_clock_Clus ‹_› ?_ | with_reducible refine of_eq1_clock_Clus ‹_› ?_ | with_reducible refine of_eq_clock_Core ‹_› ?_ | with_reducible refine of_eq1_clock_Core ‹_› ?_ | split | dsimp only)

theorem Pkg.reconcile_clock (k a1 a2 a3 a4) : (Pkg.reconcile k a1 a2 a3 a4).clock = k.clock := by
  unfold Pkg.reconcile
  simp only [↓Clus.core_clock, ↓Pkg.cl_clock, ↓Core.addContra_clock, ↓Core.buEvent_clock, ↓Pkg.fencePut_clock, ↓Pkg.onCore_clock, apply_ite Pkg.clock, ite_self]

theorem Pkg.resetEnd_clock (k a1) : (Pkg.resetEnd k a1).clock = k.clock := by
  unfold Pkg.resetEnd
  repeat' (first | with_reducible rfl | (simp only [↓Core.pendClock_clock, ↓Core.setFld_clock, ↓Core.setLimits_clock, ↓Core.setStep_clock, ↓Core.validDies_clock, ↓Pkg.cmdEnd_clock, ↓Pkg.cwWr_clock, ↓Pkg.setDevState_clock, ↓Pkg.setLink_clock, ↓Core.clock_eta, ↓Core.clock_mk, ↓Clus.clock_mk, ↓Clus.core_clock, ↓Clus.onCore_clock, ↓Pkg.clock_mk, ↓Pkg.cl_clock, ↓Pkg.onCore_clock, ↓Pkg.onFw_clock, ↓foldl_clock_Core, ↓iter_clock_Core, ↓foldl_clock_Clus, ↓iter_clock_Clus, ↓foldl_clock_Pkg, ↓iter_clock_Pkg, implies_true, apply_ite Pkg.clock, ite_self]; done) | with_reducible refine ite_clock_Pkg ?_ ?_ | with_reducible refine foldl_clock_Pkg' (fun _ _ => ?_) ?_ | with_reducible refine iter_clock_Pkg' (fun _ _ => ?_) ?_ | with_reducible refine foldl2_clock_Pkg' (fun _ _ => ?_) ?_ | with_reducible refine foldl3_clock_Pkg' (fun _ _ => ?_) ?_ | with_reducible refine ite_clock_Clus ?_ ?_ | with_reducible refine foldl_clock_Clus' (fun _ _ => ?_) ?_ | with_reducible refine iter_clock_Clus' (fun _ _ => ?_) ?_ | with_reducible refine foldl2_clock_Clus' (fun _ _ => ?_) ?_ | with_reducible refine foldl3_clock_Clus' (fun _ _ => ?_) ?_ | with_reducible refine ite_clock_Core ?_ ?_ | with_reducible refine foldl_clock_Core' (fun _ _ => ?_) ?_ | with_reducible refine iter_clock_Core' (fun _ _ => ?_) ?_ | with_reducible refine foldl2_clock_Core' (fun _ _ => ?_) ?_ | with_reducible refine foldl3_clock_Core' (fun _ _ => ?_) ?_ | simp only [↓Core.pendClock_clock, ↓Core.setFld_clock, ↓Core.setLimits_clock, ↓Core.setStep_clock, ↓Core.validDies_clock, ↓Pkg.cmdEnd_clock, ↓Pkg.cwWr_clock, ↓Pkg.setDevState_clock, ↓Pkg.setLink_clock, ↓Core.clock_eta, ↓Core.clock_mk, ↓Clus.clock_mk, ↓Clus.core_clock, ↓Clus.onCore_clock, ↓Pkg.clock_mk, ↓Pkg.cl_clock, ↓Pkg.onCore_clock, ↓Pkg.onFw_clock] | with_reducible refine of_eq_clock_Pkg ‹_› ?_ | with_reducible refine of_eq1_clock_Pkg ‹_› ?_ | with_reducible refine of_eq_clock_Clus ‹_› ?_ | with_reducible refine of_eq1_clock_Clus ‹_› ?_ | with_reducible refine of_eq_clock_Core ‹_› ?_ | with_reducible refine of_eq1_clock_Core ‹_› ?_ | split | dsimp only)

theorem Pkg.restartAll_clock (k) : (Pkg.restartAll k).clock = k.clock := by
  unfold Pkg.restartAll
  simp only [↓Pkg.complexDrain_clock, ↓Pkg.onFw_clock, ↓foldl_clock_Pkg, implies_true]

theorem Pkg.recoveryPhase_clock (k) : (Pkg.recoveryPhase k).clock = k.clock := by
  unfold Pkg.recoveryPhase
  repeat' (first | with_reducible rfl | (simp only [↓Clus.dieCold_clock, ↓Clus.stopUnits_clock, ↓Core.placeRegion_clock, ↓Core.railGood_clock, ↓Core.railUp_clock, ↓Core.resetPages_clock, ↓Core.setStep_clock, ↓Core.wr_clock, ↓Pkg.cmdEnd_clock, ↓Pkg.computeCold_clock, ↓Pkg.dieTest_clock, ↓Pkg.drawWindows_clock, ↓Pkg.endAll_clock, ↓Pkg.fenceBits_clock, ↓Pkg.hbmZero_clock, ↓Pkg.loadOn_clock, ↓Pkg.losePort_clock, ↓Pkg.placeService_clock, ↓Pkg.resetEnd_clock, ↓Pkg.restartAll_clock, ↓Pkg.seedsAgain_clock, ↓Pkg.setLink_clock, ↓Core.clock_eta, ↓Core.clock_mk, ↓Clus.clock_mk, ↓Clus.core_clock, ↓Clus.onCore_clock, ↓Pkg.clock_mk, ↓Pkg.cl_clock, ↓Pkg.onCore_clock, ↓Pkg.onClus_clock, ↓Pkg.onBu_clock, ↓Pkg.onPw_clock, ↓Pkg.onFw_clock, ↓foldl_clock_Core, ↓iter_clock_Core, ↓foldl_clock_Clus, ↓iter_clock_Clus, ↓foldl_clock_Pkg, ↓iter_clock_Pkg, implies_true, apply_ite Pkg.clock, ite_self]; done) | with_reducible refine ite_clock_Pkg ?_ ?_ | with_reducible refine foldl_clock_Pkg' (fun _ _ => ?_) ?_ | with_reducible refine iter_clock_Pkg' (fun _ _ => ?_) ?_ | with_reducible refine foldl2_clock_Pkg' (fun _ _ => ?_) ?_ | with_reducible refine foldl3_clock_Pkg' (fun _ _ => ?_) ?_ | with_reducible refine ite_clock_Clus ?_ ?_ | with_reducible refine foldl_clock_Clus' (fun _ _ => ?_) ?_ | with_reducible refine iter_clock_Clus' (fun _ _ => ?_) ?_ | with_reducible refine foldl2_clock_Clus' (fun _ _ => ?_) ?_ | with_reducible refine foldl3_clock_Clus' (fun _ _ => ?_) ?_ | with_reducible refine ite_clock_Core ?_ ?_ | with_reducible refine foldl_clock_Core' (fun _ _ => ?_) ?_ | with_reducible refine iter_clock_Core' (fun _ _ => ?_) ?_ | with_reducible refine foldl2_clock_Core' (fun _ _ => ?_) ?_ | with_reducible refine foldl3_clock_Core' (fun _ _ => ?_) ?_ | simp only [↓Clus.dieCold_clock, ↓Clus.stopUnits_clock, ↓Core.placeRegion_clock, ↓Core.railGood_clock, ↓Core.railUp_clock, ↓Core.resetPages_clock, ↓Core.setStep_clock, ↓Core.wr_clock, ↓Pkg.cmdEnd_clock, ↓Pkg.computeCold_clock, ↓Pkg.dieTest_clock, ↓Pkg.drawWindows_clock, ↓Pkg.endAll_clock, ↓Pkg.fenceBits_clock, ↓Pkg.hbmZero_clock, ↓Pkg.loadOn_clock, ↓Pkg.losePort_clock, ↓Pkg.placeService_clock, ↓Pkg.resetEnd_clock, ↓Pkg.restartAll_clock, ↓Pkg.seedsAgain_clock, ↓Pkg.setLink_clock, ↓Core.clock_eta, ↓Core.clock_mk, ↓Clus.clock_mk, ↓Clus.core_clock, ↓Clus.onCore_clock, ↓Pkg.clock_mk, ↓Pkg.cl_clock, ↓Pkg.onCore_clock, ↓Pkg.onClus_clock, ↓Pkg.onBu_clock, ↓Pkg.onPw_clock, ↓Pkg.onFw_clock] | with_reducible refine of_eq_clock_Pkg ‹_› ?_ | with_reducible refine of_eq1_clock_Pkg ‹_› ?_ | with_reducible refine of_eq_clock_Clus ‹_› ?_ | with_reducible refine of_eq1_clock_Clus ‹_› ?_ | with_reducible refine of_eq_clock_Core ‹_› ?_ | with_reducible refine of_eq1_clock_Core ‹_› ?_ | split | dsimp only)

theorem Pkg.recoveryTimeout_clock (k) : (Pkg.recoveryTimeout k).clock = k.clock := by
  unfold Pkg.recoveryTimeout
  repeat' (first | (simp only [↓Clus.core_clock, ↓Pkg.cl_clock, ↓Core.fwEvent_clock, ↓Pkg.failed_clock, ↓Pkg.onCore_clock, ↓Pkg.onFw_clock, apply_ite Pkg.clock, ite_self]; done) | with_reducible refine ite_clock_Pkg ?_ ?_ | split)

theorem Pkg.stepLimit_clock (k a1) : (Pkg.stepLimit k a1).clock = k.clock := by
  unfold Pkg.stepLimit
  repeat' (first | (simp only [↓Pkg.linkEvent_clock, ↓Pkg.linkIdle_clock, ↓Pkg.lowerGen_clock, ↓Pkg.onFab_clock, ↓Pkg.setLink_clock, ↓Pkg.setPortState_clock, ↓Pkg.showLanes_clock, apply_ite Pkg.clock, ite_self]; done) | with_reducible refine ite_clock_Pkg ?_ ?_ | split | dsimp only)

theorem Pkg.widthStep_clock (k a1 a2) : (Pkg.widthStep k a1 a2).clock = k.clock := by
  unfold Pkg.widthStep
  simp only [↓Clus.core_clock, ↓Pkg.cl_clock, ↓Core.stepEnd_clock, ↓Pkg.linkEvent_clock, ↓Pkg.lowerGen_clock, ↓Pkg.makeTag_clock, ↓Pkg.onCore_clock, ↓Pkg.setLink_clock, ↓Pkg.setPortState_clock, ↓Pkg.showLanes_clock, apply_ite Pkg.clock, ite_self]

theorem Pkg.stepDone_clock (k a1 a2) : (Pkg.stepDone k a1 a2).clock = k.clock := by
  unfold Pkg.stepDone
  repeat' (first | (simp only [↓Pkg.setLink_clock, ↓Pkg.setPortState_clock, ↓Pkg.showLanes_clock, ↓Pkg.widthStep_clock, apply_ite Pkg.clock, ite_self]; done) | with_reducible refine ite_clock_Pkg ?_ ?_ | split | dsimp only)

theorem Pkg.redetect_clock (k a1 a2) : (Pkg.redetect k a1 a2).clock = k.clock := by
  unfold Pkg.redetect
  simp only [↓Pkg.startDetect_clock, ↓Pkg.stepDone_clock, ↓Pkg.stepLimit_clock, apply_ite Pkg.clock, ite_self]

theorem Pkg.refuse_clock (k a1 a2 a3) : (Pkg.refuse k a1 a2 a3).clock = k.clock := by
  unfold Pkg.refuse
  simp only [↓Clus.core_clock, ↓Pkg.cl_clock, ↓Core.incSat_clock, ↓Pkg.linkEvent_clock, ↓Pkg.onCore_clock, ↓Pkg.onFab_clock, ↓Pkg.quarantine_clock, ↓Pkg.sendPeer_clock, apply_ite Pkg.clock, ite_self]

theorem Pkg.regulatorFault_clock (k a1) : (Pkg.regulatorFault k a1).clock = k.clock := by
  unfold Pkg.regulatorFault
  simp only [↓Pkg.dieOff_clock, ↓Pkg.pwEvent_clock, apply_ite Pkg.clock, ite_self]

theorem Pkg.rehomeSwap_clock (k a1) : (Pkg.rehomeSwap k a1).clock = k.clock := by
  unfold Pkg.rehomeSwap
  repeat' (first | (simp only [↓Pkg.clock_mk, ↓Clus.core_clock, ↓Pkg.cl_clock, ↓Clus.onCore_clock, ↓Core.setFld_clock, ↓Pkg.copyPage_clock, ↓Pkg.hbEvent_clock, ↓Pkg.onClus_clock, ↓Pkg.rehomeNext_clock, ↓Pkg.spareCheck_clock, ↓Pkg.startPage_clock, apply_ite Pkg.clock]; done) | with_reducible refine ite_clock_Pkg ?_ ?_ | split)

theorem Pkg.replyAtEngine_clock (k a1) : (Pkg.replyAtEngine k a1).clock = k.clock := by
  unfold Pkg.replyAtEngine
  repeat' (first | (simp only [↓Pkg.killRun_clock, ↓Pkg.pump_clock, ↓Pkg.pushData_clock, ↓Pkg.setDma_clock, ↓Pkg.takeWhy_clock, apply_ite Pkg.clock]; done) | with_reducible refine ite_clock_Pkg ?_ ?_ | split)

theorem Pkg.replyPacket_clock (k a1) : (Pkg.replyPacket k a1).clock = k.clock := by
  unfold Pkg.replyPacket
  simp only [↓Pkg.cl_clock, ↓Clus.noticeSource_clock, ↓Pkg.lineWrite_clock, ↓Pkg.onClus_clock, ↓Pkg.replyAtEngine_clock, ↓Pkg.takeWhy_clock, ↓Pkg.windowDone_clock, apply_ite Pkg.clock, ite_self]

theorem Pkg.resetEscalate_clock (k) : (Pkg.resetEscalate k).clock = k.clock := by
  unfold Pkg.resetEscalate
  repeat' (first | (simp only [↓Pkg.resetAsk_clock, apply_ite Pkg.clock, ite_self]; done) | with_reducible refine ite_clock_Pkg ?_ ?_ | split)

theorem Pkg.resetHold_clock (k) : (Pkg.resetHold k).clock = k.clock := by
  unfold Pkg.resetHold
  simp only [↓Pkg.onPw_clock, ↓Pkg.railsOff_clock, apply_ite Pkg.clock, ite_self]

theorem Pkg.rotationStart_clock (k a1) : (Pkg.rotationStart k a1).clock = k.clock := by
  unfold Pkg.rotationStart
  repeat' (first | (simp only [↓Pkg.rotate_clock, apply_ite Pkg.clock]; done) | with_reducible refine ite_clock_Pkg ?_ ?_ | split | dsimp only)

theorem Pkg.rotationTick_clock (k a1) : (Pkg.rotationTick k a1).clock = k.clock := by
  unfold Pkg.rotationTick
  simp only [↓Pkg.rotationStart_clock, apply_ite Pkg.clock, ite_self]

theorem Pkg.routeSetCmd_clock (k a1 a2) : (Pkg.routeSetCmd k a1 a2).clock = k.clock := by
  unfold Pkg.routeSetCmd
  simp only [↓Clus.core_clock, ↓Pkg.cl_clock, ↓Core.setFld_clock, ↓Core.wr8_clock, ↓Pkg.cmdRun_clock, ↓Pkg.devCmd_clock, ↓Pkg.onCore_clock, ↓Pkg.onFab_clock, implies_true]

theorem Pkg.routeSwap_clock (k) : (Pkg.routeSwap k).clock = k.clock := by
  unfold Pkg.routeSwap
  simp only [↓Clus.core_clock, ↓Pkg.cl_clock, ↓Core.record_clock, ↓Core.setFld_clock, ↓Core.setTb_clock, ↓Core.wr8_clock, ↓Pkg.onCore_clock, ↓Pkg.onFab_clock, ↓Pkg.sendTo_clock, ↓foldl_clock_Pkg, implies_true, apply_ite Pkg.clock, apply_ite Core.clock, ite_self]

theorem granuleLoop_clock (a0 : Nat → Clus → Nat × Clus) (a1 a2 k) (h0 : ∀ x0 x1, (a0 x0 x1).2.clock = x1.clock) : (granuleLoop a0 a1 a2 k).2.clock = k.clock := by
  induction a1 generalizing k a2 with
  | zero => rfl
  | succ n ih =>
    unfold granuleLoop
    split
    next code m he =>
    have hm : m.clock = k.clock := by
      have := h0 a2 k
      rw [he] at this
      exact this
    split
    · exact hm
    · exact (ih _ m).trans hm

theorem opGranule_clock (a0 a1 k) : (opGranule a0 a1 k).2.clock = k.clock := by
  unfold opGranule
  repeat' (first | (simp only [↓Clus.copyAccGranule_clock, ↓Clus.copyGranule_clock, ↓Clus.fillGranule_clock]; done) | with_reducible refine ite_clock_Clus ?_ ?_ | split)

theorem Pkg.runOp_clock (k a1) : (Pkg.runOp k a1).clock = k.clock := by
  unfold Pkg.runOp
  simp only [↓Pkg.clock_mk, ↓Pkg.cl_clock, ↓Clus.fatalEvent_clock, ↓Clus.stCapture_clock, ↓Pkg.onClus_clock, ↓Pkg.setDma_clock, ↓granuleLoop_clock, ↓opGranule_clock, implies_true, apply_ite Pkg.clock, ite_self]

theorem Pkg.salDrain_clock (k) : (Pkg.salDrain k).clock = k.clock := by
  unfold Pkg.salDrain
  simp only [↓Pkg.onAtt_clock, ↓Pkg.salSend_clock, ↓foldl_clock_Pkg, implies_true]

theorem Pkg.salRetry_clock (k) : (Pkg.salRetry k).clock = k.clock := by
  unfold Pkg.salRetry
  simp only [↓Pkg.startDetect_clock, apply_ite Pkg.clock, ite_self]

theorem Pkg.salWide_clock (k) : (Pkg.salWide k).clock = k.clock := by
  unfold Pkg.salWide
  simp only [↓Pkg.setLanes_clock, apply_ite Pkg.clock, ite_self]

theorem Pkg.sensorCheck_clock (k a1 a2) : (Pkg.sensorCheck k a1 a2).clock = k.clock := by
  unfold Pkg.sensorCheck
  repeat' (first | (simp only [↓Pkg.excludeSensor_clock, ↓Pkg.onPw_clock, apply_ite Pkg.clock, ite_self]; done) | with_reducible refine ite_clock_Pkg ?_ ?_ | with_reducible refine foldl_clock_Pkg' (fun _ _ => ?_) ?_ | split | dsimp only)

theorem Pkg.sig0Arrive_clock (k a1) : (Pkg.sig0Arrive k a1).clock = k.clock := by
  unfold Pkg.sig0Arrive
  simp only [↓Clus.clock_mk, ↓Clus.core_clock, ↓Pkg.cl_clock, ↓Pkg.onClus_clock, ↓Pkg.sig0Apply_clock, apply_ite Pkg.clock, ite_self]

theorem Pkg.signalSend_clock (k a1) : (Pkg.signalSend k a1).clock = k.clock := by
  unfold Pkg.signalSend
  simp only [↓Clus.clock_mk, ↓Clus.core_clock, ↓Pkg.cl_clock, ↓Pkg.onAtt_clock, ↓Pkg.onClus_clock]

theorem Pkg.sliceEnd_clock (k a1 a2 a3) : (Pkg.sliceEnd k a1 a2 a3).clock = k.clock := by
  unfold Pkg.sliceEnd
  repeat' (first | with_reducible rfl | (simp only [↓Core.biEvent_clock, ↓Core.setFld_clock, ↓Core.wr_clock, ↓Pkg.biShow_clock, ↓Pkg.dieBack_clock, ↓Pkg.endTest_clock, ↓Pkg.fenceSpare_clock, ↓Pkg.setTest_clock, ↓Pkg.unfence_clock, ↓Core.clock_eta, ↓Core.clock_mk, ↓Clus.clock_mk, ↓Clus.core_clock, ↓Clus.onCore_clock, ↓Pkg.clock_mk, ↓Pkg.cl_clock, ↓Pkg.onCore_clock, ↓foldl_clock_Core, ↓iter_clock_Core, ↓foldl_clock_Clus, ↓iter_clock_Clus, ↓foldl_clock_Pkg, ↓iter_clock_Pkg, implies_true, apply_ite Pkg.clock, ite_self]; done) | with_reducible refine ite_clock_Pkg ?_ ?_ | with_reducible refine foldl_clock_Pkg' (fun _ _ => ?_) ?_ | with_reducible refine iter_clock_Pkg' (fun _ _ => ?_) ?_ | with_reducible refine foldl2_clock_Pkg' (fun _ _ => ?_) ?_ | with_reducible refine foldl3_clock_Pkg' (fun _ _ => ?_) ?_ | with_reducible refine ite_clock_Clus ?_ ?_ | with_reducible refine foldl_clock_Clus' (fun _ _ => ?_) ?_ | with_reducible refine iter_clock_Clus' (fun _ _ => ?_) ?_ | with_reducible refine foldl2_clock_Clus' (fun _ _ => ?_) ?_ | with_reducible refine foldl3_clock_Clus' (fun _ _ => ?_) ?_ | with_reducible refine ite_clock_Core ?_ ?_ | with_reducible refine foldl_clock_Core' (fun _ _ => ?_) ?_ | with_reducible refine iter_clock_Core' (fun _ _ => ?_) ?_ | with_reducible refine foldl2_clock_Core' (fun _ _ => ?_) ?_ | with_reducible refine foldl3_clock_Core' (fun _ _ => ?_) ?_ | simp only [↓Core.biEvent_clock, ↓Core.setFld_clock, ↓Core.wr_clock, ↓Pkg.biShow_clock, ↓Pkg.dieBack_clock, ↓Pkg.endTest_clock, ↓Pkg.fenceSpare_clock, ↓Pkg.setTest_clock, ↓Pkg.unfence_clock, ↓Core.clock_eta, ↓Core.clock_mk, ↓Clus.clock_mk, ↓Clus.core_clock, ↓Clus.onCore_clock, ↓Pkg.clock_mk, ↓Pkg.cl_clock, ↓Pkg.onCore_clock] | with_reducible refine of_eq_clock_Pkg ‹_› ?_ | with_reducible refine of_eq1_clock_Pkg ‹_› ?_ | with_reducible refine of_eq_clock_Clus ‹_› ?_ | with_reducible refine of_eq1_clock_Clus ‹_› ?_ | with_reducible refine of_eq_clock_Core ‹_› ?_ | with_reducible refine of_eq1_clock_Core ‹_› ?_ | split | dsimp only)

theorem Pkg.snoopAnswer_clock (k a1 a2) : (Pkg.snoopAnswer k a1 a2).clock = k.clock := by
  unfold Pkg.snoopAnswer
  repeat' (first | (simp only [↓Clus.core_clock, ↓Pkg.cl_clock, ↓Core.setFld_clock, ↓Pkg.dpaWrite_clock, ↓Pkg.lineResume_clock, ↓Pkg.onAtt_clock, ↓Pkg.onCore_clock, ↓Pkg.readPacket_clock, ↓Pkg.setDir_clock, ↓Pkg.writePacket_clock, apply_ite Pkg.clock, ite_self]; done) | with_reducible refine ite_clock_Pkg ?_ ?_ | split)

theorem Pkg.snooped_clock (k a1 a2) : (Pkg.snooped k a1 a2).clock = k.clock := by
  unfold Pkg.snooped
  repeat' (first | (simp only [↓Pkg.onAtt_clock, ↓Pkg.salSend_clock, apply_ite Pkg.clock, ite_self]; done) | with_reducible refine ite_clock_Pkg ?_ ?_ | split | dsimp only)

theorem Pkg.snpTimeout_clock (k a1) : (Pkg.snpTimeout k a1).clock = k.clock := by
  unfold Pkg.snpTimeout
  repeat' (first | (simp only [↓Clus.core_clock, ↓Pkg.cl_clock, ↓Core.record_clock, ↓Pkg.inject_clock, ↓Pkg.lineResume_clock, ↓Pkg.onAtt_clock, ↓Pkg.onCore_clock, ↓Pkg.setWhy_clock, apply_ite Pkg.clock, ite_self]; done) | with_reducible refine ite_clock_Pkg ?_ ?_ | split)

theorem Pkg.spdm_clock (k a1) (a2 : Pkg → Pkg) (h2 : ∀ x0, (a2 x0).clock = x0.clock) :
    (Pkg.spdm k a1 a2).clock = k.clock := by
  unfold Pkg.spdm
  repeat' (first | with_reducible rfl | (simp only [↓Core.clock_eta, ↓Core.clock_mk, ↓Clus.clock_mk, ↓Clus.core_clock, ↓Pkg.clock_mk, ↓Pkg.cl_clock, h2, ↓foldl_clock_Core, ↓iter_clock_Core, ↓foldl_clock_Clus, ↓iter_clock_Clus, ↓foldl_clock_Pkg, ↓iter_clock_Pkg, implies_true, apply_ite Pkg.clock, ite_self]; done) | with_reducible refine ite_clock_Pkg ?_ ?_ | with_reducible refine foldl_clock_Pkg' (fun _ _ => ?_) ?_ | with_reducible refine iter_clock_Pkg' (fun _ _ => ?_) ?_ | with_reducible refine foldl2_clock_Pkg' (fun _ _ => ?_) ?_ | with_reducible refine foldl3_clock_Pkg' (fun _ _ => ?_) ?_ | with_reducible refine ite_clock_Clus ?_ ?_ | with_reducible refine foldl_clock_Clus' (fun _ _ => ?_) ?_ | with_reducible refine iter_clock_Clus' (fun _ _ => ?_) ?_ | with_reducible refine foldl2_clock_Clus' (fun _ _ => ?_) ?_ | with_reducible refine foldl3_clock_Clus' (fun _ _ => ?_) ?_ | with_reducible refine ite_clock_Core ?_ ?_ | with_reducible refine foldl_clock_Core' (fun _ _ => ?_) ?_ | with_reducible refine iter_clock_Core' (fun _ _ => ?_) ?_ | with_reducible refine foldl2_clock_Core' (fun _ _ => ?_) ?_ | with_reducible refine foldl3_clock_Core' (fun _ _ => ?_) ?_ | simp only [↓Core.clock_eta, ↓Core.clock_mk, ↓Clus.clock_mk, ↓Clus.core_clock, ↓Pkg.clock_mk, ↓Pkg.cl_clock, h2] | with_reducible refine of_eq_clock_Pkg ‹_› ?_ | with_reducible refine of_eq1_clock_Pkg ‹_› ?_ | with_reducible refine of_eq_clock_Clus ‹_› ?_ | with_reducible refine of_eq1_clock_Clus ‹_› ?_ | with_reducible refine of_eq_clock_Core ‹_› ?_ | with_reducible refine of_eq1_clock_Core ‹_› ?_ | split | dsimp only)

theorem Pkg.spdmAnswer_clock (k a1 a2 a3 a4 a5 a6) : (Pkg.spdmAnswer k a1 a2 a3 a4 a5 a6).clock = k.clock := by
  unfold Pkg.spdmAnswer
  repeat' (first | (simp only [↓Pkg.cwWr_clock, ↓Pkg.onSec_clock, ↓foldl_clock_Pkg, implies_true]; done) | with_reducible refine ite_clock_Pkg ?_ ?_ | split)

theorem Pkg.spdmAlgs_clock (k a1 a2 a3) : (Pkg.spdmAlgs k a1 a2 a3).clock = k.clock := by
  unfold Pkg.spdmAlgs
  simp only [↓Pkg.spdm_clock, ↓Pkg.spdmAnswer_clock, implies_true]

theorem Pkg.spdmError_clock (k a1 a2) : (Pkg.spdmError k a1 a2).clock = k.clock := by
  unfold Pkg.spdmError
  simp only [↓Pkg.spdmAnswer_clock]

theorem Pkg.spdmCaps_clock (k a1 a2) : (Pkg.spdmCaps k a1 a2).clock = k.clock := by
  unfold Pkg.spdmCaps
  simp only [↓Pkg.onSec_clock, ↓Pkg.spdm_clock, ↓Pkg.spdmAnswer_clock, ↓Pkg.spdmError_clock, implies_true, apply_ite Pkg.clock, ite_self]

theorem Pkg.spdmCert_clock (k a1 a2 a3 a4) : (Pkg.spdmCert k a1 a2 a3 a4).clock = k.clock := by
  unfold Pkg.spdmCert
  simp only [↓Pkg.spdm_clock, ↓Pkg.spdmAnswer_clock, ↓Pkg.spdmError_clock, implies_true, apply_ite Pkg.clock, ite_self]

theorem Pkg.spdmChallenge_clock (k a1 a2 a3) : (Pkg.spdmChallenge k a1 a2 a3).clock = k.clock := by
  unfold Pkg.spdmChallenge
  simp only [↓Pkg.drawNonce_clock, ↓Pkg.spdm_clock, ↓Pkg.spdmAnswer_clock, ↓Pkg.spdmError_clock, implies_true, apply_ite Pkg.clock, ite_self]

theorem Pkg.spdmDigests_clock (k a1) : (Pkg.spdmDigests k a1).clock = k.clock := by
  unfold Pkg.spdmDigests
  simp only [↓Pkg.spdm_clock, ↓Pkg.spdmAnswer_clock, implies_true]

theorem Pkg.spdmMeas_clock (k a1 a2 a3 a4) : (Pkg.spdmMeas k a1 a2 a3 a4).clock = k.clock := by
  unfold Pkg.spdmMeas
  simp only [↓Pkg.drawNonce_clock, ↓Pkg.spdm_clock, ↓Pkg.spdmAnswer_clock, ↓Pkg.spdmError_clock, implies_true, apply_ite Pkg.clock, ite_self]

theorem Pkg.spdmVersion_clock (k a1) : (Pkg.spdmVersion k a1).clock = k.clock := by
  unfold Pkg.spdmVersion
  simp only [↓Pkg.onSec_clock, ↓Pkg.spdm_clock, ↓Pkg.spdmAnswer_clock, implies_true]

theorem Pkg.takeRecord_clock (k) : (Pkg.takeRecord k).clock = k.clock := by
  unfold Pkg.takeRecord
  simp only [↓Clus.core_clock, ↓Pkg.cl_clock, ↓Core.buEvent_clock, ↓Core.wr_clock, ↓Pkg.onBu_clock, ↓Pkg.onCore_clock, apply_ite Pkg.clock, ite_self]

theorem Pkg.startupEnd_clock (k a1 a2) : (Pkg.startupEnd k a1 a2).clock = k.clock := by
  unfold Pkg.startupEnd
  simp only [↓Clus.core_clock, ↓Pkg.cl_clock, ↓Core.buEvent_clock, ↓Core.stepEnd_clock, ↓Core.wr_clock, ↓Core.zero_clock, ↓Pkg.contraFence_clock, ↓Pkg.failed_clock, ↓Pkg.fenceBits_clock, ↓Pkg.fuseMap_clock, ↓Pkg.loadOn_clock, ↓Pkg.onCore_clock, ↓Pkg.placeService_clock, ↓Pkg.reconcile_clock, ↓Pkg.takeRecord_clock, ↓iter_clock_Pkg, ↓foldl_clock_Pkg, implies_true, apply_ite Pkg.clock, ite_self]

theorem Pkg.waveTimeout_clock (k a1) : (Pkg.waveTimeout k a1).clock = k.clock := by
  unfold Pkg.waveTimeout
  simp only [↓Pkg.quadHeld_clock, apply_ite Pkg.clock, ite_self]

theorem Pkg.stepLimitBu_clock (k a1) : (Pkg.stepLimitBu k a1).clock = k.clock := by
  unfold Pkg.stepLimitBu
  repeat' (first | (simp only [↓Clus.core_clock, ↓Pkg.cl_clock, ↓Core.buEvent_clock, ↓Pkg.fabricEnd_clock, ↓Pkg.failed_clock, ↓Pkg.hbTrain_clock, ↓Pkg.linkIdle_clock, ↓Pkg.onBu_clock, ↓Pkg.onCore_clock, ↓Pkg.setPc_clock, ↓Pkg.stepSevenEnd_clock, ↓Pkg.waveTimeout_clock, ↓foldl_clock_Pkg, implies_true, apply_ite Pkg.clock, ite_self]; done) | with_reducible refine ite_clock_Pkg ?_ ?_ | split)

theorem Pkg.stopAbort_clock (k a1) : (Pkg.stopAbort k a1).clock = k.clock := by
  unfold Pkg.stopAbort
  repeat' (first | (simp only [↓Pkg.stopApply_clock, apply_ite Pkg.clock, ite_self]; done) | with_reducible refine ite_clock_Pkg ?_ ?_ | split)

theorem Pkg.stopFrame_clock (k a1) : (Pkg.stopFrame k a1).clock = k.clock := by
  unfold Pkg.stopFrame
  repeat' (first | (simp only [↓Pkg.onFab_clock, ↓Pkg.sendGroup_clock, ↓Pkg.stopNote_clock, apply_ite Pkg.clock]; done) | with_reducible refine ite_clock_Pkg ?_ ?_ | split)

theorem Pkg.storeOp_clock (k a1 a2 a3 a4) : (Pkg.storeOp k a1 a2 a3 a4).clock = k.clock := by
  unfold Pkg.storeOp
  repeat' (first | (simp only [↓Pkg.runOp_clock, apply_ite Pkg.clock, ite_self]; done) | with_reducible refine ite_clock_Pkg ?_ ?_ | split | dsimp only)

theorem Pkg.freeFrame_clock (k a1 a2) : (Pkg.freeFrame k a1 a2).clock = k.clock := by
  unfold Pkg.freeFrame
  repeat' (first | with_reducible rfl | (simp only [↓Pkg.setLink_clock, ↓Core.clock_eta, ↓Core.clock_mk, ↓Clus.clock_mk, ↓Clus.core_clock, ↓Pkg.clock_mk, ↓Pkg.cl_clock, ↓foldl_clock_Core, ↓iter_clock_Core, ↓foldl_clock_Clus, ↓iter_clock_Clus, ↓foldl_clock_Pkg, ↓iter_clock_Pkg, implies_true, apply_ite Pkg.clock, ite_self]; done) | with_reducible refine ite_clock_Pkg ?_ ?_ | with_reducible refine foldl_clock_Pkg' (fun _ _ => ?_) ?_ | with_reducible refine iter_clock_Pkg' (fun _ _ => ?_) ?_ | with_reducible refine foldl2_clock_Pkg' (fun _ _ => ?_) ?_ | with_reducible refine foldl3_clock_Pkg' (fun _ _ => ?_) ?_ | with_reducible refine ite_clock_Clus ?_ ?_ | with_reducible refine foldl_clock_Clus' (fun _ _ => ?_) ?_ | with_reducible refine iter_clock_Clus' (fun _ _ => ?_) ?_ | with_reducible refine foldl2_clock_Clus' (fun _ _ => ?_) ?_ | with_reducible refine foldl3_clock_Clus' (fun _ _ => ?_) ?_ | with_reducible refine ite_clock_Core ?_ ?_ | with_reducible refine foldl_clock_Core' (fun _ _ => ?_) ?_ | with_reducible refine iter_clock_Core' (fun _ _ => ?_) ?_ | with_reducible refine foldl2_clock_Core' (fun _ _ => ?_) ?_ | with_reducible refine foldl3_clock_Core' (fun _ _ => ?_) ?_ | simp only [↓Pkg.setLink_clock, ↓Core.clock_eta, ↓Core.clock_mk, ↓Clus.clock_mk, ↓Clus.core_clock, ↓Pkg.clock_mk, ↓Pkg.cl_clock] | with_reducible refine of_eq_clock_Pkg ‹_› ?_ | with_reducible refine of_eq1_clock_Pkg ‹_› ?_ | with_reducible refine of_eq_clock_Clus ‹_› ?_ | with_reducible refine of_eq1_clock_Clus ‹_› ?_ | with_reducible refine of_eq_clock_Core ‹_› ?_ | with_reducible refine of_eq1_clock_Core ‹_› ?_ | split | dsimp only)

theorem Pkg.takeFrame_clock (k a1 a2) (a3 : Pkg → Pkg) (h3 : ∀ x0, (a3 x0).clock = x0.clock) :
    (Pkg.takeFrame k a1 a2 a3).clock = k.clock := by
  unfold Pkg.takeFrame
  repeat' (first | with_reducible rfl | (simp only [↓Pkg.freeFrame_clock, ↓Pkg.refuse_clock, ↓Core.clock_eta, ↓Core.clock_mk, ↓Clus.clock_mk, ↓Clus.core_clock, ↓Pkg.clock_mk, ↓Pkg.cl_clock, ↓Pkg.onFab_clock, h3, ↓foldl_clock_Core, ↓iter_clock_Core, ↓foldl_clock_Clus, ↓iter_clock_Clus, ↓foldl_clock_Pkg, ↓iter_clock_Pkg, implies_true, apply_ite Pkg.clock, ite_self]; done) | with_reducible refine ite_clock_Pkg ?_ ?_ | with_reducible refine foldl_clock_Pkg' (fun _ _ => ?_) ?_ | with_reducible refine iter_clock_Pkg' (fun _ _ => ?_) ?_ | with_reducible refine foldl2_clock_Pkg' (fun _ _ => ?_) ?_ | with_reducible refine foldl3_clock_Pkg' (fun _ _ => ?_) ?_ | with_reducible refine ite_clock_Clus ?_ ?_ | with_reducible refine foldl_clock_Clus' (fun _ _ => ?_) ?_ | with_reducible refine iter_clock_Clus' (fun _ _ => ?_) ?_ | with_reducible refine foldl2_clock_Clus' (fun _ _ => ?_) ?_ | with_reducible refine foldl3_clock_Clus' (fun _ _ => ?_) ?_ | with_reducible refine ite_clock_Core ?_ ?_ | with_reducible refine foldl_clock_Core' (fun _ _ => ?_) ?_ | with_reducible refine iter_clock_Core' (fun _ _ => ?_) ?_ | with_reducible refine foldl2_clock_Core' (fun _ _ => ?_) ?_ | with_reducible refine foldl3_clock_Core' (fun _ _ => ?_) ?_ | simp only [↓Pkg.freeFrame_clock, ↓Pkg.refuse_clock, ↓Core.clock_eta, ↓Core.clock_mk, ↓Clus.clock_mk, ↓Clus.core_clock, ↓Pkg.clock_mk, ↓Pkg.cl_clock, ↓Pkg.onFab_clock, h3] | with_reducible refine of_eq_clock_Pkg ‹_› ?_ | with_reducible refine of_eq1_clock_Pkg ‹_› ?_ | with_reducible refine of_eq_clock_Clus ‹_› ?_ | with_reducible refine of_eq1_clock_Clus ‹_› ?_ | with_reducible refine of_eq_clock_Core ‹_› ?_ | with_reducible refine of_eq1_clock_Core ‹_› ?_ | split | dsimp only)

theorem Pkg.takeoverAnn_clock (k a1 a2) : (Pkg.takeoverAnn k a1 a2).clock = k.clock := by
  unfold Pkg.takeoverAnn
  simp only [↓Clus.core_clock, ↓Pkg.cl_clock, ↓Core.setFld_clock, ↓Core.wr8_clock, ↓Pkg.onCore_clock, ↓Pkg.onFab_clock, apply_ite Pkg.clock, ite_self]

theorem Pkg.testSlice_clock (k a1 a2 a3) : (Pkg.testSlice k a1 a2 a3).clock = k.clock := by
  unfold Pkg.testSlice
  simp only [↓Pkg.diagPoll_clock, ↓Pkg.sliceEnd_clock, apply_ite Pkg.clock, ite_self]

theorem Pkg.thermStep_clock (k a1 a2 a3) : (Pkg.thermStep k a1 a2 a3).clock = k.clock := by
  unfold Pkg.thermStep
  repeat' (first | with_reducible rfl | (simp only [↓Core.incSat_clock, ↓Core.pendClock_clock, ↓Core.setFld_clock, ↓Pkg.loadThrottled_clock, ↓Pkg.pwEvent_clock, ↓Pkg.rebook_clock, ↓Core.clock_eta, ↓Core.clock_mk, ↓Clus.clock_mk, ↓Clus.core_clock, ↓Clus.onCore_clock, ↓Pkg.clock_mk, ↓Pkg.cl_clock, ↓Pkg.onCore_clock, ↓Pkg.onPw_clock, ↓foldl_clock_Core, ↓iter_clock_Core, ↓foldl_clock_Clus, ↓iter_clock_Clus, ↓foldl_clock_Pkg, ↓iter_clock_Pkg, implies_true, apply_ite Pkg.clock, ite_self]; done) | with_reducible refine ite_clock_Pkg ?_ ?_ | with_reducible refine foldl_clock_Pkg' (fun _ _ => ?_) ?_ | with_reducible refine iter_clock_Pkg' (fun _ _ => ?_) ?_ | with_reducible refine foldl2_clock_Pkg' (fun _ _ => ?_) ?_ | with_reducible refine foldl3_clock_Pkg' (fun _ _ => ?_) ?_ | with_reducible refine ite_clock_Clus ?_ ?_ | with_reducible refine foldl_clock_Clus' (fun _ _ => ?_) ?_ | with_reducible refine iter_clock_Clus' (fun _ _ => ?_) ?_ | with_reducible refine foldl2_clock_Clus' (fun _ _ => ?_) ?_ | with_reducible refine foldl3_clock_Clus' (fun _ _ => ?_) ?_ | with_reducible refine ite_clock_Core ?_ ?_ | with_reducible refine foldl_clock_Core' (fun _ _ => ?_) ?_ | with_reducible refine iter_clock_Core' (fun _ _ => ?_) ?_ | with_reducible refine foldl2_clock_Core' (fun _ _ => ?_) ?_ | with_reducible refine foldl3_clock_Core' (fun _ _ => ?_) ?_ | simp only [↓Core.incSat_clock, ↓Core.pendClock_clock, ↓Core.setFld_clock, ↓Pkg.loadThrottled_clock, ↓Pkg.pwEvent_clock, ↓Pkg.rebook_clock, ↓Core.clock_eta, ↓Core.clock_mk, ↓Clus.clock_mk, ↓Clus.core_clock, ↓Clus.onCore_clock, ↓Pkg.clock_mk, ↓Pkg.cl_clock, ↓Pkg.onCore_clock, ↓Pkg.onPw_clock] | with_reducible refine of_eq_clock_Pkg ‹_› ?_ | with_reducible refine of_eq1_clock_Pkg ‹_› ?_ | with_reducible refine of_eq_clock_Clus ‹_› ?_ | with_reducible refine of_eq1_clock_Clus ‹_› ?_ | with_reducible refine of_eq_clock_Core ‹_› ?_ | with_reducible refine of_eq1_clock_Core ‹_› ?_ | split | dsimp only)

theorem Pkg.thermalLoop_clock (k a1 a2) : (Pkg.thermalLoop k a1 a2).clock = k.clock := by
  unfold Pkg.thermalLoop
  repeat' (first | (simp only [↓Clus.core_clock, ↓Pkg.cl_clock, ↓Core.wr_clock, ↓Pkg.onCore_clock, ↓Pkg.sensorCheck_clock, ↓Pkg.thermStep_clock]; done) | with_reducible refine ite_clock_Pkg ?_ ?_ | split | dsimp only)

theorem Pkg.thermtrip_clock (k a1 a2) : (Pkg.thermtrip k a1 a2).clock = k.clock := by
  unfold Pkg.thermtrip
  simp only [↓Pkg.faultOut_clock, ↓Pkg.onPw_clock, ↓Pkg.pwEvent_clock, ↓Pkg.railsOff_clock]

theorem Pkg.timeReq_clock (k a1 a2) : (Pkg.timeReq k a1 a2).clock = k.clock := by
  unfold Pkg.timeReq
  simp only [↓Pkg.sendPeer_clock, apply_ite Pkg.clock, ite_self]

theorem Pkg.timeReqTimer_clock (k) : (Pkg.timeReqTimer k).clock = k.clock := by
  unfold Pkg.timeReqTimer
  repeat' (first | (simp only [↓Pkg.onFab_clock, ↓Pkg.sendPeer_clock]; done) | with_reducible refine ite_clock_Pkg ?_ ?_ | split | dsimp only)

theorem Pkg.trainWord_clock (k a1 a2) : (Pkg.trainWord k a1 a2).clock = k.clock := by
  unfold Pkg.trainWord
  simp only [↓Pkg.setLink_clock, apply_ite Pkg.clock, ite_self]

theorem Pkg.transfer_clock (k a1 a2 a3 a4) : (Pkg.transfer k a1 a2 a3 a4).clock = k.clock := by
  unfold Pkg.transfer
  repeat' (first | with_reducible rfl | (simp only [↓Core.wrs_clock, ↓Pkg.descEvent_clock, ↓Pkg.killRun_clock, ↓Pkg.pump_clock, ↓Pkg.setDma_clock, ↓Core.clock_eta, ↓Core.clock_mk, ↓Clus.clock_mk, ↓Clus.core_clock, ↓Clus.onCore_clock, ↓Pkg.clock_mk, ↓Pkg.cl_clock, ↓Pkg.onCore_clock, ↓foldl_clock_Core, ↓iter_clock_Core, ↓foldl_clock_Clus, ↓iter_clock_Clus, ↓foldl_clock_Pkg, ↓iter_clock_Pkg, implies_true, apply_ite Pkg.clock, ite_self]; done) | with_reducible refine ite_clock_Pkg ?_ ?_ | with_reducible refine foldl_clock_Pkg' (fun _ _ => ?_) ?_ | with_reducible refine iter_clock_Pkg' (fun _ _ => ?_) ?_ | with_reducible refine foldl2_clock_Pkg' (fun _ _ => ?_) ?_ | with_reducible refine foldl3_clock_Pkg' (fun _ _ => ?_) ?_ | with_reducible refine ite_clock_Clus ?_ ?_ | with_reducible refine foldl_clock_Clus' (fun _ _ => ?_) ?_ | with_reducible refine iter_clock_Clus' (fun _ _ => ?_) ?_ | with_reducible refine foldl2_clock_Clus' (fun _ _ => ?_) ?_ | with_reducible refine foldl3_clock_Clus' (fun _ _ => ?_) ?_ | with_reducible refine ite_clock_Core ?_ ?_ | with_reducible refine foldl_clock_Core' (fun _ _ => ?_) ?_ | with_reducible refine iter_clock_Core' (fun _ _ => ?_) ?_ | with_reducible refine foldl2_clock_Core' (fun _ _ => ?_) ?_ | with_reducible refine foldl3_clock_Core' (fun _ _ => ?_) ?_ | simp only [↓Core.wrs_clock, ↓Pkg.descEvent_clock, ↓Pkg.killRun_clock, ↓Pkg.pump_clock, ↓Pkg.setDma_clock, ↓Core.clock_eta, ↓Core.clock_mk, ↓Clus.clock_mk, ↓Clus.core_clock, ↓Clus.onCore_clock, ↓Pkg.clock_mk, ↓Pkg.cl_clock, ↓Pkg.onCore_clock] | with_reducible refine of_eq_clock_Pkg ‹_› ?_ | with_reducible refine of_eq1_clock_Pkg ‹_› ?_ | with_reducible refine of_eq_clock_Clus ‹_› ?_ | with_reducible refine of_eq1_clock_Clus ‹_› ?_ | with_reducible refine of_eq_clock_Core ‹_› ?_ | with_reducible refine of_eq1_clock_Core ‹_› ?_ | split | dsimp only)

theorem Pkg.trngFail_clock (k) : (Pkg.trngFail k).clock = k.clock := by
  unfold Pkg.trngFail
  simp only [↓Clus.core_clock, ↓Pkg.cl_clock, ↓Core.setFld_clock, ↓Pkg.onCore_clock, ↓Pkg.secEvent_clock, apply_ite Pkg.clock, ite_self]

theorem Pkg.ttProgress_clock (k a1) : (Pkg.ttProgress k a1).clock = k.clock := by
  unfold Pkg.ttProgress
  simp only [↓Clus.core_clock, ↓Pkg.cl_clock, ↓Core.fwEvent_clock, ↓Pkg.dieRelief_clock, ↓Pkg.onCore_clock, apply_ite Pkg.clock, ite_self]

theorem Pkg.turnChange_clock (k a1 a2) : (Pkg.turnChange k a1 a2).clock = k.clock := by
  unfold Pkg.turnChange
  repeat' (first | (simp only [↓Clus.circSuspend_clock, ↓Pkg.eachCirc_clock, ↓Pkg.setJob_clock, ↓Pkg.turnBegin_clock, implies_true, apply_ite Pkg.clock, ite_self]; done) | with_reducible refine ite_clock_Pkg ?_ ?_ | split)

theorem Pkg.vauxRise_clock (k) : (Pkg.vauxRise k).clock = k.clock := by
  unfold Pkg.vauxRise
  simp only [↓Clus.core_clock, ↓Pkg.cl_clock, ↓Core.setFld_clock, ↓Pkg.onCore_clock, ↓Pkg.onPw_clock, ↓Pkg.railStart_clock, apply_ite Pkg.clock, ite_self]

theorem Pkg.wakeEnd_clock (k) : (Pkg.wakeEnd k).clock = k.clock := by
  unfold Pkg.wakeEnd
  repeat' (first | (simp only [↓Clus.core_clock, ↓Pkg.cl_clock, ↓Core.setLimits_clock, ↓Core.validDies_clock, ↓Pkg.cmdEnd_clock, ↓Pkg.enterFull_clock, ↓Pkg.fenceBits_clock, ↓Pkg.onCore_clock, ↓Pkg.onPw_clock, ↓Pkg.placeService_clock, ↓Pkg.resetBegin_clock, ↓Pkg.salWide_clock, ↓Pkg.setDevState_clock, ↓Pkg.startDetect_clock, ↓Pkg.stateEvent_clock, ↓foldl_clock_Pkg, implies_true, apply_ite Pkg.clock, ite_self]; done) | with_reducible refine ite_clock_Pkg ?_ ?_ | split | dsimp only)

theorem Pkg.wakeFail_clock (k) : (Pkg.wakeFail k).clock = k.clock := by
  unfold Pkg.wakeFail
  repeat' (first | (simp only [↓Pkg.cmdEnd_clock, ↓Pkg.onPw_clock, ↓Pkg.pwEvent_clock, ↓Pkg.resetBegin_clock, ↓Pkg.setDevState_clock, apply_ite Pkg.clock, ite_self]; done) | with_reducible refine ite_clock_Pkg ?_ ?_ | split | dsimp only)

theorem Pkg.wakeStep_clock (k) : (Pkg.wakeStep k).clock = k.clock := by
  unfold Pkg.wakeStep
  repeat' (first | (simp only [↓Clus.core_clock, ↓Pkg.cl_clock, ↓Core.railGood_clock, ↓Core.railUp_clock, ↓Core.setFld_clock, ↓Core.wrs_clock, ↓Pkg.onCore_clock, ↓Pkg.onHbm_clock, ↓Pkg.onPw_clock, ↓Pkg.wakeEnd_clock, ↓foldl_clock_Pkg, ↓foldl_clock_Core, implies_true]; done) | with_reducible refine ite_clock_Pkg ?_ ?_ | split)

theorem Pkg.winDeny_clock (k a1 a2 a3) : (Pkg.winDeny k a1 a2 a3).clock = k.clock := by
  unfold Pkg.winDeny
  repeat' (first | with_reducible rfl | (simp only [↓Core.record_clock, ↓Pkg.hbEvent_clock, ↓Pkg.probe_clock, ↓Pkg.refuse_clock, ↓Core.clock_eta, ↓Core.clock_mk, ↓Clus.clock_mk, ↓Clus.core_clock, ↓Clus.onCore_clock, ↓Pkg.clock_mk, ↓Pkg.cl_clock, ↓Pkg.onCore_clock, ↓foldl_clock_Core, ↓iter_clock_Core, ↓foldl_clock_Clus, ↓iter_clock_Clus, ↓foldl_clock_Pkg, ↓iter_clock_Pkg, implies_true, apply_ite Pkg.clock, ite_self]; done) | with_reducible refine ite_clock_Pkg ?_ ?_ | with_reducible refine foldl_clock_Pkg' (fun _ _ => ?_) ?_ | with_reducible refine iter_clock_Pkg' (fun _ _ => ?_) ?_ | with_reducible refine foldl2_clock_Pkg' (fun _ _ => ?_) ?_ | with_reducible refine foldl3_clock_Pkg' (fun _ _ => ?_) ?_ | with_reducible refine ite_clock_Clus ?_ ?_ | with_reducible refine foldl_clock_Clus' (fun _ _ => ?_) ?_ | with_reducible refine iter_clock_Clus' (fun _ _ => ?_) ?_ | with_reducible refine foldl2_clock_Clus' (fun _ _ => ?_) ?_ | with_reducible refine foldl3_clock_Clus' (fun _ _ => ?_) ?_ | with_reducible refine ite_clock_Core ?_ ?_ | with_reducible refine foldl_clock_Core' (fun _ _ => ?_) ?_ | with_reducible refine iter_clock_Core' (fun _ _ => ?_) ?_ | with_reducible refine foldl2_clock_Core' (fun _ _ => ?_) ?_ | with_reducible refine foldl3_clock_Core' (fun _ _ => ?_) ?_ | simp only [↓Core.record_clock, ↓Pkg.hbEvent_clock, ↓Pkg.probe_clock, ↓Pkg.refuse_clock, ↓Core.clock_eta, ↓Core.clock_mk, ↓Clus.clock_mk, ↓Clus.core_clock, ↓Clus.onCore_clock, ↓Pkg.clock_mk, ↓Pkg.cl_clock, ↓Pkg.onCore_clock] | with_reducible refine of_eq_clock_Pkg ‹_› ?_ | with_reducible refine of_eq1_clock_Pkg ‹_› ?_ | with_reducible refine of_eq_clock_Clus ‹_› ?_ | with_reducible refine of_eq1_clock_Clus ‹_› ?_ | with_reducible refine of_eq_clock_Core ‹_› ?_ | with_reducible refine of_eq1_clock_Core ‹_› ?_ | split | dsimp only)

theorem Pkg.window_clock (k a1 a2 a3) : (Pkg.window k a1 a2 a3).clock = k.clock := by
  unfold Pkg.window
  repeat' (first | (simp only [↓Pkg.inject_clock, ↓Pkg.onFab_clock, ↓Pkg.refuse_clock, ↓Pkg.winDeny_clock, ↓foldl_clock_Pkg, implies_true, apply_ite Pkg.clock]; done) | with_reducible refine ite_clock_Pkg ?_ ?_ | split)

theorem Pkg.windowAnswer_clock (k a1 a2) : (Pkg.windowAnswer k a1 a2).clock = k.clock := by
  unfold Pkg.windowAnswer
  repeat' (first | (simp only [↓Pkg.onFab_clock, ↓Pkg.pump_clock, ↓Pkg.pushData_clock, ↓Pkg.setDma_clock, apply_ite Pkg.clock, ite_self]; done) | with_reducible refine ite_clock_Pkg ?_ ?_ | split | dsimp only)

theorem scratch_clock (k a1 a2) : (scratch k a1 a2).clock = k.clock := by
  unfold scratch
  simp only [↓Core.wr_clock, ↓Core.wrs_clock, ↓foldl_clock_Core, implies_true, apply_ite Core.clock, ite_self]

theorem Core.sigRetry_clock (k a1) : (Core.sigRetry k a1).clock = k.clock := by
  unfold Core.sigRetry
  repeat' (first | with_reducible rfl | (simp only [↓Core.incSat_clock, ↓Core.clock_eta, ↓Core.clock_mk, ↓foldl_clock_Core, ↓iter_clock_Core, implies_true, apply_ite Core.clock, ite_self]; done) | with_reducible refine ite_clock_Core ?_ ?_ | with_reducible refine foldl_clock_Core' (fun _ _ => ?_) ?_ | with_reducible refine iter_clock_Core' (fun _ _ => ?_) ?_ | with_reducible refine foldl2_clock_Core' (fun _ _ => ?_) ?_ | with_reducible refine foldl3_clock_Core' (fun _ _ => ?_) ?_ | simp only [↓Core.incSat_clock, ↓Core.clock_eta, ↓Core.clock_mk] | with_reducible refine of_eq_clock_Core ‹_› ?_ | with_reducible refine of_eq1_clock_Core ‹_› ?_ | split | dsimp only)

theorem Pkg.heldSend_clock (k) : (Pkg.heldSend k).clock = k.clock := by
  unfold Pkg.heldSend
  repeat' (first | with_reducible rfl | (simp only [↓Pkg.loseTxn_clock, ↓Pkg.sendTo_clock, ↓Core.clock_eta, ↓Core.clock_mk, ↓Clus.clock_mk, ↓Clus.core_clock, ↓Pkg.clock_mk, ↓Pkg.cl_clock, ↓Pkg.onFab_clock, ↓foldl_clock_Core, ↓iter_clock_Core, ↓foldl_clock_Clus, ↓iter_clock_Clus, ↓foldl_clock_Pkg, ↓iter_clock_Pkg, implies_true, apply_ite Pkg.clock, ite_self, apply_ite Prod.fst, apply_ite Prod.snd]; done) | with_reducible refine ite_clock_Pkg ?_ ?_ | with_reducible refine foldl_clock_Pkg' (fun _ _ => ?_) ?_ | with_reducible refine iter_clock_Pkg' (fun _ _ => ?_) ?_ | with_reducible refine foldl2_clock_Pkg' (fun _ _ => ?_) ?_ | with_reducible refine foldl3_clock_Pkg' (fun _ _ => ?_) ?_ | with_reducible refine ite_clock_Clus ?_ ?_ | with_reducible refine foldl_clock_Clus' (fun _ _ => ?_) ?_ | with_reducible refine iter_clock_Clus' (fun _ _ => ?_) ?_ | with_reducible refine foldl2_clock_Clus' (fun _ _ => ?_) ?_ | with_reducible refine foldl3_clock_Clus' (fun _ _ => ?_) ?_ | with_reducible refine ite_clock_Core ?_ ?_ | with_reducible refine foldl_clock_Core' (fun _ _ => ?_) ?_ | with_reducible refine iter_clock_Core' (fun _ _ => ?_) ?_ | with_reducible refine foldl2_clock_Core' (fun _ _ => ?_) ?_ | with_reducible refine foldl3_clock_Core' (fun _ _ => ?_) ?_ | simp only [↓Pkg.loseTxn_clock, ↓Pkg.sendTo_clock, ↓Core.clock_eta, ↓Core.clock_mk, ↓Clus.clock_mk, ↓Clus.core_clock, ↓Pkg.clock_mk, ↓Pkg.cl_clock, ↓Pkg.onFab_clock] | with_reducible refine of_eq_clock_Pkg ‹_› ?_ | with_reducible refine of_eq1_clock_Pkg ‹_› ?_ | with_reducible refine of_eq_clock_Clus ‹_› ?_ | with_reducible refine of_eq1_clock_Clus ‹_› ?_ | with_reducible refine of_eq_clock_Core ‹_› ?_ | with_reducible refine of_eq1_clock_Core ‹_› ?_ | split | dsimp only)

theorem Pkg.halfWidths_clock (k) : (Pkg.halfWidths k).clock = k.clock := by
  unfold Pkg.halfWidths
  repeat' (first | with_reducible rfl | (simp only [↓Core.clock_eta, ↓Core.clock_mk, ↓Clus.clock_mk, ↓Clus.core_clock, ↓Pkg.clock_mk, ↓Pkg.cl_clock, ↓Pkg.onNet_clock, ↓foldl_clock_Core, ↓iter_clock_Core, ↓foldl_clock_Clus, ↓iter_clock_Clus, ↓foldl_clock_Pkg, ↓iter_clock_Pkg, implies_true, apply_ite Pkg.clock, ite_self]; done) | with_reducible refine ite_clock_Pkg ?_ ?_ | with_reducible refine foldl_clock_Pkg' (fun _ _ => ?_) ?_ | with_reducible refine iter_clock_Pkg' (fun _ _ => ?_) ?_ | with_reducible refine foldl2_clock_Pkg' (fun _ _ => ?_) ?_ | with_reducible refine foldl3_clock_Pkg' (fun _ _ => ?_) ?_ | with_reducible refine ite_clock_Clus ?_ ?_ | with_reducible refine foldl_clock_Clus' (fun _ _ => ?_) ?_ | with_reducible refine iter_clock_Clus' (fun _ _ => ?_) ?_ | with_reducible refine foldl2_clock_Clus' (fun _ _ => ?_) ?_ | with_reducible refine foldl3_clock_Clus' (fun _ _ => ?_) ?_ | with_reducible refine ite_clock_Core ?_ ?_ | with_reducible refine foldl_clock_Core' (fun _ _ => ?_) ?_ | with_reducible refine iter_clock_Core' (fun _ _ => ?_) ?_ | with_reducible refine foldl2_clock_Core' (fun _ _ => ?_) ?_ | with_reducible refine foldl3_clock_Core' (fun _ _ => ?_) ?_ | simp only [↓Core.clock_eta, ↓Core.clock_mk, ↓Clus.clock_mk, ↓Clus.core_clock, ↓Pkg.clock_mk, ↓Pkg.cl_clock, ↓Pkg.onNet_clock] | with_reducible refine of_eq_clock_Pkg ‹_› ?_ | with_reducible refine of_eq1_clock_Pkg ‹_› ?_ | with_reducible refine of_eq_clock_Clus ‹_› ?_ | with_reducible refine of_eq1_clock_Clus ‹_› ?_ | with_reducible refine of_eq_clock_Core ‹_› ?_ | with_reducible refine of_eq1_clock_Core ‹_› ?_ | split | dsimp only)

theorem Pkg.backoffEnd_clock (k) : (Pkg.backoffEnd k).clock = k.clock := by
  unfold Pkg.backoffEnd
  repeat' (first | with_reducible rfl | (simp only [↓Core.setFld_clock, ↓Core.clock_eta, ↓Core.clock_mk, ↓Clus.clock_mk, ↓Clus.core_clock, ↓Clus.onCore_clock, ↓Pkg.clock_mk, ↓Pkg.cl_clock, ↓Pkg.onCore_clock, ↓foldl_clock_Core, ↓iter_clock_Core, ↓foldl_clock_Clus, ↓iter_clock_Clus, ↓foldl_clock_Pkg, ↓iter_clock_Pkg, implies_true, apply_ite Pkg.clock, ite_self]; done) | with_reducible refine ite_clock_Pkg ?_ ?_ | with_reducible refine foldl_clock_Pkg' (fun _ _ => ?_) ?_ | with_reducible refine iter_clock_Pkg' (fun _ _ => ?_) ?_ | with_reducible refine foldl2_clock_Pkg' (fun _ _ => ?_) ?_ | with_reducible refine foldl3_clock_Pkg' (fun _ _ => ?_) ?_ | with_reducible refine ite_clock_Clus ?_ ?_ | with_reducible refine foldl_clock_Clus' (fun _ _ => ?_) ?_ | with_reducible refine iter_clock_Clus' (fun _ _ => ?_) ?_ | with_reducible refine foldl2_clock_Clus' (fun _ _ => ?_) ?_ | with_reducible refine foldl3_clock_Clus' (fun _ _ => ?_) ?_ | with_reducible refine ite_clock_Core ?_ ?_ | with_reducible refine foldl_clock_Core' (fun _ _ => ?_) ?_ | with_reducible refine iter_clock_Core' (fun _ _ => ?_) ?_ | with_reducible refine foldl2_clock_Core' (fun _ _ => ?_) ?_ | with_reducible refine foldl3_clock_Core' (fun _ _ => ?_) ?_ | simp only [↓Core.setFld_clock, ↓Core.clock_eta, ↓Core.clock_mk, ↓Clus.clock_mk, ↓Clus.core_clock, ↓Clus.onCore_clock, ↓Pkg.clock_mk, ↓Pkg.cl_clock, ↓Pkg.onCore_clock] | with_reducible refine of_eq_clock_Pkg ‹_› ?_ | with_reducible refine of_eq1_clock_Pkg ‹_› ?_ | with_reducible refine of_eq_clock_Clus ‹_› ?_ | with_reducible refine of_eq1_clock_Clus ‹_› ?_ | with_reducible refine of_eq_clock_Core ‹_› ?_ | with_reducible refine of_eq1_clock_Core ‹_› ?_ | split | dsimp only)

end Sys2Proof.Machine
end

