-- ==== Sys2Proof/Laws/Fixed.lean ====
section
/-!
SUPPORT. What no operation of the package's part changes: the fuses, the block on the fuse-secret path and whether the key
store holds the identity key (`Pkg.fixed`), one lemma per operation; and the few operations that do change one of them, with
what they keep (`Pkg.keeps`: R457, R462, R463, R465).
-/
namespace Sys2Proof.Machine

/-- The fuses, the block on the fuse-secret path, and the identity key. -/
def Pkg.fixed (k : Pkg) : FuseS × Bool × Bool := (k.bu.fuse, k.sec.blocked, k.sec.key)

theorem Pkg.fixed_mk (cl net hbm fab att jobs ckpts bi pw bu fw sec) : (Pkg.mk cl net hbm fab att jobs ckpts bi pw bu fw sec).fixed = (bu.fuse, sec.blocked, sec.key) := (rfl)

theorem Pkg.fixed_eta (k : Pkg) : (k.bu.fuse, k.sec.blocked, k.sec.key) = k.fixed := (rfl)

theorem Pkg.fixed_onClus (k : Pkg) (f) : (k.onClus f).fixed = k.fixed := (rfl)

theorem Pkg.fixed_onCore (k : Pkg) (f) : (k.onCore f).fixed = k.fixed := (rfl)

theorem Pkg.fixed_onBi (k : Pkg) (f) : (k.onBi f).fixed = k.fixed := (rfl)

theorem Pkg.fixed_onFab (k : Pkg) (f) : (k.onFab f).fixed = k.fixed := (rfl)

theorem Pkg.fixed_onAtt (k : Pkg) (f) : (k.onAtt f).fixed = k.fixed := (rfl)

theorem Pkg.fixed_onHbm (k : Pkg) (f) : (k.onHbm f).fixed = k.fixed := (rfl)

theorem Pkg.fixed_onPw (k : Pkg) (f) : (k.onPw f).fixed = k.fixed := (rfl)

theorem Pkg.fixed_onNet (k : Pkg) (f) : (k.onNet f).fixed = k.fixed := (rfl)

theorem Pkg.fixed_onFw (k : Pkg) (f) : (k.onFw f).fixed = k.fixed := (rfl)

theorem Pkg.fixed_onBu (k : Pkg) (f) (h : ∀ b, (f b).fuse = b.fuse) : (k.onBu f).fixed = k.fixed := by simp [Pkg.onBu, Pkg.fixed, h]

theorem Pkg.fixed_onSec (k : Pkg) (f) (h : ∀ b, (f b).blocked = b.blocked ∧ (f b).key = b.key) : (k.onSec f).fixed = k.fixed := by simp [Pkg.onSec, Pkg.fixed, h]

theorem fixed_iter (n : Nat) (f : Nat → Pkg → Pkg) (k : Pkg) (h : ∀ i x, (f i x).fixed = x.fixed) : (iter n f k).fixed = k.fixed := by
  induction n with
  | zero => rfl
  | succ n ih => simp [iter, h, ih]

theorem fixed_foldl {α : Type} (l : List α) (f : Pkg → α → Pkg) (k : Pkg) (h : ∀ x a, (f x a).fixed = x.fixed) : (l.foldl f k).fixed = k.fixed := by
  induction l generalizing k with
  | nil => rfl
  | cons a l ih => simp [h, ih]

theorem fixed_ite (c : Prop) [Decidable c] (a b : Pkg) (d) (h : a.fixed = d) (h' : b.fixed = d) : (if c then a else b).fixed = d := by split <;> assumption

theorem fixed_foldl2 {α β : Type} (l : List α) (f : Pkg × β → α → Pkg × β) (k : Pkg × β) (h : ∀ x a, (f x a).1.fixed = x.1.fixed) : (l.foldl f k).1.fixed = k.1.fixed := by
  induction l generalizing k with
  | nil => rfl
  | cons a l ih => simp [h, ih]

theorem fixed_foldl3 {α β : Type} (l : List α) (f : β × Pkg → α → β × Pkg) (k : β × Pkg) (h : ∀ x a, (f x a).2.fixed = x.2.fixed) : (l.foldl f k).2.fixed = k.2.fixed := by
  induction l generalizing k with
  | nil => rfl
  | cons a l ih => simp [h, ih]

theorem fixed_ite' {c : Prop} [Decidable c] {a b : Pkg} {d} (h : a.fixed = d) (h' : b.fixed = d) : (if c then a else b).fixed = d := by split <;> assumption

theorem fixed_foldl' {α : Type} {l : List α} {f : Pkg → α → Pkg} {k : Pkg} {d} (h : ∀ x a, (f x a).fixed = x.fixed) (h' : k.fixed = d) : (l.foldl f k).fixed = d := (fixed_foldl l f k h).trans h'

theorem fixed_iter' {n : Nat} {f : Nat → Pkg → Pkg} {k : Pkg} {d} (h : ∀ i x, (f i x).fixed = x.fixed) (h' : k.fixed = d) : (iter n f k).fixed = d := (fixed_iter n f k h).trans h'

theorem fixed_foldl2' {α β : Type} {l : List α} {f : Pkg × β → α → Pkg × β} {k : Pkg × β} {d} (h : ∀ x a, (f x a).1.fixed = x.1.fixed) (h' : k.1.fixed = d) : (l.foldl f k).1.fixed = d := (fixed_foldl2 l f k h).trans h'

theorem fixed_foldl3' {α β : Type} {l : List α} {f : β × Pkg → α → β × Pkg} {k : β × Pkg} {d} (h : ∀ x a, (f x a).2.fixed = x.2.fixed) (h' : k.2.fixed = d) : (l.foldl f k).2.fixed = d := (fixed_foldl3 l f k h).trans h'

theorem fixed_of_eq {β : Type} {p : β × Pkg} {a : β} {k : Pkg} {d} (h : p = (a, k)) (h' : p.2.fixed = d) : k.fixed = d := by subst h; exact h'

theorem fixed_of_eq1 {β : Type} {p : Pkg × β} {a : β} {k : Pkg} {d} (h : p = (k, a)) (h' : p.1.fixed = d) : k.fixed = d := by subst h; exact h'

theorem getD_fixed_Pkg {o : Option Pkg} {a : Pkg} {d} (h : ∀ x, o = some x → x.fixed = d) (h' : a.fixed = d) :
    (o.getD a).fixed = d := by
  cases o with
  | none => exact h'
  | some x => exact h x rfl

theorem Pkg.biShow_fixed (k : Pkg) (a1 : Nat) : (Pkg.biShow k a1).fixed = k.fixed := by
  unfold Pkg.biShow
  simp only [↓Pkg.fixed_onCore]

theorem Pkg.setMove_fixed (k : Pkg) (a1 : Nat) (a2 : Option Move) : (Pkg.setMove k a1 a2).fixed = k.fixed := by
  unfold Pkg.setMove
  simp only [↓Pkg.fixed_onBi]

theorem Pkg.abandon_fixed (k : Pkg) (a1 : Nat) (a2 : Nat) (a3 : Bool) : (Pkg.abandon k a1 a2 a3).fixed = k.fixed := by
  unfold Pkg.abandon
  (repeat' split) <;> simp only [↓Pkg.biShow_fixed, ↓Pkg.fixed_onCore, ↓Pkg.setMove_fixed]

theorem Pkg.consumeAct_fixed (k : Pkg) (a1 : Nat) (a2 : Nat) (a3 : Nat) (a4 : Nat) : ∀ x, Pkg.consumeAct k a1 a2 a3 a4 = some x → x.fixed = k.fixed := by
  intro x h
  unfold Pkg.consumeAct at h
  simp only at h
  split at h
  · cases h
  · split at h
    · cases h; rfl
    · cases h
      refine (fixed_foldl _ _ _ (fun x a => ?_)).trans ?_
      · split <;> simp only [↓Pkg.fixed_eta, ↓Pkg.fixed_mk]
      · rfl

theorem Pkg.act_fixed (k : Pkg) (a1 : Nat) (a2 : Nat) (a3 : SlotRun) (a4 : Nat) : (Pkg.act k a1 a2 a3 a4).2.fixed = k.fixed := by
  unfold Pkg.act
  repeat' (first | simp only [↓Pkg.fixed_eta, ↓Pkg.fixed_mk, ↓Pkg.fixed_onClus] | (refine (Pkg.consumeAct_fixed _ _ _ _ _ _ ‹_›).trans ?_) | split)

theorem Pkg.acts_fixed (k : Pkg) (a1 : Nat) (a2 : Nat) (a3 : SlotRun) : (Pkg.acts k a1 a2 a3).2.fixed = k.fixed := by
  unfold Pkg.acts
  repeat' (first | (simp only [↓Pkg.act_fixed]; done) | with_reducible refine fixed_foldl3' (fun _ _ => ?_) ?_ | split)

theorem Pkg.timeEvent_fixed (k : Pkg) (a1 : Nat) (a2 : Nat) (a3 : Nat) (a4 : Nat) (a5 : Nat) :
    (Pkg.timeEvent k a1 a2 a3 a4 a5).fixed = k.fixed := by
  unfold Pkg.timeEvent
  repeat' (first | with_reducible rfl | (simp only [↓Pkg.fixed_mk, ↓Pkg.fixed_eta, ↓Pkg.fixed_onCore, ↓fixed_foldl, ↓fixed_iter, implies_true, apply_ite Pkg.fixed, ite_self]; done) | with_reducible refine fixed_ite' ?_ ?_ | with_reducible refine fixed_foldl' (fun _ _ => ?_) ?_ | with_reducible refine fixed_iter' (fun _ _ => ?_) ?_ | with_reducible refine fixed_foldl2' (fun _ _ => ?_) ?_ | with_reducible refine fixed_foldl3' (fun _ _ => ?_) ?_ | with_reducible refine (Pkg.fixed_onBu _ _ (fun _ => rfl)).trans ?_ | with_reducible refine (Pkg.fixed_onSec _ _ (fun _ => ⟨rfl, rfl⟩)).trans ?_ | simp only [↓Pkg.fixed_mk, ↓Pkg.fixed_eta, ↓Pkg.fixed_onCore] | with_reducible refine fixed_of_eq ‹_› ?_ | with_reducible refine fixed_of_eq1 ‹_› ?_ | split | dsimp only)

theorem Pkg.adoptCount_fixed (k : Pkg) (a1 : Nat) (a2 : W64) : (Pkg.adoptCount k a1 a2).fixed = k.fixed := by
  unfold Pkg.adoptCount
  repeat' (first | with_reducible rfl | (simp only [↓Pkg.timeEvent_fixed, ↓Pkg.fixed_mk, ↓Pkg.fixed_eta, ↓Pkg.fixed_onCore, ↓Pkg.fixed_onFab, ↓fixed_foldl, ↓fixed_iter, implies_true, apply_ite Pkg.fixed, ite_self]; done) | with_reducible refine fixed_ite' ?_ ?_ | with_reducible refine fixed_foldl' (fun _ _ => ?_) ?_ | with_reducible refine fixed_iter' (fun _ _ => ?_) ?_ | with_reducible refine fixed_foldl2' (fun _ _ => ?_) ?_ | with_reducible refine fixed_foldl3' (fun _ _ => ?_) ?_ | with_reducible refine (Pkg.fixed_onBu _ _ (fun _ => rfl)).trans ?_ | with_reducible refine (Pkg.fixed_onSec _ _ (fun _ => ⟨rfl, rfl⟩)).trans ?_ | simp only [↓Pkg.timeEvent_fixed, ↓Pkg.fixed_mk, ↓Pkg.fixed_eta, ↓Pkg.fixed_onCore, ↓Pkg.fixed_onFab] | with_reducible refine fixed_of_eq ‹_› ?_ | with_reducible refine fixed_of_eq1 ‹_› ?_ | split | dsimp only)

theorem Pkg.setLink_fixed (k : Pkg) (a1 : Nat) (a2 : LinkS) : (Pkg.setLink k a1 a2).fixed = k.fixed := by
  unfold Pkg.setLink
  simp only [↓Pkg.fixed_eta, ↓Pkg.fixed_mk]

theorem Pkg.emit_fixed (k : Pkg) (a1 : Nat) (a2 : Frame) : (Pkg.emit k a1 a2).fixed = k.fixed := by
  unfold Pkg.emit
  simp only [↓Pkg.fixed_onCore, ↓Pkg.fixed_onFab, ↓Pkg.setLink_fixed, apply_ite Pkg.fixed, ite_self]

theorem Pkg.sendPeer_fixed (k : Pkg) (a1 : Nat) (a2 : Frame) : (Pkg.sendPeer k a1 a2).fixed = k.fixed := by
  unfold Pkg.sendPeer
  simp only [↓Pkg.emit_fixed]

theorem Pkg.advertise_fixed (k : Pkg) : (Pkg.advertise k).fixed = k.fixed := by
  unfold Pkg.advertise
  simp only [↓Pkg.sendPeer_fixed, ↓fixed_foldl, implies_true, apply_ite Pkg.fixed, ite_self]

theorem Pkg.alignWord_fixed (k : Pkg) (a1 : Nat) (a2 : AlignWord) : (Pkg.alignWord k a1 a2).fixed = k.fixed := by
  unfold Pkg.alignWord
  simp only [↓Pkg.setLink_fixed]

theorem Pkg.setStaged_fixed (k : Pkg) (a1 : Nat) (a2 : List CplRec) : (Pkg.setStaged k a1 a2).fixed = k.fixed := by
  unfold Pkg.setStaged
  simp only [↓Pkg.fixed_onAtt]

theorem Pkg.hostWrite_fixed (k : Pkg) (a1 : Nat) (a2 : List Byte) : (Pkg.hostWrite k a1 a2).fixed = k.fixed := by
  unfold Pkg.hostWrite
  simp only [↓Pkg.fixed_onAtt]

theorem Pkg.setRingS_fixed (k : Pkg) (a1 : Nat) (a2 : RingS) : (Pkg.setRingS k a1 a2).fixed = k.fixed := by
  unfold Pkg.setRingS
  simp only [↓Pkg.fixed_onAtt]

theorem Pkg.cqWrite_fixed (k : Pkg) (a1 : Nat) (a2 : CplRec) : (Pkg.cqWrite k a1 a2).fixed = k.fixed := by
  unfold Pkg.cqWrite
  simp only [↓Pkg.hostWrite_fixed, ↓Pkg.setRingS_fixed]

theorem Pkg.cqDrain_fixed (k : Pkg) (a1 : Nat) (a2 : Nat) : (Pkg.cqDrain k a1 a2).fixed = k.fixed := by
  induction a2 generalizing k with
  | zero => rfl
  | succ n ih =>
    unfold Pkg.cqDrain
    split
    · rfl
    · split
      · rw [ih, Pkg.cqWrite_fixed, Pkg.setStaged_fixed]
      · rfl

theorem Pkg.complete_fixed (k : Pkg) (a1 : Nat) (a2 : CplRec) : (Pkg.complete k a1 a2).fixed = k.fixed := by
  unfold Pkg.complete
  simp only [↓Pkg.cqDrain_fixed, ↓Pkg.setStaged_fixed]

theorem Pkg.cmdEnd_fixed (k : Pkg) (a1 : Nat) (a2 : Nat) (a3 : Nat) (a4 : W32) (a5 : Nat) (a6 : Nat) : (Pkg.cmdEnd k a1 a2 a3 a4 a5 a6).fixed = k.fixed := by
  unfold Pkg.cmdEnd
  simp only [↓Pkg.complete_fixed, ↓Pkg.fixed_onAtt]

theorem Pkg.cmdReject_fixed (k : Pkg) (a1 : Nat) (a2 : Nat) (a3 : Nat) (a4 : W32) (a5 : Nat) (a6 : Nat) :
    (Pkg.cmdReject k a1 a2 a3 a4 a5 a6).fixed = k.fixed := by
  unfold Pkg.cmdReject
  repeat' (first | with_reducible rfl | (simp only [↓Pkg.cmdEnd_fixed, ↓Pkg.fixed_mk, ↓Pkg.fixed_eta, ↓Pkg.fixed_onCore, ↓fixed_foldl, ↓fixed_iter, implies_true, apply_ite Pkg.fixed, ite_self]; done) | with_reducible refine fixed_ite' ?_ ?_ | with_reducible refine fixed_foldl' (fun _ _ => ?_) ?_ | with_reducible refine fixed_iter' (fun _ _ => ?_) ?_ | with_reducible refine fixed_foldl2' (fun _ _ => ?_) ?_ | with_reducible refine fixed_foldl3' (fun _ _ => ?_) ?_ | with_reducible refine (Pkg.fixed_onBu _ _ (fun _ => rfl)).trans ?_ | with_reducible refine (Pkg.fixed_onSec _ _ (fun _ => ⟨rfl, rfl⟩)).trans ?_ | simp only [↓Pkg.cmdEnd_fixed, ↓Pkg.fixed_mk, ↓Pkg.fixed_eta, ↓Pkg.fixed_onCore] | with_reducible refine fixed_of_eq ‹_› ?_ | with_reducible refine fixed_of_eq1 ‹_› ?_ | split | dsimp only)

theorem Pkg.jobCmd_fixed (k : Pkg) (a1 : Nat) (a2 : Nat) (a3 : W32) (a4 : List Nat) (a5 : List Nat) (a6 : Pkg → Pkg) (h6 : ∀ x0, (a6 x0).fixed = x0.fixed) : (Pkg.jobCmd k a1 a2 a3 a4 a5 a6).fixed = k.fixed := by
  unfold Pkg.jobCmd
  (repeat' split) <;> simp only [↓Pkg.cmdReject_fixed, h6]

theorem Pkg.segNew_fixed (k : Pkg) (a1 : Nat) (a2 : Nat) (a3 : Nat) (a4 : Nat) (a5 : Nat) (a6 : Nat) (a7 : Nat) : (Pkg.segNew k a1 a2 a3 a4 a5 a6 a7).fixed = k.fixed := by
  unfold Pkg.segNew
  simp only [↓Pkg.fixed_onCore]

theorem Pkg.allocate_fixed (k : Pkg) (a1 : Nat) (a2 : Nat) (a3 : Nat) (a4 : Nat) : ∀ x, Pkg.allocate k a1 a2 a3 a4 = some x → x.2.fixed = k.fixed := by
  intro x h
  unfold Pkg.allocate at h
  split at h
  · cases h; exact (rfl)
  · split at h
    · cases h; exact Pkg.segNew_fixed ..
    · cases h

theorem Pkg.setJob_fixed (k : Pkg) (a1 : Nat) (a2 : Option JobS) : (Pkg.setJob k a1 a2).fixed = k.fixed := by
  unfold Pkg.setJob
  simp only [↓Pkg.fixed_eta, ↓Pkg.fixed_mk]

theorem Pkg.onJob_fixed (k : Pkg) (a1 : Nat) (a2 : JobS → JobS) : (Pkg.onJob k a1 a2).fixed = k.fixed := by
  unfold Pkg.onJob
  (repeat' split) <;> simp only [↓Pkg.setJob_fixed]

theorem Pkg.alloc_fixed (k : Pkg) (a1 : Nat) (a2 : W32) (a3 : Nat) (a4 : Nat) (a5 : Nat) : (Pkg.alloc k a1 a2 a3 a4 a5).fixed = k.fixed := by
  unfold Pkg.alloc
  split
  · simp only [↓Pkg.fixed_eta, ↓Pkg.fixed_mk, ↓Pkg.allocate_fixed, ↓Pkg.cmdEnd_fixed, ↓Pkg.cmdReject_fixed, ↓Pkg.jobCmd_fixed, ↓Pkg.onJob_fixed, ↓fixed_foldl, implies_true, and_self, apply_ite Pkg.fixed, ite_self]
  · rw [Pkg.jobCmd_fixed]
    intro x
    split
    · simp only [↓Pkg.fixed_eta, ↓Pkg.fixed_mk, ↓Pkg.allocate_fixed, ↓Pkg.cmdEnd_fixed, ↓Pkg.cmdReject_fixed, ↓Pkg.jobCmd_fixed, ↓Pkg.onJob_fixed, ↓fixed_foldl, implies_true, and_self, apply_ite Pkg.fixed, ite_self]
    · split
      · simp only [↓Pkg.fixed_eta, ↓Pkg.fixed_mk, ↓Pkg.allocate_fixed, ↓Pkg.cmdEnd_fixed, ↓Pkg.cmdReject_fixed, ↓Pkg.jobCmd_fixed, ↓Pkg.onJob_fixed, ↓fixed_foldl, implies_true, and_self, apply_ite Pkg.fixed, ite_self]
      · next h => simp only [↓Pkg.fixed_eta, ↓Pkg.fixed_mk, ↓Pkg.allocate_fixed, ↓Pkg.cmdEnd_fixed, ↓Pkg.cmdReject_fixed, ↓Pkg.jobCmd_fixed, ↓Pkg.onJob_fixed, ↓fixed_foldl, implies_true, and_self, apply_ite Pkg.fixed, ite_self]; exact Pkg.allocate_fixed _ _ _ _ _ _ h

theorem Pkg.analogEvent_fixed (k : Pkg) (a1 : Nat) (a2 : Nat) (a3 : Nat) (a4 : Nat) : (Pkg.analogEvent k a1 a2 a3 a4).fixed = k.fixed := by
  unfold Pkg.analogEvent
  simp only [↓Pkg.fixed_onCore]

theorem Pkg.cwWr_fixed (k : Pkg) (a1 : Nat) (a2 : Nat) (a3 : W32) : (Pkg.cwWr k a1 a2 a3).fixed = k.fixed := by
  unfold Pkg.cwWr
  simp only [↓Pkg.fixed_onAtt]

theorem Pkg.setDevState_fixed (k : Pkg) (a1 : Nat) : (Pkg.setDevState k a1).fixed = k.fixed := by
  unfold Pkg.setDevState
  simp only [↓Pkg.cwWr_fixed]

theorem Pkg.preempt_fixed (k : Pkg) (a1 : Nat) : (Pkg.preempt k a1).fixed = k.fixed := by
  unfold Pkg.preempt
  simp only [↓Pkg.cmdEnd_fixed, ↓fixed_foldl, implies_true]

theorem Pkg.setJobState_fixed (k : Pkg) (a1 : Nat) (a2 : Nat) : (Pkg.setJobState k a1 a2).fixed = k.fixed := by
  unfold Pkg.setJobState
  simp only [↓Pkg.cwWr_fixed]

theorem Pkg.jobMoves_fixed (k : Pkg) (a1 : Nat) (a2 : Nat) (a3 : Nat) : (Pkg.jobMoves k a1 a2 a3).fixed = k.fixed := by
  unfold Pkg.jobMoves
  simp only [↓Pkg.complete_fixed, ↓Pkg.setJobState_fixed]

theorem Pkg.dropCut_fixed (k : Pkg) (a1 : Nat) : (Pkg.dropCut k a1).fixed = k.fixed := by
  unfold Pkg.dropCut
  simp only [↓Pkg.fixed_onHbm]

theorem Pkg.jobFault_fixed (k : Pkg) (a1 : Nat) (a2 : Nat) : (Pkg.jobFault k a1 a2).fixed = k.fixed := by
  unfold Pkg.jobFault
  (repeat' split) <;> simp only [↓Pkg.dropCut_fixed, ↓Pkg.jobMoves_fixed, ↓Pkg.fixed_onClus, ↓Pkg.preempt_fixed]

theorem Pkg.endAll_fixed (k : Pkg) (a1 : Option RunCmd) : (Pkg.endAll k a1).fixed = k.fixed := by
  unfold Pkg.endAll
  simp only [↓Pkg.cmdEnd_fixed, ↓Pkg.jobFault_fixed, ↓fixed_iter, ↓fixed_foldl, implies_true]

theorem Pkg.failed_fixed (k : Pkg) : (Pkg.failed k).fixed = k.fixed := by
  unfold Pkg.failed
  simp only [↓Pkg.fixed_eta, ↓Pkg.fixed_mk, ↓Pkg.endAll_fixed, ↓Pkg.setDevState_fixed]

theorem Pkg.railsOff_fixed (k : Pkg) : (Pkg.railsOff k).fixed = k.fixed := by
  unfold Pkg.railsOff
  simp only [↓Pkg.fixed_onCore, ↓Pkg.fixed_onPw]

theorem Pkg.markBad_fixed (k : Pkg) (a1 : Nat) : (Pkg.markBad k a1).fixed = k.fixed := by
  unfold Pkg.markBad
  simp only [↓Pkg.fixed_onBu, implies_true]

theorem Pkg.sliceFail_fixed (k : Pkg) (a1 : Nat) (a2 : List Nat) : (Pkg.sliceFail k a1 a2).fixed = k.fixed := by
  unfold Pkg.sliceFail
  simp only [↓Pkg.analogEvent_fixed, ↓Pkg.failed_fixed, ↓Pkg.markBad_fixed, ↓Pkg.fixed_onFab, ↓Pkg.fixed_onPw, ↓Pkg.railsOff_fixed, ↓fixed_foldl, implies_true, apply_ite Pkg.fixed, ite_self]

theorem Pkg.showLanes_fixed (k : Pkg) (a1 : Nat) : (Pkg.showLanes k a1).fixed = k.fixed := by
  unfold Pkg.showLanes
  (repeat' split) <;> simp only [↓Pkg.fixed_onAtt, ↓Pkg.fixed_onCore]

theorem Pkg.setPortState_fixed (k : Pkg) (a1 : Nat) (a2 : Nat) : (Pkg.setPortState k a1 a2).fixed = k.fixed := by
  unfold Pkg.setPortState
  (repeat' split) <;> simp only [↓Pkg.fixed_onCore]

theorem Pkg.startDetect_fixed (k : Pkg) (a1 : Nat) : (Pkg.startDetect k a1).fixed = k.fixed := by
  unfold Pkg.startDetect
  simp only [↓Pkg.fixed_onFab, ↓Pkg.setLink_fixed, ↓Pkg.setPortState_fixed, ↓Pkg.showLanes_fixed, apply_ite Pkg.fixed, ite_self]

theorem Pkg.analogSlice_fixed (k : Pkg) (a1 : Nat) (a2 : Bool) (a3 : List Nat) : (Pkg.analogSlice k a1 a2 a3).fixed = k.fixed := by
  unfold Pkg.analogSlice
  simp only [↓Pkg.fixed_onBu, ↓Pkg.fixed_onCore, ↓Pkg.sliceFail_fixed, ↓Pkg.startDetect_fixed, implies_true, apply_ite Pkg.fixed, ite_self]

theorem Pkg.sendBy_fixed (k : Pkg) (a1 : Nat) (a2 : Nat) (a3 : Frame) : (Pkg.sendBy k a1 a2 a3).fixed = k.fixed := by
  unfold Pkg.sendBy
  repeat' (first | with_reducible rfl | (simp only [↓Pkg.emit_fixed, ↓Pkg.fixed_mk, ↓Pkg.fixed_eta, ↓Pkg.fixed_onFab, ↓fixed_foldl, ↓fixed_iter, implies_true, apply_ite Pkg.fixed, ite_self]; done) | with_reducible refine fixed_ite' ?_ ?_ | with_reducible refine fixed_foldl' (fun _ _ => ?_) ?_ | with_reducible refine fixed_iter' (fun _ _ => ?_) ?_ | with_reducible refine fixed_foldl2' (fun _ _ => ?_) ?_ | with_reducible refine fixed_foldl3' (fun _ _ => ?_) ?_ | with_reducible refine (Pkg.fixed_onBu _ _ (fun _ => rfl)).trans ?_ | with_reducible refine (Pkg.fixed_onSec _ _ (fun _ => ⟨rfl, rfl⟩)).trans ?_ | simp only [↓Pkg.emit_fixed, ↓Pkg.fixed_mk, ↓Pkg.fixed_eta, ↓Pkg.fixed_onFab] | with_reducible refine fixed_of_eq ‹_› ?_ | with_reducible refine fixed_of_eq1 ‹_› ?_ | split | dsimp only)

theorem Pkg.sendTo_fixed (k : Pkg) (a1 : Nat) (a2 : Frame) : (Pkg.sendTo k a1 a2).2.fixed = k.fixed := by
  unfold Pkg.sendTo
  repeat' (first | with_reducible rfl | (simp only [↓Pkg.sendBy_fixed, ↓Pkg.fixed_mk, ↓Pkg.fixed_eta, ↓Pkg.fixed_onFab, ↓fixed_foldl, ↓fixed_iter, implies_true, apply_ite Pkg.fixed, ite_self, apply_ite Prod.fst, apply_ite Prod.snd]; done) | with_reducible refine fixed_ite' ?_ ?_ | with_reducible refine fixed_foldl' (fun _ _ => ?_) ?_ | with_reducible refine fixed_iter' (fun _ _ => ?_) ?_ | with_reducible refine fixed_foldl2' (fun _ _ => ?_) ?_ | with_reducible refine fixed_foldl3' (fun _ _ => ?_) ?_ | with_reducible refine (Pkg.fixed_onBu _ _ (fun _ => rfl)).trans ?_ | with_reducible refine (Pkg.fixed_onSec _ _ (fun _ => ⟨rfl, rfl⟩)).trans ?_ | simp only [↓Pkg.sendBy_fixed, ↓Pkg.fixed_mk, ↓Pkg.fixed_eta, ↓Pkg.fixed_onFab] | with_reducible refine fixed_of_eq ‹_› ?_ | with_reducible refine fixed_of_eq1 ‹_› ?_ | split | dsimp only)

theorem Pkg.sendGroup_fixed (k : Pkg) (a1 : Nat) (a2 : Frame) : (Pkg.sendGroup k a1 a2).fixed = k.fixed := by
  unfold Pkg.sendGroup
  simp only [↓Pkg.sendTo_fixed, ↓fixed_foldl, implies_true, apply_ite Pkg.fixed, ite_self]

theorem Pkg.announce_fixed (k : Pkg) : (Pkg.announce k).fixed = k.fixed := by
  unfold Pkg.announce
  simp only [↓Pkg.fixed_onFab, ↓Pkg.sendGroup_fixed, ↓fixed_foldl, implies_true, apply_ite Pkg.fixed, ite_self]

theorem Pkg.emuBad_fixed (k : Pkg) (a1 : LogEnt) (a2 : Nat) : (Pkg.emuBad k a1 a2).fixed = k.fixed := by
  unfold Pkg.emuBad
  simp only [↓Pkg.fixed_onCore]

theorem Pkg.ringPageWrite_fixed (k : Pkg) (a1 : LogEnt) : (Pkg.ringPageWrite k a1).fixed = k.fixed := by
  unfold Pkg.ringPageWrite
  repeat' (first | simp only [↓Pkg.cqDrain_fixed, ↓Pkg.cwWr_fixed, ↓Pkg.emuBad_fixed, ↓Pkg.setRingS_fixed, ↓fixed_foldl, implies_true, apply_ite Pkg.fixed, ite_self] | split)

theorem Pkg.dumpCopy_fixed (k : Pkg) : (Pkg.dumpCopy k).fixed = k.fixed := by
  unfold Pkg.dumpCopy
  repeat' (first | (simp only [↓Pkg.hostWrite_fixed, apply_ite Pkg.fixed]; done) | with_reducible refine fixed_ite' ?_ ?_ | with_reducible refine fixed_foldl3' (fun _ _ => ?_) ?_ | split)

theorem Pkg.shadowRefresh_fixed (k : Pkg) (a1 : Nat) : (Pkg.shadowRefresh k a1).fixed = k.fixed := by
  unfold Pkg.shadowRefresh
  (repeat' split) <;> simp only [↓Pkg.cwWr_fixed, ↓Pkg.fixed_onAtt, ↓fixed_foldl, implies_true]

theorem Pkg.settingsWrite_fixed (k : Pkg) (a1 : LogEnt) : (Pkg.settingsWrite k a1).fixed = k.fixed := by
  unfold Pkg.settingsWrite
  simp only [↓Pkg.cwWr_fixed, ↓Pkg.dumpCopy_fixed, ↓Pkg.emuBad_fixed, ↓Pkg.shadowRefresh_fixed, ↓fixed_foldl, implies_true, apply_ite Pkg.fixed, ite_self]

theorem Pkg.mbxGo_fixed (k : Pkg) : (Pkg.mbxGo k).fixed = k.fixed := by
  unfold Pkg.mbxGo
  (repeat' split) <;> simp only [↓Pkg.cwWr_fixed, ↓Pkg.emuBad_fixed]

theorem Pkg.viewOnlyWrite_fixed (k : Pkg) (a1 : LogEnt) : (Pkg.viewOnlyWrite k a1).fixed = k.fixed := by
  unfold Pkg.viewOnlyWrite
  repeat' (first | (simp only [↓Pkg.cwWr_fixed, ↓Pkg.emuBad_fixed, ↓Pkg.mbxGo_fixed, apply_ite Pkg.fixed, ite_self]; done) | with_reducible refine fixed_ite' ?_ ?_ | with_reducible refine fixed_foldl' (fun _ _ => ?_) ?_ | split)

theorem Pkg.refreshViews_fixed (k : Pkg) (a1 : Nat) : (Pkg.refreshViews k a1).fixed = k.fixed := by
  unfold Pkg.refreshViews
  simp only [↓Pkg.shadowRefresh_fixed, ↓fixed_foldl, implies_true]

theorem Pkg.linkEvent_fixed (k : Pkg) (a1 : Nat) (a2 : Nat) (a3 : Nat) (a4 : Nat) (a5 : Nat) (a6 : optParam Bool false) : (Pkg.linkEvent k a1 a2 a3 a4 a5 a6).fixed = k.fixed := by
  unfold Pkg.linkEvent
  (repeat' split) <;> simp only [↓Pkg.fixed_onCore]

theorem Pkg.setDma_fixed (k : Pkg) (a1 : DmaRun) : (Pkg.setDma k a1).fixed = k.fixed := by
  unfold Pkg.setDma
  simp only [↓Pkg.fixed_onNet]

theorem Pkg.killRun_fixed (k : Pkg) (a1 : DmaRun) (a2 : FailCause) : (Pkg.killRun k a1 a2).fixed = k.fixed := by
  unfold Pkg.killRun
  (repeat' split) <;> simp only [↓Pkg.fixed_onClus, ↓Pkg.fixed_onCore, ↓Pkg.setDma_fixed]

theorem Pkg.loseTxn_fixed (k : Pkg) (a1 : XTxn) (a2 : Nat) : (Pkg.loseTxn k a1 a2).fixed = k.fixed := by
  unfold Pkg.loseTxn
  repeat' (first | simp only [↓Pkg.killRun_fixed, ↓Pkg.fixed_onClus, ↓Pkg.fixed_onFab, apply_ite Pkg.fixed, ite_self] | split)

theorem Pkg.losePort_fixed (k : Pkg) (a1 : Nat) (a2 : Nat) : (Pkg.losePort k a1 a2).fixed = k.fixed := by
  unfold Pkg.losePort
  simp only [↓Pkg.loseTxn_fixed, ↓Pkg.fixed_onFab, ↓fixed_foldl, implies_true]

theorem Pkg.linkIdle_fixed (k : Pkg) (a1 : Nat) : (Pkg.linkIdle k a1).fixed = k.fixed := by
  unfold Pkg.linkIdle
  (repeat' split) <;> simp only [↓Pkg.linkEvent_fixed, ↓Pkg.losePort_fixed, ↓Pkg.setLink_fixed, ↓Pkg.setPortState_fixed, ↓Pkg.showLanes_fixed]

theorem Pkg.lowerGen_fixed (k : Pkg) (a1 : Nat) : (Pkg.lowerGen k a1).fixed = k.fixed := by
  unfold Pkg.lowerGen
  simp only [↓Pkg.linkIdle_fixed, ↓Pkg.setLink_fixed, apply_ite Pkg.fixed, ite_self]

theorem Pkg.laneDrop_fixed (k : Pkg) (a1 : Nat) (a2 : Nat) (a3 : optParam Bool false) :
    (Pkg.laneDrop k a1 a2 a3).fixed = k.fixed := by
  unfold Pkg.laneDrop
  repeat' (first | with_reducible rfl | (simp only [↓Pkg.linkEvent_fixed, ↓Pkg.losePort_fixed, ↓Pkg.lowerGen_fixed, ↓Pkg.setLink_fixed, ↓Pkg.setPortState_fixed, ↓Pkg.showLanes_fixed, ↓Pkg.fixed_mk, ↓Pkg.fixed_eta, ↓Pkg.fixed_onCore, ↓Pkg.fixed_onFab, ↓fixed_foldl, ↓fixed_iter, implies_true, apply_ite Pkg.fixed, ite_self]; done) | with_reducible refine fixed_ite' ?_ ?_ | with_reducible refine fixed_foldl' (fun _ _ => ?_) ?_ | with_reducible refine fixed_iter' (fun _ _ => ?_) ?_ | with_reducible refine fixed_foldl2' (fun _ _ => ?_) ?_ | with_reducible refine fixed_foldl3' (fun _ _ => ?_) ?_ | with_reducible refine (Pkg.fixed_onBu _ _ (fun _ => rfl)).trans ?_ | with_reducible refine (Pkg.fixed_onSec _ _ (fun _ => ⟨rfl, rfl⟩)).trans ?_ | simp only [↓Pkg.linkEvent_fixed, ↓Pkg.losePort_fixed, ↓Pkg.lowerGen_fixed, ↓Pkg.setLink_fixed, ↓Pkg.setPortState_fixed, ↓Pkg.showLanes_fixed, ↓Pkg.fixed_mk, ↓Pkg.fixed_eta, ↓Pkg.fixed_onCore, ↓Pkg.fixed_onFab] | with_reducible refine fixed_of_eq ‹_› ?_ | with_reducible refine fixed_of_eq1 ‹_› ?_ | split | dsimp only)

theorem Pkg.hbEvent_fixed (k : Pkg) (a1 : Nat) (a2 : Nat) (a3 : Nat) (a4 : Nat) (a5 : optParam Bool false) : (Pkg.hbEvent k a1 a2 a3 a4 a5).fixed = k.fixed := by
  unfold Pkg.hbEvent
  simp only [↓Pkg.fixed_onClus]

theorem Pkg.spareCheck_fixed (k : Pkg) (a1 : Nat) : (Pkg.spareCheck k a1).fixed = k.fixed := by
  unfold Pkg.spareCheck
  repeat' (first | with_reducible rfl | (simp only [↓Pkg.fixed_mk, ↓Pkg.fixed_eta, ↓Pkg.fixed_onCore, ↓Pkg.fixed_onClus, ↓Pkg.fixed_onHbm, ↓fixed_foldl, ↓fixed_iter, implies_true, apply_ite Pkg.fixed, ite_self]; done) | with_reducible refine fixed_ite' ?_ ?_ | with_reducible refine fixed_foldl' (fun _ _ => ?_) ?_ | with_reducible refine fixed_iter' (fun _ _ => ?_) ?_ | with_reducible refine fixed_foldl2' (fun _ _ => ?_) ?_ | with_reducible refine fixed_foldl3' (fun _ _ => ?_) ?_ | with_reducible refine (Pkg.fixed_onBu _ _ (fun _ => rfl)).trans ?_ | with_reducible refine (Pkg.fixed_onSec _ _ (fun _ => ⟨rfl, rfl⟩)).trans ?_ | simp only [↓Pkg.fixed_mk, ↓Pkg.fixed_eta, ↓Pkg.fixed_onCore, ↓Pkg.fixed_onClus, ↓Pkg.fixed_onHbm] | with_reducible refine fixed_of_eq ‹_› ?_ | with_reducible refine fixed_of_eq1 ‹_› ?_ | split | dsimp only)

theorem Pkg.startPage_fixed (k : Pkg) (a1 : Nat) (a2 : Nat) (a3 : Nat) (a4 : Bool) :
    (Pkg.startPage k a1 a2 a3 a4).fixed = k.fixed := by
  unfold Pkg.startPage
  repeat' (first | with_reducible rfl | (simp only [↓Pkg.spareCheck_fixed, ↓Pkg.fixed_mk, ↓Pkg.fixed_eta, ↓Pkg.fixed_onCore, ↓Pkg.fixed_onClus, ↓Pkg.fixed_onHbm, ↓fixed_foldl, ↓fixed_iter, implies_true, apply_ite Pkg.fixed, ite_self]; done) | with_reducible refine fixed_ite' ?_ ?_ | with_reducible refine fixed_foldl' (fun _ _ => ?_) ?_ | with_reducible refine fixed_iter' (fun _ _ => ?_) ?_ | with_reducible refine fixed_foldl2' (fun _ _ => ?_) ?_ | with_reducible refine fixed_foldl3' (fun _ _ => ?_) ?_ | with_reducible refine (Pkg.fixed_onBu _ _ (fun _ => rfl)).trans ?_ | with_reducible refine (Pkg.fixed_onSec _ _ (fun _ => ⟨rfl, rfl⟩)).trans ?_ | simp only [↓Pkg.spareCheck_fixed, ↓Pkg.fixed_mk, ↓Pkg.fixed_eta, ↓Pkg.fixed_onCore, ↓Pkg.fixed_onClus, ↓Pkg.fixed_onHbm] | with_reducible refine fixed_of_eq ‹_› ?_ | with_reducible refine fixed_of_eq1 ‹_› ?_ | split | dsimp only)

theorem Pkg.rehomeGo_fixed (k : Pkg) (a1 : Nat) (a2 : W32) : (Pkg.rehomeGo k a1 a2).fixed = k.fixed := by
  unfold Pkg.rehomeGo
  repeat' (first | (simp only [↓Pkg.fixed_onClus, ↓Pkg.startPage_fixed, apply_ite Pkg.fixed]; done) | with_reducible refine fixed_ite' ?_ ?_ | split)

theorem Pkg.rehomeNext_fixed (k : Pkg) (a1 : Nat) : (Pkg.rehomeNext k a1).fixed = k.fixed := by
  unfold Pkg.rehomeNext
  (repeat' split) <;> simp only [↓Pkg.fixed_eta, ↓Pkg.fixed_mk, ↓Pkg.rehomeGo_fixed]

theorem Pkg.wantRehome_fixed (k : Pkg) (a1 : Nat) (a2 : Nat) (a3 : Nat) : (Pkg.wantRehome k a1 a2 a3).fixed = k.fixed := by
  unfold Pkg.wantRehome
  simp only [↓Pkg.fixed_eta, ↓Pkg.fixed_mk, apply_ite Pkg.fixed, ite_self]

theorem Pkg.pcFault_fixed (k : Pkg) (a1 : Nat) (a2 : Nat) (a3 : Bool) (a4 : optParam Bool false) : (Pkg.pcFault k a1 a2 a3 a4).fixed = k.fixed := by
  unfold Pkg.pcFault
  simp only [↓Pkg.fixed_eta, ↓Pkg.fixed_mk, ↓Pkg.hbEvent_fixed, ↓Pkg.fixed_onClus, ↓Pkg.rehomeNext_fixed, ↓Pkg.wantRehome_fixed, ↓fixed_iter, implies_true, apply_ite Pkg.fixed, ite_self]

theorem Pkg.fallback_fixed (k : Pkg) (a1 : Nat) (a2 : Nat) : (Pkg.fallback k a1 a2).fixed = k.fixed := by
  unfold Pkg.fallback
  simp only [↓Pkg.fixed_onClus, ↓Pkg.pcFault_fixed]

theorem Pkg.hbStopArm_fixed (k : Pkg) (a1 : Nat) : (Pkg.hbStopArm k a1).fixed = k.fixed := by
  unfold Pkg.hbStopArm
  simp only [↓Pkg.fixed_onCore, ↓Pkg.fixed_onFw]

theorem Pkg.tempBias_fixed (k : Pkg) (a1 : Nat) : (Pkg.tempBias k a1).fixed = k.fixed := by
  unfold Pkg.tempBias
  simp only [↓Pkg.fixed_onCore, ↓Pkg.fixed_onPw]

theorem Pkg.injFire_fixed (k : Pkg) (a1 : PKind) (a2 : Nat) : (Pkg.injFire k a1 a2).fixed = k.fixed := by
  unfold Pkg.injFire
  (repeat' split) <;> simp only [↓Pkg.fallback_fixed, ↓Pkg.hbStopArm_fixed, ↓Pkg.laneDrop_fixed, ↓Pkg.fixed_onCore, ↓Pkg.tempBias_fixed, apply_ite Pkg.fixed, ite_self]

theorem Pkg.headerWrite_fixed (k : Pkg) (a1 : PKind) (a2 : Nat) (a3 : Nat) (a4 : W32) : (Pkg.headerWrite k a1 a2 a3 a4).fixed = k.fixed := by
  unfold Pkg.headerWrite
  (repeat' split) <;> simp only [↓Pkg.injFire_fixed, ↓Pkg.fixed_onCore]

theorem Pkg.nodeWrite_fixed (k : Pkg) (a1 : W32) : (Pkg.nodeWrite k a1).fixed = k.fixed := by
  unfold Pkg.nodeWrite
  simp only [↓Pkg.fixed_onCore, ↓Pkg.setLink_fixed, ↓Pkg.setPortState_fixed, ↓Pkg.startDetect_fixed, ↓fixed_foldl, implies_true, apply_ite Pkg.fixed, ite_self]

theorem Pkg.routeWord_fixed (k : Pkg) (a1 : W32) : (Pkg.routeWord k a1).fixed = k.fixed := by
  unfold Pkg.routeWord
  simp only [↓Pkg.fixed_onCore, ↓Pkg.fixed_onFab, apply_ite Pkg.fixed, ite_self]

theorem Pkg.byeIdle_fixed (k : Pkg) (a1 : Nat) : (Pkg.byeIdle k a1).fixed = k.fixed := by
  unfold Pkg.byeIdle
  (repeat' split) <;> simp only [↓Pkg.losePort_fixed, ↓Pkg.sendPeer_fixed, ↓Pkg.setLink_fixed, ↓Pkg.setPortState_fixed, ↓Pkg.showLanes_fixed]

theorem Pkg.portCfg_fixed (k : Pkg) (a1 : Nat) (a2 : W32) : (Pkg.portCfg k a1 a2).fixed = k.fixed := by
  unfold Pkg.portCfg
  simp only [↓Pkg.byeIdle_fixed, ↓Pkg.fixed_onCore, ↓Pkg.startDetect_fixed, apply_ite Pkg.fixed, ite_self]

theorem Pkg.unquarantine_fixed (k : Pkg) (a1 : Nat) : (Pkg.unquarantine k a1).fixed = k.fixed := by
  unfold Pkg.unquarantine
  (repeat' split) <;> simp only [↓Pkg.startDetect_fixed]

theorem Pkg.fbCntClr_fixed (k : Pkg) (a1 : Nat) : (Pkg.fbCntClr k a1).fixed = k.fixed := by
  unfold Pkg.fbCntClr
  simp only [↓Pkg.fixed_onCore, ↓Pkg.fixed_onFab]

theorem Pkg.portDown_fixed (k : Pkg) (a1 : Nat) : (Pkg.portDown k a1).fixed = k.fixed := by
  unfold Pkg.portDown
  (repeat' split) <;> simp only [↓Pkg.losePort_fixed, ↓Pkg.fixed_onAtt, ↓Pkg.startDetect_fixed]

theorem Pkg.retrain_fixed (k : Pkg) (a1 : Nat) : (Pkg.retrain k a1).fixed = k.fixed := by
  unfold Pkg.retrain
  simp only [↓Pkg.portDown_fixed]

theorem Pkg.collWordWrite_fixed (k : Pkg) (a1 : Nat) (a2 : Nat) (a3 : W32) : (Pkg.collWordWrite k a1 a2 a3).fixed = k.fixed := by
  unfold Pkg.collWordWrite
  simp only [↓Pkg.fixed_onFab]

theorem Pkg.mirrorWrite_fixed (k : Pkg) (a1 : Nat) (a2 : W32) : (Pkg.mirrorWrite k a1 a2).fixed = k.fixed := by
  unfold Pkg.mirrorWrite
  repeat' (first | with_reducible rfl | (simp only [↓Pkg.fixed_mk, ↓Pkg.fixed_eta, ↓Pkg.fixed_onCore, ↓fixed_foldl, ↓fixed_iter, implies_true, apply_ite Pkg.fixed, ite_self]; done) | with_reducible refine fixed_ite' ?_ ?_ | with_reducible refine fixed_foldl' (fun _ _ => ?_) ?_ | with_reducible refine fixed_iter' (fun _ _ => ?_) ?_ | with_reducible refine fixed_foldl2' (fun _ _ => ?_) ?_ | with_reducible refine fixed_foldl3' (fun _ _ => ?_) ?_ | with_reducible refine (Pkg.fixed_onBu _ _ (fun _ => rfl)).trans ?_ | with_reducible refine (Pkg.fixed_onSec _ _ (fun _ => ⟨rfl, rfl⟩)).trans ?_ | simp only [↓Pkg.fixed_mk, ↓Pkg.fixed_eta, ↓Pkg.fixed_onCore] | with_reducible refine fixed_of_eq ‹_› ?_ | with_reducible refine fixed_of_eq1 ‹_› ?_ | split | dsimp only)

theorem Pkg.fenceWrite_fixed (k : Pkg) (a1 : Nat) (a2 : W32) : (Pkg.fenceWrite k a1 a2).fixed = k.fixed := by
  unfold Pkg.fenceWrite
  repeat' (first | with_reducible rfl | (simp only [↓Pkg.biShow_fixed, ↓Pkg.fixed_mk, ↓Pkg.fixed_eta, ↓Pkg.fixed_onCore, ↓fixed_foldl, ↓fixed_iter, implies_true, apply_ite Pkg.fixed, ite_self]; done) | with_reducible refine fixed_ite' ?_ ?_ | with_reducible refine fixed_foldl' (fun _ _ => ?_) ?_ | with_reducible refine fixed_iter' (fun _ _ => ?_) ?_ | with_reducible refine fixed_foldl2' (fun _ _ => ?_) ?_ | with_reducible refine fixed_foldl3' (fun _ _ => ?_) ?_ | with_reducible refine (Pkg.fixed_onBu _ _ (fun _ => rfl)).trans ?_ | with_reducible refine (Pkg.fixed_onSec _ _ (fun _ => ⟨rfl, rfl⟩)).trans ?_ | simp only [↓Pkg.biShow_fixed, ↓Pkg.fixed_mk, ↓Pkg.fixed_eta, ↓Pkg.fixed_onCore] | with_reducible refine fixed_of_eq ‹_› ?_ | with_reducible refine fixed_of_eq1 ‹_› ?_ | split | dsimp only)

theorem Pkg.biCntClr_fixed (k : Pkg) (a1 : Nat) : (Pkg.biCntClr k a1).fixed = k.fixed := by
  unfold Pkg.biCntClr
  simp only [↓Pkg.fixed_onBi, ↓Pkg.fixed_onCore]

theorem Pkg.setTest_fixed (k : Pkg) (a1 : Nat) (a2 : Option TestRun) : (Pkg.setTest k a1 a2).fixed = k.fixed := by
  unfold Pkg.setTest
  simp only [↓Pkg.fixed_onBi]

theorem Pkg.stopTest_fixed (k : Pkg) (a1 : Nat) : (Pkg.stopTest k a1).fixed = k.fixed := by
  unfold Pkg.stopTest
  simp only [↓Pkg.biShow_fixed, ↓Pkg.setTest_fixed]

theorem Pkg.rotate_fixed (k : Pkg) (a1 : Nat) (a2 : Nat) : (Pkg.rotate k a1 a2).fixed = k.fixed := by
  unfold Pkg.rotate
  (repeat' split) <;> simp only [↓Pkg.biShow_fixed, ↓Pkg.fixed_onCore, ↓Pkg.setMove_fixed, ↓Pkg.stopTest_fixed, apply_ite Pkg.fixed, ite_self]

theorem Pkg.rotateNow_fixed (k : Pkg) (a1 : Nat) (a2 : Nat) : (Pkg.rotateNow k a1 a2).fixed = k.fixed := by
  unfold Pkg.rotateNow
  (repeat' split) <;> simp only [↓Pkg.fixed_onCore, ↓Pkg.rotate_fixed]

theorem Pkg.lnCntClr_fixed (k : Pkg) (a1 : Nat) : (Pkg.lnCntClr k a1).fixed = k.fixed := by
  unfold Pkg.lnCntClr
  simp only [↓Pkg.fixed_onCore, ↓Pkg.fixed_onNet]

theorem Pkg.abortRot_fixed (k : Pkg) (a1 : Nat) : (Pkg.abortRot k a1).fixed = k.fixed := by
  unfold Pkg.abortRot
  repeat' (first | with_reducible rfl | (simp only [↓Pkg.abandon_fixed, ↓Pkg.fixed_mk, ↓Pkg.fixed_eta, ↓fixed_foldl, ↓fixed_iter, implies_true, apply_ite Pkg.fixed, ite_self]; done) | with_reducible refine fixed_ite' ?_ ?_ | with_reducible refine fixed_foldl' (fun _ _ => ?_) ?_ | with_reducible refine fixed_iter' (fun _ _ => ?_) ?_ | with_reducible refine fixed_foldl2' (fun _ _ => ?_) ?_ | with_reducible refine fixed_foldl3' (fun _ _ => ?_) ?_ | with_reducible refine (Pkg.fixed_onBu _ _ (fun _ => rfl)).trans ?_ | with_reducible refine (Pkg.fixed_onSec _ _ (fun _ => ⟨rfl, rfl⟩)).trans ?_ | simp only [↓Pkg.abandon_fixed, ↓Pkg.fixed_mk, ↓Pkg.fixed_eta] | with_reducible refine fixed_of_eq ‹_› ?_ | with_reducible refine fixed_of_eq1 ‹_› ?_ | split | dsimp only)

theorem Pkg.eachCirc_fixed (k : Pkg) (a1 : Nat) (a2 : List Nat) (a3 : Nat → Nat → Clus → Clus) : (Pkg.eachCirc k a1 a2 a3).fixed = k.fixed := by
  unfold Pkg.eachCirc
  simp only [↓Pkg.fixed_onClus, ↓fixed_foldl, implies_true, apply_ite Pkg.fixed, ite_self]

theorem Pkg.giveTurns_fixed (k : Pkg) (a1 : List Nat) (a2 : Bool) : (Pkg.giveTurns k a1 a2).fixed = k.fixed := by
  unfold Pkg.giveTurns
  repeat' (first | with_reducible rfl | (simp only [↓Pkg.onJob_fixed, ↓Pkg.fixed_mk, ↓Pkg.fixed_eta, ↓fixed_foldl, ↓fixed_iter, implies_true, apply_ite Pkg.fixed, ite_self]; done) | with_reducible refine fixed_ite' ?_ ?_ | with_reducible refine fixed_foldl' (fun _ _ => ?_) ?_ | with_reducible refine fixed_iter' (fun _ _ => ?_) ?_ | with_reducible refine fixed_foldl2' (fun _ _ => ?_) ?_ | with_reducible refine fixed_foldl3' (fun _ _ => ?_) ?_ | with_reducible refine (Pkg.fixed_onBu _ _ (fun _ => rfl)).trans ?_ | with_reducible refine (Pkg.fixed_onSec _ _ (fun _ => ⟨rfl, rfl⟩)).trans ?_ | simp only [↓Pkg.onJob_fixed, ↓Pkg.fixed_mk, ↓Pkg.fixed_eta] | with_reducible refine fixed_of_eq ‹_› ?_ | with_reducible refine fixed_of_eq1 ‹_› ?_ | split | dsimp only)

theorem Pkg.forceTurns_fixed (k : Pkg) (a1 : Nat) : (Pkg.forceTurns k a1).fixed = k.fixed := by
  unfold Pkg.forceTurns
  repeat' (first | with_reducible rfl | (simp only [↓Pkg.eachCirc_fixed, ↓Pkg.giveTurns_fixed, ↓Pkg.onJob_fixed, ↓Pkg.fixed_mk, ↓Pkg.fixed_eta, ↓fixed_foldl, ↓fixed_iter, implies_true, apply_ite Pkg.fixed, ite_self]; done) | with_reducible refine fixed_ite' ?_ ?_ | with_reducible refine fixed_foldl' (fun _ _ => ?_) ?_ | with_reducible refine fixed_iter' (fun _ _ => ?_) ?_ | with_reducible refine fixed_foldl2' (fun _ _ => ?_) ?_ | with_reducible refine fixed_foldl3' (fun _ _ => ?_) ?_ | with_reducible refine (Pkg.fixed_onBu _ _ (fun _ => rfl)).trans ?_ | with_reducible refine (Pkg.fixed_onSec _ _ (fun _ => ⟨rfl, rfl⟩)).trans ?_ | simp only [↓Pkg.eachCirc_fixed, ↓Pkg.giveTurns_fixed, ↓Pkg.onJob_fixed, ↓Pkg.fixed_mk, ↓Pkg.fixed_eta] | with_reducible refine fixed_of_eq ‹_› ?_ | with_reducible refine fixed_of_eq1 ‹_› ?_ | split | dsimp only)

theorem Pkg.assignGroups_fixed (k : Pkg) (a1 : Nat) (a2 : List Section) : (Pkg.assignGroups k a1 a2).2.fixed = k.fixed := by
  unfold Pkg.assignGroups
  repeat' (first | simp only [↓Pkg.fixed_onCore, ↓Pkg.fixed_onNet] | split)

theorem Pkg.placeSection_fixed (k : Pkg) (a1 : Nat) (a2 : KMap Nat) (a3 : Section) : (Pkg.placeSection k a1 a2 a3).fixed = k.fixed := by
  unfold Pkg.placeSection
  (repeat' split) <;> simp only [↓Pkg.fixed_onClus, ↓Pkg.fixed_onCore, ↓Pkg.fixed_onFab, ↓Pkg.fixed_onNet, apply_ite Pkg.fixed, ite_self]

theorem Pkg.placeSnap_fixed (k : Pkg) (a1 : Snap) : (Pkg.placeSnap k a1).fixed = k.fixed := by
  unfold Pkg.placeSnap
  repeat' (first | with_reducible refine fixed_foldl' (fun _ _ => ?_) ?_ | simp only [↓Pkg.fixed_onClus, ↓Pkg.fixed_onCore, ↓Pkg.fixed_onFab] | split)

theorem Pkg.placeJob_fixed (k : Pkg) (a1 : Nat) : (Pkg.placeJob k a1).fixed = k.fixed := by
  unfold Pkg.placeJob
  repeat' (first | simp only [↓Pkg.assignGroups_fixed, ↓Pkg.fixed_onCore, ↓Pkg.onJob_fixed, ↓Pkg.placeSection_fixed, ↓Pkg.placeSnap_fixed, ↓fixed_foldl, implies_true] | split)

theorem Pkg.startCircs_fixed (k : Pkg) (a1 : Nat) : (Pkg.startCircs k a1).fixed = k.fixed := by
  unfold Pkg.startCircs
  (repeat' split) <;> simp only [↓Pkg.fixed_onClus, ↓Pkg.onJob_fixed, ↓fixed_foldl, implies_true]

theorem Pkg.hbTouch_fixed (k : Pkg) (a1 : Nat) (a2 : Nat) (a3 : Nat) : (Pkg.hbTouch k a1 a2 a3).fixed = k.fixed := by
  unfold Pkg.hbTouch
  repeat' (first | with_reducible rfl | (simp only [↓Pkg.hbEvent_fixed, ↓Pkg.pcFault_fixed, ↓Pkg.wantRehome_fixed, ↓Pkg.fixed_mk, ↓Pkg.fixed_eta, ↓Pkg.fixed_onCore, ↓Pkg.fixed_onClus, ↓Pkg.fixed_onHbm, ↓fixed_foldl, ↓fixed_iter, implies_true, apply_ite Pkg.fixed, ite_self]; done) | with_reducible refine fixed_ite' ?_ ?_ | with_reducible refine fixed_foldl' (fun _ _ => ?_) ?_ | with_reducible refine fixed_iter' (fun _ _ => ?_) ?_ | with_reducible refine fixed_foldl2' (fun _ _ => ?_) ?_ | with_reducible refine fixed_foldl3' (fun _ _ => ?_) ?_ | with_reducible refine (Pkg.fixed_onBu _ _ (fun _ => rfl)).trans ?_ | with_reducible refine (Pkg.fixed_onSec _ _ (fun _ => ⟨rfl, rfl⟩)).trans ?_ | simp only [↓Pkg.hbEvent_fixed, ↓Pkg.pcFault_fixed, ↓Pkg.wantRehome_fixed, ↓Pkg.fixed_mk, ↓Pkg.fixed_eta, ↓Pkg.fixed_onCore, ↓Pkg.fixed_onClus, ↓Pkg.fixed_onHbm] | with_reducible refine fixed_of_eq ‹_› ?_ | with_reducible refine fixed_of_eq1 ‹_› ?_ | split | dsimp only)

theorem Pkg.hbRead_fixed (k : Pkg) (a1 : Nat) (a2 : Nat) (a3 : Nat) (a4 : Nat) : (Pkg.hbRead k a1 a2 a3 a4).2.fixed = k.fixed := by
  unfold Pkg.hbRead
  simp only [↓Pkg.hbTouch_fixed, ↓fixed_iter, implies_true]

theorem Pkg.dpaRead_fixed (k : Pkg) (a1 : Nat) (a2 : Nat) : (Pkg.dpaRead k a1 a2).2.fixed = k.fixed := by
  unfold Pkg.dpaRead
  refine fixed_foldl3 _ _ _ (fun x a => ?_)
  split <;> simp only [↓Pkg.hbRead_fixed]

theorem Pkg.fillOne_fixed (k : Pkg) (a1 : Spill) : (Pkg.fillOne k a1).fixed = k.fixed := by
  unfold Pkg.fillOne
  repeat' (first | with_reducible rfl | (simp only [↓Pkg.dpaRead_fixed, ↓Pkg.fixed_mk, ↓Pkg.fixed_eta, ↓Pkg.fixed_onClus, ↓fixed_foldl, ↓fixed_iter, implies_true, apply_ite Pkg.fixed, ite_self, apply_ite Prod.fst, apply_ite Prod.snd]; done) | with_reducible refine fixed_ite' ?_ ?_ | with_reducible refine fixed_foldl' (fun _ _ => ?_) ?_ | with_reducible refine fixed_iter' (fun _ _ => ?_) ?_ | with_reducible refine fixed_foldl2' (fun _ _ => ?_) ?_ | with_reducible refine fixed_foldl3' (fun _ _ => ?_) ?_ | with_reducible refine (Pkg.fixed_onBu _ _ (fun _ => rfl)).trans ?_ | with_reducible refine (Pkg.fixed_onSec _ _ (fun _ => ⟨rfl, rfl⟩)).trans ?_ | simp only [↓Pkg.dpaRead_fixed, ↓Pkg.fixed_mk, ↓Pkg.fixed_eta, ↓Pkg.fixed_onClus] | with_reducible refine fixed_of_eq ‹_› ?_ | with_reducible refine fixed_of_eq1 ‹_› ?_ | split | dsimp only)

theorem Pkg.turnIn_fixed (k : Pkg) (a1 : Nat) : (Pkg.turnIn k a1).fixed = k.fixed := by
  unfold Pkg.turnIn
  repeat' (first | with_reducible rfl | (simp only [↓Pkg.eachCirc_fixed, ↓Pkg.fillOne_fixed, ↓Pkg.onJob_fixed, ↓Pkg.placeJob_fixed, ↓Pkg.startCircs_fixed, ↓Pkg.fixed_mk, ↓Pkg.fixed_eta, ↓fixed_foldl, ↓fixed_iter, implies_true, apply_ite Pkg.fixed, ite_self]; done) | with_reducible refine fixed_ite' ?_ ?_ | with_reducible refine fixed_foldl' (fun _ _ => ?_) ?_ | with_reducible refine fixed_iter' (fun _ _ => ?_) ?_ | with_reducible refine fixed_foldl2' (fun _ _ => ?_) ?_ | with_reducible refine fixed_foldl3' (fun _ _ => ?_) ?_ | with_reducible refine (Pkg.fixed_onBu _ _ (fun _ => rfl)).trans ?_ | with_reducible refine (Pkg.fixed_onSec _ _ (fun _ => ⟨rfl, rfl⟩)).trans ?_ | simp only [↓Pkg.eachCirc_fixed, ↓Pkg.fillOne_fixed, ↓Pkg.onJob_fixed, ↓Pkg.placeJob_fixed, ↓Pkg.startCircs_fixed, ↓Pkg.fixed_mk, ↓Pkg.fixed_eta] | with_reducible refine fixed_of_eq ‹_› ?_ | with_reducible refine fixed_of_eq1 ‹_› ?_ | split | dsimp only)

theorem Pkg.releaseTurns_fixed (k : Pkg) (a1 : Nat) : (Pkg.releaseTurns k a1).fixed = k.fixed := by
  unfold Pkg.releaseTurns
  repeat' (first | with_reducible rfl | (simp only [↓Pkg.onJob_fixed, ↓Pkg.turnIn_fixed, ↓Pkg.fixed_mk, ↓Pkg.fixed_eta, ↓fixed_foldl, ↓fixed_iter, implies_true, apply_ite Pkg.fixed, ite_self]; done) | with_reducible refine fixed_ite' ?_ ?_ | with_reducible refine fixed_foldl' (fun _ _ => ?_) ?_ | with_reducible refine fixed_iter' (fun _ _ => ?_) ?_ | with_reducible refine fixed_foldl2' (fun _ _ => ?_) ?_ | with_reducible refine fixed_foldl3' (fun _ _ => ?_) ?_ | with_reducible refine (Pkg.fixed_onBu _ _ (fun _ => rfl)).trans ?_ | with_reducible refine (Pkg.fixed_onSec _ _ (fun _ => ⟨rfl, rfl⟩)).trans ?_ | simp only [↓Pkg.onJob_fixed, ↓Pkg.turnIn_fixed, ↓Pkg.fixed_mk, ↓Pkg.fixed_eta] | with_reducible refine fixed_of_eq ‹_› ?_ | with_reducible refine fixed_of_eq1 ‹_› ?_ | split | dsimp only)

theorem Pkg.rebook_fixed (k : Pkg) : (Pkg.rebook k).fixed = k.fixed := by
  unfold Pkg.rebook
  repeat' (first | with_reducible rfl | (simp only [↓Pkg.forceTurns_fixed, ↓Pkg.releaseTurns_fixed, ↓Pkg.fixed_mk, ↓Pkg.fixed_eta, ↓fixed_foldl, ↓fixed_iter, implies_true, apply_ite Pkg.fixed, ite_self]; done) | with_reducible refine fixed_ite' ?_ ?_ | with_reducible refine fixed_foldl' (fun _ _ => ?_) ?_ | with_reducible refine fixed_iter' (fun _ _ => ?_) ?_ | with_reducible refine fixed_foldl2' (fun _ _ => ?_) ?_ | with_reducible refine fixed_foldl3' (fun _ _ => ?_) ?_ | with_reducible refine (Pkg.fixed_onBu _ _ (fun _ => rfl)).trans ?_ | with_reducible refine (Pkg.fixed_onSec _ _ (fun _ => ⟨rfl, rfl⟩)).trans ?_ | simp only [↓Pkg.forceTurns_fixed, ↓Pkg.releaseTurns_fixed, ↓Pkg.fixed_mk, ↓Pkg.fixed_eta] | with_reducible refine fixed_of_eq ‹_› ?_ | with_reducible refine fixed_of_eq1 ‹_› ?_ | split | dsimp only)

theorem Pkg.blockWord_fixed (k : Pkg) (a1 : PKind) (a2 : Nat) (a3 : Nat) (a4 : W32) :
    (Pkg.blockWord k a1 a2 a3 a4).fixed = k.fixed := by
  unfold Pkg.blockWord
  repeat' (first | with_reducible rfl | (simp only [↓Pkg.abortRot_fixed, ↓Pkg.biCntClr_fixed, ↓Pkg.collWordWrite_fixed, ↓Pkg.fbCntClr_fixed, ↓Pkg.fenceWrite_fixed, ↓Pkg.lnCntClr_fixed, ↓Pkg.mirrorWrite_fixed, ↓Pkg.nodeWrite_fixed, ↓Pkg.portCfg_fixed, ↓Pkg.rebook_fixed, ↓Pkg.rehomeGo_fixed, ↓Pkg.retrain_fixed, ↓Pkg.rotateNow_fixed, ↓Pkg.routeWord_fixed, ↓Pkg.unquarantine_fixed, ↓Pkg.fixed_mk, ↓Pkg.fixed_eta, ↓Pkg.fixed_onCore, ↓Pkg.fixed_onClus, ↓Pkg.fixed_onFab, ↓fixed_foldl, ↓fixed_iter, implies_true, apply_ite Pkg.fixed, ite_self]; done) | with_reducible refine fixed_ite' ?_ ?_ | with_reducible refine fixed_foldl' (fun _ _ => ?_) ?_ | with_reducible refine fixed_iter' (fun _ _ => ?_) ?_ | with_reducible refine fixed_foldl2' (fun _ _ => ?_) ?_ | with_reducible refine fixed_foldl3' (fun _ _ => ?_) ?_ | with_reducible refine (Pkg.fixed_onBu _ _ (fun _ => rfl)).trans ?_ | with_reducible refine (Pkg.fixed_onSec _ _ (fun _ => ⟨rfl, rfl⟩)).trans ?_ | simp only [↓Pkg.abortRot_fixed, ↓Pkg.biCntClr_fixed, ↓Pkg.collWordWrite_fixed, ↓Pkg.fbCntClr_fixed, ↓Pkg.fenceWrite_fixed, ↓Pkg.lnCntClr_fixed, ↓Pkg.mirrorWrite_fixed, ↓Pkg.nodeWrite_fixed, ↓Pkg.portCfg_fixed, ↓Pkg.rebook_fixed, ↓Pkg.rehomeGo_fixed, ↓Pkg.retrain_fixed, ↓Pkg.rotateNow_fixed, ↓Pkg.routeWord_fixed, ↓Pkg.unquarantine_fixed, ↓Pkg.fixed_mk, ↓Pkg.fixed_eta, ↓Pkg.fixed_onCore, ↓Pkg.fixed_onClus, ↓Pkg.fixed_onFab] | with_reducible refine fixed_of_eq ‹_› ?_ | with_reducible refine fixed_of_eq1 ‹_› ?_ | split | dsimp only)

theorem Pkg.blockWords_fixed (k : Pkg) (a1 : PKind) (a2 : Nat) (a3 : Nat) (a4 : List W32) :
    (Pkg.blockWords k a1 a2 a3 a4).fixed = k.fixed := by
  unfold Pkg.blockWords
  repeat' (first | with_reducible rfl | (simp only [↓Pkg.blockWord_fixed, ↓Pkg.fixed_mk, ↓Pkg.fixed_eta, ↓Pkg.fixed_onCore, ↓Pkg.fixed_onClus, ↓fixed_foldl, ↓fixed_iter, implies_true, apply_ite Pkg.fixed, ite_self]; done) | with_reducible refine fixed_ite' ?_ ?_ | with_reducible refine fixed_foldl' (fun _ _ => ?_) ?_ | with_reducible refine fixed_iter' (fun _ _ => ?_) ?_ | with_reducible refine fixed_foldl2' (fun _ _ => ?_) ?_ | with_reducible refine fixed_foldl3' (fun _ _ => ?_) ?_ | with_reducible refine (Pkg.fixed_onBu _ _ (fun _ => rfl)).trans ?_ | with_reducible refine (Pkg.fixed_onSec _ _ (fun _ => ⟨rfl, rfl⟩)).trans ?_ | simp only [↓Pkg.blockWord_fixed, ↓Pkg.fixed_mk, ↓Pkg.fixed_eta, ↓Pkg.fixed_onCore, ↓Pkg.fixed_onClus] | with_reducible refine fixed_of_eq ‹_› ?_ | with_reducible refine fixed_of_eq1 ‹_› ?_ | split | dsimp only)

theorem Pkg.pageWrite_fixed (k : Pkg) (a1 : PKind) (a2 : Nat) (a3 : Nat) (a4 : Nat) (a5 : W64) : (Pkg.pageWrite k a1 a2 a3 a4 a5).fixed = k.fixed := by
  unfold Pkg.pageWrite
  simp only [↓Pkg.blockWords_fixed, ↓Pkg.headerWrite_fixed, ↓fixed_foldl, implies_true, apply_ite Pkg.fixed, ite_self]

theorem Pkg.windowWrite_fixed (k : Pkg) (a1 : WinKind) (a2 : Nat) (a3 : Nat) (a4 : Nat) (a5 : W64) : (Pkg.windowWrite k a1 a2 a3 a4 a5).fixed = k.fixed := by
  unfold Pkg.windowWrite
  (repeat' split) <;> simp only [↓Pkg.fixed_onClus, ↓Pkg.fixed_onCore, apply_ite Pkg.fixed, ite_self]

theorem Pkg.regWrite_fixed (k : Pkg) (a1 : Nat) (a2 : Nat) (a3 : Nat) (a4 : W64) : (Pkg.regWrite k a1 a2 a3 a4).fixed = k.fixed := by
  unfold Pkg.regWrite
  (repeat' split) <;> simp only [↓Pkg.fixed_onCore, ↓Pkg.pageWrite_fixed, ↓Pkg.windowWrite_fixed]

theorem Pkg.viewWrite_fixed (k : Pkg) (a1 : LogEnt) (a2 : Nat) (a3 : PKind) : (Pkg.viewWrite k a1 a2 a3).fixed = k.fixed := by
  unfold Pkg.viewWrite
  (repeat' split) <;> simp only [↓Pkg.emuBad_fixed, ↓Pkg.refreshViews_fixed, ↓Pkg.regWrite_fixed]

theorem Pkg.applyEnt_fixed (k : Pkg) (a1 : LogEnt) : (Pkg.applyEnt k a1).fixed = k.fixed := by
  unfold Pkg.applyEnt
  (repeat' split) <;> simp only [↓Pkg.emuBad_fixed, ↓Pkg.ringPageWrite_fixed, ↓Pkg.settingsWrite_fixed, ↓Pkg.viewOnlyWrite_fixed, ↓Pkg.viewWrite_fixed]

theorem Pkg.loadOn_fixed (k : Pkg) : (Pkg.loadOn k).fixed = k.fixed := by
  unfold Pkg.loadOn
  simp only [↓Pkg.fixed_onBu, implies_true]

theorem Pkg.placeQuad_fixed (k : Pkg) (a1 : Nat) : (Pkg.placeQuad k a1).fixed = k.fixed := by
  unfold Pkg.placeQuad
  simp only [↓Pkg.fixed_onCore, ↓fixed_iter, ↓fixed_foldl, implies_true, apply_ite Pkg.fixed, ite_self]

theorem Pkg.placeService_fixed (k : Pkg) : (Pkg.placeService k).fixed = k.fixed := by
  unfold Pkg.placeService
  simp only [↓Pkg.placeQuad_fixed, ↓fixed_iter, implies_true]

theorem Pkg.fenceBits_fixed (k : Pkg) : (Pkg.fenceBits k).fixed = k.fixed := by
  unfold Pkg.fenceBits
  simp only [↓Pkg.fixed_onCore, ↓fixed_foldl, implies_true]

theorem Pkg.applyWarm_fixed (k : Pkg) : (Pkg.applyWarm k).fixed = k.fixed := by
  unfold Pkg.applyWarm
  (repeat' split) <;> simp only [↓Pkg.fenceBits_fixed, ↓Pkg.loadOn_fixed, ↓Pkg.fixed_onBi, ↓Pkg.fixed_onBu, ↓Pkg.fixed_onCore, ↓Pkg.fixed_onHbm, ↓Pkg.placeService_fixed, implies_true]

theorem Pkg.dropPacket_fixed (k : Pkg) (a1 : Nat) (a2 : Nat) (a3 : Packet) (a4 : Nat) :
    (Pkg.dropPacket k a1 a2 a3 a4).fixed = k.fixed := by
  unfold Pkg.dropPacket
  repeat' (first | with_reducible rfl | (simp only [↓Pkg.fixed_mk, ↓Pkg.fixed_eta, ↓Pkg.fixed_onCore, ↓Pkg.fixed_onClus, ↓Pkg.fixed_onNet, ↓fixed_foldl, ↓fixed_iter, implies_true, apply_ite Pkg.fixed, ite_self]; done) | with_reducible refine fixed_ite' ?_ ?_ | with_reducible refine fixed_foldl' (fun _ _ => ?_) ?_ | with_reducible refine fixed_iter' (fun _ _ => ?_) ?_ | with_reducible refine fixed_foldl2' (fun _ _ => ?_) ?_ | with_reducible refine fixed_foldl3' (fun _ _ => ?_) ?_ | with_reducible refine (Pkg.fixed_onBu _ _ (fun _ => rfl)).trans ?_ | with_reducible refine (Pkg.fixed_onSec _ _ (fun _ => ⟨rfl, rfl⟩)).trans ?_ | simp only [↓Pkg.fixed_mk, ↓Pkg.fixed_eta, ↓Pkg.fixed_onCore, ↓Pkg.fixed_onClus, ↓Pkg.fixed_onNet] | with_reducible refine fixed_of_eq ‹_› ?_ | with_reducible refine fixed_of_eq1 ‹_› ?_ | split | dsimp only)

theorem Pkg.arrive_fixed (k : Pkg) (a1 : Packet) (a2 : Nat) (a3 : Pkg → Pkg) (h3 : ∀ x0, (a3 x0).fixed = x0.fixed) :
    (Pkg.arrive k a1 a2 a3).fixed = k.fixed := by
  unfold Pkg.arrive
  repeat' (first | with_reducible rfl | (simp only [↓Pkg.dropPacket_fixed, ↓Pkg.fixed_mk, ↓Pkg.fixed_eta, ↓Pkg.fixed_onNet, h3, ↓fixed_foldl, ↓fixed_iter, implies_true, apply_ite Pkg.fixed, ite_self]; done) | with_reducible refine fixed_ite' ?_ ?_ | with_reducible refine fixed_foldl' (fun _ _ => ?_) ?_ | with_reducible refine fixed_iter' (fun _ _ => ?_) ?_ | with_reducible refine fixed_foldl2' (fun _ _ => ?_) ?_ | with_reducible refine fixed_foldl3' (fun _ _ => ?_) ?_ | with_reducible refine (Pkg.fixed_onBu _ _ (fun _ => rfl)).trans ?_ | with_reducible refine (Pkg.fixed_onSec _ _ (fun _ => ⟨rfl, rfl⟩)).trans ?_ | simp only [↓Pkg.dropPacket_fixed, ↓Pkg.fixed_mk, ↓Pkg.fixed_eta, ↓Pkg.fixed_onNet, h3] | with_reducible refine fixed_of_eq ‹_› ?_ | with_reducible refine fixed_of_eq1 ‹_› ?_ | split | dsimp only)

theorem Pkg.newTxn_fixed (k : Pkg) : (Pkg.newTxn k).2.fixed = k.fixed := by
  unfold Pkg.newTxn
  simp only [↓Pkg.fixed_onAtt]

theorem Pkg.salSend_fixed (k : Pkg) (a1 : SalMsg) : (Pkg.salSend k a1).fixed = k.fixed := by
  unfold Pkg.salSend
  simp only [↓Pkg.fixed_onAtt, ↓Pkg.fixed_onCore, ↓Pkg.setLink_fixed, apply_ite Pkg.fixed, ite_self]

theorem Pkg.atRequest_fixed (k : Pkg) (a1 : Nat) (a2 : Nat) (a3 : List Byte) (a4 : BitVec 2) : (Pkg.atRequest k a1 a2 a3 a4).2.fixed = k.fixed := by
  unfold Pkg.atRequest
  repeat' (first | (simp only [↓Pkg.newTxn_fixed, ↓Pkg.fixed_onAtt, ↓Pkg.salSend_fixed]; done) | split)

theorem Pkg.devInvalid_fixed (k : Pkg) (a1 : Nat) (a2 : W32) : (Pkg.devInvalid k a1 a2).fixed = k.fixed := by
  unfold Pkg.devInvalid
  simp only [↓Pkg.cmdReject_fixed]

theorem Pkg.devCmd_fixed (k : Pkg) (a1 : Nat) (a2 : W32) (a3 : List Nat) (a4 : Bool) (a5 : Pkg → Pkg) (h5 : ∀ x0, (a5 x0).fixed = x0.fixed) : (Pkg.devCmd k a1 a2 a3 a4 a5).fixed = k.fixed := by
  unfold Pkg.devCmd
  (repeat' split) <;> simp only [↓Pkg.cmdReject_fixed, h5]

theorem Pkg.devEnd_fixed (k : Pkg) (a1 : Nat) (a2 : W32) (a3 : Nat) (a4 : Nat) : (Pkg.devEnd k a1 a2 a3 a4).fixed = k.fixed := by
  unfold Pkg.devEnd
  simp only [↓Pkg.cmdEnd_fixed]

theorem Pkg.attachSetCmd_fixed (k : Pkg) (a1 : W32) (a2 : W64) (a3 : Nat) (a4 : Nat) : (Pkg.attachSetCmd k a1 a2 a3 a4).fixed = k.fixed := by
  unfold Pkg.attachSetCmd
  simp only [↓Pkg.devCmd_fixed, ↓Pkg.devEnd_fixed, ↓Pkg.devInvalid_fixed, ↓Pkg.fixed_onAtt, implies_true, apply_ite Pkg.fixed, ite_self]

theorem Pkg.badPacket_fixed (k : Pkg) (a1 : Packet) : (Pkg.badPacket k a1).fixed = k.fixed := by
  unfold Pkg.badPacket
  simp only [↓Pkg.fixed_onClus]

theorem Pkg.bindNext_fixed (k : Pkg) : (Pkg.bindNext k).fixed = k.fixed := by
  unfold Pkg.bindNext
  (repeat' split) <;> simp only [↓Pkg.fixed_onClus, ↓Pkg.fixed_onCore]

theorem Pkg.countReplay_fixed (k : Pkg) (a1 : ErrRec) : (Pkg.countReplay k a1).fixed = k.fixed := by
  unfold Pkg.countReplay
  simp only [↓Pkg.fixed_onBi, ↓Pkg.fixed_onCore, ↓Pkg.rotate_fixed, apply_ite Pkg.fixed, ite_self]

theorem Pkg.repairStore_fixed (k : Pkg) (a1 : Nat) (a2 : Nat) (a3 : Nat) : (Pkg.repairStore k a1 a2 a3).fixed = k.fixed := by
  unfold Pkg.repairStore
  simp only [↓Pkg.dpaRead_fixed, ↓Pkg.fixed_onClus, ↓fixed_iter, implies_true, apply_ite Pkg.fixed, ite_self]

theorem Pkg.hbInject_fixed (k : Pkg) (a1 : Nat) (a2 : Nat) (a3 : Nat) : (Pkg.hbInject k a1 a2 a3).fixed = k.fixed := by
  unfold Pkg.hbInject
  simp only [↓Pkg.fixed_onClus, ↓Pkg.fixed_onHbm, apply_ite Pkg.fixed, ite_self]

theorem Pkg.hbBlock_fixed (k : Pkg) (a1 : Nat) (a2 : Nat) (a3 : Nat) (a4 : List PB) : (Pkg.hbBlock k a1 a2 a3 a4).fixed = k.fixed := by
  unfold Pkg.hbBlock
  simp only [↓Pkg.fixed_eta, ↓Pkg.fixed_mk, ↓Pkg.hbInject_fixed]

theorem Pkg.dpaWriteThrough_fixed (k : Pkg) (a1 : Nat) (a2 : List PB) : (Pkg.dpaWriteThrough k a1 a2).fixed = k.fixed := by
  unfold Pkg.dpaWriteThrough
  refine fixed_foldl _ _ _ (fun x a => ?_)
  split <;> simp only [↓Pkg.hbBlock_fixed, ↓fixed_foldl, implies_true]

theorem Pkg.cowSave_fixed (k : Pkg) (a1 : Nat) (a2 : Nat) (a3 : Nat) : (Pkg.cowSave k a1 a2 a3).fixed = k.fixed := by
  unfold Pkg.cowSave
  repeat' (first | simp only [↓Pkg.fixed_eta, ↓Pkg.fixed_mk, ↓Pkg.hbRead_fixed] | split)

theorem Pkg.hbWrite_fixed (k : Pkg) (a1 : Nat) (a2 : Nat) (a3 : Nat) (a4 : List PB) : (Pkg.hbWrite k a1 a2 a3 a4).fixed = k.fixed := by
  unfold Pkg.hbWrite
  simp only [↓Pkg.cowSave_fixed, ↓Pkg.hbBlock_fixed, ↓fixed_foldl, implies_true, apply_ite Pkg.fixed, ite_self]

theorem Pkg.dpaWrite_fixed (k : Pkg) (a1 : Nat) (a2 : List PB) : (Pkg.dpaWrite k a1 a2).fixed = k.fixed := by
  unfold Pkg.dpaWrite
  repeat' (first | (simp only [↓Pkg.hbWrite_fixed]; done) | with_reducible refine fixed_foldl' (fun _ _ => ?_) ?_ | split)

theorem Pkg.homeWrite_fixed (k : Pkg) (a1 : Nat) (a2 : Nat) (a3 : Nat) (a4 : Nat) (a5 : List PB) : (Pkg.homeWrite k a1 a2 a3 a4 a5).fixed = k.fixed := by
  unfold Pkg.homeWrite
  simp only [↓Pkg.dpaWrite_fixed, ↓Pkg.dpaWriteThrough_fixed, apply_ite Pkg.fixed, ite_self]

theorem Pkg.homeRecord_fixed (k : Pkg) (a1 : Nat) (a2 : Nat) (a3 : Nat) : (Pkg.homeRecord k a1 a2 a3).fixed = k.fixed := by
  unfold Pkg.homeRecord
  simp only [↓Pkg.homeWrite_fixed, ↓Pkg.fixed_onClus]

theorem Pkg.reflush_fixed (k : Pkg) (a1 : Nat) (a2 : Nat) (a3 : Nat) (a4 : Nat) :
    (Pkg.reflush k a1 a2 a3 a4).fixed = k.fixed := by
  unfold Pkg.reflush
  repeat' (first | with_reducible rfl | (simp only [↓Pkg.homeRecord_fixed, ↓Pkg.homeWrite_fixed, ↓Pkg.fixed_mk, ↓Pkg.fixed_eta, ↓Pkg.fixed_onClus, ↓fixed_foldl, ↓fixed_iter, implies_true, apply_ite Pkg.fixed, ite_self]; done) | with_reducible refine fixed_ite' ?_ ?_ | with_reducible refine fixed_foldl' (fun _ _ => ?_) ?_ | with_reducible refine fixed_iter' (fun _ _ => ?_) ?_ | with_reducible refine fixed_foldl2' (fun _ _ => ?_) ?_ | with_reducible refine fixed_foldl3' (fun _ _ => ?_) ?_ | with_reducible refine (Pkg.fixed_onBu _ _ (fun _ => rfl)).trans ?_ | with_reducible refine (Pkg.fixed_onSec _ _ (fun _ => ⟨rfl, rfl⟩)).trans ?_ | simp only [↓Pkg.homeRecord_fixed, ↓Pkg.homeWrite_fixed, ↓Pkg.fixed_mk, ↓Pkg.fixed_eta, ↓Pkg.fixed_onClus] | with_reducible refine fixed_of_eq ‹_› ?_ | with_reducible refine fixed_of_eq1 ‹_› ?_ | split | dsimp only)

theorem Pkg.repairHome_fixed (k : Pkg) (a1 : Nat) : (Pkg.repairHome k a1).fixed = k.fixed := by
  unfold Pkg.repairHome
  repeat' (first | with_reducible rfl | (simp only [↓Pkg.reflush_fixed, ↓Pkg.fixed_mk, ↓Pkg.fixed_eta, ↓fixed_foldl, ↓fixed_iter, implies_true, apply_ite Pkg.fixed, ite_self]; done) | with_reducible refine fixed_ite' ?_ ?_ | with_reducible refine fixed_foldl' (fun _ _ => ?_) ?_ | with_reducible refine fixed_iter' (fun _ _ => ?_) ?_ | with_reducible refine fixed_foldl2' (fun _ _ => ?_) ?_ | with_reducible refine fixed_foldl3' (fun _ _ => ?_) ?_ | with_reducible refine (Pkg.fixed_onBu _ _ (fun _ => rfl)).trans ?_ | with_reducible refine (Pkg.fixed_onSec _ _ (fun _ => ⟨rfl, rfl⟩)).trans ?_ | simp only [↓Pkg.reflush_fixed, ↓Pkg.fixed_mk, ↓Pkg.fixed_eta] | with_reducible refine fixed_of_eq ‹_› ?_ | with_reducible refine fixed_of_eq1 ‹_› ?_ | split | dsimp only)

theorem Pkg.reflushPc_fixed (k : Pkg) (a1 : Nat) (a2 : Nat) : (Pkg.reflushPc k a1 a2).fixed = k.fixed := by
  unfold Pkg.reflushPc
  repeat' (first | with_reducible rfl | (simp only [↓Pkg.reflush_fixed, ↓Pkg.fixed_mk, ↓Pkg.fixed_eta, ↓fixed_foldl, ↓fixed_iter, implies_true, apply_ite Pkg.fixed, ite_self]; done) | with_reducible refine fixed_ite' ?_ ?_ | with_reducible refine fixed_foldl' (fun _ _ => ?_) ?_ | with_reducible refine fixed_iter' (fun _ _ => ?_) ?_ | with_reducible refine fixed_foldl2' (fun _ _ => ?_) ?_ | with_reducible refine fixed_foldl3' (fun _ _ => ?_) ?_ | with_reducible refine (Pkg.fixed_onBu _ _ (fun _ => rfl)).trans ?_ | with_reducible refine (Pkg.fixed_onSec _ _ (fun _ => ⟨rfl, rfl⟩)).trans ?_ | simp only [↓Pkg.reflush_fixed, ↓Pkg.fixed_mk, ↓Pkg.fixed_eta] | with_reducible refine fixed_of_eq ‹_› ?_ | with_reducible refine fixed_of_eq1 ‹_› ?_ | split | dsimp only)

theorem Pkg.bpAct_fixed (k : Pkg) (a1 : ErrRec) : (Pkg.bpAct k a1).fixed = k.fixed := by
  unfold Pkg.bpAct
  repeat' (first | with_reducible rfl | (simp only [↓Pkg.countReplay_fixed, ↓Pkg.reflushPc_fixed, ↓Pkg.rehomeNext_fixed, ↓Pkg.repairHome_fixed, ↓Pkg.repairStore_fixed, ↓Pkg.fixed_mk, ↓Pkg.fixed_eta, ↓Pkg.fixed_onBi, ↓fixed_foldl, ↓fixed_iter, implies_true, apply_ite Pkg.fixed, ite_self]; done) | with_reducible refine fixed_ite' ?_ ?_ | with_reducible refine fixed_foldl' (fun _ _ => ?_) ?_ | with_reducible refine fixed_iter' (fun _ _ => ?_) ?_ | with_reducible refine fixed_foldl2' (fun _ _ => ?_) ?_ | with_reducible refine fixed_foldl3' (fun _ _ => ?_) ?_ | with_reducible refine (Pkg.fixed_onBu _ _ (fun _ => rfl)).trans ?_ | with_reducible refine (Pkg.fixed_onSec _ _ (fun _ => ⟨rfl, rfl⟩)).trans ?_ | simp only [↓Pkg.countReplay_fixed, ↓Pkg.reflushPc_fixed, ↓Pkg.rehomeNext_fixed, ↓Pkg.repairHome_fixed, ↓Pkg.repairStore_fixed, ↓Pkg.fixed_mk, ↓Pkg.fixed_eta, ↓Pkg.fixed_onBi] | with_reducible refine fixed_of_eq ‹_› ?_ | with_reducible refine fixed_of_eq1 ‹_› ?_ | split | dsimp only)

theorem Pkg.bridgeRepair_fixed (k : Pkg) (a1 : Nat) (a2 : Nat) : (Pkg.bridgeRepair k a1 a2).fixed = k.fixed := by
  unfold Pkg.bridgeRepair
  simp only [↓Pkg.fixed_onClus, ↓Pkg.fixed_onNet, apply_ite Pkg.fixed, ite_self]

theorem Pkg.bye_fixed (k : Pkg) (a1 : Nat) : (Pkg.bye k a1).fixed = k.fixed := by
  unfold Pkg.bye
  (repeat' split) <;> simp only [↓Pkg.portDown_fixed]

theorem Pkg.cachePut_fixed (k : Pkg) (a1 : Nat) (a2 : CLine) : (Pkg.cachePut k a1 a2).fixed = k.fixed := by
  unfold Pkg.cachePut
  repeat' (first | simp only [↓Pkg.atRequest_fixed, ↓Pkg.fixed_onAtt, apply_ite Pkg.fixed, ite_self] | split)

theorem Pkg.pwEvent_fixed (k : Pkg) (a1 : Nat) (a2 : Nat) (a3 : Nat) (a4 : Nat) (a5 : Nat) (a6 : Nat) (a7 : Nat) (a8 : Nat) (a9 : optParam Bool false) : (Pkg.pwEvent k a1 a2 a3 a4 a5 a6 a7 a8 a9).fixed = k.fixed := by
  unfold Pkg.pwEvent
  simp only [↓Pkg.fixed_onCore]

theorem Pkg.capStep_fixed (k : Pkg) (a1 : Nat) (a2 : Nat) : (Pkg.capStep k a1 a2).2.fixed = k.fixed := by
  unfold Pkg.capStep
  repeat' (first | with_reducible rfl | (simp only [↓Pkg.rebook_fixed, ↓Pkg.fixed_mk, ↓Pkg.fixed_eta, ↓Pkg.fixed_onCore, ↓Pkg.fixed_onPw, ↓fixed_foldl, ↓fixed_iter, implies_true, apply_ite Pkg.fixed, ite_self, apply_ite Prod.fst, apply_ite Prod.snd]; done) | with_reducible refine fixed_ite' ?_ ?_ | with_reducible refine fixed_foldl' (fun _ _ => ?_) ?_ | with_reducible refine fixed_iter' (fun _ _ => ?_) ?_ | with_reducible refine fixed_foldl2' (fun _ _ => ?_) ?_ | with_reducible refine fixed_foldl3' (fun _ _ => ?_) ?_ | with_reducible refine (Pkg.fixed_onBu _ _ (fun _ => rfl)).trans ?_ | with_reducible refine (Pkg.fixed_onSec _ _ (fun _ => ⟨rfl, rfl⟩)).trans ?_ | simp only [↓Pkg.rebook_fixed, ↓Pkg.fixed_mk, ↓Pkg.fixed_eta, ↓Pkg.fixed_onCore, ↓Pkg.fixed_onPw] | with_reducible refine fixed_of_eq ‹_› ?_ | with_reducible refine fixed_of_eq1 ‹_› ?_ | split | dsimp only)

theorem Pkg.capLoop_fixed (k : Pkg) (a1 : Nat) : (Pkg.capLoop k a1).fixed = k.fixed := by
  unfold Pkg.capLoop
  simp only [↓Pkg.capStep_fixed, ↓Pkg.fixed_onCore, ↓Pkg.fixed_onPw, ↓Pkg.pwEvent_fixed, apply_ite Pkg.fixed, ite_self]

theorem Pkg.chooseMaster_fixed (k : Pkg) : (Pkg.chooseMaster k).fixed = k.fixed := by
  unfold Pkg.chooseMaster
  repeat' (first | with_reducible rfl | (simp only [↓Pkg.timeEvent_fixed, ↓Pkg.fixed_mk, ↓Pkg.fixed_eta, ↓Pkg.fixed_onCore, ↓Pkg.fixed_onFab, ↓fixed_foldl, ↓fixed_iter, implies_true, apply_ite Pkg.fixed, ite_self]; done) | with_reducible refine fixed_ite' ?_ ?_ | with_reducible refine fixed_foldl' (fun _ _ => ?_) ?_ | with_reducible refine fixed_iter' (fun _ _ => ?_) ?_ | with_reducible refine fixed_foldl2' (fun _ _ => ?_) ?_ | with_reducible refine fixed_foldl3' (fun _ _ => ?_) ?_ | with_reducible refine (Pkg.fixed_onBu _ _ (fun _ => rfl)).trans ?_ | with_reducible refine (Pkg.fixed_onSec _ _ (fun _ => ⟨rfl, rfl⟩)).trans ?_ | simp only [↓Pkg.timeEvent_fixed, ↓Pkg.fixed_mk, ↓Pkg.fixed_eta, ↓Pkg.fixed_onCore, ↓Pkg.fixed_onFab] | with_reducible refine fixed_of_eq ‹_› ?_ | with_reducible refine fixed_of_eq1 ‹_› ?_ | split | dsimp only)

theorem Pkg.clockApply_fixed (k : Pkg) : (Pkg.clockApply k).fixed = k.fixed := by
  unfold Pkg.clockApply
  simp only [↓Pkg.fixed_onClus, ↓Pkg.fixed_onCore, apply_ite Pkg.fixed, ite_self]

theorem Pkg.clockGate_fixed (k : Pkg) (a1 : Nat) : (Pkg.clockGate k a1).fixed = k.fixed := by
  unfold Pkg.clockGate
  (repeat' split) <;> simp only [↓Pkg.fixed_onCore]

theorem Pkg.riseDue_fixed (k : Pkg) : (Pkg.riseDue k).fixed = k.fixed := by
  unfold Pkg.riseDue
  repeat' (first | with_reducible rfl | (simp only [↓Pkg.rebook_fixed, ↓Pkg.fixed_mk, ↓Pkg.fixed_eta, ↓Pkg.fixed_onCore, ↓fixed_foldl, ↓fixed_iter, implies_true, apply_ite Pkg.fixed, ite_self]; done) | with_reducible refine fixed_ite' ?_ ?_ | with_reducible refine fixed_foldl' (fun _ _ => ?_) ?_ | with_reducible refine fixed_iter' (fun _ _ => ?_) ?_ | with_reducible refine fixed_foldl2' (fun _ _ => ?_) ?_ | with_reducible refine fixed_foldl3' (fun _ _ => ?_) ?_ | with_reducible refine (Pkg.fixed_onBu _ _ (fun _ => rfl)).trans ?_ | with_reducible refine (Pkg.fixed_onSec _ _ (fun _ => ⟨rfl, rfl⟩)).trans ?_ | simp only [↓Pkg.rebook_fixed, ↓Pkg.fixed_mk, ↓Pkg.fixed_eta, ↓Pkg.fixed_onCore] | with_reducible refine fixed_of_eq ‹_› ?_ | with_reducible refine fixed_of_eq1 ‹_› ?_ | split | dsimp only)

theorem Pkg.pinsRise_fixed (k : Pkg) : (Pkg.pinsRise k).fixed = k.fixed := by
  unfold Pkg.pinsRise
  (repeat' split) <;> simp only [↓Pkg.fixed_eta, ↓Pkg.fixed_mk]

theorem Pkg.clockStep_fixed (k : Pkg) : (Pkg.clockStep k).fixed = k.fixed := by
  unfold Pkg.clockStep
  simp only [↓Pkg.advertise_fixed, ↓Pkg.clockApply_fixed, ↓Pkg.fixed_onCore, ↓Pkg.pinsRise_fixed, ↓Pkg.riseDue_fixed]

theorem Pkg.lnLate_fixed (k : Pkg) : (Pkg.lnLate k).fixed = k.fixed := by
  unfold Pkg.lnLate
  simp only [↓Pkg.fixed_onClus, ↓Pkg.fixed_onNet, ↓fixed_foldl, implies_true]

theorem Pkg.setCycle_fixed (k : Pkg) (a1 : Nat) : (Pkg.setCycle k a1).fixed = k.fixed := by
  unfold Pkg.setCycle
  simp only [↓Pkg.fixed_onCore]

theorem Pkg.closeEndPackage_fixed (k : Pkg) : (Pkg.closeEndPackage k).fixed = k.fixed := by
  unfold Pkg.closeEndPackage
  simp only [↓Pkg.lnLate_fixed, ↓Pkg.setCycle_fixed]

theorem Pkg.comparePilot_fixed (k : Pkg) (a1 : Nat) : (Pkg.comparePilot k a1).fixed = k.fixed := by
  unfold Pkg.comparePilot
  repeat' (first | simp only [↓Pkg.fixed_eta, ↓Pkg.fixed_mk, ↓Pkg.fixed_onClus, ↓Pkg.fixed_onCore, apply_ite Pkg.fixed, ite_self] | split)

theorem Pkg.closeEndRegion_fixed (k : Pkg) (a1 : Nat) : (Pkg.closeEndRegion k a1).fixed = k.fixed := by
  unfold Pkg.closeEndRegion
  simp only [↓Pkg.comparePilot_fixed, ↓Pkg.fixed_onClus]

theorem Pkg.cutEvent_fixed (k : Pkg) (a1 : Nat) (a2 : Nat) (a3 : Nat) : (Pkg.cutEvent k a1 a2 a3).fixed = k.fixed := by
  unfold Pkg.cutEvent
  simp only [↓Pkg.fixed_onCore]

theorem Pkg.cutClose_fixed (k : Pkg) : (Pkg.cutClose k).fixed = k.fixed := by
  unfold Pkg.cutClose
  simp only [↓Pkg.cmdEnd_fixed, ↓Pkg.cutEvent_fixed, ↓Pkg.dropCut_fixed, ↓fixed_foldl, implies_true, apply_ite Pkg.fixed, ite_self]

theorem Pkg.closePackage_fixed (k : Pkg) : (Pkg.closePackage k).fixed = k.fixed := by
  unfold Pkg.closePackage
  simp only [↓Pkg.cutClose_fixed, ↓Pkg.setCycle_fixed]

theorem Pkg.stopSlot_fixed (k : Pkg) (a1 : Nat) (a2 : Nat) (a3 : Nat) (a4 : Bool) : (Pkg.stopSlot k a1 a2 a3 a4).fixed = k.fixed := by
  unfold Pkg.stopSlot
  simp only [↓Pkg.fixed_onClus, ↓Pkg.fixed_onNet]

theorem Pkg.judge_fixed (k : Pkg) (a1 : Nat) (a2 : Nat) (a3 : SlotRun) (a4 : Bool) : (Pkg.judge k a1 a2 a3 a4).fixed = k.fixed := by
  unfold Pkg.judge
  (repeat' split) <;> simp only [↓Pkg.fixed_onClus, ↓Pkg.stopSlot_fixed]

theorem Pkg.closeRegion_fixed (k : Pkg) (a1 : Nat) : (Pkg.closeRegion k a1).fixed = k.fixed := by
  unfold Pkg.closeRegion
  repeat' (first | with_reducible rfl | (simp only [↓Pkg.judge_fixed, ↓Pkg.fixed_mk, ↓Pkg.fixed_eta, ↓Pkg.fixed_onClus, ↓fixed_foldl, ↓fixed_iter, implies_true, apply_ite Pkg.fixed, ite_self]; done) | with_reducible refine fixed_ite' ?_ ?_ | with_reducible refine fixed_foldl' (fun _ _ => ?_) ?_ | with_reducible refine fixed_iter' (fun _ _ => ?_) ?_ | with_reducible refine fixed_foldl2' (fun _ _ => ?_) ?_ | with_reducible refine fixed_foldl3' (fun _ _ => ?_) ?_ | with_reducible refine (Pkg.fixed_onBu _ _ (fun _ => rfl)).trans ?_ | with_reducible refine (Pkg.fixed_onSec _ _ (fun _ => ⟨rfl, rfl⟩)).trans ?_ | simp only [↓Pkg.judge_fixed, ↓Pkg.fixed_mk, ↓Pkg.fixed_eta, ↓Pkg.fixed_onClus] | with_reducible refine fixed_of_eq ‹_› ?_ | with_reducible refine fixed_of_eq1 ‹_› ?_ | split | dsimp only)

theorem Pkg.fencePut_fixed (k : Pkg) (a1 : FenceEnt) (a2 : Nat) : (Pkg.fencePut k a1 a2).fixed = k.fixed := by
  unfold Pkg.fencePut
  simp only [↓Pkg.fixed_onBi, ↓Pkg.fixed_onCore, apply_ite Pkg.fixed, ite_self]

theorem Pkg.fenceField_fixed (k : Pkg) (a1 : Nat) (a2 : Nat) (a3 : Bool) : (Pkg.fenceField k a1 a2 a3).fixed = k.fixed := by
  unfold Pkg.fenceField
  simp only [↓Pkg.fencePut_fixed]

theorem Pkg.fenceClu_fixed (k : Pkg) (a1 : Nat) (a2 : Nat) (a3 : Bool) :
    (Pkg.fenceClu k a1 a2 a3).fixed = k.fixed := by
  unfold Pkg.fenceClu
  repeat' (first | with_reducible rfl | (simp only [↓Pkg.fenceField_fixed, ↓Pkg.fixed_mk, ↓Pkg.fixed_eta, ↓Pkg.fixed_onCore, ↓fixed_foldl, ↓fixed_iter, implies_true, apply_ite Pkg.fixed, ite_self]; done) | with_reducible refine fixed_ite' ?_ ?_ | with_reducible refine fixed_foldl' (fun _ _ => ?_) ?_ | with_reducible refine fixed_iter' (fun _ _ => ?_) ?_ | with_reducible refine fixed_foldl2' (fun _ _ => ?_) ?_ | with_reducible refine fixed_foldl3' (fun _ _ => ?_) ?_ | with_reducible refine (Pkg.fixed_onBu _ _ (fun _ => rfl)).trans ?_ | with_reducible refine (Pkg.fixed_onSec _ _ (fun _ => ⟨rfl, rfl⟩)).trans ?_ | simp only [↓Pkg.fenceField_fixed, ↓Pkg.fixed_mk, ↓Pkg.fixed_eta, ↓Pkg.fixed_onCore] | with_reducible refine fixed_of_eq ‹_› ?_ | with_reducible refine fixed_of_eq1 ‹_› ?_ | split | dsimp only)

theorem Pkg.clusterRelief_fixed (k : Pkg) (a1 : Nat) : (Pkg.clusterRelief k a1).fixed = k.fixed := by
  unfold Pkg.clusterRelief
  repeat' (first | with_reducible rfl | (simp only [↓Pkg.abandon_fixed, ↓Pkg.biShow_fixed, ↓Pkg.fenceClu_fixed, ↓Pkg.setMove_fixed, ↓Pkg.stopTest_fixed, ↓Pkg.fixed_mk, ↓Pkg.fixed_eta, ↓Pkg.fixed_onCore, ↓Pkg.fixed_onClus, ↓fixed_foldl, ↓fixed_iter, implies_true, apply_ite Pkg.fixed, ite_self]; done) | with_reducible refine fixed_ite' ?_ ?_ | with_reducible refine fixed_foldl' (fun _ _ => ?_) ?_ | with_reducible refine fixed_iter' (fun _ _ => ?_) ?_ | with_reducible refine fixed_foldl2' (fun _ _ => ?_) ?_ | with_reducible refine fixed_foldl3' (fun _ _ => ?_) ?_ | with_reducible refine (Pkg.fixed_onBu _ _ (fun _ => rfl)).trans ?_ | with_reducible refine (Pkg.fixed_onSec _ _ (fun _ => ⟨rfl, rfl⟩)).trans ?_ | simp only [↓Pkg.abandon_fixed, ↓Pkg.biShow_fixed, ↓Pkg.fenceClu_fixed, ↓Pkg.setMove_fixed, ↓Pkg.stopTest_fixed, ↓Pkg.fixed_mk, ↓Pkg.fixed_eta, ↓Pkg.fixed_onCore, ↓Pkg.fixed_onClus] | with_reducible refine fixed_of_eq ‹_› ?_ | with_reducible refine fixed_of_eq1 ‹_› ?_ | split | dsimp only)

theorem Pkg.cmdRun_fixed (k : Pkg) (a1 : Nat) (a2 : Nat) (a3 : Nat) (a4 : W32) : (Pkg.cmdRun k a1 a2 a3 a4).fixed = k.fixed := by
  unfold Pkg.cmdRun
  (repeat' split) <;> simp only [↓Pkg.fixed_onAtt]

theorem Pkg.countRetry_fixed (k : Pkg) (a1 : Nat) (a2 : Nat) (a3 : Packet) (a4 : Bool) : (Pkg.countRetry k a1 a2 a3 a4).fixed = k.fixed := by
  unfold Pkg.countRetry
  simp only [↓Pkg.fixed_onClus, ↓Pkg.fixed_onNet, apply_ite Pkg.fixed, ite_self]

theorem Pkg.exhaust_fixed (k : Pkg) (a1 : Nat) (a2 : Nat) (a3 : Packet) :
    (Pkg.exhaust k a1 a2 a3).fixed = k.fixed := by
  unfold Pkg.exhaust
  repeat' (first | with_reducible rfl | (simp only [↓Pkg.dropPacket_fixed, ↓Pkg.fixed_mk, ↓Pkg.fixed_eta, ↓fixed_foldl, ↓fixed_iter, implies_true, apply_ite Pkg.fixed, ite_self]; done) | with_reducible refine fixed_ite' ?_ ?_ | with_reducible refine fixed_foldl' (fun _ _ => ?_) ?_ | with_reducible refine fixed_iter' (fun _ _ => ?_) ?_ | with_reducible refine fixed_foldl2' (fun _ _ => ?_) ?_ | with_reducible refine fixed_foldl3' (fun _ _ => ?_) ?_ | with_reducible refine (Pkg.fixed_onBu _ _ (fun _ => rfl)).trans ?_ | with_reducible refine (Pkg.fixed_onSec _ _ (fun _ => ⟨rfl, rfl⟩)).trans ?_ | simp only [↓Pkg.dropPacket_fixed, ↓Pkg.fixed_mk, ↓Pkg.fixed_eta] | with_reducible refine fixed_of_eq ‹_› ?_ | with_reducible refine fixed_of_eq1 ‹_› ?_ | split | dsimp only)

theorem Pkg.cross_fixed (pk : Packet) (x : Pkg × Bool) (a : Nat × Nat) : (Pkg.cross pk x a).1.fixed = x.1.fixed := by
  unfold Pkg.cross
  repeat' (first | simp only [↓Pkg.countRetry_fixed, ↓Pkg.exhaust_fixed, ↓Pkg.fixed_onClus, ↓Pkg.fixed_onNet, apply_ite Pkg.fixed, ite_self] | split)

theorem Pkg.injectAt_fixed (k : Pkg) (a1 : Bool) (a2 : Nat) (a3 : Packet) :
    (Pkg.injectAt k a1 a2 a3).fixed = k.fixed := by
  unfold Pkg.injectAt
  repeat' (first | with_reducible rfl | (simp only [↓Pkg.badPacket_fixed, ↓Pkg.cross_fixed, ↓Pkg.fixed_mk, ↓Pkg.fixed_eta, ↓Pkg.fixed_onCore, ↓Pkg.fixed_onClus, ↓Pkg.fixed_onNet, ↓fixed_foldl, ↓fixed_iter, implies_true, apply_ite Pkg.fixed, ite_self, apply_ite Prod.fst, apply_ite Prod.snd]; done) | with_reducible refine fixed_ite' ?_ ?_ | with_reducible refine fixed_foldl' (fun _ _ => ?_) ?_ | with_reducible refine fixed_iter' (fun _ _ => ?_) ?_ | with_reducible refine fixed_foldl2' (fun _ _ => ?_) ?_ | with_reducible refine fixed_foldl3' (fun _ _ => ?_) ?_ | with_reducible refine (Pkg.fixed_onBu _ _ (fun _ => rfl)).trans ?_ | with_reducible refine (Pkg.fixed_onSec _ _ (fun _ => ⟨rfl, rfl⟩)).trans ?_ | simp only [↓Pkg.badPacket_fixed, ↓Pkg.cross_fixed, ↓Pkg.fixed_mk, ↓Pkg.fixed_eta, ↓Pkg.fixed_onCore, ↓Pkg.fixed_onClus, ↓Pkg.fixed_onNet] | with_reducible refine fixed_of_eq ‹_› ?_ | with_reducible refine fixed_of_eq1 ‹_› ?_ | split | dsimp only)

theorem Pkg.inject_fixed (k : Pkg) (a1 : Bool) (a2 : Nat) (a3 : Nat) (a4 : Packet) : (Pkg.inject k a1 a2 a3 a4).fixed = k.fixed := by
  unfold Pkg.inject
  simp only [↓Pkg.injectAt_fixed]

theorem Pkg.xferFinish_fixed (k : Pkg) (a1 : Packet) : (Pkg.xferFinish k a1).fixed = k.fixed := by
  unfold Pkg.xferFinish
  repeat' (first | with_reducible refine fixed_foldl' (fun _ _ => ?_) ?_ | simp only [↓Pkg.cachePut_fixed, ↓Pkg.inject_fixed, apply_ite Pkg.fixed] | split)

theorem Pkg.xferTry_fixed (k : Pkg) (a1 : AtXfer) : (Pkg.xferTry k a1).fixed = k.fixed := by
  unfold Pkg.xferTry
  repeat' (first | with_reducible refine fixed_ite' ?_ ?_ | with_reducible refine fixed_foldl3' (fun _ _ => ?_) ?_ | simp only [↓Pkg.atRequest_fixed, ↓Pkg.fixed_onAtt, ↓Pkg.xferFinish_fixed])

theorem Pkg.reqDone_fixed (k : Pkg) (a1 : Nat) : (Pkg.reqDone k a1).fixed = k.fixed := by
  unfold Pkg.reqDone
  simp only [↓Pkg.fixed_onAtt, ↓Pkg.xferTry_fixed, ↓fixed_foldl, implies_true]

theorem Pkg.cmp_fixed (k : Pkg) (a1 : SalMsg) : (Pkg.cmp k a1).fixed = k.fixed := by
  unfold Pkg.cmp
  (repeat' split) <;> simp only [↓Pkg.fixed_onAtt, ↓Pkg.reqDone_fixed]

theorem Pkg.setLanes_fixed (k : Pkg) (a1 : Nat) (a2 : Nat) : (Pkg.setLanes k a1 a2).fixed = k.fixed := by
  unfold Pkg.setLanes
  simp only [↓Pkg.setLink_fixed, ↓Pkg.showLanes_fixed]

theorem Pkg.widthApply_fixed (k : Pkg) (a1 : Nat) : (Pkg.widthApply k a1).fixed = k.fixed := by
  unfold Pkg.widthApply
  repeat' (first | with_reducible rfl | (simp only [↓Pkg.setLanes_fixed, ↓Pkg.fixed_mk, ↓Pkg.fixed_eta, ↓fixed_foldl, ↓fixed_iter, implies_true, apply_ite Pkg.fixed, ite_self]; done) | with_reducible refine fixed_ite' ?_ ?_ | with_reducible refine fixed_foldl' (fun _ _ => ?_) ?_ | with_reducible refine fixed_iter' (fun _ _ => ?_) ?_ | with_reducible refine fixed_foldl2' (fun _ _ => ?_) ?_ | with_reducible refine fixed_foldl3' (fun _ _ => ?_) ?_ | with_reducible refine (Pkg.fixed_onBu _ _ (fun _ => rfl)).trans ?_ | with_reducible refine (Pkg.fixed_onSec _ _ (fun _ => ⟨rfl, rfl⟩)).trans ?_ | simp only [↓Pkg.setLanes_fixed, ↓Pkg.fixed_mk, ↓Pkg.fixed_eta] | with_reducible refine fixed_of_eq ‹_› ?_ | with_reducible refine fixed_of_eq1 ‹_› ?_ | split | dsimp only)

theorem Pkg.codeWord_fixed (k : Pkg) (a1 : Nat) (a2 : Nat) (a3 : Nat) (a4 : CwQuality) :
    (Pkg.codeWord k a1 a2 a3 a4).fixed = k.fixed := by
  unfold Pkg.codeWord
  repeat' (first | with_reducible rfl | (simp only [↓Pkg.laneDrop_fixed, ↓Pkg.setLink_fixed, ↓Pkg.widthApply_fixed, ↓Pkg.fixed_mk, ↓Pkg.fixed_eta, ↓Pkg.fixed_onCore, ↓fixed_foldl, ↓fixed_iter, implies_true, apply_ite Pkg.fixed, ite_self]; done) | with_reducible refine fixed_ite' ?_ ?_ | with_reducible refine fixed_foldl' (fun _ _ => ?_) ?_ | with_reducible refine fixed_iter' (fun _ _ => ?_) ?_ | with_reducible refine fixed_foldl2' (fun _ _ => ?_) ?_ | with_reducible refine fixed_foldl3' (fun _ _ => ?_) ?_ | with_reducible refine (Pkg.fixed_onBu _ _ (fun _ => rfl)).trans ?_ | with_reducible refine (Pkg.fixed_onSec _ _ (fun _ => ⟨rfl, rfl⟩)).trans ?_ | simp only [↓Pkg.laneDrop_fixed, ↓Pkg.setLink_fixed, ↓Pkg.widthApply_fixed, ↓Pkg.fixed_mk, ↓Pkg.fixed_eta, ↓Pkg.fixed_onCore] | with_reducible refine fixed_of_eq ‹_› ?_ | with_reducible refine fixed_of_eq1 ‹_› ?_ | split | dsimp only)

theorem Pkg.setCollRun_fixed (k : Pkg) (a1 : Nat) (a2 : Nat) (a3 : Option CollRun) : (Pkg.setCollRun k a1 a2 a3).fixed = k.fixed := by
  unfold Pkg.setCollRun
  simp only [↓Pkg.fixed_onCore, ↓Pkg.fixed_onFab]

theorem Pkg.lineRead_fixed (k : Pkg) (a1 : Nat) (a2 : Nat) (a3 : Nat) (a4 : Nat) (a5 : Nat) (a6 : Who) :
    (Pkg.lineRead k a1 a2 a3 a4 a5 a6).2.2.fixed = k.fixed := by
  unfold Pkg.lineRead
  repeat' (first | with_reducible rfl | (simp only [↓Pkg.fixed_mk, ↓Pkg.fixed_eta, ↓fixed_foldl, ↓fixed_iter, implies_true, apply_ite Pkg.fixed, ite_self, apply_ite Prod.fst, apply_ite Prod.snd]; done) | with_reducible refine fixed_ite' ?_ ?_ | with_reducible refine fixed_foldl' (fun _ _ => ?_) ?_ | with_reducible refine fixed_iter' (fun _ _ => ?_) ?_ | with_reducible refine fixed_foldl2' (fun _ _ => ?_) ?_ | with_reducible refine fixed_foldl3' (fun _ _ => ?_) ?_ | with_reducible refine (Pkg.fixed_onBu _ _ (fun _ => rfl)).trans ?_ | with_reducible refine (Pkg.fixed_onSec _ _ (fun _ => ⟨rfl, rfl⟩)).trans ?_ | simp only [↓Pkg.fixed_mk, ↓Pkg.fixed_eta] | with_reducible refine fixed_of_eq ‹_› ?_ | with_reducible refine fixed_of_eq1 ‹_› ?_ | split | dsimp only)

theorem Pkg.collRead_fixed (k : Pkg) (a1 : Nat) (a2 : DEnd) (a3 : Nat) (a4 : Nat) :
    (Pkg.collRead k a1 a2 a3 a4).2.fixed = k.fixed := by
  unfold Pkg.collRead
  repeat' (first | with_reducible rfl | (simp only [↓Pkg.dpaRead_fixed, ↓Pkg.lineRead_fixed, ↓Pkg.fixed_mk, ↓Pkg.fixed_eta, ↓fixed_foldl, ↓fixed_iter, implies_true, apply_ite Pkg.fixed, ite_self, apply_ite Prod.fst, apply_ite Prod.snd]; done) | with_reducible refine fixed_ite' ?_ ?_ | with_reducible refine fixed_foldl' (fun _ _ => ?_) ?_ | with_reducible refine fixed_iter' (fun _ _ => ?_) ?_ | with_reducible refine fixed_foldl2' (fun _ _ => ?_) ?_ | with_reducible refine fixed_foldl3' (fun _ _ => ?_) ?_ | with_reducible refine (Pkg.fixed_onBu _ _ (fun _ => rfl)).trans ?_ | with_reducible refine (Pkg.fixed_onSec _ _ (fun _ => ⟨rfl, rfl⟩)).trans ?_ | simp only [↓Pkg.dpaRead_fixed, ↓Pkg.lineRead_fixed, ↓Pkg.fixed_mk, ↓Pkg.fixed_eta] | with_reducible refine fixed_of_eq ‹_› ?_ | with_reducible refine fixed_of_eq1 ‹_› ?_ | split | dsimp only)

theorem Pkg.noteMirror_fixed (k : Pkg) (a1 : Nat) (a2 : Nat) (a3 : Nat) (a4 : Nat) (a5 : Nat) : (Pkg.noteMirror k a1 a2 a3 a4 a5).fixed = k.fixed := by
  unfold Pkg.noteMirror
  simp only [↓Pkg.fixed_onNet, ↓fixed_iter, implies_true, apply_ite Pkg.fixed, ite_self]

theorem Pkg.lineWrite_fixed (k : Pkg) (a1 : Nat) (a2 : Nat) (a3 : Nat) (a4 : Nat) (a5 : List PB) (a6 : Who) :
    (Pkg.lineWrite k a1 a2 a3 a4 a5 a6).2.fixed = k.fixed := by
  unfold Pkg.lineWrite
  repeat' (first | with_reducible rfl | (simp only [↓Pkg.noteMirror_fixed, ↓Pkg.fixed_mk, ↓Pkg.fixed_eta, ↓fixed_foldl, ↓fixed_iter, implies_true, apply_ite Pkg.fixed, ite_self, apply_ite Prod.fst, apply_ite Prod.snd]; done) | with_reducible refine fixed_ite' ?_ ?_ | with_reducible refine fixed_foldl' (fun _ _ => ?_) ?_ | with_reducible refine fixed_iter' (fun _ _ => ?_) ?_ | with_reducible refine fixed_foldl2' (fun _ _ => ?_) ?_ | with_reducible refine fixed_foldl3' (fun _ _ => ?_) ?_ | with_reducible refine (Pkg.fixed_onBu _ _ (fun _ => rfl)).trans ?_ | with_reducible refine (Pkg.fixed_onSec _ _ (fun _ => ⟨rfl, rfl⟩)).trans ?_ | simp only [↓Pkg.noteMirror_fixed, ↓Pkg.fixed_mk, ↓Pkg.fixed_eta] | with_reducible refine fixed_of_eq ‹_› ?_ | with_reducible refine fixed_of_eq1 ‹_› ?_ | split | dsimp only)

theorem Pkg.collWrite_fixed (k : Pkg) (a1 : Nat) (a2 : DEnd) (a3 : Nat) (a4 : List PB) : (Pkg.collWrite k a1 a2 a3 a4).fixed = k.fixed := by
  unfold Pkg.collWrite
  simp only [↓Pkg.dpaWrite_fixed, ↓Pkg.lineWrite_fixed, ↓fixed_foldl, implies_true, apply_ite Pkg.fixed, ite_self]

theorem Pkg.sendChunk_fixed (k : Pkg) (a1 : Nat) (a2 : Nat) (a3 : Nat) : (Pkg.sendChunk k a1 a2 a3).fixed = k.fixed := by
  unfold Pkg.sendChunk
  repeat' (first | simp only [↓Pkg.fixed_onCore, ↓Pkg.sendTo_fixed, ↓fixed_foldl, implies_true] | split)

theorem Pkg.stageChunk_fixed (k : Pkg) (a1 : Nat) (a2 : Nat) (a3 : Nat) (a4 : List PB) : (Pkg.stageChunk k a1 a2 a3 a4).fixed = k.fixed := by
  unfold Pkg.stageChunk
  (repeat' split) <;> simp only [↓Pkg.sendChunk_fixed, ↓Pkg.setCollRun_fixed]

theorem Pkg.collNext_fixed (k : Pkg) (a1 : Nat) (a2 : Nat) : (Pkg.collNext k a1 a2).fixed = k.fixed := by
  unfold Pkg.collNext
  repeat' (first | with_reducible rfl | (simp only [↓Pkg.collRead_fixed, ↓Pkg.collWrite_fixed, ↓Pkg.setCollRun_fixed, ↓Pkg.stageChunk_fixed, ↓Pkg.fixed_mk, ↓Pkg.fixed_eta, ↓fixed_foldl, ↓fixed_iter, implies_true, apply_ite Pkg.fixed, ite_self, apply_ite Prod.fst, apply_ite Prod.snd]; done) | with_reducible refine fixed_ite' ?_ ?_ | with_reducible refine fixed_foldl' (fun _ _ => ?_) ?_ | with_reducible refine fixed_iter' (fun _ _ => ?_) ?_ | with_reducible refine fixed_foldl2' (fun _ _ => ?_) ?_ | with_reducible refine fixed_foldl3' (fun _ _ => ?_) ?_ | with_reducible refine (Pkg.fixed_onBu _ _ (fun _ => rfl)).trans ?_ | with_reducible refine (Pkg.fixed_onSec _ _ (fun _ => ⟨rfl, rfl⟩)).trans ?_ | simp only [↓Pkg.collRead_fixed, ↓Pkg.collWrite_fixed, ↓Pkg.setCollRun_fixed, ↓Pkg.stageChunk_fixed, ↓Pkg.fixed_mk, ↓Pkg.fixed_eta] | with_reducible refine fixed_of_eq ‹_› ?_ | with_reducible refine fixed_of_eq1 ‹_› ?_ | split | dsimp only)

theorem Pkg.collPump_fixed (k : Pkg) (a1 : Nat) (a2 : Nat) : (Pkg.collPump k a1 a2).fixed = k.fixed := by
  unfold Pkg.collPump
  repeat' (first | with_reducible rfl | (simp only [↓Pkg.collNext_fixed, ↓Pkg.fixed_mk, ↓Pkg.fixed_eta, ↓fixed_foldl, ↓fixed_iter, implies_true, apply_ite Pkg.fixed, ite_self]; done) | with_reducible refine fixed_ite' ?_ ?_ | with_reducible refine fixed_foldl' (fun _ _ => ?_) ?_ | with_reducible refine fixed_iter' (fun _ _ => ?_) ?_ | with_reducible refine fixed_foldl2' (fun _ _ => ?_) ?_ | with_reducible refine fixed_foldl3' (fun _ _ => ?_) ?_ | with_reducible refine (Pkg.fixed_onBu _ _ (fun _ => rfl)).trans ?_ | with_reducible refine (Pkg.fixed_onSec _ _ (fun _ => ⟨rfl, rfl⟩)).trans ?_ | simp only [↓Pkg.collNext_fixed, ↓Pkg.fixed_mk, ↓Pkg.fixed_eta] | with_reducible refine fixed_of_eq ‹_› ?_ | with_reducible refine fixed_of_eq1 ‹_› ?_ | split | dsimp only)

theorem Pkg.collAck_fixed (k : Pkg) (a1 : Frame) : (Pkg.collAck k a1).fixed = k.fixed := by
  unfold Pkg.collAck
  repeat' (first | with_reducible rfl | (simp only [↓Pkg.collPump_fixed, ↓Pkg.setCollRun_fixed, ↓Pkg.fixed_mk, ↓Pkg.fixed_eta, ↓fixed_foldl, ↓fixed_iter, implies_true, apply_ite Pkg.fixed, ite_self]; done) | with_reducible refine fixed_ite' ?_ ?_ | with_reducible refine fixed_foldl' (fun _ _ => ?_) ?_ | with_reducible refine fixed_iter' (fun _ _ => ?_) ?_ | with_reducible refine fixed_foldl2' (fun _ _ => ?_) ?_ | with_reducible refine fixed_foldl3' (fun _ _ => ?_) ?_ | with_reducible refine (Pkg.fixed_onBu _ _ (fun _ => rfl)).trans ?_ | with_reducible refine (Pkg.fixed_onSec _ _ (fun _ => ⟨rfl, rfl⟩)).trans ?_ | simp only [↓Pkg.collPump_fixed, ↓Pkg.setCollRun_fixed, ↓Pkg.fixed_mk, ↓Pkg.fixed_eta] | with_reducible refine fixed_of_eq ‹_› ?_ | with_reducible refine fixed_of_eq1 ‹_› ?_ | split | dsimp only)

theorem Pkg.collAckSend_fixed (k : Pkg) (a1 : Frame) : (Pkg.collAckSend k a1).fixed = k.fixed := by
  unfold Pkg.collAckSend
  simp only [↓Pkg.sendTo_fixed]

theorem Pkg.collData_fixed (k : Pkg) (a1 : Frame) : (Pkg.collData k a1).fixed = k.fixed := by
  unfold Pkg.collData
  repeat' (first | simp only [↓Pkg.setCollRun_fixed, apply_ite Pkg.fixed, ite_self] | split)

theorem Pkg.dropRuns_fixed (k : Pkg) (a1 : Nat → Bool) : (Pkg.dropRuns k a1).fixed = k.fixed := by
  unfold Pkg.dropRuns
  repeat' (first | with_reducible rfl | (simp only [↓Pkg.fixed_mk, ↓Pkg.fixed_eta, ↓Pkg.fixed_onCore, ↓Pkg.fixed_onFab, ↓fixed_foldl, ↓fixed_iter, implies_true, apply_ite Pkg.fixed, ite_self]; done) | with_reducible refine fixed_ite' ?_ ?_ | with_reducible refine fixed_foldl' (fun _ _ => ?_) ?_ | with_reducible refine fixed_iter' (fun _ _ => ?_) ?_ | with_reducible refine fixed_foldl2' (fun _ _ => ?_) ?_ | with_reducible refine fixed_foldl3' (fun _ _ => ?_) ?_ | with_reducible refine (Pkg.fixed_onBu _ _ (fun _ => rfl)).trans ?_ | with_reducible refine (Pkg.fixed_onSec _ _ (fun _ => ⟨rfl, rfl⟩)).trans ?_ | simp only [↓Pkg.fixed_mk, ↓Pkg.fixed_eta, ↓Pkg.fixed_onCore, ↓Pkg.fixed_onFab] | with_reducible refine fixed_of_eq ‹_› ?_ | with_reducible refine fixed_of_eq1 ‹_› ?_ | split | dsimp only)

theorem Pkg.endRuns_fixed (k : Pkg) (a1 : Nat) : (Pkg.endRuns k a1).fixed = k.fixed := by
  unfold Pkg.endRuns
  repeat' (first | with_reducible rfl | (simp only [↓Pkg.dropRuns_fixed, ↓Pkg.fixed_mk, ↓Pkg.fixed_eta, ↓fixed_foldl, ↓fixed_iter, implies_true, apply_ite Pkg.fixed, ite_self]; done) | with_reducible refine fixed_ite' ?_ ?_ | with_reducible refine fixed_foldl' (fun _ _ => ?_) ?_ | with_reducible refine fixed_iter' (fun _ _ => ?_) ?_ | with_reducible refine fixed_foldl2' (fun _ _ => ?_) ?_ | with_reducible refine fixed_foldl3' (fun _ _ => ?_) ?_ | with_reducible refine (Pkg.fixed_onBu _ _ (fun _ => rfl)).trans ?_ | with_reducible refine (Pkg.fixed_onSec _ _ (fun _ => ⟨rfl, rfl⟩)).trans ?_ | simp only [↓Pkg.dropRuns_fixed, ↓Pkg.fixed_mk, ↓Pkg.fixed_eta] | with_reducible refine fixed_of_eq ‹_› ?_ | with_reducible refine fixed_of_eq1 ‹_› ?_ | split | dsimp only)

theorem Pkg.stopApply_fixed (k : Pkg) (a1 : Nat) (a2 : Bool) : (Pkg.stopApply k a1 a2).fixed = k.fixed := by
  unfold Pkg.stopApply
  (repeat' split) <;> simp only [↓Pkg.endRuns_fixed, ↓Pkg.fixed_onClus, ↓Pkg.fixed_onCore, ↓Pkg.fixed_onFab]

theorem Pkg.stopNote_fixed (k : Pkg) (a1 : Nat) (a2 : Nat) (a3 : Nat) (a4 : Nat) : (Pkg.stopNote k a1 a2 a3 a4).fixed = k.fixed := by
  unfold Pkg.stopNote
  simp only [↓Pkg.fixed_onFab, ↓Pkg.stopApply_fixed, apply_ite Pkg.fixed, ite_self]

theorem Pkg.stopEmit_fixed (k : Pkg) (a1 : Nat) (a2 : Nat) : (Pkg.stopEmit k a1 a2).fixed = k.fixed := by
  unfold Pkg.stopEmit
  simp only [↓Pkg.fixed_onFab, ↓Pkg.sendGroup_fixed, ↓Pkg.stopNote_fixed]

theorem Pkg.collEvent_fixed (k : Pkg) (a1 : Nat) (a2 : List W64) (a3 : Nat) : (Pkg.collEvent k a1 a2 a3).fixed = k.fixed := by
  unfold Pkg.collEvent
  simp only [↓Pkg.fixed_onCore]

theorem Pkg.collFail_fixed (k : Pkg) (a1 : Nat) (a2 : Nat) (a3 : Nat) (a4 : Nat) : (Pkg.collFail k a1 a2 a3 a4).fixed = k.fixed := by
  unfold Pkg.collFail
  simp only [↓Pkg.collEvent_fixed, ↓Pkg.setCollRun_fixed, ↓Pkg.stopEmit_fixed]

theorem Pkg.collDeny_fixed (k : Pkg) (a1 : Nat) (a2 : Nat) (a3 : Nat) :
    (Pkg.collDeny k a1 a2 a3).fixed = k.fixed := by
  unfold Pkg.collDeny
  repeat' (first | with_reducible rfl | (simp only [↓Pkg.setCollRun_fixed, ↓Pkg.fixed_mk, ↓Pkg.fixed_eta, ↓Pkg.fixed_onCore, ↓Pkg.fixed_onClus, ↓fixed_foldl, ↓fixed_iter, implies_true, apply_ite Pkg.fixed, ite_self]; done) | with_reducible refine fixed_ite' ?_ ?_ | with_reducible refine fixed_foldl' (fun _ _ => ?_) ?_ | with_reducible refine fixed_iter' (fun _ _ => ?_) ?_ | with_reducible refine fixed_foldl2' (fun _ _ => ?_) ?_ | with_reducible refine fixed_foldl3' (fun _ _ => ?_) ?_ | with_reducible refine (Pkg.fixed_onBu _ _ (fun _ => rfl)).trans ?_ | with_reducible refine (Pkg.fixed_onSec _ _ (fun _ => ⟨rfl, rfl⟩)).trans ?_ | simp only [↓Pkg.setCollRun_fixed, ↓Pkg.fixed_mk, ↓Pkg.fixed_eta, ↓Pkg.fixed_onCore, ↓Pkg.fixed_onClus] | with_reducible refine fixed_of_eq ‹_› ?_ | with_reducible refine fixed_of_eq1 ‹_› ?_ | split | dsimp only)

theorem Pkg.passChunk_fixed (k : Pkg) (a1 : Nat) (a2 : Nat) (a3 : Nat) (a4 : List PB) :
    (Pkg.passChunk k a1 a2 a3 a4).fixed = k.fixed := by
  unfold Pkg.passChunk
  repeat' (first | with_reducible rfl | (simp only [↓Pkg.setCollRun_fixed, ↓Pkg.stageChunk_fixed, ↓Pkg.fixed_mk, ↓Pkg.fixed_eta, ↓fixed_foldl, ↓fixed_iter, implies_true, apply_ite Pkg.fixed, ite_self]; done) | with_reducible refine fixed_ite' ?_ ?_ | with_reducible refine fixed_foldl' (fun _ _ => ?_) ?_ | with_reducible refine fixed_iter' (fun _ _ => ?_) ?_ | with_reducible refine fixed_foldl2' (fun _ _ => ?_) ?_ | with_reducible refine fixed_foldl3' (fun _ _ => ?_) ?_ | with_reducible refine (Pkg.fixed_onBu _ _ (fun _ => rfl)).trans ?_ | with_reducible refine (Pkg.fixed_onSec _ _ (fun _ => ⟨rfl, rfl⟩)).trans ?_ | simp only [↓Pkg.setCollRun_fixed, ↓Pkg.stageChunk_fixed, ↓Pkg.fixed_mk, ↓Pkg.fixed_eta] | with_reducible refine fixed_of_eq ‹_› ?_ | with_reducible refine fixed_of_eq1 ‹_› ?_ | split | dsimp only)

theorem Pkg.collTake_fixed (k : Pkg) (a1 : Nat) (a2 : Nat) (a3 : CollRun) (a4 : List PB) :
    (Pkg.collTake k a1 a2 a3 a4).fixed = k.fixed := by
  unfold Pkg.collTake
  repeat' (first | with_reducible rfl | (simp only [↓Pkg.collDeny_fixed, ↓Pkg.collWrite_fixed, ↓Pkg.passChunk_fixed, ↓Pkg.setCollRun_fixed, ↓Pkg.fixed_mk, ↓Pkg.fixed_eta, ↓fixed_foldl, ↓fixed_iter, implies_true, apply_ite Pkg.fixed, ite_self]; done) | with_reducible refine fixed_ite' ?_ ?_ | with_reducible refine fixed_foldl' (fun _ _ => ?_) ?_ | with_reducible refine fixed_iter' (fun _ _ => ?_) ?_ | with_reducible refine fixed_foldl2' (fun _ _ => ?_) ?_ | with_reducible refine fixed_foldl3' (fun _ _ => ?_) ?_ | with_reducible refine (Pkg.fixed_onBu _ _ (fun _ => rfl)).trans ?_ | with_reducible refine (Pkg.fixed_onSec _ _ (fun _ => ⟨rfl, rfl⟩)).trans ?_ | simp only [↓Pkg.collDeny_fixed, ↓Pkg.collWrite_fixed, ↓Pkg.passChunk_fixed, ↓Pkg.setCollRun_fixed, ↓Pkg.fixed_mk, ↓Pkg.fixed_eta] | with_reducible refine fixed_of_eq ‹_› ?_ | with_reducible refine fixed_of_eq1 ‹_› ?_ | split | dsimp only)

theorem Pkg.digNote_fixed (k : Pkg) (a1 : Nat) (a2 : Nat) (a3 : Nat) (a4 : W64) (a5 : W64) :
    (Pkg.digNote k a1 a2 a3 a4 a5).fixed = k.fixed := by
  unfold Pkg.digNote
  repeat' (first | with_reducible rfl | (simp only [↓Pkg.fixed_mk, ↓Pkg.fixed_eta, ↓Pkg.fixed_onFab, ↓fixed_foldl, ↓fixed_iter, implies_true, apply_ite Pkg.fixed, ite_self]; done) | with_reducible refine fixed_ite' ?_ ?_ | with_reducible refine fixed_foldl' (fun _ _ => ?_) ?_ | with_reducible refine fixed_iter' (fun _ _ => ?_) ?_ | with_reducible refine fixed_foldl2' (fun _ _ => ?_) ?_ | with_reducible refine fixed_foldl3' (fun _ _ => ?_) ?_ | with_reducible refine (Pkg.fixed_onBu _ _ (fun _ => rfl)).trans ?_ | with_reducible refine (Pkg.fixed_onSec _ _ (fun _ => ⟨rfl, rfl⟩)).trans ?_ | simp only [↓Pkg.fixed_mk, ↓Pkg.fixed_eta, ↓Pkg.fixed_onFab] | with_reducible refine fixed_of_eq ‹_› ?_ | with_reducible refine fixed_of_eq1 ‹_› ?_ | split | dsimp only)

theorem Pkg.collReduce_fixed (k : Pkg) (a1 : Frame) (a2 : Nat) (a3 : Nat) (a4 : CollRun) :
    (Pkg.collReduce k a1 a2 a3 a4).fixed = k.fixed := by
  unfold Pkg.collReduce
  repeat' (first | with_reducible rfl | (simp only [↓Pkg.collAckSend_fixed, ↓Pkg.collDeny_fixed, ↓Pkg.collFail_fixed, ↓Pkg.collRead_fixed, ↓Pkg.collTake_fixed, ↓Pkg.digNote_fixed, ↓Pkg.fixed_mk, ↓Pkg.fixed_eta, ↓Pkg.fixed_onCore, ↓fixed_foldl, ↓fixed_iter, implies_true, apply_ite Pkg.fixed, ite_self, apply_ite Prod.fst, apply_ite Prod.snd]; done) | with_reducible refine fixed_ite' ?_ ?_ | with_reducible refine fixed_foldl' (fun _ _ => ?_) ?_ | with_reducible refine fixed_iter' (fun _ _ => ?_) ?_ | with_reducible refine fixed_foldl2' (fun _ _ => ?_) ?_ | with_reducible refine fixed_foldl3' (fun _ _ => ?_) ?_ | with_reducible refine (Pkg.fixed_onBu _ _ (fun _ => rfl)).trans ?_ | with_reducible refine (Pkg.fixed_onSec _ _ (fun _ => ⟨rfl, rfl⟩)).trans ?_ | simp only [↓Pkg.collAckSend_fixed, ↓Pkg.collDeny_fixed, ↓Pkg.collFail_fixed, ↓Pkg.collRead_fixed, ↓Pkg.collTake_fixed, ↓Pkg.digNote_fixed, ↓Pkg.fixed_mk, ↓Pkg.fixed_eta, ↓Pkg.fixed_onCore] | with_reducible refine fixed_of_eq ‹_› ?_ | with_reducible refine fixed_of_eq1 ‹_› ?_ | split | dsimp only)

theorem Pkg.collDig_fixed (k : Pkg) (a1 : Frame) : (Pkg.collDig k a1).fixed = k.fixed := by
  unfold Pkg.collDig
  repeat' (first | with_reducible rfl | (simp only [↓Pkg.collAckSend_fixed, ↓Pkg.collFail_fixed, ↓Pkg.collReduce_fixed, ↓Pkg.collTake_fixed, ↓Pkg.digNote_fixed, ↓Pkg.fixed_mk, ↓Pkg.fixed_eta, ↓fixed_foldl, ↓fixed_iter, implies_true, apply_ite Pkg.fixed, ite_self]; done) | with_reducible refine fixed_ite' ?_ ?_ | with_reducible refine fixed_foldl' (fun _ _ => ?_) ?_ | with_reducible refine fixed_iter' (fun _ _ => ?_) ?_ | with_reducible refine fixed_foldl2' (fun _ _ => ?_) ?_ | with_reducible refine fixed_foldl3' (fun _ _ => ?_) ?_ | with_reducible refine (Pkg.fixed_onBu _ _ (fun _ => rfl)).trans ?_ | with_reducible refine (Pkg.fixed_onSec _ _ (fun _ => ⟨rfl, rfl⟩)).trans ?_ | simp only [↓Pkg.collAckSend_fixed, ↓Pkg.collFail_fixed, ↓Pkg.collReduce_fixed, ↓Pkg.collTake_fixed, ↓Pkg.digNote_fixed, ↓Pkg.fixed_mk, ↓Pkg.fixed_eta] | with_reducible refine fixed_of_eq ‹_› ?_ | with_reducible refine fixed_of_eq1 ‹_› ?_ | split | dsimp only)

theorem Pkg.collGuard_fixed (k : Pkg) : (Pkg.collGuard k).fixed = k.fixed := by
  unfold Pkg.collGuard
  repeat' (first | with_reducible refine fixed_foldl' (fun _ _ => ?_) ?_ | simp only [↓Pkg.fixed_onClus, ↓Pkg.setCollRun_fixed, apply_ite Pkg.fixed] | split)

theorem Pkg.collStart_fixed (k : Pkg) (a1 : Nat) (a2 : Nat) (a3 : Nat) :
    (Pkg.collStart k a1 a2 a3).fixed = k.fixed := by
  unfold Pkg.collStart
  repeat' (first | with_reducible rfl | (simp only [↓Pkg.collDeny_fixed, ↓Pkg.collPump_fixed, ↓Pkg.setCollRun_fixed, ↓Pkg.fixed_mk, ↓Pkg.fixed_eta, ↓fixed_foldl, ↓fixed_iter, implies_true, apply_ite Pkg.fixed, ite_self]; done) | with_reducible refine fixed_ite' ?_ ?_ | with_reducible refine fixed_foldl' (fun _ _ => ?_) ?_ | with_reducible refine fixed_iter' (fun _ _ => ?_) ?_ | with_reducible refine fixed_foldl2' (fun _ _ => ?_) ?_ | with_reducible refine fixed_foldl3' (fun _ _ => ?_) ?_ | with_reducible refine (Pkg.fixed_onBu _ _ (fun _ => rfl)).trans ?_ | with_reducible refine (Pkg.fixed_onSec _ _ (fun _ => ⟨rfl, rfl⟩)).trans ?_ | simp only [↓Pkg.collDeny_fixed, ↓Pkg.collPump_fixed, ↓Pkg.setCollRun_fixed, ↓Pkg.fixed_mk, ↓Pkg.fixed_eta] | with_reducible refine fixed_of_eq ‹_› ?_ | with_reducible refine fixed_of_eq1 ‹_› ?_ | split | dsimp only)

theorem Pkg.collTimeout_fixed (k : Pkg) (a1 : Nat) (a2 : Nat) : (Pkg.collTimeout k a1 a2).fixed = k.fixed := by
  unfold Pkg.collTimeout
  (repeat' split) <;> simp only [↓Pkg.collFail_fixed, ↓Pkg.sendChunk_fixed, ↓Pkg.setCollRun_fixed]

theorem Pkg.collTrigger_fixed (k : Pkg) (a1 : Nat → Bool) : (Pkg.collTrigger k a1).fixed = k.fixed := by
  unfold Pkg.collTrigger
  repeat' (first | (simp only [↓Pkg.collEvent_fixed, ↓Pkg.collStart_fixed, ↓Pkg.fixed_onClus, ↓Pkg.fixed_onFab, apply_ite Pkg.fixed, ite_self]; done) | with_reducible refine fixed_ite' ?_ ?_ | with_reducible refine fixed_foldl' (fun _ _ => ?_) ?_ | split)

theorem Pkg.nopCmd_fixed (k : Pkg) (a1 : W32) : (Pkg.nopCmd k a1).fixed = k.fixed := by
  unfold Pkg.nopCmd
  simp only [↓Pkg.devCmd_fixed, ↓Pkg.devEnd_fixed, implies_true]

theorem Pkg.setNodeCmd_fixed (k : Pkg) (a1 : W32) (a2 : Nat) (a3 : Nat) : (Pkg.setNodeCmd k a1 a2 a3).fixed = k.fixed := by
  unfold Pkg.setNodeCmd
  simp only [↓Pkg.devCmd_fixed, ↓Pkg.devEnd_fixed, ↓Pkg.devInvalid_fixed, ↓Pkg.nodeWrite_fixed, implies_true, apply_ite Pkg.fixed, ite_self]

theorem Pkg.takeoverCmd_fixed (k : Pkg) (a1 : W32) (a2 : Nat) (a3 : Nat) : (Pkg.takeoverCmd k a1 a2 a3).fixed = k.fixed := by
  unfold Pkg.takeoverCmd
  simp only [↓Pkg.byeIdle_fixed, ↓Pkg.devCmd_fixed, ↓Pkg.devEnd_fixed, ↓Pkg.devInvalid_fixed, ↓Pkg.fixed_onCore, ↓Pkg.fixed_onFab, ↓Pkg.startDetect_fixed, ↓fixed_foldl, implies_true, apply_ite Pkg.fixed, ite_self]

theorem Pkg.windowSetCmd_fixed (k : Pkg) (a1 : W32) (a2 : Nat) (a3 : W64) (a4 : W64) (a5 : W64) : (Pkg.windowSetCmd k a1 a2 a3 a4 a5).fixed = k.fixed := by
  unfold Pkg.windowSetCmd
  simp only [↓Pkg.devCmd_fixed, ↓Pkg.devEnd_fixed, ↓Pkg.devInvalid_fixed, ↓Pkg.fixed_onCore, implies_true, apply_ite Pkg.fixed, ite_self]

theorem Pkg.stopGroupCmd_fixed (k : Pkg) (a1 : W32) (a2 : Nat) : (Pkg.stopGroupCmd k a1 a2).fixed = k.fixed := by
  unfold Pkg.stopGroupCmd
  (repeat' split) <;> simp only [↓Pkg.devCmd_fixed, ↓Pkg.devEnd_fixed, ↓Pkg.devInvalid_fixed, ↓Pkg.stopEmit_fixed, implies_true]

theorem Pkg.startTest_fixed (k : Pkg) (a1 : Nat) (a2 : List Nat) (a3 : Bool) : (Pkg.startTest k a1 a2 a3).fixed = k.fixed := by
  unfold Pkg.startTest
  simp only [↓Pkg.biShow_fixed, ↓Pkg.setTest_fixed]

theorem Pkg.diagStart_fixed (k : Pkg) (a1 : DiagRun) : (Pkg.diagStart k a1).fixed = k.fixed := by
  unfold Pkg.diagStart
  simp only [↓Pkg.fixed_onBi, ↓Pkg.startTest_fixed, ↓fixed_foldl, implies_true, apply_ite Pkg.fixed, ite_self]

theorem Pkg.diagEnd_fixed (k : Pkg) (a1 : DiagRun) (a2 : Nat) : (Pkg.diagEnd k a1 a2).fixed = k.fixed := by
  unfold Pkg.diagEnd
  simp only [↓Pkg.devEnd_fixed, ↓Pkg.fixed_onBi, ↓Pkg.fixed_onCore]

theorem Pkg.copyTT_fixed (k : Pkg) (a1 : Nat) (a2 : Nat) : (Pkg.copyTT k a1 a2).fixed = k.fixed := by
  unfold Pkg.copyTT
  simp only [↓Pkg.fixed_onClus, ↓Pkg.fixed_onCore, ↓Pkg.fixed_onNet]

theorem Pkg.copyRegion_fixed (k : Pkg) (a1 : Nat) (a2 : Nat) (a3 : Nat) (a4 : Nat) : (Pkg.copyRegion k a1 a2 a3 a4).fixed = k.fixed := by
  unfold Pkg.copyRegion
  simp only [↓Pkg.fixed_onClus, ↓Pkg.fixed_onCore, ↓fixed_foldl, implies_true, apply_ite Pkg.fixed, ite_self]

theorem Pkg.setRingDead_fixed (k : Pkg) (a1 : Nat) (a2 : Bool) : (Pkg.setRingDead k a1 a2).fixed = k.fixed := by
  unfold Pkg.setRingDead
  repeat' (first | with_reducible rfl | (simp only [↓Pkg.fixed_mk, ↓Pkg.fixed_eta, ↓Pkg.fixed_onBi, ↓fixed_foldl, ↓fixed_iter, implies_true, apply_ite Pkg.fixed, ite_self]; done) | with_reducible refine fixed_ite' ?_ ?_ | with_reducible refine fixed_foldl' (fun _ _ => ?_) ?_ | with_reducible refine fixed_iter' (fun _ _ => ?_) ?_ | with_reducible refine fixed_foldl2' (fun _ _ => ?_) ?_ | with_reducible refine fixed_foldl3' (fun _ _ => ?_) ?_ | with_reducible refine (Pkg.fixed_onBu _ _ (fun _ => rfl)).trans ?_ | with_reducible refine (Pkg.fixed_onSec _ _ (fun _ => ⟨rfl, rfl⟩)).trans ?_ | simp only [↓Pkg.fixed_mk, ↓Pkg.fixed_eta, ↓Pkg.fixed_onBi] | with_reducible refine fixed_of_eq ‹_› ?_ | with_reducible refine fixed_of_eq1 ‹_› ?_ | split | dsimp only)

theorem Pkg.copyCluster_fixed (k : Pkg) (a1 : Nat) (a2 : Nat) : (Pkg.copyCluster k a1 a2).fixed = k.fixed := by
  unfold Pkg.copyCluster
  repeat' (first | with_reducible rfl | (simp only [↓Pkg.copyRegion_fixed, ↓Pkg.setRingDead_fixed, ↓Pkg.fixed_mk, ↓Pkg.fixed_eta, ↓Pkg.fixed_onClus, ↓fixed_foldl, ↓fixed_iter, implies_true, apply_ite Pkg.fixed, ite_self]; done) | with_reducible refine fixed_ite' ?_ ?_ | with_reducible refine fixed_foldl' (fun _ _ => ?_) ?_ | with_reducible refine fixed_iter' (fun _ _ => ?_) ?_ | with_reducible refine fixed_foldl2' (fun _ _ => ?_) ?_ | with_reducible refine fixed_foldl3' (fun _ _ => ?_) ?_ | with_reducible refine (Pkg.fixed_onBu _ _ (fun _ => rfl)).trans ?_ | with_reducible refine (Pkg.fixed_onSec _ _ (fun _ => ⟨rfl, rfl⟩)).trans ?_ | simp only [↓Pkg.copyRegion_fixed, ↓Pkg.setRingDead_fixed, ↓Pkg.fixed_mk, ↓Pkg.fixed_eta, ↓Pkg.fixed_onClus] | with_reducible refine fixed_of_eq ‹_› ?_ | with_reducible refine fixed_of_eq1 ‹_› ?_ | split | dsimp only)

theorem Pkg.dieRelief_fixed (k : Pkg) (a1 : Nat) (a2 : optParam Nat 268) (a3 : optParam Bool true) : (Pkg.dieRelief k a1 a2 a3).fixed = k.fixed := by
  unfold Pkg.dieRelief
  repeat' (first | simp only [↓Pkg.biShow_fixed, ↓Pkg.copyCluster_fixed, ↓Pkg.copyTT_fixed, ↓Pkg.fenceField_fixed, ↓Pkg.fixed_onBi, ↓Pkg.fixed_onClus, ↓Pkg.fixed_onCore, ↓Pkg.setMove_fixed, ↓Pkg.setTest_fixed, ↓Pkg.stopTest_fixed, ↓fixed_iter, ↓fixed_foldl, implies_true, apply_ite Pkg.fixed, ite_self] | split)

theorem Pkg.diagMove_fixed (k : Pkg) (a1 : DiagRun) : (Pkg.diagMove k a1).fixed = k.fixed := by
  unfold Pkg.diagMove
  simp only [↓Pkg.diagEnd_fixed, ↓Pkg.diagStart_fixed, ↓Pkg.dieRelief_fixed, ↓Pkg.rotate_fixed, apply_ite Pkg.fixed, ite_self]

theorem Pkg.diagPoll_fixed (k : Pkg) : (Pkg.diagPoll k).fixed = k.fixed := by
  unfold Pkg.diagPoll
  simp only [↓Pkg.diagEnd_fixed, ↓Pkg.diagMove_fixed, ↓fixed_foldl, implies_true, apply_ite Pkg.fixed, ite_self]

theorem Pkg.diagCmd_fixed (k : Pkg) (a1 : W32) (a2 : Nat) (a3 : Nat) : (Pkg.diagCmd k a1 a2 a3).fixed = k.fixed := by
  unfold Pkg.diagCmd
  simp only [↓Pkg.cmdRun_fixed, ↓Pkg.devCmd_fixed, ↓Pkg.devInvalid_fixed, ↓Pkg.diagPoll_fixed, ↓Pkg.fixed_onBi, implies_true, apply_ite Pkg.fixed, ite_self]

theorem Pkg.stateEvent_fixed (k : Pkg) (a1 : Nat) : (Pkg.stateEvent k a1).fixed = k.fixed := by
  unfold Pkg.stateEvent
  simp only [↓Pkg.pwEvent_fixed]

theorem Pkg.stopRotations_fixed (k : Pkg) : (Pkg.stopRotations k).fixed = k.fixed := by
  unfold Pkg.stopRotations
  simp only [↓Pkg.abandon_fixed, ↓fixed_foldl, implies_true]

theorem Pkg.idleCmd_fixed (k : Pkg) (a1 : W32) : (Pkg.idleCmd k a1).fixed = k.fixed := by
  unfold Pkg.idleCmd
  simp only [↓Pkg.devCmd_fixed, ↓Pkg.devEnd_fixed, ↓Pkg.fixed_onPw, ↓Pkg.setDevState_fixed, ↓Pkg.stateEvent_fixed, ↓Pkg.stopRotations_fixed, implies_true]

theorem Pkg.salNarrow_fixed (k : Pkg) : (Pkg.salNarrow k).fixed = k.fixed := by
  unfold Pkg.salNarrow
  simp only [↓Pkg.setLanes_fixed, apply_ite Pkg.fixed, ite_self]

theorem Pkg.setWhy_fixed (k : Pkg) (a1 : Packet) (a2 : Nat) : (Pkg.setWhy k a1 a2).fixed = k.fixed := by
  unfold Pkg.setWhy
  (repeat' split) <;> simp only [↓Pkg.fixed_onNet]

theorem Pkg.writeAt_fixed (k : Pkg) (a1 : Packet) : (Pkg.writeAt k a1).fixed = k.fixed := by
  unfold Pkg.writeAt
  simp only [↓Pkg.dpaWrite_fixed, ↓Pkg.inject_fixed, ↓Pkg.lineWrite_fixed, ↓Pkg.setWhy_fixed, apply_ite Pkg.fixed, ite_self]

theorem Pkg.flushHbm_fixed (k : Pkg) : (Pkg.flushHbm k).fixed = k.fixed := by
  unfold Pkg.flushHbm
  simp only [↓Pkg.writeAt_fixed, ↓fixed_foldl, implies_true]

theorem Pkg.seedsAgain_fixed (k : Pkg) : (Pkg.seedsAgain k).fixed = k.fixed := by
  unfold Pkg.seedsAgain
  repeat' (first | (simp only [↓Pkg.fixed_onCore]; done) | with_reducible refine fixed_foldl' (fun _ _ => ?_) ?_ | split)

theorem Pkg.computeCold_fixed (k : Pkg) (a1 : Bool) : (Pkg.computeCold k a1).fixed = k.fixed := by
  unfold Pkg.computeCold
  simp only [↓Pkg.fixed_eta, ↓Pkg.fixed_mk, ↓Pkg.flushHbm_fixed, ↓Pkg.fixed_onBi, ↓Pkg.fixed_onFab, ↓Pkg.fixed_onFw, ↓Pkg.seedsAgain_fixed]

theorem Pkg.layUp_fixed (k : Pkg) (a1 : W32) : (Pkg.layUp k a1).fixed = k.fixed := by
  unfold Pkg.layUp
  simp only [↓Pkg.byeIdle_fixed, ↓Pkg.computeCold_fixed, ↓Pkg.devEnd_fixed, ↓Pkg.diagEnd_fixed, ↓Pkg.fixed_onClus, ↓Pkg.fixed_onCore, ↓Pkg.fixed_onHbm, ↓Pkg.fixed_onPw, ↓Pkg.salNarrow_fixed, ↓Pkg.setDevState_fixed, ↓Pkg.stateEvent_fixed, ↓Pkg.stopRotations_fixed, ↓fixed_foldl, implies_true]

theorem Pkg.laidUpCmd_fixed (k : Pkg) (a1 : W32) : (Pkg.laidUpCmd k a1).fixed = k.fixed := by
  unfold Pkg.laidUpCmd
  simp only [↓Pkg.cmdRun_fixed, ↓Pkg.devCmd_fixed, ↓Pkg.layUp_fixed, implies_true, apply_ite Pkg.fixed, ite_self]

theorem Pkg.powerCapCmd_fixed (k : Pkg) (a1 : W32) (a2 : Nat) : (Pkg.powerCapCmd k a1 a2).fixed = k.fixed := by
  unfold Pkg.powerCapCmd
  simp only [↓Pkg.devCmd_fixed, ↓Pkg.devEnd_fixed, ↓Pkg.devInvalid_fixed, ↓Pkg.fixed_onPw, implies_true, apply_ite Pkg.fixed, ite_self]

theorem Pkg.drawTaken_fixed (k : Pkg) (a1 : Nat) : (Pkg.drawTaken k a1).2.fixed = k.fixed := by
  unfold Pkg.drawTaken
  simp only [↓Pkg.fixed_onCore]

theorem Pkg.dumpOut_fixed (k : Pkg) (a1 : Dump) (a2 : List Byte) : (Pkg.dumpOut k a1 a2).fixed = k.fixed := by
  unfold Pkg.dumpOut
  simp only [↓Pkg.hostWrite_fixed, ↓Pkg.fixed_onCore, ↓Pkg.fixed_onFw, apply_ite Pkg.fixed, ite_self]

theorem Pkg.dumpEnd_fixed (k : Pkg) (a1 : Bool) : (Pkg.dumpEnd k a1).fixed = k.fixed := by
  unfold Pkg.dumpEnd
  (repeat' split) <;> simp only [↓Pkg.drawTaken_fixed, ↓Pkg.dumpOut_fixed, ↓Pkg.fixed_onFw]

theorem Pkg.dumpStart_fixed (k : Pkg) (a1 : Nat) (a2 : Nat) (a3 : Nat) (a4 : Option Nat) : (Pkg.dumpStart k a1 a2 a3 a4).fixed = k.fixed := by
  unfold Pkg.dumpStart
  (repeat' split) <;> simp only [↓Pkg.dumpEnd_fixed, ↓Pkg.fixed_onFw]

theorem Pkg.exchEnd_fixed (k : Pkg) (a1 : Nat) (a2 : Nat) : (Pkg.exchEnd k a1 a2).fixed = k.fixed := by
  unfold Pkg.exchEnd
  (repeat' split) <;> simp only [↓Pkg.cmdEnd_fixed, ↓Pkg.fixed_onFw]

theorem Pkg.resetBegin_fixed (k : Pkg) (a1 : Nat) (a2 : Nat) (a3 : Nat) (a4 : Nat) (a5 : Nat) (a6 : Option RunCmd) : (Pkg.resetBegin k a1 a2 a3 a4 a5 a6).fixed = k.fixed := by
  unfold Pkg.resetBegin
  (repeat' split) <;> simp only [↓Pkg.fixed_eta, ↓Pkg.fixed_mk, ↓Pkg.cmdRun_fixed, ↓Pkg.dumpStart_fixed, ↓Pkg.exchEnd_fixed, ↓Pkg.fixed_onCore, ↓Pkg.fixed_onFw, ↓Pkg.setDevState_fixed, ↓Pkg.stopEmit_fixed, ↓fixed_foldl, implies_true]

theorem Pkg.resetCmd_fixed (k : Pkg) (a1 : Nat) (a2 : W32) : (Pkg.resetCmd k a1 a2).fixed = k.fixed := by
  unfold Pkg.resetCmd
  simp only [↓Pkg.cmdRun_fixed, ↓Pkg.devCmd_fixed, ↓Pkg.fixed_onPw, ↓Pkg.resetBegin_fixed, implies_true, apply_ite Pkg.fixed, ite_self]

theorem Pkg.resetDieCmd_fixed (k : Pkg) (a1 : Nat) (a2 : W32) : (Pkg.resetDieCmd k a1 a2).fixed = k.fixed := by
  unfold Pkg.resetDieCmd
  simp only [↓Pkg.cmdReject_fixed, ↓Pkg.devCmd_fixed, ↓Pkg.resetBegin_fixed, implies_true, apply_ite Pkg.fixed, ite_self]

theorem Pkg.trainRecordCmd_fixed (k : Pkg) (a1 : W32) (a2 : Nat) : (Pkg.trainRecordCmd k a1 a2).fixed = k.fixed := by
  unfold Pkg.trainRecordCmd
  simp only [↓Pkg.devCmd_fixed, ↓Pkg.devEnd_fixed, ↓Pkg.hostWrite_fixed, implies_true]

theorem Pkg.flipBank_fixed (k : Pkg) (a1 : Nat) : (Pkg.flipBank k a1).fixed = k.fixed := by
  unfold Pkg.flipBank
  simp only [↓Pkg.fixed_onFw]

theorem Pkg.fwExchange_fixed (k : Pkg) (a1 : W32) (a2 : Nat) (a3 : List Byte) : (Pkg.fwExchange k a1 a2 a3).fixed = k.fixed := by
  unfold Pkg.fwExchange
  simp only [↓Pkg.cmdEnd_fixed, ↓Pkg.cmdRun_fixed, ↓Pkg.devCmd_fixed, ↓Pkg.flipBank_fixed, ↓Pkg.fixed_onFw, implies_true, apply_ite Pkg.fixed, ite_self]

theorem Pkg.drillSetCmd_fixed (k : Pkg) (a1 : W32) (a2 : Nat) (a3 : BitVec 112) (a4 : List DrillEntry) :
    (Pkg.drillSetCmd k a1 a2 a3 a4).fixed = k.fixed := by
  unfold Pkg.drillSetCmd
  repeat' (first | with_reducible rfl | (simp only [↓Pkg.devCmd_fixed, ↓Pkg.devEnd_fixed, ↓Pkg.devInvalid_fixed, ↓Pkg.fixed_mk, ↓Pkg.fixed_eta, ↓Pkg.fixed_onCore, ↓Pkg.fixed_onBi, ↓fixed_foldl, ↓fixed_iter, implies_true, apply_ite Pkg.fixed, ite_self]; done) | with_reducible refine (Pkg.devCmd_fixed _ _ _ _ _ _ (fun _ => ?_)).trans ?_ | with_reducible refine fixed_ite' ?_ ?_ | with_reducible refine fixed_foldl' (fun _ _ => ?_) ?_ | with_reducible refine fixed_iter' (fun _ _ => ?_) ?_ | with_reducible refine fixed_foldl2' (fun _ _ => ?_) ?_ | with_reducible refine fixed_foldl3' (fun _ _ => ?_) ?_ | with_reducible refine (Pkg.fixed_onBu _ _ (fun _ => rfl)).trans ?_ | with_reducible refine (Pkg.fixed_onSec _ _ (fun _ => ⟨rfl, rfl⟩)).trans ?_ | simp only [↓Pkg.devCmd_fixed, ↓Pkg.devEnd_fixed, ↓Pkg.devInvalid_fixed, ↓Pkg.fixed_mk, ↓Pkg.fixed_eta, ↓Pkg.fixed_onCore, ↓Pkg.fixed_onBi] | with_reducible refine fixed_of_eq ‹_› ?_ | with_reducible refine fixed_of_eq1 ‹_› ?_ | split | dsimp only)

theorem Pkg.drillBegin_fixed (k : Pkg) (a1 : W32) (a2 : Nat) : (Pkg.drillBegin k a1 a2).fixed = k.fixed := by
  unfold Pkg.drillBegin
  simp only [↓Pkg.drillSetCmd_fixed]

theorem Pkg.jobCreate_fixed (k : Pkg) (a1 : Nat) (a2 : W32) (a3 : W64) (a4 : Bool) : (Pkg.jobCreate k a1 a2 a3 a4).fixed = k.fixed := by
  unfold Pkg.jobCreate
  simp only [↓Pkg.cmdEnd_fixed, ↓Pkg.jobCmd_fixed, ↓Pkg.fixed_onCore, ↓Pkg.setJob_fixed, ↓Pkg.setJobState_fixed, implies_true]

theorem Pkg.jobLoad_fixed (k : Pkg) (a1 : Nat) (a2 : W32) (a3 : Nat) (a4 : Nat) (a5 : List Byte) :
    (Pkg.jobLoad k a1 a2 a3 a4 a5).fixed = k.fixed := by
  unfold Pkg.jobLoad
  repeat' (first | with_reducible rfl | (simp only [↓Pkg.cmdEnd_fixed, ↓Pkg.cmdReject_fixed, ↓Pkg.dpaRead_fixed, ↓Pkg.dpaWrite_fixed, ↓Pkg.jobCmd_fixed, ↓Pkg.setJob_fixed, ↓Pkg.setJobState_fixed, ↓Pkg.fixed_mk, ↓Pkg.fixed_eta, ↓Pkg.fixed_onCore, ↓fixed_foldl, ↓fixed_iter, implies_true, apply_ite Pkg.fixed, ite_self, apply_ite Prod.fst, apply_ite Prod.snd]; done) | with_reducible refine (Pkg.jobCmd_fixed _ _ _ _ _ _ _ (fun _ => ?_)).trans ?_ | with_reducible refine fixed_ite' ?_ ?_ | with_reducible refine fixed_foldl' (fun _ _ => ?_) ?_ | with_reducible refine fixed_iter' (fun _ _ => ?_) ?_ | with_reducible refine fixed_foldl2' (fun _ _ => ?_) ?_ | with_reducible refine fixed_foldl3' (fun _ _ => ?_) ?_ | with_reducible refine (Pkg.fixed_onBu _ _ (fun _ => rfl)).trans ?_ | with_reducible refine (Pkg.fixed_onSec _ _ (fun _ => ⟨rfl, rfl⟩)).trans ?_ | simp only [↓Pkg.cmdEnd_fixed, ↓Pkg.cmdReject_fixed, ↓Pkg.dpaRead_fixed, ↓Pkg.dpaWrite_fixed, ↓Pkg.jobCmd_fixed, ↓Pkg.setJob_fixed, ↓Pkg.setJobState_fixed, ↓Pkg.fixed_mk, ↓Pkg.fixed_eta, ↓Pkg.fixed_onCore] | with_reducible refine fixed_of_eq ‹_› ?_ | with_reducible refine fixed_of_eq1 ‹_› ?_ | split | dsimp only)

theorem Pkg.spillOne_fixed (k : Pkg) (a1 : Nat) (a2 : Nat) (a3 : Nat) (a4 : Nat) :
    (Pkg.spillOne k a1 a2 a3 a4).fixed = k.fixed := by
  unfold Pkg.spillOne
  repeat' (first | with_reducible rfl | (simp only [↓Pkg.dpaWrite_fixed, ↓Pkg.setJob_fixed, ↓Pkg.fixed_mk, ↓Pkg.fixed_eta, ↓Pkg.fixed_onClus, ↓fixed_foldl, ↓fixed_iter, implies_true, apply_ite Pkg.fixed, ite_self]; done) | with_reducible refine fixed_ite' ?_ ?_ | with_reducible refine fixed_foldl' (fun _ _ => ?_) ?_ | with_reducible refine fixed_iter' (fun _ _ => ?_) ?_ | with_reducible refine fixed_foldl2' (fun _ _ => ?_) ?_ | with_reducible refine fixed_foldl3' (fun _ _ => ?_) ?_ | with_reducible refine (Pkg.fixed_onBu _ _ (fun _ => rfl)).trans ?_ | with_reducible refine (Pkg.fixed_onSec _ _ (fun _ => ⟨rfl, rfl⟩)).trans ?_ | simp only [↓Pkg.dpaWrite_fixed, ↓Pkg.setJob_fixed, ↓Pkg.fixed_mk, ↓Pkg.fixed_eta, ↓Pkg.fixed_onClus] | with_reducible refine fixed_of_eq ‹_› ?_ | with_reducible refine fixed_of_eq1 ‹_› ?_ | split | dsimp only)

theorem Pkg.turnBegin_fixed (k : Pkg) (a1 : Nat) (a2 : Nat) : (Pkg.turnBegin k a1 a2).fixed = k.fixed := by
  unfold Pkg.turnBegin
  repeat' (first | with_reducible rfl | (simp only [↓Pkg.spillOne_fixed, ↓Pkg.turnIn_fixed, ↓Pkg.fixed_mk, ↓Pkg.fixed_eta, ↓fixed_foldl, ↓fixed_iter, implies_true, apply_ite Pkg.fixed, ite_self]; done) | with_reducible refine fixed_ite' ?_ ?_ | with_reducible refine fixed_foldl' (fun _ _ => ?_) ?_ | with_reducible refine fixed_iter' (fun _ _ => ?_) ?_ | with_reducible refine fixed_foldl2' (fun _ _ => ?_) ?_ | with_reducible refine fixed_foldl3' (fun _ _ => ?_) ?_ | with_reducible refine (Pkg.fixed_onBu _ _ (fun _ => rfl)).trans ?_ | with_reducible refine (Pkg.fixed_onSec _ _ (fun _ => ⟨rfl, rfl⟩)).trans ?_ | simp only [↓Pkg.spillOne_fixed, ↓Pkg.turnIn_fixed, ↓Pkg.fixed_mk, ↓Pkg.fixed_eta] | with_reducible refine fixed_of_eq ‹_› ?_ | with_reducible refine fixed_of_eq1 ‹_› ?_ | split | dsimp only)

theorem Pkg.unplace_fixed (k : Pkg) (a1 : Nat) : (Pkg.unplace k a1).fixed = k.fixed := by
  unfold Pkg.unplace
  simp only [↓Pkg.fixed_onClus, ↓Pkg.fixed_onCore, ↓Pkg.fixed_onFab, ↓Pkg.onJob_fixed, ↓Pkg.fixed_onNet]

theorem Pkg.poll_fixed (k : Pkg) : (Pkg.poll k).fixed = k.fixed := by
  unfold Pkg.poll
  repeat' (first | with_reducible rfl | (simp only [↓Pkg.cmdEnd_fixed, ↓Pkg.eachCirc_fixed, ↓Pkg.setJobState_fixed, ↓Pkg.startCircs_fixed, ↓Pkg.turnBegin_fixed, ↓Pkg.turnIn_fixed, ↓Pkg.unplace_fixed, ↓Pkg.fixed_mk, ↓Pkg.fixed_eta, ↓Pkg.fixed_onClus, ↓fixed_foldl, ↓fixed_iter, implies_true, apply_ite Pkg.fixed, ite_self]; done) | with_reducible refine fixed_ite' ?_ ?_ | with_reducible refine fixed_foldl' (fun _ _ => ?_) ?_ | with_reducible refine fixed_iter' (fun _ _ => ?_) ?_ | with_reducible refine fixed_foldl2' (fun _ _ => ?_) ?_ | with_reducible refine fixed_foldl3' (fun _ _ => ?_) ?_ | with_reducible refine (Pkg.fixed_onBu _ _ (fun _ => rfl)).trans ?_ | with_reducible refine (Pkg.fixed_onSec _ _ (fun _ => ⟨rfl, rfl⟩)).trans ?_ | simp only [↓Pkg.cmdEnd_fixed, ↓Pkg.eachCirc_fixed, ↓Pkg.setJobState_fixed, ↓Pkg.startCircs_fixed, ↓Pkg.turnBegin_fixed, ↓Pkg.turnIn_fixed, ↓Pkg.unplace_fixed, ↓Pkg.fixed_mk, ↓Pkg.fixed_eta, ↓Pkg.fixed_onClus] | with_reducible refine fixed_of_eq ‹_› ?_ | with_reducible refine fixed_of_eq1 ‹_› ?_ | split | dsimp only)

theorem Pkg.jobStart_fixed (k : Pkg) (a1 : Nat) (a2 : W32) : (Pkg.jobStart k a1 a2).fixed = k.fixed := by
  unfold Pkg.jobStart
  repeat' (first | with_reducible rfl | (simp only [↓Pkg.cmdEnd_fixed, ↓Pkg.cmdReject_fixed, ↓Pkg.cmdRun_fixed, ↓Pkg.giveTurns_fixed, ↓Pkg.jobCmd_fixed, ↓Pkg.placeJob_fixed, ↓Pkg.poll_fixed, ↓Pkg.setJob_fixed, ↓Pkg.setJobState_fixed, ↓Pkg.fixed_mk, ↓Pkg.fixed_eta, ↓fixed_foldl, ↓fixed_iter, implies_true, apply_ite Pkg.fixed, ite_self]; done) | with_reducible refine (Pkg.jobCmd_fixed _ _ _ _ _ _ _ (fun _ => ?_)).trans ?_ | with_reducible refine fixed_ite' ?_ ?_ | with_reducible refine fixed_foldl' (fun _ _ => ?_) ?_ | with_reducible refine fixed_iter' (fun _ _ => ?_) ?_ | with_reducible refine fixed_foldl2' (fun _ _ => ?_) ?_ | with_reducible refine fixed_foldl3' (fun _ _ => ?_) ?_ | with_reducible refine (Pkg.fixed_onBu _ _ (fun _ => rfl)).trans ?_ | with_reducible refine (Pkg.fixed_onSec _ _ (fun _ => ⟨rfl, rfl⟩)).trans ?_ | simp only [↓Pkg.cmdEnd_fixed, ↓Pkg.cmdReject_fixed, ↓Pkg.cmdRun_fixed, ↓Pkg.giveTurns_fixed, ↓Pkg.jobCmd_fixed, ↓Pkg.placeJob_fixed, ↓Pkg.poll_fixed, ↓Pkg.setJob_fixed, ↓Pkg.setJobState_fixed, ↓Pkg.fixed_mk, ↓Pkg.fixed_eta] | with_reducible refine fixed_of_eq ‹_› ?_ | with_reducible refine fixed_of_eq1 ‹_› ?_ | split | dsimp only)

theorem Pkg.jobSuspend_fixed (k : Pkg) (a1 : Nat) (a2 : W32) : (Pkg.jobSuspend k a1 a2).fixed = k.fixed := by
  unfold Pkg.jobSuspend
  simp only [↓Pkg.cmdRun_fixed, ↓Pkg.eachCirc_fixed, ↓Pkg.jobCmd_fixed, ↓Pkg.onJob_fixed, ↓Pkg.poll_fixed, implies_true]

theorem Pkg.jobResume_fixed (k : Pkg) (a1 : Nat) (a2 : W32) : (Pkg.jobResume k a1 a2).fixed = k.fixed := by
  unfold Pkg.jobResume
  simp only [↓Pkg.cmdEnd_fixed, ↓Pkg.eachCirc_fixed, ↓Pkg.jobCmd_fixed, ↓Pkg.onJob_fixed, ↓Pkg.setJobState_fixed, implies_true, apply_ite Pkg.fixed, ite_self]

theorem Pkg.jobStop_fixed (k : Pkg) (a1 : Nat) (a2 : W32) : (Pkg.jobStop k a1 a2).fixed = k.fixed := by
  unfold Pkg.jobStop
  simp only [↓Pkg.cmdRun_fixed, ↓Pkg.eachCirc_fixed, ↓Pkg.jobCmd_fixed, ↓Pkg.poll_fixed, ↓Pkg.setJobState_fixed, implies_true, apply_ite Pkg.fixed, ite_self]

theorem Pkg.jobAbort_fixed (k : Pkg) (a1 : Nat) (a2 : W32) : (Pkg.jobAbort k a1 a2).fixed = k.fixed := by
  unfold Pkg.jobAbort
  simp only [↓Pkg.cmdRun_fixed, ↓Pkg.jobCmd_fixed, ↓Pkg.fixed_onClus, ↓Pkg.poll_fixed, implies_true]

theorem Pkg.jobCheckpoint_fixed (k : Pkg) (a1 : Nat) (a2 : W32) (a3 : Nat) (a4 : Bool) : (Pkg.jobCheckpoint k a1 a2 a3 a4).fixed = k.fixed := by
  unfold Pkg.jobCheckpoint
  refine Pkg.jobCmd_fixed _ _ _ _ _ _ _ (fun x => ?_)
  repeat' (first | simp only [↓Pkg.cmdEnd_fixed, ↓Pkg.cmdReject_fixed, ↓Pkg.cmdRun_fixed, ↓Pkg.fixed_onHbm, apply_ite Pkg.fixed, ite_self] | split)

theorem Pkg.jobRestore_fixed (k : Pkg) (a1 : Nat) (a2 : W32) (a3 : Nat) : (Pkg.jobRestore k a1 a2 a3).fixed = k.fixed := by
  unfold Pkg.jobRestore
  refine Pkg.jobCmd_fixed _ _ _ _ _ _ _ (fun x => ?_)
  repeat' (first | (simp only [↓Pkg.cmdEnd_fixed, ↓Pkg.dpaWrite_fixed, ↓Pkg.onJob_fixed, ↓Pkg.setJobState_fixed, ↓Pkg.unplace_fixed, ↓fixed_foldl, implies_true, apply_ite Pkg.fixed, ite_self]; done) | split)

theorem Pkg.segApply_fixed (k : Pkg) : (Pkg.segApply k).fixed = k.fixed := by
  unfold Pkg.segApply
  simp only [↓Pkg.fixed_onHbm]

theorem Pkg.dropSegs_fixed (k : Pkg) (a1 : Nat → Bool) : (Pkg.dropSegs k a1).fixed = k.fixed := by
  unfold Pkg.dropSegs
  simp only [↓Pkg.fixed_onCore]

theorem Pkg.jobDestroy_fixed (k : Pkg) (a1 : Nat) (a2 : W32) : (Pkg.jobDestroy k a1 a2).fixed = k.fixed := by
  unfold Pkg.jobDestroy
  simp only [↓Pkg.cmdEnd_fixed, ↓Pkg.dropSegs_fixed, ↓Pkg.jobCmd_fixed, ↓Pkg.setJob_fixed, ↓Pkg.setJobState_fixed, ↓Pkg.unplace_fixed, implies_true]

theorem Pkg.free_fixed (k : Pkg) (a1 : Nat) (a2 : W32) (a3 : Nat) : (Pkg.free k a1 a2 a3).fixed = k.fixed := by
  unfold Pkg.free
  simp only [↓Pkg.cmdEnd_fixed, ↓Pkg.cmdReject_fixed, ↓Pkg.dropSegs_fixed, ↓Pkg.jobCmd_fixed, ↓Pkg.onJob_fixed, implies_true, apply_ite Pkg.fixed, ite_self]

theorem Pkg.jobBegin_fixed (k : Pkg) (a1 : Nat) (a2 : Nat) (a3 : W32) (a4 : List W64) : (Pkg.jobBegin k a1 a2 a3 a4).fixed = k.fixed := by
  unfold Pkg.jobBegin
  (repeat' split) <;> simp only [↓Pkg.alloc_fixed, ↓Pkg.free_fixed, ↓Pkg.jobAbort_fixed, ↓Pkg.jobCheckpoint_fixed, ↓Pkg.jobCreate_fixed, ↓Pkg.jobDestroy_fixed, ↓Pkg.jobLoad_fixed, ↓Pkg.jobRestore_fixed, ↓Pkg.jobResume_fixed, ↓Pkg.jobStart_fixed, ↓Pkg.jobStop_fixed, ↓Pkg.jobSuspend_fixed]

theorem Pkg.hbMaintain_fixed (k : Pkg) : (Pkg.hbMaintain k).fixed = k.fixed := by
  unfold Pkg.hbMaintain
  simp only [↓Pkg.fixed_eta, ↓Pkg.fixed_mk, ↓fixed_iter, ↓fixed_foldl, implies_true]

theorem Pkg.cutTake_fixed (k : Pkg) : (Pkg.cutTake k).fixed = k.fixed := by
  unfold Pkg.cutTake
  simp only [↓Pkg.fixed_onFab, ↓Pkg.fixed_onHbm, ↓fixed_foldl, implies_true]

theorem Pkg.windowsApply_fixed (k : Pkg) : (Pkg.windowsApply k).fixed = k.fixed := by
  unfold Pkg.windowsApply
  simp only [↓Pkg.fixed_onCore, ↓Pkg.fixed_onFab, ↓Pkg.fixed_onHbm, ↓fixed_iter, implies_true, apply_ite Pkg.fixed, ite_self]

theorem Pkg.vc0Close_fixed (k : Pkg) (a1 : Nat) : (Pkg.vc0Close k a1).fixed = k.fixed := by
  unfold Pkg.vc0Close
  simp only [↓Pkg.fixed_onClus, ↓Pkg.fixed_onNet, ↓fixed_iter, implies_true, apply_ite Pkg.fixed, ite_self]

theorem Pkg.backoffEnd_fixed (k : Pkg) : (Pkg.backoffEnd k).fixed = k.fixed := by
  unfold Pkg.backoffEnd
  repeat' (first | with_reducible rfl | (simp only [↓Pkg.fixed_mk, ↓Pkg.fixed_eta, ↓Pkg.fixed_onCore, ↓fixed_foldl, ↓fixed_iter, implies_true, apply_ite Pkg.fixed, ite_self]; done) | with_reducible refine fixed_ite' ?_ ?_ | with_reducible refine fixed_foldl' (fun _ _ => ?_) ?_ | with_reducible refine fixed_iter' (fun _ _ => ?_) ?_ | with_reducible refine fixed_foldl2' (fun _ _ => ?_) ?_ | with_reducible refine fixed_foldl3' (fun _ _ => ?_) ?_ | with_reducible refine (Pkg.fixed_onBu _ _ (fun _ => rfl)).trans ?_ | with_reducible refine (Pkg.fixed_onSec _ _ (fun _ => ⟨rfl, rfl⟩)).trans ?_ | simp only [↓Pkg.fixed_mk, ↓Pkg.fixed_eta, ↓Pkg.fixed_onCore] | with_reducible refine fixed_of_eq ‹_› ?_ | with_reducible refine fixed_of_eq1 ‹_› ?_ | split | dsimp only)

theorem Pkg.halfWidths_fixed (k : Pkg) : (Pkg.halfWidths k).fixed = k.fixed := by
  unfold Pkg.halfWidths
  repeat' (first | with_reducible rfl | (simp only [↓Pkg.fixed_mk, ↓Pkg.fixed_eta, ↓Pkg.fixed_onNet, ↓fixed_foldl, ↓fixed_iter, implies_true, apply_ite Pkg.fixed, ite_self]; done) | with_reducible refine fixed_ite' ?_ ?_ | with_reducible refine fixed_foldl' (fun _ _ => ?_) ?_ | with_reducible refine fixed_iter' (fun _ _ => ?_) ?_ | with_reducible refine fixed_foldl2' (fun _ _ => ?_) ?_ | with_reducible refine fixed_foldl3' (fun _ _ => ?_) ?_ | with_reducible refine (Pkg.fixed_onBu _ _ (fun _ => rfl)).trans ?_ | with_reducible refine (Pkg.fixed_onSec _ _ (fun _ => ⟨rfl, rfl⟩)).trans ?_ | simp only [↓Pkg.fixed_mk, ↓Pkg.fixed_eta, ↓Pkg.fixed_onNet] | with_reducible refine fixed_of_eq ‹_› ?_ | with_reducible refine fixed_of_eq1 ‹_› ?_ | split | dsimp only)

theorem Pkg.commitPackage_fixed (k : Pkg) : (Pkg.commitPackage k).fixed = k.fixed := by
  unfold Pkg.commitPackage
  repeat' (first | with_reducible rfl | (simp only [↓Pkg.backoffEnd_fixed, ↓Pkg.collGuard_fixed, ↓Pkg.cutTake_fixed, ↓Pkg.halfWidths_fixed, ↓Pkg.hbMaintain_fixed, ↓Pkg.rebook_fixed, ↓Pkg.setCycle_fixed, ↓Pkg.vc0Close_fixed, ↓Pkg.windowsApply_fixed, ↓Pkg.fixed_mk, ↓Pkg.fixed_eta, ↓fixed_foldl, ↓fixed_iter, implies_true, apply_ite Pkg.fixed, ite_self]; done) | with_reducible refine fixed_ite' ?_ ?_ | with_reducible refine fixed_foldl' (fun _ _ => ?_) ?_ | with_reducible refine fixed_iter' (fun _ _ => ?_) ?_ | with_reducible refine fixed_foldl2' (fun _ _ => ?_) ?_ | with_reducible refine fixed_foldl3' (fun _ _ => ?_) ?_ | with_reducible refine (Pkg.fixed_onBu _ _ (fun _ => rfl)).trans ?_ | with_reducible refine (Pkg.fixed_onSec _ _ (fun _ => ⟨rfl, rfl⟩)).trans ?_ | simp only [↓Pkg.backoffEnd_fixed, ↓Pkg.collGuard_fixed, ↓Pkg.cutTake_fixed, ↓Pkg.halfWidths_fixed, ↓Pkg.hbMaintain_fixed, ↓Pkg.rebook_fixed, ↓Pkg.setCycle_fixed, ↓Pkg.vc0Close_fixed, ↓Pkg.windowsApply_fixed, ↓Pkg.fixed_mk, ↓Pkg.fixed_eta] | with_reducible refine fixed_of_eq ‹_› ?_ | with_reducible refine fixed_of_eq1 ‹_› ?_ | split | dsimp only)

theorem Pkg.sig0Apply_fixed (k : Pkg) (a1 : Sig0) : (Pkg.sig0Apply k a1).fixed = k.fixed := by
  unfold Pkg.sig0Apply
  (repeat' split) <;> simp only [↓Pkg.fixed_onClus, ↓fixed_foldl, implies_true, apply_ite Pkg.fixed, ite_self]

theorem Pkg.heldApply_fixed (k : Pkg) (a1 : Nat) : (Pkg.heldApply k a1).fixed = k.fixed := by
  unfold Pkg.heldApply
  simp only [↓Pkg.fixed_onClus, ↓Pkg.sig0Apply_fixed, ↓fixed_foldl, implies_true]

theorem Pkg.commitSlot_fixed (k : Pkg) (a1 : Nat) (a2 : Nat) (a3 : SlotRun) : (Pkg.commitSlot k a1 a2 a3).fixed = k.fixed := by
  unfold Pkg.commitSlot
  repeat' (first | (simp only [↓Pkg.acts_fixed, ↓Pkg.fixed_onClus, apply_ite Pkg.fixed, ite_self]; done) | with_reducible refine fixed_ite' ?_ ?_ | split)

theorem Pkg.commitPilot_fixed (k : Pkg) (a1 : Nat) : (Pkg.commitPilot k a1).fixed = k.fixed := by
  unfold Pkg.commitPilot
  (repeat' split) <;> simp only [↓Pkg.fixed_onClus]

theorem Pkg.commitRegion_fixed (k : Pkg) (a1 : Nat) : (Pkg.commitRegion k a1).fixed = k.fixed := by
  unfold Pkg.commitRegion
  simp only [↓Pkg.commitPilot_fixed, ↓Pkg.commitSlot_fixed, ↓Pkg.heldApply_fixed, ↓Pkg.fixed_onClus, ↓Pkg.fixed_onNet, ↓fixed_foldl, implies_true]

theorem Pkg.onCuts_fixed (k : Pkg) (a1 : Nat) (a2 : Nat → Snap → Snap) : (Pkg.onCuts k a1 a2).fixed = k.fixed := by
  unfold Pkg.onCuts
  simp only [↓Pkg.fixed_onHbm, ↓fixed_foldl, implies_true]

theorem Pkg.cutLatch_fixed (k : Pkg) (a1 : Nat) : (Pkg.cutLatch k a1).fixed = k.fixed := by
  unfold Pkg.cutLatch
  (repeat' split) <;> simp only [↓Pkg.onCuts_fixed]

theorem Pkg.fenceSpare_fixed (k : Pkg) (a1 : Nat) (a2 : Nat) (a3 : Nat) (a4 : Bool) :
    (Pkg.fenceSpare k a1 a2 a3 a4).fixed = k.fixed := by
  unfold Pkg.fenceSpare
  repeat' (first | with_reducible rfl | (simp only [↓Pkg.fenceClu_fixed, ↓Pkg.fixed_mk, ↓Pkg.fixed_eta, ↓Pkg.fixed_onCore, ↓fixed_foldl, ↓fixed_iter, implies_true, apply_ite Pkg.fixed, ite_self]; done) | with_reducible refine fixed_ite' ?_ ?_ | with_reducible refine fixed_foldl' (fun _ _ => ?_) ?_ | with_reducible refine fixed_iter' (fun _ _ => ?_) ?_ | with_reducible refine fixed_foldl2' (fun _ _ => ?_) ?_ | with_reducible refine fixed_foldl3' (fun _ _ => ?_) ?_ | with_reducible refine (Pkg.fixed_onBu _ _ (fun _ => rfl)).trans ?_ | with_reducible refine (Pkg.fixed_onSec _ _ (fun _ => ⟨rfl, rfl⟩)).trans ?_ | simp only [↓Pkg.fenceClu_fixed, ↓Pkg.fixed_mk, ↓Pkg.fixed_eta, ↓Pkg.fixed_onCore] | with_reducible refine fixed_of_eq ‹_› ?_ | with_reducible refine fixed_of_eq1 ‹_› ?_ | split | dsimp only)

theorem Pkg.moveGuard_fixed (k : Pkg) (a1 : Nat) : (Pkg.moveGuard k a1).fixed = k.fixed := by
  unfold Pkg.moveGuard
  repeat' (first | with_reducible rfl | (simp only [↓Pkg.abandon_fixed, ↓Pkg.biShow_fixed, ↓Pkg.fenceSpare_fixed, ↓Pkg.setMove_fixed, ↓Pkg.startTest_fixed, ↓Pkg.fixed_mk, ↓Pkg.fixed_eta, ↓Pkg.fixed_onCore, ↓Pkg.fixed_onBi, ↓fixed_foldl, ↓fixed_iter, implies_true, apply_ite Pkg.fixed, ite_self]; done) | with_reducible refine fixed_ite' ?_ ?_ | with_reducible refine fixed_foldl' (fun _ _ => ?_) ?_ | with_reducible refine fixed_iter' (fun _ _ => ?_) ?_ | with_reducible refine fixed_foldl2' (fun _ _ => ?_) ?_ | with_reducible refine fixed_foldl3' (fun _ _ => ?_) ?_ | with_reducible refine (Pkg.fixed_onBu _ _ (fun _ => rfl)).trans ?_ | with_reducible refine (Pkg.fixed_onSec _ _ (fun _ => ⟨rfl, rfl⟩)).trans ?_ | simp only [↓Pkg.abandon_fixed, ↓Pkg.biShow_fixed, ↓Pkg.fenceSpare_fixed, ↓Pkg.setMove_fixed, ↓Pkg.startTest_fixed, ↓Pkg.fixed_mk, ↓Pkg.fixed_eta, ↓Pkg.fixed_onCore, ↓Pkg.fixed_onBi] | with_reducible refine fixed_of_eq ‹_› ?_ | with_reducible refine fixed_of_eq1 ‹_› ?_ | split | dsimp only)

theorem Pkg.lineDone_fixed (k : Pkg) (a1 : Nat) : (Pkg.lineDone k a1).fixed = k.fixed := by
  unfold Pkg.lineDone
  simp only [↓Pkg.fixed_onClus]

theorem Pkg.lineArrive_fixed (k : Pkg) (a1 : Nat) (a2 : Nat) (a3 : Nat) : (Pkg.lineArrive k a1 a2 a3).fixed = k.fixed := by
  unfold Pkg.lineArrive
  simp only [↓Pkg.lineDone_fixed, ↓Pkg.fixed_onClus, ↓Pkg.sendGroup_fixed, apply_ite Pkg.fixed, ite_self]

theorem Pkg.lineFlush_fixed (k : Pkg) : (Pkg.lineFlush k).fixed = k.fixed := by
  unfold Pkg.lineFlush
  repeat' (first | (simp only [↓Pkg.lineArrive_fixed, ↓Pkg.fixed_onClus, ↓Pkg.sendTo_fixed, apply_ite Pkg.fixed, ite_self]; done) | with_reducible refine fixed_foldl' (fun _ _ => ?_) ?_ | split)

theorem Pkg.commitPart_fixed (k : Pkg) (a1 : Nat) : (Pkg.commitPart k a1).fixed = k.fixed := by
  unfold Pkg.commitPart
  simp only [↓Pkg.fixed_eta, ↓Pkg.fixed_mk, ↓Pkg.commitRegion_fixed, ↓Pkg.cutLatch_fixed, ↓Pkg.heldApply_fixed, ↓Pkg.lineFlush_fixed, ↓Pkg.moveGuard_fixed, ↓Pkg.poll_fixed]

theorem Pkg.takeWhy_fixed (k : Pkg) (a1 : Packet) : (Pkg.takeWhy k a1).2.fixed = k.fixed := by
  unfold Pkg.takeWhy
  simp only [↓Pkg.fixed_onNet]

theorem Pkg.digPacket_fixed (k : Pkg) (a1 : DmaRun) (a2 : Nat) (a3 : Nat) (a4 : List PB) : (Pkg.digPacket k a1 a2 a3 a4).fixed = k.fixed := by
  unfold Pkg.digPacket
  repeat' (first | simp only [↓Pkg.fixed_onClus] | split)

theorem Pkg.countMoved_fixed (k : Pkg) (a1 : DmaRun) (a2 : Nat) : (Pkg.countMoved k a1 a2).fixed = k.fixed := by
  unfold Pkg.countMoved
  (repeat' split) <;> simp only [↓Pkg.fixed_onCore]

theorem Pkg.winFrame_fixed (k : Pkg) (a1 : DmaRun) (a2 : DEnd) (a3 : Nat) (a4 : Bool) (a5 : Nat) (a6 : List PB) :
    (Pkg.winFrame k a1 a2 a3 a4 a5 a6).fixed = k.fixed := by
  unfold Pkg.winFrame
  repeat' (first | with_reducible rfl | (simp only [↓Pkg.loseTxn_fixed, ↓Pkg.sendTo_fixed, ↓Pkg.fixed_mk, ↓Pkg.fixed_eta, ↓Pkg.fixed_onFab, ↓fixed_foldl, ↓fixed_iter, implies_true, apply_ite Pkg.fixed, ite_self, apply_ite Prod.fst, apply_ite Prod.snd]; done) | with_reducible refine fixed_ite' ?_ ?_ | with_reducible refine fixed_foldl' (fun _ _ => ?_) ?_ | with_reducible refine fixed_iter' (fun _ _ => ?_) ?_ | with_reducible refine fixed_foldl2' (fun _ _ => ?_) ?_ | with_reducible refine fixed_foldl3' (fun _ _ => ?_) ?_ | with_reducible refine (Pkg.fixed_onBu _ _ (fun _ => rfl)).trans ?_ | with_reducible refine (Pkg.fixed_onSec _ _ (fun _ => ⟨rfl, rfl⟩)).trans ?_ | simp only [↓Pkg.loseTxn_fixed, ↓Pkg.sendTo_fixed, ↓Pkg.fixed_mk, ↓Pkg.fixed_eta, ↓Pkg.fixed_onFab] | with_reducible refine fixed_of_eq ‹_› ?_ | with_reducible refine fixed_of_eq1 ‹_› ?_ | split | dsimp only)

theorem Pkg.sendWindow_fixed (k : Pkg) (a1 : DmaRun) (a2 : DEnd) (a3 : Nat) (a4 : Bool) (a5 : List PB) :
    (Pkg.sendWindow k a1 a2 a3 a4 a5).fixed = k.fixed := by
  unfold Pkg.sendWindow
  repeat' (first | with_reducible rfl | (simp only [↓Pkg.winFrame_fixed, ↓Pkg.fixed_mk, ↓Pkg.fixed_eta, ↓fixed_foldl, ↓fixed_iter, implies_true, apply_ite Pkg.fixed, ite_self]; done) | with_reducible refine fixed_ite' ?_ ?_ | with_reducible refine fixed_foldl' (fun _ _ => ?_) ?_ | with_reducible refine fixed_iter' (fun _ _ => ?_) ?_ | with_reducible refine fixed_foldl2' (fun _ _ => ?_) ?_ | with_reducible refine fixed_foldl3' (fun _ _ => ?_) ?_ | with_reducible refine (Pkg.fixed_onBu _ _ (fun _ => rfl)).trans ?_ | with_reducible refine (Pkg.fixed_onSec _ _ (fun _ => ⟨rfl, rfl⟩)).trans ?_ | simp only [↓Pkg.winFrame_fixed, ↓Pkg.fixed_mk, ↓Pkg.fixed_eta] | with_reducible refine fixed_of_eq ‹_› ?_ | with_reducible refine fixed_of_eq1 ‹_› ?_ | split | dsimp only)

theorem Pkg.pushData_fixed (k : Pkg) (a1 : DmaRun) (a2 : Nat) (a3 : List PB) : (Pkg.pushData k a1 a2 a3).fixed = k.fixed := by
  unfold Pkg.pushData
  simp only [↓Pkg.countMoved_fixed, ↓Pkg.inject_fixed, ↓Pkg.sendWindow_fixed, ↓Pkg.setDma_fixed, apply_ite Pkg.fixed, ite_self]

theorem Pkg.issue_fixed (k : Pkg) (a1 : DmaRun) (a2 : Nat) : (Pkg.issue k a1 a2).fixed = k.fixed := by
  unfold Pkg.issue
  simp only [↓Pkg.fixed_eta, ↓Pkg.fixed_mk, ↓Pkg.countMoved_fixed, ↓Pkg.digPacket_fixed, ↓Pkg.inject_fixed, ↓Pkg.killRun_fixed, ↓Pkg.pushData_fixed, ↓Pkg.sendWindow_fixed, ↓Pkg.setDma_fixed, apply_ite Pkg.fixed, ite_self]

theorem Pkg.pump_fixed (k : Pkg) (a1 : Nat) (a2 : Nat) (a3 : Nat) : (Pkg.pump k a1 a2 a3).fixed = k.fixed := by
  unfold Pkg.pump
  repeat' (first | (simp only [↓Pkg.issue_fixed, apply_ite Pkg.fixed, ite_self]; done) | with_reducible refine fixed_foldl' (fun _ _ => ?_) ?_ | split)

theorem Pkg.completionAtEngine_fixed (k : Pkg) (a1 : Packet) : (Pkg.completionAtEngine k a1).fixed = k.fixed := by
  unfold Pkg.completionAtEngine
  repeat' (first | (simp only [↓Pkg.killRun_fixed, ↓Pkg.pump_fixed, ↓Pkg.setDma_fixed, ↓Pkg.takeWhy_fixed, apply_ite Pkg.fixed, ite_self]; done) | split)

theorem Pkg.windowDone_fixed (k : Pkg) (a1 : Nat) (a2 : Packet) : (Pkg.windowDone k a1 a2).fixed = k.fixed := by
  unfold Pkg.windowDone
  repeat' (first | with_reducible rfl | (simp only [↓Pkg.sendTo_fixed, ↓Pkg.fixed_mk, ↓Pkg.fixed_eta, ↓Pkg.fixed_onFab, ↓fixed_foldl, ↓fixed_iter, implies_true, apply_ite Pkg.fixed, ite_self, apply_ite Prod.fst, apply_ite Prod.snd]; done) | with_reducible refine fixed_ite' ?_ ?_ | with_reducible refine fixed_foldl' (fun _ _ => ?_) ?_ | with_reducible refine fixed_iter' (fun _ _ => ?_) ?_ | with_reducible refine fixed_foldl2' (fun _ _ => ?_) ?_ | with_reducible refine fixed_foldl3' (fun _ _ => ?_) ?_ | with_reducible refine (Pkg.fixed_onBu _ _ (fun _ => rfl)).trans ?_ | with_reducible refine (Pkg.fixed_onSec _ _ (fun _ => ⟨rfl, rfl⟩)).trans ?_ | simp only [↓Pkg.sendTo_fixed, ↓Pkg.fixed_mk, ↓Pkg.fixed_eta, ↓Pkg.fixed_onFab] | with_reducible refine fixed_of_eq ‹_› ?_ | with_reducible refine fixed_of_eq1 ‹_› ?_ | split | dsimp only)

theorem Pkg.completionPacket_fixed (k : Pkg) (a1 : Packet) : (Pkg.completionPacket k a1).fixed = k.fixed := by
  unfold Pkg.completionPacket
  simp only [↓Pkg.completionAtEngine_fixed, ↓Pkg.windowDone_fixed, apply_ite Pkg.fixed, ite_self]

theorem Pkg.sinkDrain_fixed (k : Pkg) (a1 : Nat) (a2 : Pkg → ErrRec → Pkg) (h2 : ∀ x0 x1, (a2 x0 x1).fixed = x0.fixed) : (Pkg.sinkDrain k a1 a2).fixed = k.fixed := by
  unfold Pkg.sinkDrain
  exact fixed_foldl' h2 (by simp only [Pkg.fixed_onFw])

theorem Pkg.stopFaulted_fixed (k : Pkg) : (Pkg.stopFaulted k).fixed = k.fixed := by
  unfold Pkg.stopFaulted
  simp only [↓Pkg.jobFault_fixed, ↓Pkg.fixed_onClus, ↓fixed_foldl, implies_true]

theorem Pkg.jobFaultDump_fixed (k : Pkg) (a1 : Nat) (a2 : Nat) (a3 : Nat) : (Pkg.jobFaultDump k a1 a2 a3).fixed = k.fixed := by
  unfold Pkg.jobFaultDump
  simp only [↓Pkg.dumpStart_fixed, ↓Pkg.fixed_onFw, apply_ite Pkg.fixed, ite_self]

theorem Pkg.recordDump_fixed (k : Pkg) (a1 : ErrRec) : (Pkg.recordDump k a1).fixed = k.fixed := by
  unfold Pkg.recordDump
  (repeat' split) <;> simp only [↓Pkg.jobFaultDump_fixed]

theorem Pkg.eventRing_fixed (k : Pkg) (a1 : ErrRec) : (Pkg.eventRing k a1).fixed = k.fixed := by
  unfold Pkg.eventRing
  simp only [↓Pkg.cwWr_fixed, ↓Pkg.hostWrite_fixed, apply_ite Pkg.fixed, ite_self]

theorem Pkg.linkLost_fixed (k : Pkg) (a1 : Nat) : (Pkg.linkLost k a1).fixed = k.fixed := by
  unfold Pkg.linkLost
  simp only [↓Pkg.linkEvent_fixed, ↓Pkg.portDown_fixed]

theorem Pkg.engineReset_fixed (k : Pkg) (a1 : Nat) : (Pkg.engineReset k a1).fixed = k.fixed := by
  unfold Pkg.engineReset
  repeat' (first | with_reducible rfl | (simp only [↓Pkg.dropRuns_fixed, ↓Pkg.stopEmit_fixed, ↓Pkg.fixed_mk, ↓Pkg.fixed_eta, ↓fixed_foldl, ↓fixed_iter, implies_true, apply_ite Pkg.fixed, ite_self]; done) | with_reducible refine fixed_ite' ?_ ?_ | with_reducible refine fixed_foldl' (fun _ _ => ?_) ?_ | with_reducible refine fixed_iter' (fun _ _ => ?_) ?_ | with_reducible refine fixed_foldl2' (fun _ _ => ?_) ?_ | with_reducible refine fixed_foldl3' (fun _ _ => ?_) ?_ | with_reducible refine (Pkg.fixed_onBu _ _ (fun _ => rfl)).trans ?_ | with_reducible refine (Pkg.fixed_onSec _ _ (fun _ => ⟨rfl, rfl⟩)).trans ?_ | simp only [↓Pkg.dropRuns_fixed, ↓Pkg.stopEmit_fixed, ↓Pkg.fixed_mk, ↓Pkg.fixed_eta] | with_reducible refine fixed_of_eq ‹_› ?_ | with_reducible refine fixed_of_eq1 ‹_› ?_ | split | dsimp only)

theorem Pkg.fwCrash_fixed (k : Pkg) (a1 : Nat) (a2 : Nat) (a3 : Nat) (a4 : optParam Bool false) : (Pkg.fwCrash k a1 a2 a3 a4).fixed = k.fixed := by
  unfold Pkg.fwCrash
  (repeat' split) <;> simp only [↓Pkg.fixed_onCore, ↓Pkg.fixed_onFw]

theorem Pkg.resetAsk_fixed (k : Pkg) (a1 : Nat) (a2 : Nat) (a3 : Nat) (a4 : Nat) : (Pkg.resetAsk k a1 a2 a3 a4).fixed = k.fixed := by
  unfold Pkg.resetAsk
  (repeat' split) <;> simp only [↓Pkg.cmdEnd_fixed, ↓Pkg.fixed_onCore, ↓Pkg.fixed_onFw, ↓Pkg.resetBegin_fixed]

theorem Pkg.hang_fixed (k : Pkg) (a1 : HangEndpoint) : (Pkg.hang k a1).fixed = k.fixed := by
  unfold Pkg.hang
  (repeat' split) <;> simp only [↓Pkg.engineReset_fixed, ↓Pkg.fwCrash_fixed, ↓Pkg.linkLost_fixed, ↓Pkg.fixed_onCore, ↓Pkg.resetAsk_fixed, apply_ite Pkg.fixed, ite_self]

theorem Pkg.clearHung_fixed (k : Pkg) : (Pkg.clearHung k).fixed = k.fixed := by
  unfold Pkg.clearHung
  repeat' (first | with_reducible rfl | (simp only [↓Pkg.hang_fixed, ↓Pkg.fixed_mk, ↓Pkg.fixed_eta, ↓fixed_foldl, ↓fixed_iter, implies_true, apply_ite Pkg.fixed, ite_self]; done) | with_reducible refine fixed_ite' ?_ ?_ | with_reducible refine fixed_foldl' (fun _ _ => ?_) ?_ | with_reducible refine fixed_iter' (fun _ _ => ?_) ?_ | with_reducible refine fixed_foldl2' (fun _ _ => ?_) ?_ | with_reducible refine fixed_foldl3' (fun _ _ => ?_) ?_ | with_reducible refine (Pkg.fixed_onBu _ _ (fun _ => rfl)).trans ?_ | with_reducible refine (Pkg.fixed_onSec _ _ (fun _ => ⟨rfl, rfl⟩)).trans ?_ | simp only [↓Pkg.hang_fixed, ↓Pkg.fixed_mk, ↓Pkg.fixed_eta] | with_reducible refine fixed_of_eq ‹_› ?_ | with_reducible refine fixed_of_eq1 ‹_› ?_ | split | dsimp only)

theorem Pkg.drainHung_fixed (k : Pkg) : (Pkg.drainHung k).fixed = k.fixed := by
  unfold Pkg.drainHung
  repeat' (first | with_reducible rfl | (simp only [↓Pkg.hang_fixed, ↓Pkg.fixed_mk, ↓Pkg.fixed_eta, ↓Pkg.fixed_onFab, ↓fixed_foldl, ↓fixed_iter, implies_true, apply_ite Pkg.fixed, ite_self]; done) | with_reducible refine fixed_ite' ?_ ?_ | with_reducible refine fixed_foldl' (fun _ _ => ?_) ?_ | with_reducible refine fixed_iter' (fun _ _ => ?_) ?_ | with_reducible refine fixed_foldl2' (fun _ _ => ?_) ?_ | with_reducible refine fixed_foldl3' (fun _ _ => ?_) ?_ | with_reducible refine (Pkg.fixed_onBu _ _ (fun _ => rfl)).trans ?_ | with_reducible refine (Pkg.fixed_onSec _ _ (fun _ => ⟨rfl, rfl⟩)).trans ?_ | simp only [↓Pkg.hang_fixed, ↓Pkg.fixed_mk, ↓Pkg.fixed_eta, ↓Pkg.fixed_onFab] | with_reducible refine fixed_of_eq ‹_› ?_ | with_reducible refine fixed_of_eq1 ‹_› ?_ | split | dsimp only)

theorem Pkg.sbAct_fixed (k : Pkg) (a1 : ErrRec) : (Pkg.sbAct k a1).fixed = k.fixed := by
  unfold Pkg.sbAct
  repeat' (first | with_reducible rfl | (simp only [↓Pkg.clearHung_fixed, ↓Pkg.drainHung_fixed, ↓Pkg.eventRing_fixed, ↓Pkg.rebook_fixed, ↓Pkg.recordDump_fixed, ↓Pkg.stopFaulted_fixed, ↓Pkg.fixed_mk, ↓Pkg.fixed_eta, ↓Pkg.fixed_onBi, ↓fixed_foldl, ↓fixed_iter, implies_true, apply_ite Pkg.fixed, ite_self]; done) | with_reducible refine fixed_ite' ?_ ?_ | with_reducible refine fixed_foldl' (fun _ _ => ?_) ?_ | with_reducible refine fixed_iter' (fun _ _ => ?_) ?_ | with_reducible refine fixed_foldl2' (fun _ _ => ?_) ?_ | with_reducible refine fixed_foldl3' (fun _ _ => ?_) ?_ | with_reducible refine (Pkg.fixed_onBu _ _ (fun _ => rfl)).trans ?_ | with_reducible refine (Pkg.fixed_onSec _ _ (fun _ => ⟨rfl, rfl⟩)).trans ?_ | simp only [↓Pkg.clearHung_fixed, ↓Pkg.drainHung_fixed, ↓Pkg.eventRing_fixed, ↓Pkg.rebook_fixed, ↓Pkg.recordDump_fixed, ↓Pkg.stopFaulted_fixed, ↓Pkg.fixed_mk, ↓Pkg.fixed_eta, ↓Pkg.fixed_onBi] | with_reducible refine fixed_of_eq ‹_› ?_ | with_reducible refine fixed_of_eq1 ‹_› ?_ | split | dsimp only)

theorem Pkg.complexDrain_fixed (k : Pkg) (a1 : Nat) : (Pkg.complexDrain k a1).fixed = k.fixed := by
  unfold Pkg.complexDrain
  simp only [↓Pkg.bpAct_fixed, ↓Pkg.sbAct_fixed, ↓Pkg.sinkDrain_fixed, implies_true, apply_ite Pkg.fixed, ite_self]

theorem Pkg.contraFence_fixed (k : Pkg) (a1 : Nat) : (Pkg.contraFence k a1).fixed = k.fixed := by
  unfold Pkg.contraFence
  (repeat' split) <;> simp only [↓Pkg.fencePut_fixed, ↓Pkg.fixed_onCore]

theorem Pkg.drainWait_fixed (k : Pkg) (a1 : Nat) : (Pkg.drainWait k a1).fixed = k.fixed := by
  unfold Pkg.drainWait
  simp only [↓Pkg.emit_fixed, ↓Pkg.fixed_onFab, ↓fixed_foldl, implies_true]

theorem Pkg.control_fixed (k : Pkg) (a1 : Nat) (a2 : ControlFlit) : (Pkg.control k a1 a2).fixed = k.fixed := by
  unfold Pkg.control
  repeat' (first | with_reducible rfl | (simp only [↓Pkg.drainWait_fixed, ↓Pkg.linkLost_fixed, ↓Pkg.setLink_fixed, ↓Pkg.widthApply_fixed, ↓Pkg.fixed_mk, ↓Pkg.fixed_eta, ↓Pkg.fixed_onCore, ↓Pkg.fixed_onFab, ↓Pkg.fixed_onAtt, ↓fixed_foldl, ↓fixed_iter, implies_true, apply_ite Pkg.fixed, ite_self]; done) | with_reducible refine fixed_ite' ?_ ?_ | with_reducible refine fixed_foldl' (fun _ _ => ?_) ?_ | with_reducible refine fixed_iter' (fun _ _ => ?_) ?_ | with_reducible refine fixed_foldl2' (fun _ _ => ?_) ?_ | with_reducible refine fixed_foldl3' (fun _ _ => ?_) ?_ | with_reducible refine (Pkg.fixed_onBu _ _ (fun _ => rfl)).trans ?_ | with_reducible refine (Pkg.fixed_onSec _ _ (fun _ => ⟨rfl, rfl⟩)).trans ?_ | simp only [↓Pkg.drainWait_fixed, ↓Pkg.linkLost_fixed, ↓Pkg.setLink_fixed, ↓Pkg.widthApply_fixed, ↓Pkg.fixed_mk, ↓Pkg.fixed_eta, ↓Pkg.fixed_onCore, ↓Pkg.fixed_onFab, ↓Pkg.fixed_onAtt] | with_reducible refine fixed_of_eq ‹_› ?_ | with_reducible refine fixed_of_eq1 ‹_› ?_ | split | dsimp only)

theorem Pkg.copierComplete_fixed (k : Pkg) (a1 : Nat) : (Pkg.copierComplete k a1).fixed = k.fixed := by
  unfold Pkg.copierComplete
  (repeat' split) <;> simp only [↓Pkg.copyCluster_fixed, ↓Pkg.moveGuard_fixed, ↓Pkg.setMove_fixed, apply_ite Pkg.fixed, ite_self]

theorem Pkg.copyPage_fixed (k : Pkg) (a1 : Nat) (a2 : Nat) (a3 : Nat) (a4 : Nat) : (Pkg.copyPage k a1 a2 a3 a4).fixed = k.fixed := by
  unfold Pkg.copyPage
  simp only [↓Pkg.fixed_eta, ↓Pkg.fixed_mk, ↓Pkg.hbTouch_fixed, ↓fixed_iter, implies_true, apply_ite Pkg.fixed, ite_self]

theorem Pkg.cowDrain_fixed (k : Pkg) (a1 : Nat) (a2 : Nat) : (Pkg.cowDrain k a1 a2).fixed = k.fixed := by
  unfold Pkg.cowDrain
  (repeat' split) <;> simp only [↓Pkg.fixed_eta, ↓Pkg.fixed_mk]

theorem Pkg.cplTimeout_fixed (k : Pkg) (a1 : Nat) : (Pkg.cplTimeout k a1).fixed = k.fixed := by
  unfold Pkg.cplTimeout
  (repeat' split) <;> simp only [↓Pkg.fixed_onAtt, ↓Pkg.fixed_onCore]

theorem Pkg.cutArrive_fixed (k : Pkg) : (Pkg.cutArrive k).fixed = k.fixed := by
  unfold Pkg.cutArrive
  simp only [↓Pkg.lineFlush_fixed, ↓Pkg.fixed_onClus, ↓fixed_foldl, implies_true, apply_ite Pkg.fixed, ite_self]

theorem Pkg.cutBind_fixed (k : Pkg) : (Pkg.cutBind k).fixed = k.fixed := by
  unfold Pkg.cutBind
  repeat' (first | with_reducible rfl | (simp only [↓Pkg.fixed_mk, ↓Pkg.fixed_eta, ↓Pkg.fixed_onCore, ↓fixed_foldl, ↓fixed_iter, implies_true, apply_ite Pkg.fixed, ite_self]; done) | with_reducible refine fixed_ite' ?_ ?_ | with_reducible refine fixed_foldl' (fun _ _ => ?_) ?_ | with_reducible refine fixed_iter' (fun _ _ => ?_) ?_ | with_reducible refine fixed_foldl2' (fun _ _ => ?_) ?_ | with_reducible refine fixed_foldl3' (fun _ _ => ?_) ?_ | with_reducible refine (Pkg.fixed_onBu _ _ (fun _ => rfl)).trans ?_ | with_reducible refine (Pkg.fixed_onSec _ _ (fun _ => ⟨rfl, rfl⟩)).trans ?_ | simp only [↓Pkg.fixed_mk, ↓Pkg.fixed_eta, ↓Pkg.fixed_onCore] | with_reducible refine fixed_of_eq ‹_› ?_ | with_reducible refine fixed_of_eq1 ‹_› ?_ | split | dsimp only)

theorem Pkg.cutChannels_fixed (k : Pkg) (a1 : Nat) : (Pkg.cutChannels k a1).fixed = k.fixed := by
  unfold Pkg.cutChannels
  (repeat' split) <;> simp only [↓Pkg.onCuts_fixed]

theorem Pkg.cutComplete_fixed (k : Pkg) (a1 : Nat) : (Pkg.cutComplete k a1).fixed = k.fixed := by
  unfold Pkg.cutComplete
  repeat' (first | with_reducible refine fixed_foldl3' (fun _ _ => ?_) ?_ | simp only [↓Pkg.fixed_eta, ↓Pkg.fixed_mk, ↓Pkg.cmdEnd_fixed, ↓Pkg.cutEvent_fixed, ↓Pkg.dpaRead_fixed, ↓Pkg.dropCut_fixed, apply_ite Pkg.fixed] | split)

theorem Pkg.cwRead_fixed (k : Pkg) (a1 : Nat) (a2 : Nat) : (Pkg.cwRead k a1 a2).2.fixed = k.fixed := by
  unfold Pkg.cwRead
  (repeat' split) <;> simp only [↓Pkg.cwWr_fixed]

theorem Pkg.emuWrite_fixed (k : Pkg) (a1 : Nat) (a2 : Nat) (a3 : Nat) (a4 : W64) : (Pkg.emuWrite k a1 a2 a3 a4).2.fixed = k.fixed := by
  unfold Pkg.emuWrite
  repeat' (first | simp only [↓Pkg.cwWr_fixed, ↓Pkg.fixed_onAtt, ↓Pkg.fixed_onCore, apply_ite Pkg.fixed, ite_self] | split)

theorem Pkg.doorbell_fixed (k : Pkg) (a1 : Nat) (a2 : Nat) : (Pkg.doorbell k a1 a2).fixed = k.fixed := by
  unfold Pkg.doorbell
  (repeat' split) <;> simp only [↓Pkg.fixed_onCore, ↓Pkg.setRingS_fixed]

theorem Pkg.fwlGo_fixed (k : Pkg) : (Pkg.fwlGo k).fixed = k.fixed := by
  unfold Pkg.fwlGo
  simp only [↓Pkg.cwWr_fixed, apply_ite Pkg.fixed, ite_self]

theorem Pkg.fwlWrite_fixed (k : Pkg) (a1 : Nat) (a2 : W32) : (Pkg.fwlWrite k a1 a2).fixed = k.fixed := by
  unfold Pkg.fwlWrite
  (repeat' split) <;> simp only [↓Pkg.cwWr_fixed, ↓Pkg.fwlGo_fixed]

theorem Pkg.cwWrite_fixed (k : Pkg) (a1 : Nat) (a2 : Nat) (a3 : Nat) (a4 : W64) : (Pkg.cwWrite k a1 a2 a3 a4).2.fixed = k.fixed := by
  unfold Pkg.cwWrite
  (repeat' split) <;> simp only [↓Pkg.doorbell_fixed, ↓Pkg.emuWrite_fixed, ↓Pkg.fwlWrite_fixed]

theorem Pkg.jtag_fixed (k : Pkg) (a1 : Nat) (a2 : List Byte) (a3 : Pkg → Pkg) (h3 : ∀ x0, (a3 x0).fixed = x0.fixed) : (Pkg.jtag k a1 a2 a3).fixed = k.fixed := by
  unfold Pkg.jtag
  refine fixed_ite' ?_ rfl
  exact (Pkg.fixed_onSec _ _ (fun _ => ⟨rfl, rfl⟩)).trans (h3 k)

theorem Pkg.drawNonce_fixed (k : Pkg) : (Pkg.drawNonce k).2.fixed = k.fixed := by
  unfold Pkg.drawNonce
  simp only [↓Pkg.fixed_onCore]

theorem Pkg.dbgChal_fixed (k : Pkg) : (Pkg.dbgChal k).fixed = k.fixed := by
  unfold Pkg.dbgChal
  refine fixed_ite' rfl (fixed_ite' ?_ ?_)
  · exact Pkg.jtag_fixed _ _ _ _ (fun _ => rfl)
  · exact (Pkg.fixed_onSec _ _ (fun _ => ⟨rfl, rfl⟩)).trans ((Pkg.jtag_fixed _ _ _ _ (fun _ => rfl)).trans (Pkg.drawNonce_fixed k))

theorem Pkg.dbgLock_fixed (k : Pkg) : (Pkg.dbgLock k).fixed = k.fixed := by
  unfold Pkg.dbgLock
  simp only [↓Pkg.jtag_fixed, ↓Pkg.fixed_onCore, implies_true]

theorem Pkg.secEvent_fixed (k : Pkg) (a1 : Nat) (a2 : Nat) (a3 : Nat) (a4 : Nat) (a5 : Nat) (a6 : Nat) : (Pkg.secEvent k a1 a2 a3 a4 a5 a6).fixed = k.fixed := by
  unfold Pkg.secEvent
  simp only [↓Pkg.fixed_onCore]

theorem Pkg.unlockFail_fixed (k : Pkg) (a1 : Nat) (a2 : Nat) : (Pkg.unlockFail k a1 a2).fixed = k.fixed := by
  unfold Pkg.unlockFail
  simp only [↓Pkg.fixed_onCore, ↓Pkg.secEvent_fixed, apply_ite Pkg.fixed, ite_self]

theorem Pkg.secDenied_fixed (k : Pkg) (a1 : Nat) (a2 : Nat) : (Pkg.secDenied k a1 a2).fixed = k.fixed := by
  unfold Pkg.secDenied
  simp only [↓Pkg.secEvent_fixed]

theorem Pkg.debugRead_fixed (k : Pkg) (a1 : Nat) (a2 : Nat) (a3 : Nat) : (Pkg.debugRead k a1 a2 a3).fixed = k.fixed := by
  unfold Pkg.debugRead
  simp only [↓Pkg.fixed_onCore, ↓Pkg.fixed_onSec, implies_true, and_self, apply_ite Pkg.fixed, ite_self]

theorem Pkg.deliver_fixed (k : Pkg) (a1 : Packet) (a2 : Nat) (a3 : Bool) : (Pkg.deliver k a1 a2 a3).fixed = k.fixed := by
  unfold Pkg.deliver
  (repeat' split) <;> simp only [↓Pkg.fixed_eta, ↓Pkg.fixed_mk, ↓Pkg.lineWrite_fixed, ↓Pkg.fixed_onClus, apply_ite Pkg.fixed, ite_self]

theorem Pkg.deliverLocal_fixed (k : Pkg) (a1 : Packet) (a2 : Nat) : (Pkg.deliverLocal k a1 a2).fixed = k.fixed := by
  unfold Pkg.deliverLocal
  simp only [↓Pkg.deliver_fixed, ↓fixed_iter, implies_true, apply_ite Pkg.fixed, ite_self]

theorem Pkg.linesResume_fixed (k : Pkg) : (Pkg.linesResume k).fixed = k.fixed := by
  unfold Pkg.linesResume
  simp only [↓Pkg.inject_fixed, ↓Pkg.fixed_onNet, ↓fixed_foldl, implies_true]

theorem Pkg.heldSend_fixed (k : Pkg) : (Pkg.heldSend k).fixed = k.fixed := by
  unfold Pkg.heldSend
  repeat' (first | with_reducible rfl | (simp only [↓Pkg.loseTxn_fixed, ↓Pkg.sendTo_fixed, ↓Pkg.fixed_mk, ↓Pkg.fixed_eta, ↓Pkg.fixed_onFab, ↓fixed_foldl, ↓fixed_iter, implies_true, apply_ite Pkg.fixed, ite_self, apply_ite Prod.fst, apply_ite Prod.snd]; done) | with_reducible refine fixed_ite' ?_ ?_ | with_reducible refine fixed_foldl' (fun _ _ => ?_) ?_ | with_reducible refine fixed_iter' (fun _ _ => ?_) ?_ | with_reducible refine fixed_foldl2' (fun _ _ => ?_) ?_ | with_reducible refine fixed_foldl3' (fun _ _ => ?_) ?_ | with_reducible refine (Pkg.fixed_onBu _ _ (fun _ => rfl)).trans ?_ | with_reducible refine (Pkg.fixed_onSec _ _ (fun _ => ⟨rfl, rfl⟩)).trans ?_ | simp only [↓Pkg.loseTxn_fixed, ↓Pkg.sendTo_fixed, ↓Pkg.fixed_mk, ↓Pkg.fixed_eta, ↓Pkg.fixed_onFab] | with_reducible refine fixed_of_eq ‹_› ?_ | with_reducible refine fixed_of_eq1 ‹_› ?_ | split | dsimp only)

theorem Pkg.departPackage_fixed (k : Pkg) : (Pkg.departPackage k).fixed = k.fixed := by
  unfold Pkg.departPackage
  repeat' (first | with_reducible rfl | (simp only [↓Pkg.collTrigger_fixed, ↓Pkg.cutArrive_fixed, ↓Pkg.heldSend_fixed, ↓Pkg.linesResume_fixed, ↓Pkg.segApply_fixed, ↓Pkg.setCycle_fixed, ↓Pkg.fixed_mk, ↓Pkg.fixed_eta, ↓fixed_foldl, ↓fixed_iter, implies_true, apply_ite Pkg.fixed, ite_self]; done) | with_reducible refine fixed_ite' ?_ ?_ | with_reducible refine fixed_foldl' (fun _ _ => ?_) ?_ | with_reducible refine fixed_iter' (fun _ _ => ?_) ?_ | with_reducible refine fixed_foldl2' (fun _ _ => ?_) ?_ | with_reducible refine fixed_foldl3' (fun _ _ => ?_) ?_ | with_reducible refine (Pkg.fixed_onBu _ _ (fun _ => rfl)).trans ?_ | with_reducible refine (Pkg.fixed_onSec _ _ (fun _ => ⟨rfl, rfl⟩)).trans ?_ | simp only [↓Pkg.collTrigger_fixed, ↓Pkg.cutArrive_fixed, ↓Pkg.heldSend_fixed, ↓Pkg.linesResume_fixed, ↓Pkg.segApply_fixed, ↓Pkg.setCycle_fixed, ↓Pkg.fixed_mk, ↓Pkg.fixed_eta] | with_reducible refine fixed_of_eq ‹_› ?_ | with_reducible refine fixed_of_eq1 ‹_› ?_ | split | dsimp only)

theorem Pkg.dieTest_fixed (k : Pkg) (a1 : Nat) : (Pkg.dieTest k a1).fixed = k.fixed := by
  unfold Pkg.dieTest
  repeat' (first | with_reducible rfl | (simp only [↓Pkg.startTest_fixed, ↓Pkg.fixed_mk, ↓Pkg.fixed_eta, ↓Pkg.fixed_onPw, ↓fixed_foldl, ↓fixed_iter, implies_true, apply_ite Pkg.fixed, ite_self]; done) | with_reducible refine fixed_ite' ?_ ?_ | with_reducible refine fixed_foldl' (fun _ _ => ?_) ?_ | with_reducible refine fixed_iter' (fun _ _ => ?_) ?_ | with_reducible refine fixed_foldl2' (fun _ _ => ?_) ?_ | with_reducible refine fixed_foldl3' (fun _ _ => ?_) ?_ | with_reducible refine (Pkg.fixed_onBu _ _ (fun _ => rfl)).trans ?_ | with_reducible refine (Pkg.fixed_onSec _ _ (fun _ => ⟨rfl, rfl⟩)).trans ?_ | simp only [↓Pkg.startTest_fixed, ↓Pkg.fixed_mk, ↓Pkg.fixed_eta, ↓Pkg.fixed_onPw] | with_reducible refine fixed_of_eq ‹_› ?_ | with_reducible refine fixed_of_eq1 ‹_› ?_ | split | dsimp only)

theorem Pkg.dieDone_fixed (k : Pkg) (a1 : Nat) : (Pkg.dieDone k a1).fixed = k.fixed := by
  unfold Pkg.dieDone
  repeat' (first | with_reducible rfl | (simp only [↓Pkg.dieTest_fixed, ↓Pkg.fixed_mk, ↓Pkg.fixed_eta, ↓Pkg.fixed_onCore, ↓Pkg.fixed_onClus, ↓Pkg.fixed_onBi, ↓fixed_foldl, ↓fixed_iter, implies_true, apply_ite Pkg.fixed, ite_self]; done) | with_reducible refine fixed_ite' ?_ ?_ | with_reducible refine fixed_foldl' (fun _ _ => ?_) ?_ | with_reducible refine fixed_iter' (fun _ _ => ?_) ?_ | with_reducible refine fixed_foldl2' (fun _ _ => ?_) ?_ | with_reducible refine fixed_foldl3' (fun _ _ => ?_) ?_ | with_reducible refine (Pkg.fixed_onBu _ _ (fun _ => rfl)).trans ?_ | with_reducible refine (Pkg.fixed_onSec _ _ (fun _ => ⟨rfl, rfl⟩)).trans ?_ | simp only [↓Pkg.dieTest_fixed, ↓Pkg.fixed_mk, ↓Pkg.fixed_eta, ↓Pkg.fixed_onCore, ↓Pkg.fixed_onClus, ↓Pkg.fixed_onBi] | with_reducible refine fixed_of_eq ‹_› ?_ | with_reducible refine fixed_of_eq1 ‹_› ?_ | split | dsimp only)

theorem Pkg.mirrorApply_fixed (k : Pkg) (a1 : Nat) : (Pkg.mirrorApply k a1).fixed = k.fixed := by
  unfold Pkg.mirrorApply
  repeat' (first | simp only [↓Pkg.fixed_onClus, ↓Pkg.fixed_onNet, apply_ite Pkg.fixed, ite_self] | split)

theorem Pkg.slotMapApply_fixed (k : Pkg) (a1 : Nat) : (Pkg.slotMapApply k a1).fixed = k.fixed := by
  unfold Pkg.slotMapApply
  simp only [↓Pkg.fixed_onClus, ↓Pkg.fixed_onCore, ↓Pkg.fixed_onNet, apply_ite Pkg.fixed, ite_self]

theorem Pkg.descEvent_fixed (k : Pkg) (a1 : Nat) (a2 : Nat) (a3 : Nat) (a4 : Nat) (a5 : Nat) (a6 : List W64) :
    (Pkg.descEvent k a1 a2 a3 a4 a5 a6).fixed = k.fixed := by
  unfold Pkg.descEvent
  repeat' (first | with_reducible rfl | (simp only [↓Pkg.fixed_mk, ↓Pkg.fixed_eta, ↓Pkg.fixed_onCore, ↓Pkg.fixed_onClus, ↓fixed_foldl, ↓fixed_iter, implies_true, apply_ite Pkg.fixed, ite_self]; done) | with_reducible refine fixed_ite' ?_ ?_ | with_reducible refine fixed_foldl' (fun _ _ => ?_) ?_ | with_reducible refine fixed_iter' (fun _ _ => ?_) ?_ | with_reducible refine fixed_foldl2' (fun _ _ => ?_) ?_ | with_reducible refine fixed_foldl3' (fun _ _ => ?_) ?_ | with_reducible refine (Pkg.fixed_onBu _ _ (fun _ => rfl)).trans ?_ | with_reducible refine (Pkg.fixed_onSec _ _ (fun _ => ⟨rfl, rfl⟩)).trans ?_ | simp only [↓Pkg.fixed_mk, ↓Pkg.fixed_eta, ↓Pkg.fixed_onCore, ↓Pkg.fixed_onClus] | with_reducible refine fixed_of_eq ‹_› ?_ | with_reducible refine fixed_of_eq1 ‹_› ?_ | split | dsimp only)

theorem Pkg.dmaStart_fixed (k : Pkg) (a1 : Nat) (a2 : Nat) (a3 : Nat) (a4 : Nat) (a5 : List W64) (a6 : Bool) : (Pkg.dmaStart k a1 a2 a3 a4 a5 a6).fixed = k.fixed := by
  unfold Pkg.dmaStart
  simp only [↓Pkg.descEvent_fixed, ↓Pkg.fixed_onClus, ↓Pkg.fixed_onNet, ↓fixed_iter, implies_true, apply_ite Pkg.fixed, ite_self]

theorem Pkg.startRun_fixed (k : Pkg) (a1 : Nat) (a2 : Nat) (a3 : SlotRun) (a4 : Bool) : (Pkg.startRun k a1 a2 a3 a4).fixed = k.fixed := by
  unfold Pkg.startRun
  simp only [↓Pkg.dmaStart_fixed, ↓Pkg.fixed_onClus, apply_ite Pkg.fixed, ite_self]

theorem Pkg.startRuns_fixed (k : Pkg) (a1 : Nat) : (Pkg.startRuns k a1).fixed = k.fixed := by
  unfold Pkg.startRuns
  repeat' (first | with_reducible refine fixed_iter' (fun _ _ => ?_) ?_ | simp only [↓Pkg.startRun_fixed, apply_ite Pkg.fixed, ite_self] | split)

theorem Pkg.departRegion_fixed (k : Pkg) (a1 : Nat) : (Pkg.departRegion k a1).fixed = k.fixed := by
  unfold Pkg.departRegion
  simp only [↓Pkg.mirrorApply_fixed, ↓Pkg.fixed_onClus, ↓Pkg.slotMapApply_fixed, ↓Pkg.startRuns_fixed]

theorem Pkg.moveDone_fixed (k : Pkg) (a1 : Nat) : (Pkg.moveDone k a1).fixed = k.fixed := by
  unfold Pkg.moveDone
  (repeat' split) <;> simp only [↓Pkg.fixed_onBi, ↓Pkg.fixed_onCore, ↓Pkg.setMove_fixed, ↓Pkg.startTest_fixed]

theorem Pkg.departPart_fixed (k : Pkg) (a1 : Nat) : (Pkg.departPart k a1).fixed = k.fixed := by
  unfold Pkg.departPart
  repeat' (first | with_reducible rfl | (simp only [↓Pkg.biShow_fixed, ↓Pkg.cutChannels_fixed, ↓Pkg.departRegion_fixed, ↓Pkg.dieDone_fixed, ↓Pkg.moveDone_fixed, ↓Pkg.fixed_mk, ↓Pkg.fixed_eta, ↓Pkg.fixed_onClus, ↓fixed_foldl, ↓fixed_iter, implies_true, apply_ite Pkg.fixed, ite_self]; done) | with_reducible refine fixed_ite' ?_ ?_ | with_reducible refine fixed_foldl' (fun _ _ => ?_) ?_ | with_reducible refine fixed_iter' (fun _ _ => ?_) ?_ | with_reducible refine fixed_foldl2' (fun _ _ => ?_) ?_ | with_reducible refine fixed_foldl3' (fun _ _ => ?_) ?_ | with_reducible refine (Pkg.fixed_onBu _ _ (fun _ => rfl)).trans ?_ | with_reducible refine (Pkg.fixed_onSec _ _ (fun _ => ⟨rfl, rfl⟩)).trans ?_ | simp only [↓Pkg.biShow_fixed, ↓Pkg.cutChannels_fixed, ↓Pkg.departRegion_fixed, ↓Pkg.dieDone_fixed, ↓Pkg.moveDone_fixed, ↓Pkg.fixed_mk, ↓Pkg.fixed_eta, ↓Pkg.fixed_onClus] | with_reducible refine fixed_of_eq ‹_› ?_ | with_reducible refine fixed_of_eq1 ‹_› ?_ | split | dsimp only)

theorem Pkg.finishRun_fixed (k : Pkg) (a1 : DmaRun) : (Pkg.finishRun k a1).fixed = k.fixed := by
  unfold Pkg.finishRun
  simp only [↓Pkg.fixed_onClus, ↓Pkg.fixed_onCore, ↓Pkg.setDma_fixed, apply_ite Pkg.fixed, ite_self]

theorem Pkg.descComplete_fixed (k : Pkg) (a1 : Nat) (a2 : Nat) (a3 : Nat) : (Pkg.descComplete k a1 a2 a3).fixed = k.fixed := by
  unfold Pkg.descComplete
  repeat' (first | simp only [↓Pkg.finishRun_fixed, apply_ite Pkg.fixed, ite_self] | split)

theorem Pkg.devPoll_fixed (k : Pkg) : (Pkg.devPoll k).fixed = k.fixed := by
  unfold Pkg.devPoll
  repeat' (first | (simp only [↓Pkg.diagPoll_fixed, ↓Pkg.layUp_fixed, apply_ite Pkg.fixed, ite_self]; done) | split)

theorem Pkg.unfence_fixed (k : Pkg) (a1 : Nat) : (Pkg.unfence k a1).fixed = k.fixed := by
  unfold Pkg.unfence
  (repeat' split) <;> simp only [↓Pkg.fencePut_fixed]

theorem Pkg.dieBack_fixed (k : Pkg) (a1 : Nat) : (Pkg.dieBack k a1).fixed = k.fixed := by
  unfold Pkg.dieBack
  simp only [↓Pkg.unfence_fixed, apply_ite Pkg.fixed, ite_self]

theorem Pkg.dieOff_fixed (k : Pkg) (a1 : Nat) (a2 : Nat) : (Pkg.dieOff k a1 a2).fixed = k.fixed := by
  unfold Pkg.dieOff
  simp only [↓Pkg.dieRelief_fixed, ↓Pkg.fixed_onClus, ↓Pkg.fixed_onPw]

theorem Pkg.drainArrive_fixed (k : Pkg) (a1 : Nat) : (Pkg.drainArrive k a1).fixed = k.fixed := by
  unfold Pkg.drainArrive
  simp only [↓Pkg.fixed_onCore, ↓Pkg.fixed_onFab, apply_ite Pkg.fixed, ite_self]

theorem Pkg.drainDoneFrame_fixed (k : Pkg) (a1 : Frame) : (Pkg.drainDoneFrame k a1).fixed = k.fixed := by
  unfold Pkg.drainDoneFrame
  simp only [↓Pkg.fixed_onFab, apply_ite Pkg.fixed, ite_self]

theorem Pkg.drawWindows_fixed (k : Pkg) : (Pkg.drawWindows k).fixed = k.fixed := by
  unfold Pkg.drawWindows
  simp only [↓Pkg.fixed_onCore, ↓Pkg.fixed_onHbm, ↓fixed_iter, implies_true, apply_ite Pkg.fixed, ite_self]

theorem Pkg.drillInject_fixed (k : Pkg) (a1 : Nat) : (Pkg.drillInject k a1).fixed = k.fixed := by
  unfold Pkg.drillInject
  repeat' (first | simp only [↓Pkg.fixed_onBi, ↓Pkg.fixed_onCore, apply_ite Pkg.fixed, ite_self] | split)

theorem Pkg.drillTick_fixed (k : Pkg) (a1 : Nat) : (Pkg.drillTick k a1).fixed = k.fixed := by
  unfold Pkg.drillTick
  (repeat' split) <;> simp only [↓Pkg.drillInject_fixed]

theorem Pkg.copyTimeout_fixed (k : Pkg) (a1 : Nat) : (Pkg.copyTimeout k a1).fixed = k.fixed := by
  unfold Pkg.copyTimeout
  repeat' (first | with_reducible rfl | (simp only [↓Pkg.setRingDead_fixed, ↓Pkg.fixed_mk, ↓Pkg.fixed_eta, ↓fixed_foldl, ↓fixed_iter, implies_true, apply_ite Pkg.fixed, ite_self]; done) | with_reducible refine fixed_ite' ?_ ?_ | with_reducible refine fixed_foldl' (fun _ _ => ?_) ?_ | with_reducible refine fixed_iter' (fun _ _ => ?_) ?_ | with_reducible refine fixed_foldl2' (fun _ _ => ?_) ?_ | with_reducible refine fixed_foldl3' (fun _ _ => ?_) ?_ | with_reducible refine (Pkg.fixed_onBu _ _ (fun _ => rfl)).trans ?_ | with_reducible refine (Pkg.fixed_onSec _ _ (fun _ => ⟨rfl, rfl⟩)).trans ?_ | simp only [↓Pkg.setRingDead_fixed, ↓Pkg.fixed_mk, ↓Pkg.fixed_eta] | with_reducible refine fixed_of_eq ‹_› ?_ | with_reducible refine fixed_of_eq1 ‹_› ?_ | split | dsimp only)

theorem Pkg.dumpTimeout_fixed (k : Pkg) (a1 : Nat) : (Pkg.dumpTimeout k a1).fixed = k.fixed := by
  unfold Pkg.dumpTimeout
  repeat' (first | with_reducible rfl | (simp only [↓Pkg.copyTimeout_fixed, ↓Pkg.fixed_mk, ↓Pkg.fixed_eta, ↓Pkg.fixed_onFw, ↓fixed_foldl, ↓fixed_iter, implies_true, apply_ite Pkg.fixed, ite_self]; done) | with_reducible refine fixed_ite' ?_ ?_ | with_reducible refine fixed_foldl' (fun _ _ => ?_) ?_ | with_reducible refine fixed_iter' (fun _ _ => ?_) ?_ | with_reducible refine fixed_foldl2' (fun _ _ => ?_) ?_ | with_reducible refine fixed_foldl3' (fun _ _ => ?_) ?_ | with_reducible refine (Pkg.fixed_onBu _ _ (fun _ => rfl)).trans ?_ | with_reducible refine (Pkg.fixed_onSec _ _ (fun _ => ⟨rfl, rfl⟩)).trans ?_ | simp only [↓Pkg.copyTimeout_fixed, ↓Pkg.fixed_mk, ↓Pkg.fixed_eta, ↓Pkg.fixed_onFw] | with_reducible refine fixed_of_eq ‹_› ?_ | with_reducible refine fixed_of_eq1 ‹_› ?_ | split | dsimp only)

theorem Pkg.endTest_fixed (k : Pkg) (a1 : Nat) (a2 : TestRun) : (Pkg.endTest k a1 a2).fixed = k.fixed := by
  unfold Pkg.endTest
  simp only [↓Pkg.biShow_fixed, ↓Pkg.fixed_onBi]

theorem Pkg.sink_fixed (k : Pkg) (a1 : Nat) (a2 : Bool) (a3 : Pkg → ErrRec → Pkg) (a4 : ErrRec) (h3 : ∀ x0 x1, (a3 x0 x1).fixed = x0.fixed) : (Pkg.sink k a1 a2 a3 a4).fixed = k.fixed := by
  unfold Pkg.sink
  dsimp only
  repeat' (first | with_reducible refine fixed_ite' ?_ ?_ | simp only [h3, Pkg.fixed_onFw])

theorem Pkg.errorRecord_fixed (k : Pkg) (a1 : ErrRec) : (Pkg.errorRecord k a1).fixed = k.fixed := by
  unfold Pkg.errorRecord
  simp only [↓Pkg.bpAct_fixed, ↓Pkg.fixed_onCore, ↓Pkg.sbAct_fixed, ↓Pkg.sink_fixed, implies_true, apply_ite Pkg.fixed, ite_self]

theorem Pkg.fwNote_fixed (k : Pkg) (a1 : Nat) (a2 : Nat) (a3 : Nat) (a4 : Nat) : (Pkg.fwNote k a1 a2 a3 a4).fixed = k.fixed := by
  unfold Pkg.fwNote
  simp only [↓Pkg.fixed_onCore]

theorem Pkg.serveAgain_fixed (k : Pkg) (a1 : Nat) : (Pkg.serveAgain k a1).fixed = k.fixed := by
  unfold Pkg.serveAgain
  simp only [↓Pkg.complexDrain_fixed, ↓Pkg.fwNote_fixed, ↓Pkg.fixed_onCore, ↓Pkg.fixed_onFw]

theorem Pkg.exchCrash_fixed (k : Pkg) : (Pkg.exchCrash k).fixed = k.fixed := by
  unfold Pkg.exchCrash
  (repeat' split) <;> simp only [↓Pkg.exchEnd_fixed, ↓Pkg.flipBank_fixed, ↓Pkg.fwNote_fixed, ↓Pkg.serveAgain_fixed, ↓fixed_foldl, implies_true]

theorem Pkg.exchSwitch_fixed (k : Pkg) : (Pkg.exchSwitch k).fixed = k.fixed := by
  unfold Pkg.exchSwitch
  (repeat' split) <;> simp only [↓Pkg.exchEnd_fixed, ↓Pkg.flipBank_fixed, ↓Pkg.fixed_onCore, ↓Pkg.fixed_onFw, ↓Pkg.serveAgain_fixed, ↓fixed_foldl, implies_true, apply_ite Pkg.fixed, ite_self]

theorem Pkg.excludeSensor_fixed (k : Pkg) (a1 : Nat) (a2 : Int) (a3 : Nat) : (Pkg.excludeSensor k a1 a2 a3).fixed = k.fixed := by
  unfold Pkg.excludeSensor
  simp only [↓Pkg.dieOff_fixed, ↓Pkg.fixed_onPw, ↓Pkg.pwEvent_fixed, apply_ite Pkg.fixed, ite_self]

theorem Pkg.extest_fixed (k : Pkg) (a1 : W64) : (Pkg.extest k a1).fixed = k.fixed := by
  unfold Pkg.extest
  simp only [↓Pkg.fixed_onSec, ↓Pkg.secDenied_fixed, implies_true, and_self, apply_ite Pkg.fixed, ite_self]

theorem Pkg.noteLinks_fixed (k : Pkg) : (Pkg.noteLinks k).fixed = k.fixed := by
  unfold Pkg.noteLinks
  simp only [↓Pkg.fixed_onBu, implies_true]

theorem Pkg.rehomeNow_fixed (k : Pkg) (a1 : Nat) (a2 : Nat) (a3 : Nat) : (Pkg.rehomeNow k a1 a2 a3).fixed = k.fixed := by
  unfold Pkg.rehomeNow
  (repeat' split) <;> simp only [↓Pkg.hbEvent_fixed, ↓Pkg.fixed_onHbm, ↓Pkg.spareCheck_fixed, ↓Pkg.startPage_fixed]

theorem Pkg.rehomeAll_fixed (k : Pkg) (a1 : Nat) (a2 : Nat) : (Pkg.rehomeAll k a1 a2).fixed = k.fixed := by
  unfold Pkg.rehomeAll
  simp only [↓Pkg.hbEvent_fixed, ↓Pkg.fixed_onCore, ↓Pkg.rehomeNow_fixed, ↓fixed_iter, implies_true, apply_ite Pkg.fixed, ite_self]

theorem Pkg.waveStart_fixed (k : Pkg) (a1 : Nat) : (Pkg.waveStart k a1).fixed = k.fixed := by
  unfold Pkg.waveStart
  repeat' (first | (simp only [↓Pkg.rehomeAll_fixed, ↓Pkg.rehomeNow_fixed, ↓fixed_foldl, implies_true, apply_ite Pkg.fixed, ite_self]; done) | with_reducible refine fixed_foldl' (fun _ _ => ?_) ?_ | split)

theorem Pkg.fabricEnd_fixed (k : Pkg) : (Pkg.fabricEnd k).fixed = k.fixed := by
  unfold Pkg.fabricEnd
  repeat' (first | (simp only [↓Pkg.noteLinks_fixed, ↓Pkg.fixed_onBu, ↓Pkg.fixed_onCore, ↓Pkg.waveStart_fixed, implies_true, apply_ite Pkg.fixed]; done) | with_reducible refine fixed_ite' ?_ ?_ | split)

theorem Pkg.faultOut_fixed (k : Pkg) : (Pkg.faultOut k).fixed = k.fixed := by
  unfold Pkg.faultOut
  simp only [↓Pkg.failed_fixed, ↓Pkg.fixed_onPw]

theorem Pkg.flitCrc_fixed (k : Pkg) (a1 : Nat) (a2 : Nat) (a3 : Packet) (a4 : Nat) :
    (Pkg.flitCrc k a1 a2 a3 a4).fixed = k.fixed := by
  unfold Pkg.flitCrc
  repeat' (first | with_reducible rfl | (simp only [↓Pkg.countRetry_fixed, ↓Pkg.exhaust_fixed, ↓Pkg.fixed_mk, ↓Pkg.fixed_eta, ↓Pkg.fixed_onNet, ↓fixed_foldl, ↓fixed_iter, implies_true, apply_ite Pkg.fixed, ite_self]; done) | with_reducible refine fixed_ite' ?_ ?_ | with_reducible refine fixed_foldl' (fun _ _ => ?_) ?_ | with_reducible refine fixed_iter' (fun _ _ => ?_) ?_ | with_reducible refine fixed_foldl2' (fun _ _ => ?_) ?_ | with_reducible refine fixed_foldl3' (fun _ _ => ?_) ?_ | with_reducible refine (Pkg.fixed_onBu _ _ (fun _ => rfl)).trans ?_ | with_reducible refine (Pkg.fixed_onSec _ _ (fun _ => ⟨rfl, rfl⟩)).trans ?_ | simp only [↓Pkg.countRetry_fixed, ↓Pkg.exhaust_fixed, ↓Pkg.fixed_mk, ↓Pkg.fixed_eta, ↓Pkg.fixed_onNet] | with_reducible refine fixed_of_eq ‹_› ?_ | with_reducible refine fixed_of_eq1 ‹_› ?_ | split | dsimp only)

theorem Pkg.fuseMap_fixed (k : Pkg) : (Pkg.fuseMap k).2.fixed = k.fixed := by
  unfold Pkg.fuseMap
  repeat' (first | with_reducible refine fixed_foldl3' (fun _ _ => ?_) ?_ | simp only [↓Pkg.fixed_onCore] | split)

theorem Pkg.loadsFail_fixed (k : Pkg) : (Pkg.loadsFail k).fixed = k.fixed := by
  unfold Pkg.loadsFail
  simp only [↓Pkg.cmdEnd_fixed, ↓Pkg.onJob_fixed, ↓Pkg.setJobState_fixed, ↓fixed_foldl, implies_true]

theorem Pkg.fwRestart_fixed (k : Pkg) (a1 : Nat) (a2 : Bool) (a3 : Bool) : (Pkg.fwRestart k a1 a2 a3).fixed = k.fixed := by
  unfold Pkg.fwRestart
  simp only [↓Pkg.exchCrash_fixed, ↓Pkg.fwNote_fixed, ↓Pkg.loadsFail_fixed, ↓Pkg.fixed_onFw, ↓Pkg.resetAsk_fixed, ↓Pkg.serveAgain_fixed, ↓Pkg.setDevState_fixed, apply_ite Pkg.fixed, ite_self]

theorem Pkg.fwTakeover_fixed (k : Pkg) : (Pkg.fwTakeover k).fixed = k.fixed := by
  unfold Pkg.fwTakeover
  (repeat' split) <;> simp only [↓Pkg.complexDrain_fixed, ↓Pkg.exchCrash_fixed, ↓Pkg.fwNote_fixed, ↓Pkg.loadsFail_fixed, ↓Pkg.fixed_onCore]

theorem Pkg.startComplexes_fixed (k : Pkg) (a1 : List Byte) : (Pkg.startComplexes k a1).fixed = k.fixed := by
  unfold Pkg.startComplexes
  simp only [↓Pkg.cwWr_fixed, ↓Pkg.fixed_onCore, ↓Pkg.fixed_onFw]

theorem Pkg.fwlVerify_fixed (k : Pkg) (a1 : List Byte) : (Pkg.fwlVerify k a1).fixed = k.fixed := by
  unfold Pkg.fwlVerify
  repeat' (first | (simp only [↓Pkg.applyWarm_fixed, ↓Pkg.complexDrain_fixed, ↓Pkg.cwWr_fixed, ↓Pkg.drawWindows_fixed, ↓Pkg.fixed_onCore, ↓Pkg.fixed_onFw, ↓Pkg.setDevState_fixed, ↓Pkg.startComplexes_fixed, ↓fixed_foldl, implies_true, apply_ite Pkg.fixed, ite_self]; done) | with_reducible refine fixed_ite' ?_ ?_ | with_reducible refine fixed_foldl' (fun _ _ => ?_) ?_ | split)

theorem Pkg.giveTags_fixed (k : Pkg) : (Pkg.giveTags k).fixed = k.fixed := by
  unfold Pkg.giveTags
  simp only [↓Pkg.setLink_fixed, ↓fixed_foldl, implies_true]

theorem Pkg.grant_fixed (k : Pkg) (a1 : SalMsg) (a2 : Nat) : (Pkg.grant k a1 a2).fixed = k.fixed := by
  unfold Pkg.grant
  simp only [↓Pkg.fixed_onAtt]

theorem TreeWalk.along_fixed (pk : Packet) (w : TreeWalk) (p : List (Nat × Nat)) : (TreeWalk.along pk w p).k.fixed = w.k.fixed := by
  induction p generalizing w with
  | nil => rfl
  | cons l r ih =>
    unfold TreeWalk.along
    split
    · rfl
    · split
      · exact ih w
      · dsimp only
        split
        · exact Pkg.cross_fixed pk (w.k, false) l
        · exact (ih _).trans (Pkg.cross_fixed pk (w.k, false) l)

theorem Pkg.walkTree_fixed (k a1 a2) : (Pkg.walkTree k a1 a2).1.fixed = k.fixed := by
  unfold Pkg.walkTree
  show (a2.foldl (TreeWalk.along a1) ⟨k, [], []⟩).k.fixed = k.fixed
  suffices h : ∀ w : TreeWalk, (a2.foldl (TreeWalk.along a1) w).k.fixed = w.k.fixed from h ⟨k, [], []⟩
  induction a2 with
  | nil => exact fun _ => rfl
  | cons p l ih => exact fun w => (ih _).trans (TreeWalk.along_fixed a1 w p)

theorem Pkg.groupMcast_fixed (k : Pkg) (a1 : Packet) : (Pkg.groupMcast k a1).fixed = k.fixed := by
  unfold Pkg.groupMcast
  repeat' (first | with_reducible rfl | (simp only [↓Pkg.deliverLocal_fixed, ↓Pkg.walkTree_fixed, ↓Pkg.fixed_mk, ↓Pkg.fixed_eta, ↓fixed_foldl, ↓fixed_iter, implies_true, apply_ite Pkg.fixed, ite_self, apply_ite Prod.fst, apply_ite Prod.snd]; done) | with_reducible refine fixed_ite' ?_ ?_ | with_reducible refine fixed_foldl' (fun _ _ => ?_) ?_ | with_reducible refine fixed_iter' (fun _ _ => ?_) ?_ | with_reducible refine fixed_foldl2' (fun _ _ => ?_) ?_ | with_reducible refine fixed_foldl3' (fun _ _ => ?_) ?_ | with_reducible refine (Pkg.fixed_onBu _ _ (fun _ => rfl)).trans ?_ | with_reducible refine (Pkg.fixed_onSec _ _ (fun _ => ⟨rfl, rfl⟩)).trans ?_ | simp only [↓Pkg.deliverLocal_fixed, ↓Pkg.walkTree_fixed, ↓Pkg.fixed_mk, ↓Pkg.fixed_eta] | with_reducible refine fixed_of_eq ‹_› ?_ | with_reducible refine fixed_of_eq1 ‹_› ?_ | split | dsimp only)

theorem Pkg.groupSetCmd_fixed (k : Pkg) (a1 : W32) (a2 : Nat) (a3 : Nat) (a4 : Nat) (a5 : Nat) (a6 : List (BitVec 16 × Byte)) : (Pkg.groupSetCmd k a1 a2 a3 a4 a5 a6).fixed = k.fixed := by
  unfold Pkg.groupSetCmd
  simp only [↓Pkg.devCmd_fixed, ↓Pkg.devEnd_fixed, ↓Pkg.devInvalid_fixed, ↓Pkg.fixed_onCore, ↓Pkg.fixed_onFab, implies_true, apply_ite Pkg.fixed, ite_self]

theorem Pkg.hbTrain_fixed (k : Pkg) (a1 : Nat) (a2 : Nat) (a3 : Nat) : (Pkg.hbTrain k a1 a2 a3).fixed = k.fixed := by
  unfold Pkg.hbTrain
  (repeat' split) <;> simp only [↓Pkg.fixed_onCore]

theorem Pkg.loadThrottled_fixed (k : Pkg) : (Pkg.loadThrottled k).fixed = k.fixed := by
  unfold Pkg.loadThrottled
  (repeat' split) <;> simp only [↓Pkg.fixed_eta, ↓Pkg.fixed_mk, ↓Pkg.fixed_onCore]

theorem Pkg.soakEnd_fixed (k : Pkg) (a1 : List Int) (a2 : Nat) : (Pkg.soakEnd k a1 a2).fixed = k.fixed := by
  unfold Pkg.soakEnd
  simp only [↓Pkg.fixed_onBu, ↓Pkg.fixed_onCore, implies_true, apply_ite Pkg.fixed, ite_self]

theorem Pkg.setPc_fixed (k : Pkg) (a1 : Nat) (a2 : Nat) (a3 : PcRec) : (Pkg.setPc k a1 a2 a3).fixed = k.fixed := by
  unfold Pkg.setPc
  simp only [↓Pkg.fixed_onBu, ↓Pkg.fixed_onCore, implies_true]

theorem Pkg.trainPc_fixed (k : Pkg) (a1 : PcTrain) : (Pkg.trainPc k a1).fixed = k.fixed := by
  unfold Pkg.trainPc
  simp only [↓Pkg.hbTrain_fixed, ↓Pkg.setPc_fixed]

theorem Pkg.stepSevenEnd_fixed (k : Pkg) : (Pkg.stepSevenEnd k).fixed = k.fixed := by
  unfold Pkg.stepSevenEnd
  simp only [↓Pkg.giveTags_fixed, ↓Pkg.fixed_onCore, ↓Pkg.startDetect_fixed, ↓fixed_foldl, implies_true, apply_ite Pkg.fixed, ite_self]

theorem Pkg.loadedEnd_fixed (k : Pkg) (a1 : List PcTrain) (a2 : Nat) : (Pkg.loadedEnd k a1 a2).fixed = k.fixed := by
  unfold Pkg.loadedEnd
  simp only [↓Pkg.fixed_onBu, ↓Pkg.stepSevenEnd_fixed, ↓Pkg.trainPc_fixed, ↓fixed_foldl, implies_true]

theorem Pkg.quickEnd_fixed (k : Pkg) (a1 : List PcTrain) : (Pkg.quickEnd k a1).fixed = k.fixed := by
  unfold Pkg.quickEnd
  repeat' (first | with_reducible refine fixed_foldl' (fun _ _ => ?_) ?_ | simp only [↓Pkg.hbTrain_fixed, ↓Pkg.fixed_onBu, ↓Pkg.fixed_onCore, ↓Pkg.setPc_fixed, ↓Pkg.stepSevenEnd_fixed, implies_true, apply_ite Pkg.fixed, ite_self] | split)

theorem Pkg.hbmPhase_fixed (k : Pkg) (a1 : HbmPhase) (a2 : Bool) (a3 : List PcTrain) (a4 : List Int) (a5 : Nat) : (Pkg.hbmPhase k a1 a2 a3 a4 a5).fixed = k.fixed := by
  unfold Pkg.hbmPhase
  (repeat' split) <;> simp only [↓Pkg.loadOn_fixed, ↓Pkg.loadThrottled_fixed, ↓Pkg.loadedEnd_fixed, ↓Pkg.quickEnd_fixed, ↓Pkg.soakEnd_fixed]

theorem Pkg.waveNext_fixed (k : Pkg) (a1 : Nat) : (Pkg.waveNext k a1).fixed = k.fixed := by
  unfold Pkg.waveNext
  repeat' (first | simp only [↓Pkg.fixed_onCore, ↓Pkg.waveStart_fixed, apply_ite Pkg.fixed, ite_self] | split)

theorem Pkg.quadHeld_fixed (k : Pkg) (a1 : Nat) : (Pkg.quadHeld k a1).fixed = k.fixed := by
  unfold Pkg.quadHeld
  simp only [↓Pkg.fixed_onCore, ↓Pkg.waveNext_fixed]

theorem Pkg.hbmWave_fixed (k : Pkg) (a1 : Nat) (a2 : List WavePage) (a3 : List PcTrain) : (Pkg.hbmWave k a1 a2 a3).fixed = k.fixed := by
  unfold Pkg.hbmWave
  simp only [↓Pkg.fixed_onBu, ↓Pkg.fixed_onHbm, ↓Pkg.fixed_onCore, ↓Pkg.quadHeld_fixed, ↓Pkg.rehomeAll_fixed, ↓Pkg.rehomeNext_fixed, ↓Pkg.rehomeNow_fixed, ↓Pkg.wantRehome_fixed, ↓Pkg.waveNext_fixed, ↓fixed_foldl, implies_true, apply_ite Pkg.fixed, ite_self]

theorem Pkg.hbmZero_fixed (k : Pkg) : (Pkg.hbmZero k).fixed = k.fixed := by
  unfold Pkg.hbmZero
  simp only [↓Pkg.fixed_eta, ↓Pkg.fixed_mk, ↓Pkg.fixed_onCore, ↓Pkg.fixed_onFw, ↓Pkg.fixed_onHbm, ↓fixed_iter, implies_true, apply_ite Pkg.fixed, ite_self]

theorem Pkg.heartbeat_fixed (k : Pkg) : (Pkg.heartbeat k).fixed = k.fixed := by
  unfold Pkg.heartbeat
  simp only [↓Pkg.cwWr_fixed, apply_ite Pkg.fixed, ite_self]

theorem Pkg.heartbeatMiss_fixed (k : Pkg) (a1 : Nat) : (Pkg.heartbeatMiss k a1).fixed = k.fixed := by
  unfold Pkg.heartbeatMiss
  simp only [↓Pkg.fwCrash_fixed]

theorem Pkg.helloCheck_fixed (k : Pkg) (a1 : Nat) : (Pkg.helloCheck k a1).fixed = k.fixed := by
  unfold Pkg.helloCheck
  (repeat' split) <;> simp only [↓Pkg.setPortState_fixed]

theorem Pkg.hello_fixed (k : Pkg) (a1 : Nat) (a2 : HelloInfo) : (Pkg.hello k a1 a2).fixed = k.fixed := by
  unfold Pkg.hello
  simp only [↓Pkg.announce_fixed, ↓Pkg.helloCheck_fixed, ↓Pkg.linkEvent_fixed, ↓Pkg.losePort_fixed, ↓Pkg.fixed_onCore, ↓Pkg.fixed_onFab, ↓Pkg.sendPeer_fixed, apply_ite Pkg.fixed, ite_self]

theorem Pkg.helloAcked_fixed (k : Pkg) (a1 : Nat) : (Pkg.helloAcked k a1).fixed = k.fixed := by
  unfold Pkg.helloAcked
  (repeat' split) <;> simp only [↓Pkg.announce_fixed, ↓Pkg.helloCheck_fixed, ↓Pkg.fixed_onFab]

theorem Pkg.helloTimeout_fixed (k : Pkg) (a1 : Nat) : (Pkg.helloTimeout k a1).fixed = k.fixed := by
  unfold Pkg.helloTimeout
  (repeat' split) <;> simp only [↓Pkg.portDown_fixed]

theorem Pkg.helloTimer_fixed (k : Pkg) (a1 : Nat) : (Pkg.helloTimer k a1).fixed = k.fixed := by
  unfold Pkg.helloTimer
  (repeat' split) <;> simp only [↓Pkg.sendPeer_fixed]

theorem Pkg.homeFlush_fixed (k : Pkg) (a1 : Nat) (a2 : Nat) (a3 : Nat) : (Pkg.homeFlush k a1 a2 a3).fixed = k.fixed := by
  unfold Pkg.homeFlush
  repeat' (first | simp only [↓Pkg.fixed_eta, ↓Pkg.fixed_mk, ↓Pkg.homeRecord_fixed, ↓Pkg.homeWrite_fixed, ↓Pkg.fixed_onClus, ↓Pkg.fixed_onCore, apply_ite Pkg.fixed, ite_self] | split)

theorem Pkg.hostCompletion_fixed (k : Pkg) (a1 : HostCompl) : (Pkg.hostCompletion k a1).fixed = k.fixed := by
  unfold Pkg.hostCompletion
  simp only [↓Pkg.complete_fixed, ↓Pkg.jobFault_fixed, ↓Pkg.fixed_onAtt, ↓Pkg.fixed_onCore, apply_ite Pkg.fixed, ite_self]

theorem Pkg.salErr_fixed (k : Pkg) (a1 : SalMsg) (a2 : Bool) : (Pkg.salErr k a1 a2).fixed = k.fixed := by
  unfold Pkg.salErr
  (repeat' split) <;> simp only [↓Pkg.fixed_onCore, ↓Pkg.salSend_fixed]

theorem Pkg.setDir_fixed (k : Pkg) (a1 : Nat) (a2 : Nat) : (Pkg.setDir k a1 a2).fixed = k.fixed := by
  unfold Pkg.setDir
  simp only [↓Pkg.fixed_onAtt]

theorem Pkg.lineWait_fixed (k : Pkg) (a1 : AtWait) : (Pkg.lineWait k a1).fixed = k.fixed := by
  unfold Pkg.lineWait
  repeat' (first | with_reducible rfl | (simp only [↓Pkg.fixed_mk, ↓Pkg.fixed_eta, ↓Pkg.fixed_onAtt, ↓fixed_foldl, ↓fixed_iter, implies_true, apply_ite Pkg.fixed, ite_self]; done) | with_reducible refine fixed_ite' ?_ ?_ | with_reducible refine fixed_foldl' (fun _ _ => ?_) ?_ | with_reducible refine fixed_iter' (fun _ _ => ?_) ?_ | with_reducible refine fixed_foldl2' (fun _ _ => ?_) ?_ | with_reducible refine fixed_foldl3' (fun _ _ => ?_) ?_ | with_reducible refine (Pkg.fixed_onBu _ _ (fun _ => rfl)).trans ?_ | with_reducible refine (Pkg.fixed_onSec _ _ (fun _ => ⟨rfl, rfl⟩)).trans ?_ | simp only [↓Pkg.fixed_mk, ↓Pkg.fixed_eta, ↓Pkg.fixed_onAtt] | with_reducible refine fixed_of_eq ‹_› ?_ | with_reducible refine fixed_of_eq1 ‹_› ?_ | split | dsimp only)

theorem Pkg.hostEvict_fixed (k : Pkg) (a1 : SalMsg) : (Pkg.hostEvict k a1).fixed = k.fixed := by
  unfold Pkg.hostEvict
  repeat' (first | with_reducible rfl | (simp only [↓Pkg.lineWait_fixed, ↓Pkg.salErr_fixed, ↓Pkg.salSend_fixed, ↓Pkg.setDir_fixed, ↓Pkg.fixed_mk, ↓Pkg.fixed_eta, ↓fixed_foldl, ↓fixed_iter, implies_true, apply_ite Pkg.fixed, ite_self]; done) | with_reducible refine fixed_ite' ?_ ?_ | with_reducible refine fixed_foldl' (fun _ _ => ?_) ?_ | with_reducible refine fixed_iter' (fun _ _ => ?_) ?_ | with_reducible refine fixed_foldl2' (fun _ _ => ?_) ?_ | with_reducible refine fixed_foldl3' (fun _ _ => ?_) ?_ | with_reducible refine (Pkg.fixed_onBu _ _ (fun _ => rfl)).trans ?_ | with_reducible refine (Pkg.fixed_onSec _ _ (fun _ => ⟨rfl, rfl⟩)).trans ?_ | simp only [↓Pkg.lineWait_fixed, ↓Pkg.salErr_fixed, ↓Pkg.salSend_fixed, ↓Pkg.setDir_fixed, ↓Pkg.fixed_mk, ↓Pkg.fixed_eta] | with_reducible refine fixed_of_eq ‹_› ?_ | with_reducible refine fixed_of_eq1 ‹_› ?_ | split | dsimp only)

theorem Pkg.hostRdUncached_fixed (k : Pkg) (a1 : SalMsg) : (Pkg.hostRdUncached k a1).fixed = k.fixed := by
  unfold Pkg.hostRdUncached
  repeat' (first | with_reducible rfl | (simp only [↓Pkg.cwRead_fixed, ↓Pkg.dpaRead_fixed, ↓Pkg.lineWait_fixed, ↓Pkg.salErr_fixed, ↓Pkg.salSend_fixed, ↓Pkg.fixed_mk, ↓Pkg.fixed_eta, ↓fixed_foldl, ↓fixed_iter, implies_true, apply_ite Pkg.fixed, ite_self, apply_ite Prod.fst, apply_ite Prod.snd]; done) | with_reducible refine fixed_ite' ?_ ?_ | with_reducible refine fixed_foldl' (fun _ _ => ?_) ?_ | with_reducible refine fixed_iter' (fun _ _ => ?_) ?_ | with_reducible refine fixed_foldl2' (fun _ _ => ?_) ?_ | with_reducible refine fixed_foldl3' (fun _ _ => ?_) ?_ | with_reducible refine (Pkg.fixed_onBu _ _ (fun _ => rfl)).trans ?_ | with_reducible refine (Pkg.fixed_onSec _ _ (fun _ => ⟨rfl, rfl⟩)).trans ?_ | simp only [↓Pkg.cwRead_fixed, ↓Pkg.dpaRead_fixed, ↓Pkg.lineWait_fixed, ↓Pkg.salErr_fixed, ↓Pkg.salSend_fixed, ↓Pkg.fixed_mk, ↓Pkg.fixed_eta] | with_reducible refine fixed_of_eq ‹_› ?_ | with_reducible refine fixed_of_eq1 ‹_› ?_ | split | dsimp only)

theorem Pkg.snoop_fixed (k : Pkg) (a1 : Nat) (a2 : Bool) (a3 : Option Packet) : (Pkg.snoop k a1 a2 a3).fixed = k.fixed := by
  unfold Pkg.snoop
  simp only [↓Pkg.newTxn_fixed, ↓Pkg.fixed_onAtt, ↓Pkg.salSend_fixed]

theorem Pkg.hostRead_fixed (k : Pkg) (a1 : SalMsg) (a2 : Bool) : (Pkg.hostRead k a1 a2).fixed = k.fixed := by
  unfold Pkg.hostRead
  repeat' (first | with_reducible rfl | (simp only [↓Pkg.dpaRead_fixed, ↓Pkg.lineWait_fixed, ↓Pkg.salErr_fixed, ↓Pkg.salSend_fixed, ↓Pkg.setDir_fixed, ↓Pkg.snoop_fixed, ↓Pkg.fixed_mk, ↓Pkg.fixed_eta, ↓fixed_foldl, ↓fixed_iter, implies_true, apply_ite Pkg.fixed, ite_self, apply_ite Prod.fst, apply_ite Prod.snd]; done) | with_reducible refine fixed_ite' ?_ ?_ | with_reducible refine fixed_foldl' (fun _ _ => ?_) ?_ | with_reducible refine fixed_iter' (fun _ _ => ?_) ?_ | with_reducible refine fixed_foldl2' (fun _ _ => ?_) ?_ | with_reducible refine fixed_foldl3' (fun _ _ => ?_) ?_ | with_reducible refine (Pkg.fixed_onBu _ _ (fun _ => rfl)).trans ?_ | with_reducible refine (Pkg.fixed_onSec _ _ (fun _ => ⟨rfl, rfl⟩)).trans ?_ | simp only [↓Pkg.dpaRead_fixed, ↓Pkg.lineWait_fixed, ↓Pkg.salErr_fixed, ↓Pkg.salSend_fixed, ↓Pkg.setDir_fixed, ↓Pkg.snoop_fixed, ↓Pkg.fixed_mk, ↓Pkg.fixed_eta] | with_reducible refine fixed_of_eq ‹_› ?_ | with_reducible refine fixed_of_eq1 ‹_› ?_ | split | dsimp only)

theorem Pkg.hostWb_fixed (k : Pkg) (a1 : SalMsg) : (Pkg.hostWb k a1).fixed = k.fixed := by
  unfold Pkg.hostWb
  repeat' (first | with_reducible rfl | (simp only [↓Pkg.dpaWrite_fixed, ↓Pkg.lineWait_fixed, ↓Pkg.salErr_fixed, ↓Pkg.salSend_fixed, ↓Pkg.setDir_fixed, ↓Pkg.fixed_mk, ↓Pkg.fixed_eta, ↓fixed_foldl, ↓fixed_iter, implies_true, apply_ite Pkg.fixed, ite_self]; done) | with_reducible refine fixed_ite' ?_ ?_ | with_reducible refine fixed_foldl' (fun _ _ => ?_) ?_ | with_reducible refine fixed_iter' (fun _ _ => ?_) ?_ | with_reducible refine fixed_foldl2' (fun _ _ => ?_) ?_ | with_reducible refine fixed_foldl3' (fun _ _ => ?_) ?_ | with_reducible refine (Pkg.fixed_onBu _ _ (fun _ => rfl)).trans ?_ | with_reducible refine (Pkg.fixed_onSec _ _ (fun _ => ⟨rfl, rfl⟩)).trans ?_ | simp only [↓Pkg.dpaWrite_fixed, ↓Pkg.lineWait_fixed, ↓Pkg.salErr_fixed, ↓Pkg.salSend_fixed, ↓Pkg.setDir_fixed, ↓Pkg.fixed_mk, ↓Pkg.fixed_eta] | with_reducible refine fixed_of_eq ‹_› ?_ | with_reducible refine fixed_of_eq1 ‹_› ?_ | split | dsimp only)

theorem Pkg.hostWrMem_fixed (k : Pkg) (a1 : SalMsg) : (Pkg.hostWrMem k a1).fixed = k.fixed := by
  unfold Pkg.hostWrMem
  repeat' (first | with_reducible rfl | (simp only [↓Pkg.dpaWrite_fixed, ↓Pkg.lineWait_fixed, ↓Pkg.salErr_fixed, ↓Pkg.salSend_fixed, ↓Pkg.fixed_mk, ↓Pkg.fixed_eta, ↓fixed_foldl, ↓fixed_iter, implies_true, apply_ite Pkg.fixed, ite_self]; done) | with_reducible refine fixed_ite' ?_ ?_ | with_reducible refine fixed_foldl' (fun _ _ => ?_) ?_ | with_reducible refine fixed_iter' (fun _ _ => ?_) ?_ | with_reducible refine fixed_foldl2' (fun _ _ => ?_) ?_ | with_reducible refine fixed_foldl3' (fun _ _ => ?_) ?_ | with_reducible refine (Pkg.fixed_onBu _ _ (fun _ => rfl)).trans ?_ | with_reducible refine (Pkg.fixed_onSec _ _ (fun _ => ⟨rfl, rfl⟩)).trans ?_ | simp only [↓Pkg.dpaWrite_fixed, ↓Pkg.lineWait_fixed, ↓Pkg.salErr_fixed, ↓Pkg.salSend_fixed, ↓Pkg.fixed_mk, ↓Pkg.fixed_eta] | with_reducible refine fixed_of_eq ‹_› ?_ | with_reducible refine fixed_of_eq1 ‹_› ?_ | split | dsimp only)

theorem Pkg.hostWr_fixed (k : Pkg) (a1 : SalMsg) : (Pkg.hostWr k a1).fixed = k.fixed := by
  unfold Pkg.hostWr
  repeat' (first | simp only [↓Pkg.cwWrite_fixed, ↓Pkg.hostWrMem_fixed, ↓Pkg.salErr_fixed, ↓Pkg.salSend_fixed, apply_ite Pkg.fixed, ite_self] | split)

theorem Pkg.hostXfer_fixed (k : Pkg) (a1 : Packet) : (Pkg.hostXfer k a1).fixed = k.fixed := by
  unfold Pkg.hostXfer
  repeat' (first | with_reducible refine fixed_ite' ?_ ?_ | with_reducible refine fixed_foldl3' (fun _ _ => ?_) ?_ | simp only [↓Pkg.atRequest_fixed, ↓Pkg.fixed_onAtt, ↓Pkg.xferTry_fixed])

theorem Pkg.laneRejoin_fixed (k : Pkg) (a1 : Nat) (a2 : Nat) : (Pkg.laneRejoin k a1 a2).fixed = k.fixed := by
  unfold Pkg.laneRejoin
  simp only [↓Pkg.linkEvent_fixed, ↓Pkg.setLink_fixed, ↓Pkg.showLanes_fixed, apply_ite Pkg.fixed, ite_self]

theorem Pkg.lcArrive_fixed (k : Pkg) (a1 : Nat) : (Pkg.lcArrive k a1).fixed = k.fixed := by
  unfold Pkg.lcArrive
  (repeat' split) <;> simp only [↓Pkg.fixed_onClus]

theorem Pkg.lcHold_fixed (k : Pkg) : (Pkg.lcHold k).fixed = k.fixed := by
  unfold Pkg.lcHold
  (repeat' split) <;> simp only [↓Pkg.fixed_onNet]

theorem Pkg.lineData_fixed (k : Pkg) (a1 : SalMsg) : (Pkg.lineData k a1).fixed = k.fixed := by
  unfold Pkg.lineData
  (repeat' split) <;> simp only [↓Pkg.cachePut_fixed, ↓Pkg.reqDone_fixed]

theorem Pkg.readAt_fixed (k : Pkg) (a1 : Packet) : (Pkg.readAt k a1).fixed = k.fixed := by
  unfold Pkg.readAt
  repeat' (first | with_reducible rfl | (simp only [↓Pkg.dpaRead_fixed, ↓Pkg.inject_fixed, ↓Pkg.lineRead_fixed, ↓Pkg.setWhy_fixed, ↓Pkg.fixed_mk, ↓Pkg.fixed_eta, ↓fixed_foldl, ↓fixed_iter, implies_true, apply_ite Pkg.fixed, ite_self, apply_ite Prod.fst, apply_ite Prod.snd]; done) | with_reducible refine fixed_ite' ?_ ?_ | with_reducible refine fixed_foldl' (fun _ _ => ?_) ?_ | with_reducible refine fixed_iter' (fun _ _ => ?_) ?_ | with_reducible refine fixed_foldl2' (fun _ _ => ?_) ?_ | with_reducible refine fixed_foldl3' (fun _ _ => ?_) ?_ | with_reducible refine (Pkg.fixed_onBu _ _ (fun _ => rfl)).trans ?_ | with_reducible refine (Pkg.fixed_onSec _ _ (fun _ => ⟨rfl, rfl⟩)).trans ?_ | simp only [↓Pkg.dpaRead_fixed, ↓Pkg.inject_fixed, ↓Pkg.lineRead_fixed, ↓Pkg.setWhy_fixed, ↓Pkg.fixed_mk, ↓Pkg.fixed_eta] | with_reducible refine fixed_of_eq ‹_› ?_ | with_reducible refine fixed_of_eq1 ‹_› ?_ | split | dsimp only)

theorem Pkg.readPacket_fixed (k : Pkg) (a1 : Packet) : (Pkg.readPacket k a1).fixed = k.fixed := by
  unfold Pkg.readPacket
  repeat' (first | with_reducible rfl | (simp only [↓Pkg.hostXfer_fixed, ↓Pkg.lineWait_fixed, ↓Pkg.readAt_fixed, ↓Pkg.snoop_fixed, ↓Pkg.fixed_mk, ↓Pkg.fixed_eta, ↓fixed_foldl, ↓fixed_iter, implies_true, apply_ite Pkg.fixed, ite_self]; done) | with_reducible refine fixed_ite' ?_ ?_ | with_reducible refine fixed_foldl' (fun _ _ => ?_) ?_ | with_reducible refine fixed_iter' (fun _ _ => ?_) ?_ | with_reducible refine fixed_foldl2' (fun _ _ => ?_) ?_ | with_reducible refine fixed_foldl3' (fun _ _ => ?_) ?_ | with_reducible refine (Pkg.fixed_onBu _ _ (fun _ => rfl)).trans ?_ | with_reducible refine (Pkg.fixed_onSec _ _ (fun _ => ⟨rfl, rfl⟩)).trans ?_ | simp only [↓Pkg.hostXfer_fixed, ↓Pkg.lineWait_fixed, ↓Pkg.readAt_fixed, ↓Pkg.snoop_fixed, ↓Pkg.fixed_mk, ↓Pkg.fixed_eta] | with_reducible refine fixed_of_eq ‹_› ?_ | with_reducible refine fixed_of_eq1 ‹_› ?_ | split | dsimp only)

theorem Pkg.writePacket_fixed (k : Pkg) (a1 : Packet) : (Pkg.writePacket k a1).fixed = k.fixed := by
  unfold Pkg.writePacket
  repeat' (first | with_reducible rfl | (simp only [↓Pkg.hostXfer_fixed, ↓Pkg.lineWait_fixed, ↓Pkg.snoop_fixed, ↓Pkg.writeAt_fixed, ↓Pkg.fixed_mk, ↓Pkg.fixed_eta, ↓fixed_foldl, ↓fixed_iter, implies_true, apply_ite Pkg.fixed, ite_self]; done) | with_reducible refine fixed_ite' ?_ ?_ | with_reducible refine fixed_foldl' (fun _ _ => ?_) ?_ | with_reducible refine fixed_iter' (fun _ _ => ?_) ?_ | with_reducible refine fixed_foldl2' (fun _ _ => ?_) ?_ | with_reducible refine fixed_foldl3' (fun _ _ => ?_) ?_ | with_reducible refine (Pkg.fixed_onBu _ _ (fun _ => rfl)).trans ?_ | with_reducible refine (Pkg.fixed_onSec _ _ (fun _ => ⟨rfl, rfl⟩)).trans ?_ | simp only [↓Pkg.hostXfer_fixed, ↓Pkg.lineWait_fixed, ↓Pkg.snoop_fixed, ↓Pkg.writeAt_fixed, ↓Pkg.fixed_mk, ↓Pkg.fixed_eta] | with_reducible refine fixed_of_eq ‹_› ?_ | with_reducible refine fixed_of_eq1 ‹_› ?_ | split | dsimp only)

theorem Pkg.devAccess_fixed (k : Pkg) (a1 : Packet) : (Pkg.devAccess k a1).fixed = k.fixed := by
  unfold Pkg.devAccess
  repeat' (first | with_reducible rfl | (simp only [↓Pkg.readPacket_fixed, ↓Pkg.writePacket_fixed, ↓Pkg.fixed_mk, ↓Pkg.fixed_eta, ↓fixed_foldl, ↓fixed_iter, implies_true, apply_ite Pkg.fixed, ite_self]; done) | with_reducible refine fixed_ite' ?_ ?_ | with_reducible refine fixed_foldl' (fun _ _ => ?_) ?_ | with_reducible refine fixed_iter' (fun _ _ => ?_) ?_ | with_reducible refine fixed_foldl2' (fun _ _ => ?_) ?_ | with_reducible refine fixed_foldl3' (fun _ _ => ?_) ?_ | with_reducible refine (Pkg.fixed_onBu _ _ (fun _ => rfl)).trans ?_ | with_reducible refine (Pkg.fixed_onSec _ _ (fun _ => ⟨rfl, rfl⟩)).trans ?_ | simp only [↓Pkg.readPacket_fixed, ↓Pkg.writePacket_fixed, ↓Pkg.fixed_mk, ↓Pkg.fixed_eta] | with_reducible refine fixed_of_eq ‹_› ?_ | with_reducible refine fixed_of_eq1 ‹_› ?_ | split | dsimp only)

theorem Pkg.waitTry_fixed (k : Pkg) (a1 : AtWait) : (Pkg.waitTry k a1).fixed = k.fixed := by
  unfold Pkg.waitTry
  repeat' (first | with_reducible rfl | (simp only [↓Pkg.devAccess_fixed, ↓Pkg.hostEvict_fixed, ↓Pkg.hostRdUncached_fixed, ↓Pkg.hostRead_fixed, ↓Pkg.hostWb_fixed, ↓Pkg.hostWrMem_fixed, ↓Pkg.fixed_mk, ↓Pkg.fixed_eta, ↓fixed_foldl, ↓fixed_iter, implies_true, apply_ite Pkg.fixed, ite_self]; done) | with_reducible refine fixed_ite' ?_ ?_ | with_reducible refine fixed_foldl' (fun _ _ => ?_) ?_ | with_reducible refine fixed_iter' (fun _ _ => ?_) ?_ | with_reducible refine fixed_foldl2' (fun _ _ => ?_) ?_ | with_reducible refine fixed_foldl3' (fun _ _ => ?_) ?_ | with_reducible refine (Pkg.fixed_onBu _ _ (fun _ => rfl)).trans ?_ | with_reducible refine (Pkg.fixed_onSec _ _ (fun _ => ⟨rfl, rfl⟩)).trans ?_ | simp only [↓Pkg.devAccess_fixed, ↓Pkg.hostEvict_fixed, ↓Pkg.hostRdUncached_fixed, ↓Pkg.hostRead_fixed, ↓Pkg.hostWb_fixed, ↓Pkg.hostWrMem_fixed, ↓Pkg.fixed_mk, ↓Pkg.fixed_eta] | with_reducible refine fixed_of_eq ‹_› ?_ | with_reducible refine fixed_of_eq1 ‹_› ?_ | split | dsimp only)

theorem Pkg.lineResume_fixed (k : Pkg) (a1 : Option Packet) : (Pkg.lineResume k a1).fixed = k.fixed := by
  unfold Pkg.lineResume
  repeat' (first | with_reducible rfl | (simp only [↓Pkg.devAccess_fixed, ↓Pkg.waitTry_fixed, ↓Pkg.fixed_mk, ↓Pkg.fixed_eta, ↓Pkg.fixed_onAtt, ↓fixed_foldl, ↓fixed_iter, implies_true, apply_ite Pkg.fixed, ite_self]; done) | with_reducible refine fixed_ite' ?_ ?_ | with_reducible refine fixed_foldl' (fun _ _ => ?_) ?_ | with_reducible refine fixed_iter' (fun _ _ => ?_) ?_ | with_reducible refine fixed_foldl2' (fun _ _ => ?_) ?_ | with_reducible refine fixed_foldl3' (fun _ _ => ?_) ?_ | with_reducible refine (Pkg.fixed_onBu _ _ (fun _ => rfl)).trans ?_ | with_reducible refine (Pkg.fixed_onSec _ _ (fun _ => ⟨rfl, rfl⟩)).trans ?_ | simp only [↓Pkg.devAccess_fixed, ↓Pkg.waitTry_fixed, ↓Pkg.fixed_mk, ↓Pkg.fixed_eta, ↓Pkg.fixed_onAtt] | with_reducible refine fixed_of_eq ‹_› ?_ | with_reducible refine fixed_of_eq1 ‹_› ?_ | split | dsimp only)

theorem Pkg.logApply_fixed (k : Pkg) : (Pkg.logApply k).fixed = k.fixed := by
  unfold Pkg.logApply
  (repeat' split) <;> simp only [↓Pkg.applyEnt_fixed, ↓Pkg.cwWr_fixed, ↓Pkg.fixed_onAtt]

theorem Pkg.ltArrive_fixed (k : Pkg) (a1 : Frame) : (Pkg.ltArrive k a1).fixed = k.fixed := by
  unfold Pkg.ltArrive
  (repeat' split) <;> simp only [↓Pkg.lineArrive_fixed]

theorem Pkg.ltDone_fixed (k : Pkg) (a1 : Frame) : (Pkg.ltDone k a1).fixed = k.fixed := by
  unfold Pkg.ltDone
  (repeat' split) <;> simp only [↓Pkg.lineDone_fixed]

theorem Pkg.makeTag_fixed (k : Pkg) (a1 : Nat) : (Pkg.makeTag k a1).fixed = k.fixed := by
  unfold Pkg.makeTag
  simp only [↓Pkg.fixed_onCore, ↓Pkg.setLink_fixed, apply_ite Pkg.fixed, ite_self]

theorem Pkg.marginMeasure_fixed (k : Pkg) (a1 : Nat) (a2 : Nat) (a3 : Nat) (a4 : Nat) : (Pkg.marginMeasure k a1 a2 a3 a4).fixed = k.fixed := by
  unfold Pkg.marginMeasure
  simp only [↓Pkg.fixed_eta, ↓Pkg.fixed_mk, ↓Pkg.hbEvent_fixed, ↓Pkg.fixed_onClus, ↓Pkg.pcFault_fixed, apply_ite Pkg.fixed, ite_self]

theorem Pkg.maskMcast_fixed (k : Pkg) (a1 : Packet) : (Pkg.maskMcast k a1).fixed = k.fixed := by
  unfold Pkg.maskMcast
  repeat' (first | with_reducible rfl | (simp only [↓Pkg.deliver_fixed, ↓Pkg.walkTree_fixed, ↓Pkg.fixed_mk, ↓Pkg.fixed_eta, ↓fixed_foldl, ↓fixed_iter, implies_true, apply_ite Pkg.fixed, ite_self, apply_ite Prod.fst, apply_ite Prod.snd]; done) | with_reducible refine fixed_ite' ?_ ?_ | with_reducible refine fixed_foldl' (fun _ _ => ?_) ?_ | with_reducible refine fixed_iter' (fun _ _ => ?_) ?_ | with_reducible refine fixed_foldl2' (fun _ _ => ?_) ?_ | with_reducible refine fixed_foldl3' (fun _ _ => ?_) ?_ | with_reducible refine (Pkg.fixed_onBu _ _ (fun _ => rfl)).trans ?_ | with_reducible refine (Pkg.fixed_onSec _ _ (fun _ => ⟨rfl, rfl⟩)).trans ?_ | simp only [↓Pkg.deliver_fixed, ↓Pkg.walkTree_fixed, ↓Pkg.fixed_mk, ↓Pkg.fixed_eta] | with_reducible refine fixed_of_eq ‹_› ?_ | with_reducible refine fixed_of_eq1 ‹_› ?_ | split | dsimp only)

theorem Pkg.masterTimeout_fixed (k : Pkg) : (Pkg.masterTimeout k).fixed = k.fixed := by
  unfold Pkg.masterTimeout
  simp only [↓Pkg.chooseMaster_fixed, ↓Pkg.fixed_onFab]

theorem Pkg.nak_fixed (k : Pkg) (a1 : Nat) (a2 : Frame) : (Pkg.nak k a1 a2).fixed = k.fixed := by
  unfold Pkg.nak
  repeat' (first | simp only [↓Pkg.killRun_fixed, ↓Pkg.loseTxn_fixed, ↓Pkg.fixed_onClus, ↓Pkg.fixed_onCore, ↓Pkg.fixed_onFab, ↓fixed_foldl, implies_true, apply_ite Pkg.fixed, ite_self] | split)

theorem Pkg.nonceLapse_fixed (k : Pkg) : (Pkg.nonceLapse k).fixed = k.fixed := by
  unfold Pkg.nonceLapse
  (repeat' split) <;> simp only [↓Pkg.fixed_onSec, implies_true, and_self]

theorem Pkg.opComplete_fixed (k : Pkg) (a1 : Nat) (a2 : Nat) (a3 : Nat) : (Pkg.opComplete k a1 a2 a3).fixed = k.fixed := by
  unfold Pkg.opComplete
  repeat' (first | simp only [↓Pkg.finishRun_fixed, apply_ite Pkg.fixed, ite_self] | split)

theorem Pkg.patrolScrub_fixed (k : Pkg) (a1 : Nat) (a2 : Nat) : (Pkg.patrolScrub k a1 a2).fixed = k.fixed := by
  unfold Pkg.patrolScrub
  (repeat' split) <;> simp only [↓Pkg.fixed_eta, ↓Pkg.fixed_mk, ↓Pkg.hbTouch_fixed, ↓Pkg.rehomeNext_fixed]

theorem Pkg.railStart_fixed (k : Pkg) (a1 : Nat) : (Pkg.railStart k a1).fixed = k.fixed := by
  unfold Pkg.railStart
  simp only [↓Pkg.fixed_onCore, ↓Pkg.fixed_onPw]

theorem Pkg.quadPortsDown_fixed (k : Pkg) (a1 : Nat) : (Pkg.quadPortsDown k a1).fixed = k.fixed := by
  unfold Pkg.quadPortsDown
  simp only [↓Pkg.linkLost_fixed, ↓fixed_foldl, implies_true, apply_ite Pkg.fixed, ite_self]

theorem Pkg.railFail_fixed (k : Pkg) (a1 : Nat) (a2 : Nat) : (Pkg.railFail k a1 a2).fixed = k.fixed := by
  unfold Pkg.railFail
  simp only [↓Pkg.faultOut_fixed, ↓Pkg.fixed_onCore, ↓Pkg.pwEvent_fixed, ↓Pkg.quadPortsDown_fixed, ↓Pkg.railsOff_fixed, apply_ite Pkg.fixed, ite_self]

theorem Pkg.pgoodDeassert_fixed (k : Pkg) (a1 : Nat) (a2 : Nat) : (Pkg.pgoodDeassert k a1 a2).fixed = k.fixed := by
  unfold Pkg.pgoodDeassert
  (repeat' split) <;> simp only [↓Pkg.railFail_fixed]

theorem Pkg.pgoodTimeout_fixed (k : Pkg) (a1 : Nat) (a2 : Nat) : (Pkg.pgoodTimeout k a1 a2).fixed = k.fixed := by
  unfold Pkg.pgoodTimeout
  (repeat' split) <;> simp only [↓Pkg.railFail_fixed]

theorem Pkg.pinFall_fixed (k : Pkg) (a1 : TimePin) : (Pkg.pinFall k a1).fixed = k.fixed := by
  unfold Pkg.pinFall
  (repeat' split) <;> simp only [↓Pkg.fixed_eta, ↓Pkg.fixed_mk, apply_ite Pkg.fixed, ite_self]

theorem Pkg.pllUnlock_fixed (k : Pkg) (a1 : Nat) : (Pkg.pllUnlock k a1).fixed = k.fixed := by
  unfold Pkg.pllUnlock
  simp only [↓Pkg.faultOut_fixed, ↓Pkg.pwEvent_fixed]

theorem Pkg.pointsSwap_fixed (k : Pkg) : (Pkg.pointsSwap k).fixed = k.fixed := by
  unfold Pkg.pointsSwap
  simp only [↓Pkg.fixed_onClus, apply_ite Pkg.fixed, ite_self]

theorem Pkg.prepTimeout_fixed (k : Pkg) (a1 : Nat) : (Pkg.prepTimeout k a1).fixed = k.fixed := by
  unfold Pkg.prepTimeout
  (repeat' split) <;> simp only [↓Pkg.abandon_fixed]

theorem Pkg.probe_fixed (k : Pkg) (a1 : Nat) : (Pkg.probe k a1).fixed = k.fixed := by
  unfold Pkg.probe
  simp only [↓Pkg.fixed_onCore, ↓Pkg.fixed_onFab, apply_ite Pkg.fixed, ite_self]

theorem Pkg.quarantine_fixed (k : Pkg) (a1 : Nat) : (Pkg.quarantine k a1).fixed = k.fixed := by
  unfold Pkg.quarantine
  simp only [↓Pkg.linkEvent_fixed, ↓Pkg.losePort_fixed, ↓Pkg.fixed_onCore, ↓Pkg.fixed_onFab, ↓Pkg.sendPeer_fixed, ↓Pkg.setLink_fixed, ↓Pkg.setPortState_fixed, ↓Pkg.showLanes_fixed]

theorem Pkg.reconcile_fixed (k : Pkg) (a1 : Nat) (a2 : Bool) (a3 : Bool) (a4 : Option W64) : (Pkg.reconcile k a1 a2 a3 a4).fixed = k.fixed := by
  unfold Pkg.reconcile
  simp only [↓Pkg.fencePut_fixed, ↓Pkg.fixed_onCore, apply_ite Pkg.fixed, ite_self]

theorem Pkg.resetEnd_fixed (k : Pkg) (a1 : ResetS) : (Pkg.resetEnd k a1).fixed = k.fixed := by
  unfold Pkg.resetEnd
  repeat' (first | with_reducible rfl | (simp only [↓Pkg.cmdEnd_fixed, ↓Pkg.cwWr_fixed, ↓Pkg.setDevState_fixed, ↓Pkg.setLink_fixed, ↓Pkg.fixed_mk, ↓Pkg.fixed_eta, ↓Pkg.fixed_onCore, ↓Pkg.fixed_onFw, ↓fixed_foldl, ↓fixed_iter, implies_true, apply_ite Pkg.fixed, ite_self]; done) | with_reducible refine fixed_ite' ?_ ?_ | with_reducible refine fixed_foldl' (fun _ _ => ?_) ?_ | with_reducible refine fixed_iter' (fun _ _ => ?_) ?_ | with_reducible refine fixed_foldl2' (fun _ _ => ?_) ?_ | with_reducible refine fixed_foldl3' (fun _ _ => ?_) ?_ | with_reducible refine (Pkg.fixed_onBu _ _ (fun _ => rfl)).trans ?_ | with_reducible refine (Pkg.fixed_onSec _ _ (fun _ => ⟨rfl, rfl⟩)).trans ?_ | simp only [↓Pkg.cmdEnd_fixed, ↓Pkg.cwWr_fixed, ↓Pkg.setDevState_fixed, ↓Pkg.setLink_fixed, ↓Pkg.fixed_mk, ↓Pkg.fixed_eta, ↓Pkg.fixed_onCore, ↓Pkg.fixed_onFw] | with_reducible refine fixed_of_eq ‹_› ?_ | with_reducible refine fixed_of_eq1 ‹_› ?_ | split | dsimp only)

theorem Pkg.restartAll_fixed (k : Pkg) : (Pkg.restartAll k).fixed = k.fixed := by
  unfold Pkg.restartAll
  simp only [↓Pkg.complexDrain_fixed, ↓Pkg.fixed_onFw, ↓fixed_foldl, implies_true]

theorem Pkg.recoveryPhase_fixed (k : Pkg) : (Pkg.recoveryPhase k).fixed = k.fixed := by
  unfold Pkg.recoveryPhase
  (repeat' split) <;> simp only [↓Pkg.cmdEnd_fixed, ↓Pkg.computeCold_fixed, ↓Pkg.drawWindows_fixed, ↓Pkg.endAll_fixed, ↓Pkg.fenceBits_fixed, ↓Pkg.hbmZero_fixed, ↓Pkg.loadOn_fixed, ↓Pkg.losePort_fixed, ↓Pkg.fixed_onBu, ↓Pkg.fixed_onClus, ↓Pkg.fixed_onCore, ↓Pkg.fixed_onFw, ↓Pkg.fixed_onPw, ↓Pkg.placeService_fixed, ↓Pkg.resetEnd_fixed, ↓Pkg.restartAll_fixed, ↓Pkg.seedsAgain_fixed, ↓Pkg.setLink_fixed, ↓Pkg.dieTest_fixed, ↓fixed_iter, ↓fixed_foldl, implies_true]

theorem Pkg.recoveryTimeout_fixed (k : Pkg) : (Pkg.recoveryTimeout k).fixed = k.fixed := by
  unfold Pkg.recoveryTimeout
  (repeat' split) <;> simp only [↓Pkg.failed_fixed, ↓Pkg.fixed_onCore, ↓Pkg.fixed_onFw]

theorem Pkg.stepLimit_fixed (k : Pkg) (a1 : Nat) : (Pkg.stepLimit k a1).fixed = k.fixed := by
  unfold Pkg.stepLimit
  repeat' (first | simp only [↓Pkg.linkEvent_fixed, ↓Pkg.linkIdle_fixed, ↓Pkg.lowerGen_fixed, ↓Pkg.fixed_onFab, ↓Pkg.setLink_fixed, ↓Pkg.setPortState_fixed, ↓Pkg.showLanes_fixed, apply_ite Pkg.fixed, ite_self] | split)

theorem Pkg.widthStep_fixed (k : Pkg) (a1 : Nat) (a2 : Nat) : (Pkg.widthStep k a1 a2).fixed = k.fixed := by
  unfold Pkg.widthStep
  simp only [↓Pkg.linkEvent_fixed, ↓Pkg.lowerGen_fixed, ↓Pkg.makeTag_fixed, ↓Pkg.fixed_onCore, ↓Pkg.setLink_fixed, ↓Pkg.setPortState_fixed, ↓Pkg.showLanes_fixed, apply_ite Pkg.fixed, ite_self]

theorem Pkg.stepDone_fixed (k : Pkg) (a1 : Nat) (a2 : Nat) : (Pkg.stepDone k a1 a2).fixed = k.fixed := by
  unfold Pkg.stepDone
  repeat' (first | simp only [↓Pkg.setLink_fixed, ↓Pkg.setPortState_fixed, ↓Pkg.showLanes_fixed, ↓Pkg.widthStep_fixed, apply_ite Pkg.fixed, ite_self] | split)

theorem Pkg.redetect_fixed (k : Pkg) (a1 : Nat) (a2 : Nat) : (Pkg.redetect k a1 a2).fixed = k.fixed := by
  unfold Pkg.redetect
  simp only [↓Pkg.startDetect_fixed, ↓Pkg.stepDone_fixed, ↓Pkg.stepLimit_fixed, apply_ite Pkg.fixed, ite_self]

theorem Pkg.refuse_fixed (k : Pkg) (a1 : Nat) (a2 : Frame) (a3 : Nat) : (Pkg.refuse k a1 a2 a3).fixed = k.fixed := by
  unfold Pkg.refuse
  simp only [↓Pkg.linkEvent_fixed, ↓Pkg.fixed_onCore, ↓Pkg.fixed_onFab, ↓Pkg.quarantine_fixed, ↓Pkg.sendPeer_fixed, apply_ite Pkg.fixed, ite_self]

theorem Pkg.regulatorFault_fixed (k : Pkg) (a1 : Nat) : (Pkg.regulatorFault k a1).fixed = k.fixed := by
  unfold Pkg.regulatorFault
  (repeat' split) <;> simp only [↓Pkg.dieOff_fixed, ↓Pkg.pwEvent_fixed]

theorem Pkg.rehomeSwap_fixed (k : Pkg) (a1 : Nat) : (Pkg.rehomeSwap k a1).fixed = k.fixed := by
  unfold Pkg.rehomeSwap
  repeat' (first | (simp only [↓Pkg.fixed_eta, ↓Pkg.fixed_mk, ↓Pkg.copyPage_fixed, ↓Pkg.hbEvent_fixed, ↓Pkg.fixed_onClus, ↓Pkg.rehomeNext_fixed, ↓Pkg.spareCheck_fixed, ↓Pkg.startPage_fixed, apply_ite Pkg.fixed]; done) | with_reducible refine fixed_ite' ?_ ?_ | split)

theorem Pkg.replyAtEngine_fixed (k : Pkg) (a1 : Packet) : (Pkg.replyAtEngine k a1).fixed = k.fixed := by
  unfold Pkg.replyAtEngine
  repeat' (first | (simp only [↓Pkg.killRun_fixed, ↓Pkg.pump_fixed, ↓Pkg.pushData_fixed, ↓Pkg.setDma_fixed, ↓Pkg.takeWhy_fixed, apply_ite Pkg.fixed]; done) | split)

theorem Pkg.replyPacket_fixed (k : Pkg) (a1 : Packet) : (Pkg.replyPacket k a1).fixed = k.fixed := by
  unfold Pkg.replyPacket
  simp only [↓Pkg.lineWrite_fixed, ↓Pkg.fixed_onClus, ↓Pkg.replyAtEngine_fixed, ↓Pkg.takeWhy_fixed, ↓Pkg.windowDone_fixed, apply_ite Pkg.fixed, ite_self]

theorem Pkg.resetAssert_fixed (k : Pkg) : (Pkg.resetAssert k).fixed = k.fixed := by
  unfold Pkg.resetAssert
  exact fixed_ite' (rfl) (rfl)

theorem Pkg.resetEscalate_fixed (k : Pkg) : (Pkg.resetEscalate k).fixed = k.fixed := by
  unfold Pkg.resetEscalate
  (repeat' split) <;> simp only [↓Pkg.resetAsk_fixed]

theorem Pkg.resetHold_fixed (k : Pkg) : (Pkg.resetHold k).fixed = k.fixed := by
  unfold Pkg.resetHold
  (repeat' split) <;> simp only [↓Pkg.fixed_onPw, ↓Pkg.railsOff_fixed]

theorem Pkg.resetRelease_fixed (k : Pkg) (a1 : List Int) : (Pkg.resetRelease k a1).fixed = k.fixed := by
  unfold Pkg.resetRelease
  repeat' (first | simp only [↓Pkg.failed_fixed, ↓Pkg.fixed_onBu, ↓Pkg.fixed_onCore, ↓Pkg.fixed_onPw, ↓Pkg.railStart_fixed, ↓Pkg.setLink_fixed, implies_true, apply_ite Pkg.fixed] | split)

theorem Pkg.rotationStart_fixed (k : Pkg) (a1 : Nat) : (Pkg.rotationStart k a1).fixed = k.fixed := by
  unfold Pkg.rotationStart
  repeat' (first | simp only [↓Pkg.rotate_fixed, apply_ite Pkg.fixed] | split)

theorem Pkg.rotationTick_fixed (k : Pkg) (a1 : Nat) : (Pkg.rotationTick k a1).fixed = k.fixed := by
  unfold Pkg.rotationTick
  (repeat' split) <;> simp only [↓Pkg.rotationStart_fixed]

theorem Pkg.routeSetCmd_fixed (k : Pkg) (a1 : W32) (a2 : List (BitVec 16 × BitVec 18)) : (Pkg.routeSetCmd k a1 a2).fixed = k.fixed := by
  unfold Pkg.routeSetCmd
  simp only [↓Pkg.cmdRun_fixed, ↓Pkg.devCmd_fixed, ↓Pkg.fixed_onCore, ↓Pkg.fixed_onFab, implies_true]

theorem Pkg.routeSwap_fixed (k : Pkg) : (Pkg.routeSwap k).fixed = k.fixed := by
  unfold Pkg.routeSwap
  simp only [↓Pkg.fixed_onCore, ↓Pkg.fixed_onFab, ↓Pkg.sendTo_fixed, ↓fixed_foldl, implies_true, apply_ite Pkg.fixed, ite_self]

theorem Pkg.runOp_fixed (k : Pkg) (a1 : DmaRun) : (Pkg.runOp k a1).fixed = k.fixed := by
  unfold Pkg.runOp
  (repeat' split) <;> simp only [↓Pkg.fixed_eta, ↓Pkg.fixed_mk, ↓Pkg.fixed_onClus, ↓Pkg.setDma_fixed]

theorem Pkg.salDrain_fixed (k : Pkg) : (Pkg.salDrain k).fixed = k.fixed := by
  unfold Pkg.salDrain
  simp only [↓Pkg.fixed_onAtt, ↓Pkg.salSend_fixed, ↓fixed_foldl, implies_true]

theorem Pkg.salRetry_fixed (k : Pkg) : (Pkg.salRetry k).fixed = k.fixed := by
  unfold Pkg.salRetry
  (repeat' split) <;> simp only [↓Pkg.startDetect_fixed]

theorem Pkg.salWide_fixed (k : Pkg) : (Pkg.salWide k).fixed = k.fixed := by
  unfold Pkg.salWide
  simp only [↓Pkg.setLanes_fixed, apply_ite Pkg.fixed, ite_self]

theorem Pkg.sensorCheck_fixed (k : Pkg) (a1 : List (Nat × Int)) (a2 : List Int) : (Pkg.sensorCheck k a1 a2).fixed = k.fixed := by
  unfold Pkg.sensorCheck
  repeat' (first | (simp only [↓Pkg.excludeSensor_fixed, ↓Pkg.fixed_onPw, apply_ite Pkg.fixed, ite_self]; done) | with_reducible refine fixed_foldl' (fun _ _ => ?_) ?_ | split)

theorem Pkg.sig0Arrive_fixed (k : Pkg) (a1 : Sig0) : (Pkg.sig0Arrive k a1).fixed = k.fixed := by
  unfold Pkg.sig0Arrive
  simp only [↓Pkg.fixed_onClus, ↓Pkg.sig0Apply_fixed, apply_ite Pkg.fixed, ite_self]

theorem Pkg.signalSend_fixed (k : Pkg) (a1 : Nat) : (Pkg.signalSend k a1).fixed = k.fixed := by
  unfold Pkg.signalSend
  simp only [↓Pkg.fixed_onAtt, ↓Pkg.fixed_onClus]

theorem Pkg.sliceEnd_fixed (k : Pkg) (a1 : Nat) (a2 : Bool) (a3 : Nat) :
    (Pkg.sliceEnd k a1 a2 a3).fixed = k.fixed := by
  unfold Pkg.sliceEnd
  repeat' (first | with_reducible rfl | (simp only [↓Pkg.biShow_fixed, ↓Pkg.dieBack_fixed, ↓Pkg.endTest_fixed, ↓Pkg.fenceSpare_fixed, ↓Pkg.setTest_fixed, ↓Pkg.unfence_fixed, ↓Pkg.fixed_mk, ↓Pkg.fixed_eta, ↓Pkg.fixed_onCore, ↓fixed_foldl, ↓fixed_iter, implies_true, apply_ite Pkg.fixed, ite_self]; done) | with_reducible refine fixed_ite' ?_ ?_ | with_reducible refine fixed_foldl' (fun _ _ => ?_) ?_ | with_reducible refine fixed_iter' (fun _ _ => ?_) ?_ | with_reducible refine fixed_foldl2' (fun _ _ => ?_) ?_ | with_reducible refine fixed_foldl3' (fun _ _ => ?_) ?_ | with_reducible refine (Pkg.fixed_onBu _ _ (fun _ => rfl)).trans ?_ | with_reducible refine (Pkg.fixed_onSec _ _ (fun _ => ⟨rfl, rfl⟩)).trans ?_ | simp only [↓Pkg.biShow_fixed, ↓Pkg.dieBack_fixed, ↓Pkg.endTest_fixed, ↓Pkg.fenceSpare_fixed, ↓Pkg.setTest_fixed, ↓Pkg.unfence_fixed, ↓Pkg.fixed_mk, ↓Pkg.fixed_eta, ↓Pkg.fixed_onCore] | with_reducible refine fixed_of_eq ‹_› ?_ | with_reducible refine fixed_of_eq1 ‹_› ?_ | split | dsimp only)

theorem Pkg.snoopAnswer_fixed (k : Pkg) (a1 : SalMsg) (a2 : Bool) : (Pkg.snoopAnswer k a1 a2).fixed = k.fixed := by
  unfold Pkg.snoopAnswer
  repeat' (first | with_reducible rfl | (simp only [↓Pkg.dpaWrite_fixed, ↓Pkg.lineResume_fixed, ↓Pkg.setDir_fixed, ↓Pkg.fixed_mk, ↓Pkg.fixed_eta, ↓Pkg.fixed_onCore, ↓Pkg.fixed_onAtt, ↓fixed_foldl, ↓fixed_iter, implies_true, apply_ite Pkg.fixed, ite_self]; done) | with_reducible refine fixed_ite' ?_ ?_ | with_reducible refine fixed_foldl' (fun _ _ => ?_) ?_ | with_reducible refine fixed_iter' (fun _ _ => ?_) ?_ | with_reducible refine fixed_foldl2' (fun _ _ => ?_) ?_ | with_reducible refine fixed_foldl3' (fun _ _ => ?_) ?_ | with_reducible refine (Pkg.fixed_onBu _ _ (fun _ => rfl)).trans ?_ | with_reducible refine (Pkg.fixed_onSec _ _ (fun _ => ⟨rfl, rfl⟩)).trans ?_ | simp only [↓Pkg.dpaWrite_fixed, ↓Pkg.lineResume_fixed, ↓Pkg.setDir_fixed, ↓Pkg.fixed_mk, ↓Pkg.fixed_eta, ↓Pkg.fixed_onCore, ↓Pkg.fixed_onAtt] | with_reducible refine fixed_of_eq ‹_› ?_ | with_reducible refine fixed_of_eq1 ‹_› ?_ | split | dsimp only)

theorem Pkg.snooped_fixed (k : Pkg) (a1 : SalMsg) (a2 : Bool) : (Pkg.snooped k a1 a2).fixed = k.fixed := by
  unfold Pkg.snooped
  repeat' (first | simp only [↓Pkg.fixed_onAtt, ↓Pkg.salSend_fixed, apply_ite Pkg.fixed, ite_self] | split)

theorem Pkg.snpTimeout_fixed (k : Pkg) (a1 : Nat) : (Pkg.snpTimeout k a1).fixed = k.fixed := by
  unfold Pkg.snpTimeout
  repeat' (first | with_reducible rfl | (simp only [↓Pkg.inject_fixed, ↓Pkg.lineResume_fixed, ↓Pkg.setWhy_fixed, ↓Pkg.fixed_mk, ↓Pkg.fixed_eta, ↓Pkg.fixed_onCore, ↓Pkg.fixed_onAtt, ↓fixed_foldl, ↓fixed_iter, implies_true, apply_ite Pkg.fixed, ite_self]; done) | with_reducible refine fixed_ite' ?_ ?_ | with_reducible refine fixed_foldl' (fun _ _ => ?_) ?_ | with_reducible refine fixed_iter' (fun _ _ => ?_) ?_ | with_reducible refine fixed_foldl2' (fun _ _ => ?_) ?_ | with_reducible refine fixed_foldl3' (fun _ _ => ?_) ?_ | with_reducible refine (Pkg.fixed_onBu _ _ (fun _ => rfl)).trans ?_ | with_reducible refine (Pkg.fixed_onSec _ _ (fun _ => ⟨rfl, rfl⟩)).trans ?_ | simp only [↓Pkg.inject_fixed, ↓Pkg.lineResume_fixed, ↓Pkg.setWhy_fixed, ↓Pkg.fixed_mk, ↓Pkg.fixed_eta, ↓Pkg.fixed_onCore, ↓Pkg.fixed_onAtt] | with_reducible refine fixed_of_eq ‹_› ?_ | with_reducible refine fixed_of_eq1 ‹_› ?_ | split | dsimp only)

theorem Pkg.spdm_fixed (k : Pkg) (a1 : SpdmTransport) (a2 : Pkg → Pkg) (h2 : ∀ x0, (a2 x0).fixed = x0.fixed) : (Pkg.spdm k a1 a2).fixed = k.fixed := by
  unfold Pkg.spdm
  (repeat' split) <;> simp only [h2]

theorem Pkg.spdmAnswer_fixed (k : Pkg) (a1 : SpdmTransport) (a2 : Nat) (a3 : Nat) (a4 : Nat) (a5 : Bool) (a6 : List Byte) : (Pkg.spdmAnswer k a1 a2 a3 a4 a5 a6).fixed = k.fixed := by
  unfold Pkg.spdmAnswer
  (repeat' split) <;> simp only [↓Pkg.cwWr_fixed, ↓Pkg.fixed_onSec, ↓fixed_foldl, implies_true, and_self]

theorem Pkg.spdmAlgs_fixed (k : Pkg) (a1 : SpdmTransport) (a2 : W32) (a3 : W32) : (Pkg.spdmAlgs k a1 a2 a3).fixed = k.fixed := by
  unfold Pkg.spdmAlgs
  simp only [↓Pkg.spdm_fixed, ↓Pkg.spdmAnswer_fixed, implies_true]

theorem Pkg.spdmError_fixed (k : Pkg) (a1 : SpdmTransport) (a2 : Nat) : (Pkg.spdmError k a1 a2).fixed = k.fixed := by
  unfold Pkg.spdmError
  simp only [↓Pkg.spdmAnswer_fixed]

theorem Pkg.spdmCaps_fixed (k : Pkg) (a1 : SpdmTransport) (a2 : Nat) : (Pkg.spdmCaps k a1 a2).fixed = k.fixed := by
  unfold Pkg.spdmCaps
  simp only [↓Pkg.fixed_onSec, ↓Pkg.spdm_fixed, ↓Pkg.spdmAnswer_fixed, ↓Pkg.spdmError_fixed, implies_true, and_self, apply_ite Pkg.fixed, ite_self]

theorem Pkg.spdmCert_fixed (k : Pkg) (a1 : SpdmTransport) (a2 : Nat) (a3 : Nat) (a4 : Nat) : (Pkg.spdmCert k a1 a2 a3 a4).fixed = k.fixed := by
  unfold Pkg.spdmCert
  simp only [↓Pkg.spdm_fixed, ↓Pkg.spdmAnswer_fixed, ↓Pkg.spdmError_fixed, implies_true, apply_ite Pkg.fixed, ite_self]

theorem Pkg.spdmChallenge_fixed (k : Pkg) (a1 : SpdmTransport) (a2 : Nat) (a3 : BitVec 256) : (Pkg.spdmChallenge k a1 a2 a3).fixed = k.fixed := by
  unfold Pkg.spdmChallenge
  simp only [↓Pkg.drawNonce_fixed, ↓Pkg.spdm_fixed, ↓Pkg.spdmAnswer_fixed, ↓Pkg.spdmError_fixed, implies_true, apply_ite Pkg.fixed, ite_self]

theorem Pkg.spdmDigests_fixed (k : Pkg) (a1 : SpdmTransport) : (Pkg.spdmDigests k a1).fixed = k.fixed := by
  unfold Pkg.spdmDigests
  simp only [↓Pkg.spdm_fixed, ↓Pkg.spdmAnswer_fixed, implies_true]

theorem Pkg.spdmMeas_fixed (k : Pkg) (a1 : SpdmTransport) (a2 : Bool) (a3 : Nat) (a4 : BitVec 256) : (Pkg.spdmMeas k a1 a2 a3 a4).fixed = k.fixed := by
  unfold Pkg.spdmMeas
  simp only [↓Pkg.drawNonce_fixed, ↓Pkg.spdm_fixed, ↓Pkg.spdmAnswer_fixed, ↓Pkg.spdmError_fixed, implies_true, apply_ite Pkg.fixed, ite_self]

theorem Pkg.spdmVersion_fixed (k : Pkg) (a1 : SpdmTransport) : (Pkg.spdmVersion k a1).fixed = k.fixed := by
  unfold Pkg.spdmVersion
  simp only [↓Pkg.fixed_onSec, ↓Pkg.spdm_fixed, ↓Pkg.spdmAnswer_fixed, implies_true, and_self]

theorem Pkg.takeRecord_fixed (k : Pkg) : (Pkg.takeRecord k).fixed = k.fixed := by
  unfold Pkg.takeRecord
  simp only [↓Pkg.fixed_onBu, ↓Pkg.fixed_onCore, implies_true, apply_ite Pkg.fixed, ite_self]

theorem Pkg.startupEnd_fixed (k : Pkg) (a1 : List Nat) (a2 : Bool) : (Pkg.startupEnd k a1 a2).fixed = k.fixed := by
  unfold Pkg.startupEnd
  simp only [↓Pkg.contraFence_fixed, ↓Pkg.failed_fixed, ↓Pkg.fenceBits_fixed, ↓Pkg.fuseMap_fixed, ↓Pkg.loadOn_fixed, ↓Pkg.fixed_onCore, ↓Pkg.placeService_fixed, ↓Pkg.reconcile_fixed, ↓Pkg.takeRecord_fixed, ↓fixed_iter, ↓fixed_foldl, implies_true, apply_ite Pkg.fixed, ite_self]

theorem Pkg.waveTimeout_fixed (k : Pkg) (a1 : Nat) : (Pkg.waveTimeout k a1).fixed = k.fixed := by
  unfold Pkg.waveTimeout
  (repeat' split) <;> simp only [↓Pkg.quadHeld_fixed]

theorem Pkg.stepLimitBu_fixed (k : Pkg) (a1 : Nat) : (Pkg.stepLimitBu k a1).fixed = k.fixed := by
  unfold Pkg.stepLimitBu
  (repeat' split) <;> simp only [↓Pkg.fabricEnd_fixed, ↓Pkg.failed_fixed, ↓Pkg.hbTrain_fixed, ↓Pkg.linkIdle_fixed, ↓Pkg.fixed_onBu, ↓Pkg.fixed_onCore, ↓Pkg.setPc_fixed, ↓Pkg.stepSevenEnd_fixed, ↓Pkg.waveTimeout_fixed, ↓fixed_foldl, implies_true, apply_ite Pkg.fixed, ite_self]

theorem Pkg.stopAbort_fixed (k : Pkg) (a1 : Nat) : (Pkg.stopAbort k a1).fixed = k.fixed := by
  unfold Pkg.stopAbort
  (repeat' split) <;> simp only [↓Pkg.stopApply_fixed]

theorem Pkg.stopFrame_fixed (k : Pkg) (a1 : Frame) : (Pkg.stopFrame k a1).fixed = k.fixed := by
  unfold Pkg.stopFrame
  (repeat' split) <;> simp only [↓Pkg.fixed_onFab, ↓Pkg.sendGroup_fixed, ↓Pkg.stopNote_fixed, apply_ite Pkg.fixed, ite_self]

theorem Pkg.storeOp_fixed (k : Pkg) (a1 : Nat) (a2 : Nat) (a3 : Nat) (a4 : Nat) : (Pkg.storeOp k a1 a2 a3 a4).fixed = k.fixed := by
  unfold Pkg.storeOp
  repeat' (first | simp only [↓Pkg.runOp_fixed, apply_ite Pkg.fixed, ite_self] | split)

theorem Pkg.swapTick_fixed (k : Pkg) : (Pkg.swapTick k).fixed = k.fixed := by
  unfold Pkg.swapTick
  simp only [↓Pkg.pointsSwap_fixed, ↓Pkg.poll_fixed, ↓Pkg.routeSwap_fixed, ↓Pkg.setCycle_fixed]

theorem Pkg.freeFrame_fixed (k : Pkg) (a1 : Nat) (a2 : Frame) : (Pkg.freeFrame k a1 a2).fixed = k.fixed := by
  unfold Pkg.freeFrame
  repeat' (first | with_reducible rfl | (simp only [↓Pkg.setLink_fixed, ↓Pkg.fixed_mk, ↓Pkg.fixed_eta, ↓fixed_foldl, ↓fixed_iter, implies_true, apply_ite Pkg.fixed, ite_self]; done) | with_reducible refine fixed_ite' ?_ ?_ | with_reducible refine fixed_foldl' (fun _ _ => ?_) ?_ | with_reducible refine fixed_iter' (fun _ _ => ?_) ?_ | with_reducible refine fixed_foldl2' (fun _ _ => ?_) ?_ | with_reducible refine fixed_foldl3' (fun _ _ => ?_) ?_ | with_reducible refine (Pkg.fixed_onBu _ _ (fun _ => rfl)).trans ?_ | with_reducible refine (Pkg.fixed_onSec _ _ (fun _ => ⟨rfl, rfl⟩)).trans ?_ | simp only [↓Pkg.setLink_fixed, ↓Pkg.fixed_mk, ↓Pkg.fixed_eta] | with_reducible refine fixed_of_eq ‹_› ?_ | with_reducible refine fixed_of_eq1 ‹_› ?_ | split | dsimp only)

theorem Pkg.takeFrame_fixed (k : Pkg) (a1 : Nat) (a2 : Frame) (a3 : Pkg → Pkg) (h3 : ∀ x0, (a3 x0).fixed = x0.fixed) :
    (Pkg.takeFrame k a1 a2 a3).fixed = k.fixed := by
  unfold Pkg.takeFrame
  repeat' (first | with_reducible rfl | (simp only [↓Pkg.freeFrame_fixed, ↓Pkg.refuse_fixed, ↓Pkg.fixed_mk, ↓Pkg.fixed_eta, ↓Pkg.fixed_onFab, h3, ↓fixed_foldl, ↓fixed_iter, implies_true, apply_ite Pkg.fixed, ite_self]; done) | with_reducible refine fixed_ite' ?_ ?_ | with_reducible refine fixed_foldl' (fun _ _ => ?_) ?_ | with_reducible refine fixed_iter' (fun _ _ => ?_) ?_ | with_reducible refine fixed_foldl2' (fun _ _ => ?_) ?_ | with_reducible refine fixed_foldl3' (fun _ _ => ?_) ?_ | with_reducible refine (Pkg.fixed_onBu _ _ (fun _ => rfl)).trans ?_ | with_reducible refine (Pkg.fixed_onSec _ _ (fun _ => ⟨rfl, rfl⟩)).trans ?_ | simp only [↓Pkg.freeFrame_fixed, ↓Pkg.refuse_fixed, ↓Pkg.fixed_mk, ↓Pkg.fixed_eta, ↓Pkg.fixed_onFab, h3] | with_reducible refine fixed_of_eq ‹_› ?_ | with_reducible refine fixed_of_eq1 ‹_› ?_ | split | dsimp only)

theorem Pkg.takeoverAnn_fixed (k : Pkg) (a1 : Nat) (a2 : Frame) : (Pkg.takeoverAnn k a1 a2).fixed = k.fixed := by
  unfold Pkg.takeoverAnn
  simp only [↓Pkg.fixed_onCore, ↓Pkg.fixed_onFab, apply_ite Pkg.fixed, ite_self]

theorem Pkg.testSlice_fixed (k : Pkg) (a1 : Nat) (a2 : Bool) (a3 : Nat) : (Pkg.testSlice k a1 a2 a3).fixed = k.fixed := by
  unfold Pkg.testSlice
  (repeat' split) <;> simp only [↓Pkg.diagPoll_fixed, ↓Pkg.sliceEnd_fixed]

theorem Pkg.thermStep_fixed (k : Pkg) (a1 : Bool) (a2 : Bool) (a3 : Bool) :
    (Pkg.thermStep k a1 a2 a3).fixed = k.fixed := by
  unfold Pkg.thermStep
  repeat' (first | with_reducible rfl | (simp only [↓Pkg.loadThrottled_fixed, ↓Pkg.pwEvent_fixed, ↓Pkg.rebook_fixed, ↓Pkg.fixed_mk, ↓Pkg.fixed_eta, ↓Pkg.fixed_onCore, ↓Pkg.fixed_onPw, ↓fixed_foldl, ↓fixed_iter, implies_true, apply_ite Pkg.fixed, ite_self]; done) | with_reducible refine fixed_ite' ?_ ?_ | with_reducible refine fixed_foldl' (fun _ _ => ?_) ?_ | with_reducible refine fixed_iter' (fun _ _ => ?_) ?_ | with_reducible refine fixed_foldl2' (fun _ _ => ?_) ?_ | with_reducible refine fixed_foldl3' (fun _ _ => ?_) ?_ | with_reducible refine (Pkg.fixed_onBu _ _ (fun _ => rfl)).trans ?_ | with_reducible refine (Pkg.fixed_onSec _ _ (fun _ => ⟨rfl, rfl⟩)).trans ?_ | simp only [↓Pkg.loadThrottled_fixed, ↓Pkg.pwEvent_fixed, ↓Pkg.rebook_fixed, ↓Pkg.fixed_mk, ↓Pkg.fixed_eta, ↓Pkg.fixed_onCore, ↓Pkg.fixed_onPw] | with_reducible refine fixed_of_eq ‹_› ?_ | with_reducible refine fixed_of_eq1 ‹_› ?_ | split | dsimp only)

theorem Pkg.thermalLoop_fixed (k : Pkg) (a1 : List TempReading) (a2 : List Int) : (Pkg.thermalLoop k a1 a2).fixed = k.fixed := by
  unfold Pkg.thermalLoop
  repeat' (first | simp only [↓Pkg.fixed_onCore, ↓Pkg.sensorCheck_fixed, ↓Pkg.thermStep_fixed] | split)

theorem Pkg.thermtrip_fixed (k : Pkg) (a1 : Nat) (a2 : Int) : (Pkg.thermtrip k a1 a2).fixed = k.fixed := by
  unfold Pkg.thermtrip
  simp only [↓Pkg.faultOut_fixed, ↓Pkg.fixed_onPw, ↓Pkg.pwEvent_fixed, ↓Pkg.railsOff_fixed]

theorem Pkg.timeReq_fixed (k : Pkg) (a1 : Nat) (a2 : TimeFrame) : (Pkg.timeReq k a1 a2).fixed = k.fixed := by
  unfold Pkg.timeReq
  (repeat' split) <;> simp only [↓Pkg.sendPeer_fixed]

theorem Pkg.timeReqTimer_fixed (k : Pkg) : (Pkg.timeReqTimer k).fixed = k.fixed := by
  unfold Pkg.timeReqTimer
  repeat' (first | simp only [↓Pkg.fixed_onFab, ↓Pkg.sendPeer_fixed] | split)

theorem Pkg.timeRsp_fixed (k : Pkg) (a1 : Nat) (a2 : TimeFrame) : (Pkg.timeRsp k a1 a2).fixed = k.fixed := by
  unfold Pkg.timeRsp
  repeat' (first | with_reducible rfl | (simp only [↓Pkg.timeEvent_fixed, ↓Pkg.fixed_mk, ↓Pkg.fixed_eta, ↓Pkg.fixed_onCore, ↓Pkg.fixed_onFab, ↓fixed_foldl, ↓fixed_iter, implies_true, apply_ite Pkg.fixed, ite_self]; done) | with_reducible refine fixed_ite' ?_ ?_ | with_reducible refine fixed_foldl' (fun _ _ => ?_) ?_ | with_reducible refine fixed_iter' (fun _ _ => ?_) ?_ | with_reducible refine fixed_foldl2' (fun _ _ => ?_) ?_ | with_reducible refine fixed_foldl3' (fun _ _ => ?_) ?_ | with_reducible refine (Pkg.fixed_onBu _ _ (fun _ => rfl)).trans ?_ | with_reducible refine (Pkg.fixed_onSec _ _ (fun _ => ⟨rfl, rfl⟩)).trans ?_ | simp only [↓Pkg.timeEvent_fixed, ↓Pkg.fixed_mk, ↓Pkg.fixed_eta, ↓Pkg.fixed_onCore, ↓Pkg.fixed_onFab] | with_reducible refine fixed_of_eq ‹_› ?_ | with_reducible refine fixed_of_eq1 ‹_› ?_ | split | dsimp only)

theorem Pkg.timeSync_fixed (k : Pkg) (a1 : Nat) (a2 : TimeFrame) : (Pkg.timeSync k a1 a2).fixed = k.fixed := by
  unfold Pkg.timeSync
  simp only [↓Pkg.adoptCount_fixed, ↓Pkg.chooseMaster_fixed, ↓Pkg.fixed_onFab, apply_ite Pkg.fixed, ite_self]

theorem Pkg.trainWord_fixed (k : Pkg) (a1 : Nat) (a2 : TrainWord) : (Pkg.trainWord k a1 a2).fixed = k.fixed := by
  unfold Pkg.trainWord
  simp only [↓Pkg.setLink_fixed, apply_ite Pkg.fixed, ite_self]

theorem Pkg.transfer_fixed (k : Pkg) (a1 : Nat) (a2 : Nat) (a3 : Nat) (a4 : Nat) : (Pkg.transfer k a1 a2 a3 a4).fixed = k.fixed := by
  unfold Pkg.transfer
  (repeat' split) <;> simp only [↓Pkg.descEvent_fixed, ↓Pkg.killRun_fixed, ↓Pkg.fixed_onCore, ↓Pkg.pump_fixed, ↓Pkg.setDma_fixed, apply_ite Pkg.fixed, ite_self]

theorem Pkg.trngFail_fixed (k : Pkg) : (Pkg.trngFail k).fixed = k.fixed := by
  unfold Pkg.trngFail
  (repeat' split) <;> simp only [↓Pkg.fixed_onCore, ↓Pkg.secEvent_fixed]

theorem Pkg.ttProgress_fixed (k : Pkg) (a1 : Nat) : (Pkg.ttProgress k a1).fixed = k.fixed := by
  unfold Pkg.ttProgress
  simp only [↓Pkg.dieRelief_fixed, ↓Pkg.fixed_onCore, apply_ite Pkg.fixed, ite_self]

theorem Pkg.turnChange_fixed (k : Pkg) (a1 : Nat) (a2 : Nat) : (Pkg.turnChange k a1 a2).fixed = k.fixed := by
  unfold Pkg.turnChange
  (repeat' split) <;> simp only [↓Pkg.eachCirc_fixed, ↓Pkg.setJob_fixed, ↓Pkg.turnBegin_fixed, apply_ite Pkg.fixed, ite_self]

theorem Pkg.vauxRise_fixed (k : Pkg) : (Pkg.vauxRise k).fixed = k.fixed := by
  unfold Pkg.vauxRise
  (repeat' split) <;> simp only [↓Pkg.fixed_onCore, ↓Pkg.fixed_onPw, ↓Pkg.railStart_fixed]

theorem Pkg.wakeFail_fixed (k : Pkg) : (Pkg.wakeFail k).fixed = k.fixed := by
  unfold Pkg.wakeFail
  repeat' (first | simp only [↓Pkg.cmdEnd_fixed, ↓Pkg.fixed_onPw, ↓Pkg.pwEvent_fixed, ↓Pkg.resetBegin_fixed, ↓Pkg.setDevState_fixed, apply_ite Pkg.fixed, ite_self] | split)

theorem Pkg.winDeny_fixed (k : Pkg) (a1 : Nat) (a2 : Frame) (a3 : Nat) :
    (Pkg.winDeny k a1 a2 a3).fixed = k.fixed := by
  unfold Pkg.winDeny
  repeat' (first | with_reducible rfl | (simp only [↓Pkg.hbEvent_fixed, ↓Pkg.probe_fixed, ↓Pkg.refuse_fixed, ↓Pkg.fixed_mk, ↓Pkg.fixed_eta, ↓Pkg.fixed_onCore, ↓fixed_foldl, ↓fixed_iter, implies_true, apply_ite Pkg.fixed, ite_self]; done) | with_reducible refine fixed_ite' ?_ ?_ | with_reducible refine fixed_foldl' (fun _ _ => ?_) ?_ | with_reducible refine fixed_iter' (fun _ _ => ?_) ?_ | with_reducible refine fixed_foldl2' (fun _ _ => ?_) ?_ | with_reducible refine fixed_foldl3' (fun _ _ => ?_) ?_ | with_reducible refine (Pkg.fixed_onBu _ _ (fun _ => rfl)).trans ?_ | with_reducible refine (Pkg.fixed_onSec _ _ (fun _ => ⟨rfl, rfl⟩)).trans ?_ | simp only [↓Pkg.hbEvent_fixed, ↓Pkg.probe_fixed, ↓Pkg.refuse_fixed, ↓Pkg.fixed_mk, ↓Pkg.fixed_eta, ↓Pkg.fixed_onCore] | with_reducible refine fixed_of_eq ‹_› ?_ | with_reducible refine fixed_of_eq1 ‹_› ?_ | split | dsimp only)

theorem Pkg.window_fixed (k : Pkg) (a1 : Nat) (a2 : Frame) (a3 : Bool) : (Pkg.window k a1 a2 a3).fixed = k.fixed := by
  unfold Pkg.window
  (repeat' split) <;> simp only [↓Pkg.inject_fixed, ↓Pkg.fixed_onFab, ↓Pkg.refuse_fixed, ↓Pkg.winDeny_fixed, ↓fixed_foldl, implies_true, apply_ite Pkg.fixed, ite_self]

theorem Pkg.windowAnswer_fixed (k : Pkg) (a1 : Frame) (a2 : Bool) : (Pkg.windowAnswer k a1 a2).fixed = k.fixed := by
  unfold Pkg.windowAnswer
  repeat' (first | simp only [↓Pkg.fixed_onFab, ↓Pkg.pump_fixed, ↓Pkg.pushData_fixed, ↓Pkg.setDma_fixed, apply_ite Pkg.fixed, ite_self] | split)

theorem Pkg.debugWrite_fixed (k : Pkg) (a1 : Nat) (a2 : Nat) (a3 : Nat) (a4 : W64) :
    (Pkg.debugWrite k a1 a2 a3 a4).fixed = k.fixed := by
  unfold Pkg.debugWrite
  repeat' (first | with_reducible rfl | (simp only [↓Pkg.regWrite_fixed, ↓Pkg.fixed_mk, ↓Pkg.fixed_eta, ↓Pkg.fixed_onCore, ↓fixed_foldl, ↓fixed_iter, implies_true, apply_ite Pkg.fixed, ite_self]; done) | with_reducible refine fixed_ite' ?_ ?_ | with_reducible refine fixed_foldl' (fun _ _ => ?_) ?_ | with_reducible refine fixed_iter' (fun _ _ => ?_) ?_ | with_reducible refine fixed_foldl2' (fun _ _ => ?_) ?_ | with_reducible refine fixed_foldl3' (fun _ _ => ?_) ?_ | with_reducible refine (Pkg.fixed_onBu _ _ (fun _ => rfl)).trans ?_ | with_reducible refine (Pkg.fixed_onSec _ _ (fun _ => ⟨rfl, rfl⟩)).trans ?_ | simp only [↓Pkg.regWrite_fixed, ↓Pkg.fixed_mk, ↓Pkg.fixed_eta, ↓Pkg.fixed_onCore] | with_reducible refine fixed_of_eq ‹_› ?_ | with_reducible refine fixed_of_eq1 ‹_› ?_ | split | dsimp only)

/-! ## The operations that burn a fuse, derive the key or zeroise it -/

/-- Fuses only burn, and a blocked fuse-secret path leaves no identity key. -/
def Pkg.keeps (k k' : Pkg) : Prop :=
  k.bu.fuse.burnt k'.bu.fuse ∧
    ((k.sec.blocked = true → k.sec.key = false) → (k'.sec.blocked = true → k'.sec.key = false))

theorem FuseS.burnt_refl (f : FuseS) : f.burnt f := ⟨rfl, Nat.le_refl _, fun _ => rfl⟩

theorem FuseS.burnt_trans {f g h : FuseS} (a : f.burnt g) (b : g.burnt h) : f.burnt h := by
  obtain ⟨a1, a2, a3⟩ := a
  obtain ⟨b1, b2, b3⟩ := b
  refine ⟨by rw [← b1, ← a1], Nat.le_trans a2 b2, fun ho => ?_⟩
  have := a3 ho
  rw [← this]
  exact b3 (by rw [this]; exact ho)

theorem Pkg.keeps_trans {k k' k'' : Pkg} (h : k.keeps k') (h' : k'.keeps k'') : k.keeps k'' :=
  ⟨FuseS.burnt_trans h.1 h'.1, fun a => h'.2 (h.2 a)⟩

/-- An operation that changes none of the three keeps them. -/
theorem Pkg.keeps_of_fixed {k k' : Pkg} (h : k'.fixed = k.fixed) : k.keeps k' := by
  simp only [Pkg.fixed, Prod.mk.injEq] at h
  obtain ⟨h1, h2, h3⟩ := h
  refine ⟨by rw [h1]; exact FuseS.burnt_refl _, fun a => ?_⟩
  rw [h2, h3]
  exact a

theorem Pkg.keeps_refl (k : Pkg) : k.keeps k := Pkg.keeps_of_fixed rfl

theorem Pkg.keeps_ite {c : Prop} [Decidable c] {k a b : Pkg} (h : k.keeps a) (h' : k.keeps b) :
    k.keeps (if c then a else b) := by split <;> assumption

/-- The minimum SVN only rises (R462). -/
theorem Pkg.svnBurn_keeps (k : Pkg) : k.keeps k.svnBurn := by
  unfold Pkg.svnBurn
  dsimp only
  split
  · next h =>
    refine Pkg.keeps_trans (k' := k.onBu (fun b => { b with fuse := { b.fuse with minSvn := imgSvn k.running } }))
      ⟨⟨rfl, Nat.le_of_lt h.2.1, fun _ => rfl⟩, fun a => a⟩ (Pkg.keeps_of_fixed (Pkg.fixed_onCore _ _))
  · exact Pkg.keeps_refl _

theorem Pkg.enterFull_keeps (k : Pkg) : k.keeps k.enterFull := by
  unfold Pkg.enterFull
  dsimp only
  refine Pkg.keeps_trans (Pkg.keeps_trans (Pkg.keeps_of_fixed ?_) (Pkg.svnBurn_keeps _))
    (Pkg.keeps_of_fixed (Pkg.fixed_onBu _ _ (fun _ => rfl)))
  rw [Pkg.fixed_onCore, Pkg.setDevState_fixed]

theorem Pkg.probationEnd_keeps (k : Pkg) : k.keeps k.probationEnd := by
  unfold Pkg.probationEnd
  split
  · exact Pkg.keeps_refl _
  · refine Pkg.keeps_ite (Pkg.keeps_refl _) ?_
    dsimp only
    have e : ∀ x : Pkg, ∀ n, (((((x.flipBank n).onFw (fun f => { f with up := kput f.up false n true, halted := kput f.halted false n false })).cwWr 0 0x48
      (BitVec.ofNat 32 (imgVer ((x.flipBank n).onFw (fun f => { f with up := kput f.up false n true, halted := kput f.halted false n false })).running))).fwNote 0x0E08 sevInfo
      (((x.flipBank n).onFw (fun f => { f with up := kput f.up false n true, halted := kput f.halted false n false })).cwWr 0 0x48
      (BitVec.ofNat 32 (imgVer ((x.flipBank n).onFw (fun f => { f with up := kput f.up false n true, halted := kput f.halted false n false })).running))).sb 0).exchEnd stOk 0).fixed = x.fixed := by
      intro x n
      rw [Pkg.exchEnd_fixed, Pkg.fwNote_fixed, Pkg.cwWr_fixed, Pkg.fixed_onFw, Pkg.flipBank_fixed]
    exact Pkg.keeps_ite (Pkg.keeps_trans (Pkg.keeps_of_fixed (e _ _)) (Pkg.svnBurn_keeps _)) (Pkg.keeps_of_fixed (e _ _))

theorem Pkg.quadJoin_keeps (k : Pkg) (q : Nat) : k.keeps (k.quadJoin q) := by
  unfold Pkg.quadJoin
  refine Pkg.keeps_ite (Pkg.keeps_refl _) (Pkg.keeps_ite (Pkg.keeps_of_fixed (Pkg.fixed_onCore _ _)) ?_)
  extract_lets k1 k2 first k3 k4
  have h3 : k3.fixed = k.fixed := by
    refine fixed_ite' ?_ ?_ <;>
      simp only [k2, k1, Pkg.fixed_onPw, Pkg.fixed_onCore, Pkg.setDevState_fixed, Pkg.cwWr_fixed]
  have h4 : k4.fixed = k.fixed := by simp only [k4, Pkg.fixed_onCore, h3]
  refine Pkg.keeps_ite (Pkg.keeps_ite (Pkg.keeps_of_fixed ?_) ?_) (Pkg.keeps_ite (Pkg.keeps_of_fixed ?_) (Pkg.keeps_of_fixed h3))
  · rw [Pkg.fixed_onPw, h4]
  · exact Pkg.keeps_trans (Pkg.keeps_of_fixed h4) (Pkg.enterFull_keeps _)
  · rw [Pkg.fixed_onCore, h3]

theorem Pkg.devCmd_keeps (k : Pkg) (opc : Nat) (tag : W32) (dev : List Nat) (ok : Bool) (f : Pkg → Pkg)
    (h : ∀ x : Pkg, x.keeps (f x)) : k.keeps (k.devCmd opc tag dev ok f) := by
  unfold Pkg.devCmd
  exact Pkg.keeps_ite (Pkg.keeps_refl _)
    (Pkg.keeps_ite (Pkg.keeps_of_fixed (Pkg.cmdReject_fixed _ _ _ _ _ _ _)) (h k))

theorem Pkg.runningCmd_keeps (k : Pkg) (tag : W32) : k.keeps (k.runningCmd tag) := by
  unfold Pkg.runningCmd
  refine Pkg.devCmd_keeps _ _ _ _ _ _ (fun x => ?_)
  dsimp only
  refine Pkg.keeps_ite ?_ (Pkg.keeps_of_fixed ?_)
  · have e : ∀ y : Pkg, ((y.stateEvent 0).devEnd 0x29 tag stOk 0).fixed = y.fixed := fun y => by
      rw [Pkg.devEnd_fixed, Pkg.stateEvent_fixed]
    exact Pkg.keeps_trans (Pkg.keeps_ite (Pkg.enterFull_keeps _) (Pkg.keeps_of_fixed (Pkg.setDevState_fixed _ _)))
      (Pkg.keeps_of_fixed (e _))
  · rw [Pkg.cmdRun_fixed, Pkg.fixed_onPw, Pkg.fixed_onCore]

theorem Pkg.wakeEnd_keeps (k : Pkg) : k.keeps k.wakeEnd := by
  unfold Pkg.wakeEnd
  extract_lets qs k1 k2 k3 cmd dom k4 k5 k6 k7
  have h4 : k4.fixed = k.fixed := by
    simp only [k4, k3, k2, k1, Pkg.fixed_onPw, Pkg.fixed_onCore, Pkg.setDevState_fixed, Pkg.salWide_fixed,
      Pkg.placeService_fixed, Pkg.fenceBits_fixed]
    refine fixed_foldl' (fun _ _ => fixed_ite' (Pkg.startDetect_fixed _ _) rfl) ?_
    rw [Pkg.salWide_fixed, Pkg.fixed_onCore, Pkg.placeService_fixed, Pkg.fenceBits_fixed]
  have h5 : k.keeps k5 := Pkg.keeps_ite (Pkg.keeps_trans (Pkg.keeps_of_fixed h4) (Pkg.enterFull_keeps _)) (Pkg.keeps_of_fixed h4)
  have h7 : k.keeps k7 := by
    refine Pkg.keeps_trans h5 (Pkg.keeps_of_fixed ?_)
    simp only [k7]
    clear_value cmd
    split
    · exact fixed_ite' (by rw [Pkg.cmdEnd_fixed]; exact Pkg.stateEvent_fixed _ _) (Pkg.stateEvent_fixed _ _)
    · exact Pkg.stateEvent_fixed _ _
  clear_value dom
  split
  · exact Pkg.keeps_trans h7 (Pkg.keeps_of_fixed (Pkg.resetBegin_fixed _ _ _ _ _ _ _))
  · exact h7

theorem Pkg.wakeStep_keeps (k : Pkg) : k.keeps k.wakeStep := by
  unfold Pkg.wakeStep
  split
  · exact Pkg.keeps_refl _
  · next n _ =>
    dsimp only
    refine Pkg.keeps_trans (k' := (k.onCore (·.setFld pagePw 0x40 (29 - n % 4) 1 1)).onPw (fun p => { p with wake := some (n + 1) }))
      (Pkg.keeps_of_fixed (by rw [Pkg.fixed_onPw, Pkg.fixed_onCore])) ?_
    split
    · exact Pkg.keeps_of_fixed (Pkg.fixed_onCore _ _)
    · exact Pkg.keeps_refl _
    · refine Pkg.keeps_of_fixed ?_
      rw [Pkg.fixed_onPw]
      exact fixed_foldl' (fun _ _ => Pkg.fixed_onCore _ _) (Pkg.fixed_onHbm _ _)
    · exact Pkg.wakeEnd_keeps _

theorem Pkg.devBegin_keeps (k : Pkg) (opc : Nat) (tag : W32) (ws : List W64) : k.keeps (k.devBegin opc tag ws) := by
  unfold Pkg.devBegin
  dsimp only
  split
  case h_10 =>
    split
    · exact Pkg.runningCmd_keeps _ _
    all_goals exact Pkg.keeps_of_fixed (by simp only [Pkg.idleCmd_fixed, Pkg.laidUpCmd_fixed, Pkg.devInvalid_fixed])
  case h_12 =>
    (repeat' split) <;> exact Pkg.keeps_of_fixed (by simp only [Pkg.resetCmd_fixed, Pkg.resetDieCmd_fixed, Pkg.devInvalid_fixed])
  all_goals
    exact Pkg.keeps_of_fixed (by simp only [Pkg.nopCmd_fixed, Pkg.setNodeCmd_fixed, Pkg.takeoverCmd_fixed, Pkg.devCmd_fixed,
      Pkg.cmdRun_fixed, implies_true, Pkg.windowSetCmd_fixed, Pkg.attachSetCmd_fixed, Pkg.stopGroupCmd_fixed, Pkg.diagCmd_fixed,
      Pkg.powerCapCmd_fixed, Pkg.trainRecordCmd_fixed, Pkg.fwExchange_fixed, Pkg.drillBegin_fixed])

theorem Pkg.fetched_keeps (k : Pkg) (j : Nat) (ws : List W64) : k.keeps (k.fetched j ws) := by
  unfold Pkg.fetched
  dsimp only
  exact Pkg.keeps_ite (Pkg.keeps_of_fixed (Pkg.cmdReject_fixed _ _ _ _ _ _ _))
    (Pkg.keeps_ite (Pkg.devBegin_keeps _ _ _ _) (Pkg.keeps_of_fixed (Pkg.jobBegin_fixed _ _ _ _ _)))

theorem Pkg.commandFetch_keeps (k : Pkg) (j : Nat) (ws : List W64) : k.keeps (k.commandFetch j ws) := by
  unfold Pkg.commandFetch
  dsimp only
  exact Pkg.keeps_ite (Pkg.keeps_refl _)
    (Pkg.keeps_trans (Pkg.keeps_of_fixed (Pkg.cwWr_fixed _ _ _ _)) (Pkg.fetched_keeps _ _ _))

/-- The key is derived only where the path is open (R457, R465). -/
theorem Pkg.powerGood_keeps (k : Pkg) : k.keeps k.powerGood := by
  unfold Pkg.powerGood
  extract_lets k1 start
  have h1 : k1.fixed = k.fixed := by simp only [k1, Pkg.fixed_onPw, Pkg.fixed_onCore]
  have hs : ∀ x, (start x).fixed = x.fixed := fun x => by
    exact (Pkg.fixed_onBu (x.onCore (·.setStep 3)) _ (fun _ => rfl)).trans (Pkg.fixed_onCore x _)
  refine Pkg.keeps_trans (Pkg.keeps_of_fixed h1) ?_
  split
  · exact Pkg.keeps_of_fixed (hs _)
  · next hb =>
    refine Pkg.keeps_ite (Pkg.keeps_trans ?_ (Pkg.keeps_of_fixed (hs _))) (Pkg.keeps_of_fixed ?_)
    · refine Pkg.keeps_trans (k' := { k1 with sec := { k1.sec with key := true } }) ⟨FuseS.burnt_refl _, fun _ h => absurd h hb⟩
        (Pkg.keeps_of_fixed (Pkg.fixed_onCore _ _))
    · rw [Pkg.failed_fixed, Pkg.railsOff_fixed, Pkg.fixed_onCore]

theorem Pkg.pgoodAssert_keeps (k : Pkg) (g : Nat) : k.keeps (k.pgoodAssert g) := by
  unfold Pkg.pgoodAssert
  refine Pkg.keeps_ite (Pkg.keeps_refl _) ?_
  exact Pkg.keeps_trans (Pkg.keeps_of_fixed (Pkg.fixed_onCore _ _))
    (Pkg.keeps_ite (Pkg.powerGood_keeps _) (Pkg.keeps_of_fixed (Pkg.railStart_fixed _ _)))

/-- Zeroising clears the key before it blocks the path (R465). -/
theorem Pkg.zeroise_keeps (k : Pkg) (level signers : Nat) : k.keeps (k.zeroise level signers) := by
  unfold Pkg.zeroise
  refine Pkg.keeps_trans (k' := k.onSec (fun x => { x with key := false, blocked := true })) ⟨FuseS.burnt_refl _, fun _ _ => rfl⟩
    (Pkg.keeps_of_fixed ?_)
  rw [Pkg.secEvent_fixed, Pkg.fixed_onCore]

theorem Pkg.dbgResp_keeps (k : Pkg) (r : List Byte) : k.keeps (k.dbgResp r) := by
  unfold Pkg.dbgResp
  refine Pkg.keeps_ite (Pkg.keeps_refl _) ?_
  extract_lets level fresh msg signed vendor owner mask keyOk k1 k2 k3
  have h1 : k1.fixed = k.fixed := by
    exact (Pkg.fixed_onSec _ _ (fun _ => ⟨rfl, rfl⟩)).trans (Pkg.jtag_fixed _ _ _ _ (fun _ => rfl))
  refine Pkg.keeps_trans (Pkg.keeps_of_fixed h1) ?_
  refine Pkg.keeps_ite (Pkg.keeps_of_fixed (Pkg.unlockFail_fixed _ _ _))
    (Pkg.keeps_ite (Pkg.keeps_of_fixed (Pkg.secDenied_fixed _ _ _)) ?_)
  refine Pkg.keeps_trans (k' := k2) (Pkg.keeps_ite (Pkg.zeroise_keeps _ _ _) (Pkg.keeps_refl _)) (Pkg.keeps_of_fixed ?_)
  exact (Pkg.secEvent_fixed _ _ _ _ _ _ _).trans ((Pkg.fixed_onSec _ _ (fun _ => ⟨rfl, rfl⟩)).trans (Pkg.fixed_onCore _ _))

/-- BURN_OWNER where OWNER_VALID is 0; every other instruction of a level leaves the three (R463). -/
theorem Pkg.levelAct_keeps (k : Pkg) (i : LevelInstr) (h : ∀ o, i = .burnOwner o → k.bu.fuse.owner.isNone) :
    k.keeps (k.levelAct i) := by
  unfold Pkg.levelAct
  split
  · exact Pkg.keeps_of_fixed (Pkg.debugRead_fixed _ _ _ _)
  · exact Pkg.keeps_of_fixed (Pkg.debugWrite_fixed _ _ _ _ _)
  · exact Pkg.keeps_of_fixed (Pkg.fixed_onSec _ _ (fun _ => ⟨rfl, rfl⟩))
  · exact Pkg.keeps_refl _
  · exact Pkg.keeps_of_fixed ((Pkg.fixed_onSec _ _ (fun _ => ⟨rfl, rfl⟩)).trans (Pkg.fixed_onCore _ _))
  · next o =>
    have := h o rfl
    refine ⟨⟨rfl, Nat.le_refl _, fun ho => ?_⟩, fun a => a⟩
    rw [Option.isNone_iff_eq_none] at this
    rw [this] at ho
    exact absurd ho (by simp)

theorem Pkg.levelInstr_keeps (k : Pkg) (i : LevelInstr) : k.keeps (k.levelInstr i) := by
  unfold Pkg.levelInstr
  refine Pkg.keeps_ite (Pkg.keeps_refl _) ?_
  split
  next need ir hl =>
  split
  · exact Pkg.keeps_of_fixed (Pkg.secDenied_fixed _ _ _)
  · next hn =>
    have hj : (k.jtag ir []).fixed = k.fixed := Pkg.jtag_fixed _ _ _ _ (fun _ => rfl)
    refine Pkg.keeps_trans (Pkg.keeps_of_fixed hj) (Pkg.levelAct_keeps _ _ (fun o ho => ?_))
    subst ho
    simp only [levelOf, Prod.mk.injEq] at hl
    simp only [← hl.1, Pkg.levelOk] at hn
    have : (k.jtag ir []).bu.fuse = k.bu.fuse := by
      have := congrArg (fun x => x.1) hj
      exact this
    rw [this]
    simp only [not_or, Bool.not_eq_false, Nat.not_lt] at hn
    simpa using hn.2

/-- VAUX falls: the fuses stay, and the key store and the block clear together (R465). -/
theorem Pkg.vauxFall_keeps (k : Pkg) : k.keeps k.vauxFall :=
  ⟨FuseS.burnt_refl _, fun _ h => absurd h (by simp [Pkg.vauxFall, Pkg.cold, SecS.cold, Pkg.onCore, Pkg.onClus])⟩

end Sys2Proof.Machine
end

