-- ==== Sys2Proof/Laws/Maps.lean ====
section
/-!
SUPPORT. The laws of sparse maps: a read after a write, and the canonical form that every write keeps.
-/
namespace Sys2Proof.Machine

variable {α : Type}

/-! ## Reads after writes -/

@[simp] theorem kget_nil (d : α) (k : Nat) : kget [] d k = d := rfl

/-- What no entry lists reads as the default. -/
theorem kget_absent (m : KMap α) (d : α) (k : Nat) (h : ∀ e ∈ m, e.1 ≠ k) : kget m d k = d := by
  induction m with
  | nil => rfl
  | cons e r ih => simp only [kget, if_neg (h e (by simp))]; exact ih (fun x hx => h x (by simp [hx]))

/-- A removed key reads as unlisted, and every other key as before. -/
theorem kget_kdel (m : KMap α) (d : α) (k k' : Nat) :
    kget (kdel m k) d k' = if k = k' then d else kget m d k' := by
  induction m with
  | nil => simp [kdel]
  | cons e r ih =>
    obtain ⟨j, v⟩ := e
    by_cases h : j = k <;> by_cases h' : k = k' <;> by_cases h'' : j = k' <;> simp_all [kdel, kget]

/-- A listed key reads as what was listed, and every other key as before. -/
theorem kget_kins (m : KMap α) (d : α) (k k' : Nat) (v : α) :
    kget (kins m k v) d k' = if k = k' then v else kget m d k' := by
  induction m with
  | nil => simp [kins, kget]
  | cons e r ih =>
    obtain ⟨j, w⟩ := e
    unfold kins
    split
    · simp [kget]
    · split
      · subst_vars; simp only [kget]; split <;> simp_all
      · simp only [kget, ih]; split <;> simp_all

/-- A written key reads as what was written, and every other key as before. -/
theorem kget_kput [DecidableEq α] (m : KMap α) (d : α) (k k' : Nat) (v : α) :
    kget (kput m d k v) d k' = if k = k' then v else kget m d k' := by
  unfold kput
  split
  · next h => subst h; exact kget_kdel m v k k'
  · exact kget_kins m d k k' v

@[simp] theorem kget_kput_same [DecidableEq α] (m : KMap α) (d : α) (k : Nat) (v : α) :
    kget (kput m d k v) d k = v := by simp [kget_kput]

theorem kget_kput_ne [DecidableEq α] (m : KMap α) (d : α) {k k' : Nat} (v : α) (h : k ≠ k') :
    kget (kput m d k v) d k' = kget m d k' := by simp [kget_kput, h]

/-- A write under one default leaves every other key as it reads under another default. -/
theorem kget_kput_other [DecidableEq α] (m : KMap α) (d d' : α) {k k' : Nat} (v : α) (h : k ≠ k') :
    kget (kput m d k v) d' k' = kget m d' k' := by
  unfold kput
  split
  · simp [kget_kdel, h]
  · simp [kget_kins, h]

/-- A run of written values reads back inside the run, and every key outside it reads as before. -/
theorem kget_kputs [DecidableEq α] (m : KMap α) (d : α) (k : Nat) (l : List α) (k' : Nat) :
    kget (kputs m d k l) d k' = if k ≤ k' ∧ k' < k + l.length then l.getD (k' - k) d else kget m d k' := by
  induction l generalizing m k with
  | nil => simp [kputs] <;> omega
  | cons v vs ih =>
    simp only [kputs, ih, kget_kput, List.length_cons]
    by_cases h : k = k'
    · subst h; rw [if_neg (by omega)]; simp
    · by_cases h2 : k + 1 ≤ k' ∧ k' < k + 1 + vs.length
      · rw [if_pos h2, if_pos (by omega)]
        obtain ⟨n, hn⟩ : ∃ n, k' - k = n + 1 := ⟨k' - k - 1, by omega⟩
        have : k' - (k + 1) = n := by omega
        simp [hn, this]
      · rw [if_neg h2, if_neg h, if_neg (by omega)]

@[simp] theorem kgets_length (m : KMap α) (d : α) (k n : Nat) : (kgets m d k n).length = n := by
  induction n generalizing k with
  | zero => rfl
  | succ n ih => simp [kgets, ih]

/-- What was written as a run reads back as that run. -/
theorem kgets_kputs [DecidableEq α] (m : KMap α) (d : α) (k : Nat) (l : List α) :
    kgets (kputs m d k l) d k l.length = l := by
  have key : ∀ (n i : Nat) (m' : KMap α), (∀ j, j < n → kget m' d (i + j) = l.getD (i - k + j) d) →
      k ≤ i → i - k + n = l.length → kgets m' d i n = l.drop (i - k) := by
    intro n
    induction n with
    | zero => intro i m' _ _ h; simp [kgets, List.drop_eq_nil_of_le (by omega : l.length ≤ i - k)]
    | succ n ih =>
      intro i m' h hk hl
      have hlt : i - k < l.length := by omega
      rw [kgets, ih (i + 1) m' (fun j hj => by
        have := h (j + 1) (by omega)
        rw [show i + 1 + j = i + (j + 1) by omega, this]; congr 1; omega) (by omega) (by omega)]
      have h0 := h 0 (by omega)
      rw [List.drop_eq_getElem_cons hlt]
      simp only [Nat.add_zero] at h0
      rw [h0, show i + 1 - k = i - k + 1 by omega]
      simp [List.getD_eq_getElem?_getD, List.getElem?_eq_getElem hlt]
  have := key l.length k (kputs m d k l) (fun j hj => by
    rw [kget_kputs, if_pos (by omega)]; simp) (Nat.le_refl k) (by omega)
  simpa using this

/-- A cleared range reads as unlisted, and every key outside it as before. -/
theorem kget_kclear (m : KMap α) (d : α) (lo n k : Nat) :
    kget (kclear m lo n) d k = if lo ≤ k ∧ k < lo + n then d else kget m d k := by
  induction m with
  | nil => simp [kclear]
  | cons e r ih =>
    obtain ⟨j, v⟩ := e
    simp only [kclear] at ih ⊢
    by_cases h : j < lo ∨ lo + n ≤ j
    · simp only [List.filter_cons, h, decide_true, if_true, kget, ih]
      by_cases hj : j = k
      · subst hj; rw [if_pos rfl, if_neg (by omega), if_pos rfl]
      · simp [hj]
    · simp only [List.filter_cons, h, decide_false, kget]
      by_cases hj : j = k
      · subst hj
        simp only [Bool.false_eq_true, if_false, ih]
        rw [if_pos (by omega), if_pos (by omega)]
      · simp only [Bool.false_eq_true, if_false, ih, if_neg hj]

/-! ## The canonical form -/

theorem kascFrom_mono {lo lo' : Nat} (h : lo ≤ lo') (m : KMap α) (hm : kascFrom lo' m = true) : kascFrom lo m = true := by
  cases m with
  | nil => rfl
  | cons e r => obtain ⟨j, v⟩ := e; simp [kascFrom] at hm ⊢; exact ⟨by omega, hm.2⟩

theorem kascFrom_kdel (lo : Nat) (m : KMap α) (k : Nat) (h : kascFrom lo m = true) : kascFrom lo (kdel m k) = true := by
  induction m generalizing lo with
  | nil => rfl
  | cons e r ih =>
    obtain ⟨j, v⟩ := e
    simp only [kascFrom, Bool.and_eq_true, decide_eq_true_eq] at h
    unfold kdel
    split
    · exact kascFrom_mono (by omega) _ (ih (j + 1) h.2)
    · simp [kascFrom, h.1, ih (j + 1) h.2]

theorem kascFrom_kins (lo : Nat) (m : KMap α) (k : Nat) (v : α) (hk : lo ≤ k) (h : kascFrom lo m = true) :
    kascFrom lo (kins m k v) = true := by
  induction m generalizing lo with
  | nil => simp [kins, kascFrom, hk]
  | cons e r ih =>
    obtain ⟨j, w⟩ := e
    simp only [kascFrom, Bool.and_eq_true, decide_eq_true_eq] at h
    unfold kins
    split
    · simp [kascFrom, hk]; exact ⟨by omega, h.2⟩
    · split
      · subst_vars; simp [kascFrom, hk, h.2]
      · simp [kascFrom, h.1, ih (j + 1) (by omega) h.2]

theorem mem_kdel (m : KMap α) (k : Nat) (e : Nat × α) (h : e ∈ kdel m k) : e ∈ m := by
  induction m with
  | nil => exact h
  | cons x r ih =>
    obtain ⟨j, w⟩ := x
    unfold kdel at h
    split at h
    · exact List.mem_cons_of_mem _ (ih h)
    · rcases List.mem_cons.1 h with h | h
      · exact h ▸ List.mem_cons_self
      · exact List.mem_cons_of_mem _ (ih h)

theorem mem_kins (m : KMap α) (k : Nat) (v : α) (e : Nat × α) (h : e ∈ kins m k v) : e = (k, v) ∨ e ∈ m := by
  induction m with
  | nil => simpa [kins] using h
  | cons x r ih =>
    obtain ⟨j, w⟩ := x
    unfold kins at h
    split at h
    · simpa using h
    · split at h
      · rcases List.mem_cons.1 h with h | h
        · exact .inl h
        · exact .inr (List.mem_cons_of_mem _ h)
      · rcases List.mem_cons.1 h with h | h
        · exact .inr (h ▸ List.mem_cons_self)
        · rcases ih h with h | h
          · exact .inl h
          · exact .inr (List.mem_cons_of_mem _ h)

/-- The canonical form, said of the entries. -/
theorem kwf_iff [DecidableEq α] (d : Nat → α) (m : KMap α) :
    kwf d m = true ↔ kascFrom 0 m = true ∧ ∀ e ∈ m, e.2 ≠ d e.1 := by
  simp [kwf]

/-- A write keeps the canonical form. -/
theorem kwf_kput [DecidableEq α] (d : Nat → α) (m : KMap α) (k : Nat) (v : α) (h : kwf d m = true) :
    kwf d (kput m (d k) k v) = true := by
  rw [kwf_iff] at h ⊢
  unfold kput
  split
  · exact ⟨kascFrom_kdel 0 m k h.1, fun e he => h.2 e (mem_kdel m k e he)⟩
  · next hv =>
    refine ⟨kascFrom_kins 0 m k v (Nat.zero_le k) h.1, fun e he => ?_⟩
    rcases mem_kins m k v e he with rfl | he
    · exact hv
    · exact h.2 e he

/-- A run of writes keeps the canonical form. -/
theorem kwf_kputs [DecidableEq α] (d : α) (m : KMap α) (k : Nat) (l : List α) (h : kwf (fun _ => d) m = true) :
    kwf (fun _ => d) (kputs m d k l) = true := by
  induction l generalizing m k with
  | nil => exact h
  | cons v vs ih => exact ih _ _ (kwf_kput (fun _ => d) m k v h)

theorem kascFrom_filter (p : Nat × α → Bool) (lo : Nat) (m : KMap α) (h : kascFrom lo m = true) :
    kascFrom lo (m.filter p) = true := by
  induction m generalizing lo with
  | nil => rfl
  | cons e r ih =>
    obtain ⟨j, v⟩ := e
    simp only [kascFrom, Bool.and_eq_true, decide_eq_true_eq] at h
    rw [List.filter_cons]
    split
    · simp [kascFrom, h.1, ih (j + 1) h.2]
    · exact kascFrom_mono (by omega) _ (ih (j + 1) h.2)

/-- Clearing a range keeps the canonical form. -/
theorem kwf_kclear [DecidableEq α] (d : Nat → α) (m : KMap α) (lo n : Nat) (h : kwf d m = true) :
    kwf d (kclear m lo n) = true := by
  rw [kwf_iff] at h ⊢
  exact ⟨kascFrom_filter _ 0 m h.1, fun e he => h.2 e ((List.mem_filter.1 he).1)⟩

@[simp] theorem kwf_nil [DecidableEq α] (d : Nat → α) : kwf d ([] : KMap α) = true := rfl

/-- In canonical form two maps that read alike are equal data. -/
theorem kwf_ext [DecidableEq α] (d : Nat → α) (m m' : KMap α) (h : kwf d m = true) (h' : kwf d m' = true)
    (hr : ∀ k, kget m (d k) k = kget m' (d k) k) : m = m' := by
  have low : ∀ (lo k : Nat) (m : KMap α), kascFrom lo m = true → k < lo → kget m (d k) k = d k := by
    intro lo k m hm hk
    induction m generalizing lo with
    | nil => rfl
    | cons e r ih =>
      obtain ⟨j, v⟩ := e
      simp only [kascFrom, Bool.and_eq_true, decide_eq_true_eq] at hm
      rw [kget, if_neg (by omega)]
      exact ih (j + 1) hm.2 (by omega)
  have main : ∀ (m m' : KMap α) (lo : Nat), kascFrom lo m = true → kascFrom lo m' = true →
      (∀ e ∈ m, e.2 ≠ d e.1) → (∀ e ∈ m', e.2 ≠ d e.1) → (∀ k, kget m (d k) k = kget m' (d k) k) → m = m' := by
    intro m
    induction m with
    | nil =>
      intro m' lo _ hm' _ hn' hr
      cases m' with
      | nil => rfl
      | cons e r =>
        obtain ⟨j, v⟩ := e
        have := hr j
        simp [kget] at this
        exact absurd this.symm (hn' (j, v) (by simp))
    | cons e r ih =>
      obtain ⟨j, v⟩ := e
      intro m' lo hm hm' hn hn' hr
      cases m' with
      | nil =>
        have := hr j
        simp [kget] at this
        exact absurd this (hn (j, v) (by simp))
      | cons e' r' =>
        obtain ⟨j', v'⟩ := e'
        simp only [kascFrom, Bool.and_eq_true, decide_eq_true_eq] at hm hm'
        have hj : j = j' := by
          rcases Nat.lt_trichotomy j j' with h | h | h
          · have := hr j
            rw [kget, if_pos rfl, kget, if_neg (by omega), low (j' + 1) j r' hm'.2 (by omega)] at this
            exact absurd this (hn (j, v) (by simp))
          · exact h
          · have := hr j'
            rw [kget, if_neg (by omega), low (j + 1) j' r hm.2 (by omega), kget, if_pos rfl] at this
            exact absurd this.symm (hn' (j', v') (by simp))
        subst hj
        have hv := hr j
        simp [kget] at hv
        subst hv
        have : r = r' := ih r' (j + 1) hm.2 hm'.2 (fun e he => hn e (List.mem_cons_of_mem _ he))
          (fun e he => hn' e (List.mem_cons_of_mem _ he)) (fun k => by
            have := hr k
            simp only [kget] at this
            by_cases hk : j = k
            · subst hk
              rw [low (j + 1) j r hm.2 (by omega), low (j + 1) j r' hm'.2 (by omega)]
            · simpa [hk] using this)
        rw [this]
  rw [kwf_iff] at h h'
  exact main m m' 0 h.1 h'.1 h.2 h'.2 hr

end Sys2Proof.Machine
end

