-- ==== Sys2Proof/Laws/Word.lean ====
section
/-!
SUPPORT. The laws of bit fields: a field reads back as it was set, and setting it leaves every bit outside it.
-/
namespace Sys2Proof

/-- A bit of a word with a field replaced. -/
theorem putBits_getLsbD {w : Nat} (v : BitVec w) (lo len x i : Nat) :
    (putBits v lo len x).getLsbD i =
      (decide (i < w) && (if lo ≤ i ∧ i < lo + len then (x % 2 ^ len).testBit (i - lo) else v.getLsbD i)) := by
  unfold putBits
  simp only [BitVec.getLsbD_or, BitVec.getLsbD_and, BitVec.getLsbD_not, BitVec.getLsbD_ofNat, Nat.testBit_shiftLeft,
    Nat.testBit_two_pow_sub_one]
  by_cases hw : i < w
  · by_cases h1 : lo ≤ i
    · by_cases h2 : i < lo + len
      · simp [hw, h1, h2, show i - lo < len by omega]
      · simp [hw, h1, h2, show ¬ i - lo < len by omega]
    · simp [hw, h1, show ¬ i ≥ lo by omega]
  · simp [hw, BitVec.getLsbD_of_ge v i (by omega)]

/-- A bit of a word, as a field of one bit. -/
theorem bitAt_putBits {w : Nat} (v : BitVec w) (lo len x i : Nat) (hi : i < w) :
    bitAt (putBits v lo len x) i = if lo ≤ i ∧ i < lo + len then (x % 2 ^ len).testBit (i - lo) else bitAt v i := by
  simp only [bitAt, putBits_getLsbD, hi, decide_true, Bool.true_and]

theorem bitsAt_testBit {w : Nat} (v : BitVec w) (lo len i : Nat) :
    (bitsAt v lo len).testBit i = (decide (i < len) && v.getLsbD (lo + i)) := by
  simp [bitsAt, Nat.testBit_mod_two_pow, Nat.testBit_shiftRight, BitVec.getLsbD]

/-- A field reads back as the value it was set to, cut to its width. -/
theorem bitsAt_putBits_same {w : Nat} (v : BitVec w) (lo len x : Nat) (h : lo + len ≤ w) :
    bitsAt (putBits v lo len x) lo len = x % 2 ^ len := by
  refine Nat.eq_of_testBit_eq fun i => ?_
  rw [bitsAt_testBit, putBits_getLsbD]
  by_cases hi : i < len
  · simp [hi, show lo + i < w by omega]
  · simp [hi]

/-- A field that lies outside a replaced field reads as before. -/
theorem bitsAt_putBits_ne {w : Nat} (v : BitVec w) (lo len x lo' len' : Nat) (h : lo' + len' ≤ lo ∨ lo + len ≤ lo') :
    bitsAt (putBits v lo len x) lo' len' = bitsAt v lo' len' := by
  refine Nat.eq_of_testBit_eq fun i => ?_
  rw [bitsAt_testBit, bitsAt_testBit, putBits_getLsbD]
  by_cases hi : i < len'
  · by_cases hw : lo' + i < w
    · simp only [hi, hw, decide_true, Bool.true_and]
      rw [if_neg (by omega)]
    · simp [hw, BitVec.getLsbD_of_ge v (lo' + i) (by omega)]
  · simp [hi]

theorem bitsAt_lt {w : Nat} (v : BitVec w) (lo len : Nat) : bitsAt v lo len < 2 ^ len :=
  Nat.mod_lt _ (Nat.two_pow_pos len)

@[simp] theorem bitsAt_zero {w : Nat} (lo len : Nat) : bitsAt (0 : BitVec w) lo len = 0 := by simp [bitsAt]

@[simp] theorem leBytes_length (n x : Nat) : (leBytes n x).length = n := by
  induction n generalizing x with
  | zero => rfl
  | succ n ih => simp [leBytes, ih]

/-- The bytes of a number spell it, cut to their count. -/
theorem leNat_leBytes (n x : Nat) : leNat (leBytes n x) = x % 256 ^ n := by
  induction n generalizing x with
  | zero => simp [leBytes, leNat, Nat.mod_one]
  | succ n ih =>
    rw [leBytes, leNat, ih, BitVec.toNat_ofNat, show (256 : Nat) ^ (n + 1) = 256 * 256 ^ n from Nat.pow_succ', Nat.mod_mul]

end Sys2Proof
end

