-- ==== Sys2Proof/Laws/State.lean ====
section
/-!
SUPPORT. One lemma per field per update of the state, so that no later proof unfolds a record update; and what the register
operations read back.
-/
namespace Sys2Proof.Machine

/-! ## The whole state -/

@[simp] theorem State.onPkg_pk (s : State) (f : Pkg → Pkg) : (s.onPkg f).pk = f s.pk := (rfl)
@[simp] theorem State.onPkg_pending (s : State) (f : Pkg → Pkg) : (s.onPkg f).pending = s.pending := (rfl)
@[simp] theorem State.onClus_pk (s : State) (f : Clus → Clus) : (s.onClus f).pk = s.pk.onClus f := (rfl)
@[simp] theorem State.onClus_pending (s : State) (f : Clus → Clus) : (s.onClus f).pending = s.pending := (rfl)

/-! ## The package -/

@[simp] theorem Pkg.onClus_cl (k : Pkg) (f : Clus → Clus) : (k.onClus f).cl = f k.cl := (rfl)
@[simp] theorem Pkg.onClus_net (k : Pkg) (f : Clus → Clus) : (k.onClus f).net = k.net := (rfl)
@[simp] theorem Pkg.onClus_hbm (k : Pkg) (f : Clus → Clus) : (k.onClus f).hbm = k.hbm := (rfl)
@[simp] theorem Pkg.onClus_fab (k : Pkg) (f : Clus → Clus) : (k.onClus f).fab = k.fab := (rfl)
@[simp] theorem Pkg.onClus_att (k : Pkg) (f : Clus → Clus) : (k.onClus f).att = k.att := (rfl)
@[simp] theorem Pkg.onClus_jobs (k : Pkg) (f : Clus → Clus) : (k.onClus f).jobs = k.jobs := (rfl)
@[simp] theorem Pkg.onClus_ckpts (k : Pkg) (f : Clus → Clus) : (k.onClus f).ckpts = k.ckpts := (rfl)
@[simp] theorem Pkg.onClus_bi (k : Pkg) (f : Clus → Clus) : (k.onClus f).bi = k.bi := (rfl)
@[simp] theorem Pkg.onClus_pw (k : Pkg) (f : Clus → Clus) : (k.onClus f).pw = k.pw := (rfl)
@[simp] theorem Pkg.onClus_bu (k : Pkg) (f : Clus → Clus) : (k.onClus f).bu = k.bu := (rfl)
@[simp] theorem Pkg.onClus_fw (k : Pkg) (f : Clus → Clus) : (k.onClus f).fw = k.fw := (rfl)
@[simp] theorem Pkg.onClus_sec (k : Pkg) (f : Clus → Clus) : (k.onClus f).sec = k.sec := (rfl)
@[simp] theorem Pkg.onNet_cl (k : Pkg) (f : NetS → NetS) : (k.onNet f).cl = k.cl := (rfl)
@[simp] theorem Pkg.onNet_net (k : Pkg) (f : NetS → NetS) : (k.onNet f).net = f k.net := (rfl)
@[simp] theorem Pkg.onNet_hbm (k : Pkg) (f : NetS → NetS) : (k.onNet f).hbm = k.hbm := (rfl)
@[simp] theorem Pkg.onNet_fab (k : Pkg) (f : NetS → NetS) : (k.onNet f).fab = k.fab := (rfl)
@[simp] theorem Pkg.onNet_att (k : Pkg) (f : NetS → NetS) : (k.onNet f).att = k.att := (rfl)
@[simp] theorem Pkg.onNet_jobs (k : Pkg) (f : NetS → NetS) : (k.onNet f).jobs = k.jobs := (rfl)
@[simp] theorem Pkg.onNet_ckpts (k : Pkg) (f : NetS → NetS) : (k.onNet f).ckpts = k.ckpts := (rfl)
@[simp] theorem Pkg.onNet_bi (k : Pkg) (f : NetS → NetS) : (k.onNet f).bi = k.bi := (rfl)
@[simp] theorem Pkg.onNet_pw (k : Pkg) (f : NetS → NetS) : (k.onNet f).pw = k.pw := (rfl)
@[simp] theorem Pkg.onNet_bu (k : Pkg) (f : NetS → NetS) : (k.onNet f).bu = k.bu := (rfl)
@[simp] theorem Pkg.onNet_fw (k : Pkg) (f : NetS → NetS) : (k.onNet f).fw = k.fw := (rfl)
@[simp] theorem Pkg.onNet_sec (k : Pkg) (f : NetS → NetS) : (k.onNet f).sec = k.sec := (rfl)
@[simp] theorem Pkg.onHbm_cl (k : Pkg) (f : HbmS → HbmS) : (k.onHbm f).cl = k.cl := (rfl)
@[simp] theorem Pkg.onHbm_net (k : Pkg) (f : HbmS → HbmS) : (k.onHbm f).net = k.net := (rfl)
@[simp] theorem Pkg.onHbm_hbm (k : Pkg) (f : HbmS → HbmS) : (k.onHbm f).hbm = f k.hbm := (rfl)
@[simp] theorem Pkg.onHbm_fab (k : Pkg) (f : HbmS → HbmS) : (k.onHbm f).fab = k.fab := (rfl)
@[simp] theorem Pkg.onHbm_att (k : Pkg) (f : HbmS → HbmS) : (k.onHbm f).att = k.att := (rfl)
@[simp] theorem Pkg.onHbm_jobs (k : Pkg) (f : HbmS → HbmS) : (k.onHbm f).jobs = k.jobs := (rfl)
@[simp] theorem Pkg.onHbm_ckpts (k : Pkg) (f : HbmS → HbmS) : (k.onHbm f).ckpts = k.ckpts := (rfl)
@[simp] theorem Pkg.onHbm_bi (k : Pkg) (f : HbmS → HbmS) : (k.onHbm f).bi = k.bi := (rfl)
@[simp] theorem Pkg.onHbm_pw (k : Pkg) (f : HbmS → HbmS) : (k.onHbm f).pw = k.pw := (rfl)
@[simp] theorem Pkg.onHbm_bu (k : Pkg) (f : HbmS → HbmS) : (k.onHbm f).bu = k.bu := (rfl)
@[simp] theorem Pkg.onHbm_fw (k : Pkg) (f : HbmS → HbmS) : (k.onHbm f).fw = k.fw := (rfl)
@[simp] theorem Pkg.onHbm_sec (k : Pkg) (f : HbmS → HbmS) : (k.onHbm f).sec = k.sec := (rfl)
@[simp] theorem Pkg.onFab_cl (k : Pkg) (f : FabS → FabS) : (k.onFab f).cl = k.cl := (rfl)
@[simp] theorem Pkg.onFab_net (k : Pkg) (f : FabS → FabS) : (k.onFab f).net = k.net := (rfl)
@[simp] theorem Pkg.onFab_hbm (k : Pkg) (f : FabS → FabS) : (k.onFab f).hbm = k.hbm := (rfl)
@[simp] theorem Pkg.onFab_fab (k : Pkg) (f : FabS → FabS) : (k.onFab f).fab = f k.fab := (rfl)
@[simp] theorem Pkg.onFab_att (k : Pkg) (f : FabS → FabS) : (k.onFab f).att = k.att := (rfl)
@[simp] theorem Pkg.onFab_jobs (k : Pkg) (f : FabS → FabS) : (k.onFab f).jobs = k.jobs := (rfl)
@[simp] theorem Pkg.onFab_ckpts (k : Pkg) (f : FabS → FabS) : (k.onFab f).ckpts = k.ckpts := (rfl)
@[simp] theorem Pkg.onFab_bi (k : Pkg) (f : FabS → FabS) : (k.onFab f).bi = k.bi := (rfl)
@[simp] theorem Pkg.onFab_pw (k : Pkg) (f : FabS → FabS) : (k.onFab f).pw = k.pw := (rfl)
@[simp] theorem Pkg.onFab_bu (k : Pkg) (f : FabS → FabS) : (k.onFab f).bu = k.bu := (rfl)
@[simp] theorem Pkg.onFab_fw (k : Pkg) (f : FabS → FabS) : (k.onFab f).fw = k.fw := (rfl)
@[simp] theorem Pkg.onFab_sec (k : Pkg) (f : FabS → FabS) : (k.onFab f).sec = k.sec := (rfl)
@[simp] theorem Pkg.onAtt_cl (k : Pkg) (f : AttS → AttS) : (k.onAtt f).cl = k.cl := (rfl)
@[simp] theorem Pkg.onAtt_net (k : Pkg) (f : AttS → AttS) : (k.onAtt f).net = k.net := (rfl)
@[simp] theorem Pkg.onAtt_hbm (k : Pkg) (f : AttS → AttS) : (k.onAtt f).hbm = k.hbm := (rfl)
@[simp] theorem Pkg.onAtt_fab (k : Pkg) (f : AttS → AttS) : (k.onAtt f).fab = k.fab := (rfl)
@[simp] theorem Pkg.onAtt_att (k : Pkg) (f : AttS → AttS) : (k.onAtt f).att = f k.att := (rfl)
@[simp] theorem Pkg.onAtt_jobs (k : Pkg) (f : AttS → AttS) : (k.onAtt f).jobs = k.jobs := (rfl)
@[simp] theorem Pkg.onAtt_ckpts (k : Pkg) (f : AttS → AttS) : (k.onAtt f).ckpts = k.ckpts := (rfl)
@[simp] theorem Pkg.onAtt_bi (k : Pkg) (f : AttS → AttS) : (k.onAtt f).bi = k.bi := (rfl)
@[simp] theorem Pkg.onAtt_pw (k : Pkg) (f : AttS → AttS) : (k.onAtt f).pw = k.pw := (rfl)
@[simp] theorem Pkg.onAtt_bu (k : Pkg) (f : AttS → AttS) : (k.onAtt f).bu = k.bu := (rfl)
@[simp] theorem Pkg.onAtt_fw (k : Pkg) (f : AttS → AttS) : (k.onAtt f).fw = k.fw := (rfl)
@[simp] theorem Pkg.onAtt_sec (k : Pkg) (f : AttS → AttS) : (k.onAtt f).sec = k.sec := (rfl)
@[simp] theorem Pkg.onBi_cl (k : Pkg) (f : BiS → BiS) : (k.onBi f).cl = k.cl := (rfl)
@[simp] theorem Pkg.onBi_net (k : Pkg) (f : BiS → BiS) : (k.onBi f).net = k.net := (rfl)
@[simp] theorem Pkg.onBi_hbm (k : Pkg) (f : BiS → BiS) : (k.onBi f).hbm = k.hbm := (rfl)
@[simp] theorem Pkg.onBi_fab (k : Pkg) (f : BiS → BiS) : (k.onBi f).fab = k.fab := (rfl)
@[simp] theorem Pkg.onBi_att (k : Pkg) (f : BiS → BiS) : (k.onBi f).att = k.att := (rfl)
@[simp] theorem Pkg.onBi_jobs (k : Pkg) (f : BiS → BiS) : (k.onBi f).jobs = k.jobs := (rfl)
@[simp] theorem Pkg.onBi_ckpts (k : Pkg) (f : BiS → BiS) : (k.onBi f).ckpts = k.ckpts := (rfl)
@[simp] theorem Pkg.onBi_bi (k : Pkg) (f : BiS → BiS) : (k.onBi f).bi = f k.bi := (rfl)
@[simp] theorem Pkg.onBi_pw (k : Pkg) (f : BiS → BiS) : (k.onBi f).pw = k.pw := (rfl)
@[simp] theorem Pkg.onBi_bu (k : Pkg) (f : BiS → BiS) : (k.onBi f).bu = k.bu := (rfl)
@[simp] theorem Pkg.onBi_fw (k : Pkg) (f : BiS → BiS) : (k.onBi f).fw = k.fw := (rfl)
@[simp] theorem Pkg.onBi_sec (k : Pkg) (f : BiS → BiS) : (k.onBi f).sec = k.sec := (rfl)
@[simp] theorem Pkg.onPw_cl (k : Pkg) (f : PwS → PwS) : (k.onPw f).cl = k.cl := (rfl)
@[simp] theorem Pkg.onPw_net (k : Pkg) (f : PwS → PwS) : (k.onPw f).net = k.net := (rfl)
@[simp] theorem Pkg.onPw_hbm (k : Pkg) (f : PwS → PwS) : (k.onPw f).hbm = k.hbm := (rfl)
@[simp] theorem Pkg.onPw_fab (k : Pkg) (f : PwS → PwS) : (k.onPw f).fab = k.fab := (rfl)
@[simp] theorem Pkg.onPw_att (k : Pkg) (f : PwS → PwS) : (k.onPw f).att = k.att := (rfl)
@[simp] theorem Pkg.onPw_jobs (k : Pkg) (f : PwS → PwS) : (k.onPw f).jobs = k.jobs := (rfl)
@[simp] theorem Pkg.onPw_ckpts (k : Pkg) (f : PwS → PwS) : (k.onPw f).ckpts = k.ckpts := (rfl)
@[simp] theorem Pkg.onPw_bi (k : Pkg) (f : PwS → PwS) : (k.onPw f).bi = k.bi := (rfl)
@[simp] theorem Pkg.onPw_pw (k : Pkg) (f : PwS → PwS) : (k.onPw f).pw = f k.pw := (rfl)
@[simp] theorem Pkg.onPw_bu (k : Pkg) (f : PwS → PwS) : (k.onPw f).bu = k.bu := (rfl)
@[simp] theorem Pkg.onPw_fw (k : Pkg) (f : PwS → PwS) : (k.onPw f).fw = k.fw := (rfl)
@[simp] theorem Pkg.onPw_sec (k : Pkg) (f : PwS → PwS) : (k.onPw f).sec = k.sec := (rfl)
@[simp] theorem Pkg.onBu_cl (k : Pkg) (f : BuS → BuS) : (k.onBu f).cl = k.cl := (rfl)
@[simp] theorem Pkg.onBu_net (k : Pkg) (f : BuS → BuS) : (k.onBu f).net = k.net := (rfl)
@[simp] theorem Pkg.onBu_hbm (k : Pkg) (f : BuS → BuS) : (k.onBu f).hbm = k.hbm := (rfl)
@[simp] theorem Pkg.onBu_fab (k : Pkg) (f : BuS → BuS) : (k.onBu f).fab = k.fab := (rfl)
@[simp] theorem Pkg.onBu_att (k : Pkg) (f : BuS → BuS) : (k.onBu f).att = k.att := (rfl)
@[simp] theorem Pkg.onBu_jobs (k : Pkg) (f : BuS → BuS) : (k.onBu f).jobs = k.jobs := (rfl)
@[simp] theorem Pkg.onBu_ckpts (k : Pkg) (f : BuS → BuS) : (k.onBu f).ckpts = k.ckpts := (rfl)
@[simp] theorem Pkg.onBu_bi (k : Pkg) (f : BuS → BuS) : (k.onBu f).bi = k.bi := (rfl)
@[simp] theorem Pkg.onBu_pw (k : Pkg) (f : BuS → BuS) : (k.onBu f).pw = k.pw := (rfl)
@[simp] theorem Pkg.onBu_bu (k : Pkg) (f : BuS → BuS) : (k.onBu f).bu = f k.bu := (rfl)
@[simp] theorem Pkg.onBu_fw (k : Pkg) (f : BuS → BuS) : (k.onBu f).fw = k.fw := (rfl)
@[simp] theorem Pkg.onBu_sec (k : Pkg) (f : BuS → BuS) : (k.onBu f).sec = k.sec := (rfl)
@[simp] theorem Pkg.onFw_cl (k : Pkg) (f : FwS → FwS) : (k.onFw f).cl = k.cl := (rfl)
@[simp] theorem Pkg.onFw_net (k : Pkg) (f : FwS → FwS) : (k.onFw f).net = k.net := (rfl)
@[simp] theorem Pkg.onFw_hbm (k : Pkg) (f : FwS → FwS) : (k.onFw f).hbm = k.hbm := (rfl)
@[simp] theorem Pkg.onFw_fab (k : Pkg) (f : FwS → FwS) : (k.onFw f).fab = k.fab := (rfl)
@[simp] theorem Pkg.onFw_att (k : Pkg) (f : FwS → FwS) : (k.onFw f).att = k.att := (rfl)
@[simp] theorem Pkg.onFw_jobs (k : Pkg) (f : FwS → FwS) : (k.onFw f).jobs = k.jobs := (rfl)
@[simp] theorem Pkg.onFw_ckpts (k : Pkg) (f : FwS → FwS) : (k.onFw f).ckpts = k.ckpts := (rfl)
@[simp] theorem Pkg.onFw_bi (k : Pkg) (f : FwS → FwS) : (k.onFw f).bi = k.bi := (rfl)
@[simp] theorem Pkg.onFw_pw (k : Pkg) (f : FwS → FwS) : (k.onFw f).pw = k.pw := (rfl)
@[simp] theorem Pkg.onFw_bu (k : Pkg) (f : FwS → FwS) : (k.onFw f).bu = k.bu := (rfl)
@[simp] theorem Pkg.onFw_fw (k : Pkg) (f : FwS → FwS) : (k.onFw f).fw = f k.fw := (rfl)
@[simp] theorem Pkg.onFw_sec (k : Pkg) (f : FwS → FwS) : (k.onFw f).sec = k.sec := (rfl)
@[simp] theorem Pkg.onSec_cl (k : Pkg) (f : SecS → SecS) : (k.onSec f).cl = k.cl := (rfl)
@[simp] theorem Pkg.onSec_net (k : Pkg) (f : SecS → SecS) : (k.onSec f).net = k.net := (rfl)
@[simp] theorem Pkg.onSec_hbm (k : Pkg) (f : SecS → SecS) : (k.onSec f).hbm = k.hbm := (rfl)
@[simp] theorem Pkg.onSec_fab (k : Pkg) (f : SecS → SecS) : (k.onSec f).fab = k.fab := (rfl)
@[simp] theorem Pkg.onSec_att (k : Pkg) (f : SecS → SecS) : (k.onSec f).att = k.att := (rfl)
@[simp] theorem Pkg.onSec_jobs (k : Pkg) (f : SecS → SecS) : (k.onSec f).jobs = k.jobs := (rfl)
@[simp] theorem Pkg.onSec_ckpts (k : Pkg) (f : SecS → SecS) : (k.onSec f).ckpts = k.ckpts := (rfl)
@[simp] theorem Pkg.onSec_bi (k : Pkg) (f : SecS → SecS) : (k.onSec f).bi = k.bi := (rfl)
@[simp] theorem Pkg.onSec_pw (k : Pkg) (f : SecS → SecS) : (k.onSec f).pw = k.pw := (rfl)
@[simp] theorem Pkg.onSec_bu (k : Pkg) (f : SecS → SecS) : (k.onSec f).bu = k.bu := (rfl)
@[simp] theorem Pkg.onSec_fw (k : Pkg) (f : SecS → SecS) : (k.onSec f).fw = k.fw := (rfl)
@[simp] theorem Pkg.onSec_sec (k : Pkg) (f : SecS → SecS) : (k.onSec f).sec = f k.sec := (rfl)
@[simp] theorem Pkg.onCore_cl (k : Pkg) (f : Core → Core) : (k.onCore f).cl = k.cl.onCore f := (rfl)
@[simp] theorem Pkg.onCore_net (k : Pkg) (f : Core → Core) : (k.onCore f).net = k.net := (rfl)
@[simp] theorem Pkg.onCore_hbm (k : Pkg) (f : Core → Core) : (k.onCore f).hbm = k.hbm := (rfl)
@[simp] theorem Pkg.onCore_fab (k : Pkg) (f : Core → Core) : (k.onCore f).fab = k.fab := (rfl)
@[simp] theorem Pkg.onCore_att (k : Pkg) (f : Core → Core) : (k.onCore f).att = k.att := (rfl)
@[simp] theorem Pkg.onCore_jobs (k : Pkg) (f : Core → Core) : (k.onCore f).jobs = k.jobs := (rfl)
@[simp] theorem Pkg.onCore_ckpts (k : Pkg) (f : Core → Core) : (k.onCore f).ckpts = k.ckpts := (rfl)
@[simp] theorem Pkg.onCore_bi (k : Pkg) (f : Core → Core) : (k.onCore f).bi = k.bi := (rfl)
@[simp] theorem Pkg.onCore_pw (k : Pkg) (f : Core → Core) : (k.onCore f).pw = k.pw := (rfl)
@[simp] theorem Pkg.onCore_bu (k : Pkg) (f : Core → Core) : (k.onCore f).bu = k.bu := (rfl)
@[simp] theorem Pkg.onCore_fw (k : Pkg) (f : Core → Core) : (k.onCore f).fw = k.fw := (rfl)
@[simp] theorem Pkg.onCore_sec (k : Pkg) (f : Core → Core) : (k.onCore f).sec = k.sec := (rfl)

/-! ## The clusters -/

@[simp] theorem Clus.onCore_core (m : Clus) (f : Core → Core) : (m.onCore f).core = f m.core := (rfl)
@[simp] theorem Clus.onCore_tt (m : Clus) (f : Core → Core) : (m.onCore f).tt = m.tt := (rfl)
@[simp] theorem Clus.onCore_mc (m : Clus) (f : Core → Core) : (m.onCore f).mc = m.mc := (rfl)
@[simp] theorem Clus.onCore_vc (m : Clus) (f : Core → Core) : (m.onCore f).vc = m.vc := (rfl)
@[simp] theorem Clus.onCore_sc (m : Clus) (f : Core → Core) : (m.onCore f).sc = m.sc := (rfl)
@[simp] theorem Clus.onCore_sa (m : Clus) (f : Core → Core) : (m.onCore f).sa = m.sa := (rfl)
@[simp] theorem Clus.onCore_st (m : Clus) (f : Core → Core) : (m.onCore f).st = m.st := (rfl)
@[simp] theorem Clus.onCore_msg (m : Clus) (f : Core → Core) : (m.onCore f).msg = m.msg := (rfl)
@[simp] theorem Clus.onCore_tab (m : Clus) (f : Core → Core) : (m.onCore f).tab = m.tab := (rfl)

/-! ## Registers -/

@[simp] theorem Core.wr_tick (c : Core) (page off : Nat) (v : W32) : (c.wr page off v).tick = c.tick := (rfl)
@[simp] theorem Core.wr_cycle (c : Core) (page off : Nat) (v : W32) : (c.wr page off v).cycle = c.cycle := (rfl)
@[simp] theorem Core.wr_cpt (c : Core) (page off : Nat) (v : W32) : (c.wr page off v).cpt = c.cpt := (rfl)
@[simp] theorem Core.wr_grade (c : Core) (page off : Nat) (v : W32) : (c.wr page off v).grade = c.grade := (rfl)
@[simp] theorem Core.wr_win (c : Core) (page off : Nat) (v : W32) : (c.wr page off v).win = c.win := (rfl)
@[simp] theorem Core.wr_records (c : Core) (page off : Nat) (v : W32) : (c.wr page off v).records = c.records := (rfl)
@[simp] theorem Core.wr_standby (c : Core) (page off : Nat) (v : W32) : (c.wr page off v).standby = c.standby := (rfl)
@[simp] theorem Core.wr_freeCtr (c : Core) (page off : Nat) (v : W32) : (c.wr page off v).freeCtr = c.freeCtr := (rfl)
@[simp] theorem Core.setFld_tick (c : Core) (page off lo len x : Nat) : (c.setFld page off lo len x).tick = c.tick := (rfl)
@[simp] theorem Core.setFld_cycle (c : Core) (page off lo len x : Nat) : (c.setFld page off lo len x).cycle = c.cycle := (rfl)
@[simp] theorem Core.setFld_cpt (c : Core) (page off lo len x : Nat) : (c.setFld page off lo len x).cpt = c.cpt := (rfl)
@[simp] theorem Core.setFld_grade (c : Core) (page off lo len x : Nat) : (c.setFld page off lo len x).grade = c.grade := (rfl)
@[simp] theorem Core.setFld_win (c : Core) (page off lo len x : Nat) : (c.setFld page off lo len x).win = c.win := (rfl)
@[simp] theorem Core.setFld_records (c : Core) (page off lo len x : Nat) : (c.setFld page off lo len x).records = c.records := (rfl)
@[simp] theorem Core.setFld_standby (c : Core) (page off lo len x : Nat) : (c.setFld page off lo len x).standby = c.standby := (rfl)
@[simp] theorem Core.setFld_freeCtr (c : Core) (page off lo len x : Nat) : (c.setFld page off lo len x).freeCtr = c.freeCtr := (rfl)
@[simp] theorem Core.incSat_tick (c : Core) (page off n : Nat) : (c.incSat page off n).tick = c.tick := (rfl)
@[simp] theorem Core.incSat_cycle (c : Core) (page off n : Nat) : (c.incSat page off n).cycle = c.cycle := (rfl)
@[simp] theorem Core.incSat_cpt (c : Core) (page off n : Nat) : (c.incSat page off n).cpt = c.cpt := (rfl)
@[simp] theorem Core.incSat_grade (c : Core) (page off n : Nat) : (c.incSat page off n).grade = c.grade := (rfl)
@[simp] theorem Core.incSat_win (c : Core) (page off n : Nat) : (c.incSat page off n).win = c.win := (rfl)
@[simp] theorem Core.incSat_records (c : Core) (page off n : Nat) : (c.incSat page off n).records = c.records := (rfl)
@[simp] theorem Core.incSat_standby (c : Core) (page off n : Nat) : (c.incSat page off n).standby = c.standby := (rfl)
@[simp] theorem Core.incSat_freeCtr (c : Core) (page off n : Nat) : (c.incSat page off n).freeCtr = c.freeCtr := (rfl)
@[simp] theorem Core.incWrap_tick (c : Core) (page off n : Nat) : (c.incWrap page off n).tick = c.tick := (rfl)
@[simp] theorem Core.incWrap_cycle (c : Core) (page off n : Nat) : (c.incWrap page off n).cycle = c.cycle := (rfl)
@[simp] theorem Core.incWrap_cpt (c : Core) (page off n : Nat) : (c.incWrap page off n).cpt = c.cpt := (rfl)
@[simp] theorem Core.incWrap_grade (c : Core) (page off n : Nat) : (c.incWrap page off n).grade = c.grade := (rfl)
@[simp] theorem Core.incWrap_win (c : Core) (page off n : Nat) : (c.incWrap page off n).win = c.win := (rfl)
@[simp] theorem Core.incWrap_records (c : Core) (page off n : Nat) : (c.incWrap page off n).records = c.records := (rfl)
@[simp] theorem Core.incWrap_standby (c : Core) (page off n : Nat) : (c.incWrap page off n).standby = c.standby := (rfl)
@[simp] theorem Core.incWrap_freeCtr (c : Core) (page off n : Nat) : (c.incWrap page off n).freeCtr = c.freeCtr := (rfl)
@[simp] theorem Core.wr8_tick (c : Core) (page off v : Nat) : (c.wr8 page off v).tick = c.tick := (rfl)
@[simp] theorem Core.wr8_cycle (c : Core) (page off v : Nat) : (c.wr8 page off v).cycle = c.cycle := (rfl)
@[simp] theorem Core.wr8_cpt (c : Core) (page off v : Nat) : (c.wr8 page off v).cpt = c.cpt := (rfl)
@[simp] theorem Core.wr8_grade (c : Core) (page off v : Nat) : (c.wr8 page off v).grade = c.grade := (rfl)
@[simp] theorem Core.wr8_win (c : Core) (page off v : Nat) : (c.wr8 page off v).win = c.win := (rfl)
@[simp] theorem Core.wr8_records (c : Core) (page off v : Nat) : (c.wr8 page off v).records = c.records := (rfl)
@[simp] theorem Core.wr8_standby (c : Core) (page off v : Nat) : (c.wr8 page off v).standby = c.standby := (rfl)
@[simp] theorem Core.wr8_freeCtr (c : Core) (page off v : Nat) : (c.wr8 page off v).freeCtr = c.freeCtr := (rfl)
@[simp] theorem Core.setErr_tick (c : Core) (page b : Nat) : (c.setErr page b).tick = c.tick := (rfl)
@[simp] theorem Core.setErr_cycle (c : Core) (page b : Nat) : (c.setErr page b).cycle = c.cycle := (rfl)
@[simp] theorem Core.setErr_cpt (c : Core) (page b : Nat) : (c.setErr page b).cpt = c.cpt := (rfl)
@[simp] theorem Core.setErr_grade (c : Core) (page b : Nat) : (c.setErr page b).grade = c.grade := (rfl)
@[simp] theorem Core.setErr_win (c : Core) (page b : Nat) : (c.setErr page b).win = c.win := (rfl)
@[simp] theorem Core.setErr_records (c : Core) (page b : Nat) : (c.setErr page b).records = c.records := (rfl)
@[simp] theorem Core.setErr_standby (c : Core) (page b : Nat) : (c.setErr page b).standby = c.standby := (rfl)
@[simp] theorem Core.setErr_freeCtr (c : Core) (page b : Nat) : (c.setErr page b).freeCtr = c.freeCtr := (rfl)
@[simp] theorem Core.winWr_tick (c : Core) (a : Nat) (l : List Byte) : (c.winWr a l).tick = c.tick := (rfl)
@[simp] theorem Core.winWr_cycle (c : Core) (a : Nat) (l : List Byte) : (c.winWr a l).cycle = c.cycle := (rfl)
@[simp] theorem Core.winWr_cpt (c : Core) (a : Nat) (l : List Byte) : (c.winWr a l).cpt = c.cpt := (rfl)
@[simp] theorem Core.winWr_grade (c : Core) (a : Nat) (l : List Byte) : (c.winWr a l).grade = c.grade := (rfl)
@[simp] theorem Core.winWr_records (c : Core) (a : Nat) (l : List Byte) : (c.winWr a l).records = c.records := (rfl)
@[simp] theorem Core.winWr_standby (c : Core) (a : Nat) (l : List Byte) : (c.winWr a l).standby = c.standby := (rfl)
@[simp] theorem Core.winWr_freeCtr (c : Core) (a : Nat) (l : List Byte) : (c.winWr a l).freeCtr = c.freeCtr := (rfl)
@[simp] theorem Core.winWr_regs (c : Core) (a : Nat) (l : List Byte) : (c.winWr a l).regs = c.regs := (rfl)

/-- A written word reads back, and every other word as before. -/
theorem Core.rd_wr (c : Core) (page off page' off' : Nat) (v : W32) :
    (c.wr page off v).rd page' off' = if regKey page off = regKey page' off' then v else c.rd page' off' := by
  simp only [Core.rd, Core.wr]
  by_cases h : regKey page off = regKey page' off'
  · rw [if_pos h, ← h]; exact kget_kput_same _ _ _ _
  · rw [if_neg h]; exact kget_kput_other _ _ _ _ h

@[simp] theorem Core.rd_wr_same (c : Core) (page off : Nat) (v : W32) : (c.wr page off v).rd page off = v := by
  rw [Core.rd_wr, if_pos rfl]

theorem Core.rd_wr_ne (c : Core) {page off page' off' : Nat} (v : W32) (h : regKey page off ≠ regKey page' off') :
    (c.wr page off v).rd page' off' = c.rd page' off' := by rw [Core.rd_wr, if_neg h]

/-- Words on different pages have different keys. -/
theorem regKey_page_ne {p p' o o' : Nat} (h : p ≠ p') (ho : o < 4096) (ho' : o' < 4096) : regKey p o ≠ regKey p' o' := by
  unfold regKey; omega

/-- Words at different offsets of a page have different keys. -/
theorem regKey_off_ne {p o o' : Nat} (h : o / 4 ≠ o' / 4) : regKey p o ≠ regKey p o' := by
  unfold regKey; omega

/-- A field reads back as it was set. -/
theorem Core.fld_setFld_same (c : Core) (page off lo len x : Nat) (h : lo + len ≤ 32) :
    (c.setFld page off lo len x).fld page off lo len = x % 2 ^ len := by
  simp only [Core.fld, Core.setFld, Core.rd_wr_same, bitsAt_putBits_same _ _ _ _ h]

/-- A field that lies outside the one set reads as before. -/
theorem Core.fld_setFld_ne (c : Core) (page off lo len x lo' len' : Nat) (h : lo' + len' ≤ lo ∨ lo + len ≤ lo') :
    (c.setFld page off lo len x).fld page off lo' len' = c.fld page off lo' len' := by
  simp only [Core.fld, Core.setFld, Core.rd_wr_same, bitsAt_putBits_ne _ _ _ _ _ _ h]

/-- A field of another word reads as before. -/
theorem Core.rd_setFld_ne (c : Core) {page off page' off' : Nat} (lo len x : Nat) (h : regKey page off ≠ regKey page' off') :
    (c.setFld page off lo len x).rd page' off' = c.rd page' off' := Core.rd_wr_ne c _ h

/-- Words written from an offset on: each reads back. -/
theorem Core.rd_wrs (c : Core) (page off : Nat) (l : List W32) (page' off' : Nat) :
    (c.wrs page off l).rd page' off' =
      if regKey page off ≤ regKey page' off' ∧ regKey page' off' < regKey page off + l.length then
        l.getD (regKey page' off' - regKey page off) 0
      else c.rd page' off' := by
  induction l generalizing c off with
  | nil => simp [Core.wrs] <;> omega
  | cons v vs ih =>
    have hk : regKey page (off + 4) = regKey page off + 1 := by unfold regKey; omega
    rw [Core.wrs, ih, hk, Core.rd_wr, List.length_cons]
    by_cases h : regKey page off = regKey page' off'
    · rw [if_neg (by omega), if_pos h, if_pos (by omega), h]; simp
    · by_cases h2 : regKey page off + 1 ≤ regKey page' off' ∧ regKey page' off' < regKey page off + 1 + vs.length
      · rw [if_pos h2, if_pos (by omega)]
        obtain ⟨n, hn⟩ : ∃ n, regKey page' off' - regKey page off = n + 1 := ⟨regKey page' off' - regKey page off - 1, by omega⟩
        rw [hn, show regKey page' off' - (regKey page off + 1) = n by omega]; simp
      · rw [if_neg h2, if_neg h, if_neg (by omega)]

theorem Core.wrs_fields (c : Core) (page off : Nat) (l : List W32) :
    (c.wrs page off l).tick = c.tick ∧ (c.wrs page off l).cycle = c.cycle ∧ (c.wrs page off l).cpt = c.cpt ∧
    (c.wrs page off l).grade = c.grade ∧ (c.wrs page off l).win = c.win ∧ (c.wrs page off l).records = c.records ∧
    (c.wrs page off l).standby = c.standby ∧ (c.wrs page off l).freeCtr = c.freeCtr := by
  induction l generalizing c off with
  | nil => exact ⟨rfl, rfl, rfl, rfl, rfl, rfl, rfl, rfl⟩
  | cons v vs ih => simpa [Core.wrs] using ih (c.wr page off v) (off + 4)

/-- Words cleared from an offset on read as zero, and every other word as before. -/
theorem Core.rd_zero (c : Core) (page off n page' off' : Nat) :
    (c.zero page off n).rd page' off' =
      if regKey page off ≤ regKey page' off' ∧ regKey page' off' < regKey page off + n then 0 else c.rd page' off' := by
  unfold Core.zero
  induction n with
  | zero => simp [iter] <;> omega
  | succ n ih =>
    have hk : regKey page (off + 4 * n) = regKey page off + n := by unfold regKey; omega
    rw [iter, Core.rd_wr, hk, ih]
    by_cases h : regKey page off + n = regKey page' off'
    · rw [if_pos h, if_pos (by omega)]
    · rw [if_neg h]
      by_cases h2 : regKey page off ≤ regKey page' off' ∧ regKey page' off' < regKey page off + n
      · rw [if_pos h2, if_pos (by omega)]
      · rw [if_neg h2, if_neg (by omega)]

/-- Bytes of a window written from an address on: each reads back, and every other byte as before. -/
theorem Core.winRd_winWr (c : Core) (a : Nat) (l : List Byte) (b : Nat) :
    (c.winWr a l).winRd b = if a ≤ b ∧ b < a + l.length then l.getD (b - a) 0 else c.winRd b := kget_kputs _ _ _ _ _

/-- A window run reads back as written. -/
theorem Core.winRds_winWr (c : Core) (a : Nat) (l : List Byte) : (c.winWr a l).winRds a l.length = l := kgets_kputs _ _ _ _

/-! ## Canonical form -/

theorem Core.regsWf_wr (c : Core) (page off : Nat) (v : W32) (h : c.regsWf = true) : (c.wr page off v).regsWf = true :=
  kwf_kput (resetWord c.grade) _ _ _ h

theorem Core.regsWf_resetPage (c : Core) (page off : Nat) (h : c.regsWf = true) : (c.resetPage page off).regsWf = true :=
  kwf_kclear (resetWord c.grade) _ _ _ h

theorem Core.winWf_winWr (c : Core) (a : Nat) (l : List Byte) (h : c.winWf = true) : (c.winWr a l).winWf = true :=
  kwf_kputs _ _ _ _ h

theorem Core.regsWf_wrs (c : Core) (page off : Nat) (l : List W32) (h : c.regsWf = true) : (c.wrs page off l).regsWf = true := by
  induction l generalizing c off with
  | nil => exact h
  | cons v vs ih => exact ih _ _ (Core.regsWf_wr _ _ _ _ h)

/-! ## The frames that statements use -/

theorem ksets_kput {α : Type} [DecidableEq α] (d : α) (m : KMap α) (k : Nat) (v : α) : ksets d m (kput m d k v) k v := by
  intro j
  rw [kget_kput]
  by_cases h : j = k
  · rw [if_pos h, if_pos h.symm]
  · rw [if_neg h, if_neg (Ne.symm h)]

theorem Core.sets_wr (c : Core) (page off : Nat) (v : W32) : c.sets (c.wr page off v) page off v :=
  ⟨rfl, Core.rd_wr_same _ _ _ _, fun _ _ h => Core.rd_wr_ne _ _ (Ne.symm h)⟩

theorem Core.setsFld_setFld (c : Core) (page off lo len v : Nat) (h : lo + len ≤ 32) (hv : v < 2 ^ len) :
    c.setsFld (c.setFld page off lo len v) page off lo len v :=
  ⟨rfl, by rw [Core.fld_setFld_same _ _ _ _ _ _ h, Nat.mod_eq_of_lt hv],
    fun i _ hi => by rw [Core.setFld, Core.rd_wr_same, bitAt_putBits _ _ _ _ _ (by omega)]; simp only [if_neg (show ¬(lo ≤ i ∧ i < lo + len) by omega)],
    fun _ _ h' => Core.rd_wr_ne _ _ (Ne.symm h')⟩

theorem Core.only_wr (c : Core) (page off : Nat) (v : W32) : c.only (c.wr page off v) [regKey page off] :=
  ⟨rfl, fun p o h => Core.rd_wr_ne _ _ (fun e => h (by simp [e]))⟩

/-- Every memory of the state after reset is in canonical form. -/
theorem Memory.wf_reset : Memory.wf State.reset = true := rfl

end Sys2Proof.Machine
end

