-- ==== Sys2Proof/Laws/Ops.lean ====
section
/-!
SUPPORT. What the shared operations do, said once: how a statement's completion is shown, events, runs of slots and region
descriptors.
-/
namespace Sys2Proof.Machine

/-! ## Completion -/

theorem does_of {c : Instr} {s : State} {P : Pkg → Prop} {k : Pkg} (h : exec c s = .next { s with pk := k }) (p : P k) :
    does c s P := ⟨k, h, p⟩

theorem doesClus_of {c : Instr} {s : State} {P : Clus → Prop} {m : Clus}
    (h : exec c s = .next { s with pk := { s.pk with cl := m } }) (p : P m) : doesClus c s P := ⟨m, h, p⟩

theorem doesCore_of {c : Instr} {s : State} {P : Core → Prop} {x : Core}
    (h : exec c s = .next { s with pk := { s.pk with cl := { s.pk.cl with core := x } } }) (p : P x) : doesCore c s P := ⟨x, h, p⟩

theorem iter_succ {σ : Type} (n : Nat) (f : Nat → σ → σ) (x : σ) : iter (n + 1) f x = f n (iter n f x) := (rfl)

/-- Equal clocks have equal parts. -/
theorem Core.clock_parts {x y : Core} (h : x.clock = y.clock) :
    x.cycle = y.cycle ∧ x.tick = y.tick ∧ x.cpt = y.cpt ∧ x.grade = y.grade := by
  simp only [Core.clock, Prod.mk.injEq] at h; exact ⟨h.2.1, h.1, h.2.2.1, h.2.2.2⟩

/-! ## Register words and events -/

theorem Core.wrs_eq (c : Core) (page off : Nat) (l : List W32) : ∃ r, c.wrs page off l = { c with regs := r } := by
  induction l generalizing c off with
  | nil => exact ⟨_, rfl⟩
  | cons v vs ih =>
    obtain ⟨r, h⟩ := ih (c.wr page off v) (off + 4)
    exact ⟨r, h⟩

theorem Core.zero_eq (c : Core) (page off n : Nat) : ∃ r, c.zero page off n = { c with regs := r } := by
  unfold Core.zero
  induction n with
  | zero => exact ⟨_, rfl⟩
  | succ n ih =>
    obtain ⟨r, h⟩ := ih
    rw [iter_succ, h]
    exact ⟨_, rfl⟩

theorem ite_core_eq {b : Prop} [Decidable b] {c x y : Core} (hx : ∃ r, x = { c with regs := r })
    (hy : ∃ r, y = { c with regs := r }) : ∃ r, (if b then x else y) = { c with regs := r } := by split <;> assumption

theorem eq_core_trans {c x y : Core} (hx : ∃ r, x = { c with regs := r }) (hy : ∃ r, y = { x with regs := r }) :
    ∃ r, y = { c with regs := r } := by
  obtain ⟨r, h⟩ := hx; obtain ⟨q, h'⟩ := hy; subst h; exact ⟨q, h'⟩

/-- Noting an event changes register words only. -/
theorem Core.note_eq (c : Core) (page code sev job detail : Nat) :
    ∃ r, c.note page code sev job detail = { c with regs := r } := by
  have h1 : ∃ r, (if pageClass page = code / 256 then c.setErr page (eventBit (code % 256)) else c) = { c with regs := r } :=
    ite_core_eq ⟨_, rfl⟩ ⟨_, rfl⟩
  unfold Core.note
  generalize (if pageClass page = code / 256 then c.setErr page (eventBit (code % 256)) else c) = x at *
  have h2 := eq_core_trans h1 (⟨_, rfl⟩ : ∃ r, x.incSat page 0x2C 1 = { x with regs := r })
  dsimp only
  generalize x.incSat page 0x2C 1 = y at *
  exact ite_core_eq h2 (eq_core_trans h2 (Core.wrs_eq _ _ _ _))

/-- An event with a record changes register words and sends one record. -/
theorem Core.record_eq (c : Core) (page code sev job place detail : Nat) (inj : Bool) :
    ∃ r e, c.record page code sev job place detail inj = { c with regs := r, records := c.records ++ [e] } ∧
      e.code = BitVec.ofNat 16 code ∧ e.severity = BitVec.ofNat 8 sev ∧ e.job = BitVec.ofNat 4 job ∧
      e.place = BitVec.ofNat 32 place ∧ e.injected = inj ∧ e.tick = c.tick := by
  obtain ⟨r, h⟩ := Core.note_eq c page code sev job detail
  unfold Core.record
  rw [h]
  exact ⟨r, _, rfl, rfl, rfl, rfl, rfl, rfl, rfl⟩

theorem eventBit_lt (n : Nat) : eventBit (n % 256) < 256 := by
  unfold eventBit; split <;> omega

theorem Core.rd_setErr (c : Core) (page b p o : Nat) (hb : b < 256)
    (h : regKey p o < page * 1024 + 6 ∨ page * 1024 + 16 ≤ regKey p o) : (c.setErr page b).rd p o = c.rd p o := by
  unfold Core.setErr
  refine Core.rd_wr_ne _ _ (fun e => ?_)
  rw [← e] at h
  unfold regKey at h
  omega

/-- Noting an event on a page changes no word outside the header fields 0x018–0x03C of that page. -/
theorem Core.rd_note (c : Core) (page code sev job detail p o : Nat)
    (h : regKey p o < page * 1024 + 6 ∨ page * 1024 + 16 ≤ regKey p o) :
    (c.note page code sev job detail).rd p o = c.rd p o := by
  have h1 : (if pageClass page = code / 256 then c.setErr page (eventBit (code % 256)) else c).rd p o = c.rd p o := by
    split
    · exact Core.rd_setErr _ _ _ _ _ (eventBit_lt _) h
    · rfl
  unfold Core.note
  generalize (if pageClass page = code / 256 then c.setErr page (eventBit (code % 256)) else c) = x at *
  have h2 : (x.incSat page 0x2C 1).rd p o = c.rd p o := by
    rw [← h1]
    refine Core.rd_wr_ne _ _ (fun e => ?_)
    rw [← e] at h
    unfold regKey at h
    omega
  dsimp only
  generalize x.incSat page 0x2C 1 = y at *
  split
  · exact h2
  · rw [Core.rd_wrs, if_neg, h2]
    have : regKey page 0x30 = page * 1024 + 12 := by unfold regKey; omega
    rw [this]
    simp only [List.length_cons, List.length_nil]
    omega

theorem Core.rd_record (c : Core) (page code sev job place detail : Nat) (inj : Bool) (p o : Nat)
    (h : regKey p o < page * 1024 + 6 ∨ page * 1024 + 16 ≤ regKey p o) :
    (c.record page code sev job place detail inj).rd p o = c.rd p o := Core.rd_note c page code sev job detail p o h

/-- Words cleared one after another. -/
theorem Core.clears_zero (c : Core) (page off n : Nat) (h4 : off % 4 = 0) : c.clears (c.zero page off n) page (wordsFrom off n) := by
  obtain ⟨r, h⟩ := Core.zero_eq c page off n
  refine ⟨by rw [h], fun o ho => ?_, fun p o ho => ?_⟩
  · simp only [wordsFrom, List.mem_map, List.mem_range] at ho
    obtain ⟨i, hi, rfl⟩ := ho
    rw [Core.rd_zero, if_pos]
    unfold regKey; omega
  · rw [Core.rd_zero, if_neg]
    intro ⟨h1, h2⟩
    apply ho
    simp only [wordsFrom, List.map_map, List.mem_map, List.mem_range, Function.comp]
    refine ⟨regKey p o - regKey page off, by omega, ?_⟩
    unfold regKey at *; omega

/-- Two clears of one page. -/
theorem Core.clears_append {x y z : Core} {page : Nat} {a b : List Nat} (h : x.clears y page a) (h' : y.clears z page b) :
    x.clears z page (a ++ b) := by
  obtain ⟨h1, h2, h3⟩ := h
  obtain ⟨g1, g2, g3⟩ := h'
  refine ⟨?_, fun o ho => ?_, fun p o ho => ?_⟩
  · obtain ⟨r, rfl⟩ : ∃ r, y = { x with regs := r } := ⟨_, h1⟩
    exact g1
  · by_cases hb : regKey page o ∈ b.map (regKey page)
    · obtain ⟨q, hq, he⟩ := List.mem_map.1 hb
      have := g2 q hq
      unfold Core.rd at this ⊢
      rw [← he]; exact this
    · rw [g3 _ _ hb]
      rcases List.mem_append.1 ho with ho | ho
      · exact h2 o ho
      · exact absurd (List.mem_map.2 ⟨o, ho, rfl⟩) hb
  · simp only [List.map_append, List.mem_append, not_or] at ho
    rw [g3 _ _ ho.2, h3 _ _ ho.1]

/-- Arming an injection: the selector and the bit are set. -/
theorem Core.arms_setFld (c : Core) (page b len sel : Nat) (hb : b < 8) (hl : 8 + len ≤ 32) (hs : sel < 2 ^ len) :
    c.arms ((c.setFld page 0x28 8 len sel).setFld page 0x28 b 1 1) page b len sel := by
  have e : ((c.setFld page 0x28 8 len sel).setFld page 0x28 b 1 1).rd page 0x28 =
      putBits (putBits (c.rd page 0x28) 8 len sel) b 1 1 := by
    unfold Core.setFld; rw [Core.rd_wr_same, Core.rd_wr_same]
  refine ⟨rfl, ?_, ?_, fun i hi h1 h2 => ?_, fun p o h => ?_⟩
  · rw [e, bitAt_putBits _ _ _ _ _ (by omega)]; simp
  · rw [e, bitsAt_putBits_ne _ _ _ _ _ _ (Or.inr (by omega)), bitsAt_putBits_same _ _ _ _ hl, Nat.mod_eq_of_lt hs]
  · rw [e, bitAt_putBits _ _ _ _ _ hi, bitAt_putBits _ _ _ _ _ hi]
    rw [if_neg (by omega), if_neg (by omega)]
  · rw [Core.rd_setFld_ne _ _ _ _ (Ne.symm h), Core.rd_setFld_ne _ _ _ _ (Ne.symm h)]

theorem Core.arms_setFld0 (c : Core) (page b : Nat) (hb : b < 8) : c.arms (c.setFld page 0x28 b 1 1) page b 0 0 := by
  have e : (c.setFld page 0x28 b 1 1).rd page 0x28 = putBits (c.rd page 0x28) b 1 1 := by
    unfold Core.setFld; rw [Core.rd_wr_same]
  refine ⟨rfl, ?_, ?_, fun i hi h1 h2 => ?_, fun p o h => Core.rd_setFld_ne _ _ _ _ (Ne.symm h)⟩
  · rw [e, bitAt_putBits _ _ _ _ _ (by omega)]; simp
  · simp [bitsAt, Nat.mod_one]
  · rw [e, bitAt_putBits _ _ _ _ _ hi, if_neg (by omega)]

/-- ACC_DROPPED sets bit 0 of ERR_STATUS. -/
theorem Core.dropped_bit (c : Core) (page : Nat) : bitAt ((c.dropped page).rd page 0x18) 0 = true := by
  unfold Core.dropped Core.setErr
  simp only [Nat.zero_div, Nat.mul_zero, Nat.add_zero, Core.rd_wr_same]
  simp [bitAt]

/-! ## Runs and causes -/

theorem Clus.run_setRun (m : Clus) (rg n i : Nat) (r : Option SlotRun) :
    (m.setRun rg n r).run rg i = if i = n then r else m.run rg i := by
  unfold Clus.setRun Clus.run
  simp only [kget_kput]
  by_cases h : i = n
  · simp [h]
  · rw [if_neg (by omega), if_neg h]

theorem Clus.runs_setRun (m : Clus) (rg n j : Nat) (r : Option SlotRun) (h : j ≠ 4 * rg + n) :
    kget (m.setRun rg n r).tt.runs none j = kget m.tt.runs none j := by
  unfold Clus.setRun
  simp only [kget_kput]
  rw [if_neg (Ne.symm h)]

/-- Recording a cause changes the table of causes only. -/
theorem Clus.fail_eq (m : Clus) (clu : Nat) (f : FailCause) :
    ∃ F, m.fail clu f = { m with tt := { m.tt with fails := F } } := by
  unfold Clus.fail
  dsimp only
  split <;> exact ⟨_, rfl⟩

/-- A cause recorded is among the causes, and no cause is lost. -/
theorem Clus.causes_fail (m : Clus) (clu : Nat) (f : FailCause) :
    (∃ g ∈ (m.fail clu f).causes clu, g.code = f.code ∧ g.fatal = f.fatal) ∧
      ∀ c g, g ∈ m.causes c → g ∈ (m.fail clu f).causes c := by
  unfold Clus.fail
  dsimp only
  split
  · rename_i h
    obtain ⟨g, hg, he⟩ := List.any_eq_true.1 h
    simp only [Bool.and_eq_true, beq_iff_eq] at he
    exact ⟨⟨g, hg, he⟩, fun _ _ h => h⟩
  · refine ⟨⟨f, ?_, rfl, rfl⟩, fun c g hg => ?_⟩
    · simp [Clus.causes, kget_kput]
    · unfold Clus.causes at *
      rw [kget_kput]
      split
      · rename_i e; subst e; exact List.mem_append_left _ hg
      · exact hg

/-- A job is noted as faulted, and nothing else changes. -/
theorem Clus.faultJob_eq (m : Clus) (job code : Nat) :
    ∃ F, m.faultJob job code = { m with tt := { m.tt with faulted := F } } ∧ ∃ k, (job, k) ∈ F := by
  unfold Clus.faultJob
  split
  · rename_i h
    obtain ⟨⟨a, b⟩, hg, he⟩ := List.any_eq_true.1 h
    simp only [beq_iff_eq] at he
    subst he
    exact ⟨_, rfl, b, hg⟩
  · exact ⟨_, rfl, code, by simp⟩

/-! ## Region descriptors -/

theorem Core.setPtrs_only (c : Core) (clu st r rel tail : Nat) (wrap : Bool) (hext : Nat) :
    c.only (c.setPtrs clu st r rel tail wrap hext) [regKey (pageSt clu st) (regionOff r + 8),
      regKey (pageSt clu st) (regionOff r + 12), regKey (pageSt clu st) (regionOff r + 16)] := by
  refine ⟨rfl, fun p o h => ?_⟩
  simp only [List.mem_cons, List.not_mem_nil, or_false, not_or] at h
  unfold Core.setPtrs
  dsimp only
  rw [Core.rd_setFld_ne _ _ _ _ (Ne.symm h.2.2), Core.rd_setFld_ne _ _ _ _ (Ne.symm h.2.1), Core.rd_setFld_ne _ _ _ _ (Ne.symm h.2.1),
    Core.rd_setFld_ne _ _ _ _ (Ne.symm h.1)]

theorem regKey_region {clu st r i j : Nat} (hi : i < 8) (hj : j < 8) (h : i ≠ j) :
    regKey (pageSt clu st) (regionOff r + 4 * i) ≠ regKey (pageSt clu st) (regionOff r + 4 * j) := by
  apply regKey_off_ne; unfold regionOff; omega

/-- Setting the pointers of a descriptor sets REL, TAIL, WRAP and HEXT and no other field. -/
theorem Core.region_setPtrs (c : Core) (clu st r rel tail : Nat) (wrap : Bool) (hext : Nat) :
    (c.setPtrs clu st r rel tail wrap hext).region clu st r =
      { c.region clu st r with rel := rel % 65536, tail := tail % 65536, wrap := wrap, hext := hext % 131072 } := by
  have n23 : regKey (pageSt clu st) (regionOff r + 8) ≠ regKey (pageSt clu st) (regionOff r + 12) :=
    regKey_region (i := 2) (j := 3) (by omega) (by omega) (by omega)
  have n24 : regKey (pageSt clu st) (regionOff r + 8) ≠ regKey (pageSt clu st) (regionOff r + 16) :=
    regKey_region (i := 2) (j := 4) (by omega) (by omega) (by omega)
  have n34 : regKey (pageSt clu st) (regionOff r + 12) ≠ regKey (pageSt clu st) (regionOff r + 16) :=
    regKey_region (i := 3) (j := 4) (by omega) (by omega) (by omega)
  have g : ∀ (c : Core) i, i < 8 → (c.regionWords clu st r).getD i 0 = c.rd (pageSt clu st) (regionOff r + 4 * i) := by
    intro c i hi; unfold Core.regionWords; simp [hi]
  have e : ∀ i, i < 8 → i ≠ 2 → i ≠ 3 → i ≠ 4 →
      (c.setPtrs clu st r rel tail wrap hext).rd (pageSt clu st) (regionOff r + 4 * i) =
        c.rd (pageSt clu st) (regionOff r + 4 * i) := by
    intro i hi h2 h3 h4
    refine (Core.setPtrs_only c clu st r rel tail wrap hext).2 _ _ ?_
    simp only [List.mem_cons, List.not_mem_nil, or_false, not_or]
    exact ⟨regKey_region (j := 2) hi (by omega) h2, regKey_region (j := 3) hi (by omega) h3, regKey_region (j := 4) hi (by omega) h4⟩
  have e2 : (c.setPtrs clu st r rel tail wrap hext).rd (pageSt clu st) (regionOff r + 4 * 2) =
      putBits (c.rd (pageSt clu st) (regionOff r + 8)) 0 16 rel := by
    unfold Core.setPtrs Core.setFld
    dsimp only
    rw [Core.rd_wr_ne _ _ (Ne.symm n24), Core.rd_wr_ne _ _ (Ne.symm n23), Core.rd_wr_ne _ _ (Ne.symm n23), Core.rd_wr_same]
  have e3 : (c.setPtrs clu st r rel tail wrap hext).rd (pageSt clu st) (regionOff r + 4 * 3) =
      putBits (putBits (c.rd (pageSt clu st) (regionOff r + 12)) 0 16 tail) 31 1 (if wrap then 1 else 0) := by
    unfold Core.setPtrs Core.setFld
    dsimp only
    rw [Core.rd_wr_ne _ _ (Ne.symm n34), Core.rd_wr_same, Core.rd_wr_same, Core.rd_wr_ne _ _ n23]
  have e4 : (c.setPtrs clu st r rel tail wrap hext).rd (pageSt clu st) (regionOff r + 4 * 4) =
      putBits (c.rd (pageSt clu st) (regionOff r + 16)) 0 17 hext := by
    unfold Core.setPtrs Core.setFld
    dsimp only
    rw [Core.rd_wr_same, Core.rd_wr_ne _ _ n34, Core.rd_wr_ne _ _ n34, Core.rd_wr_ne _ _ n24]
  unfold Core.region regionOfWords
  dsimp only
  simp only [g _ 0 (by omega), g _ 1 (by omega), g _ 2 (by omega), g _ 3 (by omega), g _ 4 (by omega), g _ 6 (by omega),
    g _ 7 (by omega), e 0 (by omega) (by omega) (by omega) (by omega), e 1 (by omega) (by omega) (by omega) (by omega),
    e 6 (by omega) (by omega) (by omega) (by omega), e 7 (by omega) (by omega) (by omega) (by omega), e2, e3, e4]
  rw [bitsAt_putBits_same _ _ _ _ (by omega), bitsAt_putBits_same _ _ _ _ (by omega),
    bitsAt_putBits_ne _ _ _ _ _ _ (Or.inl (by omega)), bitsAt_putBits_same _ _ _ _ (by omega), bitAt_putBits _ _ _ _ _ (by omega)]
  cases wrap <;> simp

/-- Descriptors whose words read the same are the same. -/
theorem Core.region_congr {c c' : Core} {clu st r : Nat}
    (h : ∀ i, i < 8 → c'.rd (pageSt clu st) (regionOff r + 4 * i) = c.rd (pageSt clu st) (regionOff r + 4 * i)) :
    c'.region clu st r = c.region clu st r := by
  unfold Core.region
  congr 1
  unfold Core.regionWords
  exact List.map_congr_left (fun i hi => h i (List.mem_range.1 hi))

theorem Core.region_lt (c : Core) (clu st r : Nat) :
    (c.region clu st r).rel < 65536 ∧ (c.region clu st r).tail < 65536 ∧ (c.region clu st r).hext < 131072 ∧
      (c.region clu st r).size < 131072 := by
  unfold Core.region regionOfWords
  exact ⟨bitsAt_lt _ _ _, bitsAt_lt _ _ _, bitsAt_lt _ _ _, bitsAt_lt _ _ _⟩

/-- Advancing REL moves REL, toggles WRAP where it passes the region's end, and sets HEXT (R172). -/
theorem Core.region_advRel (c : Core) (clu st r n hext : Nat) (hs : (c.region clu st r).size ≤ 65536)
    (h0 : 0 < (c.region clu st r).size) (hx : hext < 131072) :
    (c.advRel clu st r n hext).region clu st r =
      { c.region clu st r with
        rel := ((c.region clu st r).rel + n) % (c.region clu st r).size,
        wrap := if (c.region clu st r).size ≤ (c.region clu st r).rel + n then !(c.region clu st r).wrap else (c.region clu st r).wrap,
        hext := hext } := by
  have hb := (Core.region_lt c clu st r).2.1
  unfold Core.advRel
  dsimp only
  rw [Core.region_setPtrs, Nat.mod_eq_of_lt (Nat.lt_of_lt_of_le (Nat.mod_lt _ h0) hs), Nat.mod_eq_of_lt hb, Nat.mod_eq_of_lt hx]

theorem Clus.markHome_off (m : Clus) (clu st r b n : Nat) (h : (m.core.region clu st r).homeEn = false) :
    m.markHome clu st r b n = m := by
  unfold Clus.markHome; simp [h]

theorem Clus.stCapture_eq (m : Clus) (clu st code a reg unit : Nat) :
    ∃ r, m.stCapture clu st code a reg unit = { m with core := { m.core with regs := r } } := by
  unfold Clus.stCapture
  dsimp only
  split
  · exact ⟨_, rfl⟩
  · obtain ⟨r, h⟩ := Core.wrs_eq m.core (pageSt clu st) 0x60 [m.core.tickLo, m.capWord clu 0,
     BitVec.ofNat 32 (code + storeBank st a * 2 ^ 16 + (if reg < 16 then reg * 2 ^ 21 else 2 ^ 25)),
     BitVec.ofNat 32 (a / 256 % 65536 + unit % 256 * 65536), BitVec.ofNat 32 (m.core.cycle * 65536), 0, 0,
     BitVec.ofNat 32 (2 ^ 31)]
    exact ⟨r, congrArg (fun x => { m with core := x }) h⟩

/-- The capture of a store event changes no word outside 0x060–0x07C of the store's page. -/
theorem Clus.rd_stCapture (m : Clus) (clu st code a reg unit p o : Nat)
    (h : regKey p o < pageSt clu st * 1024 + 24 ∨ pageSt clu st * 1024 + 32 ≤ regKey p o) :
    (m.stCapture clu st code a reg unit).core.rd p o = m.core.rd p o := by
  unfold Clus.stCapture
  dsimp only
  split
  · rfl
  · show (Core.wrs _ _ _ _).rd p o = _
    rw [Core.rd_wrs, if_neg]
    have : regKey (pageSt clu st) 0x60 = pageSt clu st * 1024 + 24 := by unfold regKey; omega
    rw [this]
    simp only [List.length_cons, List.length_nil]
    omega

/-- REMOTE_RELEASE to an inbound ring with room: its pointers move and nothing else does (R178). -/
theorem Clus.applyRelease_ok (m : Clus) (clu st r n job : Nat) (hv : (m.core.region clu st r).valid = true)
    (hm : (m.core.region clu st r).mode = 2) (hn : n ≤ (m.core.region clu st r).free) :
    m.applyRelease clu st r n job = m.onCore (·.advRel clu st r n ((m.core.region clu st r).hext - n)) := by
  unfold Clus.applyRelease
  dsimp only
  rw [if_neg (by simp [hv, hm]), if_neg (by omega)]

/-- REMOTE_RELEASE of more than the room: ST_REL_EXCESS, the job faults, and the descriptor stands (R178). -/
theorem Clus.applyRelease_excess (m : Clus) (clu st r n job : Nat) (hr : r < 16) (hv : (m.core.region clu st r).valid = true)
    (hm : (m.core.region clu st r).mode = 2) (hn : (m.core.region clu st r).free < n) :
    (m.applyRelease clu st r n job).core.region clu st r = m.core.region clu st r ∧
      (∃ e, (m.applyRelease clu st r n job).core.records = m.core.records ++ [e] ∧ e.code = 0x050C ∧
        e.job = BitVec.ofNat 4 (m.core.region clu st r).job) ∧
      ∃ k, ((m.core.region clu st r).job, k) ∈ (m.applyRelease clu st r n job).tt.faulted := by
  have key : ∀ q, m.applyRelease clu st r n job = q → q.core.region clu st r = m.core.region clu st r ∧
      (∃ e, q.core.records = m.core.records ++ [e] ∧ e.code = 0x050C ∧ e.job = BitVec.ofNat 4 (m.core.region clu st r).job) ∧
      ∃ k, ((m.core.region clu st r).job, k) ∈ q.tt.faulted := by
    intro q hq
    unfold Clus.applyRelease at hq
    dsimp only at hq
    rw [if_neg (by simp [hv, hm]), if_pos hn] at hq
    obtain ⟨F, hF, hk⟩ := Clus.faultJob_eq
      (((m.onCore (·.record (pageSt clu st) 0x050C sevCont (m.core.region clu st r).job (placeUnit clu (6 + st) 0)
      (detail41 0x050C 0xFF 0xFF 0 0 0 0 (stLast4 0 r 0xFF)))).stCapture clu st 0x050C ((m.core.region clu st r).base * 256) r 0xFF))
      (m.core.region clu st r).job 0x050C
    rw [hF] at hq
    subst hq
    refine ⟨?_, ?_, hk⟩
    · refine Core.region_congr (fun i hi => ?_)
      have hkey : regKey (pageSt clu st) (regionOff r + 4 * i) = pageSt clu st * 1024 + 64 + 8 * r + i := by
        unfold regKey regionOff; omega
      refine (Clus.rd_stCapture _ _ _ _ _ _ _ _ _ (Or.inr (by omega))).trans ?_
      exact Core.rd_record _ _ _ _ _ _ _ _ _ _ (Or.inr (by omega))
    · obtain ⟨R, hR⟩ := Clus.stCapture_eq (m.onCore (·.record (pageSt clu st) 0x050C sevCont (m.core.region clu st r).job
        (placeUnit clu (6 + st) 0) (detail41 0x050C 0xFF 0xFF 0 0 0 0 (stLast4 0 r 0xFF)))) clu st 0x050C
        ((m.core.region clu st r).base * 256) r 0xFF
      obtain ⟨S, e, he, h1, _, h3, _⟩ := Core.record_eq m.core (pageSt clu st) 0x050C sevCont (m.core.region clu st r).job
        (placeUnit clu (6 + st) 0) (detail41 0x050C 0xFF 0xFF 0 0 0 0 (stLast4 0 r 0xFF)) false
      rw [hR]
      exact ⟨e, congrArg Core.records he, h1, h3⟩
  exact key _ rfl

/-! ## Regions of a job -/

/-- No page has a reset value among the offsets 0x100 to 0x304, where the region descriptors and the die maps stand. -/
theorem resetWord_blank (gr : Grade) (p off : Nat) (h1 : 0x100 ≤ off) (h2 : off < 0x308) : resetWord gr (regKey p off) = 0 := by
  have e1 : regKey p off / 1024 = p := by unfold regKey; omega
  have e2 : 4 * (regKey p off % 1024) = 4 * (off / 4) := by unfold regKey; omega
  have e3 : 256 ≤ 4 * (off / 4) ∧ 4 * (off / 4) < 776 := by omega
  unfold resetWord
  rw [e1, e2]
  generalize 4 * (off / 4) = x at e3
  split
  · rfl
  · next k _ =>
    dsimp only
    rw [if_neg (by omega)]
    have : blockReset gr k x = 0 := by
      unfold blockReset; cases k <;> dsimp only <;> repeat' (first | rfl | rw [if_neg (by omega)])
    rw [this]; rfl

/-- With no register of a die's pages written, a word of those offsets reads zero. -/
theorem Core.rd_blank (c : Core) (p off : Nat) (h : c.regs.all (fun e => decide (e.1 < 0x100000 * 1024)) = true)
    (hp : 0x100000 ≤ p) (h1 : 0x100 ≤ off) (h2 : off < 0x308) : c.rd p off = 0 := by
  unfold Core.rd
  rw [resetWord_blank _ _ _ h1 h2]
  refine kget_absent _ _ _ (fun e he => ?_)
  have := of_decide_eq_true (List.all_eq_true.mp h e he)
  unfold regKey
  omega

/-- With no register of a die's pages written, no die map names a die. -/
theorem Core.dieMap_none (c : Core) (g l : Nat) (h : c.regs.all (fun e => decide (e.1 < 0x100000 * 1024)) = true) :
    c.dieMap g l = none := by
  unfold Core.dieMap
  by_cases hl : l < 96
  · have hb : c.fld (pagePts g) 0x40 31 1 < 2 := by unfold Core.fld bitsAt; exact Nat.mod_lt _ (by decide)
    have : c.rd (pagePts g) (0x100 + 0x80 * c.fld (pagePts g) 0x40 31 1 + l / 4 * 4) = 0 :=
      Core.rd_blank c _ _ h (by unfold pagePts pageDie; omega) (by omega) (by omega)
    dsimp only
    rw [this, if_neg]
    simp [bitsAt]
  · dsimp only; rw [if_neg (fun x => hl x.1)]

/-- With no register of a die's pages written, no region descriptor is valid, and a job has no region. -/
theorem Core.regionsOf_nil (c : Core) (j : Nat) (h : c.regs.all (fun e => decide (e.1 < 0x100000 * 1024)) = true) :
    c.regionsOf j = [] := by
  unfold Core.regionsOf
  rw [List.filterMap_eq_nil_iff]
  intro i _
  have hv : (c.region (i / 48) (i / 16 % 3) (i % 16)).valid = false := by
    have h0 : c.rd (pageSt (i / 48) (i / 16 % 3)) (regionOff (i % 16)) = 0 :=
      Core.rd_blank c _ _ h (by unfold pageSt pageClu pageDie; omega) (by unfold regionOff; omega) (by unfold regionOff; omega)
    show bitAt ((c.regionWords _ _ _).getD 0 0) 31 = false
    have : (c.regionWords (i / 48) (i / 16 % 3) (i % 16)).getD 0 0 = 0 := h0
    rw [this]; rfl
  simp [hv]

end Sys2Proof.Machine
end

