-- ==== Sys2Proof/Laws/Phases.lean ====
section
/-!
SUPPORT. What most operations leave of the timetable's round-robin pointers and slot outcomes (`ph`), and of firmware, power,
bring-up and security (`pfw`).
-/
namespace Sys2Proof.Machine

/-- What `ph` names of the clusters' state. -/
def Clus.ph (x : Clus) := (x.tt.rr, x.tt.failed)

/-- The same, of the package. -/
def Pkg.ph (k : Pkg) := k.cl.ph

theorem Clus.ph_mk (core tt mc vc sc sa st msg tab) : (Clus.mk core tt mc vc sc sa st msg tab).ph = ((tt.rr, tt.failed)) := (rfl)

theorem Clus.ph_eta (x : Clus) : ((x.tt.rr, x.tt.failed)) = x.ph := (rfl)

theorem Pkg.ph_mk (cl net hbm fab att jobs ckpts bi pw bu fw sec) : (Pkg.mk cl net hbm fab att jobs ckpts bi pw bu fw sec).ph = cl.ph := (rfl)

theorem Pkg.cl_ph (k : Pkg) : k.cl.ph = k.ph := (rfl)

theorem Clus.onCore_ph (m : Clus) (f) : (m.onCore f).ph = m.ph := (rfl)

theorem Pkg.onCore_ph (k : Pkg) (f) : (k.onCore f).ph = k.ph := (rfl)

theorem Pkg.onClus_ph (k : Pkg) (f) : (k.onClus f).ph = (f k.cl).ph := (rfl)

theorem Pkg.onBi_ph (k : Pkg) (f) : (k.onBi f).ph = k.ph := (rfl)

theorem Pkg.onFab_ph (k : Pkg) (f) : (k.onFab f).ph = k.ph := (rfl)

theorem Pkg.onAtt_ph (k : Pkg) (f) : (k.onAtt f).ph = k.ph := (rfl)

theorem Pkg.onHbm_ph (k : Pkg) (f) : (k.onHbm f).ph = k.ph := (rfl)

theorem Pkg.onBu_ph (k : Pkg) (f) : (k.onBu f).ph = k.ph := (rfl)

theorem Pkg.onPw_ph (k : Pkg) (f) : (k.onPw f).ph = k.ph := (rfl)

theorem Pkg.onNet_ph (k : Pkg) (f) : (k.onNet f).ph = k.ph := (rfl)

theorem Pkg.onFw_ph (k : Pkg) (f) : (k.onFw f).ph = k.ph := (rfl)

theorem Pkg.onSec_ph (k : Pkg) (f) : (k.onSec f).ph = k.ph := (rfl)

theorem iter_ph_Pkg (n : Nat) (f : Nat → Pkg → Pkg) (k : Pkg) (h : ∀ i x, (f i x).ph = x.ph) :
    (iter n f k).ph = k.ph := by
  induction n with
  | zero => rfl
  | succ n ih => simp [iter, h, ih]

theorem foldl_ph_Pkg {α : Type} (l : List α) (f : Pkg → α → Pkg) (k : Pkg) (h : ∀ x a, (f x a).ph = x.ph) :
    (l.foldl f k).ph = k.ph := by
  induction l generalizing k with
  | nil => rfl
  | cons a l ih => simp [h, ih]

theorem foldl2_ph_Pkg {α β : Type} (l : List α) (f : Pkg × β → α → Pkg × β) (k : Pkg × β)
    (h : ∀ x a, (f x a).1.ph = x.1.ph) : (l.foldl f k).1.ph = k.1.ph := by
  induction l generalizing k with
  | nil => rfl
  | cons a l ih => simp [h, ih]

theorem foldl3_ph_Pkg {α β : Type} (l : List α) (f : β × Pkg → α → β × Pkg) (k : β × Pkg)
    (h : ∀ x a, (f x a).2.ph = x.2.ph) : (l.foldl f k).2.ph = k.2.ph := by
  induction l generalizing k with
  | nil => rfl
  | cons a l ih => simp [h, ih]

theorem ite_ph_Pkg {c : Prop} [Decidable c] {a b : Pkg} {d} (h : a.ph = d) (h' : b.ph = d) :
    (if c then a else b).ph = d := by split <;> assumption

theorem foldl_ph_Pkg' {α : Type} {l : List α} {f : Pkg → α → Pkg} {k : Pkg} {d} (h : ∀ x a, (f x a).ph = x.ph)
    (h' : k.ph = d) : (l.foldl f k).ph = d := (foldl_ph_Pkg l f k h).trans h'

theorem iter_ph_Pkg' {n : Nat} {f : Nat → Pkg → Pkg} {k : Pkg} {d} (h : ∀ i x, (f i x).ph = x.ph) (h' : k.ph = d) :
    (iter n f k).ph = d := (iter_ph_Pkg n f k h).trans h'

theorem foldl2_ph_Pkg' {α β : Type} {l : List α} {f : Pkg × β → α → Pkg × β} {k : Pkg × β} {d}
    (h : ∀ x a, (f x a).1.ph = x.1.ph) (h' : k.1.ph = d) : (l.foldl f k).1.ph = d :=
  (foldl2_ph_Pkg l f k h).trans h'

theorem foldl3_ph_Pkg' {α β : Type} {l : List α} {f : β × Pkg → α → β × Pkg} {k : β × Pkg} {d}
    (h : ∀ x a, (f x a).2.ph = x.2.ph) (h' : k.2.ph = d) : (l.foldl f k).2.ph = d :=
  (foldl3_ph_Pkg l f k h).trans h'

theorem of_eq_ph_Pkg {β : Type} {p : β × Pkg} {a : β} {k : Pkg} {d} (h : p = (a, k)) (h' : p.2.ph = d) :
    k.ph = d := by subst h; exact h'

theorem of_eq1_ph_Pkg {β : Type} {p : Pkg × β} {a : β} {k : Pkg} {d} (h : p = (k, a)) (h' : p.1.ph = d) :
    k.ph = d := by subst h; exact h'

theorem iter_ph_Clus (n : Nat) (f : Nat → Clus → Clus) (k : Clus) (h : ∀ i x, (f i x).ph = x.ph) :
    (iter n f k).ph = k.ph := by
  induction n with
  | zero => rfl
  | succ n ih => simp [iter, h, ih]

theorem foldl_ph_Clus {α : Type} (l : List α) (f : Clus → α → Clus) (k : Clus) (h : ∀ x a, (f x a).ph = x.ph) :
    (l.foldl f k).ph = k.ph := by
  induction l generalizing k with
  | nil => rfl
  | cons a l ih => simp [h, ih]

theorem foldl2_ph_Clus {α β : Type} (l : List α) (f : Clus × β → α → Clus × β) (k : Clus × β)
    (h : ∀ x a, (f x a).1.ph = x.1.ph) : (l.foldl f k).1.ph = k.1.ph := by
  induction l generalizing k with
  | nil => rfl
  | cons a l ih => simp [h, ih]

theorem foldl3_ph_Clus {α β : Type} (l : List α) (f : β × Clus → α → β × Clus) (k : β × Clus)
    (h : ∀ x a, (f x a).2.ph = x.2.ph) : (l.foldl f k).2.ph = k.2.ph := by
  induction l generalizing k with
  | nil => rfl
  | cons a l ih => simp [h, ih]

theorem ite_ph_Clus {c : Prop} [Decidable c] {a b : Clus} {d} (h : a.ph = d) (h' : b.ph = d) :
    (if c then a else b).ph = d := by split <;> assumption

theorem foldl_ph_Clus' {α : Type} {l : List α} {f : Clus → α → Clus} {k : Clus} {d} (h : ∀ x a, (f x a).ph = x.ph)
    (h' : k.ph = d) : (l.foldl f k).ph = d := (foldl_ph_Clus l f k h).trans h'

theorem iter_ph_Clus' {n : Nat} {f : Nat → Clus → Clus} {k : Clus} {d} (h : ∀ i x, (f i x).ph = x.ph) (h' : k.ph = d) :
    (iter n f k).ph = d := (iter_ph_Clus n f k h).trans h'

theorem foldl2_ph_Clus' {α β : Type} {l : List α} {f : Clus × β → α → Clus × β} {k : Clus × β} {d}
    (h : ∀ x a, (f x a).1.ph = x.1.ph) (h' : k.1.ph = d) : (l.foldl f k).1.ph = d :=
  (foldl2_ph_Clus l f k h).trans h'

theorem foldl3_ph_Clus' {α β : Type} {l : List α} {f : β × Clus → α → β × Clus} {k : β × Clus} {d}
    (h : ∀ x a, (f x a).2.ph = x.2.ph) (h' : k.2.ph = d) : (l.foldl f k).2.ph = d :=
  (foldl3_ph_Clus l f k h).trans h'

theorem of_eq_ph_Clus {β : Type} {p : β × Clus} {a : β} {k : Clus} {d} (h : p = (a, k)) (h' : p.2.ph = d) :
    k.ph = d := by subst h; exact h'

theorem of_eq1_ph_Clus {β : Type} {p : Clus × β} {a : β} {k : Clus} {d} (h : p = (k, a)) (h' : p.1.ph = d) :
    k.ph = d := by subst h; exact h'

theorem getD_ph_Clus {o : Option Clus} {a : Clus} {d} (h : ∀ x, o = some x → x.ph = d) (h' : a.ph = d) :
    (o.getD a).ph = d := by
  cases o with
  | none => exact h'
  | some x => exact h x rfl

theorem getD_ph_Pkg {o : Option Pkg} {a : Pkg} {d} (h : ∀ x, o = some x → x.ph = d) (h' : a.ph = d) :
    (o.getD a).ph = d := by
  cases o with
  | none => exact h'
  | some x => exact h x rfl

theorem Clus.setRun_ph (k a1 a2 a3) : (Clus.setRun k a1 a2 a3).ph = k.ph := by
  unfold Clus.setRun
  simp only [↓Clus.ph_eta, ↓Clus.ph_mk]

theorem Clus.fail_ph (k a1 a2) : (Clus.fail k a1 a2).ph = k.ph := by
  unfold Clus.fail
  simp only [↓Clus.ph_eta, ↓Clus.ph_mk, apply_ite Clus.ph, ite_self]

theorem Clus.fatalEvent_ph (k a1 a2 a3 a4 a5) : (Clus.fatalEvent k a1 a2 a3 a4 a5).ph = k.ph := by
  unfold Clus.fatalEvent
  simp only [↓Clus.fail_ph, ↓Clus.onCore_ph]

theorem Clus.setScore_ph (k a1 a2) : (Clus.setScore k a1 a2).ph = k.ph := by
  unfold Clus.setScore
  simp only [↓Clus.ph_eta, ↓Clus.ph_mk]

theorem Clus.homeTickUpdate_ph (k a1 a2) : (Clus.homeTickUpdate k a1 a2).ph = k.ph := by
  unfold Clus.homeTickUpdate
  repeat' (first | with_reducible rfl | (simp only [↓Clus.ph_mk, ↓Clus.ph_eta, ↓Clus.onCore_ph, ↓foldl_ph_Clus, ↓iter_ph_Clus, implies_true, apply_ite Clus.ph, ite_self]; done) | with_reducible refine ite_ph_Clus ?_ ?_ | with_reducible refine foldl_ph_Clus' (fun _ _ => ?_) ?_ | with_reducible refine iter_ph_Clus' (fun _ _ => ?_) ?_ | with_reducible refine foldl2_ph_Clus' (fun _ _ => ?_) ?_ | with_reducible refine foldl3_ph_Clus' (fun _ _ => ?_) ?_ | simp only [↓Clus.ph_mk, ↓Clus.ph_eta, ↓Clus.onCore_ph] | with_reducible refine of_eq_ph_Clus ‹_› ?_ | with_reducible refine of_eq1_ph_Clus ‹_› ?_ | split | dsimp only)

theorem Clus.openDesc_ph (k a1 a2 a3 a4) : (Clus.openDesc k a1 a2 a3 a4).ph = k.ph := by
  unfold Clus.openDesc
  repeat' (first | with_reducible rfl | (simp only [↓Clus.homeTickUpdate_ph, ↓Clus.ph_mk, ↓Clus.ph_eta, ↓Clus.onCore_ph, ↓foldl_ph_Clus, ↓iter_ph_Clus, implies_true, apply_ite Clus.ph, ite_self]; done) | with_reducible refine ite_ph_Clus ?_ ?_ | with_reducible refine foldl_ph_Clus' (fun _ _ => ?_) ?_ | with_reducible refine iter_ph_Clus' (fun _ _ => ?_) ?_ | with_reducible refine foldl2_ph_Clus' (fun _ _ => ?_) ?_ | with_reducible refine foldl3_ph_Clus' (fun _ _ => ?_) ?_ | simp only [↓Clus.homeTickUpdate_ph, ↓Clus.ph_mk, ↓Clus.ph_eta, ↓Clus.onCore_ph] | with_reducible refine of_eq_ph_Clus ‹_› ?_ | with_reducible refine of_eq1_ph_Clus ‹_› ?_ | split | dsimp only)

theorem Clus.applyDescs_ph (k a1) : (Clus.applyDescs k a1).ph = k.ph := by
  unfold Clus.applyDescs
  repeat' (first | with_reducible rfl | (simp only [↓Clus.openDesc_ph, ↓Clus.ph_mk, ↓Clus.ph_eta, ↓foldl_ph_Clus, ↓iter_ph_Clus, implies_true, apply_ite Clus.ph, ite_self]; done) | with_reducible refine ite_ph_Clus ?_ ?_ | with_reducible refine foldl_ph_Clus' (fun _ _ => ?_) ?_ | with_reducible refine iter_ph_Clus' (fun _ _ => ?_) ?_ | with_reducible refine foldl2_ph_Clus' (fun _ _ => ?_) ?_ | with_reducible refine foldl3_ph_Clus' (fun _ _ => ?_) ?_ | simp only [↓Clus.openDesc_ph, ↓Clus.ph_mk, ↓Clus.ph_eta] | with_reducible refine of_eq_ph_Clus ‹_› ?_ | with_reducible refine of_eq1_ph_Clus ‹_› ?_ | split | dsimp only)

theorem Clus.faultJob_ph (k a1 a2) : (Clus.faultJob k a1 a2).ph = k.ph := by
  unfold Clus.faultJob
  simp only [↓Clus.ph_eta, ↓Clus.ph_mk, apply_ite Clus.ph, ite_self]

theorem Clus.setXReg_ph (k a1 a2 a3 a4) : (Clus.setXReg k a1 a2 a3 a4).ph = k.ph := by
  unfold Clus.setXReg
  simp only [↓Clus.ph_eta, ↓Clus.ph_mk, apply_ite Clus.ph, ite_self]

theorem Clus.causeEvent_ph (k a1 a2 a3 a4) : (Clus.causeEvent k a1 a2 a3 a4).ph = k.ph := by
  unfold Clus.causeEvent
  repeat' (first | with_reducible rfl | (simp only [↓Clus.fail_ph, ↓Clus.ph_mk, ↓Clus.ph_eta, ↓Clus.onCore_ph, ↓foldl_ph_Clus, ↓iter_ph_Clus, implies_true, apply_ite Clus.ph, ite_self]; done) | with_reducible refine ite_ph_Clus ?_ ?_ | with_reducible refine foldl_ph_Clus' (fun _ _ => ?_) ?_ | with_reducible refine iter_ph_Clus' (fun _ _ => ?_) ?_ | with_reducible refine foldl2_ph_Clus' (fun _ _ => ?_) ?_ | with_reducible refine foldl3_ph_Clus' (fun _ _ => ?_) ?_ | simp only [↓Clus.fail_ph, ↓Clus.ph_mk, ↓Clus.ph_eta, ↓Clus.onCore_ph] | with_reducible refine of_eq_ph_Clus ‹_› ?_ | with_reducible refine of_eq1_ph_Clus ‹_› ?_ | split | dsimp only)

theorem Clus.sCapture_ph (k a1 a2 a3) : (Clus.sCapture k a1 a2 a3).ph = k.ph := by
  unfold Clus.sCapture
  repeat' (first | with_reducible rfl | (simp only [↓Clus.ph_mk, ↓Clus.ph_eta, ↓Clus.onCore_ph, ↓foldl_ph_Clus, ↓iter_ph_Clus, implies_true, apply_ite Clus.ph, ite_self]; done) | with_reducible refine ite_ph_Clus ?_ ?_ | with_reducible refine foldl_ph_Clus' (fun _ _ => ?_) ?_ | with_reducible refine iter_ph_Clus' (fun _ _ => ?_) ?_ | with_reducible refine foldl2_ph_Clus' (fun _ _ => ?_) ?_ | with_reducible refine foldl3_ph_Clus' (fun _ _ => ?_) ?_ | simp only [↓Clus.ph_mk, ↓Clus.ph_eta, ↓Clus.onCore_ph] | with_reducible refine of_eq_ph_Clus ‹_› ?_ | with_reducible refine of_eq1_ph_Clus ‹_› ?_ | split | dsimp only)

theorem Clus.sStop_ph (k a1) : (Clus.sStop k a1).ph = k.ph := by
  unfold Clus.sStop
  repeat' (first | with_reducible rfl | (simp only [↓Clus.setScore_ph, ↓Clus.ph_mk, ↓Clus.ph_eta, ↓Clus.onCore_ph, ↓foldl_ph_Clus, ↓iter_ph_Clus, implies_true, apply_ite Clus.ph, ite_self]; done) | with_reducible refine ite_ph_Clus ?_ ?_ | with_reducible refine foldl_ph_Clus' (fun _ _ => ?_) ?_ | with_reducible refine iter_ph_Clus' (fun _ _ => ?_) ?_ | with_reducible refine foldl2_ph_Clus' (fun _ _ => ?_) ?_ | with_reducible refine foldl3_ph_Clus' (fun _ _ => ?_) ?_ | simp only [↓Clus.setScore_ph, ↓Clus.ph_mk, ↓Clus.ph_eta, ↓Clus.onCore_ph] | with_reducible refine of_eq_ph_Clus ‹_› ?_ | with_reducible refine of_eq1_ph_Clus ‹_› ?_ | split | dsimp only)

theorem Clus.regWrite_ph (k t a1 a2 a3 a4) (f : Clus → Clus) (ht : ∀ m c, (t m c).ph = m.ph) (hf : ∀ x, (f x).ph = x.ph) :
    (Clus.regWrite k t a1 a2 a3 a4 f).ph = k.ph := by
  unfold Clus.regWrite
  repeat' (first | rfl | (simp only [↓Clus.ph_eta, ↓Clus.onCore_ph, ↓Clus.setXReg_ph, ↓Clus.setScore_ph, ↓Clus.ph_mk, ht, hf]; done) | with_reducible refine ite_ph_Clus ?_ ?_ | with_reducible refine foldl_ph_Clus' (fun _ _ => ?_) ?_ | with_reducible refine iter_ph_Clus' (fun _ _ => ?_) ?_ | with_reducible refine foldl2_ph_Clus' (fun _ _ => ?_) ?_ | with_reducible refine foldl3_ph_Clus' (fun _ _ => ?_) ?_ | with_reducible refine (ht _ _).trans ?_ | simp only [↓Clus.ph_eta, ↓Clus.onCore_ph, ↓Clus.setXReg_ph, ↓Clus.setScore_ph, ↓Clus.ph_mk, ht, hf] | split | dsimp only)

theorem Clus.addDig_ph (k a1 a2) : (Clus.addDig k a1 a2).ph = k.ph := by
  unfold Clus.addDig
  repeat' (first | with_reducible rfl | (simp only [↓Clus.ph_mk, ↓Clus.ph_eta, ↓foldl_ph_Clus, ↓iter_ph_Clus, implies_true, apply_ite Clus.ph, ite_self]; done) | with_reducible refine ite_ph_Clus ?_ ?_ | with_reducible refine foldl_ph_Clus' (fun _ _ => ?_) ?_ | with_reducible refine iter_ph_Clus' (fun _ _ => ?_) ?_ | with_reducible refine foldl2_ph_Clus' (fun _ _ => ?_) ?_ | with_reducible refine foldl3_ph_Clus' (fun _ _ => ?_) ?_ | simp only [↓Clus.ph_mk, ↓Clus.ph_eta] | with_reducible refine of_eq_ph_Clus ‹_› ?_ | with_reducible refine of_eq1_ph_Clus ‹_› ?_ | split | dsimp only)

theorem Clus.pilotDone_ph (k t a1 a2 a3 a4 a5 a6) (ht : ∀ m c, (t m c).ph = m.ph) :
    (Clus.pilotDone k t a1 a2 a3 a4 a5 a6).ph = k.ph := by
  unfold Clus.pilotDone
  repeat' (first | rfl | (simp only [↓Clus.ph_eta, ↓Clus.addDig_ph, ↓Clus.onCore_ph, ↓Clus.setXReg_ph, ↓Clus.setScore_ph, ↓Clus.ph_mk]; done) | with_reducible refine (Clus.regWrite_ph _ _ _ _ _ _ _ ht (fun _ => ?_)).trans ?_ | with_reducible refine ite_ph_Clus ?_ ?_ | with_reducible refine foldl_ph_Clus' (fun _ _ => ?_) ?_ | with_reducible refine iter_ph_Clus' (fun _ _ => ?_) ?_ | with_reducible refine foldl2_ph_Clus' (fun _ _ => ?_) ?_ | with_reducible refine foldl3_ph_Clus' (fun _ _ => ?_) ?_ | with_reducible refine (ht _ _).trans ?_ | simp only [↓Clus.ph_eta, ↓Clus.addDig_ph, ↓Clus.onCore_ph, ↓Clus.setXReg_ph, ↓Clus.setScore_ph, ↓Clus.ph_mk] | split | dsimp only)

theorem Clus.tabLogBy_ph (k t a1 a2 a3 a4) (ht : ∀ m c, (t m c).ph = m.ph) :
    (Clus.tabLogBy k t a1 a2 a3 a4).ph = k.ph := by
  unfold Clus.tabLogBy
  repeat' (first | rfl | (simp only [↓Clus.ph_eta, ↓Clus.addDig_ph, ↓Clus.onCore_ph, ↓Clus.setXReg_ph, ↓Clus.setScore_ph, ↓Clus.ph_mk]; done) | with_reducible refine (Clus.pilotDone_ph _ _ _ _ _ _ _ _ ht).trans ?_ | with_reducible refine ite_ph_Clus ?_ ?_ | with_reducible refine foldl_ph_Clus' (fun _ _ => ?_) ?_ | with_reducible refine iter_ph_Clus' (fun _ _ => ?_) ?_ | with_reducible refine foldl2_ph_Clus' (fun _ _ => ?_) ?_ | with_reducible refine foldl3_ph_Clus' (fun _ _ => ?_) ?_ | with_reducible refine (ht _ _).trans ?_ | simp only [↓Clus.ph_eta, ↓Clus.addDig_ph, ↓Clus.onCore_ph, ↓Clus.setXReg_ph, ↓Clus.setScore_ph, ↓Clus.ph_mk] | split | dsimp only)

theorem Clus.tabReleaseBy_ph (k t a1 a2 a3) (ht : ∀ m c, (t m c).ph = m.ph) :
    (Clus.tabReleaseBy k t a1 a2 a3).ph = k.ph := by
  unfold Clus.tabReleaseBy
  repeat' (first | rfl | (simp only [↓Clus.ph_eta, ↓Clus.onCore_ph, ↓Clus.setXReg_ph, ↓Clus.setScore_ph, ↓Clus.ph_mk]; done) | with_reducible refine (Clus.regWrite_ph _ _ _ _ _ _ _ ht (fun _ => ?_)).trans ?_ | with_reducible refine (Clus.tabLogBy_ph _ _ _ _ _ _ ht).trans ?_ | with_reducible refine ite_ph_Clus ?_ ?_ | with_reducible refine foldl_ph_Clus' (fun _ _ => ?_) ?_ | with_reducible refine iter_ph_Clus' (fun _ _ => ?_) ?_ | with_reducible refine foldl2_ph_Clus' (fun _ _ => ?_) ?_ | with_reducible refine foldl3_ph_Clus' (fun _ _ => ?_) ?_ | with_reducible refine (ht _ _).trans ?_ | simp only [↓Clus.ph_eta, ↓Clus.onCore_ph, ↓Clus.setXReg_ph, ↓Clus.setScore_ph, ↓Clus.ph_mk] | split | dsimp only)

theorem Clus.tabCompleteBy_ph (k t a1 a2) (ht : ∀ m c, (t m c).ph = m.ph) :
    (Clus.tabCompleteBy k t a1 a2).ph = k.ph := by
  unfold Clus.tabCompleteBy
  repeat' (first | rfl | (simp only [↓Clus.ph_eta, ↓Clus.onCore_ph, ↓Clus.setXReg_ph, ↓Clus.setScore_ph, ↓Clus.ph_mk]; done) | with_reducible refine (Clus.tabReleaseBy_ph _ _ _ _ _ ht).trans ?_ | with_reducible refine ite_ph_Clus ?_ ?_ | with_reducible refine foldl_ph_Clus' (fun _ _ => ?_) ?_ | with_reducible refine iter_ph_Clus' (fun _ _ => ?_) ?_ | with_reducible refine foldl2_ph_Clus' (fun _ _ => ?_) ?_ | with_reducible refine foldl3_ph_Clus' (fun _ _ => ?_) ?_ | with_reducible refine (ht _ _).trans ?_ | simp only [↓Clus.ph_eta, ↓Clus.onCore_ph, ↓Clus.setXReg_ph, ↓Clus.setScore_ph, ↓Clus.ph_mk] | split | dsimp only)

theorem Clus.tabTryBy_ph (k t a1 a2) (ht : ∀ m c, (t m c).ph = m.ph) :
    (Clus.tabTryBy k t a1 a2).ph = k.ph := by
  unfold Clus.tabTryBy
  repeat' (first | rfl | (simp only [↓Clus.ph_eta, ↓Clus.onCore_ph, ↓Clus.setXReg_ph, ↓Clus.setScore_ph, ↓Clus.ph_mk]; done) | with_reducible refine (Clus.tabCompleteBy_ph _ _ _ _ ht).trans ?_ | with_reducible refine ite_ph_Clus ?_ ?_ | with_reducible refine foldl_ph_Clus' (fun _ _ => ?_) ?_ | with_reducible refine iter_ph_Clus' (fun _ _ => ?_) ?_ | with_reducible refine foldl2_ph_Clus' (fun _ _ => ?_) ?_ | with_reducible refine foldl3_ph_Clus' (fun _ _ => ?_) ?_ | with_reducible refine (ht _ _).trans ?_ | simp only [↓Clus.ph_eta, ↓Clus.onCore_ph, ↓Clus.setXReg_ph, ↓Clus.setScore_ph, ↓Clus.ph_mk] | split | dsimp only)

theorem Clus.thruWithdrawBy_ph (k t a1) (ht : ∀ m c, (t m c).ph = m.ph) :
    (Clus.thruWithdrawBy k t a1).ph = k.ph := by
  unfold Clus.thruWithdrawBy
  repeat' (first | rfl | (simp only [↓Clus.ph_eta, ↓Clus.onCore_ph, ↓Clus.setXReg_ph, ↓Clus.setScore_ph, ↓Clus.ph_mk]; done) | with_reducible refine (Clus.tabTryBy_ph _ _ _ _ ht).trans ?_ | with_reducible refine ite_ph_Clus ?_ ?_ | with_reducible refine foldl_ph_Clus' (fun _ _ => ?_) ?_ | with_reducible refine iter_ph_Clus' (fun _ _ => ?_) ?_ | with_reducible refine foldl2_ph_Clus' (fun _ _ => ?_) ?_ | with_reducible refine foldl3_ph_Clus' (fun _ _ => ?_) ?_ | with_reducible refine (ht _ _).trans ?_ | simp only [↓Clus.ph_eta, ↓Clus.onCore_ph, ↓Clus.setXReg_ph, ↓Clus.setScore_ph, ↓Clus.ph_mk] | split | dsimp only)

theorem Clus.sHaltBy_ph (k t a1) (ht : ∀ m c, (t m c).ph = m.ph) :
    (Clus.sHaltBy k t a1).ph = k.ph := by
  unfold Clus.sHaltBy
  repeat' (first | rfl | (simp only [↓Clus.ph_eta, ↓Clus.onCore_ph, ↓Clus.setXReg_ph, ↓Clus.setScore_ph, ↓Clus.ph_mk, ↓Clus.sStop_ph]; done) | with_reducible refine (Clus.thruWithdrawBy_ph _ _ _ ht).trans ?_ | with_reducible refine ite_ph_Clus ?_ ?_ | with_reducible refine foldl_ph_Clus' (fun _ _ => ?_) ?_ | with_reducible refine iter_ph_Clus' (fun _ _ => ?_) ?_ | with_reducible refine foldl2_ph_Clus' (fun _ _ => ?_) ?_ | with_reducible refine foldl3_ph_Clus' (fun _ _ => ?_) ?_ | with_reducible refine (ht _ _).trans ?_ | simp only [↓Clus.ph_eta, ↓Clus.onCore_ph, ↓Clus.setXReg_ph, ↓Clus.setScore_ph, ↓Clus.ph_mk, ↓Clus.sStop_ph] | split | dsimp only)

theorem Clus.sLockstepBy_ph (k t a1 a2) (ht : ∀ m c, (t m c).ph = m.ph) :
    (Clus.sLockstepBy k t a1 a2).ph = k.ph := by
  unfold Clus.sLockstepBy
  repeat' (first | rfl | (simp only [↓Clus.ph_eta, ↓Clus.onCore_ph, ↓Clus.setXReg_ph, ↓Clus.setScore_ph, ↓Clus.ph_mk, ↓Clus.causeEvent_ph, ↓Clus.sCapture_ph]; done) | with_reducible refine (Clus.sHaltBy_ph _ _ _ ht).trans ?_ | with_reducible refine ite_ph_Clus ?_ ?_ | with_reducible refine foldl_ph_Clus' (fun _ _ => ?_) ?_ | with_reducible refine iter_ph_Clus' (fun _ _ => ?_) ?_ | with_reducible refine foldl2_ph_Clus' (fun _ _ => ?_) ?_ | with_reducible refine foldl3_ph_Clus' (fun _ _ => ?_) ?_ | with_reducible refine (ht _ _).trans ?_ | simp only [↓Clus.ph_eta, ↓Clus.onCore_ph, ↓Clus.setXReg_ph, ↓Clus.setScore_ph, ↓Clus.ph_mk, ↓Clus.causeEvent_ph, ↓Clus.sCapture_ph] | split | dsimp only)

theorem Clus.sTrip_ph (n : Nat) (k c) : (Clus.sTrip n k c).ph = k.ph := by
  induction n generalizing k c with
  | zero => rfl
  | succ n ih => exact Clus.sLockstepBy_ph _ _ _ _ ih

theorem Clus.trip_ph (k c) : (Clus.trip k c).ph = k.ph := Clus.sTrip_ph ..

theorem Clus.tabLog_ph (k a1 a2 a3 a4) : (Clus.tabLog k a1 a2 a3 a4).ph = k.ph :=
  Clus.tabLogBy_ph _ _ _ _ _ _ (ht := Clus.trip_ph)

theorem Clus.tabRelease_ph (k a1 a2 a3) : (Clus.tabRelease k a1 a2 a3).ph = k.ph :=
  Clus.tabReleaseBy_ph _ _ _ _ _ (ht := Clus.trip_ph)

theorem Clus.tabComplete_ph (k a1 a2) : (Clus.tabComplete k a1 a2).ph = k.ph :=
  Clus.tabCompleteBy_ph _ _ _ _ (ht := Clus.trip_ph)

theorem Clus.tabTry_ph (k a1 a2) : (Clus.tabTry k a1 a2).ph = k.ph :=
  Clus.tabTryBy_ph _ _ _ _ (ht := Clus.trip_ph)

theorem Clus.copyDescs_ph (k a1 a2) : (Clus.copyDescs k a1 a2).ph = k.ph := by
  unfold Clus.copyDescs
  repeat' (first | with_reducible rfl | (simp only [↓Clus.ph_mk, ↓Clus.ph_eta, ↓Clus.onCore_ph, ↓foldl_ph_Clus, ↓iter_ph_Clus, implies_true, apply_ite Clus.ph, ite_self]; done) | with_reducible refine ite_ph_Clus ?_ ?_ | with_reducible refine foldl_ph_Clus' (fun _ _ => ?_) ?_ | with_reducible refine iter_ph_Clus' (fun _ _ => ?_) ?_ | with_reducible refine foldl2_ph_Clus' (fun _ _ => ?_) ?_ | with_reducible refine foldl3_ph_Clus' (fun _ _ => ?_) ?_ | simp only [↓Clus.ph_mk, ↓Clus.ph_eta, ↓Clus.onCore_ph] | with_reducible refine of_eq_ph_Clus ‹_› ?_ | with_reducible refine of_eq1_ph_Clus ‹_› ?_ | split | dsimp only)

theorem Clus.copyPtrs_ph (k a1 a2) : (Clus.copyPtrs k a1 a2).ph = k.ph := by
  unfold Clus.copyPtrs
  repeat' (first | (simp only [↓Clus.onCore_ph]; done) | with_reducible refine ite_ph_Clus ?_ ?_ | with_reducible refine iter_ph_Clus' (fun _ _ => ?_) ?_ | split | dsimp only)

theorem Clus.departPilot_ph (k a1) : (Clus.departPilot k a1).ph = k.ph := by
  unfold Clus.departPilot
  simp only [↓Clus.ph_eta, ↓Clus.ph_mk]

theorem Clus.departReplays_ph (k a1) : (Clus.departReplays k a1).ph = k.ph := by
  unfold Clus.departReplays
  repeat' (first | (simp only [↓Clus.onCore_ph, ↓Clus.setRun_ph, apply_ite Clus.ph, ite_self]; done) | with_reducible refine ite_ph_Clus ?_ ?_ | with_reducible refine iter_ph_Clus' (fun _ _ => ?_) ?_ | split | dsimp only)

theorem Clus.setArr_ph (k a1 a2) : (Clus.setArr k a1 a2).ph = k.ph := by
  unfold Clus.setArr
  simp only [↓Clus.ph_eta, ↓Clus.ph_mk]

theorem Clus.saCapture_ph (k a1 a2 a3 a4 a5 a6 a7) : (Clus.saCapture k a1 a2 a3 a4 a5 a6 a7).ph = k.ph := by
  unfold Clus.saCapture
  simp only [↓Clus.onCore_ph, apply_ite Clus.ph, ite_self]

theorem Clus.ttEvent_ph (k a1 a2 a3 a4 a5 a6 a7 a8 a9 a10 a11 a12) : (Clus.ttEvent k a1 a2 a3 a4 a5 a6 a7 a8 a9 a10 a11 a12).ph = k.ph := by
  unfold Clus.ttEvent
  simp only [↓Clus.onCore_ph]

theorem Clus.holdEntry_ph (k a1 a2 a3 a4 a5 a6) : (Clus.holdEntry k a1 a2 a3 a4 a5 a6).ph = k.ph := by
  unfold Clus.holdEntry
  simp only [↓Clus.onCore_ph, ↓Clus.ttEvent_ph, apply_ite Clus.ph, ite_self]

theorem Clus.examine_ph (k a1 a2) : (Clus.examine k a1 a2).ph = k.ph := by
  unfold Clus.examine
  repeat' (first | (simp only [↓Clus.faultJob_ph, ↓Clus.holdEntry_ph, ↓Clus.onCore_ph, ↓Clus.setRun_ph, ↓Clus.ttEvent_ph, apply_ite Clus.ph, ite_self]; done) | with_reducible refine ite_ph_Clus ?_ ?_ | with_reducible refine foldl_ph_Clus' (fun _ _ => ?_) ?_ | with_reducible refine iter_ph_Clus' (fun _ _ => ?_) ?_ | simp only [↓Clus.onCore_ph] | split | dsimp only)

theorem Clus.setVQueue_ph (k a1 a2 a3) : (Clus.setVQueue k a1 a2 a3).ph = k.ph := by
  unfold Clus.setVQueue
  simp only [↓Clus.ph_eta, ↓Clus.ph_mk]

theorem Clus.mDepart_ph (k a1 a2) : (Clus.mDepart k a1 a2).ph = k.ph := by
  unfold Clus.mDepart
  simp only [↓Clus.ph_eta, ↓Clus.ph_mk]

theorem Clus.saFatal_ph (k a1 a2 a3 a4 a5 a6 a7) : (Clus.saFatal k a1 a2 a3 a4 a5 a6 a7).ph = k.ph := by
  unfold Clus.saFatal
  simp only [↓Clus.fatalEvent_ph, ↓Clus.saCapture_ph]

theorem Clus.reportIn_ph (k a1) : (Clus.reportIn k a1).ph = k.ph := by
  unfold Clus.reportIn
  simp only [↓Clus.ph_eta, ↓Clus.ph_mk, ↓Clus.tabTry_ph, ↓iter_ph_Clus, implies_true, apply_ite Clus.ph, ite_self]

theorem Clus.sDepart_ph (k a1) : (Clus.sDepart k a1).ph = k.ph := by
  unfold Clus.sDepart
  simp only [↓Clus.setScore_ph, apply_ite Clus.ph, ite_self]

theorem Clus.sStart_ph (k a1 a2 a3) : (Clus.sStart k a1 a2 a3).ph = k.ph := by
  unfold Clus.sStart
  simp only [↓Clus.ph_eta, ↓Clus.ph_mk, ↓Clus.setScore_ph, ↓Clus.setXReg_ph]

theorem Clus.saBad_ph (k a1 a2) : (Clus.saBad k a1 a2).ph = k.ph := by
  unfold Clus.saBad
  simp only [↓Clus.saFatal_ph, ↓Clus.setArr_ph]

theorem Clus.saDepart_ph (k a1) : (Clus.saDepart k a1).ph = k.ph := by
  unfold Clus.saDepart
  simp only [↓Clus.ph_eta, ↓Clus.ph_mk, ↓Clus.setArr_ph]

theorem Clus.saSelect_ph (k a1 a2 a3) : (Clus.saSelect k a1 a2 a3).ph = k.ph := by
  unfold Clus.saSelect
  repeat' (first | (simp only [↓Clus.saBad_ph, ↓Clus.setArr_ph]; done) | with_reducible refine ite_ph_Clus ?_ ?_ | split)

theorem Clus.startPending_ph (k a1) : (Clus.startPending k a1).ph = k.ph := by
  unfold Clus.startPending
  repeat' (first | (simp only [↓Clus.ph_eta, ↓Clus.ph_mk, apply_ite Clus.ph, ite_self]; done) | with_reducible refine ite_ph_Clus ?_ ?_ | with_reducible refine iter_ph_Clus' (fun _ _ => ?_) ?_ | split | dsimp only)

theorem Clus.storesDepart_ph (k a1) : (Clus.storesDepart k a1).ph = k.ph := by
  unfold Clus.storesDepart
  repeat' (first | (simp only [↓Clus.ph_eta, ↓Clus.ph_mk, ↓Clus.applyDescs_ph, ↓Clus.onCore_ph]; done) | with_reducible refine ite_ph_Clus ?_ ?_ | with_reducible refine foldl_ph_Clus' (fun _ _ => ?_) ?_ | with_reducible refine iter_ph_Clus' (fun _ _ => ?_) ?_ | simp only [↓Clus.ph_eta, ↓Clus.ph_mk] | split | dsimp only)

theorem Clus.thruRegister_ph (k a1) : (Clus.thruRegister k a1).ph = k.ph := by
  unfold Clus.thruRegister
  repeat' (first | (simp only [↓Clus.onCore_ph, apply_ite Clus.ph]; done) | with_reducible refine ite_ph_Clus ?_ ?_ | with_reducible refine iter_ph_Clus' (fun _ _ => ?_) ?_ | split | dsimp only)

theorem Clus.newVHead_ph (k a1 a2 a3) : (Clus.newVHead k a1 a2 a3).ph = k.ph := by
  unfold Clus.newVHead
  repeat' (first | with_reducible rfl | (simp only [↓Clus.setVQueue_ph, ↓Clus.ph_mk, ↓Clus.ph_eta, ↓foldl_ph_Clus, ↓iter_ph_Clus, implies_true, apply_ite Clus.ph, ite_self]; done) | with_reducible refine ite_ph_Clus ?_ ?_ | with_reducible refine foldl_ph_Clus' (fun _ _ => ?_) ?_ | with_reducible refine iter_ph_Clus' (fun _ _ => ?_) ?_ | with_reducible refine foldl2_ph_Clus' (fun _ _ => ?_) ?_ | with_reducible refine foldl3_ph_Clus' (fun _ _ => ?_) ?_ | simp only [↓Clus.setVQueue_ph, ↓Clus.ph_mk, ↓Clus.ph_eta] | with_reducible refine of_eq_ph_Clus ‹_› ?_ | with_reducible refine of_eq1_ph_Clus ‹_› ?_ | split | dsimp only)

theorem Clus.vDepart_ph (k a1 a2) : (Clus.vDepart k a1 a2).ph = k.ph := by
  unfold Clus.vDepart
  repeat' (first | with_reducible rfl | (simp only [↓Clus.newVHead_ph, ↓Clus.ph_mk, ↓Clus.ph_eta, ↓foldl_ph_Clus, ↓iter_ph_Clus, implies_true, apply_ite Clus.ph, ite_self]; done) | with_reducible refine ite_ph_Clus ?_ ?_ | with_reducible refine foldl_ph_Clus' (fun _ _ => ?_) ?_ | with_reducible refine iter_ph_Clus' (fun _ _ => ?_) ?_ | with_reducible refine foldl2_ph_Clus' (fun _ _ => ?_) ?_ | with_reducible refine foldl3_ph_Clus' (fun _ _ => ?_) ?_ | simp only [↓Clus.newVHead_ph, ↓Clus.ph_mk, ↓Clus.ph_eta] | with_reducible refine of_eq_ph_Clus ‹_› ?_ | with_reducible refine of_eq1_ph_Clus ‹_› ?_ | split | dsimp only)

theorem Clus.unitsDepart_ph (k a1) : (Clus.unitsDepart k a1).ph = k.ph := by
  unfold Clus.unitsDepart
  simp only [↓Clus.mDepart_ph, ↓Clus.sDepart_ph, ↓Clus.saDepart_ph, ↓Clus.vDepart_ph, ↓iter_ph_Clus, implies_true]

theorem Pkg.biShow_ph (k a1) : (Pkg.biShow k a1).ph = k.ph := by
  unfold Pkg.biShow
  simp only [↓Pkg.onCore_ph]

theorem Pkg.setMove_ph (k a1 a2) : (Pkg.setMove k a1 a2).ph = k.ph := by
  unfold Pkg.setMove
  simp only [↓Pkg.onBi_ph]

theorem Pkg.setTest_ph (k a1 a2) : (Pkg.setTest k a1 a2).ph = k.ph := by
  unfold Pkg.setTest
  simp only [↓Pkg.onBi_ph]

theorem Pkg.startTest_ph (k a1 a2 a3) : (Pkg.startTest k a1 a2 a3).ph = k.ph := by
  unfold Pkg.startTest
  simp only [↓Pkg.biShow_ph, ↓Pkg.setTest_ph]

theorem Pkg.onCuts_ph (k a1) (a2 : Nat → Snap → Snap) : (Pkg.onCuts k a1 a2).ph = k.ph := by
  unfold Pkg.onCuts
  simp only [↓Pkg.onHbm_ph, ↓foldl_ph_Pkg, implies_true]

theorem Pkg.cutChannels_ph (k a1) : (Pkg.cutChannels k a1).ph = k.ph := by
  unfold Pkg.cutChannels
  simp only [↓Pkg.onCuts_ph, apply_ite Pkg.ph, ite_self]

theorem Pkg.dieTest_ph (k a1) : (Pkg.dieTest k a1).ph = k.ph := by
  unfold Pkg.dieTest
  exact iter_ph_Pkg' (fun _ _ => Pkg.startTest_ph ..) rfl

theorem Pkg.dieDone_ph (k a1) : (Pkg.dieDone k a1).ph = k.ph := by
  unfold Pkg.dieDone
  repeat' (first | (simp only [↓Pkg.cl_ph, ↓Clus.copyPtrs_ph, ↓Pkg.onBi_ph, ↓Pkg.onClus_ph, ↓Pkg.onCore_ph, ↓Pkg.dieTest_ph, apply_ite Pkg.ph]; done) | with_reducible refine ite_ph_Pkg ?_ ?_ | with_reducible refine foldl_ph_Pkg' (fun _ _ => ?_) ?_ | with_reducible refine iter_ph_Pkg' (fun _ _ => ?_) ?_ | simp only [↓Pkg.onBi_ph, ↓Pkg.onCore_ph, ↓Pkg.dieTest_ph] | split | dsimp only)

theorem Pkg.mirrorApply_ph (k a1) : (Pkg.mirrorApply k a1).ph = k.ph := by
  unfold Pkg.mirrorApply
  repeat' (first | (simp only [↓Pkg.cl_ph, ↓Clus.copyDescs_ph, ↓Pkg.onClus_ph, ↓Pkg.onNet_ph, apply_ite Pkg.ph, ite_self]; done) | with_reducible refine ite_ph_Pkg ?_ ?_ | split | dsimp only)

theorem Pkg.slotMapApply_ph (k a1) : (Pkg.slotMapApply k a1).ph = k.ph := by
  unfold Pkg.slotMapApply
  simp only [↓Pkg.cl_ph, ↓Clus.copyPtrs_ph, ↓Clus.ttEvent_ph, ↓Pkg.onClus_ph, ↓Pkg.onCore_ph, ↓Pkg.onNet_ph, apply_ite Pkg.ph, ite_self]

theorem Pkg.descEvent_ph (k a1 a2 a3 a4 a5 a6) : (Pkg.descEvent k a1 a2 a3 a4 a5 a6).ph = k.ph := by
  unfold Pkg.descEvent
  repeat' (first | with_reducible rfl | (simp only [↓Clus.ph_mk, ↓Clus.ph_eta, ↓Clus.onCore_ph, ↓Pkg.ph_mk, ↓Pkg.cl_ph, ↓Pkg.onCore_ph, ↓Pkg.onClus_ph, ↓foldl_ph_Clus, ↓iter_ph_Clus, ↓foldl_ph_Pkg, ↓iter_ph_Pkg, implies_true, apply_ite Pkg.ph, ite_self]; done) | with_reducible refine ite_ph_Pkg ?_ ?_ | with_reducible refine foldl_ph_Pkg' (fun _ _ => ?_) ?_ | with_reducible refine iter_ph_Pkg' (fun _ _ => ?_) ?_ | with_reducible refine foldl2_ph_Pkg' (fun _ _ => ?_) ?_ | with_reducible refine foldl3_ph_Pkg' (fun _ _ => ?_) ?_ | with_reducible refine ite_ph_Clus ?_ ?_ | with_reducible refine foldl_ph_Clus' (fun _ _ => ?_) ?_ | with_reducible refine iter_ph_Clus' (fun _ _ => ?_) ?_ | with_reducible refine foldl2_ph_Clus' (fun _ _ => ?_) ?_ | with_reducible refine foldl3_ph_Clus' (fun _ _ => ?_) ?_ | simp only [↓Clus.ph_mk, ↓Clus.ph_eta, ↓Clus.onCore_ph, ↓Pkg.ph_mk, ↓Pkg.cl_ph, ↓Pkg.onCore_ph, ↓Pkg.onClus_ph] | with_reducible refine of_eq_ph_Pkg ‹_› ?_ | with_reducible refine of_eq1_ph_Pkg ‹_› ?_ | with_reducible refine of_eq_ph_Clus ‹_› ?_ | with_reducible refine of_eq1_ph_Clus ‹_› ?_ | split | dsimp only)

theorem Pkg.dmaStart_ph (k a1 a2 a3 a4 a5 a6) : (Pkg.dmaStart k a1 a2 a3 a4 a5 a6).ph = k.ph := by
  unfold Pkg.dmaStart
  simp only [↓Pkg.cl_ph, ↓Clus.fail_ph, ↓Pkg.descEvent_ph, ↓Pkg.onClus_ph, ↓Pkg.onNet_ph, ↓iter_ph_Pkg, implies_true, apply_ite Pkg.ph, ite_self]

theorem Pkg.startRun_ph (k a1 a2 a3 a4) : (Pkg.startRun k a1 a2 a3 a4).ph = k.ph := by
  unfold Pkg.startRun
  simp only [↓Pkg.cl_ph, ↓Clus.sStart_ph, ↓Clus.saSelect_ph, ↓Clus.thruRegister_ph, ↓Pkg.dmaStart_ph, ↓Pkg.onClus_ph, apply_ite Pkg.ph, ite_self]

theorem Pkg.startRuns_ph (k a1) : (Pkg.startRuns k a1).ph = k.ph := by
  unfold Pkg.startRuns
  repeat' (first | (simp only [↓Pkg.startRun_ph, apply_ite Pkg.ph, ite_self]; done) | with_reducible refine ite_ph_Pkg ?_ ?_ | with_reducible refine foldl_ph_Pkg' (fun _ _ => ?_) ?_ | with_reducible refine iter_ph_Pkg' (fun _ _ => ?_) ?_ | simp only [↓Pkg.startRun_ph] | split | dsimp only)

theorem Pkg.moveDone_ph (k a1) : (Pkg.moveDone k a1).ph = k.ph := by
  unfold Pkg.moveDone
  repeat' (first | (simp only [↓Pkg.onBi_ph, ↓Pkg.onCore_ph, ↓Pkg.setMove_ph, ↓Pkg.startTest_ph, apply_ite Pkg.ph, ite_self]; done) | with_reducible refine ite_ph_Pkg ?_ ?_ | split)

/-- What `pfw` names of the package's state. -/
def Pkg.pfw (x : Pkg) := (x.fw, x.pw, x.bu, x.sec)

theorem Pkg.pfw_mk (cl net hbm fab att jobs ckpts bi pw bu fw sec) : (Pkg.mk cl net hbm fab att jobs ckpts bi pw bu fw sec).pfw = ((fw, pw, bu, sec)) := (rfl)

theorem Pkg.pfw_eta (x : Pkg) : ((x.fw, x.pw, x.bu, x.sec)) = x.pfw := (rfl)

theorem Pkg.onBi_pfw (k : Pkg) (f) : (k.onBi f).pfw = k.pfw := (rfl)

theorem Pkg.onFab_pfw (k : Pkg) (f) : (k.onFab f).pfw = k.pfw := (rfl)

theorem Pkg.onAtt_pfw (k : Pkg) (f) : (k.onAtt f).pfw = k.pfw := (rfl)

theorem Pkg.onHbm_pfw (k : Pkg) (f) : (k.onHbm f).pfw = k.pfw := (rfl)

theorem Pkg.onBu_pfw (k : Pkg) (f) (h : ((k.fw, k.pw, (f k.bu), k.sec)) = k.pfw) : (k.onBu f).pfw = k.pfw := h

theorem Pkg.onPw_pfw (k : Pkg) (f) (h : ((k.fw, (f k.pw), k.bu, k.sec)) = k.pfw) : (k.onPw f).pfw = k.pfw := h

theorem Pkg.onNet_pfw (k : Pkg) (f) : (k.onNet f).pfw = k.pfw := (rfl)

theorem Pkg.onFw_pfw (k : Pkg) (f) (h : (((f k.fw), k.pw, k.bu, k.sec)) = k.pfw) : (k.onFw f).pfw = k.pfw := h

theorem Pkg.onSec_pfw (k : Pkg) (f) (h : ((k.fw, k.pw, k.bu, (f k.sec))) = k.pfw) : (k.onSec f).pfw = k.pfw := h

theorem Pkg.onClus_pfw (k : Pkg) (f) : (k.onClus f).pfw = k.pfw := (rfl)

theorem Pkg.onCore_pfw (k : Pkg) (f) : (k.onCore f).pfw = k.pfw := (rfl)

theorem iter_pfw_Pkg (n : Nat) (f : Nat → Pkg → Pkg) (k : Pkg) (h : ∀ i x, (f i x).pfw = x.pfw) :
    (iter n f k).pfw = k.pfw := by
  induction n with
  | zero => rfl
  | succ n ih => simp [iter, h, ih]

theorem foldl_pfw_Pkg {α : Type} (l : List α) (f : Pkg → α → Pkg) (k : Pkg) (h : ∀ x a, (f x a).pfw = x.pfw) :
    (l.foldl f k).pfw = k.pfw := by
  induction l generalizing k with
  | nil => rfl
  | cons a l ih => simp [h, ih]

theorem foldl2_pfw_Pkg {α β : Type} (l : List α) (f : Pkg × β → α → Pkg × β) (k : Pkg × β)
    (h : ∀ x a, (f x a).1.pfw = x.1.pfw) : (l.foldl f k).1.pfw = k.1.pfw := by
  induction l generalizing k with
  | nil => rfl
  | cons a l ih => simp [h, ih]

theorem foldl3_pfw_Pkg {α β : Type} (l : List α) (f : β × Pkg → α → β × Pkg) (k : β × Pkg)
    (h : ∀ x a, (f x a).2.pfw = x.2.pfw) : (l.foldl f k).2.pfw = k.2.pfw := by
  induction l generalizing k with
  | nil => rfl
  | cons a l ih => simp [h, ih]

theorem ite_pfw_Pkg {c : Prop} [Decidable c] {a b : Pkg} {d} (h : a.pfw = d) (h' : b.pfw = d) :
    (if c then a else b).pfw = d := by split <;> assumption

theorem foldl_pfw_Pkg' {α : Type} {l : List α} {f : Pkg → α → Pkg} {k : Pkg} {d} (h : ∀ x a, (f x a).pfw = x.pfw)
    (h' : k.pfw = d) : (l.foldl f k).pfw = d := (foldl_pfw_Pkg l f k h).trans h'

theorem iter_pfw_Pkg' {n : Nat} {f : Nat → Pkg → Pkg} {k : Pkg} {d} (h : ∀ i x, (f i x).pfw = x.pfw) (h' : k.pfw = d) :
    (iter n f k).pfw = d := (iter_pfw_Pkg n f k h).trans h'

theorem foldl2_pfw_Pkg' {α β : Type} {l : List α} {f : Pkg × β → α → Pkg × β} {k : Pkg × β} {d}
    (h : ∀ x a, (f x a).1.pfw = x.1.pfw) (h' : k.1.pfw = d) : (l.foldl f k).1.pfw = d :=
  (foldl2_pfw_Pkg l f k h).trans h'

theorem foldl3_pfw_Pkg' {α β : Type} {l : List α} {f : β × Pkg → α → β × Pkg} {k : β × Pkg} {d}
    (h : ∀ x a, (f x a).2.pfw = x.2.pfw) (h' : k.2.pfw = d) : (l.foldl f k).2.pfw = d :=
  (foldl3_pfw_Pkg l f k h).trans h'

theorem of_eq_pfw_Pkg {β : Type} {p : β × Pkg} {a : β} {k : Pkg} {d} (h : p = (a, k)) (h' : p.2.pfw = d) :
    k.pfw = d := by subst h; exact h'

theorem of_eq1_pfw_Pkg {β : Type} {p : Pkg × β} {a : β} {k : Pkg} {d} (h : p = (k, a)) (h' : p.1.pfw = d) :
    k.pfw = d := by subst h; exact h'

theorem getD_pfw_Pkg {o : Option Pkg} {a : Pkg} {d} (h : ∀ x, o = some x → x.pfw = d) (h' : a.pfw = d) :
    (o.getD a).pfw = d := by
  cases o with
  | none => exact h'
  | some x => exact h x rfl

theorem Pkg.biShow_pfw (k a1) : (Pkg.biShow k a1).pfw = k.pfw := by
  unfold Pkg.biShow
  simp only [↓Pkg.onCore_pfw]

theorem Pkg.setMove_pfw (k a1 a2) : (Pkg.setMove k a1 a2).pfw = k.pfw := by
  unfold Pkg.setMove
  simp only [↓Pkg.onBi_pfw]

theorem Pkg.abandon_pfw (k a1 a2 a3) : (Pkg.abandon k a1 a2 a3).pfw = k.pfw := by
  unfold Pkg.abandon
  repeat' (first | (simp only [↓Pkg.biShow_pfw, ↓Pkg.onCore_pfw, ↓Pkg.setMove_pfw, apply_ite Pkg.pfw, ite_self]; done) | with_reducible refine ite_pfw_Pkg ?_ ?_ | split)

theorem Pkg.consumeAct_pfw (k a1 a2 a3 a4) : ∀ x, Pkg.consumeAct k a1 a2 a3 a4 = some x → x.pfw = k.pfw := by
  intro x h
  unfold Pkg.consumeAct at h
  dsimp only at h
  split at h
  · cases h
  · next m hm =>
    split at h
    · cases h; exact (rfl)
    · cases h
      refine foldl_pfw_Pkg' (fun x a => ?_) (rfl)
      split
      · exact (rfl)
      · rfl

theorem Pkg.act_pfw (k a1 a2 a3 a4) : (Pkg.act k a1 a2 a3 a4).2.pfw = k.pfw := by
  unfold Pkg.act
  repeat' (first | (simp only [↓Pkg.pfw_eta, ↓Pkg.pfw_mk, ↓Pkg.onClus_pfw]; done) | with_reducible refine ite_pfw_Pkg ?_ ?_ | with_reducible refine foldl_pfw_Pkg' (fun _ _ => ?_) ?_ | with_reducible refine iter_pfw_Pkg' (fun _ _ => ?_) ?_ | with_reducible refine foldl2_pfw_Pkg' (fun _ _ => ?_) ?_ | with_reducible refine foldl3_pfw_Pkg' (fun _ _ => ?_) ?_ | simp only [↓Pkg.pfw_eta] | with_reducible refine of_eq_pfw_Pkg ‹_› ?_ | with_reducible refine of_eq1_pfw_Pkg ‹_› ?_ | (refine (Pkg.consumeAct_pfw _ _ _ _ _ _ ‹_›).trans ?_) | split | dsimp only)

theorem Pkg.acts_pfw (k a1 a2 a3) : (Pkg.acts k a1 a2 a3).2.pfw = k.pfw := by
  unfold Pkg.acts
  repeat' (first | (simp only [↓Pkg.act_pfw]; done) | with_reducible refine ite_pfw_Pkg ?_ ?_ | with_reducible refine foldl_pfw_Pkg' (fun _ _ => ?_) ?_ | with_reducible refine iter_pfw_Pkg' (fun _ _ => ?_) ?_ | with_reducible refine foldl2_pfw_Pkg' (fun _ _ => ?_) ?_ | with_reducible refine foldl3_pfw_Pkg' (fun _ _ => ?_) ?_ | simp only [↓Pkg.pfw_eta, ↓Pkg.pfw_mk, ↓Pkg.act_pfw, ↓foldl_pfw_Pkg, implies_true, and_self, apply_ite Pkg.pfw, ite_self] | with_reducible refine of_eq_pfw_Pkg ‹_› ?_ | split | dsimp only)

theorem Pkg.setLink_pfw (k a1 a2) : (Pkg.setLink k a1 a2).pfw = k.pfw := by
  unfold Pkg.setLink
  simp only [↓Pkg.pfw_eta, ↓Pkg.pfw_mk]

theorem Pkg.emit_pfw (k a1 a2) : (Pkg.emit k a1 a2).pfw = k.pfw := by
  unfold Pkg.emit
  simp only [↓Pkg.onCore_pfw, ↓Pkg.onFab_pfw, ↓Pkg.setLink_pfw, apply_ite Pkg.pfw, ite_self]

theorem Pkg.setStaged_pfw (k a1 a2) : (Pkg.setStaged k a1 a2).pfw = k.pfw := by
  unfold Pkg.setStaged
  simp only [↓Pkg.onAtt_pfw]

theorem Pkg.hostWrite_pfw (k a1 a2) : (Pkg.hostWrite k a1 a2).pfw = k.pfw := by
  unfold Pkg.hostWrite
  simp only [↓Pkg.onAtt_pfw]

theorem Pkg.setRingS_pfw (k a1 a2) : (Pkg.setRingS k a1 a2).pfw = k.pfw := by
  unfold Pkg.setRingS
  simp only [↓Pkg.onAtt_pfw]

theorem Pkg.cqWrite_pfw (k a1 a2) : (Pkg.cqWrite k a1 a2).pfw = k.pfw := by
  unfold Pkg.cqWrite
  simp only [↓Pkg.hostWrite_pfw, ↓Pkg.setRingS_pfw]

theorem Pkg.cqDrain_pfw (k a1 a2) : (Pkg.cqDrain k a1 a2).pfw = k.pfw := by
  induction a2 generalizing k with
  | zero => rfl
  | succ n ih =>
    unfold Pkg.cqDrain
    split
    · rfl
    · split
      · rw [ih, Pkg.cqWrite_pfw, Pkg.setStaged_pfw]
      · rfl

theorem Pkg.complete_pfw (k a1 a2) : (Pkg.complete k a1 a2).pfw = k.pfw := by
  unfold Pkg.complete
  simp only [↓Pkg.cqDrain_pfw, ↓Pkg.setStaged_pfw]

theorem Pkg.cmdEnd_pfw (k a1 a2 a3 a4 a5 a6) : (Pkg.cmdEnd k a1 a2 a3 a4 a5 a6).pfw = k.pfw := by
  unfold Pkg.cmdEnd
  simp only [↓Pkg.complete_pfw, ↓Pkg.onAtt_pfw]

theorem Pkg.setJob_pfw (k a1 a2) : (Pkg.setJob k a1 a2).pfw = k.pfw := by
  unfold Pkg.setJob
  simp only [↓Pkg.pfw_eta, ↓Pkg.pfw_mk]

theorem Pkg.onJob_pfw (k a1) (a2 : JobS → JobS) : (Pkg.onJob k a1 a2).pfw = k.pfw := by
  unfold Pkg.onJob
  repeat' (first | (simp only [↓Pkg.setJob_pfw]; done) | with_reducible refine ite_pfw_Pkg ?_ ?_ | split)

theorem Pkg.cwWr_pfw (k a1 a2 a3) : (Pkg.cwWr k a1 a2 a3).pfw = k.pfw := by
  unfold Pkg.cwWr
  simp only [↓Pkg.onAtt_pfw]

theorem Pkg.setJobState_pfw (k a1 a2) : (Pkg.setJobState k a1 a2).pfw = k.pfw := by
  unfold Pkg.setJobState
  simp only [↓Pkg.cwWr_pfw]

theorem Pkg.sendBy_pfw (k a1 a2 a3) : (Pkg.sendBy k a1 a2 a3).pfw = k.pfw := by
  unfold Pkg.sendBy
  repeat' (first | with_reducible rfl | (simp only [↓Pkg.emit_pfw, ↓Pkg.pfw_mk, ↓Pkg.pfw_eta, ↓Pkg.onFab_pfw, ↓foldl_pfw_Pkg, ↓iter_pfw_Pkg, implies_true, apply_ite Pkg.pfw, ite_self]; done) | with_reducible refine ite_pfw_Pkg ?_ ?_ | with_reducible refine foldl_pfw_Pkg' (fun _ _ => ?_) ?_ | with_reducible refine iter_pfw_Pkg' (fun _ _ => ?_) ?_ | with_reducible refine foldl2_pfw_Pkg' (fun _ _ => ?_) ?_ | with_reducible refine foldl3_pfw_Pkg' (fun _ _ => ?_) ?_ | simp only [↓Pkg.emit_pfw, ↓Pkg.pfw_mk, ↓Pkg.pfw_eta, ↓Pkg.onFab_pfw] | with_reducible refine of_eq_pfw_Pkg ‹_› ?_ | with_reducible refine of_eq1_pfw_Pkg ‹_› ?_ | split | dsimp only)

theorem Pkg.sendTo_pfw (k a1 a2) : (Pkg.sendTo k a1 a2).2.pfw = k.pfw := by
  unfold Pkg.sendTo
  repeat' (first | with_reducible rfl | (simp only [↓Pkg.sendBy_pfw, ↓Pkg.pfw_mk, ↓Pkg.pfw_eta, ↓Pkg.onFab_pfw, ↓foldl_pfw_Pkg, ↓iter_pfw_Pkg, implies_true, apply_ite Pkg.pfw, ite_self, apply_ite Prod.fst, apply_ite Prod.snd]; done) | with_reducible refine ite_pfw_Pkg ?_ ?_ | with_reducible refine foldl_pfw_Pkg' (fun _ _ => ?_) ?_ | with_reducible refine iter_pfw_Pkg' (fun _ _ => ?_) ?_ | with_reducible refine foldl2_pfw_Pkg' (fun _ _ => ?_) ?_ | with_reducible refine foldl3_pfw_Pkg' (fun _ _ => ?_) ?_ | simp only [↓Pkg.sendBy_pfw, ↓Pkg.pfw_mk, ↓Pkg.pfw_eta, ↓Pkg.onFab_pfw] | with_reducible refine of_eq_pfw_Pkg ‹_› ?_ | with_reducible refine of_eq1_pfw_Pkg ‹_› ?_ | split | dsimp only)

theorem Pkg.sendGroup_pfw (k a1 a2) : (Pkg.sendGroup k a1 a2).pfw = k.pfw := by
  unfold Pkg.sendGroup
  simp only [↓Pkg.sendTo_pfw, ↓foldl_pfw_Pkg, implies_true, apply_ite Pkg.pfw, ite_self]

theorem Pkg.setTest_pfw (k a1 a2) : (Pkg.setTest k a1 a2).pfw = k.pfw := by
  unfold Pkg.setTest
  simp only [↓Pkg.onBi_pfw]

theorem Pkg.assignGroups_pfw (k a1 a2) : (Pkg.assignGroups k a1 a2).2.pfw = k.pfw := by
  unfold Pkg.assignGroups
  repeat' (first | (simp only [↓Pkg.onCore_pfw, ↓Pkg.onNet_pfw]; done) | with_reducible refine ite_pfw_Pkg ?_ ?_ | split | dsimp only)

theorem Pkg.fencePut_pfw (k a1 a2) : (Pkg.fencePut k a1 a2).pfw = k.pfw := by
  unfold Pkg.fencePut
  simp only [↓Pkg.onBi_pfw, ↓Pkg.onCore_pfw, apply_ite Pkg.pfw, ite_self]

theorem Pkg.fenceField_pfw (k a1 a2 a3) : (Pkg.fenceField k a1 a2 a3).pfw = k.pfw := by
  unfold Pkg.fenceField
  simp only [↓Pkg.fencePut_pfw]

theorem Pkg.startTest_pfw (k a1 a2 a3) : (Pkg.startTest k a1 a2 a3).pfw = k.pfw := by
  unfold Pkg.startTest
  simp only [↓Pkg.biShow_pfw, ↓Pkg.setTest_pfw]

theorem Pkg.placeSection_pfw (k a1 a2 a3) : (Pkg.placeSection k a1 a2 a3).pfw = k.pfw := by
  unfold Pkg.placeSection
  repeat' (first | (simp only [↓Pkg.onClus_pfw, ↓Pkg.onCore_pfw, ↓Pkg.onFab_pfw, ↓Pkg.onNet_pfw, apply_ite Pkg.pfw, ite_self]; done) | with_reducible refine ite_pfw_Pkg ?_ ?_ | split)

theorem Pkg.placeSnap_pfw (k a1) : (Pkg.placeSnap k a1).pfw = k.pfw := by
  unfold Pkg.placeSnap
  repeat' (first | (simp only [↓Pkg.onClus_pfw, ↓Pkg.onCore_pfw, ↓Pkg.onFab_pfw]; done) | with_reducible refine ite_pfw_Pkg ?_ ?_ | with_reducible refine foldl_pfw_Pkg' (fun _ _ => ?_) ?_ | with_reducible refine iter_pfw_Pkg' (fun _ _ => ?_) ?_ | simp only [↓Pkg.onFab_pfw] | split | dsimp only)

theorem Pkg.placeJob_pfw (k a1) : (Pkg.placeJob k a1).pfw = k.pfw := by
  unfold Pkg.placeJob
  repeat' (first | (simp only [↓Pkg.assignGroups_pfw, ↓Pkg.onCore_pfw, ↓Pkg.onJob_pfw, ↓Pkg.placeSection_pfw, ↓Pkg.placeSnap_pfw, ↓foldl_pfw_Pkg, implies_true]; done) | with_reducible refine ite_pfw_Pkg ?_ ?_ | with_reducible refine foldl_pfw_Pkg' (fun _ _ => ?_) ?_ | with_reducible refine iter_pfw_Pkg' (fun _ _ => ?_) ?_ | simp only [↓Pkg.onJob_pfw] | split | dsimp only)

theorem Pkg.eachCirc_pfw (k a1 a2) (a3 : Nat → Nat → Clus → Clus) : (Pkg.eachCirc k a1 a2 a3).pfw = k.pfw := by
  unfold Pkg.eachCirc
  simp only [↓Pkg.onClus_pfw, ↓foldl_pfw_Pkg, implies_true, apply_ite Pkg.pfw, ite_self]

theorem Pkg.startCircs_pfw (k a1) : (Pkg.startCircs k a1).pfw = k.pfw := by
  unfold Pkg.startCircs
  repeat' (first | (simp only [↓Pkg.onClus_pfw, ↓Pkg.onJob_pfw, ↓foldl_pfw_Pkg, implies_true]; done) | with_reducible refine ite_pfw_Pkg ?_ ?_ | split)

theorem Pkg.hbEvent_pfw (k a1 a2 a3 a4 a5) : (Pkg.hbEvent k a1 a2 a3 a4 a5).pfw = k.pfw := by
  unfold Pkg.hbEvent
  repeat' (first | with_reducible rfl | (simp only [↓Pkg.pfw_mk, ↓Pkg.pfw_eta, ↓Pkg.onCore_pfw, ↓Pkg.onClus_pfw, ↓foldl_pfw_Pkg, ↓iter_pfw_Pkg, implies_true, apply_ite Pkg.pfw, ite_self]; done) | with_reducible refine ite_pfw_Pkg ?_ ?_ | with_reducible refine foldl_pfw_Pkg' (fun _ _ => ?_) ?_ | with_reducible refine iter_pfw_Pkg' (fun _ _ => ?_) ?_ | with_reducible refine foldl2_pfw_Pkg' (fun _ _ => ?_) ?_ | with_reducible refine foldl3_pfw_Pkg' (fun _ _ => ?_) ?_ | simp only [↓Pkg.pfw_mk, ↓Pkg.pfw_eta, ↓Pkg.onCore_pfw, ↓Pkg.onClus_pfw] | with_reducible refine of_eq_pfw_Pkg ‹_› ?_ | with_reducible refine of_eq1_pfw_Pkg ‹_› ?_ | split | dsimp only)

theorem Pkg.spareCheck_pfw (k a1) : (Pkg.spareCheck k a1).pfw = k.pfw := by
  unfold Pkg.spareCheck
  repeat' (first | with_reducible rfl | (simp only [↓Pkg.pfw_mk, ↓Pkg.pfw_eta, ↓Pkg.onCore_pfw, ↓Pkg.onClus_pfw, ↓Pkg.onHbm_pfw, ↓foldl_pfw_Pkg, ↓iter_pfw_Pkg, implies_true, apply_ite Pkg.pfw, ite_self]; done) | with_reducible refine ite_pfw_Pkg ?_ ?_ | with_reducible refine foldl_pfw_Pkg' (fun _ _ => ?_) ?_ | with_reducible refine iter_pfw_Pkg' (fun _ _ => ?_) ?_ | with_reducible refine foldl2_pfw_Pkg' (fun _ _ => ?_) ?_ | with_reducible refine foldl3_pfw_Pkg' (fun _ _ => ?_) ?_ | simp only [↓Pkg.pfw_mk, ↓Pkg.pfw_eta, ↓Pkg.onCore_pfw, ↓Pkg.onClus_pfw, ↓Pkg.onHbm_pfw] | with_reducible refine of_eq_pfw_Pkg ‹_› ?_ | with_reducible refine of_eq1_pfw_Pkg ‹_› ?_ | split | dsimp only)

theorem Pkg.startPage_pfw (k a1 a2 a3 a4) : (Pkg.startPage k a1 a2 a3 a4).pfw = k.pfw := by
  unfold Pkg.startPage
  repeat' (first | with_reducible rfl | (simp only [↓Pkg.spareCheck_pfw, ↓Pkg.pfw_mk, ↓Pkg.pfw_eta, ↓Pkg.onCore_pfw, ↓Pkg.onClus_pfw, ↓Pkg.onHbm_pfw, ↓foldl_pfw_Pkg, ↓iter_pfw_Pkg, implies_true, apply_ite Pkg.pfw, ite_self]; done) | with_reducible refine ite_pfw_Pkg ?_ ?_ | with_reducible refine foldl_pfw_Pkg' (fun _ _ => ?_) ?_ | with_reducible refine iter_pfw_Pkg' (fun _ _ => ?_) ?_ | with_reducible refine foldl2_pfw_Pkg' (fun _ _ => ?_) ?_ | with_reducible refine foldl3_pfw_Pkg' (fun _ _ => ?_) ?_ | simp only [↓Pkg.spareCheck_pfw, ↓Pkg.pfw_mk, ↓Pkg.pfw_eta, ↓Pkg.onCore_pfw, ↓Pkg.onClus_pfw, ↓Pkg.onHbm_pfw] | with_reducible refine of_eq_pfw_Pkg ‹_› ?_ | with_reducible refine of_eq1_pfw_Pkg ‹_› ?_ | split | dsimp only)

theorem Pkg.rehomeGo_pfw (k a1 a2) : (Pkg.rehomeGo k a1 a2).pfw = k.pfw := by
  unfold Pkg.rehomeGo
  repeat' (first | with_reducible rfl | (simp only [↓Pkg.startPage_pfw, ↓Pkg.pfw_mk, ↓Pkg.pfw_eta, ↓Pkg.onCore_pfw, ↓Pkg.onClus_pfw, ↓foldl_pfw_Pkg, ↓iter_pfw_Pkg, implies_true, apply_ite Pkg.pfw, ite_self]; done) | with_reducible refine ite_pfw_Pkg ?_ ?_ | with_reducible refine foldl_pfw_Pkg' (fun _ _ => ?_) ?_ | with_reducible refine iter_pfw_Pkg' (fun _ _ => ?_) ?_ | with_reducible refine foldl2_pfw_Pkg' (fun _ _ => ?_) ?_ | with_reducible refine foldl3_pfw_Pkg' (fun _ _ => ?_) ?_ | simp only [↓Pkg.startPage_pfw, ↓Pkg.pfw_mk, ↓Pkg.pfw_eta, ↓Pkg.onCore_pfw, ↓Pkg.onClus_pfw] | with_reducible refine of_eq_pfw_Pkg ‹_› ?_ | with_reducible refine of_eq1_pfw_Pkg ‹_› ?_ | split | dsimp only)

theorem Pkg.rehomeNext_pfw (k a1) : (Pkg.rehomeNext k a1).pfw = k.pfw := by
  unfold Pkg.rehomeNext
  repeat' (first | with_reducible rfl | (simp only [↓Pkg.rehomeGo_pfw, ↓Pkg.pfw_mk, ↓Pkg.pfw_eta, ↓foldl_pfw_Pkg, ↓iter_pfw_Pkg, implies_true, apply_ite Pkg.pfw, ite_self]; done) | with_reducible refine ite_pfw_Pkg ?_ ?_ | with_reducible refine foldl_pfw_Pkg' (fun _ _ => ?_) ?_ | with_reducible refine iter_pfw_Pkg' (fun _ _ => ?_) ?_ | with_reducible refine foldl2_pfw_Pkg' (fun _ _ => ?_) ?_ | with_reducible refine foldl3_pfw_Pkg' (fun _ _ => ?_) ?_ | simp only [↓Pkg.rehomeGo_pfw, ↓Pkg.pfw_mk, ↓Pkg.pfw_eta] | with_reducible refine of_eq_pfw_Pkg ‹_› ?_ | with_reducible refine of_eq1_pfw_Pkg ‹_› ?_ | split | dsimp only)

theorem Pkg.wantRehome_pfw (k a1 a2 a3) : (Pkg.wantRehome k a1 a2 a3).pfw = k.pfw := by
  unfold Pkg.wantRehome
  repeat' (first | with_reducible rfl | (simp only [↓Pkg.pfw_mk, ↓Pkg.pfw_eta, ↓foldl_pfw_Pkg, ↓iter_pfw_Pkg, implies_true, apply_ite Pkg.pfw, ite_self]; done) | with_reducible refine ite_pfw_Pkg ?_ ?_ | with_reducible refine foldl_pfw_Pkg' (fun _ _ => ?_) ?_ | with_reducible refine iter_pfw_Pkg' (fun _ _ => ?_) ?_ | with_reducible refine foldl2_pfw_Pkg' (fun _ _ => ?_) ?_ | with_reducible refine foldl3_pfw_Pkg' (fun _ _ => ?_) ?_ | simp only [↓Pkg.pfw_mk, ↓Pkg.pfw_eta] | with_reducible refine of_eq_pfw_Pkg ‹_› ?_ | with_reducible refine of_eq1_pfw_Pkg ‹_› ?_ | split | dsimp only)

theorem Pkg.pcFault_pfw (k a1 a2 a3 a4) : (Pkg.pcFault k a1 a2 a3 a4).pfw = k.pfw := by
  unfold Pkg.pcFault
  repeat' (first | with_reducible rfl | (simp only [↓Pkg.hbEvent_pfw, ↓Pkg.rehomeNext_pfw, ↓Pkg.wantRehome_pfw, ↓Pkg.pfw_mk, ↓Pkg.pfw_eta, ↓Pkg.onCore_pfw, ↓Pkg.onClus_pfw, ↓foldl_pfw_Pkg, ↓iter_pfw_Pkg, implies_true, apply_ite Pkg.pfw, ite_self]; done) | with_reducible refine ite_pfw_Pkg ?_ ?_ | with_reducible refine foldl_pfw_Pkg' (fun _ _ => ?_) ?_ | with_reducible refine iter_pfw_Pkg' (fun _ _ => ?_) ?_ | with_reducible refine foldl2_pfw_Pkg' (fun _ _ => ?_) ?_ | with_reducible refine foldl3_pfw_Pkg' (fun _ _ => ?_) ?_ | simp only [↓Pkg.hbEvent_pfw, ↓Pkg.rehomeNext_pfw, ↓Pkg.wantRehome_pfw, ↓Pkg.pfw_mk, ↓Pkg.pfw_eta, ↓Pkg.onCore_pfw, ↓Pkg.onClus_pfw] | with_reducible refine of_eq_pfw_Pkg ‹_› ?_ | with_reducible refine of_eq1_pfw_Pkg ‹_› ?_ | split | dsimp only)

theorem Pkg.hbTouch_pfw (k a1 a2 a3) : (Pkg.hbTouch k a1 a2 a3).pfw = k.pfw := by
  unfold Pkg.hbTouch
  repeat' (first | with_reducible rfl | (simp only [↓Pkg.hbEvent_pfw, ↓Pkg.pcFault_pfw, ↓Pkg.wantRehome_pfw, ↓Pkg.pfw_mk, ↓Pkg.pfw_eta, ↓Pkg.onCore_pfw, ↓Pkg.onClus_pfw, ↓Pkg.onHbm_pfw, ↓foldl_pfw_Pkg, ↓iter_pfw_Pkg, implies_true, apply_ite Pkg.pfw, ite_self]; done) | with_reducible refine ite_pfw_Pkg ?_ ?_ | with_reducible refine foldl_pfw_Pkg' (fun _ _ => ?_) ?_ | with_reducible refine iter_pfw_Pkg' (fun _ _ => ?_) ?_ | with_reducible refine foldl2_pfw_Pkg' (fun _ _ => ?_) ?_ | with_reducible refine foldl3_pfw_Pkg' (fun _ _ => ?_) ?_ | simp only [↓Pkg.hbEvent_pfw, ↓Pkg.pcFault_pfw, ↓Pkg.wantRehome_pfw, ↓Pkg.pfw_mk, ↓Pkg.pfw_eta, ↓Pkg.onCore_pfw, ↓Pkg.onClus_pfw, ↓Pkg.onHbm_pfw] | with_reducible refine of_eq_pfw_Pkg ‹_› ?_ | with_reducible refine of_eq1_pfw_Pkg ‹_› ?_ | split | dsimp only)

theorem Pkg.hbRead_pfw (k a1 a2 a3 a4) : (Pkg.hbRead k a1 a2 a3 a4).2.pfw = k.pfw := by
  unfold Pkg.hbRead
  repeat' (first | with_reducible rfl | (simp only [↓Pkg.hbTouch_pfw, ↓Pkg.pfw_mk, ↓Pkg.pfw_eta, ↓foldl_pfw_Pkg, ↓iter_pfw_Pkg, implies_true, apply_ite Pkg.pfw, ite_self, apply_ite Prod.fst, apply_ite Prod.snd]; done) | with_reducible refine ite_pfw_Pkg ?_ ?_ | with_reducible refine foldl_pfw_Pkg' (fun _ _ => ?_) ?_ | with_reducible refine iter_pfw_Pkg' (fun _ _ => ?_) ?_ | with_reducible refine foldl2_pfw_Pkg' (fun _ _ => ?_) ?_ | with_reducible refine foldl3_pfw_Pkg' (fun _ _ => ?_) ?_ | simp only [↓Pkg.hbTouch_pfw, ↓Pkg.pfw_mk, ↓Pkg.pfw_eta] | with_reducible refine of_eq_pfw_Pkg ‹_› ?_ | with_reducible refine of_eq1_pfw_Pkg ‹_› ?_ | split | dsimp only)

theorem Pkg.cowSave_pfw (k a1 a2 a3) : (Pkg.cowSave k a1 a2 a3).pfw = k.pfw := by
  unfold Pkg.cowSave
  repeat' (first | with_reducible rfl | (simp only [↓Pkg.hbRead_pfw, ↓Pkg.pfw_mk, ↓Pkg.pfw_eta, ↓foldl_pfw_Pkg, ↓iter_pfw_Pkg, implies_true, apply_ite Pkg.pfw, ite_self, apply_ite Prod.fst, apply_ite Prod.snd]; done) | with_reducible refine ite_pfw_Pkg ?_ ?_ | with_reducible refine foldl_pfw_Pkg' (fun _ _ => ?_) ?_ | with_reducible refine iter_pfw_Pkg' (fun _ _ => ?_) ?_ | with_reducible refine foldl2_pfw_Pkg' (fun _ _ => ?_) ?_ | with_reducible refine foldl3_pfw_Pkg' (fun _ _ => ?_) ?_ | simp only [↓Pkg.hbRead_pfw, ↓Pkg.pfw_mk, ↓Pkg.pfw_eta] | with_reducible refine of_eq_pfw_Pkg ‹_› ?_ | with_reducible refine of_eq1_pfw_Pkg ‹_› ?_ | split | dsimp only)

theorem Pkg.hbInject_pfw (k a1 a2 a3) : (Pkg.hbInject k a1 a2 a3).pfw = k.pfw := by
  unfold Pkg.hbInject
  repeat' (first | with_reducible rfl | (simp only [↓Pkg.pfw_mk, ↓Pkg.pfw_eta, ↓Pkg.onCore_pfw, ↓Pkg.onClus_pfw, ↓Pkg.onHbm_pfw, ↓foldl_pfw_Pkg, ↓iter_pfw_Pkg, implies_true, apply_ite Pkg.pfw, ite_self]; done) | with_reducible refine ite_pfw_Pkg ?_ ?_ | with_reducible refine foldl_pfw_Pkg' (fun _ _ => ?_) ?_ | with_reducible refine iter_pfw_Pkg' (fun _ _ => ?_) ?_ | with_reducible refine foldl2_pfw_Pkg' (fun _ _ => ?_) ?_ | with_reducible refine foldl3_pfw_Pkg' (fun _ _ => ?_) ?_ | simp only [↓Pkg.pfw_mk, ↓Pkg.pfw_eta, ↓Pkg.onCore_pfw, ↓Pkg.onClus_pfw, ↓Pkg.onHbm_pfw] | with_reducible refine of_eq_pfw_Pkg ‹_› ?_ | with_reducible refine of_eq1_pfw_Pkg ‹_› ?_ | split | dsimp only)

theorem Pkg.hbBlock_pfw (k a1 a2 a3 a4) : (Pkg.hbBlock k a1 a2 a3 a4).pfw = k.pfw := by
  unfold Pkg.hbBlock
  repeat' (first | with_reducible rfl | (simp only [↓Pkg.hbInject_pfw, ↓Pkg.pfw_mk, ↓Pkg.pfw_eta, ↓foldl_pfw_Pkg, ↓iter_pfw_Pkg, implies_true, apply_ite Pkg.pfw, ite_self]; done) | with_reducible refine ite_pfw_Pkg ?_ ?_ | with_reducible refine foldl_pfw_Pkg' (fun _ _ => ?_) ?_ | with_reducible refine iter_pfw_Pkg' (fun _ _ => ?_) ?_ | with_reducible refine foldl2_pfw_Pkg' (fun _ _ => ?_) ?_ | with_reducible refine foldl3_pfw_Pkg' (fun _ _ => ?_) ?_ | simp only [↓Pkg.hbInject_pfw, ↓Pkg.pfw_mk, ↓Pkg.pfw_eta] | with_reducible refine of_eq_pfw_Pkg ‹_› ?_ | with_reducible refine of_eq1_pfw_Pkg ‹_› ?_ | split | dsimp only)

theorem Pkg.hbWrite_pfw (k a1 a2 a3 a4) : (Pkg.hbWrite k a1 a2 a3 a4).pfw = k.pfw := by
  unfold Pkg.hbWrite
  repeat' (first | with_reducible rfl | (simp only [↓Pkg.cowSave_pfw, ↓Pkg.hbBlock_pfw, ↓Pkg.pfw_mk, ↓Pkg.pfw_eta, ↓foldl_pfw_Pkg, ↓iter_pfw_Pkg, implies_true, apply_ite Pkg.pfw, ite_self]; done) | with_reducible refine ite_pfw_Pkg ?_ ?_ | with_reducible refine foldl_pfw_Pkg' (fun _ _ => ?_) ?_ | with_reducible refine iter_pfw_Pkg' (fun _ _ => ?_) ?_ | with_reducible refine foldl2_pfw_Pkg' (fun _ _ => ?_) ?_ | with_reducible refine foldl3_pfw_Pkg' (fun _ _ => ?_) ?_ | simp only [↓Pkg.cowSave_pfw, ↓Pkg.hbBlock_pfw, ↓Pkg.pfw_mk, ↓Pkg.pfw_eta] | with_reducible refine of_eq_pfw_Pkg ‹_› ?_ | with_reducible refine of_eq1_pfw_Pkg ‹_› ?_ | split | dsimp only)

theorem Pkg.dpaWrite_pfw (k a1 a2) : (Pkg.dpaWrite k a1 a2).pfw = k.pfw := by
  unfold Pkg.dpaWrite
  repeat' (first | with_reducible rfl | (simp only [↓Pkg.hbWrite_pfw, ↓Pkg.pfw_mk, ↓Pkg.pfw_eta, ↓foldl_pfw_Pkg, ↓iter_pfw_Pkg, implies_true, apply_ite Pkg.pfw, ite_self]; done) | with_reducible refine ite_pfw_Pkg ?_ ?_ | with_reducible refine foldl_pfw_Pkg' (fun _ _ => ?_) ?_ | with_reducible refine iter_pfw_Pkg' (fun _ _ => ?_) ?_ | with_reducible refine foldl2_pfw_Pkg' (fun _ _ => ?_) ?_ | with_reducible refine foldl3_pfw_Pkg' (fun _ _ => ?_) ?_ | simp only [↓Pkg.hbWrite_pfw, ↓Pkg.pfw_mk, ↓Pkg.pfw_eta] | with_reducible refine of_eq_pfw_Pkg ‹_› ?_ | with_reducible refine of_eq1_pfw_Pkg ‹_› ?_ | split | dsimp only)

theorem Pkg.spillOne_pfw (k a1 a2 a3 a4) : (Pkg.spillOne k a1 a2 a3 a4).pfw = k.pfw := by
  unfold Pkg.spillOne
  repeat' (first | with_reducible rfl | (simp only [↓Pkg.dpaWrite_pfw, ↓Pkg.setJob_pfw, ↓Pkg.pfw_mk, ↓Pkg.pfw_eta, ↓Pkg.onClus_pfw, ↓foldl_pfw_Pkg, ↓iter_pfw_Pkg, implies_true, apply_ite Pkg.pfw, ite_self]; done) | with_reducible refine ite_pfw_Pkg ?_ ?_ | with_reducible refine foldl_pfw_Pkg' (fun _ _ => ?_) ?_ | with_reducible refine iter_pfw_Pkg' (fun _ _ => ?_) ?_ | with_reducible refine foldl2_pfw_Pkg' (fun _ _ => ?_) ?_ | with_reducible refine foldl3_pfw_Pkg' (fun _ _ => ?_) ?_ | simp only [↓Pkg.dpaWrite_pfw, ↓Pkg.setJob_pfw, ↓Pkg.pfw_mk, ↓Pkg.pfw_eta, ↓Pkg.onClus_pfw] | with_reducible refine of_eq_pfw_Pkg ‹_› ?_ | with_reducible refine of_eq1_pfw_Pkg ‹_› ?_ | split | dsimp only)

theorem Pkg.dpaRead_pfw (k a1 a2) : (Pkg.dpaRead k a1 a2).2.pfw = k.pfw := by
  unfold Pkg.dpaRead
  repeat' (first | with_reducible rfl | (simp only [↓Pkg.hbRead_pfw, ↓Pkg.pfw_mk, ↓Pkg.pfw_eta, ↓foldl_pfw_Pkg, ↓iter_pfw_Pkg, implies_true, apply_ite Pkg.pfw, ite_self, apply_ite Prod.fst, apply_ite Prod.snd]; done) | with_reducible refine ite_pfw_Pkg ?_ ?_ | with_reducible refine foldl_pfw_Pkg' (fun _ _ => ?_) ?_ | with_reducible refine iter_pfw_Pkg' (fun _ _ => ?_) ?_ | with_reducible refine foldl2_pfw_Pkg' (fun _ _ => ?_) ?_ | with_reducible refine foldl3_pfw_Pkg' (fun _ _ => ?_) ?_ | simp only [↓Pkg.hbRead_pfw, ↓Pkg.pfw_mk, ↓Pkg.pfw_eta] | with_reducible refine of_eq_pfw_Pkg ‹_› ?_ | with_reducible refine of_eq1_pfw_Pkg ‹_› ?_ | split | dsimp only)

theorem Pkg.fillOne_pfw (k a1) : (Pkg.fillOne k a1).pfw = k.pfw := by
  unfold Pkg.fillOne
  repeat' (first | with_reducible rfl | (simp only [↓Pkg.dpaRead_pfw, ↓Pkg.pfw_mk, ↓Pkg.pfw_eta, ↓Pkg.onClus_pfw, ↓foldl_pfw_Pkg, ↓iter_pfw_Pkg, implies_true, apply_ite Pkg.pfw, ite_self, apply_ite Prod.fst, apply_ite Prod.snd]; done) | with_reducible refine ite_pfw_Pkg ?_ ?_ | with_reducible refine foldl_pfw_Pkg' (fun _ _ => ?_) ?_ | with_reducible refine iter_pfw_Pkg' (fun _ _ => ?_) ?_ | with_reducible refine foldl2_pfw_Pkg' (fun _ _ => ?_) ?_ | with_reducible refine foldl3_pfw_Pkg' (fun _ _ => ?_) ?_ | simp only [↓Pkg.dpaRead_pfw, ↓Pkg.pfw_mk, ↓Pkg.pfw_eta, ↓Pkg.onClus_pfw] | with_reducible refine of_eq_pfw_Pkg ‹_› ?_ | with_reducible refine of_eq1_pfw_Pkg ‹_› ?_ | split | dsimp only)

theorem Pkg.turnIn_pfw (k a1) : (Pkg.turnIn k a1).pfw = k.pfw := by
  unfold Pkg.turnIn
  repeat' (first | with_reducible rfl | (simp only [↓Pkg.eachCirc_pfw, ↓Pkg.fillOne_pfw, ↓Pkg.onJob_pfw, ↓Pkg.placeJob_pfw, ↓Pkg.startCircs_pfw, ↓Pkg.pfw_mk, ↓Pkg.pfw_eta, ↓foldl_pfw_Pkg, ↓iter_pfw_Pkg, implies_true, apply_ite Pkg.pfw, ite_self]; done) | with_reducible refine ite_pfw_Pkg ?_ ?_ | with_reducible refine foldl_pfw_Pkg' (fun _ _ => ?_) ?_ | with_reducible refine iter_pfw_Pkg' (fun _ _ => ?_) ?_ | with_reducible refine foldl2_pfw_Pkg' (fun _ _ => ?_) ?_ | with_reducible refine foldl3_pfw_Pkg' (fun _ _ => ?_) ?_ | simp only [↓Pkg.eachCirc_pfw, ↓Pkg.fillOne_pfw, ↓Pkg.onJob_pfw, ↓Pkg.placeJob_pfw, ↓Pkg.startCircs_pfw, ↓Pkg.pfw_mk, ↓Pkg.pfw_eta] | with_reducible refine of_eq_pfw_Pkg ‹_› ?_ | with_reducible refine of_eq1_pfw_Pkg ‹_› ?_ | split | dsimp only)

theorem Pkg.turnBegin_pfw (k a1 a2) : (Pkg.turnBegin k a1 a2).pfw = k.pfw := by
  unfold Pkg.turnBegin
  repeat' (first | with_reducible rfl | (simp only [↓Pkg.spillOne_pfw, ↓Pkg.turnIn_pfw, ↓Pkg.pfw_mk, ↓Pkg.pfw_eta, ↓foldl_pfw_Pkg, ↓iter_pfw_Pkg, implies_true, apply_ite Pkg.pfw, ite_self]; done) | with_reducible refine ite_pfw_Pkg ?_ ?_ | with_reducible refine foldl_pfw_Pkg' (fun _ _ => ?_) ?_ | with_reducible refine iter_pfw_Pkg' (fun _ _ => ?_) ?_ | with_reducible refine foldl2_pfw_Pkg' (fun _ _ => ?_) ?_ | with_reducible refine foldl3_pfw_Pkg' (fun _ _ => ?_) ?_ | simp only [↓Pkg.spillOne_pfw, ↓Pkg.turnIn_pfw, ↓Pkg.pfw_mk, ↓Pkg.pfw_eta] | with_reducible refine of_eq_pfw_Pkg ‹_› ?_ | with_reducible refine of_eq1_pfw_Pkg ‹_› ?_ | split | dsimp only)

theorem Pkg.unplace_pfw (k a1) : (Pkg.unplace k a1).pfw = k.pfw := by
  unfold Pkg.unplace
  simp only [↓Pkg.onClus_pfw, ↓Pkg.onCore_pfw, ↓Pkg.onFab_pfw, ↓Pkg.onJob_pfw, ↓Pkg.onNet_pfw]

theorem Pkg.poll_pfw (k) : (Pkg.poll k).pfw = k.pfw := by
  unfold Pkg.poll
  repeat' (first | with_reducible rfl | (simp only [↓Pkg.cmdEnd_pfw, ↓Pkg.eachCirc_pfw, ↓Pkg.setJobState_pfw, ↓Pkg.startCircs_pfw, ↓Pkg.turnBegin_pfw, ↓Pkg.turnIn_pfw, ↓Pkg.unplace_pfw, ↓Pkg.pfw_mk, ↓Pkg.pfw_eta, ↓Pkg.onClus_pfw, ↓foldl_pfw_Pkg, ↓iter_pfw_Pkg, implies_true, apply_ite Pkg.pfw, ite_self]; done) | with_reducible refine ite_pfw_Pkg ?_ ?_ | with_reducible refine foldl_pfw_Pkg' (fun _ _ => ?_) ?_ | with_reducible refine iter_pfw_Pkg' (fun _ _ => ?_) ?_ | with_reducible refine foldl2_pfw_Pkg' (fun _ _ => ?_) ?_ | with_reducible refine foldl3_pfw_Pkg' (fun _ _ => ?_) ?_ | simp only [↓Pkg.cmdEnd_pfw, ↓Pkg.eachCirc_pfw, ↓Pkg.setJobState_pfw, ↓Pkg.startCircs_pfw, ↓Pkg.turnBegin_pfw, ↓Pkg.turnIn_pfw, ↓Pkg.unplace_pfw, ↓Pkg.pfw_mk, ↓Pkg.pfw_eta, ↓Pkg.onClus_pfw] | with_reducible refine of_eq_pfw_Pkg ‹_› ?_ | with_reducible refine of_eq1_pfw_Pkg ‹_› ?_ | split | dsimp only)

theorem Pkg.sig0Apply_pfw (k a1) : (Pkg.sig0Apply k a1).pfw = k.pfw := by
  unfold Pkg.sig0Apply
  repeat' (first | (simp only [↓Pkg.onClus_pfw, ↓foldl_pfw_Pkg, implies_true, apply_ite Pkg.pfw, ite_self]; done) | with_reducible refine ite_pfw_Pkg ?_ ?_ | split)

theorem Pkg.heldApply_pfw (k a1) : (Pkg.heldApply k a1).pfw = k.pfw := by
  unfold Pkg.heldApply
  simp only [↓Pkg.onClus_pfw, ↓Pkg.sig0Apply_pfw, ↓foldl_pfw_Pkg, implies_true]

theorem Pkg.commitSlot_pfw (k a1 a2 a3) : (Pkg.commitSlot k a1 a2 a3).pfw = k.pfw := by
  unfold Pkg.commitSlot
  repeat' (first | (simp only [↓Pkg.acts_pfw, ↓Pkg.onClus_pfw, apply_ite Pkg.pfw, ite_self]; done) | with_reducible refine ite_pfw_Pkg ?_ ?_ | split)

theorem Pkg.commitPilot_pfw (k a1) : (Pkg.commitPilot k a1).pfw = k.pfw := by
  unfold Pkg.commitPilot
  repeat' (first | (simp only [↓Pkg.onClus_pfw]; done) | with_reducible refine ite_pfw_Pkg ?_ ?_ | split)

theorem Pkg.commitRegion_pfw (k a1) : (Pkg.commitRegion k a1).pfw = k.pfw := by
  unfold Pkg.commitRegion
  simp only [↓Pkg.commitPilot_pfw, ↓Pkg.commitSlot_pfw, ↓Pkg.heldApply_pfw, ↓Pkg.onClus_pfw, ↓Pkg.onNet_pfw, ↓foldl_pfw_Pkg, implies_true]

theorem Pkg.onCuts_pfw (k a1) (a2 : Nat → Snap → Snap) : (Pkg.onCuts k a1 a2).pfw = k.pfw := by
  unfold Pkg.onCuts
  simp only [↓Pkg.onHbm_pfw, ↓foldl_pfw_Pkg, implies_true]

theorem Pkg.cutLatch_pfw (k a1) : (Pkg.cutLatch k a1).pfw = k.pfw := by
  unfold Pkg.cutLatch
  simp only [↓Pkg.onCuts_pfw, apply_ite Pkg.pfw, ite_self]

theorem Pkg.fenceClu_pfw (k a1 a2 a3) : (Pkg.fenceClu k a1 a2 a3).pfw = k.pfw := by
  unfold Pkg.fenceClu
  repeat' (first | with_reducible rfl | (simp only [↓Pkg.fenceField_pfw, ↓Pkg.pfw_mk, ↓Pkg.pfw_eta, ↓Pkg.onCore_pfw, ↓foldl_pfw_Pkg, ↓iter_pfw_Pkg, implies_true, apply_ite Pkg.pfw, ite_self]; done) | with_reducible refine ite_pfw_Pkg ?_ ?_ | with_reducible refine foldl_pfw_Pkg' (fun _ _ => ?_) ?_ | with_reducible refine iter_pfw_Pkg' (fun _ _ => ?_) ?_ | with_reducible refine foldl2_pfw_Pkg' (fun _ _ => ?_) ?_ | with_reducible refine foldl3_pfw_Pkg' (fun _ _ => ?_) ?_ | simp only [↓Pkg.fenceField_pfw, ↓Pkg.pfw_mk, ↓Pkg.pfw_eta, ↓Pkg.onCore_pfw] | with_reducible refine of_eq_pfw_Pkg ‹_› ?_ | with_reducible refine of_eq1_pfw_Pkg ‹_› ?_ | split | dsimp only)

theorem Pkg.fenceSpare_pfw (k a1 a2 a3 a4) : (Pkg.fenceSpare k a1 a2 a3 a4).pfw = k.pfw := by
  unfold Pkg.fenceSpare
  repeat' (first | with_reducible rfl | (simp only [↓Pkg.fenceClu_pfw, ↓Pkg.pfw_mk, ↓Pkg.pfw_eta, ↓Pkg.onCore_pfw, ↓foldl_pfw_Pkg, ↓iter_pfw_Pkg, implies_true, apply_ite Pkg.pfw, ite_self]; done) | with_reducible refine ite_pfw_Pkg ?_ ?_ | with_reducible refine foldl_pfw_Pkg' (fun _ _ => ?_) ?_ | with_reducible refine iter_pfw_Pkg' (fun _ _ => ?_) ?_ | with_reducible refine foldl2_pfw_Pkg' (fun _ _ => ?_) ?_ | with_reducible refine foldl3_pfw_Pkg' (fun _ _ => ?_) ?_ | simp only [↓Pkg.fenceClu_pfw, ↓Pkg.pfw_mk, ↓Pkg.pfw_eta, ↓Pkg.onCore_pfw] | with_reducible refine of_eq_pfw_Pkg ‹_› ?_ | with_reducible refine of_eq1_pfw_Pkg ‹_› ?_ | split | dsimp only)

theorem Pkg.moveGuard_pfw (k a1) : (Pkg.moveGuard k a1).pfw = k.pfw := by
  unfold Pkg.moveGuard
  repeat' (first | with_reducible rfl | (simp only [↓Pkg.abandon_pfw, ↓Pkg.biShow_pfw, ↓Pkg.fenceSpare_pfw, ↓Pkg.setMove_pfw, ↓Pkg.startTest_pfw, ↓Pkg.pfw_mk, ↓Pkg.pfw_eta, ↓Pkg.onCore_pfw, ↓Pkg.onBi_pfw, ↓foldl_pfw_Pkg, ↓iter_pfw_Pkg, implies_true, apply_ite Pkg.pfw, ite_self]; done) | with_reducible refine ite_pfw_Pkg ?_ ?_ | with_reducible refine foldl_pfw_Pkg' (fun _ _ => ?_) ?_ | with_reducible refine iter_pfw_Pkg' (fun _ _ => ?_) ?_ | with_reducible refine foldl2_pfw_Pkg' (fun _ _ => ?_) ?_ | with_reducible refine foldl3_pfw_Pkg' (fun _ _ => ?_) ?_ | simp only [↓Pkg.abandon_pfw, ↓Pkg.biShow_pfw, ↓Pkg.fenceSpare_pfw, ↓Pkg.setMove_pfw, ↓Pkg.startTest_pfw, ↓Pkg.pfw_mk, ↓Pkg.pfw_eta, ↓Pkg.onCore_pfw, ↓Pkg.onBi_pfw] | with_reducible refine of_eq_pfw_Pkg ‹_› ?_ | with_reducible refine of_eq1_pfw_Pkg ‹_› ?_ | split | dsimp only)

theorem Pkg.lineDone_pfw (k a1) : (Pkg.lineDone k a1).pfw = k.pfw := by
  unfold Pkg.lineDone
  simp only [↓Pkg.onClus_pfw]

theorem Pkg.lineArrive_pfw (k a1 a2 a3) : (Pkg.lineArrive k a1 a2 a3).pfw = k.pfw := by
  unfold Pkg.lineArrive
  simp only [↓Pkg.lineDone_pfw, ↓Pkg.onClus_pfw, ↓Pkg.sendGroup_pfw, apply_ite Pkg.pfw, ite_self]

theorem Pkg.lineFlush_pfw (k) : (Pkg.lineFlush k).pfw = k.pfw := by
  unfold Pkg.lineFlush
  repeat' (first | (simp only [↓Pkg.lineArrive_pfw, ↓Pkg.onClus_pfw, ↓Pkg.sendTo_pfw, apply_ite Pkg.pfw, ite_self]; done) | with_reducible refine ite_pfw_Pkg ?_ ?_ | with_reducible refine foldl_pfw_Pkg' (fun _ _ => ?_) ?_ | split | dsimp only)

end Sys2Proof.Machine
end

