-- ==== Sys2Proof/Tests/Slice0.lean ====
section
/-!
SUPPORT. Tests of single steps, the well-formedness smoke and a witness for the premises of each statement.
-/
namespace Sys2Proof.Tests
open Sys2Proof.Machine

set_option Elab.async false

/-! ## Small states -/

/-- The state at reset. -/
def s0 : State := State.reset

/-- The state with a register word. -/
def word (s : State) (p o v : Nat) : State := s.onClus (·.onCore (·.wr p o (BitVec.ofNat 32 v)))

/-- The state with a word of the control window. -/
def cword (s : State) (p o v : Nat) : State := s.onPkg (·.cwWr p o (BitVec.ofNat 32 v))

/-- The command answers a next state that has the property. -/
def nextHas (o : Out) (P : State → Bool) : Bool :=
  match o with
  | .next t => P t
  | .fault _ => false
  | .refused _ => false

/-- A slot that runs an entry of words `ws` on a cluster. -/
def slotRun (clu entry circ : Nat) (ws : List W64) : SlotRun :=
  ⟨circ, entry, 0, clu, ws, 0, false, [], false, false, false⟩

/-- The state with a slot that runs in slot n of region rg. -/
def running (s : State) (rg n : Nat) (r : SlotRun) : State :=
  s.onClus (fun m => { m with tt := { m.tt with runs := kput m.tt.runs none (4 * rg + n) (some r) } })

/-- The state with the firmware complexes serving and the given device state. -/
def serving (s : State) (dev : Nat) : State :=
  s.onPkg (fun k => ({ k with fw := { k.fw with up := [(0, true), (1, true), (2, true), (3, true), (4, true), (5, true)] } } : Pkg).setDevState dev)

/-! ## Well-formedness: an ill-formed command for each check, which the check refuses -/

theorem test_wf_entry : (Instr.entryWrite 0 0 (List.replicate 31 0)).wf = false ∧
    (Instr.entryWrite 0 0 (List.replicate 32 0)).wf = true := by decide
theorem test_wf_descriptor : (Instr.regionDescriptorWrite 0 0 0 []).wf = false ∧
    (Instr.channelWrite 0 0 (List.replicate 9 0)).wf = false ∧ (Instr.commandFetch 0 [0]).wf = false := by decide
theorem test_wf_packet : ({ chunks := 1, payload := List.replicate 63 0 } : Packet).wf = false ∧
    ({ chunks := 1, payload := List.replicate 64 0 } : Packet).wf = true := by decide
theorem test_wf_packet_commands : ∀ c ∈ [Instr.read { chunks := 2, payload := [0] }, .write { chunks := 2, payload := [0] },
    .readReply { chunks := 2, payload := [0] }, .completion { chunks := 2, payload := [0] }, .groupMcast { chunks := 2, payload := [0] },
    .maskMcast { chunks := 2, payload := [0] }, .flitCrcError (.line 0 0 { chunks := 2, payload := [0] } 0)], c.wf = false := by decide
theorem test_wf_frame : ({ chunks := 33 } : Frame).wf = false ∧ ({ chunks := 1, payload := [0] } : Frame).wf = false ∧
    ({ chunks := 32 } : Frame).wf = true := by decide
theorem test_wf_frame_commands : ∀ c ∈ [Instr.nak 0 { chunks := 33 }, .wr 0 { chunks := 33 }, .wrCpl 0 { chunks := 33 },
    .rd 0 { chunks := 33 }, .rdRpl 0 { chunks := 33 }, .collData 0 { chunks := 33 }, .collDig 0 { chunks := 33 },
    .collAck 0 { chunks := 33 }, .stop 0 { chunks := 33 }, .ltArrive 0 { chunks := 33 }, .ltDone 0 { chunks := 33 },
    .takeoverAnn 0 { chunks := 33 }, .drainDone 0 { chunks := 33 }], c.wf = false := by decide
/-- A message with the given words. -/
def msg (ws : List W32) : Message := ⟨0, 0, 0, 0, 0, 0, 0, 0, 0, 0, 0, 0, 0, ws⟩
theorem test_wf_message : (Instr.messageArrive (msg [])).wf = false ∧ (Instr.messageArrive (msg (List.replicate 9 0))).wf = false ∧
    (Instr.messageArrive (msg [0])).wf = true ∧ (Instr.messageArrive (msg (List.replicate 8 0))).wf = true := by decide
theorem test_wf_flit : (Instr.linkControlFlit 0 ⟨0, false, 0, [0, 0, 0], 0, 0, 0⟩).wf = false := by decide
theorem test_wf_sal : ∀ c ∈ [Instr.rdShared { data := [0] }, .rdOwn { data := [0] }, .rdUncached { data := [0] },
    .wrFull { data := [0] }, .wrPartial { data := [0] }, .wb { data := [0] }, .evict { data := [0] }, .snpInv { data := [0] },
    .snpShare { data := [0] }, .cmp { data := [0] }, .grantS { data := [0] }, .grantE { data := [0] }, .snpI { data := [0] },
    .snpS { data := [0] }, .line { data := [0] }], c.wf = false := by decide
theorem test_wf_lists : (Instr.groupSet 0 0 0 0 0 [(0, 0)]).wf = false ∧ (Instr.drillSet 0 1 0 []).wf = false ∧
    (Instr.errorRecord ⟨0, 5, 0, false, false, 0, 0, 0⟩).wf = false ∧ (Instr.hbmTrainingPhaseEnd .idle false [] [0] 0).wf = false ∧
    (Instr.resetN [0, 0, 0]).wf = false ∧ (Instr.dbgResp [0]).wf = false := by decide

/-! ## The whole machine -/

theorem test_step_front : step { s0 with pending := [.vauxRise, .idcode] } = exec .vauxRise { s0 with pending := [.idcode] } := rfl
theorem test_premises_step : s0.pending = [] ∧ s0.pk.cl.core.cycle + 1 < s0.pk.cl.core.cpt ∧
    (let s := s0.onClus (·.onCore (fun c => { c with cycle := 12999 }))
     s.pending = [] ∧ s.pk.cl.core.cpt ≤ s.pk.cl.core.cycle + 1) := by decide +kernel
/-- A state whose fuse-secret path is blocked and whose key store is empty. -/
def blockedState : State := s0.onPkg (fun k => { k with sec := { k.sec with blocked := true }, pw := { k.pw with vaux := true } })
theorem test_premises_invariants : s0.keyGone ∧ steps s0 (s0.onClus (·.onCore (·.idle))) ∧ Memory.wf s0 = true ∧
    blockedState.keyGone ∧ blockedState.pk.sec.blocked = true ∧ steps blockedState (blockedState.onClus (·.onCore (·.idle))) ∧
    (blockedState.onClus (·.onCore (·.idle))).pk.pw.vaux = true := by
  refine ⟨fun _ => rfl, rfl, rfl, fun _ => rfl, rfl, rfl, rfl⟩
/-- Ring 3 enabled with 16 commands and 16 records. -/
def ringState : State := cword s0 19 0x40 0x80000000
theorem test_premises_doorbells : s0.pk.ringOn 3 = false ∧ ringState.pk.ringOn 3 = true ∧ ringState.pk.sqSize 3 ≤ (16 : BitVec 16).toNat ∧
    (15 : BitVec 16).toNat < ringState.pk.sqSize 3 := by decide +kernel
theorem test_doorbell_taken : nextHas (exec (.doorbell 3 15) ringState) (fun t => (t.pk.ringS 3).tail == 15) = true := by decide +kernel
theorem test_doorbell_bad : nextHas (exec (.doorbell 3 16) ringState)
    (fun t => t.pk.cl.core.records.map (·.code) == [0x0B09] && t.pk.att == ringState.pk.att) = true := by decide +kernel
theorem test_sec_inject : nextHas (exec (.registerWrite 6 0x28 4 0xFFFFFFFF) s0) (fun t => t == s0) = true := by decide +kernel

/-! ## More small states -/

/-- A change of the clusters' part of the state at reset. -/
def clus (f : Clus → Clus) : State := s0.onClus f

/-- The cycle of the tick. -/
def atCycle (s : State) (n : Nat) : State := s.onClus (·.onCore (fun c => { c with cycle := n }))

/-- Words from an offset of a page on. -/
def words (s : State) (p o : Nat) (l : List Nat) : State := s.onClus (·.onCore (·.wrs p o (l.map (BitVec.ofNat 32))))

/-- A region descriptor in force: words 0 to 7. -/
def region (s : State) (u st r : Nat) (l : List Nat) : State := words s (pageSt u st) (regionOff r) l

/-- A granule ring of `n` granules at granule 0, inbound from the line port where mode is 2, with REL, TAIL, HEXT and FLUSH. -/
def ringD (mode n rel tail hext flush : Nat) : List Nat := [2 ^ 31 + mode * 2 ^ 29, n, rel, tail, hext, 0, 0, flush]

/-- A circuit with a STATE code. -/
def circ (s : State) (rg n st : Nat) : State := word s (pageTT rg) (circOff n + 4) (st * 2 ^ 29)

/-- An entry of zeros. -/
def ent0 : List W64 := List.replicate 32 0

/-- A slot that runs an entry of zeros on cluster 0, in slot 0 of region 0, of circuit 63. -/
def run0 : State := running s0 0 0 (slotRun 0 5 63 ent0)

/-! ## The timetable -/

theorem test_premises_CircuitCommandsFollowCircuitState :
    s0.pk.cl.core.circState 0 63 = 0 ∧ (∀ st ∈ [1, 2, 3, 4], (circ s0 0 63 st).pk.cl.core.circState 0 63 = st) ∧
    (circ s0 0 63 1).pk.cl.inFlight 0 63 = false ∧
    (circ run0 0 63 1).pk.cl.core.circState 0 63 = 1 ∧ (circ run0 0 63 1).pk.cl.inFlight 0 63 = true := by decide +kernel
theorem test_circ_start : nextHas (exec (.circStart 191 63) s0) (fun t => kget t.pk.cl.tt.startPend false (circKey 191 63)) = true := by decide +kernel
theorem test_circ_start_rejected : nextHas (exec (.circStart 0 63) (circ s0 0 63 1)) (fun t =>
    t.pk.cl.core.records.map (·.code) == [0x010A] && t.pk.cl.tt.startPend == []) = true := by decide +kernel
theorem test_circ_stop : nextHas (exec (.circStop 0 63) (circ run0 0 63 1)) (fun t => t.pk.cl.core.circState 0 63 == 3) = true ∧
    nextHas (exec (.circStop 0 63) (circ s0 0 63 1)) (fun t => t.pk.cl.core.circState 0 63 == 0) = true := by decide +kernel
theorem test_circ_suspend : nextHas (exec (.circSuspend 0 63) (circ s0 0 63 1)) (fun t => t.pk.cl.core.circState 0 63 == 2) = true := by decide +kernel
theorem test_circ_resume : nextHas (exec (.circResume 0 63) (circ s0 0 63 2)) (fun t => t.pk.cl.core.circState 0 63 == 1) = true := by decide +kernel
theorem test_circ_abort : nextHas (exec (.circAbort 0 63) (circ run0 0 63 1)) (fun t =>
    (t.pk.cl.run 0 0).any (·.aborted) && kget t.pk.cl.tt.abortPend false 63) = true := by decide +kernel

/-- Region 0 with a slot run that has failed with a cause. -/
def failing : State := run0.onClus (·.fail 0 (checkCause 0x0201))
theorem test_premises_PhasesPlaceTheCycleAndStepTheTick : (s0.pk.dieDone 191).dieWaits 191 = false ∧ s0.pk.cl.pilot 0 = none ∧
    run0.pk.cl.run 0 0 = some (slotRun 0 5 63 ent0) ∧ run0.pk.regionBusy 0 = true ∧ s0.pk.regionBusy 191 = false ∧
    s0.pk.riseDue.clockOk (s0.pk.riseDue.cl.core.fld pagePw 0x54 0 16) = true := by decide +kernel
theorem test_phase_cycles : (∀ p ∈ [(Instr.closeJudgement .package, 12256), (.closeEnd .package, 12735),
    (.guardSignalSend .package, 12768), (.throughRebind, 12928)],
    nextHas (exec p.1 s0) (fun t => t.pk.cl.core.cycle == p.2) = true) := by decide +kernel
theorem test_close_end_fails : nextHas (exec (.closeEnd (.region 0)) failing) (fun t => kget t.pk.cl.tt.failed false 0) = true ∧
    nextHas (exec (.closeEnd (.region 0)) run0) (fun t => !kget t.pk.cl.tt.failed false 0) = true := by decide +kernel
theorem test_clock_step : nextHas (exec .guardClockStep s0) (fun t => t.pk.cl.core.tick == 1 && t.pk.cl.core.cycle == 0) = true := by decide +kernel
theorem test_clock_gate : nextHas (exec (.regionClockGate 0) s0) (fun t => t.pk.cl.core.rd pagePw 0x6C == 1) = true := by decide +kernel

/-- Guard offset 32 and the last of Guard that takes signals, with an inbound ring of 8 granules, 3 of them announced. -/
def inbound (n : Nat) : State := atCycle (region s0 0 0 15 (ringD 2 8 7 0 3 0)) (12736 + n)
theorem test_premises_EntryWritesPostsReleasesLockstepAndPins :
    (List.replicate 32 (0 : W64)).length = 32 ∧ s0.pk.cl.run 0 0 = none ∧ run0.pk.cl.run 0 0 = some (slotRun 0 5 63 ent0) ∧
    (∀ n ∈ [31, 256], (inbound n).pk.cl.core.applyNow = false) ∧ (∀ n ∈ [32, 255], (inbound n).pk.cl.core.applyNow = true) ∧
    (inbound 32).pk.mirrorsOf 0 = [] ∧
    (let d := (inbound 32).pk.cl.core.region 0 0 15
     d.valid = true ∧ d.mode = 2 ∧ 0 < d.size ∧ d.size ≤ 65536 ∧ d.free = 1) ∧
    (let d := (region s0 0 2 15 (ringD 2 65536 65535 0 65535 0)).pk.cl.core.region 0 2 15
     d.size = 65536 ∧ d.rel = 65535 ∧ d.hext = 65535) ∧
    (s0.pk.pw.tickRise < (1 : Nat)) ∧ s0.pk.cl.core.cpt ≤ 2 * (atCycle s0 6500).pk.cl.core.cycle ∧
    ¬ s0.pk.pw.ppsRise + 10000 ≤ s0.pk.cl.core.tick.toNat := by decide +kernel
theorem test_entry_write : nextHas (exec (.entryWrite 191 4095 (List.replicate 32 1)) s0) (fun t =>
    t.pk.cl.core.winRds (entryBase 191 + 256 * 4095) 9 == [1, 0, 0, 0, 0, 0, 0, 0, 1]) = true := by decide +kernel
theorem test_entry_busy : nextHas (exec (.entryWrite 0 5 ent0) run0) (fun t => t.pk.cl.core.records.map (·.code) == [0x0106]) = true := by decide +kernel
theorem test_post_arrive : nextHas (exec (.postArrive 0 31 65535) (atCycle (word s0 (pageTT 0) (0x80 + 4 * 31) 2) 12768)) (fun t =>
    t.pk.cl.core.fld (pageTT 0) (0x80 + 4 * 31) 0 16 == 1) = true := by decide +kernel
theorem test_post_held : nextHas (exec (.postArrive 0 31 1) s0) (fun t => t.pk.cl.tt.held == [.post 0 31 1]) = true := by decide +kernel
theorem test_release_arrive : nextHas (exec (.remoteReleaseArrive 0 0 15 1 0) (inbound 32)) (fun t =>
    let d := t.pk.cl.core.region 0 0 15
    d.rel == 0 && d.wrap && d.hext == 2) = true := by decide +kernel
theorem test_lockstep : nextHas (exec (.ttLockstep 0) run0) (fun t =>
    (t.pk.cl.causes 0).map (·.code) == [0x010C] && t.pk.cl.core.records.map (·.code) == [0x010C]) = true := by decide +kernel

/-! ## Register pages -/

theorem test_premises_ClearAndInjectionCommandsChangeExactlyTheirWords : (pageKind (pageLn 95)).isSome = true ∧
    (pageKind 0).isSome = true ∧ (pageKind 0xFFFFFF).isSome = false ∧ (31 : Fin 32).val < storeBanks 0 ∧ storeBanks 1 ≤ (16 : Fin 32).val ∧
    (9 : Fin 16).val < 10 ∧ 10 ≤ (10 : Fin 16).val ∧ (s0.pk.link 17).step ≠ .up ∧
    (let s := s0.onPkg (·.setLink 17 { s0.pk.link 17 with step := .up, lanes := [3, 4] })
     (s.pk.link 17).step = .up ∧ (s.pk.link 17).lanes = [3, 4]) := by decide +kernel
theorem test_err_clr : nextHas (exec (.errClr (BitVec.ofNat 24 (pageLn 95))) (word s0 (pageLn 95) 0x18 7)) (fun t => t.pk.cl.core.rd (pageLn 95) 0x18 == 0) = true := by decide +kernel
theorem test_parity_flip : nextHas (exec (.parityFlip 959 63) s0) (fun t => t.pk.cl.core.rd (pageSa 959) 0x28 == 0x3F02) = true := by decide +kernel
theorem test_crc_flip_no_link : nextHas (exec (.crcFlip 0 10) s0) (fun t => t.pk.cl.core.rd (pageLn 0) 0x28 == 0xA00) = true := by decide +kernel

/-! ## Stores -/

/-- A valid local ring of 4 granules at cluster 0, store 0, region 3. -/
def store4 : State := region s0 0 0 3 (ringD 1 4 2 1 0 0)
/-- The same with a slot that runs on cluster 0 and may write every region. -/
def store4r : State := running store4 0 0 (slotRun 0 5 63 (List.replicate 32 (BitVec.allOnes 64)))
theorem test_premises_StoreWritePutsExactlyItsBytes :
    (let m := store4r.pk.cl
     m.writeCause 0 0 3 255 2 (.own 15) false = 0 ∧ 0 < (m.core.region 0 0 3).size ∧ (255 + 2 - 1) / 256 - 255 / 256 < (m.core.region 0 0 3).size) ∧
    s0.pk.cl.writeCause 0 0 3 255 2 (.own 0) false ≠ 0 := by decide +kernel
theorem test_store_write : (let x := store4r.pk.cl.writeOp 0 0 3 255 [(7, false), (9, false)] (.own 15) 0
    x.1 = 0 ∧ kget x.2.st.mem 0 767 = 7 ∧ kget x.2.st.mem 0 768 = 9) := by decide +kernel

/-- A descriptor of a store operation: OP, then the words of the two ends and the length. -/
def opRun (op : Nat) (src dst : Nat) : DmaRun :=
  ⟨0, 0, 0, 0, 0, [BitVec.ofNat 64 (op * 2 ^ 60), BitVec.ofNat 64 src, 0, BitVec.ofNat 64 dst, 0, 0, 0, 0], .waiting, 8, 0, [], 0, false⟩
/-- The state with a run on the list. -/
def withRun (s : State) (r : DmaRun) : State := s.onPkg (fun k => { k with net := { k.net with runs := [r] } })
theorem test_premises_DescriptorWritesAndStoreOperations :
    s0.pk.cl.descBad 0 0 3 (regionOfWords [0x80000000, 4, 0, 0, 0, 0, 0, 0]) = false ∧
    s0.pk.cl.descBad 0 0 3 (regionOfWords [0x80000000, 0, 0, 0, 0, 0, 0, 0]) = true ∧
    (let s := withRun store4 (opRun 4 (2 ^ 60 + 3 * 2 ^ 54) (2 ^ 60 + 2 ^ 58 + 3 * 2 ^ 54))
     ∃ r, s.pk.findRun 0 0 0 = some r ∧ dOp r.words = 4 ∧ s.pk.dmaReady r = true ∧ s.pk.opBad r = false ∧ s.pk.pilotRun 0 0 0 = none) ∧
    (let s := withRun store4 (opRun 4 (2 ^ 60 + 3 * 2 ^ 54 + 2 ^ 38) (2 ^ 60 + 3 * 2 ^ 54))
     ∃ r, s.pk.findRun 0 0 0 = some r ∧ dOp r.words = 4 ∧ s.pk.dmaReady r = true ∧ s.pk.opBad r = true) ∧
    (let s := withRun store4 { opRun 4 (2 ^ 60 + 3 * 2 ^ 54) (2 ^ 60 + 2 ^ 58 + 3 * 2 ^ 54) with phase := .running, next := 1 }
     ∃ r, s.pk.findRun 0 0 0 = some r ∧ s.pk.pilotRun 0 0 0 = none ∧ r.finished = true ∧ r.engine = 8) := by
  refine ⟨by decide +kernel, by decide +kernel, ⟨_, rfl, ?_⟩, ⟨_, rfl, ?_⟩, ⟨_, rfl, ?_⟩⟩ <;> decide +kernel
theorem test_descriptor_rejected : nextHas (exec (.regionDescriptorWrite 0 2 3 [0x80000000, 0, 0, 0, 0, 0, 0, 0]) s0) (fun t =>
    t.pk.cl.core.records.map (·.code) == [0x050B] && t.pk.cl.st.pend == []) = true := by decide +kernel

/-- A ring kept at home with flush granule `f` of 4, marked where `d`. -/
def homeRing (mode f : Nat) (d : List Nat) : State :=
  (region s0 0 0 3 [2 ^ 31 + mode * 2 ^ 29 + 2 ^ 28, 4, 0, 0, 0, 0, 0x100, f]).onClus
    (fun m => { m with st := { m.st with dirty := d.map (fun g => (g, true)) } })
theorem test_premises_ScrubAndHomeFlush : bitAt ((word s0 (pageSt 0 0) 0x58 0).pk.cl.core.rd (pageSt 0 0) 0x58) 31 = false ∧
    bitAt (s0.pk.cl.core.rd (pageSt 0 0) 0x58) 31 = true ∧ (0 : Nat) < storeSize 0 / 32 ∧
    (s0.pk.cl.st.errs.filter (fun e => decide (e.1 = wordKey 0 0 0))) = [] ∧
    (((clus (fun m => { m with st := { m.st with errs := [(0, 2)] } })).pk.cl.st.errs).filter (fun e => decide (e.1 = wordKey 0 0 0))) = [(0, 2)] ∧
    (s0.pk.cl.core.region 0 0 3).homeKept = false ∧
    (let d := (homeRing 3 0 []).pk.cl.core.region 0 0 3; d.homeKept = true ∧ d.mode = 3) ∧
    (let d := (homeRing 1 3 []).pk.cl.core.region 0 0 3; d.homeKept = true ∧ d.mode ≠ 3 ∧ d.flush = 3) ∧
    (let s := homeRing 3 0 [3]; 3 < (s.pk.cl.core.region 0 0 3).size ∧ kget s.pk.cl.st.dirty false 3 = true ∧
      ∀ i, i < 3 → kget s.pk.cl.st.dirty false i = false) ∧
    (let s := homeRing 1 3 [3]; kget s.pk.cl.st.dirty false 3 = true ∧ (s.pk.cl.core.region 0 0 3).size = 4) := by decide +kernel
theorem test_scrub_ctrl : nextHas (exec (.scrubCtrlWrite 0 0 0xFFFFFFFF) s0) (fun t =>
    t.pk.cl.core.rd (pageSt 0 0) 0x58 == 0x8000FFFF && bitAt (t.pk.cl.core.rd (pageSt 0 0) 0x40) 30) = true := by decide +kernel

/-! ## Matrix cores -/

/-- A tile word of fields at bit positions. -/
def tw (l : List (Nat × Nat)) : W128 := BitVec.ofNat 128 (l.foldl (fun a e => a + e.2 * 2 ^ e.1) 0)

/-- A tile word at the head of M-core 1's queue of cluster 0, a reserved one behind it. -/
def mq (s : State) (w : W128) : State := s.onClus (·.setMQueue 0 1 [w, 0])

/-- Read-only regions 0 of the stores of cluster 0: 256, 1 and 4 granules. -/
def stores3 : State := region (region (region s0 0 0 0 (ringD 3 256 0 0 0 0)) 0 1 0 (ringD 3 1 0 0 0 0)) 0 2 0 (ringD 0 4 0 0 0 0)

/-- An output row of ones. -/
def row1 : MRow := ⟨0, 0, true, false, List.replicate 256 1, false, [], true⟩
/-- The clusters' part with rows in flight. -/
def rowState (a b : List MRow) : State := stores3.onClus (fun m => (m.setMRows 0 0 a).setMRows 0 1 b)

theorem test_premises_TileInstructionsActAtTheHeadOfTheQueue : s0.pk.cl.mQueue 0 1 = [] ∧
    (∀ op ∈ [0, 1, 2, 3, 4, 5, 6, 7, 15], opcOf (tw [(124, op)]) = op ∧ (mq s0 (tw [(124, op)])).pk.cl.mQueue 0 1 = [tw [(124, op)], 0]) ∧
    (mq s0 0).pk.cl.mLoad 0 0 = none ∧ (mq s0 0).pk.cl.mLoad 0 1 = none ∧
    tf (tw [(116, 6)]) 116 4 = 6 ∧ tf (tw [(16, 1)]) 16 80 ≠ 0 ∧ tf (tw [(95, 1)]) 16 80 ≠ 0 ∧ tf (tw [(120, 1)]) 120 1 ≠ 0 ∧
    s0.pk.cl.mmaBad 0 1 (tw [(124, 2)]) false = true ∧ s0.pk.cl.mmaBad 0 1 (tw [(124, 3)]) true = true := by decide +kernel
theorem test_mchk_reserved : nextHas (exec (.mchk 0 1) (mq s0 (tw [(124, 7)]))) (fun t =>
    t.pk.cl.mQueue 0 1 == [] && (t.pk.cl.causes 0).map (·.code) == [0x0202]) = true := by decide +kernel

/-- An MLOAD of an FP8 tile, of a T2 tile and of a GFP4 tile from region 0, and a T2 header in the store. -/
def mloadWord (fmt : Nat) : W128 := tw [(124, 1), (116, fmt)]
def hdrState : State := (mq stores3 (mloadWord 15)).onClus (fun m => { m with st := { m.st with mem := [(0, 15)] } })
theorem test_premises_MloadFillsTheBufferItNames :
    ((s0.onClus (·.setMLoad 0 0 (some (0, [], false)))).pk.cl.mLoad 0 0).isSome ∧ s0.pk.cl.mLoad 0 1 = none ∧
    (∀ fmt ∈ [3, 14, 15], let w := mloadWord fmt
      (mq stores3 w).pk.cl.mQueue 0 1 = [w, 0] ∧ opcOf w = 1 ∧ (mq stores3 w).pk.cl.mLoad 0 0 = none ∧
      (mq stores3 w).pk.cl.mLoad 0 1 = none ∧ tf w 120 1 = 0 ∧ tf w 16 80 = 0 ∧ tf w 121 2 = 0 ∧ tf w 116 4 = fmt ∧
      (mq stores3 w).pk.cl.core.fits 0 0 (tf w 112 4) (tf w 96 16) ((tileBytes fmt + 255) / 256) = true) := by decide +kernel
theorem test_premises_MloadHeader :
    (let h := (mq stores3 (mloadWord 14)).pk.cl.readOp 0 0 0 0 64 (.own 15) 1
     h.1.any (·.2) = false ∧ hdrBad 14 (h.1.map (·.1)) = true) ∧
    (let h := hdrState.pk.cl.readOp 0 0 0 0 64 (.own 15) 1
     h.1.any (·.2) = false ∧ hdrBad 15 (h.1.map (·.1)) = false ∧ hdrRow (h.1.map (·.1)) = false ∧
     h.2.2.core.fits 0 0 0 0 ((imageBytes 15 0 false + 255) / 256) = true) ∧
    emptyBuf.fmt ≠ 15 := by decide +kernel
theorem test_mload_bad_header : nextHas (exec (.mload 0 1) (mq stores3 (mloadWord 14))) (fun t =>
    (t.pk.cl.causes 0).map (·.code) == [0x0222] && (t.pk.cl.mLoad 0 1).isNone) = true := by decide +kernel
theorem test_mload_complete : nextHas (exec (.mloadComplete 0 1) (s0.onClus (·.setMLoad 0 1 (some (tw [(116, 3), (123, 1)], [7], false))))) (fun t =>
    let b := t.pk.cl.mBuf 0 1 1
    b.valid && b.fmt == 3 && (t.pk.cl.mLoad 0 1).isNone) = true := by decide +kernel

/-- An MMA or MMAS of one row, FP8 on FP8, and an MDRAIN of one row to FP32, which fit. -/
def mmaState (op : Nat) : State :=
  (mq stores3 (tw [(124, op), (116, 3)])).onClus (·.setMBuf 0 1 0 ⟨true, 3, 0, [(0, [1])], 0⟩)
theorem test_premises_MmaProducesRowsThatArriveInTheAccumulatorStore :
    (∀ op ∈ [2, 3], (mmaState op).pk.cl.mQueue 0 1 = [tw [(124, op), (116, 3)], 0] ∧ (mmaState op).pk.cl.mLoad 0 1 = none ∧
      (mmaState op).pk.cl.mmaBad 0 1 (tw [(124, op), (116, 3)]) (op == 3) = false) ∧
    (let d := (mmaState 3).pk.cl.readOp 0 1 0 0 128 (.own 15) 1; d.1.any (·.2) = false ∧ segDesc (d.1.map (·.1)) = none) ∧
    (segDesc ([1] ++ List.replicate 127 0)).isSome ∧ (segDesc ([17] ++ List.replicate 127 0)).isNone ∧
    (let m := ((mmaState 2).onClus (·.setMLoad 0 1 (some (mloadWord 3, [], false)))).pk.cl
     m.mLoad 0 1 = some (mloadWord 3, [], false) ∧ tf (mloadWord 3) 123 1 = tf (tw [(124, 2)]) 123 1) ∧
    s0.pk.cl.mRows 0 1 = [] ∧
    (let m := (rowState [row1] [{ row1 with init := false }]).pk.cl
     m.mRows 0 0 = [row1] ∧ m.mRows 0 1 = [{ row1 with init := false }] ∧ m.rowGranules 0 row1 = [0, 1, 2, 3]) := by decide +kernel
theorem test_mmas_bad_segment : nextHas (exec (.mmas 0 1) (mmaState 3)) (fun t =>
    (t.pk.cl.causes 0).map (·.code) == [0x0203] && t.pk.cl.mQueue 0 1 == []) = true := by decide +kernel

/-- A row check. -/
def chk1 (skip fail : Bool) : MChk := ⟨7, 9, 0, skip, fail, 0, 0, 0, 5, false⟩
/-- M-core 1 with one check due. -/
def chkState (skip fail : Bool) : State := s0.onClus (·.setMChecks 0 1 [chk1 skip fail])
theorem test_premises_DrainSyncReportAndRowChecks :
    (rowState [] [row1]).pk.cl.mRows 0 1 ≠ [] ∧
    (let w := tw [(124, 4), (116, 0), (80, 0)]
     let m := (region (mq stores3 w) 0 1 0 (ringD 0 4 0 0 0 0)).pk.cl
     m.mQueue 0 1 = [w, 0] ∧ opcOf w = 4 ∧ m.mRows 0 1 = [] ∧ tf w 120 1 = 0 ∧ tf w 16 28 = 0 ∧ drainOk 0 false false = true ∧
     isBlockFmt 0 = false ∧ tf w 60 4 = 0 ∧ tf w 44 16 = 0 ∧ m.core.fits 0 2 0 0 4 = true ∧
     m.core.fits 0 1 0 0 ((rowBytes 0 256 + 255) / 256) = true) ∧
    (let w := tw [(124, 4), (116, 11), (44, 1)]
     let m := (region (mq stores3 w) 0 1 0 (ringD 0 4 0 0 0 0)).pk.cl
     opcOf w = 4 ∧ m.mRows 0 1 = [] ∧ tf w 16 28 = 0 ∧ drainOk 11 false false = true ∧ isBlockFmt 11 = true ∧ m.core.fits 0 2 0 0 4 = true ∧
     m.core.fits 0 1 0 0 ((rowBytes 11 256 + 255) / 256) = true ∧ m.core.fits 0 1 0 1 1 = true) ∧
    (∀ op ∈ [0, 1, 2], let w := tw [(124, 5), (114, op), (98, 1), (116, 15)]
      opcOf w = 5 ∧ tf w 120 1 = 0 ∧ tf w 16 82 = 0 ∧ tf w 114 2 = op ∧ s0.pk.cl.mIdle 0 1 (tf w 121 3) = true ∧
      s0.pk.cl.sync 0 15 < tf w 98 16 ∧ (s0.onClus (·.signal 0 15)).pk.cl.sync 0 15 = tf w 98 16) ∧
    (rowState [] [row1]).pk.cl.mIdle 0 1 7 = false ∧ (rowState [] [row1]).pk.cl.mIdle 0 1 3 = false ∧
    (let w := tw [(124, 6), (96, 8191)]; opcOf w = 6 ∧ tf w 109 15 = 0 ∧ tf w 16 80 = 0 ∧ s0.pk.cl.mIdle 0 1 3 = true) ∧
    s0.pk.cl.mChecks 0 1 = [] ∧ (∀ b ∈ [true, false], ∀ f ∈ [true, false], (chkState b f).pk.cl.mChecks 0 1 = [chk1 b f]) ∧
    (((chkState false true).onClus (·.setMRows 0 1 [row1])).pk.cl.mRows 0 1).filter (·.chk) = [row1] := by decide +kernel
theorem test_msync_signal : nextHas (exec (.msync 0 1) (mq s0 (tw [(124, 5), (114, 1), (116, 15)]))) (fun t =>
    t.pk.cl.sync 0 15 == 1 && t.pk.cl.mQueue 0 1 == [0]) = true := by decide +kernel
theorem test_row_check_fails : nextHas (exec (.rowCheck 0 1) (chkState false true)) (fun t =>
    let r := t.pk.cl.mRec 0 1
    r.failed == 1 && r.firstTag == 7 && r.firstRow == 9 && (t.pk.cl.causes 0).map (·.code) == [0x0201]) = true := by decide +kernel
theorem test_row_check_passes : nextHas (exec (.rowCheck 0 1) (chkState false false)) (fun t =>
    t.pk.cl.core.rd (pageMc 0 1) 0xD0 == 5 && (t.pk.cl.causes 0) == []) = true := by decide +kernel

/-! ## Scalar cores -/

/-- Cluster 0's S-core at PC 16 in a mode, with x1 and x2 in both banks. -/
def score (mode : SMode) (x1 x2 : Nat) (wait : SWait := .none) : State :=
  s0.onClus (fun m => { m.setScore 0 ⟨mode, true, 16, 16, 0, wait, false, 0, false, [], [], none⟩ with
    sc := { m.sc with core := [(0, ⟨mode, true, 16, 16, 0, wait, false, 0, false, [], [], none⟩)],
                      x := [(1, BitVec.ofNat 64 x1), (2, BitVec.ofNat 64 x2), (33, BitVec.ofNat 64 x1), (34, BitVec.ofNat 64 x2)] } })
/-- The same with a full queue at M-core 0. -/
def fullQueue (wait : SWait) : State := (score .program 0 0 wait).onClus (·.setMQueue 0 0 (List.replicate 32 0))

theorem test_premises_StagingRegisterAndTileQueueInstructions :
    (score .program 1 2).pk.cl.sRuns 0 = true ∧ (score .handler 1 2).pk.cl.sRuns 0 = true ∧
    ((score .handler 1 2).pk.cl.score 0).mode = .handler ∧ ((score .program 1 2).pk.cl.score 0).mode ≠ .handler ∧
    (127 : Fin 128).val + (0 : Fin 32).val < 128 ∧ 128 ≤ (127 : Fin 128).val + (1 : Fin 32).val ∧
    unitOk 4 = false ∧ unitOk 6 = false ∧ unitOk 3 = true ∧ unitOk 5 = true ∧
    ((score .program 1 2).pk.cl.unitQueue 0 5).length < 32 ∧ ¬ ((fullQueue .none).pk.cl.unitQueue 0 0).length < 32 ∧
    ((score .program 1 2 (.queue 5)).pk.cl.score 0).wait = .queue 5 ∧ ((fullQueue (.queue 0)).pk.cl.score 0).wait = .queue 0 ∧
    32 ≤ ((fullQueue (.queue 0)).pk.cl.unitQueue 0 0).length ∧ ((score .program 1 2).pk.cl.score 0).wait ≠ .queue 0 ∧
    bitAt ((score .program 1 2).pk.cl.core.rd (pageS 0) 0x28) 0 = false := by decide +kernel
theorem test_tsthi : nextHas (exec (.tsthi 0 1) (score .program 5 0)) (fun t =>
    let y := t.pk.cl.score 0
    y.stage == 5 * 2 ^ 64 && y.pc0 == 20) = true := by decide +kernel
theorem test_tfld : nextHas (exec (.tfld 0 1 124 3) (score .program 0x1F 0)) (fun t => (t.pk.cl.score 0).stage == tw [(124, 15)]) = true ∧
    nextHas (exec (.tfld 0 1 127 1) (score .program 1 0)) (fun t => (t.pk.cl.score 0).mode == .halted) = true := by decide +kernel
theorem test_ttry_full : nextHas (exec (.ttry 0 3 0) (fullQueue .none)) (fun t => t.pk.cl.xr 0 3 == 1 && (t.pk.cl.score 0).pc0 == 20) = true := by decide +kernel
theorem test_tqdepth : nextHas (exec (.tqdepth 0 3 0) (fullQueue .none)) (fun t => t.pk.cl.xr 0 3 == 32) = true := by decide +kernel
theorem test_tissue_stalls : nextHas (exec (.tissue 0 0) (fullQueue .none)) (fun t => (t.pk.cl.score 0).wait == .queue 0 && (t.pk.cl.score 0).pc0 == 16) = true := by decide +kernel

theorem test_premises_ScoreRunsOnlyWhereItMayAndTraps : s0.pk.cl.sRuns 0 = false ∧
    (score .program 1 2 (.counter 0 1)).pk.cl.sRuns 0 = false ∧ s0.pk.cl.core.dbgLevel < 2 ∧ (∃ x, x ∈ [Instr.ecall 0] ∧ x = .ecall 0) := by
  refine ⟨by decide +kernel, by decide +kernel, by decide +kernel, .ecall 0, by simp, rfl⟩
theorem test_ecall : nextHas (exec (.ecall 0) (score .program 0 0)) (fun t =>
    (t.pk.cl.score 0).mode == .halted && (t.pk.cl.causes 0).map (·.code) == [0x0304]) = true := by decide +kernel

theorem test_premises_SyncExitFenceAndCsrInstructions :
    (let m := (score .program 0x1F 0x10000).pk.cl; bitsAt (m.xr 0 1) 0 4 = 15 ∧ bitsAt (m.xr 0 2) 0 16 ≤ m.sync 0 15) ∧
    (let m := (score .program 0 1).pk.cl; m.sync 0 0 < bitsAt (m.xr 0 2) 0 16 ∧ m.withdrawOn 0 = m ∧ (m.runOrPilot 0).isSome = false) ∧
    (0xCBF : BitVec 12) < 0xCC0 ∧ (0xCC3 : BitVec 12) < 0xCC4 ∧
    run0.pk.cl.runOrPilot 0 = some (0, slotRun 0 5 63 ent0) ∧
    (let y := (score .program 0 0 (.counter 3 1)).pk.cl; (y.score 0).wait = .counter 3 1 ∧ (y.score 0).mode = .program ∧ y.sync 0 3 < 1) ∧
    1 ≤ ((score .program 0 0 (.counter 3 1)).onClus (·.signal 0 3)).pk.cl.sync 0 3 ∧
    (let w := tw [(124, 5), (114, 2), (98, 1)]
     let m := ((mq s0 w).onClus (fun m => { m with mc := { m.mc with waiting := [(1, true)] } })).pk.cl
     m.mQueue 0 1 = [w, 0] ∧ opcOf w = 5 ∧ kget m.mc.waiting false (mKey 0 1) = true ∧ m.sync 0 (tf w 116 4) < tf w 98 16 ∧
     tf w 98 16 ≤ (m.signal 0 0).sync 0 0) ∧
    (let w := tw [(124, 13), (114, 2), (98, 1)]
     let m := (s0.onClus (fun m => { m.setVQueue 0 1 [w] with vc := { (m.setVQueue 0 1 [w]).vc with waiting := [(1, true)] } })).pk.cl
     m.vQueue 0 1 = [w] ∧ opcOf w = 13 ∧ kget m.vc.waiting false (vKey 0 1) = true ∧ m.sync 0 (tf w 116 4) < tf w 98 16) := by decide +kernel
theorem test_tsig_wraps : nextHas (exec (.tsig 0 1) ((score .program 15 0).onClus (fun m => { m with sc := { m.sc with sync := [(15, 65535)] } }))) (fun t =>
    t.pk.cl.sync 0 15 == 0) = true := by decide +kernel
theorem test_twaitc : nextHas (exec (.twaitc 0 1 2) (score .program 0 1)) (fun t => (t.pk.cl.score 0).wait == .counter 0 1) = true ∧
    nextHas (exec (.twaitc 0 1 2) (score .program 0 0)) (fun t => (t.pk.cl.score 0).pc0 == 20) = true := by decide +kernel
theorem test_csr_cycle : nextHas (exec (.csrRead 0 3 0xCC2) (atCycle (score .program 0 0) 777)) (fun t => t.pk.cl.xr 0 3 == 777) = true := by decide +kernel
theorem test_mret : nextHas (exec (.mret 0) (score .handler 0 0)) (fun t => (t.pk.cl.score 0).mode == .program) = true := by decide +kernel

/-- Bytes of a memory window. -/
def win (s : State) (a : Nat) (l : List Byte) : State := s.onClus (·.onCore (·.winWr a l))

theorem test_premises_LoadsAndStoresOfTheScore :
    (let m := (score .program 0x13FFFF 2).pk.cl
     m.sRuns 0 = true ∧ bitAt (m.core.rd (pageS 0) 0x28) 0 = false ∧ inDmem (m.xr 0 1).toNat 1 = true ∧ m.dPoisoned 0 0x3FFFF 1 = false ∧
     inDmem (m.xr 0 1).toNat 2 = false ∧ m.core.winOk 0 (m.xr 0 1).toNat 2 = false) ∧
    ((score .program 0 2).onClus (fun m => { m with sc := { m.sc with dpoi := [(8191, true)] } })).pk.cl.dPoisoned 0 0x3FFFF 1 = true ∧
    (let m := (region (score .program 0 2) 0 0 0 [2 ^ 31 + 3 * 2 ^ 29 + 15 * 2 ^ 23, 1, 0, 0, 0, 0, 0, 0]).pk.cl
     inDmem 0x100000F8 8 = false ∧ m.core.winOk 0 0x100000F8 8 = true ∧ winAddr 0x100000F8 = some (0, 0, 0xF8) ∧
     (m.readOp 0 0 0 0xF8 8 (.own (m.sJob 0)) 4).1.any (·.2) = false ∧
     bitAt ((m.readOp 0 0 0 0xF8 8 (.own (m.sJob 0)) 4).2.2.core.rd (pageS 0) 0x28) 0 = false) ∧
    (3 : BitVec 3) < 4 ∧ (6 : BitVec 3) ≠ 7 := by decide +kernel
theorem test_load_signed : nextHas (exec (.windowLoad 0 3 1 0xFFF 0) (win (score .program 0x100001 0) (dmemBase 0) [0x80])) (fun t =>
    t.pk.cl.xr 0 3 == 0xFFFFFFFFFFFFFF80) = true ∧
    nextHas (exec (.windowLoad 0 3 1 0 4) (win (score .program 0x100000 0) (dmemBase 0) [0x80])) (fun t => t.pk.cl.xr 0 3 == 0x80) = true := by decide +kernel
theorem test_store : nextHas (exec (.windowStore 0 1 2 0 1) (score .program 0x100004 0x12345)) (fun t =>
    t.pk.cl.core.winRds (dmemBase 0 + 4) 3 == [0x45, 0x23, 0]) = true := by decide +kernel

/-- The S-core at PC 16 with an instruction there. -/
def code (x1 x2 : Nat) (l : List Byte) : State := win (score .program x1 x2) (imemBase 0 + 16) l
/-- The S-core at a PC. -/
def atPc (pc : Nat) : State :=
  s0.onClus (fun m => { m with sc := { m.sc with core := [(0, ⟨.program, true, pc, 0, 0, .none, false, 0, false, [], [], none⟩)] } })
theorem test_premises_Rv64ImcInstructionsExecuteAtThePc :
    (∀ pc ∈ [0x1FFFF, 0x20000], 0x20000 < ((atPc pc).pk.cl.score 0).pc + 2) ∧ 0x1FFFE + 2 = 0x20000 ∧
    leNat ((win (atPc 0x1FFFE) (imemBase 0 + 0x1FFFE) [3]).pk.cl.core.winRds (imemBase 0 + 0x1FFFE) 2) % 4 = 3 ∧
    (let h := leNat ((code 0 0 [0x15, 0x04]).pk.cl.core.winRds (imemBase 0 + 16) 2); h % 4 ≠ 3 ∧ (expandC h).isSome) ∧
    (let h := leNat ((code 0 0 [0, 0]).pk.cl.core.winRds (imemBase 0 + 16) 2); h % 4 ≠ 3 ∧ expandC h = none) ∧
    fb 0x001121B7 0 7 = 0x37 ∧ fb 0x00112197 0 7 = 0x17 ∧ fb 0x008000EF 0 7 = 0x6F ∧
    fb 0x002081B3 0 7 = 0x33 ∧ aluOp 0 0 7 9 = some 16 ∧ fb 0xFFF08193 0 7 = 0x13 ∧ aluImm 0 0xFFF 7 = some 6 ∧
    fb 0x002081BB 0 7 = 0x3B ∧ aluOp32 0 0 0xFFFFFFFF 1 = some 0 ∧ fb 0x0010819B 0 7 = 0x1B ∧ aluImm32 0 1 0x7FFFFFFF = some 0x80000000 ∧
    fb 0x00208463 0 7 = 0x63 ∧ branchTaken 0 3 3 = some true ∧ branchTaken 0 3 4 = some false := by decide +kernel
theorem test_rv_add : nextHas (exec (.rv64imcInstruction 0) (code 7 9 [0xB3, 0x81, 0x20, 0x00])) (fun t =>
    t.pk.cl.xr 0 3 == 16 && (t.pk.cl.score 0).pc0 == 20) = true := by decide +kernel
theorem test_rv_branch : nextHas (exec (.rv64imcInstruction 0) (code 3 3 [0x63, 0x84, 0x20, 0x00])) (fun t => (t.pk.cl.score 0).pc0 == 24) = true ∧
    nextHas (exec (.rv64imcInstruction 0) (code 3 4 [0x63, 0x84, 0x20, 0x00])) (fun t => (t.pk.cl.score 0).pc0 == 20) = true := by decide +kernel
theorem test_rv_mul_div : aluOp 1 0 (-1) (-1) = some 1 ∧ aluOp 1 4 7 0 = some (-1) ∧
    aluOp 1 4 0x8000000000000000 (-1) = some 0x8000000000000000 ∧ aluOp 1 6 7 0 = some 7 := by decide +kernel

/-- The S-core in a mode with channel 0 open for sending to die 0, region 0, slot 0, channel 0. -/
def sender (mode : SMode) (wait : SWait := .none) (x2 : Nat := 0x100000) : State :=
  word (word (word (score mode 0x100 x2 wait) (pageMsg 0) (chanOff 0) (2 ^ 31 + 15 * 2 ^ 26)) (pageMsg 0) (chanOff 0 + 4) 0)
    (pagePts 0) 0x100 128
/-- The same with a full outbound buffer. -/
def fullOut (mode : SMode) (wait : SWait := .none) : State := (sender mode wait).onClus (·.setOut 0 (List.replicate 4 (msg [0])))
theorem test_premises_SendInstructionsPutOneMessage :
    (let m := (sender .program).pk.cl
     m.sRuns 0 = true ∧ m.sendOk 0 0 = true ∧ m.outFull 0 = false ∧ m.isPilot 0 = false ∧ m.outBuf 0 = [] ∧
     m.sig2Held (m.core.msgDest (m.mkMessage 0 0 [5])) = false ∧ bitsAt (m.xr 0 1) 8 3 + 1 = 2 ∧ (m.xr 0 2).toNat = 0x100000 ∧
     inDmem 0x100000 8 = true ∧ m.dPoisoned 0 0 8 = false ∧ inDmem 0x13FFFC 8 = false ∧ bitAt (m.core.rd (pageS 0) 0x28) 0 = false) ∧
    (∀ md ∈ [SMode.program, .handler], ((sender md).onClus (fun m => { m with sc := { m.sc with dpoi := [(0, true)] } })).pk.cl.dPoisoned 0 0 8 = true ∧
      (sender md).pk.cl.sRuns 0 = true) ∧
    (score .program 0 0).pk.cl.sendOk 0 0 = false ∧ (fullOut .program).pk.cl.outFull 0 = true ∧ (fullOut .program).pk.cl.sendOk 0 0 = true ∧
    (let m := (fullOut .program (.send 0 [5])).pk.cl; (m.score 0).wait = .send 0 [5] ∧ (m.score 0).mode = .program ∧ m.outFull 0 = true) ∧
    (sender .program (.send 0 [5])).pk.cl.outFull 0 = false := by decide +kernel
theorem test_msend : nextHas (exec (.msend 0 1 2) (sender .program)) (fun t => t.pk.cl.msg.fly.map (·.words) == [[0x100000]] && (t.pk.cl.score 0).pc0 == 20) = true := by decide +kernel
theorem test_msendnb_full : nextHas (exec (.msendnb 0 3 1 2) (fullOut .program)) (fun t => t.pk.cl.xr 0 3 == 1) = true := by decide +kernel
theorem test_msend_stalls : nextHas (exec (.msend 0 1 2) (fullOut .program)) (fun t => (t.pk.cl.score 0).wait == .send 0 [0x100000]) = true := by decide +kernel

/-- Cluster 0's S-core with tablet operand x1, target or threshold x2, and local tablet 0 of job 15 with TARGET 2 and COUNT. -/
def tablet (mode : SMode) (x1 x2 count : Nat) : State :=
  words (score mode x1 x2) (pageTb 0) 0x100 [2 * 2 ^ 16 + 15 * 2 ^ 12 + 2 ^ 11, count + 9 * 2 ^ 16]
/-- A slot that names through tablet 0, bound to it, whose joined generation still runs. -/
def through (mode : SMode) (wait : SWait) (gen : Nat) : State :=
  let e : List W64 := [0x0F00000000000000, 0, 1] ++ List.replicate 29 0
  (words (word (running (score mode 128 0 wait) 0 0 (slotRun 0 5 63 e)) pageRoot 0x200 (2 ^ 31 + 15 * 2 ^ 27)) pageRoot (thruOff 0)
    [2 * 2 ^ 16 + 15 * 2 ^ 12 + 2 ^ 11, gen * 2 ^ 16]).onClus
    (fun m => { m with sc := { m.sc with core := [(0, { m.score 0 with joined := [(128, 9)], thruGen := [(128, 9)] })] } })
/-- Cluster 0 as region 0's relief cluster with a pilot of slot 0, whose program has logged a TBARRIVE of tablet 5, or nothing. -/
def piloting (mode : SMode) (l : List TabOp) (count : Nat) : State :=
  (word (tablet mode 5 3 count) (pageTT 0) 0x40 (8 + 2 * 64 + 3 * 512 + 4 * 4096 + 2 ^ 21)).onClus (fun m =>
    { m with tab := { m.tab with log := [(0, l), (1, l)] } })
theorem test_premises_TabletOperationsOfTheScore :
    (∀ md ∈ [SMode.program, .handler], ∀ l ∈ [[], [⟨0, 5, 7⟩], [⟨1, 5, 7⟩]], let m := (piloting md l 1).pk.cl
      m.sRuns 0 = true ∧ m.isPilot 0 = true ∧ bitsAt (m.xr 0 1) 0 8 = 5 ∧
      (kget m.tab.log [] (2 * (4 * (0 / 5) + mapPilotOf (m.core.slotMap (0 / 5))) + b2n (m.inHandler 0)))[kget m.tab.plog 0 (2 * (0 / 5) + b2n (m.inHandler 0))]? = l.head?) ∧
    mapPilotEn ((tablet .program 0 3 1).pk.cl.core.slotMap (0 / 5)) = false ∧
    (piloting .program [] 1).pk.cl.isPilot 1 = false ∧ mapPilotEn ((piloting .program [] 1).pk.cl.core.slotMap (1 / 5)) = true ∧
    ((piloting .program [] 1).pk.cl.score ((piloting .program [] 1).pk.cl.core.reliefOf (1 / 5))).pilotWait ((piloting .program [] 1).pk.cl.inHandler 1) = none ∧
    (match (tablet .program 1 0 0).pk.cl.tabLoc 0 1 with
      | .ok _ => false
      | .error _ => true) = true ∧
    (let m := (tablet .program 0 3 1).pk.cl
     m.sRuns 0 = true ∧ m.isPilot 0 = false ∧ m.pilot 0 = none ∧ m.arriveBlocked 0 0 (pageTb 0) 0x100 = false ∧
     (m.score 0).joined.find? (fun e => e.1 == 0) = none ∧ m.core.tbTarget (pageTb 0) 0x100 ≤ m.core.tbCount (pageTb 0) 0x100 + 1 ∧
     m.core.tbCount (pageTb 0) 0x100 < 65535) ∧
    (match (tablet .program 0 3 1).pk.cl.tabLoc 0 0 with
      | .ok p => p == (pageTb 0, 0x100)
      | .error _ => false) = true ∧
    (tablet .program 0 3 0).pk.cl.core.tbCount (pageTb 0) 0x100 + 1 < (tablet .program 0 3 0).pk.cl.core.tbTarget (pageTb 0) 0x100 ∧
    (let m := (through .program .none 9).pk.cl
     bitsAt (m.xr 0 1) 0 8 = 128 ∧ m.arriveBlocked 0 128 pageRoot 0x100 = true ∧
     (m.score 0).joined.find? (fun e => e.1 == 128) = some (128, 9) ∧ m.core.tbGen pageRoot 0x100 = 9) ∧
    (match (through .program .none 9).pk.cl.tabLoc 0 128 with
      | .ok p => p == (pageRoot, 0x100)
      | .error _ => false) = true ∧
    (let m := (through .program (.arrive 128) 10).pk.cl
     (m.score 0).wait = .arrive 128 ∧ (m.score 0).mode = .program ∧ m.arriveBlocked 0 128 pageRoot 0x100 = false ∧ 9 ≠ m.core.tbGen pageRoot 0x100) ∧
    (127 / 64 ≠ 2 ∧ 128 / 64 = 2 ∧ 191 / 64 = 2) := by decide +kernel
theorem test_tbarrive_completes : nextHas (exec (.tbarrive 0 1) (tablet .program 0 0 1)) (fun t =>
    t.pk.cl.core.tbCount (pageTb 0) 0x100 == 0 && t.pk.cl.core.tbGen (pageTb 0) 0x100 == 10) = true := by decide +kernel
theorem test_tbset : nextHas (exec (.tbset 0 1 2) (tablet .program 0 3 1)) (fun t =>
    t.pk.cl.core.tbTarget (pageTb 0) 0x100 == 3 && t.pk.cl.core.tbCount (pageTb 0) 0x100 == 0 && t.pk.cl.core.tbGen (pageTb 0) 0x100 == 9) = true := by decide +kernel
theorem test_tbread : nextHas (exec (.tbread 0 3 1) (tablet .program 0 0 1)) (fun t => t.pk.cl.xr 0 3 == BitVec.ofNat 64 (1 + 2 * 2 ^ 16 + 9 * 2 ^ 32)) = true := by decide +kernel

/-! ## Vector cores -/

/-- A tile word at the head of V-core 1's queue of cluster 0. -/
def vq (s : State) (w : W128) : State := s.onClus (·.setVQueue 0 1 [w, 0])
theorem test_premises_VectorLoadsStoresGathersAndSync : s0.pk.cl.vQueue 0 1 = [] ∧
    ((vq s0 0).onClus (fun m => { m with vc := { m.vc with halted := [(1, true)] } })).pk.cl.vHalted 0 1 = true ∧
    (∀ op ∈ [7, 8, 13, 14], (vq s0 (tw [(124, op)])).pk.cl.vQueue 0 1 = [tw [(124, op)], 0] ∧ (vq s0 0).pk.cl.vHalted 0 1 = false ∧
      opcOf (tw [(124, op)]) = op) ∧
    (let w := tw [(124, 9), (98, 3)]
     let m := (vq stores3 w).pk.cl
     opcOf w = 9 ∧ tf w 122 2 ≠ 3 ∧ tf w 90 3 = 0 ∧ tf w 16 74 = 0 ∧ m.core.fits 0 0 0 0 1 = true ∧
     bitAt ((m.readOp 0 0 0 0 256 (.own 15) 3).2.2.core.rd (pageV 0 1) 0x28) 0 = false) ∧
    (let w := tw [(124, 10)]; opcOf w = 10 ∧ tf w 16 74 = 0 ∧ stores3.pk.cl.core.fits 0 0 0 0 1 = true ∧ s0.pk.cl.core.fits 0 0 0 0 1 = false) ∧
    (∀ op ∈ [0, 1, 2, 3], let w := tw [(124, 13), (114, op), (98, 1)]; opcOf w = 13 ∧ tf w 120 1 = 0 ∧ tf w 16 82 = 0 ∧ tf w 114 2 = op) ∧
    s0.pk.cl.sync 0 0 < 1 ∧
    (let w := tw [(124, 12)]
     let m := (vq stores3 w).pk.cl
     tf w 122 2 ≠ 3 ∧ tf w 16 68 = 0 ∧ gatherWidth (tf w 84 4) ≠ 0 ∧ m.core.fits 0 0 0 0 0 = true ∧ tf w 88 1 = 0 ∧ opcOf w = 12 ∧
     (vElems (m.vx 0 1 0) 32).getD 0 0 % 4 = 0 ∧ 0 + 0 + 4 ≤ 256 * (m.core.region 0 0 0).size) ∧
    (let m := ((vq stores3 (tw [(124, 11)])).onClus (fun m => { m with vc := { m.vc with vx := [(32, 1)] } })).pk.cl
     0 ∈ (List.range 64).filter (fun j => mbit (m.vp 0 1 0) (4 * j)) ∧ (vElems (m.vx 0 1 0) 32).getD 0 0 % 4 ≠ 0) := by decide +kernel
theorem test_gather_lanes : (∀ j ∈ List.range 64, (vElems ((vq stores3 (tw [(124, 11)])).pk.cl.vx 0 1 0) 32).getD j 0 = 0) := by decide +kernel
theorem test_vld : nextHas (exec (.vld 0 1) ((vq stores3 (tw [(124, 9), (93, 31)])).onClus
    (fun m => { m with st := { m.st with mem := [(1, 7)] } }))) (fun t => t.pk.cl.vx 0 1 31 == 0x700) = true := by decide +kernel
theorem test_vsync_reserved : nextHas (exec (.vsync 0 1) (vq s0 (tw [(124, 13), (114, 3)]))) (fun t =>
    t.pk.cl.vHalted 0 1 && (t.pk.cl.causes 0).map (·.code) == [0x0306]) = true := by decide +kernel

/-- A VOP of FN and TYPE on VX1, VX2, VX3 into destination d. -/
def vopWord (fn ty d : Nat) : W128 := tw [(124, 8), (118, fn), (114, ty), (105, d), (100, 1), (95, 2), (90, 3)]
theorem test_premises_VectorOperationsWorkElementByElement : opcOf (vopWord 0 6 4) = 8 ∧ (vq s0 (vopWord 0 6 4)).pk.cl.vHalted 0 1 = false ∧
    (vq s0 (vopWord 0 6 4)).pk.cl.vQueue 0 1 = [vopWord 0 6 4, 0] ∧ bitAt (s0.pk.cl.core.rd (pageV 0 1) 0x28) 0 = false ∧
    (∀ fn ∈ [0, 0x0D, 0x14, 0x10, 0x12, 0x13], vopBad (vopWord fn 6 4) = false) ∧
    (∀ fn ∈ [0x18, 0x1D, 0x20, 0x22, 0x23, 0x28, 0x30], vopBad (vopWord fn 0 4) = false) ∧
    bitAt ((word s0 (pageV 0 1) 0x28 1).pk.cl.core.rd (pageV 0 1) 0x28) 0 = true ∧
    vopBad (vopWord 0x10 6 0) = true ∧ vopBad (vopWord 0x10 6 8) = true ∧ vopBad (vopWord 0x10 6 7) = false := by decide +kernel

/-! ## Shunting arrays -/

/-- Cluster 0's array. -/
def arr (a : Arr) : State := stores3.onClus (fun m => { m with sa := { m.sa with arr := [(0, some a)] } })
/-- An array with a tile word at the head of its queue. -/
def aq (w : W128) : Arr := { emptyArr with queue := [w, 0] }
/-- A configuration image with words at indices. -/
def img (l : List (Nat × Nat)) : List W64 := l.foldl (fun a e => a.set e.1 (BitVec.ofNat 64 e.2)) (List.replicate 768 0)
theorem test_premises_ArrayConfigurationInstructions : s0.pk.cl.arr 0 = emptyArr ∧
    (∀ op ∈ [0, 1, 5, 6], (arr (aq (tw [(124, op)]))).pk.cl.arr 0 = aq (tw [(124, op)]) ∧ opcOf (tw [(124, op)]) = op ∧
      (aq (tw [(124, op)])).halted = false ∧ (aq (tw [(124, op)])).selecting = none) ∧
    (let w := tw [(124, 1), (100, 232)]; let c := (arr (aq w)).pk.cl.core
     tf w 16 84 = 0 ∧ (c.region 0 0 (tf w 116 4)).mode = 3 ∧ c.fits 0 0 (tf w 116 4) (tf w 100 16) 24 = true ∧
     c.fits 0 0 (tf w 116 4) (tf w 100 16 + 1) 24 = false) ∧
    (let w := tw [(124, 2), (120, 15)]
     opcOf w = 2 ∧ tf w 16 104 = 0 ∧ (aq w).loads = [] ∧ (aq w).pass = none ∧ (arr (aq w)).pk.cl.cfgEntry 0 15 = none ∧
     ((arr (aq w)).onClus (fun m => { m with sa := { m.sa with cfg := [(15, some ⟨[], true, false⟩)] } })).pk.cl.cfgEntry 0 15 = some ⟨[], true, false⟩) ∧
    (let w := tw [(124, 3), (119, 15), (123, 1)]
     opcOf w = 3 ∧ tf w 16 30 = 0 ∧ tf w 117 2 ≠ 3 ∧ tf w 94 3 < 6 ∧ tf w 46 4 = 0 ∧ (aq w).pass = none ∧
     (arr (aq w)).pk.cl.core.fits 0 (tf w 117 2) (tf w 113 4) (tf w 97 16)
      ((tf w 50 20 * (bSegs w - 1) + bSeg w * fmtSize (tf w 94 3) + 255) / 256) = true ∧
     tf (tw [(92 + 15, 1)]) 92 16 / 2 ^ tf w 119 4 % 2 = 1) ∧
    (∀ op ∈ [0, 1, 2], let w := tw [(124, 5), (114, op), (121, 3), (98, 1)]
      opcOf w = 5 ∧ tf w 120 1 = 0 ∧ tf w 16 82 = 0 ∧ tf w 114 2 = op ∧ tf w 121 3 < 4 ∧ s0.pk.cl.sync 0 (tf w 116 4) < tf w 98 16) ∧
    imgBad (List.replicate 768 0) false = some 0xFF ∧
    (let a : Arr := { emptyArr with selecting := some 3, selTag := 7 }
     ∀ b ∈ [true, false], let m := ((arr a).onClus (fun m => { m with sa := { m.sa with cfg := [(3, some ⟨[], b, false⟩)] } })).pk.cl
       (m.arr 0).selecting = some 3 ∧ m.cfgEntry 0 3 = some ⟨[], b, false⟩) ∧
    (let a := { aq (tw [(124, 5), (98, 1)]) with waiting := true }
     (arr a).pk.cl.arr 0 = a ∧ 1 ≤ ((arr a).onClus (·.signal 0 0)).pk.cl.sync 0 0) := by decide +kernel
theorem test_select_repairs : nextHas (exec (.configSelectDone ⟨0, .copy1⟩) ((arr { emptyArr with selecting := some 3 }).onClus
    (fun m => { m with sa := { m.sa with cfg := [(3, some ⟨[], false, false⟩)] } }))) (fun t =>
    t.pk.cl.core.records.map (·.code) == [0x0408] && (t.pk.cl.arr 0).active == some 3) = true := by decide +kernel
theorem test_saload : nextHas (exec (.saload 0) (arr (aq (tw [(124, 1), (100, 232)])))) (fun t =>
    (t.pk.cl.arr 0).loads.length == 1 && (t.pk.cl.arr 0).queue == [0]) = true ∧
    nextHas (exec (.saload 0) (arr (aq (tw [(124, 1), (100, 233)])))) (fun t => (t.pk.cl.causes 0).map (·.code) == [0x0404]) = true := by decide +kernel
theorem test_select_lost : nextHas (exec (.configSelectDone ⟨0, .clean⟩) ((arr { emptyArr with selecting := some 3 }).onClus
    (fun m => { m with sa := { m.sa with cfg := [(3, some ⟨[], true, true⟩)] } }))) (fun t =>
    (t.pk.cl.causes 0).map (·.code) == [0x0409] && (t.pk.cl.cfgEntry 0 3).isNone) = true := by decide +kernel

/-- A pass of no ports on an image whose tile 5 runs one step, with its tile state. -/
def passArr (step : Nat) (t : Tile) : Arr :=
  { emptyArr with img := img [(119, 2 ^ 62), (120, step)], active := some 0, pass := some ⟨0, [], [], []⟩, tiles := [(5, some t)] }
theorem test_premises_ArrayPassesFireAndEnd :
    (let w := tw [(124, 4)]
     let a : Arr := { aq w with active := some 0, img := img [] }
     (arr a).pk.cl.arr 0 = a ∧ a.queue = [w, 0] ∧ a.halted = false ∧ opcOf w = 4 ∧ tf w 16 76 = 0 ∧ a.active ≠ none ∧
     tf w 108 16 = imgIn a.img ∧ tf w 92 16 = imgOut a.img ∧ a.pass = none) ∧
    (let a := passArr 0 emptyTile
     a.pass.isSome = true ∧ a.halted = false ∧ ctlMode (tileCtl a.img 5) = 1 ∧ ctlMode (tileCtl a.img 6) ≠ 1 ∧
     a.streamsDone ⟨0, [], [], []⟩ 0 = true ∧ a.streamsDone ⟨0, [], [], []⟩ 1 = true ∧
     (List.range 64).all (fun t => !(a.tile t).residue) = true) ∧
    (let p : Pass := ⟨tw [(92, 1)], [], [(0, 1)], []⟩
     let a : Arr := { passArr 0 emptyTile with pass := some p, binds := [(16, some 0)] }
     a.streamsDone p 1 = true ∧ tf p.word 92 16 ≠ 0 ∧ ({ a with tiles := [(5, some { emptyTile with step := 1 })] }.tile 5).residue = true) ∧
    (let p : Pass := ⟨tw [(92, 1)], [], [], []⟩; ({ passArr 0 emptyTile with binds := [(16, some 0)] } : Arr).streamsDone p 1 = false) ∧
    s0.pk.cl.core.cycle < 0 + max 256 (kget s0.pk.cl.sa.wdog 0x1000 0) ∧
    (passArr 0 emptyTile).progress + max 256 (kget s0.pk.cl.sa.wdog 0x1000 0) ≤ 4096 := by decide +kernel
/-- A step that passes the token of the north queue (SRCA 16) on to the north output. -/
def stepN : Nat := 16 * 2 ^ 51 + 8 * 2 ^ 32 + 31 * 2 ^ 36
theorem test_premises_ArrayStep :
    (let w : W64 := BitVec.ofNat 64 stepN
     tileStep (passArr stepN emptyTile).img 5 0 = w ∧ stOp w = 0 ∧ (List.range (opReads (stOp w))).map (stSrc w) = [16] ∧
     stOut w = 8 ∧ stOutLast w = false ∧ emptyTile.q 0 = [] ∧ ({ emptyTile with qn := [((7, false), true)] } : Tile).q 0 ≠ [] ∧
     emptyTile.o 0 = none ∧ (({ emptyTile with on_ := some (1, false) } : Tile).o 0).isSome = true ∧ emptyTile.fifo = []) ∧
    (let w : W64 := BitVec.ofNat 64 (stepN + 0x20 * 2 ^ 58)
     stOp w = 0x20 ∧ (List.range (opReads (stOp w))).map (stSrc w) = [16] ∧ (List.replicate 8 (⟨(0, false), 0, 0⟩ : StepRes)).length = 8) := by decide +kernel
theorem test_tile_fire : nextHas (exec (.tileFire 0 5) (arr (passArr (stepN % 2 ^ 32 + 16 * 2 ^ 51 + 2 ^ 36) { emptyTile with qn := [((7, false), true)] }))) (fun t =>
    let y := (t.pk.cl.arr 0).tile 5
    y.qn == [] && kget y.g (0, false) 1 == (7, false)) = true := by decide +kernel
theorem test_sa_stall : nextHas (exec (.saStall 0) (atCycle (arr (passArr 0 emptyTile)) 4096)) (fun t =>
    (t.pk.cl.causes 0).map (·.code) == [0x0401] && (t.pk.cl.arr 0).pass.isNone) = true ∧
    nextHas (exec (.saStall 0) (atCycle (arr (passArr 0 emptyTile)) 4095)) (fun t => (t.pk.cl.arr 0).pass.isSome) = true := by decide +kernel

/-! ## Messages and channels -/

/-- A message in flight to channel 0 of cluster 0, whose receive channel of job 0 has a ring of 64 bytes with WR and RD. -/
def recvState (wr rd : Nat) (held : List Message) : State :=
  (words s0 (pageMsg 0) (chanOff 0) [2 ^ 31 + 2 ^ 30, 0, 1, 0x20, 0x80, wr, rd]).onClus
    (fun m => { m with msg := { m.msg with fly := [msg [5]], held := [(0, held)] } })
theorem test_premises_MessagesArriveInSendOrderOrAreRefused :
    (let m := (recvState 0 0 []).pk.cl
     m.msgNext (msg [5]) = true ∧ m.msgNext (msg [6]) = false ∧ m.core.msgDest (msg [5]) = 0 ∧ m.core.fenced 0 = false ∧
     bitAt (m.core.rd (pageMsg 0) 0x28) 0 = false ∧ m.core.chTakes 0 (msg [5]) = true ∧ m.heldAt 0 = [] ∧
     m.core.ringAt 0 0 (recBytes (msg [5])).length = some (0, false) ∧ mapPilotEn (m.core.slotMap 0) = false ∧
     m.core.chTakes 0 { msg [5] with job := 1 } = false) ∧
    (word s0 (pageBI 0) 0x48 1).pk.cl.core.fenced 0 = true ∧
    (recvState 56 48 []).pk.cl.core.ringAt 0 0 16 = some (0, true) ∧ (recvState 56 8 []).pk.cl.core.ringAt 0 0 16 = none ∧
    (recvState 0 0 [msg [6]]).pk.cl.heldAt 0 = [msg [6]] ∧
    run0.pk.cl.run 0 0 = some (slotRun 0 5 63 ent0) ∧ (slotRun 0 5 63 ent0).due = false ∧ entJob ent0 = 0 ∧ s0.pk.cl.run 0 0 = none := by decide +kernel
theorem test_message_arrive : nextHas (exec (.messageArrive (msg [5])) (recvState 0 0 [])) (fun t =>
    t.pk.cl.core.chWr 0 0 == 16 && t.pk.cl.core.winRds (dmemBase 0 + 8) 4 == [5, 0, 0, 0] && t.pk.cl.msg.fly == []) = true := by decide +kernel
theorem test_message_foreign : nextHas (exec (.messageArrive (msg [5])) ((recvState 0 0 []).onClus (fun m =>
      m.onCore (·.wr (pageMsg 0) (chanOff 0) 0x80000000)))) (fun t => t.pk.cl.msg.notices.map (·.cause) == [0x0804]) = true := by decide +kernel

/-- The receive channel with a record of one word of channel 0 at RD, in Compute. -/
def unread (mode : SMode) : State :=
  atCycle (win ((recvState 16 0 []).onClus (fun m => { m with sc := { m.sc with core := [(0, ⟨mode, false, 0, 0, 0, .none, false, 0, false, [], [], none⟩)] } }))
    (dmemBase 0) [0, 0, 0, 0x10]) 64
/-- Two S-cores stalled in sends to each other's clusters. -/
def stalled : State :=
  atCycle (words (words (s0.onClus (fun m => { m with sc := { m.sc with core :=
    [(0, ⟨.program, true, 16, 0, 0, .send 0 [5], false, 0, false, [], [], none⟩), (1, ⟨.program, true, 16, 0, 0, .send 0 [5], false, 0, false, [], [], none⟩)] } }))
    (pageMsg 0) 0x50 [2 ^ 31, placeClu 1]) (pageMsg 1) 0x50 [2 ^ 31, placeClu 0]) 12999
theorem test_premises_ChannelsDispatchAndStalls :
    (let m := (unread .idle).pk.cl
     (m.score 0).mode = .idle ∧ m.sendStalled 0 = false ∧ m.core.fenced 0 = false ∧ 64 ≤ m.core.cycle ∧ m.core.cycle < m.core.close0 ∧
     m.nextChannel 0 = some 0 ∧ (m.core.ringHead 0 0).1 = 1 ∧ m.core.chRd 0 0 + (m.core.ringHead 0 0).2.2 ≤ m.core.chSize 0 0) ∧
    s0.pk.cl.nextChannel 0 = none ∧ ((unread .handler).pk.cl.score 0).mode = .handler ∧
    (let m := (recvState 16 0 []).pk.cl; ¬(m.core.ringHead 0 0).1 = 1) ∧
    (let c := (win (recvState 8 48 []) (dmemBase 0 + 48) [0, 0, 0, 0x20]).pk.cl.core; (c.ringHead 0 0).1 = 2 ∧ c.chRd 0 0 ≠ 0) ∧
    (let m := stalled.pk.cl
     m.sendStalled 0 = true ∧ kget m.msg.stallRec false 0 = false ∧
     m.core.fld (pageMsg 0) 0x5C 16 16 + max 256 (m.core.rd (pageMsg 0) 0x44).toNat ≤ m.core.cycle ∧ (m.stallChain 961 0 []) = ([0, 1], true)) := by decide +kernel
theorem test_channel_rejected : nextHas (exec (.channelWrite 0 0 [0xC0000000, 0, 0, 0, 0]) s0) (fun t =>
    t.pk.cl.core.records.map (·.code) == [0x0808] && !t.pk.cl.core.chOpen 0 0) = true ∧
    nextHas (exec (.channelWrite 0 0 [0xC0000000, 0, 0x0FFF0001, 0, 0]) s0) (fun t => t.pk.cl.core.chOpen 0 0) = true := by decide +kernel
theorem test_dispatch : nextHas (exec (.handlerDispatch 0) (unread .idle)) (fun t =>
    (t.pk.cl.score 0).mode == .handler && (t.pk.cl.score 0).pc1 == 0x20 && t.pk.cl.xReg 0 1 10 == 0x100008) = true := by decide +kernel

/-! ## Lines, packets and descriptors -/

/-- The state with a packet on the lines. -/
def pkt (s : State) (p : Packet) : State := s.onPkg (fun k => { k with net := { k.net with pkts := [p] } })
/-- Group 0 of die 0 delivers to slot 0 of region 0. -/
def grp0 (s : State) : State := word s (pagePts 0) 0x200 (2 ^ 12)
theorem test_premises_MulticastDeliversOnceToEveryMember : ({} : Packet) ∉ s0.pk.net.pkts ∧ ({} : Packet) ∈ (pkt s0 {}).pk.net.pkts ∧
    ({ epoch := true } : Packet).epoch ≠ s0.pk.cl.core.epoch 0 ∧ ({} : Packet).epoch = s0.pk.cl.core.epoch 0 ∧
    pkRg ({ srcDie := 95, srcRegion := true }) < 192 ∧ ({} : Packet).job ≠ 15 ∧ ({ job := 15 } : Packet) ∈ (pkt s0 { job := 15 }).pk.net.pkts ∧
    (grp0 s0).pk.cl.core.treePaths 0 24 0 [] = [[(0, 9)]] ∧ bitAt ((grp0 s0).pk.cl.core.groupEntry 0 0) 12 = true ∧
    ((List.range 96).filter (fun g => ({ job := 15, mask := 3 } : Packet).mask.getLsbD g)).map (route false 24 0) = [[(0, 9)], [(0, 6), (1, 9)]] ∧
    (let c := (word (grp0 s0) (pageLn 0) 0x28 0x902).pk.cl.core
     bitsAt (c.rd (pageLn 0) 0x28) 8 4 = 9 ∧ bitAt (c.rd (pageLn 0) 0x28) 1 = true ∧ bitAt (c.rd (pageLn 0) 0x28) 0 = false) ∧
    run0.pk.cl.run (pkRg {}) 0 = some (slotRun 0 5 63 ent0) ∧ entJob ent0 = ({} : Packet).job.toNat ∧ entJob ent0 ≠ (1 : BitVec 4).toNat ∧
    s0.pk.mirrorsOf 959 = [] ∧ (s0.pk.cl.writeOp 0 0 0 0 [(0, false)] (.remote 0) unitLine).1 ≠ 0 ∧
    (s0.pk.cl.writeOp 0 0 0 0 [] (.remote 0) unitLine).1 = 0 := by decide +kernel
theorem test_mask_mcast_foreign : nextHas (exec (.maskMcast {}) (pkt s0 {})) (fun t =>
    t.pk.cl.core.records.map (·.code) == [0x060A] && t.pk.net.pkts == [{}]) = true := by decide +kernel
theorem test_stale_epoch : nextHas (exec (.groupMcast { epoch := true }) (pkt s0 { epoch := true })) (fun t =>
    t.pk.cl.msg.notices.map (·.cause) == [0x0601]) = true := by decide +kernel

/-- A bridge link: die 5 is at the east edge of its quadrant. -/
theorem test_premises_LineRetriesNoticesBridgesAndLineClear :
    run0.pk.cl.run 0 0 = some (slotRun 0 5 63 ent0) ∧ entJob ent0 = 0 ∧
    (s0.onPkg (fun k => { k with net := { k.net with retry := [(0, some ({}, 0, 2))], bridge := [(linkKey 5 1, (64, 0))], spares := [(linkKey 5 1, 2)] } })).pk.net.retry = [(0, some ({}, 0, 2))] ∧
    0 < flits {} ∧ ({} : Packet) ∈ (pkt s0 {}).pk.net.pkts ∧
    ((pkt s0 {}).pk.net.pkts.find? (fun pk => (s0.pk.cl.core.pktLinks pk).elem (0, 4))) = some {} ∧ s0.pk.net.pkts.find? (fun pk => (s0.pk.cl.core.pktLinks pk).elem (0, 4)) = none ∧
    (let k := (atCycle (serving s0 3) 12999).pk; k.bpUp 10 = true ∧ k.cl.core.inGuard = true) ∧
    isBridge 5 1 = true ∧ isBridge 0 1 = false ∧ 64 ≤ (kget [(linkKey 5 1, ((64 : Nat), (0 : Nat)))] (0, 0) (linkKey 5 1)).1 ∧
    (match (tablet .program 0 3 1).pk.cl.tabLoc 0 0 with
      | .ok _ => true
      | .error _ => false) = true ∧
    (let c := (atCycle (words (s0.onClus (·.onCore (fun c => { c with tick := 7 }))) pageRoot 0x340 [7, 0, 0]) 12256).pk.cl.core
     c.lcArmed = true ∧ c.close0 ≤ c.cycle + c.fld pageRoot 0x348 0 16 ∧ c.close0 ≤ c.cycle ∧ bitAt (c.rd pageRoot 0x35C) 3 = false ∧
     c.tbCount pageRoot (thruOff 30) + 1 < 100) ∧ s0.pk.cl.core.lcArmed = false ∧ s0.pk.lcEmpty 99 = true ∧
    (100 ≤ (words s0 pageRoot (thruOff 30) [0, 99]).pk.cl.core.tbCount pageRoot (thruOff 30) + 1) := by decide +kernel
theorem test_third_retry : nextHas (exec (.flitCrcError (.line 0 0 {} 0)) ((pkt s0 {}).onPkg (fun k => { k with net := { k.net with retry := [(0, some ({}, 0, 2))] } })))
    (fun t => t.pk.cl.msg.notices.map (·.cause) == [0x0602] && t.pk.net.pkts == []) = true ∧
    nextHas (exec (.flitCrcError (.line 0 0 {} 0)) ((pkt s0 {}).onPkg (fun k => { k with net := { k.net with retry := [(0, some ({}, 0, 1))] } })))
    (fun t => t.pk.net.pkts == [{}]) = true := by decide +kernel
theorem test_no_progress : nextHas (exec (.lnNoProgress 0 4) (pkt s0 {})) (fun t => t.pk.cl.core.records.map (·.code) == [0x060B]) = true := by decide +kernel

/-- A packet to HBM controller 0 or to the attach cache, and a line the host holds modified. -/
def toHbm (t : BitVec 4) (die ep : Nat) : Packet := { type := t, dstDie := BitVec.ofNat 7 die, dstEp := BitVec.ofNat 6 ep, chunks := 1, payload := List.replicate 64 1, addr := 0x800000000000 }
def heldLine : State := s0.onPkg (fun k => { k with att := { k.att with wins := [(0, some (0, 4096))], dir := [(1, 2)] } })
/-- A running DMA of engine 0 of die 0 that awaits piece 0. -/
def running0 : State := withRun s0 { opRun 1 (2 ^ 60) (2 ^ 60 + 2 ^ 58) with phase := .running, engine := 0, outst := [0], wr := 1 }
theorem test_premises_PacketsHaveTheirEffectAtTheirEndpoint :
    (∀ e ∈ [(95, 29), (96, 5), (99, 5), (96, 19), (95, 30), (95, 37)], (toHbm 1 e.1 e.2) ∈ (pkt s0 (toHbm 1 e.1 e.2)).pk.net.pkts ∧
      (toHbm 1 e.1 e.2).epoch = s0.pk.cl.core.epoch (routerOf e.1 e.2) ∧ (toHbm 1 e.1 e.2).dstDie.toNat = e.1 ∧ (toHbm 1 e.1 e.2).dstEp.toNat = e.2) ∧
    s0.pk.snoopLine 64 64 false = none ∧ heldLine.pk.snoopLine 64 64 false = some 1 ∧ heldLine.pk.snoopLine 64 64 true = some 1 ∧
    heldLine.pk.lineBusy 1 = false ∧ (heldLine.onPkg (·.lineWait (.dev 1 {}))).pk.lineBusy 1 = true ∧ s0.pk.xferNeeds (toHbm 1 96 19) = [(1, 0)] ∧ s0.pk.xferNeeds { toHbm 1 96 19 with chunks := 0 } = [] ∧
    (chunks64 40 (hostAddr (toHbm 2 96 19)) (pkBytes (toHbm 2 96 19))).length = 1 ∧
    (∃ r, running0.pk.runAt 0 30 (runTxn r) = some r ∧ r.outst.find? (fun i => decide (i % stageLen r.words * pieceSize r.words = 0)) = some 0 ∧
      r.outst.find? (fun i => decide (i % stageLen r.words * pieceSize r.words = 8)) = none) ∧
    s0.pk.runAt 0 30 0 = none := by
  refine ⟨?_, ?_, ?_, ?_, ?_, ?_, ?_, ?_, ?_, ⟨{ opRun 1 (2 ^ 60) (2 ^ 60 + 2 ^ 58) with phase := .running, engine := 0, outst := [0], wr := 1 }, ?_, ?_, ?_⟩, ?_⟩ <;> decide +kernel
theorem test_packet_dropped : nextHas (exec (.completion { dstDie := 127, type := 4 }) (pkt s0 { dstDie := 127, type := 4 })) (fun t => t.pk.net.pkts == []) = true := by decide +kernel

/-- A waiting MOVE from the A-store to the W-store of the slot. -/
def waiting0 : State := withRun s0 (opRun 1 (2 ^ 60) (2 ^ 60 + 2 ^ 58))
theorem test_premises_DescriptorsStartMoveAndComplete : s0.pk.findRun 0 0 0 = none ∧
    waiting0.pk.findRun 0 0 0 = some (opRun 1 (2 ^ 60) (2 ^ 60 + 2 ^ 58)) ∧
    (let r := opRun 1 (2 ^ 60) (2 ^ 60 + 2 ^ 58)
     dOp r.words = 1 ∧ waiting0.pk.dmaReady r = true ∧ waiting0.pk.readyBefore r < waiting0.pk.freeEngines 0 ∧
     waiting0.pk.freeEngine 0 = some 0 ∧ waiting0.pk.memFault r.words (dSrc r.words) r.job = 0 ∧ waiting0.pk.memFault r.words (dDst r.words) r.job = 0) ∧
    (let r := opRun 1 (3 * 2 ^ 60) (2 ^ 60 + 2 ^ 58); (withRun s0 r).pk.memFault r.words (dSrc r.words) r.job ≠ 0) ∧
    (∀ op ∈ [2, 6], dOp (opRun op 0 0).words = op) ∧
    (let r := { opRun 1 (2 ^ 60) (2 ^ 60 + 2 ^ 58) with phase := .running, engine := 7, next := 1 }
     r.finished = true ∧ r.engine < 8 ∧ (withRun s0 r).pk.findRun 0 0 0 = some r ∧ (withRun s0 r).pk.pilotRun 0 0 0 = none) := by decide +kernel
theorem test_descriptor_complete : nextHas (exec (.descriptorComplete 0 0 0) (withRun s0
    { opRun 1 (2 ^ 60) (2 ^ 60 + 2 ^ 58) with phase := .running, engine := 7, next := 1, words := [0x1200000000000000 + 0x00A0000000000000] ++ List.replicate 7 0 }))
    (fun t => t.pk.cl.sync 0 5 == 1 && t.pk.net.runs.map (·.phase) == [.complete]) = true := by decide +kernel

/-! ## Fabric -/

/-- Port 0 in a STATE. -/
def port (st : Nat) : State := word s0 (pageFb 0) 0x44 (st * 2 ^ 29)
/-- The state in group 3 of two members: this node at rank 0, node 5. -/
def grp3 (s : State) : State :=
  (words s pageFbPkg 0x100 [2 ^ 31 + 2 ^ 16 + 3, 2, 0]).onPkg (fun k => { k with fab := { k.fab with members := [(1, 0x00050000)] } })
/-- Node 5's answer to a window write. -/
def wrCplFrame : Frame := { ftype := 9, fvc := 2, fgroup := 3, srcNode := 5, dstNode := 0xFFFF }
/-- Port 0 up with a window write of the running descriptor outstanding at node 0. -/
def awaiting : State :=
  (withRun (grp3 (port 4)) { opRun 1 (2 ^ 60) (2 ^ 60 + 2 ^ 58) with phase := .running, engine := 0, wr := 1, next := 1 }).onPkg
    (fun k => { k with fab := { k.fab with out := [⟨0, 5, 3, 2, 0, false, 0, 0, 0, 0⟩] } })
theorem test_premises_WindowAnswers : (port 3).pk.portState 0 = 3 ∧ awaiting.pk.portState 0 = 4 ∧ awaiting.pk.frameBad 0 wrCplFrame = 0 ∧
    awaiting.pk.frameBad 0 { wrCplFrame with fvc := 1 } = 1 ∧ (port 3).pk.frameBad 0 wrCplFrame = 3 ∧
    (awaiting.onPkg (fun k => { k with fab := { k.fab with rxSeq := [(streamKey 5 3 2, 5)] } })).pk.frameBad 0 { wrCplFrame with sseq := 4 } = 0x100 ∧
    ∃ r, awaiting.pk.findRun 0 0 0 = some r ∧ r.phase = .running := by
  refine ⟨?_, ?_, ?_, ?_, ?_, ?_, ⟨_, rfl, rfl⟩⟩ <;> decide +kernel
theorem test_wr_cpl : nextHas (exec (.wrCpl 0 wrCplFrame) awaiting) (fun t => t.pk.fab.out == [] && t.pk.net.runs.map (·.wr) == [0]) = true := by decide +kernel

/-- Link l in a training step at a generation, with logical lanes. -/
def link (s : State) (l : Nat) (st : TrStep) (gen : Nat) (lanes : List Nat) : State :=
  s.onPkg (·.setLink l { idleLink with step := st, gen := gen, cap := gen, lanes := lanes, present := 0xFFFF, credit := [0, 0, 0, 0] })
/-- Port 0 allowed to train with all its lanes and least width x2. -/
def trains (st : Nat) : State := word (word (word (port st) (pageFb 0) 0x40 0x8FF80000) pageFbPkg 0x40 1) pagePw (0x80 + 8 * 14) 0x80000000
theorem test_premises_LinksTrainStepByStep :
    (∀ st ∈ [TrStep.detect, .exchange, .map, .switch, .equalise, .test, .up], ((link (trains 0) 0 st 2 [0, 1]).pk.link 0).step = st) ∧
    ((s0.pk.link 18).step = .off) ∧ (link (trains 0) 0 .test 2 [0, 1]).pk.laneEn 0 = 0xFF ∧ (s0.pk.laneEn 0 = 0xFF ∨ s0.pk.laneEn 0 = 0) ∧
    fitWidth 0 2 = 2 ∧ (trains 0).pk.minWidth 0 = 2 ∧ fitWidth 0 1 = 1 ∧ fitWidth 0 0 = 0 ∧ fitWidth 18 3 = 0 ∧ baseGen 0 = 1 ∧ baseGen 18 = 2 ∧
    (trains 6).pk.portState 0 = 6 ∧ (trains 6).pk.mayTrain 0 = true ∧ (port 6).pk.mayTrain 0 = false := by decide +kernel

/-- Port 0 up on two lanes at generation 2, with fields of its link. -/
def up (l : Nat) (f : LinkS → LinkS) : State := (link (trains 4) l .up 2 [0, 1]).onPkg (fun k => k.setLink l (f (k.link l)))
/-- A control flit that acknowledges `a`. -/
def flit (nakv : Bool) (nak a : Nat) : ControlFlit := ⟨BitVec.ofNat 12 a, nakv, BitVec.ofNat 12 nak, [1, 0, 0, 0], 0, 0, 0⟩
theorem test_premises_CodeWordsCreditsAndLanes :
    ((up 0 id).pk.link 0).step = .up ∧ ((up 18 id).pk.link 18).step = .up ∧ (s0.pk.link 0).step ≠ .up ∧ ((up 0 id).pk.link 0).rxNext = 0 ∧
    ((up 0 (fun x => { x with rxDrop := true, rxNext := 4095 })).pk.link 0).rxNext = 4095 ∧
    (4095 : BitVec 12).toNat = 4095 ∧ kget (up 0 id).pk.fab.wait [] 0 = [] ∧ (up 18 id).pk.att.wait = [] ∧
    (∀ n ∈ [6, 7], let x := (up 0 (fun x => { x with failSeq := 9, failCnt := n })).pk.link 0
      (if x.failCnt ≠ 0 ∧ x.failSeq = 9 then x.failCnt + 1 else 1) = n + 1) ∧
    0 ∈ ((up 0 id).pk.link 0).lanes ∧ 7 ∉ ((up 0 id).pk.link 0).lanes ∧
    (let k := (up 0 (fun x => { x with lanes := [0, 1, 2] })).pk
     fitWidth 0 ((k.link 0).lanes.filter (fun i => decide (i ≠ 2))).length = 2 ∧ k.minWidth 0 = 2) ∧
    fitWidth 0 (((up 0 id).pk.link 0).lanes.filter (fun i => decide (i ≠ 0))).length < (up 0 id).pk.minWidth 0 ∧
    kget ((up 0 id).pk.link 0).lastRt 0 0 = 0 ∧ ¬((1 : Nat) = 0 ∨ 1 + 1000000 ≤ (up 0 id).pk.cl.core.tick.toNat + 1) ∧
    3 ∈ ((up 0 (fun x => { x with dropped := [3] })).pk.link 0).dropped ∧ ((up 0 id).pk.link 0).gen = 2 ∧ baseGen 0 < 2 ∧ 2 ≤ baseGen 18 := by decide +kernel
theorem test_code_word : nextHas (exec (.codeWordReceive 0 1 4095 .clean) (up 0 (fun x => { x with rxNext := 4095 }))) (fun t => (t.pk.link 0).rxNext == 0) = true ∧
    nextHas (exec (.codeWordReceive 0 1 7 .uncorrectable) (up 0 id)) (fun t =>
      (t.pk.link 0).nakDue == some 7 && t.pk.cl.core.rd (pageFb 0) 0x84 == 1) = true := by decide +kernel
theorem test_eighth_nak : nextHas (exec (.linkControlFlit 0 (flit true 9 8)) (up 0 (fun x => { x with failSeq := 9, failCnt := 7 }))) (fun t =>
    (t.pk.link 0).step != .up && t.pk.cl.core.records.map (·.code) == [0x0A04]) = true := by decide +kernel

/-- A HELLO of node 5. -/
def hello5 : HelloInfo := ⟨1, 1, 5, 2, 3, 0, 32, { ftype := 1, srcNode := 5, dstNode := 0xFFFF, chunks := 1 }⟩
/-- Port 0 with `n` violations. -/
def violated (n : Nat) : State := (up 0 id).onPkg (fun k => { k with fab := { k.fab with viol := [(0, List.replicate n 0)] } })
theorem test_premises_PeersAreGreetedRefusedAndQuarantined :
    (∀ st ∈ [0, 3, 4, 5], (port st).pk.portState 0 = st) ∧
    (let k := ((port 3).onPkg (fun k => { k with fab := { k.fab with prevPeer := [(0, 7)] } })).pk
     kget k.fab.prevPeer 0 0 ≠ 0 ∧ kget k.fab.prevPeer 0 0 ≠ hello5.node.toNat * 256 + hello5.inc.toNat + 1) ∧ kget s0.pk.fab.prevPeer 0 0 = 0 ∧
    (∃ t, awaiting.pk.fab.out.find? (fun t => decide (t.port = (0 : Port).val ∧ t.txn = wrCplFrame.txn.toNat ∧ t.fgroup = wrCplFrame.fgroup.toNat)) = some t) ∧
    awaiting.pk.frameBad 0 { ftype := 4, dstNode := 0xFFFF } = 0 ∧ s0.pk.fab.out = [] ∧
    (∀ n ∈ [14, 15], ((kget (violated n).pk.fab.viol [] 0).filter (fun u => decide ((violated n).pk.cl.core.tick.toNat < u + 65536)) ++ [0]).length = n + 1) := by
  refine ⟨?_, ?_, ?_, ⟨_, rfl⟩, ?_, ?_, ?_⟩ <;> decide +kernel
theorem test_hello : nextHas (exec (.hello 0 hello5) (port 3)) (fun t => t.pk.peerNode 0 == 5 && t.pk.portState 0 == 3) = true := by decide +kernel
theorem test_hello_ack : nextHas (exec (.helloAck ⟨0, { ftype := 2, srcNode := 5, dstNode := 0xFFFF, chunks := 1 }⟩) ((port 3).onPkg (fun k => { k with fab := { k.fab with helloIn := [(0, true)] } }))) (fun t => t.pk.portState 0 == 4) = true := by decide +kernel
theorem test_quarantine : ((violated 15).pk.refuse 0 { ftype := 9 } 7).portState 0 = 5 ∧ ((violated 14).pk.refuse 0 { ftype := 9 } 7).portState 0 = 4 ∧
    ((violated 15).pk.refuse 0 { ftype := 9 } 8).portState 0 = 4 := by decide +kernel

/-- Port 0 up, window 0 of 4,096 bytes that node 0 may read and write, and group 3 of two members: this node at rank 0, node 5. -/
def winState : State :=
  (grp3 (port 4)).onPkg (fun k => { k with hbm := { k.hbm with win := [(0, 0xE0000000)], seg := [(3, 0xC0000000)] } })
/-- A frame of node 5 for this node. -/
def toUs (ft vc : Nat) : Frame := { ftype := BitVec.ofNat 6 ft, fvc := BitVec.ofNat 2 vc, fgroup := 3, srcNode := 5, dstNode := 0xFFFF }
theorem test_premises_WindowsStopsLineTabletsAndRoutes :
    winState.pk.frameBad 0 { toUs 8 2 with chunks := 1, payload := [1] } = 0 ∧ winState.pk.frameBad 0 { toUs 10 2 with len := 2048 } = 0 ∧
    (∀ n ∈ [1, 2048], winState.pk.winBad 0 0 0 n 0 true = 0 ∧ winState.pk.winBad 0 0 (4096 - n) n 0 false = 0) ∧
    winState.pk.winBad 0 0 4095 2 0 true = 3 ∧ winState.pk.inFree 0 = some 0 ∧
    winState.pk.frameBad 0 (toUs 0x18 0) = 0 ∧ winState.pk.grpOf 3 = some 0 ∧ winState.pk.grpOf 4 = none ∧
    (winState.pk.cl.core.stopLate 0 = true ∧ winState.pk.cl.core.stopLate 2 = false) ∧
    (let k := (winState.onPkg (fun k => { k with fab := { k.fab with stops := [(3, some ⟨5, 1, 1⟩)] } })).pk
     kget k.fab.stops none 3 = some ⟨5, 1, 1⟩ ∧ 1 ≤ k.cl.core.tick.toNat + 1) ∧
    winState.pk.frameBad 0 (toUs 0x19 0) = 0 ∧ winState.pk.grpRank 0 = 0 ∧ winState.pk.rankOf 0 5 = some 1 ∧
    winState.pk.rankOf 0 6 = none ∧ winState.pk.grpN 0 = 2 ∧ winState.pk.frameBad 0 { toUs 0x1A 0 with txn := 7 } = 0 ∧
    winState.pk.frameBad 0 (toUs 0x28 0) = 0 ∧ winState.pk.frameBad 0 (toUs 0x29 0) = 0 ∧
    (let c := (atCycle (words (s0.onClus (·.onCore (fun c => { c with tick := 7 }))) pageFbPkg 0x50 [7, 0]) 12256).pk.cl.core
     c.drainArmed = true ∧ c.close0 ≤ c.cycle) ∧
    (let k := (atCycle (words (s0.onClus (·.onCore (fun c => { c with tick := 7 }))) pageFbPkg 0x50 [7, 0]) 12256).onPkg (fun k => { k with fab := { k.fab with route := [(65536 + 5, 0x80000001), (5, 0x80000001)] } })
     let k := (word k (pageFb 0) 0x44 (4 * 2 ^ 29)).pk
     k.routePort 5 0 = some 0 ∧ k.portState 0 = 4 ∧ k.routeChanged 5 = false) ∧ s0.pk.fab.drained = [] ∧ s0.pk.cl.core.drainArmed = false ∧
    s0.pk.portsIdle = true ∧ winState.pk.portsIdle = false := by decide +kernel
theorem test_window_refused : nextHas (exec (.rd 0 { toUs 10 2 with len := 2, offset := 4095 }) winState) (fun t =>
    t.pk.cl.core.records.map (·.code) == [0x090D] && t.pk.net.pkts == []) = true := by decide +kernel
theorem test_kept_back : nextHas (exec (.rd 0 { toUs 10 2 with len := 2, offset := 4095 }) (winState.onPkg (fun k => k.setDevState 6))) (fun t =>
    (t.pk.link 0).kept == [0, 0, 1, 0] && (t.pk.link 0).freed == (winState.pk.link 0).freed) = true ∧
    nextHas (exec (.rd 0 { toUs 10 2 with len := 2, offset := 4095 }) winState) (fun t => (t.pk.link 0).kept == (winState.pk.link 0).kept) = true := by decide +kernel
theorem test_lt_arrive : nextHas (exec (.ltArrive 0 (toUs 0x19 0)) winState) (fun t => kget t.pk.cl.tab.lineIn [] 0 == [1]) = true := by decide +kernel
theorem test_stop : nextHas (exec (.stop 0 { toUs 0x18 0 with f5 := 2 }) winState) (fun t =>
    t.pk.fab.stopSeen == [(5, 0)] && (kget t.pk.fab.stops none 3).isSome) = true := by decide +kernel
theorem test_node_write : nextHas (exec (.fbNodeWrite 0xFFFFFFFF) s0) (fun t => t.pk.cl.core.rd pageFbPkg 0x40 == 0xFFFFFF01) = true := by decide +kernel

/-! ## The Attach Link -/

/-- A segment of one row for job 0 at DPA 0, in an attached window, with an owned line 1 and the link up. -/
def hostState : State :=
  (up 18 (fun x => { x with credit := [9, 9, 9, 9] })).onPkg (fun k => { k with
    hbm := { k.hbm with seg := [(3, 0xC0000000)] },
    att := { k.att with wins := [(0, some (0, 4096))], dir := [(1, 2), (2, 1)] } })
/-- A host message for a line. -/
def hmsg (a : Nat) (mask : Nat := 0) (space : Bool := false) : SalMsg := { addr := BitVec.ofNat 48 a, byteMask := BitVec.ofNat 64 mask, space := space, data := List.replicate 64 1 }
theorem test_premises_HostRequestsReadWriteAndKeepTheDirectory :
    hostState.pk.hostDpa 0 = true ∧ hostState.pk.attached 0 = true ∧ s0.pk.attached 0 = false ∧ s0.pk.hostDpa 0 = false ∧
    hostState.pk.lineBusy 0 = false ∧ hostState.pk.dirOf 0 = 0 ∧ hostState.pk.dirOf 1 = 2 ∧ hostState.pk.dirVictim 0 = none ∧
    (hostState.onPkg (fun k => { k with att := { k.att with dir := (List.range 16).map (fun i => (262144 * (i + 1), 1)) } })).pk.dirVictim 0 = some 262144 ∧
    (hostState.onPkg (fun k => { k with att := { k.att with snoops := [⟨0, 0, true, none, false⟩] } })).pk.lineBusy 0 = true ∧
    maskRun 0 = none ∧ maskRun 5 = none ∧ maskRun 0xF0 = some (4, 4) ∧ maskRun 0xFF = some (0, 8) ∧ maskRun 3 = some (0, 2) ∧
    cwAligned (0 + 4) 4 = true ∧ cwAligned 4 8 = false ∧ (hmsg 0x1000 0xF0 true).addr.toNat / 64 * 64 < 2 ^ 24 ∧ 2 ^ 24 ≤ (hmsg (2 ^ 24) 0 true).addr.toNat / 64 * 64 ∧
    (hostState.pk.link salLink).step = .up ∧ (s0.pk.link salLink).step ≠ .up ∧ 2 ≤ nth (hostState.pk.link salLink).credit 0 (salClass 1) ∧
    ((hostState.pk.link salLink).txNext + 4096 - (hostState.pk.link salLink).txAck) % 4096 < 2048 ∧
    ¬ 1 ≤ nth ((up 18 id).pk.link salLink).credit 0 (salClass 1) := by decide +kernel
theorem test_rd_own : nextHas (exec (.rdOwn (hmsg 0)) hostState) (fun t => t.pk.dirOf 0 == 2 && t.pk.att.retry.map (·.2.op) == [0x22, 0x30]) = true := by decide +kernel
theorem test_rd_shared_bad : nextHas (exec (.rdShared (hmsg 32)) hostState) (fun t => t.pk.cl.core.records.map (·.code) == [0x0B04] && t.pk.dirOf 0 == 0) = true := by decide +kernel
theorem test_wb : nextHas (exec (.wb (hmsg 64)) hostState) (fun t => t.pk.dirOf 1 == 0 && (t.pk.dpaRead 64 2).1 == [(1, false), (1, false)]) = true := by decide +kernel
theorem test_wb_waits : nextHas (exec (.wb (hmsg 64)) (hostState.onPkg (fun k => { k with att := { k.att with snoops := [⟨0, 1, true, none, false⟩] } })))
    (fun t => t.pk.dirOf 1 == 2 && t.pk.att.waitq == [.host { hmsg 64 with op := 6 }]) = true := by decide +kernel
theorem test_wr_full : nextHas (exec (.wrFull (hmsg 0)) hostState) (fun t => (t.pk.dpaRead 63 2).1 == [(1, false), (0, false)]) = true := by decide +kernel
theorem test_rd_uncached : nextHas (exec (.rdUncached (hmsg 0 3)) hostState) (fun t => t.pk.cl.core.records.map (·.code) == [0x0B04]) = true := by decide +kernel

/-- The attach cache with a modified line 0, a request of txn 0 for line 3 with a grant, and a snoop of txn 5. -/
def cacheState (grant : Nat) : State :=
  (up 18 (fun x => { x with credit := [9, 9, 9, 9] })).onPkg (fun k => { k with att := { k.att with
    cache := [(0, some ⟨3, List.replicate 64 (2, false)⟩)], reqs := [⟨0, 2, 3, grant⟩], snoops := [⟨5, 9, false, none, false⟩], dir := [(9, 2)] } })
theorem test_premises_AttachCacheSnoopsAndTimeouts :
    (cacheState 0).pk.cline 0 = some ⟨3, List.replicate 64 (2, false)⟩ ∧ (cacheState 0).pk.cline 1 = none ∧
    (cacheState 0).pk.att.reqs.find? (fun r => decide (r.txn = 0)) = some ⟨0, 2, 3, 0⟩ ∧
    (cacheState 0).pk.att.reqs.find? (fun r => decide (r.txn = 1)) = none ∧
    (cacheState 1).pk.att.reqs.find? (fun r => decide (r.txn = 0 ∧ r.grant ≠ 0)) = some ⟨0, 2, 3, 1⟩ ∧
    ((cacheState 1).pk.att.cache.filter (fun e => decide (cacheSet e.1 = cacheSet 3 ∧ e.1 ≠ 3))).length < 16 ∧
    (cacheState 0).pk.att.xfers.all (fun x => !x.waits.elem 0) = true ∧
    (cacheState 0).pk.att.snoops.find? (fun x => decide (x.txn = 5)) = some ⟨5, 9, false, none, false⟩ ∧
    bitAt (s0.pk.cl.core.rd pageAt 0x28) 2 = false ∧ bitAt ((word s0 pageAt 0x28 4).pk.cl.core.rd pageAt 0x28) 2 = true := by decide +kernel
theorem test_snp_share : nextHas (exec (.snpShare (hmsg 0)) (cacheState 0)) (fun t =>
    (t.pk.cline 0).map (·.st) == some 1 && t.pk.att.retry.map (·.2.op) == [0x24, 0x30]) = true := by decide +kernel
theorem test_snp_s : nextHas (exec (.snpS { txn := 5 }) (cacheState 0)) (fun t => t.pk.dirOf 9 == 1 && t.pk.att.snoops == []) = true := by decide +kernel
theorem test_line : nextHas (exec (.line { txn := 0, data := List.replicate 64 7 }) (cacheState 2)) (fun t =>
    (t.pk.cline 3).map (·.st) == some 2 && t.pk.att.reqs == []) = true := by decide +kernel
theorem test_cpl_timeout : nextHas (exec (.atCplTimeout 0) (cacheState 0)) (fun t => t.pk.cl.core.records.map (·.code) == [0x0B06] && t.pk.att.reqs == []) = true := by decide +kernel

/-! ## Collectives and time -/

/-- Entry 0 of engine 0: ALL_REDUCE of group table entry 0, INT32, one granule a chunk and a share; a run of it. -/
def coll (r : CollRun) : State :=
  winState.onPkg (fun k => { k with fab := { k.fab with coll := [(0, [0x1600000000000001, 0, 0, 0, 0, 0])], runs := [(0, some r)] } })
/-- A run at its first STEP with the bytes received. -/
def crun (rx : List PB) (freed : Bool) (unacked : List (Nat × Nat)) : CollRun := ⟨1, 0, unacked, rx, [], [], false, freed, false⟩
/-- A collective frame of the group's other member. -/
def cframe (ft : Nat) : Frame := toUs ft 1
theorem test_premises_CollectivesCheckReduceAndPassOn :
    winState.pk.collRun 0 0 = none ∧ (coll (crun [] false [(0, 2)])).pk.collRun 0 0 = some (crun [] false [(0, 2)]) ∧
    (coll (crun [] false [])).pk.frameBad 0 { cframe 0x10 with chunks := 1 } = 0 ∧ (coll (crun [] false [])).pk.frameBad 0 (cframe 0x11) = 0 ∧
    (coll (crun [] false [])).pk.frameBad 0 (cframe 0x12) = 0 ∧
    (let ws := (coll (crun [] false [])).pk.collEntry 0 0
     ceOp ws = 1 ∧ ceFmt ws = 6 ∧ ceGrp ws = 0 ∧ ceChunk ws = 1 ∧ cePer ws = 1 ∧ (ringSteps 1 2).1 = 1 ∧ totalSteps ws 2 = 2 ∧
     0 / cePer ws < (ringSteps (ceOp ws) 2).1 ∧ ¬ 1 / cePer ws < (ringSteps (ceOp ws) 2).1) ∧
    redCount 6 256 = 64 ∧ ([(0, 2)] : List (Nat × Nat)).filter (fun x => decide (x.1 ≠ 0)) = [] ∧ (3 : Nat) ≤ 3 := by decide +kernel
theorem test_coll_data : nextHas (exec (.collData 0 { cframe 0x10 with chunks := 1, payload := [1, 2] }) (coll (crun [] false []))) (fun t =>
    (t.pk.collRun 0 0).map (·.rx) == some [(1, false), (2, false)]) = true := by decide +kernel
theorem test_coll_ack : nextHas (exec (.collAck 0 (cframe 0x12)) (coll (crun [] true [(0, 1)]))) (fun t => (t.pk.collRun 0 0).isNone) = true := by decide +kernel
theorem test_coll_digest : nextHas (exec (.collDig 0 (cframe 0x11)) (coll (crun [] false []))) (fun t =>
    t.pk.cl.core.records.map (·.code) == [0x0A0C] && (t.pk.collRun 0 0).isNone) = true := by decide +kernel
theorem test_coll_timeout : nextHas (exec (.collTimeout 0 0) (coll (crun [] false [(0, 2)]))) (fun t => (t.pk.collRun 0 0).map (·.unacked) == some [(0, 3)]) = true ∧
    nextHas (exec (.collTimeout 0 0) (coll (crun [] false [(0, 3)]))) (fun t => t.pk.cl.core.records.map (·.code) == [0x0A0E]) = true := by decide +kernel

/-- The header of a TIME_RSP. -/
def timeFrame : Frame := { ftype := 0x22, dstNode := 0xFFFF }
/-- Port 0 up with an offer and an outstanding TIME_REQ; it is the parent port, and stepping is off. -/
def timed (lock : Nat) : State :=
  (words (port 4) pageTime 0x50 [0, 0x32, 0]).onPkg (fun k => { k with fab := { k.fab with offers := [(0, some ⟨1, 0, 0, 500, some 100⟩)], lockCnt := lock } })
theorem test_premises_TimeFollowsTheBestMaster :
    s0.pk.portState 0 < 3 ∧ 3 ≤ (timed 0).pk.portState 0 ∧ (timed 0).pk.maySt = false ∧ (timed 0).pk.frameBad 0 timeFrame = 0 ∧ (7 : W64) ≠ (timed 0).pk.cl.core.tick ∧
    (timed 0).pk.bestMaster = some (1, 0, 1) ∧ s0.pk.bestMaster = none ∧ (timed 0).pk.cl.core.fld pageTime 0x58 0 5 = 0 ∧
    kget (timed 0).pk.fab.offers none 0 = some ⟨1, 0, 0, 500, some 100⟩ ∧ kget (timed 0).pk.fab.offers none 1 = none ∧
    (words s0 pageTime 0x58 [31]).pk.cl.core.fld pageTime 0x58 0 5 = 31 ∧ s0.pk.cl.core.timeState ≠ 2 ∧
    (word s0 pageTime 0x4C 0x40000000).pk.cl.core.timeState = 2 ∧ (timed 15).pk.fab.lockCnt = 15 := by decide +kernel
theorem test_time_rsp_near : nextHas (exec (.timeRsp 0 ⟨1, 0, 140, 0, 0, timeFrame⟩) (timed 15)) (fun t =>
    t.pk.cl.core.rd pageTime 0x50 == 230 && t.pk.fab.lockCnt == 16 && t.pk.cl.core.timeState == 2) = true := by decide +kernel

/-! ## HBM -/

/-- HBM stack 0 with a re-homing of page 7 of pseudo-channel 3 to spare page 9 of part 0. -/
def rehoming : State := s0.onPkg (fun k => { k with hbm := { k.hbm with rehome := [(0, some ⟨3, 7, false, 0, 9⟩)] } })
theorem test_premises_HbmScrubsRehomesAndMeasures :
    (∀ e ∈ [1, 2, 3, 4], kget (s0.onPkg (fun k => { k with hbm := { k.hbm with errs := [(k.physAddr 0 0 0 / 64, e)] } })).pk.hbm.errs 0 (s0.pk.physAddr 0 0 0 / 64) = e) ∧
    kget s0.pk.hbm.errs 0 (s0.pk.physAddr 0 0 0 / 64) = 0 ∧
    bitAt ((word s0 (pageHb 0) 0x4C 0).pk.cl.core.rd (pageHb 0) 0x4C) 31 = false ∧ bitAt (s0.pk.cl.core.rd (pageHb 0) 0x4C) 31 = true ∧
    bitAt (s0.pk.cl.core.rd (pageHb 0) 0x5C) 31 = false ∧ bitAt ((word s0 (pageHb 0) 0x5C 0x80000000).pk.cl.core.rd (pageHb 0) 0x5C) 31 = true ∧
    s0.pk.nextPage 0 3 0 = some 0 ∧ s0.pk.nextPage 0 3 2047 = some 2047 ∧ s0.pk.nextPage 0 3 2048 = none ∧ s0.pk.findSpare 0 = some (0, 0) ∧
    kget s0.pk.hbm.rehome none 0 = none ∧ kget rehoming.pk.hbm.rehome none 0 = some ⟨3, 7, false, 0, 9⟩ ∧ Memory.wf rehoming = true ∧
    min (0 : Byte).toNat (0 : Byte).toNat ≤ s0.pk.cl.core.fld (pageHb 0) 0x54 0 8 ∧ 0 < (word s0 (pageHb 0) 0x54 1).pk.cl.core.fld (pageHb 0) 0x54 0 8 ∧
    kget s0.pk.hbm.retrain 0 (pcKey 0 3) = 0 ∧ kget [(pcKey 0 3, 1)] 0 (pcKey 0 3) = 1 ∧ kget s0.pk.hbm.cow [] (pcKey 0 3) = [] ∧
    kget (s0.onPkg (fun k => { k with hbm := { k.hbm with cow := [(3, [(⟨0, 0⟩, [])])] } })).pk.hbm.cow [] (pcKey 0 3) = [(⟨0, 0⟩, [])] := by decide +kernel
theorem test_pc_fault : nextHas (exec (.pcFault 0 3 false) s0) (fun t =>
    bitAt (t.pk.cl.core.rd (pageHb 0) 0x40) 3 && t.pk.cl.core.records.map (·.code) == [0x0905]) = true := by decide +kernel
theorem test_low_margin : nextHas (exec (.marginMeasure 0 3 5 0) (word s0 (pageHb 0) 0x54 1)) (fun t =>
    t.pk.cl.core.records.map (·.code) == [0x090A] && t.pk.cl.core.rd (pageHb 0) 0x18C == 5) = true := by decide +kernel

/-! ## Rings, jobs and device commands -/

/-- Job j in a state code with its own data, device state `dev`, the link up and every complex serving. -/
def jobIn (dev j st : Nat) (x : Option JobS) : State :=
  (serving (up 18 (fun x => { x with credit := [9, 9, 9, 9] })) dev).onPkg (fun k => ({ k with jobs := [(j, x)] } : Pkg).setJobState j st)
/-- The same with ring 3 on, for job 3. -/
def job3 (dev st : Nat) (x : JobS) : State := cword (jobIn dev 3 st (some x)) 19 0x40 0x80000000
/-- A host completion of job 3. -/
def hc3 : HostCompl := ⟨3, 5, 0, 0, 0, false, 0, 0, 0⟩
/-- Ring 3 with a command that waits. -/
def waitingCmd : State := (job3 3 2 (newJob 0 false)).onPkg (fun k => { k with att := { k.att with ring := [(3, ⟨1, 0, true⟩)], cplFly := [hc3] } })
theorem test_premises_RingsDoorbellsAndCompletionRecords :
    emulated 15 = false ∧ emulated 16 = true ∧ emulated 32 = true ∧ emulated 33 = false ∧ emulated 256 = true ∧ cwAligned 0xFFC 4 = true ∧
    cwAligned 0xFFC 8 = false ∧ bitAt (s0.pk.cl.core.rd pageAt 0x28) 1 = false ∧ bitAt ((word s0 pageAt 0x28 2).pk.cl.core.rd pageAt 0x28) 1 = true ∧
    s0.pk.att.log.length < 4096 ∧ s0.pk.ringOn 3 = false ∧ (job3 3 2 (newJob 0 false)).pk.ringOn 3 = true ∧
    s0.pk.cqRoom 3 = false ∧ (job3 3 2 (newJob 0 false)).pk.cqRoom 3 = true ∧ (job3 3 2 (newJob 0 false)).pk.stagedOf 3 = [] ∧
    hc3 ∉ s0.pk.att.cplFly ∧ hc3 ∈ waitingCmd.pk.att.cplFly ∧
    (let k := waitingCmd.pk
     k.upC k.sb = true ∧ k.ringOn 3 = true ∧ bitsAt (k.cwRd 3 (0x80 + 4 * 3)) 0 16 ≠ (k.ringS 3).tail ∧ k.att.cmds = [] ∧ (k.link salLink).step = .up) ∧
    (let w0 : W64 := 0x0330000000000005
     bitsAt w0 52 4 = 3 ∧ bitsAt w0 32 20 = 0 ∧ bitsAt w0 56 8 = 3 ∧ jobParams 3 = some [] ∧ paramsOk [w0] [] = true) ∧ jobParams 13 = none := by decide +kernel
theorem test_command_invalid : nextHas (exec (.commandFetch 3 [0x0D30000000000005]) waitingCmd) (fun t =>
    t.pk.cl.core.records.map (·.code) == [0x0B0A] && t.pk.att.hostWr.length == 1) = true := by decide +kernel
theorem test_emulated_write : nextHas (exec (.emulatedWrite 256 8 8 7) s0) (fun t =>
    t.pk.att.log == [⟨256, 8, 8, 7⟩] && t.pk.cwRd 3 0x48 == 1) = true := by decide +kernel

/-- Job 3 loaded while 65 package groups are in use: it fits only by turns. -/
def noGroups (turns : Bool) : State :=
  (job3 3 2 (newJob 7 turns)).onPkg (·.onNet (fun n => { n with groups := (List.range 65).map (fun i => (i, 1)) }))
theorem test_premises_JobCommandsAreCheckedAndMoveTheJob :
    (∀ d ∈ [2, 3, 4], (jobIn d 14 1 none).pk.devState = d ∧ (jobIn d 14 1 none).pk.jobState 14 = 1) ∧
    (∀ st ∈ [0, 1, 2, 3, 4, 5, 6], (job3 3 st (newJob 7 false)).pk.jobState 3 = st ∧ (job3 3 st (newJob 7 false)).pk.job 3 = some (newJob 7 false)) ∧
    (3 : Job).val ≠ 15 ∧ parseImage 1 0 [] = ([], none) ∧ (parseImage 2 0 (List.replicate 15 0)).2 = some 0 ∧
    (job3 3 2 (newJob 7 false)).pk.admission 3 (newJob 7 false) = 0 ∧
    (∀ t ∈ [true, false], (noGroups t).pk.admission 3 (newJob 7 t) = 3 ∧ (newJob 7 t).allowTurns = t ∧ (noGroups t).pk.job 3 = some (newJob 7 t)) := by decide +kernel
theorem test_job_load_empty : nextHas (exec (.jobLoad 3 5 0x800000000000 0 []) (job3 3 1 (newJob 7 false))) (fun t => t.pk.jobState 3 == 2) = true := by decide +kernel
theorem test_job_start : nextHas (exec (.jobStart 3 5) (noGroups true)) (fun t =>
      t.pk.jobState 3 == 3 && (t.pk.job 3).map (·.turns) == some true) = true ∧
    nextHas (exec (.jobStart 3 5) (noGroups false)) (fun t => t.pk.jobState 3 == 2) = true := by decide +kernel
theorem test_job_resume : nextHas (exec (.jobResume 3 5) (job3 3 4 { newJob 7 false with susp := true })) (fun t =>
    t.pk.jobState 3 == 3 && (t.pk.job 3).map (·.susp) == some false) = true := by decide +kernel
theorem test_job_destroy : nextHas (exec (.jobDestroy 3 5) (job3 3 6 (newJob 7 false))) (fun t => t.pk.jobState 3 == 0 && (t.pk.job 3).isNone) = true ∧
    nextHas (exec (.jobDestroy 3 5) (job3 3 3 (newJob 7 false))) (fun t => t.pk.jobState 3 == 3) = true := by decide +kernel

/-- A job with an allocation of 4,096 bytes at DPA 0. -/
def allocJob : JobS := { newJob 7 false with allocs := [⟨0, 4096, 0, 0⟩] }
/-- A checkpoint of it at 0x1000. -/
def ckptState : State := (job3 3 2 allocJob).onPkg (fun k => { k with ckpts := [(0x1000, some { emptySnap 4 with allocs := [⟨64, 4096, 0, 0⟩] })] })
/-- A cut of job 3 that is taken, two ticks ago. -/
def cutState (taken : Bool) (t : Nat) : State :=
  (ckptState.onClus (·.onCore (fun c => { c with tick := BitVec.ofNat 64 t }))).onPkg (fun k => { k with hbm := { k.hbm with cuts := [(3, some ⟨4, 0x2000, 5, false, taken, emptySnap 4⟩)] } })
/-- Jobs 3 and 4 run; job 4 waits for its turn. -/
def turns (t : Nat) : State :=
  ((job3 3 3 (newJob 7 true)).onClus (·.onCore (fun c => { c with tick := BitVec.ofNat 64 t }))).onPkg (fun k =>
    ({ k with jobs := [(3, some { newJob 7 true with turns := true, turn := true }), (4, some { newJob 8 true with turns := true })] } : Pkg).setJobState 4 3)
theorem test_premises_MemoryTurnsAndCheckpoints :
    setOk 0 0 = true ∧ setOk 3 0 = false ∧ (1 : W64).toNat ≠ 0 ∧ (job3 3 4 allocJob).pk.jobState 3 = 4 ∧
    (cword (job3 3 1 allocJob) 0 0x44 0x3F000000).pk.setIn 0 0 = true ∧ (cword (job3 3 1 allocJob) 0 0x44 0x30000000).pk.setIn 0 0 = false ∧
    allocJob.allocs.map (·.dpa) = [0] ∧ ckptState.pk.grpOfJob 3 = none ∧ winState.pk.grpOfJob 1 = some 0 ∧
    (kget ckptState.pk.ckpts none 0x1000).isSome = true ∧ kget ckptState.pk.ckpts none 0x1008 = none ∧
    kget s0.pk.hbm.cuts none 3 = none ∧ (kget (cutState true 6).pk.hbm.cuts none 3).isSome = true ∧ 4 + 1 < (cutState true 6).pk.cl.core.tick.toNat ∧
    ¬ 4 + 1 < (cutState true 5).pk.cl.core.tick.toNat ∧
    (turns 1024).pk.jobState 3 = 3 ∧ (turns 1024).pk.jobState 4 = 3 ∧ 0 + 1024 ≤ (turns 1024).pk.cl.core.tick.toNat ∧
    ¬ 0 + 1024 ≤ (turns 1023).pk.cl.core.tick.toNat ∧ (turns 1024).pk.job 4 = some { newJob 8 true with turns := true } := by decide +kernel
theorem test_premises_checkpoint_regions : ckptState.pk.cl.core.regionsOf 3 = [] ∧ (cutState true 6).pk.homesReach 3 4 = true := by
  have h : (cutState true 6).pk.cl.core.regionsOf 3 = [] := Core.regionsOf_nil _ _ (by decide +kernel)
  refine ⟨Core.regionsOf_nil _ _ (by decide +kernel), ?_⟩
  rw [Pkg.homesReach, h]; rfl
theorem test_job_restore : nextHas (exec (.jobRestore 3 5 0x1000) ckptState) (fun t =>
    t.pk.jobState 3 == 2 && ((t.pk.job 3).bind (·.restored)).isSome) = true := by decide +kernel
theorem test_free : nextHas (exec (.free 3 5 0) ckptState) (fun t => (t.pk.job 3).map (·.allocs) == some []) = true := by decide +kernel
/-- A state of device state `d` with every complex serving. -/
def dev (d : Nat) : State := serving s0 d
/-- A drill of M-core 0 of cluster 0, bit `b`, first at tick `f`, with an interval, a count and flags. -/
def drill (b f iv n fl : Nat) : DrillEntry := ⟨0, 0x12, BitVec.ofNat 8 b, 0, BitVec.ofNat 64 f, BitVec.ofNat 32 iv, BitVec.ofNat 16 n, BitVec.ofNat 8 fl, 0⟩
theorem test_premises_DeviceCommandsAreCheckedAndAct :
    (∀ d ∈ [0, 1, 2, 3, 4, 5, 6, 7], (dev d).pk.devState = d) ∧ (dev 3).pk.portsIdle = true ∧ (winState.onPkg (·.setDevState 3)).pk.portsIdle = false ∧
    bitAt ((dev 3).pk.cl.core.rd pageFbPkg 0x40) 0 = false ∧ bitAt ((word (dev 3) pageFbPkg 0x40 1).pk.cl.core.rd pageFbPkg 0x40) 0 = true ∧
    (dev 3).pk.anyAdmitted = false ∧ (job3 3 3 (newJob 7 false)).pk.anyAdmitted = true ∧
    (let l : List (BitVec 16 × Byte) := [(5, 0), (6, 1)]
     ¬(16 ≤ (15 : W64).toNat ∨ l.length < 2 ∨ 256 < l.length ∨ l.length ≤ (1 : Byte).toNat) ∧ l.length ≤ (2 : Byte).toNat ∧
     256 < (List.replicate 257 (5, 0) : List (BitVec 16 × Byte)).length ∧ l[1]? = some (6, 1)) ∧
    (dev 3).pk.jobQuiet 3 = true ∧ (dev 3).pk.grpValid 15 = false ∧ (winState.onPkg (·.setDevState 3)).pk.grpValid 0 = true ∧
    (let k := (winState.onPkg (·.setDevState 3)).pk; k.jobQuiet (k.grpJob 0) = true ∧ k.devState = 3) ∧ (job3 3 3 (newJob 7 false)).pk.jobQuiet 3 = false ∧
    (dev 3).pk.cl.core.rd8 pageFbPkg 0x50 = 0 ∧ (words (dev 3) pageFbPkg 0x50 [0, 1]).pk.cl.core.rd8 pageFbPkg 0x50 ≠ 0:= by decide +kernel
theorem test_premises_device_operands :
    ([(7, 1), (8, 0)] : List (BitVec 16 × BitVec 18)) = [(7, 1)] ++ [(8, 0)] ∧
    (let base := bitsAt (0 : W64) 0 30; let size := bitsAt (0 : W64) 32 30
     ¬(256 ≤ (255 : W64).toNat ∨ dpaFw < (base + size + 1) * 4096)) ∧ 256 ≤ (256 : W64).toNat ∧
    (let w4 : W64 := 0x3FFFFFFF; dpaFw < (bitsAt w4 0 30 + bitsAt (w4 <<< 32) 32 30 + 1) * 4096) ∧
    (let w : W64 := 0x800000000000000F; bitAt w 63 = true ∧ bitsAt w 0 32 = 15) ∧ 16 ≤ bitsAt (16 : W64) 0 32 ∧ bitAt (15 : W64) 63 = false ∧
    (let n : W64 := 0x40000000000; n.toNat % 0x200000 = 0 ∧ n.toNat ≠ 0 ∧ ¬ dpaFw < (0 : W64).toNat + n.toNat ∧ dpaFw < (0x200000 : W64).toNat + n.toNat) ∧
    winState.pk.grpOf (3 : BitVec 16).toNat = some 0 ∧ (winState.onPkg (·.setDevState 3)).pk.grpOf 4 = none ∧
    ((2999 : W64).toNat ≠ 0 ∧ (2999 : W64).toNat < 3000) ∧ 3000 ≤ (3000 : W64).toNat ∧
    diagPlace (0 : W32).toNat = true ∧ diagPlace (0x80000000 : W32).toNat = false ∧ ¬((0 : W64) ≠ 0 ∨ 16 ≤ (15 : W64).toNat) ∧
    (∀ e ∈ [drill 0 5 (2 ^ 20) 0 0, drill 1 5 (2 ^ 32 - 1) 1 1], drillOk e = true) ∧ (∀ e ∈ [drill 2 5 (2 ^ 20) 0 0, drill 0 5 (2 ^ 20 - 1) 0 0, drill 0 5 (2 ^ 20) 0 2], drillOk e = false) := by decide +kernel
theorem test_nop : nextHas (exec (.nop 7) (job3 3 2 (newJob 7 false))) (fun t => t.pk.cl == (job3 3 2 (newJob 7 false)).pk.cl) = true ∧
    nextHas (exec (.nop 7) (dev 0)) (fun t => t.pk.cl.core.records.map (·.code) == [0x0B0A]) = true := by decide +kernel
theorem test_set_node : nextHas (exec (.setNode 7 0xFFFE 3) (dev 3)) (fun t => t.pk.cl.core.rd pageFbPkg 0x40 == 0xFFFE0301) = true ∧
    nextHas (exec (.setNode 7 0xFFFF 3) (dev 3)) (fun t => t.pk.cl.core.rd pageFbPkg 0x40 == 0) = true := by decide +kernel
theorem test_group_set : nextHas (exec (.groupSet 7 15 9 3 1 [(5, 0), (6, 1)]) (dev 3)) (fun t =>
    t.pk.grpValid 15 && t.pk.grpId 15 == 9 && t.pk.grpN 15 == 2 && t.pk.memberNode 15 1 == 6) = true := by decide +kernel
theorem test_route_set : nextHas (exec (.routeSet 7 [(8, 5), (8, 1)]) (dev 3)) (fun t => kget t.pk.fab.route 0 (65536 + 8) == 0x80000001) = true := by decide +kernel
theorem test_power_cap : nextHas (exec (.powerCap 7 3000) (dev 3)) (fun t => t.pk.pw.cap == 3000) = true ∧
    nextHas (exec (.powerCap 7 2999) (dev 3)) (fun t => t.pk.pw.cap == 0) = true := by decide +kernel
theorem test_drill_set : nextHas (exec (.drillSet 7 1 0 [drill 0 5 (2 ^ 20) 0 0]) (dev 3)) (fun t => t.pk.bi.drills.length == 1) = true ∧
    nextHas (exec (.drillSet 7 1 0 [drill 2 5 (2 ^ 20) 0 0]) (dev 3)) (fun t => t.pk.bi.drills == []) = true := by decide +kernel
/-- A drill entry that names a SEC page. -/
def secDrill : DrillEntry := { drill 0 5 (2 ^ 20) 0 0 with page := 0x0006 }
theorem test_sec_drill : secDrill ∈ [drill 0 5 (2 ^ 20) 0 0, secDrill] ∧ secDrill.page = 0x0006 ∧ drillOk secDrill = false ∧
    nextHas (exec (.drillSet 7 2 0 [drill 0 5 (2 ^ 20) 0 0, secDrill]) (dev 3)) (fun t => t.pk.bi.drills == []) = true := by decide +kernel

/-! ## Power states -/

/-- Laid-up with a wake at step n, for the command of tag 7. -/
def waking (n : Nat) : State := (dev 5).onPkg (·.onPw (fun p => { p with wake := some n, wakeCmd := some ⟨15, 0x29, 15, 7⟩, backTo := 3 }))
theorem test_premises_PowerStatesAndTheWake :
    (∀ d ∈ [2, 3, 4, 5], (dev d).pk.devState = d ∧ ∀ j, j < 15 → (dev d).pk.jobState j = 0) ∧ (dev 3).pk.anyAdmitted = false ∧
    (∀ st ∈ [3, 5], (job3 3 st (newJob 7 false)).pk.jobState 3 = st ∧ (job3 3 st (newJob 7 false)).pk.anyAdmitted = true) ∧
    (dev 3).pk.drainsArmed = false ∧ (words (dev 3) pageRoot 0x340 [5, 0]).pk.drainsArmed = true ∧ (words (dev 3) pageFbPkg 0x50 [5, 0]).pk.drainsArmed = true ∧
    (dev 5).pk.pw.wake = none ∧ (∀ n ∈ [0, 1, 2, 3], (waking n).pk.pw.wake = some n ∧ (waking n).pk.devState = 5) ∧
    (waking 3).pk.pw.wakeReset = none ∧ (waking 3).pk.pw.wakeCmd = some ⟨15, 0x29, 15, 7⟩ := by decide +kernel
theorem test_idle : nextHas (exec (.powerStateIdle 7) (dev 3)) (fun t => t.pk.devState == 4 && t.pk.pw.backTo == 3) = true ∧
    nextHas (exec (.powerStateIdle 7) (job3 3 3 (newJob 7 false))) (fun t => t.pk.devState == 3) = true := by decide +kernel
theorem test_running : nextHas (exec (.powerStateRunning 7) (dev 5)) (fun t => t.pk.devState == 5 && t.pk.pw.wake == some 0) = true ∧
    nextHas (exec (.powerStateRunning 7) ((dev 4).onPkg (·.onPw (fun p => { p with backTo := 2 })))) (fun t => t.pk.devState == 2) = true := by decide +kernel
theorem test_wake_step : nextHas (exec .wakeStepDone (waking 0)) (fun t => t.pk.pw.wake == some 1) = true := by decide +kernel
theorem test_wake_timeout : nextHas (exec .wakeTimeout (waking 2)) (fun t => t.pk.devState == 6 && t.pk.pw.wake == none) = true := by decide +kernel

/-! ## Registers and power -/

/-- Region 0 of a device in service, its supply on. -/
def powered : State := word (dev 3) pagePw 0x88 0x80000000
theorem test_premises_RegisterWritesFollowTheAccessRules :
    (∀ p ∈ [0xFFFFFF, 0x10C000, 0x10005F], pageKind p = none ∧ winKind p = none) ∧
    (∀ e ∈ [(0x200000, WinKind.entries 0), (0x20BFFF, .entries 191), (0x300000, .imem 0), (0x307FFF - 0x800, .imem 959), (0x400000, .dmem 0), (0x40EFFF, .dmem 959)],
      winKind e.1 = some e.2 ∧ pageKind e.1 = none) ∧
    (∀ e ∈ [(pageTT 0, PKind.tt 0), (1, .sbx 0), (2, .sbx 1), (pagePw, .pw), (pageTime, .time), (pageSeg, .hbSeg), (pageWin 0, .hbWin 0), (pageFbPkg, .fbPkg),
      (pageHb 0, .hb 0), (pageFb 0, .fbPort 0), (pageColl 0, .fbColl 0)], pageKind e.1 = some e.2 ∧ winKind e.1 = none ∧ powered.pk.domainOff e.2 = false) ∧
    s0.pk.domainOff (.tt 0) = true ∧ cwAligned 0x44 4 = true ∧ cwAligned 0xFFC 8 = false ∧ cwAligned 2 2 = false ∧
    (run0.pk.cl.runOrPilot 0).isSome = true ∧ (s0.pk.cl.runOrPilot 959).isSome = false ∧ run0.pk.cl.run 0 0 = some (slotRun 0 5 63 ent0) ∧
    (0x200000 * 4096 + 0x500 - entryBase 0) / 256 = 5 ∧ (0x200000 * 4096 - entryBase 0) / 256 = 0 ∧ (slotRun 0 5 63 ent0).entry = 5 ∧
    s0.pk.att.log = [] ∧ s0.pk.upC s0.pk.sb = false ∧
    (let k := ((dev 3).onPkg (·.onAtt (fun a => { a with log := [⟨256, 8, 8, 7⟩] }))).pk; k.att.log = [⟨256, 8, 8, 7⟩] ∧ k.upC k.sb = true) ∧
    bitAt (s0.pk.cwRd 273 0x44) 31 = false ∧ bitAt ((cword s0 273 0x44 0x80000000).pk.cwRd 273 0x44) 31 = true ∧
    viewOnly 272 = some 0x40 ∧ viewOnly 256 = none ∧ viewOnly 4095 = none ∧ (256 : Fin 4096).val = 256 := by decide +kernel
theorem test_run_limit_write : nextHas (exec (.registerWrite (BitVec.ofNat 24 (pageTT 0)) 0x48 4 0xFFFFFFFF) powered) (fun t => t.pk.cl.core.rd (pageTT 0) 0x48 == 0xFFFF) = true ∧
    nextHas (exec (.registerWrite (BitVec.ofNat 24 (pageTT 0)) 0x48 4 0xFFFFFFFF) s0) (fun t => t == s0) = true := by decide +kernel
theorem test_register_size : nextHas (exec (.registerWrite 3 0x42 4 1) s0) (fun t => t.pk.cl.core.rd 3 0x18 == 1) = true := by decide +kernel
theorem test_window_write : nextHas (exec (.memoryWindowWrite 0x40EFFF 0xFFE 2 0x1234) s0) (fun t => t.pk.cl.core.winRds (0x40EFFF * 4096 + 0xFFD) 3 == [0, 0x34, 0x12]) = true ∧
    nextHas (exec (.memoryWindowWrite 0x40EFFF 0xFFF 2 0x1234) s0) (fun t => t.pk.cl.core.win == []) = true := by decide +kernel
theorem test_mailbox_go : nextHas (exec .secMbxGo s0) (fun t => t.pk.cwRd 273 0x44 == 0x80000000) = true := by decide +kernel
theorem test_shadow : nextHas (exec (.shadowRefresh 259) (word (dev 3) pagePw 0x54 7)) (fun t => t.pk.cwRd 259 0x54 == 7) = true := by decide +kernel

theorem test_premises_PowerCapThermalLoopAndFailures :
    s0.pk.pw.vaux = false ∧ blockedState.pk.pw.vaux = true ∧ kget s0.pk.pw.regOff false 191 = false ∧
    kget (s0.onPkg (·.onPw (fun p => { p with regOff := [(191, true)] }))).pk.pw.regOff false 191 = true ∧
    s0.pk.effCap = 14000 ∧ (s0.onPkg (·.onPw (fun p => { p with cap := 3000 }))).pk.effCap = 3000 ∧ s0.pk.pw.capEp = false ∧
    600 < s0.pk.cl.core.mhz ∧ (word s0 pagePw 0x50 600).pk.cl.core.mhz = 600 ∧ s0.pk.pw.below = 0 ∧ ¬(13300 * 100 < 95 * s0.pk.effCap) ∧ 13299 * 100 < 95 * s0.pk.effCap ∧
    disagrees [(0, 420)] [] [] 0 420 = none ∧ disagrees [(0, 420), (1, 408)] [] [400] 0 420 = none ∧ disagrees [(0, 420), (1, 407)] [] [] 0 420 = some 12 ∧
    s0.pk.biased 0 420 = 420 ∧ s0.pk.pw.thermAt = 0 ∧ s0.pk.pw.therm = 0 ∧
    (let k := ((s0.onClus (·.onCore (fun c => { c with tick := 16 }))).onPkg (·.onPw (fun p => { p with thermAt := 2, therm := 600 }))).pk
     ¬(k.pw.thermAt = 0 ∨ k.pw.thermAt + 15 ≤ k.cl.core.tick.toNat) ∧ k.pw.thermAt + 14 ≤ k.cl.core.tick.toNat) := by decide +kernel
theorem test_vaux_rise : nextHas (exec .vauxRise s0) (fun t => t.pk.pw.vaux && t.pk.pw.seq == some 0 && t.pk.cl.core.railEn 0) = true := by decide +kernel
theorem test_pll_unlock : nextHas (exec (.pllUnlock 3) (job3 3 3 (newJob 7 false))) (fun t =>
    t.pk.devState == 7 && t.pk.jobState 3 == 6 && t.pk.pw.faultN) = true := by decide +kernel
theorem test_regulator_fault : nextHas (exec (.regulatorFault 191) s0) (fun t => t.pk.pw.regOff == [(190, true), (191, true)]) = true := by decide +kernel
theorem test_cap_loop : nextHas (exec (.powerCapLoop 14001) (serving s0 3)) (fun t => t.pk.cl.core.records.map (·.code) == [0x0C04]) = true ∧
    nextHas (exec (.powerCapLoop 14001) s0) (fun t => t.pk.cl.core.records == [] && t.pk.cl.core.fld pagePw 0x44 0 16 == 14001) = true ∧
    nextHas (exec (.powerCapLoop 13300) (serving s0 3)) (fun t => t.pk.pw.below == 0 && t.pk.cl.core.rd pagePw 0x54 == s0.pk.cl.core.rd pagePw 0x54) = true := by decide +kernel
theorem test_thermal : nextHas (exec (.thermalLoop [⟨0, 420⟩] []) (serving s0 3)) (fun t => t.pk.pw.therm == s0.pk.cl.core.fusedMhz - 25 && t.pk.pw.thermAt == 1) = true ∧
    nextHas (exec (.thermalLoop [⟨0, 420⟩] []) s0) (fun t => t.pk.pw.therm == 0) = true ∧
    nextHas (exec (.thermalLoop [⟨0, 419⟩] []) (serving s0 3)) (fun t => t.pk.pw.therm == 0) = true := by decide +kernel
theorem test_tick_read : nextHas (exec .timeTickLoRead (s0.onClus (·.onCore (fun c => { c with tick := 0x500000007 })))) (fun t => t.pk.cl.core.rd pageTime 0x44 == 5) = true := by decide +kernel

/-! ## Resets and start-up -/

/-- Device state `d` with a reset of a domain in a phase, begun by the command of tag 7, and a stop tick. -/
def resetting (d dom ph ta : Nat) : State :=
  (dev d).onPkg (·.onFw (fun f => { f with reset := some ⟨dom, 0, some ⟨15, 0x2B, 15, 7⟩, 0, ph, ta, 3⟩ }))
/-- The same with a dump of a cluster in progress. -/
def dumping (s : State) : State := s.onPkg (·.onFw (fun f => { f with dump := some ⟨0, 1, 0, none, 0, [], false⟩ }))
/-- Die 95 fenced whole. -/
def fencedDie (d : Nat) : State := (dev d).onPkg (fun k => { k with bi := { k.bi with fence := [⟨placeDie 95 0, 0, false, true, false, false, 1, 1, false⟩] } })
theorem test_premises_ResetsRunTheirPhasesAndDumpsEnd :
    (∀ d ∈ [1, 2, 3, 4, 5], (dev d).pk.devState = d ∧ (dev d).pk.fw.reset = none ∧ (dev d).pk.fw.dump = none) ∧ (dev 5).pk.pw.wake = none ∧
    (waking 2).pk.pw.wake = some 2 ∧ (∀ x ∈ [(0, 0), (0, 5), (1, 0), (2, 4), (2, 6)], ∃ r, (resetting 6 x.1 x.2 0).pk.fw.reset = some r ∧ r.domain = x.1 ∧ r.phase = x.2) ∧
    (resetting 6 1 0 0).pk.fw.dump = none ∧ (dumping (resetting 6 1 0 0)).pk.fw.dump = some ⟨0, 1, 0, none, 0, [], false⟩ ∧
    (resetting 6 0 0 0).pk.abortDue ⟨0, 0, none, 0, 0, 0, 3⟩ = true ∧ (resetting 6 0 0 0).pk.abortDue ⟨0, 0, none, 0, 0, 1, 3⟩ = false ∧
    (atCycle (resetting 6 0 0 0) 95).pk.abortDue ⟨0, 0, none, 0, 0, 1, 3⟩ = true ∧ (dumping (resetting 6 0 0 0)).pk.abortDue ⟨0, 0, none, 0, 0, 0, 3⟩ = false ∧
    (dev 3).pk.cl.core.buStep < 9 ∧ 9 ≤ (word (dev 3) pageBu 0x40 (9 * 2 ^ 28)).pk.cl.core.buStep ∧
    (95 : W64).toNat < 96 ∧ 96 ≤ (96 : W64).toNat ∧ (fencedDie 3).pk.fencedAt (placeDie 95 0) = true ∧ (dev 3).pk.fencedAt (placeDie 95 0) = false := by
  refine ⟨?_, ?_, ?_, ?_, ?_⟩
  case refine_4 => simp only [List.forall_mem_cons]; exact ⟨⟨_, rfl, rfl, rfl⟩, ⟨_, rfl, rfl, rfl⟩, ⟨_, rfl, rfl, rfl⟩, ⟨_, rfl, rfl, rfl⟩, ⟨_, rfl, rfl, rfl⟩, by simp⟩
  all_goals decide +kernel
theorem test_premises_die_gone : ∀ p l, p < 96 → l < 96 → (fencedDie 3).pk.cl.core.dieMap p l ≠ some 95 := by
  intro p l _ _
  rw [Core.dieMap_none _ _ _ (by decide +kernel)]
  exact (fun h => nomatch h)
theorem test_reset_begins : nextHas (exec (.resetComputeDomain 7) (dev 3)) (fun t => t.pk.devState == 6 && (t.pk.fw.reset.map (fun r => (r.domain, r.backTo))) == some (0, 3)) = true ∧
    nextHas (exec (.resetComputeDomain 7) (dev 0)) (fun t => t.pk.fw.reset == none) = true := by decide +kernel
theorem test_reset_die_range : nextHas (exec (.resetDie 7 96) (fencedDie 3)) (fun t => t.pk.fw.reset == none) = true := by decide +kernel
theorem test_reset_escalate : nextHas (exec .resetEscalate (resetting 6 0 4 0)) (fun t => (t.pk.fw.reset.map (fun r => (r.domain, r.phase))) == some (2, 1)) = true ∧
    nextHas (exec .resetEscalate (resetting 6 1 4 0)) (fun t => (t.pk.fw.reset.map (fun r => (r.domain, r.phase))) == some (1, 4)) = true := by decide +kernel
theorem test_recovery_timeout : nextHas (exec .recoveryTimeout (resetting 6 2 4 0)) (fun t => t.pk.devState == 7 && t.pk.fw.reset == none) = true := by decide +kernel
theorem test_dump_access : nextHas (exec (.dumpAccessTimeout 0x8001) (dumping (dev 3))) (fun t => (t.pk.fw.dump.map (·.dead)) == some [(0x8000, 1)]) = true := by decide +kernel

/-- Supplies in sequence at rail group `g`, with rail `i` enabled and its PGOOD where `ok`. -/
def sequencing (g i : Nat) (ok : Bool) : State :=
  (word blockedState pagePw (0x80 + 8 * i) (if ok then 0xC0000000 else 0x40000000)).onPkg (·.onPw (fun p => { p with seq := some g }))
/-- Bring-up in step `n`, with the other bits of BI_BU_STATE, in device state `d`. -/
def step_ (n d rest : Nat) : State := word (dev d) pageBu 0x40 (n * 2 ^ 28 + rest)
/-- The next analogue slice of step 3. -/
def slice (n : Nat) : State := (step_ 3 0 0).onPkg (fun k => { k with bu := { k.bu with slice := n } })
/-- RESET_N low, VAUX present; the rails before the fabric's on. -/
def inReset (rails : Bool) : State :=
  (if rails then words blockedState pagePw 0x80 (List.replicate 28 0x40000000) else blockedState).onPkg (·.onPw (fun p => { p with resetN := true }))
/-- The warm marker with start temperatures of 0. -/
def warmState : State := (inReset true).onPkg (fun k => { k with bu := { k.bu with warm := some ⟨[], [], [], TRec.blank, [], 0⟩ } })
/-- ROM_WAIT with the link up, and FWL_STATE in a state. -/
def romWait (st : Nat) : State := cword (up 18 id) 0 0x8C (st * 2 ^ 28)

-- Whether an identity, an image or a signature is good is a free value (log entries 4 and 5): no state shows which.
theorem test_premises_StartUpStepsAndPins :
    (∀ g ∈ [0, 4, 5], (sequencing g 0 false).pk.pw.seq = some g) ∧ s0.pk.pw.seq = none ∧ (sequencing 5 0 false).pk.sec.blocked = true ∧
    (∀ i ∈ [0, 13, 14, 17], ∀ ok ∈ [true, false], (sequencing 5 i ok).pk.cl.core.railEn i = true ∧ (sequencing 5 i ok).pk.cl.core.railOk i = ok) ∧
    (sequencing 0 0 false).pk.cl.core.railEn 17 = false ∧
    (∀ n ∈ [0, 16, 17, 24, 29], (slice n).pk.cl.core.buStep = 3 ∧ (slice n).pk.bu.slice = n ∧ (slice n).pk.devState = 0) ∧
    s0.pk.cl.core.buStep ≠ 3 ∧ (slice 0).pk.cl.core.fastPath = false ∧ (step_ 3 0 (2 ^ 17)).pk.cl.core.fastPath = true ∧
    (∀ st ∈ [0, 3, 4], (romWait st).pk.devState = 0 ∧ bitsAt ((romWait st).pk.cwRd 0 0x8C) 28 3 = st ∧ ((romWait st).pk.link salLink).step = .up) ∧
    bitsAt ((romWait 1).pk.cwRd 0 0x8C) 28 3 = 1 ∧ bitsAt ((romWait 2).pk.cwRd 0 0x8C) 28 3 = 2 ∧
    ((romWait 1).pk.imgReason (([] : List Byte).take 0) ≠ 0) ∧ ([] : List Byte).length < bitsAt ((cword (romWait 1) 0 0x88 1).pk.cwRd 0 0x88) 0 25 ∧
    (step_ 6 1 0).pk.cl.core.buStep = 6 ∧ s0.pk.pw.resetN = false ∧ s0.pk.pw.vaux = false ∧ blockedState.pk.pw.resetN = false ∧ blockedState.pk.pw.vaux = true ∧
    (inReset true).pk.pw.resetN = true ∧ (inReset true).pk.pw.held = false ∧ (∀ i, i < 14 → (inReset true).pk.cl.core.railEn i = true) ∧
    (inReset false).pk.cl.core.railEn 0 = false ∧ (inReset true).pk.pw.thermtripN = false ∧
    (inReset true).pk.fastRefused [] ≠ 0 ∧ warmState.pk.fastRefused [40, -40] = 0 ∧ warmState.pk.fastRefused [41] ≠ 0 := by decide +kernel
theorem test_pgood : nextHas (exec (.pgoodAssert 0) (sequencing 1 0 false)) (fun t => t.pk.pw.seq == some 1) = true ∧
    nextHas (exec (.pgoodAssert 1) (sequencing 1 0 false)) (fun t => t.pk.pw.seq == some 2) = true := by decide +kernel
theorem test_pgood_timeout : nextHas (exec (.pgoodTimeout 13 0) (sequencing 4 13 false)) (fun t => t.pk.devState == 7) = true ∧
    nextHas (exec (.pgoodDeassert 14 0) (sequencing 5 14 true)) (fun t => t.pk.devState == 0 && !t.pk.cl.core.railEn 14) = true := by decide +kernel
theorem test_slice_end : nextHas (exec (.analogSliceEnd 16 false []) (slice 16)) (fun t => t.pk.devState == 7) = true ∧
    nextHas (exec (.analogSliceEnd 17 false [5]) (slice 17)) (fun t => t.pk.bu.testBad == [5] && t.pk.bu.slice == 18) = true := by decide +kernel
theorem test_fwl_go : nextHas (exec .fwlGo (romWait 4)) (fun t => t.pk.cwRd 0 0x8C == 0x10000001) = true ∧
    nextHas (exec (.fwlVerifyDone []) (cword (romWait 1) 0 0x88 1)) (fun t => bitsAt (t.pk.cwRd 0 0x8C) 24 7 == 0x42) = true := by decide +kernel
theorem test_startup_dead : nextHas (exec (.startupTestEnd [] true) (step_ 6 1 0)) (fun t => t.pk.devState == 7) = true := by decide +kernel
theorem test_reset_n : nextHas (exec .resetNAssert blockedState) (fun t => t.pk.pw.resetN && t.pk.sec.blocked && t.pk.pw.vaux) = true ∧
    nextHas (exec .resetNHold (inReset true)) (fun t => t.pk.pw.held && !t.pk.cl.core.railEn 13) = true := by decide +kernel
theorem test_fast_path : nextHas (exec (.resetN [40]) warmState) (fun t => t.pk.cl.core.fastPath && t.pk.cl.core.buStep == 3) = true ∧
    nextHas (exec (.resetN [41]) warmState) (fun t => t.pk.cl.core.records.map (·.code) == [0x0F0E]) = true := by decide +kernel

/-- Step 7 with the load, and whether the load has restarted. -/
def training (load : Nat) (re : Bool) : State := (step_ 7 1 0).onPkg (fun k => { k with bu := { k.bu with load := load, restarted := re } })
/-- An error in both sets of pseudo-channel 31 of stack 23. -/
def pcError : PcTrain := ⟨23, 31, 0, 0, 0, 0, true⟩
/-- Wave q in progress. -/
def wave (q : Nat) : State := step_ 9 1 (q * 2 ^ 26)
/-- Quadrant 3 passed, the quadrants of a mask joined, in device state d. -/
def passed3 (d mask : Nat) : State := (step_ 9 d (mask * 2 ^ 22)).onPkg (fun k => { k with bu := { k.bu with passed := [(3, true)] } })
theorem test_premises_TrainingWavesAndJoining :
    (∀ l ∈ [0, 80, 90], ∀ re ∈ [true, false], (training l re).pk.cl.core.buStep = 7 ∧ (training l re).pk.bu.load = l ∧ (training l re).pk.bu.restarted = re) ∧
    (training 90 false).pk.bu.given = none ∧ (word (training 90 false) pageBu 0x48 (2 ^ 26)).pk.matches_ 3 = true ∧ (training 90 false).pk.matches_ 3 = false ∧
    (∀ q, q < 4 → (word (training 90 false) pageBu 0x48 (15 * 2 ^ 23)).pk.matches_ q = true) ∧ pcError.stack.val / 6 = 3 ∧
    (step_ 8 6 0).pk.cl.core.buStep = 8 ∧ (step_ 8 6 0).pk.devState = 6 ∧ (step_ 8 1 (2 ^ 17)).pk.cl.core.fastPath = true ∧
    kget (step_ 8 1 (2 ^ 18)).pk.bu.passed false 1 = false ∧ (step_ 8 1 (2 ^ 18)).pk.cl.core.heldQ 0 = true ∧ (step_ 8 1 (2 ^ 18)).pk.cl.core.heldQ 1 = false ∧
    (∀ q, q < 4 → (wave q).pk.inWave q = true ∧ (wave q).pk.cl.core.wave = q) ∧ (wave 0).pk.inWave 3 = false ∧
    (∀ d ∈ [1, 4, 5], ∀ m ∈ [0, 7], (passed3 d m).pk.devState = d ∧ kget (passed3 d m).pk.bu.passed false 3 = true ∧ (passed3 d m).pk.cl.core.joined 3 = false ∧
      (passed3 d m).pk.net.pkts = [] ∧ ((∀ i, i < 4 → i ≠ 3 → (passed3 d m).pk.cl.core.joined i = true) ↔ m = 7)) ∧
    (∀ n, n < 10 → (step_ n 1 0).pk.cl.core.buStep = n) ∧ ((link s0 18 .detect 2 []).pk.link salLink).step ≠ .off ∧
    ((link s0 18 .detect 2 []).pk.link salLink).step ≠ .up ∧ ((romWait 0).pk.link salLink).step = .up := by decide +kernel
theorem test_premises_given_record : ((training 90 false).onPkg (fun k => { k with bu := { k.bu with given := some TRec.blank } })).pk.bu.given ≠ none := by decide +kernel
theorem test_hbm_phases : nextHas (exec (.hbmTrainingPhaseEnd .idle false [] [] 0) (training 0 true)) (fun t => t.pk.bu.load == 80) = true ∧
    nextHas (exec (.hbmTrainingPhaseEnd .soak true [] [] 0) (training 90 false)) (fun t => t.pk.bu.load == 80 && t.pk.bu.restarted) = true := by decide +kernel
theorem test_wave_timeout : nextHas (exec (.waveTimeout 3) (wave 3)) (fun t => t.pk.cl.core.heldQ 3) = true ∧
    nextHas (exec (.hbmWaveEnd 2 [] []) ((wave 2).onPkg (fun k => { k with bu := { k.bu with own := { k.bu.own with pcs := [(384, some ⟨[], 0, 0, 2⟩)] } } })))
      (fun t => !kget t.pk.bu.passed false 2 && t.pk.cl.core.heldQ 2) = true := by decide +kernel
theorem test_join_waits : nextHas (exec (.quadrantJoin 2) (passed3 1 0)) (fun t => !t.pk.cl.core.joined 2) = true ∧
    nextHas (exec (.quadrantJoin 3) (passed3 1 8)) (fun t => t.pk.devState == 1) = true := by decide +kernel

/-! ## Relief and rotation -/

/-- Region 0 with a cluster relief or rotation in progress, in a mode, its copier done or not. -/
def moving (relief : Bool) (mode : Nat) (copied : Bool) : State :=
  (dev 3).onPkg (·.setMove 0 (some ⟨relief, 1, 1, 4, mode, copied, 0, 0, 0⟩))
/-- Cluster `c` fenced in BI_FENCE. -/
def bfence (s : State) (c : Nat) : State := word s (pageBI (c / 5)) 0x48 (2 ^ (c % 5))
/-- Logical die 0 on die 0. -/
def mappedDie : State := word (dev 3) (pagePts 0) 0x100 0x80
/-- Cluster 4 under test, with slices left, back to service or not, in device state d. -/
def testing (d : Nat) (left : List Nat) (back : Bool) : State := (dev d).onPkg (·.setTest 4 (some ⟨left, 0, 0, back, false⟩))
theorem test_premises_ReliefFencesCopiesAndTests :
    (dev 3).pk.cl.core.slotOfClu 4 = none ∧ (dev 3).pk.cl.core.slotOfClu 3 = some 3 ∧ (dev 3).pk.cl.core.reliefOf 191 = 959 ∧ (dev 3).pk.reliefDue 3 = false ∧
    (bfence (dev 3) 3).pk.reliefDue 3 = true ∧ (bfence (dev 3) 3).pk.bi.fence = [] ∧ (bfence (dev 3) 3).pk.cl.core.fenced 4 = false ∧
    (bfence (dev 3) 4).pk.cl.core.fenced 4 = true ∧
    (word (bfence (dev 3) 1) (pageTT 0) 0x40 (4 * 2 ^ 18 + 4 * 2 ^ 12 + 2 * 2 ^ 9 + 64)).pk.cl.core.reliefOf 0 = 4 ∧
    (∀ m ∈ [2, 3, 4], ∀ b ∈ [true, false], (moving true m b).pk.move 0 = some ⟨true, 1, 1, 4, m, b, 0, 0, 0⟩) ∧ (dev 3).pk.move 0 = none ∧
    s0.pk.cl.core.inGuard = false ∧ (atCycle (moving true 4 false) 12999).pk.cl.core.inGuard = true ∧
    mappedDie.pk.cl.core.dieMap 0 0 = some 0 ∧ kget mappedDie.pk.bi.dieMirror 0 0 = 0 ∧
    (dev 4).pk.devState = 4 ∧ (dev 5).pk.devState = 5 ∧ (dev 3).pk.testOf 4 = none ∧
    (∀ l ∈ [[], [5], [5, 6]], (testing 3 l true).pk.testOf 4 = some ⟨l, 0, 0, true, false⟩ ∧ (testing 3 l false).pk.mayReturn 4 = true) ∧
    bitAt ((dev 3).pk.cl.core.rd (pageBI 0) 0x28) 1 = false ∧ bitAt ((word (dev 3) (pageBI 0) 0x28 2).pk.cl.core.rd (pageBI 0) 0x28) 1 = true ∧
    ((dev 3).onPkg (fun k => { k with bi := { k.bi with fence := [⟨placeClu 4, 0, false, true, false, true, 1, 1, false⟩] } })).pk.mayReturn 4 = false ∧
    (∀ x, x < 5 → ((moving true 4 false).pk.relieving x = true ↔ x = 1)) ∧ (bfence (dev 3) 3).pk.relieving 3 = false ∧
    (dev 3).pk.fencedAt (placeClu 3) = false ∧ (dev 3).pk.bpUp 0 = true ∧
    ((dev 3).onPkg (fun k => { k with bi := { k.bi with fence := [⟨placeClu 3, 0, false, true, false, false, 1, 1, false⟩] } })).pk.fencedAt (placeClu 3) = true := by decide +kernel
theorem test_premises_die_relief : (dev 3).pk.cl.core.logicalDie 0 = 127 ∧ mappedDie.pk.cl.core.logicalDie 0 ≠ 127 ∧ mappedDie.pk.reliefDie 0 = some 1 ∧
    (mappedDie.onPkg (fun k => { k with bi := { k.bi with dieUsed := (List.range 24).map (fun g => (g, true)) } })).pk.reliefDie 0 = none := by decide +kernel
theorem test_copier : nextHas (exec (.copierComplete 0) (moving false 3 false)) (fun t => (t.pk.move 0).map (·.copied) == some false) = true := by decide +kernel
theorem test_slice : nextHas (exec (.testSliceEnd 4 true 0) (testing 3 [5, 6] true)) (fun t => (t.pk.testOf 4).map (fun e => (e.left, e.ran)) == some ([6], 1)) = true ∧
    nextHas (exec (.testSliceEnd 4 false 0) (testing 3 [5, 6] true)) (fun t => t.pk.testOf 4 == none && t.pk.cl.core.fenced 4) = true := by decide +kernel

/-- Every quadrant in service in FULL, at a tick. -/
def inFull (t : Nat) : State := (cword (dev 3) 0 0x44 0x3F000000).onClus (·.onCore (fun c => { c with tick := BitVec.ofNat 64 t }))
/-- The same with a drill. -/
def drilling (t : Nat) (e : DrillEntry) (last : Nat) : State :=
  (inFull t).onPkg (fun k => { k with bi := { k.bi with drills := [e], lastDrill := last } })
theorem test_premises_RotationsAndDrillsStartAndEnd :
    (dev 3).pk.move 0 = none ∧ (dev 3).pk.cl.core.fenced ((dev 3).pk.cl.core.reliefOf 0) = false ∧ (dev 3).pk.cl.core.fenced 3 = false ∧
    (bfence (dev 3) 3).pk.cl.core.fenced 3 = true ∧ (dev 3).pk.cl.core.slotOfClu 0 = some 0 ∧
    (∀ t ∈ [341 * 191, 341 * 191 + 65536], (inFull t).pk.serves 191 = true ∧ ((inFull t).pk.cl.core.rd (pageBI 191) 0x4C).toNat = 65536 ∧
      (inFull t).pk.cl.core.tick.toNat % 65536 = 341 * 191 % 65536) ∧ (inFull 1).pk.cl.core.tick.toNat % 65536 ≠ 341 * 191 % 65536 ∧
    (inFull 1).pk.quadIn 0 = true ∧ (dev 3).pk.quadIn 0 = false ∧
    (dev 3).pk.serves 191 = false ∧ (word (inFull 0) (pageBI 0) 0x4C 0).pk.cl.core.rd (pageBI 0) 0x4C = 0 ∧
    ((List.range 4).map (fun i => (mapRelief ((inFull 0).pk.cl.core.slotMap 0) + 1 + i) % 5)).find? (fun x => !(inFull 0).pk.skipped 0 x) = some 0 ∧
    (let k := ((word (inFull 0) (pageTT 0) (circOff 0 + 4) (2 ^ 29)).onPkg (fun k => { k with bi := { k.bi with skip := [(0, k.cl.core.circJob 0 0 + 1), (1, 1), (2, 1), (3, 1)] } })).pk
     k.skipped 0 0 = true ∧ ((List.range 4).map (fun i => (mapRelief (k.cl.core.slotMap 0) + 1 + i) % 5)).find? (fun x => !k.skipped 0 x) = none) ∧
    (moving true 4 false).pk.move 0 = some ⟨true, 1, 1, 4, 4, false, 0, 0, 0⟩ ∧ (moving false 2 false).pk.move 0 = some ⟨false, 1, 1, 4, 2, false, 0, 0, 0⟩ ∧
    ¬(0 + (moving false 2 false).pk.cl.core.fld (pageBI 0) 0x54 0 16 ≤ (moving false 2 false).pk.cl.core.tick.toNat) ∧
    (moving false 2 false).pk.cl.core.fld (pageBI 0) 0x54 0 16 = 1024 ∧ (inFull 1024).pk.cl.core.tick.toNat = 1024 ∧
    (let e := drill 0 5 (2 ^ 20) 1 0
     (inFull 5).pk.bi.drills[0]? = none ∧ (drilling 5 e 0).pk.bi.drills[0]? = some e ∧ (drilling 5 e 0).pk.serves 0 = true ∧
     e.first.toNat ≤ 5 ∧ (5 - e.first.toNat) / e.interval.toNat < e.count.toNat ∧ ¬(5 + 2 ^ 20 - e.first.toNat) / e.interval.toNat < e.count.toNat ∧
     (drilling 5 e 0).pk.drillSkip e false = false ∧ drillOk e = true ∧ (drilling 4095 e 1).pk.drillSkip e false = true ∧ (drilling 4096 e 1).pk.drillSkip e false = false) ∧
    (let e := drill 0 5 (2 ^ 20) 1 1
     e.flags.toNat = 1 ∧ e.first.toNat < 6 ∧ (6 - 1 - e.first.toNat) % e.interval.toNat = 0 ∧ (drilling 6 e 6).pk.bi.lastDrill = (drilling 6 e 6).pk.cl.core.tick.toNat ∧
     (drilling 6 e 6).pk.drillSkip e true = false) := by decide +kernel
/-- The premise that a Signal Box and the block posts serve, in the states of the tests above, and its opposite. -/
theorem test_premises_complexes_serve :
    (∀ s ∈ [dev 3, job3 3 3 (newJob 7 false), noGroups true, ckptState, cutState true 6, turns 1024, mappedDie, moving true 4 true, testing 3 [5] true,
      bfence (dev 3) 3, inFull 0, drilling 5 (drill 0 5 (2 ^ 20) 1 0) 0, resetting 6 0 4 0, passed3 1 0],
      s.pk.sbUp = true ∧ s.pk.bpUp 0 = true ∧ s.pk.bpUp 191 = true) ∧
    s0.pk.sbUp = false ∧ s0.pk.bpUp 0 = false ∧ s0.pk.bpUp 191 = false := by decide +kernel
theorem test_premises_turns_windows_and_joining :
    (turns 1024).pk.turnFits 3 4 { newJob 8 true with turns := true } = true ∧ (turns 1024).pk.groupsFit { newJob 8 true with turns := true } = true ∧
    (dev 3).pk.oldMeets 0 0 4096 = false ∧
    (∀ m ∈ [0, 7], (passed3 1 m).pk.cl.core.quadValid 3 = true) ∧ (word (passed3 1 0) (pagePts 0) 0x148 200).pk.cl.core.quadValid 3 = true ∧
    (word (passed3 1 0) (pagePts 0) 0x148 72).pk.cl.core.quadValid 3 = false ∧
    placeUnitNo 0 ≠ 9 ∧ placeUnitNo 0 ≠ 10 ∧ placeOk 0 = true ∧ placeOk 0xFFFFFFFF = false ∧
    pageKind (pageMsg 0) = some (.msg 0) ∧ powered.pk.domainOff (.msg 0) = false ∧ (0x114 % 32 = 20 ∧ 0x118 % 32 = 24) := by decide +kernel
theorem test_rotate_now : nextHas (exec (.rotateNow 0 3) (dev 3)) (fun t => (t.pk.move 0).map (fun m => (m.relief, m.slot, m.src, m.dst)) == some (false, 3, 3, 4)) = true ∧
    nextHas (exec (.rotateNow 0 3) (moving true 4 false)) (fun t => t.pk.cl.core.rd (pageBI 0) 0x18 == 1) = true := by decide +kernel
theorem test_rotation_start : nextHas (exec (.rotationStart 191) (inFull (341 * 191))) (fun t => (t.pk.move 191).map (fun m => (m.src, m.dst)) == some (0, 4)) = true ∧
    nextHas (exec (.rotationStart 191) (inFull (341 * 191 + 1))) (fun t => t.pk.bi.moves == []) = true := by decide +kernel
theorem test_abort_rot : nextHas (exec (.abortRot 0) (moving false 2 false)) (fun t => t.pk.move 0 == none && t.pk.cl.core.records.map (·.code) == [0x0F41]) = true ∧
    nextHas (exec (.abortRot 0) (moving true 4 false)) (fun t => (t.pk.move 0).isSome) = true := by decide +kernel
theorem test_bi_writes : nextHas (exec (.biFenceWrite 191 0xFFFFFFF0) (dev 3)) (fun t => t.pk.cl.core.rd (pageBI 191) 0x48 == 0x10) = true ∧
    nextHas (exec (.biMirrorWrite 191 0xFFFFFFFF) (dev 3)) (fun t => t.pk.cl.core.rd (pageBI 191) 0x44 == 0xFE000000) = true := by decide +kernel
theorem test_drill : nextHas (exec (.drillInjection 0) (drilling 5 (drill 1 5 (2 ^ 20) 1 0) 0)) (fun t => t.pk.cl.core.rd (pageMc 0 0) 0x28 == 2 && t.pk.bi.lastDrill == 6) = true ∧
    nextHas (exec (.drillInjection 0) (drilling 6 (drill 1 5 (2 ^ 20) 1 0) 0)) (fun t => t.pk.cl.core.records == []) = true := by decide +kernel

/-! ## Firmware and security -/

/-- Complex x halted; the others serve. -/
def halted (d x : Nat) : State := (dev d).onPkg (·.onFw (fun f => { f with up := f.up.filter (fun e => decide (e.1 ≠ x)), halted := [(x, true)] }))
/-- An exchange in a state, due at a tick, deferred `n` times. -/
def exchanging (st at_ n : Nat) : State := (dev 3).onPkg (·.onFw (fun f => { f with exch := some ⟨7, [], st, at_, n⟩ }))
-- Whether an image is good is a free value (log entry 5): no state shows which. An exchange of an empty image does not fit.
theorem test_premises_FirmwareComplexesCrashRestartAndExchange :
    (∀ x, x < 6 → (dev 3).pk.upC x = true ∧ s0.pk.upC x = false ∧ (halted 3 x).pk.upC x = false ∧ kget (halted 3 x).pk.fw.halted false x = true) ∧
    kget (dev 3).pk.fw.halted false 0 = false ∧ (dev 3).pk.sb = 0 ∧ (∀ i, i < 4 → kget (dev 3).pk.sec.coreHalt false (4 * (dev 3).pk.sb + i) = false) ∧
    kget (dev 3).pk.fw.hbStop false (dev 3).pk.sb = false ∧ (halted 3 0).pk.standbyOk = true ∧ (halted 3 1).pk.standbyOk = false ∧ (halted 3 0).pk.upC (halted 3 0).pk.sb = false ∧
    ((halted 3 0).onPkg (·.onFw (fun f => { f with up := [] }))).pk.standbyOk = false ∧
    (∀ d ∈ [2, 3, 4], (dev d).pk.devState = d ∧ (dev d).pk.fw.exch = none ∧ (dev d).pk.standbyOk = true) ∧ (dev 3).pk.imgReason (([] : List Byte).take 0) ≠ 0 ∧
    (∀ e ∈ [(3, 0, 0), (3, 0, 1022), (3, 0, 1023), (3, 1, 0), (4, 0, 0)], (exchanging e.1 e.2.1 e.2.2).pk.fw.exch = some ⟨7, [], e.1, e.2.1, e.2.2⟩) ∧
    (exchanging 3 0 0).pk.cl.core.tick.toNat = 0 ∧ (exchanging 3 0 0).pk.sbUp = true ∧ (exchanging 3 0 0).pk.standbyOk = true ∧ (exchanging 4 0 0).pk.upC (exchanging 4 0 0).pk.sb = true ∧
    (word (exchanging 3 0 0) (pageTT 191) 0x44 0).pk.guardBusy = true ∧ (exchanging 3 0 0).pk.guardBusy = false ∧
    kget (dev 3).pk.fw.guards 0 1 = 0 ∧
    (let k := ((mappedDie.onClus (·.onCore (fun c => { c with tick := 3 }))).onPkg (·.onFw (fun f => { f with guards := [(1, 1), (0, 2)] }))).pk
     kget k.fw.guards 0 1 = 1 ∧ 1 + 2 ≤ k.cl.core.tick.toNat ∧ ¬ 2 + 2 ≤ k.cl.core.tick.toNat ∧ k.mapped 0 = true ∧ kget k.bi.dieMirror 0 0 = 0) ∧
    (dev 3).pk.fw.reset = none ∧ ((dev 3).pk.link 17).step = .off := by decide +kernel
theorem test_fw_crash : nextHas (exec (.fwCrash 2 1 0) (dev 3)) (fun t => !t.pk.upC 2 && kget t.pk.fw.halted false 2 && t.pk.upC 3) = true ∧
    nextHas (exec (.heartbeatMiss 2) (halted 3 2)) (fun t => t == halted 3 2) = true := by decide +kernel
theorem test_heartbeat : nextHas (exec .heartbeatAdvance (dev 3)) (fun t => t.pk.cwRd 3 0xC0 == 1) = true ∧
    nextHas (exec .heartbeatAdvance (halted 3 0)) (fun t => t.pk.cwRd 3 0xC0 == 0) = true := by decide +kernel
theorem test_fw_restart : nextHas (exec (.fwRestart 0 false true) ((halted 3 0).onPkg (·.onFw (fun f => { f with up := [] })))) (fun t =>
      t.pk.devState == 0 && t.pk.fw.prevState == some 3) = true ∧
    nextHas (exec (.fwRestart 3 true true) (halted 3 3)) (fun t => t.pk.upC 3 && t.pk.cl.core.records.map (·.code) == [0x0E02]) = true := by decide +kernel
theorem test_takeover : nextHas (exec .fwTakeover (halted 3 0)) (fun t => t.pk.cl.core.standby) = true ∧
    nextHas (exec .fwTakeover (dev 3)) (fun t => !t.pk.cl.core.standby) = true := by decide +kernel
theorem test_exchange_refused : nextHas (exec (.fwExchange 7 0 0 []) (dev 3)) (fun t => t.pk.fw.exch == none && t.pk.fw.bank == []) = true := by decide +kernel
theorem test_exchange_deferred : nextHas (exec .exchangeSwitch (word (exchanging 3 0 1022) (pageTT 0) 0x44 0)) (fun t =>
      (t.pk.fw.exch.map (·.defers)) == some 1023) = true ∧
    nextHas (exec .exchangeSwitch (word (exchanging 3 0 1023) (pageTT 0) 0x44 0)) (fun t => t.pk.fw.exch == none) = true := by decide +kernel
theorem test_hang : nextHas (exec (.hangResponse (.fabricPort 17)) (dev 3)) (fun t => t.pk.cl.core.records.map (·.code) == [0x0E0B]) = true ∧
    nextHas (exec (.hangResponse .attachLink) (dev 3)) (fun t => t.pk.devState == 6) = true := by decide +kernel

/-- A record on its way from quadrant q. -/
def rec1 (q sev : Nat) : ErrRec := ⟨0x0905, BitVec.ofNat 8 sev, 3, false, false, BitVec.ofNat 32 (3 * 2 ^ 30 + q * 2 ^ 28), 0, 0⟩
/-- It is on its way, and block post 3 and the Signal Box are down with `n` records in their buffers. -/
def sinking (n : Nat) (lost : Bool) : State :=
  (s0.onClus (·.onCore (fun c => { c with records := [rec1 3 4] }))).onPkg (·.onFw (fun f =>
    { f with sinks := [(3, List.replicate n (rec1 3 1)), (4, List.replicate n (rec1 3 1))], lost := if lost then [(3, true)] else [] }))
theorem test_premises_ErrorRecordsReachTheirSinks :
    rec1 3 4 ∉ s0.pk.cl.core.records ∧ rec1 3 4 ∈ (sinking 0 false).pk.cl.core.records ∧ (rec1 3 4).place.toNat / 2 ^ 28 % 4 = 3 ∧ (rec1 3 4).severity.toNat < 5 ∧
    (sinking 0 false).pk.upC (2 + 3) = false ∧ (sinking 0 false).pk.upC (sinking 0 false).pk.sb = false ∧ (kget (sinking 1023 true).pk.fw.sinks [] 3).length = 1023 ∧
    (kget (sinking 1024 true).pk.fw.sinks [] 3).length = 1024 ∧ (kget (sinking 1024 true).pk.fw.sinks [] 4).length = 1024 ∧ kget (sinking 1023 true).pk.fw.lost false 3 = true := by decide +kernel
theorem test_record_kept : nextHas (exec (.errorRecord (rec1 3 4)) (sinking 1 true)) (fun t =>
    (kget t.pk.fw.sinks [] 3).map (·.loss) == [false, true] && t.pk.cl.core.rd 0 0xA0 == 1 && t.pk.cl.core.records == []) = true := by decide +kernel

/-- VAUX present in device state d, SEC_STATUS of a word, debug level in bits 31–29. -/
def secState (d w : Nat) : State := word ((dev d).onPkg (·.onPw (fun p => { p with vaux := true }))) pageSec 0x40 w
/-- An open nonce drawn at tick t0, now at tick t. -/
def nonced (t0 t : Nat) : State :=
  ((secState 3 0).onClus (·.onCore (fun c => { c with tick := BitVec.ofNat 64 t }))).onPkg (·.onSec (fun x => { x with nonce := some (9, t0) }))
/-- A response for a level under nonce 9; its keys and signatures are zeros. -/
def response (level : Nat) : List Byte := leBytes 1 level ++ List.replicate 7 0 ++ leBytes 32 9 ++ List.replicate 256 0
-- Whether a key is known and a signature is good are free values (log entry 5): no state shows which, and every other part of
-- a fresh response is shown.
theorem test_premises_DebugLevelsOpenCloseAndZeroise :
    bitAt (s0.pk.cl.core.rd pageSec 0x40) 26 = false ∧ bitAt ((secState 3 (2 ^ 26)).pk.cl.core.rd pageSec 0x40) 26 = true ∧ s0.pk.pw.vaux = false ∧
    (∀ d ∈ [0, 3, 7], (secState d 0).pk.pw.vaux = true ∧ (secState d 0).pk.devState = d) ∧
    bitAt ((secState 3 (3 * 2 ^ 25)).pk.cl.core.rd pageSec 0x40) 25 = true ∧
    (bitAt ((secState 3 (2 ^ 26)).pk.cl.core.rd pageSec 0x40) 25 = false) ∧
    (∀ l ∈ [1, 2, 3, 4], (response l).length = 296 ∧ leAt (response l) 0 1 = l ∧ leAt (response l) 1 7 = 0 ∧ leAt (response l) 8 32 = (9 : BitVec 256).toNat) ∧
    (nonced 0 5999999).pk.sec.nonce = some (9, 0) ∧ (nonced 0 5999999).pk.cl.core.tick.toNat < 0 + 6000000 ∧ 0 + 6000000 ≤ (nonced 0 6000000).pk.cl.core.tick.toNat ∧
    (∀ l ∈ [1, 2, 4], (secState 3 0).pk.levelOk l = true) ∧ (secState 3 0).pk.levelOk 3 = false ∧ (secState 0 0).pk.levelOk 3 = true ∧ (secState 7 0).pk.levelOk 3 = true ∧
    (word (secState 3 0) pageSec 0x4C 2).pk.cl.core.fld pageSec 0x4C 0 2 = 2 ∧
    (∀ l, l < 5 → (secState 0 (l * 2 ^ 29)).pk.cl.core.dbgLevel = l) ∧ (levelOf (.debugRead 3 0x40 4)).1 = 1 ∧ (levelOf .scan).1 = 3 ∧
    (levelOf (.burnOwner 5)).1 = 4 ∧ (secState 0 (2 ^ 31)).pk.bu.fuse.owner = none ∧ ((3 : BitVec 24).toNat ≠ pageTime) ∧ (secState 0 0).pk.sec.nonce = none := by decide +kernel
theorem test_trng : nextHas (exec .trngHealthFail (secState 3 (2 ^ 26))) (fun t => t.pk.cl.core.rd pageSec 0x40 == 0 && t.pk.cl.core.records.map (·.code) == [0x0D02]) = true := by decide +kernel
theorem test_extest : nextHas (exec (.extest 5) (secState 7 0)) (fun t => t.pk.sec.extest && t.pk.sec.pins == 5) = true ∧
    nextHas (exec (.extest 5) (secState 3 0)) (fun t => !t.pk.sec.extest && t.pk.cl.core.records.map (·.code) == [0x0D05]) = true := by decide +kernel
theorem test_dbg_resp_short : nextHas (exec (.dbgResp []) (nonced 0 0)) (fun t => t.pk.sec.nonce == none) = true := by decide +kernel
theorem test_dbg_lock : nextHas (exec .dbgLock (secState 3 (2 ^ 30 + 2 ^ 28))) (fun t => t.pk.cl.core.dbgLevel == 0 && t.pk.cl.core.tainted) = true := by decide +kernel
theorem test_bypass : nextHas (exec (.bypass true) (secState 3 0)) (fun t => t.pk.sec.tdo == [1] && t.pk.sec.ir == irBypass) = true ∧
    nextHas (exec (.bypass true) s0) (fun t => t.pk.sec.tdo == []) = true := by decide +kernel
theorem test_nonce_lapse : nextHas (exec .nonceLapse (nonced 0 6000000)) (fun t => t.pk.sec.nonce == none) = true ∧
    nextHas (exec .nonceLapse (nonced 0 5999999)) (fun t => t.pk.sec.nonce.isSome) = true := by decide +kernel
theorem test_level_instr : nextHas (exec (.unlockedLevelInstruction (.haltCore 2 3)) (secState 3 (2 * 2 ^ 29))) (fun t => kget t.pk.sec.coreHalt false 11) = true ∧
    nextHas (exec (.unlockedLevelInstruction (.haltCore 2 3)) (secState 3 (2 ^ 29))) (fun t => t.pk.cl.core.records.map (·.code) == [0x0D05]) = true := by decide +kernel

/-- The mailbox submitted or not. -/
def mailbox (b : Bool) : State := cword (dev 3) 273 0x44 (if b then 0x80000000 else 0)
theorem test_premises_AttestationAnswersAndRefusals :
    s0.pk.upC s0.pk.sb = false ∧ (dev 3).pk.upC (dev 3).pk.sb = true ∧ bitAt ((mailbox true).pk.cwRd 273 0x44) 31 = true ∧ bitAt ((mailbox false).pk.cwRd 273 0x44) 31 = false ∧
    (dev 3).pk.cl.core.tainted = false ∧ (word (dev 3) pageSec 0x40 (2 ^ 28)).pk.cl.core.tainted = true ∧
    ((0x12 : Byte) ≠ 0x13) ∧ (5 < (6 : Byte).toNat ∧ (6 : Byte).toNat ≠ 0xFF) ∧ ¬(5 < (5 : Byte).toNat) := by decide +kernel
theorem test_premises_chain : (dev 3).pk.certChain.length = 36 := by simp [Pkg.certChain, digestBytes]; rfl
theorem test_version : nextHas (exec (.getVersion .mctp) (dev 3)) (fun t => t.pk.sec.answers.map (fun a => (a.code, a.data)) == [(4, [0, 2, 0, 0x12, 0, 0x13])]) = true ∧
    nextHas (exec (.getVersion .mailbox) (mailbox false)) (fun t => t.pk.sec.answers == []) = true := by decide +kernel
theorem test_caps : nextHas (exec (.getCapabilities .mailbox 0x11) (mailbox true)) (fun t =>
    t.pk.sec.answers.map (fun a => (a.code, a.param1)) == [(0x7F, 0x41)] && bitAt (t.pk.cwRd 273 0x44) 30) = true := by decide +kernel
theorem test_tainted : nextHas (exec (.challenge .mctp 0 5) (word (dev 3) pageSec 0x40 (2 ^ 28))) (fun t => t.pk.sec.answers.map (fun a => (a.code, a.param1)) == [(0x7F, 4)]) = true ∧
    nextHas (exec (.getMeasurements .mctp false 6 5) (dev 3)) (fun t => t.pk.sec.answers.map (fun a => (a.code, a.param1)) == [(0x7F, 1)]) = true := by decide +kernel

end Sys2Proof.Tests
end

namespace Sys2Proof.Machine

/-! ## What every command keeps of the fused values (R1, R384, R458, R462, R463)

Most commands move neither the clock (`Core.clock` holds the fused grade) nor `Pkg.fixed` (which holds the fuses): they are
settled by the laws of the operation they run. The rest move the clock but not the grade, or burn a fuse as `Pkg.keeps` says. -/

/-- `k'` has the fused grade of `k`, and its fuses are those of `k` or burnt further. -/
def Pkg.onlyBurns (k k' : Pkg) : Prop :=
  k'.cl.core.grade = k.cl.core.grade ∧ k.bu.fuse.burnt k'.bu.fuse

theorem Pkg.grade_of_clock {k k' : Pkg} (h : k'.clock = k.clock) : k'.cl.core.grade = k.cl.core.grade := by
  obtain ⟨-, -, -, hg⟩ := Core.clock_parts h
  exact hg

theorem Pkg.onlyBurns_of_keeps {k k' : Pkg} (hg : k'.cl.core.grade = k.cl.core.grade) (h : k.keeps k') : k.onlyBurns k' :=
  ⟨hg, h.1⟩

theorem Pkg.onlyBurns_of_grade {k k' : Pkg} (hg : k'.cl.core.grade = k.cl.core.grade) (hf : k'.fixed = k.fixed) :
    k.onlyBurns k' :=
  Pkg.onlyBurns_of_keeps hg (Pkg.keeps_of_fixed hf)

theorem Pkg.onlyBurns_of_laws {k k' : Pkg} (hc : k'.clock = k.clock) (hf : k'.fixed = k.fixed) : k.onlyBurns k' :=
  Pkg.onlyBurns_of_grade (Pkg.grade_of_clock hc) hf

theorem Pkg.onlyBurns_refl (k : Pkg) : k.onlyBurns k := Pkg.onlyBurns_of_laws rfl rfl

theorem Pkg.onlyBurns_trans {k k' k'' : Pkg} (h : k.onlyBurns k') (h' : k'.onlyBurns k'') : k.onlyBurns k'' :=
  ⟨h'.1.trans h.1, FuseS.burnt_trans h.2 h'.2⟩

theorem Pkg.onlyBurns_ite {c : Prop} [Decidable c] {k a b : Pkg} (h : k.onlyBurns a) (h' : k.onlyBurns b) :
    k.onlyBurns (if c then a else b) := by split <;> assumption

theorem Pkg.onlyBurns_onClus {k : Pkg} {f : Clus → Clus} (h : (f k.cl).clock = k.cl.clock) : k.onlyBurns (k.onClus f) :=
  Pkg.onlyBurns_of_laws h (Pkg.fixed_onClus k f)

/-- A frame's buffers, its refusal and its stream (R287, R291, R294) leave the fused values to what the frame does. -/
theorem Pkg.onlyBurns_takeFrame {k : Pkg} {p : Nat} {f : Frame} {act : Pkg → Pkg} (h : ∀ x : Pkg, x.onlyBurns (act x)) :
    k.onlyBurns (k.takeFrame p f act) := by
  have hfree : k.onlyBurns (k.freeFrame p f) :=
    Pkg.onlyBurns_of_laws (Pkg.freeFrame_clock k p f) (Pkg.freeFrame_fixed k p f)
  have hseq (x : Pkg) (n : Nat) : x.onlyBurns (x.onFab fun y => { y with rxSeq := kput y.rxSeq 0 n (f.sseq.toNat + 1) }) :=
    Pkg.onlyBurns_of_laws (Pkg.onFab_clock x _) (Pkg.fixed_onFab x _)
  unfold Pkg.takeFrame
  refine Pkg.onlyBurns_ite (Pkg.onlyBurns_refl k) (Pkg.onlyBurns_trans hfree (Pkg.onlyBurns_ite (Pkg.onlyBurns_refl _)
    (Pkg.onlyBurns_ite ?_ (Pkg.onlyBurns_trans ?_ (h _)))))
  · exact Pkg.onlyBurns_of_laws (Pkg.refuse_clock _ _ _ _) (Pkg.refuse_fixed _ _ _ _)
  · exact Pkg.onlyBurns_ite (hseq _ _) (Pkg.onlyBurns_refl _)

/-! ### The operations that move the clock -/

theorem Pkg.setCycle_grade (k : Pkg) (n : Nat) : (k.setCycle n).cl.core.grade = k.cl.core.grade := (rfl)

theorem Pkg.closePackage_grade (k : Pkg) : k.closePackage.cl.core.grade = k.cl.core.grade := by
  unfold Pkg.closePackage
  exact (Pkg.grade_of_clock (Pkg.cutClose_clock _)).trans (k.setCycle_grade _)

theorem Pkg.closeEndPackage_grade (k : Pkg) : k.closeEndPackage.cl.core.grade = k.cl.core.grade := by
  unfold Pkg.closeEndPackage
  exact (Pkg.grade_of_clock (Pkg.lnLate_clock _)).trans (k.setCycle_grade _)

theorem Pkg.departPackage_grade (k : Pkg) : k.departPackage.cl.core.grade = k.cl.core.grade := by
  refine (Pkg.grade_of_clock (k := k.setCycle 0) ?_).trans (k.setCycle_grade 0)
  simp only [Pkg.departPackage, Pkg.cutArrive_clock, Pkg.collTrigger_clock, Pkg.heldSend_clock, Pkg.linesResume_clock,
    Pkg.segApply_clock]

theorem Pkg.commitPackage_grade (k : Pkg) : k.commitPackage.cl.core.grade = k.cl.core.grade := by
  refine (Pkg.grade_of_clock (k := k.setCycle k.cl.core.guard0) ?_).trans (k.setCycle_grade _)
  simp only [Pkg.commitPackage, Pkg.backoffEnd_clock, Pkg.collGuard_clock, Pkg.rebook_clock, Pkg.halfWidths_clock,
    Pkg.vc0Close_clock, Pkg.hbMaintain_clock, Pkg.cutTake_clock, Pkg.windowsApply_clock]

theorem Pkg.swapTick_grade (k : Pkg) : k.swapTick.cl.core.grade = k.cl.core.grade := by
  refine (Pkg.grade_of_clock (k := k.setCycle (k.cl.core.guard0 + 64)) ?_).trans (k.setCycle_grade _)
  simp only [Pkg.swapTick, Pkg.poll_clock, Pkg.routeSwap_clock, Pkg.pointsSwap_clock]

theorem Pkg.clockApply_grade (k : Pkg) : k.clockApply.cl.core.grade = k.cl.core.grade := by
  unfold Pkg.clockApply
  dsimp only [Pkg.onClus]
  split <;> rfl

theorem Pkg.clockStep_grade (k : Pkg) : k.clockStep.cl.core.grade = k.cl.core.grade := by
  have hlast (x : Pkg) : x.pinsRise.advertise.cl.core.grade = x.cl.core.grade :=
    Pkg.grade_of_clock ((Pkg.advertise_clock _).trans (Pkg.pinsRise_clock x))
  unfold Pkg.clockStep
  exact (hlast _).trans ((Pkg.clockApply_grade k.riseDue).trans (Pkg.grade_of_clock (Pkg.riseDue_clock k)))

theorem Pkg.adoptCount_grade (k : Pkg) (p : Nat) (count : W64) : (k.adoptCount p count).cl.core.grade = k.cl.core.grade := by
  unfold Pkg.adoptCount
  split
  · rfl
  split
  · rfl
  split
  · rfl
  · exact Pkg.grade_of_clock (Pkg.timeEvent_clock _ _ _ _ _ _)

theorem Pkg.timeSync_grade (k : Pkg) (p : Nat) (t : TimeFrame) : (k.timeSync p t).cl.core.grade = k.cl.core.grade := by
  unfold Pkg.timeSync
  split
  · rfl
  · extract_lets t3 k1 k2
    have h2 : k2.cl.core.grade = k.cl.core.grade :=
      Pkg.grade_of_clock ((Pkg.chooseMaster_clock k1).trans (Pkg.onFab_clock k _))
    split
    · exact (Pkg.adoptCount_grade k2 p t.count).trans h2
    · exact h2

theorem Pkg.timeRsp_grade (k : Pkg) (p : Nat) (t : TimeFrame) : (k.timeRsp p t).cl.core.grade = k.cl.core.grade := by
  unfold Pkg.timeRsp
  split
  · rfl
  split
  · rfl
  split
  · rfl
  · extract_lets _ off near _ step corr cnt k1 k2 node w
    have h2 : k2.cl.core.grade = k.cl.core.grade := by
      change (if step then _ else _ : Core).grade = _
      split <;> rfl
    have hstate (n a b c d e : Nat) : ((k2.onCore (·.setTimeState n)).timeEvent a b c d e).cl.core.grade = k.cl.core.grade := by
      refine (Pkg.grade_of_clock ?_).trans h2
      rw [Pkg.timeEvent_clock, Pkg.onCore_clock, Core.setTimeState_clock]
      rfl
    split
    · split
      · exact h2
      · exact hstate ..
    · split
      · exact hstate ..
      · exact h2

/-- Power-good starts the station clock at tick 0 (R309, R436). -/
theorem Pkg.powerGood_grade (k : Pkg) : k.powerGood.cl.core.grade = k.cl.core.grade := by
  unfold Pkg.powerGood
  extract_lets k1 start
  have h1 : k1.cl.core.grade = k.cl.core.grade := (rfl)
  have hstart (x : Pkg) : (start x).cl.core.grade = x.cl.core.grade :=
    Pkg.grade_of_clock (k := x) (Core.setStep_clock x.cl.core 3)
  split
  · exact (hstart k1).trans h1
  split
  · exact (hstart _).trans h1
  · refine (Pkg.grade_of_clock (k := k1) ?_).trans h1
    rw [Pkg.failed_clock, Pkg.railsOff_clock, Pkg.onCore_clock, Core.record_clock]
    rfl

theorem Pkg.pgoodAssert_grade (k : Pkg) (g : Nat) : (k.pgoodAssert g).cl.core.grade = k.cl.core.grade := by
  unfold Pkg.pgoodAssert
  split
  · rfl
  · extract_lets k1
    have h1 : k1.cl.core.grade = k.cl.core.grade := by
      refine Pkg.grade_of_clock (foldl_clock_Core _ _ _ fun x i => ?_)
      exact ite_clock_Core (Core.railGood_clock x i) rfl
    split
    · exact (Pkg.powerGood_grade k1).trans h1
    · exact (Pkg.grade_of_clock (Pkg.railStart_clock k1 _)).trans h1

/-- RESET_N's fall rebuilds the state for the part's own grade (R405). -/
theorem Pkg.resetAssert_grade (k : Pkg) : k.resetAssert.cl.core.grade = k.cl.core.grade := by
  unfold Pkg.resetAssert
  split <;> rfl

theorem Pkg.resetRelease_grade (k : Pkg) (temps : List Int) : (k.resetRelease temps).cl.core.grade = k.cl.core.grade := by
  unfold Pkg.resetRelease
  split
  · rfl
  · extract_lets off k1 k2 r k3 k4 k5
    have h2 : k2.cl.core.grade = k.cl.core.grade := (rfl)
    have h4 : k4.cl.core.grade = k.cl.core.grade := (Pkg.grade_of_clock (k := k3) (Core.setStep_clock _ 3)).trans h2
    split
    · exact (Pkg.grade_of_clock (Pkg.failed_clock k2)).trans h2
    split
    · exact (Pkg.grade_of_clock (Pkg.railStart_clock _ 0)).trans h2
    split
    · have h5 : k5.cl.core.grade = k.cl.core.grade := h4
      split
      · exact (Pkg.grade_of_clock (Pkg.setLink_clock k5 _ _)).trans h5
      · exact h5
    · exact (Pkg.grade_of_clock ((Pkg.onCore_clock k4 _).trans (Core.buEvent_clock ..))).trans h4

/-- A cold start is one of a part with the same grade and the same fuses (R439). -/
theorem Pkg.vauxFall_grade (k : Pkg) : k.vauxFall.cl.core.grade = k.cl.core.grade := (rfl)

/-- THROUGH_REBIND places the cycle at Guard offset 192 (R231). -/
theorem Pkg.throughRebind_grade (k : Pkg) :
    ((((k.onCore (fun c => { c with cycle := c.guard0 + 192 })).onClus (·.thruRebind)).cutBind).bindNext).cl.core.grade =
      k.cl.core.grade := by
  have hkeep (x : Pkg) : ((x.onClus (·.thruRebind)).cutBind).bindNext.clock = x.clock := by
    rw [Pkg.bindNext_clock, Pkg.cutBind_clock, Pkg.onClus_clock, Clus.thruRebind_clock, Pkg.cl_clock]
  exact (Pkg.grade_of_clock (hkeep _)).trans rfl

/-! ### Every command -/

section Does
variable {c : Instr} {s : State}

theorem does_onPkg {f : Pkg → Pkg} (h : exec c s = .next (s.onPkg f)) (hb : s.pk.onlyBurns (f s.pk)) :
    does c s s.pk.onlyBurns := does_of h hb

theorem does_onPkg_of_laws {f : Pkg → Pkg} (h : exec c s = .next (s.onPkg f)) (hc : (f s.pk).clock = s.pk.clock)
    (hf : (f s.pk).fixed = s.pk.fixed) : does c s s.pk.onlyBurns := does_onPkg h (Pkg.onlyBurns_of_laws hc hf)

theorem does_onPkg_of_grade {f : Pkg → Pkg} (h : exec c s = .next (s.onPkg f))
    (hg : (f s.pk).cl.core.grade = s.pk.cl.core.grade) (hf : (f s.pk).fixed = s.pk.fixed) : does c s s.pk.onlyBurns :=
  does_onPkg h (Pkg.onlyBurns_of_grade hg hf)

theorem does_onPkg_of_keeps {f : Pkg → Pkg} (h : exec c s = .next (s.onPkg f)) (hc : (f s.pk).clock = s.pk.clock)
    (hk : s.pk.keeps (f s.pk)) : does c s s.pk.onlyBurns :=
  does_onPkg h (Pkg.onlyBurns_of_keeps (Pkg.grade_of_clock hc) hk)

theorem does_onClus {f : Clus → Clus} (h : exec c s = .next (s.onClus f)) (hc : (f s.pk.cl).clock = s.pk.cl.clock) :
    does c s s.pk.onlyBurns := does_onPkg h (Pkg.onlyBurns_onClus hc)

end Does

/-- Every command answers a next state with the queue as it was, the fused grade kept and the fuses only burnt. -/
theorem exec_onlyBurns (c : Instr) (s : State) : does c s s.pk.onlyBurns := by
  cases c with
  -- The timetable (R10–R43)
  | ttLockstep | circStart | circStop | circSuspend | circResume | circAbort | entryWrite =>
    exact does_onClus rfl (by simp only [Clus.ttLockstep_clock, Clus.circStart_clock, Clus.circStop_clock,
      Clus.circSuspend_clock, Clus.circResume_clock, Clus.circAbort_clock, Clus.entryWrite_clock])
  | regionClockGate | timePinFall | postArrive | remoteReleaseArrive | turnChange =>
    exact does_onPkg_of_laws rfl
      (by simp only [Pkg.clockGate_clock, Pkg.pinFall_clock, Pkg.sig0Arrive_clock, Pkg.turnChange_clock])
      (by simp only [Pkg.clockGate_fixed, Pkg.pinFall_fixed, Pkg.sig0Arrive_fixed, Pkg.turnChange_fixed])
  | departure part =>
    refine does_onPkg rfl ?_
    split
    · exact Pkg.onlyBurns_of_grade s.pk.departPackage_grade s.pk.departPackage_fixed
    · exact Pkg.onlyBurns_of_laws (s.pk.departPart_clock _) (s.pk.departPart_fixed _)
  | closeJudgement part =>
    refine does_onPkg rfl ?_
    split
    · exact Pkg.onlyBurns_of_grade s.pk.closePackage_grade s.pk.closePackage_fixed
    · exact Pkg.onlyBurns_of_laws (s.pk.closeRegion_clock _) (s.pk.closeRegion_fixed _)
  | closeEnd part =>
    refine does_onPkg rfl ?_
    split
    · exact Pkg.onlyBurns_of_grade s.pk.closeEndPackage_grade s.pk.closeEndPackage_fixed
    · exact Pkg.onlyBurns_of_laws (s.pk.closeEndRegion_clock _) (s.pk.closeEndRegion_fixed _)
  | commit part =>
    refine does_onPkg rfl ?_
    split
    · exact Pkg.onlyBurns_of_grade s.pk.commitPackage_grade s.pk.commitPackage_fixed
    · exact Pkg.onlyBurns_of_laws (s.pk.commitPart_clock _) (s.pk.commitPart_fixed _)
  | guardSignalSend part =>
    refine does_onPkg rfl ?_
    split
    · exact Pkg.onlyBurns_of_grade (s.pk.setCycle_grade _) (s.pk.setCycle_fixed _)
    · exact Pkg.onlyBurns_of_laws (s.pk.signalSend_clock _) (s.pk.signalSend_fixed _)
  | pointsSwap =>
    have hswap : s.pk.onlyBurns s.pk.swapTick := Pkg.onlyBurns_of_grade s.pk.swapTick_grade s.pk.swapTick_fixed
    have hpoll : s.pk.swapTick.onlyBurns s.pk.swapTick.devPoll :=
      Pkg.onlyBurns_of_laws (Pkg.devPoll_clock _) (Pkg.devPoll_fixed _)
    exact does_onPkg rfl (Pkg.onlyBurns_trans hswap hpoll)
  | throughRebind => exact does_onPkg_of_grade rfl (Pkg.throughRebind_grade _) (by
      simp only [Pkg.bindNext_fixed, Pkg.cutBind_fixed, Pkg.fixed_onClus, Pkg.fixed_onCore])
  | guardClockStep => exact does_onPkg_of_grade rfl (Pkg.clockStep_grade _) (Pkg.clockStep_fixed _)
  -- The M-core (R78–R104)
  | mload | mloadComplete | mma | mmas | mdrain | msync | mchk | outputRowArrive | rowCheck | mcMarginClr | mcCapClr |
    mcCntClr | mcSgClear | arrayFlip | checkFlip =>
    exact does_onClus rfl (by simp only [Clus.mload_clock, Clus.mloadComplete_clock, Clus.mma_clock, Clus.mmas_clock,
      Clus.mdrain_clock, Clus.msync_clock, Clus.mchk_clock, Clus.outputRow_clock, Clus.rowCheck_clock, Clus.mcMarginClr_clock,
      Clus.mcCapClr_clock, Clus.mcCntClr_clock, Clus.mcSgClear_clock, Clus.mcFlip_clock])
  -- V-cores and S-cores (R105–R130)
  | vop | vld | vst | vgath | vscat | vsync | lockstepMismatch | lsFlip | tstlo | tsthi | tfld | tissue | ttry | tqdepth |
    queueRoomResume | msend | msendt | msendnb | msendtnb | blockingSendResume | tsig | twaitc | syncCounterResume | tend |
    mret | throughArriveResume | tbwait | tbset | tbread | tabletTargetWrite | windowLoad | windowStore | fence | csrRead |
    ecall | ebreak | illegalInstruction =>
    exact does_onClus rfl (by simp only [Clus.vop_clock, Clus.vld_clock, Clus.vst_clock, Clus.vgath_clock, Clus.vscat_clock,
      Clus.vsync_clock, Clus.lockstepMismatch_clock, Clus.lsFlip_clock, Clus.tstlo_clock, Clus.tsthi_clock, Clus.tfld_clock,
      Clus.tissue_clock, Clus.ttry_clock, Clus.tqdepth_clock, Clus.queueRoom_clock, Clus.msend_clock, Clus.msendt_clock,
      Clus.msendnb_clock, Clus.msendtnb_clock, Clus.sendResume_clock, Clus.tsig_clock, Clus.twaitc_clock,
      Clus.syncResume_clock, Clus.tend_clock, Clus.mret_clock, Clus.arriveResume_clock, Clus.tbwait_clock, Clus.tbset_clock,
      Clus.tbread_clock, Clus.tabletTargetWrite_clock, Clus.loadInstr_clock, Clus.storeInstr_clock, Clus.sFence_clock,
      Clus.csrRead_clock, Clus.ecall_clock, Clus.ebreak_clock, Clus.illegal_clock])
  | tbarrive =>
    exact does_onPkg_of_laws rfl
      (by simp only [Pkg.onClus_clock, Pkg.cl_clock, Clus.tbarrive_clock, Pkg.lineFlush_clock])
      (by simp only [Pkg.fixed_onClus, Pkg.lineFlush_fixed])
  -- The shunting array (R131–R164)
  | saload | saloadComplete | sasel | configSelectDone | sabind | sarun | sasync | tileFire | stepUnitResult | passComplete |
    saStall | saLockstep | bpClr | stallClr | saCapClr | aluFlip | parityFlip =>
    exact does_onClus rfl (by simp only [Clus.saload_clock, Clus.saloadComplete_clock, Clus.sasel_clock,
      Clus.selectDone_clock, Clus.sabind_clock, Clus.sarun_clock, Clus.sasync_clock, Clus.tileFire_clock,
      Clus.stepResult_clock, Clus.passComplete_clock, Clus.saStall_clock, Clus.saFault_clock, Clus.onCore_clock,
      Clus.core_clock, Core.zero_clock, Core.setFld_clock])
  -- The stores (R165–R191)
  | regionDescriptorWrite | scrubRead | scrubCtrlWrite | xstCntClr | xstCapClr | bankClr | stCeFlip | stUeFlip =>
    exact does_onClus rfl (by simp only [Clus.descWrite_clock, Clus.scrubRead_clock, Clus.scrubCtrl_clock,
      Clus.xstCntClr_clock, Clus.xstCapClr_clock, Clus.bankClr_clock, Clus.stFlip_clock])
  | fill | copy | copyAcc | storeOpComplete | homeFlush =>
    exact does_onPkg_of_laws rfl
      (by simp only [Pkg.storeOp_clock, Pkg.opComplete_clock, Pkg.homeFlush_clock])
      (by simp only [Pkg.storeOp_fixed, Pkg.opComplete_fixed, Pkg.homeFlush_fixed])
  -- Up Line, Down Line, points tables (R205–R237)
  | refusalNotice | lnNoProgress | lineClearArm | crcFlip | retryKill | epochFlip =>
    exact does_onClus rfl (by simp only [Clus.refusalNotice_clock, Clus.lnNoProgress_clock, Clus.onCore_clock,
      Clus.core_clock, Core.lcArm_clock, Core.lnArm_clock])
  | read | write | readReply | completion | groupMcast | maskMcast | bridgeLaneRepair | lineClearHold | lineClearArrive |
    routeDrainArrive =>
    exact does_onPkg_of_laws rfl
      (by simp only [Pkg.arrive_clock, Pkg.readPacket_clock, Pkg.writePacket_clock, Pkg.replyPacket_clock,
        Pkg.completionPacket_clock, Pkg.groupMcast_clock, Pkg.maskMcast_clock, Pkg.badPacket_clock, Pkg.failed_clock,
        Pkg.bridgeRepair_clock, Pkg.lcHold_clock, Pkg.lcArrive_clock, Pkg.drainArrive_clock, implies_true,
        apply_ite Pkg.clock, ite_self])
      (by simp only [Pkg.arrive_fixed, Pkg.readPacket_fixed, Pkg.writePacket_fixed, Pkg.replyPacket_fixed,
        Pkg.completionPacket_fixed, Pkg.groupMcast_fixed, Pkg.maskMcast_fixed, Pkg.badPacket_fixed, Pkg.failed_fixed,
        Pkg.bridgeRepair_fixed, Pkg.lcHold_fixed, Pkg.lcArrive_fixed, Pkg.drainArrive_fixed, implies_true,
        apply_ite Pkg.fixed, ite_self])
  | flitCrcError f =>
    cases f with
    | line g o pk f => exact does_onPkg_of_laws rfl (Pkg.flitCrc_clock _ _ _ _ _) (Pkg.flitCrc_fixed _ _ _ _ _)
    | tablet c t => exact does_onClus rfl (Clus.tabletFlit_clock _ _ _)
    | root i => exact does_onClus rfl (Clus.rootFlit_clock _ _)
    | signal g => exact does_onClus rfl (Core.sigRetry_clock _ _)
  | lnCntClr =>
    exact does_onPkg_of_laws rfl
      (by simp only [Pkg.onNet_clock, Pkg.onClus_clock, Clus.onCore_clock, Core.zero_clock, Clus.core_clock, Pkg.cl_clock])
      (by simp only [Pkg.fixed_onNet, Pkg.fixed_onClus])
  -- Message channels (R238–R253)
  | messageArrive | heldMessagePlace | dropNotice | handlerDispatch | msgStall | channelWrite | msgCntClr | fenceDrop =>
    exact does_onClus rfl (by simp only [Clus.messageArrive_clock, Clus.heldPlace_clock, Clus.dropNotice_clock,
      Clus.dispatch_clock, Clus.msgStall_clock, Clus.channelWrite_clock, Clus.msgCntClr_clock, Clus.fenceDropArm_clock])
  -- DMA and HBM (R254–R274)
  | hbCntClr | hbCapClr | hbCeFlip | hbUeFlip =>
    exact does_onClus rfl (by simp only [Clus.onCore_clock, Clus.core_clock, Core.zero_clock, Core.setFld_clock])
  | move | mcast | dmaMaskMcast | descriptorComplete | patrolScrub | hbRehomeGo | rehomeSwap | pcFault | marginMeasure |
    cowBufferDrain | cutComplete | fallback =>
    exact does_onPkg_of_laws rfl
      (by simp only [Pkg.transfer_clock, Pkg.descComplete_clock, Pkg.patrolScrub_clock, Pkg.rehomeGo_clock,
        Pkg.rehomeSwap_clock, Pkg.pcFault_clock, Pkg.marginMeasure_clock, Pkg.cowDrain_clock, Pkg.cutComplete_clock,
        Pkg.fallback_clock])
      (by simp only [Pkg.transfer_fixed, Pkg.descComplete_fixed, Pkg.patrolScrub_fixed, Pkg.rehomeGo_fixed,
        Pkg.rehomeSwap_fixed, Pkg.pcFault_fixed, Pkg.marginMeasure_fixed, Pkg.cowDrain_fixed, Pkg.cutComplete_fixed,
        Pkg.fallback_fixed])
  | refresh => exact ⟨s.pk, rfl, Pkg.onlyBurns_refl s.pk⟩
  -- The fabric (R275–R315)
  | trainingCodeWord | trainingStepComplete | trainingLimit | redetect | alignmentCodeWord | codeWordReceive |
    linkControlFlit | laneDrop | laneRejoin | hello | helloAck | helloTimer | helloTimeout | bye | nak |
    quarantineBackoffEnd | wr | wrCpl | rd | rdRpl | collData | collDig | collAck | collTimeout | stop | stopAbort |
    ltArrive | ltDone | timeReq | timeReqTimer | timeMasterTimeout | takeoverAnn | drainDone | fbNodeWrite | retrain |
    unquarantine | fbCntClr | fbCwUe | vsumFlip =>
    exact does_onPkg_of_laws rfl
      (by simp only [Pkg.trainWord_clock, Pkg.stepDone_clock, Pkg.stepLimit_clock, Pkg.redetect_clock, Pkg.alignWord_clock,
        Pkg.codeWord_clock, Pkg.control_clock, Pkg.salDrain_clock, Pkg.laneDrop_clock, Pkg.laneRejoin_clock,
        Pkg.takeFrame_clock, Pkg.hello_clock, Pkg.helloAcked_clock, Pkg.helloTimer_clock, Pkg.helloTimeout_clock,
        Pkg.bye_clock, Pkg.nak_clock, Pkg.unquarantine_clock, Pkg.window_clock, Pkg.windowAnswer_clock, Pkg.collData_clock,
        Pkg.collDig_clock, Pkg.collAck_clock, Pkg.collTimeout_clock, Pkg.stopFrame_clock, Pkg.stopAbort_clock,
        Pkg.ltArrive_clock, Pkg.ltDone_clock, Pkg.timeReq_clock, Pkg.timeReqTimer_clock, Pkg.masterTimeout_clock,
        Pkg.takeoverAnn_clock, Pkg.drainDoneFrame_clock, Pkg.nodeWrite_clock, Pkg.retrain_clock, Pkg.onCore_clock,
        Clus.core_clock, Pkg.cl_clock, Core.zero_clock, Pkg.onFab_clock, Core.setFld_clock, apply_ite Pkg.clock, ite_self,
        implies_true])
      (by simp only [Pkg.trainWord_fixed, Pkg.stepDone_fixed, Pkg.stepLimit_fixed, Pkg.redetect_fixed, Pkg.alignWord_fixed,
        Pkg.codeWord_fixed, Pkg.control_fixed, Pkg.salDrain_fixed, Pkg.laneDrop_fixed, Pkg.laneRejoin_fixed,
        Pkg.takeFrame_fixed, Pkg.hello_fixed, Pkg.helloAcked_fixed, Pkg.helloTimer_fixed, Pkg.helloTimeout_fixed,
        Pkg.bye_fixed, Pkg.nak_fixed, Pkg.unquarantine_fixed, Pkg.window_fixed, Pkg.windowAnswer_fixed, Pkg.collData_fixed,
        Pkg.collDig_fixed, Pkg.collAck_fixed, Pkg.collTimeout_fixed, Pkg.stopFrame_fixed, Pkg.stopAbort_fixed,
        Pkg.ltArrive_fixed, Pkg.ltDone_fixed, Pkg.timeReq_fixed, Pkg.timeReqTimer_fixed, Pkg.masterTimeout_fixed,
        Pkg.takeoverAnn_fixed, Pkg.drainDoneFrame_fixed, Pkg.nodeWrite_fixed, Pkg.retrain_fixed, Pkg.fixed_onCore,
        Pkg.fixed_onFab, apply_ite Pkg.fixed, ite_self, implies_true])
  | timeSync p t =>
    exact does_onPkg rfl (Pkg.onlyBurns_takeFrame fun x =>
      Pkg.onlyBurns_of_grade (Pkg.timeSync_grade x _ _) (Pkg.timeSync_fixed x _ _))
  | timeRsp p t =>
    exact does_onPkg rfl (Pkg.onlyBurns_takeFrame fun x =>
      Pkg.onlyBurns_of_grade (Pkg.timeRsp_grade x _ _) (Pkg.timeRsp_fixed x _ _))
  | laneKill =>
    exact does_onPkg_of_laws rfl
      (by split <;> simp only [Pkg.laneDrop_clock, Pkg.onCore_clock, Core.setFld_clock, Clus.core_clock, Pkg.cl_clock])
      (by split <;> simp only [Pkg.laneDrop_fixed, Pkg.fixed_onCore])
  -- The Attach Link (R316–R330)
  | salRetry | rdShared | rdOwn | rdUncached | wrFull | wrPartial | wb | evict | snpInv | snpShare | cmp | grantS | grantE |
    snpI | snpS | line | atSnpTimeout | atCplTimeout | emulatedWrite | logApply | secMbxGo | shadowRefresh | doorbell =>
    exact does_onPkg_of_laws rfl
      (by simp only [Pkg.salRetry_clock, Pkg.hostRead_clock, Pkg.hostRdUncached_clock, Pkg.hostWr_clock, Pkg.hostWb_clock,
        Pkg.hostEvict_clock, Pkg.snooped_clock, Pkg.cmp_clock, Pkg.grant_clock, Pkg.snoopAnswer_clock, Pkg.lineData_clock,
        Pkg.snpTimeout_clock, Pkg.cplTimeout_clock, Pkg.emuWrite_clock, Pkg.logApply_clock, Pkg.mbxGo_clock,
        Pkg.shadowRefresh_clock, Pkg.doorbell_clock, apply_ite Pkg.clock, ite_self])
      (by simp only [Pkg.salRetry_fixed, Pkg.hostRead_fixed, Pkg.hostRdUncached_fixed, Pkg.hostWr_fixed, Pkg.hostWb_fixed,
        Pkg.hostEvict_fixed, Pkg.snooped_fixed, Pkg.cmp_fixed, Pkg.grant_fixed, Pkg.snoopAnswer_fixed, Pkg.lineData_fixed,
        Pkg.snpTimeout_fixed, Pkg.cplTimeout_fixed, Pkg.emuWrite_fixed, Pkg.logApply_fixed, Pkg.mbxGo_fixed,
        Pkg.shadowRefresh_fixed, Pkg.doorbell_fixed, apply_ite Pkg.fixed, ite_self])
  | commandFetch => exact does_onPkg_of_keeps rfl (Pkg.commandFetch_clock _ _ _) (Pkg.commandFetch_keeps _ _ _)
  -- Job commands (R339)
  | jobCreate | jobLoad | jobStart | jobSuspend | jobResume | jobStop | jobAbort | jobCheckpoint | jobRestore | jobDestroy |
    alloc | free =>
    exact does_onPkg_of_laws rfl
      (by simp only [Pkg.jobCreate_clock, Pkg.jobLoad_clock, Pkg.jobStart_clock, Pkg.jobSuspend_clock, Pkg.jobResume_clock,
        Pkg.jobStop_clock, Pkg.jobAbort_clock, Pkg.jobCheckpoint_clock, Pkg.jobRestore_clock, Pkg.jobDestroy_clock,
        Pkg.alloc_clock, Pkg.free_clock])
      (by simp only [Pkg.jobCreate_fixed, Pkg.jobLoad_fixed, Pkg.jobStart_fixed, Pkg.jobSuspend_fixed, Pkg.jobResume_fixed,
        Pkg.jobStop_fixed, Pkg.jobAbort_fixed, Pkg.jobCheckpoint_fixed, Pkg.jobRestore_fixed, Pkg.jobDestroy_fixed,
        Pkg.alloc_fixed, Pkg.free_fixed])
  -- Device commands (R341)
  | nop | setNode | takeover | groupSet | routeSet | windowSet | attachSet | stopGroup | diagRun | powerStateIdle |
    powerStateLaidUp | powerCap | resetComputeDomain | resetDie | resetFullRecovery | trainRecord | fwExchange | drillSet |
    hostCompletionRecord | errorRecord | forceTbusy | snpMute | atCwUe =>
    exact does_onPkg_of_laws rfl
      (by simp only [Pkg.nopCmd_clock, Pkg.setNodeCmd_clock, Pkg.takeoverCmd_clock, Pkg.groupSetCmd_clock,
        Pkg.routeSetCmd_clock, Pkg.windowSetCmd_clock, Pkg.attachSetCmd_clock, Pkg.stopGroupCmd_clock, Pkg.diagCmd_clock,
        Pkg.idleCmd_clock, Pkg.laidUpCmd_clock, Pkg.powerCapCmd_clock, Pkg.resetCmd_clock, Pkg.resetDieCmd_clock,
        Pkg.trainRecordCmd_clock, Pkg.fwExchange_clock, Pkg.drillSetCmd_clock, Pkg.hostCompletion_clock,
        Pkg.errorRecord_clock, Pkg.onCore_clock, Clus.core_clock, Pkg.cl_clock, Core.setFld_clock])
      (by simp only [Pkg.nopCmd_fixed, Pkg.setNodeCmd_fixed, Pkg.takeoverCmd_fixed, Pkg.groupSetCmd_fixed,
        Pkg.routeSetCmd_fixed, Pkg.windowSetCmd_fixed, Pkg.attachSetCmd_fixed, Pkg.stopGroupCmd_fixed, Pkg.diagCmd_fixed,
        Pkg.idleCmd_fixed, Pkg.laidUpCmd_fixed, Pkg.powerCapCmd_fixed, Pkg.resetCmd_fixed, Pkg.resetDieCmd_fixed,
        Pkg.trainRecordCmd_fixed, Pkg.fwExchange_fixed, Pkg.drillSetCmd_fixed, Pkg.hostCompletion_fixed,
        Pkg.errorRecord_fixed, Pkg.fixed_onCore])
  | powerStateRunning => exact does_onPkg_of_keeps rfl (Pkg.runningCmd_clock _ _) (Pkg.runningCmd_keeps _ _)
  -- Relief, rotation, drills (R344–R380)
  | biCapClr | pilotFlip | sliceFlip =>
    exact does_onClus rfl (by simp only [Clus.onCore_clock, Clus.core_clock, Core.zero_clock, Core.setFld_clock])
  | clusterRelief | copierComplete | dieRelief | rotationStart | rotationPrepTimeout | testSliceEnd | rotateNow | abortRot |
    biMirrorWrite | biFenceWrite | drillInjection =>
    exact does_onPkg_of_laws rfl
      (by simp only [Pkg.clusterRelief_clock, Pkg.copierComplete_clock, Pkg.dieRelief_clock, Pkg.rotationTick_clock,
        Pkg.prepTimeout_clock, Pkg.testSlice_clock, Pkg.rotateNow_clock, Pkg.abortRot_clock, Pkg.mirrorWrite_clock,
        Pkg.fenceWrite_clock, Pkg.drillTick_clock])
      (by simp only [Pkg.clusterRelief_fixed, Pkg.copierComplete_fixed, Pkg.dieRelief_fixed, Pkg.rotationTick_fixed,
        Pkg.prepTimeout_fixed, Pkg.testSlice_fixed, Pkg.rotateNow_fixed, Pkg.abortRot_fixed, Pkg.mirrorWrite_fixed,
        Pkg.fenceWrite_fixed, Pkg.drillTick_fixed])
  | biCntClr =>
    exact does_onPkg_of_laws rfl
      (by simp only [Pkg.onBi_clock, Pkg.onCore_clock, iter_clock_Core, Core.setFld_clock, implies_true, Core.zero_clock,
        Clus.core_clock, Pkg.cl_clock])
      (by simp only [Pkg.fixed_onBi, Pkg.fixed_onCore])
  -- Bring-up and resets (R381–R406, R436–R439)
  | vauxRise | pgoodDeassert | analogSliceEnd | fwlGo | fwlVerifyDone | startupTestEnd | hbmTrainingPhaseEnd |
    fabricTrainingEnd | hbmWaveEnd | waveTimeout | resetNHold =>
    exact does_onPkg_of_laws rfl
      (by simp only [Pkg.vauxRise_clock, Pkg.pgoodDeassert_clock, Pkg.analogSlice_clock, Pkg.fwlGo_clock, Pkg.fwlVerify_clock,
        Pkg.startupEnd_clock, Pkg.hbmPhase_clock, Pkg.fabricEnd_clock, Pkg.hbmWave_clock, Pkg.waveTimeout_clock,
        Pkg.resetHold_clock])
      (by simp only [Pkg.vauxRise_fixed, Pkg.pgoodDeassert_fixed, Pkg.analogSlice_fixed, Pkg.fwlGo_fixed, Pkg.fwlVerify_fixed,
        Pkg.startupEnd_fixed, Pkg.hbmPhase_fixed, Pkg.fabricEnd_fixed, Pkg.hbmWave_fixed, Pkg.waveTimeout_fixed,
        Pkg.resetHold_fixed])
  | pgoodAssert g => exact does_onPkg rfl (Pkg.onlyBurns_of_keeps (Pkg.pgoodAssert_grade _ _) (Pkg.pgoodAssert_keeps _ _))
  | pgoodTimeout i mV =>
    have hrail : s.pk.onlyBurns (s.pk.pgoodTimeout i.val mV.toNat) :=
      Pkg.onlyBurns_of_laws (Pkg.pgoodTimeout_clock _ _ _) (Pkg.pgoodTimeout_fixed _ _ _)
    have hgood (x : Pkg) : x.onlyBurns x.powerGood := Pkg.onlyBurns_of_keeps (Pkg.powerGood_grade x) (Pkg.powerGood_keeps x)
    exact does_onPkg rfl (Pkg.onlyBurns_ite (Pkg.onlyBurns_trans hrail (hgood _)) hrail)
  | quadrantJoin => exact does_onPkg_of_keeps rfl (Pkg.quadJoin_clock _ _) (Pkg.quadJoin_keeps _ _)
  | resetN temps => exact does_onPkg_of_grade rfl (Pkg.resetRelease_grade _ temps) (Pkg.resetRelease_fixed _ temps)
  -- Firmware (R407–R433)
  | fwCrash | heartbeatMiss | fwRestart | fwTakeover | exchangeSwitch | ttProgressCheck | hangResponse | heartbeatAdvance |
    dumpAccessTimeout | dumpLimitExpiry | dumpComplete | recoveryPhase | resetEscalate | recoveryTimeout | hbStop =>
    exact does_onPkg_of_laws rfl
      (by simp only [Pkg.fwCrash_clock, Pkg.heartbeatMiss_clock, Pkg.fwRestart_clock, Pkg.fwTakeover_clock,
        Pkg.exchSwitch_clock, Pkg.ttProgress_clock, Pkg.hang_clock, Pkg.heartbeat_clock, Pkg.dumpTimeout_clock,
        Pkg.dumpEnd_clock, Pkg.recoveryPhase_clock, Pkg.resetEscalate_clock, Pkg.recoveryTimeout_clock, Pkg.hbStopArm_clock])
      (by simp only [Pkg.fwCrash_fixed, Pkg.heartbeatMiss_fixed, Pkg.fwRestart_fixed, Pkg.fwTakeover_fixed,
        Pkg.exchSwitch_fixed, Pkg.ttProgress_fixed, Pkg.hang_fixed, Pkg.heartbeat_fixed, Pkg.dumpTimeout_fixed,
        Pkg.dumpEnd_fixed, Pkg.recoveryPhase_fixed, Pkg.resetEscalate_fixed, Pkg.recoveryTimeout_fixed, Pkg.hbStopArm_fixed])
  | probationEnd => exact does_onPkg_of_keeps rfl (Pkg.probationEnd_clock _) (Pkg.probationEnd_keeps _)
  -- Power and clocks (R434–R456)
  | pwCntClr =>
    exact does_onClus rfl (by simp only [Clus.onCore_clock, Clus.core_clock, Core.zero_clock])
  | powerCapLoop | thermalLoop | thermtrip | pllUnlock | regulatorFault | wakeTimeout | tempBias =>
    exact does_onPkg_of_laws rfl
      (by simp only [Pkg.capLoop_clock, Pkg.thermalLoop_clock, Pkg.thermtrip_clock, Pkg.pllUnlock_clock,
        Pkg.regulatorFault_clock, Pkg.wakeFail_clock, Pkg.tempBias_clock])
      (by simp only [Pkg.capLoop_fixed, Pkg.thermalLoop_fixed, Pkg.thermtrip_fixed, Pkg.pllUnlock_fixed,
        Pkg.regulatorFault_fixed, Pkg.wakeFail_fixed, Pkg.tempBias_fixed])
  | wakeStepDone => exact does_onPkg_of_keeps rfl (Pkg.wakeStep_clock _) (Pkg.wakeStep_keeps _)
  -- Security (R457–R472)
  | trngHealthFail | bypass | idcode | samplePreload | extest | dbgChal | dbgLock | nonceLapse | getVersion |
    getCapabilities | negotiateAlgorithms | getDigests | getCertificate | challenge | getMeasurements =>
    exact does_onPkg_of_laws rfl
      (by simp only [Pkg.trngFail_clock, Pkg.jtag_clock, Pkg.onSec_clock, Pkg.extest_clock, Pkg.dbgChal_clock,
        Pkg.dbgLock_clock, Pkg.nonceLapse_clock, Pkg.spdmVersion_clock, Pkg.spdmCaps_clock, Pkg.spdmAlgs_clock,
        Pkg.spdmDigests_clock, Pkg.spdmCert_clock, Pkg.spdmChallenge_clock, Pkg.spdmMeas_clock, implies_true, id_eq])
      (by simp only [Pkg.trngFail_fixed, Pkg.jtag_fixed, Pkg.fixed_onSec, Pkg.extest_fixed, Pkg.dbgChal_fixed,
        Pkg.dbgLock_fixed, Pkg.nonceLapse_fixed, Pkg.spdmVersion_fixed, Pkg.spdmCaps_fixed, Pkg.spdmAlgs_fixed,
        Pkg.spdmDigests_fixed, Pkg.spdmCert_fixed, Pkg.spdmChallenge_fixed, Pkg.spdmMeas_fixed, implies_true, id_eq,
        and_self])
  | dbgResp => exact does_onPkg_of_keeps rfl (Pkg.dbgResp_clock _ _) (Pkg.dbgResp_keeps _ _)
  -- Register pages (R473–R492)
  | errClr | firstClr | evtClr | timeTickLoRead =>
    exact does_onClus rfl (by simp only [Clus.onCore_clock, Clus.core_clock, Core.onPage_clock, Core.errClr_clock,
      Core.firstClr_clock, Core.evtClr_clock, Core.timeLatch_clock, implies_true])
  | registerWrite | rv64imcInstruction | bringupStepLimit =>
    exact does_onPkg_of_laws rfl
      (by simp only [Pkg.regWrite_clock, Pkg.onClus_clock, Pkg.cl_clock, Clus.rvStep_clock, Pkg.lineFlush_clock,
        Pkg.stepLimitBu_clock])
      (by simp only [Pkg.regWrite_fixed, Pkg.fixed_onClus, Pkg.lineFlush_fixed, Pkg.stepLimitBu_fixed])
  | memoryWindowWrite page =>
    exact does_onPkg_of_laws rfl (by split <;> simp only [Pkg.windowWrite_clock])
      (by split <;> simp only [Pkg.windowWrite_fixed])
  | vauxFall => exact does_onPkg rfl (Pkg.onlyBurns_of_keeps (Pkg.vauxFall_grade _) (Pkg.vauxFall_keeps _))
  | resetNAssert => exact does_onPkg_of_grade rfl (Pkg.resetAssert_grade _) (Pkg.resetAssert_fixed _)
  | unlockedLevelInstruction => exact does_onPkg_of_keeps rfl (Pkg.levelInstr_clock _ _) (Pkg.levelInstr_keeps _ _)

/-- Settles O2: every command answers a next state, with the fused grade kept and the fuses only burnt. -/
theorem everyCommandCompletesAndOnlyBurnsFuses : Obligations.EveryCommandCompletesAndOnlyBurnsFuses := exec_onlyBurns

end Sys2Proof.Machine

namespace Sys2Proof.Machine

/-! ## How a command that runs a change completes -/

/-- A command that runs a change of the clusters completes with what the change gives. -/
theorem doesClus_onClus {c : Instr} {s : State} {f : Clus → Clus} {x : Clus} {P : Clus → Prop}
    (h : exec c s = .next (s.onClus f)) (e : f s.pk.cl = x) (p : P x) : doesClus c s P :=
  doesClus_of (m := f s.pk.cl) h (e.symm ▸ p)

/-- A command that runs a change that changes nothing leaves the state. -/
theorem next_onClus {c : Instr} {s : State} {f : Clus → Clus} (h : exec c s = .next (s.onClus f)) (e : f s.pk.cl = s.pk.cl) :
    exec c s = .next s :=
  h.trans (congrArg (fun x => Host.Outcome.next { s with pk := { s.pk with cl := x } }) e)

/-- A command that runs a change of the clusters which changes the shared part only. -/
theorem doesCore_onClus {c : Instr} {s : State} {f : Clus → Clus} {x : Core} {P : Core → Prop}
    (h : exec c s = .next (s.onClus f)) (e : f s.pk.cl = { s.pk.cl with core := x }) (p : P x) : doesCore c s P :=
  doesCore_of (h.trans (congrArg (fun m => Host.Outcome.next { s with pk := { s.pk with cl := m } }) e)) p

/-- A command that runs a change of the shared part completes with what the change gives. -/
theorem doesCore_onCore {c : Instr} {s : State} {f : Core → Core} {P : Core → Prop}
    (h : exec c s = .next (s.onClus (·.onCore f))) (p : P (f s.pk.cl.core)) : doesCore c s P :=
  doesCore_onClus h rfl p

/-- A command that runs a change of the package completes with what the change gives. -/
theorem does_of_onPkg {c : Instr} {s : State} {f : Pkg → Pkg} {x : Pkg} {P : Pkg → Prop}
    (h : exec c s = .next (s.onPkg f)) (e : f s.pk = x) (p : P x) : does c s P := does_of (k := f s.pk) h (e.symm ▸ p)

theorem Pkg.onCore_onNet (k : Pkg) (f : Core → Core) (g : NetS → NetS) :
    (k.onCore f).onNet g = { k with cl := { k.cl with core := f k.cl.core }, net := g k.net } := rfl

theorem Pkg.onCore_onFab (k : Pkg) (f : Core → Core) (g : FabS → FabS) :
    (k.onCore f).onFab g = { k with cl := { k.cl with core := f k.cl.core }, fab := g k.fab } := rfl

theorem Pkg.onCore_onBi (k : Pkg) (f : Core → Core) (g : BiS → BiS) :
    (k.onCore f).onBi g = { k with cl := { k.cl with core := f k.cl.core }, bi := g k.bi } := rfl

/-- A table that is the write of one entry has that entry set. -/
theorem ksets_of_eq {α : Type} [DecidableEq α] {d : α} {m n : KMap α} {k : Nat} {v : α} (h : n = kput m d k v) :
    ksets d m n k v := h ▸ ksets_kput d m k v

/-! ## The M-core's load engine (R59, R80, R84, R94, R96) -/

/-! ### Events of a cluster's unit -/

/-- An event recorded only as a cause changes register words and the table of causes. -/
theorem Clus.causeEvent_eq (m : Clus) (clu page : Nat) (f : FailCause) (last4 : Nat) :
    ∃ R F, m.causeEvent clu page f last4 = { m with core := { m.core with regs := R }, tt := { m.tt with fails := F } } := by
  obtain ⟨R, hR⟩ := Core.note_eq m.core page f.code sevCause (m.jobOn clu) (m.detail clu f.code f.busy last4)
  unfold Clus.causeEvent Clus.onCore
  dsimp only
  rw [hR]
  obtain ⟨F, hF⟩ := Clus.fail_eq { m with core := { m.core with regs := R } } clu f
  exact ⟨R, F, hF⟩

/-- A fatal event changes register words, the records and the table of causes. -/
theorem Clus.fatalEvent_eq (m : Clus) (clu page code place last4 : Nat) :
    ∃ R E F, m.fatalEvent clu page code place last4 =
      { m with core := { m.core with regs := R, records := E }, tt := { m.tt with fails := F } } := by
  obtain ⟨R, e, he, -⟩ := Core.record_eq m.core page code sevCont (m.jobOn clu) place (m.detail clu code 0 last4) false
  unfold Clus.fatalEvent Clus.onCore
  dsimp only
  rw [he]
  obtain ⟨F, hF⟩ := Clus.fail_eq { m with core := { m.core with regs := R, records := m.core.records ++ [e] } } clu
    (fatalCause code)
  exact ⟨R, _, F, hF⟩

theorem Clus.fatalEvent_mc (m : Clus) (clu page code place last4 : Nat) :
    (m.fatalEvent clu page code place last4).mc = m.mc := by
  obtain ⟨R, E, F, h⟩ := Clus.fatalEvent_eq m clu page code place last4
  rw [h]

/-- A fatal event fails the cluster's slot without replay. -/
theorem Clus.causes_fatalEvent (m : Clus) (clu page code place last4 : Nat) :
    ∃ f, f ∈ (m.fatalEvent clu page code place last4).causes clu ∧ f.code = code ∧ f.fatal = true :=
  (Clus.causes_fail _ clu (fatalCause code)).1

/-- Poison met by the M-core changes register words and the table of causes. -/
theorem Clus.mPoison_eq (m : Clus) (clu mm : Nat) (w : W128) (row : Nat) :
    ∃ R F, m.mPoison clu mm w row = { m with core := { m.core with regs := R }, tt := { m.tt with fails := F } } := by
  unfold Clus.mPoison
  split
  · exact ⟨_, _, rfl⟩
  · exact Clus.causeEvent_eq _ _ _ _ _

/-! ### The head of a tile queue -/

/-- An instruction with a legal opcode at the head of the queue runs. -/
theorem Clus.mHead_of_opc {m : Clus} {clu mm opc : Nat} {w : W128} {q : List W128} (f : W128 → Clus)
    (hq : m.mQueue clu mm = w :: q) (hw : opcOf w = opc) (h0 : 0 < opc) (h7 : opc < 7) : m.mHead clu mm opc f = f w := by
  unfold Clus.mHead
  simp only [hq]
  rw [if_neg (by omega), if_pos hw]

/-- The head of a queue that leaves it with a fatal event: the slot fails without replay, and buffers and loads stand. -/
theorem Clus.popM_fatalEvent_sets (m : Clus) (clu mm page code place last4 : Nat) :
    let x := (m.popM clu mm).fatalEvent clu page code place last4
    (∃ f, f ∈ x.causes clu ∧ f.code = code ∧ f.fatal = true) ∧ x.mQueue clu mm = (m.mQueue clu mm).tail ∧
      x.mc.load = m.mc.load ∧ x.mc.bufs = m.mc.bufs := by
  refine ⟨Clus.causes_fatalEvent _ _ _ _ _ _, ?_⟩
  unfold Clus.mQueue
  rw [Clus.fatalEvent_mc]
  exact ⟨kget_kput_same _ _ _ _, rfl, rfl⟩

/-! ### What an MLOAD reads -/

/-- Whether the format has a header (R58). -/
def fmtHasHdr (fmt : Nat) : Bool := decide (fmt = 14 ∨ fmt = 15)
/-- The read of the header of the image an MLOAD names. -/
def Clus.mloadHdr (m : Clus) (clu mm : Nat) (w : W128) : List PB × Nat × Clus :=
  m.readOp clu 0 (tf w 112 4) (256 * tf w 96 16) 64 (.own (m.jobOn clu)) mm
/-- The header's bytes. -/
def Clus.mloadHdrBytes (m : Clus) (clu mm : Nat) (w : W128) : List Byte := (m.mloadHdr clu mm w).1.map (·.1)
/-- Whether the format has a header and it is poisoned. -/
def Clus.mloadHdrPois (m : Clus) (clu mm : Nat) (w : W128) : Bool :=
  fmtHasHdr (tf w 116 4) && (m.mloadHdr clu mm w).1.any (·.2)
/-- The cluster after the read of the header, which only a format with one makes. -/
def Clus.mloadMid (m : Clus) (clu mm : Nat) (w : W128) : Clus :=
  if fmtHasHdr (tf w 116 4) then (m.mloadHdr clu mm w).2.2 else m
/-- Extension records of the image. -/
def Clus.mloadExt (m : Clus) (clu mm : Nat) (w : W128) : Nat :=
  if tf w 116 4 = 14 ∧ m.mloadHdrPois clu mm w = false then hdrExt (m.mloadHdrBytes clu mm w) else 0
/-- Whether the image has a row-scale plane. -/
def Clus.mloadRow (m : Clus) (clu mm : Nat) (w : W128) : Bool :=
  decide (tf w 116 4 = 15) && !m.mloadHdrPois clu mm w && hdrRow (m.mloadHdrBytes clu mm w)
/-- The read of the image; the row-scale plane of a quarter with h = 1 is left out (R80). -/
def Clus.mloadRead (m : Clus) (clu mm : Nat) (w : W128) : List PB × Nat × Clus :=
  (m.mloadMid clu mm w).readOp clu 0 (tf w 112 4) (256 * tf w 96 16)
    (imageBytes (tf w 116 4) (m.mloadExt clu mm w) (m.mloadRow clu mm w && decide (tf w 122 1 = 0))) (.own (m.jobOn clu)) mm
/-- The image as it is loaded: a poisoned header as zeros. -/
def Clus.mloadImage (m : Clus) (clu mm : Nat) (w : W128) : List Byte :=
  let raw := (m.mloadRead clu mm w).1.map (·.1)
  if m.mloadHdrPois clu mm w then List.replicate 64 0 ++ raw.drop 64 else raw
/-- The buffer an MLOAD names, as the read of the image leaves it. -/
def Clus.mloadOld (m : Clus) (clu mm : Nat) (w : W128) : MBuf :=
  (m.mloadRead clu mm w).2.2.mBuf clu mm (if tf w 123 1 = 1 then 1 else 0)
/-- The quarter of a T2 buffer that an MLOAD loads. -/
def quarter (w : W128) : Nat := 2 * tf w 122 1 + tf w 121 1
/-- The quarter of a T2 buffer with the other h and the same v. -/
def otherQuarter (w : W128) : Nat := 2 * (1 - tf w 122 1) + tf w 121 1

/-- MLOAD's fields keep R84: reserved bits zero, a format that exists, and h and v only in T2. -/
def mloadFieldsOk (w : W128) : Prop :=
  tf w 120 1 = 0 ∧ tf w 16 80 = 0 ∧ (tf w 116 4 ≠ 15 → tf w 121 2 = 0) ∧ tf w 116 4 ≠ 0 ∧ tf w 116 4 ≠ 6

/-- The start of a load of the image `bs`: the buffer is unusable, the load in progress, the instruction off the queue. -/
def Clus.mloadStart (m : Clus) (clu mm : Nat) (w : W128) (bs : List Byte) (pois : Bool) : Clus :=
  let b := if tf w 123 1 = 1 then 1 else 0
  let m3 := if pois then m.mPoison clu mm w 0xFFFF else m
  let m4 := m3.addShadow clu mm (imageCounts (tf w 116 4) bs)
  let m5 := m4.setMBuf clu mm b
    (if tf w 116 4 = 15 ∧ (m.mBuf clu mm b).fmt = 15 then
      { m.mBuf clu mm b with quads := (m.mBuf clu mm b).quads &&& (15 - 2 ^ quarter w) }
     else { emptyBuf with fmt := tf w 116 4 })
  (m5.setMLoad clu mm (some (w, bs, pois))).popM clu mm

/-- What `mload` reads before the image: the header, and nothing in a format without one. -/
def Clus.mloadFirst (m : Clus) (clu mm : Nat) (w : W128) : List PB × Nat × Clus :=
  if fmtHasHdr (tf w 116 4) then m.mloadHdr clu mm w else ([], 0, m)

section Mload
variable {m : Clus} {clu mm : Nat} {w : W128} {q : List W128}

theorem Clus.mloadFirst_pois : (m.mloadFirst clu mm w).1.any (·.2) = m.mloadHdrPois clu mm w := by
  unfold Clus.mloadFirst Clus.mloadHdrPois
  cases fmtHasHdr (tf w 116 4) <;> simp

theorem Clus.mloadFirst_mid : (m.mloadFirst clu mm w).2.2 = m.mloadMid clu mm w := by
  unfold Clus.mloadFirst Clus.mloadMid
  cases fmtHasHdr (tf w 116 4) <;> simp

theorem Clus.mloadFirst_bytes (h : tf w 116 4 = 14 ∨ tf w 116 4 = 15) :
    (m.mloadFirst clu mm w).1.map (·.1) = m.mloadHdrBytes clu mm w := by
  unfold Clus.mloadFirst Clus.mloadHdrBytes
  rw [if_pos (show fmtHasHdr (tf w 116 4) = true from decide_eq_true h)]

theorem Clus.mloadFirst_ext :
    (if tf w 116 4 = 14 ∧ m.mloadHdrPois clu mm w = false then hdrExt ((m.mloadFirst clu mm w).1.map (·.1)) else 0) =
      m.mloadExt clu mm w :=
  ite_congr rfl (fun h => by rw [Clus.mloadFirst_bytes (.inl h.1)]) (fun _ => rfl)

theorem Clus.mloadFirst_row :
    (decide (tf w 116 4 = 15) && !m.mloadHdrPois clu mm w && hdrRow ((m.mloadFirst clu mm w).1.map (·.1))) =
      m.mloadRow clu mm w := by
  unfold Clus.mloadRow
  by_cases h : tf w 116 4 = 15
  · rw [Clus.mloadFirst_bytes (.inr h)]
  · simp [h]

theorem Clus.mloadImage_eq :
    (if fmtHasHdr (tf w 116 4) = true ∧ m.mloadHdrPois clu mm w = true then
      List.replicate 64 0 ++ ((m.mloadRead clu mm w).1.map (·.1)).drop 64 else (m.mloadRead clu mm w).1.map (·.1)) =
      m.mloadImage clu mm w := by
  unfold Clus.mloadImage
  have h : m.mloadHdrPois clu mm w = true → fmtHasHdr (tf w 116 4) = true := fun h => (Bool.and_eq_true_iff.1 h).1
  exact ite_congr (propext ⟨And.right, fun hp => ⟨h hp, hp⟩⟩) (fun _ => rfl) (fun _ => rfl)

/-- While either M-core of the cluster loads, an MLOAD at the head of the queue waits. -/
theorem Clus.mload_busy (hq : m.mQueue clu mm = w :: q) (hop : opcOf w = 1)
    (hb : (m.mLoad clu 0).isSome ∨ (m.mLoad clu 1).isSome) : m.mload clu mm = m := by
  unfold Clus.mload
  rw [Clus.mHead_of_opc _ hq hop (by omega) (by omega)]
  exact if_pos hb

section Sound
variable (hq : m.mQueue clu mm = w :: q) (hop : opcOf w = 1) (h0 : m.mLoad clu 0 = none) (h1 : m.mLoad clu 1 = none)
  (hw : mloadFieldsOk w)
  (hfit : m.core.fits clu 0 (tf w 112 4) (tf w 96 16) ((tileBytes (tf w 116 4) + 255) / 256) = true)
include hq hop h0 h1 hw hfit

/-- An unpoisoned malformed header takes the MLOAD off the queue and fails the slot (R59). -/
theorem Clus.mload_badHeader (hh : fmtHasHdr (tf w 116 4) = true) (hp : m.mloadHdrPois clu mm w = false)
    (hbad : hdrBad (tf w 116 4) (m.mloadHdrBytes clu mm w) = true) :
    ∃ last4, m.mload clu mm = ((m.mloadHdr clu mm w).2.2.popM clu mm).fatalEvent clu (pageMc clu mm) 0x0222
      (placeUnit clu mm 0) last4 := by
  obtain ⟨ha, hb, hc, hd, he⟩ := hw
  have hh' : tf w 116 4 = 14 ∨ tf w 116 4 = 15 := of_decide_eq_true hh
  simp only [Clus.mloadHdrPois, hh, Bool.true_and, Clus.mloadHdrBytes, Clus.mloadHdr] at hp hbad ⊢
  unfold Clus.mload
  rw [Clus.mHead_of_opc _ hq hop (by omega) (by omega)]
  dsimp only
  rw [if_neg (by simp [h0, h1]), if_neg (by omega), if_neg (by simp [hfit])]
  simp only [hh', decide_true, if_true, Bool.true_and, hp, hbad, Bool.not_false]
  exact ⟨_, rfl⟩

/-- Where header and records are sound or the header is poisoned, and no neighbouring quarter has another ROWSCALE, an MLOAD
starts the load of its image (R59, R84). -/
theorem Clus.mload_loads
    (hhdr : fmtHasHdr (tf w 116 4) = true → m.mloadHdrPois clu mm w = false →
      hdrBad (tf w 116 4) (m.mloadHdrBytes clu mm w) = false)
    (hfit2 : (m.mloadMid clu mm w).core.fits clu 0 (tf w 112 4) (tf w 96 16)
      ((imageBytes (tf w 116 4) (m.mloadExt clu mm w) (m.mloadRow clu mm w) + 255) / 256) = true)
    (hgfp : tf w 116 4 = 14 → gfpBad (m.mloadRead clu mm w).1 (m.mloadExt clu mm w) = false ∧
      (hdrPolicy (m.mloadImage clu mm w) = 2 →
        ∀ k, k < 2048 → (extOfBlock (m.mloadImage clu mm w) (m.mloadExt clu mm w) k).length < 2))
    (hrow : tf w 116 4 = 15 → m.mloadHdrPois clu mm w = false → (m.mloadOld clu mm w).fmt = 15 →
      bitAt (BitVec.ofNat 4 (m.mloadOld clu mm w).quads) (otherQuarter w) = true →
      imgByte (kget (m.mloadOld clu mm w).imgs [] (otherQuarter w)) 0 % 16 = 15 →
      hdrRow (kget (m.mloadOld clu mm w).imgs [] (otherQuarter w)) = hdrRow (m.mloadImage clu mm w)) :
    m.mload clu mm = (m.mloadRead clu mm w).2.2.mloadStart clu mm w (m.mloadImage clu mm w)
      ((m.mloadRead clu mm w).1.any (·.2)) := by
  obtain ⟨ha, hb, hc, hd, he⟩ := hw
  unfold Clus.mload
  rw [Clus.mHead_of_opc _ hq hop (by omega) (by omega)]
  dsimp only
  rw [if_neg (by simp [h0, h1]), if_neg (by omega), if_neg (by simp [hfit])]
  simp only [← fmtHasHdr.eq_1, ← Clus.mloadHdr.eq_1, ← Clus.mloadFirst.eq_1, Clus.mloadFirst_pois,
    Clus.mloadFirst_mid, Clus.mloadFirst_ext, Clus.mloadFirst_row, ← Clus.mloadRead.eq_1, Clus.mloadImage_eq,
    ← otherQuarter.eq_1, ← Clus.mloadOld.eq_1]
  have hgood : ¬ (fmtHasHdr (tf w 116 4) && !m.mloadHdrPois clu mm w &&
      hdrBad (tf w 116 4) ((m.mloadFirst clu mm w).1.map (·.1))) = true := by
    intro h
    simp only [Bool.and_eq_true, Bool.not_eq_true'] at h
    obtain ⟨⟨hh, hp⟩, hbad⟩ := h
    rw [Clus.mloadFirst_bytes (of_decide_eq_true hh), hhdr hh hp] at hbad
    exact Bool.false_ne_true hbad
  have hrecords : ¬ (decide (tf w 116 4 = 14) && gfpBad (m.mloadRead clu mm w).1 (m.mloadExt clu mm w)) = true := by
    intro h
    simp only [Bool.and_eq_true, decide_eq_true_eq] at h
    exact Bool.false_ne_true ((hgfp h.1).1.symm.trans h.2)
  have hpolicy : ¬ (decide (tf w 116 4 = 14) && decide (hdrPolicy (m.mloadImage clu mm w) = 2) &&
      (List.range 2048).any fun b =>
        decide (2 ≤ (extOfBlock (m.mloadImage clu mm w) (m.mloadExt clu mm w) b).length)) = true := by
    intro h
    simp only [Bool.and_eq_true, decide_eq_true_eq, List.any_eq_true, List.mem_range] at h
    obtain ⟨⟨hf, hp⟩, b, hb, hlen⟩ := h
    exact absurd ((hgfp hf).2 hp b hb) (by omega)
  have hclash : ¬ (decide (tf w 116 4 = 15 ∧ (m.mloadOld clu mm w).fmt = 15) &&
      bitAt (BitVec.ofNat 4 (m.mloadOld clu mm w).quads) (otherQuarter w) && !m.mloadHdrPois clu mm w &&
      decide (imgByte (kget (m.mloadOld clu mm w).imgs [] (otherQuarter w)) 0 % 16 = 15 ∧
        hdrRow (kget (m.mloadOld clu mm w).imgs [] (otherQuarter w)) ≠ hdrRow (m.mloadImage clu mm w))) = true := by
    intro h
    simp only [Bool.and_eq_true, decide_eq_true_eq, Bool.not_eq_true'] at h
    obtain ⟨⟨⟨⟨hf, hold⟩, hbit⟩, hp⟩, hbyte, hne⟩ := h
    exact hne (hrow hf hp hold hbit hbyte)
  rw [if_neg hgood, if_neg (by simp [hfit2]), if_neg hrecords, if_neg hpolicy, if_neg hclash]
  rfl
end Sound
/-- What the start of a load sets, and that it leaves the stores and the other units alone. -/
theorem Clus.mloadStart_sets (m : Clus) (clu mm : Nat) (w : W128) (bs : List Byte) (pois : Bool) :
    let b : Nat := if tf w 123 1 = 1 then 1 else 0
    let x := m.mloadStart clu mm w bs pois
    ksets [] m.mc.queue x.mc.queue (mKey clu mm) (m.mQueue clu mm).tail ∧
      ksets none m.mc.load x.mc.load (mKey clu mm) (some (w, bs, pois)) ∧
      ksets emptyBuf m.mc.bufs x.mc.bufs (2 * mKey clu mm + b)
        (if tf w 116 4 = 15 ∧ (m.mBuf clu mm b).fmt = 15 then
          { m.mBuf clu mm b with quads := (m.mBuf clu mm b).quads &&& (15 - 2 ^ quarter w) }
         else { emptyBuf with fmt := tf w 116 4 }) ∧
      x.st = m.st ∧ x.vc = m.vc ∧ x.sc = m.sc ∧ x.sa = m.sa ∧ x.msg = m.msg ∧ x.tab = m.tab := by
  have hpois : ∃ R F, (if pois then m.mPoison clu mm w 0xFFFF else m) =
      { m with core := { m.core with regs := R }, tt := { m.tt with fails := F } } := by
    split
    · exact Clus.mPoison_eq _ _ _ _ _
    · exact ⟨_, _, rfl⟩
  obtain ⟨R, F, h⟩ := hpois
  unfold Clus.mloadStart
  dsimp only
  rw [h]
  exact ⟨ksets_of_eq rfl, ksets_of_eq rfl, ksets_of_eq rfl, rfl, rfl, rfl, rfl, rfl, rfl⟩
end Mload

/-! ### The end of a load -/

/-- A weight buffer with a loaded image in it: in T2 the quarter joins those of the same buffer (R94, R96). -/
def MBuf.loaded (old : MBuf) (w : W128) (bs : List Byte) (pois : Bool) : MBuf :=
  let q := if tf w 116 4 = 15 then quarter w else 0
  if tf w 116 4 = 15 ∧ old.fmt = 15 then
    { valid := true, fmt := 15, quads := old.quads ||| 2 ^ q, imgs := kput old.imgs [] q bs,
      poison := (old.poison &&& (15 - 2 ^ q)) ||| (if pois then 2 ^ q else 0) }
  else { valid := true, fmt := tf w 116 4, quads := if tf w 116 4 = 15 then 2 ^ q else 0, imgs := kput [] [] q bs,
         poison := if pois then 2 ^ q else 0 }

theorem MBuf.loaded_valid (old : MBuf) (w : W128) (bs : List Byte) (pois : Bool) : (old.loaded w bs pois).valid = true := by
  unfold MBuf.loaded; dsimp only; split <;> rfl

theorem MBuf.loaded_fmt (old : MBuf) (w : W128) (bs : List Byte) (pois : Bool) : (old.loaded w bs pois).fmt = tf w 116 4 := by
  unfold MBuf.loaded
  dsimp only
  split
  · next h => exact h.1.symm
  · rfl

/-- An image of a format without quarters is image 0 of its buffer, and marks it as poisoned where it is. -/
theorem MBuf.loaded_whole (old : MBuf) {w : W128} (bs : List Byte) (pois : Bool) (h : tf w 116 4 ≠ 15) :
    kget (old.loaded w bs pois).imgs [] 0 = bs ∧ ((old.loaded w bs pois).poison ≠ 0 ↔ pois = true) := by
  unfold MBuf.loaded
  simp only [h, false_and, if_false]
  exact ⟨kget_kput_same _ _ _ _, by cases pois <;> simp⟩

/-- Bit i of a mask with bit i set. -/
theorem bitAt_or_two_pow (x : Nat) {i n : Nat} (h : i < n) : bitAt (BitVec.ofNat n (x ||| 2 ^ i)) i = true := by
  simp only [bitAt, BitVec.getLsbD_ofNat, h, decide_true, Nat.testBit_or, Nat.testBit_two_pow_self, Bool.or_true, Bool.and_true]

theorem quarter_lt (w : W128) : quarter w < 4 := by
  have h1 := bitsAt_lt w 122 1
  have h2 := bitsAt_lt w 121 1
  unfold quarter tf
  omega

/-- An image of T2 is the image of its quarter, which is then among the buffer's quarters. -/
theorem MBuf.loaded_quarter (old : MBuf) {w : W128} (bs : List Byte) (pois : Bool) (h : tf w 116 4 = 15) :
    kget (old.loaded w bs pois).imgs [] (quarter w) = bs ∧
      bitAt (BitVec.ofNat 4 (old.loaded w bs pois).quads) (quarter w) = true := by
  unfold MBuf.loaded
  simp only [h, if_true, true_and]
  split
  · exact ⟨kget_kput_same _ _ _ _, bitAt_or_two_pow _ (quarter_lt w)⟩
  · refine ⟨kget_kput_same _ _ _ _, ?_⟩
    rw [← Nat.zero_or (2 ^ quarter w)]
    exact bitAt_or_two_pow 0 (quarter_lt w)

/-- With no load in progress a completion does nothing. -/
theorem Clus.mloadComplete_none {m : Clus} {clu mm : Nat} (h : m.mLoad clu mm = none) : m.mloadComplete clu mm = m := by
  unfold Clus.mloadComplete; rw [h]

/-- A completion ends the load and puts its image into the buffer. -/
theorem Clus.mloadComplete_some {m : Clus} {clu mm : Nat} {w : W128} {bs : List Byte} {pois : Bool}
    (h : m.mLoad clu mm = some (w, bs, pois)) :
    m.mloadComplete clu mm =
      (m.setMBuf clu mm (tf w 123 1) ((m.mBuf clu mm (tf w 123 1)).loaded w bs pois)).setMLoad clu mm none := by
  unfold Clus.mloadComplete; rw [h]; rfl

/-- The buffer just set, whatever becomes of the load. -/
theorem Clus.mBuf_setMBuf_setMLoad (m : Clus) (clu mm b : Nat) (x : MBuf) (l : Option (W128 × List Byte × Bool)) :
    ((m.setMBuf clu mm b x).setMLoad clu mm l).mBuf clu mm b = x := kget_kput_same _ _ _ _

/-- Settles O16: by the outcomes of `mload` (wait, malformed header, start) and of `mloadComplete` (none, some). -/
theorem mloadFillsTheBufferItNames : Obligations.MloadFillsTheBufferItNames := by
  unfold Obligations.MloadFillsTheBufferItNames
  intro s u i m
  refine ⟨fun w q hq hop hb => next_onClus rfl (Clus.mload_busy hq hop hb), ?_, fun h =>
    next_onClus rfl (Clus.mloadComplete_none h), ?_⟩
  · intro w q fmt own hasHdr h hb hp m1 ext row read raw bs b old q4 other hq hop h0 h1 hr hz hv hf0 hf6 hfit
    have hw : mloadFieldsOk w := ⟨hr, hz, hv, hf0, hf6⟩
    refine ⟨fun hh hpois hbad => ?_, fun hgood hfit2 hgfp hrow => ?_⟩
    · obtain ⟨last4, hx⟩ := Clus.mload_badHeader hq hop h0 h1 hw hfit hh hpois hbad
      exact doesClus_onClus rfl hx (Clus.popM_fatalEvent_sets _ _ _ _ _ _ _)
    · exact doesClus_onClus rfl (Clus.mload_loads hq hop h0 h1 hw hfit hgood hfit2 hgfp hrow) (Clus.mloadStart_sets _ _ _ _ _ _)
  · intro w bs pois fmt n part h
    refine doesClus_onClus rfl (Clus.mloadComplete_some h)
      ⟨rfl, ksets_of_eq rfl, fun j hj => kget_kput_ne _ _ _ (Ne.symm hj), ?_⟩
    rw [Clus.mBuf_setMBuf_setMLoad]
    exact ⟨MBuf.loaded_valid _ _ _ _, MBuf.loaded_fmt _ _ _ _, MBuf.loaded_whole _ _ _, MBuf.loaded_quarter _ _ _⟩

/-! ## Clear and injection commands of the register pages (R74, R103, R163, R185, R190, R477, R480, R489, R491) -/

/-! ### Clearing and arming -/

/-- A command that clears a run of words. -/
theorem doesCore_clears_zero {c : Instr} {s : State} {page off n : Nat}
    (h : exec c s = .next (s.onClus (·.onCore (·.zero page off n)))) (h4 : off % 4 = 0) :
    doesCore c s (fun y => s.pk.cl.core.clears y page (wordsFrom off n)) :=
  doesCore_onCore h (Core.clears_zero _ _ _ _ h4)

/-- A command that sets one bit of ERR_INJECT, on a page without a selector. -/
theorem doesCore_arms_bit {c : Instr} {s : State} {page b : Nat}
    (h : exec c s = .next (s.onClus (·.onCore (·.setFld page 0x28 b 1 1)))) (hb : b < 8) :
    doesCore c s (fun y => s.pk.cl.core.arms y page b 0 0) :=
  doesCore_onCore h (Core.arms_setFld0 _ _ _ hb)

/-- A command that sets the selector and then one bit of ERR_INJECT. -/
theorem doesCore_arms_sel {c : Instr} {s : State} {page b len sel : Nat}
    (h : exec c s = .next (s.onClus (·.onCore (fun x => (x.setFld page 0x28 8 len sel).setFld page 0x28 b 1 1))))
    (hb : b < 8) (hl : 8 + len ≤ 32) (hs : sel < 2 ^ len) :
    doesCore c s (fun y => s.pk.cl.core.arms y page b len sel) :=
  doesCore_onCore h (Core.arms_setFld _ _ _ _ _ hb hl hs)

/-- Two runs of words of one page cleared one after the other. -/
theorem Core.clears_zero_zero (c : Core) (page off n off' n' : Nat) (h : off % 4 = 0) (h' : off' % 4 = 0) :
    c.clears ((c.zero page off n).zero page off' n') page (wordsFrom off n ++ wordsFrom off' n') :=
  Core.clears_append (Core.clears_zero _ _ _ _ h) (Core.clears_zero _ _ _ _ h')

/-! ### The safeguard counters (R74) -/

/-- In Guard, with a slot of the cluster not yet committed. -/
def Clus.slotOpen (m : Clus) (clu : Nat) : Prop :=
  m.core.inGuard = true ∧ ∃ n r, m.runOrPilot clu = some (n, r) ∧ r.due = false

theorem Clus.mcSgClear_of_open {m : Clus} {clu : Nat} (mm : Nat) (h : m.slotOpen clu) :
    m.mcSgClear clu mm = { m with mc := { m.mc with sgClear := kput m.mc.sgClear false (mKey clu mm) true } } := by
  obtain ⟨hguard, n, r, hrun, hdue⟩ := h
  unfold Clus.mcSgClear
  rw [if_pos (by simp [hguard, hrun, hdue])]

theorem Clus.mcSgClear_of_not_open {m : Clus} {clu : Nat} (mm : Nat) (h : ¬ m.slotOpen clu) :
    m.mcSgClear clu mm = m.sgZero clu mm := by
  unfold Clus.mcSgClear
  refine if_neg fun h' => h ?_
  obtain ⟨hguard, hrun⟩ := Bool.and_eq_true_iff.1 h'
  split at hrun
  · next n r hr => exact ⟨hguard, n, r, hr, by simpa using hrun⟩
  · exact absurd hrun Bool.false_ne_true

/-! ### The bank counts of a store (R185) -/

theorem Clus.bankClr_eq (m : Clus) (clu st : Nat) :
    m.bankClr clu st = { m with core := m.core.zero (pageSt clu st) 0x80 32,
                                st := { m.st with wear := kclear m.st.wear (32 * (3 * clu + st)) 32 } } := by
  unfold Clus.bankClr Clus.onCore
  dsimp only

/-! ### The BI unit's counts -/

/-- The upper half of `n` words of a page from `off` on, 8 bytes apart, zero. -/
def Core.zeroHigh (c : Core) (page off n : Nat) : Core := iter n (fun i x => x.setFld page (off + 8 * i) 16 16 0) c

theorem Core.zeroHigh_succ (c : Core) (page off n : Nat) :
    c.zeroHigh page off (n + 1) = (c.zeroHigh page off n).setFld page (off + 8 * n) 16 16 0 := rfl

theorem Core.zeroHigh_eq (c : Core) (page off n : Nat) : ∃ r, c.zeroHigh page off n = { c with regs := r } := by
  induction n with
  | zero => exact ⟨_, rfl⟩
  | succ n ih => exact eq_core_trans ih ⟨_, rfl⟩

/-- A word that is none of those loses nothing. -/
theorem Core.rd_zeroHigh_ne (c : Core) (page off n p o : Nat) (h : ∀ i, i < n → regKey p o ≠ regKey page (off + 8 * i)) :
    (c.zeroHigh page off n).rd p o = c.rd p o := by
  induction n with
  | zero => rfl
  | succ n ih =>
    rw [Core.zeroHigh_succ, Core.rd_setFld_ne _ _ _ _ (Ne.symm (h n (by omega)))]
    exact ih fun i hi => h i (by omega)

/-- Each of those words loses its upper half and keeps its lower one. -/
theorem Core.fld_zeroHigh (c : Core) (page off n i : Nat) (h : i < n) :
    (c.zeroHigh page off n).fld page (off + 8 * i) 16 16 = 0 ∧
      (c.zeroHigh page off n).fld page (off + 8 * i) 0 16 = c.fld page (off + 8 * i) 0 16 := by
  induction n with
  | zero => omega
  | succ n ih =>
    rw [Core.zeroHigh_succ]
    by_cases hi : i = n
    · subst hi
      refine ⟨Core.fld_setFld_same _ _ _ _ _ _ (by omega), ?_⟩
      rw [Core.fld_setFld_ne _ _ _ _ _ _ _ _ (.inl (by omega))]
      exact congrArg (bitsAt · 0 16) (Core.rd_zeroHigh_ne _ _ _ _ _ _ fun j hj => regKey_off_ne (by omega))
    · have hne : regKey page (off + 8 * n) ≠ regKey page (off + 8 * i) := regKey_off_ne (by omega)
      unfold Core.fld
      rw [Core.rd_setFld_ne _ _ _ _ hne]
      exact ih (by omega)

/-- BI_CNT_CLR's words: BI_ROTATIONS and BI_MISMATCHES zero, and the counts of the five clusters. -/
theorem Core.biCounts_cleared (c : Core) (page : Nat) :
    let y := (c.zero page 0x5C 2).zeroHigh page 0x80 5
    c.only y ([0x5C, 0x60, 0x80, 0x88, 0x90, 0x98, 0xA0].map (regKey page)) ∧ y.rd page 0x5C = 0 ∧ y.rd page 0x60 = 0 ∧
      ∀ i, i < 5 → y.fld page (0x80 + 8 * i) 16 16 = 0 ∧ y.fld page (0x80 + 8 * i) 0 16 = c.fld page (0x80 + 8 * i) 0 16 := by
  intro y
  have hkeep (p o : Nat) (h : ∀ i, i < 5 → regKey p o ≠ regKey page (0x80 + 8 * i)) :
      y.rd p o = (c.zero page 0x5C 2).rd p o := Core.rd_zeroHigh_ne _ _ _ _ _ _ h
  have hzero (o : Nat) (h : o = 0x5C ∨ o = 0x60) : y.rd page o = 0 := by
    rw [hkeep _ _ fun i hi => regKey_off_ne (by omega), Core.rd_zero, if_pos (by unfold regKey; omega)]
  refine ⟨⟨?_, fun p o h => ?_⟩, hzero _ (.inl rfl), hzero _ (.inr rfl), fun i hi => ?_⟩
  · obtain ⟨r, hr⟩ := eq_core_trans (Core.zero_eq c page 0x5C 2) (Core.zeroHigh_eq _ page 0x80 5)
    show y = { c with regs := y.regs }
    rw [show y = { c with regs := r } from hr]
  · simp only [List.map_cons, List.map_nil, List.mem_cons, List.not_mem_nil, or_false, not_or, regKey] at h
    rw [hkeep _ _ fun i hi => ?_, Core.rd_zero, if_neg (by unfold regKey; omega)]
    unfold regKey
    omega
  · obtain ⟨hhi, hlo⟩ := Core.fld_zeroHigh (c.zero page 0x5C 2) page 0x80 5 i hi
    refine ⟨hhi, hlo.trans (congrArg (bitsAt · 0 16) ?_)⟩
    rw [Core.rd_zero, if_neg (by unfold regKey; omega)]

/-! ### Pages (R473, R480, R491) -/

theorem Core.onPage_some (c : Core) {page : Nat} (f : Core → Core) (h : (pageKind page).isSome = true) :
    c.onPage page f = f c := if_pos h

theorem Core.onPage_none (c : Core) {page : Nat} (f : Core → Core) (h : (pageKind page).isSome = false) :
    c.onPage page f = c := if_neg (by simp [h])

/-- EVT_CLR clears EVT_COUNT, and on the global page SBX_SEV_COUNT. -/
theorem Core.evtClr_clears (c : Core) (page : Nat) :
    c.clears (c.evtClr page) page (if page = 0 then [0x2C, 0x90, 0x94, 0x98, 0x9C, 0xA0] else [0x2C]) := by
  unfold Core.evtClr
  split
  · next h => subst h; exact Core.clears_zero_zero c 0 0x2C 1 0x90 5 rfl rfl
  · exact Core.clears_zero c page 0x2C 1 rfl

section OnPage
variable {c : Instr} {s : State} {page : Nat} {f : Core → Core}
  (h : exec c s = .next (s.onClus (·.onCore (fun x => x.onPage page f))))
include h

theorem doesCore_onPage {P : Core → Prop} (hk : (pageKind page).isSome = true) (p : P (f s.pk.cl.core)) : doesCore c s P :=
  doesCore_onCore h (by rw [Core.onPage_some _ _ hk]; exact p)

theorem next_onPage (hk : (pageKind page).isSome = false) : exec c s = .next s :=
  next_onClus h (congrArg (fun x => { s.pk.cl with core := x }) (Core.onPage_none _ _ hk))
end OnPage

/-! ### Injections that take effect at once -/

/-- An injection that fires at once: its selector is set and its bit reads 0. -/
theorem Core.only_fired (c : Core) (page len sel : Nat) (hl : 8 + len ≤ 32) (hs : sel < 2 ^ len) :
    let y := (c.setFld page 0x28 8 len sel).setFld page 0x28 0 1 0
    y.fld page 0x28 8 len = sel ∧ y.fld page 0x28 0 1 = 0 ∧ c.only y [regKey page 0x28] := by
  refine ⟨?_, Core.fld_setFld_same _ _ _ _ _ _ (by omega), rfl, fun p o h => ?_⟩
  · rw [Core.fld_setFld_ne _ _ _ _ _ _ _ _ (.inr (by omega)), Core.fld_setFld_same _ _ _ _ _ _ hl, Nat.mod_eq_of_lt hs]
  · have hne : regKey page 0x28 ≠ regKey p o := fun e => h (by simp [e])
    rw [Core.rd_setFld_ne _ _ _ _ hne, Core.rd_setFld_ne _ _ _ _ hne]

/-- LANE_KILL of a port that is up drops its first lane. -/
theorem execLaneKill_up {p : Port} {s : State} {lane : Nat} {rest : List Nat} (hs : (s.pk.link p).step = .up)
    (hl : (s.pk.link p).lanes = lane :: rest) : execLaneKill p s = .next { s with pk := s.pk.laneDrop p lane true } := by
  simp only [execLaneKill, State.onPkg, hs, hl]

/-- LANE_KILL of a port that is not up arms bit 1. -/
theorem execLaneKill_armed {p : Port} {s : State} (hs : (s.pk.link p).step ≠ .up) :
    execLaneKill p s = .next (s.onClus (·.onCore (·.setFld (pageFb p) 0x28 1 1 1))) := by
  simp only [execLaneKill, State.onPkg]
  split
  · next hup _ => exact absurd hup hs
  · rfl

/-! ### Injections that wait -/

/-- A line's injection with a link named. -/
theorem Core.lnArm_arms (c : Core) (g : Nat) {link b : Nat} (hb : b < 8) (h : link < 10) :
    c.arms (c.lnArm g link b) (pageLn g) b 4 link := by
  unfold Core.lnArm
  rw [if_pos h]
  exact Core.arms_setFld _ _ _ _ _ hb (by omega) (by omega)

/-- LINK 10 to 15 names no link, so only the selector is set. -/
theorem Core.lnArm_setsFld (c : Core) (g b : Nat) {link : Nat} (h : 10 ≤ link) (hl : link < 16) :
    c.setsFld (c.lnArm g link b) (pageLn g) 0x28 8 4 link := by
  unfold Core.lnArm
  rw [if_neg (by omega)]
  exact Core.setsFld_setFld _ _ _ _ _ _ (by omega) hl

/-- A store bank that exists is armed. -/
theorem Clus.stFlip_bank (m : Clus) (clu : Nat) {st bank : Nat} (b : Nat) (h : bank < storeBanks st) :
    m.stFlip clu st bank b =
      m.onCore (fun c => (c.setFld (pageSt clu st) 0x28 8 5 bank).setFld (pageSt clu st) 0x28 b 1 1) := if_pos h

theorem Clus.stFlip_none (m : Clus) (clu : Nat) {st bank : Nat} (b : Nat) (h : storeBanks st ≤ bank) :
    m.stFlip clu st bank b = m := if_neg (by omega)

/-- Settles O11: by what each command runs, block by block. -/
theorem clearAndInjectionCommandsChangeExactlyTheirWords :
    Obligations.ClearAndInjectionCommandsChangeExactlyTheirWords := by
  unfold Obligations.ClearAndInjectionCommandsChangeExactlyTheirWords
  refine ⟨fun s => ⟨fun u m => ?mcore, fun u => ?array, fun u st => ?store, fun h => ?hbm, fun rg => ?capture, ?pw,
    fun g => ?line, fun p => ?port, fun rg => ?bi, fun p hp => ?page, fun p hp => ?noPage⟩,
    fun s => ⟨fun u m => ?armMcore, fun u => ?armCluster, fun u t => ?armArray, fun u st b => ?armStore, fun g l => ?armLine,
      fun h p => ?armHbm, fun p => ?armPort, ?armAt0, ?armAt1, ?armAt2, fun rg => ?armBi, fun x => ?hbStop, fun n => ?tempBias,
      fun h p => ?fallback⟩⟩
  case mcore =>
    refine ⟨doesCore_clears_zero (n := 1) rfl rfl, doesCore_clears_zero rfl rfl, doesCore_clears_zero rfl rfl,
      fun hno => ?_, fun hopen => ?_⟩
    · exact doesCore_onClus rfl (Clus.mcSgClear_of_not_open m hno) (Core.clears_zero_zero _ _ _ _ _ _ rfl rfl)
    · exact doesClus_onClus rfl (Clus.mcSgClear_of_open m hopen) ⟨rfl, ksets_of_eq rfl⟩
  case array =>
    exact ⟨doesCore_clears_zero (n := 1) rfl rfl, doesCore_clears_zero rfl rfl, doesCore_clears_zero rfl rfl,
      doesCore_clears_zero rfl rfl⟩
  case store =>
    exact ⟨doesCore_clears_zero rfl rfl, doesCore_clears_zero rfl rfl,
      doesClus_onClus rfl (Clus.bankClr_eq _ _ _) ⟨rfl, Core.clears_zero _ _ _ _ rfl, kget_kclear _ _ _ _⟩⟩
  case hbm => exact ⟨doesCore_clears_zero rfl rfl, doesCore_clears_zero rfl rfl⟩
  case capture => exact doesCore_clears_zero rfl rfl
  case pw => exact doesCore_clears_zero (n := 2) rfl rfl
  case line => exact does_of_onPkg rfl (Pkg.onCore_onNet _ _ _) ⟨rfl, Core.clears_zero _ _ _ _ rfl, kget_kclear _ _ _ _⟩
  case port =>
    exact does_of_onPkg rfl (Pkg.onCore_onFab _ _ _) ⟨rfl, Core.clears_zero_zero _ _ _ _ _ _ rfl rfl, ksets_of_eq rfl⟩
  case bi =>
    obtain ⟨honly, h1, h2, hcounts⟩ := Core.biCounts_cleared s.pk.cl.core (pageBI rg)
    exact does_of_onPkg rfl (Pkg.onCore_onBi _ _ _) ⟨rfl, honly, h1, h2, hcounts, kget_kclear _ _ _ _⟩
  case page =>
    refine ⟨doesCore_onPage rfl hp (Core.clears_zero _ _ _ _ rfl), doesCore_onPage rfl hp (Core.clears_zero _ _ _ _ rfl),
      doesCore_onPage rfl hp ?_⟩
    have h0 : p = 0 ↔ p.toNat = 0 := BitVec.toNat_inj.symm
    simp only [h0]
    exact Core.evtClr_clears _ _
  case noPage => exact ⟨next_onPage rfl hp, next_onPage rfl hp, next_onPage rfl hp⟩
  case armMcore => exact ⟨doesCore_arms_bit rfl (by omega), doesCore_arms_bit rfl (by omega)⟩
  case armCluster =>
    exact ⟨doesCore_arms_bit rfl (by omega), doesCore_arms_bit rfl (by omega), doesCore_arms_bit rfl (by omega),
      doesCore_arms_bit rfl (by omega)⟩
  case armArray =>
    exact ⟨doesCore_arms_sel rfl (by omega) (by omega) t.isLt, doesCore_arms_sel rfl (by omega) (by omega) t.isLt⟩
  case armStore =>
    have harm (i : Nat) (hi : i < 8) :
        s.pk.cl.core.arms _ (pageSt u st) i 5 b := Core.arms_setFld s.pk.cl.core _ i 5 b hi (by omega) b.isLt
    exact ⟨fun hb => ⟨doesCore_onClus rfl (Clus.stFlip_bank _ _ _ hb) (harm 0 (by omega)),
        doesCore_onClus rfl (Clus.stFlip_bank _ _ _ hb) (harm 1 (by omega))⟩,
      fun hb => ⟨next_onClus rfl (Clus.stFlip_none _ _ _ hb), next_onClus rfl (Clus.stFlip_none _ _ _ hb)⟩⟩
  case armLine =>
    refine ⟨fun hl => ⟨doesCore_onCore rfl (Core.lnArm_arms _ g (by omega) hl),
      doesCore_onCore rfl (Core.lnArm_arms _ g (by omega) hl), doesCore_onCore rfl (Core.lnArm_arms _ g (by omega) hl)⟩, ?_⟩
    rintro hl cmd (rfl | rfl | rfl)
    · exact doesCore_onCore rfl (Core.lnArm_setsFld _ g 0 hl l.isLt)
    · exact doesCore_onCore rfl (Core.lnArm_setsFld _ g 1 hl l.isLt)
    · exact doesCore_onCore rfl (Core.lnArm_setsFld _ g 2 hl l.isLt)
  case armHbm =>
    exact ⟨doesCore_arms_sel rfl (by omega) (by omega) p.isLt, doesCore_arms_sel rfl (by omega) (by omega) p.isLt⟩
  case armPort =>
    exact ⟨doesCore_arms_bit rfl (by omega), doesCore_arms_bit rfl (by omega),
      fun hs => doesCore_arms_bit (execLaneKill_armed hs) (by omega), fun lane rest hs hl => does_of (execLaneKill_up hs hl) rfl⟩
  case armAt0 => exact doesCore_arms_bit rfl (by omega)
  case armAt1 => exact doesCore_arms_bit rfl (by omega)
  case armAt2 => exact doesCore_arms_bit rfl (by omega)
  case armBi => exact ⟨doesCore_arms_bit rfl (by omega), doesCore_arms_bit rfl (by omega)⟩
  case hbStop =>
    obtain ⟨hsel, hbit, honly⟩ := Core.only_fired s.pk.cl.core s.pk.cl.core.sbx 3 x (by omega) (by omega)
    exact does_of rfl ⟨rfl, ksets_of_eq rfl, hsel, hbit, honly⟩
  case tempBias =>
    obtain ⟨hsel, hbit, honly⟩ := Core.only_fired s.pk.cl.core pagePw 8 n (by omega) n.isLt
    exact does_of rfl ⟨rfl, ksets_of_eq rfl, hsel, hbit, honly⟩
  case fallback => exact does_of rfl ⟨_, Core.setsFld_setFld _ _ _ _ _ _ (by omega) p.isLt, rfl⟩

end Sys2Proof.Machine
